-- ==== Sys2Proof/Word.lean ====
section
/-!
DEFINITION. The words of the A880: bytes, the 32-bit register word, and the 64-bit double word.
Only the type names stand here; the arithmetic over them is in Sys2Proof/Machine/SMap.lean, where a repair can reach it.
-/

namespace Sys2Proof

/-- A byte of memory. -/
abbrev Byte := BitVec 8

/-- A register: 32 bits, little-endian in memory (00_scope, "Registers"). -/
abbrev Word := BitVec 32

/-- A 64-bit value: a memory word, a path code, a time. -/
abbrev DWord := BitVec 64

end Sys2Proof
end

