-- ==== Sys2Proof/Types.lean ====
section
/-!
DEFINITION. What the commands carry: requests and their initiators, the fields of the tile commands, and what an event
brings from outside.  Each type cites the rule that gives it.
-/

namespace Sys2Proof

/-! ## Initiators and requests (01_architecture R34; 02_dagiesk_table R55) -/

/-- Who issues a bus access.  The initiator ID of each port is table-sourced (R55), so the model names the port and
`Machine.iidOf` gives its number. -/
inductive Initiator where
  | ac (n : Fin 16)          -- application cores
  | hc (n : Fin 3)           -- Heath cores
  | miller
  | clusterCore (n : Fin 8)
  | clusterDma (n : Fin 8)
  | engine (n : Fin 64)
  | rasterCore (n : Fin 8)
  | rasterControl
  | ispControl
  | isp
  | csi (n : Fin 4)
  | ssp (n : Fin 4)
  | display (n : Fin 4)
  | frameGuard
  | fusion
  | pcie (n : Fin 2)
  | hedgerow
  | can (n : Fin 12)
  | xspi
  | audio
  | heathDma
  | semaphoreUnit            -- the atomic unit of WIR0
  | firmwareLog
  | iommu
  | debugModule
  deriving DecidableEq, Repr

/-- The units that send error records (R441) and that ownership, isolation and resets name. -/
inductive UnitId where
  | te (n : Fin 64)
  | cluster (n : Fin 8)
  | miller
  | rasterCore (n : Fin 8)
  | rasterControl
  | display (n : Fin 4)
  | csi (n : Fin 4)
  | isp
  | ssp (n : Fin 4)
  | frameGuard
  | fusion
  | mrc
  | dmc (n : Fin 8)
  | slc
  | iommu
  | guard
  | wgd
  | weir (n : Fin 2)
  | tsw
  | can (n : Fin 12)
  | pcie (n : Fin 2)
  | xspi
  | audio (n : Fin 8)
  | timebase
  | timetable
  | ac (n : Fin 16)
  | hc (n : Fin 3)
  | heath                    -- tightly coupled memory and DMA
  | erm
  | therm
  | pwr
  | clk
  | boot
  | fwl
  deriving DecidableEq, Repr, Inhabited

/-- The header a request carries on Millrace (R34). -/
structure Req where
  ini : Initiator
  w   : Bool        -- world: true = secure
  cl  : Fin 16      -- class label
  ctx : Fin 32      -- context, 0 for none
  deriving DecidableEq, Repr

/-! ## Fields of Dagiesk records that the manual does not print (02_dagiesk_table R51) -/

/-- A UNIT record. -/
structure UnitRow where
  cls       : Fin 0xFFFE       -- after 0x0001, the class of the tensor engines
  instance_ : BitVec 16
  router    : Byte
  regBase   : DWord
  regSize   : Word
  clkDom    : Nat
  pwrDom    : Fin 41
  features  : Word
  deriving DecidableEq, Repr, Inhabited

/-- A MEMORY record. -/
structure MemoryRow where
  ecc     : Byte
  guard   : Byte
  regions : Byte
  banks   : BitVec 16
  server  : Fin 182            -- the unit that serves it
  deriving DecidableEq, Repr, Inhabited

/-- A CLOCK_DOMAIN record. -/
structure ClockRow where
  source  : Fin 9
  power   : Fin 41
  deriving DecidableEq, Repr, Inhabited

/-- An INTERRUPT record. -/
structure IrqRow where
  irqFirst : BitVec 16
  irqCount : BitVec 16
  wired    : Bool
  raiser   : Fin 182           -- the unit that raises it
  deriving DecidableEq, Repr, Inhabited

/-- A HIERARCHY_PATH record of level 2. -/
structure ArrayRow where
  unit     : Fin 182
  number   : Fin 255           -- of the array or bank within the unit
  children : BitVec 16
  deriving DecidableEq, Repr, Inhabited

/-! ## Tile commands (04_tensor_engine R99, R103) -/

/-- The common header of a tile command without its opcode (R99). -/
structure TileHdr where
  tag  : Byte
  arym : BitVec 4
  sync : Bool
  deriving DecidableEq, Repr

/-- Fields of LDW (R103). -/
structure LdwArgs where
  src    : BitVec 17
  fmt    : BitVec 5
  scale  : BitVec 2
  sparse : Bool
  scl    : BitVec 17
  tstr   : BitVec 17
  deriving DecidableEq, Repr

/-- Fields of LDA (R103). -/
structure LdaArgs where
  src   : BitVec 17
  fmt   : BitVec 5
  scale : BitVec 2
  vlen  : Bool
  m     : BitVec 16
  scl   : BitVec 17
  pitch : BitVec 16
  deriving DecidableEq, Repr

/-- Fields of MMA and MMAS (R103). -/
structure MmaArgs where
  acc  : BitVec 12
  astr : BitVec 12
  m    : BitVec 16
  init : Bool
  acct : Bool
  deriving DecidableEq, Repr

/-- Fields of VOP without OP, which the row names (R103). -/
structure VopArgs where
  dst  : BitVec 17
  srca : BitVec 17
  srcb : BitVec 17
  srcc : BitVec 17
  n    : BitVec 12
  lane : BitVec 2
  rnd  : BitVec 2
  bsel : Bool
  cfmt : BitVec 5
  deriving DecidableEq, Repr

/-- Fields of VRED without KIND, which the row names (R103). -/
structure VredArgs where
  dst  : BitVec 17
  src  : BitVec 17
  n    : BitVec 16
  axis : Bool
  lane : BitVec 2
  deriving DecidableEq, Repr

/-- Fields of QNT (R103). -/
structure QntArgs where
  dst    : BitVec 17
  src    : BitVec 17
  scl    : BitVec 17
  nb     : BitVec 16
  dfmt   : BitVec 5
  dscale : BitVec 2
  rnd    : BitVec 2
  sfmt   : Bool
  deriving DecidableEq, Repr

/-- Fields of DQN (R103). -/
structure DqnArgs where
  dst    : BitVec 17
  src    : BitVec 17
  scl    : BitVec 17
  nb     : BitVec 16
  sfmt   : BitVec 5
  sscale : BitVec 2
  dfmt   : BitVec 2
  deriving DecidableEq, Repr

/-- Fields of STO (R103). -/
structure StoArgs where
  acc    : BitVec 12
  nr     : BitVec 12
  dst    : BitVec 17
  scl    : BitVec 17
  dfmt   : BitVec 5
  dscale : BitVec 2
  rnd    : BitVec 2
  clr    : Bool
  acct   : Bool
  dpitch : BitVec 16
  deriving DecidableEq, Repr

/-- Fields of DMA (R103). -/
structure DmaArgs where
  desc : BitVec 17
  ch   : BitVec 2
  deriving DecidableEq, Repr

/-- Fields of WAIT and SIG (R103). -/
structure SemArgs where
  sem : BitVec 5
  n   : BitVec 16
  deriving DecidableEq, Repr

/-- Fields of FENCE (R103). -/
structure FenceArgs where
  scope : BitVec 2
  rd    : Bool
  deriving DecidableEq, Repr

/-- Fields of CHK mode 0x0 (R103); mode 0x1 takes only ARYM. -/
structure ChkArgs where
  src : BitVec 17
  ng  : BitVec 16
  exp : BitVec 17
  deriving DecidableEq, Repr

/-- Fields of KVL without MODE, which the row names (R103). -/
structure KvlArgs where
  win  : BitVec 2
  seq  : BitVec 12
  ntok : BitVec 23
  deriving DecidableEq, Repr

/-- Where a hardware fault inside an array strikes (R118): the MAC cells, adder trees and accumulator of a column, by what they
add too much (column 32 is the checksum column); a bit of the weight buffer, which stays wrong as long as the tile is there; the
activation path from a column on; an activation before it enters the array; the scaling, rounding or accumulator row of a column;
the residue tree of a column and the comparator, which find no mismatch; a weight before it enters the array. -/
inductive ArrayFault where
  | mac (col : Fin 33) (delta : Rat)
  | weight (row col : Fin 32) (bit : Fin 32)
  | entered (row col : Fin 32) (code : Word)
  | path (k : Fin 32) (col : Fin 33) (code : Word)
  | operand (k : Fin 32) (code : Word)
  | result (col : Fin 32) (code : Word)
  | residue (col : Fin 33)
  | comparator
  deriving DecidableEq, Repr

/-- A hardware fault inside an array during a command: the array, the pass it strikes in, and where (R112 to R119).  It is an
input: without one the array computes what its rules say. -/
structure ArrayUpset where
  ary   : Fin 4
  vec   : Nat         -- vector index within the command
  blk   : Bool        -- logical block of an MMAS pass
  fault : ArrayFault
  deriving DecidableEq, Repr

/-- The operations of VOP (R105), by OP. -/
inductive VopOp where
  | add | sub | mul | fma | max | min | abs | neg | div | sqrt | exp2 | log2 | rcp | rsqrt | tanh
  | cvt | cmplt | sel | and | or | xor | shl | shr | trn | cpy | lds
  deriving DecidableEq, Repr

/-- The reductions of VRED (R107), by KIND. -/
inductive VredKind where
  | sum | sumsq | max | min | amax | argmax
  deriving DecidableEq, Repr

/-! ## What the other commands carry -/

/-- RESP of a response (11_memory_and_bandwidth R323). -/
inductive Resp where
  | okay | ue | decode | guard | link
  deriving DecidableEq, Repr

/-- TYPE of an access in the guard and error logs (R528, R390). -/
inductive AccType where
  | read | write | fetch | amo
  deriving DecidableEq, Repr

/-- A Sync of a domain instance with its Follow_Up, as the port received it (R243): times in 2⁻⁸ ns. -/
structure SyncMsg where
  rx         : Nat      -- receive timestamp before RXLAT is taken off
  origin     : Nat      -- preciseOriginTimestamp
  correction : Int      -- correctionField
  deriving DecidableEq, Repr

/-- What an Announce says (R241; PRESUMED after IEEE 802.1AS-2020, log entry 74): the grandmaster's priority1, clockQuality (class, accuracy,
variance), priority2 and identity, stepsRemoved, and who sends it. -/
structure Announce where
  prio1      : Byte
  quality    : Word
  prio2      : Byte
  gm         : DWord
  steps      : BitVec 16
  sender     : DWord
  senderPort : BitVec 16
  deriving DecidableEq, Repr

/-- A peer-delay message that a port receives (R241): a Pdelay_Req; a Pdelay_Resp with its follow-up, which say when the neighbour
received the request and sent the response, in 2⁻⁸ ns; or none in time. -/
inductive PdelayMsg where
  | request
  | response (t2 t3 : Nat)
  | lost
  deriving DecidableEq, Repr

/-- How a CSI-2 packet arrived (R276). -/
inductive PacketCond where
  | good
  | headerFixed     -- header ECC corrected one bit
  | headerBad       -- header ECC cannot be corrected
  | crcBad          -- payload CRC fails
  | fixedCrcBad     -- header ECC corrected one bit, and payload CRC fails
  deriving DecidableEq, Repr

/-- An error inside the system cache met by an access (R320). -/
inductive SlcError where
  | none | data | tag
  deriving DecidableEq, Repr

/-- A cache of the application cores: the L1 instruction and data caches of a core, the L2 of a pair (R362). -/
inductive CacheId where
  | l1i (core : Fin 16)
  | l1d (core : Fin 16)
  | l2 (pair : Fin 8)
  deriving DecidableEq, Repr

/-- An uncorrectable error that a hart's access meets in a line of its caches (R362). -/
structure CacheError where
  cache : CacheId
  addr  : BitVec 48
  deriving DecidableEq, Repr

/-- A level at a capture pin, held for `width` ns (R256). -/
structure PinEdge where
  pin   : Fin 5
  high  : Bool
  width : Nat
  deriving DecidableEq, Repr

/-- Pixels that a display head scans before their data has arrived: the first one in scan order, and how many (R359). -/
structure LatePixels where
  head  : Fin 4
  first : Nat
  count : Nat
  deriving DecidableEq, Repr

/-- How a packet arrives at a receiver: its header and CRC, and the bytes that wait in the line buffer (R276). -/
structure PacketArrival where
  cond : PacketCond
  fill : Nat
  deriving DecidableEq, Repr

/-- What an access of a hart meets: the response, or an error in a line of its caches (R362, R367). -/
structure AccessEnd where
  resp : Resp
  line : Option CacheError
  deriving DecidableEq, Repr

/-- A read that comes down to a bridge: its address, and whether the initiator's port accepts the response (R416). -/
structure BridgeFetch where
  addr  : BitVec 48
  taken : Bool
  deriving DecidableEq, Repr

/-- The master of a request as far as its urgency goes (R337); an ISP pipe counts as its receiver. -/
inductive UrgentMaster where
  | none
  | csi (rx : Fin 4)
  | ssp (port : Fin 4)
  | display (head : Fin 4)
  deriving DecidableEq, Repr

/-- A burst waiting at a DDR subchannel (R335). -/
structure WheelReq where
  cls    : Fin 16
  master : UrgentMaster
  bank   : Nat
  deriving DecidableEq, Repr

/-- What a wheel slot finds at its subchannel: requests that arrive at the router output (R333), what the buffers of real-time
masters hold (R337), and the banks that are not ready (R335). -/
structure SlotInput where
  arriving : List WheelReq
  fills    : List (UrgentMaster × Nat)
  busy     : List Nat
  deriving DecidableEq, Repr

/-- A flit as a link's receiver gets it: 512 bits with one bit of even parity for each 32-bit word; `again` where no flit was accepted
since the link's last replay; and the flits that the sender's replay buffer holds, by the initiators of their transactions (R321). -/
structure Flit where
  again  : Bool
  words  : Vector (BitVec 32) 16
  parity : BitVec 16
  held   : List Initiator
  deriving DecidableEq, Repr

/-- A primitive of a render pass, as the driver's geometry gives it: its vec4 varyings and the tiles it touches
(R345). -/
structure Prim where
  vars  : Fin 33
  tiles : List Nat
  deriving DecidableEq, Repr

/-- What ended a graphics entry early, and on which raster core (R352). -/
inductive GfxFault where
  | memory (core : Fin 8)        -- RESP UE or LINK, or an uncorrectable hold read
  | tileMemory (core : Fin 8) (word : Fin 0x8000) (bistPasses : Bool)   -- an uncorrectable read of a 64-bit word of tile memory, then BIST
  | translation (core : Fin 8)   -- RESP DECODE or GUARD
  | coreReset (core : Fin 8)     -- the error manager reset a raster core
  | controlWatchdog              -- the raster control core's watchdog
  deriving DecidableEq, Repr

/-- A CAN frame on the wire (R432): the fields of the frame entry and its data bytes. -/
structure CanFrame where
  id   : Word
  fmt  : Byte
  sdt  : Byte
  vcid : Byte
  af   : Word
  data : List Byte
  deriving DecidableEq, Repr

/-- A core that executes LKSYNC (R368). -/
inductive SyncCore where
  | ac (n : Fin 16)
  | hc (n : Fin 3)
  deriving DecidableEq, Repr

/-- The custom CSRs of an application core (R365). -/
inductive ClassCsr where
  | mclass | tclass | hgclass | vstclass | mbusresp
  deriving DecidableEq, Repr

/-- A CSR: one that the manual adds, or one of the architecture by its number. -/
inductive CsrName where
  | cls (c : ClassCsr)
  | other (n : BitVec 12)
  deriving DecidableEq, Repr

/-- A CSR instruction: the register it names, and the integer register that takes the old value. -/
structure CsrForm where
  name : CsrName
  rd   : Fin 32
  deriving DecidableEq, Repr

end Sys2Proof
end

