-- ==== Sys2Proof/Syntax.lean ====
section
/-!
DEFINITION. The commands of the A880 modelled as a block: one constructor for each row of spec/opcode_table.json, in the
order of the table.  A command is an operation on a port (a register write or a read with an effect, with the request
that carries it), a command of one of the chip's own programs (a tile command of an engine, a ring entry), or an event
on a pin, a link or a timer, with what the event brings from outside.  The table gives no operands: they are the model's
choice from the row's rule (log entry 2).
-/

namespace Sys2Proof

/-- The commands, row by row of the table; each docstring is the row's rule and summary. -/
inductive Instr where
  /-- POR_N (R505): Power-on reset pin asserted and released: every domain is reset and only fuses are kept. -/
  | porN
  /-- WARM_RST_N (R506): Warm reset pin: DDR enters self-refresh, every domain with RESET 0x1 or 0x2 is reset and powered up, and the boot ROM runs without DDR training. -/
  | warmRstN
  /-- PWR_WARM_GO (R506): A secure write of GO with the code 0x5752 to PWR_WARM starts a warm reset. -/
  | pwrWarmGo (req : Req) (value : Word)
  /-- BOOT_FLASH_READ_DONE (R469): A boot flash read of the directory or an image slot completes, and the boot ROM moves to its next step. -/
  | bootFlashReadDone
  /-- BOOT_FLASH_TIMEOUT (R469): A boot flash read unanswered for 10 ms fails the slot with code 0x07. -/
  | bootFlashTimeout
  /-- DDR_TRAINING_DONE (R309): Training of the populated DDR controllers completes after POR_N, and DMC_CFG is recorded. -/
  | ddrTrainingDone (ok : Bool) (controllers : Fin 9) (rate : Fin 3) (dens : Fin 3) (x8 : Bool) (ranks : Fin 3)
  /-- HART_RELEASE (R465): A secure write to BOOT_HARTREL releases application cores at the Root monitor entry with W = 1. -/
  | hartRelease (req : Req) (value : Word)
  /-- LIFECYCLE_ADVANCE (R408): A secure write of BOOT_LCS with the code programs the lifecycle fuse, sets PENDING and disconnects debug. -/
  | lifecycleAdvance (req : Req) (value : Word)
  /-- KEY_REVOKE (R478): A write to BOOT_KEYREV permanently revokes key slots unless none would remain. -/
  | keyRevoke (req : Req) (value : Word)
  /-- ARB_COMMIT (R477): A GO to BOOT_ARB_COMMIT starts blowing anti-rollback fuse bits to raise a class COUNT. -/
  | arbCommit (req : Req) (value : Word)
  /-- ARB_COMMIT_DONE (R477): The anti-rollback fuse blow completes and BUSY clears. -/
  | arbCommitDone
  /-- BOUNDARY_SCAN_INSTRUCTION (R526): A TAP instruction is executed as the lifecycle state allows. -/
  | boundaryScanInstruction (code : Byte)
  /-- REGISTER_WRITE (R11): A write to a register field without its own row takes effect according to its access type. -/
  | registerWrite (req : Req) (addr : BitVec 48) (width : Nat) (value : Word)
  /-- DECODE_ERROR_ACCESS (R29): An access to an unmapped address, or to a region the access may not use, gets RESP DECODE, is logged in MRC and sends a CE record. -/
  | decodeErrorAccess (req : Req) (type : AccType) (addr : BitVec 48)
  /-- TILE_NOP (R99): The tile command NOP does nothing. -/
  | tileNop (te : Fin 64) (h : TileHdr)
  /-- ENGINE_COMMAND_FETCH (R101): The engine front end fetches and decodes the next tile command and issues it when its unit, SYNC and the range scoreboard allow. -/
  | engineCommandFetch (te : Fin 64) (upsets : List ArrayUpset)
  /-- LDW (R85): Loads a weight tile, with its scales or sparsity metadata, into the shadow weight buffer of the selected arrays. -/
  | ldw (te : Fin 64) (h : TileHdr) (a : LdwArgs)
  /-- LDA (R89): Fetches activation vectors into the activation queues of the selected arrays. -/
  | lda (te : Fin 64) (h : TileHdr) (a : LdaArgs)
  /-- MMA (R90): Streams M dense activation vectors through the active tile and updates accumulator rows, one pass per vector. -/
  | mma (te : Fin 64) (h : TileHdr) (a : MmaArgs) (upsets : List ArrayUpset)
  /-- MMAS (R93): Streams 64-value vectors through a 2:4 sparse tile, as two chained passes per vector. -/
  | mmas (te : Fin 64) (h : TileHdr) (a : MmaArgs) (upsets : List ArrayUpset)
  /-- VOP_ADD (R105): Vector operation ADD: a + b per lane. -/
  | vopAdd (te : Fin 64) (h : TileHdr) (a : VopArgs)
  /-- VOP_SUB (R105): Vector operation SUB: a − b per lane. -/
  | vopSub (te : Fin 64) (h : TileHdr) (a : VopArgs)
  /-- VOP_MUL (R105): Vector operation MUL: a × b per lane. -/
  | vopMul (te : Fin 64) (h : TileHdr) (a : VopArgs)
  /-- VOP_FMA (R105): Vector operation FMA: a × b + c with one rounding. -/
  | vopFma (te : Fin 64) (h : TileHdr) (a : VopArgs)
  /-- VOP_MAX (R105): Vector operation MAX: the larger operand per lane. -/
  | vopMax (te : Fin 64) (h : TileHdr) (a : VopArgs)
  /-- VOP_MIN (R105): Vector operation MIN: the smaller operand per lane. -/
  | vopMin (te : Fin 64) (h : TileHdr) (a : VopArgs)
  /-- VOP_ABS (R105): Vector operation ABS: |a|, saturating in integer lanes. -/
  | vopAbs (te : Fin 64) (h : TileHdr) (a : VopArgs)
  /-- VOP_NEG (R105): Vector operation NEG: −a, saturating in integer lanes. -/
  | vopNeg (te : Fin 64) (h : TileHdr) (a : VopArgs)
  /-- VOP_DIV (R106): Vector operation DIV: correctly rounded a / b in FP32 lanes. -/
  | vopDiv (te : Fin 64) (h : TileHdr) (a : VopArgs)
  /-- VOP_SQRT (R106): Vector operation SQRT: correctly rounded √a in FP32 lanes. -/
  | vopSqrt (te : Fin 64) (h : TileHdr) (a : VopArgs)
  /-- VOP_EXP2 (R106): Vector operation EXP2: approximate 2^a within its error bound. -/
  | vopExp2 (te : Fin 64) (h : TileHdr) (a : VopArgs)
  /-- VOP_LOG2 (R106): Vector operation LOG2: approximate log₂ a within its error bound. -/
  | vopLog2 (te : Fin 64) (h : TileHdr) (a : VopArgs)
  /-- VOP_RCP (R106): Vector operation RCP: approximate 1 / a. -/
  | vopRcp (te : Fin 64) (h : TileHdr) (a : VopArgs)
  /-- VOP_RSQRT (R106): Vector operation RSQRT: approximate 1 / √a. -/
  | vopRsqrt (te : Fin 64) (h : TileHdr) (a : VopArgs)
  /-- VOP_TANH (R106): Vector operation TANH: approximate tanh a. -/
  | vopTanh (te : Fin 64) (h : TileHdr) (a : VopArgs)
  /-- VOP_CVT (R68): Vector operation CVT: converts lanes to CFMT and packs them at DST. -/
  | vopCvt (te : Fin 64) (h : TileHdr) (a : VopArgs)
  /-- VOP_CMPLT (R105): Vector operation CMPLT: 1 if a < b, else 0. -/
  | vopCmplt (te : Fin 64) (h : TileHdr) (a : VopArgs)
  /-- VOP_SEL (R105): Vector operation SEL: a where c ≠ 0, else b. -/
  | vopSel (te : Fin 64) (h : TileHdr) (a : VopArgs)
  /-- VOP_AND (R105): Vector operation AND: bitwise and of integer lanes. -/
  | vopAnd (te : Fin 64) (h : TileHdr) (a : VopArgs)
  /-- VOP_OR (R105): Vector operation OR: bitwise or of integer lanes. -/
  | vopOr (te : Fin 64) (h : TileHdr) (a : VopArgs)
  /-- VOP_XOR (R105): Vector operation XOR: bitwise exclusive or of integer lanes. -/
  | vopXor (te : Fin 64) (h : TileHdr) (a : VopArgs)
  /-- VOP_SHL (R105): Vector operation SHL: left shift by b mod lane width. -/
  | vopShl (te : Fin 64) (h : TileHdr) (a : VopArgs)
  /-- VOP_SHR (R105): Vector operation SHR: arithmetic right shift by b mod lane width. -/
  | vopShr (te : Fin 64) (h : TileHdr) (a : VopArgs)
  /-- VOP_TRN (R105): Vector operation TRN: transposes 32 × 32 blocks of lanes. -/
  | vopTrn (te : Fin 64) (h : TileHdr) (a : VopArgs)
  /-- VOP_CPY (R105): Vector operation CPY: copies a. -/
  | vopCpy (te : Fin 64) (h : TileHdr) (a : VopArgs)
  /-- VOP_LDS (R105): Vector operation LDS: loads lane 0 of a vector into a scalar register. -/
  | vopLds (te : Fin 64) (h : TileHdr) (a : VopArgs)
  /-- VRED_SUM (R107): Reduction SUM across lanes or across vectors, in fixed order. -/
  | vredSum (te : Fin 64) (h : TileHdr) (a : VredArgs)
  /-- VRED_SUMSQ (R107): Reduction SUMSQ: sum of squared inputs. -/
  | vredSumsq (te : Fin 64) (h : TileHdr) (a : VredArgs)
  /-- VRED_MAX (R107): Reduction MAX. -/
  | vredMax (te : Fin 64) (h : TileHdr) (a : VredArgs)
  /-- VRED_MIN (R107): Reduction MIN. -/
  | vredMin (te : Fin 64) (h : TileHdr) (a : VredArgs)
  /-- VRED_AMAX (R107): Reduction AMAX: the largest magnitude. -/
  | vredAmax (te : Fin 64) (h : TileHdr) (a : VredArgs)
  /-- VRED_ARGMAX (R107): Reduction ARGMAX: the smallest index of the maximum or of the first NaN. -/
  | vredArgmax (te : Fin 64) (h : TileHdr) (a : VredArgs)
  /-- QNT (R64): Quantises FP32 or BF16 blocks to an unscaled, MX or KB format, and writes codes and scales. -/
  | qnt (te : Fin 64) (h : TileHdr) (a : QntArgs)
  /-- DQN (R67): Dequantises blocks of narrow, MX or KB data to FP32, BF16 or FP16. -/
  | dqn (te : Fin 64) (h : TileHdr) (a : DqnArgs)
  /-- STO (R103): Reads accumulator rows, converts them to the destination format with optional scales, stores them and optionally clears them. -/
  | sto (te : Fin 64) (h : TileHdr) (a : StoArgs)
  /-- ENGINE_DMA (R110): An engine DMA channel moves a strided, padded transfer described by a 64-byte descriptor. -/
  | engineDma (te : Fin 64) (h : TileHdr) (a : DmaArgs)
  /-- WAIT (R102): Blocks later commands until a semaphore holds at least N, then subtracts N. -/
  | waitSem (te : Fin 64) (h : TileHdr) (a : SemArgs)
  /-- SIG (R102): After every earlier command has completed, adds N to a semaphore, saturating and logging at 65,535. -/
  | sigSem (te : Fin 64) (h : TileHdr) (a : SemArgs)
  /-- FENCE (R102): Blocks later commands until earlier writes, and reads if RD is set, within SCOPE are complete. -/
  | fence (te : Fin 64) (h : TileHdr) (a : FenceArgs)
  /-- CHK_CRC (R119): CHK mode 0x0 compares the CRC-32 of a granule range with an expected value, and stops with cause 0x7 on a mismatch. -/
  | chkCrc (te : Fin 64) (h : TileHdr) (a : ChkArgs)
  /-- CHK_SELFTEST (R119): CHK mode 0x1 tests the comparators in the next checked pass, and stops with cause 0x8 if the altered comparison passes. -/
  | chkSelftest (te : Fin 64) (h : TileHdr)
  /-- KVL_READ (R162): KVL with MODE 0 loads a KV window for reading a sequence with NTOK valid tokens. -/
  | kvlRead (te : Fin 64) (h : TileHdr) (a : KvlArgs)
  /-- KVL_APPEND (R163): KVL with MODE 1 asks Miller for an append grant on the page of NTOK in every segment. -/
  | kvlAppend (te : Fin 64) (h : TileHdr) (a : KvlArgs)
  /-- TEN_ENABLE (R121): Writing TEN_CTRL.ENABLE starts or stops command fetch from the queue. -/
  | tenEnable (te : Fin 64) (req : Req) (value : Word)
  /-- TEN_HALT (R121): Writing TEN_CTRL.HALT stops fetching at the next command boundary. -/
  | tenHalt (te : Fin 64) (req : Req) (value : Word)
  /-- TEN_RESET (R120): Writing TEN_CTRL.RESET clears every unit, queue, buffer and scoreboard entry of the engine, keeping engine memory. -/
  | tenReset (te : Fin 64) (req : Req) (value : Word)
  /-- TEN_CQ_TAIL_WRITE (R17): The cluster core's doorbell write of a command-queue tail announces commands to the engine. -/
  | tenCqTailWrite (te : Fin 64) (req : Req) (value : Word)
  /-- TEN_WDT_WRITE (R122): A write to TEN_WDT sets a new limit and restarts the watchdog count. -/
  | tenWdtWrite (te : Fin 64) (req : Req) (value : Word)
  /-- TEN_CHK_SKIP_READ (R115): Reading TEN_CHK_SKIP returns and clears the count of unchecked passes. -/
  | tenChkSkipRead (te : Fin 64) (req : Req)
  /-- ENGINE_WATCHDOG_EXPIRY (R226): TEN_WDT expires: the engine stops with cause 0x4, the job's other engines stop and the job ends with FAULT_WATCHDOG. -/
  | engineWatchdogExpiry (te : Fin 64)
  /-- ENGINE_COMPLETION (R18): An engine finishes its command stream and writes an engine completion record to its cluster core. -/
  | engineCompletion (te : Fin 64)
  /-- DB_SQ_TAIL_WRITE (R184): A doorbell write of a submission ring tail makes new entries valid, or is ignored and counted. -/
  | dbSqTailWrite (ctx : Fin 32) (ring : Fin 8) (req : Req) (value : Word)
  /-- DB_CQ_HEAD_WRITE (R184): A write of DB_CQ_HEAD tells Miller how far the completion ring is consumed, or is ignored and counted. -/
  | dbCqHeadWrite (ctx : Fin 32) (req : Req) (value : Word)
  /-- DB_ERR_READ (R183): Reading DB_ERR returns and clears the count of ignored doorbell-page writes. -/
  | dbErrRead (ctx : Fin 32) (req : Req)
  /-- NOP (R186): Submission entry NOP completes with OK once its fence-in holds, and signals its fence-out. -/
  | nop (ctx : Fin 32) (ring : Fin 8)
  /-- JOB (R187): Submission entry JOB is read, checked on reading and held until its release time or timetable event. -/
  | job (ctx : Fin 32) (ring : Fin 8)
  /-- JOB_RELEASE_TIME (R190): Timebase time reaches a job's RELEASE in a time-release ring and the job is released. -/
  | jobReleaseTime (ctx : Fin 32) (ring : Fin 8)
  /-- JOB_RELEASE_EVENT (R190): A JOB_RELEASE timetable event releases the read head entry of its ring. -/
  | jobReleaseEvent
  /-- JOB_PLACEMENT (R221): Miller places the first ready job in order on a free lane of its partition, choosing affinity, hinted or lowest lane. -/
  | jobPlacement
  /-- ENGINE_START (R224): A cluster core writes TEN_JOB and TEN_WDT and starts an engine of the lane at its staggered time. -/
  | engineStart (te : Fin 64)
  /-- MODEL_LOAD (R203): Checks and loads a model pack into a partition and returns a model handle. -/
  | modelLoad (ctx : Fin 32) (ring : Fin 8)
  /-- MODEL_UNLOAD (R203): Waits until no job of the model runs, then frees the partition and zeroes its shares. -/
  | modelUnload (ctx : Fin 32) (ring : Fin 8)
  /-- KV_MAP (R168): Maps and optionally zero-fills the unmapped pages holding tokens T0 to T1 − 1 of a sequence. -/
  | kvMap (ctx : Fin 32) (ring : Fin 8)
  /-- KV_FORK (R168): Shares a parent's prefix pages read-only with an empty child sequence. -/
  | kvFork (ctx : Fin 32) (ring : Fin 8)
  /-- KV_UNMAP (R168): Unmaps a sequence's pages from T0 onward, fences, advances EPOCH and retires pages whose count reaches 0. -/
  | kvUnmap (ctx : Fin 32) (ring : Fin 8)
  /-- KV_COPY_DONE (R163): Miller's copy or zero-fill of KV pages completes at device scope and the PTEs are rewritten. -/
  | kvCopyDone (ctx : Fin 32)
  /-- KV_FENCE_COMPLETE (R161): A KV fence completes once no IOTLB entry for the range remains and earlier requests have been answered. -/
  | kvFenceComplete (ctx : Fin 32)
  /-- CTX_CREATE (R179): Reads and checks a context descriptor and makes a FREE context ACTIVE. -/
  | ctxCreate (ctx : Fin 32) (ring : Fin 8)
  /-- CTX_RESET (R176): Aborts the context's running and read jobs, discards unread entries and resets its graphics queues. -/
  | ctxReset (ctx : Fin 32) (ring : Fin 8)
  /-- CTX_DESTROY (R176): As CTX_RESET, also unloads models, disables the units bound to the context and makes it FREE. -/
  | ctxDestroy (ctx : Fin 32) (ring : Fin 8)
  /-- RING_FLUSH (R176): Completes the read-but-not-started and unread entries of one ring with ABORT_EVICTED_QUEUE. -/
  | ringFlush (ctx : Fin 32) (ring : Fin 8)
  /-- DIRTY_HARVEST (R207): Switches a context's dirty bitmap to NEW_BASE at one instant and returns the OUTSIDE flag. -/
  | dirtyHarvest (ctx : Fin 32) (ring : Fin 8)
  /-- PART_SET (R209): Defines, changes or deletes a partition with its lanes, shares and slot. -/
  | partSet (ctx : Fin 32) (ring : Fin 8)
  /-- CTX_BIND (R212): CTX_BIND with OP 0x0 binds a partition to a context. -/
  | ctxBind (ctx : Fin 32) (ring : Fin 8)
  /-- CTX_UNBIND (R212): CTX_BIND with OP 0x1 unbinds a partition that holds no model. -/
  | ctxUnbind (ctx : Fin 32) (ring : Fin 8)
  /-- MAKE_RESIDENT (R217): Miller takes a context's shares and starts the copy of its models' weights. -/
  | makeResident (ctx : Fin 32)
  /-- WEIGHT_COPY_DONE (R217): The copy of weight sections into engine shares completes, and jobs of the context may be placed. -/
  | weightCopyDone (ctx : Fin 32)
  /-- GRACE_EXPIRY (R227): A blocked or idle context's grace ends and the residency procedure is applied again. -/
  | graceExpiry (ctx : Fin 32)
  /-- SHARE_ZEROING_DONE (R218): Zeroing of a dropped share completes and the range may be used by another context. -/
  | shareZeroingDone (ctx : Fin 32)
  /-- TCX_GO (R205): Writing TCX_CTRL.GO compares interface versions and, on success, reads CTX0's descriptor and starts Miller. -/
  | tcxGo (req : Req) (value : Word)
  /-- MILLER_WAIT_HOST (R205): The running Miller image fills TCX_FW_IFVER and sets STATE to WAIT_HOST. -/
  | millerWaitHost
  /-- MILLER_RESTART_DONE (R481): After a watchdog reset, Miller has zeroed memories, reread its rings and returns to RUNNING. -/
  | millerRestartDone
  /-- TIMEBASE_TICK (R235): Each 500 MHz reference tick adds TMB_INCR to the timebase and drives the time bus. -/
  | timebaseTick
  /-- PPS_OUT_END (R255): PPS_OUT returns low after PPS_W ms. -/
  | ppsOutEnd
  /-- TMB_INCR_COMMIT (R236): A write of TMB_INCR_HI commits the increment at the next tick, clamping it to its limits. -/
  | tmbIncrCommit (req : Req) (value : Word)
  /-- TMB_NOW_NS_READ (R239): Reading TMB_NOW_NS returns NS and latches SEC into TMB_NOW_SEC_LO and TMB_NOW_SEC_HI. -/
  | tmbNowNsRead (req : Req)
  /-- TMB_ADJ_RELATIVE (R247): TMB_ADJ_CTRL.GO with MODE 0 adds signed seconds and nanoseconds to the timebase at one tick. -/
  | tmbAdjRelative (req : Req) (value : Word)
  /-- TMB_ADJ_ABSOLUTE (R247): TMB_ADJ_CTRL.GO with MODE 1 sets SEC and NS and clears FRAC at one tick. -/
  | tmbAdjAbsolute (req : Req) (value : Word)
  /-- TMB_SOURCE_CHANGE (R530): A write that changes SOURCE or DOMAIN clears LOCKED, ends a source-loss holdover and starts acquiring. -/
  | tmbSourceChange (req : Req) (value : Word)
  /-- SERVO_ENABLE (R244): SERVO_EN going from 0 to 1 seeds Fantail's integrator from the current increment. -/
  | servoEnable (req : Req) (value : Word)
  /-- SYNC_RECEIVED (R243): A Sync of the followed domain on the slave port gives an offset θ to Fantail when the link delay is valid. -/
  | syncReceived (port : Fin 14) (dom : Fin 4) (msg : SyncMsg)
  /-- HOLDOVER_TIMEOUT (R249): No Sync or PPS_IN capture for the timeout, or a grandmaster change, puts the timebase in holdover. -/
  | holdoverTimeout
  /-- ANNOUNCE_RECEIVED (R241): A gPTP Announce message is received and BMCA chooses the port roles. -/
  | announceReceived (port : Fin 14) (dom : Fin 4) (msg : Announce)
  /-- PDELAY_RECEIVED (R241): A peer-delay message is received and the port's meanLinkDelay and neighborRateRatio are updated. -/
  | pdelayReceived (port : Fin 14) (msg : PdelayMsg) (rx : Nat)
  /-- PTP_SYNC_TRANSMIT (R241): The gPTP engine sends a two-step Sync and Follow_Up on a master port at its sync interval. -/
  | ptpSyncTransmit (port : Fin 14) (dom : Fin 4)
  /-- PDELAY_REQ_TRANSMIT (R241): The gPTP engine sends a Pdelay_Req on a port at its interval. -/
  | pdelayReqTransmit (port : Fin 14)
  /-- CAPTURE_EDGE (R256): An accepted active edge on CAPT_IN or PPS_IN is captured with its timebase time into the pin's FIFO. -/
  | captureEdge (edge : PinEdge)
  /-- CAPTURE_STUCK (R258): A pin held active longer than STUCK_US raises one STUCK and a TIMEOUT record. -/
  | captureStuck (pin : Fin 5)
  /-- TMB_CAP_NS_READ (R257): Reading TMB_CAPn_NS removes the oldest capture and loads its seconds. -/
  | tmbCapNsRead (pin : Fin 5) (req : Req)
  /-- TMB_CAP_OVR_READ (R257): Reading TMB_CAPn_OVR returns and clears the count of lost captures. -/
  | tmbCapOvrRead (pin : Fin 5) (req : Req)
  /-- TIMETABLE_FIRING (R262): An enabled timetable entry's firing time is reached and a PIN action or a release event is produced. -/
  | timetableFiring (entry : Fin 1024)
  /-- TRIGGER_PULSE_END (R254): A PULSE ends after WIDTH × 2 ns and the pin goes inactive. -/
  | triggerPulseEnd (pin : Fin 8)
  /-- TIMETABLE_SWAP_REQUEST (R263): Writing SWAP = 1 starts the check of the idle timetable bank. -/
  | timetableSwapRequest (req : Req) (value : Word)
  /-- TIMETABLE_SWAP_CHECK_DONE (R263): The idle bank's check completes, refusing the swap or arming it for the next common boundary. -/
  | timetableSwapCheckDone
  /-- TIMETABLE_BANK_SWAP (R263): The timetable banks exchange roles at the first common cycle boundary and SWAP clears. -/
  | timetableBankSwap
  /-- TIMETABLE_ENABLE (R264): Writing ENABLE from 0 to 1 starts firing at the next cycle boundary after the write. -/
  | timetableEnable (req : Req) (value : Word)
  /-- TTB_SKIP_READ (R265): Reading TTB_SKIP returns and clears the counts of skipped and dropped firings. -/
  | ttbSkipRead (req : Req)
  /-- HEATH_CYCLE_EVENT (R261): A HEATH_CYCLE release event raises the control-cycle interrupt in the named Heath cores with the phase. -/
  | heathCycleEvent
  /-- STREAM_ENABLE (R270): EN = 1 on a stream reads and checks its descriptor and enables it, or refuses it with CFG_ERR. -/
  | streamEnable (str : Fin 20) (req : Req) (value : Word)
  /-- STREAM_DISABLE (R270): EN = 0 closes any frame in progress with TRUNC and disables the stream. -/
  | streamDisable (str : Fin 20) (req : Req) (value : Word)
  /-- STREAM_BUF_TAIL_WRITE (R271): A doorbell write of the buffer ring tail announces new frame buffers. -/
  | streamBufTailWrite (str : Fin 20) (req : Req) (value : Word)
  /-- CSI_FRAME_START (R274): A Frame Start packet opens a camera frame, takes the next buffer and stamps T_FS. -/
  | csiFrameStart (rx : Fin 4) (vc : Fin 32) (frameNo : BitVec 16)
  /-- CSI_LONG_PACKET (R274): A long packet of the stream's data type is written into the frame buffer; `arrival` says how
  it arrives (R276). -/
  | csiLongPacket (rx : Fin 4) (vc : Fin 32) (dt : BitVec 6) (payload : List Byte) (arrival : PacketArrival)
  /-- CSI_FRAME_END (R274): A Frame End packet closes a camera frame and its record is written. -/
  | csiFrameEnd (rx : Fin 4) (vc : Fin 32)
  /-- ISP_OUTPUT_DONE (R279): An ISP pipe finishes writing its output frame. -/
  | ispOutputDone (str : Fin 20) (width : BitVec 16) (lines : BitVec 16)
  /-- CSI_ERR_READ (R276): Reading CSI_ERR returns and clears the counts of discarded packets and corrected headers. -/
  | csiErrRead (rx : Fin 4) (req : Req)
  /-- SSP_FRAME_START (R280): The first word with FV active opens an SSP frame. -/
  | sspFrameStart (port : Fin 4) (word : Word)
  /-- SSP_WORD (R283): A word with DV active is written into the Flume FIFO, or lost if the FIFO is full. -/
  | sspWord (port : Fin 4) (word : Word)
  /-- SSP_FIFO_DRAIN (R281): The drain stage passes a word from the FIFO toward memory. -/
  | sspFifoDrain (port : Fin 4)
  /-- SSP_FRAME_END (R280): FV going inactive closes the SSP frame and its record is written. -/
  | sspFrameEnd (port : Fin 4)
  /-- SSP_CLOCK_LOST (R285): No SSPn_CLK edge for 1 µs sets CLK_LOST and sends a TIMEOUT record. -/
  | sspClockLost (port : Fin 4)
  /-- SSP_OVR_READ (R283): Reading SSP_OVR returns and clears the count of lost words. -/
  | sspOvrRead (port : Fin 4) (req : Req)
  /-- FGD_STAT_READ (R291): Reading FGD_STRs_STAT returns and clears the counts of marked frames. -/
  | fgdStatRead (str : Fin 20) (req : Req)
  /-- FUSION_INSTANT_EVENT (R299): A FUSION_INSTANT release event opens a product for the instant. -/
  | fusionInstantEvent
  /-- FUSION_CLOSE_TIMEOUT (R299): At I + CLOSE_NS an open product goes out, with PARTIAL if required sensors are missing. -/
  | fusionCloseTimeout (inst : Fin 64)
  /-- FUSION_SWAP_REQUEST (R295): Writing FUS_CTRL.SWAP requests a calibration bank swap at a named instant. -/
  | fusionSwapRequest (req : Req) (value : Word)
  /-- FUSION_REPHASE (R306): FUS_REPHASE.GO resets a sensor's phase reference at its next pairing. -/
  | fusionRephase (req : Req) (value : Word)
  /-- FUS_BUF_TAIL_WRITE (R299): A doorbell write of an instant's product buffer ring tail announces buffers. -/
  | fusBufTailWrite (inst : Fin 64) (req : Req) (value : Word)
  /-- DDR_READ (R315): A demand read of a DDR code word is decoded, corrected or answered with UE. -/
  | ddrRead (req : Req) (addr : BitVec 48) (upset : BitVec 10)
  /-- DDR_FULL_WRITE (R316): A write of all 64 bytes of a code word replaces it with new check bytes. -/
  | ddrFullWrite (req : Req) (addr : BitVec 48) (data : Vector Byte 64)
  /-- DDR_PARTIAL_WRITE (R316): A narrower write reads, merges and writes back the code word. -/
  | ddrPartialWrite (req : Req) (addr : BitVec 48) (data : List Byte) (posted : Bool) (upset : BitVec 10)
  /-- SCRUB_READ (R325): Every INTERVAL µs the background scrubber reads the next code word of a subchannel. -/
  | scrubRead (sub : Fin 16) (upset : BitVec 10)
  /-- DDR_REFRESH (R312): A refresh takes burst opportunities of a subchannel within the maintenance allowance. -/
  | ddrRefresh (sub : Fin 16)
  /-- RANGE_PASS_START (R326): DMC_RP_CTRL.GO starts a range pass, or is ignored or refused. -/
  | rangePassStart (dmc : Fin 8) (req : Req) (value : Word)
  /-- RANGE_PASS_READ (R326): A range pass reads the next code word of its range. -/
  | rangePassRead (dmc : Fin 8) (upset : BitVec 10)
  /-- RANGE_PASS_ABORT (R326): DMC_RP_CTRL.ABORT ends the running pass within 1 µs with STATUS 0x1. -/
  | rangePassAbort (dmc : Fin 8) (req : Req) (value : Word)
  /-- MARK_CLEAR (R314): Writing 1 to an MK bit of DMC_MARK clears that device mark and restarts the counts. -/
  | markClear (dmc : Fin 8) (req : Req) (value : Word)
  /-- DMC_ECC_CNT_READ (R318): Reading DMC_ECC_CNT returns and clears the error counts. -/
  | dmcEccCntRead (dmc : Fin 8) (req : Req)
  /-- SRAM_READ (R319): A read of a SEC-DED memory word is corrected, or reported as uncorrectable. -/
  | sramRead (req : Req) (addr : BitVec 48) (upset : Fin 3)
  /-- SRAM_NARROW_WRITE (R319): A write narrower than 64 bits merges into the word, or poisons it if the read fails. -/
  | sramNarrowWrite (req : Req) (addr : BitVec 48) (data : List Byte) (upset : Fin 3)
  /-- SLC_ACCESS (R328): A DDR access looks up the system cache and allocates in its group's ways. -/
  | slcAccess (req : Req) (addr : BitVec 48) (data : Option (Vector Byte 64)) (err : SlcError)
  /-- SLC_FLUSH (R330): Writing SLC_FLUSH starts writing back and invalidating the named ways. -/
  | slcFlush (req : Req) (value : Word)
  /-- SLC_FLUSH_DONE (R330): The flush of a way completes and its bit clears. -/
  | slcFlushDone (way : Fin 24)
  /-- DEPTH_HOLD_WRITE (R331): A write of SLC_HOLD.WAYS requests a new depth hold size and sets PEND. -/
  | depthHoldWrite (req : Req) (value : Word)
  /-- DEPTH_HOLD_CHANGE (R331): With no render in flight, the hold ways change and PEND clears. -/
  | depthHoldChange
  /-- GUARDED_ACCESS (R384): An access to guarded memory is admitted by a region or refused. -/
  | guardedAccess (req : Req) (type : AccType) (addr : BitVec 48) (len : Nat)
  /-- GUARD_FENCE (R389): GRD_FENCE.GO stops admission to a target and waits for outstanding accesses. -/
  | guardFence (target : Fin 11) (req : Req) (value : Word)
  /-- GUARD_FENCE_COMMIT (R389): With outstanding accesses answered, the guard checks and commits pending region settings. -/
  | guardFenceCommit (target : Fin 11)
  /-- FLIT_PARITY_ERROR (R321): A receiver finds a parity error, discards the flit and later ones, and requests a replay. -/
  | flitParityError (router : Byte) (dir : Fin 4) (flit : Flit)
  /-- MRC_REPLAYS_READ (R321): Reading MRC_REPLAYS returns and clears the replay count. -/
  | mrcReplaysRead (req : Req)
  /-- WHEEL_SLOT (R335): At each slot the controller issues one burst chosen by owner, exclusivity, priority and urgency. -/
  | wheelSlot (sub : Fin 16) (found : SlotInput) (maintenance : Bool)
  /-- WHEEL_SWAP_REQUEST (R334): Writing SLU_CTRL.SWAP requests a wheel bank swap. -/
  | wheelSwapRequest (req : Req) (value : Word)
  /-- WHEEL_BANK_SWAP (R334): At the next turn boundary all wheels change bank and SWAP clears. -/
  | wheelBankSwap
  /-- GQ_ENABLE (R339): EN = 1 on a graphics queue reads and checks its descriptor and enables it. -/
  | gqEnable (q : Fin 8) (req : Req) (value : Word)
  /-- GQ_DISABLE (R340): EN = 0 on a graphics queue has the effect of CTX_RESET on it. -/
  | gqDisable (q : Fin 8) (req : Req) (value : Word)
  /-- GQ_DOORBELL (R340): A doorbell write of a graphics queue tail announces entries. -/
  | gqDoorbell (q : Fin 8) (req : Req) (value : Word)
  /-- GRAPHICS_NOP (R341): A graphics NOP completes once its fence-in holds. -/
  | graphicsNop (q : Fin 8)
  /-- RENDER_PASS (R342): A render pass is admitted, binned, partially rendered as needed and finally rendered and stored. -/
  | renderPass (q : Fin 8) (batches : List (List Prim)) (writes : List (Nat × Byte))
  /-- DISPATCH (R341): A compute dispatch runs the driver's command buffer. -/
  | dispatch (q : Fin 8) (writes : List (Nat × Byte))
  /-- GRAPHICS_ENTRY_END (R352): A graphics entry ends and its completion entry is written. -/
  | graphicsEntryEnd (fault : Option GfxFault)
  /-- GRAPHICS_WATCHDOG (R352): An entry running 2 × DURATION_US ends with FAULT_WATCHDOG. -/
  | graphicsWatchdog
  /-- HEAD_ENABLE (R354): EN = 1 on a display head reads its descriptor and starts link training. -/
  | headEnable (head : Fin 4) (req : Req) (value : Word)
  /-- HEAD_DISABLE (R354): EN = 0 stops output and discards the flip ring without completion entries. -/
  | headDisable (head : Fin 4) (req : Req) (value : Word)
  /-- LINK_TRAINING_DONE (R354): DisplayPort link training completes, or fails and sets LINK_ERR. -/
  | linkTrainingDone (head : Fin 4) (ok : Bool)
  /-- HPD_CHANGE (R353): The hot-plug detect input of a head changes level. -/
  | hpdChange (head : Fin 4) (level : Bool)
  /-- FLIP_DOORBELL (R355): A doorbell write of the flip ring tail announces flip entries. -/
  | flipDoorbell (head : Fin 4) (req : Req) (value : Word)
  /-- VSYNC_LEAD (R357): At the vsync lead the head takes the oldest ready flip entry or repeats the frame and counts LATE. -/
  | vsyncLead (head : Fin 4)
  /-- VSYNC (R358): At vsync a taken entry's frame starts and its completion entry is written. -/
  | vsync (head : Fin 4)
  /-- DISPLAY_UNDERRUN (R359): Pixels scanned without data are sent in the background colour, setting UNDERRUN. -/
  | displayUnderrun (late : LatePixels)
  /-- LAYER_READ_ERROR (R360): A failed layer read delivers zero data, sets DERR and sends a record. -/
  | layerReadError (head : Fin 4)
  /-- DSP_LATE_READ (R357): Reading DSP_LATE returns and clears the count of repeated frames. -/
  | dspLateRead (head : Fin 4) (req : Req)
  /-- LKSYNC_LOCK (R371): LKSYNC with TARGET lock stalls until both cores arrive, then starts lock entry. -/
  | lksyncLock (hart : Fin 16) (word : Word)
  /-- LOCK_ENTRY_DONE (R371): Outstanding accesses complete, caches are flushed, state is copied and the pair enters lock mode. -/
  | lockEntryDone (pair : Fin 8)
  /-- LKSYNC_SPLIT (R373): LKSYNC with TARGET split returns a locked pair to split mode. -/
  | lksyncSplit (hart : Fin 16) (word : Word)
  /-- LKSYNC_TIMEOUT (R371): The other cores do not arrive within TMO_US and LKSYNC retires with −1. -/
  | lksyncTimeout (core : SyncCore)
  /-- LOCKSTEP_MISMATCH (R374): A lock-mode comparison differs: the pair stops in FAILED and sends a CHECK record. -/
  | lockstepMismatch (pair : Fin 8) (kind : Fin 4)
  /-- PAIR_RESET (R374): Writing APC_PAIRq_CTRL.RESET restarts both cores in split mode. -/
  | pairReset (pair : Fin 8) (req : Req) (value : Word)
  /-- HEATH_SPLIT (R381): LKSYNC with TARGET split puts Heath in split mode. -/
  | heathSplit (core : Fin 3) (word : Word)
  /-- HEATH_TRIPLE (R381): LKSYNC with TARGET triple starts the handover of HC0's state to HC1 and HC2. -/
  | heathTriple (core : Fin 3) (word : Word)
  /-- HEATH_TRIPLE_DONE (R381): The handover completes and Heath runs in triple mode. -/
  | heathTripleDone
  /-- HEATH_ODD_CORE (R378): One Heath core differs: its output is blocked, the others run in dual mode and it is refilled. -/
  | heathOddCore (core : Fin 3)
  /-- HEATH_RESYNC_DONE (R378): The odd core rejoins and triple mode resumes with RESYNC set. -/
  | heathResyncDone
  /-- HEATH_FATAL_PATH (R379): A dual-mode or three-way difference asserts FAULT_N, drives the fallback level and restarts Heath. -/
  | heathFatalPath
  /-- HTH_RESYNC_READ (R378): Reading HTH_RESYNC returns and clears the resynchronisation count. -/
  | hthResyncRead (req : Req)
  /-- HART_ACCESS_FAULT (R367): A non-OKAY response to a fetch, load or store raises a precise access fault. -/
  | hartAccessFault (hart : Fin 16) (type : AccType) (meets : AccessEnd) (va : BitVec 64) (gpa : BitVec 64)
  /-- IMPRECISE_BUS_ERROR (R367): A failed write-back or uncached store fills mbusresp and makes the bus-error interrupt pending. -/
  | impreciseBusError (hart : Fin 16) (resp : Resp) (store : Bool) (pa : BitVec 48)
  /-- CLASS_CSR_WRITE (R366): A write of mclass, tclass, hgclass or vstclass changes the labels of later requests. -/
  | classCsrWrite (hart : Fin 16) (csr : CsrForm) (value : Option DWord)
  /-- WMARK (R395): WMARK does nothing and marks a valid WGATE target. -/
  | wmark (hart : Fin 16)
  /-- WGATE_ENTRY (R396): WGATE in the normal world checks the target and enters the secure world, or faults or returns unavailable. -/
  | wgateEntry (hart : Fin 16) (rs1 : Fin 32) (reserved : Bool)
  /-- WGATE_RETURN (R398): WGATE x0 in the secure world returns to the normal world at wgret. -/
  | wgateReturn (hart : Fin 16) (rs1 : Fin 32)
  /-- GATE_TIMER_EXPIRY (R401): A gate timer expires and FAILED is set. -/
  | gateTimerExpiry (hart : Fin 16)
  /-- SECURE_FAIL (R403): Writing WGD_CTRL.FAIL sets FAILED, forces secure harts back and releases PWR_SHOLD. -/
  | secureFail (req : Req) (value : Word)
  /-- WLOCK (R392): Writing a WGD_LOCK bit locks an ownership group until reset. -/
  | wlock (half : Fin 2) (req : Req) (value : Word)
  /-- OWNERSHIP_WRITE (R391): A write of a unit ownership register sets its world, or is ignored with CFG_ERR. -/
  | ownershipWrite (unit : Fin 64) (req : Req) (value : Word)
  /-- MSI_DELIVERY (R393): An MSI reaches an interrupt file and is accepted or dropped by world. -/
  | msiDelivery
  /-- DEBUG_HALT (R407): A debugger halt request takes effect as the lifecycle state and the hart's world allow. -/
  | debugHalt (hart : Fin 16)
  /-- SHOLD_WRITE (R406): A secure hart write of PWR_SHOLD sets hold votes on shared domains. -/
  | sholdWrite (half : Fin 2) (req : Req) (value : Word)
  /-- HHOLD_WRITE (R406): A Heath write of PWR_HHOLD sets hold votes on shared domains. -/
  | hholdWrite (half : Fin 2) (req : Req) (value : Word)
  /-- BRIDGE_WRITE (R412): A write coming down through a Weir bridge is posted or passed on as the range table decides. -/
  | bridgeWrite (bridge : Fin 2) (req : Req) (addr : BitVec 48) (value : Word)
  /-- BRIDGE_READ (R414): A read through a Weir bridge is issued after the source's earlier posted writes. -/
  | bridgeRead (bridge : Fin 2) (req : Req) (read : BridgeFetch)
  /-- POSTED_WRITE_RESPONSE (R413): The target answers a buffered posted write, and a failure sets PERR and sends a CE record. -/
  | postedWriteResponse (bridge : Fin 2) (resp : Resp)
  /-- BRIDGE_MESSAGE (R415): An interrupt input transition below a bridge sends a message write after the unit's earlier data writes. -/
  | bridgeMessage (bridge : Fin 2) (input : Fin 64) (active : Bool)
  /-- READ_RESPONSE_TIMEOUT (R416): A read response not taken within RD_TMO_US is discarded and counted. -/
  | readResponseTimeout (bridge : Fin 2)
  /-- TARGET_TIMEOUT (R417): A bridged request unanswered within TGT_TMO_US is ended with DECODE and a TIMEOUT record. -/
  | targetTimeout (bridge : Fin 2) (req : Req) (addr : BitVec 48) (posted : Bool)
  /-- WIR_CNT_READ (R416): Reading WIR_CNT returns and clears the discard and posted-failure counts. -/
  | wirCntRead (bridge : Fin 2) (req : Req)
  /-- SEM_ACQUIRE (R418): ACQUIRE = 1 on a free semaphore makes the writer its owner. -/
  | semAcquire (sem : Fin 8) (req : Req) (value : Word)
  /-- SEM_RELEASE (R418): RELEASE = 1 by the owner frees the semaphore. -/
  | semRelease (sem : Fin 8) (req : Req) (value : Word)
  /-- SEM_GO (R419): GO = 1 by the owner starts an atomic operation on a DDR word. -/
  | semGo (sem : Fin 8) (req : Req) (value : Word)
  /-- SEM_OP_DONE (R419): The atomic operation completes, DATA holds the old word and BUSY clears. -/
  | semOpDone (sem : Fin 8)
  /-- ETH_FRAME_RECEIVED (R422): A frame arriving at a Hedgerow port is forwarded cut-through or stored and forwarded. -/
  | ethFrameReceived (port : Fin 14) (tc : Fin 8) (egress : BitVec 14) (bytes : List Byte) (fcsOk : Bool) (metered : Bool)
  /-- HIF_ENABLE (R424): EN = 1 on the host interface reads and checks its descriptor. -/
  | hifEnable (req : Req) (value : Word)
  /-- HIF_DISABLE (R424): EN = 0 finishes the current frame and discards unsent transmit entries. -/
  | hifDisable (req : Req) (value : Word)
  /-- HIF_TX_DOORBELL (R426): A doorbell write of a transmit ring tail announces frames. -/
  | hifTxDoorbell (ring : Fin 8) (req : Req) (value : Word)
  /-- HIF_RX_DOORBELL (R426): A doorbell write of a receive ring tail posts receive buffers. -/
  | hifRxDoorbell (ring : Fin 8) (req : Req) (value : Word)
  /-- HIF_TRANSMIT (R425): The interface reads a transmit frame into the switch and writes its entry back. -/
  | hifTransmit (egress : BitVec 14)
  /-- HIF_DB_ERR_READ (R426): Reading the host interface DB_ERR returns and clears the count of ignored writes. -/
  | hifDbErrRead (req : Req)
  /-- HIF_STAT_READ (R425): Reading TSW_HIF_STAT returns and clears the lost-frame and transmit-error counts. -/
  | hifStatRead (req : Req)
  /-- GM_CHG_READ (R427): Reading TSW_PTPd_STATE returns and clears the grandmaster change count. -/
  | gmChgRead (dom : Fin 4) (req : Req)
  /-- GATE_SWITCH_EVENT (R429): A GATE_SWITCH release event schedules a new gate list for the named ports. -/
  | gateSwitchEvent
  /-- GATE_LIST_CHANGE (R429): At the new list's next cycle start a port begins to follow it. -/
  | gateListChange (port : Fin 14)
  /-- GATE_LIST_CLEAR (R429): TSW_GCLp.CLEAR makes a port follow no list with every gate open. -/
  | gateListClear (port : Fin 14) (req : Req) (value : Word)
  /-- CAN_ENABLE (R431): EN = 1 on a CAN channel reads its descriptor and derives bit timing. -/
  | canEnable (can : Fin 12) (req : Req) (value : Word)
  /-- CAN_TX_DOORBELL (R432): A doorbell write of a CAN transmit ring tail announces frames. -/
  | canTxDoorbell (can : Fin 12) (req : Req) (value : Word)
  /-- CAN_TRANSMIT (R432): A CAN frame is sent, retried until sent or bus-off, and its entry written back. -/
  | canTransmit (can : Fin 12) (sent : Bool) (tec : BitVec 9) (rec : BitVec 8)
  /-- CAN_FRAME_RECEIVED (R432): A received CAN frame is written into the receive ring, or counted lost. -/
  | canFrameReceived (can : Fin 12) (frame : CanFrame)
  /-- TUNNEL_HOLD_EXPIRY (R433): HOLD_US after the oldest frame, a talker sends its AVTPDU. -/
  | tunnelHoldExpiry (tunnel : Fin 16)
  /-- CAN_RX_LOST_READ (R432): Reading CAN_STATUS returns and clears RX_LOST. -/
  | canRxLostRead (can : Fin 12) (req : Req)
  /-- PCIE_ENABLE (R434): PCE_CFG.EN = 1 trains the PCIe link. -/
  | pcieEnable (pce : Fin 2) (req : Req) (value : Word)
  /-- PCIE_INBOUND_REQUEST (R324): An inbound PCIe request is translated and answered, with failures logged in AER. -/
  | pcieInboundRequest (pce : Fin 2) (write : Bool) (ctx : Fin 32) (iova : BitVec 48) (data : List Byte) (len : Nat)
  /-- XSPI_DOORBELL (R435): A doorbell write of the xSPI ring tail announces flash operations. -/
  | xspiDoorbell (req : Req) (value : Word)
  /-- XSPI_READ (R435): xSPI entry OP 0x0 reads flash into memory. -/
  | xspiRead
  /-- XSPI_PROGRAM (R435): xSPI entry OP 0x1 programs flash from memory. -/
  | xspiProgram
  /-- XSPI_ERASE_SECTOR (R435): xSPI entry OP 0x2 erases a flash sector. -/
  | xspiEraseSector (size : Nat)
  /-- XSPI_READ_SFDP (R435): xSPI entry OP 0x3 reads the SFDP parameters. -/
  | xspiReadSfdp (sfdp : List Byte)
  /-- AUDIO_ENABLE (R436): EN = 1 on an audio port reads and checks its descriptor. -/
  | audioEnable (port : Fin 8) (req : Req) (value : Word)
  /-- AUDIO_BUF_TAIL_WRITE (R436): A doorbell write of an audio buffer ring tail announces sample buffers. -/
  | audioBufTailWrite (port : Fin 8) (req : Req) (value : Word)
  /-- AUDIO_BUFFER_DONE (R436): An audio buffer is filled or sent, its record is written and an MSI follows. -/
  | audioBufferDone (port : Fin 8) (tFs : BitVec 32) (samples : List Byte)
  /-- ERROR_RECORD_ACCEPT (R443): The error manager accepts an error record, queues it and updates HANDLING and COUNT. -/
  | errorRecordAccept
  /-- ERM_POP (R444): Writing ERM_POP removes the oldest queued record. -/
  | ermPop (req : Req) (value : Word)
  /-- ERM_DONE (R446): Writing DONE for a source ends its HANDLING and resets COUNT. -/
  | ermDone (src : Fin 256) (req : Req) (value : Word)
  /-- FAULT_CLR (R451): Writing FAULT_CLR releases FAULT_N. -/
  | faultClr (req : Req) (value : Word)
  /-- SAFE_LEVEL_WRITE (R451): Heath software writes LEVEL to drive SAFE_STATE. -/
  | safeLevelWrite (req : Req) (value : Word)
  /-- ERM_OVF_READ (R445): Reading ERM_OVF returns and clears the count of dropped records. -/
  | ermOvfRead (req : Req)
  /-- TEST_WINDOW_EVENT (R453): A TEST_WINDOW release event opens or closes a test window. -/
  | testWindowEvent
  /-- TEST_WINDOW_EXPIRY (R453): A test window reaches its open time plus LEN_US and ends. -/
  | testWindowExpiry (win : Fin 16)
  /-- TEST_SEGMENT_START (R455): The cluster core starts the next BIST segment on every engine of an eligible partition unit. -/
  | testSegmentStart (pu : Fin 16)
  /-- TEST_SEGMENT_END (R454): A BIST segment ends, passing or taking the engine offline, and may complete the test cycle. -/
  | testSegmentEnd (te : Fin 64) (pass : Bool)
  /-- DTI_EXPIRY (R457): An engine's test cycle is not complete within DTI_MS and a TEST_STARVED record is sent. -/
  | dtiExpiry (te : Fin 64)
  /-- GOLDEN_STAT_READ (R461): Reading TCX_GOLDg_STAT returns and clears the run and mismatch counts. -/
  | goldenStatRead (golden : Fin 4) (req : Req)
  /-- FW_WATCHDOG_KICK (R481): Firmware kicks its window watchdog, which expires if the kick is too early. -/
  | fwWatchdogKick (proc : Fin 12)
  /-- FW_WATCHDOG_EXPIRY (R481): A firmware processor's watchdog expires: a log record, a TIMEOUT record and a restart follow. -/
  | fwWatchdogExpiry (proc : Fin 12)
  /-- FWL_RECORD (R484): A log or trace record is written into the log ring, or dropped and counted. -/
  | fwlRecord (proc : Byte) (trace : Bool) (level : Fin 3) (ctx : Byte) (code : BitVec 16) (jobNo : Word) (tag : Word) (args : Vector Word 10)
  /-- FWL_ENABLE (R484): Writing FWL_LOG_CFG.EN = 1 enables the ring and sets HEAD and TAIL to 0. -/
  | fwlEnable (req : Req) (value : Word)
  /-- FWL_LOG_LOST_READ (R484): Reading FWL_LOG_LOST returns and clears the count of dropped records. -/
  | fwlLogLostRead (req : Req)
  /-- FWL_WDT_READ (R481): Reading FWL_WDTp returns and clears the expiry count. -/
  | fwlWdtRead (proc : Fin 12) (req : Req)
  /-- DOMAIN_OFF_REQUEST (R491): Writing ON = 0 moves a domain to waiting for idle. -/
  | domainOffRequest (dom : Fin 41) (req : Req) (value : Word)
  /-- DOMAIN_ON_REQUEST (R491): Writing ON = 1 withdraws a pending power-down or powers the domain up. -/
  | domainOnRequest (dom : Fin 41) (req : Req) (value : Word)
  /-- DOMAIN_POWER_DOWN (R491): A domain that is idle and not held starts powering down. -/
  | domainPowerDown (dom : Fin 41)
  /-- DOMAIN_OFF_DONE (R491): A domain finishes powering down and reaches STATE off. -/
  | domainOffDone (dom : Fin 41)
  /-- DOMAIN_ON_DONE (R491): A domain finishes powering up with its memories zeroed and reaches STATE on. -/
  | domainOnDone (dom : Fin 41)
  /-- DOMAIN_RESET (R494): Writing RST = 1 resets a domain's registers, keeping its memories. -/
  | domainReset (dom : Fin 41) (req : Req) (value : Word)
  /-- DOMAIN_RESET_DONE (R494): The domain reset ends and the domain leaves STATE 0x5. -/
  | domainResetDone (dom : Fin 41)
  /-- CLOCK_STEP (R495): The arithmetic clock moves one 150 MHz step toward its target. -/
  | clockStep
  /-- SURGE_REQUEST (R499): A write of THM_SURGE.REQ requests or withdraws Surge. -/
  | surgeRequest (req : Req) (value : Word)
  /-- SURGE_DIS_WRITE (R501): A write of DIS refuses Surge and ends any running Surge. -/
  | surgeDisWrite (req : Req) (value : Word)
  /-- SURGE_GRANT (R499): With all conditions met, Surge is granted and entry starts, after a wear fuse blow if needed. -/
  | surgeGrant
  /-- WEAR_FUSE_BLOW_DONE (R502): A wear fuse bit is blown and ALLOW_MS is charged to one hour. -/
  | wearFuseBlowDone
  /-- AVS_ACK (R489): The VDD_ARITH regulator acknowledges a setpoint. -/
  | avsAck
  /-- AVS_TIMEOUT (R500): The regulator does not acknowledge within 40 µs and AVS_ERR is set. -/
  | avsTimeout
  /-- ALLOW_MS_EXPIRY (R502): ALLOW_MS reaches 0 during Surge and the next bit is blown, or Surge ends with WEAR_OUT. -/
  | allowMsExpiry
  /-- THERMAL_SAMPLE (R497): Every 10 µs the sensors are sampled and Tj is updated. -/
  | thermalSample (temps : Vector (BitVec 12) 24) (errs : BitVec 24)
  /-- POWER_ESTIMATE (R498): Every 10 µs the estimator updates package power and P10. -/
  | powerEstimate (power : BitVec 16)
  /-- THERMTRIP (R504): A 130 °C comparator trips, asserting and latching THERMTRIP_N with a UE_FATAL record. -/
  | thermtrip (sensor : Fin 24)
  /-- SYSCLK_FAIL (R525): SYSCLK leaves its limits, SYSCLK_BAD is set and a UE_FATAL record is sent. -/
  | sysclkFail
  /-- TBREF_FAIL (R525): TBREF fails and the timebase moves to a SYSCLK-derived reference in holdover. -/
  | tbrefFail
  /-- TBREF_RETURN (R525): TBREF back within limits for 10 ms and the timebase returns to it. -/
  | tbrefReturn
  /-- XGREF_FAIL (R525): XGREF fails and ports 8 to 11 lose their links. -/
  | xgrefFail
  /-- HCLK_FAIL (R525): HCLK_IN is lost and Heath's monitor drives FAULT_N low and SAFE_STATE to 0x3 until POR_N. -/
  | hclkFail
  /-- CAN_BUS_OFF_RECOVERY (R432): A bus-off CAN channel completes the standard's automatic recovery and leaves bus-off, clearing BUSOFF. -/
  | canBusOffRecovery (can : Fin 12)
  /-- DISPLAY_LINK_LOST (R360): A trained DisplayPort link is lost, setting LINK_ERR and clearing LINK_UP. -/
  | displayLinkLost (head : Fin 4)
  /-- CAPTURE_PIN_INACTIVE (R258): A capture pin is accepted as inactive, which re-arms the STUCK check for the pin. -/
  | capturePinInactive (pin : Fin 5)
  /-- XSPI_OPERATION_TIMEOUT (R435): An xSPI flash operation that times out is written back with STATUS byte 0xFF. -/
  | xspiOperationTimeout
  /-- AVS_SETPOINT_RESEND (R500): Every 1 ms after an unacknowledged return to 0.75 V, the A880 sends the setpoint again until the regulator acknowledges it. -/
  | avsSetpointResend
  deriving DecidableEq, Repr

end Sys2Proof
end

