-- ==== Sys2Proof/Decode.lean ====
section
/-!
DEFINITION. The commands that a word spells by the bits of the opcode table.  No row of the table gives bits: the part's own
encodings (tile commands R99 to R107, ring entries R186 and R203) are read by its units, in Machine/TileCode.lean and
Machine/Entries.lean.
-/

namespace Sys2Proof

/-- No row of the table gives bits, so a word spells no command. -/
def decodeTableWord (_nbits _w : Nat) : Option Instr := none

end Sys2Proof
end

