-- ==== Sys2Proof/Machine/SMap.lean ====
section
/-!
DEFINITION. Sparse maps as sorted lists: the canonical form in which the state holds memory, registers and banks.  A map has
strictly rising keys and lists no value that an unlisted key reads as.
-/

namespace Sys2Proof.Machine

/-- The entry of key `k`. -/
def SMap.find {α : Type} : List (Nat × α) → Nat → Option α
  | [], _ => none
  | (a, b) :: r, k => if a == k then some b else SMap.find r k

/-- What key `k` reads as; `d` gives what an unlisted key reads as. -/
def SMap.get {α : Type} (d : Nat → α) (m : List (Nat × α)) (k : Nat) : α := (SMap.find m k).getD (d k)

/-- `m` with the entry of `k` set to `v`, at its place in the order. -/
def SMap.insert {α : Type} : List (Nat × α) → Nat → α → List (Nat × α)
  | [], k, v => [(k, v)]
  | (a, b) :: r, k, v =>
    if Nat.blt k a then (k, v) :: (a, b) :: r else if a == k then (k, v) :: r else (a, b) :: SMap.insert r k v

/-- `m` without an entry for `k`. -/
def SMap.erase {α : Type} (m : List (Nat × α)) (k : Nat) : List (Nat × α) := m.filter fun e => !(e.1 == k)

/-- The write of `v` at `k`: a value that the key reads as unlisted removes the entry. -/
def SMap.set {α : Type} [DecidableEq α] (d : Nat → α) (m : List (Nat × α)) (k : Nat) (v : α) : List (Nat × α) :=
  if v = d k then SMap.erase m k else SMap.insert m k v

/-- The keys rise strictly. -/
def SMap.sorted {α : Type} : List (Nat × α) → Bool
  | [] => true
  | [_] => true
  | (a, _) :: (b, c) :: r => Nat.blt a b && SMap.sorted ((b, c) :: r)

/-- The canonical form. -/
def SMap.wf {α : Type} [DecidableEq α] (d : Nat → α) (m : List (Nat × α)) : Bool :=
  SMap.sorted m && m.all fun e => !decide (e.2 = d e.1)

/-- Writes `vs` at `k`, `k + 1` and so on. -/
def SMap.setMany {α : Type} [DecidableEq α] (d : Nat → α) : List (Nat × α) → Nat → List α → List (Nat × α)
  | m, _, [] => m
  | m, k, v :: vs => SMap.setMany d (SMap.set d m k v) (k + 1) vs

/-- Reads `n` values from `k` on. -/
def SMap.getMany {α : Type} (d : Nat → α) (m : List (Nat × α)) : Nat → Nat → List α
  | _, 0 => []
  | k, n + 1 => SMap.get d m k :: SMap.getMany d m (k + 1) n

/-- `m` with every key from `lo` up to, not including, `hi` unlisted. -/
def SMap.clear {α : Type} (m : List (Nat × α)) (lo hi : Nat) : List (Nat × α) :=
  m.filter fun e => !(Nat.ble lo e.1 && Nat.blt e.1 hi)

/-- `x` at its place in a list in the order `le`, before its equals. -/
def insertBy {α : Type} (le : α → α → Bool) (x : α) : List α → List α
  | [] => [x]
  | y :: r => if le x y then x :: y :: r else y :: insertBy le x r

/-- A list in the order `le`; equals keep their order. -/
def sortBy {α : Type} (le : α → α → Bool) (xs : List α) : List α := xs.foldr (insertBy le) []

/-- Bytes as a number, least significant first (R8). -/
def leNat : List Byte → Nat
  | [] => 0
  | b :: bs => b.toNat + 256 * leNat bs

/-- A number as `n` bytes, least significant first (R8). -/
def leBytes : Nat → Nat → List Byte
  | 0, _ => []
  | n + 1, v => BitVec.ofNat 8 v :: leBytes n (v / 256)

/-- The field of `n` bytes at offset `o` of a structure, zero beyond its end. -/
def fieldAt (bs : List Byte) (o n : Nat) : Nat := leNat ((bs.drop o).take n)

/-- Bits `hi` down to `lo` of a number. -/
def bitsOf (v hi lo : Nat) : Nat := v / 2 ^ lo % 2 ^ (hi + 1 - lo)

/-- Bit `i` of a number. -/
def bitAt (v i : Nat) : Bool := v / 2 ^ i % 2 == 1

/-- A number of `w` bits read as two's complement. -/
def signedOf (w v : Nat) : Int := if Nat.blt (v % 2 ^ w) (2 ^ (w - 1)) then (v % 2 ^ w : Int) else (v % 2 ^ w : Int) - 2 ^ w

/-- An integer as `w` bits of two's complement. -/
def unsignedOf (w : Nat) (v : Int) : Nat := (v % (2 ^ w : Int)).toNat

/-- `v` held within `lo` and `hi`. -/
def clampInt (lo hi v : Int) : Int := if v < lo then lo else if hi < v then hi else v

end Sys2Proof.Machine
end

