-- ==== Sys2Proof/Machine/Operands.lean ====
section
/-!
DEFINITION. Number formats (03_number_formats): decoding, conversion with its rounding, overflow policy and exception flags,
block scales, and the packing of elements.  Arithmetic is exact, in rationals, and rounded once.
-/

namespace Sys2Proof.Machine

/-! ## Format codes (R56, R57) -/

/-- How a float format uses its largest exponent (R59). -/
inductive TopExp where
  | ieee      -- infinities and NaNs
  | e4m3      -- finite except all ones, a NaN
  | finite    -- every code finite
  deriving DecidableEq, Repr

/-- A number format: `sh` is the place of its code in the stored container (R58). -/
structure NumFmt where
  bits   : Nat
  float  : Bool
  e      : Nat
  m      : Nat
  bias   : Nat
  top    : TopExp
  signed : Bool
  sh     : Nat
  deriving DecidableEq, Repr

def floatFmt (bits e m bias : Nat) (top : TopExp) (sh : Nat) : NumFmt :=
  { bits, float := true, e, m, bias, top, signed := true, sh }

def intFmt (bits : Nat) (signed : Bool) : NumFmt :=
  { bits, float := false, e := 0, m := 0, bias := 0, top := .finite, signed, sh := 0 }

def fp32 : NumFmt := floatFmt 32 8 23 127 .ieee 0
def bf16 : NumFmt := floatFmt 16 8 7 127 .ieee 0
def fp16 : NumFmt := floatFmt 16 5 10 15 .ieee 0
def int32 : NumFmt := intFmt 32 true
def int16 : NumFmt := intFmt 16 true

/-- The element format of a format code; none where it is reserved or names a block scale. -/
def elemFmt : Nat → Option NumFmt
  | 0x00 => some fp32
  | 0x01 => some (floatFmt 32 8 10 127 .ieee 13)
  | 0x02 => some bf16
  | 0x03 => some fp16
  | 0x04 => some (floatFmt 8 4 3 7 .e4m3 0)
  | 0x05 => some (floatFmt 8 5 2 15 .ieee 0)
  | 0x06 => some (floatFmt 6 3 2 3 .finite 0)
  | 0x07 => some (floatFmt 6 2 3 1 .finite 0)
  | 0x08 => some (floatFmt 4 2 1 1 .finite 0)
  | 0x10 => some int32
  | 0x11 => some int16
  | 0x12 => some (intFmt 8 true)
  | 0x13 => some (intFmt 8 false)
  | 0x14 => some (intFmt 4 true)
  | 0x15 => some (intFmt 4 false)
  | _ => none

/-- A scale kind allows an element format (R57). -/
def scaleAllows : Nat → Nat → Bool
  | 0, f => (elemFmt f).isSome
  | 1, f => inRange4 f || f == 0x12
  | 2, f => f == 0x12 || f == 0x14
  | _, _ => false
where inRange4 (f : Nat) : Bool := Nat.ble 4 f && Nat.ble f 8

/-- A format of 8 bits or less. -/
def narrow (f : Nat) : Bool :=
  match elemFmt f with
  | some x => Nat.ble x.bits 8
  | none => false

/-! ## Values -/

/-- A decoded value: the sign of a zero is kept (R60). -/
inductive Val where
  | nan
  | inf (neg : Bool)
  | fin (neg : Bool) (mag : Rat)
  deriving DecidableEq, Repr

/-- 2 to an integer power. -/
def pow2 (k : Int) : Rat := if 0 ≤ k then ((2 ^ k.toNat : Nat) : Rat) else mkRat 1 (2 ^ (-k).toNat)

/-- floor(log₂ x) of a positive rational. -/
def floorLog2 (x : Rat) : Int :=
  let k : Int := (Nat.log2 x.num.toNat : Int) - Nat.log2 x.den
  if x < pow2 k then k - 1 else if pow2 (k + 1) ≤ x then k + 1 else k

/-- The signed rational of a finite value. -/
def Val.q : Val → Rat
  | .fin neg m => if neg then -m else m
  | _ => 0

/-- A rational as a value; zero is +0. -/
def Val.ofRat (q : Rat) : Val := if q < 0 then .fin true (-q) else .fin false q

def Val.isNaN : Val → Bool
  | .nan => true
  | _ => false

def Val.isInf : Val → Bool
  | .inf _ => true
  | _ => false

def Val.isFin : Val → Bool
  | .fin _ _ => true
  | _ => false

def Val.isZero : Val → Bool
  | .fin _ m => m == 0
  | _ => false

/-- The sign bit. -/
def Val.neg : Val → Bool
  | .nan => false
  | .inf n => n
  | .fin n _ => n

/-- The value with its sign changed. -/
def Val.flip : Val → Val
  | .nan => .nan
  | .inf n => .inf (!n)
  | .fin n m => .fin (!n) m

/-! ## Format exceptions (R71) -/

def fxInvalid : Nat := 0x01
def fxNanIn : Nat := 0x02
def fxOvfSat : Nat := 0x04
def fxOvfNan : Nat := 0x08
def fxInfSat : Nat := 0x10
def fxNanZero : Nat := 0x20
def fxIntSat : Nat := 0x40
def fxUnderflow : Nat := 0x80

/-! ## Encodings (R58, R59, R62) -/

/-- The value of a code; an integer format ignores bits above its width. -/
def NumFmt.decode (f : NumFmt) (code : Nat) : Val :=
  if f.float then
    let c := code / 2 ^ f.sh
    let neg := bitAt c (f.e + f.m)
    let ex := bitsOf c (f.e + f.m - 1) f.m
    let man := c % 2 ^ f.m
    let finite : Val := .fin neg (if Nat.beq ex 0 then man * pow2 (1 - f.bias - f.m)
      else ((2 ^ f.m + man : Nat) : Rat) * pow2 ((ex : Int) - f.bias - f.m))
    if Nat.beq ex (2 ^ f.e - 1) then
      match f.top with
      | .ieee => if Nat.beq man 0 then .inf neg else .nan
      | .e4m3 => if Nat.beq man (2 ^ f.m - 1) then .nan else finite
      | .finite => finite
    else finite
  else if f.signed then
    let v := signedOf f.bits code
    .fin (decide (v < 0)) v.natAbs
  else .fin false (code % 2 ^ f.bits : Nat)

/-- The weight of the least significant bit of a format (R75). -/
def NumFmt.lsb (f : NumFmt) : Rat := if f.float then pow2 (1 - f.bias - f.m) else 1

/-- A finite code as an integer, in units of that weight. -/
def NumFmt.units (f : NumFmt) (code : Nat) : Int := ((f.decode code).q / f.lsb).floor

/-- The largest finite code without its sign, in a float format. -/
def NumFmt.maxCode (f : NumFmt) : Nat :=
  match f.top with
  | .ieee => 2 ^ (f.e + f.m) - 2 ^ f.m - 1
  | .e4m3 => 2 ^ (f.e + f.m) - 2
  | .finite => 2 ^ (f.e + f.m) - 1

/-- The largest finite value of a float format. -/
def NumFmt.maxVal (f : NumFmt) : Rat := (f.decode (f.maxCode * 2 ^ f.sh)).q

/-- The canonical NaN of a format that has one. -/
def NumFmt.nanCode (f : NumFmt) : Nat :=
  match f.top with
  | .e4m3 => (2 ^ (f.e + f.m) - 1) * 2 ^ f.sh
  | _ => (2 ^ (f.e + f.m) - 2 ^ f.m + 2 ^ (f.m - 1)) * 2 ^ f.sh

/-- The code of a magnitude that the float format represents. -/
def NumFmt.encode (f : NumFmt) (neg : Bool) (mag : Rat) : Nat :=
  let sign := if neg then 2 ^ (f.e + f.m) else 0
  let code :=
    if mag == 0 then 0
    else
      let k := floorLog2 mag
      if k < 1 - f.bias then (mag / pow2 (1 - f.bias - f.m)).floor.toNat
      else (k + f.bias).toNat * 2 ^ f.m + ((mag / pow2 (k - f.m)).floor.toNat - 2 ^ f.m)
  (sign + code) * 2 ^ f.sh

/-! ## Conversions (R67 to R70) -/

/-- A rational rounded to an integer: RND 0 to 3 = to nearest with ties to even, toward zero, toward −∞, toward +∞ (R67). -/
def rint (x : Rat) (rnd : Nat) : Int :=
  let f := x.floor
  let d := x - f
  if d == 0 then f
  else
    match rnd with
    | 0 => if 2 * d < 1 then f else if 1 < 2 * d then f + 1 else if f % 2 == 0 then f else f + 1
    | 1 => if x < 0 then f + 1 else f
    | 2 => f
    | _ => f + 1

/-- The result of an overflow and its flag (R68 step 4). -/
def NumFmt.overflow (f : NumFmt) (neg nanOnOvf : Bool) : Nat × Nat :=
  if nanOnOvf && !(decide (f.top = .finite)) then (f.nanCode, fxOvfNan)
  else (((if neg then 2 ^ (f.e + f.m) else 0) + f.maxCode) * 2 ^ f.sh, fxOvfSat)

/-- A conversion to a float format (R68): the code and the flags. -/
def NumFmt.toFloat (f : NumFmt) (x : Val) (rnd : Nat) (nanOnOvf : Bool) : Nat × Nat :=
  match x with
  | .nan => if decide (f.top = .finite) then (0, fxNanIn + fxNanZero) else (f.nanCode, fxNanIn)
  | .inf neg =>
    if decide (f.top = .ieee) then
      (((if neg then 2 ^ (f.e + f.m) else 0) + (2 ^ (f.e + f.m) - 2 ^ f.m)) * 2 ^ f.sh, 0)
    else ((f.overflow neg nanOnOvf).1, fxInfSat)
  | .fin neg mag =>
    if mag == 0 then (f.encode neg 0, 0)
    else
      let k := max (floorLog2 mag) (1 - f.bias)
      let ulp := pow2 (k - f.m)
      let q := mag / ulp
      let r : Rat := (rint (if neg then -q else q) rnd).natAbs * ulp
      if f.maxVal < r then f.overflow neg nanOnOvf
      else (f.encode neg r, if r == 0 then fxUnderflow else 0)

/-- An integer held within the range of an integer format (R62, R69 step 4): its code and the flag. -/
def NumFmt.saturate (f : NumFmt) (v : Int) : Nat × Nat :=
  let lo : Int := if f.signed then -(2 ^ (f.bits - 1)) else 0
  let hi : Int := if f.signed then 2 ^ (f.bits - 1) - 1 else 2 ^ f.bits - 1
  let c := clampInt lo hi v
  (unsignedOf f.bits c, if c == v then 0 else fxIntSat)

/-- A conversion to an integer format (R69). -/
def NumFmt.toInt (f : NumFmt) (x : Val) (rnd : Nat) : Nat × Nat :=
  match x with
  | .nan => (0, fxNanIn + fxNanZero)
  | .inf neg => ((f.saturate (if neg then -(2 ^ 64) else 2 ^ 64)).1, fxIntSat)
  | .fin _ _ => f.saturate (rint x.q rnd)

/-- A conversion (R68, R69). -/
def NumFmt.convert (f : NumFmt) (x : Val) (rnd : Nat) (nanOnOvf : Bool) : Nat × Nat :=
  if f.float then f.toFloat x rnd nanOnOvf else f.toInt x rnd

/-- A conversion of each value of a list, with all their flags. -/
def NumFmt.convertAll (f : NumFmt) (rnd : Nat) (nanOnOvf : Bool) : List Val → List Nat × Nat
  | [] => ([], 0)
  | x :: xs =>
    let c := f.convert x rnd nanOnOvf
    let cs := f.convertAll rnd nanOnOvf xs
    (c.1 :: cs.1, c.2 ||| cs.2)

/-- A value rounded to FP32 with RNE (R75, R77). -/
def toFp32 (x : Val) (nanOnOvf : Bool) : Val × Nat :=
  let c := fp32.toFloat x 0 nanOnOvf
  (fp32.decode c.1, c.2)

/-! ## Block scales (R63 to R66) -/

/-- A block scale as an exact factor of its elements, with its sign; NaN stands for a NaN block, an infinite FP16 scale
included.  The MXINT8 element has an implied 2⁻⁶. -/
def scaleVal (kind code fmt : Nat) : Val :=
  match kind with
  | 0 => .fin false 1
  | 1 => if Nat.beq code 0xFF then .nan else .fin false (pow2 ((code : Int) - 127 - (if Nat.beq fmt 0x12 then 6 else 0)))
  | _ =>
    match fp16.decode code with
    | .fin neg m => .fin neg m
    | _ => .nan

/-- Bytes of a stored scale. -/
def scaleBytes : Nat → Nat
  | 0 => 0
  | 1 => 1
  | _ => 2

/-- A value times a block scale: exact, with the sign of a product (R66). -/
def Val.times (x f : Val) : Val :=
  match f, x with
  | .fin k q, .fin n m => .fin (n.xor k) (m * q)
  | .fin k q, .inf n => if q == 0 then .nan else .inf (n.xor k)
  | _, _ => .nan

/-- The flags of a block that holds a NaN or an infinity; none where all are finite (R64, R65). -/
def blockSpecial (xs : List Val) : Option Nat :=
  if xs.all Val.isFin then none
  else some ((if xs.any Val.isNaN then fxNanIn else 0) + (if xs.any Val.isInf then fxInvalid else 0))

/-- The largest magnitude of a block. -/
def blockMax (xs : List Val) : Rat :=
  xs.foldl (fun a x => match x with | .fin _ m => if a < m then m else a | _ => a) 0

/-- The exponent of the largest finite value of an MX element format (R64). -/
def mxEmax : Nat → Int
  | 0x04 => 8
  | 0x05 => 15
  | 0x06 => 4
  | 0x07 => 2
  | 0x08 => 2
  | _ => 0

/-- Quantisation of a block to MX (R64): scale code, element codes, flags. -/
def quantMx (fmt : Nat) (f : NumFmt) (rnd : Nat) (xs : List Val) : Nat × List Nat × Nat :=
  match blockSpecial xs with
  | some fx => (0xFF, List.replicate xs.length 0, fx)
  | none =>
    let amax := blockMax xs
    let e : Int := if amax == 0 then -127 else clampInt (-127) 127 (floorLog2 amax - mxEmax fmt)
    let up : Rat := if Nat.beq fmt 0x12 then 64 else 1
    ((e + 127).toNat, xs.map fun x => (f.convert (x.times (.fin false (up / pow2 e))) rnd false).1, 0)

/-- Quantisation of a block to KB8 or KB4 (R65): scale code, element codes, flags. -/
def quantKb (f : NumFmt) (xs : List Val) : Nat × List Nat × Nat :=
  match blockSpecial xs with
  | some fx => (0x7E00, List.replicate xs.length 0, fx)
  | none =>
    let qmax : Int := 2 ^ (f.bits - 1) - 1
    let amax := blockMax xs
    let s32 := (toFp32 (.fin false (amax / qmax)) false).1
    let s := fp16.toFloat s32 0 false
    let sv := (fp16.decode s.1).q
    if sv == 0 then
      (s.1, List.replicate xs.length 0, (s.2 &&& fxOvfSat) ||| (if amax == 0 then 0 else fxUnderflow))
    else
      (s.1, xs.map fun x => unsignedOf f.bits (clampInt (-qmax) qmax (rint (x.q / sv) 0)), s.2 &&& fxOvfSat)

/-- A block of values stored with a scale kind: its scale code, element codes and flags (R64, R65, R68, R69). -/
def quantBlock (fmt kind rnd : Nat) (nanOnOvf : Bool) (xs : List Val) : Nat × List Nat × Nat :=
  match elemFmt fmt with
  | none => (0, [], 0)
  | some f =>
    match kind with
    | 0 => let r := f.convertAll rnd nanOnOvf xs; (0, r.1, r.2)
    | 1 => quantMx fmt f rnd xs
    | _ => quantKb f xs

/-- The value of an element with its block's scale. -/
def blockValue (fmt kind scale code : Nat) : Val :=
  match elemFmt fmt with
  | none => .nan
  | some f => (f.decode code).times (scaleVal kind scale fmt)

/-! ## Packing (R58) -/

/-- Bits an element occupies in memory. -/
def storedBits (fmt : Nat) : Nat := match elemFmt fmt with | some f => f.bits | none => 8

/-- Bytes of `n` packed elements, with the group padding of 4-bit and 6-bit formats. -/
def packedBytes (fmt n : Nat) : Nat :=
  match storedBits fmt with
  | 4 => (n + 1) / 2
  | 6 => (n + 3) / 4 * 3
  | b => n * (b / 8)

/-- `n` codes of `b` bits from a number, lowest first. -/
def splitBits (b : Nat) : Nat → Nat → List Nat
  | 0, _ => []
  | n + 1, v => v % 2 ^ b :: splitBits b n (v / 2 ^ b)

/-- Codes of `b` bits joined into a number, the first lowest. -/
def joinBits (b : Nat) : List Nat → Nat
  | [] => 0
  | c :: cs => c % 2 ^ b + 2 ^ b * joinBits b cs

/-- The codes of `n` elements from their bytes: groups follow one another, so the elements are consecutive bits. -/
def unpack (fmt n : Nat) (bs : List Byte) : List Nat := splitBits (storedBits fmt) n (leNat bs)

/-- The bytes of element codes; padding is 0. -/
def pack (fmt : Nat) (codes : List Nat) : List Byte :=
  leBytes (packedBytes fmt codes.length) (joinBits (storedBits fmt) codes)

/-! ## CRC-32 (02_dagiesk_table R47) -/

/-- One bit of the reflected CRC-32. -/
def crcBit (r : Nat) : Nat := if r % 2 == 1 then (r / 2).xor 0xEDB88320 else r / 2

/-- One byte into the CRC register. -/
def crcByte (r : Nat) (b : Byte) : Nat :=
  let x := r.xor b.toNat
  crcBit (crcBit (crcBit (crcBit (crcBit (crcBit (crcBit (crcBit x)))))))

/-- Bytes into the CRC register. -/
def crcUpdate (r : Nat) (bs : List Byte) : Nat := bs.foldl crcByte r

/-- CRC-32 of bytes. -/
def crc32 (bs : List Byte) : Nat := (crcUpdate 0xFFFFFFFF bs).xor 0xFFFFFFFF

end Sys2Proof.Machine
end

