-- ==== Sys2Proof/Config.lean ====
section
/-!
DEFINITION. What the spec leaves to the Dagiesk table, to a standard it names, or open: constants without a body, so that no
proof can see their value.  Each is a free value or a table-sourced quantity (R55) named in a log entry.
-/

namespace Sys2Proof

/-! ## Table-sourced quantities (02_dagiesk_table R55; log entry 4) -/

/-- What the manual does not print of the UNIT records by unit number, the MEMORY records by kind and number, the CLOCK_DOMAIN
records by domain, the INTERRUPT records by place and the HIERARCHY_PATH records of arrays and banks by node (R50, R51). -/
opaque Config.unitRow : Nat → UnitRow
opaque Config.memoryRow : Nat → MemoryRow
opaque Config.clockRow : Nat → ClockRow
opaque Config.irqRow : Nat → IrqRow
opaque Config.arrayRow : Nat → ArrayRow

/-- The orders of the UNIT, MEMORY, INTERRUPT and HIERARCHY_PATH records, of the domains that R36 gives a clock, of the ownership
registers, of the initiator IDs, and of the indices within each subsystem. -/
opaque Config.unitSeed : Nat → Nat
opaque Config.memorySeed : Nat → Nat
opaque Config.irqSeed : Nat → Nat
opaque Config.pathSeed : Nat → Nat
opaque Config.clockSeed : Nat → Nat
opaque Config.ownSeed : Nat → Nat
opaque Config.iidSeed : Nat → Nat
opaque Config.indexSeed : Nat → Nat → Nat

/-- The parent power domain of a domain (R51). -/
opaque Config.powerParent : Fin 41 → Option (Fin 41)

/-- The place in the STRINGS record of the name of the record at a place of the table. -/
opaque Config.nameAt : Nat → Nat

/-- KEY and VALUE of the PARAMETER records after the two that the manual prints (R51, R55). -/
opaque Config.paramRow : Fin 22 → Word × DWord

/-- What the STRINGS record holds after the part name (R50), and the steps by which record IDs rise. -/
opaque Config.strings : List Byte
opaque Config.idStep : Nat → Fin 0x100000

/-- The application cores' initiator IDs begin at 16 times this (14_isolated_worlds R386). -/
opaque Config.acIidGroup : Fin 64

/-- The number after 0x30 of a subsystem the manual names without one, and the subsystem, by its place among the codes of R52, of
a unit the model does not name. -/
opaque Config.subsystem : UnitId → Fin 16
opaque Config.extraSubsystem : Nat → Fin 29

/-- The bank of a word of a cluster memory or the Heath memory, by unit and offset (11_memory_and_bandwidth R319). -/
opaque Config.bankOf : UnitId → Nat → Fin 255

/-- The unit of the ownership register at WGD + 0x1000 + 4 k. -/
opaque Config.ownUnit : Nat → UnitId

/-- WORLDS of that unit's record: the normal world, the secure world. -/
opaque Config.ownWorlds : Nat → Bool × Bool

/-- LOCK_GROUP of that unit's record. -/
opaque Config.lockGroup : Nat → Fin 64

/-- A byte of the boot ROM (R27). -/
opaque Config.bootRom : Nat → Byte

/-! ## Standards the spec names -/

/-- Translation by the RISC-V IOMMU v1.0 of an IOVA in the device context that the initiator ID and the context select (01 R34),
from the tables in memory (R175; log entry 5): the physical address, or none for a translation fault. -/
opaque Config.iommuWalk : List (Nat × Byte) → Initiator → Nat → Nat → Bool → Option Nat

/-- The address that the level-2 entry of an IOVA names in a context's first stage, which its owner writes (06 R159; log entry 5). -/
opaque Config.level2 : List (Nat × Byte) → Nat → Nat → Option Nat

/-- SHA-384, and the verification of an ECDSA P-384 signature over a digest by a key in EC_PUB encoding: key, digest, r, s
(07_control_plane R202; 17_boot_and_firmware R474). -/
opaque Config.sha384 : List Byte → List Byte
opaque Config.ecdsaP384 : List Byte → List Byte → List Byte → List Byte → Bool

/-- The second stage of that translation: the physical address of an address of a context's physical space (R159, R206). -/
opaque Config.stage2 : List (Nat × Byte) → Nat → Nat → Option Nat

/-- The first stage: the guest physical address of an IOVA of a context, for the dirty bitmap (R206). -/
opaque Config.guestPhys : List (Nat × Byte) → Initiator → Nat → Nat → Nat

/-- The rank, with two ranks, that holds a DDR code word; the spec gives no mapping (R311; log entry 7). -/
opaque Config.rankOf : Nat → Bool

/-- The symbol that a DDR decoder takes an error of several symbols of a code word for, in the rare patterns that it does not detect
(11_memory_and_bandwidth R313; log entry 65). -/
opaque Config.miscorrects : Nat → Nat → Option (Fin 10)

/-- The set of a system-cache slice that holds a line; and the way a replacement takes, by the ways in which the accessing group has
met lines of the set, latest first, and the ways it may take (R329; log entry 14). -/
opaque Config.slcSet : Nat → Nat
opaque Config.slcVictim : List Nat → List Nat → Nat

/-- What a stream's own encoding says, which is out of scope (00_scope; log entry 75): the count of its commands up to the end of a
sweep of its window layers; for a layer the granules of its pad row (0) and of its stripe descriptors (1), and the source (2),
destination (3) and spaces (4) of its stripe copy; how many images its batch holds; which layer a command works for, and on which
of the engine's rows of it; and for the LDA of a tap the tap, ky and kx, the first output column and the channel slice. -/
opaque Config.images : List Nat → Nat
opaque Config.rowUse : List Nat → Nat → Option (Nat × Nat)
opaque Config.tapUse : List Nat → Nat → Option (Nat × Nat × Nat × Nat)
opaque Config.sweepEnd : List Nat → Nat → Nat
opaque Config.layerPlace : List Nat → Nat → Nat → Nat

/-- The line that leaves a full set of a cache of the application cores, by the lines of the set (R362; log entry 79). -/
opaque Config.cacheVictim : List Nat → Nat

/-- The clock domain that the register at an offset of CLK controls; the manual gives the offsets of no clock control (14_isolated_worlds
R404; log entry 68). -/
opaque Config.clockControl : Nat → Option (Fin 248)

/-- The bus-error and secure-attention interrupts of a hart stand before those of the architecture in its order of priority
(13_host_cores_and_redundancy R361; log entry 16). -/
opaque Config.ownIrqsFirst : Bool

/-- The FP32 result of an approximate function of the vector unit, by OP and operand (04_tensor_engine R106; log entry 20). -/
opaque Config.approx : Nat → Nat → Nat

/-- A byte of the image an ISP pipe makes, whose tables this manual does not give (10_sensor_ingest_and_fusion R278; log entry
25): by a count, the output format, the received payload, and the place in the image. -/
opaque Config.ispByte : Nat → Nat → List Byte → Nat → Byte

/-- The trigonometry of the Fusion Unit, whose rounding the spec leaves open (R294, R296; log entry 26): the FP32 code of atan2
of two FP32 codes; cosine and sine of an angle; and the lens radius interpolated at an angle, by θ, THETA_MAX and the two radii. -/
opaque Config.atan2 : Nat → Nat → Nat
opaque Config.cosSin : Rat → Rat × Rat
opaque Config.lensRadius : Nat → Nat → Nat → Nat → Nat

/-- What the driver and the shaders decide of a tile's depth and stencil (R348; log entry 78): the place of its k-th byte in a DS_IN or
DS_OUT image; the clear value of that byte; and the byte after the primitives of a render, in order, have been drawn on what was
held. -/
opaque Config.dsOffset : List Byte → Nat → Nat → Nat
opaque Config.depthClear : List Byte → Nat → Byte
opaque Config.depthAfter : List Byte → List Nat → Nat → Byte

/-- The same of its colour (R347; log entry 78): where the k-th byte of a single-sample tile's colour lies in the attachments; that byte
of the resolved colour, by the colour of every sample; a byte before the first primitive; and after the primitives of a render. -/
opaque Config.colourPlace : List Byte → Nat → Nat → Nat
opaque Config.resolved : List Byte → List Byte → Nat → Byte
opaque Config.colourFirst : List Byte → Nat → Nat → Byte
opaque Config.colourAfter : List Byte → List Nat → Nat → Byte

/-- The rate in Mb/s of each of the ports 8 to 11, whose PHY the board chooses, among those of R421, by its number in the list 10,000,
5,000, 2,500, 1,000 and 100 (log entry 36). -/
opaque Config.phyRate : Nat → Fin 5

/-- What the composition of a display head leaves open (R356; log entry 81): whether a value between two codes of 12 bits, or of the
output at a place and channel, goes to the upper one; and the source coordinate of a scaled destination pixel. -/
opaque Config.blendUp : Rat → Bool
opaque Config.ditherUp : Nat → Nat → Nat → Rat → Bool
opaque Config.scaleCoord : Nat → Nat → Nat → Rat

/-- The payload rate per lane, in kb/s, of an eDP intermediate link rate code, which the spec does not give
(12_graphics_and_display R353, R354; log entry 33). -/
opaque Config.edpRate : Nat → Nat

/-- What the spec leaves to other documents in the gateway (15_bridges_and_gateway; log entry 35): the egress ports and the
traffic class of a frame the tunnel engine injects, by its bytes; its source address; and where the xSPI ring lies (base and
log₂ of its entries), which no register gives. -/
opaque Config.forward : List Byte → Nat × Nat
opaque Config.tunnelMac : Nat
opaque Config.xspiRing : Nat × Nat

/-- The clockQuality that the gPTP engine announces as a grandmaster, which the spec does not give (R241; log entry 74). -/
opaque Config.clockQuality : Word

/-- The key fuses and keys of secure boot (17_boot_and_firmware R474, R479; log entry 43): the EC hash (false) and PQ hash (true)
of a key slot, 0xFF for Timond's provisioning key; the verification of an ML-DSA-65 signature by key, message and signature;
HMAC-SHA-384 keyed with the UDS; and the alias certificate of a layer (false: Heath, true: Root monitor) by its CDI and M. -/
opaque Config.keyHash : Nat → Bool → List Byte
opaque Config.mldsa65 : List Byte → List Byte → List Byte → Bool
opaque Config.hmacUds : List Byte → List Byte
opaque Config.aliasCert : Bool → List Byte → List Byte → List Byte

/-- The size of the private code memory of an image class from 3 to 5, which the spec does not give (R470; log entry 43). -/
opaque Config.codeSize : Nat → Nat

/-- Free values, applied to the model's counter (log entry 6). -/
opaque Config.freeValue : Nat → Nat

end Sys2Proof
end

