-- ==== Sys2Proof/Machine/Ids.lean ====
section
/-!
DEFINITION. The identities of units and initiators as the Dagiesk table gives them (02_dagiesk_table R51, R52, R55): initiator
IDs, interrupt identities and path codes.  What the manual prints is a number here; the rest comes from the table's records.
-/

namespace Sys2Proof.Machine

/-- The unit of an initiator port. -/
def unitOfInitiator : Initiator → UnitId
  | .ac n => .ac n
  | .hc n => .hc n
  | .miller => .miller
  | .clusterCore n | .clusterDma n => .cluster n
  | .engine n => .te n
  | .rasterCore n => .rasterCore n
  | .rasterControl => .rasterControl
  | .ispControl | .isp => .isp
  | .csi n => .csi n
  | .ssp n => .ssp n
  | .display n => .display n
  | .frameGuard => .frameGuard
  | .fusion => .fusion
  | .pcie n => .pcie n
  | .hedgerow => .tsw
  | .can n => .can n
  | .xspi => .xspi
  | .audio => .audio 0
  | .heathDma => .heath
  | .semaphoreUnit => .weir 0
  | .firmwareLog => .fwl
  | .iommu => .iommu
  | .debugModule => .boot

/-! ## Free orders and places -/

/-- The entries of `xs`, taken one after another as `seed` picks them: every order of `xs` is one of these. -/
def shuffleFrom (seed : Nat → Nat) : Nat → List Nat → List Nat
  | 0, _ => []
  | _, [] => []
  | n + 1, x :: xs =>
    let i := seed n % (xs.length + 1)
    (x :: xs).getD i x :: shuffleFrom seed n ((x :: xs).eraseIdx i)

/-- The numbers below `n` in an order that `seed` picks. -/
def shuffle (seed : Nat → Nat) (n : Nat) : List Nat := shuffleFrom seed n (List.range n)

/-! ## Units (R50, R51, R55) -/

/-- Every unit the model names; the number of a unit is its place here, and the 182 − 164 units after them have no name here. -/
def allUnits : List UnitId := List.flatten [
  (List.finRange 64).map UnitId.te, (List.finRange 8).map UnitId.cluster, [.miller], (List.finRange 8).map UnitId.rasterCore,
  [.rasterControl], (List.finRange 4).map UnitId.display, (List.finRange 4).map UnitId.csi, [.isp],
  (List.finRange 4).map UnitId.ssp, [.frameGuard, .fusion, .mrc], (List.finRange 8).map UnitId.dmc, [.slc, .iommu, .guard, .wgd],
  (List.finRange 2).map UnitId.weir, [.tsw], (List.finRange 12).map UnitId.can, (List.finRange 2).map UnitId.pcie, [.xspi],
  (List.finRange 8).map UnitId.audio, [.timebase, .timetable], (List.finRange 16).map UnitId.ac, (List.finRange 3).map UnitId.hc,
  [.heath, .erm, .therm, .pwr, .clk, .boot, .fwl]]

/-- The number of a unit. -/
def unitNo (u : UnitId) : Nat := allUnits.idxOf u

/-- The unit records' order: the number of the unit at each place. -/
def unitOrder : List Nat := shuffle Config.unitSeed 182

/-- The place of the UNIT record of unit number `n`. -/
def unitPlace (n : Nat) : Nat := unitOrder.idxOf n

/-- The source index of a unit (R441): the place of its UNIT record among the 182. -/
def srcIndex (u : UnitId) : Nat := unitPlace (unitNo u)

/-! ## Initiator IDs -/

/-- The initiator ports of a unit. -/
def portsOf : UnitId → List Initiator
  | .te n => [.engine n]
  | .cluster n => [.clusterCore n, .clusterDma n]
  | .miller => [.miller]
  | .rasterCore n => [.rasterCore n]
  | .rasterControl => [.rasterControl]
  | .display n => [.display n]
  | .csi n => [.csi n]
  | .isp => [.isp, .ispControl]
  | .ssp n => [.ssp n]
  | .frameGuard => [.frameGuard]
  | .fusion => [.fusion]
  | .iommu => [.iommu]
  | .weir n => if Nat.beq n 0 then [.semaphoreUnit] else []
  | .tsw => [.hedgerow]
  | .can n => [.can n]
  | .pcie n => [.pcie n]
  | .xspi => [.xspi]
  | .audio n => if Nat.beq n 0 then [.audio] else []
  | .ac n => [.ac n]
  | .hc n => [.hc n]
  | .heath => [.heathDma]
  | .boot => [.debugModule]
  | .fwl => [.firmwareLog]
  | .mrc | .dmc _ | .slc | .guard | .wgd | .timebase | .timetable | .erm | .therm | .pwr | .clk => []

/-- The 16-aligned group of initiator IDs that the application cores have (14_isolated_worlds R386); 0x01B is TE27's. -/
def acGroup : Nat := if Nat.beq Config.acIidGroup 1 then 0 else Config.acIidGroup

/-- Initiator IDs of the units `us`, beside those already `used`: the first of as many consecutive ones as the unit has ports. -/
def takeIids : List UnitId → List Nat → List (UnitId × Nat)
  | [], _ => []
  | u :: us, used =>
    let n := (portsOf u).length
    let free := (List.range (1025 - n)).filter fun c => (List.range n).all fun i => !(used.contains (c + i))
    let c := free.getD (Config.iidSeed us.length % free.length) 0
    (u, c) :: takeIids us ((List.range n).map (c + ·) ++ used)

/-- The units whose initiator IDs the manual does not print. -/
def iidUnits : List UnitId :=
  allUnits.filter fun u => !(portsOf u).isEmpty && !(decide (u = .te 27)) && (match u with | .ac _ => false | _ => true)

/-- The first initiator ID of a unit (R51, R55): that of TE27 is printed, and those of AC0 to AC15 are consecutive and 16-aligned
(14_isolated_worlds R386). -/
def iidFirst : UnitId → Nat
  | .ac n => 16 * acGroup + n
  | u =>
    if decide (u = .te 27) then 0x1B
    else (((takeIids iidUnits (0x1B :: (List.range 16).map (16 * acGroup + ·))).find? fun e => decide (e.1 = u)).map (·.2)).getD 0

/-- The initiator ID of a port: one of the consecutive IDs of its unit. -/
def iidOf (i : Initiator) : BitVec 10 :=
  BitVec.ofNat 10 (iidFirst (unitOfInitiator i) + (match i with | .ac _ => 0 | _ => (portsOf (unitOfInitiator i)).idxOf i))

/-! ## Interrupt identities -/

/-- The units whose interrupts the model raises by their identity. -/
def irqUnits : List UnitId :=
  [.timebase, .therm] ++ (List.finRange 8).map UnitId.dmc ++ (List.finRange 12).map UnitId.can

/-- The INTERRUPT records' order: those of these units come first in it. -/
def irqOrder : List Nat := shuffle Config.irqSeed 412

/-- The place of the INTERRUPT record of such a unit. -/
def irqPlace (u : UnitId) : Nat := irqOrder.getD (irqUnits.idxOf u) 0

/-- The interrupt identity of a unit: the first one of its INTERRUPT record. -/
def irqOf (u : UnitId) : Nat := (Config.irqRow (irqPlace u)).irqFirst.toNat

/-! ## Path codes (R52) -/

/-- The subsystem codes of R52. -/
def subsystemCodes : List Nat := List.range 8 ++ (List.range 4).map (0x10 + ·) ++ [0x20] ++ (List.range 16).map (0x30 + ·)

/-- The subsystem of a unit, level 4 of its path (R52): its cluster, its application cluster, Heath, or another one. -/
def subsystemOf : UnitId → Nat
  | .te n => n / 8
  | .cluster n => n
  | .ac n => 0x10 + n / 4
  | .hc _ | .heath => 0x20
  | u => 0x30 + (Config.subsystem u : Nat)

/-- The subsystem of unit number `n`. -/
def subsystemOfNo (n : Nat) : Nat :=
  match allUnits[n]? with
  | some u => subsystemOf u
  | none => subsystemCodes.getD (Config.extraSubsystem n).val 0x30

/-- The indices below this one are those of the engines of a cluster, or of the cores of an application cluster. -/
def firstIndex (c : Nat) : Nat := if Nat.blt c 8 then 8 else if Nat.ble 0x10 c && Nat.blt c 0x14 then 4 else 0

/-- The other units of subsystem `c`. -/
def membersOf (c : Nat) : List Nat :=
  (List.range 182).filter fun n => Nat.beq (subsystemOfNo n) c &&
    (match allUnits[n]? with | some (.te _) | some (.ac _) => false | _ => true)

/-- The index of unit number `n` of subsystem `c` where the manual prints none: each has one of its own. -/
def otherIndex (c n : Nat) : Nat :=
  (shuffleFrom (Config.indexSeed c) 255 ((List.range 255).filter fun i => Nat.ble (firstIndex c) i)).getD ((membersOf c).idxOf n) 0

/-- The index of a unit within its subsystem, level 3 of its path (R52).  All ones would say that it is not resolved. -/
def unitIndexOf : UnitId → Nat
  | .te n => n % 8
  | .ac n => n % 4
  | u => otherIndex (subsystemOf u) (unitNo u)

/-- A path code with package and die 0 and every level below the unit all ones (R52). -/
def pathCode (sub index : Nat) : Nat := sub * 2 ^ 48 + index * 2 ^ 40 + (2 ^ 40 - 1)

/-- The path code of a unit (R23, R52). -/
def pathOf (u : UnitId) : Nat := pathCode (subsystemOf u) (unitIndexOf u)

/-- The path code of unit number `n`. -/
def pathOfNo (n : Nat) : Nat :=
  match allUnits[n]? with
  | some u => pathOf u
  | none => pathCode (subsystemOfNo n) (otherIndex (subsystemOfNo n) n)

/-- A unit's path code `p`, resolved to its array or bank `b` (R52). -/
def withBank (p b : Nat) : Nat := p / 2 ^ 40 * 2 ^ 40 + b * 2 ^ 32 + (2 ^ 32 - 1)

/-- The path code of bank `b` of a unit (R52). -/
def bankPathOf (u : UnitId) (b : Nat) : Nat := withBank (pathOf u) b

/-! ## Ownership registers (R51; 14_isolated_worlds R391) -/

/-- The ownership registers, numbered from WGD + 0x1000: the first 58 in this order have a WORLD_ASSIGNMENT record. -/
def ownOrder : List Nat := shuffle Config.ownSeed 64

/-- Register `j` is an ownership register: a record gives its offset.  The other six offsets are reserved (01_architecture R33). -/
def ownListed (j : Nat) : Bool := Nat.blt (ownOrder.idxOf j) 58

end Sys2Proof.Machine
end

