-- ==== Sys2Proof/Machine/RegTable.lean ====
section
/-!
DEFINITION. The set-up registers of the A880, one row per field map of the spec: where the register lies, how often it is
repeated, and each field's bits, access type (R11), reset value, the values an enumerated field lists (R14; [] = any), and
whether it is kept through WARM_RST_N (R13).  `Reg.X` is the address of register X, `Fld.X_Y` the bits of its field Y;
the register's name is the manual's without its index letter.  A bit of no field is reserved and reads 0 (R10).
-/

namespace Sys2Proof.Machine

/-- The bits of a field, `hi` down to `lo`. -/
structure Fld where
  hi : Nat
  lo : Nat
  deriving DecidableEq, Repr

/-- Access types (R11). -/
inductive Acc where
  | ro | rw | rwl | w1c | w1s | wo | rc
  deriving DecidableEq, Repr

/-- A field of a register. -/
structure RegField where
  fld   : Fld
  acc   : Acc
  reset : Nat := 0
  vals  : List Nat := []   -- the values an enumerated field lists; none listed: every value
  kept  : Bool := false    -- kept through WARM_RST_N
  deriving DecidableEq, Repr

/-- A register, repeated n times at a stride of s, and within that k times at a stride of t. -/
structure RegRow where
  base   : Nat
  n      : Nat := 1
  s      : Nat := 1
  k      : Nat := 1
  t      : Nat := 1
  fields : List RegField
  deriving DecidableEq, Repr

/-! ## Addresses -/

/-- 02_dagiesk_table R44 -/
def Reg.BOOT_DGK_STATUS : Nat := 0x1B000040
/-- 04_tensor_engine R121 -/
def Reg.TEN_CTRL (te : Nat) : Nat := 0x10100000 + te / 8 * 0x10000 + te % 8 * 0x2000
/-- 04_tensor_engine R121 -/
def Reg.TEN_STATUS (te : Nat) : Nat := 0x10100004 + te / 8 * 0x10000 + te % 8 * 0x2000
/-- 04_tensor_engine R121 -/
def Reg.TEN_CQ_BASE (te : Nat) : Nat := 0x10100008 + te / 8 * 0x10000 + te % 8 * 0x2000
/-- 04_tensor_engine R121 -/
def Reg.TEN_CQ_CFG (te : Nat) : Nat := 0x1010000C + te / 8 * 0x10000 + te % 8 * 0x2000
/-- 04_tensor_engine R121 -/
def Reg.TEN_CQ_TAIL (te : Nat) : Nat := 0x10100010 + te / 8 * 0x10000 + te % 8 * 0x2000
/-- 04_tensor_engine R121 -/
def Reg.TEN_CQ_HEAD (te : Nat) : Nat := 0x10100014 + te / 8 * 0x10000 + te % 8 * 0x2000
/-- 04_tensor_engine R121 -/
def Reg.TEN_ACC_CFG (te : Nat) : Nat := 0x10100020 + te / 8 * 0x10000 + te % 8 * 0x2000
/-- 04_tensor_engine R121 -/
def Reg.TEN_JOB (te : Nat) : Nat := 0x10100024 + te / 8 * 0x10000 + te % 8 * 0x2000
/-- 04_tensor_engine R121 -/
def Reg.TEN_WDT (te : Nat) : Nat := 0x10100028 + te / 8 * 0x10000 + te % 8 * 0x2000
/-- 04_tensor_engine R121 -/
def Reg.TEN_FX (te : Nat) : Nat := 0x1010002C + te / 8 * 0x10000 + te % 8 * 0x2000
/-- 04_tensor_engine R121 -/
def Reg.TEN_CHK_FAULT (te : Nat) : Nat := 0x10100040 + te / 8 * 0x10000 + te % 8 * 0x2000
/-- 04_tensor_engine R121 -/
def Reg.TEN_CHK_SKIP (te : Nat) : Nat := 0x10100044 + te / 8 * 0x10000 + te % 8 * 0x2000
/-- 04_tensor_engine R121 -/
def Reg.TEN_KV_BASE_LO (te : Nat) : Nat := 0x10100050 + te / 8 * 0x10000 + te % 8 * 0x2000
/-- 04_tensor_engine R121 -/
def Reg.TEN_KV_BASE_HI (te : Nat) : Nat := 0x10100054 + te / 8 * 0x10000 + te % 8 * 0x2000
/-- 07_control_plane R183 -/
def Reg.DB_SQ_TAIL (n k : Nat) : Nat := 0x40000000 + n * 0x1000 + k * 0x4
/-- 07_control_plane R183 -/
def Reg.DB_CQ_HEAD (n : Nat) : Nat := 0x40000040 + n * 0x1000
/-- 07_control_plane R183 -/
def Reg.DB_SQ_HEAD (n k : Nat) : Nat := 0x40000080 + n * 0x1000 + k * 0x4
/-- 07_control_plane R183 -/
def Reg.DB_CQ_TAIL (n : Nat) : Nat := 0x400000C0 + n * 0x1000
/-- 07_control_plane R183 -/
def Reg.DB_ERR (n : Nat) : Nat := 0x400000C4 + n * 0x1000
/-- 07_control_plane R204 -/
def Reg.TCX_HOST_IFVER : Nat := 0x10000000
/-- 07_control_plane R204 -/
def Reg.TCX_FW_IFVER : Nat := 0x10000004
/-- 07_control_plane R204 -/
def Reg.TCX_FW_STATUS : Nat := 0x10000008
/-- 07_control_plane R204 -/
def Reg.TCX_CTRL : Nat := 0x1000000C
/-- 07_control_plane R204 -/
def Reg.TCX_CTX0_DESC_LO : Nat := 0x10000010
/-- 07_control_plane R204 -/
def Reg.TCX_CTX0_DESC_HI : Nat := 0x10000014
/-- 07_control_plane R204 -/
def Reg.TCX_CTX_ACTIVE : Nat := 0x10000020
/-- 09_network_time_and_timetable R239 -/
def Reg.TMB_CTRL : Nat := 0x12000000
/-- 09_network_time_and_timetable R239 -/
def Reg.TMB_STATUS : Nat := 0x12000004
/-- 09_network_time_and_timetable R240 -/
def Reg.TMB_INCR_LO : Nat := 0x12000010
/-- 09_network_time_and_timetable R240 -/
def Reg.TMB_INCR_HI : Nat := 0x12000014
/-- 09_network_time_and_timetable R240 -/
def Reg.TMB_NOW_NS : Nat := 0x12000020
/-- 09_network_time_and_timetable R240 -/
def Reg.TMB_NOW_SEC_LO : Nat := 0x12000024
/-- 09_network_time_and_timetable R240 -/
def Reg.TMB_NOW_SEC_HI : Nat := 0x12000028
/-- 09_network_time_and_timetable R240 -/
def Reg.TMB_NOW_SHORT : Nat := 0x12000030
/-- 09_network_time_and_timetable R242 -/
def Reg.TMB_PTP_LAT (n : Nat) : Nat := 0x12000200 + n * 0x4
/-- 09_network_time_and_timetable R248 -/
def Reg.TMB_SERVO : Nat := 0x12000040
/-- 09_network_time_and_timetable R248 -/
def Reg.TMB_LAST_OFS : Nat := 0x12000044
/-- 09_network_time_and_timetable R248 -/
def Reg.TMB_STEPS : Nat := 0x12000048
/-- 09_network_time_and_timetable R248 -/
def Reg.TMB_LAST_STEP : Nat := 0x1200004C
/-- 09_network_time_and_timetable R248 -/
def Reg.TMB_HOLD : Nat := 0x12000050
/-- 09_network_time_and_timetable R248 -/
def Reg.TMB_ADJ_NS : Nat := 0x12000060
/-- 09_network_time_and_timetable R248 -/
def Reg.TMB_ADJ_SEC_LO : Nat := 0x12000064
/-- 09_network_time_and_timetable R248 -/
def Reg.TMB_ADJ_CTRL : Nat := 0x1200006C
/-- 09_network_time_and_timetable R258 -/
def Reg.TMB_CAP_CFG (n : Nat) : Nat := 0x12000100 + n * 0x20
/-- 09_network_time_and_timetable R258 -/
def Reg.TMB_CAP_NS (n : Nat) : Nat := 0x12000104 + n * 0x20
/-- 09_network_time_and_timetable R258 -/
def Reg.TMB_CAP_SEC_LO (n : Nat) : Nat := 0x12000108 + n * 0x20
/-- 09_network_time_and_timetable R258 -/
def Reg.TMB_CAP_SEC_HI (n : Nat) : Nat := 0x1200010C + n * 0x20
/-- 09_network_time_and_timetable R258 -/
def Reg.TMB_CAP_OVR (n : Nat) : Nat := 0x12000110 + n * 0x20
/-- 09_network_time_and_timetable R264 -/
def Reg.TTB_CTRL : Nat := 0x12010000
/-- 09_network_time_and_timetable R264 -/
def Reg.TTB_CYCLE (n : Nat) : Nat := 0x12010004 + n * 0x4
/-- 09_network_time_and_timetable R264 -/
def Reg.TTB_STATUS : Nat := 0x1201000C
/-- 09_network_time_and_timetable R264 -/
def Reg.TTB_SKIP : Nat := 0x12010010
/-- 09_network_time_and_timetable R264 -/
def Reg.TTB_TRIG_CFG (n : Nat) : Nat := 0x12010040 + n * 0x4
/-- 10_sensor_ingest_and_fusion R270 -/
def Reg.FGD_STR_CTRL (n : Nat) : Nat := 0x130C0000 + n * 0x100
/-- 10_sensor_ingest_and_fusion R270 -/
def Reg.FGD_STR_DESC_LO (n : Nat) : Nat := 0x130C0004 + n * 0x100
/-- 10_sensor_ingest_and_fusion R270 -/
def Reg.FGD_STR_DESC_HI (n : Nat) : Nat := 0x130C0008 + n * 0x100
/-- 10_sensor_ingest_and_fusion R270 -/
def Reg.FGD_STR_BUF_TAIL (n : Nat) : Nat := 0x130C000C + n * 0x100
/-- 10_sensor_ingest_and_fusion R277 -/
def Reg.CSI_CFG (n : Nat) : Nat := 0x13000000 + n * 0x10000
/-- 10_sensor_ingest_and_fusion R277 -/
def Reg.CSI_ERR (n : Nat) : Nat := 0x13000004 + n * 0x10000
/-- 10_sensor_ingest_and_fusion R286 -/
def Reg.SSP_CFG (n : Nat) : Nat := 0x13080000 + n * 0x10000
/-- 10_sensor_ingest_and_fusion R286 -/
def Reg.SSP_WM (n : Nat) : Nat := 0x13080004 + n * 0x10000
/-- 10_sensor_ingest_and_fusion R286 -/
def Reg.SSP_STATUS (n : Nat) : Nat := 0x13080008 + n * 0x10000
/-- 10_sensor_ingest_and_fusion R286 -/
def Reg.SSP_OVR (n : Nat) : Nat := 0x1308000C + n * 0x10000
/-- 10_sensor_ingest_and_fusion R291 -/
def Reg.FGD_STR_GUARD (n : Nat) : Nat := 0x130C0010 + n * 0x100
/-- 10_sensor_ingest_and_fusion R291 -/
def Reg.FGD_STR_STAT (n : Nat) : Nat := 0x130C0014 + n * 0x100
/-- 10_sensor_ingest_and_fusion R296 -/
def Reg.FUS_CTRL : Nat := 0x130D0000
/-- 10_sensor_ingest_and_fusion R296 -/
def Reg.FUS_STATUS : Nat := 0x130D0004
/-- 10_sensor_ingest_and_fusion R306 -/
def Reg.FUS_REPHASE : Nat := 0x130D0008
/-- 10_sensor_ingest_and_fusion R306 -/
def Reg.FUS_BUF_TAIL (n : Nat) : Nat := 0x130D0400 + n * 0x4
/-- 11_memory_and_bandwidth R322 -/
def Reg.MRC_REPLAYS : Nat := 0x11100020
/-- 11_memory_and_bandwidth R322 -/
def Reg.MRC_LFAULT : Nat := 0x11100024
/-- 11_memory_and_bandwidth R528 -/
def Reg.MRC_ELOG_LO : Nat := 0x11100010
/-- 11_memory_and_bandwidth R528 -/
def Reg.MRC_ELOG_HI : Nat := 0x11100014
/-- 11_memory_and_bandwidth R327 -/
def Reg.DMC_CFG (n : Nat) : Nat := 0x11000000 + n * 0x10000
/-- 11_memory_and_bandwidth R327 -/
def Reg.DMC_STATUS (n : Nat) : Nat := 0x11000004 + n * 0x10000
/-- 11_memory_and_bandwidth R327 -/
def Reg.DMC_ECC_CNT (n : Nat) : Nat := 0x11000010 + n * 0x10000
/-- 11_memory_and_bandwidth R327 -/
def Reg.DMC_ECC_ADDR (n : Nat) : Nat := 0x11000014 + n * 0x10000
/-- 11_memory_and_bandwidth R327 -/
def Reg.DMC_ECC_LOC (n : Nat) : Nat := 0x11000018 + n * 0x10000
/-- 11_memory_and_bandwidth R327 -/
def Reg.DMC_MARK (n : Nat) : Nat := 0x1100001C + n * 0x10000
/-- 11_memory_and_bandwidth R327 -/
def Reg.DMC_SCRUB (n : Nat) : Nat := 0x11000020 + n * 0x10000
/-- 11_memory_and_bandwidth R327 -/
def Reg.DMC_RP_START (n : Nat) : Nat := 0x11000030 + n * 0x10000
/-- 11_memory_and_bandwidth R327 -/
def Reg.DMC_RP_END (n : Nat) : Nat := 0x11000034 + n * 0x10000
/-- 11_memory_and_bandwidth R327 -/
def Reg.DMC_RP_CTRL (n : Nat) : Nat := 0x11000038 + n * 0x10000
/-- 11_memory_and_bandwidth R331 -/
def Reg.SLC_CLSGRP (n : Nat) : Nat := 0x11080010 + n * 0x4
/-- 11_memory_and_bandwidth R331 -/
def Reg.SLC_WAYMASK (n : Nat) : Nat := 0x11080020 + n * 0x4
/-- 11_memory_and_bandwidth R331 -/
def Reg.SLC_HOLD : Nat := 0x11080040
/-- 11_memory_and_bandwidth R331 -/
def Reg.SLC_FLUSH : Nat := 0x11080044
/-- 11_memory_and_bandwidth R337 -/
def Reg.SLU_CTRL : Nat := 0x11090000
/-- 11_memory_and_bandwidth R337 -/
def Reg.SLU_EXCL : Nat := 0x11090004
/-- 11_memory_and_bandwidth R337 -/
def Reg.SLU_PRIO (n : Nat) : Nat := 0x11090008 + n * 0x4
/-- 11_memory_and_bandwidth R337 -/
def Reg.SLU_STATUS : Nat := 0x11090010
/-- 11_memory_and_bandwidth R337 -/
def Reg.SLU_WHL (n k : Nat) : Nat := 0x11091000 + n * 0x100 + k * 0x4
/-- 12_graphics_and_display R340 -/
def Reg.GFX_GQ_CTRL (n : Nat) : Nat := 0x14000100 + n * 0x10
/-- 12_graphics_and_display R340 -/
def Reg.GFX_GQ_DESC_LO (n : Nat) : Nat := 0x14000104 + n * 0x10
/-- 12_graphics_and_display R340 -/
def Reg.GFX_GQ_DESC_HI (n : Nat) : Nat := 0x14000108 + n * 0x10
/-- 12_graphics_and_display R340 -/
def Reg.GFX_CORES : Nat := 0x14000010
/-- 12_graphics_and_display R360 -/
def Reg.DSP_CTRL (n : Nat) : Nat := 0x14100000 + n * 0x10000
/-- 12_graphics_and_display R360 -/
def Reg.DSP_DESC_LO (n : Nat) : Nat := 0x14100004 + n * 0x10000
/-- 12_graphics_and_display R360 -/
def Reg.DSP_DESC_HI (n : Nat) : Nat := 0x14100008 + n * 0x10000
/-- 12_graphics_and_display R360 -/
def Reg.DSP_STATUS (n : Nat) : Nat := 0x1410000C + n * 0x10000
/-- 12_graphics_and_display R360 -/
def Reg.DSP_LATE (n : Nat) : Nat := 0x14100010 + n * 0x10000
/-- 13_host_cores_and_redundancy R375 -/
def Reg.APC_PAIR_CTRL (pair : Nat) : Nat := 0x15000100 + pair / 2 * 0x10000 + pair % 2 * 0x20
/-- 13_host_cores_and_redundancy R375 -/
def Reg.APC_PAIR_STATUS (pair : Nat) : Nat := 0x15000104 + pair / 2 * 0x10000 + pair % 2 * 0x20
/-- 13_host_cores_and_redundancy R375 -/
def Reg.APC_PAIR_MISM (pair : Nat) : Nat := 0x15000108 + pair / 2 * 0x10000 + pair % 2 * 0x20
/-- 13_host_cores_and_redundancy R381 -/
def Reg.HTH_MODE : Nat := 0x20000000
/-- 13_host_cores_and_redundancy R381 -/
def Reg.HTH_STATUS : Nat := 0x20000004
/-- 13_host_cores_and_redundancy R381 -/
def Reg.HTH_RESYNC : Nat := 0x20000008
/-- 14_isolated_worlds R390 -/
def Reg.GRD_R_BASE_LO (n k : Nat) : Nat := 0x110A0000 + n * 0x1000 + k * 0x20
/-- 14_isolated_worlds R390 -/
def Reg.GRD_R_LIMIT_LO (n k : Nat) : Nat := 0x110A0004 + n * 0x1000 + k * 0x20
/-- 14_isolated_worlds R390 -/
def Reg.GRD_R_HI (n k : Nat) : Nat := 0x110A0008 + n * 0x1000 + k * 0x20
/-- 14_isolated_worlds R390 -/
def Reg.GRD_R_IID (n k : Nat) : Nat := 0x110A000C + n * 0x1000 + k * 0x20
/-- 14_isolated_worlds R390 -/
def Reg.GRD_R_PERM (n k : Nat) : Nat := 0x110A0010 + n * 0x1000 + k * 0x20
/-- 14_isolated_worlds R390 -/
def Reg.GRD_FENCE (n : Nat) : Nat := 0x110A0800 + n * 0x1000
/-- 14_isolated_worlds R390 -/
def Reg.GRD_STATUS (n : Nat) : Nat := 0x110A0804 + n * 0x1000
/-- 14_isolated_worlds R390 -/
def Reg.GRD_LOG_LO (n : Nat) : Nat := 0x110A0810 + n * 0x1000
/-- 14_isolated_worlds R390 -/
def Reg.GRD_LOG_HI (n : Nat) : Nat := 0x110A0814 + n * 0x1000
/-- 14_isolated_worlds R394 -/
def Reg.WGD_CTRL : Nat := 0x17000000
/-- 14_isolated_worlds R394 -/
def Reg.WGD_STATUS : Nat := 0x17000004
/-- 14_isolated_worlds R394 -/
def Reg.WGD_GATE_TMO : Nat := 0x17000008
/-- 14_isolated_worlds R394 -/
def Reg.WGD_HARTW : Nat := 0x1700000C
/-- 14_isolated_worlds R394 -/
def Reg.WGD_IMSIC_OWN : Nat := 0x17000010
/-- 14_isolated_worlds R394 -/
def Reg.WGD_LOCK (n : Nat) : Nat := 0x17000020 + n * 0x4
/-- 14_isolated_worlds R394 -/
def Reg.WGD_DBG : Nat := 0x17000030
/-- 14_isolated_worlds R394 -/
def Reg.WGD_OWN (n : Nat) : Nat := 0x17001000 + n * 0x4
/-- 14_isolated_worlds R406 -/
def Reg.PWR_SHOLD (n : Nat) : Nat := 0x1A000F00 + n * 0x4
/-- 14_isolated_worlds R406 -/
def Reg.PWR_HHOLD (n : Nat) : Nat := 0x1A000F08 + n * 0x4
/-- 14_isolated_worlds R408 -/
def Reg.BOOT_LCS : Nat := 0x1B000050
/-- 15_bridges_and_gateway R420 -/
def Reg.WIR_CTRL (n : Nat) : Nat := 0x19000000 + n * 0x10000
/-- 15_bridges_and_gateway R420 -/
def Reg.WIR_STATUS (n : Nat) : Nat := 0x19000004 + n * 0x10000
/-- 15_bridges_and_gateway R420 -/
def Reg.WIR_CNT (n : Nat) : Nat := 0x19000008 + n * 0x10000
/-- 15_bridges_and_gateway R420 -/
def Reg.WIR_RNG_BASE (n k : Nat) : Nat := 0x19000100 + n * 0x10000 + k * 0x10
/-- 15_bridges_and_gateway R420 -/
def Reg.WIR_RNG_LIMIT (n k : Nat) : Nat := 0x19000104 + n * 0x10000 + k * 0x10
/-- 15_bridges_and_gateway R420 -/
def Reg.WIR_RNG_HI (n k : Nat) : Nat := 0x19000108 + n * 0x10000 + k * 0x10
/-- 15_bridges_and_gateway R420 -/
def Reg.WIR_MSG (n k : Nat) : Nat := 0x19000400 + n * 0x10000 + k * 0x4
/-- 15_bridges_and_gateway R420 -/
def Reg.WIR0_SEM_OWN (n : Nat) : Nat := 0x19000800 + n * 0x10
/-- 15_bridges_and_gateway R420 -/
def Reg.WIR0_SEM_ADDR (n : Nat) : Nat := 0x19000804 + n * 0x10
/-- 15_bridges_and_gateway R420 -/
def Reg.WIR0_SEM_CMD (n : Nat) : Nat := 0x19000808 + n * 0x10
/-- 15_bridges_and_gateway R420 -/
def Reg.WIR0_SEM_DATA (n : Nat) : Nat := 0x1900080C + n * 0x10
/-- 15_bridges_and_gateway R426 -/
def Reg.HIF_DB_TX_TAIL (n : Nat) : Nat := 0x1800A000 + n * 0x4
/-- 15_bridges_and_gateway R426 -/
def Reg.HIF_DB_RX_TAIL (n : Nat) : Nat := 0x1800A040 + n * 0x4
/-- 15_bridges_and_gateway R426 -/
def Reg.HIF_DB_TX_HEAD (n : Nat) : Nat := 0x1800A080 + n * 0x4
/-- 15_bridges_and_gateway R426 -/
def Reg.HIF_DB_RX_HEAD (n : Nat) : Nat := 0x1800A0C0 + n * 0x4
/-- 15_bridges_and_gateway R426 -/
def Reg.HIF_DB_ERR : Nat := 0x1800A100
/-- 15_bridges_and_gateway R426 -/
def Reg.TSW_HIF_STAT : Nat := 0x1800020C
/-- 15_bridges_and_gateway R427 -/
def Reg.TSW_PTP_ID_LO : Nat := 0x18000380
/-- 15_bridges_and_gateway R427 -/
def Reg.TSW_PTP_ID_HI : Nat := 0x18000384
/-- 15_bridges_and_gateway R427 -/
def Reg.TSW_PTP_CFG (n : Nat) : Nat := 0x18000300 + n * 0x10
/-- 15_bridges_and_gateway R427 -/
def Reg.TSW_PTP_ROLE (n : Nat) : Nat := 0x18000304 + n * 0x10
/-- 15_bridges_and_gateway R427 -/
def Reg.TSW_PTP_STATE (n : Nat) : Nat := 0x18000308 + n * 0x10
/-- 15_bridges_and_gateway R427 -/
def Reg.TSW_PTP_GM_LO (n : Nat) : Nat := 0x18000340 + n * 0x8
/-- 15_bridges_and_gateway R427 -/
def Reg.TSW_PTP_GM_HI (n : Nat) : Nat := 0x18000344 + n * 0x8
/-- 15_bridges_and_gateway R427 -/
def Reg.TSW_PTP_PORT_CFG (n : Nat) : Nat := 0x18000400 + n * 0x8
/-- 15_bridges_and_gateway R427 -/
def Reg.TSW_PTP_PORT_DELAY (n : Nat) : Nat := 0x18000404 + n * 0x8
/-- 15_bridges_and_gateway R429 -/
def Reg.TSW_GCL (n : Nat) : Nat := 0x18000100 + n * 0x4
/-- 15_bridges_and_gateway R429 -/
def Reg.TSW_STATUS : Nat := 0x18000004
/-- 15_bridges_and_gateway R432 -/
def Reg.CAN_STATUS (n : Nat) : Nat := 0x1810000C + n * 0x10000
/-- 15_bridges_and_gateway R434 -/
def Reg.PCE_CFG (n : Nat) : Nat := 0x18200000 + n * 0x10000
/-- 16_safety_and_errors R451 -/
def Reg.ERM_SAFE : Nat := 0x20010000
/-- 16_safety_and_errors R451 -/
def Reg.ERM_QSTAT : Nat := 0x20010004
/-- 16_safety_and_errors R451 -/
def Reg.ERM_OVF : Nat := 0x20010008
/-- 16_safety_and_errors R451 -/
def Reg.ERM_REC (n : Nat) : Nat := 0x20010010 + n * 0x4
/-- 16_safety_and_errors R451 -/
def Reg.ERM_POP : Nat := 0x20010030
/-- 16_safety_and_errors R451 -/
def Reg.ERM_SRC (n : Nat) : Nat := 0x20011000 + n * 0x4
/-- 16_safety_and_errors R458 -/
def Reg.TCX_TW (n : Nat) : Nat := 0x10000100 + n * 0x4
/-- 16_safety_and_errors R458 -/
def Reg.TCX_DTI : Nat := 0x10000140
/-- 16_safety_and_errors R462 -/
def Reg.TCX_GOLD_CFG (n : Nat) : Nat := 0x10000200 + n * 0x20
/-- 16_safety_and_errors R462 -/
def Reg.TCX_GOLD_STAT (n : Nat) : Nat := 0x10000204 + n * 0x20
/-- 16_safety_and_errors R462 -/
def Reg.TCX_GOLD_EXP_SUM (n : Nat) : Nat := 0x10000208 + n * 0x20
/-- 16_safety_and_errors R462 -/
def Reg.TCX_GOLD_EXP_SQ (n : Nat) : Nat := 0x1000020C + n * 0x20
/-- 16_safety_and_errors R462 -/
def Reg.TCX_GOLD_EXP_MAX (n : Nat) : Nat := 0x10000210 + n * 0x20
/-- 17_boot_and_firmware R480 -/
def Reg.BOOT_STATUS : Nat := 0x1B000000
/-- 17_boot_and_firmware R480 -/
def Reg.BOOT_HARTREL : Nat := 0x1B000004
/-- 17_boot_and_firmware R480 -/
def Reg.BOOT_FUSE : Nat := 0x1B000010
/-- 17_boot_and_firmware R480 -/
def Reg.BOOT_KEYREV : Nat := 0x1B000014
/-- 17_boot_and_firmware R480 -/
def Reg.BOOT_ARB (n : Nat) : Nat := 0x1B000100 + n * 0x4
/-- 17_boot_and_firmware R480 -/
def Reg.BOOT_ARB_COMMIT : Nat := 0x1B000120
/-- 17_boot_and_firmware R487 -/
def Reg.FWL_LOG_BASE_LO : Nat := 0x1B010000
/-- 17_boot_and_firmware R487 -/
def Reg.FWL_LOG_BASE_HI : Nat := 0x1B010004
/-- 17_boot_and_firmware R487 -/
def Reg.FWL_LOG_CFG : Nat := 0x1B010008
/-- 17_boot_and_firmware R487 -/
def Reg.FWL_LOG_TAIL : Nat := 0x1B01000C
/-- 17_boot_and_firmware R487 -/
def Reg.FWL_LOG_HEAD : Nat := 0x1B010010
/-- 17_boot_and_firmware R487 -/
def Reg.FWL_LOG_LOST : Nat := 0x1B010014
/-- 17_boot_and_firmware R487 -/
def Reg.FWL_TRACE (n : Nat) : Nat := 0x1B010020 + n * 0x4
/-- 17_boot_and_firmware R487 -/
def Reg.FWL_WDT (n : Nat) : Nat := 0x1B010100 + n * 0x4
/-- 18_power_thermal_reset R490 -/
def Reg.PWR_DOM (n : Nat) : Nat := 0x1A000000 + n * 0x4
/-- 18_power_thermal_reset R504 -/
def Reg.THM_SURGE : Nat := 0x1A010000
/-- 18_power_thermal_reset R504 -/
def Reg.THM_STATUS : Nat := 0x1A010004
/-- 18_power_thermal_reset R504 -/
def Reg.THM_TJ : Nat := 0x1A010008
/-- 18_power_thermal_reset R504 -/
def Reg.THM_TWARN : Nat := 0x1A01000C
/-- 18_power_thermal_reset R504 -/
def Reg.THM_PWR : Nat := 0x1A010010
/-- 18_power_thermal_reset R504 -/
def Reg.THM_WEAR_H : Nat := 0x1A010014
/-- 18_power_thermal_reset R504 -/
def Reg.THM_WEAR_A : Nat := 0x1A010018
/-- 18_power_thermal_reset R504 -/
def Reg.THM_TS (n : Nat) : Nat := 0x1A010100 + n * 0x4
/-- 18_power_thermal_reset R506 -/
def Reg.PWR_WARM : Nat := 0x1A000F10
/-- 18_power_thermal_reset R506 -/
def Reg.PWR_RSTCAUSE : Nat := 0x1A000F14
/-- 18_power_thermal_reset R506 -/
def Reg.PWR_STATUS : Nat := 0x1A000F18
/-- 19_package_and_pins R525 -/
def Reg.CLK_MON : Nat := 0x1A020040
/-- 15_bridges_and_gateway R424 -/
def Reg.TSW_HIF_CTRL : Nat := 0x18000200
/-- 15_bridges_and_gateway R424 -/
def Reg.TSW_HIF_DESC_LO : Nat := 0x18000204
/-- 15_bridges_and_gateway R424 -/
def Reg.TSW_HIF_DESC_HI : Nat := 0x18000208
/-- 15_bridges_and_gateway R431 -/
def Reg.CAN_CTRL (n : Nat) : Nat := 0x18100000 + n * 0x10000
/-- 15_bridges_and_gateway R431 -/
def Reg.CAN_DESC_LO (n : Nat) : Nat := 0x18100004 + n * 0x10000
/-- 15_bridges_and_gateway R431 -/
def Reg.CAN_DESC_HI (n : Nat) : Nat := 0x18100008 + n * 0x10000
/-- 15_bridges_and_gateway R436 -/
def Reg.AUD_CTRL (n : Nat) : Nat := 0x18308000 + n * 0x800
/-- 15_bridges_and_gateway R436 -/
def Reg.AUD_DESC_LO (n : Nat) : Nat := 0x18308004 + n * 0x800
/-- 15_bridges_and_gateway R436 -/
def Reg.AUD_DESC_HI (n : Nat) : Nat := 0x18308008 + n * 0x800
/-- 15_bridges_and_gateway R436 -/
def Reg.AUD_BUF_TAIL (n : Nat) : Nat := 0x1830800C + n * 0x800
/-- 12_graphics_and_display R340 -/
def Reg.GQ_DB_SQ_TAIL (n : Nat) : Nat := 0x14008000 + n * 0x1000
/-- 12_graphics_and_display R340 -/
def Reg.GQ_DB_CQ_HEAD (n : Nat) : Nat := 0x14008040 + n * 0x1000
/-- 12_graphics_and_display R340 -/
def Reg.GQ_DB_SQ_HEAD (n : Nat) : Nat := 0x14008080 + n * 0x1000
/-- 12_graphics_and_display R340 -/
def Reg.GQ_DB_CQ_TAIL (n : Nat) : Nat := 0x140080C0 + n * 0x1000
/-- 12_graphics_and_display R340 -/
def Reg.GQ_DB_ERR (n : Nat) : Nat := 0x140080C4 + n * 0x1000
/-- 12_graphics_and_display R355 -/
def Reg.DSP_DB_SQ_TAIL (n : Nat) : Nat := 0x14108000 + n * 0x10000
/-- 12_graphics_and_display R355 -/
def Reg.DSP_DB_CQ_HEAD (n : Nat) : Nat := 0x14108040 + n * 0x10000
/-- 12_graphics_and_display R355 -/
def Reg.DSP_DB_SQ_HEAD (n : Nat) : Nat := 0x14108080 + n * 0x10000
/-- 12_graphics_and_display R355 -/
def Reg.DSP_DB_CQ_TAIL (n : Nat) : Nat := 0x141080C0 + n * 0x10000
/-- 12_graphics_and_display R355 -/
def Reg.DSP_DB_ERR (n : Nat) : Nat := 0x141080C4 + n * 0x10000
/-- 15_bridges_and_gateway R432 -/
def Reg.CAN_DB_SQ_TAIL (n : Nat) : Nat := 0x18108000 + n * 0x10000
/-- 15_bridges_and_gateway R432 -/
def Reg.CAN_DB_CQ_HEAD (n : Nat) : Nat := 0x18108040 + n * 0x10000
/-- 15_bridges_and_gateway R432 -/
def Reg.CAN_DB_SQ_HEAD (n : Nat) : Nat := 0x18108080 + n * 0x10000
/-- 15_bridges_and_gateway R432 -/
def Reg.CAN_DB_CQ_TAIL (n : Nat) : Nat := 0x181080C0 + n * 0x10000
/-- 15_bridges_and_gateway R432 -/
def Reg.CAN_DB_ERR (n : Nat) : Nat := 0x181080C4 + n * 0x10000
/-- 15_bridges_and_gateway R435 -/
def Reg.XSP_DB_SQ_TAIL : Nat := 0x18304000
/-- 15_bridges_and_gateway R435 -/
def Reg.XSP_DB_CQ_HEAD : Nat := 0x18304040
/-- 15_bridges_and_gateway R435 -/
def Reg.XSP_DB_SQ_HEAD : Nat := 0x18304080
/-- 15_bridges_and_gateway R435 -/
def Reg.XSP_DB_CQ_TAIL : Nat := 0x183040C0
/-- 15_bridges_and_gateway R435 -/
def Reg.XSP_DB_ERR : Nat := 0x183040C4
/-- 11_memory_and_bandwidth R327 -/
def Reg.DMC_SUM (n k : Nat) : Nat := 0x11000100 + n * 0x10000 + k * 0x4

/-! ## Fields -/

def Fld.BOOT_DGK_STATUS_CRC_OK : Fld := ⟨1, 1⟩
def Fld.BOOT_DGK_STATUS_READY : Fld := ⟨0, 0⟩
def Fld.TEN_CTRL_HALT : Fld := ⟨2, 2⟩
def Fld.TEN_CTRL_RESET : Fld := ⟨1, 1⟩
def Fld.TEN_CTRL_ENABLE : Fld := ⟨0, 0⟩
def Fld.TEN_STATUS_FAULT_TAG : Fld := ⟨31, 24⟩
def Fld.TEN_STATUS_CAUSE : Fld := ⟨19, 16⟩
def Fld.TEN_STATUS_STATE : Fld := ⟨2, 0⟩
def Fld.TEN_CQ_BASE_BASE : Fld := ⟨22, 4⟩
def Fld.TEN_CQ_CFG_SIZE : Fld := ⟨3, 0⟩
def Fld.TEN_CQ_TAIL_TAIL : Fld := ⟨11, 0⟩
def Fld.TEN_CQ_HEAD_HEAD : Fld := ⟨11, 0⟩
def Fld.TEN_ACC_CFG_ACC_SIZE : Fld := ⟨11, 8⟩
def Fld.TEN_ACC_CFG_ACC_BASE : Fld := ⟨4, 0⟩
def Fld.TEN_JOB_CTX : Fld := ⟨20, 16⟩
def Fld.TEN_JOB_CLASS : Fld := ⟨11, 8⟩
def Fld.TEN_JOB_NAN_ON_OVF : Fld := ⟨0, 0⟩
def Fld.TEN_WDT_LIMIT_US : Fld := ⟨23, 0⟩
def Fld.TEN_FX_FX : Fld := ⟨7, 0⟩
def Fld.TEN_CHK_FAULT_TAG : Fld := ⟨31, 24⟩
def Fld.TEN_CHK_FAULT_ARY : Fld := ⟨23, 22⟩
def Fld.TEN_CHK_FAULT_PATH : Fld := ⟨21, 21⟩
def Fld.TEN_CHK_FAULT_KIND : Fld := ⟨20, 20⟩
def Fld.TEN_CHK_FAULT_BLK : Fld := ⟨19, 19⟩
def Fld.TEN_CHK_FAULT_SELFTEST : Fld := ⟨18, 18⟩
def Fld.TEN_CHK_FAULT_VALID : Fld := ⟨16, 16⟩
def Fld.TEN_CHK_FAULT_VEC : Fld := ⟨15, 0⟩
def Fld.TEN_CHK_SKIP_SKIPPED : Fld := ⟨31, 0⟩
def Fld.TEN_KV_BASE_LO_BASE_LO : Fld := ⟨31, 28⟩
def Fld.TEN_KV_BASE_HI_BASE_HI : Fld := ⟨15, 0⟩
def Fld.DB_SQ_TAIL_TAIL : Fld := ⟨15, 0⟩
def Fld.DB_CQ_HEAD_HEAD : Fld := ⟨15, 0⟩
def Fld.DB_SQ_HEAD_HEAD : Fld := ⟨15, 0⟩
def Fld.DB_CQ_TAIL_TAIL : Fld := ⟨15, 0⟩
def Fld.DB_ERR_IGNORED : Fld := ⟨31, 0⟩
def Fld.TCX_HOST_IFVER_MAJOR : Fld := ⟨15, 8⟩
def Fld.TCX_HOST_IFVER_MINOR : Fld := ⟨7, 0⟩
def Fld.TCX_FW_IFVER_MAJOR : Fld := ⟨15, 8⟩
def Fld.TCX_FW_IFVER_MINOR : Fld := ⟨7, 0⟩
def Fld.TCX_FW_STATUS_STATE : Fld := ⟨3, 0⟩
def Fld.TCX_CTRL_GO : Fld := ⟨0, 0⟩
def Fld.TCX_CTX0_DESC_LO_ADDR_LO : Fld := ⟨31, 8⟩
def Fld.TCX_CTX0_DESC_HI_ADDR_HI : Fld := ⟨15, 0⟩
def Fld.TCX_CTX_ACTIVE_ACTIVE : Fld := ⟨31, 0⟩
def Fld.TMB_CTRL_PPS_W : Fld := ⟨31, 24⟩
def Fld.TMB_CTRL_SOURCE : Fld := ⟨9, 8⟩
def Fld.TMB_CTRL_DOMAIN : Fld := ⟨7, 6⟩
def Fld.TMB_CTRL_PPS_OUT_EN : Fld := ⟨3, 3⟩
def Fld.TMB_CTRL_STEP_EN : Fld := ⟨2, 2⟩
def Fld.TMB_CTRL_SERVO_EN : Fld := ⟨1, 1⟩
def Fld.TMB_STATUS_STUCK : Fld := ⟨30, 26⟩
def Fld.TMB_STATUS_OVR : Fld := ⟨25, 21⟩
def Fld.TMB_STATUS_CAP : Fld := ⟨20, 16⟩
def Fld.TMB_STATUS_CFG_ERR : Fld := ⟨5, 5⟩
def Fld.TMB_STATUS_LOCK_LOST : Fld := ⟨4, 4⟩
def Fld.TMB_STATUS_HOLD : Fld := ⟨3, 3⟩
def Fld.TMB_STATUS_STEP : Fld := ⟨2, 2⟩
def Fld.TMB_STATUS_HOLDOVER : Fld := ⟨1, 1⟩
def Fld.TMB_STATUS_LOCKED : Fld := ⟨0, 0⟩
def Fld.TMB_INCR_LO_FRAC : Fld := ⟨31, 0⟩
def Fld.TMB_INCR_HI_NS : Fld := ⟨7, 0⟩
def Fld.TMB_NOW_NS_NS : Fld := ⟨31, 0⟩
def Fld.TMB_NOW_SEC_LO_SEC_LO : Fld := ⟨31, 0⟩
def Fld.TMB_NOW_SEC_HI_SEC_HI : Fld := ⟨15, 0⟩
def Fld.TMB_NOW_SHORT_SHORT : Fld := ⟨31, 0⟩
def Fld.TMB_PTP_LAT_RXLAT : Fld := ⟨31, 16⟩
def Fld.TMB_PTP_LAT_TXLAT : Fld := ⟨15, 0⟩
def Fld.TMB_SERVO_SYNC_LOG : Fld := ⟨11, 8⟩
def Fld.TMB_SERVO_KI_SH : Fld := ⟨7, 4⟩
def Fld.TMB_SERVO_KP_SH : Fld := ⟨3, 0⟩
def Fld.TMB_LAST_OFS_OFS : Fld := ⟨31, 0⟩
def Fld.TMB_STEPS_COUNT : Fld := ⟨15, 0⟩
def Fld.TMB_LAST_STEP_AMOUNT : Fld := ⟨31, 0⟩
def Fld.TMB_HOLD_MS : Fld := ⟨31, 0⟩
def Fld.TMB_ADJ_NS_NS : Fld := ⟨31, 0⟩
def Fld.TMB_ADJ_SEC_LO_SEC_LO : Fld := ⟨31, 0⟩
def Fld.TMB_ADJ_CTRL_SEC_HI : Fld := ⟨31, 16⟩
def Fld.TMB_ADJ_CTRL_MODE : Fld := ⟨1, 1⟩
def Fld.TMB_ADJ_CTRL_GO : Fld := ⟨0, 0⟩
def Fld.TMB_CAP_CFG_STUCK_US : Fld := ⟨31, 8⟩
def Fld.TMB_CAP_CFG_POL : Fld := ⟨1, 1⟩
def Fld.TMB_CAP_CFG_EN : Fld := ⟨0, 0⟩
def Fld.TMB_CAP_NS_NS : Fld := ⟨31, 0⟩
def Fld.TMB_CAP_SEC_LO_SEC_LO : Fld := ⟨31, 0⟩
def Fld.TMB_CAP_SEC_HI_FILL : Fld := ⟨20, 16⟩
def Fld.TMB_CAP_SEC_HI_SEC_HI : Fld := ⟨15, 0⟩
def Fld.TMB_CAP_OVR_LOST : Fld := ⟨31, 0⟩
def Fld.TTB_CTRL_ACTIVE : Fld := ⟨3, 3⟩
def Fld.TTB_CTRL_SWAP : Fld := ⟨1, 1⟩
def Fld.TTB_CTRL_ENABLE : Fld := ⟨0, 0⟩
def Fld.TTB_CYCLE_CYCLE : Fld := ⟨29, 0⟩
def Fld.TTB_STATUS_ERR_ENTRY : Fld := ⟨25, 16⟩
def Fld.TTB_STATUS_SWAP_ERR : Fld := ⟨1, 1⟩
def Fld.TTB_STATUS_WIN_ERR : Fld := ⟨0, 0⟩
def Fld.TTB_SKIP_DROPPED : Fld := ⟨31, 16⟩
def Fld.TTB_SKIP_SKIPPED : Fld := ⟨15, 0⟩
def Fld.TTB_TRIG_CFG_WIDTH : Fld := ⟨22, 3⟩
def Fld.TTB_TRIG_CFG_OE : Fld := ⟨1, 1⟩
def Fld.TTB_TRIG_CFG_POL : Fld := ⟨0, 0⟩
def Fld.FGD_STR_CTRL_CFG_ERR : Fld := ⟨2, 2⟩
def Fld.FGD_STR_CTRL_EN : Fld := ⟨0, 0⟩
def Fld.FGD_STR_DESC_LO_ADDR_LO : Fld := ⟨31, 6⟩
def Fld.FGD_STR_DESC_HI_ADDR_HI : Fld := ⟨15, 0⟩
def Fld.FGD_STR_BUF_TAIL_TAIL : Fld := ⟨11, 0⟩
def Fld.CSI_CFG_LANES : Fld := ⟨6, 4⟩
def Fld.CSI_CFG_PHY : Fld := ⟨1, 1⟩
def Fld.CSI_CFG_EN : Fld := ⟨0, 0⟩
def Fld.CSI_ERR_DISCARD : Fld := ⟨31, 16⟩
def Fld.CSI_ERR_ECC_FIX : Fld := ⟨15, 0⟩
def Fld.SSP_CFG_HOLD_POL : Fld := ⟨3, 3⟩
def Fld.SSP_CFG_FV_POL : Fld := ⟨2, 2⟩
def Fld.SSP_CFG_DV_POL : Fld := ⟨1, 1⟩
def Fld.SSP_CFG_EN : Fld := ⟨0, 0⟩
def Fld.SSP_WM_HWM : Fld := ⟨28, 16⟩
def Fld.SSP_WM_LWM : Fld := ⟨12, 0⟩
def Fld.SSP_STATUS_FILL : Fld := ⟨28, 16⟩
def Fld.SSP_STATUS_HOLD : Fld := ⟨6, 6⟩
def Fld.SSP_STATUS_CLK_LOST : Fld := ⟨5, 5⟩
def Fld.SSP_STATUS_CFG_ERR : Fld := ⟨4, 4⟩
def Fld.SSP_STATUS_OVR : Fld := ⟨3, 3⟩
def Fld.SSP_STATUS_FULL : Fld := ⟨2, 2⟩
def Fld.SSP_STATUS_URG : Fld := ⟨1, 0⟩
def Fld.SSP_OVR_LOST : Fld := ⟨31, 0⟩
def Fld.FGD_STR_GUARD_TS_OFS : Fld := ⟨31, 24⟩
def Fld.FGD_STR_GUARD_CNT_OFS : Fld := ⟨23, 16⟩
def Fld.FGD_STR_GUARD_M : Fld := ⟨11, 8⟩
def Fld.FGD_STR_GUARD_CNT_EN : Fld := ⟨1, 1⟩
def Fld.FGD_STR_GUARD_TS_EN : Fld := ⟨0, 0⟩
def Fld.FGD_STR_STAT_REPEATS : Fld := ⟨31, 16⟩
def Fld.FGD_STR_STAT_FROZENS : Fld := ⟨15, 0⟩
def Fld.FUS_CTRL_SWAP_INST : Fld := ⟨13, 8⟩
def Fld.FUS_CTRL_LOCKED : Fld := ⟨4, 4⟩
def Fld.FUS_CTRL_ACTIVE : Fld := ⟨3, 3⟩
def Fld.FUS_CTRL_SWAP : Fld := ⟨1, 1⟩
def Fld.FUS_CTRL_EN : Fld := ⟨0, 0⟩
def Fld.FUS_STATUS_SWAP_ERR : Fld := ⟨2, 2⟩
def Fld.FUS_STATUS_SWAP_DONE : Fld := ⟨1, 1⟩
def Fld.FUS_STATUS_WIN_ERR : Fld := ⟨0, 0⟩
def Fld.FUS_REPHASE_GO : Fld := ⟨8, 8⟩
def Fld.FUS_REPHASE_SENSOR : Fld := ⟨5, 0⟩
def Fld.FUS_BUF_TAIL_TAIL : Fld := ⟨11, 0⟩
def Fld.MRC_REPLAYS_COUNT : Fld := ⟨31, 0⟩
def Fld.MRC_LFAULT_VALID : Fld := ⟨31, 31⟩
def Fld.MRC_LFAULT_DIR : Fld := ⟨9, 8⟩
def Fld.MRC_LFAULT_ROUTER : Fld := ⟨7, 0⟩
def Fld.MRC_ELOG_LO_ADDR_LO : Fld := ⟨31, 0⟩
def Fld.MRC_ELOG_HI_VALID : Fld := ⟨31, 31⟩
def Fld.MRC_ELOG_HI_W : Fld := ⟨30, 30⟩
def Fld.MRC_ELOG_HI_TYPE : Fld := ⟨29, 28⟩
def Fld.MRC_ELOG_HI_IID : Fld := ⟨25, 16⟩
def Fld.MRC_ELOG_HI_ADDR_HI : Fld := ⟨15, 0⟩
def Fld.DMC_CFG_MARK_THR : Fld := ⟨31, 24⟩
def Fld.DMC_CFG_RATE : Fld := ⟨11, 10⟩
def Fld.DMC_CFG_DENS : Fld := ⟨9, 8⟩
def Fld.DMC_CFG_WIDTH : Fld := ⟨6, 6⟩
def Fld.DMC_CFG_RANKS : Fld := ⟨5, 4⟩
def Fld.DMC_STATUS_CFG_ERR : Fld := ⟨4, 4⟩
def Fld.DMC_STATUS_RP_DONE : Fld := ⟨3, 3⟩
def Fld.DMC_STATUS_RP_BUSY : Fld := ⟨2, 2⟩
def Fld.DMC_STATUS_READY : Fld := ⟨0, 0⟩
def Fld.DMC_ECC_CNT_UE : Fld := ⟨31, 16⟩
def Fld.DMC_ECC_CNT_CE : Fld := ⟨15, 0⟩
def Fld.DMC_ECC_ADDR_WORD : Fld := ⟨31, 0⟩
def Fld.DMC_ECC_LOC_VALID : Fld := ⟨31, 31⟩
def Fld.DMC_ECC_LOC_UE : Fld := ⟨8, 8⟩
def Fld.DMC_ECC_LOC_SUB : Fld := ⟨7, 7⟩
def Fld.DMC_ECC_LOC_RANK : Fld := ⟨6, 6⟩
def Fld.DMC_ECC_LOC_SRC : Fld := ⟨5, 4⟩
def Fld.DMC_ECC_LOC_DEV : Fld := ⟨3, 0⟩
def Fld.DMC_MARK_MKB1 : Fld := ⟨31, 31⟩
def Fld.DMC_MARK_DEVB1 : Fld := ⟨27, 24⟩
def Fld.DMC_MARK_MKB0 : Fld := ⟨23, 23⟩
def Fld.DMC_MARK_DEVB0 : Fld := ⟨19, 16⟩
def Fld.DMC_MARK_MKA1 : Fld := ⟨15, 15⟩
def Fld.DMC_MARK_DEVA1 : Fld := ⟨11, 8⟩
def Fld.DMC_MARK_MKA0 : Fld := ⟨7, 7⟩
def Fld.DMC_MARK_DEVA0 : Fld := ⟨3, 0⟩
def Fld.DMC_SCRUB_INTERVAL : Fld := ⟨19, 0⟩
def Fld.DMC_RP_START_PAGE : Fld := ⟨24, 0⟩
def Fld.DMC_RP_END_PAGE : Fld := ⟨25, 0⟩
def Fld.DMC_RP_CTRL_ABORT : Fld := ⟨1, 1⟩
def Fld.DMC_RP_CTRL_GO : Fld := ⟨0, 0⟩
def Fld.SLC_CLSGRP_G7 : Fld := ⟨31, 28⟩
def Fld.SLC_CLSGRP_G6 : Fld := ⟨27, 24⟩
def Fld.SLC_CLSGRP_G5 : Fld := ⟨23, 20⟩
def Fld.SLC_CLSGRP_G4 : Fld := ⟨19, 16⟩
def Fld.SLC_CLSGRP_G3 : Fld := ⟨15, 12⟩
def Fld.SLC_CLSGRP_G2 : Fld := ⟨11, 8⟩
def Fld.SLC_CLSGRP_G1 : Fld := ⟨7, 4⟩
def Fld.SLC_CLSGRP_G0 : Fld := ⟨3, 0⟩
def Fld.SLC_WAYMASK_WAYS : Fld := ⟨23, 0⟩
def Fld.SLC_HOLD_PEND : Fld := ⟨8, 8⟩
def Fld.SLC_HOLD_WAYS : Fld := ⟨2, 0⟩
def Fld.SLC_FLUSH_WAYS : Fld := ⟨23, 0⟩
def Fld.SLU_CTRL_ACTIVE : Fld := ⟨2, 2⟩
def Fld.SLU_CTRL_SWAP : Fld := ⟨1, 1⟩
def Fld.SLU_CTRL_EN : Fld := ⟨0, 0⟩
def Fld.SLU_EXCL_EXCL : Fld := ⟨15, 0⟩
def Fld.SLU_PRIO_P7 : Fld := ⟨31, 28⟩
def Fld.SLU_PRIO_P6 : Fld := ⟨27, 24⟩
def Fld.SLU_PRIO_P5 : Fld := ⟨23, 20⟩
def Fld.SLU_PRIO_P4 : Fld := ⟨19, 16⟩
def Fld.SLU_PRIO_P3 : Fld := ⟨15, 12⟩
def Fld.SLU_PRIO_P2 : Fld := ⟨11, 8⟩
def Fld.SLU_PRIO_P1 : Fld := ⟨7, 4⟩
def Fld.SLU_PRIO_P0 : Fld := ⟨3, 0⟩
def Fld.SLU_STATUS_RELABEL : Fld := ⟨1, 1⟩
def Fld.SLU_STATUS_CFG_ERR : Fld := ⟨0, 0⟩
def Fld.SLU_WHL_SLOT3 : Fld := ⟨31, 24⟩
def Fld.SLU_WHL_SLOT2 : Fld := ⟨23, 16⟩
def Fld.SLU_WHL_SLOT1 : Fld := ⟨15, 8⟩
def Fld.SLU_WHL_SLOT0 : Fld := ⟨7, 0⟩
def Fld.GFX_GQ_CTRL_CFG_ERR : Fld := ⟨2, 2⟩
def Fld.GFX_GQ_CTRL_EN : Fld := ⟨0, 0⟩
def Fld.GFX_GQ_DESC_LO_ADDR_LO : Fld := ⟨31, 6⟩
def Fld.GFX_GQ_DESC_HI_ADDR_HI : Fld := ⟨15, 0⟩
def Fld.GFX_CORES_ONLINE : Fld := ⟨7, 0⟩
def Fld.DSP_CTRL_EN : Fld := ⟨0, 0⟩
def Fld.DSP_DESC_LO_ADDR_LO : Fld := ⟨31, 6⟩
def Fld.DSP_DESC_HI_ADDR_HI : Fld := ⟨15, 0⟩
def Fld.DSP_STATUS_URG : Fld := ⟨8, 7⟩
def Fld.DSP_STATUS_DERR : Fld := ⟨6, 6⟩
def Fld.DSP_STATUS_UNDERRUN : Fld := ⟨5, 5⟩
def Fld.DSP_STATUS_LINK_ERR : Fld := ⟨4, 4⟩
def Fld.DSP_STATUS_CFG_ERR : Fld := ⟨3, 3⟩
def Fld.DSP_STATUS_HPD : Fld := ⟨2, 2⟩
def Fld.DSP_STATUS_LINK_UP : Fld := ⟨0, 0⟩
def Fld.DSP_LATE_LATE : Fld := ⟨31, 0⟩
def Fld.APC_PAIR_CTRL_TMO_US : Fld := ⟨23, 16⟩
def Fld.APC_PAIR_CTRL_RESET : Fld := ⟨8, 8⟩
def Fld.APC_PAIR_CTRL_TARGET : Fld := ⟨0, 0⟩
def Fld.APC_PAIR_STATUS_ENTRY : Fld := ⟨31, 16⟩
def Fld.APC_PAIR_STATUS_TIMEOUT : Fld := ⟨6, 6⟩
def Fld.APC_PAIR_STATUS_MISM : Fld := ⟨5, 5⟩
def Fld.APC_PAIR_STATUS_MODE : Fld := ⟨2, 0⟩
def Fld.APC_PAIR_MISM_VALID : Fld := ⟨31, 31⟩
def Fld.APC_PAIR_MISM_KIND : Fld := ⟨30, 29⟩
def Fld.APC_PAIR_MISM_INSTR : Fld := ⟨28, 0⟩
def Fld.HTH_MODE_TMO_US : Fld := ⟨31, 24⟩
def Fld.HTH_MODE_TARGET : Fld := ⟨0, 0⟩
def Fld.HTH_STATUS_FENCED : Fld := ⟨9, 9⟩
def Fld.HTH_STATUS_CFG_ERR : Fld := ⟨8, 8⟩
def Fld.HTH_STATUS_ODD : Fld := ⟨7, 6⟩
def Fld.HTH_STATUS_RESYNC : Fld := ⟨5, 5⟩
def Fld.HTH_STATUS_TIMEOUT : Fld := ⟨4, 4⟩
def Fld.HTH_STATUS_MODE : Fld := ⟨2, 0⟩
def Fld.HTH_RESYNC_COUNT : Fld := ⟨31, 0⟩
def Fld.GRD_R_BASE_LO_BASE_LO : Fld := ⟨31, 12⟩
def Fld.GRD_R_LIMIT_LO_LIMIT_LO : Fld := ⟨31, 12⟩
def Fld.GRD_R_HI_LIMIT_HI : Fld := ⟨31, 16⟩
def Fld.GRD_R_HI_BASE_HI : Fld := ⟨15, 0⟩
def Fld.GRD_R_IID_MASK : Fld := ⟨25, 16⟩
def Fld.GRD_R_IID_VALUE : Fld := ⟨9, 0⟩
def Fld.GRD_R_PERM_EN : Fld := ⟨31, 31⟩
def Fld.GRD_R_PERM_SX : Fld := ⟨5, 5⟩
def Fld.GRD_R_PERM_SW : Fld := ⟨4, 4⟩
def Fld.GRD_R_PERM_SR : Fld := ⟨3, 3⟩
def Fld.GRD_R_PERM_NX : Fld := ⟨2, 2⟩
def Fld.GRD_R_PERM_NW : Fld := ⟨1, 1⟩
def Fld.GRD_R_PERM_NR : Fld := ⟨0, 0⟩
def Fld.GRD_FENCE_GO : Fld := ⟨0, 0⟩
def Fld.GRD_STATUS_CFG_ERR : Fld := ⟨2, 2⟩
def Fld.GRD_STATUS_PEND : Fld := ⟨1, 1⟩
def Fld.GRD_STATUS_BUSY : Fld := ⟨0, 0⟩
def Fld.GRD_LOG_LO_ADDR_LO : Fld := ⟨31, 0⟩
def Fld.GRD_LOG_HI_VALID : Fld := ⟨31, 31⟩
def Fld.GRD_LOG_HI_W : Fld := ⟨30, 30⟩
def Fld.GRD_LOG_HI_TYPE : Fld := ⟨29, 28⟩
def Fld.GRD_LOG_HI_IID : Fld := ⟨25, 16⟩
def Fld.GRD_LOG_HI_ADDR_HI : Fld := ⟨15, 0⟩
def Fld.WGD_CTRL_FAIL : Fld := ⟨0, 0⟩
def Fld.WGD_STATUS_CFG_ERR : Fld := ⟨3, 3⟩
def Fld.WGD_STATUS_MSI_DROP : Fld := ⟨2, 2⟩
def Fld.WGD_STATUS_GATE_FLT : Fld := ⟨1, 1⟩
def Fld.WGD_STATUS_FAILED : Fld := ⟨0, 0⟩
def Fld.WGD_GATE_TMO_US : Fld := ⟨23, 0⟩
def Fld.WGD_HARTW_SECURE : Fld := ⟨15, 0⟩
def Fld.WGD_IMSIC_OWN_MSEC : Fld := ⟨15, 0⟩
def Fld.WGD_LOCK_GROUPS : Fld := ⟨31, 0⟩
def Fld.WGD_DBG_LOCK : Fld := ⟨1, 1⟩
def Fld.WGD_DBG_SDBG : Fld := ⟨0, 0⟩
def Fld.WGD_OWN_WORLD : Fld := ⟨0, 0⟩
def Fld.PWR_SHOLD_DOM : Fld := ⟨31, 0⟩
def Fld.PWR_HHOLD_DOM : Fld := ⟨31, 0⟩
def Fld.BOOT_LCS_CODE : Fld := ⟨31, 16⟩
def Fld.BOOT_LCS_TARGET : Fld := ⟨5, 4⟩
def Fld.BOOT_LCS_PENDING : Fld := ⟨2, 2⟩
def Fld.BOOT_LCS_STATE : Fld := ⟨1, 0⟩
def Fld.WIR_CTRL_CLASS : Fld := ⟨31, 28⟩
def Fld.WIR_CTRL_TGT_TMO_US : Fld := ⟨27, 16⟩
def Fld.WIR_CTRL_RD_TMO_US : Fld := ⟨11, 0⟩
def Fld.WIR_STATUS_CFG_ERR : Fld := ⟨3, 3⟩
def Fld.WIR_STATUS_TGT_TO : Fld := ⟨2, 2⟩
def Fld.WIR_STATUS_DISCARD : Fld := ⟨1, 1⟩
def Fld.WIR_STATUS_PERR : Fld := ⟨0, 0⟩
def Fld.WIR_CNT_DISCARD : Fld := ⟨31, 16⟩
def Fld.WIR_CNT_PERR : Fld := ⟨15, 0⟩
def Fld.WIR_RNG_BASE_BASE_LO : Fld := ⟨31, 12⟩
def Fld.WIR_RNG_BASE_POSTED : Fld := ⟨1, 1⟩
def Fld.WIR_RNG_BASE_EN : Fld := ⟨0, 0⟩
def Fld.WIR_RNG_LIMIT_LIMIT_LO : Fld := ⟨31, 12⟩
def Fld.WIR_RNG_HI_LIMIT_HI : Fld := ⟨31, 16⟩
def Fld.WIR_RNG_HI_BASE_HI : Fld := ⟨15, 0⟩
def Fld.WIR_MSG_EN : Fld := ⟨31, 31⟩
def Fld.WIR_MSG_W : Fld := ⟨30, 30⟩
def Fld.WIR_MSG_PAGE : Fld := ⟨27, 16⟩
def Fld.WIR_MSG_ID : Fld := ⟨10, 0⟩
def Fld.WIR0_SEM_OWN_RESP : Fld := ⟨23, 21⟩
def Fld.WIR0_SEM_OWN_BUSY : Fld := ⟨20, 20⟩
def Fld.WIR0_SEM_OWN_RELEASE : Fld := ⟨17, 17⟩
def Fld.WIR0_SEM_OWN_ACQUIRE : Fld := ⟨16, 16⟩
def Fld.WIR0_SEM_OWN_HELD : Fld := ⟨15, 15⟩
def Fld.WIR0_SEM_OWN_OWNER : Fld := ⟨9, 0⟩
def Fld.WIR0_SEM_ADDR_ADDR_LO : Fld := ⟨31, 2⟩
def Fld.WIR0_SEM_CMD_GO : Fld := ⟨31, 31⟩
def Fld.WIR0_SEM_CMD_OP : Fld := ⟨19, 16⟩
def Fld.WIR0_SEM_CMD_ADDR_HI : Fld := ⟨15, 0⟩
def Fld.WIR0_SEM_DATA_DATA : Fld := ⟨31, 0⟩
def Fld.HIF_DB_TX_TAIL_TAIL : Fld := ⟨11, 0⟩
def Fld.HIF_DB_RX_TAIL_TAIL : Fld := ⟨11, 0⟩
def Fld.HIF_DB_TX_HEAD_HEAD : Fld := ⟨11, 0⟩
def Fld.HIF_DB_RX_HEAD_HEAD : Fld := ⟨11, 0⟩
def Fld.HIF_DB_ERR_IGNORED : Fld := ⟨31, 0⟩
def Fld.TSW_HIF_STAT_RX_LOST : Fld := ⟨31, 16⟩
def Fld.TSW_HIF_STAT_TX_ERR : Fld := ⟨15, 0⟩
def Fld.TSW_PTP_ID_LO_ID_LO : Fld := ⟨31, 0⟩
def Fld.TSW_PTP_ID_HI_ID_HI : Fld := ⟨31, 0⟩
def Fld.TSW_PTP_CFG_EN : Fld := ⟨31, 31⟩
def Fld.TSW_PTP_CFG_EXT : Fld := ⟨30, 30⟩
def Fld.TSW_PTP_CFG_LOG_SYNC : Fld := ⟨27, 24⟩
def Fld.TSW_PTP_CFG_PRIO1 : Fld := ⟨23, 16⟩
def Fld.TSW_PTP_CFG_PRIO2 : Fld := ⟨15, 8⟩
def Fld.TSW_PTP_CFG_DOMAIN : Fld := ⟨6, 0⟩
def Fld.TSW_PTP_ROLE_ROLES : Fld := ⟨27, 0⟩
def Fld.TSW_PTP_STATE_GM_SELF : Fld := ⟨31, 31⟩
def Fld.TSW_PTP_STATE_SLAVE_VALID : Fld := ⟨30, 30⟩
def Fld.TSW_PTP_STATE_SLAVE_PORT : Fld := ⟨27, 24⟩
def Fld.TSW_PTP_STATE_GM_CHG : Fld := ⟨15, 0⟩
def Fld.TSW_PTP_GM_LO_GM : Fld := ⟨31, 0⟩
def Fld.TSW_PTP_GM_HI_GM : Fld := ⟨31, 0⟩
def Fld.TSW_PTP_PORT_CFG_LOG_PDELAY : Fld := ⟨7, 4⟩
def Fld.TSW_PTP_PORT_CFG_EN : Fld := ⟨0, 0⟩
def Fld.TSW_PTP_PORT_DELAY_VALID : Fld := ⟨31, 31⟩
def Fld.TSW_PTP_PORT_DELAY_DELAY : Fld := ⟨30, 0⟩
def Fld.TSW_GCL_CLEAR : Fld := ⟨8, 8⟩
def Fld.TSW_GCL_ACTIVE : Fld := ⟨4, 4⟩
def Fld.TSW_GCL_LIST : Fld := ⟨3, 0⟩
def Fld.TSW_STATUS_CFG_ERR : Fld := ⟨0, 0⟩
def Fld.CAN_STATUS_RX_LOST : Fld := ⟨31, 16⟩
def Fld.CAN_STATUS_REC : Fld := ⟨15, 8⟩
def Fld.CAN_STATUS_TEC : Fld := ⟨7, 2⟩
def Fld.CAN_STATUS_PASSIVE : Fld := ⟨1, 1⟩
def Fld.CAN_STATUS_BUSOFF : Fld := ⟨0, 0⟩
def Fld.PCE_CFG_CLASS : Fld := ⟨11, 8⟩
def Fld.PCE_CFG_GEN : Fld := ⟨6, 4⟩
def Fld.PCE_CFG_WIDTH : Fld := ⟨3, 2⟩
def Fld.PCE_CFG_EN : Fld := ⟨0, 0⟩
def Fld.ERM_SAFE_ESC_LEVEL : Fld := ⟨11, 10⟩
def Fld.ERM_SAFE_FALLBACK : Fld := ⟨9, 8⟩
def Fld.ERM_SAFE_FAULT : Fld := ⟨4, 4⟩
def Fld.ERM_SAFE_FAULT_CLR : Fld := ⟨3, 3⟩
def Fld.ERM_SAFE_LEVEL : Fld := ⟨1, 0⟩
def Fld.ERM_QSTAT_FILL : Fld := ⟨6, 0⟩
def Fld.ERM_OVF_DROPPED : Fld := ⟨31, 0⟩
def Fld.ERM_REC_WORD : Fld := ⟨31, 0⟩
def Fld.ERM_POP_POP : Fld := ⟨0, 0⟩
def Fld.ERM_SRC_ACTION : Fld := ⟨9, 8⟩
def Fld.ERM_SRC_COUNT : Fld := ⟨5, 4⟩
def Fld.ERM_SRC_ISOLATED : Fld := ⟨3, 3⟩
def Fld.ERM_SRC_DONE : Fld := ⟨1, 1⟩
def Fld.ERM_SRC_HANDLING : Fld := ⟨0, 0⟩
def Fld.TCX_TW_LEN_US : Fld := ⟨31, 16⟩
def Fld.TCX_TW_EARLY : Fld := ⟨1, 1⟩
def Fld.TCX_TW_OPEN : Fld := ⟨0, 0⟩
def Fld.TCX_DTI_DTI_MS : Fld := ⟨15, 0⟩
def Fld.TCX_GOLD_CFG_EN : Fld := ⟨31, 31⟩
def Fld.TCX_GOLD_CFG_NDEF : Fld := ⟨23, 20⟩
def Fld.TCX_GOLD_CFG_WIN : Fld := ⟨19, 16⟩
def Fld.TCX_GOLD_CFG_TOL : Fld := ⟨15, 11⟩
def Fld.TCX_GOLD_CFG_RING : Fld := ⟨10, 8⟩
def Fld.TCX_GOLD_CFG_CTX : Fld := ⟨4, 0⟩
def Fld.TCX_GOLD_STAT_RUNS : Fld := ⟨31, 16⟩
def Fld.TCX_GOLD_STAT_MISM : Fld := ⟨15, 8⟩
def Fld.TCX_GOLD_STAT_DEFER : Fld := ⟨3, 0⟩
def Fld.TCX_GOLD_EXP_SUM_VALUE : Fld := ⟨31, 0⟩
def Fld.TCX_GOLD_EXP_SQ_VALUE : Fld := ⟨31, 0⟩
def Fld.TCX_GOLD_EXP_MAX_VALUE : Fld := ⟨31, 0⟩
def Fld.BOOT_STATUS_WARM : Fld := ⟨24, 24⟩
def Fld.BOOT_STATUS_FAILMASK : Fld := ⟨21, 16⟩
def Fld.BOOT_STATUS_FAIL : Fld := ⟨15, 8⟩
def Fld.BOOT_STATUS_STAGE : Fld := ⟨3, 0⟩
def Fld.BOOT_HARTREL_REL : Fld := ⟨15, 1⟩
def Fld.BOOT_HARTREL_AC0 : Fld := ⟨0, 0⟩
def Fld.BOOT_FUSE_CFG_ERR : Fld := ⟨8, 8⟩
def Fld.BOOT_FUSE_KEYPROG : Fld := ⟨7, 4⟩
def Fld.BOOT_FUSE_HYBRID : Fld := ⟨0, 0⟩
def Fld.BOOT_KEYREV_REV : Fld := ⟨3, 0⟩
def Fld.BOOT_ARB_SLOT : Fld := ⟨16, 16⟩
def Fld.BOOT_ARB_RUN_SVN : Fld := ⟨14, 8⟩
def Fld.BOOT_ARB_COUNT : Fld := ⟨6, 0⟩
def Fld.BOOT_ARB_COMMIT_BUSY : Fld := ⟨31, 31⟩
def Fld.BOOT_ARB_COMMIT_SVN : Fld := ⟨14, 8⟩
def Fld.BOOT_ARB_COMMIT_GO : Fld := ⟨4, 4⟩
def Fld.BOOT_ARB_COMMIT_CLASS : Fld := ⟨2, 0⟩
def Fld.FWL_LOG_BASE_LO_ADDR_LO : Fld := ⟨31, 6⟩
def Fld.FWL_LOG_BASE_HI_ADDR_HI : Fld := ⟨15, 0⟩
def Fld.FWL_LOG_CFG_LOG2 : Fld := ⟨11, 8⟩
def Fld.FWL_LOG_CFG_MINLVL : Fld := ⟨5, 4⟩
def Fld.FWL_LOG_CFG_HEATH_EN : Fld := ⟨1, 1⟩
def Fld.FWL_LOG_CFG_EN : Fld := ⟨0, 0⟩
def Fld.FWL_LOG_TAIL_TAIL : Fld := ⟨14, 0⟩
def Fld.FWL_LOG_HEAD_HEAD : Fld := ⟨14, 0⟩
def Fld.FWL_LOG_LOST_LOST : Fld := ⟨31, 0⟩
def Fld.FWL_TRACE_MASK : Fld := ⟨31, 0⟩
def Fld.FWL_WDT_HELD : Fld := ⟨16, 16⟩
def Fld.FWL_WDT_EXPIRIES : Fld := ⟨15, 0⟩
def Fld.PWR_DOM_DEFERRED : Fld := ⟨12, 12⟩
def Fld.PWR_DOM_STATE : Fld := ⟨10, 8⟩
def Fld.PWR_DOM_IDLE : Fld := ⟨4, 4⟩
def Fld.PWR_DOM_RST : Fld := ⟨1, 1⟩
def Fld.PWR_DOM_ON : Fld := ⟨0, 0⟩
def Fld.THM_SURGE_AVS_HI : Fld := ⟨9, 9⟩
def Fld.THM_SURGE_CLAMP : Fld := ⟨8, 8⟩
def Fld.THM_SURGE_CLK : Fld := ⟨5, 4⟩
def Fld.THM_SURGE_DIS_LOCK : Fld := ⟨3, 3⟩
def Fld.THM_SURGE_DIS : Fld := ⟨2, 2⟩
def Fld.THM_SURGE_REQ : Fld := ⟨0, 0⟩
def Fld.THM_STATUS_SENS_ERR : Fld := ⟨6, 6⟩
def Fld.THM_STATUS_WEAR_OUT : Fld := ⟨5, 5⟩
def Fld.THM_STATUS_WARN : Fld := ⟨4, 4⟩
def Fld.THM_STATUS_CLAMPED : Fld := ⟨3, 3⟩
def Fld.THM_STATUS_EXIT_P : Fld := ⟨2, 2⟩
def Fld.THM_STATUS_EXIT_T : Fld := ⟨1, 1⟩
def Fld.THM_STATUS_AVS_ERR : Fld := ⟨0, 0⟩
def Fld.THM_TJ_HOT : Fld := ⟨20, 16⟩
def Fld.THM_TJ_TJ : Fld := ⟨11, 0⟩
def Fld.THM_TWARN_TWARN : Fld := ⟨11, 0⟩
def Fld.THM_PWR_P10 : Fld := ⟨31, 16⟩
def Fld.THM_PWR_PINST : Fld := ⟨15, 0⟩
def Fld.THM_WEAR_H_HOURS : Fld := ⟨10, 0⟩
def Fld.THM_WEAR_A_ALLOW_MS : Fld := ⟨21, 0⟩
def Fld.THM_TS_ERR : Fld := ⟨12, 12⟩
def Fld.THM_TS_T : Fld := ⟨11, 0⟩
def Fld.PWR_WARM_CODE : Fld := ⟨31, 16⟩
def Fld.PWR_WARM_GO : Fld := ⟨0, 0⟩
def Fld.PWR_RSTCAUSE_SW_WARM : Fld := ⟨2, 2⟩
def Fld.PWR_RSTCAUSE_PIN_WARM : Fld := ⟨1, 1⟩
def Fld.PWR_RSTCAUSE_POR : Fld := ⟨0, 0⟩
def Fld.PWR_STATUS_CFG_ERR : Fld := ⟨0, 0⟩
def Fld.CLK_MON_TB_ON_SYS : Fld := ⟨4, 4⟩
def Fld.CLK_MON_XGREF_BAD : Fld := ⟨2, 2⟩
def Fld.CLK_MON_TBREF_BAD : Fld := ⟨1, 1⟩
def Fld.CLK_MON_SYSCLK_BAD : Fld := ⟨0, 0⟩
def Fld.DMC_SUM_WORD : Fld := ⟨31, 0⟩

/-! ## The table -/

/-- Registers BOOT. -/
def regRowsBOOT : List RegRow := [
  ⟨0x1B000040, 1, 0x1, 1, 0x1, [
    ⟨Fld.BOOT_DGK_STATUS_CRC_OK, .ro, 0x0, [], false⟩,
    ⟨Fld.BOOT_DGK_STATUS_READY, .ro, 0x0, [], false⟩]⟩,
  ⟨0x1B000050, 1, 0x1, 1, 0x1, [
    ⟨Fld.BOOT_LCS_CODE, .wo, 0x0, [], false⟩,
    ⟨Fld.BOOT_LCS_TARGET, .wo, 0x0, [], false⟩,
    ⟨Fld.BOOT_LCS_PENDING, .ro, 0x0, [], false⟩,
    ⟨Fld.BOOT_LCS_STATE, .ro, 0x0, [], false⟩]⟩,
  ⟨0x1B000000, 1, 0x1, 1, 0x1, [
    ⟨Fld.BOOT_STATUS_WARM, .ro, 0x0, [], false⟩,
    ⟨Fld.BOOT_STATUS_FAILMASK, .ro, 0x0, [], false⟩,
    ⟨Fld.BOOT_STATUS_FAIL, .ro, 0x0, [], false⟩,
    ⟨Fld.BOOT_STATUS_STAGE, .ro, 0x0, [], false⟩]⟩,
  ⟨0x1B000004, 1, 0x1, 1, 0x1, [
    ⟨Fld.BOOT_HARTREL_REL, .w1s, 0x0, [], false⟩,
    ⟨Fld.BOOT_HARTREL_AC0, .ro, 0x1, [], false⟩]⟩,
  ⟨0x1B000010, 1, 0x1, 1, 0x1, [
    ⟨Fld.BOOT_FUSE_CFG_ERR, .w1c, 0x0, [], false⟩,
    ⟨Fld.BOOT_FUSE_KEYPROG, .ro, 0x0, [], false⟩,
    ⟨Fld.BOOT_FUSE_HYBRID, .ro, 0x0, [], false⟩]⟩,
  ⟨0x1B000014, 1, 0x1, 1, 0x1, [
    ⟨Fld.BOOT_KEYREV_REV, .w1s, 0x0, [], false⟩]⟩,
  ⟨0x1B000100, 8, 0x4, 1, 0x1, [
    ⟨Fld.BOOT_ARB_SLOT, .ro, 0x0, [], false⟩,
    ⟨Fld.BOOT_ARB_RUN_SVN, .ro, 0x0, [], false⟩,
    ⟨Fld.BOOT_ARB_COUNT, .ro, 0x0, [], false⟩]⟩,
  ⟨0x1B000120, 1, 0x1, 1, 0x1, [
    ⟨Fld.BOOT_ARB_COMMIT_BUSY, .ro, 0x0, [], false⟩,
    ⟨Fld.BOOT_ARB_COMMIT_SVN, .rw, 0x0, [], false⟩,
    ⟨Fld.BOOT_ARB_COMMIT_GO, .wo, 0x0, [], false⟩,
    ⟨Fld.BOOT_ARB_COMMIT_CLASS, .rw, 0x0, [], false⟩]⟩]

/-- Registers TEN. -/
def regRowsTEN : List RegRow := [
  ⟨0x10100000, 8, 0x10000, 8, 0x2000, [
    ⟨Fld.TEN_CTRL_HALT, .rw, 0x0, [], false⟩,
    ⟨Fld.TEN_CTRL_RESET, .wo, 0x0, [], false⟩,
    ⟨Fld.TEN_CTRL_ENABLE, .rw, 0x0, [], false⟩]⟩,
  ⟨0x10100004, 8, 0x10000, 8, 0x2000, [
    ⟨Fld.TEN_STATUS_FAULT_TAG, .ro, 0x0, [], false⟩,
    ⟨Fld.TEN_STATUS_CAUSE, .ro, 0x0, [], false⟩,
    ⟨Fld.TEN_STATUS_STATE, .ro, 0x0, [], false⟩]⟩,
  ⟨0x10100008, 8, 0x10000, 8, 0x2000, [
    ⟨Fld.TEN_CQ_BASE_BASE, .rw, 0x0, [], false⟩]⟩,
  ⟨0x1010000C, 8, 0x10000, 8, 0x2000, [
    ⟨Fld.TEN_CQ_CFG_SIZE, .rw, 0x6, [6, 7, 8, 9, 10, 11, 12], false⟩]⟩,
  ⟨0x10100010, 8, 0x10000, 8, 0x2000, [
    ⟨Fld.TEN_CQ_TAIL_TAIL, .rw, 0x0, [], false⟩]⟩,
  ⟨0x10100014, 8, 0x10000, 8, 0x2000, [
    ⟨Fld.TEN_CQ_HEAD_HEAD, .ro, 0x0, [], false⟩]⟩,
  ⟨0x10100020, 8, 0x10000, 8, 0x2000, [
    ⟨Fld.TEN_ACC_CFG_ACC_SIZE, .rw, 0x0, [0, 1, 2, 3, 4, 5, 6, 7, 8], false⟩,
    ⟨Fld.TEN_ACC_CFG_ACC_BASE, .rw, 0x0, [], false⟩]⟩,
  ⟨0x10100024, 8, 0x10000, 8, 0x2000, [
    ⟨Fld.TEN_JOB_CTX, .rw, 0x0, [], false⟩,
    ⟨Fld.TEN_JOB_CLASS, .rw, 0x0, [], false⟩,
    ⟨Fld.TEN_JOB_NAN_ON_OVF, .rw, 0x0, [], false⟩]⟩,
  ⟨0x10100028, 8, 0x10000, 8, 0x2000, [
    ⟨Fld.TEN_WDT_LIMIT_US, .rw, 0x0, [], false⟩]⟩,
  ⟨0x1010002C, 8, 0x10000, 8, 0x2000, [
    ⟨Fld.TEN_FX_FX, .w1c, 0x0, [], false⟩]⟩,
  ⟨0x10100040, 8, 0x10000, 8, 0x2000, [
    ⟨Fld.TEN_CHK_FAULT_TAG, .ro, 0x0, [], false⟩,
    ⟨Fld.TEN_CHK_FAULT_ARY, .ro, 0x0, [], false⟩,
    ⟨Fld.TEN_CHK_FAULT_PATH, .ro, 0x0, [], false⟩,
    ⟨Fld.TEN_CHK_FAULT_KIND, .ro, 0x0, [], false⟩,
    ⟨Fld.TEN_CHK_FAULT_BLK, .ro, 0x0, [], false⟩,
    ⟨Fld.TEN_CHK_FAULT_SELFTEST, .ro, 0x0, [], false⟩,
    ⟨Fld.TEN_CHK_FAULT_VALID, .w1c, 0x0, [], false⟩,
    ⟨Fld.TEN_CHK_FAULT_VEC, .ro, 0x0, [], false⟩]⟩,
  ⟨0x10100044, 8, 0x10000, 8, 0x2000, [
    ⟨Fld.TEN_CHK_SKIP_SKIPPED, .rc, 0x0, [], false⟩]⟩,
  ⟨0x10100050, 8, 0x10000, 8, 0x2000, [
    ⟨Fld.TEN_KV_BASE_LO_BASE_LO, .rw, 0x0, [], false⟩]⟩,
  ⟨0x10100054, 8, 0x10000, 8, 0x2000, [
    ⟨Fld.TEN_KV_BASE_HI_BASE_HI, .rw, 0x0, [], false⟩]⟩]

/-- Registers DB. -/
def regRowsDB : List RegRow := [
  ⟨0x40000000, 32, 0x1000, 8, 0x4, [
    ⟨Fld.DB_SQ_TAIL_TAIL, .rw, 0x0, [], false⟩]⟩,
  ⟨0x40000040, 32, 0x1000, 1, 0x1, [
    ⟨Fld.DB_CQ_HEAD_HEAD, .rw, 0x0, [], false⟩]⟩,
  ⟨0x40000080, 32, 0x1000, 8, 0x4, [
    ⟨Fld.DB_SQ_HEAD_HEAD, .ro, 0x0, [], false⟩]⟩,
  ⟨0x400000C0, 32, 0x1000, 1, 0x1, [
    ⟨Fld.DB_CQ_TAIL_TAIL, .ro, 0x0, [], false⟩]⟩,
  ⟨0x400000C4, 32, 0x1000, 1, 0x1, [
    ⟨Fld.DB_ERR_IGNORED, .rc, 0x0, [], false⟩]⟩]

/-- Registers TCX. -/
def regRowsTCX : List RegRow := [
  ⟨0x10000000, 1, 0x1, 1, 0x1, [
    ⟨Fld.TCX_HOST_IFVER_MAJOR, .rw, 0x0, [], false⟩,
    ⟨Fld.TCX_HOST_IFVER_MINOR, .rw, 0x0, [], false⟩]⟩,
  ⟨0x10000004, 1, 0x1, 1, 0x1, [
    ⟨Fld.TCX_FW_IFVER_MAJOR, .ro, 0x0, [], false⟩,
    ⟨Fld.TCX_FW_IFVER_MINOR, .ro, 0x0, [], false⟩]⟩,
  ⟨0x10000008, 1, 0x1, 1, 0x1, [
    ⟨Fld.TCX_FW_STATUS_STATE, .ro, 0x0, [], false⟩]⟩,
  ⟨0x1000000C, 1, 0x1, 1, 0x1, [
    ⟨Fld.TCX_CTRL_GO, .wo, 0x0, [], false⟩]⟩,
  ⟨0x10000010, 1, 0x1, 1, 0x1, [
    ⟨Fld.TCX_CTX0_DESC_LO_ADDR_LO, .rw, 0x0, [], false⟩]⟩,
  ⟨0x10000014, 1, 0x1, 1, 0x1, [
    ⟨Fld.TCX_CTX0_DESC_HI_ADDR_HI, .rw, 0x0, [], false⟩]⟩,
  ⟨0x10000020, 1, 0x1, 1, 0x1, [
    ⟨Fld.TCX_CTX_ACTIVE_ACTIVE, .ro, 0x0, [], false⟩]⟩,
  ⟨0x10000100, 16, 0x4, 1, 0x1, [
    ⟨Fld.TCX_TW_LEN_US, .rw, 0x0, [], false⟩,
    ⟨Fld.TCX_TW_EARLY, .w1c, 0x0, [], false⟩,
    ⟨Fld.TCX_TW_OPEN, .ro, 0x0, [], false⟩]⟩,
  ⟨0x10000140, 1, 0x1, 1, 0x1, [
    ⟨Fld.TCX_DTI_DTI_MS, .rw, 0x64, [], false⟩]⟩,
  ⟨0x10000200, 4, 0x20, 1, 0x1, [
    ⟨Fld.TCX_GOLD_CFG_EN, .rw, 0x0, [], false⟩,
    ⟨Fld.TCX_GOLD_CFG_NDEF, .rw, 0x4, [], false⟩,
    ⟨Fld.TCX_GOLD_CFG_WIN, .rw, 0x0, [], false⟩,
    ⟨Fld.TCX_GOLD_CFG_TOL, .rw, 0xA, [], false⟩,
    ⟨Fld.TCX_GOLD_CFG_RING, .rw, 0x0, [], false⟩,
    ⟨Fld.TCX_GOLD_CFG_CTX, .rw, 0x0, [], false⟩]⟩,
  ⟨0x10000204, 4, 0x20, 1, 0x1, [
    ⟨Fld.TCX_GOLD_STAT_RUNS, .rc, 0x0, [], false⟩,
    ⟨Fld.TCX_GOLD_STAT_MISM, .rc, 0x0, [], false⟩,
    ⟨Fld.TCX_GOLD_STAT_DEFER, .ro, 0x0, [], false⟩]⟩,
  ⟨0x10000208, 4, 0x20, 1, 0x1, [
    ⟨Fld.TCX_GOLD_EXP_SUM_VALUE, .rw, 0x0, [], false⟩]⟩,
  ⟨0x1000020C, 4, 0x20, 1, 0x1, [
    ⟨Fld.TCX_GOLD_EXP_SQ_VALUE, .rw, 0x0, [], false⟩]⟩,
  ⟨0x10000210, 4, 0x20, 1, 0x1, [
    ⟨Fld.TCX_GOLD_EXP_MAX_VALUE, .rw, 0x0, [], false⟩]⟩]

/-- Registers TMB. -/
def regRowsTMB : List RegRow := [
  ⟨0x12000000, 1, 0x1, 1, 0x1, [
    ⟨Fld.TMB_CTRL_PPS_W, .rw, 0x0, [], false⟩,
    ⟨Fld.TMB_CTRL_SOURCE, .rw, 0x0, [0, 1, 2], false⟩,
    ⟨Fld.TMB_CTRL_DOMAIN, .rw, 0x0, [], false⟩,
    ⟨Fld.TMB_CTRL_PPS_OUT_EN, .rw, 0x0, [], false⟩,
    ⟨Fld.TMB_CTRL_STEP_EN, .rw, 0x1, [], false⟩,
    ⟨Fld.TMB_CTRL_SERVO_EN, .rw, 0x0, [], false⟩]⟩,
  ⟨0x12000004, 1, 0x1, 1, 0x1, [
    ⟨Fld.TMB_STATUS_STUCK, .w1c, 0x0, [], false⟩,
    ⟨Fld.TMB_STATUS_OVR, .w1c, 0x0, [], false⟩,
    ⟨Fld.TMB_STATUS_CAP, .ro, 0x0, [], false⟩,
    ⟨Fld.TMB_STATUS_CFG_ERR, .w1c, 0x0, [], false⟩,
    ⟨Fld.TMB_STATUS_LOCK_LOST, .w1c, 0x0, [], false⟩,
    ⟨Fld.TMB_STATUS_HOLD, .w1c, 0x0, [], false⟩,
    ⟨Fld.TMB_STATUS_STEP, .w1c, 0x0, [], false⟩,
    ⟨Fld.TMB_STATUS_HOLDOVER, .ro, 0x0, [], false⟩,
    ⟨Fld.TMB_STATUS_LOCKED, .ro, 0x0, [], false⟩]⟩,
  ⟨0x12000010, 1, 0x1, 1, 0x1, [
    ⟨Fld.TMB_INCR_LO_FRAC, .rw, 0x0, [], false⟩]⟩,
  ⟨0x12000014, 1, 0x1, 1, 0x1, [
    ⟨Fld.TMB_INCR_HI_NS, .rw, 0x2, [], false⟩]⟩,
  ⟨0x12000020, 1, 0x1, 1, 0x1, [
    ⟨Fld.TMB_NOW_NS_NS, .ro, 0x0, [], false⟩]⟩,
  ⟨0x12000024, 1, 0x1, 1, 0x1, [
    ⟨Fld.TMB_NOW_SEC_LO_SEC_LO, .ro, 0x0, [], false⟩]⟩,
  ⟨0x12000028, 1, 0x1, 1, 0x1, [
    ⟨Fld.TMB_NOW_SEC_HI_SEC_HI, .ro, 0x0, [], false⟩]⟩,
  ⟨0x12000030, 1, 0x1, 1, 0x1, [
    ⟨Fld.TMB_NOW_SHORT_SHORT, .ro, 0x0, [], false⟩]⟩,
  ⟨0x12000200, 14, 0x4, 1, 0x1, [
    ⟨Fld.TMB_PTP_LAT_RXLAT, .rw, 0x1800, [], false⟩,
    ⟨Fld.TMB_PTP_LAT_TXLAT, .rw, 0xD80, [], false⟩]⟩,
  ⟨0x12000040, 1, 0x1, 1, 0x1, [
    ⟨Fld.TMB_SERVO_SYNC_LOG, .rw, 0x3, [0, 1, 2, 3, 4, 5, 6, 7], false⟩,
    ⟨Fld.TMB_SERVO_KI_SH, .rw, 0x4, [], false⟩,
    ⟨Fld.TMB_SERVO_KP_SH, .rw, 0x1, [], false⟩]⟩,
  ⟨0x12000044, 1, 0x1, 1, 0x1, [
    ⟨Fld.TMB_LAST_OFS_OFS, .ro, 0x0, [], false⟩]⟩,
  ⟨0x12000048, 1, 0x1, 1, 0x1, [
    ⟨Fld.TMB_STEPS_COUNT, .ro, 0x0, [], false⟩]⟩,
  ⟨0x1200004C, 1, 0x1, 1, 0x1, [
    ⟨Fld.TMB_LAST_STEP_AMOUNT, .ro, 0x0, [], false⟩]⟩,
  ⟨0x12000050, 1, 0x1, 1, 0x1, [
    ⟨Fld.TMB_HOLD_MS, .ro, 0x0, [], false⟩]⟩,
  ⟨0x12000060, 1, 0x1, 1, 0x1, [
    ⟨Fld.TMB_ADJ_NS_NS, .rw, 0x0, [], false⟩]⟩,
  ⟨0x12000064, 1, 0x1, 1, 0x1, [
    ⟨Fld.TMB_ADJ_SEC_LO_SEC_LO, .rw, 0x0, [], false⟩]⟩,
  ⟨0x1200006C, 1, 0x1, 1, 0x1, [
    ⟨Fld.TMB_ADJ_CTRL_SEC_HI, .rw, 0x0, [], false⟩,
    ⟨Fld.TMB_ADJ_CTRL_MODE, .rw, 0x0, [], false⟩,
    ⟨Fld.TMB_ADJ_CTRL_GO, .wo, 0x0, [], false⟩]⟩,
  ⟨0x12000100, 5, 0x20, 1, 0x1, [
    ⟨Fld.TMB_CAP_CFG_STUCK_US, .rw, 0x0, [], false⟩,
    ⟨Fld.TMB_CAP_CFG_POL, .rw, 0x0, [], false⟩,
    ⟨Fld.TMB_CAP_CFG_EN, .rw, 0x0, [], false⟩]⟩,
  ⟨0x12000104, 5, 0x20, 1, 0x1, [
    ⟨Fld.TMB_CAP_NS_NS, .rc, 0xFFFFFFFF, [], false⟩]⟩,
  ⟨0x12000108, 5, 0x20, 1, 0x1, [
    ⟨Fld.TMB_CAP_SEC_LO_SEC_LO, .ro, 0x0, [], false⟩]⟩,
  ⟨0x1200010C, 5, 0x20, 1, 0x1, [
    ⟨Fld.TMB_CAP_SEC_HI_FILL, .ro, 0x0, [], false⟩,
    ⟨Fld.TMB_CAP_SEC_HI_SEC_HI, .ro, 0x0, [], false⟩]⟩,
  ⟨0x12000110, 5, 0x20, 1, 0x1, [
    ⟨Fld.TMB_CAP_OVR_LOST, .rc, 0x0, [], false⟩]⟩]

/-- Registers TTB. -/
def regRowsTTB : List RegRow := [
  ⟨0x12010000, 1, 0x1, 1, 0x1, [
    ⟨Fld.TTB_CTRL_ACTIVE, .ro, 0x0, [], false⟩,
    ⟨Fld.TTB_CTRL_SWAP, .w1s, 0x0, [], false⟩,
    ⟨Fld.TTB_CTRL_ENABLE, .rw, 0x0, [], false⟩]⟩,
  ⟨0x12010004, 2, 0x4, 1, 0x1, [
    ⟨Fld.TTB_CYCLE_CYCLE, .rw, 0xF4240, [], false⟩]⟩,
  ⟨0x1201000C, 1, 0x1, 1, 0x1, [
    ⟨Fld.TTB_STATUS_ERR_ENTRY, .ro, 0x0, [], false⟩,
    ⟨Fld.TTB_STATUS_SWAP_ERR, .w1c, 0x0, [], false⟩,
    ⟨Fld.TTB_STATUS_WIN_ERR, .w1c, 0x0, [], false⟩]⟩,
  ⟨0x12010010, 1, 0x1, 1, 0x1, [
    ⟨Fld.TTB_SKIP_DROPPED, .rc, 0x0, [], false⟩,
    ⟨Fld.TTB_SKIP_SKIPPED, .rc, 0x0, [], false⟩]⟩,
  ⟨0x12010040, 8, 0x4, 1, 0x1, [
    ⟨Fld.TTB_TRIG_CFG_WIDTH, .rw, 0x0, [], false⟩,
    ⟨Fld.TTB_TRIG_CFG_OE, .rw, 0x0, [], false⟩,
    ⟨Fld.TTB_TRIG_CFG_POL, .rw, 0x0, [], false⟩]⟩]

/-- Registers FGD. -/
def regRowsFGD : List RegRow := [
  ⟨0x130C0000, 20, 0x100, 1, 0x1, [
    ⟨Fld.FGD_STR_CTRL_CFG_ERR, .w1c, 0x0, [], false⟩,
    ⟨Fld.FGD_STR_CTRL_EN, .rw, 0x0, [], false⟩]⟩,
  ⟨0x130C0004, 20, 0x100, 1, 0x1, [
    ⟨Fld.FGD_STR_DESC_LO_ADDR_LO, .rw, 0x0, [], false⟩]⟩,
  ⟨0x130C0008, 20, 0x100, 1, 0x1, [
    ⟨Fld.FGD_STR_DESC_HI_ADDR_HI, .rw, 0x0, [], false⟩]⟩,
  ⟨0x130C000C, 20, 0x100, 1, 0x1, [
    ⟨Fld.FGD_STR_BUF_TAIL_TAIL, .rw, 0x0, [], false⟩]⟩,
  ⟨0x130C0010, 20, 0x100, 1, 0x1, [
    ⟨Fld.FGD_STR_GUARD_TS_OFS, .rw, 0x0, [], false⟩,
    ⟨Fld.FGD_STR_GUARD_CNT_OFS, .rw, 0x0, [], false⟩,
    ⟨Fld.FGD_STR_GUARD_M, .rw, 0x3, [2, 3, 4, 5, 6, 7, 8, 9, 10, 11, 12, 13, 14, 15], false⟩,
    ⟨Fld.FGD_STR_GUARD_CNT_EN, .rw, 0x0, [], false⟩,
    ⟨Fld.FGD_STR_GUARD_TS_EN, .rw, 0x0, [], false⟩]⟩,
  ⟨0x130C0014, 20, 0x100, 1, 0x1, [
    ⟨Fld.FGD_STR_STAT_REPEATS, .rc, 0x0, [], false⟩,
    ⟨Fld.FGD_STR_STAT_FROZENS, .rc, 0x0, [], false⟩]⟩]

/-- Registers CSI. -/
def regRowsCSI : List RegRow := [
  ⟨0x13000000, 4, 0x10000, 1, 0x1, [
    ⟨Fld.CSI_CFG_LANES, .rw, 0x4, [1, 2, 3, 4], false⟩,
    ⟨Fld.CSI_CFG_PHY, .rw, 0x0, [], false⟩,
    ⟨Fld.CSI_CFG_EN, .rw, 0x0, [], false⟩]⟩,
  ⟨0x13000004, 4, 0x10000, 1, 0x1, [
    ⟨Fld.CSI_ERR_DISCARD, .rc, 0x0, [], false⟩,
    ⟨Fld.CSI_ERR_ECC_FIX, .rc, 0x0, [], false⟩]⟩]

/-- Registers SSP. -/
def regRowsSSP : List RegRow := [
  ⟨0x13080000, 4, 0x10000, 1, 0x1, [
    ⟨Fld.SSP_CFG_HOLD_POL, .rw, 0x0, [], false⟩,
    ⟨Fld.SSP_CFG_FV_POL, .rw, 0x0, [], false⟩,
    ⟨Fld.SSP_CFG_DV_POL, .rw, 0x0, [], false⟩,
    ⟨Fld.SSP_CFG_EN, .rw, 0x0, [], false⟩]⟩,
  ⟨0x13080004, 4, 0x10000, 1, 0x1, [
    ⟨Fld.SSP_WM_HWM, .rw, 0xC00, [], false⟩,
    ⟨Fld.SSP_WM_LWM, .rw, 0x400, [], false⟩]⟩,
  ⟨0x13080008, 4, 0x10000, 1, 0x1, [
    ⟨Fld.SSP_STATUS_FILL, .ro, 0x0, [], false⟩,
    ⟨Fld.SSP_STATUS_HOLD, .ro, 0x1, [], false⟩,
    ⟨Fld.SSP_STATUS_CLK_LOST, .w1c, 0x0, [], false⟩,
    ⟨Fld.SSP_STATUS_CFG_ERR, .w1c, 0x0, [], false⟩,
    ⟨Fld.SSP_STATUS_OVR, .w1c, 0x0, [], false⟩,
    ⟨Fld.SSP_STATUS_FULL, .ro, 0x0, [], false⟩,
    ⟨Fld.SSP_STATUS_URG, .ro, 0x0, [], false⟩]⟩,
  ⟨0x1308000C, 4, 0x10000, 1, 0x1, [
    ⟨Fld.SSP_OVR_LOST, .rc, 0x0, [], false⟩]⟩]

/-- Registers FUS. -/
def regRowsFUS : List RegRow := [
  ⟨0x130D0000, 1, 0x1, 1, 0x1, [
    ⟨Fld.FUS_CTRL_SWAP_INST, .rw, 0x0, [], false⟩,
    ⟨Fld.FUS_CTRL_LOCKED, .ro, 0x0, [], false⟩,
    ⟨Fld.FUS_CTRL_ACTIVE, .ro, 0x0, [], false⟩,
    ⟨Fld.FUS_CTRL_SWAP, .w1s, 0x0, [], false⟩,
    ⟨Fld.FUS_CTRL_EN, .rw, 0x0, [], false⟩]⟩,
  ⟨0x130D0004, 1, 0x1, 1, 0x1, [
    ⟨Fld.FUS_STATUS_SWAP_ERR, .w1c, 0x0, [], false⟩,
    ⟨Fld.FUS_STATUS_SWAP_DONE, .w1c, 0x0, [], false⟩,
    ⟨Fld.FUS_STATUS_WIN_ERR, .w1c, 0x0, [], false⟩]⟩,
  ⟨0x130D0008, 1, 0x1, 1, 0x1, [
    ⟨Fld.FUS_REPHASE_GO, .wo, 0x0, [], false⟩,
    ⟨Fld.FUS_REPHASE_SENSOR, .rw, 0x0, [], false⟩]⟩,
  ⟨0x130D0400, 64, 0x4, 1, 0x1, [
    ⟨Fld.FUS_BUF_TAIL_TAIL, .rw, 0x0, [], false⟩]⟩]

/-- Registers MRC. -/
def regRowsMRC : List RegRow := [
  ⟨0x11100020, 1, 0x1, 1, 0x1, [
    ⟨Fld.MRC_REPLAYS_COUNT, .rc, 0x0, [], false⟩]⟩,
  ⟨0x11100024, 1, 0x1, 1, 0x1, [
    ⟨Fld.MRC_LFAULT_VALID, .w1c, 0x0, [], false⟩,
    ⟨Fld.MRC_LFAULT_DIR, .ro, 0x0, [], false⟩,
    ⟨Fld.MRC_LFAULT_ROUTER, .ro, 0x0, [], false⟩]⟩,
  ⟨0x11100010, 1, 0x1, 1, 0x1, [
    ⟨Fld.MRC_ELOG_LO_ADDR_LO, .ro, 0x0, [], false⟩]⟩,
  ⟨0x11100014, 1, 0x1, 1, 0x1, [
    ⟨Fld.MRC_ELOG_HI_VALID, .w1c, 0x0, [], false⟩,
    ⟨Fld.MRC_ELOG_HI_W, .ro, 0x0, [], false⟩,
    ⟨Fld.MRC_ELOG_HI_TYPE, .ro, 0x0, [], false⟩,
    ⟨Fld.MRC_ELOG_HI_IID, .ro, 0x0, [], false⟩,
    ⟨Fld.MRC_ELOG_HI_ADDR_HI, .ro, 0x0, [], false⟩]⟩]

/-- Registers DMC. -/
def regRowsDMC : List RegRow := [
  ⟨0x11000000, 8, 0x10000, 1, 0x1, [
    ⟨Fld.DMC_CFG_MARK_THR, .rw, 0x10, [], false⟩,
    ⟨Fld.DMC_CFG_RATE, .ro, 0x0, [], false⟩,
    ⟨Fld.DMC_CFG_DENS, .ro, 0x0, [], false⟩,
    ⟨Fld.DMC_CFG_WIDTH, .ro, 0x0, [], false⟩,
    ⟨Fld.DMC_CFG_RANKS, .ro, 0x0, [], false⟩]⟩,
  ⟨0x11000004, 8, 0x10000, 1, 0x1, [
    ⟨Fld.DMC_STATUS_CFG_ERR, .w1c, 0x0, [], false⟩,
    ⟨Fld.DMC_STATUS_RP_DONE, .w1c, 0x0, [], false⟩,
    ⟨Fld.DMC_STATUS_RP_BUSY, .ro, 0x0, [], false⟩,
    ⟨Fld.DMC_STATUS_READY, .ro, 0x0, [], false⟩]⟩,
  ⟨0x11000010, 8, 0x10000, 1, 0x1, [
    ⟨Fld.DMC_ECC_CNT_UE, .rc, 0x0, [], false⟩,
    ⟨Fld.DMC_ECC_CNT_CE, .rc, 0x0, [], false⟩]⟩,
  ⟨0x11000014, 8, 0x10000, 1, 0x1, [
    ⟨Fld.DMC_ECC_ADDR_WORD, .ro, 0x0, [], false⟩]⟩,
  ⟨0x11000018, 8, 0x10000, 1, 0x1, [
    ⟨Fld.DMC_ECC_LOC_VALID, .w1c, 0x0, [], false⟩,
    ⟨Fld.DMC_ECC_LOC_UE, .ro, 0x0, [], false⟩,
    ⟨Fld.DMC_ECC_LOC_SUB, .ro, 0x0, [], false⟩,
    ⟨Fld.DMC_ECC_LOC_RANK, .ro, 0x0, [], false⟩,
    ⟨Fld.DMC_ECC_LOC_SRC, .ro, 0x0, [], false⟩,
    ⟨Fld.DMC_ECC_LOC_DEV, .ro, 0x0, [], false⟩]⟩,
  ⟨0x1100001C, 8, 0x10000, 1, 0x1, [
    ⟨Fld.DMC_MARK_MKB1, .w1c, 0x0, [], false⟩,
    ⟨Fld.DMC_MARK_DEVB1, .ro, 0x0, [], false⟩,
    ⟨Fld.DMC_MARK_MKB0, .w1c, 0x0, [], false⟩,
    ⟨Fld.DMC_MARK_DEVB0, .ro, 0x0, [], false⟩,
    ⟨Fld.DMC_MARK_MKA1, .w1c, 0x0, [], false⟩,
    ⟨Fld.DMC_MARK_DEVA1, .ro, 0x0, [], false⟩,
    ⟨Fld.DMC_MARK_MKA0, .w1c, 0x0, [], false⟩,
    ⟨Fld.DMC_MARK_DEVA0, .ro, 0x0, [], false⟩]⟩,
  ⟨0x11000020, 8, 0x10000, 1, 0x1, [
    ⟨Fld.DMC_SCRUB_INTERVAL, .rw, 0x507, [], false⟩]⟩,
  ⟨0x11000030, 8, 0x10000, 1, 0x1, [
    ⟨Fld.DMC_RP_START_PAGE, .rw, 0x0, [], false⟩]⟩,
  ⟨0x11000034, 8, 0x10000, 1, 0x1, [
    ⟨Fld.DMC_RP_END_PAGE, .rw, 0x0, [], false⟩]⟩,
  ⟨0x11000038, 8, 0x10000, 1, 0x1, [
    ⟨Fld.DMC_RP_CTRL_ABORT, .wo, 0x0, [], false⟩,
    ⟨Fld.DMC_RP_CTRL_GO, .wo, 0x0, [], false⟩]⟩,
  ⟨0x11000100, 8, 0x10000, 16, 0x4, [
    ⟨Fld.DMC_SUM_WORD, .ro, 0x0, [], false⟩]⟩]

/-- Registers SLC. -/
def regRowsSLC : List RegRow := [
  ⟨0x11080010, 2, 0x4, 1, 0x1, [
    ⟨Fld.SLC_CLSGRP_G7, .rw, 0x0, [0, 1, 2, 3, 4, 5, 6, 7], false⟩,
    ⟨Fld.SLC_CLSGRP_G6, .rw, 0x0, [0, 1, 2, 3, 4, 5, 6, 7], false⟩,
    ⟨Fld.SLC_CLSGRP_G5, .rw, 0x0, [0, 1, 2, 3, 4, 5, 6, 7], false⟩,
    ⟨Fld.SLC_CLSGRP_G4, .rw, 0x0, [0, 1, 2, 3, 4, 5, 6, 7], false⟩,
    ⟨Fld.SLC_CLSGRP_G3, .rw, 0x0, [0, 1, 2, 3, 4, 5, 6, 7], false⟩,
    ⟨Fld.SLC_CLSGRP_G2, .rw, 0x0, [0, 1, 2, 3, 4, 5, 6, 7], false⟩,
    ⟨Fld.SLC_CLSGRP_G1, .rw, 0x0, [0, 1, 2, 3, 4, 5, 6, 7], false⟩,
    ⟨Fld.SLC_CLSGRP_G0, .rw, 0x0, [0, 1, 2, 3, 4, 5, 6, 7], false⟩]⟩,
  ⟨0x11080020, 8, 0x4, 1, 0x1, [
    ⟨Fld.SLC_WAYMASK_WAYS, .rw, 0xFFFFFF, [], false⟩]⟩,
  ⟨0x11080040, 1, 0x1, 1, 0x1, [
    ⟨Fld.SLC_HOLD_PEND, .ro, 0x0, [], false⟩,
    ⟨Fld.SLC_HOLD_WAYS, .rw, 0x0, [0, 1, 2, 3, 4], false⟩]⟩,
  ⟨0x11080044, 1, 0x1, 1, 0x1, [
    ⟨Fld.SLC_FLUSH_WAYS, .w1s, 0x0, [], false⟩]⟩]

/-- Registers SLU. -/
def regRowsSLU : List RegRow := [
  ⟨0x11090000, 1, 0x1, 1, 0x1, [
    ⟨Fld.SLU_CTRL_ACTIVE, .ro, 0x0, [], false⟩,
    ⟨Fld.SLU_CTRL_SWAP, .w1s, 0x0, [], false⟩,
    ⟨Fld.SLU_CTRL_EN, .rw, 0x0, [], false⟩]⟩,
  ⟨0x11090004, 1, 0x1, 1, 0x1, [
    ⟨Fld.SLU_EXCL_EXCL, .rw, 0x0, [], false⟩]⟩,
  ⟨0x11090008, 2, 0x4, 1, 0x1, [
    ⟨Fld.SLU_PRIO_P7, .rw, 0x0, [0, 1, 2, 3, 4, 5, 6, 7], false⟩,
    ⟨Fld.SLU_PRIO_P6, .rw, 0x0, [0, 1, 2, 3, 4, 5, 6, 7], false⟩,
    ⟨Fld.SLU_PRIO_P5, .rw, 0x0, [0, 1, 2, 3, 4, 5, 6, 7], false⟩,
    ⟨Fld.SLU_PRIO_P4, .rw, 0x0, [0, 1, 2, 3, 4, 5, 6, 7], false⟩,
    ⟨Fld.SLU_PRIO_P3, .rw, 0x0, [0, 1, 2, 3, 4, 5, 6, 7], false⟩,
    ⟨Fld.SLU_PRIO_P2, .rw, 0x0, [0, 1, 2, 3, 4, 5, 6, 7], false⟩,
    ⟨Fld.SLU_PRIO_P1, .rw, 0x0, [0, 1, 2, 3, 4, 5, 6, 7], false⟩,
    ⟨Fld.SLU_PRIO_P0, .rw, 0x0, [0, 1, 2, 3, 4, 5, 6, 7], false⟩]⟩,
  ⟨0x11090010, 1, 0x1, 1, 0x1, [
    ⟨Fld.SLU_STATUS_RELABEL, .w1c, 0x0, [], false⟩,
    ⟨Fld.SLU_STATUS_CFG_ERR, .w1c, 0x0, [], false⟩]⟩,
  ⟨0x11091000, 16, 0x100, 64, 0x4, [
    ⟨Fld.SLU_WHL_SLOT3, .rw, 0xFF, [], false⟩,
    ⟨Fld.SLU_WHL_SLOT2, .rw, 0xFF, [], false⟩,
    ⟨Fld.SLU_WHL_SLOT1, .rw, 0xFF, [], false⟩,
    ⟨Fld.SLU_WHL_SLOT0, .rw, 0xFF, [], false⟩]⟩]

/-- Registers GFX. -/
def regRowsGFX : List RegRow := [
  ⟨0x14000100, 8, 0x10, 1, 0x1, [
    ⟨Fld.GFX_GQ_CTRL_CFG_ERR, .w1c, 0x0, [], false⟩,
    ⟨Fld.GFX_GQ_CTRL_EN, .rw, 0x0, [], false⟩]⟩,
  ⟨0x14000104, 8, 0x10, 1, 0x1, [
    ⟨Fld.GFX_GQ_DESC_LO_ADDR_LO, .rw, 0x0, [], false⟩]⟩,
  ⟨0x14000108, 8, 0x10, 1, 0x1, [
    ⟨Fld.GFX_GQ_DESC_HI_ADDR_HI, .rw, 0x0, [], false⟩]⟩,
  ⟨0x14000010, 1, 0x1, 1, 0x1, [
    ⟨Fld.GFX_CORES_ONLINE, .ro, 0xFF, [], false⟩]⟩]

/-- Registers DSP. -/
def regRowsDSP : List RegRow := [
  ⟨0x14100000, 4, 0x10000, 1, 0x1, [
    ⟨Fld.DSP_CTRL_EN, .rw, 0x0, [], false⟩]⟩,
  ⟨0x14100004, 4, 0x10000, 1, 0x1, [
    ⟨Fld.DSP_DESC_LO_ADDR_LO, .rw, 0x0, [], false⟩]⟩,
  ⟨0x14100008, 4, 0x10000, 1, 0x1, [
    ⟨Fld.DSP_DESC_HI_ADDR_HI, .rw, 0x0, [], false⟩]⟩,
  ⟨0x1410000C, 4, 0x10000, 1, 0x1, [
    ⟨Fld.DSP_STATUS_URG, .ro, 0x0, [], false⟩,
    ⟨Fld.DSP_STATUS_DERR, .w1c, 0x0, [], false⟩,
    ⟨Fld.DSP_STATUS_UNDERRUN, .w1c, 0x0, [], false⟩,
    ⟨Fld.DSP_STATUS_LINK_ERR, .w1c, 0x0, [], false⟩,
    ⟨Fld.DSP_STATUS_CFG_ERR, .w1c, 0x0, [], false⟩,
    ⟨Fld.DSP_STATUS_HPD, .ro, 0x0, [], false⟩,
    ⟨Fld.DSP_STATUS_LINK_UP, .ro, 0x0, [], false⟩]⟩,
  ⟨0x14100010, 4, 0x10000, 1, 0x1, [
    ⟨Fld.DSP_LATE_LATE, .rc, 0x0, [], false⟩]⟩,
  ⟨0x14108000, 4, 0x10000, 1, 0x1, [
    ⟨Fld.DB_SQ_TAIL_TAIL, .rw, 0x0, [], false⟩]⟩,
  ⟨0x14108040, 4, 0x10000, 1, 0x1, [
    ⟨Fld.DB_CQ_HEAD_HEAD, .rw, 0x0, [], false⟩]⟩,
  ⟨0x14108080, 4, 0x10000, 1, 0x1, [
    ⟨Fld.DB_SQ_HEAD_HEAD, .ro, 0x0, [], false⟩]⟩,
  ⟨0x141080C0, 4, 0x10000, 1, 0x1, [
    ⟨Fld.DB_CQ_TAIL_TAIL, .ro, 0x0, [], false⟩]⟩,
  ⟨0x141080C4, 4, 0x10000, 1, 0x1, [
    ⟨Fld.DB_ERR_IGNORED, .rc, 0x0, [], false⟩]⟩]

/-- Registers APC. -/
def regRowsAPC : List RegRow := [
  ⟨0x15000100, 4, 0x10000, 2, 0x20, [
    ⟨Fld.APC_PAIR_CTRL_TMO_US, .rw, 0xA, [], false⟩,
    ⟨Fld.APC_PAIR_CTRL_RESET, .wo, 0x0, [], false⟩,
    ⟨Fld.APC_PAIR_CTRL_TARGET, .rw, 0x0, [], false⟩]⟩,
  ⟨0x15000104, 4, 0x10000, 2, 0x20, [
    ⟨Fld.APC_PAIR_STATUS_ENTRY, .ro, 0x0, [], false⟩,
    ⟨Fld.APC_PAIR_STATUS_TIMEOUT, .w1c, 0x0, [], false⟩,
    ⟨Fld.APC_PAIR_STATUS_MISM, .w1c, 0x0, [], false⟩,
    ⟨Fld.APC_PAIR_STATUS_MODE, .ro, 0x0, [], false⟩]⟩,
  ⟨0x15000108, 4, 0x10000, 2, 0x20, [
    ⟨Fld.APC_PAIR_MISM_VALID, .w1c, 0x0, [], false⟩,
    ⟨Fld.APC_PAIR_MISM_KIND, .ro, 0x0, [], false⟩,
    ⟨Fld.APC_PAIR_MISM_INSTR, .ro, 0x0, [], false⟩]⟩]

/-- Registers HTH. -/
def regRowsHTH : List RegRow := [
  ⟨0x20000000, 1, 0x1, 1, 0x1, [
    ⟨Fld.HTH_MODE_TMO_US, .rw, 0xA, [], false⟩,
    ⟨Fld.HTH_MODE_TARGET, .rw, 0x0, [], false⟩]⟩,
  ⟨0x20000004, 1, 0x1, 1, 0x1, [
    ⟨Fld.HTH_STATUS_FENCED, .ro, 0x0, [], false⟩,
    ⟨Fld.HTH_STATUS_CFG_ERR, .w1c, 0x0, [], false⟩,
    ⟨Fld.HTH_STATUS_ODD, .ro, 0x3, [], false⟩,
    ⟨Fld.HTH_STATUS_RESYNC, .w1c, 0x0, [], false⟩,
    ⟨Fld.HTH_STATUS_TIMEOUT, .w1c, 0x0, [], false⟩,
    ⟨Fld.HTH_STATUS_MODE, .ro, 0x0, [], false⟩]⟩,
  ⟨0x20000008, 1, 0x1, 1, 0x1, [
    ⟨Fld.HTH_RESYNC_COUNT, .rc, 0x0, [], false⟩]⟩]

/-- Registers GRD. -/
def regRowsGRD : List RegRow := [
  ⟨0x110A0000, 8, 0x1000, 32, 0x20, [
    ⟨Fld.GRD_R_BASE_LO_BASE_LO, .rw, 0x0, [], false⟩]⟩,
  ⟨0x110A8000, 3, 0x1000, 16, 0x20, [
    ⟨Fld.GRD_R_BASE_LO_BASE_LO, .rw, 0x0, [], false⟩]⟩,
  ⟨0x110A0004, 8, 0x1000, 32, 0x20, [
    ⟨Fld.GRD_R_LIMIT_LO_LIMIT_LO, .rw, 0x0, [], false⟩]⟩,
  ⟨0x110A8004, 3, 0x1000, 16, 0x20, [
    ⟨Fld.GRD_R_LIMIT_LO_LIMIT_LO, .rw, 0x0, [], false⟩]⟩,
  ⟨0x110A0008, 8, 0x1000, 32, 0x20, [
    ⟨Fld.GRD_R_HI_LIMIT_HI, .rw, 0x0, [], false⟩,
    ⟨Fld.GRD_R_HI_BASE_HI, .rw, 0x0, [], false⟩]⟩,
  ⟨0x110A8008, 3, 0x1000, 16, 0x20, [
    ⟨Fld.GRD_R_HI_LIMIT_HI, .rw, 0x0, [], false⟩,
    ⟨Fld.GRD_R_HI_BASE_HI, .rw, 0x0, [], false⟩]⟩,
  ⟨0x110A000C, 8, 0x1000, 32, 0x20, [
    ⟨Fld.GRD_R_IID_MASK, .rw, 0x0, [], false⟩,
    ⟨Fld.GRD_R_IID_VALUE, .rw, 0x0, [], false⟩]⟩,
  ⟨0x110A800C, 3, 0x1000, 16, 0x20, [
    ⟨Fld.GRD_R_IID_MASK, .rw, 0x0, [], false⟩,
    ⟨Fld.GRD_R_IID_VALUE, .rw, 0x0, [], false⟩]⟩,
  ⟨0x110A0010, 8, 0x1000, 32, 0x20, [
    ⟨Fld.GRD_R_PERM_EN, .rw, 0x0, [], false⟩,
    ⟨Fld.GRD_R_PERM_SX, .rw, 0x0, [], false⟩,
    ⟨Fld.GRD_R_PERM_SW, .rw, 0x0, [], false⟩,
    ⟨Fld.GRD_R_PERM_SR, .rw, 0x0, [], false⟩,
    ⟨Fld.GRD_R_PERM_NX, .rw, 0x0, [], false⟩,
    ⟨Fld.GRD_R_PERM_NW, .rw, 0x0, [], false⟩,
    ⟨Fld.GRD_R_PERM_NR, .rw, 0x0, [], false⟩]⟩,
  ⟨0x110A8010, 3, 0x1000, 16, 0x20, [
    ⟨Fld.GRD_R_PERM_EN, .rw, 0x0, [], false⟩,
    ⟨Fld.GRD_R_PERM_SX, .rw, 0x0, [], false⟩,
    ⟨Fld.GRD_R_PERM_SW, .rw, 0x0, [], false⟩,
    ⟨Fld.GRD_R_PERM_SR, .rw, 0x0, [], false⟩,
    ⟨Fld.GRD_R_PERM_NX, .rw, 0x0, [], false⟩,
    ⟨Fld.GRD_R_PERM_NW, .rw, 0x0, [], false⟩,
    ⟨Fld.GRD_R_PERM_NR, .rw, 0x0, [], false⟩]⟩,
  ⟨0x110A0800, 11, 0x1000, 1, 0x1, [
    ⟨Fld.GRD_FENCE_GO, .wo, 0x0, [], false⟩]⟩,
  ⟨0x110A0804, 11, 0x1000, 1, 0x1, [
    ⟨Fld.GRD_STATUS_CFG_ERR, .w1c, 0x0, [], false⟩,
    ⟨Fld.GRD_STATUS_PEND, .ro, 0x0, [], false⟩,
    ⟨Fld.GRD_STATUS_BUSY, .ro, 0x0, [], false⟩]⟩,
  ⟨0x110A0810, 11, 0x1000, 1, 0x1, [
    ⟨Fld.GRD_LOG_LO_ADDR_LO, .ro, 0x0, [], false⟩]⟩,
  ⟨0x110A0814, 11, 0x1000, 1, 0x1, [
    ⟨Fld.GRD_LOG_HI_VALID, .w1c, 0x0, [], false⟩,
    ⟨Fld.GRD_LOG_HI_W, .ro, 0x0, [], false⟩,
    ⟨Fld.GRD_LOG_HI_TYPE, .ro, 0x0, [], false⟩,
    ⟨Fld.GRD_LOG_HI_IID, .ro, 0x0, [], false⟩,
    ⟨Fld.GRD_LOG_HI_ADDR_HI, .ro, 0x0, [], false⟩]⟩]

/-- Registers WGD. -/
def regRowsWGD : List RegRow := [
  ⟨0x17000000, 1, 0x1, 1, 0x1, [
    ⟨Fld.WGD_CTRL_FAIL, .w1s, 0x0, [], false⟩]⟩,
  ⟨0x17000004, 1, 0x1, 1, 0x1, [
    ⟨Fld.WGD_STATUS_CFG_ERR, .w1c, 0x0, [], false⟩,
    ⟨Fld.WGD_STATUS_MSI_DROP, .w1c, 0x0, [], false⟩,
    ⟨Fld.WGD_STATUS_GATE_FLT, .w1c, 0x0, [], false⟩,
    ⟨Fld.WGD_STATUS_FAILED, .ro, 0x0, [], false⟩]⟩,
  ⟨0x17000008, 1, 0x1, 1, 0x1, [
    ⟨Fld.WGD_GATE_TMO_US, .rw, 0x2710, [], false⟩]⟩,
  ⟨0x1700000C, 1, 0x1, 1, 0x1, [
    ⟨Fld.WGD_HARTW_SECURE, .ro, 0xFFFF, [], false⟩]⟩,
  ⟨0x17000010, 1, 0x1, 1, 0x1, [
    ⟨Fld.WGD_IMSIC_OWN_MSEC, .rwl, 0xFFFF, [], false⟩]⟩,
  ⟨0x17000020, 2, 0x4, 1, 0x1, [
    ⟨Fld.WGD_LOCK_GROUPS, .w1s, 0x0, [], false⟩]⟩,
  ⟨0x17000030, 1, 0x1, 1, 0x1, [
    ⟨Fld.WGD_DBG_LOCK, .w1s, 0x0, [], false⟩,
    ⟨Fld.WGD_DBG_SDBG, .rwl, 0x0, [], false⟩]⟩,
  ⟨0x17001000, 64, 0x4, 1, 0x1, [
    ⟨Fld.WGD_OWN_WORLD, .rwl, 0x0, [], false⟩]⟩]

/-- Registers PWR. -/
def regRowsPWR : List RegRow := [
  ⟨0x1A000F00, 2, 0x4, 1, 0x1, [
    ⟨Fld.PWR_SHOLD_DOM, .rw, 0x0, [], false⟩]⟩,
  ⟨0x1A000F08, 2, 0x4, 1, 0x1, [
    ⟨Fld.PWR_HHOLD_DOM, .rw, 0x0, [], false⟩]⟩,
  ⟨0x1A000000, 41, 0x4, 1, 0x1, [
    ⟨Fld.PWR_DOM_DEFERRED, .ro, 0x0, [], false⟩,
    ⟨Fld.PWR_DOM_STATE, .ro, 0x2, [], false⟩,
    ⟨Fld.PWR_DOM_IDLE, .ro, 0x0, [], false⟩,
    ⟨Fld.PWR_DOM_RST, .wo, 0x0, [], false⟩,
    ⟨Fld.PWR_DOM_ON, .rw, 0x1, [], false⟩]⟩,
  ⟨0x1A000F10, 1, 0x1, 1, 0x1, [
    ⟨Fld.PWR_WARM_CODE, .wo, 0x0, [], false⟩,
    ⟨Fld.PWR_WARM_GO, .wo, 0x0, [], false⟩]⟩,
  ⟨0x1A000F14, 1, 0x1, 1, 0x1, [
    ⟨Fld.PWR_RSTCAUSE_SW_WARM, .w1c, 0x0, [], true⟩,
    ⟨Fld.PWR_RSTCAUSE_PIN_WARM, .w1c, 0x0, [], true⟩,
    ⟨Fld.PWR_RSTCAUSE_POR, .w1c, 0x1, [], true⟩]⟩,
  ⟨0x1A000F18, 1, 0x1, 1, 0x1, [
    ⟨Fld.PWR_STATUS_CFG_ERR, .w1c, 0x0, [], false⟩]⟩]

/-- Registers WIR. -/
def regRowsWIR : List RegRow := [
  ⟨0x19000000, 2, 0x10000, 1, 0x1, [
    ⟨Fld.WIR_CTRL_CLASS, .rw, 0x0, [0, 1, 2, 3, 4, 5, 6, 7, 8, 9, 10, 11], false⟩,
    ⟨Fld.WIR_CTRL_TGT_TMO_US, .rw, 0x3E8, [], false⟩,
    ⟨Fld.WIR_CTRL_RD_TMO_US, .rw, 0x64, [], false⟩]⟩,
  ⟨0x19000004, 2, 0x10000, 1, 0x1, [
    ⟨Fld.WIR_STATUS_CFG_ERR, .w1c, 0x0, [], false⟩,
    ⟨Fld.WIR_STATUS_TGT_TO, .w1c, 0x0, [], false⟩,
    ⟨Fld.WIR_STATUS_DISCARD, .w1c, 0x0, [], false⟩,
    ⟨Fld.WIR_STATUS_PERR, .w1c, 0x0, [], false⟩]⟩,
  ⟨0x19000008, 2, 0x10000, 1, 0x1, [
    ⟨Fld.WIR_CNT_DISCARD, .rc, 0x0, [], false⟩,
    ⟨Fld.WIR_CNT_PERR, .rc, 0x0, [], false⟩]⟩,
  ⟨0x19000100, 2, 0x10000, 16, 0x10, [
    ⟨Fld.WIR_RNG_BASE_BASE_LO, .rw, 0x0, [], false⟩,
    ⟨Fld.WIR_RNG_BASE_POSTED, .rw, 0x0, [], false⟩,
    ⟨Fld.WIR_RNG_BASE_EN, .rw, 0x0, [], false⟩]⟩,
  ⟨0x19000104, 2, 0x10000, 16, 0x10, [
    ⟨Fld.WIR_RNG_LIMIT_LIMIT_LO, .rw, 0x0, [], false⟩]⟩,
  ⟨0x19000108, 2, 0x10000, 16, 0x10, [
    ⟨Fld.WIR_RNG_HI_LIMIT_HI, .rw, 0x0, [], false⟩,
    ⟨Fld.WIR_RNG_HI_BASE_HI, .rw, 0x0, [], false⟩]⟩,
  ⟨0x19000400, 2, 0x10000, 64, 0x4, [
    ⟨Fld.WIR_MSG_EN, .rw, 0x0, [], false⟩,
    ⟨Fld.WIR_MSG_W, .rw, 0x0, [], false⟩,
    ⟨Fld.WIR_MSG_PAGE, .rw, 0x0, [], false⟩,
    ⟨Fld.WIR_MSG_ID, .rw, 0x0, [], false⟩]⟩]

/-- Registers WIR0. -/
def regRowsWIR0 : List RegRow := [
  ⟨0x19000800, 8, 0x10, 1, 0x1, [
    ⟨Fld.WIR0_SEM_OWN_RESP, .ro, 0x0, [], false⟩,
    ⟨Fld.WIR0_SEM_OWN_BUSY, .ro, 0x0, [], false⟩,
    ⟨Fld.WIR0_SEM_OWN_RELEASE, .wo, 0x0, [], false⟩,
    ⟨Fld.WIR0_SEM_OWN_ACQUIRE, .wo, 0x0, [], false⟩,
    ⟨Fld.WIR0_SEM_OWN_HELD, .ro, 0x0, [], false⟩,
    ⟨Fld.WIR0_SEM_OWN_OWNER, .ro, 0x0, [], false⟩]⟩,
  ⟨0x19000804, 8, 0x10, 1, 0x1, [
    ⟨Fld.WIR0_SEM_ADDR_ADDR_LO, .rw, 0x0, [], false⟩]⟩,
  ⟨0x19000808, 8, 0x10, 1, 0x1, [
    ⟨Fld.WIR0_SEM_CMD_GO, .wo, 0x0, [], false⟩,
    ⟨Fld.WIR0_SEM_CMD_OP, .rw, 0x0, [0, 1, 2, 3, 4, 5, 6, 7, 8], false⟩,
    ⟨Fld.WIR0_SEM_CMD_ADDR_HI, .rw, 0x0, [], false⟩]⟩,
  ⟨0x1900080C, 8, 0x10, 1, 0x1, [
    ⟨Fld.WIR0_SEM_DATA_DATA, .rw, 0x0, [], false⟩]⟩]

/-- Registers HIF. -/
def regRowsHIF : List RegRow := [
  ⟨0x1800A000, 8, 0x4, 1, 0x1, [
    ⟨Fld.HIF_DB_TX_TAIL_TAIL, .rw, 0x0, [], false⟩]⟩,
  ⟨0x1800A040, 8, 0x4, 1, 0x1, [
    ⟨Fld.HIF_DB_RX_TAIL_TAIL, .rw, 0x0, [], false⟩]⟩,
  ⟨0x1800A080, 8, 0x4, 1, 0x1, [
    ⟨Fld.HIF_DB_TX_HEAD_HEAD, .ro, 0x0, [], false⟩]⟩,
  ⟨0x1800A0C0, 8, 0x4, 1, 0x1, [
    ⟨Fld.HIF_DB_RX_HEAD_HEAD, .ro, 0x0, [], false⟩]⟩,
  ⟨0x1800A100, 1, 0x1, 1, 0x1, [
    ⟨Fld.HIF_DB_ERR_IGNORED, .rc, 0x0, [], false⟩]⟩]

/-- Registers TSW. -/
def regRowsTSW : List RegRow := [
  ⟨0x1800020C, 1, 0x1, 1, 0x1, [
    ⟨Fld.TSW_HIF_STAT_RX_LOST, .rc, 0x0, [], false⟩,
    ⟨Fld.TSW_HIF_STAT_TX_ERR, .rc, 0x0, [], false⟩]⟩,
  ⟨0x18000380, 1, 0x1, 1, 0x1, [
    ⟨Fld.TSW_PTP_ID_LO_ID_LO, .rw, 0x0, [], false⟩]⟩,
  ⟨0x18000384, 1, 0x1, 1, 0x1, [
    ⟨Fld.TSW_PTP_ID_HI_ID_HI, .rw, 0x0, [], false⟩]⟩,
  ⟨0x18000300, 4, 0x10, 1, 0x1, [
    ⟨Fld.TSW_PTP_CFG_EN, .rw, 0x0, [], false⟩,
    ⟨Fld.TSW_PTP_CFG_EXT, .rw, 0x0, [], false⟩,
    ⟨Fld.TSW_PTP_CFG_LOG_SYNC, .rw, 0xD, [], false⟩,
    ⟨Fld.TSW_PTP_CFG_PRIO1, .rw, 0xF8, [], false⟩,
    ⟨Fld.TSW_PTP_CFG_PRIO2, .rw, 0xF8, [], false⟩,
    ⟨Fld.TSW_PTP_CFG_DOMAIN, .rw, 0x0, [], false⟩]⟩,
  ⟨0x18000304, 4, 0x10, 1, 0x1, [
    ⟨Fld.TSW_PTP_ROLE_ROLES, .rw, 0x0, [], false⟩]⟩,
  ⟨0x18000308, 4, 0x10, 1, 0x1, [
    ⟨Fld.TSW_PTP_STATE_GM_SELF, .ro, 0x0, [], false⟩,
    ⟨Fld.TSW_PTP_STATE_SLAVE_VALID, .ro, 0x0, [], false⟩,
    ⟨Fld.TSW_PTP_STATE_SLAVE_PORT, .ro, 0x0, [], false⟩,
    ⟨Fld.TSW_PTP_STATE_GM_CHG, .rc, 0x0, [], false⟩]⟩,
  ⟨0x18000340, 4, 0x8, 1, 0x1, [
    ⟨Fld.TSW_PTP_GM_LO_GM, .ro, 0x0, [], false⟩]⟩,
  ⟨0x18000344, 4, 0x8, 1, 0x1, [
    ⟨Fld.TSW_PTP_GM_HI_GM, .ro, 0x0, [], false⟩]⟩,
  ⟨0x18000400, 14, 0x8, 1, 0x1, [
    ⟨Fld.TSW_PTP_PORT_CFG_LOG_PDELAY, .rw, 0x0, [], false⟩,
    ⟨Fld.TSW_PTP_PORT_CFG_EN, .rw, 0x0, [], false⟩]⟩,
  ⟨0x18000404, 14, 0x8, 1, 0x1, [
    ⟨Fld.TSW_PTP_PORT_DELAY_VALID, .ro, 0x0, [], false⟩,
    ⟨Fld.TSW_PTP_PORT_DELAY_DELAY, .ro, 0x0, [], false⟩]⟩,
  ⟨0x18000100, 14, 0x4, 1, 0x1, [
    ⟨Fld.TSW_GCL_CLEAR, .wo, 0x0, [], false⟩,
    ⟨Fld.TSW_GCL_ACTIVE, .ro, 0x0, [], false⟩,
    ⟨Fld.TSW_GCL_LIST, .ro, 0x0, [], false⟩]⟩,
  ⟨0x18000004, 1, 0x1, 1, 0x1, [
    ⟨Fld.TSW_STATUS_CFG_ERR, .w1c, 0x0, [], false⟩]⟩,
  ⟨0x18000200, 1, 0x1, 1, 0x1, [
    ⟨Fld.FGD_STR_CTRL_CFG_ERR, .w1c, 0x0, [], false⟩,
    ⟨Fld.FGD_STR_CTRL_EN, .rw, 0x0, [], false⟩]⟩,
  ⟨0x18000204, 1, 0x1, 1, 0x1, [
    ⟨Fld.FGD_STR_DESC_LO_ADDR_LO, .rw, 0x0, [], false⟩]⟩,
  ⟨0x18000208, 1, 0x1, 1, 0x1, [
    ⟨Fld.FGD_STR_DESC_HI_ADDR_HI, .rw, 0x0, [], false⟩]⟩]

/-- Registers CAN. -/
def regRowsCAN : List RegRow := [
  ⟨0x1810000C, 12, 0x10000, 1, 0x1, [
    ⟨Fld.CAN_STATUS_RX_LOST, .rc, 0x0, [], false⟩,
    ⟨Fld.CAN_STATUS_REC, .ro, 0x0, [], false⟩,
    ⟨Fld.CAN_STATUS_TEC, .ro, 0x0, [], false⟩,
    ⟨Fld.CAN_STATUS_PASSIVE, .ro, 0x0, [], false⟩,
    ⟨Fld.CAN_STATUS_BUSOFF, .ro, 0x0, [], false⟩]⟩,
  ⟨0x18100000, 12, 0x10000, 1, 0x1, [
    ⟨Fld.FGD_STR_CTRL_CFG_ERR, .w1c, 0x0, [], false⟩,
    ⟨Fld.FGD_STR_CTRL_EN, .rw, 0x0, [], false⟩]⟩,
  ⟨0x18100004, 12, 0x10000, 1, 0x1, [
    ⟨Fld.FGD_STR_DESC_LO_ADDR_LO, .rw, 0x0, [], false⟩]⟩,
  ⟨0x18100008, 12, 0x10000, 1, 0x1, [
    ⟨Fld.FGD_STR_DESC_HI_ADDR_HI, .rw, 0x0, [], false⟩]⟩,
  ⟨0x18108000, 12, 0x10000, 1, 0x1, [
    ⟨Fld.DB_SQ_TAIL_TAIL, .rw, 0x0, [], false⟩]⟩,
  ⟨0x18108040, 12, 0x10000, 1, 0x1, [
    ⟨Fld.DB_CQ_HEAD_HEAD, .rw, 0x0, [], false⟩]⟩,
  ⟨0x18108080, 12, 0x10000, 1, 0x1, [
    ⟨Fld.DB_SQ_HEAD_HEAD, .ro, 0x0, [], false⟩]⟩,
  ⟨0x181080C0, 12, 0x10000, 1, 0x1, [
    ⟨Fld.DB_CQ_TAIL_TAIL, .ro, 0x0, [], false⟩]⟩,
  ⟨0x181080C4, 12, 0x10000, 1, 0x1, [
    ⟨Fld.DB_ERR_IGNORED, .rc, 0x0, [], false⟩]⟩]

/-- Registers PCE. -/
def regRowsPCE : List RegRow := [
  ⟨0x18200000, 2, 0x10000, 1, 0x1, [
    ⟨Fld.PCE_CFG_CLASS, .rw, 0x0, [0, 1, 2, 3, 4, 5, 6, 7, 8, 9, 10, 11], false⟩,
    ⟨Fld.PCE_CFG_GEN, .rw, 0x5, [1, 2, 3, 4, 5], false⟩,
    ⟨Fld.PCE_CFG_WIDTH, .rw, 0x2, [0, 1, 2], false⟩,
    ⟨Fld.PCE_CFG_EN, .rw, 0x0, [], false⟩]⟩]

/-- Registers ERM. -/
def regRowsERM : List RegRow := [
  ⟨0x20010000, 1, 0x1, 1, 0x1, [
    ⟨Fld.ERM_SAFE_ESC_LEVEL, .rw, 0x2, [], false⟩,
    ⟨Fld.ERM_SAFE_FALLBACK, .ro, 0x3, [], false⟩,
    ⟨Fld.ERM_SAFE_FAULT, .ro, 0x1, [], false⟩,
    ⟨Fld.ERM_SAFE_FAULT_CLR, .wo, 0x0, [], false⟩,
    ⟨Fld.ERM_SAFE_LEVEL, .rw, 0x3, [], false⟩]⟩,
  ⟨0x20010004, 1, 0x1, 1, 0x1, [
    ⟨Fld.ERM_QSTAT_FILL, .ro, 0x0, [], false⟩]⟩,
  ⟨0x20010008, 1, 0x1, 1, 0x1, [
    ⟨Fld.ERM_OVF_DROPPED, .rc, 0x0, [], false⟩]⟩,
  ⟨0x20010010, 8, 0x4, 1, 0x1, [
    ⟨Fld.ERM_REC_WORD, .ro, 0x0, [], false⟩]⟩,
  ⟨0x20010030, 1, 0x1, 1, 0x1, [
    ⟨Fld.ERM_POP_POP, .wo, 0x0, [], false⟩]⟩,
  ⟨0x20011000, 256, 0x4, 1, 0x1, [
    ⟨Fld.ERM_SRC_ACTION, .ro, 0x0, [], false⟩,
    ⟨Fld.ERM_SRC_COUNT, .ro, 0x0, [], false⟩,
    ⟨Fld.ERM_SRC_ISOLATED, .ro, 0x0, [], false⟩,
    ⟨Fld.ERM_SRC_DONE, .wo, 0x0, [], false⟩,
    ⟨Fld.ERM_SRC_HANDLING, .ro, 0x0, [], false⟩]⟩]

/-- Registers FWL. -/
def regRowsFWL : List RegRow := [
  ⟨0x1B010000, 1, 0x1, 1, 0x1, [
    ⟨Fld.FWL_LOG_BASE_LO_ADDR_LO, .rw, 0x0, [], false⟩]⟩,
  ⟨0x1B010004, 1, 0x1, 1, 0x1, [
    ⟨Fld.FWL_LOG_BASE_HI_ADDR_HI, .rw, 0x0, [], false⟩]⟩,
  ⟨0x1B010008, 1, 0x1, 1, 0x1, [
    ⟨Fld.FWL_LOG_CFG_LOG2, .rw, 0x6, [6, 7, 8, 9, 10, 11, 12, 13, 14, 15], false⟩,
    ⟨Fld.FWL_LOG_CFG_MINLVL, .rw, 0x0, [], false⟩,
    ⟨Fld.FWL_LOG_CFG_HEATH_EN, .rw, 0x0, [], false⟩,
    ⟨Fld.FWL_LOG_CFG_EN, .rw, 0x0, [], false⟩]⟩,
  ⟨0x1B01000C, 1, 0x1, 1, 0x1, [
    ⟨Fld.FWL_LOG_TAIL_TAIL, .ro, 0x0, [], false⟩]⟩,
  ⟨0x1B010010, 1, 0x1, 1, 0x1, [
    ⟨Fld.FWL_LOG_HEAD_HEAD, .rw, 0x0, [], false⟩]⟩,
  ⟨0x1B010014, 1, 0x1, 1, 0x1, [
    ⟨Fld.FWL_LOG_LOST_LOST, .rc, 0x0, [], false⟩]⟩,
  ⟨0x1B010020, 8, 0x4, 1, 0x1, [
    ⟨Fld.FWL_TRACE_MASK, .rw, 0x0, [], false⟩]⟩,
  ⟨0x1B010100, 12, 0x4, 1, 0x1, [
    ⟨Fld.FWL_WDT_HELD, .ro, 0x0, [], false⟩,
    ⟨Fld.FWL_WDT_EXPIRIES, .rc, 0x0, [], true⟩]⟩]

/-- Registers THM. -/
def regRowsTHM : List RegRow := [
  ⟨0x1A010000, 1, 0x1, 1, 0x1, [
    ⟨Fld.THM_SURGE_AVS_HI, .ro, 0x0, [], false⟩,
    ⟨Fld.THM_SURGE_CLAMP, .ro, 0x0, [], false⟩,
    ⟨Fld.THM_SURGE_CLK, .ro, 0x0, [], false⟩,
    ⟨Fld.THM_SURGE_DIS_LOCK, .w1s, 0x0, [], false⟩,
    ⟨Fld.THM_SURGE_DIS, .rwl, 0x0, [], false⟩,
    ⟨Fld.THM_SURGE_REQ, .rw, 0x0, [], false⟩]⟩,
  ⟨0x1A010004, 1, 0x1, 1, 0x1, [
    ⟨Fld.THM_STATUS_SENS_ERR, .w1c, 0x0, [], false⟩,
    ⟨Fld.THM_STATUS_WEAR_OUT, .ro, 0x0, [], false⟩,
    ⟨Fld.THM_STATUS_WARN, .w1c, 0x0, [], false⟩,
    ⟨Fld.THM_STATUS_CLAMPED, .w1c, 0x0, [], false⟩,
    ⟨Fld.THM_STATUS_EXIT_P, .w1c, 0x0, [], false⟩,
    ⟨Fld.THM_STATUS_EXIT_T, .w1c, 0x0, [], false⟩,
    ⟨Fld.THM_STATUS_AVS_ERR, .w1c, 0x0, [], false⟩]⟩,
  ⟨0x1A010008, 1, 0x1, 1, 0x1, [
    ⟨Fld.THM_TJ_HOT, .ro, 0x0, [], false⟩,
    ⟨Fld.THM_TJ_TJ, .ro, 0x0, [], false⟩]⟩,
  ⟨0x1A01000C, 1, 0x1, 1, 0x1, [
    ⟨Fld.THM_TWARN_TWARN, .rw, 0x348, [], false⟩]⟩,
  ⟨0x1A010010, 1, 0x1, 1, 0x1, [
    ⟨Fld.THM_PWR_P10, .ro, 0x0, [], false⟩,
    ⟨Fld.THM_PWR_PINST, .ro, 0x0, [], false⟩]⟩,
  ⟨0x1A010014, 1, 0x1, 1, 0x1, [
    ⟨Fld.THM_WEAR_H_HOURS, .ro, 0x0, [], false⟩]⟩,
  ⟨0x1A010018, 1, 0x1, 1, 0x1, [
    ⟨Fld.THM_WEAR_A_ALLOW_MS, .ro, 0x0, [], false⟩]⟩,
  ⟨0x1A010100, 24, 0x4, 1, 0x1, [
    ⟨Fld.THM_TS_ERR, .ro, 0x0, [], false⟩,
    ⟨Fld.THM_TS_T, .ro, 0x0, [], false⟩]⟩]

/-- Registers CLK. -/
def regRowsCLK : List RegRow := [
  ⟨0x1A020040, 1, 0x1, 1, 0x1, [
    ⟨Fld.CLK_MON_TB_ON_SYS, .ro, 0x0, [], false⟩,
    ⟨Fld.CLK_MON_XGREF_BAD, .w1c, 0x0, [], false⟩,
    ⟨Fld.CLK_MON_TBREF_BAD, .w1c, 0x0, [], false⟩,
    ⟨Fld.CLK_MON_SYSCLK_BAD, .w1c, 0x0, [], false⟩]⟩]

/-- Registers AUD. -/
def regRowsAUD : List RegRow := [
  ⟨0x18308000, 8, 0x800, 1, 0x1, [
    ⟨Fld.FGD_STR_CTRL_CFG_ERR, .w1c, 0x0, [], false⟩,
    ⟨Fld.FGD_STR_CTRL_EN, .rw, 0x0, [], false⟩]⟩,
  ⟨0x18308004, 8, 0x800, 1, 0x1, [
    ⟨Fld.FGD_STR_DESC_LO_ADDR_LO, .rw, 0x0, [], false⟩]⟩,
  ⟨0x18308008, 8, 0x800, 1, 0x1, [
    ⟨Fld.FGD_STR_DESC_HI_ADDR_HI, .rw, 0x0, [], false⟩]⟩,
  ⟨0x1830800C, 8, 0x800, 1, 0x1, [
    ⟨Fld.FGD_STR_BUF_TAIL_TAIL, .rw, 0x0, [], false⟩]⟩]

/-- Registers GQ. -/
def regRowsGQ : List RegRow := [
  ⟨0x14008000, 8, 0x1000, 1, 0x1, [
    ⟨Fld.DB_SQ_TAIL_TAIL, .rw, 0x0, [], false⟩]⟩,
  ⟨0x14008040, 8, 0x1000, 1, 0x1, [
    ⟨Fld.DB_CQ_HEAD_HEAD, .rw, 0x0, [], false⟩]⟩,
  ⟨0x14008080, 8, 0x1000, 1, 0x1, [
    ⟨Fld.DB_SQ_HEAD_HEAD, .ro, 0x0, [], false⟩]⟩,
  ⟨0x140080C0, 8, 0x1000, 1, 0x1, [
    ⟨Fld.DB_CQ_TAIL_TAIL, .ro, 0x0, [], false⟩]⟩,
  ⟨0x140080C4, 8, 0x1000, 1, 0x1, [
    ⟨Fld.DB_ERR_IGNORED, .rc, 0x0, [], false⟩]⟩]

/-- Registers XSP. -/
def regRowsXSP : List RegRow := [
  ⟨0x18304000, 1, 0x1, 1, 0x1, [
    ⟨Fld.DB_SQ_TAIL_TAIL, .rw, 0x0, [], false⟩]⟩,
  ⟨0x18304040, 1, 0x1, 1, 0x1, [
    ⟨Fld.DB_CQ_HEAD_HEAD, .rw, 0x0, [], false⟩]⟩,
  ⟨0x18304080, 1, 0x1, 1, 0x1, [
    ⟨Fld.DB_SQ_HEAD_HEAD, .ro, 0x0, [], false⟩]⟩,
  ⟨0x183040C0, 1, 0x1, 1, 0x1, [
    ⟨Fld.DB_CQ_TAIL_TAIL, .ro, 0x0, [], false⟩]⟩,
  ⟨0x183040C4, 1, 0x1, 1, 0x1, [
    ⟨Fld.DB_ERR_IGNORED, .rc, 0x0, [], false⟩]⟩]

/-- The rows of the register groups, with the range of addresses each spans. -/
def regGroups : List (Nat × Nat × List RegRow) := [
  (0x1B000000, 0x1B000124, regRowsBOOT),
  (0x10100000, 0x1017E058, regRowsTEN),
  (0x40000000, 0x4001F0C8, regRowsDB),
  (0x10000000, 0x10000274, regRowsTCX),
  (0x12000000, 0x12000238, regRowsTMB),
  (0x12010000, 0x12010060, regRowsTTB),
  (0x130C0000, 0x130C1318, regRowsFGD),
  (0x13000000, 0x13030008, regRowsCSI),
  (0x13080000, 0x130B0010, regRowsSSP),
  (0x130D0000, 0x130D0500, regRowsFUS),
  (0x11100010, 0x11100028, regRowsMRC),
  (0x11000000, 0x11070140, regRowsDMC),
  (0x11080010, 0x11080048, regRowsSLC),
  (0x11090000, 0x11092000, regRowsSLU),
  (0x14000010, 0x1400017C, regRowsGFX),
  (0x14100000, 0x141380C8, regRowsDSP),
  (0x15000100, 0x1503012C, regRowsAPC),
  (0x20000000, 0x2000000C, regRowsHTH),
  (0x110A0000, 0x110AA818, regRowsGRD),
  (0x17000000, 0x17001100, regRowsWGD),
  (0x1A000000, 0x1A000F1C, regRowsPWR),
  (0x19000000, 0x19010500, regRowsWIR),
  (0x19000800, 0x19000880, regRowsWIR0),
  (0x1800A000, 0x1800A104, regRowsHIF),
  (0x18000004, 0x18000470, regRowsTSW),
  (0x18100000, 0x181B80C8, regRowsCAN),
  (0x18200000, 0x18210004, regRowsPCE),
  (0x20010000, 0x20011400, regRowsERM),
  (0x1B010000, 0x1B010130, regRowsFWL),
  (0x1A010000, 0x1A010160, regRowsTHM),
  (0x1A020040, 0x1A020044, regRowsCLK),
  (0x18308000, 0x1830B810, regRowsAUD),
  (0x14008000, 0x1400F0C8, regRowsGQ),
  (0x18304000, 0x183040C8, regRowsXSP)]

/-- Address `a` is one of the registers of row `r`. -/
def RegRow.has (r : RegRow) (a : Nat) : Bool :=
  Nat.ble r.base a &&
    (let d := a - r.base
     Nat.blt (d / r.s) r.n && Nat.beq (d % r.s % r.t) 0 && Nat.blt (d % r.s / r.t) r.k)

/-- The row of the register at address `a`, where the spec lists one. -/
def regRow (a : Nat) : Option RegRow :=
  (regGroups.filter fun g => Nat.ble g.1 a && Nat.blt a g.2.1).findSome? fun g => g.2.2.find? (·.has a)

/-- The fields of the register at address `a`; none for a reserved register (R33). -/
def regFields (a : Nat) : List RegField := ((regRow a).map (·.fields)).getD []

end Sys2Proof.Machine
end

