-- ==== Sys2Proof/Machine/Parts.lean ====
section
/-!
DEFINITION. The parts of the state: what each unit of the A880 holds beside its set-up registers.  Each structure cites the
rules that name what it holds.  Times called elapsed are sums of TMB_INCR since POR_N in 2⁻³² ns (R238).
-/

namespace Sys2Proof.Machine

/-! ## Tensor engines (04_tensor_engine) -/

/-- A weight tile as it lies in a weight buffer: element codes row by row, scale codes, sparsity words (R84, R91, R92), and the
checksum weights formed as it was written there: for each logical row the sum of the exact path, and the sum and the magnitude
sum of the wide path (R112). -/
structure WeightTile where
  fmt    : BitVec 5
  scale  : BitVec 2
  sparse : Bool
  elems  : List Nat
  scales : List Nat
  words  : List Nat
  sums   : List Int
  wide   : List (Rat × Rat)
  deriving DecidableEq, Repr

/-- An activation vector as LDA read it (R89). -/
structure ActVector where
  fmt    : BitVec 5
  scale  : BitVec 2
  elems  : List Nat
  scales : List Nat
  deriving DecidableEq, Repr

/-- An LDW that has started, with the tiles it has still to load: places among the arrays of its ARYM (R86). -/
structure LdwJob where
  seq  : Nat
  hdr  : TileHdr
  args : LdwArgs
  left : List Nat
  deriving DecidableEq, Repr

/-- An LDA that has started, with the next vector it fetches (R89). -/
structure LdaJob where
  seq  : Nat
  hdr  : TileHdr
  args : LdaArgs
  next : Nat
  deriving DecidableEq, Repr

/-- An MMA or MMAS of one array that has not taken all its vectors yet (R86, R89). -/
structure MacJob where
  seq    : Nat                -- the command it is part of
  sparse : Bool
  args   : MmaArgs
  hdr    : TileHdr
  row    : Nat                -- accumulator row of vector 0 for this array
  done   : Nat                -- vectors taken
  fresh  : Bool               -- an LDW precedes it: it takes the shadow buffer's tile
  tile   : Option WeightTile  -- the tile it works with, once it has started
  upsets : List ArrayUpset
  arm    : Bool               -- a CHK mode 0x1 before it has not been used yet (R119)
  deriving DecidableEq, Repr

/-- A DMA command that its channel has not finished, with the areas of engine memory it can touch (R101, R108). -/
structure DmaJob where
  seq   : Nat
  hdr   : TileHdr
  args  : DmaArgs
  areas : List (Nat × Nat × Bool)   -- first byte, end, whether it writes
  deriving DecidableEq, Repr

/-- One array pipe ARYi (R83 to R89). -/
structure ArrayPipe where
  shadow   : Option WeightTile  -- a tile that no MMA or MMAS has taken yet
  active   : Option WeightTile
  seen     : Bool               -- an LDW of the job has been issued for the array
  fresh    : Nat                -- LDWs of it whose tile no MMA or MMAS issued after them is to take
  queue    : List ActVector     -- activation queue, 64 vectors at most
  macs     : List MacJob        -- MMA and MMAS that have not ended, oldest first
  selfTest : Bool               -- CHK mode 0x1 armed (R119)
  deriving DecidableEq, Repr

/-- A KV window (R162, R163). -/
structure KvWindow where
  loaded  : Bool
  seq     : Nat
  ntok    : Nat
  append  : Bool               -- loaded by an append KVL
  granted : Bool               -- the append grant is in place
  deriving DecidableEq, Repr

/-- What becomes of an engine that a fault has stopped (R120). -/
inductive FaultEnd where
  | idle | reset | test
  deriving DecidableEq, Repr

/-- A tensor engine beside its registers (R83). -/
structure Engine where
  arrays   : Vector ArrayPipe 4
  loads    : List LdwJob          -- LDW, LDA and DMA commands that have started and not ended, oldest first
  fetches  : List LdaJob
  dmas     : List DmaJob
  issued   : Nat                  -- commands started since the engine's last start or reset
  faultEnd : FaultEnd             -- while STATE is "stopped on fault"
  sregs    : Vector Word 16
  waiting  : Option (Nat × Nat)   -- WAIT in progress: semaphore, N (R102)
  kvWins   : Vector KvWindow 4
  kvlBusy  : Bool                 -- an append request is at Miller (R163)
  wdtStart : Option Nat           -- elapsed time at which TEN_WDT began to count (R122, R226)
  job      : Option Nat           -- number of the job that runs here
  feed     : List Nat             -- commands of the job's stream not yet copied into the queue (R189)
  wcheck   : Bool                 -- CHECK 0x1: the weight sections are still to be checked (R187)
  sweep    : Nat                  -- the sweep of the job's window layers whose commands are being copied (R133)
  tapTable : List (Nat × Nat)     -- its tap table: at most 49 taps, ky and kx (R133)
  deriving DecidableEq, Repr

/-! ## Contexts, rings and jobs (06 to 08) -/

/-- State of a context (R173). -/
inductive CtxStatus where
  | free | active | halted
  deriving DecidableEq, Repr

/-- KV area descriptor (R159). -/
structure KvArea where
  enable    : Bool
  base      : Nat
  maxSeq    : Nat
  poolPages : Nat
  poolBase  : Nat
  metaBase  : Nat
  l1Base    : Nat
  tblBase   : Nat
  tblCount  : Nat
  cls       : Nat
  refused   : Bool            -- R159, R532
  deriving DecidableEq, Repr

/-- KV geometry (R155, R533). -/
structure KvGeom where
  kfmt   : Nat
  nl     : Nat
  hkv    : Nat
  d      : Nat
  tpp    : Nat
  pps    : Nat
  maxtok : Nat
  deriving DecidableEq, Repr

/-- A KV page mapping: the pool page and the write permission (R160). -/
structure KvPte where
  page : Nat
  w    : Bool
  deriving DecidableEq, Repr

/-- STATE of a page metadata record (R165). -/
inductive KvPageState where
  | free | mapped | retiring
  deriving DecidableEq, Repr

/-- A page metadata record (R165). -/
structure KvRec where
  refcnt : Nat
  st     : KvPageState
  retire : Nat
  deriving DecidableEq, Repr

/-- Who asked Miller for a KV action (R163, R167). -/
inductive KvSource where
  | entry (ring idx : Nat)
  | window (te win tag : Nat) (job : Option Nat)
  deriving DecidableEq, Repr

/-- The KV actions (R163, R168). -/
inductive KvKind where
  | map (zero : Bool) | fork (parent : Nat) | unmap | append
  deriving DecidableEq, Repr

/-- What a KV action in progress waits for (R163, R168). -/
inductive KvStage where
  | waiting | copying | fencing | fencingChild
  deriving DecidableEq, Repr

/-- A KV action Miller has begun (R163, R167, R168).  `moves` lists, for each page written, its key, the
old page and the new one; `tables` the level-0 tables reserved for 2 MiB spans. -/
structure KvOp where
  src    : KvSource
  kind   : KvKind
  seq    : Nat
  t0     : Nat
  t1     : Nat
  stage  : KvStage
  moves  : List (Nat × Option Nat × Nat)
  tables : List (Nat × Nat)
  deriving DecidableEq, Repr

/-- A partition (R208, R209). -/
structure Partition where
  jobPu  : Nat
  puMask : Nat
  eoff   : Nat
  eshare : Nat
  coff   : Nat
  cshare : Nat
  slotUs : Nat
  ctx    : Option Nat
  model  : Option Nat
  deriving DecidableEq, Repr

/-- A submission entry that has been read and not started (R181). -/
structure HeldEntry where
  bytes    : List Byte        -- its 128 bytes, with CLASS replaced under R185
  idx      : Nat
  readNs   : Nat
  released : Option Nat       -- time of its release (R190)
  started  : Bool             -- it has begun and waits for something its own rule names
  stop     : Nat              -- RING_FLUSH that has begun: the tail at the moment of the flush (R176)
  jobNo    : Nat
  deriving DecidableEq, Repr

/-- A completion entry (R194). -/
structure CqEntry where
  userTag : Nat
  status  : Nat
  fx      : Nat
  event   : Bool
  ring    : Nat
  sqIndex : Nat
  detail  : Nat
  result  : Nat
  tRel    : Nat
  tStart  : Nat
  tEnd    : Nat
  jobNo   : Nat
  deriving DecidableEq, Repr

/-- An event for CTX0 that has not been written (R197). -/
structure CtxEvent where
  code  : Nat
  ctx   : Nat
  count : Nat                    -- repeats
  deriving DecidableEq, Repr

/-- A completion ring of any unit: base, log₂ of entries, next index, phase (R194, R195). -/
structure CqRing where
  base  : Nat
  log2  : Nat
  idx   : Nat
  phase : Bool
  deriving DecidableEq, Repr

/-- The scheduling state of an ACTIVE context; `other` where no line of R227's table holds. -/
inductive CtxState where
  | running | ready | waitingRelease | blocked | idle | other
  deriving DecidableEq, Repr

/-- A context: its descriptor and everything Miller keeps for it (R173 to R197, R206, R227). -/
structure Ctx where
  status      : CtxStatus
  signedOnly  : Bool
  pinned      : Bool
  classDef    : Nat
  classMask   : Nat
  graceUs     : Nat
  msiAddr     : Nat
  msiData     : Nat
  cq          : CqRing
  sqEn        : Nat
  sqBase      : Vector Nat 8
  sqLog2      : Vector Nat 8
  sqRel       : Vector Nat 8
  fenceBase   : Nat
  dirtyOn     : Bool
  dirtyBase   : Nat
  dirtyPages  : Nat
  dirtyOut    : Bool             -- the OUTSIDE flag (R206)
  held        : Vector (List HeldEntry) 8
  reserved    : Nat              -- completion entries reserved and not written (R182)
  unread      : Nat              -- completion entries written and not consumed by software
  fences      : List (Nat × Nat) -- fence values that are not 0 (R192)
  jobNo       : Nat
  kvArea      : Option KvArea
  kvGeom      : Option KvGeom
  epoch       : Nat
  kvMaps      : List (Nat × KvPte)   -- key: sequence × 4,096 + page of the range
  kvRecs      : List (Nat × KvRec)   -- pool pages, then level-0 table pages; unlisted = free
  kvTables    : List (Nat × Nat)     -- 2 MiB span of the KV range ↦ level-0 table page
  kvOp        : Option KvOp
  kvQueue     : List KvOp
  resident    : Bool
  weightsIn   : Bool             -- the weights of its models have been copied (R217)
  copying     : List Nat         -- partitions whose weights are being copied (R217)
  zeroing     : List Partition   -- shares that are being zeroed (R218)
  blockedAt   : Option Nat       -- elapsed time at which it entered BLOCKED or IDLE (R227)
  claim       : Bool             -- R228 has made it resident, and MAKE_RESIDENT is still to take its shares
  noted       : Option CtxState  -- the state the residency procedure was last applied to; none = not ACTIVE (R228)
  waitsOn     : Option (List Nat) -- the contexts that stood in its way then, where it waited to be resident (R228)
  deriving DecidableEq, Repr

/-- A section of a model pack (R200). -/
structure PackSection where
  type : Nat
  idx  : Nat
  crc  : Nat
  off  : Nat
  len  : Nat
  deriving DecidableEq, Repr

/-- A loaded model (R199 to R203). -/
structure Model where
  handle    : Nat
  ctx       : Nat
  part      : Nat
  pack      : Nat               -- IOVA of the pack
  sections  : List PackSection
  streams   : List (Nat × Nat × List Nat)  -- type, INDEX, commands as 128-bit words, as read at load
  manifest  : List Byte
  scale2    : List Nat          -- FP32 code of scale2 of each attention layer, formed at load (R144)
  unloading : Bool
  fixes     : Bool               -- its load has fixed the context's KV geometry (R533)
  deriving DecidableEq, Repr

/-- The last job of a lane, for the affinity rule (R222). -/
structure LaneLast where
  part  : Nat
  lane  : Nat
  ctx   : Nat
  model : Nat
  fout  : Option Nat
  deriving DecidableEq, Repr

/-- A window layer of a job as admission has found it: its record, the sizes of its input and output, and the pad value as a code
of the input's element format (R124, R126, R128). -/
structure LayerRun where
  bytes : List Byte
  inH   : Nat
  inW   : Nat
  outH  : Nat
  outW  : Nat
  pad   : Nat
  deriving DecidableEq, Repr

/-- An admitted job: ready until `lane` names the lane it was placed on (R187, R221 to R226). -/
structure Job where
  no       : Nat                -- the model's own number of the job, unique on the chip
  ctx      : Nat
  ring     : Nat
  idx      : Nat
  bytes    : List Byte
  jobNo    : Nat
  relNs    : Nat                -- time of its release (R190, R194)
  keyNs    : Nat                -- its release time in the order of R221
  lane     : Option Nat
  part     : Nat
  engines  : List Nat           -- engines of the lane, ascending
  toStart  : List Nat
  running  : List Nat
  tStart   : Option Nat
  tEnd     : Nat
  placedAt : Nat                -- elapsed time of the first engine start, for the overrun log (R226)
  fx       : Nat
  fault    : Option (Nat × Nat × Nat)   -- status, TE, cause of the first fault (R120, R194)
  epoch    : Nat                -- JEPOCH (R166)
  stream   : Nat                -- stream INDEX it runs (R223)
  grants   : List Nat           -- sequences with an append grant (R163)
  laneless : Bool               -- STARVED has been posted for it, its partition having no lane left (R229)
  layers   : List LayerRun      -- its window layers
  stripes  : List (Nat × Nat)   -- stripes that are complete: layer, and place of the engine among `engines` (R140)
  deriving DecidableEq, Repr

/-! ## Time (09_network_time_and_timetable) -/

/-- Why the timebase is in holdover (R249). -/
structure HoldCause where
  source : Bool
  tbref  : Bool
  deriving DecidableEq, Repr

/-- A release event on the time bus (R19, R262). -/
structure ReleaseEvent where
  entry   : Nat
  action  : Nat
  arg0    : Nat
  arg1    : Nat
  tag     : Nat
  sched   : Nat               -- scheduled time, ns since the PTP epoch
  skipped : Bool
  deriving DecidableEq, Repr

/-- A capture pin, CAPT_IN[0..3] or PPS_IN (R256 to R258). -/
structure CapPin where
  fifo     : List (Nat × Nat)  -- SEC, NS, oldest first
  lastEdge : Option Nat        -- elapsed time of the last captured active edge
  active   : Option Nat        -- elapsed time since which it is accepted as active
  stuck    : Bool              -- STUCK raised and not re-armed
  deriving DecidableEq, Repr

/-- The timebase and Fantail (R235 to R250). -/
structure Timebase where
  sec       : BitVec 48
  ns        : Nat
  frac      : BitVec 32
  elapsed   : Nat               -- sum of increments since POR_N, in 2⁻³² ns (R238)
  incr      : Nat               -- TMB_INCR in force, 2⁻³² ns
  incrNext  : Option Nat        -- committed, in force from the next tick (R236)
  adjusts   : List (Bool × Int) -- adjustments for the next tick: absolute, ns (R246, R247)
  integ     : Rat               -- integrator, ppb
  lastOfs   : Option Nat        -- elapsed time of the latest valid offset
  good      : Nat               -- consecutive offsets below 100 ns (R245)
  acquiring : Bool              -- R530
  hold      : HoldCause
  holdFrom  : Nat               -- elapsed time of entry into holdover
  holdGood  : Nat               -- consecutive valid offsets in holdover (R250)
  tbrefOut  : Bool              -- running on the SYSCLK-derived reference (R525)
  ppsEnd    : Option Nat        -- elapsed time at which PPS_OUT goes low
  ppsTop    : Option Nat        -- highest time reached since SEC last wrapped (R255)
  pins      : Vector CapPin 5
  deriving DecidableEq, Repr

/-- A timetable entry as its 32 bytes give it (R260). -/
structure TtEntry where
  offset : Nat
  period : Nat
  action : Nat
  flags  : Nat
  zero   : Nat        -- the reserved bytes
  arg0   : Nat
  arg1   : Nat
  tag    : Nat
  deriving DecidableEq, Repr

/-- The timetable beside its registers (R259 to R266).  A bank holds 1,024 entries of 32 bytes as bytes by offset. -/
structure Timetable where
  banks     : Vector (List (Nat × Byte)) 2
  firesFrom : Option Nat        -- first boundary from which entries fire; none = not enabled (R264)
  fired     : List (Nat × Nat)  -- entry ↦ latest scheduled time fired or passed over
  swapCheck : Bool              -- the check of the idle bank is in progress (R263)
  swapAt    : Option Nat        -- the swap is armed for this boundary (R263)
  floor     : Nat               -- nothing at or below it fires (R266)
  skips     : List (Nat × TtEntry × Nat) -- entries a forward step has skipped, to fire in the next tick: number, entry, scheduled time (R265)
  levels    : Vector Bool 8     -- logical levels of TRIG_OUT (R254)
  pulses    : Vector (Option Nat) 8 -- elapsed time at which a PULSE ends
  deriving DecidableEq, Repr

/-! ## Sensors and fusion (10_sensor_ingest_and_fusion) -/

/-- A stream descriptor as read at enable (R269). -/
structure StreamDesc where
  kind    : Nat
  port    : Nat
  pipe    : Nat
  vc      : Nat
  dt      : Nat
  sensor  : Nat
  ctx     : Nat
  ofmt    : Nat
  log2    : Nat
  latNs   : Nat
  tovOfs  : Int
  bufRing : Nat
  recRing : Nat
  msiAddr : Nat
  msiData : Nat
  fperNs  : Nat
  hdrVc1  : Nat
  hdrVc2  : Nat
  deriving DecidableEq, Repr

/-- A buffer taken from a buffer ring, with the phase of its lap (R271). -/
structure RingBuf where
  iova  : Nat
  len   : Nat
  tag   : Nat
  idx   : Nat
  phase : Bool
  deriving DecidableEq, Repr

/-- A frame in progress (R271 to R276, R280, R288 to R291). -/
structure OpenFrame where
  buf      : Option RingBuf
  seq      : Nat
  tFs      : Int              -- corrected frame start, ns
  tEnd     : Nat              -- time of the last byte written; 0 while none is
  crc      : Nat              -- running CRC register of R288
  bytes    : Nat              -- bytes written to the buffer
  width    : Nat
  lines    : Nat
  pitch    : Nat
  trunc    : Bool
  loss     : Bool
  pktErr   : Bool
  stop     : Bool             -- a write failed: the rest of the frame is discarded (R324)
  refused  : Bool             -- the ISP pipe takes no frame: its control core does not run
  lost     : Nat
  counter  : Option Nat       -- embedded frame counter (R290)
  stamp    : Option Nat       -- SSP: the word at TS_OFS
  embed    : List Byte        -- embedded data
  payload  : List Byte        -- KIND 0x1: what the ISP pipe has been given
  words    : Nat              -- SSP: words accepted
  inFifo   : Nat              -- SSP: of these, words still in the FIFO
  repeated : Bool             -- REPEAT, once closed
  frozen   : Bool             -- FROZEN, once closed
  deriving DecidableEq, Repr

/-- A stream beside its registers (R270 to R272, R288 to R291). -/
structure Stream where
  desc      : Option StreamDesc
  head      : Nat
  phase     : Bool
  seq       : Nat
  nobuf     : Nat
  frame     : Option OpenFrame
  closing   : List OpenFrame -- closed frames with words in the FIFO or in the ISP pipe, oldest first
  crcs      : List Nat         -- latest first
  counters  : List Nat
  stamps    : List Nat
  wasRepeat : Bool
  wasFrozen : Bool
  deriving DecidableEq, Repr

/-- A Sensor Stream Port beside its registers (R280 to R285): each word with the mark that it belongs to a frame, oldest
first, and the level of FV. -/
structure SspPort where
  fifo : List (Word × Bool)
  fv   : Bool
  deriving DecidableEq, Repr

/-- A frame offered to fusion (R300). -/
structure Sample where
  sensor   : Nat
  tov      : Int
  tag      : Nat
  repeated : Bool
  buf      : Nat               -- IOVA of the frame
  len      : Nat
  ctx      : Nat
  firing   : Int               -- I_k it waits for or joined
  carried  : Bool
  extrap   : Bool
  deriving DecidableEq, Repr

/-- An open product (R299 to R303). -/
structure Product where
  instant : Nat
  time    : Nat
  bank    : Nat
  samples : List Sample        -- ascending sensors
  deriving DecidableEq, Repr

/-- What the Fusion Unit keeps for an instant (R299 to R304). -/
structure Instant where
  lastFire : Option Nat
  outUpTo  : Option Nat        -- latest firing whose product has gone out
  seq      : Nat
  late     : Nat
  unpaired : Nat
  nobuf    : Nat
  bufHead  : Nat
  cqIdx    : Nat
  cqPhase  : Bool
  waiting  : List Sample       -- pending and carried samples
  dead     : Bool              -- treated as disabled (R177)
  deriving DecidableEq, Repr

/-- Drift of a sensor (R306). -/
structure Drift where
  phase : Option Int
  sum   : Int
  ref   : Option Int
  again : Bool                 -- Φ_ref is set at the next pairing
  deriving DecidableEq, Repr

/-- The Fusion Unit beside its registers (R292, R295, R299). -/
structure Fusion where
  banks    : Vector (List (Nat × Byte)) 2   -- window bytes by FUS offset 0x8000 to 0xEFFF
  ego      : List (Nat × Byte)              -- ego-motion table bytes by FUS offset 0xF000 to 0xFFFF
  products : List Product
  instants : Vector Instant 64
  drifts   : Vector Drift 64
  skips    : List (Nat × Nat)               -- intervals a forward step has skipped, exclusive at both ends (R265, R300)
  deriving DecidableEq, Repr

/-! ## Memory system (11_memory_and_bandwidth) -/

/-- What is wrong with a stored code word that reads otherwise than it was written (R313, R317, R319).  An unlisted word is sound. -/
inductive Damage where
  | symbols (mask : Nat)    -- DDR: symbols in error; SRAM: number of wrong bits, 1 or 2 and more
  | poison                  -- the poison pattern (DDR) or the inverted check bits (SRAM)
  deriving DecidableEq, Repr

/-- A range pass in progress (R326, R327).  Words are numbered from DDR offset 0. -/
structure RangePass where
  next   : Nat
  stop   : Nat
  words  : Nat
  ce     : Nat
  ue     : Nat
  poison : Nat
  first  : Option Nat
  last   : Option Nat
  tStart : Nat
  deriving DecidableEq, Repr

/-- A DDR controller beside its registers. -/
structure Dmc where
  counts : List (Nat × Nat)        -- corrected errors by subchannel × 32 + rank × 16 + device (R314)
  scrub  : Vector Nat 2            -- next code word of the background scrubber, within the subchannel
  scrubAt : Vector (Option Nat) 2  -- elapsed time at which the scrubber read its last word (R325)
  ceSent : Vector (Option Nat) 2   -- elapsed time of the last CE record (R318)
  pass   : Option RangePass
  deriving DecidableEq, Repr

/-- A line of the system cache (R328).  Its data is the memory's: the cache is transparent. -/
structure SlcLine where
  line  : Nat                      -- DDR offset ÷ 64
  way   : Nat
  dirty : Bool
  cls   : Nat                      -- class label of the last writer (R330)
  bad   : Bool                     -- its data are uncorrectable, and go out as poison (R320)
  old   : List Byte                -- of a dirty line: what DDR holds
  deriving DecidableEq, Repr

/-- What the slots of a subchannel's wheel that have passed went to (R312). -/
structure WheelRun where
  slots   : Nat
  refresh : Nat                    -- those that refresh took
  scrub   : Nat                    -- those that scrubbing took
  deriving DecidableEq, Repr

def WheelRun.reset : WheelRun := { slots := 0, refresh := 0, scrub := 0 }

/-- A line in a cache of the application cores (13_host_cores_and_redundancy R362). -/
structure CacheLine where
  cache : CacheId
  line  : Nat                      -- address ÷ 64
  dirty : Bool                     -- stored to since it was filled or written back
  deriving DecidableEq, Repr

/-- A Millrace link with replays (R321, R322). -/
structure Link where
  router  : Nat
  dir     : Nat
  replays : Nat                    -- consecutive replays with no flit accepted
  faulty  : Bool
  buffer  : List Initiator         -- the flits of the sender's replay buffer, by whose transaction each belongs to, oldest first
  deriving DecidableEq, Repr

/-! ## Graphics and display (12_graphics_and_display) -/

/-- A graphics queue beside its registers (R339, R340). -/
structure GfxQueue where
  on        : Bool
  ctx       : Nat
  sqBase    : Nat
  sqLog2    : Nat
  cq        : CqRing
  fenceBase : Nat
  msiAddr   : Nat
  msiData   : Nat
  held      : List HeldEntry       -- read and not started, oldest first
  reserved  : Nat                  -- completion entries reserved and not written (R182)
  unread    : Nat                  -- completion entries written and not consumed by software
  fences    : List (Nat × Nat)
  jobNo     : Nat
  deriving DecidableEq, Repr

/-- The graphics entry that runs (R341). -/
structure GfxRun where
  queue    : Nat
  entry    : HeldEntry
  start    : Nat                   -- elapsed time
  tStart   : Nat                   -- ns
  limitUs  : Nat
  partials : Nat
  cores    : Nat                   -- mask of R350
  writes   : List (Nat × Byte)     -- what it stores, by IOVA
  bins     : List (Nat × List (List Nat))   -- the bins of the final render, by tile: segments of primitive numbers (R351)
  hold     : List (Nat × List Byte)   -- depth hold slots in use, by tile: the depth and stencil they keep (R347, R348)
  drawn    : List Nat              -- tiles whose colour a partial render has stored (R347)
  fault    : Option (Nat × Nat)    -- status and DETAIL of a cause met before its end (R352)
  deriving DecidableEq, Repr

/-- A colour: red, green, blue and alpha, each of 0 to 1 (R356). -/
structure Colour where
  r : Rat
  g : Rat
  b : Rat
  a : Rat
  deriving DecidableEq, Repr

/-- A head descriptor as read (R354). -/
structure HeadDesc where
  hact : Nat
  hfp : Nat
  hsync : Nat
  hbp : Nat
  vact : Nat
  vfp : Nat
  vsync : Nat
  vbp : Nat
  pclk : Nat
  leadUs : Nat
  log2 : Nat
  ctx : Nat
  msiAddr : Nat
  msiData : Nat
  flipBase : Nat
  bpc : Nat
  deriving DecidableEq, Repr

/-- A display head beside its registers (R354 to R360). -/
structure Head where
  desc     : Option HeadDesc
  training : Bool
  flipHead : Nat                   -- oldest flip entry not yet shown
  cq       : CqRing
  taken    : Option (List Byte × Nat × Nat)  -- entry taken at the lead: its bytes, index, lead time
  shown    : Option (List Byte)    -- the frame on screen
  ahead    : Nat                   -- output lines in the line buffer ahead of the scan (R353, R359)
  late     : List (Nat × Nat)      -- pixels of the frame scanned without data: first one in scan order, and count (R359)
  repeats  : Nat                   -- repeats caused by the oldest entry
  frames   : Nat                   -- frames the shown entry has been shown
  uvDone   : Bool                  -- UNDERRUN record sent in this frame
  derrDone : Bool                  -- DERR record sent in this frame
  count    : Nat                   -- entries completed
  deriving DecidableEq, Repr

/-! ## Harts and Heath (13_host_cores_and_redundancy, 14_isolated_worlds) -/

/-- Privilege mode of a hart (R361). -/
inductive Priv where
  | m | s | u | vs | vu
  deriving DecidableEq, Repr

/-- An application-core hart as far as this manual describes it: its integer, floating-point and vector registers, its
CSRs (the copy of the current world and, for those R399 names, the other world's), its world and its gate timer. -/
structure Hart where
  pc        : BitVec 64
  priv      : Priv
  x         : Vector (BitVec 64) 32
  f         : Vector (BitVec 64) 32
  v         : Vector (BitVec 256) 32
  csrs      : List (Nat × BitVec 64)   -- CSR number ↦ value, those that are not at their reset value
  other     : List (Nat × BitVec 64)   -- the other world's copy of the CSRs of R399
  gateFrom  : Option Nat               -- elapsed time of the entry into the secure world (R401)
  halted    : Bool                     -- halted by the debugger (R407)
  haltWaits : Bool                     -- a halt request waits for the return to the normal world
  arrived   : Option (Fin 32)          -- stalled in LKSYNC, with its rd (R371)
  since     : Nat                      -- elapsed time of that LKSYNC
  forced    : Option (BitVec 64)       -- a forced return waits for the end of a lock entry (R409)
  stopped   : Bool                     -- held: in reset, or in a FAILED pair
  deriving DecidableEq, Repr

/-- A Heath core as far as this manual describes it (R376 to R381). -/
structure HeathCore where
  pc      : Word
  priv    : Priv                       -- M or U
  x       : Vector Word 32
  f       : Vector Word 32
  csrs    : List (Nat × Word)          -- CSR values; unlisted 0
  irq     : Option Nat                 -- control-cycle interrupt pending, with its phase (R261)
  arrived : Option (Fin 32)
  since   : Nat
  fenced  : Bool
  deriving DecidableEq, Repr

/-- The Heath island beside its registers. -/
structure Heath where
  cores    : Vector HeathCore 3
  odds     : List (Nat × Nat)          -- odd-core events: core, elapsed Heath time (R380)
  pending  : Bool                      -- a mode change waits for a resync (R381)
  halted   : Bool                      -- HC0 to HC2 are halted (17_boot_and_firmware R467)
  deriving DecidableEq, Repr


/-- An access a guard has admitted and not answered, or holds during a fence (R389). -/
structure GuardAccess where
  target : Nat
  req    : Req
  type   : AccType
  addr   : Nat
  len    : Nat
  deriving DecidableEq, Repr

/-! ## Bridges and the gateway (15_bridges_and_gateway) -/

/-- A request from Millrace that a Weir bridge holds (R412 to R414). -/
structure BridgeItem where
  req    : Req
  addr   : Nat
  width  : Nat                        -- bytes
  data   : Option Word                -- none = a read
  posted : Bool
  inside : Bool                       -- a posted write in the buffer; otherwise it waits at the port
  since  : Nat                        -- elapsed time of its arrival
  taken  : Bool                       -- the initiator's port accepts its response (R416)
  deriving DecidableEq, Repr

/-- A Weir bridge beside its registers (R412 to R417). -/
structure Weir where
  queue   : List BridgeItem           -- oldest first
  levels  : List Nat                  -- wired inputs that are active
  held    : List Nat                  -- read responses that nobody takes: the elapsed time from which each is held (R416)
  perrAt  : Option Nat                -- elapsed time of the last CE record (R413)
  deriving DecidableEq, Repr

/-- A semaphore operation that runs (R419). -/
structure SemOp where
  k    : Nat
  op   : Nat
  addr : Nat
  data : Word
  w    : Bool
  lost : Bool                         -- its result is lost (R420)
  deriving DecidableEq, Repr

/-- A frame inside the switch (R421, R422, R425). -/
structure EthFrame where
  inPort : Nat
  tc     : Nat
  bytes  : List Byte                   -- from the destination address to the end of the payload
  tIn    : Nat                         -- time of its arrival, ns
  deriving DecidableEq, Repr

/-- The host interface's descriptor (R424). -/
structure HifDesc where
  ctx     : Nat
  cls     : Nat
  rxbLog2 : Nat
  msiAddr : Nat
  msiData : Nat
  txBase  : Vector Nat 8
  rxBase  : Vector Nat 8
  txLog2  : Vector Nat 8
  rxLog2  : Vector Nat 8
  deriving DecidableEq, Repr

/-- A CAN channel's descriptor (R431). -/
structure CanDesc where
  mode    : Nat
  listen  : Bool
  rates   : List (Nat × Nat × Nat × Nat)  -- for each rate in use: kbit/s, prescaler, quanta, sample point in quanta (R431)
  ctx     : Nat
  txLog2  : Nat
  rxLog2  : Nat
  txRing  : Nat
  rxRing  : Nat
  msiAddr : Nat
  msiData : Nat
  rxData  : Nat
  deriving DecidableEq, Repr

/-- A CAN channel beside its registers (R430 to R432). -/
structure CanChan where
  desc   : Option CanDesc
  rxIdx  : Nat
  phase  : Bool
  unread : Nat                         -- receive entries written and not consumed
  sent   : Option CanFrame             -- the latest frame sent on the bus
  deriving DecidableEq, Repr

/-- A CAN frame that a tunnel talker has collected, or that a listener sends (R433). -/
structure TunnelFrame where
  chan  : Nat
  frame : CanFrame
  tSof  : Nat                          -- ns
  at_   : Nat                          -- elapsed time of its arrival
  deriving DecidableEq, Repr

/-- An audio port beside its registers (R436). -/
structure AudioPort where
  receive : Bool
  bufRing : Nat
  recRing : Nat
  msiAddr : Nat
  msiData : Nat
  log2    : Nat
  ctx     : Nat
  on      : Bool
  head    : Nat
  phase   : Bool
  seq     : Nat
  nobuf   : Nat
  master  : Bool
  frame   : Nat                        -- bytes of a frame of all slots
  fsHz    : Nat
  start   : Nat                        -- time of the first frame sync, ns (R436)
  frames  : Nat                        -- frames of the buffers that are done
  deriving DecidableEq, Repr

/-- The AER registers of a root port: Unsupported Request, Completer Abort, Uncorrectable Internal Error (R324). -/
structure Aer where
  ur : Bool
  ca : Bool
  ie : Bool
  deriving DecidableEq, Repr

/-- The Sync that the slave port of an instance received last; times in 2⁻⁸ ns (R241). -/
structure RelaySync where
  port       : Nat
  rx         : Int
  origin     : Nat
  correction : Int
  deriving DecidableEq, Repr

/-- The gPTP messages that the engine sends of its own. -/
inductive PtpKind where
  | sync | followUp | pdelayReq | pdelayResp | pdelayFollowUp
  | announce (a : Announce)
  deriving DecidableEq, Repr

/-- A gPTP message on its way to a port: its transmit timestamp, and the time and the correction that it carries; times in 2⁻⁸ ns
(R241, R242). -/
structure PtpMsg where
  kind       : PtpKind
  port       : Nat
  dom        : Nat
  stamp      : Nat
  origin     : Nat
  correction : Int
  deriving DecidableEq, Repr

/-- The gPTP engine (R241 to R243, R427). -/
structure Gptp where
  ratios : Vector Int 14               -- neighborRateRatio − 1, ppb
  roles  : Vector (Vector Nat 14) 4    -- port roles per domain instance: 0 disabled, 1 master, 2 slave, 3 passive
  relay  : Vector (Option RelaySync) 4 -- per domain instance
  heard  : Vector (Vector (Option Announce) 14) 4 -- the last Announce by domain instance and port
  reqAt  : Vector (Option Nat) 14      -- the transmit timestamp of a Pdelay_Req that waits for its response
  peer   : Vector (Option (Nat × Int)) 14 -- when the neighbour sent its last Pdelay_Resp, and when it came
  sent   : List PtpMsg                 -- messages handed to the switch, oldest first
  deriving DecidableEq, Repr

/-- The gateway: switch, host interface, gate lists, CAN, tunnels, xSPI, audio. -/
structure Gateway where
  egress   : Vector (List EthFrame) 14       -- frames that wait at a port, oldest first
  hif      : Option HifDesc
  lists    : List (Nat × Byte)         -- gate list bytes by TSW offset 0x8000 to 0x9FFF
  pendList : Vector (Option (Nat × Nat)) 14  -- GATE_SWITCH accepted: list, time it takes effect
  tunnels  : List (Nat × Byte)         -- tunnel record bytes by TSW offset 0x6000 to 0x61FF
  talkers  : Vector (List TunnelFrame) 16
  lastSeq  : List (Nat × Nat)          -- the latest sequence number by tunnel
  cans     : Vector CanChan 12
  tunnelTx : List TunnelFrame          -- messages a listener has put out for CAN channels
  audio    : Vector AudioPort 8
  gptp     : Gptp
  aer      : Vector Aer 2
  pceSent  : Vector (Option Nat) 2     -- elapsed time of a root port's last CE record
  wire     : Vector (Option EthFrame) 14   -- the latest frame that has left each port
  fcsBad   : Vector Nat 14             -- frames sent on with a corrupted FCS, by port (R422)
  deriving DecidableEq, Repr

/-! ## The error manager and scheduled tests (16_safety_and_errors) -/

/-- An error record on its way to the intake (R439): the unit whose source index it carries (R441), SUB, SEV, CODE, PATH
and INFO. -/
structure ErrRecord where
  unit : UnitId
  sub  : Nat
  sev  : Nat
  code : Nat
  path : Nat
  info : Nat
  deriving DecidableEq, Repr

/-- A record the error manager has accepted (R439). -/
structure QueuedRecord where
  rcd   : ErrRecord
  flags : Nat
  t     : Nat
  seq   : Nat
  deriving DecidableEq, Repr

/-- An open test window (R453). -/
structure TestWindow where
  scope    : Nat
  endAt    : Nat                       -- elapsed time: that of its opening plus LEN_US
  deferred : List Nat                  -- units whose segment is deferred to their next window (R455)
  deriving DecidableEq, Repr

/-- The test cycle of an engine (R454 to R458). -/
structure TestCycle where
  next    : Nat
  from_   : Nat                        -- elapsed time of the cycle's start, or of the last interval that passed
  running : Bool
  fault   : Bool                       -- under test after a fault: no job until the cycle passes (R117, R458)
  deriving DecidableEq, Repr

/-- The error manager beside its registers. -/
structure Erm where
  queue    : List QueuedRecord         -- oldest first, at most 64
  seq      : Nat                       -- records accepted since POR_N
  handling : List (Nat × Nat)          -- sources in HANDLING ↦ COUNT (R446)
  isolated : List UnitId               -- units isolated until POR_N or WARM_RST_N (R450)
  deriving DecidableEq, Repr

/-! ## Boot and firmware (17_boot_and_firmware) -/

/-- The permanent fuses (R408, R465, R476, R478, R502). -/
structure Fuses where
  lifecycle : Nat                  -- 0 = BLANK, 1 = DEV, 2 = FIELD
  inForce   : Nat                  -- the lifecycle state in force since the latest POR_N (R408)
  hybrid    : Bool
  keyprog   : Nat
  revoked   : Nat
  counts    : Vector Nat 8
  wear      : Nat                  -- blown wear bits, 0 to 2,000
  deriving DecidableEq, Repr

/-- What DDR training found (11_memory_and_bandwidth R309): the controllers DMC0 to DMC(count − 1), and the fields of
DMC_CFG. -/
structure DdrTraining where
  count : Fin 9
  rate  : Nat
  dens  : Nat
  x8    : Bool
  ranks : Nat
  deriving DecidableEq, Repr

/-- Where the boot ROM stands (R465, R469). -/
structure BootRom where
  running  : Bool
  warm     : Bool                  -- the boot follows WARM_RST_N
  dir      : Option (List Byte)    -- the boot directory once read
  dirTry   : Nat                   -- copy of the directory being read, 0 or 1
  cls      : Nat                   -- class being loaded
  second   : Bool                  -- the other slot is being tried
  digests  : Vector (Option (List Byte)) 6   -- D of each loaded class
  entries  : Vector (Option (BitVec 64)) 6   -- ENTRY of each loaded class
  monitorAt : Option Nat           -- LOAD_ADDR of the Root monitor
  modelKeys : List Byte            -- the Miller image's model-key table (R475)
  trained  : Bool
  training : Option DdrTraining    -- what DDR training found, which a boot without training records again (R465, R506)
  ddrFailed : Bool
  blowing  : Option (Nat × Nat)    -- class and count of a running commit (R477)
  heathOnly : Bool                 -- the ROM runs step 3 only (R481, p = 11)
  deriving DecidableEq, Repr

/-- A firmware watchdog (R481, R482). -/
structure FwWatchdog where
  maxUs    : Nat
  openUs   : Nat
  kickAt   : Option Nat            -- elapsed time of the release or the last kick; none = not released
  expiries : List Nat              -- elapsed times of recent expiries
  deriving DecidableEq, Repr

/-! ## Power and clocks (18_power_thermal_reset, 19_package_and_pins) -/

/-- The Surge sequencer (R499 to R502). -/
inductive SurgePhase where
  | idle | blowing | avsUp | steppingUp | surge | steppingDown | avsDown
  deriving DecidableEq, Repr

/-- Thermal, power and clock control beside its registers. -/
structure Thermal where
  phase    : SurgePhase
  mhz      : Nat                   -- arithmetic clock
  refused  : Bool                  -- until REQ is written again (R499, R500)
  lastExit : Option Nat            -- elapsed time of the last Surge exit
  chargedAt : Nat                  -- elapsed time up to which ALLOW_MS has been charged
  resend   : Bool                  -- the return to 0.75 V is being sent again (R500)
  blow     : Bool                  -- a wear bit is being blown
  owed     : Nat                   -- ms of Surge to take off the hour whose bit is being blown (R502)
  setpoint : Nat                   -- the VDD_ARITH setpoint last sent, mV (R489)
  sends    : Nat                   -- setpoints sent since POR_N
  powers   : List Nat              -- latest estimates, newest first, at most 1,000 (R498)
  warned   : Bool
  starts   : List Nat              -- elapsed times of the engine starts of the latest µs, newest first (R496)
  stepAt   : Option Nat            -- elapsed time of the latest clock step (R495, R496)
  deriving DecidableEq, Repr

/-- The output pins the manual drives from state. -/
structure Pins where
  ppsOut    : Bool
  thermtripN : Bool
  tapIr     : Byte                 -- instruction in effect in the TAP (R526)
  heathDead : Bool                 -- HCLK_IN lost: FAULT_N low and SAFE_STATE 0x3 until POR_N (R525)
  deriving DecidableEq, Repr

/-! ## Answers and interrupts -/

/-- The response to the latest request (R323): its RESP, and the data of a read. -/
structure Reply where
  resp : Resp
  data : List Byte
  deriving DecidableEq, Repr

/-- An MSI on its way to an interrupt file (R196, R393): the initiator and world it carries, the IOVA and context that
locate the file, and the data. -/
structure Msi where
  ini  : Initiator
  w    : Bool
  ctx  : Nat
  addr : Nat
  data : Nat
  deriving DecidableEq, Repr

/-- A range of IOVAs of a context whose translation the IOMMU holds (06_attention_and_kv_cache R161). -/
structure Window where
  ini   : Initiator
  ctx   : Nat
  iova  : Nat
  pa    : Nat
  len   : Nat
  write : Bool
  gpa   : Nat                          -- guest physical address of iova
  deriving DecidableEq, Repr

/-! ## The parts after POR_N (R13): nothing held, nothing in progress -/

def ArrayPipe.reset : ArrayPipe :=
  { shadow := none, active := none, seen := false, fresh := 0, queue := [], macs := [], selfTest := false }

def KvWindow.reset : KvWindow := { loaded := false, seq := 0, ntok := 0, append := false, granted := false }

def Engine.reset : Engine :=
  { arrays := Vector.replicate 4 ArrayPipe.reset, loads := [], fetches := [], dmas := [], issued := 0, faultEnd := .idle, sregs := Vector.replicate 16 0#32, waiting := none,
    kvWins := Vector.replicate 4 KvWindow.reset, kvlBusy := false, wdtStart := none, job := none, feed := [], wcheck := false,
    sweep := 0, tapTable := [] }

def CqRing.reset : CqRing := { base := 0, log2 := 0, idx := 0, phase := true }

def Ctx.reset : Ctx :=
  { status := .free, signedOnly := false, pinned := false, classDef := 0, classMask := 0, graceUs := 0, msiAddr := 0,
    msiData := 0, cq := CqRing.reset, sqEn := 0, sqBase := Vector.replicate 8 0, sqLog2 := Vector.replicate 8 0,
    sqRel := Vector.replicate 8 0, fenceBase := 0, dirtyOn := false, dirtyBase := 0, dirtyPages := 0, dirtyOut := false,
    held := Vector.replicate 8 [], reserved := 0, unread := 0, fences := [], jobNo := 0, kvArea := none, kvGeom := none, epoch := 0,
    kvMaps := [], kvRecs := [], kvTables := [], kvOp := none, kvQueue := [], resident := false, weightsIn := false,
    copying := [], zeroing := [], blockedAt := none, claim := false, noted := none, waitsOn := none }

def CapPin.reset : CapPin := { fifo := [], lastEdge := none, active := none, stuck := false }

def Timebase.reset : Timebase :=
  { sec := 0#48, ns := 0, frac := 0#32, elapsed := 0, incr := 2 * 2 ^ 32, incrNext := none, adjusts := [],
    integ := 0, lastOfs := none, good := 0, acquiring := true, hold := { source := false, tbref := false },
    holdFrom := 0, holdGood := 0, tbrefOut := false, ppsEnd := none, ppsTop := none,
    pins := Vector.replicate 5 CapPin.reset }

def Timetable.reset : Timetable :=
  { banks := Vector.replicate 2 [], firesFrom := none, fired := [], swapCheck := false, swapAt := none, floor := 0,
    skips := [], levels := Vector.replicate 8 false, pulses := Vector.replicate 8 none }

def Stream.reset : Stream :=
  { desc := none, head := 0, phase := true, seq := 0, nobuf := 0, frame := none, closing := [], crcs := [], counters := [],
    stamps := [], wasRepeat := false, wasFrozen := false }

def SspPort.reset : SspPort := { fifo := [], fv := false }

def Instant.reset : Instant :=
  { lastFire := none, outUpTo := none, seq := 0, late := 0, unpaired := 0, nobuf := 0, bufHead := 0, cqIdx := 0,
    cqPhase := true, waiting := [], dead := false }

def Drift.reset : Drift := { phase := none, sum := 0, ref := none, again := false }

def Fusion.reset : Fusion :=
  { banks := Vector.replicate 2 [], ego := [], products := [], instants := Vector.replicate 64 Instant.reset,
    drifts := Vector.replicate 64 Drift.reset, skips := [] }

def Dmc.reset : Dmc :=
  { counts := [], scrub := Vector.replicate 2 0, scrubAt := Vector.replicate 2 none, ceSent := Vector.replicate 2 none, pass := none }

def GfxQueue.reset : GfxQueue :=
  { on := false, ctx := 0, sqBase := 0, sqLog2 := 0, cq := CqRing.reset, fenceBase := 0, msiAddr := 0, msiData := 0,
    held := [], reserved := 0, unread := 0, fences := [], jobNo := 0 }

def Head.reset : Head :=
  { desc := none, training := false, flipHead := 0, cq := CqRing.reset, taken := none, shown := none, repeats := 0,
    ahead := 0, late := [], frames := 0, uvDone := false, derrDone := false, count := 0 }

def Hart.reset : Hart :=
  { pc := 0#64, priv := .m, x := Vector.replicate 32 0#64, f := Vector.replicate 32 0#64, v := Vector.replicate 32 0#256,
    csrs := [], other := [], gateFrom := none, halted := false, haltWaits := false, arrived := none, since := 0,
    forced := none, stopped := true }

def HeathCore.reset : HeathCore :=
  { pc := 0#32, priv := .m, x := Vector.replicate 32 0#32, f := Vector.replicate 32 0#32, csrs := [], irq := none, arrived := none, since := 0, fenced := false }

def Heath.reset : Heath := { cores := Vector.replicate 3 HeathCore.reset, odds := [], pending := false, halted := false }

def Weir.reset : Weir := { queue := [], levels := [], held := [], perrAt := none }

def CanChan.reset : CanChan := { desc := none, rxIdx := 0, phase := true, unread := 0, sent := none }

def AudioPort.reset : AudioPort :=
  { receive := false, bufRing := 0, recRing := 0, msiAddr := 0, msiData := 0, log2 := 0, ctx := 0, on := false, head := 0,
    phase := true, seq := 0, nobuf := 0, master := false, frame := 4, fsHz := 48000, start := 0, frames := 0 }

def Gptp.reset : Gptp :=
  { ratios := Vector.replicate 14 0, roles := Vector.replicate 4 (Vector.replicate 14 0),
    relay := Vector.replicate 4 none, heard := Vector.replicate 4 (Vector.replicate 14 none), reqAt := Vector.replicate 14 none,
    peer := Vector.replicate 14 none, sent := [] }

def Gateway.reset : Gateway :=
  { egress := Vector.replicate 14 [], hif := none, lists := [], pendList := Vector.replicate 14 none, tunnels := [],
    talkers := Vector.replicate 16 [], lastSeq := [], cans := Vector.replicate 12 CanChan.reset, tunnelTx := [],
    audio := Vector.replicate 8 AudioPort.reset, gptp := Gptp.reset,
    aer := Vector.replicate 2 { ur := false, ca := false, ie := false }, pceSent := Vector.replicate 2 none
    wire := Vector.replicate 14 none, fcsBad := Vector.replicate 14 0 }

def Erm.reset : Erm := { queue := [], seq := 0, handling := [], isolated := [] }

def TestCycle.reset : TestCycle := { next := 0, from_ := 0, running := false, fault := false }

def BootRom.reset : BootRom :=
  { running := true, warm := false, dir := none, dirTry := 0, cls := 0, second := false, digests := Vector.replicate 6 none,
    entries := Vector.replicate 6 none, monitorAt := none, modelKeys := [], trained := false, training := none, ddrFailed := false, blowing := none,
    heathOnly := false }

def FwWatchdog.reset : FwWatchdog := { maxUs := 0, openUs := 0, kickAt := none, expiries := [] }

def Thermal.reset : Thermal :=
  { phase := .idle, mhz := 1500, refused := false, lastExit := none, chargedAt := 0, resend := false, blow := false, owed := 0, setpoint := 750, sends := 0,
    powers := [], warned := false, starts := [], stepAt := none }

def Pins.reset : Pins :=
  { ppsOut := false, thermtripN := true, tapIr := 0x01#8, heathDead := false }

end Sys2Proof.Machine
end

