-- ==== Sys2Proof/Machine/State.lean ====
section
/-!
DEFINITION. The state of the A880: every register, queue, buffer, counter, mode and pin that the spec gives the block, and
the queue of commands that wait.  All of it is plain data.  Reasons to stop, and the state after POR_N.
-/

namespace Sys2Proof.Machine

/-- The state.  `regs` and the byte maps are sorted lists without repeats and without entries equal to what an unlisted
place reads as (`SMap.wf`). -/
structure State where
  pending   : List Instr               -- commands that wait, oldest first
  reply     : Reply                    -- answer to the latest request
  regs      : List (Nat × Word)        -- set-up registers by physical address; unlisted = reset value (RegTable)
  mem       : List Host.Cell           -- DDR, engine and cluster memories, Heath window, PCIe windows; unlisted = 0
  flash     : List (Nat × Byte)        -- boot flash by flash address; unlisted = 0xFF
  ddrDamage : List (Nat × Damage)      -- by physical address ÷ 64
  sramDamage : List (Nat × Damage)     -- by physical address ÷ 8
  sramSent  : List (Nat × Nat)         -- memory instance ↦ elapsed time of its last CE record (R319)
  dgkBuilt  : Bool                     -- the Dagiesk table is built and locked (R43)
  iotlb     : List Window              -- translations the IOMMU holds (R161)
  engines   : Vector Engine 64
  sems      : Vector (Vector Nat 32) 16   -- semaphores by partition unit (R102)
  ctxs      : Vector Ctx 32
  parts     : Vector (Option Partition) 16
  models    : List Model
  jobs      : List Job
  jobNext   : Nat
  laneLast  : List LaneLast
  turn      : List Nat                 -- contexts an entry of which Miller has read in the present turn (R233)
  events    : List CtxEvent            -- events CTX0 has not been told of yet, oldest first (R197)
  bus       : List ReleaseEvent        -- release events on the time bus, oldest first
  tb        : Timebase
  tt        : Timetable
  streams   : Vector Stream 20
  tiles     : Vector (List Byte) 8     -- what each raster core's tile memory holds of its tile: colour, then depth and stencil (R338, R344)
  csiFill   : Vector Nat 4             -- bytes in the line buffer of each receiver (R277)
  ssps      : Vector SspPort 4
  fusion    : Fusion
  dmcs      : Vector Dmc 8
  slc       : List SlcLine
  slcUses   : Vector (List (Nat × Nat)) 8  -- what each group's replacement knows: a line and the way it was met in, latest first (R329)
  caches    : List CacheLine           -- lines the application cores' caches hold, latest first (R362)
  links     : List Link
  linkLost  : List Initiator           -- transactions that have lost a flit on a faulty link and await RESP = LINK (R322)
  holdWays  : Nat                      -- depth-hold ways in force (R331)
  wheelPos  : Vector Nat 16            -- next slot of each wheel (R335)
  wheelRun  : Vector WheelRun 16       -- what each subchannel's slots went to (R312)
  wheelLive : List (Nat × Word)        -- the active wheel bank, by window address; unlisted = reset value
  wheelOut  : Vector (Option WheelReq) 16  -- the burst issued at the latest slot
  channels  : Vector (List WheelReq) 16   -- requests in the virtual channels of the router output before each subchannel (R333)
  ddrQueue  : Vector (List WheelReq) 16   -- requests that each subchannel has queued, oldest first
  guardLive : List (Nat × Word)        -- committed region registers by address; unlisted = reset value
  guardWait : List GuardAccess         -- waiting for a fence
  guardSent : List (Nat × Nat)         -- target ↦ elapsed time of its last CE record
  gq        : Vector GfxQueue 8
  gfxRun    : Option GfxRun
  heads     : Vector Head 4
  harts     : Vector Hart 16
  heath     : Heath
  msis      : List Msi                 -- MSIs on their way, oldest first
  irqs      : List (Nat × Nat)         -- interrupt files: file page ↦ pending identity
  irqEn     : List (Nat × Nat)         -- interrupt files: file page ↦ enabled identity (R394)
  msiDropAt : Option Nat               -- elapsed time of the last MSI_DROP record
  weirs     : Vector Weir 2
  semOps    : List SemOp               -- semaphore operations that run
  gw        : Gateway
  erm       : Erm
  errs      : List ErrRecord           -- error records on their way to the intake, oldest first
  windows   : Vector (Option TestWindow) 16
  tests     : Vector TestCycle 64
  fuses     : Fuses
  rom       : BootRom
  wdts      : Vector FwWatchdog 12
  cfgMarks  : List Nat                 -- pages (address ÷ 0x2000) of blocks without a CFG_ERR bit that recorded an error (R14)
  fwlSeq    : Nat                      -- record counter of FWL; kept through WARM_RST_N (R13)
  therm     : Thermal
  pins      : Pins
  portLinks : Vector Bool 14           -- link state of the switch ports
  ticks     : Nat                      -- the model's own counter, to which Config's free values are applied
  deriving DecidableEq, Repr

/-- Reasons to stop with a fault.  No command stops the A880: it answers errors and goes on, so nothing raises this. -/
inductive Fault where
  /-- Raised by no meaning; it is here so that the type is not empty.  Safe. -/
  | none
  deriving DecidableEq, Repr

/-- Reasons to refuse a command. -/
inductive Refusal where
  /-- The command has no meaning in the model yet; raised by the arms of `exec` alone.  Safe: nothing is claimed. -/
  | notModelled (mnemonic : String)
  deriving DecidableEq, Repr

/-- The permanent fuses of a part as shipped in grade D (R2); key slot 0 programmed, the other
fuses unblown (DESIGN CHOICE, log entry 3). -/
def Fuses.shipped : Fuses :=
  { lifecycle := 1, inForce := 1, hybrid := false, keyprog := 1, revoked := 0, counts := Vector.replicate 8 0, wear := 0 }

/-- The registers whose reset value comes from those fuses: BOOT_FUSE and BOOT_LCS. -/
def Fuses.regs : List (Nat × Word) := [(0x1B000010, 0x10#32), (0x1B000050, 0x1#32)]

/-- The state right after POR_N: registers at the reset values of their field maps, nothing in memory, no command waiting.
The Heath cores have started the boot ROM (R465). -/
def State.reset : State :=
  { pending := [], reply := { resp := .okay, data := [] }, regs := Fuses.regs, mem := [], flash := [], ddrDamage := [],
    sramDamage := [], sramSent := [], dgkBuilt := false, iotlb := [], engines := Vector.replicate 64 Engine.reset,
    sems := Vector.replicate 16 (Vector.replicate 32 0), ctxs := Vector.replicate 32 Ctx.reset,
    parts := Vector.replicate 16 none, models := [], jobs := [], jobNext := 0, laneLast := [], turn := [], events := [], bus := [],
    tb := Timebase.reset, tt := Timetable.reset, streams := Vector.replicate 20 Stream.reset,
    tiles := Vector.replicate 8 [], csiFill := Vector.replicate 4 0, ssps := Vector.replicate 4 SspPort.reset, fusion := Fusion.reset,
    dmcs := Vector.replicate 8 Dmc.reset, slc := [], slcUses := Vector.replicate 8 [],
    caches := [], links := [], linkLost := [], holdWays := 0, wheelPos := Vector.replicate 16 0, wheelRun := Vector.replicate 16 WheelRun.reset,
    wheelLive := [], wheelOut := Vector.replicate 16 none,
    channels := Vector.replicate 16 [], ddrQueue := Vector.replicate 16 [],
    guardLive := [], guardWait := [], guardSent := [], gq := Vector.replicate 8 GfxQueue.reset,
    gfxRun := none, heads := Vector.replicate 4 Head.reset, harts := Vector.replicate 16 Hart.reset, heath := Heath.reset,
    msis := [], irqs := [], irqEn := [], msiDropAt := none, weirs := Vector.replicate 2 Weir.reset, semOps := [], gw := Gateway.reset,
    erm := Erm.reset, errs := [], windows := Vector.replicate 16 none, tests := Vector.replicate 64 TestCycle.reset,
    fuses := Fuses.shipped, rom := BootRom.reset, wdts := Vector.replicate 12 FwWatchdog.reset, cfgMarks := [], fwlSeq := 0,
    therm := Thermal.reset, pins := Pins.reset, portLinks := Vector.replicate 14 false, ticks := 0 }

end Sys2Proof.Machine
end

