-- ==== Sys2Proof/Machine/Map.lean ====
section
/-!
DEFINITION. The physical address map (01_architecture R27, R31, R33): what lies at an address, which unit and which power
domain serves it, and the reset value of every set-up register.
-/

namespace Sys2Proof.Machine

/-- `lo ≤ a < hi`. -/
def inRange (a lo hi : Nat) : Bool := Nat.ble lo a && Nat.blt a hi

/-- What lies at a physical address (R27). -/
inductive Place where
  | bootRom
  | dagiesk
  | register
  | interruptFile
  | tcm
  | engineMem
  | clusterMem
  | ddr
  | pcie
  | unmapped
  deriving DecidableEq, Repr

def ddrBase : Nat := 0x1000000000
def engineMemBase : Nat := 0x80000000
def clusterMemBase : Nat := 0x88000000
def tcmBase : Nat := 0x20800000

/-- The slots of register blocks: base, end (R31); doorbell pages included (R27). -/
def regSlots : List (Nat × Nat) := [
  (0x10000000, 0x10010000), (0x10100000, 0x10200000), (0x11000000, 0x110A0000), (0x110A0000, 0x110AB000),
  (0x11100000, 0x11110000), (0x12000000, 0x12020000), (0x13000000, 0x13050000), (0x13080000, 0x130E0000),
  (0x14000000, 0x14010000), (0x14100000, 0x14140000), (0x15000000, 0x15040000), (0x15080000, 0x15090000),
  (0x17000000, 0x17010000), (0x18000000, 0x18010000), (0x18100000, 0x181C0000), (0x18200000, 0x18220000),
  (0x18300000, 0x18310000), (0x19000000, 0x19020000), (0x1A000000, 0x1A030000), (0x1B000000, 0x1B020000),
  (0x20000000, 0x20020000), (0x40000000, 0x40020000)]

/-- An interrupt file of R364. -/
def isInterruptFile (a : Nat) : Bool :=
  inRange a 0x16000000 0x16010000 || (inRange a 0x16100000 0x16180000 && Nat.blt ((a - 0x16100000) % 0x8000) 0x6000)

/-- What lies at address `a`; `cap` is the installed DDR capacity (R28). -/
def placeOf (cap a : Nat) : Place :=
  if inRange a ddrBase (ddrBase + cap) then .ddr
  else if inRange a engineMemBase clusterMemBase then .engineMem
  else if inRange a clusterMemBase 0x8C000000 then .clusterMem
  else if inRange a 0x4000000000 0x6000000000 then .pcie
  else if inRange a tcmBase 0x20880000 then .tcm
  else if isInterruptFile a then .interruptFile
  else if inRange a 0x1000000 0x1010000 then .dagiesk
  else if Nat.blt a 0x40000 then .bootRom
  else if regSlots.any fun r => inRange a r.1 r.2 then .register
  else .unmapped

/-- The unit that a register block configures (R15, R31). -/
def unitOfReg (a : Nat) : Option UnitId :=
  let n := a / 0x10000
  if inRange a 0x40000000 0x40020000 || Nat.beq n 0x1000 then some .miller
  else if inRange a 0x10100000 0x10180000 then some (.te (Fin.ofNat 64 ((n - 0x1010) * 8 + a % 0x10000 / 0x2000)))
  else if inRange a 0x10180000 0x10200000 then some (.cluster (Fin.ofNat 8 (n - 0x1018)))
  else if inRange a 0x11000000 0x11080000 then some (.dmc (Fin.ofNat 8 (n - 0x1100)))
  else if Nat.beq n 0x1108 || Nat.beq n 0x1109 then some .slc
  else if Nat.beq n 0x110A then some .guard
  else if Nat.beq n 0x1110 then some .mrc
  else if Nat.beq n 0x1200 then some .timebase
  else if Nat.beq n 0x1201 then some .timetable
  else if inRange a 0x13000000 0x13040000 then some (.csi (Fin.ofNat 4 (n - 0x1300)))
  else if Nat.beq n 0x1304 then some .isp
  else if inRange a 0x13080000 0x130C0000 then some (.ssp (Fin.ofNat 4 (n - 0x1308)))
  else if Nat.beq n 0x130C then some .frameGuard
  else if Nat.beq n 0x130D then some .fusion
  else if Nat.beq n 0x1400 then some .rasterControl
  else if inRange a 0x14100000 0x14140000 then some (.display (Fin.ofNat 4 (n - 0x1410)))
  else if inRange a 0x15000000 0x15040000 then some (.ac (Fin.ofNat 16 ((n - 0x1500) * 4)))
  else if Nat.beq n 0x1508 then some .iommu
  else if Nat.beq n 0x1700 then some .wgd
  else if Nat.beq n 0x1800 then some .tsw
  else if inRange a 0x18100000 0x181C0000 then some (.can (Fin.ofNat 12 (n - 0x1810)))
  else if inRange a 0x18200000 0x18220000 then some (.pcie (Fin.ofNat 2 (n - 0x1820)))
  else if Nat.beq n 0x1830 then
    some (if inRange a 0x18308000 0x1830C000 then .audio (Fin.ofNat 8 ((a - 0x18308000) / 0x800)) else .xspi)
  else if inRange a 0x19000000 0x19020000 then some (.weir (Fin.ofNat 2 (n - 0x1900)))
  else if Nat.beq n 0x1A00 then some .pwr
  else if Nat.beq n 0x1A01 then some .therm
  else if Nat.beq n 0x1A02 then some .clk
  else if Nat.beq n 0x1B00 then some .boot
  else if Nat.beq n 0x1B01 then some .fwl
  else if Nat.beq n 0x2000 then some .heath
  else if Nat.beq n 0x2001 then some .erm
  else none

/-- The power domain of a unit (18_power_thermal_reset R490). -/
def domainOf : UnitId → Nat
  | .te n => 17 + n / 4
  | .cluster n => 9 + n
  | .miller => 8
  | .rasterCore _ | .rasterControl => 37
  | .display _ => 38
  | .csi _ | .isp | .ssp _ | .frameGuard | .fusion => 39
  | .mrc | .iommu | .guard | .wgd | .weir _ | .boot | .fwl | .pwr => 2
  | .dmc n => 4 + n / 2
  | .slc => 3
  | .tsw | .pcie _ | .xspi | .audio _ => 40
  | .can n => if Nat.ble 8 n then 1 else 40
  | .timebase | .timetable | .erm | .therm | .clk => 0
  | .ac n => 33 + n / 4
  | .hc _ | .heath => 1

/-- RESET of a power domain (R490): 0 = POR_N only, 1 = also WARM_RST_N, 2 = also its own domain reset. -/
def domainReset (d : Nat) : Nat := if Nat.beq d 0 then 0 else if inRange d 2 8 then 1 else 2

/-- FLAGS[1] of a power domain: shared infrastructure (R490). -/
def domainShared (d : Nat) : Bool := inRange d 2 8

/-- The domain can be switched off (R490). -/
def domainSwitchable (d : Nat) : Bool := inRange d 4 41

/-- Subchannel of a DDR offset with `nsub` populated subchannels (R311). -/
def ddrSub (nsub off : Nat) : Nat :=
  (bitsOf off 11 8).xor ((bitsOf off 15 12).xor ((bitsOf off 19 16).xor (bitsOf off 23 20))) % nsub

/-- ACTION of a unit at COUNT 2 (16_safety_and_errors R448). -/
def actionOf : UnitId → Nat
  | .hc _ => 2
  | u => if domainShared (domainOf u) then 2 else if Nat.beq (domainReset (domainOf u)) 2 then 0 else 1

/-! ## Reset values of the set-up registers -/

/-- The bits of field `f` in `w`. -/
def Fld.get (f : Fld) (w : Word) : Nat := bitsOf w.toNat f.hi f.lo

/-- `w` with field `f` set to `v`, cut to the field's width. -/
def Fld.put (f : Fld) (w : Word) (v : Nat) : Word :=
  BitVec.ofNat 32 (w.toNat - f.get w * 2 ^ f.lo + v % 2 ^ (f.hi + 1 - f.lo) * 2 ^ f.lo)

/-- The reset value of a list of fields. -/
def fieldsReset (fs : List RegField) : Word := fs.foldl (fun w f => f.fld.put w f.reset) 0#32

/-- The region registers after POR_N or WARM_RST_N (14_isolated_worlds R386): target, region and offset. -/
def guardReset (t r o : Nat) : Word :=
  if Nat.blt t 8 && Nat.beq r 31 then
    match o with
    | 4 => 0xFFFFF000#32
    | 8 => 0x002F0010#32
    | 16 => 0x80000038#32
    | _ => 0#32
  else if (Nat.beq t 8 || Nat.beq t 9) && Nat.beq r 0 then
    match o with
    | 0 => if Nat.beq t 8 then 0x80000000#32 else 0x88000000#32
    | 4 => if Nat.beq t 8 then 0x87FFF000#32 else 0x8BFFF000#32
    | 12 => 0x03F00000#32 ||| (iidOf (.ac 0)).setWidth 32
    | 16 => 0x8000001B#32
    | _ => 0#32
  else 0#32

/-- The world that owns the unit of ownership register j at reset, DEFAULT of its record (R51; log entry 68). -/
def defaultWorld (j : Nat) : Nat := if ownListed j && decide (Config.ownUnit j = .xspi) then 1 else 0

/-- The reset value of the register at address `a` (R13). -/
def regReset (a : Nat) : Word :=
  if inRange a 0x110A0000 0x110B0000 then
    guardReset ((a - 0x110A0000) / 0x1000) (a % 0x1000 / 0x20) (a % 0x20)
  else if inRange a 0x12000220 0x12000238 then 0#32        -- TMB_PTP_LAT of ports 8 to 13 (R242)
  else if inRange a 0x11080024 0x11080040 then 0#32        -- SLC_WAYMASK of groups 1 to 7 (R331)
  else if inRange a 0x17001000 0x17001100 then             -- WGD_OWN: xSPI is the secure world's (R435; log entry 68)
    BitVec.ofNat 32 (defaultWorld ((a - 0x17001000) / 4))
  else fieldsReset (regFields a)

end Sys2Proof.Machine
end

