-- ==== Sys2Proof/Machine/Dagiesk.lean ====
section
/-!
DEFINITION. The Dagiesk table (02_dagiesk_table R41 to R55): its records, their fields, their places, and the header with its
CRC.  What the manual does not print comes from the rows of Config (log entry 4).
-/

namespace Sys2Proof.Machine

/-! ## Units (R51, R55) -/

/-- The register page of a unit, base and size, where 01_architecture R31 gives it one of its own. -/
def pageOf : UnitId → Option (Nat × Nat)
  | .te n => some (0x10100000 + n / 8 * 0x10000 + n % 8 * 0x2000, 0x2000)
  | .cluster n => some (0x10180000 + n * 0x10000, 0x10000)
  | .miller => some (0x10000000, 0x10000)
  | .rasterControl => some (0x14000000, 0x10000)
  | .display n => some (0x14100000 + n * 0x10000, 0x10000)
  | .csi n => some (0x13000000 + n * 0x10000, 0x10000)
  | .isp => some (0x13040000, 0x10000)
  | .ssp n => some (0x13080000 + n * 0x10000, 0x10000)
  | .frameGuard => some (0x130C0000, 0x10000)
  | .fusion => some (0x130D0000, 0x10000)
  | .mrc => some (0x11100000, 0x10000)
  | .dmc n => some (0x11000000 + n * 0x10000, 0x10000)
  | .slc => some (0x11080000, 0x10000)
  | .iommu => some (0x15080000, 0x10000)
  | .guard => some (0x110A0000, 0x10000)
  | .wgd => some (0x17000000, 0x10000)
  | .weir n => some (0x19000000 + n * 0x10000, 0x10000)
  | .tsw => some (0x18000000, 0x10000)
  | .can n => some (0x18100000 + n * 0x10000, 0x10000)
  | .pcie n => some (0x18200000 + n * 0x10000, 0x10000)
  | .xspi => some (0x18300000, 0x10000)
  | .audio n => some (0x18308000 + n * 0x800, 0x800)
  | .timebase => some (0x12000000, 0x10000)
  | .timetable => some (0x12010000, 0x10000)
  | .heath => some (0x20000000, 0x10000)
  | .erm => some (0x20010000, 0x10000)
  | .therm => some (0x1A010000, 0x10000)
  | .pwr => some (0x1A000000, 0x10000)
  | .clk => some (0x1A020000, 0x10000)
  | .boot => some (0x1B000000, 0x10000)
  | .fwl => some (0x1B010000, 0x10000)
  | .rasterCore _ | .ac _ | .hc _ => none

/-- The device-wide number of a unit that has one (R51: 27 for TE27). -/
def instanceOf : UnitId → Option Nat
  | .te n => some n
  | .cluster n | .rasterCore n | .dmc n | .audio n => some n
  | .display n | .csi n | .ssp n => some n
  | .weir n | .pcie n => some n
  | .can n => some n
  | .ac n => some n
  | .hc n => some n
  | _ => none

/-- The class of a unit other than an engine is that of the first unit of its kind. -/
def kindOf : UnitId → UnitId
  | .te _ => .te 0
  | .cluster _ => .cluster 0
  | .rasterCore _ => .rasterCore 0
  | .display _ => .display 0
  | .csi _ => .csi 0
  | .ssp _ => .ssp 0
  | .dmc _ => .dmc 0
  | .weir _ => .weir 0
  | .can _ => .can 0
  | .pcie _ => .pcie 0
  | .audio _ => .audio 0
  | .ac _ => .ac 0
  | .hc _ => .hc 0
  | u => u

/-- CLASS of unit number `n`: 0x0001 for a tensor engine. -/
def classOf (n : Nat) : Nat :=
  match allUnits[n]? with
  | some (.te _) => 1
  | some u => 2 + (Config.unitRow (unitNo (kindOf u))).cls.val
  | none => 2 + (Config.unitRow n).cls.val

/-- The name of a unit, where 01_architecture R15 forms it from its number. -/
def unitName (u : UnitId) : Option (List Byte) :=
  let name (p : String) (n : Nat) := some ((p ++ toString n).toList.map fun c => BitVec.ofNat 8 c.toNat)
  match u with
  | .te n => name "TE" n
  | .rasterCore n => name "GX" n
  | .display n => name "DH" n
  | .dmc n => name "DMC" n
  | .can n => name "CAN" n
  | .ac n => name "AC" n
  | .hc n => name "HC" n
  | _ => none

/-! ## Clocks (01_architecture R36) -/

/-- The SOURCE of a unit's clock, where R36 says which clock drives it. -/
def clockSourceOf : UnitId → Option Nat
  | .te _ => some 0
  | .ac _ => some 1
  | .miller | .rasterControl => some 2
  | .mrc | .slc => some 3
  | .rasterCore _ => some 4
  | .hc _ | .erm => some 5
  | .timebase | .timetable => some 6
  | .dmc _ => some 7
  | _ => none

/-- The frequency of a source in kHz; an interface clock has none. -/
def clockKhz : Nat → Nat
  | 0 => 1500000
  | 1 => 2600000
  | 2 => 1000000
  | 3 | 4 => 1200000
  | 5 => 800000
  | 6 => 500000
  | 7 => 4000000
  | _ => 0

/-- SOURCE of clock domain `d`: each of the eight clocks of R36 has a domain. -/
def domainSource (d : Nat) : Nat :=
  let p := (shuffle Config.clockSeed 248).idxOf d
  if Nat.blt p 8 then p else (Config.clockRow d).source.val

/-- The clock domain of unit number `n`: one of the clock that drives it. -/
def clockDomainOf (n : Nat) : Nat :=
  let pick := (Config.unitRow n).clkDom
  match allUnits[n]?.bind clockSourceOf with
  | some k =>
    let ds := (List.range 248).filter fun d => Nat.beq (domainSource d) k
    ds.getD (pick % ds.length) 0
  | none => pick % 248

/-! ## Places and IDs (R48 to R50) -/

/-- The number of records before those of each type, in the order of TYPE. -/
def unit0 : Nat := 0
def memory0 : Nat := 182
def clock0 : Nat := 267
def power0 : Nat := 515
def irq0 : Nat := 556
def world0 : Nat := 968
def path0 : Nat := 1026
def param0 : Nat := 1386
def recordCount : Nat := 1412

/-- The ID of the record at place n: unique, and rising with the place (R48, R49; log entry 4). -/
def recordId : Nat → Nat
  | 0 => (Config.idStep 0).val
  | n + 1 => recordId n + 1 + (Config.idStep (n + 1)).val

/-- A record: TYPE, the place of its PARENT, and the bytes from offset 16 on. -/
structure DgkRecord where
  type   : Nat
  parent : Option Nat
  body   : List Byte
  deriving DecidableEq, Repr

/-- Zero bytes up to a length of `n`. -/
def padTo (n : Nat) (bs : List Byte) : List Byte := bs ++ List.replicate (n - bs.length) 0#8

/-- The bytes of the record at place n (R48). -/
def DgkRecord.bytes (r : DgkRecord) (n : Nat) : List Byte :=
  leBytes 2 r.type ++ leBytes 2 0 ++ leBytes 4 (16 + r.body.length) ++ leBytes 4 (recordId n) ++
    leBytes 4 ((r.parent.map recordId).getD 0xFFFFFFFF) ++ r.body

/-! ## Names (R50) -/

/-- A name of the STRINGS record, NUL-terminated. -/
def asString (bs : List Byte) : List Byte := bs ++ [0#8]

/-- The part name. -/
def partName : List Byte := "TA880-AQ2".toList.map fun c => BitVec.ofNat 8 c.toNat

/-- The names that the manual prints: the part's, then those of the units. -/
def printedNames : List Byte := asString partName ++ (allUnits.filterMap unitName).flatMap asString

/-- The body of the STRINGS record: these names and the others, filled to a multiple of 8 and short enough that the whole table
stays under 60 KiB (R48, R50). -/
def stringsBody : List Byte :=
  let bs := printedNames ++ Config.strings.take (9023 - printedNames.length) ++ [0#8]
  padTo ((bs.length + 7) / 8 * 8) bs

/-- Where it lies: every record before it has a fixed length (R50). -/
def stringsAt : Nat := 64 + 182 * 64 + 85 * 48 + 1143 * 32 + 16

/-- The string offset of the name of the record at a place of the table: it points into the STRINGS record. -/
def nameOf (place : Nat) : Nat := stringsAt + Config.nameAt place % stringsBody.length

/-- The string offset of the name of unit number `n`. -/
def unitNameAt (n : Nat) : Nat :=
  match allUnits[n]?.bind unitName with
  | some _ => stringsAt + (asString partName).length + (((allUnits.take n).filterMap unitName).flatMap asString).length
  | none => nameOf (unit0 + unitPlace n)

/-! ## The hierarchy (R23, R50 to R52) -/

/-- The subsystems in which units lie. -/
def subsystems : List Nat := subsystemCodes.filter fun c => (List.range 182).any fun n => Nat.beq (subsystemOfNo n) c

/-- The order of the HIERARCHY_PATH records: node 0 is the package, 1 the die, then the subsystems, then arrays and banks. -/
def pathOrder : List Nat := shuffle Config.pathSeed 360

/-- The place in the table of the record of node `j`. -/
def nodePlace (j : Nat) : Nat := path0 + pathOrder.idxOf j

/-! ## The records (R50, R51) -/

def unitRec (k : Fin 182) : DgkRecord :=
  let n := unitOrder.getD k 0
  let r := Config.unitRow n
  let u := allUnits[n]?
  let ports := ((u.map portsOf).getD []).length
  let page := match u with
    | some u => (pageOf u).getD (0, 0)
    | none => (r.regBase.toNat, r.regSize.toNat)
  { type := 1, parent := some (nodePlace (2 + subsystems.idxOf (subsystemOfNo n)))
    body := padTo 48 (leBytes 2 (classOf n) ++ leBytes 2 ((u.bind instanceOf).getD r.instance_.toNat) ++
      leBytes 2 (match u with | some u => if Nat.beq ports 0 then 0xFFFF else iidFirst u | none => 0xFFFF) ++ leBytes 1 ports ++
      leBytes 1 (if decide (u = some (.te 27)) then 0x23 else r.router.toNat) ++ leBytes 8 page.1 ++ leBytes 4 page.2 ++
      leBytes 2 (clockDomainOf n) ++ leBytes 2 ((u.map domainOf).getD r.pwrDom) ++ leBytes 4 (unitNameAt n) ++
      leBytes 4 r.features.toNat ++ leBytes 8 (pathOfNo n)) }

/-- What the manual prints of memory k, in an order of the model's (R51; 01_architecture R27, R32; 11_memory_and_bandwidth R308; 12 "GX0 to
GX7"): KIND, ECC, GUARD and REGIONS, BANKS, BASE, SIZE and the unit that serves it. -/
structure MemoryFacts where
  kind   : Nat
  ecc    : Option Nat
  guard  : Option (Nat × Nat)
  banks  : Option Nat
  base   : Nat
  size   : Nat
  server : Option UnitId

def memoryFacts (cap k : Nat) : MemoryFacts :=
  if Nat.blt k 64 then
    { kind := 0, ecc := some 1, guard := some (8, 16), banks := some 32, base := engineMemBase + k * 0x200000, size := 0x200000,
      server := some (.te (Fin.ofNat 64 k)) }
  else if Nat.blt k 72 then
    { kind := 1, ecc := some 1, guard := some (9, 16), banks := none, base := clusterMemBase + (k - 64) * 0x800000,
      size := 0x800000, server := some (.cluster (Fin.ofNat 8 (k - 64))) }
  else if Nat.beq k 72 then
    { kind := 2, ecc := some 1, guard := none, banks := none, base := 0, size := 48 * 0x100000, server := some .slc }
  else if Nat.beq k 73 then
    { kind := 3, ecc := some 2, guard := none, banks := none, base := ddrBase, size := cap, server := none }
  else if Nat.beq k 74 then
    { kind := 4, ecc := some 1, guard := some (10, 16), banks := none, base := tcmBase, size := 0x80000, server := some .heath }
  else if Nat.blt k 83 then
    { kind := 5, ecc := some 1, guard := some (0xFF, 0), banks := none, base := 0, size := 0x40000,
      server := some (.rasterCore (Fin.ofNat 8 (k - 75))) }
  else if Nat.beq k 83 then
    { kind := 6, ecc := none, guard := some (0xFF, 0), banks := none, base := 0, size := 0x40000, server := none }
  else { kind := 7, ecc := none, guard := some (0xFF, 0), banks := none, base := 0x1000000, size := 0x10000, server := none }

def memoryRec (cap : Nat) (k : Fin 85) : DgkRecord :=
  let m := (shuffle Config.memorySeed 85).getD k 0
  let r := Config.memoryRow m
  let f := memoryFacts cap m
  { type := 2, parent := some (unit0 + (f.server.map srcIndex).getD (unitPlace r.server))
    body := padTo 32 (leBytes 1 f.kind ++ leBytes 1 (f.ecc.getD r.ecc.toNat) ++
      leBytes 1 ((f.guard.map (·.1)).getD r.guard.toNat) ++ leBytes 1 ((f.guard.map (·.2)).getD r.regions.toNat) ++
      padTo 4 (leBytes 2 (f.banks.getD r.banks.toNat)) ++ leBytes 8 f.base ++ leBytes 8 f.size ++ leBytes 4 (nameOf (memory0 + k))) }

def clockRec (k : Fin 248) : DgkRecord :=
  let src := domainSource k
  { type := 3, parent := some (power0 + (Config.clockRow k).power)
    body := padTo 16 (leBytes 2 k ++ leBytes 1 src ++ leBytes 1 (Nat.beq src 0).toNat ++ leBytes 4 (clockKhz src) ++
      padTo 4 (leBytes 2 ((List.range 182).countP fun n => Nat.beq (clockDomainOf n) k)) ++ leBytes 4 (nameOf (clock0 + k))) }

/-- FLAGS of a power domain (18_power_thermal_reset R490): domains 0 and 1 are always on, 2 to 7 shared infrastructure. -/
def powerFlags (d : Nat) : Nat := if Nat.blt d 2 then 1 else if domainShared d then 2 else 0

def powerRec (d : Fin 41) : DgkRecord :=
  { type := 4, parent := (Config.powerParent d).map fun p => power0 + p.val
    body := padTo 16 (leBytes 2 d ++ leBytes 1 (domainReset d) ++ leBytes 1 (powerFlags d) ++ padTo 8 (leBytes 4 (4 * d)) ++
      leBytes 4 (nameOf (power0 + d))) }

def irqRec (k : Fin 412) : DgkRecord :=
  let r := Config.irqRow k
  { type := 5, parent := some (unit0 + ((irqUnits[irqOrder.idxOf k.val]?).map srcIndex).getD (unitPlace r.raiser))
    body := padTo 16 (leBytes 2 r.irqFirst.toNat ++ leBytes 2 r.irqCount.toNat ++ padTo 8 (leBytes 1 r.wired.toNat) ++
      leBytes 4 (nameOf (irq0 + k))) }

def worldRec (k : Fin 58) : DgkRecord :=
  let j := ownOrder.getD k 0
  { type := 6, parent := some (unit0 + srcIndex (Config.ownUnit j))
    body := padTo 16 (leBytes 1 ((Config.ownWorlds j).1.toNat + 2 * (Config.ownWorlds j).2.toNat) ++ leBytes 1 (defaultWorld j) ++
      leBytes 2 (Config.lockGroup j) ++ leBytes 4 (0x1000 + 4 * j)) }

/-- A HIERARCHY_PATH record: its parent is the node one level up, which for an array or bank is its unit's record. -/
def pathRec (k : Fin 360) : DgkRecord :=
  let j := pathOrder.getD k 0
  let node (path level children : Nat) (parent : Option Nat) : DgkRecord :=
    { type := 7, parent, body := padTo 16 (leBytes 8 path ++ padTo 2 (leBytes 1 level) ++ leBytes 2 children ++ leBytes 4 (nameOf (path0 + k))) }
  if Nat.beq j 0 then node (2 ^ 60 - 1) 6 1 none
  else if Nat.beq j 1 then node (2 ^ 56 - 1) 5 subsystems.length (some (nodePlace 0))
  else match subsystems[j - 2]? with
    | some c => node (c * 2 ^ 48 + (2 ^ 48 - 1)) 4 ((List.range 182).countP fun n => Nat.beq (subsystemOfNo n) c) (some (nodePlace 1))
    | none =>
      let r := Config.arrayRow j
      node (withBank (pathOfNo r.unit) r.number) 2 r.children.toNat (some (unit0 + unitPlace r.unit))

/-- Keys 0x0001 and 0x0002 hold the installed capacity and the ranks per subchannel (R55). -/
def paramRec (cap ranks : Nat) (k : Fin 24) : DgkRecord :=
  let kv : Nat × Nat := match k.val with
    | 0 => (1, cap)
    | 1 => (2, ranks)
    | n => let r := Config.paramRow (Fin.ofNat 22 (n - 2)); (r.1.toNat, r.2.toNat)
  { type := 8, parent := none, body := padTo 16 (padTo 8 (leBytes 4 kv.1) ++ leBytes 8 kv.2) }

def stringsRec : DgkRecord := { type := 9, parent := none, body := stringsBody }

def endRec : DgkRecord := { type := 0xFFFF, parent := none, body := [] }

/-- Every record, in ascending order of TYPE; END is the last (R49, R50). -/
def dgkRecords (cap ranks : Nat) : List DgkRecord :=
  (List.finRange 182).map unitRec ++ (List.finRange 85).map (memoryRec cap) ++ (List.finRange 248).map clockRec ++
    (List.finRange 41).map powerRec ++ (List.finRange 412).map irqRec ++ (List.finRange 58).map worldRec ++
    (List.finRange 360).map pathRec ++ (List.finRange 24).map (paramRec cap ranks) ++ [stringsRec, endRec]

/-! ## The header and the whole table (R46, R47) -/

/-- The records one after another from HDR_LEN on (R49). -/
def recordBytes : Nat → List DgkRecord → List Byte
  | _, [] => []
  | n, r :: rs => r.bytes n ++ recordBytes (n + 1) rs

/-- The header with CRC `crc`. -/
def dgkHeader (total crc : Nat) : List Byte :=
  padTo 64 ([0x44#8, 0x47#8, 0x53#8, 0x4B#8] ++ leBytes 1 1 ++ leBytes 1 0 ++ leBytes 2 64 ++ leBytes 4 total ++
    leBytes 4 recordCount ++ leBytes 4 crc ++ leBytes 4 stringsAt ++ leBytes 2 1)

/-- The table with `crc` in its header. -/
def dgkWith (cap ranks crc : Nat) : List Byte :=
  let rs := recordBytes 0 (dgkRecords cap ranks)
  dgkHeader (64 + rs.length) crc ++ rs

/-- The CRC of the table, its own four bytes taken as 0 (R47). -/
def dgkCrc (cap ranks : Nat) : Nat := crc32 (dgkWith cap ranks 0)

/-- The finished table. -/
def dgkTable (cap ranks : Nat) : List Byte := dgkWith cap ranks (dgkCrc cap ranks)

/-- The boot ROM's own check of a table: its CRC field holds the CRC over the rest (R43, R47). -/
def dgkCheck (t : List Byte) : Bool :=
  Nat.beq (fieldAt t 16 4) (crc32 (t.take 16 ++ List.replicate 4 0#8 ++ t.drop 20))

/-- The byte at an offset of the window: 0 at and beyond the total length (R42). -/
def dgkByte (cap ranks off : Nat) : Byte := (dgkTable cap ranks).getD off 0#8

end Sys2Proof.Machine
end

