-- ==== Sys2Proof/Machine/Flags.lean ====
section
/-!
DEFINITION. The access types of register fields (00_scope R11), reserved enumerated values (R14), and the accessors through
which every register and flag is read and written.
-/

namespace Sys2Proof.Machine

/-- The register at physical address `a`. -/
def State.reg (s : State) (a : Nat) : Word := SMap.get regReset s.regs a

/-- `s` with the register at `a` holding `w`. -/
def State.setReg (s : State) (a : Nat) (w : Word) : State := { s with regs := SMap.set regReset s.regs a w }

/-- Field `f` of the register at `a`. -/
def State.fld (s : State) (a : Nat) (f : Fld) : Nat := f.get (s.reg a)

/-- A one-bit field is 1. -/
def State.flag (s : State) (a : Nat) (f : Fld) : Bool := Nat.beq (s.fld a f) 1

/-- `s` with field `f` of the register at `a` holding `v`. -/
def State.setFld (s : State) (a : Nat) (f : Fld) (v : Nat) : State := s.setReg a (f.put (s.reg a) v)

/-- The hardware sets a status bit. -/
def State.raise (s : State) (a : Nat) (f : Fld) : State := s.setFld a f 1

/-- The hardware clears a bit. -/
def State.lower (s : State) (a : Nat) (f : Fld) : State := s.setFld a f 0

/-- A counter field counts `n` more and saturates at the field's largest value. -/
def State.count (s : State) (a : Nat) (f : Fld) (n : Nat) : State :=
  s.setFld a f (min (s.fld a f + n) (2 ^ (f.hi + 1 - f.lo) - 1))

/-- The value a write leaves in a field (R11, R14): `old` the register before, `w` the word written, `locked` the field's lock
bit. -/
def RegField.written (f : RegField) (old w : Word) (locked : Bool) : Nat :=
  match f.acc with
  | .ro | .rc => f.fld.get old
  | .rw => if f.vals.isEmpty || f.vals.contains (f.fld.get w) then f.fld.get w else f.reset
  | .rwl => if locked then f.fld.get old else f.fld.get w
  | .w1c => f.fld.get old &&& (2 ^ (f.fld.hi + 1 - f.fld.lo) - 1 - f.fld.get w)
  | .w1s => f.fld.get old ||| f.fld.get w
  | .wo => 0

/-- The register after a write of `w` by the access types of its fields; reserved bits stay 0 (R10). -/
def writeFields (fs : List RegField) (old w : Word) (locked : Bool) : Word :=
  fs.foldl (fun r f => f.fld.put r (f.written old w locked)) 0#32

/-- The write names a reserved value of an enumerated field (R14). -/
def reservedValue (fs : List RegField) (w : Word) : Bool :=
  fs.any fun f => decide (f.acc = .rw) && !f.vals.isEmpty && !f.vals.contains (f.fld.get w)

/-- The register after a read: counters and other read-to-clear fields are 0 (R11). -/
def readFields (fs : List RegField) (old : Word) : Word :=
  fs.foldl (fun r f => if decide (f.acc = .rc) then f.fld.put r 0 else r) old

/-- The configuration-error bit of the block that holds address `a` (R14; log entry 8). -/
def cfgErrAt (a : Nat) : Option (Nat × Fld) :=
  let n := a / 0x10000
  if Nat.beq n 0x1200 then some (Reg.TMB_STATUS, Fld.TMB_STATUS_CFG_ERR)
  else if inRange n 0x1308 0x130C then some (Reg.SSP_STATUS (n - 0x1308), Fld.SSP_STATUS_CFG_ERR)
  else if Nat.beq n 0x1109 then some (Reg.SLU_STATUS, Fld.SLU_STATUS_CFG_ERR)
  else if inRange n 0x1100 0x1108 then some (Reg.DMC_STATUS (n - 0x1100), Fld.DMC_STATUS_CFG_ERR)
  else if inRange n 0x1900 0x1902 then some (Reg.WIR_STATUS (n - 0x1900), Fld.WIR_STATUS_CFG_ERR)
  else if Nat.beq n 0x1700 then some (Reg.WGD_STATUS, Fld.WGD_STATUS_CFG_ERR)
  else if Nat.beq n 0x2000 then some (Reg.HTH_STATUS, Fld.HTH_STATUS_CFG_ERR)
  else if Nat.beq n 0x1A00 then some (Reg.PWR_STATUS, Fld.PWR_STATUS_CFG_ERR)
  else if Nat.beq n 0x1800 then some (Reg.TSW_STATUS, Fld.TSW_STATUS_CFG_ERR)
  else if Nat.beq n 0x1B00 then some (Reg.BOOT_FUSE, Fld.BOOT_FUSE_CFG_ERR)
  else if Nat.beq n 0x110A then some (Reg.GRD_STATUS (a % 0x10000 / 0x1000), Fld.GRD_STATUS_CFG_ERR)
  else if Nat.beq n 0x130C then some (Reg.FGD_STR_CTRL (a % 0x10000 / 0x100), Fld.FGD_STR_CTRL_CFG_ERR)
  else if inRange a 0x14000100 0x14000180 then some (Reg.GFX_GQ_CTRL (a % 0x100 / 0x10), Fld.GFX_GQ_CTRL_CFG_ERR)
  else if inRange n 0x1810 0x181C then some (Reg.CAN_CTRL (n - 0x1810), Fld.FGD_STR_CTRL_CFG_ERR)
  else if inRange n 0x1410 0x1414 then some (Reg.DSP_STATUS (n - 0x1410), Fld.DSP_STATUS_CFG_ERR)
  else none

/-- A configuration error of the block at `a` is recorded: in the block's bit, or, where the field maps show no bit for it, in
the model's own list of such blocks, which no register reads (R14, R121, R122, R204; DEDUCED, log entry 8). -/
def State.cfgErr (s : State) (a : Nat) : State :=
  match cfgErrAt a with
  | some (r, f) => s.raise r f
  | none => if s.cfgMarks.contains (a / 0x2000) then s else { s with cfgMarks := s.cfgMarks ++ [a / 0x2000] }

end Sys2Proof.Machine
end

