-- ==== Sys2Proof/Machine/Ops.lean ====
section
/-!
DEFINITION. The shared operations: time, error records, MSIs, memory with its codes, region guards, the answer to a bus
access, and transfers of units through the IOMMU.  Every meaning is written over these.
-/

namespace Sys2Proof.Machine

/-! ## The numbered parts -/

/-- Tensor engine `n`. -/
def State.eng (s : State) (n : Nat) : Engine := s.engines[Fin.ofNat 64 n]

/-- `s` with tensor engine `n` replaced. -/
def State.setEng (s : State) (n : Nat) (x : Engine) : State :=
  { s with engines := s.engines.set (Fin.ofNat 64 n) x }

/-- Context `n`. -/
def State.ctx (s : State) (n : Nat) : Ctx := s.ctxs[Fin.ofNat 32 n]

/-- `s` with context `n` replaced. -/
def State.setCtx (s : State) (n : Nat) (x : Ctx) : State :=
  { s with ctxs := s.ctxs.set (Fin.ofNat 32 n) x }

/-- Partition `n`. -/
def State.part (s : State) (n : Nat) : Option Partition := s.parts[Fin.ofNat 16 n]

/-- `s` with partition `n` replaced. -/
def State.setPart (s : State) (n : Nat) (x : Option Partition) : State :=
  { s with parts := s.parts.set (Fin.ofNat 16 n) x }

/-- Stream `n`. -/
def State.stream (s : State) (n : Nat) : Stream := s.streams[Fin.ofNat 20 n]

/-- `s` with stream `n` replaced. -/
def State.setStream (s : State) (n : Nat) (x : Stream) : State :=
  { s with streams := s.streams.set (Fin.ofNat 20 n) x }

/-- Sensor Stream Port `n`. -/
def State.ssp (s : State) (n : Nat) : SspPort := s.ssps[Fin.ofNat 4 n]

/-- `s` with Sensor Stream Port `n` replaced. -/
def State.setSsp (s : State) (n : Nat) (x : SspPort) : State :=
  { s with ssps := s.ssps.set (Fin.ofNat 4 n) x }

/-- DDR controller `n`. -/
def State.dmc (s : State) (n : Nat) : Dmc := s.dmcs[Fin.ofNat 8 n]

/-- `s` with DDR controller `n` replaced. -/
def State.setDmc (s : State) (n : Nat) (x : Dmc) : State :=
  { s with dmcs := s.dmcs.set (Fin.ofNat 8 n) x }

/-- Graphics queue `n`. -/
def State.gfxQueue (s : State) (n : Nat) : GfxQueue := s.gq[Fin.ofNat 8 n]

/-- `s` with graphics queue `n` replaced. -/
def State.setGfxQueue (s : State) (n : Nat) (x : GfxQueue) : State :=
  { s with gq := s.gq.set (Fin.ofNat 8 n) x }

/-- Display head `n`. -/
def State.head (s : State) (n : Nat) : Head := s.heads[Fin.ofNat 4 n]

/-- `s` with display head `n` replaced. -/
def State.setHead (s : State) (n : Nat) (x : Head) : State :=
  { s with heads := s.heads.set (Fin.ofNat 4 n) x }

/-- Hart `n`. -/
def State.hart (s : State) (n : Nat) : Hart := s.harts[Fin.ofNat 16 n]

/-- `s` with hart `n` replaced. -/
def State.setHart (s : State) (n : Nat) (x : Hart) : State :=
  { s with harts := s.harts.set (Fin.ofNat 16 n) x }

/-- Weir bridge `n`. -/
def State.weir (s : State) (n : Nat) : Weir := s.weirs[Fin.ofNat 2 n]

/-- `s` with Weir bridge `n` replaced. -/
def State.setWeir (s : State) (n : Nat) (x : Weir) : State :=
  { s with weirs := s.weirs.set (Fin.ofNat 2 n) x }

/-- Test window `n`. -/
def State.window (s : State) (n : Nat) : Option TestWindow := s.windows[Fin.ofNat 16 n]

/-- `s` with test window `n` replaced. -/
def State.setWindow (s : State) (n : Nat) (x : Option TestWindow) : State :=
  { s with windows := s.windows.set (Fin.ofNat 16 n) x }

/-- Test cycle of an engine `n`. -/
def State.test (s : State) (n : Nat) : TestCycle := s.tests[Fin.ofNat 64 n]

/-- `s` with test cycle of an engine `n` replaced. -/
def State.setTest (s : State) (n : Nat) (x : TestCycle) : State :=
  { s with tests := s.tests.set (Fin.ofNat 64 n) x }

/-- Firmware watchdog `n`. -/
def State.wdt (s : State) (n : Nat) : FwWatchdog := s.wdts[Fin.ofNat 12 n]

/-- `s` with firmware watchdog `n` replaced. -/
def State.setWdt (s : State) (n : Nat) (x : FwWatchdog) : State :=
  { s with wdts := s.wdts.set (Fin.ofNat 12 n) x }

/-! ## Time (09_network_time_and_timetable R235 to R251) -/

/-- Elapsed units in a microsecond, and in a nanosecond. -/
def usE : Nat := 1000 * 2 ^ 32
def nsE : Nat := 2 ^ 32

/-- Timebase time in ns since the PTP epoch. -/
def State.now (s : State) : Nat := s.tb.sec.toNat * 1000000000 + s.tb.ns

/-- A short stamp: the low 32 bits of ns since the PTP epoch (R251). -/
def State.short (s : State) : Nat := s.now % 2 ^ 32

/-- The time since the elapsed time `t0` is at least `us` µs. -/
def State.passedUs (s : State) (t0 us : Nat) : Bool := Nat.ble (t0 + us * usE) s.tb.elapsed

/-- Nothing was sent in the last ms: `at_` is when something was sent last. -/
def State.msSince (s : State) (at_ : Option Nat) : Bool :=
  match at_ with
  | none => true
  | some t => s.passedUs t 1000

/-! ## Error records (16_safety_and_errors R439 to R442) -/

/-- All ones: a location the source cannot resolve (R52). -/
def pathNone : Nat := 2 ^ 64 - 1

def sevCE : Nat := 0
def sevTimeout : Nat := 1
def sevUE : Nat := 2
def sevCheck : Nat := 3
def sevFatal : Nat := 4

/-- A unit sends an error record to the intake (R20). -/
def State.report (s : State) (r : ErrRecord) : State := { s with errs := s.errs ++ [r] }

/-- A record with CODE, SUB, PATH and INFO at their values for a source that names none. -/
def plainRecord (u : UnitId) (sev : Nat) : ErrRecord := { unit := u, sub := 0, sev, code := 0, path := pathNone, info := 0 }

/-! ## Units, worlds and domains -/

/-- STATE of a power domain (18_power_thermal_reset R490). -/
def State.domainState (s : State) (d : Nat) : Nat := s.fld (Reg.PWR_DOM d) Fld.PWR_DOM_STATE

/-- A domain that answers accesses: on, or on and waiting for idle (R491; log entry 9). -/
def State.domainOn (s : State) (d : Nat) : Bool :=
  let st := s.domainState d
  Nat.beq st 2 || Nat.beq st 3 || Nat.beq st 5

/-- Firmware processor p of R481 runs: released, and not held (R467, R482). -/
def State.procRuns (s : State) (p : Nat) : Bool :=
  (s.wdt p).kickAt.isSome && !(s.flag (Reg.FWL_WDT p) Fld.FWL_WDT_HELD)

/-- The xSPI controller is the secure world's, unless its ownership register has been given WORLD = 0
(15_bridges_and_gateway R435; 14_isolated_worlds R391). -/
def State.xspiSecure (s : State) : Bool :=
  !(s.regs.any fun e => inRange e.1 (Reg.WGD_OWN 0) (Reg.WGD_OWN 64) && !(bitAt e.2.toNat 0) &&
    decide (Config.ownUnit ((e.1 - Reg.WGD_OWN 0) / 4) = .xspi))

/-- A unit's ownership register holds WORLD = 1 (14_isolated_worlds R391; log entry 68). -/
def State.ownedSecure (s : State) (u : UnitId) : Bool :=
  if decide (u = .xspi) then s.xspiSecure
  else s.regs.any fun e => inRange e.1 (Reg.WGD_OWN 0) (Reg.WGD_OWN 64) && bitAt e.2.toNat 0 &&
    decide (Config.ownUnit ((e.1 - Reg.WGD_OWN 0) / 4) = u)

/-- A power domain is secure-controlled (R404). -/
def State.domainSecure (s : State) (d : Nat) : Bool :=
  !domainShared d && ((Nat.beq (domainOf .xspi) d && s.xspiSecure) ||
    s.regs.any fun e => inRange e.1 (Reg.WGD_OWN 0) (Reg.WGD_OWN 64) && bitAt e.2.toNat 0 &&
      Nat.beq (domainOf (Config.ownUnit ((e.1 - Reg.WGD_OWN 0) / 4))) d)

/-- A clock domain is secure-controlled: a unit that its record names as driven by it has WORLD = 1, and it is no clock of shared
infrastructure (R404). -/
def State.clockSecure (s : State) (c : Nat) : Bool :=
  let mine (u : UnitId) : Bool := Nat.beq (clockDomainOf (srcIndex u)) c && !(domainShared (domainOf u))
  (mine .xspi && s.xspiSecure) ||
    s.regs.any fun e => inRange e.1 (Reg.WGD_OWN 0) (Reg.WGD_OWN 64) && bitAt e.2.toNat 0 &&
      mine (Config.ownUnit ((e.1 - Reg.WGD_OWN 0) / 4))

/-- The debug module is connected: not in FIELD, nor after the lifecycle has been advanced (00_scope R2, R3; R407, R408). -/
def State.debugOn (s : State) : Bool := Nat.beq s.fuses.lifecycle s.fuses.inForce && Nat.blt s.fuses.inForce 2

/-- W of an initiator (R382, R407). -/
def State.worldOf (s : State) : Initiator → Bool
  | .ac n => bitAt (s.fld Reg.WGD_HARTW Fld.WGD_HARTW_SECURE) n
  | .hc _ | .heathDma => true
  | .debugModule => Nat.beq s.fuses.inForce 0 || s.flag Reg.WGD_DBG Fld.WGD_DBG_SDBG
  | i => s.ownedSecure (unitOfInitiator i)

/-- What a CSR reads as after reset where the state lists no value: SMASK and HMASK hold 0x001 (13_host_cores_and_redundancy
R365); the others 0, among them those of the architecture that R361 names (log entry 16). -/
def csrDflt : Nat → BitVec 64
  | 0x7C0 => 0x10000#64
  | 0x6C0 => 0x10000#64
  | _ => 0#64

def Hart.csr (h : Hart) (n : Nat) : BitVec 64 := SMap.get csrDflt h.csrs n

/-- mhartid of hart n: in lock mode, the primary's number on both cores (R364, R370). -/
def State.mhartid (s : State) (n : Nat) : Nat :=
  if Nat.beq (s.fld (Reg.APC_PAIR_STATUS (n / 2)) Fld.APC_PAIR_STATUS_MODE) 2 then n / 2 * 2 else n

/-- The class label of a request of the hart (R366). -/
def Hart.label (h : Hart) : Nat :=
  let m := (h.csr 0x7C0).toNat
  let allowed (c : Nat) := if bitAt m (16 + c) then c else bitsOf m 3 0
  match h.priv with
  | .m => bitsOf m 3 0
  | .s | .u => allowed (bitsOf (h.csr 0x5C0).toNat 3 0)
  | .vs | .vu =>
    let g := (h.csr 0x6C0).toNat
    let c := bitsOf (h.csr 0x6C1).toNat 3 0
    allowed (if bitAt g (16 + c) then c else bitsOf g 3 0)

/-- The fixed class label of an initiator (11_memory_and_bandwidth R332). -/
def fixedLabel : Initiator → Option Nat
  | .hc _ | .heathDma => some 15
  | .display _ => some 14
  | .csi _ | .isp | .ssp _ => some 13
  | .rasterCore _ | .rasterControl => some 12
  | _ => none

/-- The class label an initiator without a fixed one presents: a hart's own, and for a unit that of the work it does (R34,
R332). -/
def State.presented (s : State) (req : Req) : Nat :=
  match req.ini with
  | .ac n => (s.hart n).label
  | _ => req.cl

/-- The label is replaced at the port (R332). -/
def State.relabelled (s : State) (req : Req) : Bool := (fixedLabel req.ini).isNone && Nat.ble 12 (s.presented req)

/-- MODE of pair p is lock. -/
def State.locks (s : State) (p : Nat) : Bool := Nat.beq (s.fld (Reg.APC_PAIR_STATUS p) Fld.APC_PAIR_STATUS_MODE) 2

/-- Heath is in split mode. -/
def State.heathSplits (s : State) : Bool := Nat.beq (s.fld Reg.HTH_STATUS Fld.HTH_STATUS_MODE) 2

/-- The initiator whose ID a request carries: the primary's for a locked pair, and HC0's unless Heath is split
(13_host_cores_and_redundancy R369, R377). -/
def State.issuer (s : State) : Initiator → Initiator
  | .ac k => if s.locks (k.val / 2) then .ac (Fin.ofNat 16 (k.val / 2 * 2)) else .ac k
  | .hc k => if s.heathSplits then .hc k else .hc 0
  | i => i

/-- Requests of the application cores that are outstanding: held at a bridge, or waiting for a guard fence. -/
def State.acOutstanding (s : State) : Nat :=
  let ac : Initiator → Bool | .ac _ => true | _ => false
  (s.weirs.toList.map fun w => (w.queue.filter fun i => ac i.req.ini).length).sum + (s.guardWait.filter fun a => ac a.req.ini).length

/-- The initiator issues no request now: a core of a pair that enters lock mode or has FAILED, and every application core while 2,048
of their requests are outstanding (13_host_cores_and_redundancy R370, R371, R374). -/
def State.mute (s : State) : Initiator → Bool
  | .ac k =>
    let m := s.fld (Reg.APC_PAIR_STATUS (k.val / 2)) Fld.APC_PAIR_STATUS_MODE
    Nat.beq m 1 || Nat.beq m 3 || Nat.ble 2048 s.acOutstanding
  | _ => false

/-- The header of a request as its fabric port sets it, whatever the initiator asks for: the ID of R369 and R377, W from the hart's or
unit's world, CL from its fixed label or the one it may present (01_architecture R34; R332, R382). -/
def State.issued (s : State) (req : Req) : Req :=
  { req with
    ini := s.issuer req.ini
    w := s.worldOf req.ini
    cl := Fin.ofNat 16 ((fixedLabel req.ini).getD (if s.relabelled req then 0 else s.presented req)) }

/-- RELABEL is set where the request's label is replaced. -/
def State.relabel (s : State) (req : Req) : State :=
  if s.relabelled req then s.raise Reg.SLU_STATUS Fld.SLU_STATUS_RELABEL else s

/-- A request of a unit for a context, with class label `cl`. -/
def State.unitReq (s : State) (i : Initiator) (cl ctx : Nat) : Req :=
  { ini := i, w := s.worldOf i, cl := Fin.ofNat 16 cl, ctx := Fin.ofNat 32 ctx }

/-- A unit the error manager has isolated answers no request (R450).  R448 isolates units of domain 0 only (`actionOf`), none of which
is an initiator, so there are no requests of its own to hold back. -/
def State.isIsolated (s : State) (u : UnitId) : Bool := s.erm.isolated.contains u

/-! ## DDR geometry (11_memory_and_bandwidth R310, R311) -/

/-- What training found: the population of the board, nothing before the first training. -/
def State.ddr (s : State) : DdrTraining := s.rom.training.getD { count := 0, rate := 0, dens := 0, x8 := false, ranks := 0 }

/-- DMC n is populated. -/
def State.dmcPopulated (s : State) (n : Nat) : Bool := Nat.blt n s.ddr.count

/-- Nsub: populated subchannels. -/
def State.nsub (s : State) : Nat := 2 * s.ddr.count

/-- The installed capacity in bytes (R310). -/
def State.ddrCap (s : State) : Nat :=
  s.nsub * s.ddr.ranks * (if s.ddr.x8 then 4 else 8) * (2 ^ s.ddr.dens * 2 ^ 30)

/-- Subchannel that holds the DDR address `pa`. -/
def State.subOf (s : State) (pa : Nat) : Nat := ddrSub s.nsub (pa - ddrBase)

/-- What lies at `pa`. -/
def State.place (s : State) (pa : Nat) : Place := placeOf s.ddrCap pa

/-- The unit that serves memory or registers at `pa`. -/
def State.servedBy (s : State) (pa : Nat) : Option UnitId :=
  match s.place pa with
  | .ddr => some (.dmc (Fin.ofNat 8 (s.subOf pa / 2)))
  | .engineMem => some (.te (Fin.ofNat 64 ((pa - engineMemBase) / 0x200000)))
  | .clusterMem => some (.cluster (Fin.ofNat 8 ((pa - clusterMemBase) / 0x800000)))
  | .tcm => some .heath
  | .pcie => some (.pcie (if Nat.blt pa 0x5000000000 then 0 else 1))
  | .register => unitOfReg pa
  | _ => none

/-! ## Memory bytes and their codes -/

/-- What a byte of memory that nothing has written reads as (log entry 10). -/
def memDflt : Nat → Byte := fun _ => 0#8

/-- The canonical form of memory: addresses rise strictly, and no entry holds what its address reads as unlisted. -/
def Memory.wf (m : List Host.Cell) : Bool := SMap.wf memDflt m

/-- What an unwritten byte of the boot flash reads as: erased (log entry 10). -/
def flashDflt : Nat → Byte := fun _ => 0xFF#8

/-- `n` stored bytes from `pa` on, without regard to codes. -/
def State.bytes (s : State) (pa n : Nat) : List Byte := SMap.getMany memDflt s.mem pa n

/-- One stored byte. -/
def State.byte (s : State) (pa : Nat) : Byte := SMap.get memDflt s.mem pa

/-- Stores bytes from `pa` on. -/
def State.store (s : State) (pa : Nat) (bs : List Byte) : State := { s with mem := SMap.setMany memDflt s.mem pa bs }

/-- Stores zero in `n` bytes from `pa` on. -/
def State.zero (s : State) (pa n : Nat) : State := { s with mem := SMap.clear s.mem pa (pa + n) }

/-- What a decoder finds in a code word (R313 to R319). -/
inductive Found where
  | ok
  | corrected (dev : Nat) (marked : Bool)
  | mistaken (dev : Nat)               -- an error of several symbols that is taken for one of a single symbol
  | uncorrectable
  | poison
  deriving DecidableEq, Repr

/-- The symbols set in a mask. -/
def symbolsOf (mask : Nat) : List Nat := (List.range 10).filter (bitAt mask)

/-- The rank of a DDR word. -/
def State.rankOf (s : State) (pa : Nat) : Nat :=
  if Nat.beq s.ddr.ranks 2 && Config.rankOf (pa / 64) then 1 else 0

/-- The fields of DMC_MARK for a subchannel (0, 1) and rank. -/
def markFields (sub rank : Nat) : Fld × Fld :=
  match sub, rank with
  | 0, 0 => (Fld.DMC_MARK_MKA0, Fld.DMC_MARK_DEVA0)
  | 0, _ => (Fld.DMC_MARK_MKA1, Fld.DMC_MARK_DEVA1)
  | _, 0 => (Fld.DMC_MARK_MKB0, Fld.DMC_MARK_DEVB0)
  | _, _ => (Fld.DMC_MARK_MKB1, Fld.DMC_MARK_DEVB1)

/-- The marked device of the rank that holds `pa` (R314). -/
def State.markOf (s : State) (pa : Nat) : Option Nat :=
  let g := s.subOf pa
  let f := markFields (g % 2) (s.rankOf pa)
  if s.flag (Reg.DMC_MARK (g / 2)) f.1 then some (s.fld (Reg.DMC_MARK (g / 2)) f.2) else none

/-- What the DDR decoder finds at `pa` with the symbols `upset` in error beside those already wrong (R313, R314). -/
def State.decodeDdr (s : State) (pa upset : Nat) : Found :=
  match SMap.find s.ddrDamage (pa / 64) with
  | some .poison => .poison
  | d =>
    let mask := upset ||| (match d with | some (.symbols m) => m | _ => 0)
    let x8 := s.ddr.x8
    match symbolsOf mask, (if x8 then none else s.markOf pa) with
    | [], _ => .ok
    | [k], none => .corrected (if x8 then k / 2 else k) false
    | [k], some m => if Nat.beq k m then .corrected k true else .uncorrectable
    | _ :: _ :: _, none =>
      match Config.miscorrects (pa / 64) mask with
      | some k => .mistaken (if x8 then k / 2 else k)
      | none => .uncorrectable
    | _, _ => .uncorrectable

/-- What the SEC-DED decoder finds in the 64-bit word at `pa` with `upset` wrong bits beside those already wrong (R319). -/
def State.decodeSram (s : State) (pa upset : Nat) : Found :=
  match SMap.find s.sramDamage (pa / 8) with
  | some .poison => .poison
  | d =>
    match upset + (match d with | some (.symbols m) => m | _ => 0) with
    | 0 => .ok
    | 1 => .corrected 0 false
    | _ => .uncorrectable

/-- The subchannel sends a CE record, at most one per 1 ms of elapsed time (R318, R529). -/
def State.ddrCeRecord (s : State) (g pa iid : Nat) : State :=
  let d := s.dmc (g / 2)
  if s.msSince (d.ceSent[Fin.ofNat 2 g]) then
    (s.setDmc (g / 2) { d with ceSent := d.ceSent.set (Fin.ofNat 2 g) (some s.tb.elapsed) }).report
      { unit := .dmc (Fin.ofNat 8 (g / 2)), sub := g % 2, sev := sevCE, code := 0,
        path := pathOf (.dmc (Fin.ofNat 8 (g / 2))), info := pa / 64 * 64 + iid * 2 ^ 48 }
  else s

/-- The subchannel sends a UE_CONTAINED record (R315, R318, R529). -/
def State.ddrUeRecord (s : State) (g pa iid : Nat) : State :=
  s.report { unit := .dmc (Fin.ofNat 8 (g / 2)), sub := g % 2, sev := sevUE, code := 0,
             path := pathOf (.dmc (Fin.ofNat 8 (g / 2))), info := pa / 64 * 64 + iid * 2 ^ 48 }

/-- The error log of a controller takes the first error, and a UE in place of a CE (R327). -/
def State.ddrLog (s : State) (g pa src dev : Nat) (ue : Bool) : State :=
  let n := g / 2
  let loc := Reg.DMC_ECC_LOC n
  if s.flag loc Fld.DMC_ECC_LOC_VALID && !(ue && !(s.flag loc Fld.DMC_ECC_LOC_UE)) then s
  else
    (((((((s.setFld loc Fld.DMC_ECC_LOC_VALID 1).setFld loc Fld.DMC_ECC_LOC_UE ue.toNat).setFld loc
      Fld.DMC_ECC_LOC_SUB (g % 2)).setFld loc Fld.DMC_ECC_LOC_RANK (s.rankOf pa)).setFld loc
      Fld.DMC_ECC_LOC_SRC src).setFld loc Fld.DMC_ECC_LOC_DEV dev)).setFld (Reg.DMC_ECC_ADDR n)
      Fld.DMC_ECC_ADDR_WORD ((pa - ddrBase) / 64)

/-- A corrected error counts for its device, and marks it at MARK_THR (R314; x4 parts only). -/
def State.ddrCount (s : State) (g pa dev iid : Nat) : State :=
  let n := g / 2
  if s.ddr.x8 then s
  else
    let rank := s.rankOf pa
    let key := g % 2 * 32 + rank * 16 + dev
    let d := s.dmc n
    let c := SMap.get (fun _ => 0) d.counts key + 1
    let s1 := s.setDmc n { d with counts := SMap.set (fun _ => 0) d.counts key c }
    let thr := s.fld (Reg.DMC_CFG n) Fld.DMC_CFG_MARK_THR
    let f := markFields (g % 2) rank
    if !(Nat.beq thr 0) && Nat.ble thr c && !(s.flag (Reg.DMC_MARK n) f.1) then
      ((s1.setFld (Reg.DMC_MARK n) f.1 1).setFld (Reg.DMC_MARK n) f.2 dev).ddrCeRecord g pa iid
    else s1

/-- The symbols wrong in the code word at `pa` once those of `upset` are. -/
def State.ddrMask (s : State) (pa upset : Nat) : Nat :=
  upset ||| (match SMap.find s.ddrDamage (pa / 64) with | some (.symbols m) => m | _ => 0)

/-- The counts, the log and the record of a correction that names device `dev`. -/
def State.ddrCorrected (s : State) (pa dev src iid : Nat) : State :=
  let g := s.subOf pa
  (((s.count (Reg.DMC_ECC_CNT (g / 2)) Fld.DMC_ECC_CNT_CE 1).ddrLog g pa src dev false).ddrCount g pa dev iid).ddrCeRecord g pa iid

/-- Bytes from `pa` on that the spec does not state. -/
def State.storeFree (s : State) (pa n : Nat) : State :=
  { s with ticks := s.ticks + n }.store pa ((List.range n).map fun i => BitVec.ofNat 8 (Config.freeValue (s.ticks + i)))

/-- Way `w` is held for the raster complex. -/
def State.heldWay (s : State) (w : Nat) : Bool := !(Nat.beq s.holdWays 0) && Nat.ble (24 - s.holdWays) w

/-- The cached line, numbered from DDR offset 0, wherever it lies (R329). -/
def State.slcFind (s : State) (line : Nat) : Option SlcLine := s.slc.find? fun l => Nat.beq l.line line && !(s.heldWay l.way)

/-- A cache of an application core holds the line dirty, so that an access is served by it (R363). -/
def State.dirtyAtCore (s : State) (line : Nat) : Bool := s.caches.any fun x => Nat.beq x.line line && x.dirty

/-- A dirty line of a cache holds what the code word at `pa` should: the bytes that DDR itself holds are not seen (R328, R363). -/
def State.ddrCovered (s : State) (pa : Nat) : Bool :=
  (s.slcFind ((pa - ddrBase) / 64)).any (·.dirty) || s.dirtyAtCore (pa / 64)

/-- A read of a DDR code word by the controller (R315): `src` is SRC of R327 and `iid` the IID of R529.  What was found, and
the state after its write-back, counts, log and record.  Demand and merge reads of a poison word send no record.  A corrected word
is written back unless the error lies in a marked device; one mistaken for a correctable word is written back wrong. -/
def State.ddrDecode (s : State) (pa upset src iid : Nat) : Found × State :=
  let g := s.subOf pa
  let n := g / 2
  let key := pa / 64
  match s.decodeDdr pa upset with
  | .ok => (.ok, s)
  | .corrected dev marked =>
    (.corrected dev marked, { s with ddrDamage := if marked then SMap.insert s.ddrDamage key (.symbols (s.ddrMask pa upset))
                                                  else SMap.erase s.ddrDamage key }.ddrCorrected pa dev src iid)
  | .mistaken dev =>
    let s1 := { s with ddrDamage := SMap.erase s.ddrDamage key }
    (.mistaken dev, (if s.ddrCovered pa then s1 else s1.storeFree (key * 64) 64).ddrCorrected pa dev src iid)
  | .uncorrectable =>
    let s1 := { s with ddrDamage := SMap.insert s.ddrDamage key (.symbols (s.ddrMask pa upset)) }
    (.uncorrectable, ((s1.count (Reg.DMC_ECC_CNT n) Fld.DMC_ECC_CNT_UE 1).ddrLog g pa src 0xF true).ddrUeRecord g pa iid)
  | .poison => (.poison, s.count (Reg.DMC_ECC_CNT n) Fld.DMC_ECC_CNT_UE 1)

/-- The path code of an on-chip address, resolved to the bank (R319): bits [11:7] of the address in an engine memory
(04_tensor_engine R95), the bank the table's records give in the others. -/
def State.sramPath (s : State) (pa : Nat) : Nat :=
  match s.servedBy pa with
  | some (.te n) => bankPathOf (.te n) (bitsOf (pa - engineMemBase) 11 7)
  | some (.cluster n) => bankPathOf (.cluster n) (Config.bankOf (.cluster n) ((pa - clusterMemBase) % 0x800000)).val
  | some u => bankPathOf u (Config.bankOf u (pa - tcmBase)).val
  | none => pathNone

/-- The memory instance of an on-chip address, for the rate of its CE records (R319): an engine memory, a cluster memory, or the
Heath memory. -/
def sramInstance (pa : Nat) : Nat :=
  if inRange pa engineMemBase clusterMemBase then (pa - engineMemBase) / 0x200000
  else if inRange pa clusterMemBase 0x8C000000 then 64 + (pa - clusterMemBase) / 0x800000
  else 72

/-- A read of a SEC-DED word (R319): what was found and the state after write-back and record.  `own` is true where the
reader is the serving unit and its own rule sends the record. -/
def State.sramDecode (s : State) (pa upset : Nat) (own : Bool) : Found × State :=
  let key := pa / 8
  let u := (s.servedBy pa).getD .mrc
  match s.decodeSram pa upset with
  | .ok => (.ok, s)
  | .corrected _ _ | .mistaken _ =>
    let s1 := { s with sramDamage := SMap.erase s.sramDamage key }
    let inst := sramInstance pa
    let s2 := if s.msSince (SMap.find s.sramSent inst) then
        { s1 with sramSent := SMap.insert s1.sramSent inst s.tb.elapsed }.report
          { unit := u, sub := 0, sev := sevCE, code := 0, path := s.sramPath pa, info := pa / 8 * 8 }
      else s1
    (.corrected 0 false, s2)
  | .uncorrectable =>
    let bits := upset + (match SMap.find s.sramDamage key with | some (.symbols m) => m | _ => 0)
    let s1 := { s with sramDamage := SMap.insert s.sramDamage key (.symbols bits) }
    (.uncorrectable, if own then s1 else
      s1.report { unit := u, sub := 0, sev := sevUE, code := 0, path := s.sramPath pa, info := pa / 8 * 8 })
  | .poison => (.poison, s)

/-- The response to a read that found this (R315, R319). -/
def respOf : Found → Resp
  | .ok | .corrected _ _ | .mistaken _ => .okay
  | .uncorrectable | .poison => .ue

/-- Bytes of one 64-byte DDR word are read on demand (R315). -/
def State.ddrReadWord (s : State) (iid pa n upset : Nat) : Resp × List Byte × State :=
  let r := s.ddrDecode pa upset 0 iid
  match respOf r.1 with
  | .okay => (.okay, r.2.bytes pa n, r.2)
  | e => (e, List.replicate n 0#8, r.2)

/-- Bytes are written into one 64-byte DDR word (R316, R317): a whole word replaces what was there; fewer bytes are merged,
and a word whose merge read fails becomes or stays a poison word. -/
def State.ddrWriteWord (s : State) (iid pa : Nat) (bs : List Byte) (upset : Nat) : Resp × State :=
  let key := pa / 64
  if Nat.beq (pa % 64) 0 && Nat.beq bs.length 64 then
    (.okay, { s with ddrDamage := SMap.erase s.ddrDamage key }.store pa bs)
  else
    let r := s.ddrDecode pa upset 1 iid
    match r.1 with
    | .ok => (.okay, r.2.store pa bs)
    | .corrected _ _ | .mistaken _ => (.okay, { r.2 with ddrDamage := SMap.erase r.2.ddrDamage key }.store pa bs)
    | .uncorrectable =>
      (.ue, ({ r.2 with ddrDamage := SMap.insert r.2.ddrDamage key .poison }.zero (key * 64) 64).store pa bs)
    | .poison => (.ue, r.2.store pa bs)

/-- Bytes of one 64-bit word are read (R319). -/
def State.sramReadWord (s : State) (pa n upset : Nat) (own : Bool) : Resp × List Byte × State :=
  let r := s.sramDecode pa upset own
  match respOf r.1 with
  | .okay => (.okay, r.2.bytes pa n, r.2)
  | e => (e, List.replicate n 0#8, r.2)

/-- Bytes are written into one 64-bit word (R319): a narrow write merges, and poisons the word if its read fails. -/
def State.sramWriteWord (s : State) (pa : Nat) (bs : List Byte) (upset : Nat) (own : Bool) : State :=
  let key := pa / 8
  if Nat.beq (pa % 8) 0 && Nat.beq bs.length 8 then { s with sramDamage := SMap.erase s.sramDamage key }.store pa bs
  else
    let r := s.sramDecode pa upset own
    match r.1 with
    | .ok | .corrected _ _ | .mistaken _ | .poison => r.2.store pa bs
    | .uncorrectable => { r.2 with sramDamage := SMap.insert r.2.sramDamage key .poison }.store pa bs

/-! ## The system cache (11_memory_and_bandwidth R320, R328 to R331)

`mem` holds the bytes of DDR as every initiator sees them, those of dirty lines among them (R328); the code words in DDR itself have
their damage, and a dirty line keeps the bytes that DDR holds below it. -/

/-- The way-partitioning group of a class (R329). -/
def State.slcGroup (s : State) (cls : Nat) : Nat :=
  bitsOf (s.reg (Reg.SLC_CLSGRP (cls / 8))).toNat (4 * (cls % 8) + 3) (4 * (cls % 8))

/-- The ways in which a class may allocate: its group's mask without held ways (R329). -/
def State.slcWays (s : State) (cls : Nat) : List Nat :=
  let mask := s.fld (Reg.SLC_WAYMASK (s.slcGroup cls)) Fld.SLC_WAYMASK_WAYS
  (List.range 24).filter fun w => bitAt mask w && !(s.heldWay w)

/-- Two lines lie in one slice. -/
def sameSlice (a b : Nat) : Bool := Nat.beq (ddrSub 16 (a * 64)) (ddrSub 16 (b * 64))

/-- Two lines lie in one set of one slice. -/
def sameSet (a b : Nat) : Bool :=
  Nat.beq a b || (sameSlice a b && Nat.beq (Config.slcSet a % 2048) (Config.slcSet b % 2048))

/-- The damage of the code words after a line leaves the cache: a dirty one is written back as a whole code word, or as a poison
word where its data are lost (R320, R328). -/
def SlcLine.leaves (l : SlcLine) (d : List (Nat × Damage)) : List (Nat × Damage) :=
  if !l.dirty then d
  else if l.bad then SMap.insert d ((ddrBase + l.line * 64) / 64) .poison
  else SMap.erase d ((ddrBase + l.line * 64) / 64)

/-- The lines that `p` names leave the cache. -/
def State.evictAll (s : State) (p : SlcLine → Bool) : State :=
  { s with slc := s.slc.filter fun l => !(p l), ddrDamage := (s.slc.filter p).foldl (fun d l => l.leaves d) s.ddrDamage }

/-- Replacement of the accessing class's group learns that it met `line` in `way`; no other group's does (R329, R39). -/
def State.slcUse (s : State) (cls line way : Nat) : State :=
  let g := Fin.ofNat 8 (s.slcGroup cls)
  { s with slcUses := s.slcUses.set g ((line, way) :: s.slcUses[g].filter fun x => !(Nat.beq x.2 way && sameSet x.1 line)) }

/-- The way of `ways` that a new line takes: one free in the whole slice, else one free in its set, else the way that replacement
takes of what the group itself has met in the set (log entry 80). -/
def State.slcWay (s : State) (line cls w0 : Nat) (ways : List Nat) : Nat :=
  let slice := s.slc.filter fun l => sameSlice l.line line
  match ways.find? fun w => !(slice.any fun l => Nat.beq l.way w) with
  | some w => w
  | none =>
    match ways.find? fun w => !(slice.any fun l => Nat.beq l.way w && sameSet l.line line) with
    | some w => w
    | none =>
      let met := (s.slcUses[Fin.ofNat 8 (s.slcGroup cls)].filter fun x => sameSet x.1 line).map (·.2)
      ways[Config.slcVictim met ways % ways.length]?.getD w0

/-- A miss allocates a line in a way of the class's group; a group without ways allocates nothing. -/
def State.slcAllocate (s : State) (line cls : Nat) (dirty : Bool) : State :=
  match s.slcWays cls with
  | [] => s
  | w0 :: ws =>
    let way := s.slcWay line cls w0 (w0 :: ws)
    let s1 := (s.evictAll fun l => Nat.beq l.way way && sameSet l.line line).slcUse cls line way
    { s1 with slc := { line, way, dirty, cls, bad := false, old := if dirty then s.bytes (ddrBase + line * 64) 64 else [] } :: s1.slc }

/-- A line that is written in the cache: dirty, of the writer's class; a write of the whole line mends lost data (R330). -/
def State.slcDirty (s : State) (line cls : Nat) (whole : Bool) : State :=
  { s with slc := s.slc.map fun x =>
      if Nat.beq x.line line then
        { x with dirty := true, cls, bad := x.bad && !whole, old := if x.dirty then x.old else s.bytes (ddrBase + line * 64) 64 }
      else x }

/-- A whole line is written: it hits or allocates, and where the class's group has no ways it goes to DDR as a code word. -/
def State.slcWriteLine (s : State) (line cls : Nat) : State :=
  match s.slcFind line with
  | some l => (s.slcDirty line cls true).slcUse cls line l.way
  | none =>
    if (s.slcWays cls).isEmpty then { s with ddrDamage := SMap.erase s.ddrDamage ((ddrBase + line * 64) / 64) }
    else s.slcAllocate line cls true

/-! ## Caches of the application cores (13_host_cores_and_redundancy R362, R363, R370) -/

/-- Sets and ways of a cache: 64 KiB of 8 ways, or 2 MiB of 16. -/
def cacheSize : CacheId → Nat × Nat
  | .l2 _ => (2048, 16)
  | _ => (128, 8)

/-- Cache `c` holds `line`: an address ÷ 64. -/
def CacheLine.is (x : CacheLine) (c : CacheId) (line : Nat) : Bool := decide (x.cache = c) && Nat.beq x.line line

/-- A line enters a cache; a full set gives up one of its lines, and `back` says where a dirty one goes. -/
def State.cacheFill (s : State) (back : State → Nat → State) (c : CacheId) (line : Nat) (dirty : Bool) : State :=
  if s.caches.any (·.is c line) then
    { s with caches := s.caches.map fun x => if x.is c line then { x with dirty := x.dirty || dirty } else x }
  else
    let z := cacheSize c
    let set := s.caches.filter fun x => decide (x.cache = c) && Nat.beq (x.line % z.1) (line % z.1)
    let out := if Nat.blt set.length z.2 then [] else set[Config.cacheVictim (set.map (·.line)) % z.2]?.toList
    let s1 : State := { s with caches := { cache := c, line, dirty } :: s.caches.filter fun x => !(out.contains x) }
    out.foldl (fun s x => if x.dirty then back s x.line else s) s1

/-- A line enters the L2 of pair `p`; a dirty line it gives up is written back to memory with the class label `cls`. -/
def State.fillL2 (s : State) (cls p line : Nat) (dirty : Bool) : State :=
  s.cacheFill (fun s l => s.slcWriteLine (l - ddrBase / 64) cls) (.l2 (Fin.ofNat 8 p)) line dirty

/-- A line enters the L1 data cache of core `k`; a dirty line it gives up goes to the L2. -/
def State.fillL1 (s : State) (cls k line : Nat) (dirty : Bool) : State :=
  s.cacheFill (fun s l => s.fillL2 cls (k / 2) l true) (.l1d (Fin.ofNat 16 k)) line dirty

/-- A hart's access to DDR fills the L2 of its pair and its L1 cache, dirty where it stores; in lock mode the data reach both cores
(R369, R370).  DDR alone is cached (R363). -/
def State.hartFill (s : State) (req : Req) (ty : AccType) (line : Nat) : State :=
  match req.ini with
  | .ac k =>
    let p := k.val / 2
    let cores := if s.locks p then [2 * p, 2 * p + 1] else [k.val]
    cores.foldl (fun s c => match ty with
      | .fetch => s.cacheFill (fun s _ => s) (.l1i (Fin.ofNat 16 c)) line false
      | .read => s.fillL1 req.cl c line false
      | _ => s.fillL1 req.cl c line true) (s.fillL2 req.cl p line false)
  | _ => s

/-- A cache of application core `k`, or of its pair. -/
def cacheOf (c : CacheId) (k : Fin 16) : Bool :=
  match c with
  | .l1i n | .l1d n => decide (n = k)
  | .l2 p => Nat.beq p (k.val / 2)

/-- A write of a line takes it out of every cache but the writer's own (R363). -/
def State.snoop (s : State) (ini : Initiator) (line : Nat) : State :=
  { s with caches := s.caches.filter fun x => !(Nat.beq x.line line) || (match ini with | .ac k => cacheOf x.cache k | _ => false) }

/-! ## Accesses to DDR -/

/-- A read of bytes within one code word, `upset` being wrong symbols of the word in DDR: from a core's dirty line, from the system
cache, or from DDR, which allocates where its data are good (R315, R328; log entry 80). -/
def State.ddrRead (s : State) (req : Req) (ty : AccType) (pa n upset : Nat) : Resp × List Byte × State :=
  let line := (pa - ddrBase) / 64
  let r : Resp × List Byte × State :=
    if s.dirtyAtCore (pa / 64) then (.okay, s.bytes pa n, s)
    else
      match s.slcFind line with
      | some l =>
        let s1 := s.slcUse req.cl line l.way
        if l.bad then (.ue, List.replicate n 0#8, s1) else (.okay, s1.bytes pa n, s1)
      | none =>
        let r := s.ddrReadWord (iidOf req.ini).toNat pa n upset
        (r.1, r.2.1, if decide (r.1 = .okay) then r.2.2.slcAllocate line req.cl false else r.2.2)
  (r.1, r.2.1, if decide (r.1 = .okay) then r.2.2.hartFill req ty (pa / 64) else r.2.2)

/-- A write of bytes within one code word (R316, R317, R328).  A miss that writes the whole word needs no read, nor does one of a line
that a core holds dirty, which passes its data on (R363).  One that writes less reads the word from DDR: a good word is allocated, and
where the read fails, or the class's group has no ways, the controller merges the bytes in DDR. -/
def State.ddrWrite (s : State) (req : Req) (pa : Nat) (bs : List Byte) (upset : Nat) : Resp × State :=
  let line := (pa - ddrBase) / 64
  let iid := (iidOf req.ini).toNat
  let r : Resp × State :=
    if (Nat.beq (pa % 64) 0 && Nat.beq bs.length 64) || s.dirtyAtCore (pa / 64) then (.okay, (s.slcWriteLine line req.cl).store pa bs)
    else
      match s.slcFind line with
      | some l => (if l.bad then .ue else .okay, ((s.slcDirty line req.cl false).slcUse req.cl line l.way).store pa bs)
      | none =>
        match s.slcWays req.cl, s.decodeDdr pa upset with
        | [], _ | _, .uncorrectable | _, .poison => s.ddrWriteWord iid pa bs upset
        | _, _ => (.okay, (((s.ddrDecode pa upset 1 iid).2).slcAllocate line req.cl true).store pa bs)
  (r.1, r.2.snoop req.ini (pa / 64))

/-! ## Region guards (14_isolated_worlds R384 to R390) -/

/-- The guard target of an address (R32). -/
def State.guardTarget (s : State) (pa : Nat) : Option Nat :=
  match s.place pa with
  | .ddr => some (s.subOf pa / 2)
  | .engineMem => some 8
  | .clusterMem => some 9
  | .tcm => some 10
  | _ => none

/-- Regions of a target. -/
def regionsOf (t : Nat) : Nat := if Nat.blt t 8 then 32 else 16

/-- The address of a region register: target, region, offset. -/
def regionAddr (t r o : Nat) : Nat := 0x110A0000 + t * 0x1000 + r * 0x20 + o

/-- A region: its registers BASE_LO, LIMIT_LO, HI, IID, PERM. -/
structure Region where
  base  : Nat
  limit : Nat
  mask  : Nat
  value : Nat
  perm  : Word
  deriving DecidableEq, Repr

/-- Region r of target t from a set of register values. -/
def regionOf (get : Nat → Word) (t r : Nat) : Region :=
  { base := Fld.get Fld.GRD_R_HI_BASE_HI (get (regionAddr t r 8)) * 2 ^ 32 + (get (regionAddr t r 0)).toNat / 4096 * 4096,
    limit := Fld.get Fld.GRD_R_HI_LIMIT_HI (get (regionAddr t r 8)) * 2 ^ 32 + (get (regionAddr t r 4)).toNat / 4096 * 4096
      + 4095,
    mask := Fld.get Fld.GRD_R_IID_MASK (get (regionAddr t r 12)),
    value := Fld.get Fld.GRD_R_IID_VALUE (get (regionAddr t r 12)),
    perm := get (regionAddr t r 16) }

/-- The committed value of a region register. -/
def State.guardReg (s : State) (a : Nat) : Word := SMap.get regReset s.guardLive a

/-- The memory of a target: base and size (R32, R27). -/
def targetSpan (t : Nat) : Nat × Nat :=
  if Nat.blt t 8 then (ddrBase, 2 ^ 37)
  else if Nat.beq t 8 then (engineMemBase, 0x8000000)
  else if Nat.beq t 9 then (clusterMemBase, 0x4000000)
  else (tcmBase, 0x80000)

/-- A region that the commit of R387 treats as disabled: its limit below its base, outside its target's memory, or SX with
NW. -/
def Region.bad (g : Region) (t : Nat) : Bool :=
  Nat.blt g.limit g.base || Nat.blt g.base (targetSpan t).1 || Nat.ble ((targetSpan t).1 + (targetSpan t).2) g.limit
    || (Nat.beq (Fld.GRD_R_PERM_SX.get g.perm) 1 && Nat.beq (Fld.GRD_R_PERM_NW.get g.perm) 1)

/-- The permission an access needs is granted for its world (R384). -/
def permits (perm : Word) (w : Bool) : AccType → Bool
  | .read => Nat.beq (if w then Fld.GRD_R_PERM_SR.get perm else Fld.GRD_R_PERM_NR.get perm) 1
  | .write => Nat.beq (if w then Fld.GRD_R_PERM_SW.get perm else Fld.GRD_R_PERM_NW.get perm) 1
  | .fetch => Nat.beq (if w then Fld.GRD_R_PERM_SX.get perm else Fld.GRD_R_PERM_NX.get perm) 1
  | .amo => Nat.beq (if w then Fld.GRD_R_PERM_SR.get perm else Fld.GRD_R_PERM_NR.get perm) 1 &&
      Nat.beq (if w then Fld.GRD_R_PERM_SW.get perm else Fld.GRD_R_PERM_NW.get perm) 1

/-- An enabled region admits the access (R384). -/
def Region.admits (g : Region) (req : Req) (ty : AccType) (pa len : Nat) : Bool :=
  Nat.beq (Fld.GRD_R_PERM_EN.get g.perm) 1 && Nat.ble g.base pa && Nat.ble (pa + len) (g.limit + 1) &&
    (Nat.beq g.mask 0 || Nat.beq ((iidOf req.ini).toNat &&& g.mask) (g.value &&& g.mask)) && permits g.perm req.w ty

/-- The initiators a target always admits (R386). -/
def alwaysAdmitted (t : Nat) : Initiator → Bool
  | .miller | .clusterCore _ | .clusterDma _ | .engine _ => Nat.beq t 8 || Nat.beq t 9
  | .hc _ => Nat.beq t 10
  | _ => false

/-- BUSY of a guard: a fence runs. -/
def State.fencing (s : State) (t : Nat) : Bool := s.flag (Reg.GRD_STATUS t) Fld.GRD_STATUS_BUSY

/-- Region r of target t as an access is judged: the committed one, and while a fence runs the one it commits (R389). -/
def State.region (s : State) (t r : Nat) : Region :=
  if s.fencing t then
    let g := regionOf s.reg t r
    if g.bad t then { g with perm := Fld.GRD_R_PERM_EN.put g.perm 0 } else g
  else regionOf s.guardReg t r

/-- The guard of target t admits the access (R384). -/
def State.admits (s : State) (t : Nat) (req : Req) (ty : AccType) (pa len : Nat) : Bool :=
  alwaysAdmitted t req.ini || (List.range (regionsOf t)).any fun r => (s.region t r).admits req ty pa len

/-- TYPE of an access in the logs. -/
def typeCode : AccType → Nat
  | .read => 0 | .write => 1 | .fetch => 2 | .amo => 3

/-- A refusal is logged if none is, and a CE record is sent, at most one per target per 1 ms (R390). -/
def State.guardRefuse (s : State) (t : Nat) (req : Req) (ty : AccType) (pa : Nat) : State :=
  let hi := Reg.GRD_LOG_HI t
  let s1 :=
    if s.flag hi Fld.GRD_LOG_HI_VALID then s
    else (s.setReg (Reg.GRD_LOG_LO t) (BitVec.ofNat 32 pa)).setReg hi
      (BitVec.ofNat 32 (pa / 2 ^ 32 % 2 ^ 16 + (iidOf req.ini).toNat * 2 ^ 16 + typeCode ty * 2 ^ 28
        + req.w.toNat * 2 ^ 30 + 2 ^ 31))
  if s1.msSince (SMap.find s1.guardSent t) then
    { s1 with guardSent := SMap.insert s1.guardSent t s1.tb.elapsed }.report (plainRecord .guard sevCE)
  else s1

/-! ## Semaphores (15_bridges_and_gateway R420) -/

/-- The semaphores that a reset initiator owns are released; an operation that runs completes and its result is lost. -/
def State.releaseSems (s : State) (i : Initiator) : State :=
  (List.range 8).foldl (fun s k =>
    if s.flag (Reg.WIR0_SEM_OWN k) Fld.WIR0_SEM_OWN_HELD &&
        Nat.beq (s.fld (Reg.WIR0_SEM_OWN k) Fld.WIR0_SEM_OWN_OWNER) (iidOf i).toNat then
      { s with semOps := s.semOps.map fun (o : SemOp) => if Nat.beq o.k k then { o with lost := true } else o }.setReg
        (Reg.WIR0_SEM_OWN k) ((s.reg (Reg.WIR0_SEM_OWN k)) &&& 0xFFF00000#32)
    else s) s

/-! ## Unmapped accesses (01_architecture R29; 11_memory_and_bandwidth R528) -/

/-- An access that R29 names is logged if none is, and sends its CE record. -/
def State.decodeError (s : State) (req : Req) (ty : AccType) (pa : Nat) : State :=
  let iid := (iidOf req.ini).toNat
  let s1 :=
    if s.flag Reg.MRC_ELOG_HI Fld.MRC_ELOG_HI_VALID then s
    else (s.setReg Reg.MRC_ELOG_LO (BitVec.ofNat 32 pa)).setReg Reg.MRC_ELOG_HI
      (BitVec.ofNat 32 (pa / 2 ^ 32 % 2 ^ 16 + iid * 2 ^ 16 + typeCode ty * 2 ^ 28 + req.w.toNat * 2 ^ 30 + 2 ^ 31))
  s1.report { unit := .mrc, sub := 0, sev := sevCE, code := 0, path := pathNone,
              info := pa % 2 ^ 48 + iid * 2 ^ 48 + req.w.toNat * 2 ^ 58 }

/-! ## An access to memory -/

/-- A transaction of `i` that lost a flit on a faulty link is over (11_memory_and_bandwidth R322). -/
def State.linkEnd (s : State) (i : Initiator) : State := { s with linkLost := s.linkLost.erase i }

/-- A part of an access within one 64-byte block: lost on a faulty link, unmapped, in a domain that is off, refused, or admitted.  A
debug module that is not connected reaches nothing (R407; log entry 69). -/
def State.judge (s : State) (req : Req) (ty : AccType) (pa len : Nat) : Resp × State :=
  if s.linkLost.contains req.ini && !(decide (s.servedBy pa = some (unitOfInitiator req.ini))) then (.link, s.linkEnd req.ini)
  else if decide (req.ini = .debugModule) && !s.debugOn then (.decode, s)
  else
  match s.place pa with
  | .unmapped => (.decode, s.decodeError req ty pa)
  | .bootRom =>
    if decide (ty = .write) || decide (ty = .amo) || !req.w then (.decode, s.decodeError req ty pa) else (.okay, s)
  | .dagiesk => if decide (ty = .write) || decide (ty = .amo) then (.decode, s.decodeError req ty pa) else (.okay, s)
  | _ =>
    match s.servedBy pa with
    | some u =>
      if !(s.domainOn (domainOf u)) || s.isIsolated u then (.decode, s)
      else
        match s.guardTarget pa with
        | some t => if s.admits t req ty pa len then (.okay, s) else (.guard, s.guardRefuse t req ty pa)
        | none => (.okay, s)
    | none => (.okay, s)

/-- A request judged as its port sends it. -/
def State.judged (s : State) (req : Req) (ty : AccType) (pa len : Nat) : Resp × State :=
  (s.relabel req).judge (s.issued req) ty pa len

/-- Bytes of one block after it has been judged; registers and interrupt files take no block transfers (log entry 45). -/
def State.readBlock (s : State) (ty : AccType) (req : Req) (pa n : Nat) (own : Bool) : Resp × List Byte × State :=
  match s.place pa with
  | .ddr => s.ddrRead req ty pa n 0
  | .engineMem | .clusterMem | .tcm => s.sramReadWord pa n 0 own
  | .dagiesk =>
    (.okay, if s.dgkBuilt then (List.range n).map fun i => dgkByte s.ddrCap s.ddr.ranks (pa - 0x1000000 + i)
      else List.replicate n 0#8, s)
  | .bootRom => (.okay, (List.range n).map fun i => Config.bootRom (pa + i), s)
  | .register | .interruptFile => (.decode, List.replicate n 0#8, s)
  | _ => (.okay, s.bytes pa n, s)

/-- Bytes written into one block after it has been judged. -/
def State.writeBlock (s : State) (req : Req) (pa : Nat) (bs : List Byte) (own : Bool) : Resp × State :=
  match s.place pa with
  | .ddr => s.ddrWrite req pa bs 0
  | .engineMem | .clusterMem | .tcm => (.okay, s.sramWriteWord pa bs 0 own)
  | .register | .interruptFile => (.decode, s)
  | _ => (.okay, s.store pa bs)

/-- The size of the code word at `pa`: 64 bytes in DDR, 8 elsewhere. -/
def State.blockSize (s : State) (pa : Nat) : Nat := match s.place pa with | .ddr => 64 | _ => 8

/-- A read of `n` bytes at `pa`, a fetch or a plain one as `ty` says, block by block, stopped by the first response other than
OKAY; `fuel` bounds the blocks.  A failed read carries all-zero data (R323). -/
def State.readMemAs (s : State) (ty : AccType) (req : Req) (own : Bool) : Nat → Nat → Nat → Resp × List Byte × State
  | 0, _, _ => (.okay, [], s)
  | _, _, 0 => (.okay, [], s)
  | fuel + 1, pa, n =>
    let m := min n (s.blockSize pa - pa % s.blockSize pa)
    match s.judge req ty pa m with
    | (.okay, s1) =>
      match s1.readBlock ty req pa m own with
      | (.okay, d, s2) =>
        match s2.readMemAs ty req own fuel (pa + m) (n - m) with
        | (.okay, ds, s3) => (.okay, d ++ ds, s3)
        | (e, ds, s3) => (e, List.replicate m 0#8 ++ ds, s3)
      | (e, _, s2) => (e, List.replicate n 0#8, s2)
    | (e, s1) => (e, List.replicate n 0#8, s1)

/-- A plain read of `n` bytes at `pa`. -/
def State.readMem (s : State) (req : Req) (own : Bool) (fuel pa n : Nat) : Resp × List Byte × State :=
  s.readMemAs .read req own fuel pa n

/-- A write of bytes at `pa`, block by block, stopped by the first response other than OKAY. -/
def State.writeMem (s : State) (req : Req) (own : Bool) : Nat → Nat → List Byte → Resp × State
  | 0, _, _ => (.okay, s)
  | _, _, [] => (.okay, s)
  | fuel + 1, pa, bs =>
    let m := min bs.length (s.blockSize pa - pa % s.blockSize pa)
    match s.judge req .write pa m with
    | (.okay, s1) =>
      match s1.writeBlock req pa (bs.take m) own with
      | (.okay, s2) => s2.writeMem req own fuel (pa + m) (bs.drop m)
      | (e, s2) => (e, s2)
    | (e, s1) => (e, s1)

/-- A unit's read and write at a physical address, with the header as its port sends it (R332). -/
def State.readPhys (s : State) (req : Req) (pa n : Nat) : Resp × List Byte × State :=
  (s.relabel req).readMem (s.issued req) false (n + 1) pa n

def State.writePhys (s : State) (req : Req) (pa : Nat) (bs : List Byte) : Resp × State :=
  (s.relabel req).writeMem (s.issued req) false (bs.length + 1) pa bs

/-! ## Transfers of units through the IOMMU (R175; log entry 5) -/

/-- The KV area of a context that its KV range is translated with (R159, R532). -/
def State.kvArea (s : State) (ctx : Nat) : Option KvArea :=
  match (s.ctx ctx).kvArea with
  | some a => if a.enable && !a.refused then some a else none
  | none => none

/-- The key of a KV page mapping: sequence × 4,096 + page (R157), for an IOVA in the KV range of a context. -/
def State.kvKey (s : State) (ctx iova : Nat) : Option Nat :=
  match s.kvArea ctx with
  | some a => if inRange iova a.base (a.base + a.maxSeq * 0x10000000) then some ((iova - a.base) / 65536) else none
  | none => none

/-- An IOVA of the KV range in the context's physical space, by the PTEs Miller has written (R160). -/
def State.kvGuest (s : State) (ctx key iova : Nat) (write : Bool) : Option Nat :=
  match (s.ctx ctx).kvMaps.find? fun e => Nat.beq e.1 key with
  | some (_, p) => if write && !p.w then none
      else some ((match s.kvArea ctx with | some a => a.poolBase | none => 0) + p.page * 65536 + iova % 65536)
  | none => none

/-- The initiator that stands for the device contexts of `i`: the initiators of the tensor complex select the same ones
(07_control_plane, the owner's duties). -/
def deviceOf : Initiator → Initiator
  | .clusterCore _ | .clusterDma _ | .engine _ => .miller
  | i => i

/-- The translation the IOMMU holds for an IOVA of the device context that an initiator and a context select (R34). -/
def State.held (s : State) (ini : Initiator) (ctx iova : Nat) : Option Window :=
  s.iotlb.find? fun w => decide (w.ini = deviceOf ini) && Nat.beq w.ctx ctx && inRange iova w.iova (w.iova + w.len)

/-- The key of an IOVA for an initiator of the tensor complex, which alone has the KV range in its device contexts (R160). -/
def State.kvKeyOf (s : State) (ini : Initiator) (ctx iova : Nat) : Option Nat :=
  if decide (deviceOf ini = .miller) then s.kvKey ctx iova else none

/-- The physical address of an IOVA in that device context: from the translations held, else by the KV tables, which Miller
writes for the tensor complex, or by the walk. -/
def State.translate (s : State) (ini : Initiator) (ctx iova : Nat) (write : Bool) : Option Nat :=
  match s.held ini ctx iova with
  | some w => if write && !w.write then none else some (w.pa + (iova - w.iova))
  | none =>
    match s.kvKeyOf ini ctx iova with
    | some k => (s.kvGuest ctx k iova write).bind (Config.stage2 s.mem ctx)
    | none => Config.iommuWalk s.mem (deviceOf ini) ctx iova write

/-- The guest physical address of an IOVA of a context (R206). -/
def State.guestAddr (s : State) (ini : Initiator) (ctx iova : Nat) : Nat :=
  match s.held ini ctx iova with
  | some w => w.gpa + (iova - w.iova)
  | none =>
    match s.kvKeyOf ini ctx iova with
    | some k => (s.kvGuest ctx k iova true).getD 0
    | none => Config.guestPhys s.mem (deviceOf ini) ctx iova

/-- A write to the guest physical address `gpa` in the name of context `n` is logged (R206): its page's bit in the bitmap, or
the OUTSIDE flag.  The update uses CTX0's device context and class and is not itself logged. -/
def State.markDirty (s : State) (n gpa : Nat) : State :=
  let c := s.ctx n
  if !c.dirtyOn then s
  else if Nat.ble c.dirtyPages (gpa / 4096) then s.setCtx n { c with dirtyOut := true }
  else
    match s.translate .miller 0 (c.dirtyBase + gpa / 4096 / 8) true with
    | none => s
    | some pa =>
      let req := s.unitReq .miller (s.ctx 0).classDef 0
      let b := s.byte pa
      (s.writeMem req false 2 pa [b ||| BitVec.ofNat 8 (2 ^ (gpa / 4096 % 8))]).2

/-- A unit's read of `n` bytes at an IOVA of the request's context, page by page; a translation fault answers as DECODE. -/
def State.dmaRead (s : State) (req : Req) : Nat → Nat → Nat → Resp × List Byte × State
  | 0, _, _ => (.okay, [], s)
  | _, _, 0 => (.okay, [], s)
  | fuel + 1, iova, n =>
    let m := min n (4096 - iova % 4096)
    match s.translate req.ini req.ctx iova false with
    | none => (.decode, List.replicate n 0#8, s)
    | some pa =>
      match s.readMem req false (m + 1) pa m with
      | (.okay, d, s1) =>
        match s1.dmaRead req fuel (iova + m) (n - m) with
        | (.okay, ds, s2) => (.okay, d ++ ds, s2)
        | (e, ds, s2) => (e, List.replicate m 0#8 ++ ds, s2)
      | (e, _, s1) => (e, List.replicate n 0#8, s1)

/-- A unit's write at an IOVA of the request's context, page by page; each page of it is logged, whatever the answer
(R206). -/
def State.dmaWrite (s : State) (req : Req) : Nat → Nat → List Byte → Resp × State
  | 0, _, _ => (.okay, s)
  | _, _, [] => (.okay, s)
  | fuel + 1, iova, bs =>
    let m := min bs.length (4096 - iova % 4096)
    match s.translate req.ini req.ctx iova true with
    | none => (.decode, s)
    | some pa =>
      match s.writeMem req false (m + 1) pa (bs.take m) with
      | (.okay, s1) => (s1.markDirty req.ctx (s.guestAddr req.ini req.ctx iova)).dmaWrite req fuel (iova + m) (bs.drop m)
      | (e, s1) => (e, s1.markDirty req.ctx (s.guestAddr req.ini req.ctx iova))

/-- A unit reads `n` bytes at an IOVA, with its header as its port sends it (R332). -/
def State.fetch (s : State) (req : Req) (iova n : Nat) : Resp × List Byte × State :=
  (s.relabel req).dmaRead (s.issued req) (n + 1) iova n

/-- A unit writes bytes at an IOVA. -/
def State.put (s : State) (req : Req) (iova : Nat) (bs : List Byte) : Resp × State :=
  (s.relabel req).dmaWrite (s.issued req) (bs.length + 1) iova bs

/-! ## MSIs (07_control_plane R196) and answers -/

/-- An MSI goes on its way to an interrupt file of a context. -/
def State.sendMsi (s : State) (ini : Initiator) (ctx addr data : Nat) : State :=
  { s with msis := s.msis ++ [{ ini, w := s.worldOf ini, ctx, addr, data }] }

/-- A unit's interrupt becomes pending; page 0 stands for the identities of the INTERRUPT records (R55; log entry 15). -/
def State.interrupt (s : State) (u : UnitId) : State :=
  if s.irqs.contains (0, irqOf u) then s else { s with irqs := s.irqs ++ [(0, irqOf u)] }

/-- The answer to a request. -/
def State.answer (s : State) (resp : Resp) (data : List Byte) : State := { s with reply := { resp, data } }

/-- The answer to a register read. -/
def State.answerWord (s : State) (w : Word) : State := s.answer .okay (leBytes 4 w.toNat)

end Sys2Proof.Machine
end

