-- ==== Sys2Proof/Machine/Access.lean ====
section
/-!
DEFINITION. Accesses to set-up registers: who may make them, the responses of refused ones, and the plain effect of a write
or a read by the access types of the fields.  Registers with an effect of their own build on these.
-/

namespace Sys2Proof.Machine

/-- The request comes from an application core. -/
def fromAc (req : Req) : Bool := match req.ini with | .ac _ => true | _ => false

/-- The request comes from a Heath core. -/
def fromHc (req : Req) : Bool := match req.ini with | .hc _ => true | _ => false

/-- The block or page at `a` admits the request (the initiator and world checks that blocks name). -/
def State.regAdmits (s : State) (req : Req) (write : Bool) (a : Nat) : Bool :=
  let n := a / 0x10000
  if inRange a 0x10100000 0x10180000 then                     -- TEN pages, R121
    match req.ini with
    | .clusterCore c => Nat.beq c (n - 0x1010)
    | .miller => !write || Nat.beq (a % 0x2000) 0x50 || Nat.beq (a % 0x2000) 0x54
    | .ac _ => !write
    | _ => false
  else if Nat.beq n 0x1000 then fromAc req || decide (req.ini = .miller)     -- TCX, R204
  else if Nat.beq n 0x110A || Nat.beq n 0x1700 || inRange n 0x1500 0x1504 then !write || req.w   -- GRD, WGD, APC
  else if Nat.beq n 0x2000 then !write || fromHc req          -- HTH, R381
  else if Nat.beq n 0x2001 then if write then fromHc req else req.w          -- ERM, R451
  else if inRange n 0x1818 0x181C then fromHc req             -- CAN8 to CAN11, R410
  else if inRange n 0x1900 0x1902 then                        -- WIR, R420
    !write || req.w || inRange a 0x19000800 0x19000880
  else if Nat.beq n 0x1A01 then !write || req.w               -- THM, R504
  else if Nat.beq n 0x1A00 then                               -- PWR, R404, R406, R506
    if !write then true
    else if inRange a (Reg.PWR_SHOLD 0) (Reg.PWR_SHOLD 2) then fromAc req && req.w
    else if inRange a (Reg.PWR_HHOLD 0) (Reg.PWR_HHOLD 2) then fromHc req
    else if Nat.beq a Reg.PWR_WARM then req.w
    else if Nat.blt a (Reg.PWR_DOM 41) then req.w || !(s.domainSecure ((a - Reg.PWR_DOM 0) / 4))
    else true
  else if Nat.beq n 0x1A02 then                               -- CLK, R404
    !write || req.w || Nat.beq a Reg.CLK_MON ||
      (match Config.clockControl (a - 0x1A020000) with | some d => !(s.clockSecure d.val) | none => true)
  else if Nat.beq n 0x1B00 then                               -- BOOT, R408, R480
    !write || req.w || !(Nat.beq a Reg.BOOT_LCS || Nat.beq a Reg.BOOT_HARTREL || Nat.beq a Reg.BOOT_KEYREV ||
      Nat.beq a Reg.BOOT_ARB_COMMIT)
  else if Nat.beq n 0x1B01 then                               -- FWL, R487
    !write || fromAc req || (Nat.beq a Reg.FWL_LOG_CFG && req.w)
  else true

/-- The response to an access of `width` bytes at a register address, and the state after what a refusal records: R29, R491,
R450, R391, the block's own check, then R9 (log entry 13); a debug module that is not connected reaches nothing (R407; log
entry 69).  `req` is the header as its port set it. -/
def State.regCheck (s : State) (req : Req) (ty : AccType) (a width : Nat) : Resp × State :=
  if decide (req.ini = .debugModule) && !s.debugOn then (.decode, s)
  else
  match s.place a with
  | .register =>
    match unitOfReg a with
    | none => (.okay, s)
    | some u =>
      if !(s.domainOn (domainOf u)) || s.isIsolated u then (.decode, s)
      else if s.ownedSecure u && !req.w then (.guard, s)
      else if !(s.regAdmits req (decide (ty = .write)) a) then (.guard, s)
      else if Nat.beq width 4 && Nat.beq (a % 4) 0 then (.okay, s)
      else (.decode, s)
  | _ => (.decode, s.decodeError req ty a)

/-! ## The way down through a Weir bridge (15_bridges_and_gateway R410 to R414) -/

/-- An address below bridge `n` (R410). -/
def belowBridge (n : Nat) (a : Nat) : Bool :=
  let heath := inRange a 0x20000000 0x21000000 || inRange a 0x18180000 0x181C0000
  if Nat.beq n 0 then heath else inRange a 0x18000000 0x18310000 && !heath

/-- An initiator below bridge `n`: its accesses to its own bus do not pass the bridge (R410). -/
def initiatorBelow (n : Nat) : Initiator → Bool
  | .hc _ | .heathDma => Nat.beq n 0
  | .can k => Nat.beq n (if Nat.ble 8 k then 0 else 1)
  | .xspi | .audio => Nat.beq n 1
  | _ => false

/-- POSTED of the lowest enabled range of bridge `n` that holds address `a` (R412). -/
def State.rangePosted (s : State) (n a : Nat) : Bool :=
  let holds (e : Nat) : Bool :=
    let hi (f : Fld) := s.fld (Reg.WIR_RNG_HI n e) f * 2 ^ 32
    s.flag (Reg.WIR_RNG_BASE n e) Fld.WIR_RNG_BASE_EN &&
      Nat.ble (hi Fld.WIR_RNG_HI_BASE_HI + s.fld (Reg.WIR_RNG_BASE n e) Fld.WIR_RNG_BASE_BASE_LO * 4096) a &&
      Nat.ble a (hi Fld.WIR_RNG_HI_LIMIT_HI + s.fld (Reg.WIR_RNG_LIMIT n e) Fld.WIR_RNG_LIMIT_LIMIT_LO * 4096 + 4095)
  match (List.range 16).find? holds with
  | some e => s.flag (Reg.WIR_RNG_BASE n e) Fld.WIR_RNG_BASE_POSTED
  | none => false

def State.setBridgeQueue (s : State) (n : Nat) (q : List BridgeItem) : State := s.setWeir n { s.weir n with queue := q }

/-- Posted writes in the buffer of bridge `n`. -/
def State.buffered (s : State) (n : Nat) : Nat := ((s.weir n).queue.filter (·.inside)).length

/-- An earlier request of the same source is held at bridge `n` (R414). -/
def State.sourceHeld (s : State) (n : Nat) (req : Req) : Bool :=
  (s.weir n).queue.any fun i => decide (i.req.ini = s.issuer req.ini)

/-- The bridge that a request to address `a` comes down through (R410). -/
def bridgeOf (i : Initiator) (a : Nat) : Option Nat :=
  if belowBridge 0 a then (if initiatorBelow 0 i then none else some 0)
  else if belowBridge 1 a then (if initiatorBelow 1 i then none else some 1)
  else none

/-- The bridge that holds a request: a write as a posted one, any request behind an earlier one of its source (R412, R414). -/
def State.bridgeHolds (s : State) (req : Req) (write : Bool) (a : Nat) : Option Nat :=
  match bridgeOf req.ini a with
  | some n => if (write && s.rangePosted n a) || s.sourceHeld n req then some n else none
  | none => none

/-- A request that bridge `n` holds: a posted write is buffered, and answered, where there is room and none waits before it. -/
def State.bridgeHold (s : State) (n : Nat) (i : BridgeItem) : State :=
  let q := (s.weir n).queue
  if i.posted && Nat.blt (s.buffered n) 32 && !(q.any fun j => j.posted && !j.inside) then
    (s.setBridgeQueue n (q ++ [{ i with inside := true }])).answer .okay []
  else s.setBridgeQueue n (q ++ [i])

/-- A request of `width` bytes that passes no bridge, or one that does not hold it, goes on with `go`; a held one waits; one that
its initiator does not issue now does nothing; and one that lost a flit on a faulty link gets RESP = LINK
(11_memory_and_bandwidth R322).  A debug module that is not connected reaches no bridge (R407). -/
def State.passBridge (s : State) (req : Req) (a width : Nat) (data : Option Word) (taken : Bool) (go : State → State) : State :=
  let s1 := s.relabel req
  if s.mute req.ini then s
  else if s.linkLost.contains req.ini then (s1.linkEnd req.ini).answer .link (if data.isSome then [] else List.replicate 4 0#8)
  else
    match s.bridgeHolds req data.isSome a with
    | some n =>
      if decide (req.ini = .debugModule) && !s.debugOn then s1.answer .decode (if data.isSome then [] else List.replicate 4 0#8)
      else s1.bridgeHold n { req := s.issued req, addr := a, width, data, posted := data.isSome && s.rangePosted n a, inside := false,
                             since := s.tb.elapsed, taken }
    | none => go s1

/-- The initiator issues requests, no bridge holds this one, and no link has lost it. -/
def State.straight (s : State) (req : Req) (write : Bool) (a : Nat) : Bool :=
  !(s.mute req.ini) && !(s.linkLost.contains req.ini) && (s.bridgeHolds req write a).isNone

/-! ## Accesses to registers -/

/-- A write of `w` to the register at `a` that has the effect `eff` where it is admitted. -/
def State.busWrite (s : State) (req : Req) (a : Nat) (w : Word) (eff : State → State) : State :=
  s.passBridge req a 4 (some w) true fun s1 =>
    match s1.regCheck (s.issued req) .write a 4 with
    | (.okay, s2) => (eff s2).answer .okay []
    | (e, s2) => s2.answer e []

/-- A read of the register at `a` that returns `val` and has the effect `eff` where it is admitted; a refused read returns
zero data. -/
def State.busRead (s : State) (req : Req) (a : Nat) (val : State → Word) (eff : State → State) : State :=
  s.passBridge req a 4 none true fun s1 =>
    match s1.regCheck (s.issued req) .read a 4 with
    | (.okay, s2) => (eff s2).answerWord (val s2)
    | (e, s2) => s2.answer e (List.replicate 4 0#8)

/-- The lock bit of the RWL fields of the register at `a` (R11, R392, R501): group locks, DIS_LOCK and LOCK. -/
def State.locked (s : State) (a : Nat) : Bool :=
  let group (g : Nat) := bitAt (s.reg (Reg.WGD_LOCK (g / 32))).toNat (g % 32)
  if inRange a (Reg.WGD_OWN 0) (Reg.WGD_OWN 64) then group (Config.lockGroup ((a - Reg.WGD_OWN 0) / 4))
  else if Nat.beq a Reg.WGD_IMSIC_OWN then group 0
  else if Nat.beq a Reg.WGD_DBG then s.flag Reg.WGD_DBG Fld.WGD_DBG_LOCK
  else if Nat.beq a Reg.THM_SURGE then s.flag Reg.THM_SURGE Fld.THM_SURGE_DIS_LOCK
  else false

/-- A write by the access types of the fields alone; a reserved enumerated value is recorded (R11, R14). -/
def State.plainWrite (s : State) (a : Nat) (w : Word) : State :=
  let fs := regFields a
  let s1 := if reservedValue fs w then s.cfgErr a else s
  s1.setReg a (writeFields fs (s1.reg a) w (s1.locked a))

/-- The effect of a read on a register: read-to-clear fields are cleared (R11). -/
def State.clearRead (s : State) (a : Nat) : State := s.setReg a (readFields (regFields a) (s.reg a))

/-- The read of a register whose read-to-clear fields count something. -/
def State.readClear (s : State) (req : Req) (a : Nat) : State := s.busRead req a (·.reg a) (·.clearRead a)

end Sys2Proof.Machine
end

