-- ==== Sys2Proof/Machine/Log.lean ====
section
/-!
DEFINITION. The firmware log: the ring of log and trace records (17_boot_and_firmware R484 to R487).
-/

namespace Sys2Proof.Machine

open Host (Outcome)

/-- A log or trace record before it has its time and SEQ (R485). -/
structure LogRecord where
  proc  : Nat
  trace : Bool
  level : Nat
  ctx   : Nat
  code  : Nat
  jobNo : Nat
  tag   : Nat
  args  : List Nat
  deriving DecidableEq, Repr

/-- The 64 bytes of a record (R485). -/
def LogRecord.bytes (r : LogRecord) (t seq : Nat) : List Byte :=
  leBytes 4 t ++ leBytes 4 seq ++ leBytes 1 r.proc ++ leBytes 1 r.trace.toNat ++ leBytes 1 r.level ++ leBytes 1 r.ctx ++
    leBytes 2 r.code ++ leBytes 2 0 ++ leBytes 4 r.jobNo ++ leBytes 4 r.tag ++
    ((List.range 10).map fun i => leBytes 4 ((r.args[i]?).getD 0)).flatten

/-- A trace point is enabled: below 226 and its mask bit is 1 (R487). -/
def State.traceOn (s : State) (n : Nat) : Bool :=
  Nat.blt n 226 && bitAt (s.reg (Reg.FWL_TRACE (n / 32))).toNat (n % 32)

/-- The log ring's IOVA. -/
def State.logBase (s : State) : Nat :=
  s.fld Reg.FWL_LOG_BASE_HI Fld.FWL_LOG_BASE_HI_ADDR_HI * 2 ^ 32 +
    s.fld Reg.FWL_LOG_BASE_LO Fld.FWL_LOG_BASE_LO_ADDR_LO * 64

/-- A record is produced: filtered, dropped and counted on a full ring, or written before TAIL advances (R484).  A trace
record whose point is off is not produced. -/
def State.log (s : State) (r : LogRecord) : State :=
  if r.trace && !(s.traceOn r.code) then s
  else
    let s1 := { s with fwlSeq := s.fwlSeq + 1 }
    let cfg := Reg.FWL_LOG_CFG
    let size := 2 ^ s.fld cfg Fld.FWL_LOG_CFG_LOG2
    let tail := s.fld Reg.FWL_LOG_TAIL Fld.FWL_LOG_TAIL_TAIL
    if !(s.flag cfg Fld.FWL_LOG_CFG_EN) || (!r.trace && Nat.blt r.level (s.fld cfg Fld.FWL_LOG_CFG_MINLVL)) ||
        (Nat.beq r.proc 11 && !(s.flag cfg Fld.FWL_LOG_CFG_HEATH_EN)) then s1
    else if Nat.beq ((tail + 1) % size) (s.fld Reg.FWL_LOG_HEAD Fld.FWL_LOG_HEAD_HEAD) then
      s1.count Reg.FWL_LOG_LOST Fld.FWL_LOG_LOST_LOST 1
    else
      let req := s1.unitReq .firmwareLog (s.ctx 0).classDef 0
      ((s1.put req (s.logBase + tail * 64) (r.bytes s.short (s.fwlSeq % 2 ^ 32))).2).setFld Reg.FWL_LOG_TAIL
        Fld.FWL_LOG_TAIL_TAIL ((tail + 1) % size)

/-- A log record of Miller, a cluster core or the hardware, with LEVEL and arguments of R486. -/
def logRecord (proc level ctx code jobNo tag : Nat) (args : List Nat) : LogRecord :=
  { proc, trace := false, level, ctx, code, jobNo, tag, args }

/-- A trace record of the hardware (R487). -/
def traceRecord (code tag : Nat) (args : List Nat) : LogRecord :=
  { proc := 0x10, trace := true, level := 0, ctx := 0xFF, code, jobNo := 0, tag, args }

/-- FWL_RECORD: a log or trace record of a firmware processor or unit. -/
def execFwlRecord (proc : Byte) (trace : Bool) (level : Fin 3) (ctx : Byte) (code : BitVec 16) (jobNo : Word) (tag : Word)
    (args : Vector Word 10) (s : State) : Outcome State Fault Refusal :=
  .next (s.log { proc := proc.toNat, trace, level, ctx := ctx.toNat, code := code.toNat, jobNo := jobNo.toNat,
                 tag := tag.toNat, args := args.toList.map (·.toNat) })

/-- A write of FWL_LOG_CFG (R487): LOG2 is ignored while EN = 1, HEATH_EN is written only with W = 1, software not holding
CTX0 writes HEATH_EN alone, and EN = 1 sets HEAD and TAIL to 0. -/
def State.writeLogCfg (s : State) (req : Req) (w : Word) : State :=
  let a := Reg.FWL_LOG_CFG
  let old := s.reg a
  let keepHeath := if req.w then w else Fld.FWL_LOG_CFG_HEATH_EN.put w (Fld.FWL_LOG_CFG_HEATH_EN.get old)
  if fromAc req then
    let w1 := if s.flag a Fld.FWL_LOG_CFG_EN then Fld.FWL_LOG_CFG_LOG2.put keepHeath (Fld.FWL_LOG_CFG_LOG2.get old)
      else keepHeath
    let s1 := s.plainWrite a w1
    if Nat.beq (Fld.FWL_LOG_CFG_EN.get w) 1 then
      (s1.setReg Reg.FWL_LOG_HEAD 0#32).setReg Reg.FWL_LOG_TAIL 0#32
    else s1
  else s.setReg a (Fld.FWL_LOG_CFG_HEATH_EN.put old (Fld.FWL_LOG_CFG_HEATH_EN.get keepHeath))

/-- FWL_ENABLE -/
def execFwlEnable (req : Req) (value : Word) (s : State) : Outcome State Fault Refusal :=
  .next (s.busWrite req Reg.FWL_LOG_CFG value (·.writeLogCfg (s.issued req) value))

/-- FWL_LOG_LOST_READ -/
def execFwlLogLostRead (req : Req) (s : State) : Outcome State Fault Refusal := .next (s.readClear req Reg.FWL_LOG_LOST)

/-- FWL_WDT_READ -/
def execFwlWdtRead (proc : Fin 12) (req : Req) (s : State) : Outcome State Fault Refusal :=
  .next (s.readClear req (Reg.FWL_WDT proc))

/-- A write of FWL_TRACEk (R487): the bits of points 192 to 223 are written only with W = 1. -/
def State.writeTrace (s : State) (req : Req) (k : Nat) (w : Word) : State :=
  if Nat.beq k 6 && !req.w then s else s.plainWrite (Reg.FWL_TRACE k) w

end Sys2Proof.Machine
end

