-- ==== Sys2Proof/Machine/Contexts.lean ====
section
/-!
DEFINITION. Contexts, their rings and what Miller writes back: completion entries, events, fences and interrupts, and the
doorbell page (07_control_plane R173 to R198).
-/

namespace Sys2Proof.Machine

open Host (Outcome)

/-! ## Status codes (R198) -/

def stOk : Nat := 0x00
def stOkLate : Nat := 0x01
def stOkCarried : Nat := 0x02
def stFormat : Nat := 0x10
def stShape : Nat := 0x11
def stDuration : Nat := 0x12
def stModel : Nat := 0x13
def stSignature : Nat := 0x14
def stReleasePast : Nat := 0x15
def stCheck : Nat := 0x20
def stMemUe : Nat := 0x21
def stTranslation : Nat := 0x22
def stWatchdog : Nat := 0x23
def stEngineReset : Nat := 0x24
def stAbortReset : Nat := 0x30
def stAbortEvicted : Nat := 0x31

/-- DETAIL where nothing is named (R194). -/
def noDetail : Nat := 0xFFFF

/-- The status of a failed read or write (R174, R531, R532). -/
def faultOf : Resp → Nat
  | .ue | .link => stMemUe
  | _ => stTranslation

/-! ## Miller and the contexts -/

/-- Miller processes rings: STATE = RUNNING (R204, R205). -/
def State.millerRuns (s : State) : Bool := Nat.beq (s.fld Reg.TCX_FW_STATUS Fld.TCX_FW_STATUS_STATE) 3

/-- Context `n` is ACTIVE. -/
def State.isActive (s : State) (n : Nat) : Bool := decide ((s.ctx n).status = .active)

/-- A request of Miller in the name of context `n` under its default class. -/
def State.millerReq (s : State) (n : Nat) : Req := s.unitReq .miller (s.ctx n).classDef n

/-- Context `n` changes its state, and TCX_CTX_ACTIVE with it (R173, R204). -/
def State.setStatus (s : State) (n : Nat) (st : CtxStatus) : State :=
  let s1 := s.setCtx n { s.ctx n with status := st }
  let old := s1.reg Reg.TCX_CTX_ACTIVE
  s1.setReg Reg.TCX_CTX_ACTIVE
    (Fld.put ⟨n % 32, n % 32⟩ old (match st with | .free => 0 | .active | .halted => 1))

/-! ## Events (R197) -/

def evStarved : Nat := 0x0001
def evHalted : Nat := 0x0002

/-- An event is posted: a repeat of one that is pending adds 1 to its count. -/
def State.postEvent (s : State) (code n : Nat) : State :=
  if s.events.any fun e => Nat.beq e.code code && Nat.beq e.ctx n then
    { s with events := s.events.map fun (e : CtxEvent) =>
      if Nat.beq e.code code && Nat.beq e.ctx n then { e with count := min (e.count + 1) (2 ^ 32 - 1) } else e }
  else { s with events := s.events ++ [{ code, ctx := n, count := 0 }] }

/-- Context `n` enters HALTED (R174); CTX0 stays ACTIVE (R173). -/
def State.halt (s : State) (n : Nat) : State :=
  if s.isActive n && !(Nat.beq n 0) then (s.setStatus n .halted).postEvent evHalted n else s

/-! ## Completion entries (R194, R195) -/

/-- The 32 bytes of a completion entry. -/
def CqEntry.bytes (e : CqEntry) (phase : Bool) : List Byte :=
  leBytes 4 e.userTag ++ leBytes 1 e.status ++ leBytes 1 e.fx ++ leBytes 1 (phase.toNat + 2 * e.event.toNat) ++
    leBytes 1 e.ring ++ leBytes 2 e.sqIndex ++ leBytes 2 e.detail ++ leBytes 4 e.result ++ leBytes 4 e.tRel ++
    leBytes 4 e.tStart ++ leBytes 4 e.tEnd ++ leBytes 4 e.jobNo

/-- The ring after one entry: the index wraps and the phase then changes. -/
def CqRing.next (q : CqRing) : CqRing :=
  if Nat.ble (2 ^ q.log2) (q.idx + 1) then { q with idx := 0, phase := !q.phase } else { q with idx := q.idx + 1 }

/-- A completion entry is written whole to a ring under a request. -/
def State.cqPut (s : State) (req : Req) (q : CqRing) (e : CqEntry) : Resp × State :=
  s.put req (q.base + q.idx * 32) (e.bytes q.phase)

/-- Miller writes a completion entry of context `n`, and whether it became visible; a failed write drops it and halts the
context (R174). -/
def State.cqWrite (s : State) (n : Nat) (e : CqEntry) : Bool × State :=
  let q := (s.ctx n).cq
  match s.cqPut (s.millerReq n) q e with
  | (.okay, s1) =>
    let c := s1.ctx n
    (true, (s1.setCtx n { c with cq := q.next, unread := c.unread + 1 }).setFld (Reg.DB_CQ_TAIL n) Fld.DB_CQ_TAIL_TAIL
      q.next.idx)
  | (_, s1) => (false, s1.halt n)

/-- The MSI of context `n` (R196). -/
def State.ctxMsi (s : State) (n : Nat) : State := s.sendMsi .miller n (s.ctx n).msiAddr (s.ctx n).msiData

/-- Events are written while CTX0's completion ring has room, each with an MSI (R182, R197); `fuel` bounds them. -/
def State.writeEvents (s : State) : Nat → State
  | 0 => s
  | fuel + 1 =>
    match s.events with
    | [] => s
    | ev :: rest =>
      let c := s.ctx 0
      if decide (c.status = .active) && Nat.blt (c.reserved + c.unread) (2 ^ c.cq.log2) then
        let r := { s with events := rest }.cqWrite 0
          { userTag := ev.code, status := 0, fx := 0, event := true, ring := 0, sqIndex := 0, detail := ev.ctx,
            result := ev.count, tRel := 0, tStart := 0, tEnd := 0, jobNo := 0 }
        (if r.1 then r.2.ctxMsi 0 else r.2).writeEvents fuel
      else s

/-! ## Fences (R192) -/

/-- The value of fence `f` of a list of fences. -/
def fenceOf (fences : List (Nat × Nat)) (f : Nat) : Nat := SMap.get (fun _ => 0) fences f

/-- Fence `f` of context `n` rises to `v`, and its mirror in the fence page is written. -/
def State.raiseFence (s : State) (n f v : Nat) : State :=
  let c := s.ctx n
  let v1 := max (fenceOf c.fences f) v
  let s1 := s.setCtx n { c with fences := SMap.set (fun _ => 0) c.fences f v1 }
  (s1.put (s1.millerReq n) (c.fenceBase + 8 * f) (leBytes 8 v1)).2

/-! ## Submission entries (R185) -/

def HeldEntry.kind (h : HeldEntry) : Nat := fieldAt h.bytes 0 1
def HeldEntry.flags (h : HeldEntry) : Nat := fieldAt h.bytes 1 1
def HeldEntry.cls (h : HeldEntry) : Nat := fieldAt h.bytes 2 1
def HeldEntry.userTag (h : HeldEntry) : Nat := fieldAt h.bytes 4 4

/-- The fence-in of an entry holds. -/
def HeldEntry.fenceHolds (h : HeldEntry) (fences : List (Nat × Nat)) : Bool :=
  !(bitAt h.flags 1) || Nat.ble (fieldAt h.bytes 8 8) (fenceOf fences (fieldAt h.bytes 24 2))

/-- How a piece of work ended. -/
structure Ending where
  status : Nat
  detail : Nat := 0
  result : Nat := 0
  fx     : Nat := 0
  tStart : Nat := 0
  tEnd   : Nat := 0
  deriving DecidableEq, Repr

/-- A completion status that signals the fence-out (R192). -/
def signals (status : Nat) : Bool := Nat.beq status stOk || Nat.beq status stOkLate || Nat.beq status stOkCarried

/-- The completion entry of a submission entry of ring `r`. -/
def HeldEntry.cqe (h : HeldEntry) (r : Nat) (e : Ending) : CqEntry :=
  { userTag := h.userTag, status := e.status, fx := e.fx, event := false, ring := r, sqIndex := h.idx,
    detail := if Nat.blt e.status 0x10 && !(Nat.beq h.kind 0x24) then 0 else e.detail, result := e.result,
    tRel := (h.released.getD 0) % 2 ^ 32, tStart := e.tStart % 2 ^ 32, tEnd := e.tEnd % 2 ^ 32,
    jobNo := h.jobNo % 2 ^ 32 }

/-- An entry of ring `r` of context `n` ends: its completion entry takes the place reserved for it, then its fence-out is
signalled, then its MSI is sent (R192, R194 to R196).  An abort of a context that is HALTED is dropped (R176). -/
def State.endEntry (s : State) (n r : Nat) (h : HeldEntry) (e : Ending) : State :=
  let c := s.ctx n
  let s0 := s.setCtx n { c with reserved := c.reserved - 1 }
  if !(s.isActive n) && (Nat.beq e.status stAbortReset || Nat.beq e.status stAbortEvicted) then s0
  else
  match s0.cqWrite n (h.cqe r e) with
  | (false, s1) => s1
  | (true, s1) =>
    let s2 := if signals e.status && bitAt h.flags 2 then
        s1.raiseFence n (fieldAt h.bytes 26 2) (fieldAt h.bytes 16 8) else s1
    if bitAt h.flags 0 then s2.ctxMsi n else s2

/-- Miller is off or held: it ignores doorbell writes (R482). -/
def State.millerOff (s : State) : Bool := Nat.beq (s.fld Reg.TCX_FW_STATUS Fld.TCX_FW_STATUS_STATE) 0

/-! ## The doorbell page (R183, R184) -/

/-- An ignored write of the doorbell page is counted. -/
def State.dbIgnored (s : State) (n : Nat) : State := s.count (Reg.DB_ERR n) Fld.DB_ERR_IGNORED 1

/-- A write of DB_SQ_TAILr: new entries become valid, or the write is ignored and counted. -/
def State.writeSqTail (s : State) (n r : Nat) (w : Word) : State :=
  let c := s.ctx n
  let v := Fld.DB_SQ_TAIL_TAIL.get w
  if !s.millerOff && s.isActive n && bitAt c.sqEn r && Nat.blt v (2 ^ c.sqLog2[Fin.ofNat 8 r]) then
    s.setFld (Reg.DB_SQ_TAIL n r) Fld.DB_SQ_TAIL_TAIL v
  else s.dbIgnored n

/-- A write of DB_CQ_HEAD: software has consumed the entries up to it.  With every written entry unconsumed in a full ring,
the tail's own index means that all are consumed (log entry 22). -/
def State.writeCqHead (s : State) (n : Nat) (w : Word) : State :=
  let c := s.ctx n
  let v := Fld.DB_CQ_HEAD_HEAD.get w
  let size := 2 ^ c.cq.log2
  let head := s.fld (Reg.DB_CQ_HEAD n) Fld.DB_CQ_HEAD_HEAD
  let d := if Nat.beq v c.cq.idx then c.unread else (v + size - head) % size
  if s.millerOff || decide (c.status = .free) || Nat.ble size v || Nat.blt c.unread d then s.dbIgnored n
  else (s.setCtx n { c with unread := c.unread - d }).setFld (Reg.DB_CQ_HEAD n) Fld.DB_CQ_HEAD_HEAD v

/-- DB_ERR_READ -/
def execDbErrRead (ctx : Fin 32) (req : Req) (s : State) : Outcome State Fault Refusal :=
  .next (s.readClear req (Reg.DB_ERR ctx))

/-- Entries of ring `r` of context `n` that Miller has not read. -/
def State.unreadEntries (s : State) (n r : Nat) : Nat :=
  let size := 2 ^ (s.ctx n).sqLog2[Fin.ofNat 8 r]
  (s.fld (Reg.DB_SQ_TAIL n r) Fld.DB_SQ_TAIL_TAIL + size - s.fld (Reg.DB_SQ_HEAD n r) Fld.DB_SQ_HEAD_HEAD) % size

/-- The held entries of a ring. -/
def Ctx.heldOf (c : Ctx) (r : Nat) : List HeldEntry := c.held[Fin.ofNat 8 r]

/-- A RING_FLUSH of ring `r` of context `n` has begun and waits (R176). -/
def State.flushing (s : State) (n r : Nat) : Bool :=
  (List.range 8).any fun q => ((s.ctx 0).heldOf q).any fun h =>
    h.started && Nat.beq h.kind 0x23 && Nat.beq (fieldAt h.bytes 32 1) n && Nat.beq (fieldAt h.bytes 33 1) r

/-- A completion entry can be reserved; CTX0 keeps one for events (R182). -/
def State.cqRoom (s : State) (n : Nat) : Bool :=
  let c := s.ctx n
  Nat.blt (c.reserved + c.unread + (if Nat.beq n 0 then 1 else 0)) (2 ^ c.cq.log2)

/-- Ring `r` of context `n` has an entry that Miller may read: one is there, and a completion entry can be reserved for it
(R182). -/
def State.readable (s : State) (n r : Nat) : Bool :=
  s.isActive n && bitAt (s.ctx n).sqEn r && Nat.blt 0 (s.unreadEntries n r) && s.cqRoom n && !(s.flushing n r)

/-- It is the turn of context `n`: Miller has not read one of its entries since every other context with one had its turn
(R233). -/
def State.hasTurn (s : State) (n : Nat) : Bool :=
  !(s.turn.contains n) || (List.range 32).all fun m => s.turn.contains m || !((List.range 8).any (s.readable m))

/-- Miller may read the next entry of ring `r` of context `n`: no release event waits for Miller, and it is the context's turn
(R182, R233). -/
def State.mayRead (s : State) (n r : Nat) : Bool :=
  s.millerRuns && s.readable n r && !(s.bus.any fun e => Nat.beq e.action 2) && s.hasTurn n

/-- Context `n` has had its turn. -/
def State.takeTurn (s : State) (n : Nat) : State := { s with turn := if s.turn.contains n then [n] else s.turn ++ [n] }

/-- The held entries of ring `r` of context `n` become `hs`. -/
def State.setHeld (s : State) (n r : Nat) (hs : List HeldEntry) : State :=
  let c := s.ctx n
  s.setCtx n { c with held := c.held.set (Fin.ofNat 8 r) hs }

/-- DB_SQ_HEAD of a ring moves past one entry. -/
def State.passEntry (s : State) (n r : Nat) : State :=
  let head := s.fld (Reg.DB_SQ_HEAD n r) Fld.DB_SQ_HEAD_HEAD
  s.setFld (Reg.DB_SQ_HEAD n r) Fld.DB_SQ_HEAD_HEAD ((head + 1) % 2 ^ (s.ctx n).sqLog2[Fin.ofNat 8 r])

end Sys2Proof.Machine
end

