-- ==== Sys2Proof/Machine/Arith.lean ====
section
/-!
DEFINITION. Arithmetic of the tensor engine: passes of the arrays (03_number_formats R72 to R78; 04_tensor_engine R90 to R94),
vector operations and reductions (R79, R105 to R107).
-/

namespace Sys2Proof.Machine

/-! ## Float operations (R79; IEEE 754-2019 binary32) -/

/-- A result that is rounded once into a lane format. -/
def roundLane (f : NumFmt) (rnd : Nat) (ovf : Bool) (q : Rat) : Val × Nat :=
  let c := f.toFloat (Val.ofRat q) rnd ovf
  (f.decode c.1, c.2)

/-- The sign of an exact zero sum: kept where both agree, else + except under RDN. -/
def zeroSign (n1 n2 : Bool) (rnd : Nat) : Bool := if n1 == n2 then n1 else Nat.beq rnd 2

/-- Addition. -/
def fAdd (f : NumFmt) (rnd : Nat) (ovf : Bool) (x y : Val) : Val × Nat :=
  match x, y with
  | .nan, _ | _, .nan => (.nan, fxNanIn)
  | .inf n, .inf k => if n == k then (.inf n, 0) else (.nan, fxInvalid)
  | .inf n, _ => (.inf n, 0)
  | _, .inf n => (.inf n, 0)
  | .fin n _, .fin k _ =>
    let q := x.q + y.q
    if q == 0 then (.fin (zeroSign n k rnd) 0, 0) else roundLane f rnd ovf q

/-- Multiplication. -/
def fMul (f : NumFmt) (rnd : Nat) (ovf : Bool) (x y : Val) : Val × Nat :=
  let neg := x.neg.xor y.neg
  match x, y with
  | .nan, _ | _, .nan => (.nan, fxNanIn)
  | .inf _, b => if b.isZero then (.nan, fxInvalid) else (.inf neg, 0)
  | a, .inf _ => if a.isZero then (.nan, fxInvalid) else (.inf neg, 0)
  | .fin _ a, .fin _ b => if a * b == 0 then (.fin neg 0, 0) else roundLane f rnd ovf (x.q * y.q)

/-- Fused multiply and add, with one rounding. -/
def fFma (f : NumFmt) (rnd : Nat) (ovf : Bool) (x y z : Val) : Val × Nat :=
  let neg := x.neg.xor y.neg
  if x.isNaN || y.isNaN || z.isNaN then (.nan, fxNanIn)
  else if x.isInf || y.isInf then
    if x.isZero || y.isZero || (z.isInf && !(z.neg == neg)) then (.nan, fxInvalid) else (.inf neg, 0)
  else if z.isInf then (z, 0)
  else
    let q := x.q * y.q + z.q
    if q == 0 then (.fin (zeroSign neg z.neg rnd) 0, 0) else roundLane f rnd ovf q

/-- Division (R106). -/
def fDiv (f : NumFmt) (rnd : Nat) (ovf : Bool) (x y : Val) : Val × Nat :=
  let neg := x.neg.xor y.neg
  match x, y with
  | .nan, _ | _, .nan => (.nan, fxNanIn)
  | .inf _, .inf _ => (.nan, fxInvalid)
  | .inf _, _ => (.inf neg, 0)
  | _, .inf _ => (.fin neg 0, 0)
  | .fin _ a, .fin _ b =>
    if b == 0 then (if a == 0 then (.nan, fxInvalid) else (.inf neg, 0))
    else if a == 0 then (.fin neg 0, 0)
    else roundLane f rnd ovf (x.q / y.q)

/-- A rational that rounds to FP32 as the square root of `x` does: the root to 100 bits or more, moved off a tie where it is
inexact. -/
def sqrtRat (x : Rat) : Rat :=
  let p := (100 - floorLog2 x / 2).toNat
  let n := x.num.toNat * 2 ^ (2 * p)
  let r := Nat.sqrt (n / x.den)
  if Nat.beq (r * r * x.den) n then (r : Rat) / (2 ^ p : Nat) else ((2 * r + 1 : Nat) : Rat) / (2 ^ (p + 1) : Nat)

/-- Square root (R106). -/
def fSqrt (f : NumFmt) (rnd : Nat) (ovf : Bool) (x : Val) : Val × Nat :=
  match x with
  | .nan => (.nan, fxNanIn)
  | .fin n m => if m == 0 then (x, 0) else if n then (.nan, fxInvalid) else roundLane f rnd ovf (sqrtRat m)
  | .inf n => if n then (.nan, fxInvalid) else (x, 0)

/-- x < y of two values that are not NaN. -/
def Val.lt : Val → Val → Bool
  | .inf true, y => !(decide (y = .inf true))
  | .inf false, _ => false
  | _, .inf n => !n
  | x, y => decide (x.q < y.q)

/-- The larger and the smaller of two values that are not NaN; +0 is above −0. -/
def Val.max (x y : Val) : Val := if x.lt y then y else if y.lt x then x else if x.neg then y else x
def Val.min (x y : Val) : Val := if x.lt y then x else if y.lt x then y else if x.neg then x else y

/-- |x|. -/
def Val.abs : Val → Val
  | .nan => .nan
  | .inf _ => .inf false
  | .fin _ m => .fin false m

/-! ## Approximate functions (R106; the results within the bounds are free values, log entry 20)

The bounds need the exact results.  These are held between two rationals, computed with 128 bits after the point from a series
each of whose steps is cut to that length; the margins below exceed what the cuts can add up to. -/

/-- log₂ e and ln 2 in units of 2⁻¹²⁸, to the nearest. -/
def log2eF : Nat := 490923683258796565746369346286093237522
def ln2F : Nat := 235865763225513294137944142764154484399

/-- The terms from the k-th on of the series of exp at z, in units of 2⁻¹²⁸; `t` is the term before. -/
def expTerms (z : Nat) : Nat → Nat → Nat → Nat
  | 0, _, _ => 0
  | n + 1, k, t => let u := t * z / 2 ^ 128 / k; u + expTerms z n (k + 1) u

/-- Bounds of 2 to the power y. -/
def exp2Bounds (y : Rat) : Rat × Rat :=
  if y < -1000 then (0, pow2 (-1000))
  else
    let k := y.floor
    let f := ((y - k) * (2 ^ 128 : Nat)).floor.toNat
    let e := 2 ^ 128 + expTerms (f * ln2F / 2 ^ 128) 40 1 (2 ^ 128)
    (((e - 2 ^ 20 : Nat) : Rat) * pow2 (k - 128), ((e + 2 ^ 20 : Nat) : Rat) * pow2 (k - 128))

/-- The terms of the series of the inverse hyperbolic tangent, in units of 2⁻¹²⁸: `p` is the power of t, `q` its square. -/
def atanhTerms (q : Nat) : Nat → Nat → Nat → Nat
  | 0, _, _ => 0
  | n + 1, k, p => p / (2 * k + 1) + atanhTerms q n (k + 1) (p * q / 2 ^ 128)

/-- Bounds of log₂ x of a positive x. -/
def log2Bounds (x : Rat) : Rat × Rat :=
  let e := floorLog2 x
  let m := x / pow2 e
  let t := ((m - 1) / (m + 1) * (2 ^ 128 : Nat)).floor.toNat
  let l : Nat := 2 * atanhTerms (t * t / 2 ^ 128) 45 0 t * log2eF / 2 ^ 128
  (e + ((l : Rat) - 2 ^ 12) * pow2 (-128), e + ((l : Rat) + 2 ^ 12) * pow2 (-128))

/-- Bounds of tanh m of a positive m. -/
def tanhBounds (m : Rat) : Rat × Rat :=
  if m < 1 / 4096 then
    let lo := m - m * m * m / 3
    (lo, lo + 2 * m * m * m * m * m / 15)
  else if 16 ≤ m then (1 - pow2 (-40), 1)
  else
    let b := exp2Bounds (2 * m * log2eF * pow2 (-128))
    ((b.1 - 1) / (b.1 + 1), (b.2 - 1) / (b.2 + 1))

/-- A unit in the last place of an FP32 result of magnitude m. -/
def ulp32 (m : Rat) : Rat := pow2 (Max.max (floorLog2 (if m == 0 then pow2 (-126) else m)) (-126) - 23)

/-- The result of an approximate function whose exact result lies between `lo` and `hi`: the free value where it is no further
off than `tol` of its magnitude allows, else the exact result rounded.  A result too large follows the overflow policy (R70). -/
def approxWithin (op : Nat) (ovf : Bool) (x : Val) (lo hi : Rat) (tol : Rat → Rat) : Val × Nat :=
  let r := fp32.toFloat (Val.ofRat ((lo + hi) / 2)) 0 ovf
  let rounded := (fp32.decode r.1, r.2)
  match fp32.decode (Config.approx op (fp32.toFloat x 0 false).1) with
  | .fin n m =>
    let q := (Val.fin n m).q
    if Nat.beq (r.2 &&& (fxOvfSat + fxOvfNan)) 0 && decide ((q - lo).abs ≤ tol m) && decide ((q - hi).abs ≤ tol m) then
      (.fin n m, if m == 0 && !(decide (lo ≤ 0) && decide (0 ≤ hi)) then fxUnderflow else 0)
    else rounded
  | _ => rounded

/-- An approximate function of a finite operand that is not 0, within its error (R106). -/
def approxFin (op : Nat) (ovf : Bool) (x : Val) : Val × Nat :=
  let ulps (n : Nat) (m : Rat) := n * ulp32 m
  let b (p : Rat × Rat) (tol : Rat → Rat) := approxWithin op ovf x p.1 p.2 tol
  match op with
  | 0x0A => b (exp2Bounds x.q) fun m => if m < pow2 (-126) then pow2 (-149) else ulps 2 m
  | 0x0B => b (log2Bounds x.q) fun m => if m < 1 / 2 then pow2 (-22) else ulps 2 m
  | 0x0C => b (1 / x.q, 1 / x.q) (ulps 1)
  | 0x0D => b (sqrtRat (1 / x.q), sqrtRat (1 / x.q)) (ulps 2)
  | _ => let t := tanhBounds x.q.abs; b (if x.neg then (-t.2, -t.1) else t) (ulps 2)

/-- The approximate function `op` with its special results. -/
def fApprox (op : Nat) (ovf : Bool) (x : Val) : Val × Nat :=
  let one : Val := .fin false 1
  match op, x with
  | _, .nan => (.nan, fxNanIn)
  | 0x0A, .inf n => (if n then .fin false 0 else x, 0)
  | 0x0A, .fin n m =>
    if m == 0 then (one, 0)
    else if !n && decide (128 ≤ m) then (let c := fp32.overflow false ovf; (fp32.decode c.1, c.2))
    else approxFin op ovf x
  | 0x0B, .inf n => if n then (.nan, fxInvalid) else (x, 0)
  | 0x0B, .fin n m => if m == 0 then (.inf true, 0) else if n then (.nan, fxInvalid) else approxFin op ovf x
  | 0x0C, .inf n => (.fin n 0, 0)
  | 0x0C, .fin n m => if m == 0 then (.inf n, 0) else approxFin op ovf x
  | 0x0D, .inf n => if n then (.nan, fxInvalid) else (.fin false 0, 0)
  | 0x0D, .fin n m => if m == 0 then (.inf n, 0) else if n then (.nan, fxInvalid) else approxFin op ovf x
  | _, .inf n => (.fin n 1, 0)
  | _, .fin _ m => if m == 0 then (x, 0) else approxFin op ovf x

/-- Groups of `k` of a list, `n` of them. -/
def groups {α : Type} (k : Nat) : Nat → List α → List (List α)
  | 0, _ => []
  | n + 1, xs => xs.take k :: groups k n (xs.drop k)

/-! ## Lanes (R104, R105) -/

/-- The format and the number of lanes of a vector. -/
def laneFmt : Nat → NumFmt
  | 0 => fp32
  | 1 => bf16
  | 2 => int16
  | _ => int32

/-- The format code of a lane format. -/
def laneCode : Nat → Nat
  | 0 => 0x00
  | 1 => 0x02
  | 2 => 0x11
  | _ => 0x10

def laneCount (lane : Nat) : Nat := if Nat.beq lane 0 || Nat.beq lane 3 then 64 else 128

/-- A lane format of floats. -/
def laneFloat (lane : Nat) : Bool := Nat.blt lane 2

/-- A lane operation on three operand codes: the code of the result and the flags. -/
def laneOp (op lane rnd : Nat) (ovf : Bool) (a b c : Nat) : Nat × Nat :=
  let f := laneFmt lane
  let w := f.bits
  let x := f.decode a
  let y := f.decode b
  let z := f.decode c
  if f.float then
    let out (r : Val × Nat) : Nat × Nat := ((f.toFloat r.1 0 false).1, r.2)
    let nan2 := x.isNaN || y.isNaN
    match op with
    | 0x00 => out (fAdd f rnd ovf x y)
    | 0x01 => out (fAdd f rnd ovf x y.flip)
    | 0x02 => out (fMul f rnd ovf x y)
    | 0x03 => out (fFma f rnd ovf x y z)
    | 0x04 => out (if nan2 then (.nan, fxNanIn) else (x.max y, 0))
    | 0x05 => out (if nan2 then (.nan, fxNanIn) else (x.min y, 0))
    | 0x06 => out (x.abs, if x.isNaN then fxNanIn else 0)
    | 0x07 => out (x.flip, if x.isNaN then fxNanIn else 0)
    | 0x08 => out (fDiv f rnd ovf x y)
    | 0x09 => out (fSqrt f rnd ovf x)
    | 0x10 => out (if nan2 then (.fin false 0, fxNanIn) else (.fin false (if x.lt y then 1 else 0), 0))
    | 0x11 => out (if z.isZero then y else x, if nan2 || z.isNaN then fxNanIn else 0)
    | _ => out (fApprox op ovf x)
  else
    let i := signedOf w a
    let j := signedOf w b
    let bit (r : Nat) : Nat × Nat := (r % 2 ^ w, 0)
    match op with
    | 0x00 => f.saturate (i + j)
    | 0x01 => f.saturate (i - j)
    | 0x02 => f.saturate (i * j)
    | 0x04 => f.saturate (max i j)
    | 0x05 => f.saturate (min i j)
    | 0x06 => f.saturate i.natAbs
    | 0x07 => f.saturate (-i)
    | 0x10 => bit (if i < j then 1 else 0)
    | 0x11 => bit (if Nat.beq c 0 then b else a)
    | 0x12 => bit (a &&& b)
    | 0x13 => bit (a ||| b)
    | 0x14 => bit (a.xor b)
    | 0x15 => bit (a * 2 ^ (b % w))
    | _ => bit (unsignedOf w (i / 2 ^ (b % w)))

/-- A lane operation on vectors of codes. -/
def laneOps (op lane rnd : Nat) (ovf : Bool) : List Nat → List Nat → List Nat → List Nat × Nat
  | a :: as, bs, cs =>
    let r := laneOp op lane rnd ovf a (bs.headD 0) (cs.headD 0)
    let rs := laneOps op lane rnd ovf as bs.tail cs.tail
    (r.1 :: rs.1, r.2 ||| rs.2)
  | [], _, _ => ([], 0)

/-- The lane formats an operation allows (R105). -/
def laneAllowed (op lane : Nat) : Bool :=
  if Nat.beq op 0x03 then Nat.blt lane 2
  else if Nat.ble 0x08 op && Nat.ble op 0x0E then Nat.beq lane 0
  else if Nat.ble 0x12 op && Nat.ble op 0x16 then Nat.ble 2 lane
  else if Nat.beq op 0x19 then !(Nat.beq lane 1)
  else Nat.ble op 0x18

/-- The operation reads operand B, or operand C. -/
def readsB (op : Nat) : Bool :=
  Nat.ble op 0x05 || Nat.beq op 0x08 || (Nat.ble 0x10 op && Nat.ble op 0x16)
def readsC (op : Nat) : Bool := Nat.beq op 0x03 || Nat.beq op 0x11

/-! ## Reductions (R107) -/

/-- One level of the pairwise tree. -/
def treeLevel (add : Val → Val → Val × Nat) : List Val → List Val × Nat
  | x :: y :: r =>
    let s := add x y
    let t := treeLevel add r
    (s.1 :: t.1, s.2 ||| t.2)
  | r => (r, 0)

/-- The pairwise tree; `n` bounds its levels. -/
def treeSum (add : Val → Val → Val × Nat) : Nat → List Val → Val × Nat
  | 0, xs => (xs.headD (.fin false 0), 0)
  | n + 1, xs =>
    let l := treeLevel add xs
    let r := treeSum add n l.1
    (r.1, l.2 ||| r.2)

/-- Values added in ascending order. -/
def chainSum (add : Val → Val → Val × Nat) : List Val → Val × Nat
  | [] => (.fin false 0, 0)
  | x :: xs => xs.foldl (fun a y => let r := add a.1 y; (r.1, a.2 ||| r.2)) (x, 0)

/-- A reduction's addition: FP32 with RNE, or saturating INT32. -/
def redAdd (float ovf : Bool) (x y : Val) : Val × Nat :=
  if float then fAdd fp32 0 ovf x y else let c := int32.saturate (x.q + y.q).num; (int32.decode c.1, c.2)

/-- A reduction's square. -/
def redSquare (float ovf : Bool) (x : Val) : Val × Nat :=
  if float then fMul fp32 0 ovf x x else let c := int32.saturate (x.q * x.q).num; (int32.decode c.1, c.2)

/-- The first index of the maximum, or of the first NaN. -/
def argMax (xs : List Val) : Nat :=
  match xs.findIdx? Val.isNaN with
  | some i => i
  | none =>
    match xs with
    | [] => 0
    | x :: r =>
      let m := r.foldl Val.max x
      (xs.findIdx? fun y => y.q == m.q && y.isFin == m.isFin && y.neg == m.neg).getD 0

/-- A reduction of values, across lanes (a tree) or across vectors (a chain): the 32-bit result and the flags. -/
def reduce (kind : VredKind) (float ovf tree : Bool) (xs : List Val) : Nat × Nat :=
  let out := if float then fp32 else int32
  let nanFx := if xs.any Val.isNaN then fxNanIn else 0
  let sum (ys : List Val) := if tree then treeSum (redAdd float ovf) 7 ys else chainSum (redAdd float ovf) ys
  let pick (f : Val → Val → Val) (ys : List Val) : Val :=
    if ys.any Val.isNaN then .nan else match ys with | [] => .fin false 0 | y :: r => r.foldl f y
  let code (v : Val) (fx : Nat) : Nat × Nat := let c := out.convert v 0 false; (c.1, (c.2 &&& fxIntSat) ||| fx ||| nanFx)
  match kind with
  | .sum => let r := sum xs; code r.1 r.2
  | .sumsq =>
    let sq := xs.map (redSquare float ovf)
    let r := sum (sq.map (·.1))
    code r.1 (sq.foldl (fun a p => a ||| p.2) r.2)
  | .max => code (pick Val.max xs) 0
  | .min => code (pick Val.min xs) 0
  | .amax => code (pick Val.max (xs.map Val.abs)) 0
  | .argmax => (argMax xs, nanFx)

/-! ## Passes (R72 to R78, R90, R93) -/

/-- The path of an operand pair (R73); none for a pair the arrays refuse (R74). -/
inductive PassPath where
  | exact
  | wide
  deriving DecidableEq, Repr

/-- An array operand: an element format of a scale kind (R74). -/
def arrayOperand (fmt kind : Nat) : Bool :=
  scaleAllows kind fmt && !(Nat.beq fmt 0x00) && !(Nat.beq fmt 0x10) && !(Nat.beq fmt 0x11)

/-- An unscaled integer operand. -/
def plainInt (fmt kind : Nat) : Bool := Nat.ble 0x12 fmt && Nat.beq kind 0

/-- The path of a pair of weight and activation formats with their scale kinds. -/
def passPath (wf wk af ak : Nat) : Option PassPath :=
  if !(arrayOperand wf wk) || !(arrayOperand af ak) then none
  else if narrow wf && narrow af then if Nat.beq wf 0x05 && Nat.beq af 0x05 then none else some .exact
  else if Nat.beq wk 0 && Nat.beq ak 0 then some .wide
  else none

/-- What a pass finds of special values in a column, its operands taken with their block scales (R66, R78): the special result
and the flags; none where it is finite. -/
def passSpecial (ps : List (Val × Val)) : Option (Val × Nat) :=
  let nanIn := ps.any fun p => p.1.isNaN || p.2.isNaN
  let zeroInf := ps.any fun p => (p.1.isInf && p.2.isZero) || (p.1.isZero && p.2.isInf)
  let infs := ps.filter fun p => (p.1.isInf && !p.2.isZero && !p.2.isNaN) || (p.2.isInf && !p.1.isZero && !p.1.isNaN)
  let pos := infs.any fun p => p.1.neg == p.2.neg
  let neg := infs.any fun p => !(p.1.neg == p.2.neg)
  let fx := (if nanIn then fxNanIn else 0) ||| (if zeroInf || (pos && neg) then fxInvalid else 0)
  if nanIn || zeroInf || (pos && neg) then some (.nan, fx)
  else if pos || neg then some (.inf neg, 0)
  else none

/-- The sum of the products of a column, as a rational. -/
def dot (ps : List (Val × Val)) : Rat := ps.foldl (fun a p => a + p.1.q * p.2.q) 0

/-- A rational truncated toward zero to a multiple of `unit`. -/
def truncTo (unit x : Rat) : Rat := (rint (x / unit) 1 : Int) * unit

/-- The sum of the terms of a pass on the wide path (R77): the largest sets the unit to which all are truncated. -/
def wideSum (terms : List Rat) : Rat :=
  let big := terms.foldl (fun a t => if a < t.abs then t.abs else a) 0
  if big == 0 then 0
  else
    let unit := pow2 (floorLog2 big - 31)
    terms.foldl (fun a t => a + truncTo unit t) 0

/-- The operand pairs of a column with their block scales `ws` and `as_`. -/
def scaledPairs (ws as_ : Val) (ps : List (Val × Val)) : List (Val × Val) := ps.map fun p => (p.1.times ws, p.2.times as_)

/-- A pass of one column into an FP32 partial sum; `extra` is what a fault adds to the column's sum, 0 without one (R75, R77,
R78). -/
def passFloat (path : PassPath) (ovf : Bool) (ps : List (Val × Val)) (ws as_ : Val) (extra : Rat) (prev : Val) : Val × Nat :=
  match passSpecial (scaledPairs ws as_ ps) with
  | some (v, fx) =>
    let r := fAdd fp32 0 ovf v prev
    (r.1, fx ||| (if v.isNaN || prev.isNaN then 0 else r.2))
  | none =>
    match prev with
    | .fin _ _ =>
      match path with
      | .exact => toFp32 (Val.ofRat ((dot ps + extra) * (ws.q * as_.q) + prev.q)) ovf
      | .wide => toFp32 (Val.ofRat (wideSum (prev.q :: ps.map fun p => p.1.q * p.2.q) + extra)) ovf
    | p => (p, 0)

/-- A pass of one column into an INT32 partial sum (R76). -/
def passInt (ps : List (Val × Val)) (extra : Rat) (prev : Val) : Val × Nat :=
  let c := int32.saturate ((dot ps + extra).floor + prev.q.num)
  (int32.decode c.1, c.2)

/-! ## Checksums (04_tensor_engine R112 to R114) -/

/-- The checksum weight of a row of weights on the exact path: their sum, in units of the format's least significant bit. -/
def rowSum (f : NumFmt) (codes : List Nat) : Int := codes.foldl (fun a c => a + f.units c) 0

/-- The checksum weight and the magnitude sum of a row on the wide path, each rounded once to FP32. -/
def rowSumWide (f : NumFmt) (codes : List Nat) : Rat × Rat :=
  let xs := codes.map fun c => (f.decode c).q
  ((toFp32 (Val.ofRat (xs.foldl (· + ·) 0)) false).1.q, (toFp32 (Val.ofRat (xs.foldl (fun a x => a + x.abs) 0)) false).1.q)

/-- The remainder of an integer by 7, from 0 to 6. -/
def mod7 (x : Int) : Int := x % 7

/-- The residue that a tree forms over the pairs of a column (R113). -/
def residue (ps : List (Int × Int)) : Int := mod7 (ps.foldl (fun a p => a + mod7 p.1 * mod7 p.2) 0)

/-- The sum of products of integer pairs. -/
def dotInt (ps : List (Int × Int)) : Int := ps.foldl (fun a p => a + p.1 * p.2) 0

/-- The exact path's comparison of the checksum column with the sum of the columns (R113). -/
def sumsAgree (c s : Int) : Bool := c == s

/-- The wide path's comparison (R114); `zero` says that every column's sum is 0. -/
def sumsNear (c m s : Rat) (zero : Bool) : Bool :=
  if m == 0 then c == 0 && zero else decide ((c - s).abs ≤ m / 4096)

end Sys2Proof.Machine
end

