-- ==== Sys2Proof/Machine/TileCode.lean ====
section
/-!
DEFINITION. Tile commands as words: their encoding (04_tensor_engine R99, R103), the checks Miller makes at load and the engine
at decode (R100), and the ranges of engine memory and accumulator rows a command can touch (R101).
-/

namespace Sys2Proof.Machine

/-- A tile command without its header. -/
inductive TileOp where
  | nop
  | ldw (a : LdwArgs)
  | lda (a : LdaArgs)
  | mac (sparse : Bool) (a : MmaArgs)
  | vop (op : Nat) (a : VopArgs)
  | vred (kind : VredKind) (a : VredArgs)
  | qnt (a : QntArgs)
  | dqn (a : DqnArgs)
  | sto (a : StoArgs)
  | dma (a : DmaArgs)
  | wait (a : SemArgs)
  | sig (a : SemArgs)
  | fence (a : FenceArgs)
  | chkCrc (a : ChkArgs)
  | chkSelf
  | kvl (append : Bool) (a : KvlArgs)
  deriving DecidableEq, Repr

/-- The codes of OP (R105). -/
def vopCode : VopOp → Nat
  | .add => 0x00 | .sub => 0x01 | .mul => 0x02 | .fma => 0x03 | .max => 0x04 | .min => 0x05 | .abs => 0x06 | .neg => 0x07
  | .div => 0x08 | .sqrt => 0x09 | .exp2 => 0x0A | .log2 => 0x0B | .rcp => 0x0C | .rsqrt => 0x0D | .tanh => 0x0E
  | .cvt => 0x0F | .cmplt => 0x10 | .sel => 0x11 | .and => 0x12 | .or => 0x13 | .xor => 0x14 | .shl => 0x15 | .shr => 0x16
  | .trn => 0x17 | .cpy => 0x18 | .lds => 0x19

/-- The reduction of KIND (R107). -/
def vredOf : Nat → Option VredKind
  | 0 => some .sum | 1 => some .sumsq | 2 => some .max | 3 => some .min | 4 => some .amax | 5 => some .argmax | _ => none

/-- A field of `n` bits of the command word. -/
def tileField (w lo n : Nat) : BitVec n := BitVec.ofNat n (w / 2 ^ lo)

/-- Every bit from `lo` up to the end of the command is 0. -/
def zeroFrom (w lo : Nat) : Bool := Nat.beq (w / 2 ^ lo) 0

/-- The command a 128-bit word spells, if it has no reserved opcode and no non-zero reserved bit (R99, R103).  Fields with
reserved values are left to `TileOp.valid`.  DESIGN CHOICE, log entry 71: CHK of mode 0x1 takes any value of the fields SRC, NG
and EXP, which R103 gives mode 0x0. -/
def decodeTile (w : Nat) : Option (TileHdr × TileOp) :=
  let h : TileHdr := { tag := tileField w 24 8, arym := tileField w 20 4, sync := bitAt w 16 }
  let f := fun lo n => tileField w lo n
  let op : Option (TileOp × Nat) :=
    match w % 64 with
    | 0x00 => some (.nop, 32)
    | 0x01 => some (.ldw { src := f 32 17, fmt := f 49 5, scale := f 54 2, sparse := bitAt w 56, scl := f 57 17,
                           tstr := f 74 17 }, 91)
    | 0x02 => some (.lda { src := f 32 17, fmt := f 49 5, scale := f 54 2, vlen := bitAt w 56, m := f 57 16, scl := f 73 17,
                           pitch := f 90 16 }, 106)
    | 0x03 => some (.mac false { acc := f 32 12, astr := f 44 12, m := f 56 16, init := bitAt w 72, acct := bitAt w 73 }, 74)
    | 0x04 => some (.mac true { acc := f 32 12, astr := f 44 12, m := f 56 16, init := bitAt w 72, acct := bitAt w 73 }, 74)
    | 0x05 => some (.vop (bitsOf w 117 112)
        { dst := f 32 17, srca := f 49 17, srcb := f 66 17, srcc := f 83 17, n := f 100 12, lane := f 118 2, rnd := f 120 2,
          bsel := bitAt w 122, cfmt := f 123 5 }, 128)
    | 0x06 =>
      (vredOf (bitsOf w 84 82)).map fun k =>
        (.vred k { dst := f 32 17, src := f 49 17, n := f 66 16, axis := bitAt w 85, lane := f 86 2 }, 88)
    | 0x07 => some (.qnt { dst := f 32 17, src := f 49 17, scl := f 66 17, nb := f 83 16, dfmt := f 99 5, dscale := f 104 2,
                           rnd := f 106 2, sfmt := bitAt w 108 }, 109)
    | 0x08 => some (.dqn { dst := f 32 17, src := f 49 17, scl := f 66 17, nb := f 83 16, sfmt := f 99 5, sscale := f 104 2,
                           dfmt := f 106 2 }, 108)
    | 0x09 => some (.sto { acc := f 32 12, nr := f 44 12, dst := f 56 17, scl := f 73 17, dfmt := f 90 5, dscale := f 95 2,
                           rnd := f 97 2, clr := bitAt w 99, acct := bitAt w 100, dpitch := f 101 16 }, 117)
    | 0x0A => some (.dma { desc := f 32 17, ch := f 49 2 }, 51)
    | 0x0B => some (.wait { sem := f 32 5, n := f 37 16 }, 53)
    | 0x0C => some (.sig { sem := f 32 5, n := f 37 16 }, 53)
    | 0x0D => some (.fence { scope := f 32 2, rd := bitAt w 34 }, 35)
    | 0x0E =>
      match bitsOf w 33 32 with
      | 0 => some (.chkCrc { src := f 34 17, ng := f 51 16, exp := f 67 17 }, 84)
      | 1 => some (.chkSelf, 84)
      | _ => none
    | 0x0F => some (.kvl (bitAt w 69) { win := f 32 2, seq := f 34 12, ntok := f 46 23 }, 70)
    | _ => none
  if Nat.beq (bitsOf w 19 17) 0 && Nat.beq (bitsOf w 15 6) 0 then
    match op with
    | some (o, top) => if zeroFrom w top then some (h, o) else none
    | none => none
  else none

/-! ## Areas of engine memory (R101) -/

/-- A range of engine memory, in bytes: start, end, whether the command writes it. -/
structure Area where
  lo    : Nat
  hi    : Nat
  write : Bool
  deriving DecidableEq, Repr

/-- A range read or written from granule `g` on. -/
def rangeOf (g bytes : Nat) (write : Bool) : List Area :=
  if Nat.beq bytes 0 then [] else [{ lo := g * 16, hi := g * 16 + bytes, write }]

/-- Arrays that an ARYM selects, ascending. -/
def arraysOf (arym : BitVec 4) : List Nat := (List.range 4).filter (bitAt arym.toNat)

/-- The operand areas of a command of a header, beside those of a DMA descriptor: data, scales and metadata apart, gaps
included (R84, R85, R89, R92, R101, R104, R107, R119). -/
def TileOp.areas (arym : BitVec 4) : TileOp → List Area
  | .ldw a =>
    let rows := 32 * packedBytes a.fmt.toNat 32
    let gap := ((arraysOf arym).length - 1) * a.tstr.toNat * 16
    let nsc := if a.sparse then 64 else 32
    rangeOf a.src.toNat (gap + rows) false ++
      (if a.sparse then [{ lo := a.src.toNat * 16 + rows, hi := a.src.toNat * 16 + rows + gap + 256, write := false }] else [])
      ++ (if Nat.beq (scaleBytes a.scale.toNat) 0 then [] else
        rangeOf a.scl.toNat (gap + nsc * scaleBytes a.scale.toNat) false)
  | .lda a =>
    let nv := if a.vlen then 2 else 1
    rangeOf a.src.toNat ((a.m.toNat - 1) * a.pitch.toNat * 16 + packedBytes a.fmt.toNat (32 * nv)) false ++
      rangeOf a.scl.toNat (a.m.toNat * nv * scaleBytes a.scale.toNat) false
  | .vop op a =>
    let vb := 256 * a.n.toNat
    rangeOf a.srca.toNat vb false ++ (if readsB op && !a.bsel then rangeOf a.srcb.toNat vb false else []) ++
      (if readsC op then rangeOf a.srcc.toNat vb false else []) ++
      (if Nat.beq op 0x19 then []
       else if Nat.beq op 0x0F then
         rangeOf a.dst.toNat (packedBytes a.cfmt.toNat (a.n.toNat * laneCount a.lane.toNat)) true
       else rangeOf a.dst.toNat vb true)
  | .vred _ a =>
    rangeOf a.src.toNat (256 * a.n.toNat) false ++
      rangeOf a.dst.toNat (4 * (if a.axis then laneCount a.lane.toNat else a.n.toNat)) true
  | .qnt a =>
    rangeOf a.src.toNat (a.nb.toNat * 32 * (if a.sfmt then 2 else 4)) false ++
      rangeOf a.dst.toNat (a.nb.toNat * packedBytes a.dfmt.toNat 32) true ++
      rangeOf a.scl.toNat (a.nb.toNat * scaleBytes a.dscale.toNat) true
  | .dqn a =>
    rangeOf a.src.toNat (a.nb.toNat * packedBytes a.sfmt.toNat 32) false ++
      rangeOf a.dst.toNat (a.nb.toNat * 32 * (if Nat.beq a.dfmt.toNat 0 then 4 else 2)) true ++
      rangeOf a.scl.toNat (a.nb.toNat * scaleBytes a.sscale.toNat) false
  | .sto a =>
    let rb := packedBytes a.dfmt.toNat 32
    rangeOf a.dst.toNat
        (if Nat.beq a.dpitch.toNat 0 then a.nr.toNat * rb else (a.nr.toNat - 1) * a.dpitch.toNat * 16 + rb) true ++
      rangeOf a.scl.toNat (a.nr.toNat * scaleBytes a.dscale.toNat) true
  | .dma a => rangeOf a.desc.toNat 64 false
  | .chkCrc a => rangeOf a.src.toNat (a.ng.toNat * 16) false ++ rangeOf a.exp.toNat 16 false
  | .nop | .mac _ _ | .wait _ | .sig _ | .fence _ | .chkSelf | .kvl _ _ => []

/-- Accumulator rows a command names: first, end (R90, R103). -/
def TileOp.rows (arym : BitVec 4) : TileOp → Option (Nat × Nat)
  | .mac _ a =>
    let astr := if Nat.beq a.astr.toNat 0 then a.m.toNat else a.astr.toNat
    some (a.acc.toNat, a.acc.toNat + ((arraysOf arym).length - 1) * astr + a.m.toNat)
  | .sto a => some (a.acc.toNat, a.acc.toNat + a.nr.toNat)
  | _ => none

/-! ## What Miller and the engine refuse (R100) -/

/-- A field names an element format. -/
def isElem (fmt : Nat) : Bool := (elemFmt fmt).isSome

/-- No field of the command holds a reserved value, and every operand is aligned as R104 states.  DESIGN CHOICE, log entry 71:
where BSEL = 1 names a scalar register by SRCB[5:0], the other bits of SRCB hold anything. -/
def TileOp.fieldsOk : TileOp → Bool
  | .nop | .chkSelf | .kvl _ _ => true
  | .ldw a => isElem a.fmt.toNat && !(Nat.beq a.scale.toNat 3)
  | .lda a => isElem a.fmt.toNat && !(Nat.beq a.scale.toNat 3) && !(Nat.beq a.m.toNat 0)
  | .mac _ a => !(Nat.beq a.m.toNat 0)
  | .vop op a =>
    laneAllowed op a.lane.toNat && isElem a.cfmt.toNat && !(Nat.beq a.n.toNat 0) && Nat.beq (a.srca.toNat % 16) 0 &&
      (!(readsB op) || a.bsel || Nat.beq (a.srcb.toNat % 16) 0) && (!(readsC op) || Nat.beq (a.srcc.toNat % 16) 0) &&
      (if Nat.beq op 0x19 then
        Nat.beq a.n.toNat 1 && Nat.blt a.dst.toNat 16 && Nat.beq a.srcb.toNat 0 && Nat.beq a.srcc.toNat 0 && !a.bsel &&
          Nat.beq a.rnd.toNat 0 && Nat.beq a.cfmt.toNat 0
       else Nat.beq (a.dst.toNat % 16) 0) &&
      (!(Nat.beq op 0x17) || Nat.beq (a.n.toNat % 32) 0)
  | .vred _ a => !(Nat.beq a.n.toNat 0) && Nat.beq (a.src.toNat % 16) 0 && Nat.beq (a.dst.toNat % 16) 0
  | .qnt a => narrow a.dfmt.toNat && !(Nat.beq a.dscale.toNat 3) && !(Nat.beq a.nb.toNat 0)
  | .dqn a => narrow a.sfmt.toNat && !(Nat.beq a.sscale.toNat 3) && !(Nat.beq a.dfmt.toNat 3) && !(Nat.beq a.nb.toNat 0)
  | .sto a => isElem a.dfmt.toNat && !(Nat.beq a.dscale.toNat 3) && !(Nat.beq a.nr.toNat 0)
  | .dma a => !(Nat.beq a.ch.toNat 3) && Nat.beq (a.desc.toNat % 4) 0
  | .wait a | .sig a => !(Nat.beq a.n.toNat 0)
  | .fence a => !(Nat.beq a.scope.toNat 3)
  | .chkCrc a => !(Nat.beq a.ng.toNat 0)

/-- Commands that must name an array; every other command must name none (R99). -/
def TileOp.usesArrays : TileOp → Bool
  | .ldw _ | .lda _ | .mac _ _ | .chkSelf => true
  | _ => false

/-- Bytes of an engine memory (R95). -/
def engineBytes : Nat := 0x200000

/-- The command breaks no rule of R100. -/
def TileOp.valid (o : TileOp) (h : TileHdr) : Bool :=
  o.fieldsOk && (o.usesArrays != Nat.beq h.arym.toNat 0) && (o.areas h.arym).all fun x => Nat.ble x.hi engineBytes

/-! ## Formats over a stream (03_number_formats R74; 04_tensor_engine R94) -/

/-- The formats of a tile or of a vector: format, scale, and whether the tile is sparse or the vector holds 64 values. -/
abbrev Kind := Nat × Nat × Bool

/-- An MMA or MMAS that still takes vectors, as far as formats go. -/
structure MacFmt where
  tile   : Option Kind     -- none: no LDW of the job comes before it (R86: cause 5 at run time)
  sparse : Bool
  acct   : Bool
  left   : Nat             -- vectors it still takes
  deriving DecidableEq, Repr

/-- What a stream has loaded into one array, as far as its formats go. -/
structure PipeFmt where
  loaded : List Kind              -- tiles no MMA has taken yet, oldest first
  active : Option Kind
  queue  : List (Kind × Nat)      -- vectors of each LDA that no MMA has taken yet, oldest first
  macs   : List MacFmt            -- MMAs that wait for vectors, oldest first (R89)
  deriving DecidableEq, Repr

/-- A tile and a vector may meet in an MMA or MMAS (R73, R74, R94). -/
def pairOk (sparse acct : Bool) (tile vec : Kind) : Bool :=
  (tile.2.2 == sparse) && (vec.2.2 == sparse) &&
    (match passPath tile.1 tile.2.1 vec.1 vec.2.1 with
     | some .exact => true
     | some .wide => !sparse
     | none => false) &&
    (!acct || (plainInt tile.1 tile.2.1 && plainInt vec.1 vec.2.1))

/-- The waiting MMAs take vectors from the front of the queue, whichever LDA supplied them (R89); none where a pair may not
meet.  Every round ends an MMA or an LDA's vectors, so `k` of both counts suffices. -/
def PipeFmt.meet : Nat → PipeFmt → Option PipeFmt
  | 0, p => some p
  | k + 1, p =>
    match p.macs, p.queue with
    | m :: ms, (v, n) :: q =>
      if match m.tile with | some x => pairOk m.sparse m.acct x v | none => !m.sparse || narrow v.1 then
        let c := min m.left n
        PipeFmt.meet k { p with
          macs := if Nat.beq c m.left then ms else { m with left := m.left - c } :: ms,
          queue := if Nat.beq c n then q else (v, n - c) :: q }
      else none
    | _, _ => some p

/-- The formats after a command, or none where it uses a format in a way R74 or R94 forbids: a tile that does not suit its MMA or
MMAS is refused whether or not a vector meets it. -/
def PipeFmt.step (arys : Nat) (j : Nat) (p : PipeFmt) : TileOp → Option PipeFmt
  | .ldw a =>
    if !(bitAt arys j) then some p
    else if arrayOperand a.fmt.toNat a.scale.toNat then
      some { p with loaded := p.loaded ++ [(a.fmt.toNat, a.scale.toNat, a.sparse)] }
    else none
  | .lda a =>
    if !(bitAt arys j) then some p
    else if arrayOperand a.fmt.toNat a.scale.toNat then
      PipeFmt.meet (p.macs.length + p.queue.length + 1)
        { p with queue := p.queue ++ [((a.fmt.toNat, a.scale.toNat, a.vlen), a.m.toNat)] }
    else none
  | .mac sparse a =>
    if !(bitAt arys j) then some p
    else
      let t := match p.loaded with | x :: _ => some x | [] => p.active
      if match t with | some x => (x.2.2 == sparse) && (!sparse || narrow x.1) | none => true then
        PipeFmt.meet (p.macs.length + p.queue.length + 1)
          { p with loaded := p.loaded.drop 1, active := t,
                   macs := p.macs ++ [{ tile := t, sparse, acct := a.acct, left := a.m.toNat }] }
      else none
  | .qnt a => if scaleAllows a.dscale.toNat a.dfmt.toNat then some p else none
  | .dqn a => if scaleAllows a.sscale.toNat a.sfmt.toNat then some p else none
  | .sto a => if scaleAllows a.dscale.toNat a.dfmt.toNat then some p else none
  | _ => some p

/-- The formats of a stream keep R74 and R94, in each array. -/
def streamFormatsOk (cmds : List Nat) : Bool :=
  (List.range 4).all fun j =>
    (cmds.foldl (fun (p : Option PipeFmt) w =>
      match p, decodeTile w with
      | some p, some (h, o) => p.step h.arym.toNat j o
      | p, _ => p) (some { loaded := [], active := none, queue := [], macs := [] })).isSome

/-- The stream holds a KVL command. -/
def usesKv (cmds : List Nat) : Bool :=
  cmds.any fun w => match decodeTile w with | some (_, .kvl _ _) => true | _ => false

/-- A command as the cluster core copies it into the queue: a KVL gets the job's SEQ, and its NTOK is raised by KV_NTOK
without wrapping (07_control_plane R189). -/
def feedWord (kvSeq kvNtok w : Nat) : Nat :=
  if Nat.beq (w % 64) 0x0F then
    let n := min (bitsOf w 68 46 + kvNtok) 0x7FFFFF
    w - bitsOf w 45 34 * 2 ^ 34 - bitsOf w 68 46 * 2 ^ 46 + kvSeq % 4096 * 2 ^ 34 + n * 2 ^ 46
  else w

/-- The 128-bit words of a section. -/
def wordsOf : Nat → List Byte → List Nat
  | 0, _ => []
  | n + 1, bs => leNat (bs.take 16) :: wordsOf n (bs.drop 16)

end Sys2Proof.Machine
end

