-- ==== Sys2Proof/Machine/Models.lean ====
section
/-!
DEFINITION. Model packs: their layout and the checks of MODEL_LOAD (07_control_plane R199 to R203, R213), with the records of a
manifest (05_sliding_window_operators R123, R124; 06_attention_and_kv_cache R143, R144, R155, R533).
-/

namespace Sys2Proof.Machine

/-- A check that fails, with its status and DETAIL, or what it found. -/
inductive Checked (α : Type) where
  | ok (a : α)
  | bad (status detail : Nat)

/-- The next check, if this one passes. -/
def Checked.bind {α β : Type} (c : Checked α) (f : α → Checked β) : Checked β :=
  match c with
  | .ok a => f a
  | .bad s d => .bad s d

/-- A condition that must hold, with the status and DETAIL of its failure. -/
def need (c : Bool) (status detail : Nat) : Checked Unit := if c then .ok () else .bad status detail

/-- The first of a list of numbered conditions that fails. -/
def firstBad (status : Nat) : List (Nat × Bool) → Checked Unit
  | [] => .ok ()
  | (d, ok) :: r => if ok then firstBad status r else .bad status d

/-- The bytes of a range of a structure are 0. -/
def zeroAt (bs : List Byte) (o n : Nat) : Bool := Nat.beq (fieldAt bs o n) 0

/-- Bytes `lo` to `hi` − 1 must be 0. -/
def zeroBytes (b : List Byte) (lo hi : Nat) : List (Nat × Bool) :=
  (List.range (hi - lo)).map fun i => (lo + i, zeroAt b (lo + i) 1)

/-! ## DMA descriptors (R109 to R111) -/

/-- The descriptor keeps the encoding rules of R111. -/
def dmaDescOk (d : List Byte) : Bool :=
  Nat.blt 0 (fieldAt d 16 2) && Nat.blt 0 (fieldAt d 18 2) && Nat.blt 0 (fieldAt d 20 2) && inRange (fieldAt d 22 1) 1 17 &&
    Nat.ble (fieldAt d 23 1) 2 && Nat.blt (fieldAt d 48 1) 16 && Nat.blt (fieldAt d 49 1) 16 && Nat.blt (fieldAt d 50 1) 8 &&
    zeroAt d 51 13

/-- The lowest and the highest byte, relative to the start, of `n` steps of signed strides. -/
def strideSpan (xs : List (Int × Nat)) : Int × Int :=
  xs.foldl (fun a x => let d := x.1 * ((x.2 - 1 : Nat) : Int); (a.1 + min 0 d, a.2 + max 0 d)) (0, 0)

/-- The ranges of an address space that a descriptor can touch, gaps and pad positions included: source and destination apart,
first byte, end, and whether it writes. -/
def descSpans (d : List Byte) (space : Nat) : List (Nat × Nat × Bool) :=
  let f := fun o n => fieldAt d o n
  let es : Nat := 2 ^ f 23 1
  let sgn := fun o => signedOf 32 (f o 4)
  let span (at_ : Nat) (xs : List (Int × Nat)) (write : Bool) : Nat × Nat × Bool :=
    let r := strideSpan xs
    (((at_ : Int) + r.1).toNat, ((at_ : Int) + r.2 + es).toNat, write)
  (if Nat.beq (f 48 1 % 4) space then [span (f 0 8) [(sgn 28, f 20 2), (sgn 24, f 18 2), (((f 22 1 * es : Nat) : Int), f 16 2)] false] else []) ++
  (if Nat.beq (f 48 1 / 4) space then
    [span (f 8 8) [(sgn 36, f 20 2), (sgn 32, f 42 1 + f 18 2 + f 43 1), ((es : Int), f 40 1 + f 16 2 + f 41 1)] true] else [])

/-- The granules at which a stream's DMA commands find their descriptors. -/
def descGranules (cmds : List Nat) : List Nat :=
  (cmds.filterMap fun w => match decodeTile w with | some (_, .dma a) => some a.desc.toNat | _ => none).eraseDups

/-! ## Header and sections (R199, R200, R203 step 1) -/

/-- What the header of a pack says. -/
structure PackHeader where
  total   : Nat
  ifMajor : Nat
  ifMinor : Nat
  nsect   : Nat
  puMin   : Nat
  sectOff : Nat
  sigOff  : Nat
  deriving DecidableEq, Repr

/-- The header of R199, read from its bytes. -/
def packHeader (b : List Byte) : PackHeader :=
  { total := fieldAt b 8 8, ifMajor := fieldAt b 16 1, ifMinor := fieldAt b 17 1, nsect := fieldAt b 18 2,
    puMin := fieldAt b 20 2, sectOff := fieldAt b 24 8, sigOff := fieldAt b 32 8 }

/-- The end of what sections may fill: the signature block where there is one. -/
def PackHeader.limit (h : PackHeader) : Nat := if Nat.beq h.sigOff 0 then h.total else h.sigOff

/-- The header keeps the rules of R203 step 1. -/
def packHeaderOk (b : List Byte) (packLen : Nat) : Bool :=
  let h := packHeader b
  Nat.beq (fieldAt b 0 4) 0x314B504D && Nat.beq (fieldAt b 4 1) 1 && Nat.beq (fieldAt b 6 2) 128 && Nat.ble h.total packLen &&
    Nat.ble 128 h.total && Nat.beq (h.sectOff % 64) 0 && (Nat.beq h.sigOff 0 || Nat.beq (h.sigOff + 104) h.total) &&
    Nat.ble (h.sectOff + h.nsect * 32) h.limit

/-- Entry i of the section table. -/
def packSection (b : List Byte) (i : Nat) : PackSection :=
  { type := fieldAt b (32 * i) 2, idx := fieldAt b (32 * i + 2) 2, crc := fieldAt b (32 * i + 4) 4,
    off := fieldAt b (32 * i + 8) 8, len := fieldAt b (32 * i + 16) 8 }

/-- A section is a command stream. -/
def PackSection.isStream (x : PackSection) : Bool := Nat.beq x.type 1 || Nat.beq x.type 2

/-- No two sections share TYPE and INDEX. -/
def sectionsDiffer : List PackSection → Bool
  | [] => true
  | x :: r => !(r.any fun y => Nat.beq x.type y.type && Nat.beq x.idx y.idx) && sectionsDiffer r

/-- The section table keeps the rules of R200 and R203 step 1. -/
def sectionsOk (h : PackHeader) (xs : List PackSection) : Bool :=
  xs.all (fun x => inRange x.type 1 5 && Nat.beq (x.off % 64) 0 && Nat.ble (x.off + x.len) h.limit &&
    (!x.isStream || (Nat.beq (x.len % 16) 0 && !(Nat.beq x.len 0)))) && sectionsDiffer xs &&
    Nat.beq (xs.filter fun x => Nat.beq x.type 4).length 1 && (xs.any fun x => Nat.beq x.type 1)

/-! ## The manifest (R201) -/

/-- The counts of the manifest header. -/
def manSlots (b : List Byte) : Nat := fieldAt b 0 2
def manWins (b : List Byte) : Nat := fieldAt b 2 2
def manAtts (b : List Byte) : Nat := fieldAt b 4 2
def manKvgs (b : List Byte) : Nat := fieldAt b 6 1

/-- Where slot record k, window-layer record w, attention-layer record a and the KV geometry record lie. -/
def slotAt (b : List Byte) (k : Nat) : List Byte := b.drop (32 + 16 * k)
def winAt (b : List Byte) (w : Nat) : List Byte := b.drop (32 + 16 * manSlots b + 32 * w)
def attAt (b : List Byte) (a : Nat) : List Byte := b.drop (32 + 16 * manSlots b + 32 * (manWins b + a))
def kvgAt (b : List Byte) : List Byte := b.drop (32 + 16 * manSlots b + 32 * (manWins b + manAtts b))

/-- The manifest header is within R201, and the manifest holds its records. -/
def manifestOk (b : List Byte) : Bool :=
  let fixed := Nat.beq (fieldAt b 7 1) 0 && Nat.blt 0 (manWins b)
  inRange (manSlots b) 1 65 && Nat.ble (manKvgs b) 1 && Nat.ble (fieldAt b 7 1) 1 && zeroAt b 12 20 &&
    (if fixed then Nat.blt 0 (fieldAt b 8 2) && Nat.blt 0 (fieldAt b 10 2) else zeroAt b 8 4) &&
    Nat.ble (32 + 16 * manSlots b + 32 * (manWins b + manAtts b + manKvgs b)) b.length

/-- A FMT and SCALE byte names an element format, no reserved scale and no reserved bit. -/
def fmtByteOk (v : Nat) : Bool := isElem (v % 32) && !(Nat.beq (bitsOf v 6 5) 3) && Nat.beq (v / 128) 0

/-- A window-layer record is a resize. -/
def isResize (r : List Byte) : Bool := inRange (fieldAt r 0 1) 4 6

/-- A window-layer record is within the ranges of R123 and the rules of R124, given its index. -/
def winOk (r : List Byte) (w : Nat) : Bool :=
  let f := fun o => fieldAt r o 1
  let g := fun o => fieldAt r o 2
  let rz := isResize r
  let between := fun (v lo hi : Nat) => Nat.ble lo v && Nat.ble v hi
  Nat.ble (f 0) 5 &&
    (if rz then (List.range 6).all (fun i => Nat.beq (f (1 + i)) 0) && zeroAt r 8 4
     else Nat.blt 0 (f 1) && Nat.blt 0 (f 2) && [3, 4, 5, 6].all fun o => between (f o) 1 16) &&
    !(Nat.beq (f 7 % 4) 3) && !(Nat.beq (bitsOf (f 7) 3 2) 3) && (rz || Nat.beq (bitsOf (f 7) 3 2) 0) && Nat.ble (f 7) 15 &&
    Nat.blt 0 (g 16) && Nat.blt 0 (g 18) && Nat.blt 0 (g 20) && (Nat.beq (f 0) 0 || (Nat.beq (g 18) (g 16) && Nat.beq (g 20) 1)) &&
    Nat.beq (g 16 % g 20) 0 && Nat.beq (g 18 % g 20) 0 &&
    (if rz then Nat.blt 0 (g 22) && Nat.blt 0 (g 24) && Nat.beq (f 26) 0xFF else Nat.beq (g 22) 0 && Nat.beq (g 24) 0) &&
    fmtByteOk (f 27) && (Nat.beq (g 28) 0xFFFE || Nat.blt (g 28) w) && Nat.beq (g 30) 0

/-- The layers of record w's FUSE number up to it are consecutive (R124). -/
def fuseOk (b : List Byte) (w : Nat) : Bool :=
  let fuse := fun i => fieldAt (winAt b i) 26 1
  Nat.beq (fuse w) 0xFF || Nat.beq w 0 || Nat.beq (fuse (w - 1)) (fuse w) ||
    !((List.range (w - 1)).any fun i => Nat.beq (fuse i) (fuse w))

/-- The KV geometry of a record (R155). -/
def kvGeomOf (r : List Byte) : KvGeom :=
  { kfmt := fieldAt r 0 1, nl := fieldAt r 2 2, hkv := fieldAt r 4 2, d := fieldAt r 6 2, tpp := fieldAt r 8 2,
    pps := fieldAt r 10 2, maxtok := fieldAt r 12 4 }

/-- Segments of a sequence (R155). -/
def KvGeom.nseg (g : KvGeom) : Nat := g.nl * 2 * g.hkv

/-- Element bytes of a token, and its bytes with scales (R156). -/
def KvGeom.elemBytes (g : KvGeom) : Nat := if Nat.beq g.kfmt 0 then g.d else g.d / 2
def KvGeom.tokenBytes (g : KvGeom) : Nat := g.elemBytes + g.d / 16

/-- A KV geometry record is within R155. -/
def kvGeomOk (r : List Byte) : Bool :=
  let g := kvGeomOf r
  Nat.ble g.kfmt 1 && zeroAt r 1 1 && inRange g.nl 1 1025 && inRange g.hkv 1 257 && inRange g.d 32 257 &&
    Nat.beq (g.d % 32) 0 && Nat.ble g.nseg 4096 && Nat.beq g.tpp (32 * (65536 / (32 * g.tokenBytes))) &&
    Nat.beq g.pps (4096 / g.nseg) && Nat.beq g.maxtok (g.pps * g.tpp) && zeroAt r 16 16

/-- log₂ e, cut after 66 decimals. -/
def log2e : Rat := 1442695040888963407359924681001892137426645954152985934135449406931 / 10 ^ 66

/-- scale2 of an attention layer: σ × log₂ e, rounded to FP32 with RNE (R144). -/
def scale2Of (sigma : Nat) : Nat :=
  match fp32.decode sigma with
  | .fin neg q => (fp32.convert (.fin neg (q * log2e)) 0 false).1
  | _ => 0

/-- A slot may be read, or written, by a layer: DIR of its record (R201). -/
def slotReads (man : List Byte) (k : Nat) : Bool := !(Nat.beq (fieldAt (slotAt man k) 0 1) 1)
def slotWrites (man : List Byte) (k : Nat) : Bool := !(Nat.beq (fieldAt (slotAt man k) 0 1) 0)

/-- An attention-layer record keeps R143 and R144; `man` is the manifest and `geom` the pack's KV geometry.  SOUT and STATS name
output slots, but in MODE 0x2 input slots (R143, R154). -/
def attOk (r man : List Byte) (geom : Option KvGeom) : Bool :=
  let f := fun o => fieldAt r o 1
  let g := fun o => fieldAt r o 2
  let mode := f 0
  let sig := fp32.decode (fieldAt r 12 4)
  let heads := ((List.range 4).map fun i => g (16 + 2 * i)).filter fun h => !(Nat.beq h 0xFFFF)
  let slotOk := fun v => Nat.beq v 0xFF ||
    (Nat.blt v (manSlots man) && if Nat.beq mode 2 then slotReads man v else slotWrites man v)
  Nat.ble mode 2 && inRange (g 2) 1 257 && inRange (g 4) 1 257 && Nat.beq (g 2 % g 4) 0 && inRange (g 6) 32 257 &&
    Nat.beq (g 6 % 32) 0 && Nat.ble (f 10) 1 && slotOk (f 11) && slotOk (f 24) && zeroAt r 25 7 &&
    (sig.isFin && !sig.isZero && !sig.neg) && heads.all (fun h => Nat.blt h (g 2)) && decide heads.Nodup &&
    (heads.isEmpty || !(Nat.beq (f 11) 0xFF)) &&
    (if Nat.beq mode 0 then
      (Nat.beq (f 1) (0x04 + 32) || Nat.beq (f 1) (0x12 + 32)) &&
        (match geom with
         | some k => Nat.beq k.d (g 6) && Nat.beq k.hkv (g 4) && Nat.blt (g 8) k.nl
         | none => false)
     else Nat.beq (f 1) 0x02 && Nat.beq (g 8) 0 && (Nat.beq mode 1 || !(Nat.beq (f 24) 0xFF)))

/-- The pack's KV geometry. -/
def packGeom (b : List Byte) : Option KvGeom := if Nat.beq (manKvgs b) 1 then some (kvGeomOf (kvgAt b)) else none

/-- The records of a manifest, in the order of their running index (R201). -/
def recordsOk (b : List Byte) (fixed : Option KvGeom) : Checked Unit :=
  let n := manSlots b
  firstBad stModel
    (((List.range (manWins b)).map fun w => (n + w, winOk (winAt b w) w && fuseOk b w)) ++
      ((List.range (manAtts b)).map fun a => (n + manWins b + a, attOk (attAt b a) b (packGeom b))) ++
      (if Nat.beq (manKvgs b) 1 then
        [(n + manWins b + manAtts b, kvGeomOk (kvgAt b) &&
          (match fixed with | some g => decide (g = kvGeomOf (kvgAt b)) | none => true))]
       else []))

/-- Every command of a stream passes R100. -/
def streamOk (cmds : List Nat) : Bool :=
  cmds.all fun w => match decodeTile w with | some (h, o) => o.valid h | none => false

/-- Every command of a stream keeps to the engine share of a partition (R213). -/
def streamInShare (p : Partition) (cmds : List Nat) : Bool :=
  cmds.all fun w =>
    match decodeTile w with
    | some (h, o) => (o.areas h.arym).all fun x =>
        Nat.ble (p.eoff * 0x10000) x.lo && Nat.ble x.hi ((p.eoff + p.eshare) * 0x10000)
    | none => true

/-! ## Reading and checking a pack -/

/-- A read made to check or run an entry (R531): the bytes, or the status of the failure. -/
def State.entryRead (s : State) (req : Req) (iova n : Nat) : Checked (List Byte) × State :=
  match s.fetch req iova n with
  | (.okay, bs, s1) => (.ok bs, s1)
  | (e, _, s1) => (.bad (faultOf e) 0, s1)

/-- The weight sections of a pack in ascending INDEX order. -/
def weightSections (xs : List PackSection) : List PackSection :=
  sortBy (fun a b => Nat.ble a.idx b.idx) (xs.filter fun x => Nat.beq x.type 3)

/-- Where each weight section that fits lies within a share of `size` bytes, from the next 64-byte boundary on (R217). -/
def placeWeights (size : Nat) : Nat → List PackSection → List (Nat × PackSection)
  | _, [] => []
  | at_, x :: r =>
    if Nat.ble (at_ + x.len) size then (at_, x) :: placeWeights size ((at_ + x.len + 63) / 64 * 64) r
    else placeWeights size at_ r

/-- Reads the sections of a pack one after the other. -/
def State.readSections (s : State) (req : Req) (pack : Nat) : List PackSection → Checked (List (PackSection × List Byte)) × State
  | [] => (.ok [], s)
  | x :: r =>
    match s.entryRead req (pack + x.off) x.len with
    | (.bad a b, s1) => (.bad a b, s1)
    | (.ok bs, s1) =>
      match s1.readSections req pack r with
      | (.ok t, s2) => (.ok ((x, bs) :: t), s2)
      | (.bad a b, s2) => (.bad a b, s2)

/-- The key of the model-key table (17_boot_and_firmware R475). -/
def State.modelKey (s : State) (k : Nat) : List Byte := (s.rom.modelKeys.drop (96 * k)).take 96

/-- Step 2 of R203 on the bytes of the pack before its signature block and the block itself. -/
def State.signatureOk (s : State) (body sig : List Byte) : Bool :=
  let k := fieldAt sig 0 1
  let key := s.modelKey k
  Nat.blt k 8 && key.any (fun b => !(Nat.beq b.toNat 0)) &&
    Config.ecdsaP384 key (Config.sha384 body) ((sig.drop 8).take 48) ((sig.drop 56).take 48)

/-- What MODEL_LOAD has found in a pack. -/
structure PackInfo where
  header   : PackHeader
  sections : List PackSection
  streams  : List (Nat × Nat × List Nat)
  manifest : List Byte
  deriving DecidableEq, Repr

/-- Steps 1 and 2 of R203: header, section table and signature; the header and the sections. -/
def State.packFront (s : State) (req : Req) (pack len : Nat) (signedOnly : Bool) :
    Checked (PackHeader × List PackSection) × State :=
  if Nat.blt len 128 then (.bad stModel noDetail, s)
  else
    match s.entryRead req pack 128 with
    | (.bad a b, s1) => (.bad a b, s1)
    | (.ok hb, s1) =>
      if !(packHeaderOk hb len) then (.bad stModel noDetail, s1)
      else
        let h := packHeader hb
        match s1.entryRead req (pack + h.sectOff) (h.nsect * 32) with
        | (.bad a b, s2) => (.bad a b, s2)
        | (.ok tb, s2) =>
          let xs := (List.range h.nsect).map (packSection tb)
          if !(sectionsOk h xs) then (.bad stModel noDetail, s2)
          else if Nat.beq h.sigOff 0 then
            if signedOnly then (.bad stSignature noDetail, s2) else (.ok (h, xs), s2)
          else
            match s2.entryRead req (pack + h.sigOff) 104 with
            | (.bad a b, s3) => (.bad a b, s3)
            | (.ok sb, s3) =>
              if !(zeroAt sb 1 7) then (.bad stModel noDetail, s3)
              else
                match s3.entryRead req pack h.sigOff with
                | (.bad a b, s4) => (.bad a b, s4)
                | (.ok body, s4) =>
                  if s4.signatureOk body sb then (.ok (h, xs), s4) else (.bad stSignature noDetail, s4)

/-- Steps 4 and 5 of R203 on what has been read; `part` is the partition, if it may take a model of the context. -/
def packBack (h : PackHeader) (found : List (PackSection × List Byte)) (xs : List PackSection)
    (fixed : Option KvGeom) (part : Option Partition) : Checked PackInfo :=
  let streams := (found.filter fun x => x.1.isStream).map fun x => (x.1.type, x.1.idx, wordsOf (x.1.len / 16) x.2)
  let man := match found.find? fun x => Nat.beq x.1.type 4 with | some x => x.2 | none => []
  (need (streams.all fun x => streamOk x.2.2) stModel noDetail).bind fun _ =>
  (need (manifestOk man) stModel noDetail).bind fun _ =>
  (recordsOk man fixed).bind fun _ =>
    match part with
    | none => .bad stModel noDetail
    | some p =>
      if Nat.ble h.puMin p.jobPu && streams.all fun x => streamInShare p x.2.2 then
        .ok { header := h, sections := xs, streams, manifest := man }
      else .bad stModel noDetail

/-- The descriptor at pack offset `at_` keeps to the shares of a partition (R213). -/
def descInShare (p : Partition) (d : List Byte) : Bool :=
  let within := fun (lo n : Nat) (x : Nat × Nat × Bool) => Nat.ble lo x.1 && Nat.ble x.2.1 (lo + n)
  !(dmaDescOk d) || ((descSpans d 0).all (within (p.eoff * 0x10000) (p.eshare * 0x10000)) &&
    (descSpans d 1).all (within (p.coff * 0x40000) (p.cshare * 0x40000)))

/-- The DMA descriptors of the streams that lie in weight sections, where R217 will place them, keep to the shares (R213).  They
alone address cluster memory; descriptors that the pack does not hold cannot be checked at load (log entry 55). -/
def State.descsOk (s : State) (req : Req) (pack : Nat) (p : Partition) (secs : List (Nat × PackSection)) :
    List Nat → Checked Unit × State
  | [] => (.ok (), s)
  | g :: r =>
    let off := fun (x : Nat × PackSection) => p.eoff * 0x10000 + x.1
    match secs.find? fun x => Nat.ble (off x) (g * 16) && Nat.ble (g * 16 + 64) (off x + x.2.len) with
    | none => s.descsOk req pack p secs r
    | some x =>
      match s.entryRead req (pack + x.2.off + (g * 16 - off x)) 64 with
      | (.bad a b, s1) => (.bad a b, s1)
      | (.ok d, s1) => if descInShare p d then s1.descsOk req pack p secs r else (.bad stModel noDetail, s1)

/-- A pack is read and checked for a partition of context `n` (R203). -/
def State.checkPack (s : State) (req : Req) (n part pack len : Nat) : Checked PackInfo × State :=
  match s.packFront req pack len (s.ctx n).signedOnly with
  | (.bad a b, s1) => (.bad a b, s1)
  | (.ok (h, xs), s1) =>
    let fw := s1.reg Reg.TCX_FW_IFVER
    if !(Nat.beq h.ifMajor (Fld.TCX_FW_IFVER_MAJOR.get fw) && Nat.ble h.ifMinor (Fld.TCX_FW_IFVER_MINOR.get fw)) then
      (.bad stModel noDetail, s1)
    else
      match s1.readSections req pack (xs.filter fun x => !(Nat.beq x.type 3)) with
      | (.bad a b, s2) => (.bad a b, s2)
      | (.ok found, s2) =>
        let p := if Nat.blt part 16 then
            match s2.part part with
            | some p => if decide (p.ctx = some n) && decide (p.model = none) then some p else none
            | none => none
          else none
        match packBack h found xs (s2.ctx n).kvGeom p, p with
        | .ok i, some p =>
          match s2.descsOk req pack p (placeWeights (p.eshare * 0x10000) 0 (weightSections xs))
              (i.streams.flatMap fun x => descGranules x.2.2) with
          | (.ok _, s3) => (.ok i, s3)
          | (.bad a b, s3) => (.bad a b, s3)
        | c, _ => (c, s2)

/-- The loaded model of a handle in context `n`. -/
def State.modelOf (s : State) (n handle : Nat) : Option Model :=
  s.models.find? fun m => Nat.beq m.ctx n && Nat.beq m.handle handle

/-- A free value, and the state after taking it (log entry 6). -/
def State.freshValue (s : State) : Nat × State := (Config.freeValue s.ticks, { s with ticks := s.ticks + 1 })

/-- A handle that is not 0 and that no model of the context has: a free value, or the first unused number where it is taken
(log entry 6). -/
def State.newHandle (s : State) (n : Nat) : Nat × State :=
  let r := s.freshValue
  let v := r.1 % (2 ^ 32 - 1) + 1
  let used := fun h => s.models.any fun m => Nat.beq m.ctx n && Nat.beq m.handle h
  (if used v then ((List.range 17).map (· + 1)).find? (fun h => !(used h)) |>.getD v else v, r.2)

/-- The model of a pack is recorded and takes its partition; the first KV geometry of the context becomes its geometry
(R203, R533). -/
def State.recordModel (s : State) (n part pack : Nat) (i : PackInfo) : Nat × State :=
  let r := s.newHandle n
  let s1 := r.2
  let m : Model := { handle := r.1, ctx := n, part, pack, sections := i.sections, streams := i.streams,
                     manifest := i.manifest, scale2 := (List.range (manAtts i.manifest)).map fun a =>
                       scale2Of (fieldAt (attAt i.manifest a) 12 4), unloading := false,
                     fixes := (s1.ctx n).kvGeom.isNone && Nat.beq (manKvgs i.manifest) 1 }
  let s2 := { s1 with models := s1.models ++ [m] }
  let s3 := match s2.part part with
    | some p => s2.setPart part (some { p with model := some r.1 })
    | none => s2
  let c := s3.ctx n
  (r.1, s3.setCtx n { c with kvGeom := match c.kvGeom with | some g => some g | none => packGeom i.manifest })

/-- A model is forgotten and its partition holds no model. -/
def State.forgetModel (s : State) (m : Model) : State :=
  let s1 := { s with models := s.models.filter fun x => !(Nat.beq x.ctx m.ctx && Nat.beq x.handle m.handle) }
  match s1.part m.part with
  | some p => s1.setPart m.part (some { p with model := none })
  | none => s1

/-- A MODEL_LOAD that has begun fails: its model is forgotten, and the KV geometry that it alone has fixed is fixed no more, so that
the entry changes no state (R531, R533). -/
def State.undoLoad (s : State) (m : Model) : State :=
  let s1 := s.forgetModel m
  if !m.fixes then s1
  else
    match s1.models.find? fun x => Nat.beq x.ctx m.ctx && Nat.beq (manKvgs x.manifest) 1 with
    | some y =>
      let mark := fun (x : Model) => if Nat.beq x.ctx y.ctx && Nat.beq x.handle y.handle then { x with fixes := true } else x
      { s1 with models := s1.models.map mark }
    | none => s1.setCtx m.ctx { s1.ctx m.ctx with kvGeom := none }

end Sys2Proof.Machine
end

