-- ==== Sys2Proof/Machine/Partitions.lean ====
section
/-!
DEFINITION. Partitions, residency and eviction (08_partitions_and_scheduling R208 to R218, R227 to R230).
-/

namespace Sys2Proof.Machine

/-! ## Partition units, lanes and shares -/

/-- Partition units of a mask, ascending. -/
def pusOf (mask : Nat) : List Nat := (List.range 16).filter (bitAt mask)

/-- Clusters that hold a unit of a mask. -/
def clustersOf (mask : Nat) : List Nat := (List.range 8).filter fun c => bitAt mask (2 * c) || bitAt mask (2 * c + 1)

/-- The engines of partition units. -/
def enginesOf (pus : List Nat) : List Nat := pus.flatMap fun k => [4 * k, 4 * k + 1, 4 * k + 2, 4 * k + 3]

/-- Lane l: its partition units (R208). -/
def Partition.lane (p : Partition) (l : Nat) : List Nat := ((pusOf p.puMask).drop (l * p.jobPu)).take p.jobPu

/-- The number of lanes. -/
def Partition.lanes (p : Partition) : Nat := if Nat.beq p.jobPu 0 then 0 else (pusOf p.puMask).length / p.jobPu

/-- The mask of partition units. -/
def maskOf (pus : List Nat) : Nat := pus.foldl (fun m k => m ||| 2 ^ k) 0

/-- Two ranges overlap: start and size of each. -/
def overlap (a n b m : Nat) : Bool := Nat.blt a (b + m) && Nat.blt b (a + n)

/-- Two partitions conflict (R211). -/
def Partition.conflicts (p q : Partition) : Bool :=
  (!(Nat.beq (p.puMask &&& q.puMask) 0) && overlap p.eoff p.eshare q.eoff q.eshare) ||
    ((clustersOf p.puMask).any (fun c => (clustersOf q.puMask).contains c) && !(Nat.beq p.cshare 0) && !(Nat.beq q.cshare 0) &&
      overlap p.coff p.cshare q.coff q.cshare)

/-- The partitions bound to context `n`, with their numbers. -/
def State.boundTo (s : State) (n : Nat) : List (Nat × Partition) :=
  (List.range 16).filterMap fun k =>
    match s.part k with
    | some p => if decide (p.ctx = some n) then some (k, p) else none
    | none => none

/-- Bytes of memory from `pa` on become 0, with sound code words. -/
def State.wipe (s : State) (pa n : Nat) : State :=
  { s with sramDamage := SMap.clear s.sramDamage (pa / 8) ((pa + n) / 8) }.zero pa n

/-- The engine memory of engine `te`, and the cluster memory of cluster `c`. -/
def engineAt (te : Nat) : Nat := engineMemBase + te * 0x200000
def clusterAt (c : Nat) : Nat := clusterMemBase + c * 0x800000

/-- The shares of a partition are zeroed (R218). -/
def State.wipeShares (s : State) (p : Partition) : State :=
  let s1 := (enginesOf (pusOf p.puMask)).foldl (fun s te => s.wipe (engineAt te + p.eoff * 0x10000) (p.eshare * 0x10000)) s
  (clustersOf p.puMask).foldl (fun s c => s.wipe (clusterAt c + p.coff * 0x40000) (p.cshare * 0x40000)) s1

/-- A share of a partition is still being zeroed after some context has left it (R218). -/
def State.beingZeroed (s : State) (p : Partition) : Bool :=
  (List.range 32).any fun n => (s.ctx n).zeroing.any p.conflicts

/-! ## States of a context (R227) -/

/-- A KV command waits for its turn behind an action of its context (R167). -/
def Ctx.queuedKv (c : Ctx) (r : Nat) (h : HeldEntry) : Bool :=
  c.kvQueue.any fun op => match op.src with | .entry q i => Nat.beq q r && Nat.beq i h.idx | .window _ _ _ _ => false

/-- The entry of a ring that is next to start; a KV command whose turn has not come holds back what lies behind it (R181). -/
def Ctx.headOf (c : Ctx) (r : Nat) : Option HeldEntry := (c.heldOf r).find? fun h => !h.started || c.queuedKv r h

/-- An entry awaits its release: only a JOB does (R190). -/
def HeldEntry.waitsRelease (h : HeldEntry) : Bool := Nat.beq h.kind 1 && h.released.isNone

/-- The scheduling state of context `n`. -/
def State.schedState (s : State) (n : Nat) : CtxState :=
  let c := s.ctx n
  let heads := (List.range 8).filterMap c.headOf
  if s.jobs.any fun j => Nat.beq j.ctx n && j.lane.isSome then .running
  else if s.jobs.any fun j => Nat.beq j.ctx n then .ready
  else if heads.any (·.waitsRelease) then .waitingRelease
  else if heads.any fun h => !(h.fenceHolds c.fences) then .blocked
  else if (List.range 8).all fun r => Nat.beq (s.unreadEntries n r) 0 then .idle
  else .other

/-- The state of context `n`, where it is ACTIVE. -/
def State.stateNow (s : State) (n : Nat) : Option CtxState := if s.isActive n then some (s.schedState n) else none

/-- Some context has changed its state since the residency procedure was last applied (R228). -/
def State.stateChanged (s : State) : Bool := (List.range 32).any fun n => decide ((s.ctx n).noted ≠ s.stateNow n)

/-- The states of the contexts are noted: the blocked time of each starts or ends with its state (R227). -/
def State.noteStates (s : State) : State :=
  (List.range 32).foldl (fun s n =>
    let c := s.ctx n
    let now := s.stateNow n
    let quiet := match now with | some .blocked | some .idle => true | _ => false
    s.setCtx n { c with noted := now, blockedAt := if quiet then some (c.blockedAt.getD s.tb.elapsed) else none }) s

/-- The grace of a context in µs. -/
def Ctx.grace (c : Ctx) : Nat := if Nat.beq c.graceUs 0 then 2000 else c.graceUs

/-- Blocked time minus grace, in elapsed units; negative while the grace runs. -/
def State.pastGrace (s : State) (n : Nat) : Int :=
  match (s.ctx n).blockedAt with
  | some t => (s.tb.elapsed : Int) - (t + (s.ctx n).grace * usE : Nat)
  | none => -1

/-! ## Residency (R215 to R218) -/

/-- A context holds its shares, or the residency procedure has made it resident and they are still being zeroed for it
(R228, R231). -/
def Ctx.holds (c : Ctx) : Bool := c.resident || c.claim

/-- The resident contexts, other than `n`, with a partition that conflicts with one of `ps`. -/
def State.rivals (s : State) (n : Nat) (ps : List Partition) : List Nat :=
  (List.range 32).filter fun m => !(Nat.beq m n) && (s.ctx m).holds &&
    (s.boundTo m).any fun q => ps.any q.2.conflicts

/-- The partitions of context `n` without their numbers. -/
def State.partsOf (s : State) (n : Nat) : List Partition := (s.boundTo n).map (·.2)

/-- Context `n` drops its residency: its shares begin to be zeroed, and no lane holds its inputs any more (R218, R222). -/
def State.dropResidency (s : State) (n : Nat) : State :=
  let c := s.ctx n
  { s with laneLast := s.laneLast.filter fun l => !(Nat.beq l.ctx n) }.setCtx n
    { c with resident := false, claim := false, weightsIn := false, copying := [],
             zeroing := c.zeroing ++ (if c.resident then s.partsOf n else []) }

/-- One partition of a resident context leaves it, or its model does: its shares begin to be zeroed (R218). -/
def State.dropShares (s : State) (n k : Nat) (p : Partition) : State :=
  let c := s.ctx n
  if c.resident then
    { s with laneLast := s.laneLast.filter fun l => !(Nat.beq l.part k) }.setCtx n
      { c with copying := c.copying.filter (fun x => !(Nat.beq x k)), zeroing := c.zeroing ++ [p] }
  else s

/-- Context `n` takes its shares and the copy of its models' weights begins (R217). -/
def State.takeShares (s : State) (n : Nat) : State :=
  let todo := ((s.boundTo n).filter fun x => x.2.model.isSome).map (·.1)
  s.setCtx n { s.ctx n with resident := true, claim := false, copying := todo, weightsIn := todo.isEmpty }

/-- Stores bytes into memory at a physical address under a request. -/
def State.storeAt (s : State) (req : Req) (pa : Nat) (bs : List Byte) : State := (s.writePhys req pa bs).2

/-- The weight sections of a model that the engine share of its partition holds. -/
def Model.placed (m : Model) (p : Partition) : List (Nat × PackSection) := placeWeights (p.eshare * 0x10000) 0 (weightSections m.sections)

/-- The placed weight sections of a model are read, or the status of the first that cannot be. -/
def State.readWeights (s : State) (req : Req) (pack : Nat) : List (Nat × PackSection) → Checked (List (Nat × List Byte)) × State
  | [] => (.ok [], s)
  | (at_, x) :: r =>
    match s.entryRead req (pack + x.off) x.len with
    | (.bad st d, s1) => (.bad st d, s1)
    | (.ok bs, s1) =>
      match s1.readWeights req pack r with
      | (.ok t, s2) => (.ok ((at_, bs) :: t), s2)
      | (.bad st d, s2) => (.bad st d, s2)

/-- The cluster cores copy the weight sections of a model into the engine share of every engine of the partition (R217).  Where
one cannot be read nothing is copied, and the status is returned (R531). -/
def State.copyWeights (s : State) (n : Nat) (m : Model) (p : Partition) : Nat × State :=
  let req := s.unitReq (.clusterDma (Fin.ofNat 8 (((clustersOf p.puMask).head?).getD 0))) (s.ctx n).classDef n
  match s.readWeights req m.pack (m.placed p) with
  | (.bad st _, s1) => (st, s1)
  | (.ok found, s1) =>
    (0, found.foldl (fun s x => (enginesOf (pusOf p.puMask)).foldl (fun s te =>
      s.storeAt (s.unitReq (.clusterDma (Fin.ofNat 8 (te / 8))) (s.ctx n).classDef n)
        (engineAt te + p.eoff * 0x10000 + x.1) x.2) s) s1)

/-! ## The order of ready jobs (R221) -/

/-- `a` stands before `b` in the order of R221. -/
def Job.before (a b : Job) : Bool :=
  Nat.blt a.ring b.ring || (Nat.beq a.ring b.ring && (Nat.blt a.keyNs b.keyNs || (Nat.beq a.keyNs b.keyNs && Nat.ble a.ctx b.ctx)))

/-- The first ready job of each ring (R181), in the order of R221. -/
def State.readyHeads (s : State) : List Job :=
  let ready := s.jobs.filter fun j => j.lane.isNone
  let first := ready.filter fun j =>
    match ready.find? fun k => Nat.beq k.ctx j.ctx && Nat.beq k.ring j.ring with
    | some k => Nat.beq k.no j.no
    | none => false
  sortBy (fun a b => a.before b) first

/-- The non-resident contexts with a ready job, in the order of their first ready jobs (R228). -/
def State.wanting (s : State) : List Nat :=
  ((s.readyHeads.map (·.ctx)).eraseDups).filter fun n => !(s.ctx n).holds && s.isActive n && !(s.boundTo n).isEmpty

/-- What stands in the way of context `n`, where it is to be made resident (R228). -/
def State.standsIn (s : State) (n : Nat) : Option (List Nat) :=
  if s.wanting.contains n then some (s.rivals n (s.partsOf n)) else none

/-- The residency procedure is to be applied: a context has changed its state, has come to want its shares, or meets other contexts
than it did (R228). -/
def State.applyDue (s : State) : Bool := s.stateChanged || (List.range 32).any fun n => decide ((s.ctx n).waitsOn ≠ s.standsIn n)

/-- What stands in each context's way is noted. -/
def State.noteWaits (s : State) : State :=
  (List.range 32).foldl (fun t n => t.setCtx n { t.ctx n with waitsOn := s.standsIn n }) s

/-! ## Waiting binds of pinned contexts (R230) -/

/-- CTX_BIND entries that have begun and wait: the pinned context and the partition. -/
def State.waitingBinds (s : State) : List (Nat × Nat) :=
  (List.range 8).flatMap fun r =>
    ((s.ctx 0).heldOf r).filterMap fun h =>
      if h.started && Nat.beq h.kind 0x29 then some (fieldAt h.bytes 32 1, fieldAt h.bytes 33 1) else none

/-- A waiting bind holds back the jobs of context `n`: `n` is unpinned and conflicts with the partition being bound to a pinned
context, or `n` is the unpinned context that waits to leave its shares (log entry 23). -/
def State.heldByBind (s : State) (n : Nat) : Bool :=
  !(s.ctx n).pinned && s.waitingBinds.any fun b =>
    Nat.beq b.1 n ||
      match s.part b.2 with
      | some p => (s.ctx b.1).pinned && (s.partsOf n).any p.conflicts
      | none => false

/-- A job of context `n` is placed. -/
def State.hasPlaced (s : State) (n : Nat) : Bool := s.jobs.any fun j => Nat.beq j.ctx n && j.lane.isSome

/-- A context of `c` may not be evicted now: it runs, is ready or waits for a release, or is in no state of R227. -/
def State.busyCtx (s : State) (n : Nat) : Bool :=
  match s.schedState n with
  | .blocked | .idle => false
  | _ => true

/-- The procedure of R228 for one context.  A context that it makes resident counts as such from then on, and MAKE_RESIDENT
takes its shares once they are zeroed. -/
def State.evictFor (s : State) (x : Nat) : State :=
  let c := s.rivals x (s.partsOf x)
  let make := fun (t : State) => t.setCtx x { t.ctx x with claim := true }
  if s.heldByBind x then s
  else if c.isEmpty then make s
  else if c.any fun m => (s.ctx m).pinned then s.postEvent evStarved x
  else if c.any s.busyCtx then s
  else if c.any fun m => decide (s.pastGrace m < 0) then s
  else
    make ((sortBy (fun a b => decide (s.pastGrace b < s.pastGrace a) ||
      (decide (s.pastGrace a = s.pastGrace b) && Nat.ble a b)) c).foldl (fun s m => s.dropResidency m) s)

/-- The residency procedure for every context that needs it, in order (R228). -/
def State.residency (s : State) : State := s.wanting.foldl (fun s x => s.evictFor x) s

/-- MAKE_RESIDENT may take the shares of context `n` now: the residency procedure has made it resident, no share of it is being
zeroed, and no bind holds it back (R217, R218, R228, R230). -/
def State.mayTake (s : State) (n : Nat) : Bool :=
  let ps := s.partsOf n
  (s.ctx n).claim && !(s.ctx n).resident && (s.rivals n ps).isEmpty && !(ps.any s.beingZeroed) && !(s.heldByBind n)

/-! ## Lanes (R222) -/

/-- STATE of an engine. -/
def State.tenState (s : State) (te : Nat) : Nat := s.fld (Reg.TEN_STATUS te) Fld.TEN_STATUS_STATE

/-- An engine is idle: no job runs or starts on it. -/
def State.engineIdle (s : State) (te : Nat) : Bool :=
  s.domainOn (domainOf (.te (Fin.ofNat 64 te))) && Nat.beq (s.tenState te) 0 && (s.eng te).job.isNone

/-- An engine is offline (R117, R450), isolated, or its cluster core does not run (R467, R482). -/
def State.engineOffline (s : State) (te : Nat) : Bool :=
  Nat.beq (s.tenState te) 5 || s.isIsolated (.te (Fin.ofNat 64 te)) || !(s.procRuns (1 + te / 8))

/-- The lanes of a partition that no offline engine and no domain that is off has taken from it (R222, R493). -/
def State.liveLanes (s : State) (p : Partition) : List Nat :=
  (List.range p.lanes).filter fun l =>
    (enginesOf (p.lane l)).all fun te => !(s.engineOffline te) && s.domainOn (domainOf (.te (Fin.ofNat 64 te)))

/-- The free lanes of a partition. -/
def State.freeLanes (s : State) (p : Partition) : List Nat :=
  (s.liveLanes p).filter fun l => (enginesOf (p.lane l)).all s.engineIdle

/-- STARVED for a ready job whose partition has no lane left, once for each job (R229; log entry 24). -/
def State.starveLanes (s : State) : State :=
  (sortBy (fun a b => a.before b) (s.jobs.filter fun j => j.lane.isNone)).foldl (fun s j =>
    match s.part j.part with
    | some p =>
      if (s.liveLanes p).isEmpty && !j.laneless then
        { s with jobs := s.jobs.map fun (k : Job) => if Nat.beq k.no j.no then { k with laneless := true } else k }.postEvent evStarved j.ctx
      else s
    | none => s) s

/-! ## PART_SET and CTX_BIND (R209 to R212) -/

/-- The partition that the operands of PART_SET define. -/
def partOf (b : List Byte) (ctx model : Option Nat) : Partition :=
  { jobPu := fieldAt b 33 1, puMask := fieldAt b 34 2, eoff := fieldAt b 36 1, eshare := fieldAt b 37 1, coff := fieldAt b 38 1,
    cshare := fieldAt b 39 1, slotUs := fieldAt b 40 4, ctx, model }

/-- The checks of R210, in the order of the fields: offset and whether the field is good. -/
def State.partChecks (s : State) (b : List Byte) : List (Nat × Bool) :=
  let q := partOf b none none
  let old := if Nat.blt (fieldAt b 32 1) 16 then s.part (fieldAt b 32 1) else none
  let same := fun (f : Partition → Nat) =>
    match old with
    | some p => p.ctx.isNone || Nat.beq (f p) (f q)
    | none => true
  [(32, Nat.blt (fieldAt b 32 1) 16),
   (33, [1, 2, 4, 8, 16].contains q.jobPu && Nat.beq ((pusOf q.puMask).length % q.jobPu) 0 && same (·.jobPu)),
   (34, same (·.puMask)),
   (36, Nat.ble q.eoff 31 && same (·.eoff)),
   (37, inRange q.eshare 1 33 && Nat.ble (q.eoff + q.eshare) 32 && same (·.eshare)),
   (38, Nat.ble q.coff 29 && same (·.coff)),
   (39, Nat.ble q.cshare 30 && Nat.ble (q.coff + q.cshare) 30 && same (·.cshare)),
   (40, Nat.ble q.slotUs 8388607)]

/-- PART_SET on good operands: the partition is defined, changed or deleted. -/
def State.setPartition (s : State) (b : List Byte) : State :=
  let k := fieldAt b 32 1
  let old := s.part k
  let p := partOf b (old.bind (·.ctx)) (old.bind (·.model))
  let s1 := { s with laneLast :=
    if (old.bind (·.ctx)).isSome then s.laneLast else s.laneLast.filter fun l => !(Nat.beq l.part k) }
  s1.setPart k (if Nat.beq p.puMask 0 then none else some p)

/-- The checks of R212: offset and whether the field is good. -/
def State.bindChecks (s : State) (b : List Byte) : List (Nat × Bool) :=
  let n := fieldAt b 32 1
  let k := fieldAt b 33 1
  let op := fieldAt b 34 1
  let p := if Nat.blt k 16 then s.part k else none
  let bound := match p with | some q => q.ctx.isSome | none => false
  let mine := match p with | some q => decide (q.ctx = some n) && q.model.isNone | none => false
  let clash := match p with
    | some q => (s.partsOf n).any q.conflicts ||
        ((s.ctx n).pinned && (List.range 32).any fun m => !(Nat.beq m n) && (s.ctx m).pinned && (s.partsOf m).any q.conflicts)
    | none => false
  [(32, Nat.blt n 32 && s.isActive n), (33, p.isSome), (34, Nat.ble op 1),
   (33, if Nat.beq op 0 then !bound && !clash else mine)]

/-- The unpinned resident contexts that conflict with partition `k`, for a bind to the pinned context `n` (R230). -/
def State.bindRivals (s : State) (n k : Nat) : List Nat :=
  match s.part k with
  | some p => (s.rivals n [p]).filter fun m => !(s.ctx m).pinned
  | none => []

/-- The binding of partition `k` would make context `n`, resident and unpinned, conflict with another resident context (R215). -/
def State.bindClashes (s : State) (n k : Nat) : Bool :=
  match s.part k with
  | some p => !(s.ctx n).pinned && (s.ctx n).holds && !(s.rivals n [p]).isEmpty
  | none => false

/-- A partition becomes bound to a context.  A pinned context evicts its rivals and takes the shares at once (R230); an unpinned
one that cannot hold the new shares beside a resident rival leaves its own, so that conflicting contexts are never resident
together (R215; DEDUCED, log entry 23). -/
def State.bind (s : State) (n k : Nat) : State :=
  let s1 := if (s.ctx n).pinned then (s.bindRivals n k).foldl (fun s m => s.dropResidency m) s
    else if s.bindClashes n k then s.dropResidency n else s
  match s1.part k with
  | some p =>
    let s2 := s1.setPart k (some { p with ctx := some n })
    if (s2.ctx n).pinned && !(s2.ctx n).resident then s2.takeShares n else s2
  | none => s1

/-- A partition is no longer bound: its shares are zeroed (R218). -/
def State.unbind (s : State) (n k : Nat) : State :=
  match s.part k with
  | some p => (s.dropShares n k p).setPart k (some { p with ctx := none })
  | none => s

end Sys2Proof.Machine
end

