-- ==== Sys2Proof/Machine/Kv.lean ====
section
/-!
DEFINITION. The paged KV cache: page tables, metadata, copy-on-write, the KV actions and reclamation
(06_attention_and_kv_cache R155 to R172, R532, R533).
-/

namespace Sys2Proof.Machine

/-- Ceiling division. -/
def ceilDiv (a b : Nat) : Nat := if Nat.beq b 0 then 0 else (a + b - 1) / b

/-! ## The KV area (R159) -/

/-- The KV area of a descriptor's 64 bytes. -/
def kvAreaOf (b : List Byte) : KvArea :=
  { enable := bitAt (fieldAt b 10 2) 0, base := fieldAt b 0 8, maxSeq := fieldAt b 8 2, poolPages := fieldAt b 12 4,
    poolBase := fieldAt b 16 8, metaBase := fieldAt b 24 8, l1Base := fieldAt b 32 8, tblBase := fieldAt b 40 8,
    tblCount := fieldAt b 48 4, cls := fieldAt b 52 1, refused := false }

/-- No two of the ranges, each a start and a size, overlap. -/
def disjointRanges : List (Nat × Nat) → Bool
  | [] => true
  | x :: r => !(r.any fun y => overlap x.1 x.2 y.1 y.2) && disjointRanges r

/-- The rules of R159 on the descriptor itself; R532 governs Miller's right to write. -/
def kvAreaOk (b : List Byte) : Bool :=
  let a := kvAreaOf b
  Nat.ble (fieldAt b 10 2) 1 && inRange a.maxSeq 1 4097 && Nat.blt 0 a.poolPages && Nat.beq (a.poolBase % 65536) 0 &&
    Nat.beq (a.metaBase % 16) 0 && Nat.blt 0 a.tblCount && Nat.blt a.cls 16 && zeroAt b 53 11 &&
    Nat.beq (a.base % 2 ^ 30) 0 && Nat.ble (a.base + a.maxSeq * 0x10000000) 0x800000000000 &&
    Nat.beq (a.l1Base % 4096) 0 && Nat.beq (a.tblBase % 4096) 0 &&
    disjointRanges [(a.poolBase, a.poolPages * 65536), (a.metaBase, (a.poolPages + a.tblCount) * 16),
      (a.l1Base, (a.maxSeq + 3) / 4 * 4096), (a.tblBase, a.tblCount * 4096)]

/-- The level-2 entries of context `n` that cover the KV range point at the tables from L1_BASE (R159). -/
def ownerPoints (mem : List Host.Cell) (n : Nat) (a : KvArea) : Bool :=
  (List.range (ceilDiv a.maxSeq 4)).all fun i => decide (Config.level2 mem n (a.base + i * 0x40000000) = some (a.l1Base + i * 4096))

/-- The KV area that the descriptor of context `n` gives, if it gives one; a broken rule of R159 has it refused. -/
def kvAreaFrom (mem : List Host.Cell) (n : Nat) (b : List Byte) : Option KvArea :=
  let a := kvAreaOf b
  if a.enable then some { a with refused := !(kvAreaOk b && ownerPoints mem n a) } else none

/-! ## Miller's writes and reads for the KV area -/

/-- Who reads and writes for an action: the DMA of the requesting engine's cluster, or Miller (R163). -/
def KvSource.initiator : KvSource → Initiator
  | .entry _ _ => .miller
  | .window te _ _ _ => .clusterDma (Fin.ofNat 8 (te / 8))

/-- The request of such an access, under the KV area's class. -/
def State.kvReq (s : State) (ini : Initiator) (n : Nat) (a : KvArea) : Req := s.unitReq ini a.cls n

/-- A write at an address of the context's physical space, logged as R171 states; `fuel` bounds its 4 KiB parts. -/
def State.kvWrite (s : State) (req : Req) (n : Nat) : Nat → Nat → List Byte → Resp × State
  | 0, _, _ => (.okay, s)
  | _, _, [] => (.okay, s)
  | fuel + 1, gpa, bs =>
    let m := min bs.length (4096 - gpa % 4096)
    match Config.stage2 s.mem n gpa with
    | none => (.decode, s)
    | some pa =>
      match s.writePhys req pa (bs.take m) with
      | (.okay, s1) => (s1.markDirty n gpa).kvWrite req n fuel (gpa + m) (bs.drop m)
      | (e, s1) => (e, s1.markDirty n gpa)

/-- A read at an address of the context's physical space. -/
def State.kvRead (s : State) (req : Req) (n : Nat) : Nat → Nat → Nat → Resp × List Byte × State
  | 0, _, _ => (.okay, [], s)
  | _, _, 0 => (.okay, [], s)
  | fuel + 1, gpa, k =>
    let m := min k (4096 - gpa % 4096)
    match Config.stage2 s.mem n gpa with
    | none => (.decode, [], s)
    | some pa =>
      match s.readPhys req pa m with
      | (.okay, d, s1) =>
        match s1.kvRead req n fuel (gpa + m) (k - m) with
        | (.okay, ds, s2) => (.okay, d ++ ds, s2)
        | (e, ds, s2) => (e, ds, s2)
      | (e, _, s1) => (e, [], s1)

/-- Writes of Miller's, in order, stopped by the first that fails: addresses and bytes. -/
def State.kvWrites (s : State) (req : Req) (n : Nat) : List (Nat × List Byte) → Resp × State
  | [] => (.okay, s)
  | (gpa, bs) :: r =>
    match s.kvWrite req n (bs.length + 1) gpa bs with
    | (.okay, s1) => s1.kvWrites req n r
    | (e, s1) => (e, s1)

/-! ## Page tables (R160) -/

/-- The PTE at level 0 of a 64 KiB page at `gpa`: V, R, U, A, D, W as asked, N = 1, PPN[3:0] = 0b1000. -/
def pteOf (gpa : Nat) (w : Bool) : Nat := 2 ^ 63 + (gpa / 65536 * 16 + 8) * 2 ^ 10 + 0xD3 + (if w then 4 else 0)

/-- The entry at level 1 that points to a level-0 table at `gpa`. -/
def tablePte (gpa : Nat) : Nat := gpa / 4096 * 2 ^ 10 + 1

/-- STATE of a page metadata record. -/
def kvStateCode : KvPageState → Nat
  | .free => 0 | .mapped => 1 | .retiring => 2

/-- The record of index `i`: pool pages first, then table pages (R165). -/
def Ctx.kvRec (c : Ctx) (i : Nat) : KvRec := SMap.get (fun _ => { refcnt := 0, st := .free, retire := 0 }) c.kvRecs i

/-- The 16 bytes of a record. -/
def KvRec.bytes (r : KvRec) (table : Bool) : List Byte :=
  leBytes 2 r.refcnt ++ leBytes 1 (kvStateCode r.st) ++ leBytes 1 table.toNat ++ leBytes 4 0 ++ leBytes 8 r.retire

/-- Record `i` changes, here and in the metadata array. -/
def State.setKvRec (s : State) (n : Nat) (a : KvArea) (i : Nat) (r : KvRec) : Resp × State :=
  let c := s.ctx n
  let s1 := s.setCtx n { c with kvRecs := SMap.set (fun _ => { refcnt := 0, st := .free, retire := 0 }) c.kvRecs i r }
  s1.kvWrite (s1.kvReq .miller n a) n 17 (a.metaBase + i * 16) (r.bytes (Nat.ble a.poolPages i))

/-- Free pages of a range of record indices, from a free value's place on (log entry 6). -/
def Ctx.freeRecs (c : Ctx) (lo k from_ : Nat) : List Nat :=
  ((List.range k).map fun i => lo + (i + from_) % k).filter fun i => decide ((c.kvRec i).st = .free)

/-- The 2 MiB spans of the KV range that hold keys and have no level-0 table. -/
def Ctx.spansNeeded (c : Ctx) (keys : List Nat) : List Nat :=
  ((keys.map fun k => k / 32).eraseDups).filter fun sp => (SMap.find c.kvTables sp).isNone

/-- A level-0 table is taken for span `sp` and its level-1 entry written. -/
def State.takeTable (s : State) (n : Nat) (a : KvArea) (sp j : Nat) : Resp × State :=
  let c := s.ctx n
  let s1 := s.setCtx n { c with kvTables := SMap.insert c.kvTables sp j }
  s1.kvWrites (s1.kvReq .miller n a) n
    [(a.tblBase + j * 4096, List.replicate 4096 0#8), (a.l1Base + sp * 8, leBytes 8 (tablePte (a.tblBase + j * 4096)))]

/-- Tables are taken for spans, one each. -/
def State.takeTables (s : State) (n : Nat) (a : KvArea) : List (Nat × Nat) → Resp × State
  | [] => (.okay, s)
  | (sp, j) :: r =>
    match s.takeTable n a sp j with
    | (.okay, s1) => s1.takeTables n a r
    | (e, s1) => (e, s1)

/-- The IOMMU may still hold the translation of a page whose PTE changes, until the KV fence (R161, R164): whether it does
is a free value (log entry 6). -/
def State.keepStale (s : State) (n key : Nat) (a : KvArea) : State :=
  match (s.ctx n).kvMaps.find? fun e => Nat.beq e.1 key with
  | none => s
  | some (_, p) =>
    let r := s.freshValue
    let gpa := a.poolBase + p.page * 65536
    match Config.stage2 s.mem n gpa with
    | some pa =>
      if Nat.beq (r.1 % 2) 1 && (s.held .miller n (a.base + key * 65536)).isNone then
        { r.2 with iotlb := { ini := .miller, ctx := n, iova := a.base + key * 65536, pa, len := 65536, write := p.w, gpa } :: r.2.iotlb }
      else r.2
    | none => r.2

/-- The 16 PTEs of key `k` are written: mapped to a page, or with V clear; a PTE with V clear is written as 0 (DESIGN CHOICE,
log entry 73: the other bits are not spoken of). -/
def State.setPte (s : State) (n : Nat) (a : KvArea) (k : Nat) (p : Option KvPte) : Resp × State :=
  let s0 := s.keepStale n k a
  let c := s0.ctx n
  let s1 := s0.setCtx n { c with kvMaps := match p with
    | some x => SMap.insert c.kvMaps k x
    | none => SMap.erase c.kvMaps k }
  match SMap.find c.kvTables (k / 32) with
  | some j =>
    let v := match p with | some x => pteOf (a.poolBase + x.page * 65536) x.w | none => 0
    s1.kvWrite (s1.kvReq .miller n a) n 129 (a.tblBase + j * 4096 + k % 32 * 128) (List.replicate 16 (leBytes 8 v)).flatten
  | none => (.okay, s1)

/-- PTEs of keys are written in order, stopped by the first write that fails. -/
def State.setPtes (s : State) (n : Nat) (a : KvArea) : List (Nat × Option KvPte) → Resp × State
  | [] => (.okay, s)
  | (k, p) :: r =>
    match s.setPte n a k p with
    | (.okay, s1) => s1.setPtes n a r
    | (e, s1) => (e, s1)

/-- Metadata records change in order. -/
def State.setRecs (s : State) (n : Nat) (a : KvArea) : List (Nat × (KvRec → KvRec)) → Resp × State
  | [] => (.okay, s)
  | (i, f) :: r =>
    match s.setKvRec n a i (f ((s.ctx n).kvRec i)) with
    | (.okay, s1) => s1.setRecs n a r
    | (e, s1) => (e, s1)

/-- A record counts one mapping more, or becomes mapped with its first. -/
def KvRec.plus (r : KvRec) : KvRec := { refcnt := r.refcnt + 1, st := .mapped, retire := 0 }

/-- A record counts one mapping less; at 0 it retires at epoch `e` (R166). -/
def KvRec.minus (e : Nat) (r : KvRec) : KvRec :=
  if Nat.ble r.refcnt 1 then { refcnt := 0, st := .retiring, retire := e } else { r with refcnt := r.refcnt - 1 }

/-- A record counts one mapping less and keeps its state: a copy leaves a page that others map (R166). -/
def KvRec.share (r : KvRec) : KvRec := { r with refcnt := r.refcnt - 1 }

/-! ## Keys of a sequence (R157) -/

/-- The key of page `p` of segment `g` of a sequence. -/
def KvGeom.key (geo : KvGeom) (seq g p : Nat) : Nat := seq * 4096 + g * geo.pps + p

/-- The keys of pages `lo` to `hi` − 1 in every segment of a sequence. -/
def KvGeom.keys (geo : KvGeom) (seq lo hi : Nat) : List Nat :=
  (List.range geo.nseg).flatMap fun g => (List.range (hi - lo)).map fun i => geo.key seq g (lo + i)

/-- The mapping of a key. -/
def Ctx.kvPte (c : Ctx) (k : Nat) : Option KvPte := SMap.find c.kvMaps k

/-! ## Reclamation (R166) -/

/-- Retiring pages become free where no job of the context is placed with an older epoch; stopped by the first record that
cannot be written (R532). -/
def State.reclaim (s : State) (n : Nat) : Resp × State :=
  match s.kvArea n with
  | none => (.okay, s)
  | some a =>
    let old := fun r => s.jobs.any fun j => Nat.beq j.ctx n && j.lane.isSome && Nat.blt j.epoch r
    s.setRecs n a (((s.ctx n).kvRecs.filter fun e => decide (e.2.st = .retiring) && !(old e.2.retire)).map fun e =>
      (e.1, fun _ => { refcnt := 0, st := .free, retire := 0 }))

/-- The records whose count is below the mappings of their page or table, with the number of mappings; a table that is in place
counts at least one. -/
def Ctx.lowCounts (c : Ctx) (a : KvArea) : List (Nat × Nat) :=
  let pages := ((c.kvMaps.map fun e => e.2.page).eraseDups).map fun p => (p, (c.kvMaps.filter fun e => Nat.beq e.2.page p).length)
  let tables := c.kvTables.map fun e => (a.poolPages + e.2, max 1 (c.kvMaps.filter fun m => Nat.beq (m.1 / 32) e.1).length)
  (pages ++ tables).filter fun x => Nat.blt (c.kvRec x.1).refcnt x.2

/-- No count stays below its mappings, so that no mapped page is taken for a free one: what Miller makes sure of when it is reset
within an action or a write of an action fails (R172, R532; DEDUCED, log entry 73).  A record whose write fails too keeps its raised
count with Miller, and the other records are raised all the same. -/
def State.raiseCounts (s : State) (n : Nat) : State :=
  match s.kvArea n with
  | some a => ((s.ctx n).lowCounts a).foldl (fun s x => (s.setKvRec n a x.1 { refcnt := x.2, st := .mapped, retire := 0 }).2) s
  | none => s

/-- The KV area of context `n` is refused from now on: a write for it has failed (R532). -/
def State.refuseArea (s : State) (n : Nat) : State :=
  let s1 := s.raiseCounts n
  let c := s1.ctx n
  s1.setCtx n { c with kvArea := c.kvArea.map fun a => { a with refused := true } }

/-- Every record of a new KV area is written, free (R165). -/
def State.writeRecords (s : State) (n : Nat) (a : KvArea) : Resp × State :=
  let r : KvRec := { refcnt := 0, st := .free, retire := 0 }
  let bs := (List.range (a.poolPages + a.tblCount)).flatMap fun i => r.bytes (Nat.ble a.poolPages i)
  s.kvWrite (s.kvReq .miller n a) n (bs.length + 1) a.metaBase bs

/-! ## The actions (R163, R168) -/

/-- What an action has come to: it waits for its stage, it is done with a status and a DETAIL, or its area is refused (R532). -/
inductive KvOut where
  | waits (op : KvOp)
  | done (status detail : Nat)
  | broken (r : Resp)
  deriving DecidableEq, Repr

/-- Continues after writes that must succeed. -/
def kvThen (r : Resp × State) (f : State → KvOut × State) : KvOut × State :=
  match r with
  | (.okay, s) => f s
  | (e, s) => (.broken e, s)

/-- New pages and tables for keys, all or none: moves with the old page, and tables for spans; none where the pools hold too
few. -/
def State.reserve (s : State) (n : Nat) (a : KvArea) (keys : List Nat) (spanKeys : List Nat) :
    Option (List (Nat × Option Nat × Nat) × List (Nat × Nat)) × State :=
  let c := s.ctx n
  let r := s.freshValue
  let pages := c.freeRecs 0 a.poolPages (r.1 % a.poolPages)
  let spans := c.spansNeeded spanKeys
  let tables := (c.freeRecs a.poolPages a.tblCount (r.1 % a.tblCount)).map (· - a.poolPages)
  if Nat.ble keys.length pages.length && Nat.ble spans.length tables.length then
    (some ((keys.zip pages).map fun x => (x.1, (c.kvPte x.1).map (·.page), x.2), spans.zip tables), r.2)
  else (none, r.2)

/-- The tables of spans count the mappings of keys. -/
def tableCounts (c : Ctx) (a : KvArea) (keys : List Nat) (f : KvRec → KvRec) : List (Nat × (KvRec → KvRec)) :=
  keys.filterMap fun k => (SMap.find c.kvTables (k / 32)).map fun j => (a.poolPages + j, f)

/-- The content of new pages: zero, or the first tokens of the old page (R163 step 4, R168). -/
def State.fillPages (s : State) (n : Nat) (a : KvArea) (geo : KvGeom) (ini : Initiator) (tokens : Nat) :
    List (Nat × Option Nat × Nat) → Resp × Bool × State
  | [] => (.okay, false, s)
  | (_, old, new) :: r =>
    let req := s.kvReq ini n a
    let dst := a.poolBase + new * 65536
    match old with
    | none =>
      match s.kvWrite req n 17 dst (List.replicate 65536 0#8) with
      | (.okay, s1) => s1.fillPages n a geo ini tokens r
      | (e, s1) => (e, false, s1)
    | some p =>
      let src := a.poolBase + p * 65536
      let eb := tokens * geo.elemBytes
      let so := geo.tpp * geo.elemBytes
      let sb := tokens * (geo.d / 16)
      match s.kvRead req n 18 src eb with
      | (.okay, e1, s1) =>
        match s1.kvRead req n 18 (src + so) sb with
        | (.okay, e2, s2) =>
          match s2.kvWrites req n [(dst, e1), (dst + so, e2)] with
          | (.okay, s3) => s3.fillPages n a geo ini tokens r
          | (e, s3) => (e, false, s3)
        | (e, _, s2) => (e, true, s2)
      | (e, _, s1) => (e, true, s1)

/-- KV_MAP: each page is mapped, then counted, then its table counts the mapping (R168 step 4, R172). -/
def State.mapPages (s : State) (n : Nat) (a : KvArea) : List (Nat × Nat) → Resp × State
  | [] => (.okay, s)
  | (key, page) :: r =>
    match s.setPte n a key (some { page, w := true }) with
    | (.okay, s1) =>
      match s1.setRecs n a ((page, KvRec.plus) :: tableCounts (s1.ctx n) a [key] KvRec.plus) with
      | (.okay, s2) => s2.mapPages n a r
      | (e, s2) => (e, s2)
    | (e, s1) => (e, s1)

/-- KV_MAP ends: its tables and pages are written. -/
def State.finishMap (s : State) (n : Nat) (a : KvArea) (op : KvOp) : KvOut × State :=
  kvThen (s.takeTables n a op.tables) fun s0 =>
  kvThen (s0.mapPages n a (op.moves.map fun m => (m.1, m.2.2))) fun s1 => (.done stOk 0, s1)

/-- Steps 1 and 2 of KV_MAP, and its end where nothing is to be filled. -/
def State.beginMap (s : State) (n : Nat) (a : KvArea) (geo : KvGeom) (op : KvOp) (zero : Bool) : KvOut × State :=
  let keys := (geo.keys op.seq (op.t0 / geo.tpp) ((op.t1 - 1) / geo.tpp + 1)).filter fun k => ((s.ctx n).kvPte k).isNone
  match s.reserve n a keys keys with
  | (none, s1) => (.done stTranslation 0, s1)
  | (some (moves, tables), s1) =>
    if zero && !moves.isEmpty then (.waits { op with stage := .copying, moves, tables }, s1)
    else s1.finishMap n a { op with moves, tables }

/-- Steps 2 and 3 of KV_FORK: the parent's prefix pages become read-only, and a fence of the parent follows. -/
def State.beginFork (s : State) (n : Nat) (a : KvArea) (geo : KvGeom) (op : KvOp) (parent : Nat) : KvOut × State :=
  let pages := ceilDiv op.t1 geo.tpp
  let keys := geo.keys parent 0 pages
  let childKeys := geo.keys op.seq 0 pages
  match s.reserve n a [] childKeys with
  | (none, s1) => (.done stTranslation 0, s1)
  | (some (_, tables), s1) =>
    kvThen (s1.setPtes n a (keys.filterMap fun k => ((s1.ctx n).kvPte k).map fun p => (k, some { p with w := false }))) fun s2 =>
      (.waits { op with stage := .fencing, tables }, s2)

/-- Steps 1 and 2 of KV_UNMAP: V is cleared from page ceil(T0 / TPP) upward, and a fence follows.  `moves` keeps the pages. -/
def State.beginUnmap (s : State) (n : Nat) (a : KvArea) (geo : KvGeom) (op : KvOp) : KvOut × State :=
  let keys := (geo.keys op.seq (ceilDiv op.t0 geo.tpp) geo.pps).filter fun k => ((s.ctx n).kvPte k).isSome
  let moves := keys.filterMap fun k => ((s.ctx n).kvPte k).map fun p => (k, some p.page, 0)
  kvThen (s.setPtes n a (keys.map fun k => (k, none))) fun s1 => (.waits { op with stage := .fencing, moves }, s1)

/-- Step 5 of an append: this sequence's PTEs become writable and name the new pages; a fence follows (R163). -/
def State.appendPtes (s : State) (n : Nat) (a : KvArea) (geo : KvGeom) (op : KvOp) : KvOut × State :=
  let keys := geo.keys op.seq (op.t0 / geo.tpp) (op.t0 / geo.tpp + 1)
  let own := keys.filterMap fun k =>
    match op.moves.find? fun m => Nat.beq m.1 k with
    | some m => some (k, some { page := m.2.2, w := true })
    | none => match (s.ctx n).kvPte k with
      | some p => if p.w then none else some (k, some { p with w := true })
      | none => none
  kvThen (s.takeTables n a op.tables) fun s0 =>
  kvThen (s0.setPtes n a own) fun s1 => (.waits { op with stage := .fencing }, s1)

/-- Steps 2 to 4 of an append, or its grant at once where every page is private and writable (R163). -/
def State.beginAppend (s : State) (n : Nat) (a : KvArea) (geo : KvGeom) (op : KvOp) : KvOut × State :=
  let c := s.ctx n
  let keys := geo.keys op.seq (op.t0 / geo.tpp) (op.t0 / geo.tpp + 1)
  let fresh := keys.filter fun k => match c.kvPte k with | none => true | some p => Nat.ble 2 (c.kvRec p.page).refcnt
  let readOnly := keys.any fun k => match c.kvPte k with | none => false | some p => !p.w
  if fresh.isEmpty && !readOnly then (.done stOk 0, s)
  else
    match s.reserve n a fresh fresh with
    | (none, s1) => (.done stTranslation 0, s1)
    | (some (moves, tables), s1) =>
      if moves.isEmpty then s1.appendPtes n a geo { op with tables }
      else (.waits { op with stage := .copying, moves, tables }, s1)

/-- The copies or zero-fills of an action complete at device scope (R163 step 4, R168, R532). -/
def State.kvCopied (s : State) (n : Nat) (op : KvOp) : KvOut × State :=
  match s.kvArea n, (s.ctx n).kvGeom with
  | some a, some geo =>
    match s.fillPages n a geo op.src.initiator (op.t0 % geo.tpp) op.moves with
    | (.okay, _, s1) =>
      match op.kind with
      | .append => s1.appendPtes n a geo op
      | _ => s1.finishMap n a op
    | (e, true, s1) => (.done (faultOf e) 0, s1)
    | (e, false, s1) => (.broken e, s1)
  | _, _ => (.done stShape noDetail, s)

/-- The translations of a sequence's range that the IOMMU holds are dropped (R161). -/
def State.dropHeld (s : State) (n : Nat) (a : KvArea) (seq : Nat) : State :=
  { s with iotlb := s.iotlb.filter fun w => !(Nat.beq w.ctx n && inRange w.iova (a.base + seq * 0x10000000)
      (a.base + (seq + 1) * 0x10000000)) }

/-- Level-0 tables whose last mapping has gone leave their spans (R160, R166).  DESIGN CHOICE, log entry 73: their level-1 entries
are cleared after the counts, with no further fence. -/
def State.dropTables (s : State) (n : Nat) (a : KvArea) : Resp × State :=
  let c := s.ctx n
  let gone := c.kvTables.filter fun e => decide ((c.kvRec (a.poolPages + e.2)).st = .retiring)
  let s1 := s.setCtx n { c with kvTables := c.kvTables.filter fun e => !(gone.contains e) }
  s1.kvWrites (s1.kvReq .miller n a) n (gone.map fun e => (a.l1Base + e.1 * 8, leBytes 8 0))

/-- The KV fence of an action completes (R161), and the action goes on: R163 step 7, R168. -/
def State.kvFenced (s : State) (n : Nat) (op : KvOp) : KvOut × State :=
  match s.kvArea n, (s.ctx n).kvGeom with
  | some a, some geo =>
    match op.kind with
    | .append =>
      let s0 := s.dropHeld n a op.seq
      let olds := op.moves.filterMap fun m => m.2.1.map fun p => (p, KvRec.share)
      let added := (op.moves.filter fun m => m.2.1.isNone).map (·.1)
      kvThen (s0.setRecs n a (olds ++ (op.moves.map fun m => (m.2.2, KvRec.plus)) ++
        tableCounts (s0.ctx n) a added KvRec.plus)) fun s1 => (.done stOk 0, s1)
    | .unmap =>
      let s0 := s.dropHeld n a op.seq
      let c := s0.ctx n
      let s1 := s0.setCtx n { c with epoch := c.epoch + 1 }
      let e := c.epoch + 1
      kvThen (s1.setRecs n a ((op.moves.filterMap fun m => m.2.1.map fun p => (p, KvRec.minus e)) ++
        tableCounts (s1.ctx n) a (op.moves.map (·.1)) (KvRec.minus e))) fun s2 =>
      kvThen (s2.dropTables n a) fun s3 => (.done stOk 0, s3)
    | .fork parent =>
      let pages := ceilDiv op.t1 geo.tpp
      let child := (List.range geo.nseg).flatMap fun g => (List.range pages).filterMap fun i =>
        ((s.ctx n).kvPte (geo.key parent g i)).map fun p => (geo.key op.seq g i, p.page)
      match op.stage with
      | .fencing =>
        kvThen ((s.dropHeld n a parent).takeTables n a op.tables) fun s0 =>
        kvThen (s0.setPtes n a (child.map fun x => (x.1, some { page := x.2, w := false }))) fun s1 =>
          (.waits { op with stage := .fencingChild }, s1)
      | _ =>
        let s0 := s.dropHeld n a op.seq
        kvThen (s0.setRecs n a ((child.map fun x => (x.2, KvRec.plus)) ++
          tableCounts (s0.ctx n) a (child.map (·.1)) KvRec.plus)) fun s1 => (.done stOk 0, s1)
    | .map _ => (.done stOk 0, s)
  | _, _ => (.done stShape noDetail, s)

/-! ## The KV commands of a ring (R167, R168) -/

/-- A placed job of context `n` holds an append grant on a sequence. -/
def State.granted (s : State) (n seq : Nat) : Bool :=
  s.jobs.any fun j => Nat.beq j.ctx n && j.lane.isSome && j.grants.contains seq

/-- The action of a KV command on its operands. -/
def kvOpOf (r : Nat) (h : HeldEntry) : KvOp :=
  let b := h.bytes
  let mk := fun kind t0 t1 => { src := KvSource.entry r h.idx, kind, seq := fieldAt b 32 2, t0, t1, stage := .waiting, moves := [], tables := [] }
  match h.kind with
  | 0x10 => mk (.map (bitAt (fieldAt b 34 2) 0)) (fieldAt b 36 4) (fieldAt b 40 4)
  | 0x11 => mk (.fork (fieldAt b 34 2)) 0 (fieldAt b 36 4)
  | _ => mk .unmap (fieldAt b 36 4) 0

/-- The shape rules of R167 for an action whose turn has come; an append request keeps its own (R163).  DESIGN CHOICE, log entry
73: T0 ≥ T1 of KV_MAP and T = 0 of KV_FORK, which the table does not name, end with REJECT_SHAPE too. -/
def State.kvShape (s : State) (n : Nat) (op : KvOp) : Checked Unit :=
  match s.kvArea n, (s.ctx n).kvGeom with
  | some a, some geo =>
    match op.kind with
    | .map _ => firstBad stShape [(32, Nat.blt op.seq a.maxSeq), (36, Nat.ble op.t0 geo.maxtok),
        (40, Nat.blt op.t0 op.t1 && Nat.ble op.t1 geo.maxtok)]
    | .fork parent =>
      let lo := op.seq * 4096
      firstBad stShape [(32, Nat.blt op.seq a.maxSeq && !(Nat.beq op.seq parent) &&
          !((s.ctx n).kvMaps.any fun e => inRange e.1 lo (lo + 4096))),
        (34, Nat.blt parent a.maxSeq), (36, Nat.blt 0 op.t1 && Nat.ble op.t1 geo.maxtok),
        (34, (geo.keys parent 0 (ceilDiv op.t1 geo.tpp)).all fun k => ((s.ctx n).kvPte k).isSome)]
    | .unmap => firstBad stShape [(32, Nat.blt op.seq a.maxSeq), (36, Nat.ble op.t0 geo.maxtok)]
    | .append => .ok ()
  | _, _ => .bad stShape noDetail

/-- An action begins when its turn comes (R163, R167, R168). -/
def State.beginKv (s : State) (n : Nat) (op : KvOp) : KvOut × State :=
  match s.kvShape n op, s.kvArea n, (s.ctx n).kvGeom with
  | .ok _, some a, some geo =>
    match op.kind with
    | .map zero => s.beginMap n a geo op zero
    | .fork parent => s.beginFork n a geo op parent
    | .unmap => s.beginUnmap n a geo op
    | .append => s.beginAppend n a geo op
  | .bad status detail, _, _ => (.done status detail, s)
  | _, _, _ => (.done stShape noDetail, s)

end Sys2Proof.Machine
end

