-- ==== Sys2Proof/Machine/Timetable.lean ====
section
/-!
DEFINITION. The timetable: banks of entries, firings and their release events, trigger pins, bank swaps, and what a phase step
does to it (09_network_time_and_timetable R254, R259 to R266).
-/

namespace Sys2Proof.Machine

open Host (Outcome)

/-! ## Entries (R259 to R261) -/

/-- Entry i of a bank's bytes. -/
def ttEntry (bank : List (Nat × Byte)) (i : Nat) : TtEntry :=
  let bs := SMap.getMany (fun _ => 0#8) bank (32 * i) 32
  { offset := fieldAt bs 0 4, period := fieldAt bs 4 4, action := fieldAt bs 8 1, flags := fieldAt bs 9 1,
    zero := fieldAt bs 10 2 + fieldAt bs 24 8, arg0 := fieldAt bs 12 4, arg1 := fieldAt bs 16 4, tag := fieldAt bs 20 4 }

/-- EN of an entry. -/
def TtEntry.on (e : TtEntry) : Bool := bitAt e.offset 31

/-- The first firing in the cycle and the repeat period, in ns; period 0 is once per cycle. -/
def TtEntry.firstNs (e : TtEntry) : Nat := 2 * (e.offset % 2 ^ 29)
def TtEntry.periodNs (e : TtEntry) : Nat := 2 * (e.period % 2 ^ 29)

/-- NOSKIP of an entry. -/
def TtEntry.noskip (e : TtEntry) : Bool := bitAt e.flags 0

/-- The bits of ARG0 and ARG1 that an action defines (R261); none for a reserved action. -/
def actionArgs : Nat → Option (Nat × Nat)
  | 0 => some (0, 0)
  | 1 => some (0x37, 0)
  | 2 => some (0x71F, 0)
  | 3 => some (0x3F, 0)
  | 4 => some (0x10F, 0xFFFF)
  | 5 => some (0x3FFF, 0xF)
  | 6 => some (0xFF07, 0)
  | _ => none

/-- The entry holds a reserved value (R260, R261). -/
def TtEntry.reserved (e : TtEntry) : Bool :=
  !(Nat.beq (bitsOf e.offset 30 29) 0) || !(Nat.beq (bitsOf e.period 31 29) 0) || Nat.ble 2 e.flags || !(Nat.beq e.zero 0) ||
    match actionArgs e.action with
    | none => true
    | some m => !(Nat.beq (e.arg0 &&& m.1) e.arg0) || !(Nat.beq (e.arg1 &&& m.2) e.arg1) ||
        (Nat.beq e.action 6 && Nat.beq (bitsOf e.arg0 2 0) 0)

/-- The entry makes the check of a swap fail for a bank with this CYCLE (R263). -/
def TtEntry.bad (e : TtEntry) (cycle : Nat) : Bool :=
  e.reserved || Nat.ble cycle e.firstNs || inRange (e.period % 2 ^ 29) 1 500

/-- The latest firing time at or before `x` (R260); a time beyond the cycle is never one. -/
def TtEntry.lastFiring (e : TtEntry) (cycle x : Nat) : Option Nat :=
  let start := x - x % cycle
  let o := e.firstNs
  let p := e.periodNs
  let within (span : Nat) := if Nat.beq p 0 then 0 else span / p * p
  if Nat.ble cycle o then none
  else if Nat.ble o (x % cycle) then some (start + o + within (x % cycle - o))
  else if Nat.ble cycle start then some (start - cycle + o + within (cycle - 1 - o))
  else none

/-- The active bank. -/
def State.ttActive (s : State) : Nat := s.fld Reg.TTB_CTRL Fld.TTB_CTRL_ACTIVE

/-- Bytes of bank b. -/
def State.ttBank (s : State) (b : Nat) : List (Nat × Byte) := s.tt.banks[Fin.ofNat 2 b]

/-- CYCLE of bank b. -/
def State.ttCycle (s : State) (b : Nat) : Nat := s.fld (Reg.TTB_CYCLE b) Fld.TTB_CYCLE_CYCLE

/-- Entry i of the active bank. -/
def State.ttEntry (s : State) (i : Nat) : TtEntry := Machine.ttEntry (s.ttBank s.ttActive) i

/-! ## Firing (R254, R262) -/

/-- A PIN action on pin n: edge 0 to 3 = RISE, FALL, TOGGLE, PULSE (R254). -/
def State.pinAction (s : State) (n edge : Nat) : State :=
  let k := Fin.ofNat 8 n
  let width := s.fld (Reg.TTB_TRIG_CFG n) Fld.TTB_TRIG_CFG_WIDTH
  let level := match edge with
    | 1 => false
    | 2 => !s.tt.levels[k]
    | _ => true
  let pulses := if Nat.beq edge 3 && !(Nat.beq width 0) then
      s.tt.pulses.set k (some (s.tb.elapsed + 2 * width * nsE)) else s.tt.pulses
  { s with tt := { s.tt with levels := s.tt.levels.set k level, pulses } }

/-- Entry `e` of number i fires for its scheduled time: a PIN action acts at once, any other becomes a release event on the time
bus, and trace point 224 is produced (R262, R487).  A NONE event has no receiver and leaves the bus with the next tick. -/
def State.fire (s : State) (i : Nat) (e : TtEntry) (sched : Nat) (skipped : Bool) : State :=
  let s1 := { s with tt := { s.tt with fired := SMap.insert s.tt.fired i sched } }
  let s2 : State :=
    match e.action with
    | 1 => s1.pinAction (bitsOf e.arg0 2 0) (bitsOf e.arg0 5 4)
    | a =>
      let ev : ReleaseEvent := { entry := i, action := a, arg0 := e.arg0, arg1 := e.arg1, tag := e.tag, sched, skipped }
      { s1 with bus := s1.bus ++ [ev] }
  s2.log (traceRecord 224 e.tag [i, e.action, skipped.toNat])

/-- Entry i of the active bank fires. -/
def State.fireEntry (s : State) (i : Nat) (sched : Nat) : State := s.fire i (s.ttEntry i) sched false

/-- The numbers of the entries of the active bank that hold anything. -/
def State.ttListed (s : State) : List Nat := ((s.ttBank s.ttActive).map fun c => c.1 / 32).eraseDups

/-- The firing of entry i that is due at time `x`: its latest one, where the timetable fires it (R264 to R266) and it has not
fired.  The bank that an armed swap takes out fires nothing from the swap's boundary on (R263). -/
def State.dueFiring (s : State) (i x : Nat) : Option Nat :=
  let e := s.ttEntry i
  let upTo := match s.tt.swapAt with
    | some b => min x (b - 1)
    | none => x
  match s.tt.firesFrom with
  | none => none
  | some from_ =>
    if !e.on then none
    else
      (e.lastFiring (s.ttCycle s.ttActive) upTo).filter fun f =>
        Nat.ble from_ f && Nat.ble s.tt.floor f &&
          match SMap.find s.tt.fired i with
          | some l => Nat.blt l f
          | none => true

/-- Entry i fires before every other due entry of the tick: those of lower numbers have fired (R254, R262).  What an earlier tick owed
has fired with the start of this one. -/
def State.firesFirst (s : State) (i : Nat) : Bool :=
  s.ttListed.all fun j => Nat.ble i j || (s.dueFiring j s.now).isNone

/-- TIMETABLE_FIRING: an entry whose firing time is reached fires, in the order of the entries of the tick. -/
def execTimetableFiring (entry : Fin 1024) (s : State) : Outcome State Fault Refusal :=
  .next <|
    match s.dueFiring entry s.now with
    | some f => if s.firesFirst entry then s.fireEntry entry f else s
    | none => s

/-- TRIGGER_PULSE_END: the width of a PULSE has passed and the pin goes inactive (R254). -/
def execTriggerPulseEnd (pin : Fin 8) (s : State) : Outcome State Fault Refusal :=
  .next <|
    match s.tt.pulses[pin] with
    | some t =>
      if Nat.ble t s.tb.elapsed then
        { s with tt := { s.tt with levels := s.tt.levels.set pin false, pulses := s.tt.pulses.set pin none } }
      else s
    | none => s

/-- The electrical level of TRIG_OUT[n]; none is high-impedance (R254). -/
def State.trigOut (s : State) (n : Fin 8) : Option Bool :=
  if s.flag (Reg.TTB_TRIG_CFG n) Fld.TTB_TRIG_CFG_OE then
    some ((s.tt.levels[n]).xor (s.flag (Reg.TTB_TRIG_CFG n) Fld.TTB_TRIG_CFG_POL))
  else none

/-! ## Control, window and swaps (R263, R264) -/

/-- A write of TTB_CTRL: ENABLE 0 to 1 starts firing at the next boundary, and with ENABLE 0 nothing fires, what a step has skipped
included; SWAP starts the check of the idle bank. -/
def State.writeTtbCtrl (s : State) (w : Word) : State :=
  let was := s.flag Reg.TTB_CTRL Fld.TTB_CTRL_ENABLE
  let swapping := s.flag Reg.TTB_CTRL Fld.TTB_CTRL_SWAP
  let s1 := s.plainWrite Reg.TTB_CTRL w
  let en := s1.flag Reg.TTB_CTRL Fld.TTB_CTRL_ENABLE
  let c := s.ttCycle s.ttActive
  let from_ := if en then (if was then s.tt.firesFrom else some ((s.now / c + 1) * c)) else none
  { s1 with tt := { s1.tt with
      firesFrom := from_
      skips := if en then s1.tt.skips else []
      swapCheck := s1.tt.swapCheck || (s1.flag Reg.TTB_CTRL Fld.TTB_CTRL_SWAP && !swapping) } }

/-- TIMETABLE_SWAP_REQUEST -/
def execTimetableSwapRequest (req : Req) (value : Word) (s : State) : Outcome State Fault Refusal :=
  .next (s.busWrite req Reg.TTB_CTRL value (·.writeTtbCtrl value))

/-- TIMETABLE_ENABLE -/
def execTimetableEnable (req : Req) (value : Word) (s : State) : Outcome State Fault Refusal :=
  .next (s.busWrite req Reg.TTB_CTRL value (·.writeTtbCtrl value))

/-- The first time after `x` whose NS is a multiple of both CYCLEs, which divide 10⁹ (R263). -/
def State.commonBoundary (s : State) (x : Nat) : Nat :=
  let l := Nat.lcm (s.ttCycle 0) (s.ttCycle 1)
  (x / l + 1) * l

/-- TIMETABLE_SWAP_CHECK_DONE: the swap is refused at the first bad entry, or armed for the first common boundary after now, after a
backward step also after the time that the step left (R266). -/
def execTimetableSwapCheckDone (s : State) : Outcome State Fault Refusal :=
  .next <|
    if s.tt.swapCheck then
      let idle := 1 - s.ttActive
      let s1 := { s with tt := { s.tt with swapCheck := false } }
      let bad (i : Nat) : Bool := let e := Machine.ttEntry (s.ttBank idle) i; e.on && e.bad (s.ttCycle idle)
      match (List.range 1024).find? bad with
      | some i =>
        ((s1.raise Reg.TTB_STATUS Fld.TTB_STATUS_SWAP_ERR).setFld Reg.TTB_STATUS Fld.TTB_STATUS_ERR_ENTRY i).lower
          Reg.TTB_CTRL Fld.TTB_CTRL_SWAP
      | none => { s1 with tt := { s1.tt with swapAt := some (s.commonBoundary (max s.now (s.tt.floor - 1))) } }
    else s

/-- The banks exchange roles at the boundary `b`. -/
def State.swapBanks (s : State) (b : Nat) : State :=
  let s1 := { s with tt := { s.tt with
    swapAt := none, fired := [], firesFrom := s.tt.firesFrom.map fun f => max f b } }
  (s1.setFld Reg.TTB_CTRL Fld.TTB_CTRL_ACTIVE (1 - s.ttActive)).lower Reg.TTB_CTRL Fld.TTB_CTRL_SWAP

/-- Entry i of the active bank fires where it is due at time `x`: once for the firing that a step has skipped, if it is in `skips`, and
once for the one due now. -/
def State.fireOwed (skips : List (Nat × TtEntry × Nat)) (x : Nat) (s : State) (i : Nat) : State :=
  let s1 := match skips.find? (fun k => Nat.beq k.1 i) with
    | some k => s.fire k.1 k.2.1 k.2.2 true
    | none => s
  match s1.dueFiring i x with
  | some f => s1.fireEntry i f
  | none => s1

/-- Every firing due at time `x`, and those in `skips`, go out in ascending entry number (R254, R262). -/
def State.fireDue (s : State) (skips : List (Nat × TtEntry × Nat)) (x : Nat) : State :=
  match s.tt.firesFrom with
  | none => s
  | some _ => (List.range 1024).foldl (State.fireOwed skips x) s

/-- A swap whose boundary is at or before `x` happens, after what the bank that goes idle still owes has fired. -/
def State.swapUpTo (s : State) (x : Nat) : State :=
  match s.tt.swapAt with
  | some b => if Nat.ble b x then (s.fireDue [] x).swapBanks b else s
  | none => s

/-- TIMETABLE_BANK_SWAP -/
def execTimetableBankSwap (s : State) : Outcome State Fault Refusal := .next (s.swapUpTo s.now)

/-- A write of the window: into the idle bank, and not while SWAP = 1 (R263). -/
def State.writeTtbWindow (s : State) (a : Nat) (w : Word) : State :=
  if s.flag Reg.TTB_CTRL Fld.TTB_CTRL_SWAP then s.raise Reg.TTB_STATUS Fld.TTB_STATUS_WIN_ERR
  else
    let b := Fin.ofNat 2 (1 - s.ttActive)
    let bank := SMap.setMany (fun _ => 0#8) s.tt.banks[b] (a % 0x8000) (leBytes 4 w.toNat)
    { s with tt := { s.tt with banks := s.tt.banks.set b bank } }

/-- A write of TTB_CYCLEb (R259, R263). -/
def State.writeTtbCycle (s : State) (b : Nat) (w : Word) : State :=
  let c := Fld.TTB_CYCLE_CYCLE.get w
  if Nat.beq b s.ttActive || s.flag Reg.TTB_CTRL Fld.TTB_CTRL_SWAP || Nat.blt c 10000 || Nat.blt 1000000000 c ||
      !(Nat.beq (c % 2) 0) || !(Nat.beq (1000000000 % c) 0) then s.raise Reg.TTB_STATUS Fld.TTB_STATUS_WIN_ERR
  else s.plainWrite (Reg.TTB_CYCLE b) w

/-- TTB_SKIP_READ -/
def execTtbSkipRead (req : Req) (s : State) : Outcome State Fault Refusal := .next (s.readClear req Reg.TTB_SKIP)

/-! ## Phase steps (R265, R266; the step is judged from the time its tick would have given, log entry 19) -/

/-- What is due at the time `x` fires, in ascending entry number. -/
def State.fireUpTo (s : State) (x : Nat) : State := (s.swapUpTo x).fireDue [] x

/-- The latest firing of entry i of the active bank within [lo, hi). -/
def State.firingWithin (s : State) (i lo hi : Nat) : Option Nat :=
  let e := s.ttEntry i
  if e.on && Nat.blt lo hi then (e.lastFiring (s.ttCycle s.ttActive) (hi - 1)).filter fun f => Nat.ble lo f else none

/-- Each entry of the active bank with a firing within [lo, hi) is counted by `f`. -/
def State.countSkips (s : State) (lo hi : Nat) (f : State → TtEntry → State) : State :=
  match s.tt.firesFrom with
  | none => s
  | some _ =>
    (List.range 1024).foldl (fun s i => if (s.firingWithin i lo hi).isSome then f s (s.ttEntry i) else s) s

/-- A forward step from t0 to t1: a pending swap completes, entries of a bank swapped out are dropped, and those of the bank
active after the step are counted and will fire in the first tick after it (R265). -/
def State.skipForward (s : State) (t0 t1 : Nat) : State :=
  let drop (s : State) := s.count Reg.TTB_SKIP Fld.TTB_SKIP_DROPPED 1
  let start (s : State) := max (max (t0 + 1) s.tt.floor) (s.tt.firesFrom.getD 0)
  let swap := s.tt.swapAt.filter fun b => Nat.blt b t1
  let s1 := match swap with
    | some b => (s.countSkips (start s) b fun s _ => drop s).swapBanks b
    | none => s
  let lo := max (start s1) (swap.getD 0)
  let s2 := s1.countSkips lo t1 fun s e => if e.noskip then drop s else s.count Reg.TTB_SKIP Fld.TTB_SKIP_SKIPPED 1
  let found := (List.range 1024).filterMap fun i =>
    match s1.tt.firesFrom, s1.firingWithin i lo t1 with
    | some _, some f => if (s1.ttEntry i).noskip then none else some (i, s1.ttEntry i, f)
    | _, _ => none
  { s2 with tt := { s2.tt with floor := max s2.tt.floor t1, skips := s2.tt.skips ++ found } }

/-- A backward step from t0: nothing at or below t0 fires again, and a pending swap waits for a boundary after t0 (R266). -/
def State.stepBack (s : State) (t0 : Nat) : State :=
  { s with tt := { s.tt with
      floor := max s.tt.floor (t0 + 1)
      swapAt := s.tt.swapAt.map fun b => if Nat.ble b t0 then s.commonBoundary t0 else b } }

/-- What a step from t0 to t1 does to the Fusion Unit: Φ_ref of each sensor is set at its next pairing (R306), and firings within
a skipped interval pair with no sample (R300). -/
def State.fusionStep (s : State) (t0 t1 : Nat) : State :=
  let f := s.fusion
  { s with fusion := { f with drifts := f.drifts.map fun (d : Drift) => { d with again := d.ref.isSome }
                              skips := if Nat.blt t0 t1 then f.skips ++ [(t0, t1)] else f.skips } }

/-- What a step from t0 to t1 does to the timetable and to those that follow its firings. -/
def State.ttStep (s : State) (t0 t1 : Nat) : State :=
  let s1 := (s.fireUpTo t0).fusionStep t0 t1
  if Nat.blt t0 t1 then s1.skipForward t0 t1 else s1.stepBack t0

/-- The entries skipped by a forward step fire once, with the SKIPPED mark, in the first tick after it (R265), in one order with those
due in that tick. -/
def State.fireSkipped (s : State) : State :=
  if s.tt.skips.isEmpty then s else ({ s with tt := { s.tt with skips := [] } }.swapUpTo s.now).fireDue s.tt.skips s.now

/-! ## HEATH_CYCLE (R261) -/

/-- The oldest release event of an action, and the bus without it. -/
def State.takeEvent (s : State) (action : Nat) : Option (ReleaseEvent × State) :=
  match s.bus.find? fun e => Nat.beq e.action action with
  | some e => some (e, { s with bus := s.bus.erase e })
  | none => none

/-- HEATH_CYCLE_EVENT: the control-cycle interrupt of each named Heath core becomes pending with the phase; unless Heath is split, an event
with any core bit set reaches all that run (13_host_cores_and_redundancy R377, R381). -/
def execHeathCycleEvent (s : State) : Outcome State Fault Refusal :=
  .next <|
    match s.takeEvent 6 with
    | none => s
    | some (e, s1) =>
      let all := !s1.heathSplits && !(Nat.beq (bitsOf e.arg0 2 0) 0)
      let cores := (List.range 3).foldl (fun (cs : Vector HeathCore 3) k =>
        if (all || bitAt e.arg0 k) && !cs[Fin.ofNat 3 k].fenced then
          cs.set (Fin.ofNat 3 k) { cs[Fin.ofNat 3 k] with irq := some (bitsOf e.arg0 15 8) }
        else cs) s1.heath.cores
      { s1 with heath := { s1.heath with cores } }

end Sys2Proof.Machine
end

