-- ==== Sys2Proof/Machine/Gateway.lean ====
section
/-!
DEFINITION. The Hedgerow switch: gate lists, forwarding, the host interface of port 12 and the listeners of the tunnel engine
(15_bridges_and_gateway R421 to R429, R433).
-/

namespace Sys2Proof.Machine

open Host (Outcome)

/-! ## Gate lists (R428, R429) -/

/-- What a window byte of the switch reads as while nothing has written it. -/
def tswDflt : Nat → Byte := fun _ => 0#8

/-- The intervals and gates of list l, up to the entry that ends it. -/
def State.gateList (s : State) (l : Nat) : List (Nat × Nat) :=
  ((List.range 64).map fun e =>
    let bs := SMap.getMany tswDflt s.gw.lists (0x8000 + 0x200 * l + 8 * e) 8
    (fieldAt bs 0 4, fieldAt bs 4 1)).takeWhile fun x => !(Nat.beq x.1 0)

/-- The cycle of list l. -/
def State.gateCycle (s : State) (l : Nat) : Nat := (s.gateList l).foldl (fun k x => k + x.1) 0

/-- A list whose cycle R428 allows. -/
def State.gateListOk (s : State) (l : Nat) : Bool :=
  let c := s.gateCycle l
  inRange c 10000 1000000001 && Nat.beq (1000000000 % c) 0

/-- The gates at `t` ns into a cycle. -/
def gatesAt : Nat → List (Nat × Nat) → Nat
  | _, [] => 255
  | t, (d, g) :: r => if Nat.blt t d then g else gatesAt (t - d) r

/-- The rate of a port in Mb/s (R421). -/
def portRate (p : Nat) : Nat :=
  if Nat.blt p 8 then 1000
  else if Nat.blt p 12 then [10000, 5000, 2500, 1000, 100].getD (Config.phyRate p) 1000
  else if Nat.beq p 12 then 25000 else 1000

/-- The ns that a frame takes at a port: preamble, bytes and FCS (IEEE 802.3, PRESUMED; log entry 36). -/
def frameNs (p : Nat) (bytes : List Byte) : Nat := ((bytes.length + 12) * 8000 + portRate p - 1) / portRate p

/-- What of a list is left `t` ns into its cycle. -/
def gatesFrom : Nat → List (Nat × Nat) → List (Nat × Nat)
  | _, [] => []
  | t, (d, g) :: r => if Nat.blt t d then (d - t, g) :: r else gatesFrom (t - d) r

/-- The ns for which the gate of class tc stays open from the start of a list on. -/
def openRun (tc : Nat) : List (Nat × Nat) → Nat
  | [] => 0
  | (d, g) :: r => if bitAt g tc then d + openRun tc r else 0

/-- The gate of class tc is open at port p now, and stays open for `ns`: the guard band of R428. -/
def State.gateOpen (s : State) (p tc ns : Nat) : Bool :=
  let a := Reg.TSW_GCL p
  if s.flag a Fld.TSW_GCL_ACTIVE then
    let l := s.gateList (s.fld a Fld.TSW_GCL_LIST)
    let c := s.gateCycle (s.fld a Fld.TSW_GCL_LIST)
    let t := s.now % c
    bitAt (gatesAt t l) tc && (l.all (fun x => bitAt x.2 tc) || Nat.ble ns (openRun tc (gatesFrom t l ++ l)))
  else true

/-- A port follows, or will follow, list l. -/
def State.gateListUsed (s : State) (l : Nat) : Bool :=
  (List.range 14).any fun p =>
    (s.flag (Reg.TSW_GCL p) Fld.TSW_GCL_ACTIVE && Nat.beq (s.fld (Reg.TSW_GCL p) Fld.TSW_GCL_LIST) l) ||
      (match s.gw.pendList[Fin.ofNat 14 p] with | some x => Nat.beq x.1 l | none => false)

/-- CFG_ERR of the switch. -/
def State.tswErr (s : State) : State := s.raise Reg.TSW_STATUS Fld.TSW_STATUS_CFG_ERR

/-- A write of the gate-list window: a list in use is not changed. -/
def State.writeGateList (s : State) (a : Nat) (w : Word) : State :=
  let o := a - 0x18000000
  if s.gateListUsed ((o - 0x8000) / 0x200) then s.tswErr
  else { s with gw := { s.gw with lists := SMap.setMany tswDflt s.gw.lists o (leBytes 4 w.toNat) } }

/-- GATE_SWITCH_EVENT: each port named will follow the list from the first start of its cycle, or the list is refused. -/
def execGateSwitchEvent (s : State) : Outcome State Fault Refusal :=
  .next <|
    match s.takeEvent 5 with
    | none => s
    | some (e, s1) =>
      let l := bitsOf e.arg1 3 0
      if s1.gateListOk l then
        let c := s1.gateCycle l
        let t := (s1.now + c - 1) / c * c
        let pendList := (List.range 14).foldl (fun (v : Vector (Option (Nat × Nat)) 14) p =>
          if bitAt e.arg0 p then v.set (Fin.ofNat 14 p) (some (l, t)) else v) s1.gw.pendList
        { s1 with gw := { s1.gw with pendList } }
      else s1.tswErr

/-- TSW_GCLp.CLEAR: the port follows no list. -/
def State.writeGcl (s : State) (p : Nat) (w : Word) : State :=
  let a := Reg.TSW_GCL p
  if Nat.beq (Fld.TSW_GCL_CLEAR.get w) 1 then (s.lower a Fld.TSW_GCL_ACTIVE).setFld a Fld.TSW_GCL_LIST 0 else s

/-- GATE_LIST_CLEAR -/
def execGateListClear (port : Fin 14) (req : Req) (value : Word) (s : State) : Outcome State Fault Refusal :=
  .next (s.busWrite req (Reg.TSW_GCL port) value (·.writeGcl port value))

/-! ## The host interface (R424 to R426) -/

/-- Ring pairs of a descriptor: TX_LOG2 and RX_LOG2 of pair q. -/
def hifLog2 (b : List Byte) (q : Nat) : Nat × Nat := (fieldAt b (48 + 24 * q) 1, fieldAt b (49 + 24 * q) 1)

/-- The descriptor is within its ranges and its context ACTIVE. -/
def State.hifAdmits (s : State) (b : List Byte) : Bool :=
  let f (o n : Nat) := fieldAt b o n
  Nat.blt (f 0 1) 32 && Nat.ble (f 1 1) 11 && inRange (f 2 1) 11 15 && zeroAt b 3 1 && inRange (f 4 4) 1 2048 &&
    Nat.beq (f 8 8 % 4) 0 && zeroAt b 16 16 && zeroAt b 224 32 &&
    ((List.range 8).all fun q =>
      let (t, r) := hifLog2 b q
      zeroAt b (50 + 24 * q) 6 &&
        (if Nat.beq t 0 then Nat.beq r 0
         else inRange t 6 13 && inRange r 6 13 && Nat.beq (f (32 + 24 * q) 8 % (32 * 2 ^ t)) 0 &&
           Nat.beq (f (40 + 24 * q) 8 % (32 * 2 ^ r)) 0)) && s.isActive (f 0 1)

/-- The fields of the descriptor. -/
def hifDesc (b : List Byte) : HifDesc :=
  let v (g : Nat → Nat) : Vector Nat 8 := Vector.ofFn fun i => g i.val
  { ctx := fieldAt b 0 1, cls := fieldAt b 1 1, rxbLog2 := fieldAt b 2 1, msiAddr := fieldAt b 8 8, msiData := fieldAt b 4 4,
    txBase := v fun q => fieldAt b (32 + 24 * q) 8, rxBase := v fun q => fieldAt b (40 + 24 * q) 8,
    txLog2 := v fun q => (hifLog2 b q).1, rxLog2 := v fun q => (hifLog2 b q).2 }

/-- A request of the interface. -/
def State.hifReq (s : State) (d : HifDesc) : Req := s.unitReq .hedgerow d.cls d.ctx

/-- The indices of every ring are 0. -/
def State.hifIndices (s : State) : State :=
  (List.range 8).foldl (fun s q => (((s.setReg (Reg.HIF_DB_TX_TAIL q) 0#32).setReg (Reg.HIF_DB_TX_HEAD q) 0#32).setReg
    (Reg.HIF_DB_RX_TAIL q) 0#32).setReg (Reg.HIF_DB_RX_HEAD q) 0#32) s

/-- The interface is enabled by its descriptor, read in CTX0's device context, or refused (log entry 29). -/
def State.startHif (s : State) : State :=
  let a := Reg.TSW_HIF_CTRL
  let iova := s.fld Reg.TSW_HIF_DESC_HI Fld.FGD_STR_DESC_HI_ADDR_HI * 2 ^ 32 +
    s.fld Reg.TSW_HIF_DESC_LO Fld.FGD_STR_DESC_LO_ADDR_LO * 64
  let refuse (s : State) : State := (s.lower a Fld.FGD_STR_CTRL_EN).raise a Fld.FGD_STR_CTRL_CFG_ERR
  match s.fetch (s.unitReq .hedgerow 0 0) iova 256 with
  | (.okay, b, s1) =>
    if s1.hifAdmits b then { s1 with gw := { s1.gw with hif := some (hifDesc b) } }.hifIndices else refuse s1
  | (_, _, s1) => refuse s1

/-- The interface stops: unsent transmit entries are discarded without being written back. -/
def State.stopHif (s : State) : State :=
  let s1 := { s with gw := { s.gw with hif := none } }.lower Reg.TSW_HIF_CTRL Fld.FGD_STR_CTRL_EN
  (List.range 8).foldl (fun s q => s.setReg (Reg.HIF_DB_TX_HEAD q) (s.reg (Reg.HIF_DB_TX_TAIL q))) s1

/-- A write of TSW_HIF_CTRL. -/
def State.writeHifCtrl (s : State) (w : Word) : State :=
  let a := Reg.TSW_HIF_CTRL
  let s1 := s.plainWrite a w
  match s.flag a Fld.FGD_STR_CTRL_EN, s1.flag a Fld.FGD_STR_CTRL_EN with
  | false, true => s1.startHif
  | true, false => s1.stopHif
  | _, _ => s1

/-- HIF_ENABLE -/
def execHifEnable (req : Req) (value : Word) (s : State) : Outcome State Fault Refusal :=
  .next (s.busWrite req Reg.TSW_HIF_CTRL value (·.writeHifCtrl value))

/-- HIF_DISABLE -/
def execHifDisable (req : Req) (value : Word) (s : State) : Outcome State Fault Refusal :=
  .next (s.busWrite req Reg.TSW_HIF_CTRL value (·.writeHifCtrl value))

/-- A write of TSW_HIF_DESC_LO or _HI, ignored while EN = 1. -/
def State.writeHifDesc (s : State) (a : Nat) (w : Word) : State :=
  if s.flag Reg.TSW_HIF_CTRL Fld.FGD_STR_CTRL_EN then s else s.plainWrite a w

/-- An ignored write of the interface's doorbell page is counted. -/
def State.hifIgnored (s : State) : State := s.count Reg.HIF_DB_ERR Fld.HIF_DB_ERR_IGNORED 1

/-- A tail write of transmit (`tx`) or receive ring q (R426). -/
def State.writeHifTail (s : State) (tx : Bool) (q : Nat) (w : Word) : State :=
  let v := Fld.HIF_DB_TX_TAIL_TAIL.get w
  match s.gw.hif with
  | none => s.hifIgnored
  | some d =>
    let log2 := (if tx then d.txLog2 else d.rxLog2)[Fin.ofNat 8 q]
    if !(Nat.beq log2 0) && Nat.blt v (2 ^ log2) then
      s.setReg (if tx then Reg.HIF_DB_TX_TAIL q else Reg.HIF_DB_RX_TAIL q) (BitVec.ofNat 32 v)
    else s.hifIgnored

/-- HIF_TX_DOORBELL -/
def execHifTxDoorbell (ring : Fin 8) (req : Req) (value : Word) (s : State) : Outcome State Fault Refusal :=
  .next (s.busWrite req (Reg.HIF_DB_TX_TAIL ring) value (·.writeHifTail true ring value))

/-- HIF_RX_DOORBELL -/
def execHifRxDoorbell (ring : Fin 8) (req : Req) (value : Word) (s : State) : Outcome State Fault Refusal :=
  .next (s.busWrite req (Reg.HIF_DB_RX_TAIL ring) value (·.writeHifTail false ring value))

/-- HIF_DB_ERR_READ -/
def execHifDbErrRead (req : Req) (s : State) : Outcome State Fault Refusal := .next (s.readClear req Reg.HIF_DB_ERR)

/-- HIF_STAT_READ -/
def execHifStatRead (req : Req) (s : State) : Outcome State Fault Refusal := .next (s.readClear req Reg.TSW_HIF_STAT)

/-- A frame for port 12 is lost. -/
def State.hifLost (s : State) : State := s.count Reg.TSW_HIF_STAT Fld.TSW_HIF_STAT_RX_LOST 1

/-- The MSI of the interface. -/
def State.hifMsi (s : State) (d : HifDesc) : State := s.sendMsi .hedgerow d.ctx d.msiAddr d.msiData

/-- A frame that the switch forwards to port 12 goes to the receive ring of its class, or is lost (R425).  A frame of the tunnel
engine has no ingress port: its PORT byte is a free value (log entry 6). -/
def State.hifReceive (s : State) (f : EthFrame) : State :=
  match s.gw.hif with
  | none => s.hifLost
  | some d =>
    let q := f.tc
    let k := Fin.ofNat 8 q
    let head := s.fld (Reg.HIF_DB_RX_HEAD q) Fld.HIF_DB_RX_HEAD_HEAD
    if Nat.beq d.rxLog2[k] 0 || Nat.beq head (s.fld (Reg.HIF_DB_RX_TAIL q) Fld.HIF_DB_RX_TAIL_TAIL) ||
        Nat.blt (2 ^ d.rxbLog2) f.bytes.length then s.hifLost
    else
      let at_ := d.rxBase[k] + 32 * head
      match s.fetch (s.hifReq d) at_ 32 with
      | (.okay, e, s1) =>
        match s1.put (s.hifReq d) (fieldAt e 0 8) f.bytes with
        | (.okay, s2) =>
          let port := if Nat.blt f.inPort 14 then f.inPort else Config.freeValue s.ticks
          let ent := e.take 8 ++ leBytes 2 f.bytes.length ++ leBytes 1 1 ++ leBytes 1 port ++ leBytes 4 f.tIn ++ leBytes 16 0
          match { s2 with ticks := s2.ticks + 1 }.put (s.hifReq d) at_ ent with
          | (.okay, s3) => (s3.setReg (Reg.HIF_DB_RX_HEAD q) (BitVec.ofNat 32 ((head + 1) % 2 ^ d.rxLog2[k]))).hifMsi d
          | (_, s3) => s3.hifLost
        | (_, s2) => s2.hifLost
      | (_, _, s1) => s1.hifLost

/-! ## Tunnel listeners (R433; IEEE 1722-2016 formats PRESUMED, log entry 36) -/

/-- The field of `n` bytes at offset `o` of tunnel record t. -/
def State.tunField (s : State) (t o n : Nat) : Nat := leNat (SMap.getMany tswDflt s.gw.tunnels (0x6000 + 0x20 * t + o) n)

/-- A write of the tunnel window. -/
def State.writeTunnel (s : State) (a : Nat) (w : Word) : State :=
  { s with gw := { s.gw with tunnels := SMap.setMany tswDflt s.gw.tunnels (a - 0x18000000) (leBytes 4 w.toNat) } }

/-- DROP of tunnel t counts `n` more, and saturates. -/
def State.tunDrop (s : State) (t n : Nat) : State :=
  let v := min (s.tunField t 28 4 + n) (2 ^ 32 - 1)
  { s with gw := { s.gw with tunnels := SMap.setMany tswDflt s.gw.tunnels (0x6000 + 0x20 * t + 28) (leBytes 4 v) } }

/-- Bytes as a number, most significant first. -/
def beNat (bs : List Byte) : Nat := bs.foldl (fun v b => 256 * v + b.toNat) 0

/-- A number as `n` bytes, most significant first. -/
def beBytes (n v : Nat) : List Byte := (leBytes n v).reverse

/-- The payload of an AVTP frame: what follows EtherType 0x22F0, with or without a VLAN tag. -/
def avtpOf (b : List Byte) : Option (List Byte) :=
  let type (o : Nat) := beNat ((b.drop o).take 2)
  if Nat.beq (type 12) 0x22F0 then some (b.drop 14)
  else if Nat.beq (type 12) 0x8100 && Nat.beq (type 16) 0x22F0 then some (b.drop 18)
  else none

/-- The ACF_CAN (`brief` = false) or ACF_CAN_BRIEF messages in the payload of an NTSCF frame: bus_id and CAN frame; `fuel`
bounds them. -/
def acfMessages (brief : Bool) : Nat → List Byte → List (Nat × CanFrame)
  | 0, _ => []
  | fuel + 1, b =>
    let h := beNat (b.take 2)
    let len := 4 * (h % 512)
    let rest := acfMessages brief fuel (b.drop len)
    if Nat.beq len 0 || Nat.blt b.length len then []
    else if Nat.beq (h / 512) (if brief then 2 else 1) then
      let fl := fieldAt b 2 1
      let o := if brief then 4 else 12
      let body := (b.take (len - fl / 64)).drop (o + 4)
      let fmt := bitsOf fl 1 1 + 4 * bitsOf fl 3 3 + 8 * bitsOf fl 4 4 + 16 * bitsOf fl 2 2 + 32 * bitsOf fl 0 0
      (fieldAt b 3 1 % 32, { id := BitVec.ofNat 32 (beNat ((b.drop o).take 4) % 2 ^ 29), fmt := BitVec.ofNat 8 fmt, sdt := 0,
                             vcid := 0, af := 0, data := body }) :: rest
    else rest

/-- Listener t sends each message of a frame of its stream on its channel, if CHMASK holds it, and counts the others and gaps
in the sequence. -/
def State.listen (s : State) (p : List Byte) (t : Nat) : State :=
  if Nat.beq (s.tunField t 0 1) 2 && Nat.beq (fieldAt p 0 1) 0x82 &&
      Nat.beq (beNat ((p.drop 4).take 8)) (s.tunField t 8 8) then
    let seq := fieldAt p 3 1
    let gap := match SMap.find s.gw.lastSeq t with | some l => !(Nat.beq ((l + 1) % 256) seq) | none => false
    let s1 := { s with gw := { s.gw with lastSeq := SMap.insert s.gw.lastSeq t seq } }.tunDrop t gap.toNat
    let len := beNat ((p.drop 1).take 2) % 2048
    (acfMessages (Nat.beq (s.tunField t 1 1) 1) (len + 1) ((p.drop 12).take len)).foldl (fun s m =>
      if Nat.blt m.1 8 && bitAt (s.tunField t 4 2) m.1 && (s.gw.cans[Fin.ofNat 12 m.1]).desc.isSome then
        let f : TunnelFrame := { chan := m.1, frame := m.2, tSof := 0, at_ := s.tb.elapsed }
        { s with gw := { s.gw with tunnelTx := s.gw.tunnelTx ++ [f] } }
      else s.tunDrop t 1) s1
  else s

/-- A frame inside the switch reaches the listeners. -/
def State.listeners (s : State) (b : List Byte) : State :=
  match avtpOf b with
  | some p => (List.range 16).foldl (fun s t => s.listen p t) s
  | none => s

/-! ## Forwarding (R421, R422) -/

/-- The frame that leaves port p next: of the highest class whose gate is open and stays so for it, the oldest. -/
def State.nextFrame (s : State) (p : Nat) : Option EthFrame :=
  (s.gw.egress[Fin.ofNat 14 p]).foldl (fun o f =>
    if s.gateOpen p f.tc (frameNs p f.bytes) && (match o with | some g => Nat.blt g.tc f.tc | none => true) then some f else o) none

/-- What may leave port p leaves it: to the host interface at port 12, else to the wire; `fuel` bounds the frames. -/
def State.drainPort (s : State) (p : Nat) : Nat → State
  | 0 => s
  | fuel + 1 =>
    match s.nextFrame p with
    | none => s
    | some f =>
      let k := Fin.ofNat 14 p
      let s1 := { s with gw := { s.gw with egress := s.gw.egress.set k ((s.gw.egress[k]).erase f), wire := s.gw.wire.set k (some f) } }
      (if Nat.beq p 12 then s1.hifReceive f else s1).drainPort p fuel

/-- The bytes in the packet buffer that the ports share. -/
def State.packetBytes (s : State) : Nat :=
  s.gw.egress.foldl (fun n q => q.foldl (fun n f => n + f.bytes.length) n) 0

/-- A frame is forwarded to the ports of a mask, its own excepted; one that the 4 MiB of the packet buffer do not hold is dropped
(R421; log entry 36). -/
def State.forward (s : State) (f : EthFrame) (mask : Nat) : State :=
  (List.range 14).foldl (fun s p =>
    if bitAt mask p && !(Nat.beq p f.inPort) && Nat.ble (s.packetBytes + f.bytes.length) 0x400000 then
      let k := Fin.ofNat 14 p
      let q := s.gw.egress[k] ++ [f]
      { s with gw := { s.gw with egress := s.gw.egress.set k q } }.drainPort p q.length
    else s) (s.listeners f.bytes)

/-- A frame of class tc from `inPort` cuts through to port p (R422). -/
def State.cutsThrough (s : State) (inPort tc p : Nat) (bytes : List Byte) (metered : Bool) : Bool :=
  Nat.ble (portRate p) (portRate inPort) && !((s.gw.egress[Fin.ofNat 14 p]).any fun f => Nat.beq f.tc tc) &&
    s.gateOpen p tc (frameNs p bytes) && !metered

/-- A frame with a bad FCS that cuts through to port p is sent on with a corrupted FCS and counted there. -/
def State.sendBad (s : State) (f : EthFrame) (p : Nat) : State :=
  let k := Fin.ofNat 14 p
  { s with gw := { s.gw with fcsBad := s.gw.fcsBad.set k (s.gw.fcsBad[k] + 1), wire := s.gw.wire.set k (some f) } }

/-- ETH_FRAME_RECEIVED: a frame of 64 to 9,216 bytes is forwarded; one with a bad FCS goes no further than the ports it cuts through
to, since a stored one is discarded. -/
def execEthFrameReceived (port : Fin 14) (tc : Fin 8) (egress : BitVec 14) (bytes : List Byte) (fcsOk metered : Bool)
    (s : State) : Outcome State Fault Refusal :=
  .next <|
    let s1 := { s with portLinks := s.portLinks.set port true }
    let f : EthFrame := { inPort := port, tc, bytes, tIn := s.now }
    if !(inRange bytes.length 60 9213) then s1
    else if fcsOk then s1.forward f egress.toNat
    else
      ((List.range 14).filter fun p =>
        bitAt egress.toNat p && !(Nat.beq p port) && s.cutsThrough port tc p bytes metered).foldl (fun s p => s.sendBad f p) s1

/-- What the gates of the ports let through leaves. -/
def State.drainPorts (s : State) : State :=
  (List.range 14).foldl (fun s p => s.drainPort p (s.gw.egress[Fin.ofNat 14 p]).length) s

/-- GATE_LIST_CHANGE: the port follows its new list, and what its gates let through leaves. -/
def execGateListChange (port : Fin 14) (s : State) : Outcome State Fault Refusal :=
  .next <|
    match s.gw.pendList[port] with
    | some (l, t) =>
      if Nat.ble t s.now then
        let a := Reg.TSW_GCL port
        let s1 := ({ s with gw := { s.gw with pendList := s.gw.pendList.set port none } }.raise a Fld.TSW_GCL_ACTIVE).setFld a
          Fld.TSW_GCL_LIST l
        s1.drainPort port (s1.gw.egress[port]).length
      else s
    | none => s

/-- HIF_TRANSMIT: the next entry of the highest ring that has one is read, written back and forwarded. -/
def execHifTransmit (egress : BitVec 14) (s : State) : Outcome State Fault Refusal :=
  .next <|
    match s.gw.hif with
    | none => s
    | some d =>
      let waits (q : Nat) := !(Nat.beq d.txLog2[Fin.ofNat 8 q] 0) &&
        !(Nat.beq (s.fld (Reg.HIF_DB_TX_HEAD q) Fld.HIF_DB_TX_HEAD_HEAD) (s.fld (Reg.HIF_DB_TX_TAIL q) Fld.HIF_DB_TX_TAIL_TAIL))
      match (List.range 8).reverse.find? waits with
      | none => s
      | some q =>
        let k := Fin.ofNat 8 q
        let head := s.fld (Reg.HIF_DB_TX_HEAD q) Fld.HIF_DB_TX_HEAD_HEAD
        let at_ := d.txBase[k] + 32 * head
        let next (s : State) : State := s.setReg (Reg.HIF_DB_TX_HEAD q) (BitVec.ofNat 32 ((head + 1) % 2 ^ d.txLog2[k]))
        let failed (s : State) : State := s.count Reg.TSW_HIF_STAT Fld.TSW_HIF_STAT_TX_ERR 1
        match s.fetch (s.hifReq d) at_ 32 with
        | (.okay, e, s1) =>
          let flags := fieldAt e 10 1
          let back (s : State) (err : Bool) : State :=
            let s2 := (s.put (s.hifReq d) (at_ + 10) (leBytes 1 (flags % 2 + 8 * bitsOf flags 3 3 + 2 + 4 * err.toNat))).2
            let s3 := if bitAt flags 3 && !err then (s2.put (s.hifReq d) (at_ + 16) (leBytes 4 s.short)).2 else s2
            if bitAt flags 0 then (next s3).hifMsi d else next s3
          if inRange (fieldAt e 8 2) 60 9213 then
            match s1.fetch (s.hifReq d) (fieldAt e 0 8) (fieldAt e 8 2) with
            | (.okay, b, s2) => (back s2 false).forward { inPort := 12, tc := q, bytes := b, tIn := s.now } egress.toNat
            | (_, _, s2) => failed (back s2 true)
          else failed (back s1 true)
        | (_, _, s1) => failed (next s1)

end Sys2Proof.Machine
end

