-- ==== Sys2Proof/Machine/Can.lean ====
section
/-!
DEFINITION. The CAN channels and the talkers of the tunnel engine (15_bridges_and_gateway R430 to R433).
-/

namespace Sys2Proof.Machine

open Host (Outcome)

/-! ## Accesses of a channel -/

/-- A request of channel n: class of WIR1 below the peripheral bus, CL15 below the Heath bus (R410, WIR_CTRL). -/
def State.canReq (s : State) (n ctx : Nat) : Req :=
  s.unitReq (.can (Fin.ofNat 12 n)) (if Nat.ble 8 n then 15 else s.fld (Reg.WIR_CTRL 1) Fld.WIR_CTRL_CLASS) ctx

/-- A read by channel n: through its context, or for CAN8 to CAN11 at the physical address (log entry 37). -/
def State.canFetch (s : State) (n ctx iova len : Nat) : Resp × List Byte × State :=
  if Nat.ble 8 n then s.readPhys (s.canReq n 0) iova len else s.fetch (s.canReq n ctx) iova len

/-- A write by channel n. -/
def State.canPut (s : State) (n ctx iova : Nat) (bs : List Byte) : Resp × State :=
  if Nat.ble 8 n then s.writePhys (s.canReq n 0) iova bs else s.put (s.canReq n ctx) iova bs

/-- The channel's interrupt: an MSI, or with MSI_ADDR = 0 the wired input of Heath's APLIC. -/
def State.canIrq (s : State) (n : Nat) (d : CanDesc) : State :=
  if Nat.beq d.msiAddr 0 then s.interrupt (.can (Fin.ofNat 12 n))
  else s.sendMsi (.can (Fin.ofNat 12 n)) d.ctx d.msiAddr d.msiData

/-- Channel n beside its registers. -/
def State.can (s : State) (n : Nat) : CanChan := s.gw.cans[Fin.ofNat 12 n]

def State.setCan (s : State) (n : Nat) (x : CanChan) : State :=
  { s with gw := { s.gw with cans := s.gw.cans.set (Fin.ofNat 12 n) x } }

/-! ## The descriptor (R431) -/

/-- The prescaler and the quanta of a rate in kbit/s: the smallest prescaler that gives a whole number within the limits. -/
def canTiming (kbps lo hi : Nat) : Option (Nat × Nat) :=
  ((List.range 32).map (· + 1)).findSome? fun p =>
    let n := 160000 / (p * kbps)
    if Nat.beq (p * kbps * n) 160000 && Nat.ble lo n && Nat.ble n hi then some (p, n) else none

/-- The quantum of the sample point: round(n × SP ÷ 1,000). -/
def samplePoint (n sp : Nat) : Nat := (2 * n * sp + 1000) / 2000

/-- The rates a descriptor uses with their timing and sample points, none where a rate has none: arbitration, then data and XL
where given. -/
def canRates (b : List Byte) : Option (List (Nat × Nat × Nat × Nat)) :=
  let rate (o sp hi : Nat) : Option (List (Nat × Nat × Nat × Nat)) :=
    let k := fieldAt b o 4
    if Nat.beq k 0 then some []
    else (canTiming k 8 hi).map fun t => [(k, t.1, t.2, samplePoint t.2 (fieldAt b sp 2))]
  match rate 4 16 200, rate 8 18 50, rate 12 20 50 with
  | some x, some y, some z => some (x ++ y ++ z)
  | _, _, _ => none

/-- The descriptor of channel n is within its ranges. -/
def State.canAdmits (s : State) (n : Nat) (b : List Byte) : Bool :=
  let f (o k : Nat) := fieldAt b o k
  let sp (o : Nat) := inRange (f o 2) 500 901
  Nat.ble (f 0 1 % 4) 2 && Nat.blt (f 0 1) 8 && (Nat.ble 8 n || (Nat.blt (f 1 1) 32 && s.isActive (f 1 1))) &&
    inRange (f 2 1) 4 13 && inRange (f 3 1) 4 13 && inRange (f 4 4) 125 1001 && Nat.ble (f 8 4) 8000 && Nat.ble (f 12 4) 20000 &&
    sp 16 && sp 18 && sp 20 && zeroAt b 22 2 && Nat.beq (f 24 8 % (32 * 2 ^ f 2 1)) 0 && Nat.beq (f 32 8 % (32 * 2 ^ f 3 1)) 0 &&
    inRange (f 48 4) 1 2048 && zeroAt b 52 4

/-- The fields of a channel descriptor. -/
def canDesc (b : List Byte) (rates : List (Nat × Nat × Nat × Nat)) : CanDesc :=
  let f (o k : Nat) := fieldAt b o k
  { mode := f 0 1 % 4, listen := bitAt (f 0 1) 2, rates, ctx := f 1 1 % 32, txLog2 := f 2 1, rxLog2 := f 3 1, txRing := f 24 8,
    rxRing := f 32 8, msiAddr := f 40 8, msiData := f 48 4, rxData := f 56 8 }

/-- The channel is enabled by its descriptor, or refused. -/
def State.startCan (s : State) (n : Nat) : State :=
  let a := Reg.CAN_CTRL n
  let iova := s.fld (Reg.CAN_DESC_HI n) Fld.FGD_STR_DESC_HI_ADDR_HI * 2 ^ 32 +
    s.fld (Reg.CAN_DESC_LO n) Fld.FGD_STR_DESC_LO_ADDR_LO * 64
  let refuse (s : State) : State := (s.lower a Fld.FGD_STR_CTRL_EN).raise a Fld.FGD_STR_CTRL_CFG_ERR
  match s.canFetch n 0 iova 64 with
  | (.okay, b, s1) =>
    match canRates b with
    | some rates =>
      if s1.canAdmits n b then
        ((((s1.setCan n { CanChan.reset with desc := some (canDesc b rates) }).setReg (Reg.CAN_DB_SQ_TAIL n) 0#32).setReg
          (Reg.CAN_DB_SQ_HEAD n) 0#32).setReg (Reg.CAN_DB_CQ_HEAD n) 0#32).setReg (Reg.CAN_DB_CQ_TAIL n) 0#32
      else refuse s1
    | none => refuse s1
  | (_, _, s1) => refuse s1

/-- The channel is disabled. -/
def State.stopCan (s : State) (n : Nat) : State :=
  (s.setCan n CanChan.reset).lower (Reg.CAN_CTRL n) Fld.FGD_STR_CTRL_EN

/-- A write of CAN_CTRL. -/
def State.writeCanCtrl (s : State) (n : Nat) (w : Word) : State :=
  let a := Reg.CAN_CTRL n
  let s1 := s.plainWrite a w
  match s.flag a Fld.FGD_STR_CTRL_EN, s1.flag a Fld.FGD_STR_CTRL_EN with
  | false, true => s1.startCan n
  | true, false => s1.stopCan n
  | _, _ => s1

/-- CAN_ENABLE -/
def execCanEnable (can : Fin 12) (req : Req) (value : Word) (s : State) : Outcome State Fault Refusal :=
  .next (s.busWrite req (Reg.CAN_CTRL can) value (·.writeCanCtrl can value))

/-- A write of CAN_DESC_LO or _HI, ignored while EN = 1. -/
def State.writeCanDesc (s : State) (n a : Nat) (w : Word) : State :=
  if s.flag (Reg.CAN_CTRL n) Fld.FGD_STR_CTRL_EN then s else s.plainWrite a w

/-! ## Doorbells (R432) -/

def State.canIgnored (s : State) (n : Nat) : State := s.count (Reg.CAN_DB_ERR n) Fld.DB_ERR_IGNORED 1

/-- A write of the transmit tail. -/
def State.writeCanTail (s : State) (n : Nat) (w : Word) : State :=
  let v := Fld.DB_SQ_TAIL_TAIL.get w
  match (s.can n).desc with
  | some d => if Nat.blt v (2 ^ d.txLog2) then s.setFld (Reg.CAN_DB_SQ_TAIL n) Fld.DB_SQ_TAIL_TAIL v else s.canIgnored n
  | none => s.canIgnored n

/-- A write of DB_CQ_HEAD: receive entries have been consumed (log entry 22). -/
def State.writeCanHead (s : State) (n : Nat) (w : Word) : State :=
  let c := s.can n
  let v := Fld.DB_CQ_HEAD_HEAD.get w
  match c.desc with
  | none => s.canIgnored n
  | some d =>
    let size := 2 ^ d.rxLog2
    let k := if Nat.beq v c.rxIdx then c.unread else (v + size - s.fld (Reg.CAN_DB_CQ_HEAD n) Fld.DB_CQ_HEAD_HEAD) % size
    if Nat.ble size v || Nat.blt c.unread k then s.canIgnored n
    else (s.setCan n { c with unread := c.unread - k }).setFld (Reg.CAN_DB_CQ_HEAD n) Fld.DB_CQ_HEAD_HEAD v

/-- CAN_TX_DOORBELL -/
def execCanTxDoorbell (can : Fin 12) (req : Req) (value : Word) (s : State) : Outcome State Fault Refusal :=
  .next (s.busWrite req (Reg.CAN_DB_SQ_TAIL can) value (·.writeCanTail can value))

/-- CAN_RX_LOST_READ -/
def execCanRxLostRead (can : Fin 12) (req : Req) (s : State) : Outcome State Fault Refusal :=
  .next (s.readClear req (Reg.CAN_STATUS can))

/-! ## Transmission (R432) -/

/-- The error counters after a transmission: `tec` and `rec` are what ISO 11898-1 leaves; a channel whose frame was not sent
enters bus-off, with a CE record. -/
def State.canCounters (s : State) (n : Nat) (sent : Bool) (tec rec_ : Nat) : State :=
  let a := Reg.CAN_STATUS n
  let s1 := ((s.setFld a Fld.CAN_STATUS_REC rec_).setFld a Fld.CAN_STATUS_TEC (min (tec / 4) 63)).setFld a
    Fld.CAN_STATUS_PASSIVE (Nat.ble 128 tec || Nat.ble 128 rec_).toNat
  if sent then s1 else (s1.raise a Fld.CAN_STATUS_BUSOFF).report (plainRecord (.can (Fin.ofNat 12 n)) sevCE)

/-- The frame of a transmit entry; data of more than 8 bytes are read at DATA. -/
def State.txFrame (s : State) (n : Nat) (d : CanDesc) (e : List Byte) : Resp × CanFrame × State :=
  let len := fieldAt e 6 2
  let r := if Nat.ble len 8 then (Resp.okay, (e.drop 24).take len, s) else s.canFetch n d.ctx (fieldAt e 24 8) len
  (r.1, { id := BitVec.ofNat 32 (fieldAt e 0 4), fmt := BitVec.ofNat 8 (fieldAt e 4 1), sdt := BitVec.ofNat 8 (fieldAt e 8 1)
          vcid := BitVec.ofNat 8 (fieldAt e 9 1), af := BitVec.ofNat 32 (fieldAt e 12 4), data := r.2.1 }, r.2.2)

/-- A frame has been sent on the bus of channel n. -/
def State.canSent (s : State) (n : Nat) (sent : Bool) (f : CanFrame) : State :=
  if sent then s.setCan n { s.can n with sent := some f } else s

/-- CAN_TRANSMIT: the channel's next frame is sent, or abandoned as it goes bus-off: a message of a listener, or the next ring
entry, which is written back; an entry whose data cannot be read is not sent and is written back with ERR (log entry 38). -/
def execCanTransmit (can : Fin 12) (sent : Bool) (tec : BitVec 9) (rec : BitVec 8) (s : State) :
    Outcome State Fault Refusal :=
  .next <|
    match (s.can can).desc with
    | none => s
    | some d =>
      if d.listen || s.flag (Reg.CAN_STATUS can) Fld.CAN_STATUS_BUSOFF then s
      else
        match s.gw.tunnelTx.find? fun f => Nat.beq f.chan can with
        | some f => { s with gw := { s.gw with tunnelTx := s.gw.tunnelTx.erase f } }.canSent can sent f.frame |>.canCounters
            can sent tec.toNat rec.toNat
        | none =>
          let head := s.fld (Reg.CAN_DB_SQ_HEAD can) Fld.DB_SQ_HEAD_HEAD
          if Nat.beq head (s.fld (Reg.CAN_DB_SQ_TAIL can) Fld.DB_SQ_TAIL_TAIL) then s
          else
            let at_ := d.txRing + 32 * head
            let next (s : State) : State :=
              s.setFld (Reg.CAN_DB_SQ_HEAD can) Fld.DB_SQ_HEAD_HEAD ((head + 1) % 2 ^ d.txLog2)
            match s.canFetch can d.ctx at_ 32 with
            | (.okay, e, s1) =>
              let fl := fieldAt e 5 1
              let r := s1.txFrame can d e
              let good := decide (r.1 = .okay)
              let s2 := ((r.2.2.canSent can (good && sent) r.2.1).canPut can d.ctx (at_ + 16) (leBytes 4 s.short)).2
              let s3 := (s2.canPut can d.ctx (at_ + 5) (leBytes 1 (fl % 4 + 4 + 8 * (!(good && sent)).toNat))).2
              let s4 := if good then (next s3).canCounters can sent tec.toNat rec.toNat else next s3
              if bitAt fl 1 then s4.canIrq can d else s4
            | (_, _, s1) => next s1

/-- CAN_BUS_OFF_RECOVERY: the standard's recovery clears both counters (PRESUMED: ISO 11898-1; log entry 38). -/
def execCanBusOffRecovery (can : Fin 12) (s : State) : Outcome State Fault Refusal :=
  .next <|
    let a := Reg.CAN_STATUS can
    if s.flag a Fld.CAN_STATUS_BUSOFF then
      (((s.lower a Fld.CAN_STATUS_BUSOFF).setFld a Fld.CAN_STATUS_TEC 0).setFld a Fld.CAN_STATUS_REC 0).lower a
        Fld.CAN_STATUS_PASSIVE
    else s

/-! ## Talkers (R433) -/

/-- An ACF message of a collected frame (IEEE 1722-2016, log entry 36). -/
def acfMessage (brief : Bool) (f : TunnelFrame) : List Byte :=
  let x := f.frame
  let pad := (4 - x.data.length % 4) % 4
  let len := ((if brief then 8 else 16) + x.data.length + pad) / 4
  let bit (k : Nat) := (bitAt x.fmt.toNat k).toNat
  beBytes 2 ((if brief then 2 else 1) * 512 + len) ++
    leBytes 1 (64 * pad + (if brief then 0 else 32) + 16 * bit 3 + 8 * bit 2 + 4 * bit 4 + 2 * bit 0 + bit 5) ++
    leBytes 1 f.chan ++ (if brief then [] else beBytes 8 f.tSof) ++ beBytes 4 (x.id.toNat % 2 ^ 29) ++ x.data ++
    List.replicate pad 0#8

/-- Talker t sends an AVTPDU of the frames it holds into the switch. -/
def State.talk (s : State) (t : Nat) : State :=
  let k := Fin.ofNat 16 t
  let msgs := ((s.gw.talkers[k]).map (acfMessage (Nat.beq (s.tunField t 1 1) 1))).flatten
  let seq := match SMap.find s.gw.lastSeq t with | some l => (l + 1) % 256 | none => 0
  let pdu := beBytes 1 0x82 ++ beBytes 2 (32768 + msgs.length % 2048) ++ beBytes 1 seq ++ beBytes 8 (s.tunField t 8 8) ++ msgs
  let tag := s.tunField t 2 1 % 8 * 8192 + s.tunField t 6 2 % 4096
  let raw := leBytes 6 (s.tunField t 16 6) ++ beBytes 6 Config.tunnelMac ++ beBytes 2 0x8100 ++ beBytes 2 tag ++
    beBytes 2 0x22F0 ++ pdu
  let frame := raw ++ List.replicate (60 - raw.length) 0#8
  let s1 := { s with gw := { s.gw with
    talkers := s.gw.talkers.set k [], lastSeq := SMap.insert s.gw.lastSeq t seq } }
  let fwd := Config.forward frame
  s1.forward { inPort := 14, tc := fwd.2 % 8, bytes := frame, tIn := s.now } fwd.1

/-- A received frame is collected by the talkers of its channel; XL frames are counted in DROP. -/
def State.collect (s : State) (n : Nat) (f : CanFrame) (t : Nat) : State :=
  if Nat.beq (s.tunField t 0 1) 1 && bitAt (s.tunField t 4 2) n then
    if Nat.beq (f.fmt.toNat % 4) 2 then s.tunDrop t 1
    else
      let k := Fin.ofNat 16 t
      let held := s.gw.talkers[k] ++ [{ chan := n, frame := f, tSof := s.now, at_ := s.tb.elapsed }]
      let s1 := { s with gw := { s.gw with talkers := s.gw.talkers.set k held } }
      if Nat.ble (s.tunField t 3 1) held.length then s1.talk t else s1
  else s

/-- TUNNEL_HOLD_EXPIRY: HOLD_US after its oldest frame arrived a talker sends what it holds. -/
def execTunnelHoldExpiry (tunnel : Fin 16) (s : State) : Outcome State Fault Refusal :=
  .next <|
    match s.gw.talkers[tunnel] with
    | [] => s
    | f :: _ => if s.passedUs f.at_ (s.tunField tunnel 24 4) then s.talk tunnel else s

/-! ## Reception (R432) -/

/-- The 32-byte frame entry of a received frame. -/
def rxEntry (f : CanFrame) (phase : Bool) (tSof data : Nat) : List Byte :=
  leBytes 4 f.id.toNat ++ [f.fmt] ++ leBytes 1 phase.toNat ++ leBytes 2 f.data.length ++ [f.sdt, f.vcid] ++ leBytes 2 0 ++
    leBytes 4 f.af.toNat ++ leBytes 4 tSof ++ leBytes 4 0 ++ leBytes 8 data

/-- A frame is written into the receive ring of channel n, or lost. -/
def State.canReceive (s : State) (n : Nat) (d : CanDesc) (f : CanFrame) : State :=
  let c := s.can n
  let size := 2 ^ d.rxLog2
  if Nat.ble size c.unread then s.count (Reg.CAN_STATUS n) Fld.CAN_STATUS_RX_LOST 1
  else
    let slot := d.rxData + 2048 * c.rxIdx
    let long := Nat.blt 8 f.data.length
    let r := if long then s.canPut n d.ctx slot f.data else (.okay, s)
    match r.1 with
    | .okay =>
      match r.2.canPut n d.ctx (d.rxRing + 32 * c.rxIdx) (rxEntry f c.phase s.short (if long then slot else leNat f.data)) with
      | (.okay, s1) =>
        let wrap := Nat.ble size (c.rxIdx + 1)
        let i := if wrap then 0 else c.rxIdx + 1
        ((s1.setCan n { s1.can n with rxIdx := i, phase := c.phase != wrap, unread := c.unread + 1 }).setFld
          (Reg.CAN_DB_CQ_TAIL n) Fld.DB_CQ_TAIL_TAIL i).canIrq n d
      | (_, s1) => s1
    | _ => r.2

/-- CAN_FRAME_RECEIVED: a frame of a format the channel's MODE accepts goes into its ring and to the talkers. -/
def execCanFrameReceived (can : Fin 12) (frame : CanFrame) (s : State) : Outcome State Fault Refusal :=
  .next <|
    match (s.can can).desc with
    | none => s
    | some d =>
      if s.flag (Reg.CAN_STATUS can) Fld.CAN_STATUS_BUSOFF || Nat.blt d.mode (frame.fmt.toNat % 4) then s
      else
        let s1 := s.canReceive can d frame
        if Nat.blt can 8 then (List.range 16).foldl (fun s t => s.collect can frame t) s1 else s1

end Sys2Proof.Machine
end

