-- ==== Sys2Proof/Machine/Display.lean ====
section
/-!
DEFINITION. The display heads: descriptors, link training, flips, and what each frame records (12_graphics_and_display R353 to
R360).
-/

namespace Sys2Proof.Machine

open Host (Outcome)

/-! ## The descriptor (R353, R354) -/

/-- The payload rate of a lane, in kb/s, by its rate code: 8/10 of the rates of DisplayPort (PRESUMED), those of eDP open
(log entry 33). -/
def laneRate : Nat → Nat
  | 0 => 1296000
  | 1 => 2160000
  | 2 => 4320000
  | 3 => 6480000
  | k => Config.edpRate k

/-- The timing of a head descriptor is within R353: at the full active area no frame rate above 60 Hz (DEDUCED: a smaller area is held
by the pixel clock alone; log entry 33). -/
def timingAdmits (b : List Byte) : Bool :=
  let f (o : Nat) := fieldAt b o 2
  let frame := (f 0 + f 2 + f 4 + f 6) * (f 8 + f 10 + f 12 + f 14)
  Nat.ble (f 0) 3840 && Nat.ble (f 8) 2160 && Nat.ble (fieldAt b 16 4) 600000 &&
    (Nat.blt (f 0) 3840 || Nat.blt (f 8) 2160 || Nat.ble (fieldAt b 16 4 * 1000) (60 * frame))

/-- The head descriptor is within its ranges, its timing within R353, and its context ACTIVE. -/
def State.headAdmits (s : State) (b : List Byte) : Bool :=
  let f (o n : Nat) := fieldAt b o n
  let link := f 20 1
  let lanes := bitsOf link 3 1
  let rate := bitsOf link 7 4
  timingAdmits b && (Nat.beq lanes 1 || Nat.beq lanes 2 || Nat.beq lanes 4) && Nat.ble rate (if bitAt link 0 then 11 else 3) &&
    (Nat.beq (f 21 1) 6 || Nat.beq (f 21 1) 8 || Nat.beq (f 21 1) 10) &&
    Nat.ble (f 16 4 * 3 * f 21 1) (lanes * laneRate rate) && inRange (f 22 2) 50 5001 && inRange (f 24 1) 2 9 &&
    Nat.blt (f 25 1) 32 && zeroAt b 26 2 && inRange (f 28 4) 1 2048 && Nat.beq (f 32 8 % (512 * 2 ^ f 24 1)) 0 &&
    Nat.beq (f 48 8 % 4) 0 && zeroAt b 56 8 && s.isActive (f 25 1)

/-- The fields of a head descriptor. -/
def headDesc (b : List Byte) : HeadDesc :=
  let f (o n : Nat) := fieldAt b o n
  { hact := f 0 2, hfp := f 2 2, hsync := f 4 2, hbp := f 6 2, vact := f 8 2, vfp := f 10 2, vsync := f 12 2, vbp := f 14 2,
    pclk := f 16 4, leadUs := f 22 2, log2 := f 24 1, ctx := f 25 1, msiAddr := f 48 8, msiData := f 28 4, flipBase := f 32 8, bpc := f 21 1 }

/-- A request of head n: class CL14 (R332). -/
def State.headReq (s : State) (n ctx : Nat) : Req := s.unitReq (.display (Fin.ofNat 4 n)) 14 ctx

/-- A disabled head is set up by its descriptor and trains its link, or is refused (log entry 29). -/
def State.startHead (s : State) (n : Nat) : State :=
  let a := Reg.DSP_CTRL n
  let iova := s.fld (Reg.DSP_DESC_HI n) Fld.DSP_DESC_HI_ADDR_HI * 2 ^ 32 +
    s.fld (Reg.DSP_DESC_LO n) Fld.DSP_DESC_LO_ADDR_LO * 64
  let refuse (s : State) : State := (s.lower a Fld.DSP_CTRL_EN).raise (Reg.DSP_STATUS n) Fld.DSP_STATUS_CFG_ERR
  match s.fetch (s.headReq n 0) iova 64 with
  | (.okay, b, s1) =>
    if s1.headAdmits b then
      let cq : CqRing := { base := fieldAt b 40 8, log2 := fieldAt b 24 1, idx := 0, phase := true }
      ((((s1.setHead n { Head.reset with desc := some (headDesc b), training := true, cq }).setReg
        (Reg.DSP_DB_SQ_TAIL n) 0#32).setReg (Reg.DSP_DB_SQ_HEAD n) 0#32).setReg (Reg.DSP_DB_CQ_HEAD n) 0#32).setReg
        (Reg.DSP_DB_CQ_TAIL n) 0#32
    else refuse s1
  | (_, _, s1) => refuse s1

/-- Head n is disabled: output stops and the flip ring is discarded without completion entries. -/
def State.stopHead (s : State) (n : Nat) : State :=
  let s1 := ((s.setHead n Head.reset).lower (Reg.DSP_CTRL n) Fld.DSP_CTRL_EN).lower (Reg.DSP_STATUS n) Fld.DSP_STATUS_LINK_UP
  s1.setFld (Reg.DSP_DB_SQ_HEAD n) Fld.DB_SQ_HEAD_HEAD (s1.fld (Reg.DSP_DB_SQ_TAIL n) Fld.DB_SQ_TAIL_TAIL)

/-- A write of DSP_CTRL. -/
def State.writeDspCtrl (s : State) (n : Nat) (w : Word) : State :=
  let a := Reg.DSP_CTRL n
  let s1 := s.plainWrite a w
  match s.flag a Fld.DSP_CTRL_EN, s1.flag a Fld.DSP_CTRL_EN with
  | false, true => s1.startHead n
  | true, false => s1.stopHead n
  | _, _ => s1

/-- HEAD_ENABLE -/
def execHeadEnable (head : Fin 4) (req : Req) (value : Word) (s : State) : Outcome State Fault Refusal :=
  .next (s.busWrite req (Reg.DSP_CTRL head) value (·.writeDspCtrl head value))

/-- HEAD_DISABLE -/
def execHeadDisable (head : Fin 4) (req : Req) (value : Word) (s : State) : Outcome State Fault Refusal :=
  .next (s.busWrite req (Reg.DSP_CTRL head) value (·.writeDspCtrl head value))

/-- A write of DSP_DESC_LO or _HI, ignored while EN = 1. -/
def State.writeDspDesc (s : State) (n a : Nat) (w : Word) : State :=
  if s.flag (Reg.DSP_CTRL n) Fld.DSP_CTRL_EN then s else s.plainWrite a w

/-! ## The link -/

/-- LINK_TRAINING_DONE -/
def execLinkTrainingDone (head : Fin 4) (ok : Bool) (s : State) : Outcome State Fault Refusal :=
  .next <|
    let h := s.head head
    if !h.training then s
    else if ok then (s.setHead head { h with training := false }).raise (Reg.DSP_STATUS head) Fld.DSP_STATUS_LINK_UP
    else (s.stopHead head).raise (Reg.DSP_STATUS head) Fld.DSP_STATUS_LINK_ERR

/-- DISPLAY_LINK_LOST -/
def execDisplayLinkLost (head : Fin 4) (s : State) : Outcome State Fault Refusal :=
  .next <|
    let a := Reg.DSP_STATUS head
    if s.flag a Fld.DSP_STATUS_LINK_UP then (s.lower a Fld.DSP_STATUS_LINK_UP).raise a Fld.DSP_STATUS_LINK_ERR else s

/-- HPD_CHANGE -/
def execHpdChange (head : Fin 4) (level : Bool) (s : State) : Outcome State Fault Refusal :=
  .next (s.setFld (Reg.DSP_STATUS head) Fld.DSP_STATUS_HPD level.toNat)

/-! ## Flips (R355 to R358) -/

/-- An ignored write of head n's doorbell page is counted. -/
def State.dspIgnored (s : State) (n : Nat) : State := s.count (Reg.DSP_DB_ERR n) Fld.DB_ERR_IGNORED 1

/-- A write of the tail of head n's flip ring (R184). -/
def State.writeFlipTail (s : State) (n : Nat) (w : Word) : State :=
  let v := Fld.DB_SQ_TAIL_TAIL.get w
  match (s.head n).desc with
  | some d =>
    if Nat.blt v (2 ^ d.log2) then s.setFld (Reg.DSP_DB_SQ_TAIL n) Fld.DB_SQ_TAIL_TAIL v else s.dspIgnored n
  | none => s.dspIgnored n

/-- A write of head n's completion head: outside the range from the current head to the tail it is ignored (R184). -/
def State.writeFlipHead (s : State) (n : Nat) (w : Word) : State :=
  let v := Fld.DB_CQ_HEAD_HEAD.get w
  let h := s.head n
  let size := 2 ^ h.cq.log2
  let head := s.fld (Reg.DSP_DB_CQ_HEAD n) Fld.DB_CQ_HEAD_HEAD
  if h.desc.isNone || Nat.ble size v || Nat.blt ((h.cq.idx + size - head) % size) ((v + size - head) % size) then s.dspIgnored n
  else s.setFld (Reg.DSP_DB_CQ_HEAD n) Fld.DB_CQ_HEAD_HEAD v

/-- FLIP_DOORBELL -/
def execFlipDoorbell (head : Fin 4) (req : Req) (value : Word) (s : State) : Outcome State Fault Refusal :=
  .next (s.busWrite req (Reg.DSP_DB_SQ_TAIL head) value (·.writeFlipTail head value))

/-- The checks of layer k of a flip entry, in the active area of `d` (R355, R356). -/
def layerChecks (b : List Byte) (d : HeadDesc) (k : Nat) : List (Nat × Bool) :=
  let o := 64 + 56 * k
  let f (p n : Nat) := fieldAt b (o + p) n
  if Nat.beq (f 0 8) 0 then []
  else
    let scale (src dst : Nat) := if Nat.blt k 2 then Nat.ble src (4 * dst) && Nat.ble dst (8 * src) else Nat.beq src dst
    let yuv := Nat.beq (f 40 1) 4 || Nat.beq (f 40 1) 5
    [(o + 16, Nat.beq (f 16 4 % 64) 0), (o + 20, !yuv || Nat.beq (f 20 4 % 64) 0), (o + 36, scale (f 28 2) (f 36 2)),
      (o + 38, scale (f 30 2) (f 38 2)), (o + 36, Nat.ble (f 32 2 + f 36 2) d.hact), (o + 38, Nat.ble (f 34 2 + f 38 2) d.vact),
      (o + 40, Nat.ble (f 40 1) 5), (o + 42, Nat.ble (f 42 1) 1), (o + 43, zeroAt b (o + 43) 13)]

/-- The checks of a flip entry. -/
def flipChecks (b : List Byte) (d : HeadDesc) : Checked Unit :=
  firstBad stFormat ([(4, Nat.ble (fieldAt b 4 1) 3), (8, !(bitAt (fieldAt b 4 1) 1) || Nat.beq (fieldAt b 8 8 % 8) 0),
    (36, zeroAt b 36 28)] ++ ((List.range 8).map (layerChecks b d)).flatten)

/-- A completion entry of head n and its MSI (R194 to R196). -/
def State.flipEnd (s : State) (n : Nat) (d : HeadDesc) (b : List Byte) (e : CqEntry) : State :=
  match s.cqPut (s.headReq n d.ctx) (s.head n).cq { e with userTag := fieldAt b 0 4, jobNo := ((s.head n).count + 1) % 2 ^ 32 } with
  | (.okay, s1) =>
    let h := s1.head n
    let s2 := (s1.setHead n { h with cq := h.cq.next, count := h.count + 1 }).setFld (Reg.DSP_DB_CQ_TAIL n) Fld.DB_CQ_TAIL_TAIL
      h.cq.next.idx
    if bitAt (fieldAt b 4 1) 0 then s2.sendMsi (.display (Fin.ofNat 4 n)) d.ctx d.msiAddr d.msiData else s2
  | (_, s1) => s1

/-- A completion entry with the fields that heads leave at 0. -/
def flipCqe (status idx detail result tRel tStart : Nat) : CqEntry :=
  { userTag := 0, status, fx := 0, event := false, ring := 0, sqIndex := idx, detail, result, tRel, tStart, tEnd := 0, jobNo := 0 }

/-- Nanoseconds from the lead to its vsync: LEAD_US rounded up to whole lines (R357). -/
def HeadDesc.leadNs (d : HeadDesc) : Rat :=
  let line : Rat := mkRat ((d.hact + d.hfp + d.hsync + d.hbp) * 1000000) d.pclk
  if line ≤ 0 then (d.leadUs * 1000 : Nat) else (((d.leadUs * 1000 : Nat) : Rat) / line).ceil * line

/-- The oldest flip entry is moved past. -/
def State.flipNext (s : State) (n : Nat) (d : HeadDesc) : State :=
  let h := s.head n
  let i := (h.flipHead + 1) % 2 ^ d.log2
  (s.setHead n { h with flipHead := i }).setFld (Reg.DSP_DB_SQ_HEAD n) Fld.DB_SQ_HEAD_HEAD i

/-- The head examines its oldest flip entry: one that breaks the rules completes, one that is ready is taken; `fuel` bounds
the entries. -/
def State.examineFlip (s : State) (n : Nat) (d : HeadDesc) : Nat → State
  | 0 => s
  | fuel + 1 =>
    let h := s.head n
    let i := h.flipHead
    if Nat.beq i (s.fld (Reg.DSP_DB_SQ_TAIL n) Fld.DB_SQ_TAIL_TAIL) then s
    else
      match s.fetch (s.headReq n d.ctx) (d.flipBase + 512 * i) 512 with
      | (.okay, b, s1) =>
        match flipChecks b d with
        | .bad st detail => ((s1.flipEnd n d b (flipCqe st i detail 0 0 0)).flipNext n d).examineFlip n d fuel
        | .ok _ =>
          let acq : Bool × State :=
            if bitAt (fieldAt b 4 1) 1 then
              match s1.fetch (s1.headReq n d.ctx) (fieldAt b 8 8) 8 with
              | (.okay, v, s2) => (Nat.ble (fieldAt b 16 8) (leNat v), s2)
              | (_, _, s2) => (false, s2)
            else (true, s1)
          if acq.1 && decide (((fieldAt b 24 8 : Nat) : Rat) ≤ s.now + d.leadNs) then
            let s3 := acq.2.flipNext n d
            s3.setHead n { s3.head n with taken := some (b, i, s.short) }
          else acq.2
      | (_, _, s1) => s1

/-- VSYNC_LEAD: the oldest entry is taken, or the previous frame is shown again and counted (log entry 32). -/
def execVsyncLead (head : Fin 4) (s : State) : Outcome State Fault Refusal :=
  .next <|
    let h := s.head head
    match h.desc with
    | none => s
    | some d =>
      if h.training || h.taken.isSome then s
      else
        let s1 := s.examineFlip head d (2 ^ d.log2)
        let h1 := s1.head head
        if h1.taken.isSome || h1.shown.isNone then s1
        else
          let waits := !(Nat.beq h1.flipHead (s1.fld (Reg.DSP_DB_SQ_TAIL head) Fld.DB_SQ_TAIL_TAIL))
          (s1.setHead head { h1 with repeats := if waits then h1.repeats + 1 else 0 }).count (Reg.DSP_LATE head)
            Fld.DSP_LATE_LATE 1

/-- VSYNC: the taken entry's frame starts and the entry completes. -/
def execVsync (head : Fin 4) (s : State) : Outcome State Fault Refusal :=
  .next <|
    let h := s.head head
    match h.desc with
    | none => s
    | some d =>
      if h.training then s
      else
        let fresh : Head := { h with uvDone := false, derrDone := false, late := [] }
        match h.taken with
        | none => s.setHead head { fresh with frames := if h.shown.isSome then h.frames + 1 else 0 }
        | some (b, i, lead) =>
          let st := if Nat.beq h.repeats 0 then stOk else stOkLate
          (s.setHead head { fresh with taken := none, shown := some b, frames := 1, repeats := 0 }).flipEnd head d b
            (flipCqe st i 0 h.frames lead s.short)

/-! ## Composition (R356; log entry 81) -/

/-- A value held to 0 to 1. -/
def unitRange (q : Rat) : Rat := if q < 0 then 0 else if 1 < q then 1 else q

/-- A field of a pixel word as a fraction of its largest code. -/
def channel (w hi lo : Nat) : Rat := mkRat (bitsOf w hi lo) (2 ^ (hi - lo + 1) - 1)

/-- BT.709 in limited range, of 8-bit codes that may have fractions. -/
def bt709 (y u v : Rat) : Colour :=
  let luma := (y - 16) / 219
  let cb := (u - 128) / 224
  let cr := (v - 128) / 224
  { r := unitRange (luma + 15748 / 10000 * cr)
    g := unitRange (luma - 15748 * 2126 / (7152 * 10000) * cr - 18556 * 722 / (7152 * 10000) * cb)
    b := unitRange (luma + 18556 / 10000 * cb), a := 1 }

/-- The source pixel (x, y) of the layer whose record starts at byte `o` of a flip entry; a failed read is transparent black. -/
def State.layerPixel (s : State) (req : Req) (e : List Byte) (o x y : Nat) : Colour :=
  let f (p n : Nat) := fieldAt e (o + p) n
  let row := f 0 8 + y * f 16 4
  let uv := f 8 8 + y / 2 * f 20 4
  let word (n : Nat) := s.fetch req (row + x * n) n
  let packed (n : Nat) (c : Nat → Colour) : Colour :=
    match word n with | (.okay, bs, _) => c (leNat bs) | _ => { r := 0, g := 0, b := 0, a := 0 }
  let planar (n : Nat) (code : Nat → Rat) : Colour :=
    match s.fetch req (row + x * n) n, s.fetch req (uv + x / 2 * 2 * n) (2 * n) with
    | (.okay, yb, _), (.okay, cb, _) => bt709 (code (leNat yb)) (code (leNat (cb.take n))) (code (leNat (cb.drop n)))
    | _, _ => { r := 0, g := 0, b := 0, a := 0 }
  match f 40 1 with
  | 0 => packed 4 fun w => { r := channel w 23 16, g := channel w 15 8, b := channel w 7 0, a := channel w 31 24 }
  | 1 => packed 4 fun w => { r := channel w 23 16, g := channel w 15 8, b := channel w 7 0, a := 1 }
  | 2 => packed 4 fun w => { r := channel w 29 20, g := channel w 19 10, b := channel w 9 0, a := channel w 31 30 }
  | 3 => packed 2 fun w => { r := channel w 15 11, g := channel w 10 5, b := channel w 4 0, a := 1 }
  | 4 => planar 1 fun k => k
  | _ => planar 2 fun k => mkRat (k / 64) 4

/-- A mix of two colours, `t` of the second. -/
def Colour.mix (c d : Colour) (t : Rat) : Colour :=
  { r := c.r + t * (d.r - c.r), g := c.g + t * (d.g - c.g), b := c.b + t * (d.b - c.b), a := c.a + t * (d.a - c.a) }

/-- The source pixel shown at (x, y) of a layer's destination rectangle: bilinear where the layer is scaled. -/
def State.layerAt (s : State) (req : Req) (e : List Byte) (o x y : Nat) : Colour :=
  let f (p n : Nat) := fieldAt e (o + p) n
  let at' (i j : Nat) : Colour := s.layerPixel req e o (f 24 2 + i) (f 26 2 + j)
  if Nat.beq (f 28 2) (f 36 2) && Nat.beq (f 30 2) (f 38 2) then at' x y
  else
    let coord (k src dst : Nat) : Nat × Nat × Rat :=
      let c := Config.scaleCoord k src dst
      let i := min c.floor.toNat (src - 1)
      (i, min (i + 1) (src - 1), unitRange (c - i))
    let (x0, x1, tx) := coord x (f 28 2) (f 36 2)
    let (y0, y1, ty) := coord y (f 30 2) (f 38 2)
    ((at' x0 y0).mix (at' x1 y0) tx).mix ((at' x0 y1).mix (at' x1 y1) tx) ty

/-- A value at 12 bits: the code below it, or the one above. -/
def at12 (q : Rat) : Rat :=
  let k := (unitRange q * 4095).floor
  if (unitRange q * 4095 == k) || !(Config.blendUp q) then mkRat k 4095 else mkRat (k + 1) 4095

/-- Source-over of a layer's colour onto what lies below it; the plane alpha multiplies the layer's. -/
def Colour.over (src dst : Colour) (plane : Rat) (premult : Bool) : Colour :=
  let a := src.a * plane
  let f (c d : Rat) : Rat := at12 ((if premult then c * plane else c * a) + (1 - a) * d)
  { r := f src.r dst.r, g := f src.g dst.g, b := f src.b dst.b, a := 1 }

/-- The background colour of a flip entry; black before the first one taken (R357). -/
def background : Option (List Byte) → Colour
  | some e => let w := fieldAt e 32 4; { r := channel w 23 16, g := channel w 15 8, b := channel w 7 0, a := 1 }
  | none => { r := 0, g := 0, b := 0, a := 1 }

/-- The pixel (x, y) of head n has been scanned in this frame without its data (R359). -/
def Head.lateAt (h : Head) (d : HeadDesc) (x y : Nat) : Bool := h.late.any fun l => inRange (y * d.hact + x) l.1 (l.1 + l.2)

/-- The composed colour of head n at (x, y) of the frame it shows: the background, then layers 0 to 7; the background alone where the
pixel was late. -/
def State.composed (s : State) (n x y : Nat) : Colour :=
  match (s.head n).desc, (s.head n).shown with
  | some d, some e =>
    if (s.head n).lateAt d x y then background (some e) else
    (List.range 8).foldl (fun c k =>
      let o := 64 + 56 * k
      let f (p m : Nat) := fieldAt e (o + p) m
      if Nat.beq (f 0 8) 0 || Nat.blt x (f 32 2) || Nat.blt y (f 34 2) || Nat.ble (f 32 2 + f 36 2) x || Nat.ble (f 34 2 + f 38 2) y
      then c
      else (s.layerAt (s.headReq n d.ctx) e o (x - f 32 2) (y - f 34 2)).over c (mkRat (f 41 1) 255) (bitAt (f 42 1) 0))
      (background (some e))
  | _, _ => background none

/-- What head n sends for the pixel (x, y): the codes of red, green and blue at BPC bits, dithered. -/
def State.headPixel (s : State) (n x y : Nat) : List Nat :=
  let c := s.composed n x y
  let m := 2 ^ ((s.head n).desc.map (·.bpc)).getD 8 - 1
  [(0, c.r), (1, c.g), (2, c.b)].map fun (k, q) =>
    let v := q * m
    if (v == v.floor) || !(Config.ditherUp x y k q) then v.floor.toNat else v.floor.toNat + 1

/-! ## Errors (R359, R360) -/

/-- DISPLAY_UNDERRUN: the late pixels go out in the background colour, with one record per frame. -/
def execDisplayUnderrun (late : LatePixels) (s : State) : Outcome State Fault Refusal :=
  .next <|
    let head := late.head
    let h := s.head head
    let s1 := (s.setHead head { h with uvDone := true, late := h.late ++ [(late.first, late.count)] }).raise (Reg.DSP_STATUS head)
      Fld.DSP_STATUS_UNDERRUN
    if h.desc.isNone then s else if h.uvDone then s1 else s1.report (plainRecord (.display head) sevCE)

/-- LAYER_READ_ERROR -/
def execLayerReadError (head : Fin 4) (s : State) : Outcome State Fault Refusal :=
  .next <|
    let h := s.head head
    let s1 := (s.setHead head { h with derrDone := true }).raise (Reg.DSP_STATUS head) Fld.DSP_STATUS_DERR
    if h.desc.isNone then s else if h.derrDone then s1 else s1.report (plainRecord (.display head) sevUE)

/-- DSP_LATE_READ -/
def execDspLateRead (head : Fin 4) (req : Req) (s : State) : Outcome State Fault Refusal :=
  .next (s.readClear req (Reg.DSP_LATE head))

end Sys2Proof.Machine
end

