-- ==== Sys2Proof/Machine/Memory.lean ====
section
/-!
DEFINITION. The memory system (11_memory_and_bandwidth): DDR reads, writes, scrubbing and range passes, on-chip words, the
system cache, fabric links and the slot wheels; and unmapped accesses (01_architecture R29).
-/

namespace Sys2Proof.Machine

open Host (Outcome)

/-! ## Unmapped accesses (R29) -/

/-- DECODE_ERROR_ACCESS: an access that R29 names. -/
def execDecodeErrorAccess (req : Req) (type : AccType) (addr : BitVec 48) (s : State) : Outcome State Fault Refusal :=
  .next <|
    if s.mute req.ini then s else
    match s.place addr.toNat with
    | .unmapped | .bootRom | .dagiesk =>
      let r := s.judged req type addr.toNat 1
      if decide (r.1 = .decode) then r.2.answer .decode [] else s
    | _ => s

/-! ## DDR accesses (R315 to R317) -/

/-- DDR_READ: a demand read of the code word at `addr`, with the symbols `upset` in error. -/
def execDdrRead (req : Req) (addr : BitVec 48) (upset : BitVec 10) (s : State) : Outcome State Fault Refusal :=
  .next <|
    if s.mute req.ini then s else
    match s.place addr.toNat with
    | .ddr =>
      let pa := addr.toNat / 64 * 64
      match s.judged req .read pa 64 with
      | (.okay, s1) =>
        let r := s1.ddrRead (s.issued req) .read pa 64 upset.toNat
        r.2.2.answer r.1 r.2.1
      | (e, s1) => s1.answer e (List.replicate 64 0#8)
    | _ => s

/-- DDR_FULL_WRITE: all 64 bytes of the code word at `addr`. -/
def execDdrFullWrite (req : Req) (addr : BitVec 48) (data : Vector Byte 64) (s : State) : Outcome State Fault Refusal :=
  .next <|
    if s.mute req.ini then s else
    match s.place addr.toNat with
    | .ddr =>
      let pa := addr.toNat / 64 * 64
      match s.judged req .write pa 64 with
      | (.okay, s1) =>
        let r := s1.ddrWrite (s.issued req) pa data.toList 0
        r.2.answer r.1 []
      | (e, s1) => s1.answer e []
    | _ => s

/-- DDR_PARTIAL_WRITE: bytes within one code word; a posted write gets no response. -/
def execDdrPartialWrite (req : Req) (addr : BitVec 48) (data : List Byte) (posted : Bool) (upset : BitVec 10) (s : State) :
    Outcome State Fault Refusal :=
  .next <|
    if s.mute req.ini then s else
    match s.place addr.toNat with
    | .ddr =>
      let pa := addr.toNat
      let bs := data.take (64 - pa % 64)
      match s.judged req .write pa bs.length with
      | (.okay, s1) =>
        let r := s1.ddrWrite (s.issued req) pa bs upset.toNat
        if posted then r.2 else r.2.answer r.1 []
      | (e, s1) => if posted then s1 else s1.answer e []
    | _ => s

/-! ## Scrubbing and range passes (R325 to R327) -/

/-- The first code word, numbered from DDR offset 0, at or after word `k` and below `stop` that satisfies `p` on its
subchannel.  Sixteen consecutive blocks of 256 bytes hold every subchannel (R311). -/
def State.wordFrom (s : State) (p : Nat → Bool) (k stop : Nat) : Option Nat :=
  (((List.range 136).map (k + ·)).find? fun w => p (ddrSub s.nsub (w * 64))).filter fun w => Nat.blt w stop

/-- The number of installed code words. -/
def State.ddrWords (s : State) : Nat := s.ddrCap / 64

/-- INTERVAL µs have passed since the scrubber of a subchannel read its last word (R325). -/
def State.scrubDue (s : State) (sub : Fin 16) : Bool :=
  match (s.dmc (sub / 2)).scrubAt[Fin.ofNat 2 sub] with
  | none => true
  | some t => s.passedUs t (s.fld (Reg.DMC_SCRUB (sub / 2)) Fld.DMC_SCRUB_INTERVAL)

/-- SCRUB_READ: the background scrubber of a subchannel reads its next code word, one every INTERVAL µs, wrapping at the end, where
the counts of R314 restart.  It pauses during a range pass. -/
def execScrubRead (sub : Fin 16) (upset : BitVec 10) (s : State) : Outcome State Fault Refusal :=
  .next <|
    let n := sub.val / 2
    if !(s.dmcPopulated n) || Nat.beq (s.fld (Reg.DMC_SCRUB n) Fld.DMC_SCRUB_INTERVAL) 0 ||
        s.flag (Reg.DMC_STATUS n) Fld.DMC_STATUS_RP_BUSY || !(s.scrubDue sub) then s
    else
      match s.wordFrom (Nat.beq sub) ((s.dmc n).scrub[Fin.ofNat 2 sub]) s.ddrWords with
      | none => s
      | some w =>
        let s1 := (s.ddrDecode (ddrBase + w * 64) upset.toNat 2 0x3FF).2
        let d := { s1.dmc n with scrubAt := (s1.dmc n).scrubAt.set (Fin.ofNat 2 sub) (some s.tb.elapsed) }
        match s.wordFrom (Nat.beq sub) (w + 1) s.ddrWords with
        | some w' => s1.setDmc n { d with scrub := d.scrub.set (Fin.ofNat 2 sub) w' }
        | none => s1.setDmc n { d with scrub := d.scrub.set (Fin.ofNat 2 sub) 0, counts := d.counts.filter fun x => !(Nat.beq (x.1 / 32) (sub.val % 2)) }

/-- A range pass ends with STATUS `st`: the summary record is filled, RP_DONE is set and the interrupt is raised. -/
def State.endPass (s : State) (n st : Nat) (p : RangePass) : State :=
  let word (k v : Nat) (s : State) := s.setReg (Reg.DMC_SUM n k) (BitVec.ofNat 32 v)
  let s1 := (((((((((s |> word 0 st) |> word 1 p.words) |> word 2 p.ce) |> word 3 p.ue) |> word 4 p.poison)
    |> word 5 (p.first.getD 0xFFFFFFFF)) |> word 6 (p.last.getD 0xFFFFFFFF)) |> word 7 p.tStart) |> word 8 s.short)
  ((((s1.setDmc n { s1.dmc n with pass := none }).lower (Reg.DMC_STATUS n) Fld.DMC_STATUS_RP_BUSY).raise
    (Reg.DMC_STATUS n) Fld.DMC_STATUS_RP_DONE)).interrupt (.dmc (Fin.ofNat 8 n))

/-- A write of DMC_RP_CTRL (R326): ABORT ends a running pass; GO starts one, is ignored while one runs, or is refused. -/
def State.writeRangeCtrl (s : State) (n : Nat) (w : Word) : State :=
  if !(s.dmcPopulated n) then s
  else
    let busy := s.flag (Reg.DMC_STATUS n) Fld.DMC_STATUS_RP_BUSY
    let go := Nat.beq (Fld.DMC_RP_CTRL_GO.get w) 1
    match (s.dmc n).pass with
    | some p =>
      let s1 := if go then s.raise (Reg.DMC_STATUS n) Fld.DMC_STATUS_CFG_ERR else s
      if Nat.beq (Fld.DMC_RP_CTRL_ABORT.get w) 1 then s1.endPass n 1 p else s1
    | none =>
      if !go then s
      else if busy then s.raise (Reg.DMC_STATUS n) Fld.DMC_STATUS_CFG_ERR
      else
        let a := s.fld (Reg.DMC_RP_START n) Fld.DMC_RP_START_PAGE
        let b := s.fld (Reg.DMC_RP_END n) Fld.DMC_RP_END_PAGE
        let p : RangePass := { next := a * 64, stop := b * 64, words := 0, ce := 0, ue := 0, poison := 0, first := none,
                               last := none, tStart := s.short }
        if Nat.ble b a || Nat.blt (s.ddrCap / 4096) b then s.endPass n 2 p
        else (s.setDmc n { s.dmc n with pass := some p }).raise (Reg.DMC_STATUS n) Fld.DMC_STATUS_RP_BUSY

/-- RANGE_PASS_START -/
def execRangePassStart (dmc : Fin 8) (req : Req) (value : Word) (s : State) : Outcome State Fault Refusal :=
  .next (s.busWrite req (Reg.DMC_RP_CTRL dmc) value (·.writeRangeCtrl dmc value))

/-- RANGE_PASS_ABORT -/
def execRangePassAbort (dmc : Fin 8) (req : Req) (value : Word) (s : State) : Outcome State Fault Refusal :=
  .next (s.busWrite req (Reg.DMC_RP_CTRL dmc) value (·.writeRangeCtrl dmc value))

/-- RANGE_PASS_READ: the pass of a controller reads its next code word, and ends after the last one. -/
def execRangePassRead (dmc : Fin 8) (upset : BitVec 10) (s : State) : Outcome State Fault Refusal :=
  .next <|
    match (s.dmc dmc).pass with
    | none => s
    | some p =>
      match s.wordFrom (fun g => Nat.beq (g / 2) dmc) p.next p.stop with
      | none => s.endPass dmc 0 p
      | some w =>
        let r := s.ddrDecode (ddrBase + w * 64) upset.toNat 3 0x3FF
        let hit := !(decide (r.1 = .ok))
        let p1 : RangePass :=
          { p with
            next := w + 1
            words := p.words + 1
            ce := p.ce + (match r.1 with | .corrected _ _ | .mistaken _ => 1 | _ => 0)
            ue := p.ue + (if decide (r.1 = .uncorrectable) then 1 else 0)
            poison := p.poison + (if decide (r.1 = .poison) then 1 else 0)
            first := if hit then some (min w (p.first.getD w)) else p.first
            last := if hit then some (max w (p.last.getD w)) else p.last }
        match s.wordFrom (fun g => Nat.beq (g / 2) dmc) (w + 1) p.stop with
        | some _ => r.2.setDmc dmc { r.2.dmc dmc with pass := some p1 }
        | none => r.2.endPass dmc 0 p1

/-- A write of DMC_MARK (R314): clearing a mark restarts the counts. -/
def State.writeMark (s : State) (n : Nat) (w : Word) : State :=
  let cleared := s.reg (Reg.DMC_MARK n) &&& w &&& 0x80808080#32
  let s1 := s.plainWrite (Reg.DMC_MARK n) w
  if !(s.dmcPopulated n) then s
  else if cleared = 0#32 then s1 else s1.setDmc n { s1.dmc n with counts := [] }

/-- MARK_CLEAR -/
def execMarkClear (dmc : Fin 8) (req : Req) (value : Word) (s : State) : Outcome State Fault Refusal :=
  .next (s.busWrite req (Reg.DMC_MARK dmc) value (·.writeMark dmc value))

/-- DMC_ECC_CNT_READ -/
def execDmcEccCntRead (dmc : Fin 8) (req : Req) (s : State) : Outcome State Fault Refusal :=
  .next (s.readClear req (Reg.DMC_ECC_CNT dmc))

/-- Refresh may take the next slot of a subchannel: it never takes more than 3.6 % of those that have passed (R312; log entry
77). -/
def WheelRun.refreshDue (r : WheelRun) : Bool := Nat.ble (1000 * (r.refresh + 1)) (36 * (r.slots + 1))

/-- Scrubbing, with its write-backs, may take the next slot: never more than 0.4 % (R312; log entry 77). -/
def WheelRun.scrubDue (r : WheelRun) : Bool := Nat.ble (1000 * (r.scrub + 1)) (4 * (r.slots + 1))

/-- A slot of a subchannel's wheel passes, with the burst that issues in it, if any; `refresh` and `scrub` say what takes it in
place of one. -/
def State.passSlot (s : State) (sub : Fin 16) (refresh scrub : Bool) (burst : Option WheelReq) : State :=
  let n := s.wheelRun[sub]
  { s with wheelPos := s.wheelPos.set sub ((s.wheelPos[sub] + 1) % 256), wheelOut := s.wheelOut.set sub burst
           wheelRun := s.wheelRun.set sub { slots := n.slots + 1, refresh := n.refresh + refresh.toNat, scrub := n.scrub + scrub.toNat } }

/-- DDR_REFRESH: refresh takes the next slot of the subchannel's wheel, within its allowance (R312, R335 step 4). -/
def execDdrRefresh (sub : Fin 16) (s : State) : Outcome State Fault Refusal :=
  .next (if s.dmcPopulated (sub / 2) && s.wheelRun[sub].refreshDue then s.passSlot sub true false none else s)

/-! ## On-chip words (R319) -/

/-- The memory at `pa` carries SEC-DED words. -/
def State.isSram (s : State) (pa : Nat) : Bool :=
  match s.place pa with | .engineMem | .clusterMem | .tcm => true | _ => false

/-- The reader is the unit that serves the word, whose own rule reports it. -/
def State.readsOwn (s : State) (req : Req) (pa : Nat) : Bool :=
  match req.ini with
  | .engine n => decide (s.servedBy pa = some (.te n))
  | _ => false

/-- SRAM_READ: a read of the 64-bit word at `addr` with `upset` wrong bits. -/
def execSramRead (req : Req) (addr : BitVec 48) (upset : Fin 3) (s : State) : Outcome State Fault Refusal :=
  .next <|
    if s.mute req.ini then s else
    let pa := addr.toNat / 8 * 8
    if s.isSram pa then
      match s.judged req .read pa 8 with
      | (.okay, s1) =>
        let r := s1.sramReadWord pa 8 upset (s1.readsOwn req pa)
        r.2.2.answer r.1 r.2.1
      | (e, s1) => s1.answer e (List.replicate 8 0#8)
    else s

/-- SRAM_NARROW_WRITE: a write of fewer than 8 bytes within the word at `addr`. -/
def execSramNarrowWrite (req : Req) (addr : BitVec 48) (data : List Byte) (upset : Fin 3) (s : State) :
    Outcome State Fault Refusal :=
  .next <|
    if s.mute req.ini then s else
    let pa := addr.toNat
    let bs := data.take (8 - pa % 8)
    if s.isSram pa then
      match s.judged req .write pa bs.length with
      | (.okay, s1) => (s1.sramWriteWord pa bs upset (s1.readsOwn req pa)).answer .okay []
      | (e, s1) => s1.answer e []
    else s

/-! ## System cache (R320, R328 to R331) -/

/-- The cached line `l` after the error `err`, met by a write of the whole line or by a read (R320): a clean line is invalidated; a
dirty one keeps its place with its data lost, or is lost with its address, so that DDR keeps what it holds. -/
def State.slcError (s : State) (l : SlcLine) (err : SlcError) (write : Bool) : State :=
  let lost : State := { s with slc := s.slc.filter fun x => !(Nat.beq x.line l.line) }
  match err, l.dirty with
  | .none, _ => s
  | .data, false | .tag, false => lost.report (plainRecord .slc sevCE)
  | .data, true =>
    if write then s
    else { s with slc := s.slc.map fun (x : SlcLine) => if Nat.beq x.line l.line then { x with bad := true } else x }.report
      (plainRecord .slc sevUE)
  | .tag, true =>
    (if s.dirtyAtCore (ddrBase / 64 + l.line) then lost else lost.store (ddrBase + l.line * 64) (l.old.take 64)).report
      (plainRecord .slc sevFatal)

/-- SLC_ACCESS: a DDR access of a whole line, a write where there are `data`, passes the guard, looks the cache up in all ways and
allocates on a miss.  `err` is an error of the line it meets. -/
def execSlcAccess (req : Req) (addr : BitVec 48) (data : Option (Vector Byte 64)) (err : SlcError) (s : State) :
    Outcome State Fault Refusal :=
  .next <|
    if s.mute req.ini then s else
    let pa := addr.toNat / 64 * 64
    match s.place pa with
    | .ddr =>
      match s.judged req (if data.isSome then .write else .read) pa 64 with
      | (.okay, s1) =>
        let s2 := match s1.slcFind ((pa - ddrBase) / 64) with | some l => s1.slcError l err data.isSome | none => s1
        match data with
        | some d => let r := s2.ddrWrite (s.issued req) pa d.toList 0; r.2.answer r.1 []
        | none => let r := s2.ddrRead (s.issued req) .read pa 64 0; r.2.2.answer r.1 r.2.1
      | (e, s1) => s1.answer e (if data.isSome then [] else List.replicate 64 0#8)
    | _ => s

/-- A write of SLC_FLUSH (R330): bits of held ways are ignored. -/
def State.writeFlush (s : State) (w : Word) : State :=
  let ways := ((List.range 24).filter fun k => bitAt w.toNat k && !(s.heldWay k)).foldl (fun m k => m ||| 2 ^ k) 0
  s.plainWrite Reg.SLC_FLUSH (BitVec.ofNat 32 ways)

/-- SLC_FLUSH -/
def execSlcFlush (req : Req) (value : Word) (s : State) : Outcome State Fault Refusal :=
  .next (s.busWrite req Reg.SLC_FLUSH value (·.writeFlush value))

/-- SLC_FLUSH_DONE: the lines of the way have been written back and invalidated, and its bit clears. -/
def execSlcFlushDone (way : Fin 24) (s : State) : Outcome State Fault Refusal :=
  .next <|
    let m := s.fld Reg.SLC_FLUSH Fld.SLC_FLUSH_WAYS
    if bitAt m way then
      (s.evictAll fun l => Nat.beq l.way way).setFld Reg.SLC_FLUSH Fld.SLC_FLUSH_WAYS (m - 2 ^ way.val)
    else s

/-- A write of SLC_HOLD (R331): a change of WAYS waits with PEND. -/
def State.writeHold (s : State) (w : Word) : State :=
  let s1 := s.plainWrite Reg.SLC_HOLD w
  if Nat.beq (s1.fld Reg.SLC_HOLD Fld.SLC_HOLD_WAYS) (s.fld Reg.SLC_HOLD Fld.SLC_HOLD_WAYS) then s1
  else s1.raise Reg.SLC_HOLD Fld.SLC_HOLD_PEND

/-- DEPTH_HOLD_WRITE -/
def execDepthHoldWrite (req : Req) (value : Word) (s : State) : Outcome State Fault Refusal :=
  .next (s.busWrite req Reg.SLC_HOLD value (·.writeHold value))

/-- KIND of the graphics entry that runs is a render pass (12_graphics_and_display R341). -/
def State.renderInFlight (s : State) : Bool :=
  match s.gfxRun with
  | some g => Nat.beq (fieldAt g.entry.bytes 0 1) 0x40
  | none => false

/-- A pending change of the hold takes effect with no render in flight: the lines of the ways taken have been written back
and invalidated, and PEND clears. -/
def State.takeHold (s : State) : State :=
  if s.flag Reg.SLC_HOLD Fld.SLC_HOLD_PEND && !s.renderInFlight then
    let n := s.fld Reg.SLC_HOLD Fld.SLC_HOLD_WAYS
    { s.evictAll fun l => Nat.ble (24 - n) l.way with holdWays := n }.lower Reg.SLC_HOLD Fld.SLC_HOLD_PEND
  else s

/-- DEPTH_HOLD_CHANGE -/
def execDepthHoldChange (s : State) : Outcome State Fault Refusal := .next s.takeHold

/-! ## Links (R321, R322) -/

/-- The number of ones among the low 32 bits of a word is even. -/
def evenOnes (w : Nat) : Bool := Nat.beq (((List.range 32).filter (bitAt w)).length % 2) 0

/-- Every word of the flit agrees with its bit of even parity (R321). -/
def flitOk (f : Flit) : Bool := (List.finRange 16).all fun k => evenOnes f.words[k].toNat != bitAt f.parity.toNat k

/-- FLIT_PARITY_ERROR: a receiver on the output `dir` of a router checks a flit.  A good one is accepted; a bad one is discarded with
every later flit, and replayed.  The eighth replay in a row takes the link out of service: it is recorded, and each transaction
with a flit in the replay buffer gets RESP = LINK. -/
def execFlitParityError (router : Byte) (dir : Fin 4) (flit : Flit) (s : State) : Outcome State Fault Refusal :=
  .next <|
    let here (l : Link) := Nat.beq l.router router.toNat && Nat.beq l.dir dir
    let old := s.links.find? here
    let others := s.links.filter fun l => !(here l)
    if old.any (·.faulty) then s
    else if flitOk flit then { s with links := others }
    else
      let n := if flit.again then (old.map (·.replays)).getD 0 + 1 else 1
      let link : Link := { router := router.toNat, dir, replays := n, faulty := Nat.ble 8 n, buffer := flit.held.take 64 }
      let s1 := { s with links := link :: others }.count Reg.MRC_REPLAYS Fld.MRC_REPLAYS_COUNT 1
      if Nat.ble 8 n then
        let s2 := if s1.flag Reg.MRC_LFAULT Fld.MRC_LFAULT_VALID then s1 else
          ((s1.setFld Reg.MRC_LFAULT Fld.MRC_LFAULT_ROUTER router.toNat).setFld Reg.MRC_LFAULT Fld.MRC_LFAULT_DIR dir).raise
            Reg.MRC_LFAULT Fld.MRC_LFAULT_VALID
        { s2 with linkLost := s2.linkLost ++ link.buffer }.report { plainRecord .mrc sevUE with sub := dir }
      else s1

/-- MRC_REPLAYS_READ -/
def execMrcReplaysRead (req : Req) (s : State) : Outcome State Fault Refusal := .next (s.readClear req Reg.MRC_REPLAYS)

/-! ## Slot wheels (R334, R335) -/

/-- The class that owns slot `k` of wheel `w`, where Sluice is on and the slot is assigned. -/
def State.slotOwner (s : State) (w k : Nat) : Option Nat :=
  if s.flag Reg.SLU_CTRL Fld.SLU_CTRL_EN then
    let v := bitsOf (SMap.get regReset s.wheelLive (Reg.SLU_WHL w (k / 4))).toNat (8 * (k % 4) + 7) (8 * (k % 4))
    if Nat.blt v 16 then some v else none
  else none

/-- SLU_EXCL of a class. -/
def State.exclusive (s : State) (cls : Nat) : Bool := bitAt (s.fld Reg.SLU_EXCL Fld.SLU_EXCL_EXCL) cls

/-- The urgency of a receiver by the fill of its line buffer (R277). -/
def csiUrgency (fill : Nat) : Nat :=
  if Nat.blt fill 0x8000 then 0 else if Nat.blt fill 0x10000 then 1 else if Nat.blt fill 0x18000 then 2 else 3

/-- The urgency of a display head by the output lines buffered ahead of the scan (R359). -/
def displayUrgency (lines : Nat) : Nat :=
  if Nat.blt lines 2 then 3 else if Nat.blt lines 4 then 2 else if Nat.blt lines 8 then 1 else 0

/-- The urgency a master drives (R337). -/
def State.urgency (s : State) : UrgentMaster → Nat
  | .none => 0
  | .csi rx => csiUrgency s.csiFill[rx]
  | .ssp p => s.fld (Reg.SSP_STATUS p) Fld.SSP_STATUS_URG
  | .display h => s.fld (Reg.DSP_STATUS h) Fld.DSP_STATUS_URG

/-- What the buffer of a master holds now: bytes of a receiver's line buffer, lines ahead of a head's scan.  A sensor stream port's
FIFO is in the state already. -/
def State.bufferNow (s : State) : UrgentMaster × Nat → State
  | (.csi rx, fill) => { s with csiFill := s.csiFill.set rx fill }
  | (.display h, lines) => (s.setHead h { s.head h with ahead := lines }).setFld (Reg.DSP_STATUS h) Fld.DSP_STATUS_URG (displayUrgency lines)
  | _ => s

/-- The effective priority of a waiting request (R335). -/
def State.priority (s : State) (r : WheelReq) : Nat :=
  let urg := s.urgency r.master
  if Nat.beq urg 0 then bitsOf (s.reg (Reg.SLU_PRIO (r.cls / 8))).toNat (4 * (r.cls % 8) + 3) (4 * (r.cls % 8))
  else 7 + urg

/-- The first request of the highest priority, oldest first. -/
def State.highest (s : State) : List WheelReq → Option WheelReq
  | [] => none
  | r :: rs =>
    match s.highest rs with
    | none => some r
    | some b => if Nat.blt (s.priority r) (s.priority b) then some b else some r

/-- The burst issued at a slot (R335): `waiting` holds the subchannel's requests, oldest first, and `busy` the banks that are not
ready. -/
def State.chooseBurst (s : State) (owner : Option Nat) (waiting : List WheelReq) (busy : List Nat) : Option WheelReq :=
  let unused := s.highest (waiting.filter fun r => !(s.exclusive r.cls))
  match owner with
  | none => unused
  | some c =>
    match waiting.find? fun r => Nat.beq r.cls c && !(busy.contains r.bank) with
    | some r => some r
    | none => if s.exclusive c then none else unused

/-- A subchannel has room for a request of a class: it queues up to 16 of each (R333). -/
def roomFor (queue : List WheelReq) (cls : Nat) : Bool := Nat.blt (queue.filter fun r => Nat.beq r.cls cls).length 16

/-- The classes that turn `k` of a router output may serve, in order: an exclusive class has its own turn alone, and the turn of any
other passes to the next that is not exclusive (R333). -/
def State.turnClasses (s : State) (k : Nat) : List Nat :=
  if s.exclusive k then [k] else ((List.range 16).map fun i => (k + i) % 16).filter fun c => !(s.exclusive c)

/-- A turn: the oldest request of the first class that has one and finds room goes on to the subchannel's queue.  A full queue holds
back its own class's channel only. -/
def State.takeTurnAt (s : State) (k : Nat) (x : List WheelReq × List WheelReq) : List WheelReq × List WheelReq :=
  match (s.turnClasses k).findSome? fun c => if roomFor x.2 c then x.1.find? fun r => Nat.beq r.cls c else none with
  | some r => (x.1.erase r, x.2 ++ [r])
  | none => x

/-- WHEEL_SLOT: the buffers of real-time masters hold what `found` says (R337); the requests that arrive at the
subchannel's router output enter their virtual channels, the output serves a round of 16 turns (log entry 77), and the slot passes:
a request of the queue issues, or scrubbing takes the slot, within its allowance, whatever the owner. -/
def execWheelSlot (sub : Fin 16) (found : SlotInput) (maintenance : Bool) (s : State) : Outcome State Fault Refusal :=
  .next <|
    let s := found.fills.foldl (fun s x => s.bufferNow x) s
    let k := s.wheelPos[sub]
    let x := (List.range 16).foldl (fun x i => s.takeTurnAt i x)
      (s.channels[sub] ++ found.arriving, s.ddrQueue[sub])
    let upkeep := maintenance && s.wheelRun[sub].scrubDue
    let burst := if upkeep then none else s.chooseBurst (s.slotOwner sub k) x.2 found.busy
    let left := match burst with | some r => x.2.erase r | none => x.2
    { s.passSlot sub false upkeep burst with
             channels := s.channels.set sub x.1, ddrQueue := s.ddrQueue.set sub left }

/-- WHEEL_SWAP_REQUEST: a write of SLU_CTRL. -/
def execWheelSwapRequest (req : Req) (value : Word) (s : State) : Outcome State Fault Refusal :=
  .next (s.busWrite req Reg.SLU_CTRL value (·.plainWrite Reg.SLU_CTRL value))

/-- A write of the wheel window (R334): the idle bank, and not while SWAP = 1; a slot byte that is no class and not 0xFF is
a reserved value (R14). -/
def State.writeWheel (s : State) (a : Nat) (w : Word) : State :=
  if s.flag Reg.SLU_CTRL Fld.SLU_CTRL_SWAP then s.cfgErr a
  else
    let ok (k : Nat) := Nat.blt (bitsOf w.toNat (8 * k + 7) (8 * k)) 16 || Nat.beq (bitsOf w.toNat (8 * k + 7) (8 * k)) 0xFF
    let v := (List.range 4).foldl (fun v k => v + (if ok k then bitsOf w.toNat (8 * k + 7) (8 * k) else 0xFF) * 2 ^ (8 * k)) 0
    let s1 := if (List.range 4).all ok then s else s.cfgErr a
    s1.setReg a (BitVec.ofNat 32 v)

/-- WHEEL_BANK_SWAP: at the turn boundary, where every wheel is at its slot 0, all wheels change bank and SWAP clears. -/
def execWheelBankSwap (s : State) : Outcome State Fault Refusal :=
  .next <|
    if s.flag Reg.SLU_CTRL Fld.SLU_CTRL_SWAP && s.wheelPos.all (Nat.beq 0) then
      let isWheel (e : Nat × Word) := inRange e.1 (Reg.SLU_WHL 0 0) (Reg.SLU_WHL 16 0)
      let regs := s.wheelLive.foldl (fun m e => SMap.set regReset m e.1 e.2) (s.regs.filter fun e => !(isWheel e))
      let s1 := { s with wheelLive := s.regs.filter isWheel, regs }
      (s1.lower Reg.SLU_CTRL Fld.SLU_CTRL_SWAP).setFld Reg.SLU_CTRL Fld.SLU_CTRL_ACTIVE
        (1 - s.fld Reg.SLU_CTRL Fld.SLU_CTRL_ACTIVE)
    else s

end Sys2Proof.Machine
end

