-- ==== Sys2Proof/Machine/Graphics.lean ====
section
/-!
DEFINITION. The raster complex: graphics queues, render passes, binning and partial renders, and the ends of entries
(12_graphics_and_display R338 to R352).
-/

namespace Sys2Proof.Machine

open Host (Outcome)

/-! ## Queues (R339, R340) -/

/-- A request of the raster control core for queue q: class CL12 (R338). -/
def State.gfxReq (s : State) (q : Nat) : Req := s.unitReq .rasterControl 12 (s.gfxQueue q).ctx

/-- An ignored write of queue q's doorbell page is counted. -/
def State.gqIgnored (s : State) (q : Nat) : State := s.count (Reg.GQ_DB_ERR q) Fld.DB_ERR_IGNORED 1

/-- The queue descriptor is within its ranges and its context is ACTIVE (R339). -/
def State.queueAdmits (s : State) (b : List Byte) : Bool :=
  let f (o n : Nat) := fieldAt b o n
  Nat.blt (f 0 1) 32 && inRange (f 1 1) 6 17 && inRange (f 2 1) 6 17 && Nat.beq (f 3 1) 0 && inRange (f 4 4) 1 2048 &&
    Nat.beq (f 24 8 % 4096) 0 && Nat.beq (f 32 8 % 4) 0 && zeroAt b 40 24 && s.isActive (f 0 1)

/-- A queue as its descriptor sets it up. -/
def queueOf (b : List Byte) : GfxQueue :=
  let f (o n : Nat) := fieldAt b o n
  { GfxQueue.reset with
    on := true, ctx := f 0 1, sqBase := f 8 8, sqLog2 := f 1 1, cq := { base := f 16 8, log2 := f 2 1, idx := 0, phase := true }
    fenceBase := f 24 8, msiAddr := f 32 8, msiData := f 4 4 }

/-- A disabled queue is enabled by its descriptor, read in CTX0's device context, or refused (log entry 29). -/
def State.startQueue (s : State) (q : Nat) : State :=
  let a := Reg.GFX_GQ_CTRL q
  let iova := s.fld (Reg.GFX_GQ_DESC_HI q) Fld.GFX_GQ_DESC_HI_ADDR_HI * 2 ^ 32 +
    s.fld (Reg.GFX_GQ_DESC_LO q) Fld.GFX_GQ_DESC_LO_ADDR_LO * 64
  let refuse (s : State) : State := (s.lower a Fld.GFX_GQ_CTRL_EN).raise a Fld.GFX_GQ_CTRL_CFG_ERR
  match s.fetch (s.unitReq .rasterControl 12 0) iova 64 with
  | (.okay, b, s1) =>
    if s1.queueAdmits b then
      ((((s1.setGfxQueue q (queueOf b)).setReg (Reg.GQ_DB_SQ_TAIL q) 0#32).setReg (Reg.GQ_DB_SQ_HEAD q) 0#32).setReg
        (Reg.GQ_DB_CQ_HEAD q) 0#32).setReg (Reg.GQ_DB_CQ_TAIL q) 0#32
    else refuse s1
  | (_, _, s1) => refuse s1

/-! ## Completions (R192, R194 to R196) -/

/-- Fence f of queue q rises to v, and its mirror is written. -/
def State.gqFence (s : State) (q f v : Nat) : State :=
  let g := s.gfxQueue q
  let v1 := max (fenceOf g.fences f) v
  ((s.setGfxQueue q { g with fences := SMap.set (fun _ => 0) g.fences f v1 }).put (s.gfxReq q) (g.fenceBase + 8 * f)
    (leBytes 8 v1)).2

/-- An entry of queue q ends: completion entry, fence-out, MSI.  A failed write drops it (log entry 31). -/
def State.gqEnd (s : State) (q : Nat) (h : HeldEntry) (e : Ending) : State :=
  let g0 := s.gfxQueue q
  let s0 := s.setGfxQueue q { g0 with reserved := g0.reserved - 1 }
  match s0.cqPut (s0.gfxReq q) g0.cq (h.cqe 0 e) with
  | (.okay, s1) =>
    let g := s1.gfxQueue q
    let s2 := (s1.setGfxQueue q { g with cq := g.cq.next, unread := g.unread + 1 }).setFld (Reg.GQ_DB_CQ_TAIL q)
      Fld.DB_CQ_TAIL_TAIL g.cq.next.idx
    let s3 := if signals e.status && bitAt h.flags 2 then s2.gqFence q (fieldAt h.bytes 26 2) (fieldAt h.bytes 16 8) else s2
    if bitAt h.flags 0 then s3.sendMsi .rasterControl g.ctx g.msiAddr g.msiData else s3
  | (_, s1) => s1

/-! ## The reading of entries (R182, R185, R341) -/

/-- Entries of queue q that have not been read. -/
def State.gqUnread (s : State) (q : Nat) : Nat :=
  let size := 2 ^ (s.gfxQueue q).sqLog2
  (s.fld (Reg.GQ_DB_SQ_TAIL q) Fld.DB_SQ_TAIL_TAIL + size - s.fld (Reg.GQ_DB_SQ_HEAD q) Fld.DB_SQ_HEAD_HEAD) % size

/-- The checks of an entry on reading: its common bytes, and the reserved bytes of a NOP or a DISPATCH (R185, R340, R341). -/
def gfxChecks (b : List Byte) : Checked Unit :=
  firstBad stFormat ([(0, [0x00, 0x40, 0x41].contains (fieldAt b 0 1)), (1, Nat.ble (fieldAt b 1 1) 7),
    (2, Nat.ble (fieldAt b 2 1) 15), (3, zeroAt b 3 1), (24, Nat.ble (fieldAt b 24 2) 63), (26, Nat.ble (fieldAt b 26 2) 63)] ++ zeroBytes b 28 32 ++
    (match fieldAt b 0 1 with | 0x00 => zeroBytes b 32 128 | 0x41 => zeroBytes b 48 128 | _ => []))

/-- The next entry of queue q is read while a completion entry can be reserved; `fuel` bounds the entries. -/
def State.gqRead (s : State) (q : Nat) : Nat → State
  | 0 => s
  | fuel + 1 =>
    let g := s.gfxQueue q
    let head := s.fld (Reg.GQ_DB_SQ_HEAD q) Fld.DB_SQ_HEAD_HEAD
    if !g.on || Nat.beq (s.gqUnread q) 0 || Nat.ble (2 ^ g.cq.log2) (g.reserved + g.unread) then s
    else
      match s.fetch (s.gfxReq q) (g.sqBase + 128 * head) 128 with
      | (.okay, b, s1) =>
        let jobNo := g.jobNo + 1
        let h : HeldEntry := { bytes := b, idx := head, readNs := s.now, released := none, started := false, stop := 0, jobNo }
        let s2 := (s1.setGfxQueue q { s1.gfxQueue q with reserved := g.reserved + 1, jobNo }).setFld (Reg.GQ_DB_SQ_HEAD q)
          Fld.DB_SQ_HEAD_HEAD ((head + 1) % 2 ^ g.sqLog2)
        let s3 := match gfxChecks b with
          | .ok _ => s2.setGfxQueue q { s2.gfxQueue q with held := g.held ++ [h] }
          | .bad status detail => s2.gqEnd q h { status, detail }
        s3.gqRead q fuel
      | (_, _, s1) => s1

/-- The raster control core reads what it may of every queue. -/
def State.gfxRead (s : State) : State := (List.range 8).foldl (fun s q => s.gqRead q (s.gqUnread q)) s

/-! ## Doorbells and control -/

/-- A write of the tail of queue q (R184). -/
def State.writeGqTail (s : State) (q : Nat) (w : Word) : State :=
  let g := s.gfxQueue q
  let v := Fld.DB_SQ_TAIL_TAIL.get w
  if g.on && Nat.blt v (2 ^ g.sqLog2) then (s.setFld (Reg.GQ_DB_SQ_TAIL q) Fld.DB_SQ_TAIL_TAIL v).gfxRead else s.gqIgnored q

/-- A write of the completion head of queue q (R184; log entry 22). -/
def State.writeGqHead (s : State) (q : Nat) (w : Word) : State :=
  let g := s.gfxQueue q
  let v := Fld.DB_CQ_HEAD_HEAD.get w
  let size := 2 ^ g.cq.log2
  let d := if Nat.beq v g.cq.idx then g.unread else (v + size - s.fld (Reg.GQ_DB_CQ_HEAD q) Fld.DB_CQ_HEAD_HEAD) % size
  if !g.on || Nat.ble size v || Nat.blt g.unread d then s.gqIgnored q
  else ((s.setGfxQueue q { g with unread := g.unread - d }).setFld (Reg.GQ_DB_CQ_HEAD q) Fld.DB_CQ_HEAD_HEAD v).gfxRead

/-- GQ_DOORBELL -/
def execGqDoorbell (q : Fin 8) (req : Req) (value : Word) (s : State) : Outcome State Fault Refusal :=
  .next (s.busWrite req (Reg.GQ_DB_SQ_TAIL q) value (·.writeGqTail q value))

/-- The effect of CTX_RESET on queue q (R176, R177, R340): its running entry and the entries read end with
ABORT_CONTEXT_RESET, and unread entries are discarded. -/
def State.resetQueue (s : State) (q : Nat) : State :=
  let aborted : Ending := { status := stAbortReset }
  let s1 := match s.gfxRun with
    | some g => if Nat.beq g.queue q then { s with gfxRun := none }.gqEnd q g.entry aborted else s
    | none => s
  let held := (s1.gfxQueue q).held
  let s2 := held.foldl (fun s h => s.gqEnd q h aborted) (s1.setGfxQueue q { s1.gfxQueue q with held := [] })
  s2.setFld (Reg.GQ_DB_SQ_HEAD q) Fld.DB_SQ_HEAD_HEAD (s2.fld (Reg.GQ_DB_SQ_TAIL q) Fld.DB_SQ_TAIL_TAIL)

/-- Queue q is disabled. -/
def State.stopQueue (s : State) (q : Nat) : State :=
  let s1 := s.resetQueue q
  (s1.setGfxQueue q { s1.gfxQueue q with on := false }).lower (Reg.GFX_GQ_CTRL q) Fld.GFX_GQ_CTRL_EN

/-- A write of GFX_GQn_CTRL. -/
def State.writeGqCtrl (s : State) (q : Nat) (w : Word) : State :=
  let a := Reg.GFX_GQ_CTRL q
  let s1 := s.plainWrite a w
  match s.flag a Fld.GFX_GQ_CTRL_EN, s1.flag a Fld.GFX_GQ_CTRL_EN with
  | false, true => s1.startQueue q
  | true, false => s1.stopQueue q
  | _, _ => s1

/-- GQ_ENABLE -/
def execGqEnable (q : Fin 8) (req : Req) (value : Word) (s : State) : Outcome State Fault Refusal :=
  .next (s.busWrite req (Reg.GFX_GQ_CTRL q) value (·.writeGqCtrl q value))

/-- GQ_DISABLE -/
def execGqDisable (q : Fin 8) (req : Req) (value : Word) (s : State) : Outcome State Fault Refusal :=
  .next (s.busWrite req (Reg.GFX_GQ_CTRL q) value (·.writeGqCtrl q value))

/-- A write of GFX_GQn_DESC_LO or _HI, ignored while EN = 1. -/
def State.writeGqDesc (s : State) (q a : Nat) (w : Word) : State :=
  if s.flag (Reg.GFX_GQ_CTRL q) Fld.GFX_GQ_CTRL_EN then s else s.plainWrite a w

/-! ## Admission (R342, R343) -/

/-- Samples per pixel, and depth-stencil bytes per sample. -/
def rpSamples (b : List Byte) : Nat := 2 ^ fieldAt b 56 1
def rpDsb (b : List Byte) : Nat := match fieldAt b 57 1 with | 0 => 0 | 1 => 2 | 2 => 4 | 3 => 4 | _ => 5

/-- Tiles of the render area. -/
def rpTiles (b : List Byte) : Nat := ((fieldAt b 52 2 + 31) / 32) * ((fieldAt b 54 2 + 31) / 32)

/-- The checks of a RENDER_PASS, with `hold` bytes of depth hold. -/
def renderChecks (b : List Byte) (hold : Nat) : Checked Unit :=
  let f (o n : Nat) := fieldAt b o n
  let area (o p : Nat) := inRange (f o 2) 1 16385 && Nat.ble (f p 2 + f o 2) 16384
  let per := rpSamples b * (f 58 2 + rpDsb b)
  (firstBad stFormat ([(40, Nat.blt 0 (f 40 4)), (48, Nat.beq (f 48 2 % 32) 0), (50, Nat.beq (f 50 2 % 32) 0), (52, area 52 48),
    (54, area 54 50), (56, Nat.ble (f 56 1) 2), (57, Nat.ble (f 57 1) 4), (58, Nat.ble (f 58 2) 256),
    (60, Nat.beq (f 60 4 % 65536) 0 && Nat.ble 1048576 (f 60 4)), (64, Nat.beq (f 64 8 % 65536) 0)] ++ zeroBytes b 104 128 ++
    [(58, Nat.ble per 256), (72, Nat.beq (f 56 1) 0 || Nat.beq (f 58 2) 0 || !(Nat.beq (f 72 8) 0))])).bind fun _ =>
  (need (Nat.beq (rpDsb b) 0 || Nat.ble (rpTiles b * (1024 * rpSamples b * rpDsb b + 64)) hold) stShape noDetail).bind fun _ =>
  (need (Nat.ble (256 * rpTiles b + 65536) (f 60 4)) stShape noDetail).bind fun _ =>
  need (inRange (f 44 4) 1 8388608) stDuration noDetail

/-- The checks of a DISPATCH (R341). -/
def dispatchChecks (b : List Byte) : Checked Unit :=
  (need (Nat.blt 0 (fieldAt b 40 4)) stFormat 40).bind fun _ =>
    need (inRange (fieldAt b 44 4) 1 8388608) stDuration noDetail

/-! ## Binning (R345, R346, R351) -/

/-- The bins, by tile: the segments of 256 bytes of each, batch behind batch, with the numbers of its primitives. -/
abbrev Bins := List (Nat × List (List Nat))

/-- The primitives of a tile, in the order its owner processes them (R351). -/
def Bins.prims (b : Bins) (tile : Nat) : List Nat := ((SMap.find b tile).getD []).flatten

/-- The bin pool: bytes of primitive data, and the bins. -/
structure BinPool where
  data : Nat
  bins : Bins
  deriving DecidableEq, Repr

/-- The empty pool. -/
def BinPool.empty : BinPool := { data := 0, bins := [] }

/-- Bytes taken in the pool. -/
def BinPool.used (p : BinPool) : Nat := p.bins.foldl (fun k e => k + 256 * e.2.length) p.data

/-- Entries of 8 bytes in segments of 256. -/
def segments (xs : List Nat) : List (List Nat) := groups 32 ((xs.length + 31) / 32) xs

/-- Each tile that a batch touches, with the primitives that touch it, in submission order. -/
def touched (batch : List (Nat × Prim)) : List (Nat × List Nat) :=
  batch.foldl (fun m p => p.2.tiles.eraseDups.foldl (fun m t => SMap.insert m t ((SMap.find m t).getD [] ++ [p.1])) m) []

/-- The bytes of a batch's primitive data. -/
def primBytes (batch : List (Nat × Prim)) : Nat := batch.foldl (fun k p => k + 48 + 48 * p.2.vars.val) 0

/-- The worst case of a batch: its data, and new segments for all its entries in each bin (DEDUCED; log entry 34). -/
def worstCase (batch : List (Nat × Prim)) : Nat :=
  primBytes batch + (touched batch).foldl (fun k e => k + 256 * (segments e.2).length) 0

/-- A batch is binned: its segments are linked after those of the batches before it. -/
def BinPool.place (p : BinPool) (batch : List (Nat × Prim)) : BinPool :=
  { data := p.data + primBytes batch
    bins := (touched batch).foldl (fun m e => SMap.insert m e.1 ((SMap.find m e.1).getD [] ++ segments e.2)) p.bins }

/-- A batch is placed, split on an empty pool, or kept for after a partial render: the pool, and that of each partial render so far;
`fuel` bounds the splits. -/
def binBatch (size : Nat) : Nat → List (Nat × Prim) → BinPool × List BinPool → BinPool × List BinPool
  | 0, _, r => r
  | fuel + 1, batch, (p, k) =>
    let empty := p.bins.isEmpty && Nat.beq p.data 0
    if Nat.ble (p.used + worstCase batch) size || (empty && Nat.ble batch.length 1) then (p.place batch, k)
    else if empty then
      let half := (batch.length + 1) / 2
      binBatch size fuel (batch.drop half) (binBatch size fuel (batch.take half) (p, k))
    else binBatch size fuel batch (BinPool.empty, k ++ [p])

/-- The primitives of batches, numbered in submission order from `n` on. -/
def numbered : Nat → List (List Prim) → List (List (Nat × Prim))
  | _, [] => []
  | n, b :: bs => ((List.range b.length).map (n + ·)).zip b :: numbered (n + b.length) bs

/-- The batches that binning takes: of up to 256 primitives, each with the tiles of the render area's `t` that it touches (R345). -/
def passBatches (t : Nat) (batches : List (List Prim)) : List (List Prim) :=
  (batches.map fun b => groups 256 ((b.length + 255) / 256)
    (b.map fun (p : Prim) => { p with tiles := p.tiles.filter fun k => Nat.blt k t })).flatten

/-- A pass's binning: the pool of its final render, and that of each partial render. -/
def binPass (size : Nat) (batches : List (List Prim)) : BinPool × List BinPool :=
  (numbered 0 batches).foldl (fun r b => binBatch size (2 * b.length + 4) b r) (BinPool.empty, [])

/-- The partial renders of a pass. -/
def partialRenders (size : Nat) (batches : List (List Prim)) : Nat := (binPass size batches).2.length

/-! ## Depth and stencil (R347, R348, R350; log entry 78) -/

/-- The owner of tile (tx, ty) among the cores of a mask (R350). -/
def tileOwner (cores tx ty : Nat) : Nat :=
  let c := (List.range 8).filter (bitAt cores)
  c.getD ((tx + 3 * ty) % c.length) 0

/-- The owner of the tile of an index in a pass's render area. -/
def ownerOf (b : List Byte) (cores tile : Nat) : Nat :=
  let w := (fieldAt b 52 2 + 31) / 32
  tileOwner cores (fieldAt b 48 2 / 32 + tile % w) (fieldAt b 50 2 / 32 + tile / w)

/-- Bytes of depth and stencil of a tile. -/
def depthBytes (b : List Byte) : Nat := 1024 * rpSamples b * rpDsb b

/-- `n` bytes are read one by one, the k-th from the place that `place` gives. -/
def State.readEach (s : State) (req : Req) (place : Nat → Nat) : Nat → Nat → Resp × List Byte × State
  | _, 0 => (.okay, [], s)
  | k, n + 1 =>
    match s.fetch req (place k) 1 with
    | (.okay, x, s1) => let r := s1.readEach req place (k + 1) n; (r.1, x ++ r.2.1, r.2.2)
    | (e, _, s1) => (e, [], s1)

/-- Bytes are written one by one, the k-th to the place that `place` gives. -/
def State.writeEach (s : State) (req : Req) (place : Nat → Nat) : Nat → List Byte → Resp × State
  | _, [] => (.okay, s)
  | k, x :: xs =>
    match s.put req (place k) [x] with
    | (.okay, s1) => s1.writeEach req place (k + 1) xs
    | (e, s1) => (e, s1)

/-- The place of the k-th byte of a tile's depth and stencil in the image at `iova`. -/
def depthPlace (b : List Byte) (iova tile k : Nat) : Nat := iova + Config.dsOffset b tile k

/-- What a tile holds at its first touch: DS_IN, or the clear value. -/
def State.firstDepth (s : State) (req : Req) (b : List Byte) (tile : Nat) : Resp × List Byte × State :=
  if Nat.beq (fieldAt b 80 8) 0 then (.okay, (List.range (depthBytes b)).map (Config.depthClear b), s)
  else s.readEach req (depthPlace b (fieldAt b 80 8) tile) 0 (depthBytes b)

/-- Bytes of colour of a tile, and the place of the k-th outside tile memory: the tile's spill slot, or with a single sample the
attachments (R347). -/
def colourBytes (b : List Byte) : Nat := 1024 * rpSamples b * fieldAt b 58 2
def colourPlace (b : List Byte) (tile k : Nat) : Nat :=
  if Nat.blt 1 (rpSamples b) then fieldAt b 72 8 + tile * colourBytes b + k else Config.colourPlace b tile k

/-- The pass, its owner of a tile, and the header of that core's requests (class CL12). -/
def State.tileReq (s : State) (g : GfxRun) (tile : Nat) : Req :=
  s.unitReq (.rasterCore (Fin.ofNat 8 (ownerOf g.entry.bytes g.cores tile))) 12 (s.gfxQueue g.queue).ctx

/-- A fault that a tile's owner meets is the pass's, and nothing more is rendered. -/
def GfxRun.faulted (g : GfxRun) (tile : Nat) (e : Resp) : GfxRun :=
  { g with fault := some (faultOf e, ownerOf g.entry.bytes g.cores tile) }

/-- A byte string after the primitives of a bin, where there are any. -/
def drawn (after : List Byte → List Nat → Nat → Byte) (prims : List Nat) (c : List Byte) : List Byte :=
  if prims.isEmpty then c else (List.range c.length).map (after c prims)

/-- A raster core's tile memory holds `c` behind its first `n` bytes (R344). -/
def State.holdTile (s : State) (core n : Nat) (c : List Byte) : State :=
  { s with tiles := s.tiles.set (Fin.ofNat 8 core) ((s.tiles[Fin.ofNat 8 core]).take n ++ c) }

/-- The owner of a tile renders its depth and stencil: they come from the hold, or at the first touch from DS_IN, and go into its
hold slot. -/
def State.renderDepth (s : State) (bins : Bins) (tile : Nat) : State :=
  match s.gfxRun with
  | none => s
  | some g =>
    let b := g.entry.bytes
    if Nat.beq (rpDsb b) 0 || g.fault.isSome then s
    else
      let r := match SMap.find g.hold tile with
        | some c => (Resp.okay, c, s)
        | none => s.firstDepth (s.tileReq g tile) b tile
      match r with
      | (.okay, c, s1) =>
        let c1 := drawn Config.depthAfter (bins.prims tile) c
        { s1.holdTile (ownerOf b g.cores tile) (colourBytes b) c1 with gfxRun := some { g with hold := SMap.insert g.hold tile c1 } }
      | (e, _, s1) => { s1 with gfxRun := some (g.faulted tile e) }

/-- The owner of a tile renders its colour, every sample of it: what an earlier render stored is reloaded (R347). -/
def State.renderColour (s : State) (bins : Bins) (tile : Nat) : Option (List Byte) × State :=
  match s.gfxRun with
  | none => (none, s)
  | some g =>
    let b := g.entry.bytes
    if Nat.beq (colourBytes b) 0 || g.fault.isSome then (none, s)
    else
      let r := if g.drawn.contains tile then s.readEach (s.tileReq g tile) (colourPlace b tile) 0 (colourBytes b)
        else (.okay, (List.range (colourBytes b)).map (Config.colourFirst b tile), s)
      match r with
      | (.okay, c, s1) =>
        let c1 := drawn Config.colourAfter (bins.prims tile) c
        (some c1, s1.holdTile (ownerOf b g.cores tile) 0 c1)
      | (e, _, s1) => (none, { s1 with gfxRun := some (g.faulted tile e) })

/-- The owner of a tile stores bytes of it, the k-th at the place that `place` gives. -/
def State.storeTile (s : State) (tile : Nat) (place : Nat → Nat) (c : List Byte) : State :=
  match s.gfxRun with
  | none => s
  | some g =>
    match s.writeEach (s.tileReq g tile) place 0 c with
    | (.okay, s1) => s1
    | (e, s1) => { s1 with gfxRun := some (g.faulted tile e) }

/-- A partial render of a tile: its colour goes to the attachments or its spill slot, its depth and stencil to its hold slot. -/
def State.partialTile (s : State) (bins : Bins) (tile : Nat) : State :=
  let r := s.renderColour bins tile
  let s1 := match r.1, r.2.gfxRun with
    | some c, some g => { r.2 with gfxRun := some { g with drawn := tile :: g.drawn } }.storeTile tile (colourPlace g.entry.bytes tile) c
    | _, _ => r.2
  s1.renderDepth bins tile

/-- A partial render: every tile whose bin is not empty is rendered, and the render counts once all are (R347). -/
def State.partialRender (s : State) (bins : Bins) : State :=
  let s1 := bins.foldl (fun s e => s.partialTile bins e.1) s
  { s1 with gfxRun := s1.gfxRun.map fun (g : GfxRun) => if g.fault.isSome then g else { g with partials := g.partials + 1 } }

/-- The colour that the attachments keep of a tile: with several samples the resolved one. -/
def resolvedColour (b : List Byte) (c : List Byte) : List Byte :=
  if Nat.blt 1 (rpSamples b) then (List.range (1024 * fieldAt b 58 2)).map (Config.resolved b c) else c

/-- The final render of a tile: its colour is resolved into the attachments, its depth and stencil go to DS_OUT, or nowhere. -/
def State.finalTile (s : State) (tile : Nat) : State :=
  match s.gfxRun with
  | none => s
  | some g0 =>
    let b := g0.entry.bytes
    let r := s.renderColour g0.bins tile
    let s1 := match r.1 with
      | some c => r.2.storeTile tile (Config.colourPlace b tile) (resolvedColour b c)
      | none => r.2
    let s2 := s1.renderDepth g0.bins tile
    match s2.gfxRun with
    | none => s2
    | some g =>
      if g.fault.isSome || Nat.beq (fieldAt b 88 8) 0 then s2
      else s2.storeTile tile (depthPlace b (fieldAt b 88 8) tile) ((SMap.find g.hold tile).getD [])

/-- `n` free values. -/
def State.freeBytes (s : State) (n : Nat) : List Byte := (List.range n).map fun k => BitVec.ofNat 8 (Config.freeValue (s.ticks + k))

/-- `n` bytes at places become free values, as far as they can be written. -/
def State.freeAt (s : State) (req : Req) (place : Nat → Nat) (n : Nat) : State :=
  { (s.writeEach req place 0 (s.freeBytes n)).2 with ticks := s.ticks + n }

/-- After a fault the attachments, the spill area and DS_OUT hold undefined contents (R352). -/
def State.undefinePass (s : State) (g : GfxRun) : State :=
  let b := g.entry.bytes
  if !(Nat.beq g.entry.kind 0x40) then s
  else
    (List.range (rpTiles b)).foldl (fun s tile =>
      let req := s.tileReq g tile
      let s1 := s.freeAt req (Config.colourPlace b tile) (1024 * fieldAt b 58 2)
      let s2 := if Nat.blt 1 (rpSamples b) then s1.freeAt req (colourPlace b tile) (colourBytes b) else s1
      if Nat.beq (fieldAt b 88 8) 0 then s2 else s2.freeAt req (depthPlace b (fieldAt b 88 8) tile) (depthBytes b)) s

/-- The final render of every tile of the render area; a fault stops it. -/
def State.finalRender (s : State) : State :=
  match s.gfxRun with
  | some g => if Nat.beq g.entry.kind 0x40 then (List.range (rpTiles g.entry.bytes)).foldl (fun s t => s.finalTile t) s else s
  | none => s

/-! ## Order and start (R341, R350) -/

/-- The queue whose head entry is next: the lowest-numbered one whose fence-in holds, while nothing runs and the control core
does (R467, R482). -/
def State.gfxNext (s : State) : Option (Nat × HeldEntry) :=
  match s.gfxRun, s.procRuns 9 with
  | some _, _ | _, false => none
  | none, true =>
    (List.range 8).findSome? fun q =>
      match (s.gfxQueue q).held with
      | h :: _ => if h.fenceHolds (s.gfxQueue q).fences then some (q, h) else none
      | [] => none

/-- The head entry of queue q leaves it. -/
def State.gqPop (s : State) (q : Nat) : State :=
  let g := s.gfxQueue q
  s.setGfxQueue q { g with held := g.held.tail }

/-- Where the entry to be taken next is one of queue q and of `kind`: it is popped and `f` goes on with it. -/
def State.gfxTake (s : State) (q kind : Nat) (f : HeldEntry → State → State) : State :=
  let s1 := s.gfxRead
  match s1.gfxNext with
  | some (k, h) => if Nat.beq k q && Nat.beq h.kind kind then f h (s1.gqPop q) else s1
  | none => s1

/-- A pool's bytes are written, as free values: the spec lays out neither the primitive data nor the segments (R345; log entry
78). -/
def State.writePool (s : State) (p : BinPool) : State :=
  match s.gfxRun with
  | none => s
  | some g =>
    let n := min p.used (fieldAt g.entry.bytes 60 4)
    if g.fault.isSome || Nat.beq n 0 then s
    else
      match s.put (s.tileReq g 0) (fieldAt g.entry.bytes 64 8) (s.freeBytes n) with
      | (.okay, s1) => { s1 with ticks := s.ticks + n }
      | (e, s1) => { s1 with gfxRun := some (g.faulted 0 e) }

/-- An entry that has passed its checks runs: each pool that filled is rendered, then the last one is binned. -/
def State.gfxStart (s : State) (q : Nat) (h : HeldEntry) (binned : BinPool × List BinPool) (cores : Nat)
    (writes : List (Nat × Byte)) : State :=
  (binned.2.foldl (fun (s : State) p => (s.writePool p).partialRender p.bins)
    { s with gfxRun := some { queue := q, entry := h, start := s.tb.elapsed, tStart := s.now, limitUs := 2 * fieldAt h.bytes 44 4,
                              partials := 0, cores, writes, bins := binned.1.bins, hold := [], drawn := [],
                              fault := none } }).writePool binned.1

/-- GRAPHICS_NOP -/
def execGraphicsNop (q : Fin 8) (s : State) : Outcome State Fault Refusal :=
  .next <| s.gfxTake q 0x00 fun h s => s.gqEnd q h { status := stOk }

/-- The raster cores online. -/
def State.coresOnline (s : State) : Nat := s.fld Reg.GFX_CORES Fld.GFX_CORES_ONLINE

/-- RENDER_PASS: the pass is refused, or runs on the cores online. -/
def execRenderPass (q : Fin 8) (batches : List (List Prim)) (writes : List (Nat × Byte)) (s : State) :
    Outcome State Fault Refusal :=
  .next <| s.gfxTake q 0x40 fun h s =>
    let s1 := s.takeHold
    match renderChecks h.bytes (s1.holdWays * 0x200000) with
    | .ok _ => s1.gfxStart q h (binPass (fieldAt h.bytes 60 4) (passBatches (rpTiles h.bytes) batches)) s1.coresOnline writes
    | .bad status detail => s1.gqEnd q h { status, detail }

/-- DISPATCH -/
def execDispatch (q : Fin 8) (writes : List (Nat × Byte)) (s : State) : Outcome State Fault Refusal :=
  .next <| s.gfxTake q 0x41 fun h s =>
    match dispatchChecks h.bytes with
    | .ok _ => s.gfxStart q h (BinPool.empty, []) s.coresOnline writes
    | .bad status detail => s.gqEnd q h { status, detail }

/-! ## Ends (R352) -/

/-- The stores of an entry that ran: `value` gives what is stored for each byte.  The first failed store stops them. -/
def State.gfxStores (s : State) (req : Req) (value : Nat → Byte → Byte) : Nat → List (Nat × Byte) → Resp × State
  | _, [] => (.okay, s)
  | k, (a, b) :: ws =>
    match s.put req a [value k b] with
    | (.okay, s1) => s1.gfxStores req value (k + 1) ws
    | (e, s1) => (e, s1)

/-- The status of a faulted entry, and DETAIL: the raster core that faulted, 0 where none did (R194). -/
def gfxFaultStatus : GfxFault → Nat × Nat
  | .memory k | .tileMemory k _ _ => (stMemUe, k.val)
  | .translation k => (stTranslation, k.val)
  | .coreReset k => (stEngineReset, k.val)
  | .controlWatchdog => (stWatchdog, 0)

/-- A raster core whose BIST fails goes offline. -/
def State.coreOffline (s : State) (k : Fin 8) : State :=
  (s.setFld Reg.GFX_CORES ⟨k, k⟩ 0).report (plainRecord (.rasterCore k) sevUE)

/-- The running entry ends, with the cause met first: the final render, and the stores that its shaders make on their own, for which
the spec names no core and the model takes the lowest of the pass (log entry 78); after a fault what it would have stored is undefined. -/
def State.gfxEnd (s0 : State) (given : Option (Nat × Nat)) : State :=
  let early := (s0.gfxRun.bind (·.fault)).or given
  let s := match early with | some _ => s0 | none => s0.finalRender
  match s.gfxRun with
  | none => s
  | some g =>
    let core := ((List.range 8).find? (bitAt g.cores)).getD 0
    let req := s.unitReq (.rasterCore (Fin.ofNat 8 core)) 12 (s.gfxQueue g.queue).ctx
    let r : Option (Nat × Nat) × State := match early.or g.fault with
      | some f => (some f, s)
      | none => match s.gfxStores req (fun _ b => b) 0 g.writes with
        | (.okay, s1) => (none, s1)
        | (e, s1) => (some (faultOf e, core), s1)
    let s1 := match r.1 with
      | none => r.2
      | some _ =>
        let s2 := r.2.undefinePass g
        let s3 := (s2.gfxStores req (fun k _ => BitVec.ofNat 8 (Config.freeValue (s2.ticks + k))) 0 g.writes).2
        { s3 with ticks := s2.ticks + g.writes.length }
    let pass := Nat.beq g.entry.kind 0x40
    let deadline := if pass then fieldAt g.entry.bytes 96 8 else 0
    let st := r.1.getD (if !(Nat.beq deadline 0) && Nat.blt deadline s.now then stOkLate else stOk, 0)
    ({ s1 with gfxRun := none }.gqEnd g.queue g.entry
      { status := st.1, detail := st.2, result := if pass then g.partials % 65536 + g.cores * 65536 else 0, tStart := g.tStart,
        tEnd := s.now }).gfxRead

/-- An uncorrectable word of a raster core's tile memory is recorded (11_memory_and_bandwidth R319), with no address, and BIST has run
over the memory; where it fails the core goes offline. -/
def State.tileFault (s : State) (k : Fin 8) (word : Nat) (bistPasses : Bool) : State :=
  let u : UnitId := .rasterCore k
  let s1 := { s with tiles := s.tiles.set k [] }.report
    { plainRecord u sevUE with path := bankPathOf u (Config.bankOf u (8 * word)).val, info := 0 }
  if bistPasses then s1 else s1.coreOffline k

/-- The lowest raster core of the running entry. -/
def State.firstCore (s : State) : Nat := (s.gfxRun.bind fun g => (List.range 8).find? (bitAt g.cores)).getD 0

/-- GRAPHICS_ENTRY_END -/
def execGraphicsEntryEnd (fault : Option GfxFault) (s : State) : Outcome State Fault Refusal :=
  .next <|
    match s.gfxRun with
    | none => s
    | some _ =>
      let s1 := s.gfxEnd (fault.map gfxFaultStatus)
      match fault with
      | some (.tileMemory k word passes) => s1.tileFault k word passes
      | _ => s1

/-- GRAPHICS_WATCHDOG -/
def execGraphicsWatchdog (s : State) : Outcome State Fault Refusal :=
  .next <|
    match s.gfxRun with
    | some g => if s.passedUs g.start g.limitUs then s.gfxEnd (some (stWatchdog, 0)) else s
    | none => s

end Sys2Proof.Machine
end

