-- ==== Sys2Proof/Machine/Guards.lean ====
section
/-!
DEFINITION. Region guards: guarded accesses, region writes and fences (14_isolated_worlds R384 to R390).
-/

namespace Sys2Proof.Machine

open Host (Outcome)

/-- An access to guarded memory is judged, and answered where it is admitted: with its data where it reads.  A hart's access to
DDR fills its caches (13_host_cores_and_redundancy R362). -/
def State.guarded (s : State) (req : Req) (ty : AccType) (pa len : Nat) : State :=
  match s.judge req ty pa len with
  | (.okay, s1) =>
    if decide (ty = .write) then
      (if decide (s1.place pa = .ddr) then (s1.snoop req.ini (pa / 64)).hartFill req .write (pa / 64) else s1).answer .okay []
    else
      let r := s1.readMemAs ty req (s1.readsOwn req pa) (len + 1) pa len
      r.2.2.answer r.1 r.2.1
  | (e, s1) => s1.answer e (if decide (ty = .write) then [] else List.replicate len 0#8)

/-- GUARDED_ACCESS: the access is admitted by a region or refused; while a fence of its target runs it waits (R389). -/
def execGuardedAccess (req : Req) (type : AccType) (addr : BitVec 48) (len : Nat) (s : State) :
    Outcome State Fault Refusal :=
  .next <|
    match s.guardTarget addr.toNat with
    | none => s
    | some t =>
      if s.mute req.ini then s else
      let s1 := s.relabel req
      if s.fencing t then
        { s1 with guardWait := s1.guardWait ++ [{ target := t, req := s.issued req, type, addr := addr.toNat, len }] }
      else s1.guarded (s.issued req) type addr.toNat len

/-- A write of a region register (R389): held as pending, and ignored while a fence runs. -/
def State.writeRegion (s : State) (a : Nat) (w : Word) : State :=
  let t := (a - 0x110A0000) / 0x1000
  if s.fencing t then s.raise (Reg.GRD_STATUS t) Fld.GRD_STATUS_CFG_ERR
  else (s.plainWrite a w).raise (Reg.GRD_STATUS t) Fld.GRD_STATUS_PEND

/-- A write of GRD_FENCE (R389): GO starts a fence, and is ignored while one runs. -/
def State.writeFence (s : State) (t : Nat) (w : Word) : State :=
  if Nat.beq (Fld.GRD_FENCE_GO.get w) 1 then
    if s.fencing t then s.raise (Reg.GRD_STATUS t) Fld.GRD_STATUS_CFG_ERR
    else s.raise (Reg.GRD_STATUS t) Fld.GRD_STATUS_BUSY
  else s

/-- GUARD_FENCE -/
def execGuardFence (target : Fin 11) (req : Req) (value : Word) (s : State) : Outcome State Fault Refusal :=
  .next (s.busWrite req (Reg.GRD_FENCE target) value (·.writeFence target value))

/-- A region is committed: disabled, with CFG_ERR, where R387 says so. -/
def State.commitRegion (s : State) (t r : Nat) : State :=
  let g := regionOf s.reg t r
  let s1 :=
    if Nat.beq (Fld.GRD_R_PERM_EN.get g.perm) 1 && g.bad t then
      (s.setFld (regionAddr t r 16) Fld.GRD_R_PERM_EN 0).raise (Reg.GRD_STATUS t) Fld.GRD_STATUS_CFG_ERR
    else s
  { s1 with guardLive := [0, 4, 8, 12, 16].foldl (fun m o =>
      SMap.set regReset m (regionAddr t r o) (s1.reg (regionAddr t r o))) s1.guardLive }

/-- GUARD_FENCE_COMMIT: the pending settings of the target are committed at once, BUSY and PEND clear, and the accesses that
waited are judged under them in their order of arrival.  R15 counts 12 region guards where R32 lists the targets 0 to 10: the model has
those of R32 (DESIGN CHOICE, log entry 4). -/
def execGuardFenceCommit (target : Fin 11) (s : State) : Outcome State Fault Refusal :=
  .next <|
    if s.fencing target then
      let s1 := (List.range (regionsOf target)).foldl (fun s r => s.commitRegion target r) s
      let s2 := (s1.lower (Reg.GRD_STATUS target) Fld.GRD_STATUS_BUSY).lower (Reg.GRD_STATUS target) Fld.GRD_STATUS_PEND
      let waited := s2.guardWait.filter fun a => Nat.beq a.target target
      let s3 := { s2 with guardWait := s2.guardWait.filter fun a => !(Nat.beq a.target target) }
      waited.foldl (fun s a => s.guarded a.req a.type a.addr a.len) s3
    else s

end Sys2Proof.Machine
end

