-- ==== Sys2Proof/Machine/Harts.lean ====
section
/-!
DEFINITION. Application-core harts: CSRs and traps, class CSRs, bus errors, lock mode, and the two worlds
(13_host_cores_and_redundancy R361 to R375, 14_isolated_worlds R382, R383, R391 to R403, R406, R407).
-/

namespace Sys2Proof.Machine

open Host (Outcome)

/-! ## CSRs and traps -/

def Hart.setCsr (h : Hart) (n : Nat) (v : BitVec 64) : Hart := { h with csrs := SMap.set csrDflt h.csrs n v }

/-- Integer register `r`; x0 reads 0. -/
def Hart.xreg (h : Hart) (r : Fin 32) : BitVec 64 := if Nat.beq r 0 then 0#64 else h.x[r]

/-- A write of integer register `r`; x0 discards it. -/
def Hart.setX (h : Hart) (r : Fin 32) (v : BitVec 64) : Hart := if Nat.beq r 0 then h else { h with x := h.x.set r v }

/-- The hart retires the instruction at its pc: the next one follows 4 bytes on, and minstret counts unless mcountinhibit stops
it. -/
def Hart.retire (h : Hart) : Hart :=
  let h1 := if bitAt (h.csr 0x320).toNat 2 then h else h.setCsr 0xB02 (h.csr 0xB02 + 1#64)
  { h1 with pc := h.pc + 4#64 }

/-- Bits `hi` down to `lo` of a CSR value replaced. -/
def putBits (v : BitVec 64) (hi lo x : Nat) : BitVec 64 :=
  BitVec.ofNat 64 (v.toNat - bitsOf v.toNat hi lo * 2 ^ lo + x % 2 ^ (hi + 1 - lo) * 2 ^ lo)

/-- The hart is in VS or VU mode (V = 1). -/
def Hart.virt (h : Hart) : Bool := decide (h.priv = .vs) || decide (h.priv = .vu)

/-- Where a vector CSR sends a trap: its base, and in vectored mode 4 bytes further for each number of an interrupt. -/
def vectorBase (tvec : BitVec 64) (irq : Option Nat) : BitVec 64 :=
  match irq with
  | some k => (tvec &&& ~~~3#64) + (if Nat.beq (bitsOf tvec.toNat 1 0) 1 then BitVec.ofNat 64 (4 * k) else 0#64)
  | none => tvec &&& ~~~3#64

/-- A trap into M mode, with the values of mcause and mtval and the guest address for mtval2. -/
def Hart.toM (h : Hart) (cause tval gpa : BitVec 64) (irq : Option Nat) : Hart :=
  let st := h.csr 0x300
  let mpp := match h.priv with | .m => 3 | .s | .vs => 1 | .u | .vu => 0
  let st1 := putBits (putBits (putBits (putBits (putBits st 7 7 (bitsOf st.toNat 3 3)) 3 3 0) 12 11 mpp) 39 39 h.virt.toNat)
    38 38 h.virt.toNat
  { (((((h.setCsr 0x341 h.pc).setCsr 0x342 cause).setCsr 0x343 tval).setCsr 0x34B
      (if h.virt then gpa >>> 2 else 0#64)).setCsr 0x300 st1) with
    pc := vectorBase (h.csr 0x305) irq, priv := .m }

/-- A trap into HS mode: SPV, GVA and, from V = 1, SPVP of hstatus are written too. -/
def Hart.toS (h : Hart) (cause tval gpa : BitVec 64) (irq : Option Nat) : Hart :=
  let st := h.csr 0x300
  let spp := if decide (h.priv = .s) || decide (h.priv = .vs) then 1 else 0
  let st1 := putBits (putBits (putBits st 5 5 (bitsOf st.toNat 1 1)) 1 1 0) 8 8 spp
  let hs := putBits (putBits (h.csr 0x600) 7 7 h.virt.toNat) 6 6 h.virt.toNat
  let hs1 := if h.virt then putBits hs 8 8 spp else hs
  { ((((((h.setCsr 0x141 h.pc).setCsr 0x142 cause).setCsr 0x143 tval).setCsr 0x643
      (if h.virt then gpa >>> 2 else 0#64)).setCsr 0x600 hs1).setCsr 0x300 st1) with
    pc := vectorBase (h.csr 0x105) irq, priv := .s }

/-- A trap into VS mode. -/
def Hart.toVs (h : Hart) (cause tval : BitVec 64) : Hart :=
  let st := h.csr 0x200
  let st1 := putBits (putBits (putBits st 5 5 (bitsOf st.toNat 1 1)) 1 1 0) 8 8 (if decide (h.priv = .vs) then 1 else 0)
  { ((((h.setCsr 0x241 h.pc).setCsr 0x242 cause).setCsr 0x243 tval).setCsr 0x200 st1) with
    pc := vectorBase (h.csr 0x205) none, priv := .vs }

/-- The hart takes exception `code` with trap value `tval` and guest address `gpa`, at the level medeleg and hedeleg give
(the RISC-V privileged architecture that R361 names; log entry 16). -/
def Hart.trap (h : Hart) (code : Nat) (tval gpa : BitVec 64) : Hart :=
  let deleg := !(decide (h.priv = .m)) && bitAt (h.csr 0x302).toNat code
  let cause := BitVec.ofNat 64 code
  if deleg && h.virt && bitAt (h.csr 0x602).toNat code then h.toVs cause tval
  else if deleg then h.toS cause tval gpa none
  else h.toM cause tval gpa none

/-- An illegal-instruction exception (code 2). -/
def Hart.illegal (h : Hart) : Hart := h.trap 2 0#64 0#64

/-! ## Pairs and harts -/

/-- MODE of a pair (R375). -/
def State.pairMode (s : State) (p : Nat) : Nat := s.fld (Reg.APC_PAIR_STATUS p) Fld.APC_PAIR_STATUS_MODE

/-- W of hart n. -/
def State.hartW (s : State) (n : Nat) : Bool := bitAt (s.fld Reg.WGD_HARTW Fld.WGD_HARTW_SECURE) n

/-- W of hart n is set (R383). -/
def State.setHartW (s : State) (n : Nat) (w : Bool) : State :=
  let m := s.fld Reg.WGD_HARTW Fld.WGD_HARTW_SECURE
  let m0 := if bitAt m n then m - 2 ^ n else m
  s.setFld Reg.WGD_HARTW Fld.WGD_HARTW_SECURE (if w then m0 + 2 ^ n else m0)

/-- A change of hart n, and of both cores of its pair in lock mode, where both execute each instruction (R369). -/
def State.onHart (s : State) (n : Nat) (f : Hart → Hart) : State :=
  if Nat.beq (s.pairMode (n / 2)) 2 then
    (s.setHart (n / 2 * 2) (f (s.hart (n / 2 * 2)))).setHart (n / 2 * 2 + 1) (f (s.hart (n / 2 * 2 + 1)))
  else s.setHart n (f (s.hart n))

/-- The hart executes instructions: it is not held, halted or stalled. -/
def Hart.runs (h : Hart) : Bool := !h.stopped && !h.halted && h.arrived.isNone

/-! ## Interrupts (R361, R364, R369, R371, R394, R400; log entry 16) -/

/-- The pages of the M-level and S-level interrupt files of hart n (R364). -/
def mFile (n : Nat) : Nat := 0x16000 + n
def sFile (n : Nat) : Nat := 0x16100 + 8 * n

/-- The M-level file of hart n is the secure world's (R393). -/
def State.fileSecure (s : State) (n : Nat) : Bool := bitAt (s.fld Reg.WGD_IMSIC_OWN Fld.WGD_IMSIC_OWN_MSEC) n

/-- The hart whose interrupt files reach hart n: the primary of its pair in lock mode (R369). -/
def State.fileHart (s : State) (n : Nat) : Nat := if Nat.beq (s.pairMode (n / 2)) 2 then n / 2 * 2 else n

/-- An identity of a file is pending and enabled. -/
def State.fileSignals (s : State) (page : Nat) : Bool := s.irqs.any fun i => Nat.beq i.1 page && s.irqEn.contains i

/-- The bits of mip that the files of hart `src` drive in hart `n`: 11 for its M-level file and 9 for its S-level one; while the hart
has W = 0, a secure-owned M-level file sets bit 17, the secure-attention interrupt, instead (R394). -/
def State.fileBits (s : State) (n src : Nat) : State :=
  let on := s.fileSignals (mFile src)
  let shut := s.fileSecure src && !(s.hartW n)
  let h := s.hart n
  s.setHart n (h.setCsr 0x344 (putBits (putBits (putBits (h.csr 0x344) 11 11 (on && !shut).toNat) 17 17 (on && shut).toNat) 9 9
    (s.fileSignals (sFile src)).toNat))

/-- The interrupt files of hart n have changed.  In lock mode both cores follow the primary's, and the secondary's wait (R369). -/
def State.attention (s : State) (n : Nat) : State :=
  if Nat.beq (s.pairMode (n / 2)) 2 then
    if Nat.beq (n % 2) 0 then (s.fileBits n n).fileBits (n + 1) n else s
  else s.fileBits n n

/-- The interrupts of a hart in their order of priority: the architecture's, with the two that this manual adds before or behind
them. -/
def irqOrder64 : List Nat :=
  let arch := [11, 3, 7, 9, 1, 5, 13]
  if Config.ownIrqsFirst then [16, 17] ++ arch else arch ++ [16, 17]

/-- The interrupt that hart n takes next, and whether at M level: pending, enabled and not masked by its mode.  In the secure world only
its secure-owned M-level file and its M-level timer interrupt it (R400). -/
def State.irqNext (s : State) (n : Nat) : Option (Nat × Bool) :=
  let h := s.hart n
  let pend := (h.csr 0x344 &&& h.csr 0x304).toNat
  if Nat.beq pend 0 then none
  else
    let may (k : Nat) : Bool := bitAt pend k && (!(s.hartW n) || Nat.beq k 7 || (Nat.beq k 11 && s.fileSecure (s.fileHart n)))
    let atM (k : Nat) : Bool := !(bitAt (h.csr 0x303).toNat k)
    let mOpen := !(decide (h.priv = .m)) || bitAt (h.csr 0x300).toNat 3
    let sOpen := match h.priv with
      | .m => false
      | .s => bitAt (h.csr 0x300).toNat 1
      | _ => true
    match irqOrder64.find? fun k => may k && atM k && mOpen with
    | some k => some (k, true)
    | none => (irqOrder64.find? fun k => may k && !(atM k) && sOpen).map fun k => (k, false)

/-- Hart n executes its next instruction: it runs, and no interrupt comes first. -/
def State.executes (s : State) (n : Nat) : Bool := (s.hart n).runs && (s.irqNext n).isNone

/-- What hart n does in place of an instruction that it does not execute: it takes the interrupt that comes first, or nothing. -/
def State.interrupted (s : State) (n : Nat) : State :=
  if !(s.hart n).runs then s
  else
    match s.irqNext n with
    | some (k, atM) =>
      let cause := BitVec.ofNat 64 (2 ^ 63 + k)
      s.onHart n fun h => if atM then h.toM cause 0#64 0#64 (some k) else h.toS cause 0#64 0#64 (some k)
    | none => s

/-! ## Class CSRs (R365, R366) -/

/-- A class field is WARL: 12 to 15 store 0 (R365). -/
def classField (v : Nat) : Nat := if Nat.blt (v % 16) 12 then v % 16 else 0

/-- The CSR number and the value stored for a write of a class CSR; mbusresp has its own write. -/
def classCsrValue (c : ClassCsr) (v : BitVec 64) : Nat × BitVec 64 :=
  let cls := classField v.toNat
  let mask := bitsOf v.toNat 27 16 * 2 ^ 16
  match c with
  | .mclass => (0x7C0, BitVec.ofNat 64 (mask + cls))
  | .tclass => (0x5C0, BitVec.ofNat 64 cls)
  | .hgclass => (0x6C0, BitVec.ofNat 64 (mask + cls))
  | .vstclass => (0x6C1, BitVec.ofNat 64 cls)
  | .mbusresp => (0x7C1, v)

/-- A write of mbusresp: VALID = 0 clears it and LOST, and with it the bus-error interrupt; a 1 is ignored (R365, R367). -/
def Hart.writeBusresp (h : Hart) (v : BitVec 64) : Hart :=
  if bitAt v.toNat 63 then h
  else (h.setCsr 0x7C1 (putBits (putBits (h.csr 0x7C1) 63 63 0) 55 48 0)).setCsr 0x344 (putBits (h.csr 0x344) 16 16 0)

/-- The write of a custom CSR by hart `h`: an illegal-instruction exception from a less privileged mode; with V = 1, tclass
is vstclass (R365). -/
def Hart.writeClass (h : Hart) (c : ClassCsr) (v : BitVec 64) : Hart :=
  let c1 := if h.virt && decide (c = .tclass) then .vstclass else c
  let allowed := match c, h.priv with
    | _, .m => true
    | .tclass, .s | .tclass, .vs => true
    | .hgclass, .s | .vstclass, .s => true
    | _, _ => false
  if !allowed then h.illegal
  else if decide (c1 = .mbusresp) then (h.writeBusresp v).retire
  else (h.setCsr (classCsrValue c1 v).1 (classCsrValue c1 v).2).retire

/-! ### The architecture's CSRs (log entry 16) -/

/-- The bits of mstatus that sstatus shows, and those of mip and mie that belong to S level. -/
def sstatusMask : BitVec 64 := 0x80000003000DE762#64
def sLevelMask : BitVec 64 := 0x2222#64

/-- The value that a CSR number shows: sstatus, sie and sip are views of mstatus, mie and mip; with V = 1, tclass is vstclass. -/
def Hart.view (h : Hart) (c : Nat) : BitVec 64 :=
  match c with
  | 0x100 => h.csr 0x300 &&& sstatusMask
  | 0x104 => h.csr 0x304 &&& h.csr 0x303 &&& sLevelMask
  | 0x144 => h.csr 0x344 &&& h.csr 0x303 &&& sLevelMask
  | 0x5C0 => if h.virt then h.csr 0x6C1 else h.csr 0x5C0
  | _ => h.csr c

/-- A write of a CSR through that view.  The bits of mip that files and bus errors drive are read-only, as are wgret and wgsp. -/
def Hart.writeView (h : Hart) (c : Nat) (v : BitVec 64) : Hart :=
  let under (k : Nat) (m : BitVec 64) : Hart := h.setCsr k ((h.csr k &&& ~~~m) ||| (v &&& m))
  match c with
  | 0x100 => under 0x300 sstatusMask
  | 0x104 => under 0x304 (h.csr 0x303 &&& sLevelMask)
  | 0x144 => under 0x344 (h.csr 0x303 &&& 0x2#64)
  | 0x344 => under 0x344 0x20AA#64
  | 0x7C2 | 0x7C3 => h
  | _ => h.setCsr c v

/-- The file page and selector of an AIA register: mireg and sireg select by miselect and siselect; mtopei and stopei stand for
selector 0. -/
def aiaRegister (n : Nat) (h : Hart) (c : Nat) : Option (Nat × Nat) :=
  match c with
  | 0x351 => some (mFile n, (h.csr 0x350).toNat)
  | 0x35C => some (mFile n, 0)
  | 0x151 => if h.virt then none else some (sFile n, (h.csr 0x150).toNat)
  | 0x15C => if h.virt then none else some (sFile n, 0)
  | _ => none

/-- The first of the 64 identities that a selector of eip (from 0x80) or eie (from 0xC0) shows. -/
def fileBase (sel : Nat) : Nat := 32 * (sel % 64)

/-- The lowest identity of a file that is pending and enabled. -/
def State.topIdent (s : State) (page : Nat) : Option Nat :=
  ((s.irqs.filter fun i => Nat.beq i.1 page && s.irqEn.contains i).map (·.2)).min?

/-- What a selector of a file reads as. -/
def State.readFile (s : State) (page sel : Nat) : Nat :=
  let word (l : List (Nat × Nat)) : Nat :=
    ((List.range 64).filter fun k => l.contains (page, fileBase sel + k)).foldl (fun v k => v + 2 ^ k) 0
  if Nat.beq sel 0 then ((s.topIdent page).map fun i => i * 2 ^ 16 + i).getD 0
  else if inRange sel 0x80 0xC0 && Nat.beq (sel % 2) 0 then word s.irqs
  else if inRange sel 0xC0 0x100 && Nat.beq (sel % 2) 0 then word s.irqEn
  else 0

/-- A write of a selector of a file: pending or enable bits; a write of the top identity claims it. -/
def State.writeFile (s : State) (page sel : Nat) (v : BitVec 64) : State :=
  let put (l : List (Nat × Nat)) : List (Nat × Nat) :=
    (l.filter fun i => !(Nat.beq i.1 page && inRange i.2 (fileBase sel) (fileBase sel + 64))) ++
      ((List.range 64).filter fun k => bitAt v.toNat k && inRange (fileBase sel + k) 1 2048).map fun k => (page, fileBase sel + k)
  if Nat.beq sel 0 then
    match s.topIdent page with
    | some i => { s with irqs := s.irqs.filter fun x => !(Nat.beq x.1 page && Nat.beq x.2 i) }
    | none => s
  else if inRange sel 0x80 0xC0 && Nat.beq (sel % 2) 0 then { s with irqs := put s.irqs }
  else if inRange sel 0xC0 0x100 && Nat.beq (sel % 2) 0 then { s with irqEn := put s.irqEn }
  else s

/-- The mode of a hart reaches a CSR: bits [9:8] of its number give the lowest mode, HS for 2 (R365). -/
def Hart.reaches (h : Hart) (c : Nat) : Bool :=
  match bitsOf c 9 8, h.priv with
  | _, .m => true
  | 0, _ => true
  | 1, .s | 1, .vs => true
  | 2, .s => true
  | _, _ => false

/-- What hart n reads of a CSR; none where the access is an illegal instruction: from a lower mode, or of wgret and wgsp in the
normal world (R365, R400).  With V = 1, tclass is vstclass.  mhartid follows R370.  In the normal world the AIA CSRs mireg and
mtopei of a secure-owned M-level file read 0 (R394). -/
def State.readCsr (s : State) (n c : Nat) : Option (BitVec 64) :=
  let h := s.hart n
  if !(h.reaches c) || ((Nat.beq c 0x7C2 || Nat.beq c 0x7C3) && !(s.hartW n)) then none
  else if Nat.beq c 0xF14 then some (BitVec.ofNat 64 (s.mhartid n))
  else if (Nat.beq c 0x351 || Nat.beq c 0x35C) && !(s.hartW n) && s.fileSecure n then some 0#64
  else
    match aiaRegister n h c with
    | some (page, sel) => some (BitVec.ofNat 64 (s.readFile page sel))
    | none => some (h.view c)

/-- The number of a CSR. -/
def csrNumber : CsrName → Nat
  | .cls .mclass => 0x7C0
  | .cls .mbusresp => 0x7C1
  | .cls .tclass => 0x5C0
  | .cls .hgclass => 0x6C0
  | .cls .vstclass => 0x6C1
  | .other n => n.toNat

/-- A write of a CSR of the architecture; the AIA CSRs of a secure-owned M-level file ignore it in the normal world (R394). -/
def State.writeOther (s : State) (n c : Nat) (v : BitVec 64) : State :=
  let f := s.fileHart n
  match aiaRegister f (s.hart n) c with
  | some (page, sel) =>
    if Nat.beq page (mFile f) && s.fileSecure f && !(s.hartW n) then s else (s.writeFile page sel v).attention f
  | none => s.onHart n (·.writeView c v)

/-- A CSR instruction on hart n: the old value goes to rd, and `value`, where there is one, is written.  A read from a mode that does
not reach the CSR, and a write of a read-only one, is an illegal instruction (R365, R400). -/
def State.csrAccess (s : State) (n : Nat) (x : CsrForm) (value : Option DWord) : State :=
  let c := csrNumber x.name
  match s.readCsr n c with
  | none => s.onHart n (·.illegal)
  | some old =>
    match value, x.name with
    | none, _ => s.onHart n fun h => (h.setX x.rd old).retire
    | some v, .cls k => s.onHart n fun h => (h.setX x.rd old).writeClass k v
    | some v, .other _ =>
      if Nat.beq (bitsOf c 11 10) 3 then s.onHart n (·.illegal)
      else (s.onHart n fun h => (h.setX x.rd old).retire).writeOther n c v

/-- CLASS_CSR_WRITE -/
def execClassCsrWrite (hart : Fin 16) (csr : CsrForm) (value : Option DWord) (s : State) : Outcome State Fault Refusal :=
  .next (if s.executes hart then s.csrAccess hart csr value else s.interrupted hart)

/-! ## Bus errors (R367) -/

/-- RESP as a number (R323). -/
def respCode : Resp → Nat
  | .okay => 0 | .ue => 1 | .decode => 2 | .guard => 3 | .link => 4

/-- The code of the access fault of an access (R367). -/
def faultCode : AccType → Nat
  | .fetch => 1
  | .read => 5
  | .write | .amo => 7

/-- A line leaves a cache. -/
def State.dropLine (s : State) (c : CacheId) (line : Nat) : State := { s with caches := s.caches.filter fun x => !(x.is c line) }

/-- A line fill of a hart: the response, and the state with the line in its caches where it is OKAY (R362). -/
def State.lineFill (s : State) (hart : Fin 16) (type : AccType) (line : Nat) : Resp × State :=
  let req := s.issued { ini := .ac hart, w := true, cl := 0, ctx := 0 }
  match s.judge req type (line * 64) 64 with
  | (.okay, s1) => let r := s1.ddrRead req type (line * 64) 64 0; (r.1, r.2.2)
  | r => r

/-- An uncorrectable error in a line that a cache holds (R362): a clean line is invalidated and fetched again, with a CE record; a dirty
one is lost, with a UE_CONTAINED record and RESP = UE. -/
def State.lineError (s : State) (hart : Fin 16) (type : AccType) (x : CacheLine) : Resp × State :=
  let s1 := (s.dropLine x.cache x.line).report (plainRecord (.ac hart) (if x.dirty then sevUE else sevCE))
  if x.dirty then (.ue, s1) else s1.lineFill hart type x.line

/-- HART_ACCESS_FAULT: a fetch, load, store or AMO that gets a response other than OKAY, or meets an error in a line that one of the
hart's caches holds. -/
def execHartAccessFault (hart : Fin 16) (type : AccType) (meets : AccessEnd) (va : BitVec 64) (gpa : BitVec 64)
    (s : State) : Outcome State Fault Refusal :=
  .next <|
    if !(s.executes hart) then s.interrupted hart
    else
      let r := match meets.line with
        | some e =>
          match s.caches.find? fun (x : CacheLine) => x.is e.cache (e.addr.toNat / 64) with
          | some x => if cacheOf x.cache hart then s.lineError hart type x else (.okay, s)
          | none => (.okay, s)
        | none => (meets.resp, s)
      if decide (r.1 = .okay) then r.2 else r.2.onHart hart (·.trap (faultCode type) va gpa)

/-- mbusresp after an imprecise error: filled where VALID = 0, else LOST counts; bit 16 of mip follows VALID. -/
def Hart.busError (h : Hart) (resp : Resp) (store : Bool) (pa : Nat) : Hart :=
  let b := (h.csr 0x7C1).toNat
  let v := if bitAt b 63 then
      putBits (h.csr 0x7C1) 55 48 (min (bitsOf b 55 48 + 1) 0xFF)
    else BitVec.ofNat 64 (pa % 2 ^ 48 + store.toNat * 2 ^ 56 + respCode resp * 2 ^ 60 + 2 ^ 63)
  (h.setCsr 0x7C1 v).setCsr 0x344 (putBits (h.csr 0x344) 16 16 1)

/-- IMPRECISE_BUS_ERROR -/
def execImpreciseBusError (hart : Fin 16) (resp : Resp) (store : Bool) (pa : BitVec 48) (s : State) :
    Outcome State Fault Refusal :=
  .next (if decide (resp = .okay) || (s.hart hart).stopped then s else s.onHart hart (·.busError resp store pa.toNat))

/-! ## Resets of harts (R374, R383) -/

/-- The reset vector of the application cores: the Root monitor entry (17_boot_and_firmware R465, log entry 17). -/
def State.monitorEntry (s : State) : BitVec 64 := (s.rom.entries[1]).getD 0#64

/-- Hart n restarts at its reset vector with W = 1, and with W = 0 once the secure world has failed (R383, R403). -/
def State.restartHart (s : State) (n : Nat) : State :=
  ((s.setHart n { Hart.reset with pc := s.monitorEntry, stopped := false }).setHartW n
    (!(s.flag Reg.WGD_STATUS Fld.WGD_STATUS_FAILED))).releaseSems (.ac (Fin.ofNat 16 n))

/-- The L1 caches of core n are emptied. -/
def State.emptyL1 (s : State) (n : Nat) : State :=
  { s with caches := s.caches.filter fun x => !(match x.cache with | .l1i k | .l1d k => Nat.beq k n | .l2 _ => false) }

/-- The L1 data caches of a pair are written back to its L2, and its L1 caches are invalidated (R371 step 5). -/
def State.flushL1 (s : State) (p : Nat) : State :=
  let back := s.caches.filter fun x => match x.cache with | .l1d k => Nat.beq (k / 2) p && x.dirty | _ => false
  (((back.foldl (fun (s : State) x => s.fillL2 (s.hart (2 * p)).label p x.line true) s).emptyL1 (2 * p))).emptyL1 (2 * p + 1)

/-- Core n has been released from reset: it is not held, or it is of a FAILED pair (17_boot_and_firmware R465; R374). -/
def State.released (s : State) (n : Nat) : Bool := !(s.hart n).stopped || Nat.beq (s.pairMode (n / 2)) 3

/-- Both cores of a pair restart in split mode, with empty L1 caches (R374); a core that has not been released stays in reset. -/
def State.resetPair (s0 : State) (p : Nat) : State :=
  let s := (s0.emptyL1 (2 * p)).emptyL1 (2 * p + 1)
  let again (s : State) (n : Nat) : State := if s0.released n then s.restartHart n else s
  (again (again s (2 * p)) (2 * p + 1)).setFld (Reg.APC_PAIR_STATUS p) Fld.APC_PAIR_STATUS_MODE 0

/-! ## Lock mode (R368 to R375) -/

def minusOne : BitVec 64 := 0xFFFFFFFFFFFFFFFF#64
def minusTwo : BitVec 64 := 0xFFFFFFFFFFFFFFFE#64
def minusThree : BitVec 64 := 0xFFFFFFFFFFFFFFFD#64

/-- LKSYNC retires with `v` in `rd`. -/
def Hart.lkDone (h : Hart) (rd : Fin 32) (v : BitVec 64) : Hart := { ((h.setX rd v).retire) with arrived := none }

/-- The fields of an LKSYNC word (R368): rd, and whether a reserved field is not zero; none for a word that is no LKSYNC. -/
def lkFields (w : Word) : Option (Fin 32 × Bool) :=
  let n := w.toNat
  if Nat.beq (bitsOf n 6 0) 0x2B && Nat.beq (bitsOf n 14 12) 0 then
    some (Fin.ofNat 32 (bitsOf n 11 7), !(Nat.beq (bitsOf n 31 15) 0))
  else none

/-- LKSYNC on a hart (R368, R371, R373, R375); `reserved` where a reserved field of its word is not zero. -/
def State.lksync (s : State) (n : Nat) (rd : Fin 32) (reserved : Bool) : State :=
  let p := n / 2
  let h := s.hart n
  let target := s.fld (Reg.APC_PAIR_CTRL p) Fld.APC_PAIR_CTRL_TARGET
  if !(s.executes n) then s.interrupted n
  else if !(decide (h.priv = .m)) || reserved then s.onHart n (·.illegal)
  else
    match s.pairMode p, target with
    | 0, 0 => s.setHart n (h.lkDone rd minusTwo)
    | 2, 1 => s.onHart n (·.lkDone rd minusTwo)
    | 2, 0 =>
      (((s.setHart (2 * p) ((s.hart (2 * p)).lkDone rd 0#64)).setHart (2 * p + 1)
        ((s.hart (2 * p + 1)).lkDone rd 1#64)).setFld (Reg.APC_PAIR_STATUS p) Fld.APC_PAIR_STATUS_MODE 0).attention (2 * p + 1)
    | 0, 1 =>
      let s1 := s.setHart n { h with arrived := some rd, since := s.tb.elapsed }
      let other := if Nat.beq (n % 2) 0 then n + 1 else n - 1
      if (s.hart other).arrived.isSome then s1.setFld (Reg.APC_PAIR_STATUS p) Fld.APC_PAIR_STATUS_MODE 1 else s1
    | _, _ => s

/-- LKSYNC_LOCK -/
def execLksyncLock (hart : Fin 16) (word : Word) (s : State) : Outcome State Fault Refusal :=
  .next (match lkFields word with | some f => s.lksync hart f.1 f.2 | none => s)

/-- LKSYNC_SPLIT -/
def execLksyncSplit (hart : Fin 16) (word : Word) (s : State) : Outcome State Fault Refusal :=
  .next (match lkFields word with | some f => s.lksync hart f.1 f.2 | none => s)

/-! ## The two worlds (R396 to R403) -/

/-- The CSRs of which each world has its own copy (R399). -/
def bankedCsr (n : Nat) : Bool :=
  [0x300, 0x305, 0x340, 0x341, 0x342, 0x343, 0x34B, 0x304, 0x302, 0x303, 0x30A, 0x747, 0x7C0].contains n ||
    inRange n 0x3A0 0x3F0

/-- The bank of R399 is swapped. -/
def Hart.swapBank (h : Hart) : Hart :=
  { h with
    csrs := (h.other.filter fun e => bankedCsr e.1).foldl (fun m e => SMap.set csrDflt m e.1 e.2)
      (h.csrs.filter fun e => !(bankedCsr e.1))
    other := h.csrs.filter fun e => bankedCsr e.1 }

def gateTimeout : BitVec 64 := 0xFFFFFFFFFFFFFFF0#64
def serviceUnavailable : BitVec 64 := 0xFFFFFFFFFFFFFFEF#64

/-- The registers after a forced return with `code` (R402). -/
def Hart.forcedReturn (h : Hart) (code : BitVec 64) : Hart :=
  let sp := h.csr 0x7C3
  let ra := h.csr 0x7C2
  let x := (((Vector.replicate 32 0#64).set 2 sp).set 1 ra).set 10 code
  { h.swapBank with
    x, f := Vector.replicate 32 0#64, v := Vector.replicate 32 0#256, pc := ra, priv := .m, gateFrom := none, arrived := none,
    forced := none, halted := h.halted || h.haltWaits, haltWaits := false }

/-- Hart n is forced back to the normal world (R402). -/
def State.forceBack (s : State) (n : Nat) (code : BitVec 64) : State :=
  ((s.setHart n ((s.hart n).forcedReturn code)).setHartW n false).attention n

/-- Hart n is forced back; during a lock entry, once the entry completes (R409). -/
def State.forceBackOrWait (s : State) (n : Nat) (code : BitVec 64) : State :=
  if Nat.beq (s.pairMode (n / 2)) 1 then s.setHart n { s.hart n with forced := some code } else s.forceBack n code

/-- Hart n is the one whose gate timer expired, or the other core of its locked pair (R369). -/
def State.isLate (s : State) (late : Option Nat) (n : Nat) : Bool :=
  match late with
  | some m => Nat.beq m n || (Nat.beq (m / 2) (n / 2) && Nat.beq (s.pairMode (n / 2)) 2)
  | none => false

/-- The secure world fails (R403): `late` is the hart whose gate timer expired. -/
def State.failSecure (s : State) (late : Option Nat) : State :=
  if s.flag Reg.WGD_STATUS Fld.WGD_STATUS_FAILED then s
  else
    let s1 := s.raise Reg.WGD_STATUS Fld.WGD_STATUS_FAILED
    let s2 := (List.range 16).foldl (fun s n =>
      if s.hartW n then s.forceBackOrWait n (if s.isLate late n then gateTimeout else serviceUnavailable) else s) s1
    ((s2.setReg (Reg.PWR_SHOLD 0) 0#32).setReg (Reg.PWR_SHOLD 1) 0#32).report (plainRecord .wgd sevTimeout)

/-- WMARK's word (R395). -/
def wmarkWord : Nat := 0x202B

/-- A WGATE target is valid: aligned, in a region of targets 0 to 10 that admits a secure fetch, and marked (R396); and the state after
its fetch, with the hart's label (R366). -/
def State.gateTarget (s : State) (n : Nat) (t : Nat) : Bool × State :=
  let req : Req := { s.issued { ini := .ac (Fin.ofNat 16 n), w := true, cl := 0, ctx := 0 } with w := true }
  match s.guardTarget t with
  | none => (false, s)
  | some g =>
    if Nat.beq (t % 4) 0 && (List.range (regionsOf g)).any (fun r => (s.region g r).admits req .fetch t 4) then
      let r := s.readMemAs .fetch req false 5 t 4
      (decide (r.1 = .okay) && Nat.beq (leNat r.2.1) wmarkWord, r.2.2)
    else (false, s)

/-- A successful entry into the secure world (R397). -/
def State.enterSecure (s : State) (n : Nat) (t : BitVec 64) : State :=
  let h := s.hart n
  let h1 := ((h.setCsr 0x7C2 (h.pc + 4#64)).setCsr 0x7C3 h.x[2]).swapBank
  ((s.setHart n { h1 with pc := t + 4#64, gateFrom := some s.tb.elapsed }).setHartW n true).attention n

/-- WGATE on one hart (R396, R398). -/
def State.wgateOn (s : State) (n : Nat) (rs1 : Fin 32) (reserved : Bool) : State :=
  let h := s.hart n
  if s.hartW n then
    if !(Nat.beq rs1 0) || reserved then s.setHart n h.illegal
    else
      (((s.setHart n { h.swapBank with pc := h.csr 0x7C2, priv := .m, gateFrom := none,
                                       halted := h.halted || h.haltWaits, haltWaits := false }).setHartW n false)).attention n
  else if !(decide (h.priv = .m)) || Nat.beq rs1 0 || reserved then s.setHart n h.illegal
  else if s.flag Reg.WGD_STATUS Fld.WGD_STATUS_FAILED then s.setHart n ((h.setX 10 serviceUnavailable).retire)
  else
    let t := h.xreg rs1
    let r := s.gateTarget n t.toNat
    if r.1 then r.2.enterSecure n t
    else (r.2.setHart n (h.trap 1 t 0#64)).raise Reg.WGD_STATUS Fld.WGD_STATUS_GATE_FLT

/-- WGATE on a hart, on both cores of a locked pair. -/
def State.wgate (s : State) (n : Nat) (rs1 : Fin 32) (reserved : Bool) : State :=
  if !(s.executes n) then s.interrupted n
  else if Nat.beq (s.pairMode (n / 2)) 2 then
    (s.wgateOn (n / 2 * 2) rs1 reserved).wgateOn (n / 2 * 2 + 1) rs1 reserved
  else s.wgateOn n rs1 reserved

/-- WMARK does nothing (R395). -/
def execWmark (hart : Fin 16) (s : State) : Outcome State Fault Refusal :=
  .next (if s.executes hart then s.onHart hart (·.retire) else s.interrupted hart)

/-- WGATE_ENTRY -/
def execWgateEntry (hart : Fin 16) (rs1 : Fin 32) (reserved : Bool) (s : State) : Outcome State Fault Refusal :=
  .next (s.wgate hart rs1 reserved)

/-- WGATE_RETURN -/
def execWgateReturn (hart : Fin 16) (rs1 : Fin 32) (s : State) : Outcome State Fault Refusal :=
  .next (s.wgate hart rs1 false)

/-- GATE_TIMER_EXPIRY: the gate timer of a hart has run WGD_GATE_TMO.US µs of elapsed time (R401). -/
def execGateTimerExpiry (hart : Fin 16) (s : State) : Outcome State Fault Refusal :=
  .next <|
    match (s.hart hart).gateFrom with
    | some t => if s.hartW hart && s.passedUs t (s.fld Reg.WGD_GATE_TMO Fld.WGD_GATE_TMO_US) then s.failSecure (some hart) else s
    | none => s

/-- A write of WGD_CTRL (R403). -/
def State.writeFail (s : State) (w : Word) : State :=
  let s1 := s.plainWrite Reg.WGD_CTRL w
  if Nat.beq (Fld.WGD_CTRL_FAIL.get w) 1 then s1.failSecure none else s1

/-- SECURE_FAIL -/
def execSecureFail (req : Req) (value : Word) (s : State) : Outcome State Fault Refusal :=
  .next (s.busWrite req Reg.WGD_CTRL value (·.writeFail value))

/-- A lock entry completes (R371 steps 3 to 7): aborted by a pending imprecise error, else the primary's state is the
secondary's too. -/
def State.lockEntry (s : State) (p : Nat) : State :=
  let a := s.hart (2 * p)
  let b := s.hart (2 * p + 1)
  let st := Reg.APC_PAIR_STATUS p
  if bitAt (a.csr 0x7C1).toNat 63 || bitAt (b.csr 0x7C1).toNat 63 then
    ((s.setHart (2 * p) (a.lkDone (a.arrived.getD 0) minusThree)).setHart (2 * p + 1)
      (b.lkDone (b.arrived.getD 0) minusThree)).setFld st Fld.APC_PAIR_STATUS_MODE 0
  else
    let a1 := a.lkDone (a.arrived.getD 0) 0#64
    let entry := min ((s.tb.elapsed - max a.since b.since) / (100 * nsE)) 0xFFFF
    let s1 := (((s.setHart (2 * p) a1).setHart (2 * p + 1) a1).setFld st Fld.APC_PAIR_STATUS_MODE 2).setFld st
      Fld.APC_PAIR_STATUS_ENTRY entry
    ((s1.setHartW (2 * p + 1) (s1.hartW (2 * p))).attention (2 * p)).flushL1 p

/-- An access that a core of pair p issued is still outstanding: held at a bridge, or waiting for a guard fence. -/
def State.pairBusy (s : State) (p : Nat) : Bool :=
  let mine : Initiator → Bool | .ac k => Nat.beq (k.val / 2) p | _ => false
  (s.weirs.toList.any fun w => w.queue.any fun i => mine i.req.ini) || s.guardWait.any fun a => mine a.req.ini

/-- LOCK_ENTRY_DONE, once every outstanding access of the pair has completed (R371 step 3); a forced return that came during the entry
follows it, for the pair as one hart (R409). -/
def execLockEntryDone (pair : Fin 8) (s : State) : Outcome State Fault Refusal :=
  .next <|
    if Nat.beq (s.pairMode pair) 1 && !(s.pairBusy pair) then
      let code := match (s.hart (2 * pair)).forced with
        | some c => some c
        | none => (s.hart (2 * pair + 1)).forced
      let s1 := s.lockEntry pair
      match code with
      | some c =>
        let back (s : State) (n : Nat) : State := if s.hartW n then s.forceBack n c else s
        back (back s1 (2 * pair)) (2 * pair + 1)
      | none => s1
    else s

/-- A µs count of a wait, where 0 is treated as 1 (R375, R381). -/
def waitUs (v : Nat) : Nat := if Nat.beq v 0 then 1 else v

/-- LOCKSTEP_MISMATCH (R374). -/
def execLockstepMismatch (pair : Fin 8) (kind : Fin 4) (s : State) : Outcome State Fault Refusal :=
  .next <|
    if Nat.beq (s.pairMode pair) 2 then
      let stop (h : Hart) : Hart := { h with stopped := true }
      let m := Reg.APC_PAIR_MISM pair
      let s1 := s.onHart (2 * pair) stop
      let s2 := if s.flag m Fld.APC_PAIR_MISM_VALID then s1 else
        ((s1.setFld m Fld.APC_PAIR_MISM_KIND kind).setFld m Fld.APC_PAIR_MISM_INSTR
          ((s.hart (2 * pair)).csr 0xB02).toNat).raise m Fld.APC_PAIR_MISM_VALID
      (((s2.setFld (Reg.APC_PAIR_STATUS pair) Fld.APC_PAIR_STATUS_MODE 3).raise (Reg.APC_PAIR_STATUS pair)
        Fld.APC_PAIR_STATUS_MISM)).report (plainRecord (.ac (Fin.ofNat 16 (2 * pair))) sevCheck)
    else s

/-- A write of APC_PAIRq_CTRL (R371, R374). -/
def State.writePair (s : State) (p : Nat) (w : Word) : State :=
  let s1 := s.plainWrite (Reg.APC_PAIR_CTRL p) w
  if Nat.beq (Fld.APC_PAIR_CTRL_RESET.get w) 1 then s1.resetPair p else s1

/-- PAIR_RESET -/
def execPairReset (pair : Fin 8) (req : Req) (value : Word) (s : State) : Outcome State Fault Refusal :=
  .next (s.busWrite req (Reg.APC_PAIR_CTRL pair) value (·.writePair pair value))

/-! ## Ownership, holds, MSIs, debug (R391 to R394, R406, R407) -/

/-- WLOCK: a write of WGD_LOCKh. -/
def execWlock (half : Fin 2) (req : Req) (value : Word) (s : State) : Outcome State Fault Refusal :=
  .next (s.busWrite req (Reg.WGD_LOCK half) value (·.plainWrite (Reg.WGD_LOCK half) value))

/-- A write of an ownership register (R391, R392): ignored where its group is locked, and ignored with CFG_ERR where the
record does not allow the world.  The six offsets that no record names hold reserved registers, whose writes are ignored
(01_architecture R33; DEDUCED, log entry 4). -/
def State.writeOwner (s : State) (k : Nat) (w : Word) : State :=
  let a := Reg.WGD_OWN k
  let secure := Nat.beq (Fld.WGD_OWN_WORLD.get w) 1
  if s.locked a || !(ownListed k) then s
  else if (if secure then (Config.ownWorlds k).2 else (Config.ownWorlds k).1) then s.plainWrite a w
  else s.cfgErr a

/-- OWNERSHIP_WRITE -/
def execOwnershipWrite (unit : Fin 64) (req : Req) (value : Word) (s : State) : Outcome State Fault Refusal :=
  .next (s.busWrite req (Reg.WGD_OWN unit) value (·.writeOwner unit value))

/-- The bits of a hold register that exist: the shared-infrastructure domains (R406). -/
def holdBits (half : Nat) (w : Word) : Word := if Nat.beq half 0 then w &&& 0xFC#32 else 0#32

/-- A hold vote keeps shared-infrastructure domain d on. -/
def State.heldOn (s : State) (d : Nat) : Bool :=
  domainShared d && (bitAt (s.reg (Reg.PWR_SHOLD (d / 32))).toNat (d % 32) || bitAt (s.reg (Reg.PWR_HHOLD (d / 32))).toNat (d % 32))

/-- DEFERRED reads 1 for a domain that waits while a vote holds it. -/
def State.noteHold (s : State) (d : Nat) : State :=
  if Nat.beq (s.domainState d) 3 && s.heldOn d then s.raise (Reg.PWR_DOM d) Fld.PWR_DOM_DEFERRED else s

/-- DEFERRED of every domain after a hold write. -/
def State.noteHolds (s : State) : State := [4, 5, 6, 7].foldl (fun s d => s.noteHold d) s

/-- A write of PWR_SHOLDh: ignored once the secure world has failed (R403). -/
def State.writeShold (s : State) (half : Nat) (w : Word) : State :=
  if s.flag Reg.WGD_STATUS Fld.WGD_STATUS_FAILED then s
  else (s.setReg (Reg.PWR_SHOLD half) (holdBits half w)).noteHolds

/-- A write of PWR_HHOLDh. -/
def State.writeHhold (s : State) (half : Nat) (w : Word) : State := (s.setReg (Reg.PWR_HHOLD half) (holdBits half w)).noteHolds

/-- SHOLD_WRITE -/
def execSholdWrite (half : Fin 2) (req : Req) (value : Word) (s : State) : Outcome State Fault Refusal :=
  .next (s.busWrite req (Reg.PWR_SHOLD half) value (·.writeShold half value))

/-- HHOLD_WRITE -/
def execHholdWrite (half : Fin 2) (req : Req) (value : Word) (s : State) : Outcome State Fault Refusal :=
  .next (s.busWrite req (Reg.PWR_HHOLD half) value (·.writeHhold half value))

/-- The world of an interrupt file: secure for the M-level file of a hart whose bit of WGD_IMSIC_OWN is 1 (R393). -/
def State.fileWorld (s : State) (page : Nat) : Bool :=
  inRange page (mFile 0) (mFile 16) && s.fileSecure (page - mFile 0)

/-- An MSI at an interrupt file, with an identity from 1 to 2,047: accepted where its W is the file's world, else dropped,
with MSI_DROP and a CE record at most once per 1 ms (R393). -/
def State.deliver (s : State) (page ident : Nat) (w : Bool) : State :=
  if Bool.xor (s.fileWorld page) w then
    let s1 := s.raise Reg.WGD_STATUS Fld.WGD_STATUS_MSI_DROP
    if s.msSince s.msiDropAt then
      { s1 with msiDropAt := some s.tb.elapsed }.report (plainRecord .wgd sevCE)
    else s1
  else if !(inRange ident 1 2048) then s
  else
    let s1 := if s.irqs.contains (page, ident) then s else { s with irqs := s.irqs ++ [(page, ident)] }
    if inRange page (mFile 0) (mFile 16) then s1.attention (page - mFile 0)
    else if inRange page (sFile 0) (sFile 16) && Nat.beq (page % 8) 0 then s1.attention ((page - sFile 0) / 8)
    else s1

/-- DEBUG_HALT: a debugger's halt request, as the lifecycle state and the hart's world allow (R407, R408). -/
def execDebugHalt (hart : Fin 16) (s : State) : Outcome State Fault Refusal :=
  .next <|
    if !s.debugOn || (s.hart hart).stopped then s
    else if Nat.beq s.fuses.inForce 0 || !(s.hartW hart) || s.flag Reg.WGD_DBG Fld.WGD_DBG_SDBG then
      s.onHart hart fun h => { h with halted := true }
    else s.onHart hart fun h => { h with haltWaits := true }

end Sys2Proof.Machine
end

