-- ==== Sys2Proof/Machine/Fusion.lean ====
section
/-!
DEFINITION. The Fusion Unit: calibration banks, ego motion, pairing of samples with firings, products, and sensor drift
(10_sensor_ingest_and_fusion R292 to R307).
-/

namespace Sys2Proof.Machine

open Host (Outcome)

/-! ## Banks (R292, R293, R297) -/

/-- What a window byte that nothing has written reads as. -/
def fusDflt : Nat → Byte := fun _ => 0#8

/-- The active bank. -/
def State.fusActive (s : State) : Nat := s.fld Reg.FUS_CTRL Fld.FUS_CTRL_ACTIVE

/-- The field of `n` bytes at window offset `o` of bank `b`. -/
def State.fusField (s : State) (b o n : Nat) : Nat := leNat (SMap.getMany fusDflt s.fusion.banks[Fin.ofNat 2 b] o n)

/-- An instant record (R297). -/
structure InstantRec where
  smask   : Nat
  rmask   : Nat
  winNs   : Nat
  closeNs : Nat
  period  : Nat
  policy  : Nat
  log2    : Nat
  ctx     : Nat
  cls     : Nat
  bufRing : Nat
  cqRing  : Nat
  msiAddr : Nat
  msiData : Nat
  deriving DecidableEq, Repr

/-- Instant record i of bank b. -/
def State.instantRec (s : State) (b i : Nat) : InstantRec :=
  let f (o n : Nat) := s.fusField b (0xA000 + 64 * i + o) n
  { smask := f 0 8, rmask := f 8 8, winNs := f 16 4, closeNs := f 20 4, period := f 24 4, policy := f 28 1, log2 := f 29 1,
    ctx := f 30 1 % 32, cls := f 31 1 % 16, bufRing := f 32 8, cqRing := f 40 8, msiAddr := f 48 8, msiData := f 56 4 }

/-- What is kept for instant i. -/
def State.instant (s : State) (i : Nat) : Instant := s.fusion.instants[Fin.ofNat 64 i]

def State.setInstant (s : State) (i : Nat) (x : Instant) : State :=
  { s with fusion := { s.fusion with instants := s.fusion.instants.set (Fin.ofNat 64 i) x } }

/-- Instant i is enabled in bank b (R295, R177). -/
def State.instantOn (s : State) (b i : Nat) : Bool :=
  !((s.instant i).dead) && !(Nat.beq (s.instantRec b i).smask 0)

/-- LOCKED: a product of the idle bank is open (R295). -/
def State.updateLock (s : State) : State :=
  s.setFld Reg.FUS_CTRL Fld.FUS_CTRL_LOCKED (s.fusion.products.any fun p => !(Nat.beq p.bank s.fusActive)).toNat

/-- A write of the window of the idle bank, ignored while it is locked, or of the ego-motion table (R292, R295, R296). -/
def State.writeFusWindow (s : State) (a : Nat) (w : Word) : State :=
  let o := a - 0x130D0000
  let bs := leBytes 4 w.toNat
  if Nat.ble 0xF000 o then { s with fusion := { s.fusion with ego := SMap.setMany fusDflt s.fusion.ego o bs } }
  else if s.flag Reg.FUS_CTRL Fld.FUS_CTRL_LOCKED then s.raise Reg.FUS_STATUS Fld.FUS_STATUS_WIN_ERR
  else
    let k := Fin.ofNat 2 (1 - s.fusActive)
    { s with fusion := { s.fusion with banks := s.fusion.banks.set k (SMap.setMany fusDflt s.fusion.banks[k] o bs) } }

/-- The word of the window at address `a`. -/
def State.readFusWindow (s : State) (a : Nat) : Word :=
  let o := a - 0x130D0000
  if Nat.ble 0xF000 o then BitVec.ofNat 32 (leNat (SMap.getMany fusDflt s.fusion.ego o 4))
  else BitVec.ofNat 32 (s.fusField (1 - s.fusActive) o 4)

/-! ## Ego motion (R296) -/

/-- An ego-motion entry: its time, and its pose in FP32 codes. -/
structure EgoEntry where
  t   : Int
  x   : Nat
  y   : Nat
  yaw : Nat
  deriving DecidableEq, Repr

/-- A pose: metres and radians, in FP32. -/
structure Pose where
  x   : Val
  y   : Val
  yaw : Val
  deriving DecidableEq

/-- A short stamp extended about the present (R251). -/
def State.extend (s : State) (t : Nat) : Int := s.now + signedOf 32 (t + 2 ^ 32 - s.short)

/-- The entries of the table; an entry of zeros is none (log entry 27). -/
def State.egoEntries (s : State) : List EgoEntry :=
  (List.range 256).filterMap fun e =>
    let bs := SMap.getMany fusDflt s.fusion.ego (0xF000 + 16 * e) 16
    if Nat.beq (leNat bs) 0 then none
    else some { t := s.extend (fieldAt bs 0 4), x := fieldAt bs 4 4, y := fieldAt bs 8 4, yaw := fieldAt bs 12 4 }

def fpAdd (a b : Val) : Val := (fAdd fp32 0 false a b).1
def fpMul (a b : Val) : Val := (fMul fp32 0 false a b).1
def fpDiv (a b : Val) : Val := (fDiv fp32 0 false a b).1
def fpCode (v : Val) : Nat := (fp32.toFloat v 0 false).1

/-- A value rounded to FP32 with RNE. -/
def fpRound (q : Rat) : Val := fp32.decode (fp32.toFloat (Val.ofRat q) 0 false).1

/-- Bounds of the arctangent of `t`, of magnitude 1/3 at most: two sums of its alternating series in turn. -/
def atanSeries (t : Rat) : Rat × Rat :=
  let sum (n : Nat) : Rat := ((List.range n).foldl (fun (x : Rat × Rat) k =>
    (if Nat.beq (k % 2) 0 then x.1 + x.2 / (2 * k + 1 : Nat) else x.1 - x.2 / (2 * k + 1 : Nat), x.2 * t * t)) (0, t)).1
  let a := sum 16
  let b := sum 17
  if a ≤ b then (a, b) else (b, a)

/-- Sum of two pairs of bounds. -/
def addBounds (x y : Rat × Rat) : Rat × Rat := (x.1 + y.1, x.2 + y.2)

/-- Bounds of a quarter turn: twice the arctangents of 1/2 and 1/3. -/
def quarterTurn : Rat × Rat :=
  let a := addBounds (addBounds (atanSeries (1 / 3)) (atanSeries (1 / 7))) (atanSeries (1 / 3))
  (2 * a.1, 2 * a.2)

/-- The value of an FP32 code. -/
def fpVal (c : Nat) : Rat := (fp32.decode c).q

/-- Half a turn, to 16 places. -/
def halfTurn : Rat := quarterTurn.1 + quarterTurn.2

/-- An angle less the whole turns in it: from minus half a turn to half a turn. -/
def shorterArc (d : Rat) : Rat := d - 2 * halfTurn * ((d / (2 * halfTurn) + 1 / 2).floor : Int)

/-- The change of yaw from one entry to another on the shorter arc; NaN where either is not finite. -/
def yawChange (a b : Val) : Val := if a.isFin && b.isFin then fpRound (shorterArc (b.q - a.q)) else .nan

/-- The pose on the line through two entries at time `t`, in FP32 with RNE at each step (log entry 26). -/
def poseBetween (a b : EgoEntry) (t : Int) : Pose :=
  let f : Val := fpRound (if b.t == a.t then 0 else mkRat (t - a.t) (b.t - a.t).toNat)
  let v (c : Nat) : Val := fp32.decode c
  let between (p d : Val) : Val := fpAdd p (fpMul f d)
  { x := between (v a.x) (fpAdd (v b.x) (v a.x).flip), y := between (v a.y) (fpAdd (v b.y) (v a.y).flip)
    yaw := between (v a.yaw) (yawChange (v a.yaw) (v b.yaw)) }

/-- The entry of the largest time that `keep` admits. -/
def lastEntry (keep : EgoEntry → Bool) (es : List EgoEntry) : Option EgoEntry :=
  es.foldl (fun o e => if keep e && (match o with | some m => decide (m.t < e.t) | none => true) then some e else o) none

/-- The entry of the smallest time that `keep` admits. -/
def firstEntry (keep : EgoEntry → Bool) (es : List EgoEntry) : Option EgoEntry :=
  es.foldl (fun o e => if keep e && (match o with | some m => decide (e.t < m.t) | none => true) then some e else o) none

/-- The pose at time `t` from the entries, and whether it is extrapolated. -/
def poseAt (es : List EgoEntry) (t : Int) : Option (Pose × Bool) :=
  match lastEntry (fun e => decide (e.t ≤ t)) es, firstEntry (fun e => decide (t < e.t)) es with
  | none, _ => none
  | some a, some b => some (poseBetween a b t, false)
  | some a, none =>
    if a.t == t then some (poseBetween a a t, false)
    else if decide (2000000 < t - a.t) then none
    else match lastEntry (fun e => decide (e.t < a.t)) es with
      | some b => some (poseBetween b a t, true)
      | none => none

/-- A free value where it lies within `tol` of the exact one, else the exact one. -/
def nearFree (exact tol free : Rat) : Rat := if decide ((free - exact).abs ≤ tol) then free else exact

/-- Sixteen terms of the series of the cosine (`k` = 0, from 1) or the sine (`k` = 1, from the angle) of an angle within half a turn. -/
def trigSeries (k : Nat) (first a : Rat) : Rat :=
  ((List.range 16).foldl (fun (x : Rat × Rat) j =>
    (x.1 + x.2, -(x.2 * a * a) / (((2 * j + 1 + k) * (2 * j + 2 + k) : Nat) : Rat))) (0, first)).1

/-- Cosine and sine of an angle in FP32: free values within 2⁻²² of the exact ones (log entry 26); NaN of one that is not finite. -/
def cosSin (v : Val) : Val × Val :=
  if !v.isFin then (.nan, .nan)
  else if v.isZero then (fpRound 1, fpRound 0)
  else
    let a := shorterArc v.q
    let free := Config.cosSin v.q
    (fpRound (nearFree (trigSeries 0 1 a) (pow2 (-22)) free.1), fpRound (nearFree (trigSeries 1 a a) (pow2 (-22)) free.2))

/-- (x, y) turned by the angle whose cosine and sine are given, in FP32 with RNE at each step. -/
def turn (r : Val × Val) (x y : Val) : Val × Val :=
  (fpAdd (fpMul r.1 x) (fpMul r.2 y).flip, fpAdd (fpMul r.2 x) (fpMul r.1 y))

/-- The compensation from pose `p` to pose `q`, applied to a point (R296): q⁻¹ ∘ p, planar, in FP32 with RNE at each step (R302; the
order of the steps is the model's, log entry 26). -/
def egoMove (p q : Pose) (v : Val × Val × Val) : Val × Val × Val :=
  let (x, y, z) := v
  let a := turn (cosSin (fpAdd p.yaw q.yaw.flip)) x y
  let b := turn (cosSin q.yaw.flip) (fpAdd p.x q.x.flip) (fpAdd p.y q.y.flip)
  (fpAdd a.1 b.1, fpAdd a.2 b.2, z)

/-! ## Projection (R293, R294, R302) -/

/-- A sensor record (R293). -/
structure SensorRec where
  kind  : Nat
  lens  : Nat
  width : Nat
  hght  : Nat
  ptOfs : Nat
  rot   : List Val
  trans : List Val
  fx    : Val
  fy    : Val
  cx    : Val
  cy    : Val
  theta : Nat
  deriving DecidableEq

/-- Sensor record k of bank b. -/
def State.sensorRec (s : State) (b k : Nat) : SensorRec :=
  let f (o n : Nat) := s.fusField b (0x8000 + 128 * k + o) n
  let v (o : Nat) := fp32.decode (f o 4)
  { kind := f 0 1, lens := f 1 1 % 16, width := f 2 2, hght := f 4 2, ptOfs := f 6 2
    rot := (List.range 9).map fun j => v (8 + 4 * j), trans := (List.range 3).map fun j => v (44 + 4 * j)
    fx := v 56, fy := v 60, cx := v 64, cy := v 68, theta := f 72 4 }

/-- Element j of a list of values. -/
def valAt (l : List Val) (j : Nat) : Val := (l[j]?).getD (.fin false 0)

/-- A row of a matrix times a point, terms added in order. -/
def rowDot (a b c : Val) (v : Val × Val × Val) : Val := fpAdd (fpAdd (fpMul a v.1) (fpMul b v.2.1)) (fpMul c v.2.2)

/-- rot × point. -/
def rotate (m : List Val) (v : Val × Val × Val) : Val × Val × Val :=
  (rowDot (valAt m 0) (valAt m 1) (valAt m 2) v, rowDot (valAt m 3) (valAt m 4) (valAt m 5) v,
    rowDot (valAt m 6) (valAt m 7) (valAt m 8) v)

/-- transpose(rot) × point. -/
def rotateBack (m : List Val) (v : Val × Val × Val) : Val × Val × Val :=
  (rowDot (valAt m 0) (valAt m 3) (valAt m 6) v, rowDot (valAt m 1) (valAt m 4) (valAt m 7) v,
    rowDot (valAt m 2) (valAt m 5) (valAt m 8) v)

/-- The radius of lens table j of bank b at the angle `theta`: the linear interpolation of the two radii around it, but for what the
roundings of the steps, whose order the spec leaves open, can make of it: a free value within that distance (log entry 26). -/
def State.lensRadius (s : State) (b : Nat) (c : SensorRec) (theta : Val) : Val :=
  let m := fpVal c.theta
  let j := if m ≤ 0 then 0 else min 254 (theta.q * 255 / m).floor.toNat
  let r (k : Nat) := s.fusField b (0xB000 + 1024 * c.lens + 4 * k) 4
  let r0 := fp32.decode (r j)
  let r1 := fp32.decode (r (j + 1))
  let free := fp32.decode (Config.lensRadius (fpCode theta) c.theta (r j) (r (j + 1)))
  if theta.isFin && r0.isFin && r1.isFin && free.isFin then
    let f : Rat := if m ≤ 0 then 0 else theta.q * 255 / m - (j : Int)
    let tol := (r1.q - r0.q).abs * pow2 (-14) + 4 * ulp32 (r0.q.abs + r1.q.abs)
    fpRound (nearFree (r0.q + f * (r1.q - r0.q)) tol free.q)
  else if theta.isFin && r0.isFin && r1.isFin then fpRound r0.q
  else .nan

/-- Bounds of the arctangent of a t of 0 to 1: from 1/4 on, that of 1/2 is taken out, which is those of 1/3 and 1/7. -/
def atanBounds (t : Rat) : Rat × Rat :=
  if t ≤ 1 / 4 then atanSeries t
  else addBounds (addBounds (atanSeries (1 / 3)) (atanSeries (1 / 7))) (atanSeries ((t - 1 / 2) / (1 + t / 2)))

/-- Bounds of the angle whose opposite side is `y`, positive, and whose adjacent side is `x`. -/
def angleBounds (y x : Rat) : Rat × Rat :=
  let acute (a b : Rat) : Rat × Rat :=
    if a ≤ b then atanBounds (a / b) else let t := atanBounds (b / a); (quarterTurn.1 - t.2, quarterTurn.2 - t.1)
  if 0 ≤ x then acute y x
  else let t := acute y (-x); (2 * quarterTurn.1 - t.2, 2 * quarterTurn.2 - t.1)

/-- atan2 of R294, of a distance `y` that is never negative: the free value of `Config.atan2` where it lies within 2 ulp of the
exact angle, else that angle rounded.  An operand that is a NaN gives NaN, and both sides infinite give the eighth turns of
IEEE 754-2019 (log entry 26). -/
def atan2Of (y x : Val) : Val :=
  let near (b : Rat × Rat) : Val :=
    let exact := (roundLane fp32 0 false ((b.1 + b.2) / 2)).1
    match fp32.decode (Config.atan2 (fpCode y) (fpCode x)) with
    | .fin n m =>
      let q := (Val.fin n m).q
      if decide ((q - b.1).abs ≤ 2 * ulp32 b.1) && decide ((q - b.2).abs ≤ 2 * ulp32 b.1) then .fin n m else exact
    | _ => exact
  match y, x with
  | .nan, _ | _, .nan => .nan
  | .inf _, .inf n => near (angleBounds 1 (if n then -1 else 1))
  | .inf _, .fin _ _ => near quarterTurn
  | .fin _ _, .inf n => if n then near (2 * quarterTurn.1, 2 * quarterTurn.2) else .fin false 0
  | .fin _ _, .fin n _ =>
    if y.isZero then if n then near (2 * quarterTurn.1, 2 * quarterTurn.2) else .fin false 0
    else near (angleBounds y.q x.q)

/-- A camera-frame point in the image: U, V and depth; none where it is dropped (R294). -/
def State.project (s : State) (b : Nat) (c : SensorRec) (p : Val × Val × Val) : Option (Val × Val × Val) :=
  let (x, y, z) := p
  let rho := (fSqrt fp32 0 false (fpAdd (fpMul x x) (fpMul y y))).1
  let theta := atan2Of rho z
  if (fp32.decode c.theta).lt theta then none
  else
    let r := s.lensRadius b c theta
    let u := if rho.isZero then c.cx else fpAdd c.cx (fpDiv (fpMul (fpMul c.fx r) x) rho)
    let v := if rho.isZero then c.cy else fpAdd c.cy (fpDiv (fpMul (fpMul c.fy r) y) rho)
    let outside (a : Val) (size : Nat) : Bool := !a.isNaN && (a.lt (.fin false 0) || !(a.lt (.fin false size)))
    if outside u c.width || outside v c.hght then none else some (u, v, z)

/-- The time of a lidar point of 16 bytes (R302). -/
def pointTime (lTov : Int) (bs : List Byte) : Int := lTov + 4000 * signedOf 16 (fieldAt bs 14 2)

/-- A lidar point of 16 bytes in the image of a camera (R302): its 16 bytes, or none where it is dropped. -/
def State.lidarPoint (s : State) (b : Nat) (es : List EgoEntry) (cam lid : SensorRec) (cTov lTov time : Int)
    (bs : List Byte) : Option (List Byte) :=
  let v (o : Nat) := fp32.decode (fieldAt bs o 4)
  match poseAt es (pointTime lTov bs), poseAt es time, poseAt es cTov with
  | some (p0, _), some (p1, _), some (p2, _) =>
    let q := rotate lid.rot (v 0, v 4, v 8)
    let w := (fpAdd q.1 (valAt lid.trans 0), fpAdd q.2.1 (valAt lid.trans 1), fpAdd q.2.2 (valAt lid.trans 2))
    let w2 := egoMove p1 p2 (egoMove p0 p1 w)
    let d := (fpAdd w2.1 (valAt cam.trans 0).flip, fpAdd w2.2.1 (valAt cam.trans 1).flip, fpAdd w2.2.2 (valAt cam.trans 2).flip)
    (s.project b cam (rotateBack cam.rot d)).map fun o =>
      leBytes 4 (fpCode o.1) ++ leBytes 4 (fpCode o.2.1) ++ leBytes 4 (fpCode o.2.2) ++ leBytes 2 (fieldAt bs 12 2) ++ leBytes 2 0
  | _, _, _ => none

/-- The points of a lidar frame of `len` bytes. -/
def framePoints (lid : SensorRec) (len : Nat) (frame : List Byte) : List (List Byte) :=
  (List.range ((len - lid.ptOfs) / 16)).map fun k => (frame.drop (lid.ptOfs + 16 * k)).take 16

/-- A lidar contribution with EGO_EXTRAP where the pose of one of its points is extrapolated (R296, R302). -/
def State.markPoints (s : State) (b : Nat) (es : List EgoEntry) (fs : List (Nat × List Byte)) (l : Sample) : Sample :=
  let far (p : List Byte) : Bool := match poseAt es (pointTime l.tov p) with | some x => x.2 | none => false
  match SMap.find fs l.sensor with
  | some frame => { l with extrap := l.extrap || (framePoints (s.sensorRec b l.sensor) l.len frame).any far }
  | none => l

/-- The point list of a camera and a lidar contribution from the lidar frame's bytes. -/
def State.pointList (s : State) (b : Nat) (es : List EgoEntry) (time : Int) (c l : Sample) (frame : List Byte) : List Byte :=
  let cam := s.sensorRec b c.sensor
  let lid := s.sensorRec b l.sensor
  let pts := (framePoints lid l.len frame).filterMap (s.lidarPoint b es cam lid c.tov l.tov time)
  leBytes 1 c.sensor ++ leBytes 1 l.sensor ++ leBytes 2 0 ++ leBytes 4 pts.length ++ leBytes 8 0 ++ pts.flatten

/-! ## Products (R299, R303, R304) -/

/-- A contribution entry (R303). -/
def Sample.entry (x : Sample) (time : Int) : List Byte :=
  leBytes 1 x.sensor ++ leBytes 1 (x.carried.toNat + 2 * x.repeated.toNat + 4 * x.extrap.toNat) ++ leBytes 2 0 ++
    leBytes 4 (unsignedOf 32 x.tov) ++ leBytes 4 (unsignedOf 32 (time - x.tov)) ++ leBytes 4 x.tag

/-- The mask of the sensors of samples. -/
def sensorMask (xs : List Sample) : Nat := xs.foldl (fun m x => m ||| 2 ^ x.sensor) 0

/-- The largest I − τ. -/
def ageOf (time : Int) (xs : List Sample) : Int :=
  match xs with
  | [] => 0
  | y :: ys => ys.foldl (fun a x => max a (time - x.tov)) (time - y.tov)

/-- Every required sensor has a contribution. -/
def Product.complete (p : Product) (r : InstantRec) : Bool :=
  let req := r.rmask &&& r.smask
  Nat.beq (req &&& sensorMask p.samples) req

/-- The 64-byte header (R303). -/
def Product.header (p : Product) (r : InstantRec) (inst : Instant) (seq tOut : Nat) (trunc : Bool) : List Byte :=
  let carried := p.samples.filter (·.carried)
  let flag (k : Nat) (b : Bool) := 2 ^ k * b.toNat
  leBytes 1 p.instant ++ leBytes 1 1 ++ leBytes 2 (min inst.late 65535) ++ leBytes 4 seq ++ leBytes 4 p.time ++
    leBytes 4 tOut ++ leBytes 4 (unsignedOf 32 (ageOf p.time p.samples)) ++
    leBytes 4 (flag 0 (!carried.isEmpty) + flag 1 (p.samples.any (·.repeated)) + flag 2 (!(p.complete r)) +
      flag 3 (p.samples.any (·.extrap)) + flag 4 trunc) ++
    leBytes 8 (sensorMask p.samples) ++ leBytes 8 (sensorMask carried) ++ leBytes 8 r.smask ++ leBytes 2 p.samples.length ++
    leBytes 2 (min inst.unpaired 65535) ++ leBytes 2 (min inst.nobuf 65535) ++ leBytes 10 0

/-- The frames of the lidar contributions, by sensor; the first failed read stops. -/
def State.lidarFrames (s : State) (cls : Nat) : List Sample → Resp × List (Nat × List Byte) × State
  | [] => (.okay, [], s)
  | x :: xs =>
    match s.fetch (s.unitReq .fusion cls x.ctx) x.buf x.len with
    | (.okay, d, s1) => let r := s1.lidarFrames cls xs; (r.1, (x.sensor, d) :: r.2.1, r.2.2)
    | (e, _, s1) => (e, [], s1)

/-- The contribution entries of a product. -/
def Product.entries (p : Product) : List Byte := (p.samples.map fun x => x.entry p.time).flatten

/-- The body of a product: contribution entries, then the point lists in ascending camera, then lidar (R302, R303); and the product with
the marks of the points. -/
def State.productBody (s : State) (p : Product) (r : InstantRec) : Resp × Product × List Byte × State :=
  let ofKind (k : Nat) := p.samples.filter fun x => Nat.beq (s.sensorRec p.bank x.sensor).kind k
  if bitAt r.policy 1 && !(ofKind 1).isEmpty then
    match s.lidarFrames r.cls (ofKind 2) with
    | (.okay, fs, s1) =>
      let es := s1.egoEntries
      let q := { p with samples := p.samples.map (s1.markPoints p.bank es fs) }
      (.okay, q, q.entries ++ ((ofKind 1).map fun c => ((ofKind 2).map fun l =>
        s1.pointList p.bank es p.time c l ((SMap.find fs l.sensor).getD [])).flatten).flatten, s1)
    | (e, _, s1) => (e, p, p.entries, s1)
  else (.okay, p, p.entries, s)

/-- A completion entry of instant i goes into its ring, and an MSI follows it (R304). -/
def State.fusionCqe (s : State) (i : Nat) (r : InstantRec) (e : CqEntry) : State :=
  let inst := s.instant i
  let q : CqRing := { base := r.cqRing, log2 := r.log2, idx := inst.cqIdx, phase := inst.cqPhase }
  match s.cqPut (s.unitReq .fusion r.cls r.ctx) q e with
  | (.okay, s1) =>
    (s1.setInstant i { s1.instant i with cqIdx := q.next.idx, cqPhase := q.next.phase }).sendMsi .fusion r.ctx r.msiAddr r.msiData
  | (_, s1) => s1

/-- The product is written to buffer entry `idx` and completed. -/
def State.writeProduct (s : State) (p : Product) (r : InstantRec) (idx seq : Nat) : State :=
  let i := p.instant
  let req := s.unitReq .fusion r.cls r.ctx
  let out := s.short
  let done (s : State) (tag st : Nat) : State := s.fusionCqe i r
    { userTag := tag, status := st, fx := 0, event := false, ring := 0, sqIndex := idx, detail := i,
      result := p.samples.length, tRel := p.time % 2 ^ 32, tStart := 0, tEnd := out, jobNo := seq % 2 ^ 32 }
  match s.fetch req (r.bufRing + 16 * idx) 16 with
  | (.okay, ent, s1) =>
    let len := fieldAt ent 8 4
    let tag := fieldAt ent 12 4
    match s1.productBody p r with
    | (.okay, q, body, s2) =>
      let hd := q.header r (s.instant i) seq out (Nat.blt len (64 + body.length))
      match s2.put req (fieldAt ent 0 8) ((hd ++ body).take len) with
      | (.okay, s3) => done s3 tag (if p.samples.any (·.carried) then stOkCarried else stOk)
      | (e, s3) => done s3 tag (faultOf e)
    | (e, _, _, s2) => done s2 tag (faultOf e)
  | (e, _, s1) => done s1 0 (faultOf e)

/-- A product goes out: it takes the next buffer, or is dropped and counted. -/
def State.productOut (s : State) (p : Product) : State :=
  let i := p.instant
  let inst := s.instant i
  let r := s.instantRec p.bank i
  let seq := inst.seq + 1
  let up := some (max (inst.outUpTo.getD 0) p.time)
  let s1 := { s with fusion := { s.fusion with products := s.fusion.products.erase p } }
  let s2 :=
    if Nat.beq inst.bufHead (s.fld (Reg.FUS_BUF_TAIL i) Fld.FUS_BUF_TAIL_TAIL) then
      s1.setInstant i { inst with seq, outUpTo := up, nobuf := inst.nobuf + 1 }
    else
      let s3 := s1.writeProduct p r inst.bufHead seq
      s3.setInstant i { s3.instant i with
        seq, outUpTo := up, late := 0, unpaired := 0, nobuf := 0, bufHead := (inst.bufHead + 1) % 2 ^ r.log2 }
  s2.updateLock

/-- The open product of instant i for the firing `t`. -/
def State.openProduct (s : State) (i : Nat) (t : Int) : Option Product :=
  s.fusion.products.find? fun p => Nat.beq p.instant i && (p.time : Int) == t

/-- The product goes out if every required sensor has contributed. -/
def State.tryOut (s : State) (p : Product) : State :=
  let r := s.instantRec p.bank p.instant
  if !(Nat.beq (r.rmask &&& r.smask) 0) && p.complete r then s.productOut p else s

/-! ## Pairing (R298, R300, R301) -/

/-- A sample counts as unpaired for instant i. -/
def State.countUnpaired (s : State) (i : Nat) : State :=
  let x := s.instant i
  s.setInstant i { x with unpaired := x.unpaired + 1 }

/-- Open product `p` becomes `q`. -/
def State.setProduct (s : State) (p q : Product) : State :=
  { s with fusion := { s.fusion with products := s.fusion.products.map fun (x : Product) => if x = p then q else x } }

/-- A sample joins an open product, or the rules on the same sensor twice decide; a sample without a pose at I is unpaired. -/
def State.joinProduct (s : State) (p : Product) (x : Sample) : State :=
  let i := p.instant
  match poseAt s.egoEntries p.time with
  | none => s.countUnpaired i
  | some (_, ex) =>
    let y := { x with firing := p.time, extrap := x.extrap || ex }
    let rest := p.samples.filter fun z => !(Nat.beq z.sensor x.sensor)
    let q := { p with samples := insertBy (fun a b => Nat.ble a.sensor b.sensor) y rest }
    let nearer (a b : Sample) := Nat.blt (a.tov - p.time).natAbs (b.tov - p.time).natAbs
    match p.samples.find? fun z => Nat.beq z.sensor x.sensor with
    | none => (s.setProduct p q).tryOut q
    | some old =>
      if old.carried && !x.carried then (s.setProduct p q).tryOut q
      else if !old.carried && x.carried then s
      else
        let s1 := if x.carried then s else s.countUnpaired i
        if nearer y old then (s1.setProduct p q).tryOut q else s1

/-- A sample that is late for firing `t` (R301). -/
def State.lateSample (s : State) (i : Nat) (r : InstantRec) (x : Sample) (t : Int) : State :=
  let inst := s.instant i
  let s1 := s.setInstant i { inst with late := inst.late + 1 }
  if !(bitAt r.policy 0) then s1
  else
    let t1 := t + r.period
    let y := { x with carried := true, firing := t1 }
    match s1.openProduct i t1 with
    | some p => s1.joinProduct p y
    | none =>
      if decide (t1 ≤ ((inst.lastFire.getD 0 : Nat) : Int)) then s1
      else s1.setInstant i { s1.instant i with waiting := (s1.instant i).waiting ++ [y] }

/-- PHASE_SLIP and Φ of a sensor at a pairing with instant i (R306): φ = τ − I_k, the stream's frame period. -/
def State.followPhase (s : State) (i : Nat) (r : InstantRec) (sensor fper : Nat) (phi : Int) : State :=
  let k := Fin.ofNat 64 sensor
  let d := s.fusion.drifts[k]
  let set (d : Drift) (s : State) : State := { s with fusion := { s.fusion with drifts := s.fusion.drifts.set k d } }
  let period : Int := r.period
  let change := match d.phase with
    | none => 0
    | some p => (phi - p + period / 2) % period - period / 2
  let sum := d.sum + change
  let base : Drift := { phase := some phi, sum, ref := some sum, again := false }
  match d.ref with
  | none => set base s
  | some ref =>
    if d.again then set base s
    else if Nat.ble fper (sum - ref).natAbs then
      (set base s).fusionCqe i r {
        userTag := 0x0010, status := 0, fx := 0, event := true, ring := 0, sqIndex := 0, detail := sensor,
        result := 0, tRel := 0, tStart := 0, tEnd := 0, jobNo := 0 }
    else set { base with ref := some ref } s

/-- The firing nearest τ; a tie is a free value (log entry 6). -/
def nearestFiring (last period : Nat) (tov : Int) (tie : Nat) : Int :=
  let d := tov - last
  let q := d / period
  let rest := d % period
  let k := if 2 * rest < period then q else if (period : Int) < 2 * rest then q + 1 else q + (tie % 2 : Nat)
  last + k * period

/-- A phase step has skipped the firing time `t` (R300, R307). -/
def State.stepSkipped (s : State) (t : Int) : Bool :=
  s.fusion.skips.any fun x => decide ((x.1 : Int) < t) && decide (t < (x.2 : Int))

/-- An available sample is paired for one instant (R300). -/
def State.pairSample (s : State) (x : Sample) (frozen lowest : Bool) (fper i : Nat) : State :=
  let r := s.instantRec s.fusActive i
  let inst := s.instant i
  match inst.lastFire with
  | none => s.countUnpaired i
  | some last =>
    if Nat.beq r.period 0 then s.countUnpaired i
    else
      let t := nearestFiring last r.period x.tov (Config.freeValue s.ticks)
      let skipped := s.stepSkipped t
      let es := s.egoEntries
      let pose := poseAt es x.tov
      if Nat.blt r.winNs (x.tov - t).natAbs || skipped || frozen || pose.isNone ||
          (decide (t ≤ (last : Int)) && (poseAt es t).isNone) then s.countUnpaired i
      else
        let y := { x with firing := t, extrap := match pose with | some (_, e) => e | none => false }
        let s1 := if lowest then s.followPhase i r x.sensor fper (x.tov - t) else s
        if decide ((last : Int) < t) then
          s1.setInstant i { s1.instant i with waiting := (s1.instant i).waiting ++ [y] }
        else
          match s1.openProduct i t with
          | some p => s1.joinProduct p y
          | none =>
            match inst.outUpTo with
            | some u => if decide (t ≤ (u : Int)) then s1.lateSample i r y t else s1.countUnpaired i
            | none => s1.countUnpaired i

/-- A sample becomes available: it is paired for each enabled instant whose SMASK holds its sensor. -/
def State.offerSample (s : State) (x : Sample) (frozen : Bool) (fper : Nat) : State :=
  if s.flag Reg.FUS_CTRL Fld.FUS_CTRL_EN then
    let on := (List.range 64).filter fun i =>
      s.instantOn s.fusActive i && bitAt (s.instantRec s.fusActive i).smask x.sensor
    let s1 := on.foldl (fun s i => s.pairSample x frozen (match on with | j :: _ => Nat.beq i j | [] => false) fper i) s
    { s1 with ticks := s1.ticks + 1 }
  else s

/-! ## Swaps (R295, R298) -/

/-- An instant enabled in both banks has other rings, or the new bank has a period out of range. -/
def State.swapRefused (s : State) : Bool :=
  let a := s.fusActive
  (List.range 64).any fun i =>
    let x := s.instantRec a i
    let y := s.instantRec (1 - a) i
    !(Nat.beq y.smask 0) && ((s.instantOn a i && !(Nat.beq x.log2 y.log2 && Nat.beq x.ctx y.ctx && Nat.beq x.bufRing y.bufRing
      && Nat.beq x.cqRing y.cqRing && Nat.beq x.msiAddr y.msiAddr && Nat.beq x.msiData y.msiData)) ||
      !(inRange y.period 10000 1000000001))

/-- After a swap an instant is dead unless its record in the active bank names an ACTIVE context; one that was live for a context
stays so although the context is HALTED (R177). -/
def State.reviveInstants (s : State) : State :=
  (List.range 64).foldl (fun s i =>
    let r := s.instantRec s.fusActive i
    let old := s.instantRec (1 - s.fusActive) i
    let lives := !(s.instant i).dead && !(Nat.beq old.smask 0) && Nat.beq old.ctx r.ctx && decide ((s.ctx r.ctx).status = .halted)
    s.setInstant i { s.instant i with dead := !(Nat.beq r.smask 0) && !(s.isActive r.ctx) && !lives }) s

/-- The swap: the banks exchange roles, or it is refused. -/
def State.fusionSwap (s : State) : State :=
  let s1 := s.lower Reg.FUS_CTRL Fld.FUS_CTRL_SWAP
  if s.swapRefused then s1.raise Reg.FUS_STATUS Fld.FUS_STATUS_SWAP_ERR
  else
    let s2 := (s1.setFld Reg.FUS_CTRL Fld.FUS_CTRL_ACTIVE (1 - s.fusActive)).raise Reg.FUS_STATUS Fld.FUS_STATUS_SWAP_DONE
    s2.reviveInstants.updateLock

/-! ## Commands -/

/-- A sample that waited meets the firing at `t`, as its own or, within WIN_NS, in place of its own; one whose own firing a step has
skipped is unpaired (R298, R300, R307).  Where the product has gone out within the event, the sample is late for it; a carried one is then
dropped without count (R301). -/
def State.resolveWaiting (s : State) (i : Nat) (r : InstantRec) (t : Nat) (skipped : Bool) (x : Sample) : State :=
  let own := x.firing == (t : Int)
  let meets := if own then x.carried || !skipped
    else !skipped && !(s.stepSkipped x.firing) && Nat.ble (x.tov - t).natAbs r.winNs
  if !meets then s.countUnpaired i
  else
    let y := { x with carried := x.carried && own }
    match s.openProduct i t with
    | some p => s.joinProduct p y
    | none => if y.carried then s else s.lateSample i r y t

/-- FUSION_INSTANT_EVENT -/
def execFusionInstantEvent (s : State) : Outcome State Fault Refusal :=
  .next <|
    match s.takeEvent 3 with
    | none => s
    | some (e, s0) =>
      if !(s0.flag Reg.FUS_CTRL Fld.FUS_CTRL_EN) then s0
      else
        let i := bitsOf e.arg0 5 0
        let s1 := if s0.flag Reg.FUS_CTRL Fld.FUS_CTRL_SWAP && Nat.beq (s0.fld Reg.FUS_CTRL Fld.FUS_CTRL_SWAP_INST) i then
            s0.fusionSwap else s0
        let inst := s1.instant i
        let s2 := s1.setInstant i { inst with lastFire := some e.sched, waiting := [] }
        if !(s2.instantOn s2.fusActive i) then s2
        else
          let p : Product := { instant := i, time := e.sched, bank := s2.fusActive, samples := [] }
          let r := s2.instantRec s2.fusActive i
          let s3 := { s2 with fusion := { s2.fusion with products := s2.fusion.products ++ [p] } }
          inst.waiting.foldl (fun s x => s.resolveWaiting i r e.sched e.skipped x) s3

/-- FUSION_CLOSE_TIMEOUT: the oldest product of an instant whose close time has come goes out. -/
def execFusionCloseTimeout (inst : Fin 64) (s : State) : Outcome State Fault Refusal :=
  .next <|
    match s.fusion.products.find? fun p =>
        Nat.beq p.instant inst && Nat.ble (p.time + (s.instantRec p.bank inst).closeNs) s.now with
    | some p => s.productOut p
    | none => s

/-- A write of FUS_CTRL: EN going to 1 starts every instant anew, or is refused where an enabled instant names a context that
is not ACTIVE (R177, R299; log entry 28). -/
def State.writeFusCtrl (s : State) (w : Word) : State :=
  let s1 := s.plainWrite Reg.FUS_CTRL w
  let en (s : State) := s.flag Reg.FUS_CTRL Fld.FUS_CTRL_EN
  if en s1 && !(en s) then
    if (List.range 64).any fun i => s1.instantOn s1.fusActive i && !(s1.isActive (s1.instantRec s1.fusActive i).ctx) then
      (s1.lower Reg.FUS_CTRL Fld.FUS_CTRL_EN).cfgErr Reg.FUS_CTRL
    else
      let anew (s : State) (i : Nat) : State := s.setInstant i { Instant.reset with dead := (s.instant i).dead }
      (List.range 64).foldl (fun s i => (anew s i).setReg (Reg.FUS_BUF_TAIL i) 0#32) s1
  else s1

/-- FUSION_SWAP_REQUEST -/
def execFusionSwapRequest (req : Req) (value : Word) (s : State) : Outcome State Fault Refusal :=
  .next (s.busWrite req Reg.FUS_CTRL value (·.writeFusCtrl value))

/-- A write of FUS_REPHASE. -/
def State.writeRephase (s : State) (w : Word) : State :=
  let s1 := s.plainWrite Reg.FUS_REPHASE w
  if Nat.beq (Fld.FUS_REPHASE_GO.get w) 1 then
    let k := Fin.ofNat 64 (Fld.FUS_REPHASE_SENSOR.get w)
    { s1 with fusion := { s1.fusion with drifts := s1.fusion.drifts.set k { s1.fusion.drifts[k] with again := true } } }
  else s1

/-- FUSION_REPHASE -/
def execFusionRephase (req : Req) (value : Word) (s : State) : Outcome State Fault Refusal :=
  .next (s.busWrite req Reg.FUS_REPHASE value (·.writeRephase value))

/-- A write of FUS_BUF_TAILi: ignored where the instant is disabled or the value is not below the ring's size (R184). -/
def State.writeFusBufTail (s : State) (i : Nat) (w : Word) : State :=
  if s.instantOn s.fusActive i && Nat.blt (Fld.FUS_BUF_TAIL_TAIL.get w) (2 ^ (s.instantRec s.fusActive i).log2) then
    s.plainWrite (Reg.FUS_BUF_TAIL i) w
  else s

/-- FUS_BUF_TAIL_WRITE -/
def execFusBufTailWrite (inst : Fin 64) (req : Req) (value : Word) (s : State) : Outcome State Fault Refusal :=
  .next (s.busWrite req (Reg.FUS_BUF_TAIL inst) value (·.writeFusBufTail inst value))

/-- CTX_DESTROY of context n: instants that name it are treated as disabled and their products are dropped (R177).  DESIGN CHOICE,
log entry 72: naming it in either bank suffices, while the other bank may name another ACTIVE context. -/
def State.stopInstants (s : State) (n : Nat) : State :=
  let names (b i : Nat) := !(Nat.beq (s.instantRec b i).smask 0) && Nat.beq (s.instantRec b i).ctx n
  let s1 := (List.range 64).foldl (fun s i =>
    if names 0 i || names 1 i then s.setInstant i { s.instant i with dead := true, waiting := [] } else s) s
  let keep (p : Product) : Bool := !(names p.bank p.instant)
  { s1 with fusion := { s1.fusion with products := s1.fusion.products.filter keep } }.updateLock

end Sys2Proof.Machine
end

