-- ==== Sys2Proof/Machine/Sensors.lean ====
section
/-!
DEFINITION. Streams, camera receivers, ISP pipes, Sensor Stream Ports and the frame guard (10_sensor_ingest_and_fusion R268 to
R291).
-/

namespace Sys2Proof.Machine

open Host (Outcome)

/-! ## The descriptor (R269, R270) -/

/-- The fields of a stream descriptor. -/
def streamDesc (bs : List Byte) : StreamDesc :=
  let f (o n : Nat) := fieldAt bs o n
  { kind := f 0 1, port := f 1 1 % 4, pipe := f 1 1 / 4 % 4, vc := f 2 1, dt := f 3 1, sensor := f 4 1, ctx := f 5 1, ofmt := f 6 1,
    log2 := f 7 1, latNs := f 8 4, tovOfs := signedOf 32 (f 12 4), bufRing := f 16 8, recRing := f 24 8, msiAddr := f 32 8,
    msiData := f 40 4, fperNs := f 44 4, hdrVc1 := f 48 1, hdrVc2 := f 49 1 }

/-- Bits per pixel of the CSI-2 data types of pixels that a receiver supports, and no other (R273; PRESUMED: the codes of MIPI CSI-2; log
entry 30). -/
def dtBits : Nat → Option Nat
  | 0x2A => some 8 | 0x2B => some 10 | 0x2C => some 12 | 0x2D => some 14 | 0x2E => some 16 | 0x2F => some 20
  | 0x1E => some 16 | 0x24 => some 24
  | _ => none

/-- Every field is within its range and no reserved bit is set; DT of a camera stream is a data type that the receivers support. -/
def descFits (bs : List Byte) (d : StreamDesc) : Bool :=
  let vc (v : Nat) := Nat.blt v 32 || Nat.beq v 255
  Nat.ble d.kind 2 && Nat.blt (fieldAt bs 1 1) 16 && Nat.blt d.vc 32 && Nat.blt d.dt 64 && (Nat.beq d.kind 2 || (dtBits d.dt).isSome) &&
    (Nat.blt d.sensor 64 || Nat.beq d.sensor 255) && Nat.blt d.ctx 32 && (!(Nat.beq d.kind 1) || Nat.ble d.ofmt 4) &&
    inRange d.log2 4 13 && Nat.ble d.latNs 4000000 && Nat.beq (d.bufRing % (16 * 2 ^ d.log2)) 0 &&
    Nat.beq (d.recRing % (64 * 2 ^ d.log2)) 0 && Nat.beq (d.msiAddr % 4) 0 && inRange d.msiData 1 2048 &&
    inRange d.fperNs 1000000 1000000001 && (!(Nat.beq d.kind 1) || (vc d.hdrVc1 && vc d.hdrVc2)) &&
    Nat.beq (fieldAt bs 50 14) 0

/-- The descriptor may enable stream n beside the streams enabled (R270). -/
def State.descAdmits (s : State) (n : Nat) (d : StreamDesc) : Bool :=
  let others := (List.range 16).filterMap fun k => if Nat.beq k n then none else (s.stream k).desc
  (if Nat.ble 16 n then Nat.beq d.kind 2 && Nat.beq d.port (n - 16)
   else !(Nat.beq d.kind 2) && others.all fun o =>
     !(Nat.beq o.port d.port && Nat.beq o.vc d.vc) &&
       !(Nat.beq o.kind 1 && Nat.beq d.kind 1 && Nat.beq o.pipe d.pipe)) && s.isActive d.ctx

/-- The initiator of a stream's ingest writes (R268). -/
def StreamDesc.ini (d : StreamDesc) : Initiator :=
  if Nat.beq d.kind 2 then .ssp (Fin.ofNat 4 d.port) else .csi (Fin.ofNat 4 d.port)

/-- The requests of a stream: class CL13, in its context. -/
def State.streamReq (s : State) (d : StreamDesc) : Req := s.unitReq d.ini 13 d.ctx

/-! ## Frame records (R271, R272) -/

/-- The 64 bytes of a frame record. -/
def OpenFrame.record (f : OpenFrame) (n : Nat) (d : StreamDesc) (b : RingBuf) (nobuf : Nat) : List Byte :=
  let flag (k : Nat) (x : Bool) := 2 ^ k * x.toNat
  leBytes 4 b.tag ++ leBytes 1 n ++
    leBytes 1 (flag 0 b.phase + flag 1 f.repeated + flag 2 f.frozen + flag 3 f.trunc + flag 4 f.loss + flag 5 f.pktErr) ++
    leBytes 2 (f.counter.getD 0) ++ leBytes 4 f.seq ++ leBytes 4 (unsignedOf 32 f.tFs) ++
    leBytes 4 (unsignedOf 32 (f.tFs + d.tovOfs)) ++ leBytes 4 f.tEnd ++ leBytes 4 (f.crc.xor 0xFFFFFFFF) ++ leBytes 4 f.bytes ++
    leBytes 2 f.width ++ leBytes 2 f.lines ++ leBytes 2 nobuf ++ leBytes 2 0 ++ leBytes 4 f.lost ++ leBytes 20 0

/-- The record of a frame of stream n is written and its MSI raised; the frame is then offered to fusion (R271, R291, R300). -/
def State.writeRecord (s : State) (n : Nat) (f : OpenFrame) : State :=
  let st := s.stream n
  match st.desc, f.buf with
  | some d, some b =>
    match s.put (s.streamReq d) (d.recRing + 64 * b.idx) (f.record n d b st.nobuf) with
    | (.okay, s1) =>
      let s2 := (s1.setStream n { s1.stream n with nobuf := 0 }).sendMsi d.ini d.ctx d.msiAddr d.msiData
      if Nat.beq d.sensor 255 then s2
      else s2.offerSample
        { sensor := d.sensor, tov := f.tFs + d.tovOfs, tag := b.tag, repeated := f.repeated, buf := b.iova, len := f.bytes,
          ctx := d.ctx, firing := 0, carried := false, extrap := false } f.frozen d.fperNs
    | (_, s1) => s1
  | _, _ => s

/-! ## The frame guard (R287 to R291) -/

/-- The first `m` of `x :: xs` are there and are all equal to `x`. -/
def allSame (x : Nat) (xs : List Nat) (m : Nat) : Bool :=
  Nat.ble (m - 1) xs.length && (xs.take (m - 1)).all (Nat.beq x)

/-- A CHECK record of the frame guard with the stream in its source (R291). -/
def State.guardCheck (s : State) (n : Nat) : State := s.report { plainRecord .frameGuard sevCheck with sub := n }

/-- The guard marks a closed frame of stream n and records the marks. -/
def State.guardFrame (s : State) (n : Nat) (f : OpenFrame) : OpenFrame × State :=
  let st := s.stream n
  let g := Reg.FGD_STR_GUARD n
  let m0 := s.fld g Fld.FGD_STR_GUARD_M
  let m := if Nat.blt m0 2 then 3 else m0
  let stamp := match f.stamp with
    | some x => some x
    | none =>
      let o := 4 * s.fld g Fld.FGD_STR_GUARD_TS_OFS
      if Nat.ble (o + 4) f.embed.length then some (fieldAt f.embed o 4) else none
  let crc := f.crc.xor 0xFFFFFFFF
  let rep := (st.crcs.take 4).any (Nat.beq crc)
  let cnt := s.flag g Fld.FGD_STR_GUARD_CNT_EN && (match f.counter with | some c => allSame c st.counters m | none => false)
  let ts := s.flag g Fld.FGD_STR_GUARD_TS_EN && (match stamp, st.stamps with
    | some x, y :: _ => !(inRange ((x + 2 ^ 32 - y) % 2 ^ 32) 1 (2 ^ 31))
    | _, _ => false)
  let frz := allSame crc st.crcs m || cnt || ts
  let keep (o : Option Nat) (l : List Nat) := match o with | some x => (x :: l).take 15 | none => l
  let s1 := s.setStream n { st with
    crcs := keep (some crc) st.crcs, counters := keep f.counter st.counters, stamps := keep stamp st.stamps,
    wasRepeat := rep, wasFrozen := frz }
  let s2 := (s1.count (Reg.FGD_STR_STAT n) Fld.FGD_STR_STAT_REPEATS rep.toNat).count (Reg.FGD_STR_STAT n)
    Fld.FGD_STR_STAT_FROZENS frz.toNat
  let s3 := if rep && !st.wasRepeat then s2.guardCheck n else s2
  let s4 := if frz && !st.wasFrozen then s3.guardCheck n else s3
  ({ f with repeated := rep, frozen := frz }, s4)

/-! ## Frames (R271, R274, R275, R280) -/

/-- The next buffer of stream n, if there is one.  Where its entry cannot be read the frame carries TRUNC and nothing of it is written
(R324); the TAG of its record is then a free value, and the third component says so (log entry 6). -/
def State.takeBuffer (s : State) (n : Nat) (d : StreamDesc) : Option RingBuf × Bool × State :=
  let st := s.stream n
  if Nat.beq st.head (s.fld (Reg.FGD_STR_BUF_TAIL n) Fld.FGD_STR_BUF_TAIL_TAIL) then (none, false, s)
  else
    let wrap := Nat.ble (2 ^ d.log2) (st.head + 1)
    let taken (s : State) : State := s.setStream n { st with head := if wrap then 0 else st.head + 1, phase := st.phase != wrap }
    match s.fetch (s.streamReq d) (d.bufRing + 16 * st.head) 16 with
    | (.okay, e, s1) =>
      (some { iova := fieldAt e 0 8, len := fieldAt e 8 4, tag := fieldAt e 12 4, idx := st.head, phase := st.phase }, false,
       taken s1)
    | (_, _, s1) =>
      (some { iova := 0, len := 0, tag := Config.freeValue s.ticks % 2 ^ 32, idx := st.head, phase := st.phase }, true,
       { taken s1 with ticks := s.ticks + 1 })

/-- A frame of stream n opens: it takes the next buffer and its start is stamped.  An ISP pipe whose control core does not run takes no
frame (R467, R482): no buffer is taken for it, and only the guard, which acts before the ISP, sees it (R287; log entry 25). -/
def State.openFrame (s : State) (n : Nat) (counter : Option Nat) : State :=
  match (s.stream n).desc with
  | none => s
  | some d =>
    let refused := Nat.beq d.kind 1 && !(s.procRuns 10)
    let (buf, failed, s1) := if refused then (none, false, s) else s.takeBuffer n d
    let seq := (s1.stream n).seq + 1
    s1.setStream n { s1.stream n with
      seq
      frame := some { buf, seq, tFs := (s.now : Int) - d.latNs, tEnd := 0, crc := 0xFFFFFFFF, bytes := 0, width := 0, lines := 0,
                      pitch := 0, trunc := failed, loss := false, pktErr := false, stop := failed, refused, lost := 0, counter, stamp := none,
                      embed := [], payload := [], words := 0, inFifo := 0, repeated := false, frozen := false } }

/-- Bytes of a frame are written at an offset of its buffer: those beyond LEN are discarded, and a failed write ends the
frame's writing (R271, R324). -/
def State.frameWrite (s : State) (d : StreamDesc) (f : OpenFrame) (o : Nat) (bs : List Byte) : OpenFrame × State :=
  match f.buf with
  | none => (f, s)
  | some b =>
    let fit := bs.take (b.len - o)
    let f1 := { f with trunc := f.trunc || Nat.blt fit.length bs.length }
    if f.stop || fit.isEmpty then (f1, s)
    else
      match s.put (s.streamReq d) (b.iova + o) fit with
      | (.okay, s1) => ({ f1 with bytes := f.bytes + fit.length, tEnd := s.short }, s1)
      | (_, s1) => ({ f1 with trunc := true, stop := true }, s1)

/-- A frame of stream n closes: the guard marks it; a frame without a buffer is counted, and the record of another is
written once its data has left the FIFO or the ISP pipe. -/
def State.closeFrame (s : State) (n : Nat) (trunc : Bool) : State :=
  let st := s.stream n
  match st.frame, st.desc with
  | some f0, some d =>
    let (f, s1) := (s.setStream n { st with frame := none }).guardFrame n { f0 with trunc := f0.trunc || trunc }
    let st1 := s1.stream n
    let later := (Nat.beq d.kind 1 && f.buf.isSome) || !(Nat.beq f.inFifo 0)
    let s2 := s1.setStream n { st1 with
      closing := if later then st1.closing ++ [f] else st1.closing
      nobuf := if f.buf.isNone && !f.refused then min (st1.nobuf + 1) 65535 else st1.nobuf }
    if later then s2 else s2.writeRecord n f
  | _, _ => s

/-- Stream n is disabled: a frame in progress closes with TRUNC (R270). -/
def State.stopStream (s : State) (n : Nat) : State :=
  let s1 := s.closeFrame n true
  let s2 := (s1.stream n).closing.foldl (fun s f => s.writeRecord n { f with trunc := true }) s1
  let s3 := s2.setStream n { s2.stream n with desc := none, closing := [] }
  let unmark (s : State) (p : Nat) : State := s.setSsp p { s.ssp p with fifo := (s.ssp p).fifo.map fun w => (w.1, false) }
  (if Nat.ble 16 n then unmark s3 (n - 16) else s3).lower (Reg.FGD_STR_CTRL n) Fld.FGD_STR_CTRL_EN

/-- A disabled stream is enabled by its descriptor, read in CTX0's device context, or refused (R270; log entry 29). -/
def State.startStream (s : State) (n : Nat) : State :=
  let a := Reg.FGD_STR_CTRL n
  let iova := s.fld (Reg.FGD_STR_DESC_HI n) Fld.FGD_STR_DESC_HI_ADDR_HI * 2 ^ 32 +
    s.fld (Reg.FGD_STR_DESC_LO n) Fld.FGD_STR_DESC_LO_ADDR_LO * 64
  let refuse (s : State) : State := (s.lower a Fld.FGD_STR_CTRL_EN).raise a Fld.FGD_STR_CTRL_CFG_ERR
  match s.fetch (s.unitReq .frameGuard 13 0) iova 64 with
  | (.okay, bs, s1) =>
    let d := streamDesc bs
    if descFits bs d && s1.descAdmits n d then
      (s1.setStream n { Stream.reset with desc := some d }).setReg (Reg.FGD_STR_BUF_TAIL n) 0#32
    else refuse s1
  | (_, _, s1) => refuse s1

/-- A write of FGD_STRs_CTRL. -/
def State.writeStrCtrl (s : State) (n : Nat) (w : Word) : State :=
  let a := Reg.FGD_STR_CTRL n
  let s1 := s.plainWrite a w
  match s.flag a Fld.FGD_STR_CTRL_EN, s1.flag a Fld.FGD_STR_CTRL_EN with
  | false, true => s1.startStream n
  | true, false => s1.stopStream n
  | _, _ => s1

/-- STREAM_ENABLE -/
def execStreamEnable (str : Fin 20) (req : Req) (value : Word) (s : State) : Outcome State Fault Refusal :=
  .next (s.busWrite req (Reg.FGD_STR_CTRL str) value (·.writeStrCtrl str value))

/-- STREAM_DISABLE -/
def execStreamDisable (str : Fin 20) (req : Req) (value : Word) (s : State) : Outcome State Fault Refusal :=
  .next (s.busWrite req (Reg.FGD_STR_CTRL str) value (·.writeStrCtrl str value))

/-- A write of FGD_STRs_DESC_LO or _HI, ignored while EN = 1. -/
def State.writeStrDesc (s : State) (n a : Nat) (w : Word) : State :=
  if s.flag (Reg.FGD_STR_CTRL n) Fld.FGD_STR_CTRL_EN then s else s.plainWrite a w

/-- A write of FGD_STRs_BUF_TAIL, ignored where the stream is disabled or the value is not below the ring's size (R184). -/
def State.writeStrTail (s : State) (n : Nat) (w : Word) : State :=
  match (s.stream n).desc with
  | some d =>
    if Nat.blt (Fld.FGD_STR_BUF_TAIL_TAIL.get w) (2 ^ d.log2) then s.plainWrite (Reg.FGD_STR_BUF_TAIL n) w else s
  | none => s

/-- STREAM_BUF_TAIL_WRITE -/
def execStreamBufTailWrite (str : Fin 20) (req : Req) (value : Word) (s : State) : Outcome State Fault Refusal :=
  .next (s.busWrite req (Reg.FGD_STR_BUF_TAIL str) value (·.writeStrTail str value))

/-- FGD_STAT_READ -/
def execFgdStatRead (str : Fin 20) (req : Req) (s : State) : Outcome State Fault Refusal :=
  .next (s.readClear req (Reg.FGD_STR_STAT str))

/-! ## Camera receivers (R273 to R277) -/

/-- Receiver rx is enabled. -/
def State.csiOn (s : State) (rx : Nat) : Bool := s.flag (Reg.CSI_CFG rx) Fld.CSI_CFG_EN

/-- The camera streams of a receiver whose descriptor `names` accepts. -/
def State.camStreams (s : State) (rx : Nat) (names : StreamDesc → Bool) : List (Nat × StreamDesc) :=
  (List.range 16).filterMap fun n =>
    match (s.stream n).desc with
    | some d => if Nat.beq d.port rx && names d then some (n, d) else none
    | none => none

/-- CSI_FRAME_START: a frame still open closes with TRUNC. -/
def execCsiFrameStart (rx : Fin 4) (vc : Fin 32) (frameNo : BitVec 16) (s : State) : Outcome State Fault Refusal :=
  .next <|
    if s.csiOn rx then
      (s.camStreams rx fun d => Nat.beq d.vc vc).foldl (fun s x =>
        (s.closeFrame x.1 true).openFrame x.1 (some frameNo.toNat)) s
    else s

/-- CSI_FRAME_END -/
def execCsiFrameEnd (rx : Fin 4) (vc : Fin 32) (s : State) : Outcome State Fault Refusal :=
  .next <|
    if s.csiOn rx then (s.camStreams rx fun d => Nat.beq d.vc vc).foldl (fun s x => s.closeFrame x.1 false) s else s

/-- Rounded up to 64. -/
def up64 (n : Nat) : Nat := (n + 63) / 64 * 64

/-- A pixel packet of a frame (R274): to the buffer as a line, or to the ISP pipe. -/
def State.pixelPacket (s : State) (d : StreamDesc) (f : OpenFrame) (bs : List Byte) : OpenFrame × State :=
  let f1 := { f with crc := crcUpdate f.crc bs }
  if Nat.beq d.kind 1 then ({ f1 with payload := f.payload ++ bs }, s)
  else
    let pitch := if Nat.beq f.lines 0 then up64 bs.length else f.pitch
    let width := if Nat.beq f.lines 0 then bs.length * 8 / (dtBits d.dt).getD 8 else f.width
    let o := f.lines * pitch
    let cut := Nat.blt pitch bs.length
    let r := s.frameWrite d { f1 with pitch, width, trunc := f.trunc || cut } o (bs.take pitch)
    let written := Nat.blt f.bytes r.1.bytes || (bs.isEmpty && !r.1.stop)
    ({ r.1 with lines := f.lines + written.toNat }, r.2)

/-- A packet for one stream. -/
def State.streamPacket (s : State) (vc dt : Nat) (payload : List Byte) (bad full : Bool) (x : Nat × StreamDesc) : State :=
  let (n, d) := x
  let st := s.stream n
  match st.frame with
  | none => s
  | some f =>
    if bad then
      let s1 := s.setStream n { st with
        frame := some { f with pktErr := true, lost := f.lost + 1, trunc := f.trunc || full } }
      if Nat.beq f.lost 0 then s1.report (plainRecord (.csi (Fin.ofNat 4 d.port)) sevCE) else s1
    else if Nat.beq dt 0x12 then
      if Nat.beq vc d.vc then s.setStream n { st with frame := some { f with embed := f.embed ++ payload } } else s
    else if Nat.beq dt d.dt then
      let r := s.pixelPacket d f payload
      r.2.setStream n { r.2.stream n with frame := some r.1 }
    else s

/-- A packet that does not fit the 128 KiB of the receiver's line buffer finds it full (R276; log entry 25). -/
def lineFull (fill len : Nat) : Bool := Nat.blt 0x20000 (fill + len)

/-- CSI_LONG_PACKET -/
def execCsiLongPacket (rx : Fin 4) (vc : Fin 32) (dt : BitVec 6) (payload : List Byte) (arrival : PacketArrival)
    (s : State) : Outcome State Fault Refusal :=
  .next <|
    if s.csiOn rx then
      let cond := arrival.cond
      let fill := arrival.fill
      let full := lineFull fill payload.length
      let bad := full || decide (cond = .headerBad) || decide (cond = .crcBad) || decide (cond = .fixedCrcBad)
      let s0 := if decide (cond = .headerFixed) || decide (cond = .fixedCrcBad) then s.count (Reg.CSI_ERR rx) Fld.CSI_ERR_ECC_FIX 1 else s
      let s1 := if bad then s0.count (Reg.CSI_ERR rx) Fld.CSI_ERR_DISCARD 1 else s0
      let s1 := { s1 with csiFill := s.csiFill.set rx (if bad then fill else fill + payload.length) }
      (s.camStreams rx fun d => Nat.beq d.vc vc || (Nat.beq d.kind 1 && (Nat.beq d.hdrVc1 vc || Nat.beq d.hdrVc2 vc))).foldl
        (fun s x => s.streamPacket vc dt.toNat payload bad full x) s1
    else s

/-- CSI_ERR_READ -/
def execCsiErrRead (rx : Fin 4) (req : Req) (s : State) : Outcome State Fault Refusal :=
  .next (s.readClear req (Reg.CSI_ERR rx))

/-- A write of CSI_CFG: LANES and PHY are ignored while EN = 1 (R273); LANES names a count its PHY has (R14). -/
def State.writeCsiCfg (s : State) (rx : Nat) (w : Word) : State :=
  let a := Reg.CSI_CFG rx
  let old := s.reg a
  if s.csiOn rx then s.setReg a (Fld.CSI_CFG_EN.put old (Fld.CSI_CFG_EN.get w))
  else
    let phy := Fld.CSI_CFG_PHY.get w
    let lanes := Fld.CSI_CFG_LANES.get w
    let ok := Nat.beq lanes 1 || Nat.beq lanes 2 || Nat.beq lanes (if Nat.beq phy 1 then 3 else 4)
    let s1 := if ok then s else s.cfgErr a
    s1.setReg a (Fld.CSI_CFG_LANES.put (writeFields (regFields a) old w false) (if ok then lanes else 4))

/-! ## ISP pipes (R278, R279) -/

/-- The rows of an output image: place and length of each, luma or first plane first; and the rows of that plane. -/
def ispRows (ofmt width lines : Nat) : List (Nat × Nat) :=
  let plane (base rowLen n : Nat) := (List.range n).map fun k => (base + k * up64 rowLen, rowLen)
  let chroma (b : Nat) := plane (lines * up64 (b * width)) (b * (2 * ((width + 1) / 2))) ((lines + 1) / 2)
  match ofmt with
  | 0 => plane 0 width lines ++ chroma 1
  | 1 => plane 0 (2 * width) lines ++ chroma 2
  | 2 => plane 0 (2 * width) lines
  | 3 => plane 0 (3 * width) lines
  | _ => plane 0 width lines ++ plane (lines * up64 width) width lines ++ plane (2 * lines * up64 width) width lines

/-- ISP_OUTPUT_DONE: the output frame of the oldest closed frame of the stream is in its buffer and its record is written; LINES counts
the rows of its first plane of which bytes were written.  The image's bytes are the ISP's (log entry 25). -/
def execIspOutputDone (str : Fin 20) (width lines : BitVec 16) (s : State) : Outcome State Fault Refusal :=
  .next <|
    let st := s.stream str
    match st.desc, st.closing with
    | some d, f :: rest =>
      if Nat.beq d.kind 1 then
        let row (first : Bool) (r : OpenFrame × State) (x : Nat × Nat) : OpenFrame × State :=
          let w := r.2.frameWrite d r.1 x.1 ((List.range x.2).map fun k => Config.ispByte s.ticks d.ofmt f.payload (x.1 + k))
          ({ w.1 with lines := r.1.lines + (first && Nat.blt r.1.bytes w.1.bytes).toNat }, w.2)
        let rows := ispRows d.ofmt width.toNat lines.toNat
        let r1 := (rows.take lines.toNat).foldl (row true) ({ f with lines := 0 }, s.setStream str { st with closing := rest })
        let r2 := (rows.drop lines.toNat).foldl (row false) r1
        { r2.2 with ticks := s.ticks + 1 }.writeRecord str { r2.1 with width := width.toNat }
      else s
    | _, _ => s

/-! ## Sensor Stream Ports (R280 to R286) -/

/-- SSP_STATUS and HOLD after the fill or the watermarks have changed (R282, R283, R286). -/
def State.sspUpdate (s : State) (p : Nat) : State :=
  let a := Reg.SSP_STATUS p
  let fill := (s.ssp p).fifo.length
  let urg := if Nat.blt fill 1024 then 0 else if Nat.blt fill 2048 then 1 else if Nat.blt fill 3072 then 2 else 3
  let hold := if !(s.flag (Reg.SSP_CFG p) Fld.SSP_CFG_EN) then 1
    else if Nat.ble (s.fld (Reg.SSP_WM p) Fld.SSP_WM_HWM) fill then 1
    else if Nat.ble fill (s.fld (Reg.SSP_WM p) Fld.SSP_WM_LWM) then 0
    else s.fld a Fld.SSP_STATUS_HOLD
  (((s.setFld a Fld.SSP_STATUS_FILL fill).setFld a Fld.SSP_STATUS_FULL (Nat.beq fill 4096).toNat).setFld a
    Fld.SSP_STATUS_URG urg).setFld a Fld.SSP_STATUS_HOLD hold

/-- The level of the pin SSPn_HOLD, by its polarity. -/
def State.sspHoldPin (s : State) (p : Nat) : Bool :=
  s.flag (Reg.SSP_STATUS p) Fld.SSP_STATUS_HOLD != s.flag (Reg.SSP_CFG p) Fld.SSP_CFG_HOLD_POL

/-- Port p is enabled. -/
def State.sspOn (s : State) (p : Nat) : Bool := s.flag (Reg.SSP_CFG p) Fld.SSP_CFG_EN

/-- A write of SSP_CFG. -/
def State.writeSspCfg (s : State) (p : Nat) (w : Word) : State := (s.plainWrite (Reg.SSP_CFG p) w).sspUpdate p

/-- A write of SSP_WM, ignored with LWM ≥ HWM (R282). -/
def State.writeSspWm (s : State) (p : Nat) (w : Word) : State :=
  if Nat.ble (Fld.SSP_WM_HWM.get w) (Fld.SSP_WM_LWM.get w) then s.raise (Reg.SSP_STATUS p) Fld.SSP_STATUS_CFG_ERR
  else (s.plainWrite (Reg.SSP_WM p) w).sspUpdate p

/-- A word written at port p (R283): lost where the FIFO is full at the start of the edge. -/
def State.sspAccept (s : State) (p : Nat) (w : Word) : State :=
  let n := 16 + p
  let port := s.ssp p
  let st := s.stream n
  if Nat.ble 4096 port.fifo.length then
    let s1 := (s.raise (Reg.SSP_STATUS p) Fld.SSP_STATUS_OVR).count (Reg.SSP_OVR p) Fld.SSP_OVR_LOST 1
    let s2 := s1.setStream n { st with frame := st.frame.map fun f => { f with loss := true, lost := f.lost + 1 } }
    if s.flag (Reg.SSP_STATUS p) Fld.SSP_STATUS_OVR then s2 else s2.report (plainRecord (.ssp (Fin.ofNat 4 p)) sevCE)
  else
    let g := Reg.FGD_STR_GUARD n
    let at_ (f : OpenFrame) (o : Fld) (x : Option Nat) := if Nat.beq f.words (s.fld g o) then some w.toNat else x
    let s1 := s.setStream n { st with frame := st.frame.map fun f =>
      { f with crc := crcUpdate f.crc (leBytes 4 w.toNat), counter := at_ f Fld.FGD_STR_GUARD_CNT_OFS f.counter,
               stamp := at_ f Fld.FGD_STR_GUARD_TS_OFS f.stamp, words := f.words + 1, inFifo := f.inFifo + 1 } }
    (s1.setSsp p { port with fifo := port.fifo ++ [(w, st.frame.isSome)] }).sspUpdate p

/-- SSP_FRAME_START -/
def execSspFrameStart (port : Fin 4) (word : Word) (s : State) : Outcome State Fault Refusal :=
  .next <|
    if s.sspOn port && !(s.ssp port).fv then
      ((s.setSsp port { s.ssp port with fv := true }).openFrame (16 + port) none).sspAccept port word
    else s

/-- SSP_WORD -/
def execSspWord (port : Fin 4) (word : Word) (s : State) : Outcome State Fault Refusal :=
  .next (if s.sspOn port then s.sspAccept port word else s)

/-- SSP_FRAME_END -/
def execSspFrameEnd (port : Fin 4) (s : State) : Outcome State Fault Refusal :=
  .next <|
    if (s.ssp port).fv then (s.setSsp port { s.ssp port with fv := false }).closeFrame (16 + port) false else s

/-- A word of a frame of stream n leaves the FIFO for its buffer: the oldest frame with words left; a closed frame whose last
word it is has its record written. -/
def State.drainWord (s : State) (n : Nat) (w : Word) : State :=
  let st := s.stream n
  match st.desc with
  | none => s
  | some d =>
    let pass (f : OpenFrame) : OpenFrame × State :=
      let r := s.frameWrite d f (4 * (f.words - f.inFifo)) (leBytes 4 w.toNat)
      ({ r.1 with inFifo := f.inFifo - 1 }, r.2)
    match st.closing, st.frame with
    | f :: rest, _ =>
      let r := pass f
      if Nat.beq r.1.inFifo 0 then (r.2.setStream n { r.2.stream n with closing := rest }).writeRecord n r.1
      else r.2.setStream n { r.2.stream n with closing := r.1 :: rest }
    | [], some f => let r := pass f; r.2.setStream n { r.2.stream n with frame := some r.1 }
    | [], none => s

/-- SSP_FIFO_DRAIN -/
def execSspFifoDrain (port : Fin 4) (s : State) : Outcome State Fault Refusal :=
  .next <|
    match (s.ssp port).fifo with
    | [] => s
    | (w, mine) :: rest =>
      let s1 := (s.setSsp port { s.ssp port with fifo := rest }).sspUpdate port
      if mine then s1.drainWord (16 + port) w else s1

/-- SSP_CLOCK_LOST -/
def execSspClockLost (port : Fin 4) (s : State) : Outcome State Fault Refusal :=
  .next <|
    if s.sspOn port then
      (s.raise (Reg.SSP_STATUS port) Fld.SSP_STATUS_CLK_LOST).report (plainRecord (.ssp port) sevTimeout)
    else s

/-- SSP_OVR_READ -/
def execSspOvrRead (port : Fin 4) (req : Req) (s : State) : Outcome State Fault Refusal :=
  .next (s.readClear req (Reg.SSP_OVR port))

/-- CTX_DESTROY of context n: the streams whose descriptor names it are disabled (R177). -/
def State.stopStreams (s : State) (n : Nat) : State :=
  (List.range 20).foldl (fun s k =>
    match (s.stream k).desc with
    | some d => if Nat.beq d.ctx n then s.stopStream k else s
    | none => s) s

end Sys2Proof.Machine
end

