-- ==== Sys2Proof/Machine/Slow.lean ====
section
/-!
DEFINITION. The PCIe root ports, the xSPI controller and the audio ports (15_bridges_and_gateway R434 to R436;
11_memory_and_bandwidth R324).
-/

namespace Sys2Proof.Machine

open Host (Outcome)

/-! ## PCIe (R434, R324) -/

/-- A write of PCE_CFG: while EN = 1 only EN takes effect. -/
def State.writePceCfg (s : State) (n : Nat) (w : Word) : State :=
  let a := Reg.PCE_CFG n
  if s.flag a Fld.PCE_CFG_EN then s.setFld a Fld.PCE_CFG_EN (Fld.PCE_CFG_EN.get w) else s.plainWrite a w

/-- PCIE_ENABLE -/
def execPcieEnable (pce : Fin 2) (req : Req) (value : Word) (s : State) : Outcome State Fault Refusal :=
  .next (s.busWrite req (Reg.PCE_CFG pce) value (·.writePceCfg pce value))

/-- A failed inbound request is logged in AER and sends its record (R324). -/
def State.pceFailed (s : State) (n : Fin 2) (e : Resp) : State :=
  let x := s.gw.aer[n]
  let aer := s.gw.aer.set n (match e with
    | .decode => { x with ur := true } | .guard => { x with ca := true } | _ => { x with ie := true })
  let s1 := { s with gw := { s.gw with aer } }
  match e with
  | .ue | .link => s1.report (plainRecord (.pcie n) sevUE)
  | _ =>
    if s.msSince s.gw.pceSent[n] then
      { s1 with gw := { s1.gw with pceSent := s1.gw.pceSent.set n (some s.tb.elapsed) } }.report (plainRecord (.pcie n) sevCE)
    else s1

/-! ## xSPI (R435; log entry 35) -/

/-- A request of the xSPI DMA: the class of WIR1's upward requests. -/
def State.xspReq (s : State) : Req := s.unitReq .xspi (s.fld (Reg.WIR_CTRL 1) Fld.WIR_CTRL_CLASS) 0

/-- A write of the tail of the xSPI ring (R184). -/
def State.writeXspTail (s : State) (w : Word) : State :=
  let v := Fld.DB_SQ_TAIL_TAIL.get w
  if Nat.blt v (2 ^ Config.xspiRing.2) then s.setFld Reg.XSP_DB_SQ_TAIL Fld.DB_SQ_TAIL_TAIL v
  else s.count Reg.XSP_DB_ERR Fld.DB_ERR_IGNORED 1

/-- XSPI_DOORBELL -/
def execXspiDoorbell (req : Req) (value : Word) (s : State) : Outcome State Fault Refusal :=
  .next (s.busWrite req Reg.XSP_DB_SQ_TAIL value (·.writeXspTail value))

/-- The next entry of the ring, where `want` accepts its OP: `run` answers STATUS byte 0 and the state, and STATUS is written
back as the ring moves on.  An entry that cannot be read is passed over. -/
def State.xspEntry (s : State) (want : Nat → Bool) (run : List Byte → State → Nat × State) : State :=
  let head := s.fld Reg.XSP_DB_SQ_HEAD Fld.DB_SQ_HEAD_HEAD
  if Nat.beq head (s.fld Reg.XSP_DB_SQ_TAIL Fld.DB_SQ_TAIL_TAIL) then s
  else
    let at_ := Config.xspiRing.1 + 32 * head
    let next (s : State) : State :=
      s.setFld Reg.XSP_DB_SQ_HEAD Fld.DB_SQ_HEAD_HEAD ((head + 1) % 2 ^ Config.xspiRing.2)
    match s.fetch s.xspReq at_ 32 with
    | (.okay, e, s1) =>
      if want (fieldAt e 0 1) then
        let r := run e s1
        next (r.2.put s.xspReq (at_ + 24) (leBytes 8 r.1)).2
      else s1
    | (_, _, s1) => next s1

/-- The place of an entry's OFFSET on its chip select: each device has 4 GiB. -/
def flashPlace (e : List Byte) : Nat := fieldAt e 1 1 % 2 * 2 ^ 32 + fieldAt e 8 8 % 2 ^ 32

/-- Bytes go to the IOVA of an entry. -/
def State.xspOut (s : State) (e bs : List Byte) : Nat × State :=
  let r := s.put s.xspReq (fieldAt e 16 8) bs
  (respCode r.1, r.2)

/-- XSPI_READ -/
def execXspiRead (s : State) : Outcome State Fault Refusal :=
  .next (s.xspEntry (Nat.beq 0) fun e s => s.xspOut e (SMap.getMany flashDflt s.flash (flashPlace e) (fieldAt e 4 4)))

/-- XSPI_PROGRAM: programming clears bits (PRESUMED: NOR flash; log entry 39). -/
def execXspiProgram (s : State) : Outcome State Fault Refusal :=
  .next <| s.xspEntry (Nat.beq 1) fun e s =>
    let n := fieldAt e 4 4
    match s.fetch s.xspReq (fieldAt e 16 8) n with
    | (.okay, d, s1) =>
      let old := SMap.getMany flashDflt s1.flash (flashPlace e) n
      (0, { s1 with flash := SMap.setMany flashDflt s1.flash (flashPlace e) (List.zipWith (· &&& ·) old d) })
    | (x, _, s1) => (respCode x, s1)

/-- XSPI_ERASE_SECTOR: the sector of `size` bytes that holds OFFSET reads 0xFF. -/
def execXspiEraseSector (size : Nat) (s : State) : Outcome State Fault Refusal :=
  .next <| s.xspEntry (Nat.beq 2) fun e s =>
    let p := flashPlace e / size * size
    (0, { s with flash := SMap.clear s.flash p (p + size) })

/-- XSPI_READ_SFDP: `sfdp` is what the device gives. -/
def execXspiReadSfdp (sfdp : List Byte) (s : State) : Outcome State Fault Refusal :=
  .next (s.xspEntry (Nat.beq 3) fun e s => s.xspOut e (sfdp.take (fieldAt e 4 4)))

/-- XSPI_OPERATION_TIMEOUT: STATUS byte 0 reads 0xFF. -/
def execXspiOperationTimeout (s : State) : Outcome State Fault Refusal :=
  .next (s.xspEntry (fun _ => true) fun _ s => (0xFF, s))

/-! ## Audio (R436) -/

/-- Audio port n. -/
def State.audio (s : State) (n : Nat) : AudioPort := s.gw.audio[Fin.ofNat 8 n]

def State.setAudio (s : State) (n : Nat) (x : AudioPort) : State :=
  { s with gw := { s.gw with audio := s.gw.audio.set (Fin.ofNat 8 n) x } }

/-- A request of the audio DMA. -/
def State.audReq (s : State) (ctx : Nat) : Req := s.unitReq .audio (s.fld (Reg.WIR_CTRL 1) Fld.WIR_CTRL_CLASS) ctx

/-- The descriptor is within its ranges, its rings aligned and its context ACTIVE. -/
def State.audAdmits (s : State) (b : List Byte) : Bool :=
  let f (o n : Nat) := fieldAt b o n
  Nat.blt (f 0 1) 8 && inRange (f 1 1) 1 17 && (bitAt (f 0 1) 2 || Nat.beq (f 1 1) 2) && (Nat.beq (f 2 1) 16 || Nat.beq (f 2 1) 32) &&
    inRange (f 3 1) 16 (f 2 1 + 1) && inRange (f 4 4) 8000 192001 && Nat.beq (f 32 8 % 4) 0 && inRange (f 40 4) 1 2048 &&
    inRange (f 44 1) 4 13 && Nat.blt (f 45 1) 32 && zeroAt b 46 18 && Nat.beq (f 16 8 % (16 * 2 ^ f 44 1)) 0 &&
    Nat.beq (f 24 8 % (64 * 2 ^ f 44 1)) 0 && s.isActive (f 45 1)

/-- The port is enabled by its descriptor, read in CTX0's device context, or refused (log entry 29). -/
def State.startAudio (s : State) (n : Nat) : State :=
  let a := Reg.AUD_CTRL n
  let iova := s.fld (Reg.AUD_DESC_HI n) Fld.FGD_STR_DESC_HI_ADDR_HI * 2 ^ 32 +
    s.fld (Reg.AUD_DESC_LO n) Fld.FGD_STR_DESC_LO_ADDR_LO * 64
  let refuse (s : State) : State := (s.lower a Fld.FGD_STR_CTRL_EN).raise a Fld.FGD_STR_CTRL_CFG_ERR
  match s.fetch (s.audReq 0) iova 64 with
  | (.okay, b, s1) =>
    if s1.audAdmits b then
      let f (o n : Nat) := fieldAt b o n
      (s1.setAudio n { AudioPort.reset with
        receive := bitAt (f 0 1) 0, bufRing := f 16 8, recRing := f 24 8, msiAddr := f 32 8, msiData := f 40 4, log2 := f 44 1
        ctx := f 45 1, on := true, master := bitAt (f 0 1) 1, frame := f 1 1 * (f 2 1 / 8), fsHz := f 4 4, start := f 8 8 }).setReg (Reg.AUD_BUF_TAIL n) 0#32
    else refuse s1
  | (_, _, s1) => refuse s1

/-- The port is disabled. -/
def State.stopAudio (s : State) (n : Nat) : State :=
  (s.setAudio n AudioPort.reset).lower (Reg.AUD_CTRL n) Fld.FGD_STR_CTRL_EN

/-- A write of the port's CTRL. -/
def State.writeAudCtrl (s : State) (n : Nat) (w : Word) : State :=
  let a := Reg.AUD_CTRL n
  let s1 := s.plainWrite a w
  match s.flag a Fld.FGD_STR_CTRL_EN, s1.flag a Fld.FGD_STR_CTRL_EN with
  | false, true => s1.startAudio n
  | true, false => s1.stopAudio n
  | _, _ => s1

/-- AUDIO_ENABLE -/
def execAudioEnable (port : Fin 8) (req : Req) (value : Word) (s : State) : Outcome State Fault Refusal :=
  .next (s.busWrite req (Reg.AUD_CTRL port) value (·.writeAudCtrl port value))

/-- A write of the port's DESC_LO or DESC_HI, ignored while EN = 1. -/
def State.writeAudDesc (s : State) (n a : Nat) (w : Word) : State :=
  if s.flag (Reg.AUD_CTRL n) Fld.FGD_STR_CTRL_EN then s else s.plainWrite a w

/-- A write of the port's BUF_TAIL (R184). -/
def State.writeAudTail (s : State) (n : Nat) (w : Word) : State :=
  let x := s.audio n
  if x.on && Nat.blt (Fld.FGD_STR_BUF_TAIL_TAIL.get w) (2 ^ x.log2) then s.plainWrite (Reg.AUD_BUF_TAIL n) w else s

/-- AUDIO_BUF_TAIL_WRITE -/
def execAudioBufTailWrite (port : Fin 8) (req : Req) (value : Word) (s : State) : Outcome State Fault Refusal :=
  .next (s.busWrite req (Reg.AUD_BUF_TAIL port) value (·.writeAudTail port value))

/-- The 64-byte record of an audio buffer (R272, R436; log entry 40). -/
def audioRecord (n tag seq tFs tEnd crc bytes nobuf : Nat) (phase trunc : Bool) : List Byte :=
  leBytes 4 tag ++ leBytes 1 (0x20 + n) ++ leBytes 1 (phase.toNat + 8 * trunc.toNat) ++ leBytes 2 0 ++ leBytes 4 seq ++
    leBytes 4 tFs ++ leBytes 4 tFs ++ leBytes 4 tEnd ++ leBytes 4 crc ++ leBytes 4 bytes ++ leBytes 4 0 ++ leBytes 2 nobuf ++
    leBytes 26 0

/-- The time of frame sync k of a clock master, START + k / FS_HZ, in ns (R436). -/
def AudioPort.sync (x : AudioPort) (k : Nat) : Nat := x.start + k * 1000000000 / x.fsHz

/-- A record of audio port `x` is written, and its MSI raised; one that cannot be written is lost. -/
def State.audioRecorded (s : State) (req : Req) (x : AudioPort) (rcd : List Byte) : State :=
  match s.put req (x.recRing + 64 * x.head) rcd with
  | (.okay, s1) => s1.sendMsi .audio x.ctx x.msiAddr x.msiData
  | (_, s1) => s1

/-- AUDIO_BUFFER_DONE: a receive port has filled its buffer with `samples`, or a transmit port has sent one; its record is written
and its MSI raised.  A clock master's T_FS follows from START and the frames before the buffer; a slave's is what came in.  A buffer
whose entry cannot be read moves nothing: its record has a free TAG and TRUNC (log entries 6 and 40). -/
def execAudioBufferDone (port : Fin 8) (tFsIn : BitVec 32) (samples : List Byte) (s : State) : Outcome State Fault Refusal :=
  .next <|
    let x := s.audio port
    let tFs : BitVec 32 := if x.master then BitVec.ofNat 32 (x.sync x.frames) else tFsIn
    if !x.on then s
    else if Nat.beq x.head (s.fld (Reg.AUD_BUF_TAIL port) Fld.FGD_STR_BUF_TAIL_TAIL) then
      s.setAudio port { x with seq := x.seq + 1, nobuf := min (x.nobuf + 1) 65535, frames := x.frames + samples.length / x.frame }
    else
      let req := s.audReq x.ctx
      let wrap := Nat.ble (2 ^ x.log2) (x.head + 1)
      let y := { x with head := if wrap then 0 else x.head + 1, phase := x.phase != wrap, seq := x.seq + 1, nobuf := 0 }
      match s.fetch req (x.bufRing + 16 * x.head) 16 with
      | (.okay, e, s1) =>
        let len := fieldAt e 8 4
        let r : Resp × List Byte × State :=
          if x.receive then let w := s1.put req (fieldAt e 0 8) (samples.take len); (w.1, samples.take len, w.2)
          else s1.fetch req (fieldAt e 0 8) len
        let bad := !(decide (r.1 = .okay))
        let bytes := if bad then 0 else r.2.1.length
        let rcd := audioRecord port (fieldAt e 12 4) y.seq tFs.toNat s.short (crc32 r.2.1) bytes x.nobuf x.phase
          (bad || (x.receive && Nat.blt len samples.length))
        (r.2.2.setAudio port { y with frames := x.frames + r.2.1.length / x.frame }).audioRecorded req x rcd
      | (_, _, s1) =>
        let rcd := audioRecord port (Config.freeValue s.ticks % 2 ^ 32) y.seq tFs.toNat s.short (crc32 []) 0 x.nobuf x.phase true
        ({ s1 with ticks := s.ticks + 1 }.setAudio port { y with frames := x.frames + samples.length / x.frame }).audioRecorded req x rcd

end Sys2Proof.Machine
end

