-- ==== Sys2Proof/Machine/Units.lean ====
section
/-!
DEFINITION. What the CTX0 commands do to the units that work in a context's name (07_control_plane R177).
-/

namespace Sys2Proof.Machine

/-- CTX_RESET of context `n`: its graphics queues are reset. -/
def State.resetQueues (s : State) (n : Nat) : State :=
  ((List.range 8).foldl (fun s q =>
    if (s.gfxQueue q).on && Nat.beq (s.gfxQueue q).ctx n then s.resetQueue q else s) s).gfxRead

/-- The graphics queues and heads of context `n` are disabled. -/
def State.disableShown (s : State) (n : Nat) : State :=
  let s1 := (List.range 8).foldl (fun s q =>
    if (s.gfxQueue q).on && Nat.beq (s.gfxQueue q).ctx n then s.stopQueue q else s) s
  (List.range 4).foldl (fun s h =>
    match (s.head h).desc with
    | some d => if Nat.beq d.ctx n then s.stopHead h else s
    | none => s) s1

/-- The gateway's units of context `n` are disabled. -/
def State.disableGateway (s : State) (n : Nat) : State :=
  let s1 := (List.range 8).foldl (fun s c =>
    match (s.can c).desc with
    | some d => if Nat.beq d.ctx n then s.stopCan c else s
    | none => s) s
  let s2 := match s1.gw.hif with
    | some d => if Nat.beq d.ctx n then s1.stopHif else s1
    | none => s1
  (List.range 8).foldl (fun s p => if (s.audio p).on && Nat.beq (s.audio p).ctx n then s.stopAudio p else s) s2

/-- CTX_DESTROY of context `n`: every unit whose descriptor names it is disabled. -/
def State.disableUnits (s : State) (n : Nat) : State :=
  (((s.stopStreams n).stopInstants n).disableShown n).disableGateway n

end Sys2Proof.Machine
end

