-- ==== Sys2Proof/Machine/Windows.lean ====
section
/-!
DEFINITION. Sliding-window layers (05_sliding_window_operators R125 to R141): their sizes and admission, the taps of a window, the
order of the passes, pooling and resize, and the rows that an engine computes and fetches.
-/

namespace Sys2Proof.Machine

/-! ## Fields of a layer (R123) -/

/-- A byte of the layer's record. -/
def LayerRun.u8 (l : LayerRun) (o : Nat) : Nat := fieldAt l.bytes o 1

def LayerRun.op (l : LayerRun) : Nat := l.u8 0
def LayerRun.kh (l : LayerRun) : Nat := l.u8 1
def LayerRun.kw (l : LayerRun) : Nat := l.u8 2
def LayerRun.sh (l : LayerRun) : Nat := l.u8 3
def LayerRun.sw (l : LayerRun) : Nat := l.u8 4
def LayerRun.dh (l : LayerRun) : Nat := l.u8 5
def LayerRun.dw (l : LayerRun) : Nat := l.u8 6
def LayerRun.coord (l : LayerRun) : Nat := bitsOf (l.u8 7) 3 2
def LayerRun.pt (l : LayerRun) : Nat := l.u8 8
def LayerRun.pl (l : LayerRun) : Nat := l.u8 10
def LayerRun.pr (l : LayerRun) : Nat := l.u8 11
def LayerRun.cin (l : LayerRun) : Nat := fieldAt l.bytes 16 2
def LayerRun.cout (l : LayerRun) : Nat := fieldAt l.bytes 18 2
def LayerRun.nGroups (l : LayerRun) : Nat := fieldAt l.bytes 20 2
def LayerRun.fuse (l : LayerRun) : Nat := l.u8 26
def LayerRun.fmt (l : LayerRun) : Nat := l.u8 27 % 32
def LayerRun.scale (l : LayerRun) : Nat := bitsOf (l.u8 27) 6 5
def LayerRun.resize (l : LayerRun) : Bool := isResize l.bytes

/-! ## Admission (R124 to R126, R128) -/

/-- The output size on one axis (R125). -/
def outSize (inp lo hi dil k st : Nat) : Int :=
  Int.fdiv ((inp : Int) + lo + hi - dil * (k - 1 : Int) - 1) st + 1

/-- The pad value of a layer in its input's element format, converted with RNE, and the flags of the conversion, which no summary
takes (R128); `padk` is the job's pad constant. -/
def padCode (r : List Byte) (padk : Nat) (nanOnOvf : Bool) : Nat × Nat :=
  let sel := fieldAt r 7 1 % 4
  if Nat.beq sel 0 then (0, 0)
  else
    match elemFmt (fieldAt r 27 1 % 32) with
    | some f => f.convert (fp32.decode (if Nat.beq sel 1 then fieldAt r 12 4 else padk)) 0 nanOnOvf
    | none => (0, 0)

/-- The format conditions of R126 for a layer with the job's pad constant and overflow policy. -/
def layerFormatOk (r : List Byte) (padk : Nat) (nanOnOvf : Bool) : Bool :=
  let fmt := fieldAt r 27 1 % 32
  let scale := bitsOf (fieldAt r 27 1) 6 5
  let padsel := fieldAt r 7 1 % 4
  scaleAllows scale fmt && !(Nat.beq scale 2) && !(Nat.beq fmt 6) && !(Nat.beq fmt 7) &&
    (Nat.beq padsel 0 ||
      (Nat.beq scale 0 && Nat.ble 8 (storedBits fmt) && (fp32.decode (if Nat.beq padsel 1 then fieldAt r 12 4 else padk)).isFin &&
        Nat.beq ((padCode r padk nanOnOvf).2 &&& (fxOvfSat + fxOvfNan + fxIntSat)) 0))

/-- The output size of a layer whose input is `h` by `w`, if the shape conditions of R126 hold. -/
def layerShape (r : List Byte) (h w : Nat) : Option (Nat × Nat) :=
  let f := fun o => fieldAt r o 1
  if !(inRange h 1 65536) || !(inRange w 1 65536) then none
  else if isResize r then
    let oh := fieldAt r 22 2
    let ow := fieldAt r 24 2
    if Nat.ble h (oh * 16) && Nat.ble oh (h * 16) && Nat.ble w (ow * 16) && Nat.ble ow (w * 16) then some (oh, ow) else none
  else
    let oh := outSize h (f 8) (f 9) (f 5) (f 1) (f 3)
    let ow := outSize w (f 10) (f 11) (f 6) (f 2) (f 4)
    if 0 < oh ∧ oh ≤ 65535 ∧ 0 < ow ∧ ow ≤ 65535 then some (oh.toNat, ow.toNat) else none

/-- The window layer that IN_SRC of a record names; none for the job's input (R124). -/
def layerSrc (r : List Byte) : Option Nat := if Nat.beq (fieldAt r 28 2) 0xFFFE then none else some (fieldAt r 28 2)

/-- The next `k` layers, in model-graph order, behind those already checked; `padk` and `nanOnOvf` are the job's (R124, R126,
R128). -/
def layersFrom (man : List Byte) (padk : Nat) (nanOnOvf : Bool) (input : Nat × Nat) :
    Nat → List LayerRun → Checked (List LayerRun)
  | 0, ls => .ok ls
  | k + 1, ls =>
    let r := (winAt man ls.length).take 32
    let inp := match layerSrc r with
      | none => input
      | some w => match ls[w]? with | some l => (l.outH, l.outW) | none => (0, 0)
    if !(layerFormatOk r padk nanOnOvf) then .bad stFormat (manSlots man + ls.length)
    else
      match layerShape r inp.1 inp.2 with
      | none => .bad stShape (manSlots man + ls.length)
      | some o =>
        layersFrom man padk nanOnOvf input k
          (ls ++ [{ bytes := r, inH := inp.1, inW := inp.2, outH := o.1, outW := o.2, pad := (padCode r padk nanOnOvf).1 }])

/-! ## Taps (R127, R129, R130) -/

/-- The input index that tap `k` of output position `o` addresses on one axis (R127). -/
def tapIndex (o st lo dil k : Nat) : Int := (o * st : Nat) - (lo : Int) + (k * dil : Nat)

/-- An index that lies inside the input. -/
def inside (i : Int) (n : Nat) : Option Nat := if 0 ≤ i ∧ i < n then some i.toNat else none

/-- The taps of the filter, in row-major order. -/
def LayerRun.taps (l : LayerRun) : List (Nat × Nat) :=
  (List.range l.kh).flatMap fun ky => (List.range l.kw).map fun kx => (ky, kx)

/-- The input position that a tap of an output position reads; none for a pad tap (R127, R129). -/
def LayerRun.tapAt (l : LayerRun) (oy ox : Nat) (t : Nat × Nat) : Option (Nat × Nat) :=
  match inside (tapIndex oy l.sh l.pt l.dh t.1) l.inH, inside (tapIndex ox l.sw l.pl l.dw t.2) l.inW with
  | some y, some x => some (y, x)
  | _, _ => none

/-- The input positions of the window of an output position, in tap order; none for each pad tap. -/
def LayerRun.window (l : LayerRun) (oy ox : Nat) : List (Option (Nat × Nat)) := l.taps.map (l.tapAt oy ox)

/-- The pad value (R128). -/
def LayerRun.padVal (l : LayerRun) : Val := ((elemFmt l.fmt).getD fp32).decode l.pad

/-! ## Resize coordinates (R137) -/

/-- The FP32 value of a natural number. -/
def nat32 (n : Nat) : Val := (toFp32 (.fin false n) false).1

/-- The source coordinate of output index `x` on an axis of `inp` inputs and `out` outputs, in FP32 with RNE. -/
def srcCoord (coord inp out x : Nat) : Val :=
  let half : Val := .fin false (1 / 2)
  if Nat.beq coord 1 then
    let r := if Nat.beq out 1 then .fin false 0 else (fDiv fp32 0 false (nat32 (inp - 1)) (nat32 (out - 1))).1
    (fMul fp32 0 false (nat32 x) r).1
  else
    let r := (fDiv fp32 0 false (nat32 inp) (nat32 out)).1
    if Nat.beq coord 0 then (fFma fp32 0 false (fAdd fp32 0 false (nat32 x) half).1 r half.flip).1
    else (fMul fp32 0 false (nat32 x) r).1

/-- An index held within an axis of `n` positions. -/
def clampAxis (n : Nat) (i : Int) : Nat := (clampInt 0 ((n : Int) - 1) i).toNat

/-- The index that RESIZE_NEAREST reads.  DESIGN CHOICE, log entry 75: xs + 0.5 is rounded to FP32 with RNE before the floor. -/
def nearestIndex (coord inp out x : Nat) : Nat :=
  clampAxis inp (fAdd fp32 0 false (srcCoord coord inp out x) (.fin false (1 / 2))).1.q.floor

/-- The two indices that RESIZE_BILINEAR reads on an axis, and the weight of the second. -/
def bilinearAt (coord inp out x : Nat) : Nat × Nat × Val :=
  let xs := srcCoord coord inp out x
  let x0 := xs.q.floor
  (clampAxis inp x0, clampAxis inp (x0 + 1), (fAdd fp32 0 false xs (Val.ofRat (-(x0 : Rat)))).1)

/-- RESIZE_BILINEAR of one position: `inp y x` is the value of an input position. -/
def LayerRun.bilinear (l : LayerRun) (inp : Nat → Nat → Val) (oy ox : Nat) (ovf : Bool) : Val × Nat :=
  let y := bilinearAt l.coord l.inH l.outH oy
  let x := bilinearAt l.coord l.inW l.outW ox
  let lerp (f a b : Val) : Val × Nat :=
    let d := fAdd fp32 0 ovf b a.flip
    let r := fFma fp32 0 ovf f d.1 a
    (r.1, d.2 ||| r.2)
  let h0 := lerp x.2.2 (inp y.1 x.1) (inp y.1 x.2.1)
  let h1 := lerp x.2.2 (inp y.2.1 x.1) (inp y.2.1 x.2.1)
  let out := lerp y.2.2 h0.1 h1.1
  (out.1, h0.2 ||| h1.2 ||| out.2)

/-- RESIZE_NEAREST of one position. -/
def LayerRun.nearest (l : LayerRun) (inp : Nat → Nat → Val) (oy ox : Nat) : Val :=
  inp (nearestIndex l.coord l.inH l.outH oy) (nearestIndex l.coord l.inW l.outW ox)

/-! ## Rows and columns named (R130, R137, R139) -/

/-- Input row `y` is named by a tap of output row `oy`. -/
def LayerRun.namesRow (l : LayerRun) (oy y : Nat) : Bool :=
  if Nat.beq l.op 4 then Nat.beq (nearestIndex l.coord l.inH l.outH oy) y
  else if Nat.beq l.op 5 then
    let b := bilinearAt l.coord l.inH l.outH oy
    Nat.beq b.1 y || Nat.beq b.2.1 y
  else (List.range l.kh).any fun k => decide (tapIndex oy l.sh l.pt l.dh k = y)

/-- Input column `x` is named by a tap of output column `ox`. -/
def LayerRun.namesCol (l : LayerRun) (ox x : Nat) : Bool :=
  if Nat.beq l.op 4 then Nat.beq (nearestIndex l.coord l.inW l.outW ox) x
  else if Nat.beq l.op 5 then
    let b := bilinearAt l.coord l.inW l.outW ox
    Nat.beq b.1 x || Nat.beq b.2.1 x
  else (List.range l.kw).any fun k => decide (tapIndex ox l.sw l.pl l.dw k = x)

/-- The input rows that output rows `a` to `b` − 1 name, ascending. -/
def LayerRun.rowsFor (l : LayerRun) (a b : Nat) : List Nat :=
  (List.range l.inH).filter fun y => (List.range (b - a)).any fun i => l.namesRow (a + i) y

/-- The runs of consecutive numbers of an ascending list: first and count. -/
def runsOf : List Nat → List (Nat × Nat)
  | [] => []
  | y :: ys =>
    match runsOf ys with
    | (a, n) :: r => if Nat.beq a (y + 1) then (y, n + 1) :: r else (y, 1) :: (a, n) :: r
    | [] => [(y, 1)]

/-! ## Layout of the channels (R131; log entry 75) -/

/-- `n` rounded up to a multiple of 32. -/
def up32 (n : Nat) : Nat := (n + 31) / 32 * 32

/-- The place of channel `c` of a position among channels in groups of `g`: small groups share a block of 32, larger ones begin on
one. -/
def chanPlace (g c : Nat) : Nat :=
  if Nat.ble g 32 then c / g / (32 / g) * 32 + c / g % (32 / g) * g + c % g else c / g * up32 g + c % g

/-- Channels of a group of the input, and Cpad of a position. -/
def LayerRun.cinG (l : LayerRun) : Nat := l.cin / l.nGroups
def LayerRun.cpad (l : LayerRun) : Nat := if Nat.beq l.cin 0 then 0 else up32 (chanPlace l.cinG (l.cin - 1) + 1)

/-- Bytes of an input position. -/
def LayerRun.posBytes (l : LayerRun) : Nat := packedBytes l.fmt l.cpad

/-- The padded channels of a position: each in its place, zero elements elsewhere. -/
def LayerRun.padChannels (l : LayerRun) (codes : List Nat) : List Nat :=
  (codes.zip (List.range l.cin)).foldl (fun v x => v.set (chanPlace l.cinG x.2) x.1) (List.replicate l.cpad 0)

/-! ## Passes and sweeps of a convolution (R132, R133, R134) -/

/-- The blocks of 7 taps of an axis: first tap and count. -/
def blocks7 (k : Nat) : List (Nat × Nat) := (List.range ((k + 6) / 7)).map fun i => (7 * i, min 7 (k - 7 * i))

/-- One sweep: a slice of 32 input channels of each group, and the taps of a sub-kernel in order (R133). -/
structure Sweep where
  slice : Nat
  taps  : List (Nat × Nat)
  deriving DecidableEq, Repr

/-- The sweeps of a convolution in order; any other layer has one, with no tap table. -/
def LayerRun.sweeps (l : LayerRun) : List Sweep :=
  if !(Nat.beq l.op 0) then [{ slice := 0, taps := [] }]
  else
    (List.range ((l.cinG + 31) / 32)).flatMap fun sl => (blocks7 l.kh).flatMap fun y => (blocks7 l.kw).map fun x =>
      { slice := sl, taps := (List.range y.2).flatMap fun ky => (List.range x.2).map fun kx => (y.1 + ky, x.1 + kx) }

/-- Groups that a weight tile holds (R134). -/
def LayerRun.tileGroups (l : LayerRun) : Nat :=
  let ci := l.cinG
  let co := l.cout / l.nGroups
  if Nat.ble ci 32 && Nat.ble co 32 then min (32 / ci) (32 / co) else 1

/-- One output element of a convolution: each pass applies one tap and one slice of its group's channels, in the order of the
sweeps, into an FP32 partial sum; `act y x c` and `wgt ky kx c` are the operands of input channel `c` of the group (R133). -/
def LayerRun.convolve (l : LayerRun) (path : PassPath) (ovf : Bool) (act : Nat → Nat → Nat → Val) (wgt : Nat → Nat → Nat → Val)
    (oy ox : Nat) : Val × Nat :=
  (l.sweeps.flatMap fun w => w.taps.map fun t => (w.slice, t)).foldl (fun r p =>
    let chans := (List.range 32).map fun i => 32 * p.1 + i
    let pairs := chans.map fun c =>
      if Nat.blt c l.cinG then
        (wgt p.2.1 p.2.2 c, match l.tapAt oy ox p.2 with | some (y, x) => act y x c | none => l.padVal)
      else (.fin false 0, .fin false 0)
    let x := passFloat path ovf pairs (.fin false 1) (.fin false 1) 0 r.1
    (x.1, r.2 ||| x.2)) (.fin false 0, 0)

/-! ## Pooling (R135, R136) -/

/-- The lane format of a MAXPOOL. -/
def poolLane (fmt scale : Nat) : Nat :=
  if Nat.beq scale 0 && Nat.beq fmt 0x02 then 1 else if Nat.beq scale 0 && inRange fmt 0x12 0x16 then 2 else 0

/-- The input values of a window. -/
def LayerRun.inputs (l : LayerRun) (inp : Nat → Nat → Val) (oy ox : Nat) : List Val :=
  (l.window oy ox).filterMap fun t => t.map fun p => inp p.1 p.2

/-- MAXPOOL of one position, as a code of its lane format, with the flags. -/
def LayerRun.maxPool (l : LayerRun) (inp : Nat → Nat → Val) (oy ox : Nat) : Nat × Nat :=
  let lane := poolLane l.fmt l.scale
  let code (v : Val) : Nat := ((laneFmt lane).convert v 0 false).1
  match l.inputs inp oy ox with
  | [] => (code l.padVal, 0)
  | x :: xs =>
    xs.foldl (fun a y => let r := laneOp 0x04 lane 0 false a.1 (code y) 0; (r.1, a.2 ||| r.2))
      (code x, if x.isNaN then fxNanIn else 0)

/-- AVGPOOL of one position in FP32: the taps are added in order, and divided by their count; the pad taps take part in
AVGPOOL_INCL alone.  An empty window sets no flag. -/
def LayerRun.avgPool (l : LayerRun) (inp : Nat → Nat → Val) (oy ox : Nat) (ovf : Bool) : Val × Nat :=
  let incl := Nat.beq l.op 2
  let vals := if incl then (l.window oy ox).map fun t => match t with | some p => inp p.1 p.2 | none => l.padVal
    else l.inputs inp oy ox
  let empty := (l.inputs inp oy ox).isEmpty
  if empty && !incl then (l.padVal, 0)
  else
    let sum := chainSum (fAdd fp32 0 ovf) vals
    let r := fDiv fp32 0 ovf sum.1 (nat32 vals.length)
    (r.1, if empty then 0 else sum.2 ||| r.2)

/-! ## Stripes (R138 to R141) -/

/-- The output rows of engine `j` of `e`, of `o` rows in all: first, and one past the last (R138). -/
def stripeOf (o e j : Nat) : Nat × Nat := (j * o / e, (j + 1) * o / e)

/-- Rows `r` of each image of a batch of `n` images, which lie one behind the other with `o` rows each (R138). -/
def batchRows (o n : Nat) (r : Nat × Nat) : List Nat :=
  (List.range n).flatMap fun i => (List.range (r.2 - r.1)).map fun k => i * o + r.1 + k

/-- One step backward over a fused layer: the rows of its input that rows `a` to `b` − 1 of its output need (R141). -/
def LayerRun.backRows (l : LayerRun) (r : Int × Int) : Int × Int :=
  (max (r.1 * l.sh - l.pt) 0, min ((r.2 - 1) * l.sh - l.pt + l.dh * ((l.kh : Int) - 1) + 1) l.inH)

/-- The rows of each layer's input that the last rows of a stack need, from the last layer backward (R141). -/
def stackRows : List LayerRun → Int × Int → Int × Int
  | [], r => r
  | l :: ls, r => l.backRows (stackRows ls r)

/-- Layer `i` reads what other engines produce: it is not fused, or the first of its stack (R140). -/
def firstOfStack (ls : List LayerRun) (i : Nat) : Bool :=
  match ls[i]? with
  | some l => Nat.beq l.fuse 0xFF || Nat.beq i 0 || (match ls[i - 1]? with | some k => !(Nat.beq k.fuse l.fuse) | none => true)
  | none => false

/-- The layers of the stack that begins with layer `i`: a layer that is not fused stands alone. -/
def stackFrom (ls : List LayerRun) (i : Nat) : List LayerRun :=
  match ls.drop i with
  | [] => []
  | l :: r => if Nat.beq l.fuse 0xFF then [l] else l :: r.takeWhile fun k => Nat.beq k.fuse l.fuse

/-- The output rows of layer `i` that engine `j` of `e` computes in each image: its stripe of an unfused layer, and what its
stripe of the last layer needs of the layers of a stack before (R138, R141). -/
def layerRows (ls : List LayerRun) (e j i : Nat) : Nat × Nat :=
  match stackFrom ls i with
  | [] => (0, 0)
  | l :: rest =>
    let s := stripeOf ((rest.getLast?).getD l).outH e j
    if Nat.ble s.2 s.1 then (0, 0)
    else
      let r := stackRows rest (s.1, s.2)
      (r.1.toNat, r.2.toNat)

/-- The input columns that some output column names (R130). -/
def LayerRun.cols (l : LayerRun) : List Nat :=
  (List.range l.inW).filter fun x => (List.range l.outW).any fun o => l.namesCol o x

/-- The rows of the input of the stack that begins with layer `i` which engine `j` of `e` fetches in each image: none without an
output row of its own (R138, R139, R141).  DEDUCED, log entry 75: of the rows a to b − 1 of R141, and of the columns of R132, those
that no tap names are not read (R130). -/
def fetchRows (ls : List LayerRun) (e j i : Nat) : List Nat :=
  match ls[i]? with
  | some l => if l.cols.isEmpty then [] else l.rowsFor (layerRows ls e j i).1 (layerRows ls e j i).2
  | none => []

/-- Engine `j` of `e` has no row of layer `i` to compute. -/
def stripeEmpty (ls : List LayerRun) (e j i : Nat) : Bool :=
  Nat.ble (layerRows ls e j i).2 (layerRows ls e j i).1

/-- The stripes that hold no row: they are complete at once (R138). -/
def emptyStripes (ls : List LayerRun) (e : Nat) : List (Nat × Nat) :=
  (List.range ls.length).flatMap fun i => ((List.range e).filter fun j => stripeEmpty ls e j i).map fun j => (i, j)

/-- The sweeps of the layers in order, each with its layer.  DESIGN CHOICE, log entry 75: a layer of several output tiles on an engine
makes each sweep once, over all its tiles. -/
def sweepsOf (ls : List LayerRun) : List (Nat × Sweep) :=
  (List.range ls.length).flatMap fun i => match ls[i]? with | some l => l.sweeps.map fun w => (i, w) | none => []

/-- The engines, by their place among `e`, whose stripes of the layer that layer `i` reads hold a row that engine `j` needs; none
where the stack reads the job's input, or goes on within the engine (R140). -/
def needsFrom (ls : List LayerRun) (e j i : Nat) : List (Nat × Nat) :=
  match ls[i]? with
  | none => []
  | some l =>
    match layerSrc l.bytes with
    | none => []
    | some m =>
      if !(firstOfStack ls i) then []
      else
        match ls[m]? with
        | none => []
        | some p =>
          let rows := fetchRows ls e j i
          ((List.range e).filter fun k => rows.any fun y => inRange y (stripeOf p.outH e k).1 (stripeOf p.outH e k).2).map fun k => (m, k)

/-! ## The stripe copy and the pad row (R132) -/

/-- The pad row of a layer: a row of padded width, filled with the pad code. -/
def LayerRun.padRow (l : LayerRun) : List Byte :=
  pack l.fmt (List.replicate ((l.pl + l.inW + l.pr) * l.cpad) l.pad)

/-- The bands of columns of a copied row: first column, count, and the pad positions before and behind it.  Columns that no tap
names lie between the bands, and count as pads at the ends where the descriptor has room for them (R110, R130). -/
def LayerRun.colBands (l : LayerRun) : List (Nat × Nat × Nat × Nat) :=
  let runs := runsOf l.cols
  let last := runs.length - 1
  (runs.zip (List.range runs.length)).map fun x =>
    let first := Nat.beq x.2 0
    let a := if first && Nat.blt 255 (l.pl + x.1.1) then 0 else x.1.1
    let e := if Nat.beq x.2 last && Nat.blt 255 (l.pr + l.inW - (x.1.1 + x.1.2)) then l.inW else x.1.1 + x.1.2
    (a, e - a, if first then l.pl + a else 0, if Nat.beq x.2 last then l.pr + l.inW - e else 0)

/-- The DMA descriptor of the copy of `n` input rows, from the source address of the first on, over a band of columns; each row of
the descriptor is one input position.  DESIGN CHOICE, log entry 75: ESZ is 0x0 and PADV the pad code, as the table of R132 has
them, for pad codes of more than a byte too. -/
def LayerRun.copyDesc (l : LayerRun) (src dst n space cls : Nat) (c : Nat × Nat × Nat × Nat) : List Byte :=
  let d1 := l.posBytes
  let padT := c.2.2.1
  leBytes 8 (src + c.1 * d1) ++ leBytes 8 (dst + (l.pl + c.1 - padT) * d1) ++ leBytes 2 d1 ++ leBytes 2 c.2.1 ++ leBytes 2 n ++
    leBytes 1 1 ++ leBytes 1 0 ++ leBytes 4 d1 ++ leBytes 4 (d1 * l.inW) ++ leBytes 4 d1 ++
    leBytes 4 (d1 * (l.pl + l.inW + l.pr)) ++ leBytes 2 0 ++ leBytes 1 padT ++ leBytes 1 c.2.2.2 ++ leBytes 4 l.pad ++
    leBytes 1 space ++ leBytes 1 cls ++ leBytes 1 1 ++ leBytes 13 0

/-- The descriptors of the bands of rows that engine `j` of `e` copies for the stack that begins with layer `i`, in `n` images: the
rows lie one behind the other from `dst` on; `src` is the address of the input's first row. -/
def stripeDescs (ls : List LayerRun) (e j i n src dst space cls : Nat) : List (List Byte) :=
  match ls[i]? with
  | none => []
  | some l =>
    let row := l.posBytes * l.inW
    let out := l.posBytes * (l.pl + l.inW + l.pr)
    let bands := (List.range n).flatMap fun im => (runsOf (fetchRows ls e j i)).map fun b => (im * l.inH + b.1, b.2)
    (bands.foldl (fun a b =>
      (a.1 ++ l.colBands.map (l.copyDesc (src + b.1 * row) (dst + a.2 * out) b.2 space cls), a.2 + b.2))
      (([] : List (List Byte)), 0)).1

/-! ## The LDA of a tap (R132, R139) -/

/-- The rows of a layer's input that lie in engine `j`'s memory for each image, in order: what it has fetched, or within a stack
what it has computed. -/
def heldRows (ls : List LayerRun) (e j i : Nat) : List Nat :=
  if firstOfStack ls i then fetchRows ls e j i
  else
    let r := layerRows ls e j (i - 1)
    (List.range (r.2 - r.1)).map fun k => r.1 + k

/-- Where the LDA of a tap starts for output row `y` of the batch: in the stored row of its input row, or, where the tap falls on a
pad row, in the pad row; `copy` and `pad` are the places of both in engine memory, `t` the tap, the first output column and the
slice. -/
def LayerRun.tapSrc (l : LayerRun) (rows : List Nat) (copy pad y : Nat) (t : Nat × Nat × Nat × Nat) : Nat :=
  let width := l.posBytes * (l.pl + l.inW + l.pr)
  let row := match (inside (tapIndex (y % l.outH) l.sh l.pt l.dh t.1) l.inH).bind fun r => rows.idxOf? r with
    | some q => copy + (y / l.outH * rows.length + q) * width
    | none => pad
  row + (t.2.2.1 * l.sw + t.2.1 * l.dw) * l.posBytes + packedBytes l.fmt (32 * t.2.2.2)

/-- PITCH of the LDA of a tap, in granules. -/
def LayerRun.tapPitch (l : LayerRun) : Nat := l.sw * l.posBytes / 16

/-- A command word with its field of `n` bits at bit `lo` set. -/
def setTile (w lo n v : Nat) : Nat := w - (tileField w lo n).toNat * 2 ^ lo + v % 2 ^ n * 2 ^ lo

/-- A NOP with the TAG and SYNC of a command. -/
def nopWord (w : Nat) : Nat := bitsOf w 31 24 * 2 ^ 24 + bitsOf w 16 16 * 2 ^ 16

end Sys2Proof.Machine
end

