-- ==== Sys2Proof/Machine/Jobs.lean ====
section
/-!
DEFINITION. Jobs: their checks, placement, start, faults and completion (05_sliding_window_operators R132, R133, R138 to R140;
07_control_plane R187 to R193; 08_partitions_and_scheduling R219 to R226; 16_safety_and_errors R459 to R462).
-/

namespace Sys2Proof.Machine

/-! ## Fields of a JOB entry (R187) -/

def jobModel (b : List Byte) : Nat := fieldAt b 32 4
def jobDuration (b : List Byte) : Nat := fieldAt b 36 4
def jobRelease (b : List Byte) : Nat := fieldAt b 40 8
def jobDeadline (b : List Byte) : Nat := fieldAt b 48 8
def jobHint (b : List Byte) : Nat := fieldAt b 56 2
def jobCheck (b : List Byte) : Nat := fieldAt b 58 1
def jobFmtf (b : List Byte) : Nat := fieldAt b 59 1
def jobNslot (b : List Byte) : Nat := fieldAt b 70 1
def jobSlotList (b : List Byte) : Nat := fieldAt b 80 8

/-- TYPE of the streams a job runs: FMTF selects dense or sparse (R223). -/
def jobType (b : List Byte) : Nat := if bitAt (jobFmtf b) 1 then 2 else 1

/-- The commands of the stream of a type and INDEX, if the model holds one. -/
def Model.stream (m : Model) (type idx : Nat) : Option (List Nat) :=
  (m.streams.find? fun x => Nat.beq x.1 type && Nat.beq x.2.1 idx).map (·.2.2)

/-! ## Admission (R193, R219) -/

/-- The job's input size (R124). -/
def inputSize (man b : List Byte) : Nat × Nat :=
  if Nat.beq (fieldAt man 7 1) 0 then (fieldAt man 8 2, fieldAt man 10 2) else (fieldAt b 64 2, fieldAt b 66 2)

/-- The window layers of a job, or the first failure of R126 among them. -/
def jobLayers (man b : List Byte) : Checked (List LayerRun) :=
  layersFrom man (fieldAt b 60 4) (bitAt (jobFmtf b) 0) (inputSize man b) (manWins man) []

/-- The layers of a job that admission has taken. -/
def layersOf (man b : List Byte) : List LayerRun := match jobLayers man b with | .ok ls => ls | .bad _ _ => []

/-- The buffers of the slots: inline, or read from the slot table (R188, R531).  The spec does not say how they reach the
engines' DMA descriptors: the model takes them for the checks of admission, the golden check, the statistics and the stored
scores alone (DESIGN CHOICE, log entry 72). -/
def State.jobSlots (s : State) (n : Nat) (b : List Byte) : Checked (List Nat) × State :=
  let k := jobNslot b
  if Nat.beq (jobSlotList b) 0 then (.ok ((List.range k).map fun i => fieldAt b (88 + 8 * i) 8), s)
  else
    match s.entryRead (s.unitReq .miller (fieldAt b 2 1) n) (jobSlotList b) (8 * k) with
    | (.ok t, s1) => (.ok ((List.range k).map fun i => fieldAt t (8 * i) 8), s1)
    | (.bad st d, s1) => (.bad st d, s1)

/-- Steps 1 to 4 of admission for a job of context `n`: its model, or the status and DETAIL of the first failure. -/
def State.admission (s : State) (n : Nat) (b : List Byte) : Checked Model × State :=
  match s.modelOf n (jobModel b) with
  | none => (.bad stModel 32, s)
  | some m =>
    if m.unloading then (.bad stModel 32, s)
    else if !(Nat.beq (jobNslot b) (manSlots m.manifest)) then (.bad stModel 70, s)
    else if (m.stream (jobType b) 0).isNone then (.bad stModel 59, s)
    else
      match s.jobSlots n b with
      | (.bad st d, s1) => (.bad st d, s1)
      | (.ok slots, s1) =>
        let streams := (m.streams.filter fun x => Nat.beq x.1 (jobType b)).map (·.2.2)
        let refused := match (s1.ctx n).kvArea with | some a => a.enable && a.refused | none => false
        let slotUs := match s1.part m.part with | some p => p.slotUs | none => 0
        let d := jobDuration b
        ((firstBad stShape ((List.range slots.length).map fun k =>
            (k, Nat.beq ((slots[k]?).getD 0 % 2 ^ fieldAt (slotAt m.manifest k) 4 1) 0))).bind fun _ =>
          (firstBad stFormat ((List.range slots.length).map fun k =>
            let f := fieldAt (slotAt m.manifest k) 1 1
            (k, scaleAllows (bitsOf f 6 5) (f % 32)))).bind fun _ =>
          (need (streams.all streamFormatsOk) stFormat noDetail).bind fun _ =>
          (jobLayers m.manifest b).bind fun _ =>
          (need (!(refused && streams.any usesKv)) stShape noDetail).bind fun _ =>
          (need (inRange d 1 8388608 && (Nat.beq slotUs 0 || Nat.ble d slotUs)) stDuration 36).bind fun _ => .ok m, s1)

/-! ## Golden records (16_safety_and_errors R459 to R462) -/

/-- The golden record in force for ring `r` of context `n`. -/
def State.goldenOf (s : State) (n r : Nat) : Option Nat :=
  (List.range 4).find? fun g =>
    let a := Reg.TCX_GOLD_CFG g
    s.flag a Fld.TCX_GOLD_CFG_EN && Nat.beq (s.fld a Fld.TCX_GOLD_CFG_CTX) n && Nat.beq (s.fld a Fld.TCX_GOLD_CFG_RING) r

/-- Miller's CHECK record of a golden run that failed or was rejected (R461). -/
def State.goldenFail (s : State) (g : Nat) : State :=
  (s.count (Reg.TCX_GOLD_STAT g) Fld.TCX_GOLD_STAT_MISM 1).report
    { unit := .miller, sub := g, sev := sevCheck, code := 0x03, path := pathNone, info := 0 }

/-- A value passes: |v − e| ≤ 2^(−TOL) × |e|; a NaN fails (R461). -/
def goldenPass (v e : Val) (tol : Nat) : Bool :=
  v.isFin && e.isFin && decide ((if v.q - e.q < 0 then e.q - v.q else v.q - e.q) ≤ pow2 (-(tol : Int)) * (if e.q < 0 then -e.q else e.q))

/-- The signatures of a golden job are checked in its last slot (R461). -/
def State.goldenCheck (s : State) (g : Nat) (j : Job) : State :=
  let req := s.unitReq .miller (fieldAt j.bytes 2 1) j.ctx
  match s.jobSlots j.ctx j.bytes with
  | (.bad _ _, s1) => s1.goldenFail g
  | (.ok slots, s1) =>
    match s1.fetch req ((slots.getLast?).getD 0) 12 with
    | (.okay, bs, s2) =>
      let e := [Reg.TCX_GOLD_EXP_SUM g, Reg.TCX_GOLD_EXP_SQ g, Reg.TCX_GOLD_EXP_MAX g]
      let tol := s2.fld (Reg.TCX_GOLD_CFG g) Fld.TCX_GOLD_CFG_TOL
      if (List.range 3).all fun i =>
          goldenPass (fp32.decode (fieldAt bs (4 * i) 4)) (fp32.decode (s2.reg ((e[i]?).getD 0)).toNat) tol
      then s2 else s2.goldenFail g
    | (_, _, s2) => s2.goldenFail g

/-! ## The job list -/

/-- `s` with job `j` in place of the job of its number. -/
def State.setJob (s : State) (j : Job) : State := { s with jobs := s.jobs.map fun k => if Nat.beq k.no j.no then j else k }

/-- The job of a number. -/
def State.jobOf (s : State) (no : Nat) : Option Job := s.jobs.find? fun j => Nat.beq j.no no

/-- A job that admission has taken: ready, on no lane yet. -/
def HeldEntry.newJob (h : HeldEntry) (no n r : Nat) (m : Model) (rel key : Nat) : Job :=
  { no, ctx := n, ring := r, idx := h.idx, bytes := h.bytes, jobNo := h.jobNo, relNs := rel, keyNs := key, lane := none,
    part := m.part, engines := [], toStart := [], running := [], tStart := none, tEnd := 0, placedAt := 0, fx := 0, fault := none,
    epoch := 0, stream := 0, grants := [], laneless := false, layers := layersOf m.manifest h.bytes, stripes := [] }

/-- The submission entry of a job. -/
def Job.entry (j : Job) : HeldEntry :=
  { bytes := j.bytes, idx := j.idx, readNs := 0, released := some j.relNs, started := true, stop := 0, jobNo := j.jobNo }

/-- The mask of partition units of a job's lane (R214). -/
def Job.mask (j : Job) : Nat := maskOf ((j.engines.map fun te => te / 4).eraseDups)

/-- The engines of a job no longer work for it: they are idle, unless a fault has left them otherwise, and keep no grant
(R163). -/
def State.freeEngines (s : State) (j : Job) : State :=
  j.engines.foldl (fun s te =>
    s.setEng te { s.eng te with job := none, feed := [], wcheck := false, wdtStart := none,
                                kvWins := Vector.replicate 4 KvWindow.reset }) s

/-- A job leaves the chip: its completion entry is written with the ending that its faults, its deadline and its engines give
(R191, R194, R214, R226, R461). -/
def State.endJob (s : State) (j : Job) : State :=
  let late := !(Nat.beq (jobDeadline j.bytes) 0) && Nat.blt (jobDeadline j.bytes) s.now
  let status := match j.fault with | some f => f.1 | none => if late then stOkLate else stOk
  let detail := match j.fault with
    | some f => if Nat.beq f.2.2 0 then 0 else f.2.1 * 256 + f.2.2
    | none => 0
  let s1 := (s.freeEngines j)
  let s2 := { s1 with jobs := s1.jobs.filter fun k => !(Nat.beq k.no j.no) }
  let ok := signals status
  let last : List LaneLast := s2.laneLast.filter fun l => !(Nat.beq l.part j.part && Nat.beq l.lane (j.lane.getD 0))
  let s3 : State := { s2 with laneLast :=
    if ok then last ++ [{ part := j.part, lane := j.lane.getD 0, ctx := j.ctx, model := jobModel j.bytes,
                          fout := if bitAt (fieldAt j.bytes 1 1) 2 then some (fieldAt j.bytes 26 2) else none }] else last }
  let ran := s3.tb.elapsed - j.placedAt
  let s4 := if ok && Nat.blt (jobDuration j.bytes * usE) ran then
      s3.log (logRecord (1 + (j.engines.head?.getD 0) / 8) 1 j.ctx 0x0003 j.jobNo j.entry.userTag
        [ran / usE, jobDuration j.bytes])
    else s3
  let s5 := match s4.goldenOf j.ctx j.ring with
    | some g => if ok then s4.goldenCheck g j else s4
    | none => s4
  let s6 := match s5.reclaim j.ctx with
    | (.okay, t) => t
    | (_, t) => t.refuseArea j.ctx
  s6.endEntry j.ctx j.ring j.entry
    { status, detail, result := j.mask, fx := j.fx, tStart := (j.tStart.getD 0), tEnd := j.tEnd }

/-- The job ends where no engine of it runs or is still to start. -/
def State.endIfDone (s : State) (no : Nat) : State :=
  match s.jobOf no with
  | some j => if j.running.isEmpty && j.toStart.isEmpty then s.endJob j else s
  | none => s

/-- Engine `te` stops working for a job: its FX joins the job's summary (R71). -/
def State.leaveJob (s : State) (te : Nat) : State :=
  match (s.eng te).job with
  | none => s
  | some no =>
    let s0 := s.setEng te { s.eng te with job := none }
    match s.jobOf no with
    | none => s0
    | some j =>
      s0.setJob { j with running := j.running.filter (fun k => !(Nat.beq k te)), toStart := j.toStart.filter (fun k => !(Nat.beq k te)),
                         fx := j.fx ||| s.fld (Reg.TEN_FX te) Fld.TEN_FX_FX, tEnd := s.now }

/-! ## Engines stop (R116, R120, R226) -/

/-- The units, queues and buffers of an engine are empty for the next job; its scalar registers are kept (R86; log entry 70). -/
def Engine.emptied (e : Engine) : Engine :=
  { e with arrays := Vector.replicate 4 ArrayPipe.reset, loads := [], fetches := [], dmas := [], issued := 0, waiting := none,
           kvWins := Vector.replicate 4 KvWindow.reset, kvlBusy := false, wdtStart := none, feed := [], wcheck := false,
           sweep := 0, tapTable := [] }

/-- An engine reset clears every unit, queue, buffer and scoreboard entry, the scalar registers with the vector unit (R120). -/
def Engine.cleared (e : Engine) : Engine := { e.emptied with sregs := Vector.replicate 16 0#32, faultEnd := .idle }

/-- A fault stops every unit: what had started and not ended never ends; buffers and queues keep what they hold (R116). -/
def Engine.stopped (e : Engine) (f : FaultEnd) : Engine :=
  { e with arrays := e.arrays.map fun p => { p with macs := [] }, loads := [], fetches := [], dmas := [], waiting := none,
           wdtStart := none, faultEnd := f }

/-- STATE of an engine changes, and it fetches no more. -/
def State.engineTo (s : State) (te st : Nat) : State :=
  (s.setFld (Reg.TEN_STATUS te) Fld.TEN_STATUS_STATE st).lower (Reg.TEN_CTRL te) Fld.TEN_CTRL_ENABLE

/-- Engine `te` is idle as `e`, with nothing in its command queue. -/
def State.engineIdles (s : State) (te : Nat) (e : Engine) : State :=
  let tail := s.fld (Reg.TEN_CQ_TAIL te) Fld.TEN_CQ_TAIL_TAIL
  ((s.setEng te e).setFld (Reg.TEN_CQ_HEAD te) Fld.TEN_CQ_HEAD_HEAD tail).engineTo te 0

/-- An engine reset: every unit, queue and buffer is cleared, the command queue is empty, and the engine is idle (R120). -/
def State.engineReset (s : State) (te : Nat) : State := s.engineIdles te (s.eng te).cleared

/-- The cluster core stops an engine at the end of its current command; it is then idle. -/
def State.stopEngine (s : State) (te : Nat) : State :=
  let s1 := s.leaveJob te
  s1.engineIdles te (s1.eng te).emptied

/-- A job is faulted: the first fault sets its status, and its other engines stop (R116, R120, R226). -/
def State.faultJob (s : State) (no status te cause : Nat) : State :=
  match s.jobOf no with
  | none => s
  | some j =>
    let f := match j.fault with | some f => some f | none => some (status, te, cause)
    let s1 := s.setJob { j with fault := f, toStart := [] }
    let s2 := (j.running.filter fun k => !(Nat.beq k te)).foldl (fun s k => s.stopEngine k) s1
    let s3 := (s2.leaveJob te)
    let s4 := j.engines.foldl (fun s k => s.setEng k { s.eng k with job := none }) s3
    s4.endIfDone no

/-- Completion status, severity and STATE afterwards of a cause (R120); `inEngine`: cause 0x2 met in engine memory. -/
def causeStatus : Nat → Nat
  | 1 | 6 | 7 | 8 => stCheck
  | 2 => stMemUe
  | 3 => stTranslation
  | 4 => stWatchdog
  | _ => stEngineReset

def causeSev : Nat → Nat
  | 1 | 6 | 7 | 8 => sevCheck
  | 4 => sevTimeout
  | _ => sevUE

/-- The engine enters "under test": its test cycle starts afresh (R117, R458). -/
def State.underTest (s : State) (te : Nat) : State :=
  (s.engineTo te 4).setTest te { next := 0, from_ := s.tb.elapsed, running := false, fault := true }

/-- What a command stops its engine with: the cause, the record's SUB, PATH and INFO, whether bad data lay in engine memory, and
the TAG where it is not that of the command being issued. -/
structure Stop where
  cause    : Nat
  sub      : Nat
  path     : Nat
  info     : Nat
  inEngine : Bool
  tag      : Option Nat
  deriving DecidableEq, Repr

/-- The error record of a cause (R442). -/
def Stop.record (x : Stop) (te : Nat) : ErrRecord :=
  { unit := .te (Fin.ofNat 64 te), sub := x.sub, sev := causeSev x.cause, code := x.cause, path := x.path, info := x.info }

/-- The engine afterwards (R120). -/
def Stop.ending (x : Stop) : FaultEnd :=
  if Nat.beq x.cause 1 || Nat.beq x.cause 8 || (Nat.beq x.cause 2 && x.inEngine) then .test
  else if Nat.beq x.cause 4 || Nat.beq x.cause 5 || Nat.beq x.cause 9 then .reset
  else .idle

/-- An engine fault (R116, R120): the engine is stopped on fault with cause and TAG, the cause is reported, and the job ends with
the cause's status; the other causes of the same moment, `more`, are only reported. -/
def State.engineFault (s : State) (te : Nat) (x : Stop) (more : List Stop) : State :=
  let a := Reg.TEN_STATUS te
  let tag := x.tag.getD 0
  let s1 := ((s.setFld a Fld.TEN_STATUS_CAUSE x.cause).setFld a Fld.TEN_STATUS_FAULT_TAG tag).report (x.record te)
  let s2 := (more.foldl (fun s y => s.report (y.record te)) s1).log (traceRecord 225 tag [te, x.cause])
  let s3 := (s2.setEng te ((s2.eng te).stopped x.ending)).engineTo te 3
  match (s2.eng te).job with
  | some k => s3.faultJob k (causeStatus x.cause) te x.cause
  | none => s3

/-- A fault of engine `te` whose record names the engine. -/
def State.plainFault (s : State) (te cause tag : Nat) : State :=
  s.engineFault te { cause, sub := 0, path := pathOf (.te (Fin.ofNat 64 te)), info := 0, inEngine := false, tag := some tag } []

/-- The engine that a fault has stopped becomes idle, with a reset or without, or enters "under test" (R117, R120). -/
def State.leaveFault (s : State) (te : Nat) : State :=
  match (s.eng te).faultEnd with
  | .idle => s.engineTo te 0
  | .reset => s.engineReset te
  | .test => s.underTest te

/-- An engine is reset; one under test or offline, or bound for a test after its fault, stays so (R117, R120). -/
def State.resetKept (s : State) (te : Nat) : State :=
  let st := s.fld (Reg.TEN_STATUS te) Fld.TEN_STATUS_STATE
  let s1 := s.engineReset te
  if Nat.beq st 3 && decide ((s.eng te).faultEnd = .test) then s1.underTest te
  else if Nat.ble 4 st then s1.setFld (Reg.TEN_STATUS te) Fld.TEN_STATUS_STATE st
  else s1

/-! ## Placement and start (R221 to R224, R460) -/

/-- The lane chosen among free ones: affinity, hint, lowest (R222); and whether it is the affinity lane. -/
def State.chooseLane (s : State) (j : Job) (p : Partition) (free : List Nat) : Option (Nat × Bool) :=
  let fin := if bitAt (fieldAt j.bytes 1 1) 1 then some (fieldAt j.bytes 24 2) else none
  let affine := free.find? fun l => fin.isSome && s.laneLast.any fun x =>
    Nat.beq x.part j.part && Nat.beq x.lane l && Nat.beq x.ctx j.ctx && Nat.beq x.model (jobModel j.bytes) && decide (x.fout = fin)
  match affine with
  | some l => some (l, true)
  | none =>
    let hint := jobHint j.bytes
    match free.find? fun l => !(Nat.beq hint 0) && (p.lane l).all (bitAt hint) with
    | some l => some (l, false)
    | none => free.head?.map fun l => (l, false)

/-- A job takes a lane: its engines are its own, its epoch is recorded, and the semaphores of its units are 0 (R102, R166,
R223). -/
def State.placeJob (s : State) (j : Job) (p : Partition) (lane : Nat) (affine : Bool) : State :=
  let es := enginesOf (p.lane lane)
  let has1 := match s.modelOf j.ctx (jobModel j.bytes) with | some m => (m.stream (jobType j.bytes) 1).isSome | none => false
  let s1 := s.setJob { j with lane := some lane, engines := es, toStart := es, epoch := (s.ctx j.ctx).epoch,
                              stripes := emptyStripes j.layers es.length,
                              stream := if affine && has1 then 1 else 0 }
  let s2 := es.foldl (fun s te => s.setEng te { s.eng te with job := some j.no }) s1
  { s2 with sems := (p.lane lane).foldl (fun v k => v.set (Fin.ofNat 16 k) (Vector.replicate 32 0)) s2.sems }

/-- Context `n` may have a job placed: ACTIVE, resident with its weights in, and not held back by a bind (R217, R230). -/
def State.mayPlace (s : State) (n : Nat) : Bool :=
  let c := s.ctx n
  s.isActive n && c.resident && c.weightsIn && !(s.heldByBind n)

/-- Where a job would run now: on a free lane of its partition, no share of which is still being zeroed (R218, R221, R222). -/
def State.laneFor (s : State) (j : Job) : Option (Partition × Nat × Bool) :=
  match s.part j.part with
  | none => none
  | some p =>
    if s.mayPlace j.ctx && !(s.beingZeroed p) then (s.chooseLane j p (s.freeLanes p)).map fun l => (p, l.1, l.2) else none

/-- The commands of the stream that a job runs. -/
def State.streamOf (s : State) (j : Job) : List Nat :=
  match (s.modelOf j.ctx (jobModel j.bytes)).bind fun m => m.stream (jobType j.bytes) j.stream with
  | some w => w
  | none => []

/-- The self-tests of CHECK 0x2, which run before the stream (R187). -/
def selfTests (b : List Byte) : List Nat := if bitAt (jobCheck b) 1 then [0x0E + 0xF * 2 ^ 20 + 2 ^ 32] else []

/-! ## Window layers on the engines (R132, R133, R138 to R140; log entry 75) -/

/-- The place of an engine among those of its job. -/
def Job.place (j : Job) (te : Nat) : Nat := (j.engines.takeWhile fun e => !(Nat.beq e te)).length

/-- The words of the feed of a job up to the end of sweep `k`. -/
def State.sweepEnd (s : State) (j : Job) (k : Nat) : Nat :=
  let w := s.streamOf j
  (selfTests j.bytes).length + min w.length ((List.range (k + 1)).foldl (fun a i => max a (Config.sweepEnd w i)) 0)

/-- The engine-memory offset, in the share of partition `p`, of `n` bytes at the granule the stream has for them. -/
def shareAt (p : Partition) (g n : Nat) : Nat := p.eoff * 0x10000 + g % ((p.eshare * 0x10000 - n) / 16 + 1) * 16

/-- The cluster core writes bytes into the engine share of partition `p`, at the granule the stream has for them. -/
def State.putShare (s : State) (te : Nat) (p : Partition) (g : Nat) (bs : List Byte) : State :=
  if bs.isEmpty || Nat.blt (p.eshare * 0x10000) bs.length then s
  else
    s.storeAt (s.unitReq (.clusterCore (Fin.ofNat 8 (te / 8))) (s.fld (Reg.TEN_JOB te) Fld.TEN_JOB_CLASS) 0)
      (engineAt te + shareAt p g bs.length) bs

/-- Command `idx` of stream `w` as it goes to engine `te`: one that works for a row of a window layer which the engine has not to
compute is passed over, and the LDA of a tap gets its start and its PITCH (R132, R138, R139, R141). -/
def State.engineWord (s : State) (te : Nat) (j : Job) (w : List Nat) (idx word : Nat) : Nat :=
  match Config.rowUse w idx with
  | none => word
  | some (i, q) =>
    match j.layers[i]? with
    | none => word
    | some l =>
      let e := j.engines.length
      let k := j.place te
      match (batchRows l.outH (max 1 (Config.images w)) (layerRows j.layers e k i))[q]? with
      | none => nopWord word
      | some y =>
        match Config.tapUse w idx, s.part j.part with
        | some t, some p =>
          if Nat.beq (word % 64) 2 then
            let src := l.tapSrc (heldRows j.layers e k i) (Config.layerPlace w i 3) (shareAt p (Config.layerPlace w i 0) l.padRow.length) y t
            setTile (setTile word 32 17 (src / 16)) 90 16 l.tapPitch
          else word
        | _, _ => word

/-- The words that engine `te` of a job is fed: the stream as R189 rewrites it and as the cluster core sequences it over the
stripes of the window layers, behind the self-tests. -/
def State.feedOf (s : State) (te : Nat) (j : Job) : List Nat :=
  let w := s.streamOf j
  let words := w.map (feedWord (fieldAt j.bytes 68 2) (fieldAt j.bytes 72 4))
  selfTests j.bytes ++ (if j.layers.isEmpty then words else (words.zip (List.range words.length)).map fun x => s.engineWord te j w x.2 x.1)

/-- What the cluster core writes at job start for the window layers of a job: the pad row of each layer that has pads, and the
descriptors of the stripe copy of each stack (R132, R139). -/
def State.putWindows (s : State) (te : Nat) (j : Job) : State :=
  match s.part j.part with
  | none => s
  | some p =>
    let w := s.streamOf j
    let e := j.engines.length
    let k := j.place te
    (List.range j.layers.length).foldl (fun s i =>
      match j.layers[i]? with
      | none => s
      | some l =>
        let at_ := Config.layerPlace w i
        if stripeEmpty j.layers e k i then s
        else
          let s1 := if l.resize then s else s.putShare te p (at_ 0) l.padRow
          if firstOfStack j.layers i then
            s1.putShare te p (at_ 1)
              (stripeDescs j.layers e k i (max 1 (Config.images w)) (at_ 2) (at_ 3) (at_ 4 % 16) (fieldAt j.bytes 2 1)).flatten
          else s1) s

/-- An engine goes on to sweep `k`: its tap table is loaded. -/
def State.toSweep (s : State) (te : Nat) (j : Job) (k : Nat) : State :=
  let e := s.eng te
  s.setEng te { e with sweep := k, tapTable := match (sweepsOf j.layers)[k]? with | some x => x.2.taps | none => [] }

/-- Engine `te` starts job `j`, with an empty command queue (R86, R122, R159, R224; log entry 70). -/
def State.startEngine (s : State) (te : Nat) (j : Job) : State :=
  let s1 := match s.kvArea j.ctx with
    | some a => (s.setFld (Reg.TEN_KV_BASE_LO te) Fld.TEN_KV_BASE_LO_BASE_LO (a.base / 2 ^ 28 % 16)).setFld
        (Reg.TEN_KV_BASE_HI te) Fld.TEN_KV_BASE_HI_BASE_HI (a.base / 2 ^ 32)
    | none => s
  let job := Reg.TEN_JOB te
  let s2 := (((s1.setFld job Fld.TEN_JOB_CTX j.ctx).setFld job Fld.TEN_JOB_CLASS (fieldAt j.bytes 2 1)).setFld job
    Fld.TEN_JOB_NAN_ON_OVF (jobFmtf j.bytes % 2)).setFld (Reg.TEN_WDT te) Fld.TEN_WDT_LIMIT_US (2 * jobDuration j.bytes)
  let s3 := ((s2.lower (Reg.TEN_FX te) Fld.TEN_FX_FX).setFld (Reg.TEN_STATUS te) Fld.TEN_STATUS_STATE 1).raise
    (Reg.TEN_CTRL te) Fld.TEN_CTRL_ENABLE
  let head := s3.fld (Reg.TEN_CQ_HEAD te) Fld.TEN_CQ_HEAD_HEAD
  let s4 := (s3.setFld (Reg.TEN_CQ_TAIL te) Fld.TEN_CQ_TAIL_TAIL head).setEng te { (s3.eng te).emptied with
    job := some j.no, feed := s3.feedOf te j, wcheck := bitAt (jobCheck j.bytes) 0, wdtStart := some s.tb.elapsed }
  let s5 := (s4.toSweep te j 0).putWindows te j
  let first := j.tStart.isNone
  s5.setJob { j with toStart := j.toStart.filter (fun k => !(Nat.beq k te)), running := j.running ++ [te],
                     tStart := if first then some s.now else j.tStart, placedAt := if first then s.tb.elapsed else j.placedAt }

/-- The time at which an engine of a job may start: engine k of n starts k × 2 / n µs after the first (R224). -/
def State.startDue (s : State) (j : Job) (te : Nat) : Bool :=
  match j.tStart with
  | none => true
  | some _ =>
    Nat.ble (j.placedAt * j.engines.length + j.place te * 2 * usE) (s.tb.elapsed * j.engines.length)

/-- A golden window opens: the golden job of record `g` is placed at once or deferred (R460, R462); `admit` admits the head
entry of its ring. -/
def State.goldenRuns (s : State) (g : Nat) : Option (Nat × Nat × HeldEntry) :=
  let a := Reg.TCX_GOLD_CFG g
  let n := s.fld a Fld.TCX_GOLD_CFG_CTX
  let r := s.fld a Fld.TCX_GOLD_CFG_RING
  let c := s.ctx n
  match c.headOf r with
  | some h =>
    let laneFree := match s.modelOf n (jobModel h.bytes) with
      | some m => match s.part m.part with
        | some p => Nat.beq p.lanes 1 && !(s.beingZeroed p) && (s.freeLanes p).contains 0
        | none => false
      | none => true
    if Nat.beq h.kind 1 && h.released.isNone && h.fenceHolds c.fences && s.mayPlace n && laneFree then some (n, r, h) else none
  | none => none

/-- A deferral of golden record `g` (R460, R462). -/
def State.goldenDefer (s : State) (g : Nat) : State :=
  let st := Reg.TCX_GOLD_STAT g
  let d := s.fld st Fld.TCX_GOLD_STAT_DEFER + 1
  let ndef := max 1 (s.fld (Reg.TCX_GOLD_CFG g) Fld.TCX_GOLD_CFG_NDEF)
  if Nat.ble ndef d then
    (s.setFld st Fld.TCX_GOLD_STAT_DEFER 0).report
      { unit := .miller, sub := g, sev := sevTimeout, code := 0x02, path := pathNone, info := 0 }
  else s.setFld st Fld.TCX_GOLD_STAT_DEFER d

end Sys2Proof.Machine
end

