-- ==== Sys2Proof/Machine/Entries.lean ====
section
/-!
DEFINITION. Submission entries from their reading to their end: checks on reading, start in ring order, the KV queue, the CTX0
commands, and the procedure that Miller applies after every change (06_attention_and_kv_cache R163, R167, R168, R532;
07_control_plane R173 to R193, R203, R206, R207; 08_partitions_and_scheduling R209 to R212, R218, R230).
-/

namespace Sys2Proof.Machine

/-! ## Checks on reading (R185 to R188) -/

/-- The kinds of R186. -/
def entryKinds : List Nat := [0x00, 0x01, 0x02, 0x03, 0x10, 0x11, 0x12, 0x20, 0x21, 0x22, 0x23, 0x24, 0x28, 0x29]

/-- KIND is one of R186 and open to context `n`. -/
def kindAllowed (n kind : Nat) : Bool := entryKinds.contains kind && (Nat.beq n 0 || Nat.blt kind 0x20)

/-- The target of a CTX0 command: CTX0 itself is refused (R173). -/
def targetOk (b : List Byte) : Nat × Bool := (32, inRange (fieldAt b 32 1) 1 32)

/-- The job-specific area of a kind, in ascending offsets (R186 to R188, R168, R209, R212). -/
def areaChecks (b : List Byte) : List (Nat × Bool) :=
  let f := fun o => fieldAt b o 1
  match fieldAt b 0 1 with
  | 0x00 => zeroBytes b 32 128
  | 0x01 =>
    [(58, Nat.ble (f 58) 3), (59, Nat.ble (f 59) 3), (71, zeroAt b 71 1)] ++ zeroBytes b 76 80 ++
      [(80, Nat.beq (jobSlotList b % 8) 0 && (!(Nat.beq (jobSlotList b) 0) || Nat.ble (jobNslot b) 5))]
  | 0x02 => zeroBytes b 49 128
  | 0x03 => zeroBytes b 36 128
  | 0x10 => [(34, Nat.ble (f 34) 1), (35, zeroAt b 35 1)] ++ zeroBytes b 44 128
  | 0x11 => zeroBytes b 40 128
  | 0x12 => zeroBytes b 34 36 ++ zeroBytes b 40 128
  | 0x20 | 0x24 => targetOk b :: zeroBytes b 33 40 ++ zeroBytes b 48 128
  | 0x21 | 0x22 => targetOk b :: zeroBytes b 33 128
  | 0x23 => targetOk b :: (33, Nat.blt (f 33) 8) :: zeroBytes b 34 128
  | 0x28 => zeroBytes b 44 128
  | _ => zeroBytes b 35 128

/-- The checks of an entry on reading: the common bytes, then the job-specific area. -/
def entryChecks (n : Nat) (b : List Byte) : Checked Unit :=
  firstBad stFormat ([(0, kindAllowed n (fieldAt b 0 1)), (1, Nat.ble (fieldAt b 1 1) 7), (2, Nat.ble (fieldAt b 2 1) 15),
    (3, zeroAt b 3 1), (24, Nat.ble (fieldAt b 24 2) 255), (26, Nat.ble (fieldAt b 26 2) 255)] ++ zeroBytes b 28 32 ++
    areaChecks b)

/-! ## Ends of held entries -/

/-- An entry leaves its ring's held entries and ends. -/
def State.finish (s : State) (n r : Nat) (h : HeldEntry) (e : Ending) : State :=
  (s.setHeld n r (((s.ctx n).heldOf r).filter fun x => !(Nat.beq x.jobNo h.jobNo))).endEntry n r h e

/-- An entry has begun and waits for something its own rule names. -/
def State.markStarted (s : State) (n r : Nat) (h : HeldEntry) : State :=
  s.setHeld n r (((s.ctx n).heldOf r).map fun x => if Nat.beq x.jobNo h.jobNo then { h with started := true } else x)

/-- A ready job ends without having been placed. -/
def State.dropJob (s : State) (j : Job) (status : Nat) : State :=
  { s with jobs := s.jobs.filter fun k => !(Nat.beq k.no j.no) }.endEntry j.ctx j.ring j.entry { status }

/-- A placed job is stopped: its engines stop at the end of their commands, and it ends with a status (R176). -/
def State.abortJob (s : State) (j : Job) (status : Nat) : State :=
  let f := match j.fault with | some f => f | none => (status, 0, 0)
  let s1 := s.setJob { j with fault := some f, toStart := [] }
  let s2 := j.running.foldl (fun s te => s.stopEngine te) s1
  (j.engines.foldl (fun s te => s.setEng te { s.eng te with job := none }) s2).endIfDone j.no

/-! ## The KV queue (06 R163, R167, R168, R532) -/

/-- The report of a KV action to who asked for it: the entry ends, or the window's grant is in place, or its engine faults.
DESIGN CHOICE, log entry 73: where the engine or its job has stopped in the meantime the action stands, and only the report is
dropped. -/
def State.kvReport (s : State) (n : Nat) (op : KvOp) (status detail : Nat) : State :=
  match op.src with
  | .entry ring idx =>
    match ((s.ctx n).heldOf ring).find? fun h => h.started && Nat.beq h.idx idx with
    | some h => s.finish n ring h { status, detail }
    | none => s
  | .window te win tag job =>
    let e := s.eng te
    if decide (e.job = job) && e.kvlBusy then
      if Nat.beq status stOk then
        let w := e.kvWins[Fin.ofNat 4 win]
        let s1 := s.setEng te { e with kvlBusy := false, kvWins := e.kvWins.set (Fin.ofNat 4 win) { w with granted := true } }
        match job.bind s1.jobOf with
        | some j => s1.setJob { j with grants := op.seq :: j.grants }
        | none => s1
      else s.plainFault te (if Nat.beq status stMemUe then 2 else 3) tag
    else s

/-- What has become of an action is taken: it waits on, is reported once retiring pages have become free (R166), or leaves the KV
area refused (R532). -/
def kvTake (n : Nat) (op : KvOp) (o : KvOut × State) : State :=
  let setOp := fun (t : State) (x : Option KvOp) => t.setCtx n { t.ctx n with kvOp := x }
  match o with
  | (.waits x, s1) => setOp s1 (some x)
  | (.done st d, s1) =>
    match (setOp s1 none).reclaim n with
    | (.okay, s2) => s2.kvReport n op st d
    | (e, s2) => (s2.refuseArea n).kvReport n op (if Nat.beq st stOk then faultOf e else st) d
  | (.broken e, s1) => ((setOp s1 none).refuseArea n).kvReport n op (faultOf e) 0

/-- The next action of context `n` begins, in the order of arrival, where none is in progress (R167). -/
def State.kvNext (s : State) (n : Nat) : Option State :=
  let c := s.ctx n
  match c.kvOp, c.kvQueue with
  | none, op :: rest =>
    let s1 := s.setCtx n { c with kvQueue := rest }
    some (kvTake n op (s1.beginKv n op))
  | _, _ => none

/-- A fork of `parent` would meet an append grant: a placed job holds one, or an append request on it has arrived (R168, R170). -/
def State.forkWaits (s : State) (n parent : Nat) : Bool :=
  let c := s.ctx n
  let appends := fun (op : KvOp) => decide (op.kind = .append) && Nat.beq op.seq parent
  s.granted n parent || c.kvQueue.any appends || (match c.kvOp with | some op => appends op | none => false)

/-! ## Context descriptors (R178, R179) -/

/-- The checks of a context descriptor, in ascending offsets.  A ring whose LOG2 is out of range has no size to align its base to
but the 4 KiB.  DESIGN CHOICE, log entry 72: a byte of SQ_REL above 0x1 is refused like a reserved field, in a disabled ring too,
though the list of R179 does not name it. -/
def descChecks (b : List Byte) : List (Nat × Bool) :=
  let f := fun o => fieldAt b o 1
  let dirty := bitAt (f 0) 1
  let on := fun r => bitAt (f 21) r
  let aligned := fun (base size : Nat) => Nat.beq (base % max size 4096) 0
  let logOk := fun v => inRange v 6 17
  [(0, Nat.ble (f 0) 7), (1, Nat.ble (f 1) 15 && bitAt (fieldAt b 2 2) (f 1)), (2, Nat.ble (fieldAt b 2 2) 0xFFF),
   (16, inRange (fieldAt b 16 4) 1 2048), (20, logOk (f 20)), (22, zeroAt b 22 1), (23, zeroAt b 23 1),
   (24, aligned (fieldAt b 24 8) (if logOk (f 20) then 32 * 2 ^ f 20 else 4096))] ++
    ((List.range 8).map fun r => (32 + 8 * r, !(on r) ||
      aligned (fieldAt b (32 + 8 * r) 8) (if logOk (f (96 + r)) then 128 * 2 ^ f (96 + r) else 4096))) ++
    ((List.range 8).map fun r => (96 + r, !(on r) || logOk (f (96 + r)))) ++
    ((List.range 8).map fun r => (104 + r, Nat.ble (f (104 + r)) 1)) ++
    [(120, !dirty || !(zeroAt b 120 8)), (128, !dirty || !(zeroAt b 128 8))] ++ zeroBytes b 136 192

/-- A context as its descriptor creates it, without its KV area; shares of an earlier owner may still be being zeroed. -/
def ctxOf (b : List Byte) (zeroing : List Partition) : Ctx :=
  let f := fun o => fieldAt b o 1
  { Ctx.reset with
    signedOnly := bitAt (f 0) 0, pinned := bitAt (f 0) 2, classDef := f 1, classMask := fieldAt b 2 2, graceUs := fieldAt b 4 4,
    msiAddr := fieldAt b 8 8, msiData := fieldAt b 16 4,
    cq := { base := fieldAt b 24 8, log2 := f 20, idx := 0, phase := true }, sqEn := f 21,
    sqBase := Vector.ofFn fun r => fieldAt b (32 + 8 * r.val) 8, sqLog2 := Vector.ofFn fun r => f (96 + r.val),
    sqRel := Vector.ofFn fun r => f (104 + r.val), fenceBase := fieldAt b 112 8, dirtyOn := bitAt (f 0) 1,
    dirtyBase := fieldAt b 120 8, dirtyPages := fieldAt b 128 8, epoch := 1, zeroing }

/-- Every index of the doorbell page of context `n` becomes 0 (R183). -/
def State.clearDoorbells (s : State) (n : Nat) : State :=
  let s1 := (List.range 8).foldl (fun s r =>
    (s.setFld (Reg.DB_SQ_TAIL n r) Fld.DB_SQ_TAIL_TAIL 0).setFld (Reg.DB_SQ_HEAD n r) Fld.DB_SQ_HEAD_HEAD 0) s
  (s1.setFld (Reg.DB_CQ_HEAD n) Fld.DB_CQ_HEAD_HEAD 0).setFld (Reg.DB_CQ_TAIL n) Fld.DB_CQ_TAIL_TAIL 0

/-- Context `n` becomes ACTIVE from its descriptor; the records of a KV area that is not refused are written (R159, R165). -/
def State.create (s : State) (n : Nat) (b : List Byte) : State :=
  let s1 := s.setCtx n { ctxOf b (s.ctx n).zeroing with kvArea := kvAreaFrom s.mem n (b.drop 192) }
  let s2 := match s1.kvArea n with
    | some a => match s1.writeRecords n a with | (.okay, t) => t | (_, t) => t.refuseArea n
    | none => s1
  (s2.clearDoorbells n).setStatus n .active

/-! ## CTX_RESET, CTX_DESTROY and RING_FLUSH (R176, R177) -/

/-- What CTX_RESET and CTX_DESTROY abort: placed jobs, ready jobs, held entries that have not started, and KV actions that
have not begun.  The heads move to the tails. -/
def State.abortAll (s : State) (n : Nat) : State :=
  let s1 := (s.jobs.filter fun j => Nat.beq j.ctx n && j.lane.isSome).foldl (fun s j => s.abortJob j stAbortReset) s
  let s2 := (s1.jobs.filter fun j => Nat.beq j.ctx n).foldl (fun s j => s.dropJob j stAbortReset) s1
  let queued := (s2.ctx n).kvQueue
  let s3 := s2.setCtx n { s2.ctx n with kvQueue := [] }
  let s4 := queued.foldl (fun s op => s.kvReport n op stAbortReset 0) s3
  let s5 := (List.range 8).foldl (fun s r =>
    (((s.ctx n).heldOf r).filter fun h => !h.started).foldl (fun s h => s.finish n r h { status := stAbortReset }) s) s4
  (List.range 8).foldl (fun s r =>
    s.setFld (Reg.DB_SQ_HEAD n r) Fld.DB_SQ_HEAD_HEAD (s.fld (Reg.DB_SQ_TAIL n r) Fld.DB_SQ_TAIL_TAIL)) s5

/-- CTX_RESET of context `n`. -/
def State.resetCtx (s : State) (n : Nat) : State := ((s.abortAll n).setStatus n .active).resetQueues n

/-- CTX_DESTROY of context `n`: entries that have started end as well, its models are unloaded, its partitions unbound and
its shares zeroed, and the units that work in its name are disabled. -/
def State.destroyCtx (s : State) (n : Nat) : State :=
  let s1 := s.abortAll n
  let s2 := (List.range 8).foldl (fun s r =>
    ((s.ctx n).heldOf r).foldl (fun s h => s.finish n r h { status := stAbortReset }) s) s1
  let s3 := if (s2.ctx n).resident then s2.dropResidency n else s2
  let s4 := { s3 with models := s3.models.filter fun m => !(Nat.beq m.ctx n) }
  let s5 := (s4.boundTo n).foldl (fun s x => s.setPart x.1 (some { x.2 with ctx := none, model := none })) s4
  let s6 := s5.disableUnits n
  (s6.setCtx n { Ctx.reset with zeroing := (s6.ctx n).zeroing }).setStatus n .free

/-- RING_FLUSH: the entries of ring `r` of context `n` that are read and not started end with ABORT_EVICTED_QUEUE, KV commands
whose turn has not come among them. -/
def State.flushHeld (s : State) (n r : Nat) : State :=
  let s1 := (s.jobs.filter fun j => Nat.beq j.ctx n && Nat.beq j.ring r && j.lane.isNone).foldl
    (fun s j => s.dropJob j stAbortEvicted) s
  let ours := fun (op : KvOp) => match op.src with | .entry q _ => Nat.beq q r | .window _ _ _ _ => false
  let c := s1.ctx n
  let s2 := (c.kvQueue.filter ours).foldl (fun s op => s.kvReport n op stAbortEvicted 0)
    (s1.setCtx n { c with kvQueue := c.kvQueue.filter fun op => !(ours op) })
  (((s2.ctx n).heldOf r).filter fun h => !h.started).foldl (fun s h => s.finish n r h { status := stAbortEvicted }) s2

/-- An entry of ring `r` of context `n` is read: its bytes, and the state with the head past it, its number counted and its
completion entry reserved.  A read that fails ends the entry and halts the context (R174); DESIGN CHOICE, log entry 72: the head
passes such an entry too, and JOB_NO counts it. -/
def State.readHead (s : State) (n r : Nat) : Option (List Byte) × HeldEntry × State :=
  let c := s.ctx n
  let head := s.fld (Reg.DB_SQ_HEAD n r) Fld.DB_SQ_HEAD_HEAD
  let got := s.fetch (s.millerReq n) (c.sqBase[Fin.ofNat 8 r] + head * 128) 128
  let s1 := got.2.2.passEntry n r
  let c1 := s1.ctx n
  let s2 := s1.setCtx n { c1 with jobNo := c1.jobNo + 1, reserved := c1.reserved + 1 }
  let h : HeldEntry := { bytes := got.2.1, idx := head, readNs := s.now, released := none, started := false, stop := 0,
                         jobNo := c1.jobNo + 1 }
  match got.1 with
  | .okay => (some got.2.1, h, s2)
  | e => (none, h, (s2.endEntry n r { h with bytes := [] } { status := faultOf e }).halt n)

/-- Entries of ring `r` of context `n` before `stop` that are still unread: none once a reset has moved the head past it. -/
def State.unreadBefore (s : State) (n r stop : Nat) : Nat :=
  let size := 2 ^ (s.ctx n).sqLog2[Fin.ofNat 8 r]
  let d := (stop + size - s.fld (Reg.DB_SQ_HEAD n r) Fld.DB_SQ_HEAD_HEAD) % size
  if Nat.ble d (s.unreadEntries n r) then d else 0

/-- RING_FLUSH goes on with one unread entry before `stop`, if one is left and its completion entry can be reserved. -/
def State.flushStep (s : State) (n r stop : Nat) : Option State :=
  if Nat.beq (s.unreadBefore n r stop) 0 then none
  else if !(s.isActive n) then some (s.setFld (Reg.DB_SQ_HEAD n r) Fld.DB_SQ_HEAD_HEAD stop)
  else if !(s.cqRoom n) then none
  else
    match s.readHead n r with
    | (some _, h, s1) => some (s1.endEntry n r h { status := stAbortEvicted })
    | (none, _, s1) => some s1

/-! ## The start of an entry -/

/-- JOB: admission, then it is ready (R193, R219). -/
def State.startJob (s : State) (n r : Nat) (h : HeldEntry) : State :=
  match s.admission n h.bytes with
  | (.bad status detail, s1) => s1.finish n r h { status, detail }
  | (.ok m, s1) =>
    let s2 := s1.setHeld n r (((s1.ctx n).heldOf r).filter fun x => !(Nat.beq x.jobNo h.jobNo))
    let rel := h.released.getD 0
    let key := if Nat.beq (jobRelease h.bytes) 0 then h.readNs else jobRelease h.bytes
    { s2 with jobNext := s2.jobNext + 1, jobs := s2.jobs ++ [h.newJob s2.jobNext n r m rel key] }

/-- MODEL_LOAD (R203, R217): with the context resident it waits for the copy of the weights. -/
def State.startLoad (s : State) (n r : Nat) (h : HeldEntry) : State :=
  let k := fieldAt h.bytes 48 1
  let pack := fieldAt h.bytes 32 8
  match s.checkPack (s.unitReq .miller h.cls n) n k pack (fieldAt h.bytes 40 8) with
  | (.bad status detail, s1) => s1.finish n r h { status, detail }
  | (.ok i, s1) =>
    let x := s1.recordModel n k pack i
    let c := x.2.ctx n
    if c.resident then
      (x.2.setCtx n { c with copying := c.copying ++ [k] }).markStarted n r { h with stop := x.1 }
    else x.2.finish n r h { status := stOk, result := x.1 }

/-- MODEL_UNLOAD: jobs admitted later are refused, and it waits until no job of the model is left (R203). -/
def State.startUnload (s : State) (n r : Nat) (h : HeldEntry) : State :=
  match s.modelOf n (fieldAt h.bytes 32 4) with
  | some m =>
    if m.unloading then s.finish n r h { status := stModel, detail := 32 }
    else
      { s with models := s.models.map fun (x : Model) =>
          if Nat.beq x.ctx n && Nat.beq x.handle m.handle then { x with unloading := true } else x }.markStarted n r h
  | none => s.finish n r h { status := stModel, detail := 32 }

/-- A KV command joins the queue of its context. -/
def State.startKv (s : State) (n r : Nat) (h : HeldEntry) : State :=
  let s1 := s.markStarted n r h
  let c := s1.ctx n
  s1.setCtx n { c with kvQueue := c.kvQueue ++ [kvOpOf r h] }

/-- CTX_CREATE (R179, R531). -/
def State.startCreate (s : State) (r : Nat) (h : HeldEntry) : State :=
  let n := fieldAt h.bytes 32 1
  if !(decide ((s.ctx n).status = .free)) then s.finish 0 r h { status := stFormat, detail := 32 }
  else
    match s.entryRead (s.millerReq 0) (fieldAt h.bytes 40 8) 256 with
    | (.bad status _, s1) => s1.finish 0 r h { status }
    | (.ok b, s1) =>
      match firstBad stFormat (descChecks b) with
      | .bad status detail => s1.finish 0 r h { status, detail }
      | .ok _ => (s1.create n b).finish 0 r h { status := stOk }

/-- A CTX0 command whose target must exist ends, with REJECT_FORMAT where it is FREE. -/
def State.onTarget (s : State) (r : Nat) (h : HeldEntry) (f : State → Nat → State) : State :=
  let n := fieldAt h.bytes 32 1
  if decide ((s.ctx n).status = .free) then s.finish 0 r h { status := stFormat, detail := 32 }
  else (f s n).finish 0 r h { status := stOk }

/-- RING_FLUSH begins: it waits until its last entry has been written. -/
def State.startFlush (s : State) (r : Nat) (h : HeldEntry) : State :=
  let n := fieldAt h.bytes 32 1
  let q := fieldAt h.bytes 33 1
  if decide ((s.ctx n).status = .free) then s.finish 0 r h { status := stFormat, detail := 32 }
  else
    (s.flushHeld n q).markStarted 0 r { h with stop := s.fld (Reg.DB_SQ_TAIL n q) Fld.DB_SQ_TAIL_TAIL }

/-- DIRTY_HARVEST (R207). -/
def State.startHarvest (s : State) (r : Nat) (h : HeldEntry) : State :=
  let n := fieldAt h.bytes 32 1
  let base := fieldAt h.bytes 40 8
  let c := s.ctx n
  if decide (c.status = .free) then s.finish 0 r h { status := stFormat, detail := 32 }
  else if Nat.beq c.dirtyPages 0 then s.finish 0 r h { status := stFormat, detail := 40 }
  else
    (s.setCtx n { c with dirtyOn := !(Nat.beq base 0), dirtyBase := base, dirtyOut := false }).finish 0 r h
      { status := stOk, detail := c.dirtyOut.toNat }

/-- A bind must wait: a pinned context's for an unpinned rival that has a job placed (R230), an unpinned one's that would leave its
own shares for its own placed jobs (log entry 23). -/
def State.bindWaits (s : State) (b : List Byte) : Bool :=
  let n := fieldAt b 32 1
  let k := fieldAt b 33 1
  if (s.ctx n).pinned then (s.bindRivals n k).any s.hasPlaced else s.bindClashes n k && s.hasPlaced n

/-- CTX_BIND: refused, done at once, or begun and waiting. -/
def State.startBind (s : State) (r : Nat) (h : HeldEntry) : State :=
  let n := fieldAt h.bytes 32 1
  let k := fieldAt h.bytes 33 1
  match firstBad stFormat (s.bindChecks h.bytes) with
  | .bad status detail => s.finish 0 r h { status, detail }
  | .ok _ =>
    if Nat.beq (fieldAt h.bytes 34 1) 1 then (s.unbind n k).finish 0 r h { status := stOk }
    else if s.bindWaits h.bytes then s.markStarted 0 r h
    else (s.bind n k).finish 0 r h { status := stOk }

/-- The head entry of a ring starts. -/
def State.startEntry (s : State) (n r : Nat) (h : HeldEntry) : State :=
  match h.kind with
  | 0x00 => s.finish n r h { status := stOk }
  | 0x01 => s.startJob n r h
  | 0x02 => s.startLoad n r h
  | 0x03 => s.startUnload n r h
  | 0x10 | 0x11 | 0x12 => s.startKv n r h
  | 0x20 => s.startCreate r h
  | 0x21 => s.onTarget r h fun s n => s.resetCtx n
  | 0x22 => s.onTarget r h fun s n => s.destroyCtx n
  | 0x23 => s.startFlush r h
  | 0x24 => s.startHarvest r h
  | 0x28 =>
    match firstBad stFormat (s.partChecks h.bytes) with
    | .bad status detail => s.finish n r h { status, detail }
    | .ok _ => (s.setPartition h.bytes).finish n r h { status := stOk }
  | _ => s.startBind r h

/-- The head entry of ring `r` of context `n`, if it may start: its fence-in holds, and it is a released JOB of a ring that is
not golden, or another kind with no earlier job of the ring unplaced; a fork also waits for the grants on its parent (R168,
R181, R190, R460). -/
def State.startable (s : State) (n r : Nat) : Option HeldEntry :=
  match (s.ctx n).headOf r with
  | none => none
  | some h =>
    let ok :=
      if Nat.beq h.kind 1 then h.released.isSome && (s.goldenOf n r).isNone
      else !(s.jobs.any fun j => Nat.beq j.ctx n && Nat.beq j.ring r && j.lane.isNone) &&
        !(Nat.beq h.kind 0x11 && s.forkWaits n (fieldAt h.bytes 34 2))
    if !h.started && ok && s.isActive n && h.fenceHolds (s.ctx n).fences then some h else none

/-- A started entry that waits goes on or ends: MODEL_LOAD when its copy is done, MODEL_UNLOAD when no job of its model is
left, CTX_BIND when no rival has a job placed, RING_FLUSH entry by entry. -/
def State.goOn (s : State) (n r : Nat) (h : HeldEntry) : Option State :=
  let b := h.bytes
  match h.kind with
  | 0x02 =>
    if (s.ctx n).copying.contains (fieldAt b 48 1) then none else some (s.finish n r h { status := stOk, result := h.stop })
  | 0x03 =>
    let hd := fieldAt b 32 4
    if s.jobs.any fun j => Nat.beq j.ctx n && Nat.beq (jobModel j.bytes) hd then none
    else
      match s.modelOf n hd with
      | some m =>
        let s1 := match s.part m.part with | some p => s.dropShares n m.part p | none => s
        some ((s1.forgetModel m).finish n r h { status := stOk })
      | none => some (s.finish n r h { status := stModel, detail := 32 })
  | 0x23 =>
    match s.flushStep (fieldAt b 32 1) (fieldAt b 33 1) h.stop with
    | some s1 => some s1
    | none =>
      let n1 := fieldAt b 32 1
      if decide ((s.ctx n1).status = .free) || Nat.beq (s.unreadBefore n1 (fieldAt b 33 1) h.stop) 0 then
        some (s.finish 0 r h { status := stOk })
      else none
  | 0x29 => if s.bindWaits b then none else some (s.startBind r h)
  | _ => none

/-- The rings of every context, in the order of R181. -/
def allRings : List (Nat × Nat) := (List.range 32).flatMap fun n => (List.range 8).map fun r => (n, r)

/-- One thing that Miller can do now. -/
def State.workOnce (s : State) : Option State :=
  match allRings.findSome? fun x => ((s.ctx x.1).heldOf x.2).findSome? fun h => if h.started then s.goOn x.1 x.2 h else none with
  | some s1 => some s1
  | none =>
    match (List.range 32).findSome? s.kvNext with
    | some s1 => some s1
    | none => allRings.findSome? fun x => (s.startable x.1 x.2).map fun h => s.startEntry x.1 x.2 h

/-- Everything that Miller can do now, one after the other; `fuel` bounds it. -/
def State.work (s : State) : Nat → State
  | 0 => s
  | fuel + 1 =>
    match s.workOnce with
    | some s1 => s1.work fuel
    | none => s

/-- A bound on what Miller can do at once. -/
def State.workBound (s : State) : Nat :=
  64 + allRings.foldl (fun k x => k + 2 * ((s.ctx x.1).heldOf x.2).length + s.unreadEntries x.1 x.2) 0 +
    (List.range 32).foldl (fun k n => k + (s.ctx n).kvQueue.length) 0

/-- Miller settles after a change: it starts and ends what it can, applies the residency procedure where something has changed for
it or `again` says so (R228), and writes the events there is room for (R182, R197).  It does nothing unless it is RUNNING. -/
def State.settleAnd (s : State) (again : Bool) : State :=
  if !s.millerRuns then s
  else
    let s1 := s.work s.workBound
    let s2 := if s1.applyDue || again then s1.noteStates.residency.noteWaits else s1
    let s3 := s2.starveLanes
    s3.writeEvents (s3.events.length)

/-- Miller settles after a change. -/
def State.settle (s : State) : State := s.settleAnd false

/-! ## The reading of an entry -/

/-- CLASS of a JOB or MODEL_LOAD that the context does not allow is replaced, with a log record (R185). -/
def State.replaceClass (s : State) (n : Nat) (h : HeldEntry) : HeldEntry × State :=
  let c := s.ctx n
  if (Nat.beq h.kind 1 || Nat.beq h.kind 2) && !(bitAt c.classMask h.cls) then
    ({ h with bytes := h.bytes.set 2 (BitVec.ofNat 8 c.classDef) },
     s.log (logRecord 0 1 n 0x0001 h.jobNo h.userTag [h.cls]))
  else (h, s)

/-- An entry that has been read is checked and held, released where it is a JOB that needs no wait (R185, R190, R193). -/
def State.takeEntry (s : State) (n r : Nat) (h : HeldEntry) : State :=
  match entryChecks n h.bytes with
  | .bad status detail => s.endEntry n r h { status, detail }
  | .ok _ =>
    let rel := jobRelease h.bytes
    if Nat.beq h.kind 1 && !(Nat.beq rel 0) && Nat.blt rel s.now then
      s.endEntry n r h { status := stReleasePast, detail := 40 }
    else
      let x := s.replaceClass n h
      let now := Nat.beq h.kind 1 && Nat.beq rel 0 && Nat.beq (s.ctx n).sqRel[Fin.ofNat 8 r] 0 && (s.goldenOf n r).isNone
      let h1 := { x.1 with released := if now then some s.now else none }
      x.2.setHeld n r ((x.2.ctx n).heldOf r ++ [h1])

/-- Miller reads the next entry of ring `r` of context `n`, where it may and the entry is one that `want` names by KIND and
byte 34; an entry that cannot be read is ended by any row. -/
def State.readEntry (s : State) (n r : Nat) (want : Nat → Nat → Bool) : State :=
  if !(s.mayRead n r) then s
  else
    match s.readHead n r with
    | (some b, h, s1) => if want (fieldAt b 0 1) (fieldAt b 34 1) then ((s1.takeTurn n).takeEntry n r h).settle else s
    | (none, _, s1) => (s1.takeTurn n).settle

end Sys2Proof.Machine
end

