-- ==== Sys2Proof/Machine/Thermal.lean ====
section
/-!
DEFINITION. Surge, the arithmetic clock, temperature and power (18_power_thermal_reset R489, R495 to R504).
-/

namespace Sys2Proof.Machine

open Host (Outcome)

/-! ## Quantities -/

/-- A 12-bit signed temperature in units of 0.125 °C. -/
def tempOf (w : Nat) : Int := (BitVec.ofNat 12 w).toInt

/-- Tj in units of 0.125 °C. -/
def State.tj (s : State) : Int := tempOf (s.fld Reg.THM_TJ Fld.THM_TJ_TJ)

/-- P10 is below 230 W: the mean of the latest estimates, up to 1,000 of them. -/
def State.powerLow (s : State) : Bool := Nat.beq s.therm.powers.length 0 || Nat.blt (s.therm.powers.foldl (· + ·) 0) (2300 * s.therm.powers.length)

/-- A field of THM_SURGE that is one bit. -/
def State.surgeBit (s : State) (f : Fld) : Bool := s.flag Reg.THM_SURGE f

/-- A bit of THM_STATUS is set; where it was 0 the THM interrupt is raised. -/
def State.thmEvent (s : State) (f : Fld) : State :=
  if s.flag Reg.THM_STATUS f then s else (s.raise Reg.THM_STATUS f).interrupt .therm

/-! ## The setpoint and the clock (R489, R495) -/

/-- A setpoint goes out on the AVSBus. -/
def State.sendSetpoint (s : State) (mv : Nat) : State :=
  { s with therm := { s.therm with setpoint := mv, sends := s.therm.sends + 1 } }

/-- The Surge sequencer's phase. -/
def State.surgeTo (s : State) (p : SurgePhase) : State := { s with therm := { s.therm with phase := p } }

/-- The arithmetic clock the stepper moves to, in MHz. -/
def State.clockTarget (s : State) : Nat :=
  if s.surgeBit Fld.THM_SURGE_CLAMP then 750
  else match s.therm.phase with
    | .steppingUp | .surge => 1800
    | _ => 1500

/-- CLK of THM_SURGE for the clock and its target. -/
def State.showClock (s : State) : State :=
  let f := s.therm.mhz
  s.setFld Reg.THM_SURGE Fld.THM_SURGE_CLK
    (if !(Nat.beq f s.clockTarget) then 3 else if Nat.beq f 1800 then 1 else if Nat.beq f 750 then 2 else 0)

/-! ## The start arbiter (R496) -/

/-- The clock takes a step in the µs around now: it is on its way to its target, or has taken its last step within the µs. -/
def State.clockSteps (s : State) : Bool :=
  !(Nat.beq s.therm.mhz s.clockTarget) || match s.therm.stepAt with
    | some t => Nat.blt s.tb.elapsed (t + usE)
    | none => false

/-- Engines that have started within the latest `w` of elapsed time. -/
def State.startsWithin (s : State) (w : Nat) : Nat := (s.therm.starts.filter fun t => Nat.blt s.tb.elapsed (t + w)).length

/-- One more engine may start now: at most 4 start in any 125 ns, and at most 15 in a µs in which the clock takes a step (log
entry 82). -/
def State.startAllowed (s : State) : Bool :=
  Nat.blt (s.startsWithin (usE / 8)) 4 && (!s.clockSteps || Nat.blt (s.startsWithin usE) 15)

/-- An engine starts now. -/
def State.noteStart (s : State) : State :=
  { s with therm := { s.therm with
      starts := s.tb.elapsed :: s.therm.starts.filter fun t => Nat.blt s.tb.elapsed (t + usE) } }

/-! ## The way back to 0.75 V (R500) -/

/-- 0.75 V is sent, and the sequencer waits for its acknowledgement (R500). -/
def State.avsReturn (s : State) : State := (s.sendSetpoint 750).surgeTo .avsDown

/-- 0.85 V is sent (R499); AVS_HI reads 1 from now on (R500). -/
def State.avsRise (s : State) : State := ((s.sendSetpoint 850).surgeTo .avsUp).raise Reg.THM_SURGE Fld.THM_SURGE_AVS_HI

/-! ## The wear allowance (R502) -/

/-- The ms of Surge since the allowance was last charged, a part of a ms as a whole one. -/
def State.surgeMs (s : State) : Nat := (s.tb.elapsed - s.therm.chargedAt + (1000 * usE - 1)) / (1000 * usE)

/-- The wear budget is spent: every bit is blown and no allowance is left. -/
def State.wornOut (s : State) : Bool :=
  Nat.ble 2000 s.fuses.wear && Nat.beq (s.fld Reg.THM_WEAR_A Fld.THM_WEAR_A_ALLOW_MS) 0

/-- The clock is at 1.8 GHz, in Surge or on the point of leaving it. -/
def State.atSurge (s : State) : Bool :=
  match s.therm.phase with
  | .surge => true
  | .steppingDown => Nat.beq s.therm.mhz 1800
  | _ => false

/-- ALLOW_MS as it reads: each whole ms of Surge has been taken off. -/
def State.allowNow (s : State) : Nat :=
  let a := s.fld Reg.THM_WEAR_A Fld.THM_WEAR_A_ALLOW_MS
  if s.atSurge then a - (s.tb.elapsed - s.therm.chargedAt) / (1000 * usE) else a

/-- The clock leaves 1.8 GHz, and its time there is charged: to the next hour while its bit is being blown.  With every bit blown and no
allowance left, the budget is spent. -/
def State.chargeSurge (s : State) : State :=
  if s.therm.blow then { s with therm := { s.therm with owed := s.surgeMs } }
  else
    let s1 := s.setFld Reg.THM_WEAR_A Fld.THM_WEAR_A_ALLOW_MS (s.fld Reg.THM_WEAR_A Fld.THM_WEAR_A_ALLOW_MS - s.surgeMs)
    if s1.wornOut then s1.raise Reg.THM_STATUS Fld.THM_STATUS_WEAR_OUT else s1

/-! ## Exit (R500) -/

/-- Surge, or an entry into it, ends: the clock returns to 1.5 GHz, and then the setpoint to 0.75 V. -/
def State.surgeExit (s : State) : State :=
  let mark (s : State) : State := { s with therm := { s.therm with lastExit := some s.tb.elapsed } }
  match s.therm.phase with
  | .blowing => s.surgeTo .idle
  | .avsUp => (mark s).avsReturn.showClock
  | .steppingUp => if Nat.ble s.therm.mhz 1500 then (mark s).avsReturn.showClock else ((mark s).surgeTo .steppingDown).showClock
  | .surge => ((mark s).surgeTo .steppingDown).showClock
  | _ => s

/-- Surge is held or being entered. -/
def State.surging (s : State) : Bool :=
  match s.therm.phase with
  | .blowing | .avsUp | .steppingUp | .surge => true
  | _ => false

/-- CLOCK_STEP: one step of 150 MHz toward the target; at its end Surge holds, or 0.75 V is sent.  The step down from 1.8 GHz
ends the time that counts against the allowance. -/
def execClockStep (s : State) : Outcome State Fault Refusal :=
  .next <|
    let f := s.therm.mhz
    let t := s.clockTarget
    if Nat.beq f t then s
    else
      let g := if Nat.blt f t then f + 150 else f - 150
      let s0 := if s.atSurge then s.chargeSurge else s
      let s1 := { s0 with therm := { s0.therm with mhz := g, stepAt := some s0.tb.elapsed } }
      let s2 := match s1.therm.phase with
        | .steppingUp => if Nat.beq g 1800 then
            { s1 with therm := { s1.therm with phase := .surge, chargedAt := s1.tb.elapsed } } else s1
        | .steppingDown => if Nat.ble g 1500 then s1.avsReturn else s1
        | _ => s1
      s2.showClock

/-! ## Requests and grants (R499, R501) -/

/-- A write of THM_SURGE: a change of REQ or DIS ends Surge, and REQ written again admits grants after AVS_ERR. -/
def State.writeSurge (s : State) (w : Word) : State :=
  let s1 := s.plainWrite Reg.THM_SURGE w
  let s2 := { s1 with therm := { s1.therm with refused := false } }
  let changed (f : Fld) : Bool := !(Nat.beq (s.fld Reg.THM_SURGE f) (s2.fld Reg.THM_SURGE f))
  if changed Fld.THM_SURGE_REQ || changed Fld.THM_SURGE_DIS then s2.surgeExit else s2

/-- SURGE_REQUEST -/
def execSurgeRequest (req : Req) (value : Word) (s : State) : Outcome State Fault Refusal :=
  .next (s.busWrite req Reg.THM_SURGE value (·.writeSurge value))

/-- SURGE_DIS_WRITE -/
def execSurgeDisWrite (req : Req) (value : Word) (s : State) : Outcome State Fault Refusal :=
  .next (s.busWrite req Reg.THM_SURGE value (·.writeSurge value))

/-- A sensor is marked ERR. -/
def State.sensorErr (s : State) : Bool := (List.range 24).any fun n => s.flag (Reg.THM_TS n) Fld.THM_TS_ERR

/-- Every condition of a grant holds (R499, R500). -/
def State.mayGrant (s : State) : Bool :=
  s.surgeBit Fld.THM_SURGE_REQ && !(s.surgeBit Fld.THM_SURGE_DIS) && decide (s.tj < 880) && !s.sensorErr && s.powerLow &&
    !(s.surgeBit Fld.THM_SURGE_CLAMP) && !(s.surgeBit Fld.THM_SURGE_AVS_HI) && decide (s.therm.phase = .idle) && !s.therm.blow &&
    !s.therm.refused && !s.wornOut &&
    (match s.therm.lastExit with | some t => s.passedUs t 10000 | none => true)

/-- SURGE_GRANT: entry begins, after a wear bit where no allowance is left. -/
def execSurgeGrant (s : State) : Outcome State Fault Refusal :=
  .next <|
    if s.mayGrant then
      if Nat.beq (s.fld Reg.THM_WEAR_A Fld.THM_WEAR_A_ALLOW_MS) 0 then
        { s with therm := { s.therm with phase := .blowing, blow := true } }
      else s.avsRise
    else s

/-- WEAR_FUSE_BLOW_DONE: HOURS counts the bit and an hour is charged; an entry that waited for it goes on. -/
def execWearFuseBlowDone (s : State) : Outcome State Fault Refusal :=
  .next <|
    if s.therm.blow then
      let wear := min 2000 (s.fuses.wear + 1)
      let s1 := { s with fuses := { s.fuses with wear }, therm := { s.therm with blow := false, owed := 0 } }
      let s2 := (s1.setFld Reg.THM_WEAR_H Fld.THM_WEAR_H_HOURS wear).setFld Reg.THM_WEAR_A Fld.THM_WEAR_A_ALLOW_MS (3600000 - s.therm.owed)
      if decide (s2.therm.phase = .blowing) then s2.avsRise else s2
    else s

/-! ## The regulator (R489, R499, R500) -/

/-- AVS_ACK -/
def execAvsAck (s : State) : Outcome State Fault Refusal :=
  .next <|
    match s.therm.phase with
    | .avsUp => (s.surgeTo .steppingUp).showClock
    | .avsDown =>
      { s with therm := { s.therm with phase := .idle, resend := false } }.lower Reg.THM_SURGE Fld.THM_SURGE_AVS_HI
    | _ => s

/-- AVS_TIMEOUT: no acknowledgement within 40 µs; of the return to 0.75 V it sends a record, and the setpoint again. -/
def execAvsTimeout (s : State) : Outcome State Fault Refusal :=
  .next <|
    let failed (s : State) : State :=
      { s with therm := { s.therm with refused := true } }.thmEvent Fld.THM_STATUS_AVS_ERR
    match s.therm.phase, s.therm.resend with
    | .avsUp, _ => (failed s.avsReturn).showClock
    | .avsDown, false =>
      (failed { s with therm := { s.therm with resend := true } }).report (plainRecord .therm sevTimeout)
    | _, _ => s

/-- AVS_SETPOINT_RESEND: 0.75 V is sent again. -/
def execAvsSetpointResend (s : State) : Outcome State Fault Refusal :=
  .next (if s.therm.resend then s.sendSetpoint 750 else s)

/-- ALLOW_MS_EXPIRY: the allowance is used up during Surge: the next bit is blown, or the budget is spent and Surge ends. -/
def execAllowMsExpiry (s : State) : Outcome State Fault Refusal :=
  .next <|
    if decide (s.therm.phase = .surge) && !s.therm.blow && Nat.beq s.allowNow 0 then
      let used := s.fld Reg.THM_WEAR_A Fld.THM_WEAR_A_ALLOW_MS
      let s1 := { s with therm := { s.therm with chargedAt := s.therm.chargedAt + used * 1000 * usE } }.setFld Reg.THM_WEAR_A
        Fld.THM_WEAR_A_ALLOW_MS 0
      if Nat.ble 2000 s1.fuses.wear then (s1.raise Reg.THM_STATUS Fld.THM_STATUS_WEAR_OUT).surgeExit
      else { s1 with therm := { s1.therm with blow := true } }
    else s

/-! ## Temperature and power (R497, R498, R503, R504) -/

/-- The hottest of readings without an error: sensor and temperature, the lowest-numbered of equals. -/
def hottest (ts : List (Nat × Nat × Bool)) : Option (Nat × Nat) :=
  ts.foldl (fun m x =>
    if x.2.2 then m
    else match m with
      | some (_, t) => if decide (tempOf t < tempOf x.2.1) then some (x.1, x.2.1) else m
      | none => some (x.1, x.2.1)) none

/-- The readings are shown; a sensor newly marked ERR sets SENS_ERR and sends a CE record. -/
def State.showSensors (s : State) (ts : List (Nat × Nat × Bool)) : State :=
  ts.foldl (fun s x =>
    let a := Reg.THM_TS x.1
    let s1 := (s.setFld a Fld.THM_TS_T x.2.1).setFld a Fld.THM_TS_ERR x.2.2.toNat
    if x.2.2 && !(s.flag a Fld.THM_TS_ERR) then (s1.thmEvent Fld.THM_STATUS_SENS_ERR).report (plainRecord .therm sevCE) else s1) s

/-- What Tj causes: the warning, a thermal exit, the emergency clamp and its end. -/
def State.judgeTj (s : State) : State :=
  let hot := decide (tempOf (s.fld Reg.THM_TWARN Fld.THM_TWARN_TWARN) ≤ s.tj)
  let s1 := if hot && !s.therm.warned then s.thmEvent Fld.THM_STATUS_WARN else s
  let s2 := { s1 with therm := { s1.therm with warned := hot } }
  let s3 := if decide (920 ≤ s2.tj) && s2.surging then (s2.thmEvent Fld.THM_STATUS_EXIT_T).surgeExit else s2
  if s3.surgeBit Fld.THM_SURGE_CLAMP then
    if decide (s3.tj < 960) then (s3.lower Reg.THM_SURGE Fld.THM_SURGE_CLAMP).showClock else s3
  else if decide (1000 ≤ s3.tj) then
    (((s3.raise Reg.THM_SURGE Fld.THM_SURGE_CLAMP).thmEvent Fld.THM_STATUS_CLAMPED).report (plainRecord .therm sevCE)).showClock
  else s3

/-- THERMAL_SAMPLE -/
def execThermalSample (temps : Vector (BitVec 12) 24) (errs : BitVec 24) (s : State) : Outcome State Fault Refusal :=
  .next <|
    let ts := (List.range 24).map fun n => (n, temps[Fin.ofNat 24 n].toNat, bitAt errs.toNat n)
    let s1 := s.showSensors ts
    match hottest ts with
    | some (n, t) => ((s1.setFld Reg.THM_TJ Fld.THM_TJ_HOT n).setFld Reg.THM_TJ Fld.THM_TJ_TJ t).judgeTj
    | none => s1

/-- POWER_ESTIMATE: P10 is the mean of the latest 1,000 estimates; the rounding of what THM_PWR shows is free (log entry 6). -/
def execPowerEstimate (power : BitVec 16) (s : State) : Outcome State Fault Refusal :=
  .next <|
    let powers := (power.toNat :: s.therm.powers).take 1000
    let sum := powers.foldl (· + ·) 0
    let up := if Nat.beq (sum % powers.length) 0 then 0 else Config.freeValue s.ticks % 2
    let s1 := { s with ticks := s.ticks + 1, therm := { s.therm with powers } }
    let s2 := (s1.setFld Reg.THM_PWR Fld.THM_PWR_PINST power.toNat).setFld Reg.THM_PWR Fld.THM_PWR_P10 (sum / powers.length + up)
    if !s2.powerLow && s2.surging then (s2.thmEvent Fld.THM_STATUS_EXIT_P).surgeExit else s2

/-- THERMTRIP: THERMTRIP_N is asserted until POR_N, and a UE_FATAL record is sent. -/
def execThermtrip (_sensor : Fin 24) (s : State) : Outcome State Fault Refusal :=
  .next ({ s with pins := { s.pins with thermtripN := false } }.report (plainRecord .therm sevFatal))

end Sys2Proof.Machine
end

