-- ==== Sys2Proof/Machine/Miller.lean ====
section
/-!
DEFINITION. Miller's commands: the reading of every kind of entry, releases, placement, engine starts and ends, residency, the KV
steps and the start-up handshake (07_control_plane, 08_partitions_and_scheduling, 06 R161 to R168).
-/

namespace Sys2Proof.Machine

open Host (Outcome)

/-! ## Entries -/

/-- NOP; an entry with a reserved KIND is read here as well, and refused (R186) -/
def execNop (ctx : Fin 32) (ring : Fin 8) (s : State) : Outcome State Fault Refusal :=
  .next (s.readEntry ctx ring fun kind _ => Nat.beq kind 0x00 || !(entryKinds.contains kind))

/-- JOB -/
def execJob (ctx : Fin 32) (ring : Fin 8) (s : State) : Outcome State Fault Refusal :=
  .next (s.readEntry ctx ring fun kind _ => Nat.beq kind 0x01)

/-- MODEL_LOAD -/
def execModelLoad (ctx : Fin 32) (ring : Fin 8) (s : State) : Outcome State Fault Refusal :=
  .next (s.readEntry ctx ring fun kind _ => Nat.beq kind 0x02)

/-- MODEL_UNLOAD -/
def execModelUnload (ctx : Fin 32) (ring : Fin 8) (s : State) : Outcome State Fault Refusal :=
  .next (s.readEntry ctx ring fun kind _ => Nat.beq kind 0x03)

/-- KV_MAP -/
def execKvMap (ctx : Fin 32) (ring : Fin 8) (s : State) : Outcome State Fault Refusal :=
  .next (s.readEntry ctx ring fun kind _ => Nat.beq kind 0x10)

/-- KV_FORK -/
def execKvFork (ctx : Fin 32) (ring : Fin 8) (s : State) : Outcome State Fault Refusal :=
  .next (s.readEntry ctx ring fun kind _ => Nat.beq kind 0x11)

/-- KV_UNMAP -/
def execKvUnmap (ctx : Fin 32) (ring : Fin 8) (s : State) : Outcome State Fault Refusal :=
  .next (s.readEntry ctx ring fun kind _ => Nat.beq kind 0x12)

/-- CTX_CREATE -/
def execCtxCreate (ctx : Fin 32) (ring : Fin 8) (s : State) : Outcome State Fault Refusal :=
  .next (s.readEntry ctx ring fun kind _ => Nat.beq kind 0x20)

/-- CTX_RESET -/
def execCtxReset (ctx : Fin 32) (ring : Fin 8) (s : State) : Outcome State Fault Refusal :=
  .next (s.readEntry ctx ring fun kind _ => Nat.beq kind 0x21)

/-- CTX_DESTROY -/
def execCtxDestroy (ctx : Fin 32) (ring : Fin 8) (s : State) : Outcome State Fault Refusal :=
  .next (s.readEntry ctx ring fun kind _ => Nat.beq kind 0x22)

/-- RING_FLUSH -/
def execRingFlush (ctx : Fin 32) (ring : Fin 8) (s : State) : Outcome State Fault Refusal :=
  .next (s.readEntry ctx ring fun kind _ => Nat.beq kind 0x23)

/-- DIRTY_HARVEST -/
def execDirtyHarvest (ctx : Fin 32) (ring : Fin 8) (s : State) : Outcome State Fault Refusal :=
  .next (s.readEntry ctx ring fun kind _ => Nat.beq kind 0x24)

/-- PART_SET -/
def execPartSet (ctx : Fin 32) (ring : Fin 8) (s : State) : Outcome State Fault Refusal :=
  .next (s.readEntry ctx ring fun kind _ => Nat.beq kind 0x28)

/-- CTX_BIND; a reserved OP is refused here -/
def execCtxBind (ctx : Fin 32) (ring : Fin 8) (s : State) : Outcome State Fault Refusal :=
  .next (s.readEntry ctx ring fun kind op => Nat.beq kind 0x29 && !(Nat.beq op 1))

/-- CTX_UNBIND -/
def execCtxUnbind (ctx : Fin 32) (ring : Fin 8) (s : State) : Outcome State Fault Refusal :=
  .next (s.readEntry ctx ring fun kind op => Nat.beq kind 0x29 && Nat.beq op 1)

/-- A write of DB_SQ_TAILr, which may end the context's IDLE time (R227): Miller settles where it changes the context's state. -/
def State.sqDoorbell (s : State) (n r : Nat) (w : Word) : State :=
  let t := s.writeSqTail n r w
  if decide (t.stateNow n = s.stateNow n) then t else t.settle

/-- DB_SQ_TAIL_WRITE -/
def execDbSqTailWrite (ctx : Fin 32) (ring : Fin 8) (req : Req) (value : Word) (s : State) :
    Outcome State Fault Refusal :=
  .next (s.busWrite req (Reg.DB_SQ_TAIL ctx ring) value (·.sqDoorbell ctx ring value))

/-- DB_CQ_HEAD_WRITE -/
def execDbCqHeadWrite (ctx : Fin 32) (req : Req) (value : Word) (s : State) : Outcome State Fault Refusal :=
  .next (s.busWrite req (Reg.DB_CQ_HEAD ctx) value fun s => (s.writeCqHead ctx value).settle)

/-! ## Releases (R190) -/

/-- JOB_RELEASE_TIME: the held jobs of a time-release ring whose RELEASE has come are released, now (R190, R251). -/
def execJobReleaseTime (ctx : Fin 32) (ring : Fin 8) (s : State) : Outcome State Fault Refusal :=
  .next <|
    if Nat.beq (s.ctx ctx).sqRel[ring] 0 && (s.goldenOf ctx ring).isNone then
      (s.setHeld ctx ring (((s.ctx ctx).heldOf ring).map fun h =>
        if h.waitsRelease && Nat.ble (jobRelease h.bytes) s.now then { h with released := some s.now } else h)).settle
    else s

/-- JOB_RELEASE_EVENT: the head entry of the ring is released if it has been read, waits, and RELEASE is not after the event's
scheduled time. -/
def execJobReleaseEvent (s : State) : Outcome State Fault Refusal :=
  .next <|
    match s.takeEvent 2 with
    | none => s
    | some (e, s1) =>
      let n := bitsOf e.arg0 4 0
      let r := bitsOf e.arg0 10 8
      match (s1.ctx n).headOf r with
      | none => s1
      | some h =>
        if Nat.beq (s1.ctx n).sqRel[Fin.ofNat 8 r] 1 && (s1.goldenOf n r).isNone && h.waitsRelease &&
            Nat.ble (jobRelease h.bytes) e.sched then
          (s1.setHeld n r (((s1.ctx n).heldOf r).map fun x =>
            if Nat.beq x.jobNo h.jobNo then { x with released := some s1.now } else x)).settle
        else s1

/-! ## Placement and engines (R221 to R226) -/

/-- JOB_PLACEMENT: the first ready job, in order, that has a lane now is placed. -/
def execJobPlacement (s : State) : Outcome State Fault Refusal :=
  .next <|
    if !s.millerRuns then s
    else
      match s.readyHeads.findSome? fun j => (s.laneFor j).map fun l => (j, l) with
      | some (j, p, lane, affine) => (s.placeJob j p lane affine).settle
      | none => s

/-- ENGINE_START: the next engine of a placed job starts when its time has come; one that can no longer start ends the job with
FAULT_ENGINE_RESET. -/
def execEngineStart (te : Fin 64) (s : State) : Outcome State Fault Refusal :=
  .next <|
    match s.jobs.find? fun j => decide (j.toStart.head? = some te.val) with
    | none => s
    | some j =>
      if !(s.startDue j te) then s
      else if decide ((s.eng te).job = some j.no) && Nat.beq (s.tenState te) 0 && !(s.engineOffline te) then
        if s.startAllowed then s.noteStart.startEngine te j else s
      else (s.faultJob j.no stEngineReset te 0).settle

/-- No command of the engine has started and not ended; an append KVL ends with its grant (R163). -/
def Engine.quiet (e : Engine) : Bool :=
  !e.kvlBusy && e.loads.isEmpty && e.fetches.isEmpty && e.dmas.isEmpty && (List.range 4).all fun j => (e.arrays[Fin.ofNat 4 j]).macs.isEmpty

/-- The engine has nothing left to do for its job. -/
def State.engineDone (s : State) (te : Nat) : Bool :=
  let e := s.eng te
  Nat.beq (s.tenState te) 1 && e.job.isSome && e.feed.isEmpty && e.waiting.isNone && e.quiet &&
    Nat.beq (s.fld (Reg.TEN_CQ_HEAD te) Fld.TEN_CQ_HEAD_HEAD) (s.fld (Reg.TEN_CQ_TAIL te) Fld.TEN_CQ_TAIL_TAIL)

/-- ENGINE_COMPLETION: the engine's stream is done, and with the last engine the job ends; an engine that a fault has stopped
comes to what R120 gives it afterwards (log entry 70). -/
def execEngineCompletion (te : Fin 64) (s : State) : Outcome State Fault Refusal :=
  .next <|
    if Nat.beq (s.tenState te) 3 then (s.leaveFault te).settle
    else if s.engineDone te then
      match (s.eng te).job with
      | some no => (((s.leaveJob te).engineTo te 0).endIfDone no).settle
      | none => s
    else s

/-- ENGINE_WATCHDOG_EXPIRY: TEN_WDT counts from the job's start on the engine, halted or not (R122, R226).  DESIGN CHOICE, log
entry 71: no command faults here, and FAULT_TAG keeps what it holds. -/
def execEngineWatchdogExpiry (te : Fin 64) (s : State) : Outcome State Fault Refusal :=
  .next <|
    let limit := s.fld (Reg.TEN_WDT te) Fld.TEN_WDT_LIMIT_US
    match (s.eng te).wdtStart with
    | some t =>
      if (s.eng te).job.isSome && Nat.ble (s.tenState te) 2 && !(Nat.beq limit 0) && s.passedUs t limit then
        (s.plainFault te 4 (s.fld (Reg.TEN_STATUS te) Fld.TEN_STATUS_FAULT_TAG)).settle
      else s
    | none => s

/-! ## Residency (R217, R218, R227) -/

/-- MAKE_RESIDENT -/
def execMakeResident (ctx : Fin 32) (s : State) : Outcome State Fault Refusal :=
  .next (if s.millerRuns && s.mayTake ctx then (s.takeShares ctx).settle else s)

/-- The MODEL_LOAD entry that waits for the copy into partition `k`. -/
def Ctx.loading (c : Ctx) (k : Nat) : Option (Nat × HeldEntry) :=
  (List.range 8).findSome? fun r => ((c.heldOf r).find? fun h => h.started && Nat.beq h.kind 2 &&
    Nat.beq (fieldAt h.bytes 48 1) k).map fun h => (r, h)

/-- The weights of the model in partition `k` of context `n` are copied; a MODEL_LOAD whose weights cannot be read loads nothing
(R531). -/
def State.copyPart (s : State) (n k : Nat) : State :=
  match s.part k with
  | none => s
  | some p =>
    match p.model.bind (s.modelOf n) with
    | none => s
    | some m =>
      let x := s.copyWeights n m p
      match (x.2.ctx n).loading k with
      | some (r, h) => if Nat.beq x.1 0 then x.2 else (x.2.undoLoad m).finish n r h { status := x.1 }
      | none => x.2

/-- WEIGHT_COPY_DONE: once the shares are free of earlier contents, the copies are in place. -/
def execWeightCopyDone (ctx : Fin 32) (s : State) : Outcome State Fault Refusal :=
  .next <|
    let c := s.ctx ctx
    if c.resident && !c.copying.isEmpty && !((s.partsOf ctx).any s.beingZeroed) then
      let s1 := c.copying.foldl (fun s k => s.copyPart ctx k) s
      (s1.setCtx ctx { s1.ctx ctx with copying := [], weightsIn := true }).settle
    else s

/-- GRACE_EXPIRY: the residency procedure is applied again. -/
def execGraceExpiry (ctx : Fin 32) (s : State) : Outcome State Fault Refusal :=
  .next (if decide (0 ≤ s.pastGrace ctx) then s.settleAnd true else s)

/-- SHARE_ZEROING_DONE -/
def execShareZeroingDone (ctx : Fin 32) (s : State) : Outcome State Fault Refusal :=
  .next <|
    let s1 := (s.ctx ctx).zeroing.foldl (fun s p => s.wipeShares p) s
    (s1.setCtx ctx { s1.ctx ctx with zeroing := [] }).settle

/-! ## KV steps (06 R161, R163, R168) -/

/-- KV_COPY_DONE -/
def execKvCopyDone (ctx : Fin 32) (s : State) : Outcome State Fault Refusal :=
  .next <|
    match (s.ctx ctx).kvOp with
    | some op => if decide (op.stage = .copying) then (kvTake ctx op (s.kvCopied ctx op)).settle else s
    | none => s

/-- KV_FENCE_COMPLETE -/
def execKvFenceComplete (ctx : Fin 32) (s : State) : Outcome State Fault Refusal :=
  .next <|
    match (s.ctx ctx).kvOp with
    | some op =>
      if decide (op.stage = .fencing) || decide (op.stage = .fencingChild) then (kvTake ctx op (s.kvFenced ctx op)).settle
      else s
    | none => s

/-! ## The start-up handshake and restarts (R204, R205, R218; 17_boot_and_firmware R481) -/

/-- STATE of TCX_FW_STATUS becomes `v`. -/
def State.millerTo (s : State) (v : Nat) : State := s.setFld Reg.TCX_FW_STATUS Fld.TCX_FW_STATUS_STATE v

/-- Every engine memory, and every cluster memory below the cluster core's part, is zeroed; no context is resident. -/
def State.wipeAll (s : State) : State :=
  let s1 := (List.range 64).foldl (fun s te => s.wipe (engineAt te) engineBytes) s
  let s2 := (List.range 8).foldl (fun s c => s.wipe (clusterAt c) 0x780000) s1
  let s3 := (List.range 32).foldl (fun s n =>
    s.setCtx n { s.ctx n with resident := false, claim := false, weightsIn := false, copying := [], zeroing := [] }) s2
  { s3 with laneLast := [] }

/-- MILLER_WAIT_HOST: the image fills TCX_FW_IFVER with the launch version, zeroes the memories, deletes every partition and
waits for the driver. -/
def execMillerWaitHost (s : State) : Outcome State Fault Refusal :=
  .next <|
    if Nat.beq (s.fld Reg.TCX_FW_STATUS Fld.TCX_FW_STATUS_STATE) 1 then
      ((((({ s with parts := Vector.replicate 16 none }).wipeAll).setFld Reg.TCX_FW_IFVER Fld.TCX_FW_IFVER_MAJOR 4).setFld
        Reg.TCX_FW_IFVER Fld.TCX_FW_IFVER_MINOR 0).millerTo 2)
    else s

/-- The handshake from the comparison of versions on (R205). -/
def State.handshake (s : State) : State :=
  let host := s.reg Reg.TCX_HOST_IFVER
  let hMaj := Fld.TCX_HOST_IFVER_MAJOR.get host
  let hMin := Fld.TCX_HOST_IFVER_MINOR.get host
  let fw := s.reg Reg.TCX_FW_IFVER
  if !(Nat.beq hMaj (Fld.TCX_FW_IFVER_MAJOR.get fw)) || Nat.blt (Fld.TCX_FW_IFVER_MINOR.get fw) hMin then s.millerTo 4
  else
    let at_ := s.fld Reg.TCX_CTX0_DESC_HI Fld.TCX_CTX0_DESC_HI_ADDR_HI * 2 ^ 32 +
      s.fld Reg.TCX_CTX0_DESC_LO Fld.TCX_CTX0_DESC_LO_ADDR_LO * 256
    match s.fetch (s.millerReq 0) at_ 256 with
    | (.okay, b, s1) =>
      match firstBad stFormat (descChecks b ++ [(0, !(bitAt (fieldAt b 0 1) 1))]) with
      | .ok _ => ((s1.create 0 b).millerTo 3).settle
      | .bad _ _ => s1.millerTo 5
    | (_, _, s1) => s1.millerTo 5

/-- A write of TCX_CTRL: GO starts or repeats the handshake in WAIT_HOST, REFUSED_VERSION and BAD_CTX0. -/
def State.writeTcxCtrl (s : State) (w : Word) : State :=
  let st := s.fld Reg.TCX_FW_STATUS Fld.TCX_FW_STATUS_STATE
  if Nat.beq (Fld.TCX_CTRL_GO.get w) 1 && (Nat.beq st 2 || Nat.beq st 4 || Nat.beq st 5) then s.handshake else s

/-- TCX_GO -/
def execTcxGo (req : Req) (value : Word) (s : State) : Outcome State Fault Refusal :=
  .next (s.busWrite req Reg.TCX_CTRL value (·.writeTcxCtrl value))

/-- Miller's processor is reset (R481, R172, R450): every placed or ready job, every held entry and every KV action ends with
`status`; a load or unload that had begun has no effect. -/
def State.millerEnd (s : State) (status : Nat) : State :=
  let s2 := (s.jobs.filter fun j => j.lane.isSome).foldl (fun s j => s.abortJob j status) s
  let s3 := s2.jobs.foldl (fun s j => s.dropJob j status) s2
  let s4 := allRings.foldl (fun s x => ((s.ctx x.1).heldOf x.2).foldl (fun s h =>
    let s0 := if h.started && Nat.beq h.kind 2 then
        match s.modelOf x.1 h.stop with | some m => s.undoLoad m | none => s
      else s
    s0.finish x.1 x.2 h { status }) s) s3
  let s5 := (List.range 32).foldl (fun s n => (s.setCtx n { s.ctx n with kvOp := none, kvQueue := [] }).raiseCounts n) s4
  { s5 with models := s5.models.map fun (m : Model) => { m with unloading := false } }

/-- Miller's watchdog resets Miller: STATE = RESTARTING, and what it had in hand ends with FAULT_WATCHDOG (R481). -/
def State.millerReset (s : State) : State := (s.millerTo 6).millerEnd stWatchdog

/-- MILLER_RESTART_DONE: the memories are zeroed, pinned contexts are resident again, and Miller runs. -/
def execMillerRestartDone (s : State) : Outcome State Fault Refusal :=
  .next <|
    if Nat.beq (s.fld Reg.TCX_FW_STATUS Fld.TCX_FW_STATUS_STATE) 6 then
      let s1 := s.wipeAll
      let s2 := (List.range 32).foldl (fun s n =>
        if !(decide ((s.ctx n).status = .free)) && (s.ctx n).pinned && !(s.boundTo n).isEmpty then s.takeShares n else s) s1
      (s2.millerTo 3).settle
    else s

end Sys2Proof.Machine
end

