-- ==== Sys2Proof/Machine/EngineOps.lean ====
section
/-!
DEFINITION. What a tensor engine does for its commands: its memory, the passes of its arrays with their checks, the vector unit,
the engine DMA, and the issue of a command (04_tensor_engine R84 to R120; 06_attention_and_kv_cache R162, R163).
-/

namespace Sys2Proof.Machine

/-! ## What a command comes to -/

/-- A step of a command: it goes on, it must wait, or it stops the engine; `more` are causes of the same moment (R120). -/
inductive Ran (α : Type) where
  | ok (a : α) (s : State)
  | waits
  | fault (x : Stop) (more : List Stop) (s : State)

/-- The next step, if this one goes on. -/
def Ran.bind {α β : Type} (r : Ran α) (f : α → State → Ran β) : Ran β :=
  match r with
  | .ok a s => f a s
  | .waits => .waits
  | .fault x more s => .fault x more s

/-- A step of the command with TAG `t`, which a fault names. -/
def Ran.tagged {α : Type} (t : Nat) : Ran α → Ran α
  | .fault x more s => .fault { x with tag := some (x.tag.getD t) } more s
  | r => r

/-- A fault whose record names the engine. -/
def faultAs {α : Type} (te cause sub : Nat) (s : State) : Ran α :=
  .fault { cause, sub, path := pathOf (.te (Fin.ofNat 64 te)), info := 0, inEngine := false, tag := none } [] s

/-- Steps over a list, in order. -/
def ranOver {α : Type} (f : α → State → Ran Unit) : List α → State → Ran Unit
  | [], s => .ok () s
  | x :: xs, s => (f x s).bind fun _ s1 => ranOver f xs s1

/-! ## Engine memory (R95, R120) -/

/-- The request of engine `te` for the job's context; `cl` is its class label. -/
def State.tenReq (s : State) (te cl : Nat) : Req := s.unitReq (.engine (Fin.ofNat 64 te)) cl (s.fld (Reg.TEN_JOB te) Fld.TEN_JOB_CTX)

/-- The class label of the engine's requests that are not DMA (R121). -/
def State.tenClass (s : State) (te : Nat) : Nat := s.fld (Reg.TEN_JOB te) Fld.TEN_JOB_CLASS

/-- The first word of `n` bytes at `pa` that cannot be read. -/
def State.badWord (s : State) (pa n : Nat) : Nat :=
  let first := pa / 8
  match (List.range (n / 8 + 2)).find? fun k => respOf (s.decodeSram ((first + k) * 8) 0) != .okay with
  | some k => (first + k) * 8
  | none => pa

/-- The engine reads `n` bytes of its memory; uncorrectable data is cause 0x2. -/
def State.engRead (s : State) (te off n : Nat) : Ran (List Byte) :=
  let pa := engineAt te + off
  match s.readMem (s.tenReq te (s.tenClass te)) true (n + 1) pa n with
  | (.okay, bs, s1) => .ok bs s1
  | (.ue, _, s1) =>
    let w := s.badWord pa n
    .fault { cause := 2, sub := 0, path := s.sramPath w, info := w, inEngine := true, tag := none } [] s1
  | (_, _, s1) => faultAs te 3 0 s1

/-- The engine writes bytes into its memory. -/
def State.engWrite (s : State) (te off : Nat) (bs : List Byte) : Ran Unit :=
  match s.writeMem (s.tenReq te (s.tenClass te)) true (bs.length + 1) (engineAt te + off) bs with
  | (.okay, s1) => .ok () s1
  | (.ue, s1) =>
    let w := engineAt te + off
    .fault { cause := 2, sub := 0, path := s.sramPath w, info := w, inEngine := true, tag := none } [] s1
  | (_, s1) => faultAs te 3 0 s1

/-- Exception flags join the job's summary (R71). -/
def State.addFx (s : State) (te fx : Nat) : State :=
  s.setFld (Reg.TEN_FX te) Fld.TEN_FX_FX (s.fld (Reg.TEN_FX te) Fld.TEN_FX_FX ||| fx)

/-- The job's overflow policy is NAN_ON_OVF (R70). -/
def State.ovfNan (s : State) (te : Nat) : Bool := s.flag (Reg.TEN_JOB te) Fld.TEN_JOB_NAN_ON_OVF

/-- Array pipe `j` of an engine. -/
def Engine.ary (e : Engine) (j : Nat) : ArrayPipe := e.arrays[Fin.ofNat 4 j]

/-- `e` with array pipe `j` replaced. -/
def Engine.setAry (e : Engine) (j : Nat) (a : ArrayPipe) : Engine := { e with arrays := e.arrays.set (Fin.ofNat 4 j) a }

/-- `s` with array pipe `j` of engine `te` replaced. -/
def State.setAry (s : State) (te j : Nat) (a : ArrayPipe) : State := s.setEng te ((s.eng te).setAry j a)

/-! ## The accumulator region (R97) -/

/-- The rows of the region.  DESIGN CHOICE, log entry 71: ACC_SIZE of 0x9 to 0xF counts as 0x8. -/
def State.accRows (s : State) (te : Nat) : Nat :=
  let b := s.fld (Reg.TEN_ACC_CFG te) Fld.TEN_ACC_CFG_ACC_BASE
  let n := min (s.fld (Reg.TEN_ACC_CFG te) Fld.TEN_ACC_CFG_ACC_SIZE) 8
  if Nat.ble (b + n) 32 then n * 512 else 0

/-- The engine-memory offset of accumulator row `r`. -/
def State.rowAt (s : State) (te r : Nat) : Nat := s.fld (Reg.TEN_ACC_CFG te) Fld.TEN_ACC_CFG_ACC_BASE * 0x10000 + r * 128

/-! ## Weight tiles (R84, R85, R91, R92, R112) -/

/-- The metadata words of a sparse tile keep the order of R92 in every group. -/
def metadataOk (words : List Nat) : Bool :=
  words.all fun w => (List.range 8).all fun g => Nat.blt (bitsOf w (4 * g + 1) (4 * g)) (bitsOf w (4 * g + 3) (4 * g + 2))

/-- The position within its group of kept weight i of column n in block b. -/
def keptPos (words : List Nat) (b n i : Nat) : Nat := bitsOf ((words[32 * b + n]?).getD 0) (2 * i + 1) (2 * i)

/-- The weights of each logical row: 32 rows of a dense tile, 64 of a sparse one, whose pruned positions hold none. -/
def WeightTile.rows (t : WeightTile) : List (List Nat) :=
  if t.sparse then
    (List.range 64).map fun r =>
      let b := r / 32
      let g := r % 32 / 4
      (List.range 32).flatMap fun n => [2 * g, 2 * g + 1].filterMap fun i =>
        if Nat.beq (keptPos t.words b n i) (r % 4) then t.elems[(16 * b + i) * 32 + n]? else none
  else (List.range 32).map fun k => (t.elems.drop (32 * k)).take 32

/-- The tile with the checksum weights formed from what is written into the buffer (R112). -/
def WeightTile.withSums (t : WeightTile) : WeightTile :=
  let f := (elemFmt t.fmt.toNat).getD fp32
  { t with sums := if narrow t.fmt.toNat then t.rows.map (rowSum f) else [], wide := t.rows.map (rowSumWide f) }

/-- One array's tile of an LDW: `j` counts the selected arrays. -/
def State.loadTile (s : State) (te : Nat) (a : LdwArgs) (j : Nat) : Ran WeightTile :=
  let fmt := a.fmt.toNat
  let rows := 32 * packedBytes fmt 32
  let base := a.src.toNat * 16 + j * a.tstr.toNat * 16
  let sb := scaleBytes a.scale.toNat
  let nsc := if a.sparse then 64 else 32
  (s.engRead te base rows).bind fun d s1 =>
  ((if a.sparse then s1.engRead te (base + rows) 256 else .ok [] s1)).bind fun md s2 =>
  (s2.engRead te (a.scl.toNat * 16 + j * a.tstr.toNat * 16) (nsc * sb)).bind fun sc s3 =>
    let words := if a.sparse then (List.range 64).map fun i => fieldAt md (4 * i) 4 else []
    let tile : WeightTile :=
      { fmt := a.fmt, scale := a.scale, sparse := a.sparse,
        elems := (List.range 32).flatMap fun r => unpack fmt 32 ((d.drop (r * packedBytes fmt 32)).take (packedBytes fmt 32)),
        scales := if Nat.beq sb 0 then [] else (List.range nsc).map fun i => fieldAt sc (i * sb) sb, words, sums := [], wide := [] }
    if metadataOk words then .ok tile.withSums s3 else faultAs te 6 0 s3

/-! ## LDW and LDA (R86, R89) -/

/-- A change of engine `te` itself. -/
def State.onEng (s : State) (te : Nat) (f : Engine → Engine) : State := s.setEng te (f (s.eng te))

/-- A change of array pipes of an engine. -/
def Engine.onArys (e : Engine) (arys : List Nat) (f : ArrayPipe → ArrayPipe) : Engine :=
  arys.foldl (fun e j => e.setAry j (f (e.ary j))) e

/-- The j-th array that a header selects. -/
def aryAt (h : TileHdr) (j : Nat) : Nat := ((arraysOf h.arym)[j]?).getD 0

/-- LDW starts: its arrays' loaders take it. -/
def State.startLdw (s : State) (te : Nat) (h : TileHdr) (a : LdwArgs) : State :=
  s.onEng te fun e =>
    { e.onArys (arraysOf h.arym) (fun p => { p with seen := true, fresh := p.fresh + 1 }) with
      loads := e.loads ++ [{ seq := e.issued, hdr := h, args := a, left := List.range (arraysOf h.arym).length }], issued := e.issued + 1 }

/-- LDA starts: its arrays' loaders take it. -/
def State.startLda (s : State) (te : Nat) (h : TileHdr) (a : LdaArgs) : State :=
  s.onEng te fun e => { e with fetches := e.fetches ++ [{ seq := e.issued, hdr := h, args := a, next := 0 }], issued := e.issued + 1 }

/-- The first tile that a loader can put into a shadow buffer now: an LDW waits while the buffer holds a tile nobody has taken,
and behind earlier LDWs of the array. -/
def Engine.nextLoad (e : Engine) : List Nat → List LdwJob → Option (LdwJob × Nat)
  | _, [] => none
  | held, w :: ws =>
    match w.left.find? fun j => !(held.contains (aryAt w.hdr j)) && (e.ary (aryAt w.hdr j)).shadow.isNone with
    | some j => some (w, j)
    | none => e.nextLoad (held ++ w.left.map (aryAt w.hdr)) ws

/-- That tile is loaded. -/
def State.runLoad (s : State) (te : Nat) (w : LdwJob) (j : Nat) : Ran Unit :=
  ((s.loadTile te w.args j).bind fun t s1 =>
    .ok () (s1.onEng te fun e =>
      { e.onArys [aryAt w.hdr j] (fun p => { p with shadow := some t }) with
        loads := e.loads.filterMap fun x =>
          if Nat.beq x.seq w.seq then
            let left := x.left.filter fun k => !(Nat.beq k j)
            if left.isEmpty then none else some { x with left }
          else some x })).tagged w.hdr.tag.toNat

/-- The first LDA that can fetch now: every queue it fills has room, and no earlier LDA of those arrays is at work. -/
def Engine.nextFetch (e : Engine) : List Nat → List LdaJob → Option LdaJob
  | _, [] => none
  | held, w :: ws =>
    let arys := arraysOf w.hdr.arym
    if arys.all fun i => !(held.contains i) && Nat.blt (e.ary i).queue.length 64 then some w
    else e.nextFetch (held ++ arys) ws

/-- The vector `i` of an LDA as it lies in engine memory. -/
def State.loadVector (s : State) (te : Nat) (a : LdaArgs) (i : Nat) : Ran ActVector :=
  let fmt := a.fmt.toNat
  let nv := if a.vlen then 2 else 1
  let sb := scaleBytes a.scale.toNat
  (s.engRead te (a.src.toNat * 16 + i * a.pitch.toNat * 16) (packedBytes fmt (32 * nv))).bind fun d s1 =>
  (s1.engRead te (a.scl.toNat * 16 + i * nv * sb) (nv * sb)).bind fun sc s2 =>
    .ok { fmt := a.fmt, scale := a.scale, elems := unpack fmt (32 * nv) d,
          scales := if Nat.beq sb 0 then [] else (List.range nv).map fun b => fieldAt sc (b * sb) sb } s2

/-- One fetch fills every selected queue with the same vector. -/
def State.runFetch (s : State) (te : Nat) (w : LdaJob) : Ran Unit :=
  ((s.loadVector te w.args w.next).bind fun v s1 =>
    .ok () (s1.onEng te fun e =>
      { e.onArys (arraysOf w.hdr.arym) (fun p => { p with queue := p.queue ++ [v] }) with
        fetches := e.fetches.filterMap fun x =>
          if Nat.beq x.seq w.seq then (if Nat.ble x.args.m.toNat (x.next + 1) then none else some { x with next := x.next + 1 })
          else some x })).tagged w.hdr.tag.toNat

/-! ## Passes (R72 to R78, R90, R93) -/

/-- The codes that meet in column `n` of block `b`: weight and activation. -/
def columnCodes (t : WeightTile) (v : ActVector) (b n : Nat) : List (Nat × Nat) :=
  let w := fun r => (t.elems[r * 32 + n]?).getD 0
  let a := fun k => (v.elems[32 * b + k]?).getD 0
  if t.sparse then (List.range 16).map fun i => (w (16 * b + i), a (i / 2 * 4 + keptPos t.words b n i))
  else (List.range 32).map fun k => (w k, a k)

/-- The values that meet in column `n` of block `b`. -/
def columnPairs (t : WeightTile) (v : ActVector) (b n : Nat) : List (Val × Val) :=
  (columnCodes t v b n).map fun c =>
    (((elemFmt t.fmt.toNat).getD fp32).decode c.1, ((elemFmt v.fmt.toNat).getD fp32).decode c.2)

/-- The block scales of column `n` and of the vector, in block `b`. -/
def columnScales (t : WeightTile) (v : ActVector) (b n : Nat) : Val × Val :=
  (scaleVal t.scale.toNat ((t.scales[32 * b + n]?).getD 0) t.fmt.toNat, scaleVal v.scale.toNat ((v.scales[b]?).getD 0) v.fmt.toNat)

/-! ## Hardware faults in an array (R118) -/

/-- The faults that strike the pass of block `b` of the next vector on array `j`. -/
def MacJob.faultsAt (m : MacJob) (j b : Nat) : List ArrayFault :=
  (m.upsets.filter fun u => Nat.beq u.ary j && Nat.beq u.vec m.done && (u.blk == Nat.beq b 1)).map (·.fault)

/-- The vector as column `n` sees it in block `b`; column 32 is the checksum column, at the end of each row. -/
def seenBy (fs : List ArrayFault) (b n : Nat) (v : ActVector) : ActVector :=
  fs.foldl (fun v f =>
    match f with
    | .operand k code => { v with elems := v.elems.set (32 * b + k) code.toNat }
    | .path k col code => if Nat.ble col n then { v with elems := v.elems.set (32 * b + k) code.toNat } else v
    | _ => v) v

/-- The tile with the wrong bits that faults leave in the weight buffer, or with a weight that was wrong before it entered the
array, which its checksum weights agree with. -/
def struck (fs : List ArrayFault) (t : WeightTile) : WeightTile :=
  fs.foldl (fun t f =>
    match f with
    | .entered r c code => { t with elems := t.elems.set (r * 32 + c) (code.toNat % 2 ^ storedBits t.fmt.toNat) }.withSums
    | .weight r c bit => { t with elems := t.elems.modify (r * 32 + c) fun x => x.xor (2 ^ (bit % storedBits t.fmt.toNat)) }
    | _ => t) t

/-- What faults add to the sum of column `n`. -/
def added (fs : List ArrayFault) (n : Nat) : Rat :=
  fs.foldl (fun a f => match f with | .mac col d => if Nat.beq col n then a + d else a | _ => a) 0

/-- The 32 partial sums after a pass of block `b`, with the flags. -/
def passRow (t : WeightTile) (v : ActVector) (b : Nat) (path : PassPath) (int ovf : Bool) (fs : List ArrayFault)
    (prev : List Val) : List Val × Nat :=
  (List.range 32).foldl (fun r n =>
    let ps := columnPairs t (seenBy fs b n v) b n
    let sc := columnScales t v b n
    let p := (prev[n]?).getD (.fin false 0)
    let x := if int then passInt ps (added fs n) p else passFloat path ovf ps sc.1 sc.2 (added fs n) p
    let y := fs.foldl (fun y f => match f with
      | .result col code => if Nat.beq col n then (if int then int32 else fp32).decode code.toNat else y
      | _ => y) x.1
    (r.1 ++ [y], r.2 ||| x.2)) ([], 0)

/-! ## The checksum columns (R112 to R116, R119) -/

/-- A pass of block `b` is checked: every operand element and block scale is finite, an activation no weight meets included
(R115). -/
def passChecked (t : WeightTile) (v : ActVector) (b : Nat) : Bool :=
  ((v.elems.drop (32 * b)).take 32).all (fun x => (((elemFmt v.fmt.toNat).getD fp32).decode x).isFin) &&
  (List.range 32).all fun n =>
    (columnScales t v b n).1.isFin && (columnScales t v b n).2.isFin &&
      (columnPairs t v b n).all fun p => p.1.isFin && p.2.isFin

/-- What the comparisons of a pass find: the sums or the tolerance, the altered sums of a self-test, the residues. -/
structure Compared where
  sums    : Bool
  altered : Bool
  residue : Bool
  deriving DecidableEq, Repr

/-- The activations of block `b` as the checksum column meets them. -/
def checkActs (fs : List ArrayFault) (v : ActVector) (b : Nat) : List Nat := ((seenBy fs b 32 v).elems.drop (32 * b)).take 32

/-- The comparisons of a pass on the exact path (R113, R119); a residue tree at fault finds nothing (R118). -/
def compareExact (t : WeightTile) (v : ActVector) (b : Nat) (fs : List ArrayFault) : Compared :=
  let wf := (elemFmt t.fmt.toNat).getD fp32
  let af := (elemFmt v.fmt.toNat).getD fp32
  let unit := wf.lsb * af.lsb
  let extra (n : Nat) : Int := (added fs n / unit).floor
  let cols := (List.range 32).map fun n =>
    (columnCodes t (seenBy fs b n v) b n).map fun c => (wf.units c.1, af.units c.2)
  let check := ((checkActs fs v b).zip (t.sums.drop (32 * b))).map fun x => (af.units x.1, x.2)
  let sums := (cols.zip (List.range 32)).map fun x => dotInt x.1 + extra x.2
  let c := dotInt check + extra 32
  let total := sums.foldl (· + ·) 0
  let blind (n : Nat) : Bool := fs.any fun f => match f with | .residue col => Nat.beq col n | _ => false
  { sums := sumsAgree c total, altered := sumsAgree (c + 1) total
    residue := (((cols ++ [check]).zip (sums ++ [c])).zip (List.range 33)).all fun x =>
      blind x.2 || mod7 (residue x.1.1) == mod7 x.1.2 }

/-- The comparisons of a pass on the wide path (R114, R119): the sums of the columns are formed before the partial sum joins. -/
def compareWide (t : WeightTile) (v : ActVector) (b : Nat) (fs : List ArrayFault) : Compared :=
  let af := (elemFmt v.fmt.toNat).getD fp32
  let sums := (List.range 32).map fun n =>
    wideSum ((columnPairs t (seenBy fs b n v) b n).map fun p => p.1.q * p.2.q) + added fs n
  let check := ((checkActs fs v b).zip (t.wide.drop (32 * b))).map fun x => ((af.decode x.1).q, x.2)
  let c := wideSum (check.map fun x => x.1 * x.2.1) + added fs 32
  let m := wideSum (check.map fun x => x.1.abs * x.2.2)
  let total := sums.foldl (· + ·) 0
  let zero := sums.all (· == 0)
  { sums := sumsNear c m total zero, altered := sumsNear (if m == 0 then 1 else c + 3 * (m / 4096)) m total zero
    residue := true }

/-- What the check of a pass finds. -/
inductive PassCheck where
  | skipped
  | good
  | selfTestFails
  | mismatch (residue : Bool)
  deriving DecidableEq, Repr

/-- The check of a pass (R113 to R115): with a self-test armed the altered comparison must find a mismatch, and a true mismatch
comes first (R119).  A comparator at fault finds none. -/
def passCheck (t : WeightTile) (v : ActVector) (b : Nat) (path : PassPath) (fs : List ArrayFault) (armed : Bool) : PassCheck :=
  if !(passChecked t v b) then .skipped
  else
    let r := match path with | .exact => compareExact t v b fs | .wide => compareWide t v b fs
    let blind := fs.any fun f => decide (f = .comparator)
    if !blind && !r.sums then .mismatch false
    else if !r.residue then .mismatch true
    else if armed && (blind || r.altered) then .selfTestFails
    else .good

/-! ## MMA and MMAS (R86, R88 to R90, R93, R94) -/

/-- What TEN_CHK_FAULT says of a failing pass. -/
structure ChkFault where
  path     : Nat
  residue  : Bool
  blk      : Nat
  selfTest : Bool
  deriving DecidableEq, Repr

/-- One vector of an array in a round: its row's new bytes, the flags, the passes skipped, whether the self-test is still to come,
and the tile it leaves; or what stops the engine. -/
inductive VecOut where
  | row (j : Nat) (bytes : List Byte) (fx skipped : Nat) (armed : Bool) (tile : WeightTile)
  | stop (j : Nat) (x : Stop) (chk : Option ChkFault) (skipped : Nat)

/-- The stop of a failing pass of array `j` (R116, R119). -/
def checkStop (te j cause : Nat) : Stop :=
  { cause, sub := j, path := pathOf (.te (Fin.ofNat 64 te)), info := 0, inEngine := false, tag := none }

/-- The passes of one vector over the blocks of its command, from the row's partial sums. -/
def macVector (te : Nat) (m : MacJob) (j : Nat) (v : ActVector) (path : PassPath) (ovf : Bool) :
    List Nat → WeightTile → List Val → Bool → Nat → Nat → VecOut
  | [], t, prev, armed, fx, skipped =>
    let f := if m.args.acct then int32 else fp32
    .row j ((prev.map fun x => leBytes 4 (f.convert x 0 false).1).flatten) fx skipped armed t
  | b :: bs, t0, prev, armed, fx, skipped =>
    let fs := m.faultsAt j b
    let t := struck fs t0
    let wide := if decide (path = .wide) then 1 else 0
    match passCheck t v b path fs armed with
    | .mismatch residue => .stop j (checkStop te j 1) (some { path := wide, residue, blk := b, selfTest := false }) skipped
    | .selfTestFails => .stop j (checkStop te j 8) (some { path := wide, residue := false, blk := b, selfTest := true }) skipped
    | c =>
      let r := passRow t v b path m.args.acct ovf fs prev
      let skip := decide (c = .skipped)
      macVector te m j v path ovf bs t r.1 (armed && skip) (fx ||| r.2) (skipped + skip.toNat)

/-- A tile and a vector may not meet in this command (R74, R94): cause 0x5. -/
def MacJob.refuses (m : MacJob) (t : WeightTile) (v : ActVector) : Bool :=
  !(pairOk m.sparse m.args.acct (t.fmt.toNat, t.scale.toNat, t.sparse) (v.fmt.toNat, v.scale.toNat, Nat.blt 32 v.elems.length))

/-- The first array whose next MMA or MMAS can start: the shadow buffer becomes active, which waits for the LDW before it where
one is still to be taken; without such an LDW the active tile is used again (R85, R86). -/
def Engine.nextStart (e : Engine) : Option (Nat × MacJob × WeightTile) :=
  (List.range 4).findSome? fun j =>
    let p := e.ary j
    match p.macs with
    | m :: _ => if m.tile.isSome then none else (if m.fresh then p.shadow else p.active).map fun t => (j, m, t)
    | [] => none

/-- It starts: the tile it takes becomes the active one, with its checksum weights (R85, R94). -/
def State.runStart (s : State) (te j : Nat) (m : MacJob) (t : WeightTile) : Ran Unit :=
  if !(t.sparse == m.sparse) then (faultAs te 5 0 s : Ran Unit).tagged m.hdr.tag.toNat
  else .ok () (s.onEng te (·.onArys [j] fun p =>
    { p with macs := { m with tile := some t } :: p.macs.tail, active := some t, shadow := if m.fresh then none else p.shadow }))

/-- The arrays that can take a vector now, with their command, its tile and the vector. -/
def Engine.ready (e : Engine) : List (Nat × MacJob × WeightTile × ActVector) :=
  (List.range 4).filterMap fun j =>
    match (e.ary j).macs, (e.ary j).queue with
    | m :: _, v :: _ => m.tile.map fun t => (j, m, t, v)
    | _, _ => none

/-- The vector of an array in a round: the row is read, and the passes are made. -/
def State.vectorOut (s : State) (te : Nat) (x : Nat × MacJob × WeightTile × ActVector) : VecOut × State :=
  let (j, m, t, v) := x
  if m.refuses t v then (.stop j (checkStop te 0 5) none 0, s)
  else
    let path := (passPath t.fmt.toNat t.scale.toNat v.fmt.toNat v.scale.toNat).getD .exact
    let f := if m.args.acct then int32 else fp32
    let go := fun (prev : List Val) =>
      macVector te m j v path (s.ovfNan te) (if m.sparse then [0, 1] else [0]) t prev m.arm 0 0
    if m.args.init then (go (List.replicate 32 (.fin false 0)), s)
    else
      match s.engRead te (s.rowAt te (m.row + m.done)) 128 with
      | .ok d s1 => (go ((List.range 32).map fun n => f.decode (fieldAt d (4 * n) 4)), s1)
      | .fault x _ s1 => (.stop j x none 0, s1)
      | .waits => (.stop j (checkStop te 0 3) none 0, s)

/-- The vectors of a round, array by array. -/
def State.roundOuts (s : State) (te : Nat) : List (Nat × MacJob × WeightTile × ActVector) → List VecOut × State
  | [] => ([], s)
  | x :: xs =>
    let r := s.vectorOut te x
    let rs := r.2.roundOuts te xs
    (r.1 :: rs.1, rs.2)

/-- The first mismatch is recorded in TEN_CHK_FAULT where no record is held. -/
def State.chkRecord (s : State) (te j tag vec : Nat) (c : ChkFault) : State :=
  let a := Reg.TEN_CHK_FAULT te
  if s.flag a Fld.TEN_CHK_FAULT_VALID then s
  else
    s.setReg a (BitVec.ofNat 32 (vec % 2 ^ 16 + 2 ^ 16 + c.selfTest.toNat * 2 ^ 18 + c.blk * 2 ^ 19 + c.residue.toNat * 2 ^ 20 +
      c.path * 2 ^ 21 + j * 2 ^ 22 + tag * 2 ^ 24))

/-- An array has taken a vector: the command ends with its last, and an unused self-test passes to what follows. -/
def Engine.tookVector (e : Engine) (j : Nat) (armed : Bool) (t : WeightTile) : Engine :=
  e.onArys [j] fun p =>
    match p.macs with
    | [] => p
    | m :: ms =>
      let p1 := { p with queue := p.queue.tail, active := some t }
      if Nat.ble m.args.m.toNat (m.done + 1) then
        match ms with
        | n :: ns => { p1 with macs := { n with arm := n.arm || armed } :: ns }
        | [] => { p1 with macs := [], selfTest := p.selfTest || armed }
      else { p1 with macs := { m with done := m.done + 1, arm := armed, tile := some t } :: ms }

/-- The command at work on array `j`: its TAG and the vector it takes next. -/
def State.macAt (s : State) (te j : Nat) : Nat × Nat :=
  match ((s.eng te).ary j).macs with
  | m :: _ => (m.hdr.tag.toNat, m.done)
  | [] => (0, 0)

/-- The causes of a round, each with its array and the TAG of the command there. -/
def State.roundStops (s : State) (te : Nat) (outs : List VecOut) : List (Nat × Stop × Option ChkFault) :=
  outs.filterMap fun o =>
    match o with
    | .stop j x chk _ => some (j, { x with tag := some (s.macAt te j).1 }, chk)
    | .row .. => none

/-- Of two causes of one moment, the one with the lower status code, then the lower number (R120). -/
def Stop.first (x y : Stop) : Stop :=
  if Nat.blt (causeStatus y.cause) (causeStatus x.cause) then y
  else if Nat.beq (causeStatus y.cause) (causeStatus x.cause) && Nat.blt y.cause x.cause then y
  else x

/-- The passes of a round that were not checked. -/
def skippedIn (outs : List VecOut) : Nat :=
  outs.foldl (fun n o => n + match o with | .row _ _ _ k _ _ => k | .stop _ _ _ k => k) 0

/-- The results of a round are taken: the rows are written, or, with a pass among them that stops the engine, none is (R115,
R116, R120). -/
def State.takeRound (s : State) (te : Nat) (outs : List VecOut) : Ran Unit :=
  let s0 := s.count (Reg.TEN_CHK_SKIP te) Fld.TEN_CHK_SKIP_SKIPPED (skippedIn outs)
  match s0.roundStops te outs with
  | x :: xs =>
    let s1 := match (x :: xs).find? fun y => y.2.2.isSome with
      | some (j, _, some c) => s0.chkRecord te j (s0.macAt te j).1 (s0.macAt te j).2 c
      | _ => s0
    let first := xs.foldl (fun y z => y.first z.2.1) x.2.1
    .fault first (((x :: xs).map fun y => y.2.1).erase first) s1
  | [] =>
    ranOver (fun o s =>
      match o with
      | .row j bytes fx _ armed t =>
        match ((s.eng te).ary j).macs with
        | m :: _ =>
          ((s.engWrite te (s.rowAt te (m.row + m.done)) bytes).bind fun _ s1 =>
            .ok () ((s1.addFx te fx).onEng te (·.tookVector j armed t))).tagged m.hdr.tag.toNat
        | [] => .ok () s
      | .stop .. => .ok () s) outs s0

/-- CHECK 0x1: the weight sections that lie in the engine share are checked against their CRC before the engine's first MMA or
MMAS (R187). -/
def State.checkWeights (s : State) (te : Nat) : Ran Unit :=
  let e := s.eng te
  if !e.wcheck then .ok () s
  else
    let s0 := s.setEng te { e with wcheck := false }
    match (e.job.bind s.jobOf).bind (fun j => (s.modelOf j.ctx (jobModel j.bytes)).bind fun m => (s.part m.part).map fun p => (m, p)) with
    | none => .ok () s0
    | some (m, p) =>
      ranOver (fun x s => (s.engRead te (p.eoff * 0x10000 + x.1) x.2.len).bind fun bs s1 =>
        if Nat.beq (crc32 bs) x.2.crc then .ok () s1 else faultAs te 7 0 s1) (m.placed p) s0

/-- Rows between successive selected arrays. -/
def macStride (a : MmaArgs) : Nat := if Nat.beq a.astr.toNat 0 then a.m.toNat else a.astr.toNat

/-- MMA and MMAS: the pipes of the selected arrays take it; without an LDW of the job before it, it may not be (R86).
DEDUCED, log entry 71: of several LDWs that stand before MMAs in a stream, each MMA takes the tile of the oldest that no earlier
one takes, so two LDWs and two MMAs use both tiles. -/
def State.runMac (s : State) (te : Nat) (h : TileHdr) (sparse : Bool) (a : MmaArgs) (upsets : List ArrayUpset) : Ran Unit :=
  let arys := arraysOf h.arym
  (s.checkWeights te).bind fun _ s0 =>
    if !(arys.all fun i => ((s0.eng te).ary i).seen) then faultAs te 5 0 s0
    else
      .ok () (s0.onEng te fun e =>
        { (List.range arys.length).foldl (fun e j =>
            e.onArys [aryAt h j] fun p =>
              { p with fresh := p.fresh - 1, selfTest := false
                       macs := p.macs ++ [{ seq := e.issued, sparse, args := a, hdr := h, row := a.acc.toNat + j * macStride a, done := 0,
                                            fresh := Nat.blt 0 p.fresh, tile := none, upsets, arm := p.selfTest }] }) e with
          issued := e.issued + 1 })

/-! ## The vector unit (R104 to R107) -/

/-- `n` vectors of lane codes at a granule. -/
def State.readLanes (s : State) (te g lane n : Nat) : Ran (List Nat) :=
  (s.engRead te (g * 16) (256 * n)).bind fun bs s1 => .ok (unpack (laneCode lane) (n * laneCount lane) bs) s1

/-- The transpose of each 32 × 32 block of lanes of 32 vectors of `l` lanes. -/
def transpose (l : Nat) (v : List Nat) : List Nat :=
  (List.range 32).flatMap fun i => (List.range l).map fun c => (v[(c % 32) * l + c / 32 * 32 + i]?).getD 0

/-- VOP, by its code (R105). -/
def State.runVop (s : State) (te op : Nat) (a : VopArgs) : Ran Unit :=
  let lane := a.lane.toNat
  let n := a.n.toNat
  let l := laneCount lane
  let rnd := a.rnd.toNat
  let e := s.eng te
  if Nat.beq op 0x19 then
    (s.readLanes te a.srca.toNat lane 1).bind fun v s1 =>
      let c := v.headD 0
      let w := if Nat.beq lane 2 then unsignedOf 32 (signedOf 16 c) else c
      let e1 := s1.eng te
      .ok () (s1.setEng te { e1 with sregs := e1.sregs.set (Fin.ofNat 16 a.dst.toNat) (BitVec.ofNat 32 w) })
  else
    (s.readLanes te a.srca.toNat lane n).bind fun va s1 =>
    ((if !(readsB op) then .ok [] s1
      else if a.bsel then
        let w := (e.sregs[Fin.ofNat 16 a.srcb.toNat]).toNat
        .ok (List.replicate (n * l) (w % 2 ^ (laneFmt lane).bits)) s1
      else s1.readLanes te a.srcb.toNat lane n)).bind fun vb s2 =>
    ((if readsC op then s2.readLanes te a.srcc.toNat lane n else .ok [] s2)).bind fun vc s3 =>
      let ovf := s3.ovfNan te
      let out : List Byte × Nat :=
        if Nat.beq op 0x0F then
          let r := ((elemFmt a.cfmt.toNat).getD fp32).convertAll rnd ovf (va.map (laneFmt lane).decode)
          (pack a.cfmt.toNat r.1, r.2)
        else if Nat.beq op 0x17 then
          (pack (laneCode lane) ((groups (32 * l) (n / 32) va).flatMap (transpose l)), 0)
        else if Nat.beq op 0x18 then (pack (laneCode lane) va, 0)
        else let r := laneOps op lane rnd ovf va vb vc; (pack (laneCode lane) r.1, r.2)
      (s3.engWrite te (a.dst.toNat * 16) out.1).bind fun _ s4 => .ok () (s4.addFx te out.2)

/-- VRED (R107). -/
def State.runVred (s : State) (te : Nat) (k : VredKind) (a : VredArgs) : Ran Unit :=
  let lane := a.lane.toNat
  let n := a.n.toNat
  let l := laneCount lane
  (s.readLanes te a.src.toNat lane n).bind fun codes s1 =>
    let vs := groups l n (codes.map (laneFmt lane).decode)
    let cols := if a.axis then (List.range l).map fun c => vs.map fun v => (v[c]?).getD (.fin false 0) else vs
    let rs := cols.map (reduce k (laneFloat lane) (s1.ovfNan te) (!a.axis))
    (s1.engWrite te (a.dst.toNat * 16) (rs.map fun r => leBytes 4 r.1).flatten).bind fun _ s2 =>
      .ok () (s2.addFx te (rs.foldl (fun x r => x ||| r.2) 0))

/-- The scale codes and packed elements of blocks written from `dst` and `scl` on; `dof` gives a block's offset. -/
def State.writeBlocks (s : State) (te : Nat) (scl kind fmt : Nat) (dof : Nat → Nat) (blocks : List (Nat × List Nat × Nat)) :
    Ran Unit :=
  let sb := scaleBytes kind
  ranOver (fun i s =>
    match blocks[i]? with
    | some (sc, codes, fx) =>
      (s.engWrite te (dof i) (pack fmt codes)).bind fun _ s1 =>
      (s1.engWrite te (scl * 16 + i * sb) (leBytes sb sc)).bind fun _ s2 => .ok () (s2.addFx te fx)
    | none => .ok () s) (List.range blocks.length) s

/-- QNT (R64, R65, R67). -/
def State.runQnt (s : State) (te : Nat) (a : QntArgs) : Ran Unit :=
  let sf := if a.sfmt then 0x02 else 0x00
  let nb := a.nb.toNat
  if !(scaleAllows a.dscale.toNat a.dfmt.toNat) then faultAs te 5 0 s
  else
    (s.engRead te (a.src.toNat * 16) (packedBytes sf (32 * nb))).bind fun bs s1 =>
      let xs := groups 32 nb ((unpack sf (32 * nb) bs).map ((elemFmt sf).getD fp32).decode)
      s1.writeBlocks te a.scl.toNat a.dscale.toNat a.dfmt.toNat
        (fun i => a.dst.toNat * 16 + i * packedBytes a.dfmt.toNat 32)
        (xs.map (quantBlock a.dfmt.toNat a.dscale.toNat a.rnd.toNat (s1.ovfNan te)))

/-- The format code of DFMT of DQN. -/
def dqnFmt : Nat → Nat
  | 0 => 0x00
  | 1 => 0x02
  | _ => 0x03

/-- DQN (R66, R67). -/
def State.runDqn (s : State) (te : Nat) (a : DqnArgs) : Ran Unit :=
  let sf := a.sfmt.toNat
  let kind := a.sscale.toNat
  let sb := scaleBytes kind
  let nb := a.nb.toNat
  let df := dqnFmt a.dfmt.toNat
  if !(scaleAllows kind sf) then faultAs te 5 0 s
  else
    (s.engRead te (a.src.toNat * 16) (nb * packedBytes sf 32)).bind fun bs s1 =>
    (s1.engRead te (a.scl.toNat * 16) (nb * sb)).bind fun sc s2 =>
      let codes := groups 32 nb (unpack sf (32 * nb) bs)
      let vals := (codes.zip (List.range nb)).flatMap fun x =>
        x.1.map (blockValue sf kind (fieldAt sc (x.2 * sb) sb))
      let r := ((elemFmt df).getD fp32).convertAll 0 (s2.ovfNan te) vals
      (s2.engWrite te (a.dst.toNat * 16) (pack df r.1)).bind fun _ s3 => .ok () (s3.addFx te r.2)

/-- STO (R103).  DESIGN CHOICE, log entry 71: rows of INT32 accumulators written with an MX or KB scale are quantised from the
exact integers, which are not rounded to FP32 first (R64, R65, R67). -/
def State.runSto (s : State) (te : Nat) (a : StoArgs) : Ran Unit :=
  let df := a.dfmt.toNat
  let kind := a.dscale.toNat
  let f := if a.acct then int32 else fp32
  let pitch := if Nat.beq a.dpitch.toNat 0 then packedBytes df 32 else a.dpitch.toNat * 16
  if !(scaleAllows kind df) then faultAs te 5 0 s
  else
    ranOver (fun i s =>
      let row := s.rowAt te (a.acc.toNat + i)
      (s.engRead te row 128).bind fun d s1 =>
      ((if a.clr then s1.engWrite te row (List.replicate 128 0#8) else .ok () s1)).bind fun _ s2 =>
        let xs := (List.range 32).map fun n => f.decode (fieldAt d (4 * n) 4)
        let sb := scaleBytes kind
        let q := quantBlock df kind a.rnd.toNat (s2.ovfNan te) xs
        (s2.engWrite te (a.dst.toNat * 16 + i * pitch) (pack df q.2.1)).bind fun _ s3 =>
        (s3.engWrite te (a.scl.toNat * 16 + i * sb) (leBytes sb q.1)).bind fun _ s4 => .ok () (s4.addFx te q.2.2))
      (List.range a.nr.toNat) s

/-! ## Engine DMA (R108 to R111) -/

/-- The KV window of a descriptor. -/
def dmaWin (d : List Byte) : Nat := bitsOf (fieldAt d 50 1) 2 1

/-- The IOVA of the `n` bytes at an offset in KV window `w` of engine `te` (R162); none where one of them lies beyond the
sequence's range (R111). -/
def State.kvIova (s : State) (te w n : Nat) (off : Int) : Option Nat :=
  let x := (s.eng te).kvWins[Fin.ofNat 4 w]
  if x.loaded && decide (0 ≤ off) && decide (off + n ≤ 0x10000000) then
    some (s.fld (Reg.TEN_KV_BASE_HI te) Fld.TEN_KV_BASE_HI_BASE_HI * 2 ^ 32 +
      s.fld (Reg.TEN_KV_BASE_LO te) Fld.TEN_KV_BASE_LO_BASE_LO * 2 ^ 28 + x.seq * 0x10000000 + off.toNat)
  else none

/-- The cause that a response other than OKAY stops the engine with (R111). -/
def dmaCause : Resp → Nat
  | .ue | .link => 2
  | _ => 3

/-- An element is read from a space. -/
def State.dmaLoad (s : State) (te space : Nat) (d : List Byte) (addr : Int) (n : Nat) : Ran (List Byte) :=
  let req := s.tenReq te (fieldAt d 49 1)
  let ext := fun (iova : Nat) =>
    match s.fetch req iova n with
    | (.okay, bs, s1) => Ran.ok bs s1
    | (e, _, s1) => faultAs te (dmaCause e) 0 s1
  match space with
  | 0 => if decide (0 ≤ addr) && Nat.ble (addr.toNat + n) engineBytes then s.engRead te addr.toNat n else faultAs te 3 0 s
  | 1 =>
    if decide (0 ≤ addr) && Nat.ble (addr.toNat + n) 0x800000 then
      match s.readPhys req (clusterAt (te / 8) + addr.toNat) n with
      | (.okay, bs, s1) => .ok bs s1
      | (e, _, s1) => faultAs te (dmaCause e) 0 s1
    else faultAs te 3 0 s
  | 2 => if decide (0 ≤ addr) then ext addr.toNat else faultAs te 3 0 s
  | _ => match s.kvIova te (dmaWin d) n addr with | some v => ext v | none => faultAs te 3 0 s

/-- An element is written to a space. -/
def State.dmaStore (s : State) (te space : Nat) (d : List Byte) (addr : Int) (bs : List Byte) : Ran Unit :=
  let req := s.tenReq te (fieldAt d 49 1)
  let n := bs.length
  let ext := fun (iova : Nat) =>
    match s.put req iova bs with
    | (.okay, s1) => Ran.ok () s1
    | (e, s1) => faultAs te (dmaCause e) 0 s1
  match space with
  | 0 => if decide (0 ≤ addr) && Nat.ble (addr.toNat + n) engineBytes then s.engWrite te addr.toNat bs else faultAs te 3 0 s
  | 1 =>
    if decide (0 ≤ addr) && Nat.ble (addr.toNat + n) 0x800000 then
      match s.writePhys req (clusterAt (te / 8) + addr.toNat) bs with
      | (.okay, s1) => .ok () s1
      | (e, s1) => faultAs te (dmaCause e) 0 s1
    else faultAs te 3 0 s
  | 2 => if decide (0 ≤ addr) then ext addr.toNat else faultAs te 3 0 s
  | _ => match s.kvIova te (dmaWin d) n addr with | some v => ext v | none => faultAs te 3 0 s

/-- One position of a destination row: an element of the source, or a pad. -/
def State.dmaElem (s : State) (te : Nat) (d : List Byte) (p j c : Nat) : Ran Unit :=
  let f := fun o n => fieldAt d o n
  let es := 2 ^ f 23 1
  let padl := f 40 1
  let padt := f 42 1
  let space := f 48 1
  let sgn := fun o => signedOf 32 (f o 4)
  let dst : Int := (f 8 8 : Int) + p * sgn 36 + j * sgn 32 + (c * es : Nat)
  let inside := inRange c padl (padl + f 16 2) && inRange j padt (padt + f 18 2)
  if inside then
    let src : Int := (f 0 8 : Int) + p * sgn 28 + ((j - padt : Nat) : Int) * sgn 24 + ((c - padl) * f 22 1 * es : Nat)
    (s.dmaLoad te (space % 4) d src es).bind fun bs s1 => s1.dmaStore te (space / 4) d dst bs
  else if bitAt (f 50 1) 0 then s.dmaStore te (space / 4) d dst (leBytes es (f 44 4))
  else .ok () s

/-- The descriptor of a DMA command as engine memory holds it. -/
def State.dmaDesc (s : State) (te : Nat) (a : DmaArgs) : List Byte := s.bytes (engineAt te + a.desc.toNat * 16) 64

/-- The transfer of a descriptor, plane by plane and row by row (R110). -/
def State.moveDma (s : State) (te : Nat) (d : List Byte) : Ran Unit :=
  ranOver (fun p s => ranOver (fun j s => ranOver (fun c s => s.dmaElem te d p j c)
    (List.range (fieldAt d 40 1 + fieldAt d 16 2 + fieldAt d 41 1)) s)
    (List.range (fieldAt d 42 1 + fieldAt d 18 2 + fieldAt d 43 1)) s) (List.range (fieldAt d 20 2)) s

/-- A descriptor uses a KV window. -/
def dmaUsesKv (d : List Byte) : Bool := Nat.beq (fieldAt d 48 1 % 4) 3 || Nat.beq (fieldAt d 48 1 / 4) 3

/-- A DMA command waits for its KV window's grant (R163). -/
def State.dmaWaits (s : State) (te : Nat) (a : DmaArgs) : Bool :=
  let d := s.dmaDesc te a
  let w := (s.eng te).kvWins[Fin.ofNat 4 (dmaWin d)]
  dmaDescOk d && dmaUsesKv d && w.append && !w.granted

/-- The areas of engine memory that a descriptor can touch. -/
def dmaAreas (d : List Byte) : List (Nat × Nat × Bool) := descSpans d 0

/-- DMA starts: its channel takes it. -/
def State.startDma (s : State) (te : Nat) (h : TileHdr) (a : DmaArgs) : State :=
  let d := s.dmaDesc te a
  s.onEng te fun e =>
    { e with dmas := e.dmas ++ [{ seq := e.issued, hdr := h, args := a,
                                  areas := (a.desc.toNat * 16, a.desc.toNat * 16 + 64, false) :: if dmaDescOk d then dmaAreas d else [] }],
             issued := e.issued + 1 }

/-- The first DMA that its channel can run now: each channel runs its own in order. -/
def State.nextDma (s : State) (te : Nat) : List (BitVec 2) → List DmaJob → Option DmaJob
  | _, [] => none
  | busy, w :: ws =>
    if !(busy.contains w.args.ch) && !(s.dmaWaits te w.args) then some w
    else s.nextDma te (w.args.ch :: busy) ws

/-- A channel runs a DMA: the descriptor is checked before any byte moves (R110, R111). -/
def State.runDma (s : State) (te : Nat) (w : DmaJob) : Ran Unit :=
  ((s.engRead te (w.args.desc.toNat * 16) 64).bind fun d s1 =>
    if !(dmaDescOk d) then faultAs te 5 0 s1
    else (s1.moveDma te d).bind fun _ s2 =>
      .ok () (s2.onEng te fun e => { e with dmas := e.dmas.filter fun x => !(Nat.beq x.seq w.seq) })).tagged w.hdr.tag.toNat

/-! ## Control commands (R102, R119, R162, R163) -/

/-- Semaphore `k` of the partition unit of engine `te`. -/
def State.sem (s : State) (te k : Nat) : Nat := (s.sems[Fin.ofNat 16 (te / 4)])[Fin.ofNat 32 k]

/-- `s` with that semaphore holding `v`. -/
def State.setSem (s : State) (te k v : Nat) : State :=
  { s with sems := s.sems.set (Fin.ofNat 16 (te / 4)) ((s.sems[Fin.ofNat 16 (te / 4)]).set (Fin.ofNat 32 k) v) }

/-- WAIT: N is subtracted once the semaphore holds it; until then every later command is held back. -/
def State.runWait (s : State) (te k n : Nat) : State :=
  let v := s.sem te k
  if Nat.ble n v then (s.setSem te k (v - n)).setEng te { s.eng te with waiting := none }
  else s.setEng te { s.eng te with waiting := some (k, n) }

/-- SIG: N is added, saturating with a log record. -/
def State.runSig (s : State) (te k n : Nat) : State :=
  let v := s.sem te k + n
  if Nat.ble v 65535 then s.setSem te k v
  else
    (s.setSem te k 65535).log (logRecord (1 + te / 8) 1 (s.fld (Reg.TEN_JOB te) Fld.TEN_JOB_CTX) 0x0002
      (match (s.eng te).job.bind s.jobOf with | some j => j.jobNo | none => 0) 0 [te, k])

/-- KVL: the window is loaded, and an append asks Miller for its grant. -/
def State.runKvl (s : State) (te : Nat) (h : TileHdr) (append : Bool) (a : KvlArgs) : Ran Unit :=
  let n := s.fld (Reg.TEN_JOB te) Fld.TEN_JOB_CTX
  let e := s.eng te
  match s.kvArea n, (s.ctx n).kvGeom with
  | some area, some geo =>
    let ntok := a.ntok.toNat
    let seq := a.seq.toNat
    if append && e.kvlBusy then .waits
    else if Nat.ble area.maxSeq seq || Nat.blt geo.maxtok ntok || (append && Nat.beq ntok geo.maxtok) then faultAs te 3 0 s
    else
      let w : KvWindow := { loaded := true, seq, ntok, append, granted := false }
      let s1 := s.setEng te { e with kvWins := e.kvWins.set (Fin.ofNat 4 a.win.toNat) w, kvlBusy := e.kvlBusy || append }
      if append then
        let op : KvOp := { src := .window te a.win.toNat h.tag.toNat e.job, kind := .append, seq, t0 := ntok, t1 := ntok + 1,
                           stage := .waiting, moves := [], tables := [] }
        let c := s1.ctx n
        .ok () (s1.setCtx n { c with kvQueue := c.kvQueue ++ [op] })
      else .ok () s1
  | _, _ => faultAs te 3 0 s

/-- CHK mode 0x0. -/
def State.runChkCrc (s : State) (te : Nat) (a : ChkArgs) : Ran Unit :=
  (s.engRead te (a.src.toNat * 16) (a.ng.toNat * 16)).bind fun bs s1 =>
  (s1.engRead te (a.exp.toNat * 16) 4).bind fun x s2 =>
    if Nat.beq (crc32 bs) (leNat x) then .ok () s2 else faultAs te 7 0 s2

/-- CHK mode 0x1: the comparators of the selected arrays are tested in their next checked pass. -/
def State.runChkSelf (s : State) (te : Nat) (h : TileHdr) : State :=
  (arraysOf h.arym).foldl (fun s j => s.setAry te j { (s.eng te).ary j with selfTest := true }) s

/-! ## The units at work (R86, R88, R89, R108) -/

/-- The next thing that a unit of the engine can do; none where all wait or have nothing to do. -/
def State.unitStep (s : State) (te : Nat) : Option (Ran Unit) :=
  let e := s.eng te
  match e.nextLoad [] e.loads with
  | some (w, j) => some (s.runLoad te w j)
  | none =>
    match e.nextFetch [] e.fetches with
    | some w => some (s.runFetch te w)
    | none =>
      match e.nextStart with
      | some (j, m, t) => some (s.runStart te j m t)
      | none =>
        match e.ready with
        | x :: xs => let r := s.roundOuts te (x :: xs); some (r.2.takeRound te r.1)
        | [] => (s.nextDma te [] e.dmas).map (s.runDma te)

/-- The units go on until each waits or is done; `fuel` bounds what there is to do. -/
def State.goUnits (s : State) (te : Nat) : Nat → Ran Unit
  | 0 => .ok () s
  | fuel + 1 =>
    match s.unitStep te with
    | none => .ok () s
    | some r => r.bind fun _ s1 => s1.goUnits te fuel

/-- More than the tiles, vectors, starts and transfers that an engine has before it. -/
def Engine.toDo (e : Engine) : Nat :=
  e.loads.foldl (fun n w => n + w.left.length) 0 + e.fetches.foldl (fun n w => n + 5 * w.args.m.toNat) 0 +
    (List.range 4).foldl (fun n j => n + (e.ary j).queue.length + (e.ary j).macs.length) 0 + e.dmas.length + 1

/-- The units of the engine go on. -/
def State.unitsGo (s : State) (te : Nat) : Ran Unit := s.goUnits te (s.eng te).toDo

/-! ## Issue (R99 to R102) -/

/-- A range held by the scoreboard: the command it belongs to, the arrays of an MMA or MMAS, and the bytes (R101). -/
structure Held where
  seq  : Nat
  arym : Option (BitVec 4)
  area : Area
  deriving DecidableEq, Repr

/-- The accumulator rows of an MMA or MMAS as one span, and the areas of other commands. -/
def State.macArea (s : State) (te : Nat) (h : TileHdr) (a : MmaArgs) : Area :=
  { lo := s.rowAt te a.acc.toNat, hi := s.rowAt te (a.acc.toNat + ((arraysOf h.arym).length - 1) * macStride a + a.m.toNat), write := true }

/-- The ranges of the commands that have started and not ended. -/
def State.heldRanges (s : State) (te : Nat) : List Held :=
  let e := s.eng te
  (e.loads.flatMap fun w => ((TileOp.ldw w.args).areas w.hdr.arym).map fun x => { seq := w.seq, arym := none, area := x }) ++
  (e.fetches.flatMap fun w => ((TileOp.lda w.args).areas w.hdr.arym).map fun x => { seq := w.seq, arym := none, area := x }) ++
  (e.dmas.flatMap fun w => w.areas.map fun x => { seq := w.seq, arym := none, area := { lo := x.1, hi := x.2.1, write := x.2.2 } }) ++
  ((List.range 4).flatMap fun j => (e.ary j).macs.map fun m =>
    { seq := m.seq, arym := some m.hdr.arym, area := s.macArea te m.hdr m.args : Held }).eraseDups

/-- The ranges of a command that is to start. -/
def State.rangesOf (s : State) (te : Nat) (h : TileHdr) : TileOp → List (Option (BitVec 4) × Area)
  | .mac _ a => [(some h.arym, s.macArea te h a)]
  | .sto a =>
    (none, { lo := s.rowAt te a.acc.toNat, hi := s.rowAt te (a.acc.toNat + a.nr.toNat), write := true }) ::
      ((TileOp.sto a).areas h.arym).map fun x => (none, x)
  | .dma a =>
    let d := s.dmaDesc te a
    ((TileOp.dma a).areas h.arym).map (fun x => (none, x)) ++
      (if dmaDescOk d then (dmaAreas d).map fun x => (none, { lo := x.1, hi := x.2.1, write := x.2.2 }) else [])
  | o => (o.areas h.arym).map fun x => (none, x)

/-- Two ranges must be kept in order: they overlap, one of them is written, and they are not both of MMAs or MMAS that share an
array. -/
def clash (x : Option (BitVec 4) × Area) (p : Held) : Bool :=
  let sameArray := match x.1, p.arym with
    | some a, some b => !(Nat.beq (a &&& b).toNat 0)
    | _, _ => false
  !sameArray && (x.2.write || p.area.write) && Nat.blt x.2.lo p.area.hi && Nat.blt p.area.lo x.2.hi

/-- Spaces that a FENCE of SCOPE `k` covers: 0 engine memory, 1 cluster memory, 2 and 3 all others. -/
def fenceCovers (k space : Nat) : Bool := Nat.ble space k || Nat.ble 2 k

/-- A FENCE is held back by accesses that its SCOPE covers and that have not completed: writes, and with RD = 1 reads too, that of
a waiting DMA's descriptor in engine memory among them, which every SCOPE covers. -/
def State.fenceHeld (s : State) (te : Nat) (a : FenceArgs) : Bool :=
  let e := s.eng te
  let macs := (List.range 4).any fun j => !(e.ary j).macs.isEmpty
  macs || (a.rd && !(e.loads.isEmpty && e.fetches.isEmpty)) ||
    e.dmas.any fun w => a.rd || fenceCovers a.scope.toNat (fieldAt (s.dmaDesc te w.args) 48 1 / 4)

/-- KV window `w` is in use by a DMA that has not ended. -/
def State.windowBusy (s : State) (te w : Nat) : Bool :=
  (s.eng te).dmas.any fun x => let d := s.dmaDesc te x.args; dmaUsesKv d && Nat.beq (dmaWin d) w

/-- An earlier command that has not completed holds this one back (R101, R102): a WAIT holds back all; SYNC and SIG wait for
every command, FENCE for the accesses it covers, KVL for the DMA commands that use its window, and any command for those whose
ranges clash with its own, or for room among the 32 ranges. -/
def State.blocked (s : State) (te : Nat) (h : TileHdr) (o : TileOp) : Bool :=
  let e := s.eng te
  let mine := s.rangesOf te h o
  let held := s.heldRanges te
  e.waiting.isSome || ((h.sync || (match o with | .sig _ => true | _ => false)) && !e.quiet) ||
    (match o with
     | .fence a => s.fenceHeld te a
     | .kvl _ a => s.windowBusy te a.win.toNat
     | _ => false) ||
    (!held.isEmpty && (Nat.blt 32 (held.length + mine.length) || mine.any fun x => held.any (clash x)))

/-- The effect of a command that starts; the units do the rest. -/
def State.runTile (s : State) (te : Nat) (h : TileHdr) (upsets : List ArrayUpset) : TileOp → Ran Unit
  | .nop | .fence _ => .ok () s
  | .ldw a => .ok () (s.startLdw te h a)
  | .lda a => .ok () (s.startLda te h a)
  | .mac sparse a => s.runMac te h sparse a upsets
  | .vop op a => s.runVop te op a
  | .vred k a => s.runVred te k a
  | .qnt a => s.runQnt te a
  | .dqn a => s.runDqn te a
  | .sto a => s.runSto te a
  | .dma a => .ok () (s.startDma te h a)
  | .wait a => .ok () (s.runWait te a.sem.toNat a.n.toNat)
  | .sig a => .ok () (s.runSig te a.sem.toNat a.n.toNat)
  | .chkCrc a => s.runChkCrc te a
  | .chkSelf => .ok () (s.runChkSelf te h)
  | .kvl append a => s.runKvl te h append a

/-- A waiting WAIT is tried again. -/
def State.retryWait (s : State) (te : Nat) : State :=
  match (s.eng te).waiting with
  | some (k, n) => s.runWait te k n
  | none => s

/-- What has started goes on. -/
def State.proceed (s : State) (te : Nat) : State :=
  match (s.retryWait te).unitsGo te with
  | .ok _ s1 => s1
  | .waits => s
  | .fault x more s1 => (s1.engineFault te x more).settle

/-- A command that the front end has decoded starts, and the units go on; none where it must still wait. -/
def State.startTile (s : State) (te : Nat) (h : TileHdr) (upsets : List ArrayUpset) (o : TileOp) : Option State :=
  let tag := h.tag.toNat
  if s.blocked te h o then none
  else if !(o.valid h) then some ((s.plainFault te 5 tag).settle)
  else if (match o.rows h.arym with | some r => Nat.blt (s.accRows te) r.2 | none => false) then
    some ((s.plainFault te 9 tag).settle)
  else
    match ((s.runTile te h upsets o).bind fun _ s1 => s1.unitsGo te).tagged tag with
    | .waits => none
    | .fault x more s1 => some ((s1.engineFault te x more).settle)
    | .ok _ s1 => some (if (match o with | .kvl _ _ => true | _ => false) then s1.settle else s1)

/-- A tile command given to a running engine starts, or, where an earlier one holds it back, does not. -/
def State.issue (s : State) (te : Nat) (h : TileHdr) (upsets : List ArrayUpset) (o : TileOp) : State :=
  if !(Nat.beq (s.tenState te) 1) then s
  else
    let s1 := s.proceed te
    if Nat.beq (s1.tenState te) 1 then (s1.startTile te h upsets o).getD s1 else s1

end Sys2Proof.Machine
end

