-- ==== Sys2Proof/Machine/Engine.lean ====
section
/-!
DEFINITION. The commands of the tensor engines: one definition for each tile command, the fetch from the queue, and the writes and
reads of the engine registers that have an effect of their own (04_tensor_engine R99 to R122; 07_control_plane R189).
-/

namespace Sys2Proof.Machine

open Host (Outcome)

/-! ## Tile commands -/

/-- NOP -/
def execTileNop (te : Fin 64) (h : TileHdr) (s : State) : Outcome State Fault Refusal := .next (s.issue te h [] .nop)

/-- LDW -/
def execLdw (te : Fin 64) (h : TileHdr) (a : LdwArgs) (s : State) : Outcome State Fault Refusal :=
  .next (s.issue te h [] (.ldw a))

/-- LDA -/
def execLda (te : Fin 64) (h : TileHdr) (a : LdaArgs) (s : State) : Outcome State Fault Refusal :=
  .next (s.issue te h [] (.lda a))

/-- MMA -/
def execMma (te : Fin 64) (h : TileHdr) (a : MmaArgs) (upsets : List ArrayUpset) (s : State) : Outcome State Fault Refusal :=
  .next (s.issue te h upsets (.mac false a))

/-- MMAS -/
def execMmas (te : Fin 64) (h : TileHdr) (a : MmaArgs) (upsets : List ArrayUpset) (s : State) : Outcome State Fault Refusal :=
  .next (s.issue te h upsets (.mac true a))

/-- VOP ADD -/
def execVopAdd (te : Fin 64) (h : TileHdr) (a : VopArgs) (s : State) : Outcome State Fault Refusal :=
  .next (s.issue te h [] (.vop (vopCode .add) a))

/-- VOP SUB -/
def execVopSub (te : Fin 64) (h : TileHdr) (a : VopArgs) (s : State) : Outcome State Fault Refusal :=
  .next (s.issue te h [] (.vop (vopCode .sub) a))

/-- VOP MUL -/
def execVopMul (te : Fin 64) (h : TileHdr) (a : VopArgs) (s : State) : Outcome State Fault Refusal :=
  .next (s.issue te h [] (.vop (vopCode .mul) a))

/-- VOP FMA -/
def execVopFma (te : Fin 64) (h : TileHdr) (a : VopArgs) (s : State) : Outcome State Fault Refusal :=
  .next (s.issue te h [] (.vop (vopCode .fma) a))

/-- VOP MAX -/
def execVopMax (te : Fin 64) (h : TileHdr) (a : VopArgs) (s : State) : Outcome State Fault Refusal :=
  .next (s.issue te h [] (.vop (vopCode .max) a))

/-- VOP MIN -/
def execVopMin (te : Fin 64) (h : TileHdr) (a : VopArgs) (s : State) : Outcome State Fault Refusal :=
  .next (s.issue te h [] (.vop (vopCode .min) a))

/-- VOP ABS -/
def execVopAbs (te : Fin 64) (h : TileHdr) (a : VopArgs) (s : State) : Outcome State Fault Refusal :=
  .next (s.issue te h [] (.vop (vopCode .abs) a))

/-- VOP NEG -/
def execVopNeg (te : Fin 64) (h : TileHdr) (a : VopArgs) (s : State) : Outcome State Fault Refusal :=
  .next (s.issue te h [] (.vop (vopCode .neg) a))

/-- VOP DIV -/
def execVopDiv (te : Fin 64) (h : TileHdr) (a : VopArgs) (s : State) : Outcome State Fault Refusal :=
  .next (s.issue te h [] (.vop (vopCode .div) a))

/-- VOP SQRT -/
def execVopSqrt (te : Fin 64) (h : TileHdr) (a : VopArgs) (s : State) : Outcome State Fault Refusal :=
  .next (s.issue te h [] (.vop (vopCode .sqrt) a))

/-- VOP EXP2 -/
def execVopExp2 (te : Fin 64) (h : TileHdr) (a : VopArgs) (s : State) : Outcome State Fault Refusal :=
  .next (s.issue te h [] (.vop (vopCode .exp2) a))

/-- VOP LOG2 -/
def execVopLog2 (te : Fin 64) (h : TileHdr) (a : VopArgs) (s : State) : Outcome State Fault Refusal :=
  .next (s.issue te h [] (.vop (vopCode .log2) a))

/-- VOP RCP -/
def execVopRcp (te : Fin 64) (h : TileHdr) (a : VopArgs) (s : State) : Outcome State Fault Refusal :=
  .next (s.issue te h [] (.vop (vopCode .rcp) a))

/-- VOP RSQRT -/
def execVopRsqrt (te : Fin 64) (h : TileHdr) (a : VopArgs) (s : State) : Outcome State Fault Refusal :=
  .next (s.issue te h [] (.vop (vopCode .rsqrt) a))

/-- VOP TANH -/
def execVopTanh (te : Fin 64) (h : TileHdr) (a : VopArgs) (s : State) : Outcome State Fault Refusal :=
  .next (s.issue te h [] (.vop (vopCode .tanh) a))

/-- VOP CVT -/
def execVopCvt (te : Fin 64) (h : TileHdr) (a : VopArgs) (s : State) : Outcome State Fault Refusal :=
  .next (s.issue te h [] (.vop (vopCode .cvt) a))

/-- VOP CMPLT -/
def execVopCmplt (te : Fin 64) (h : TileHdr) (a : VopArgs) (s : State) : Outcome State Fault Refusal :=
  .next (s.issue te h [] (.vop (vopCode .cmplt) a))

/-- VOP SEL -/
def execVopSel (te : Fin 64) (h : TileHdr) (a : VopArgs) (s : State) : Outcome State Fault Refusal :=
  .next (s.issue te h [] (.vop (vopCode .sel) a))

/-- VOP AND -/
def execVopAnd (te : Fin 64) (h : TileHdr) (a : VopArgs) (s : State) : Outcome State Fault Refusal :=
  .next (s.issue te h [] (.vop (vopCode .and) a))

/-- VOP OR -/
def execVopOr (te : Fin 64) (h : TileHdr) (a : VopArgs) (s : State) : Outcome State Fault Refusal :=
  .next (s.issue te h [] (.vop (vopCode .or) a))

/-- VOP XOR -/
def execVopXor (te : Fin 64) (h : TileHdr) (a : VopArgs) (s : State) : Outcome State Fault Refusal :=
  .next (s.issue te h [] (.vop (vopCode .xor) a))

/-- VOP SHL -/
def execVopShl (te : Fin 64) (h : TileHdr) (a : VopArgs) (s : State) : Outcome State Fault Refusal :=
  .next (s.issue te h [] (.vop (vopCode .shl) a))

/-- VOP SHR -/
def execVopShr (te : Fin 64) (h : TileHdr) (a : VopArgs) (s : State) : Outcome State Fault Refusal :=
  .next (s.issue te h [] (.vop (vopCode .shr) a))

/-- VOP TRN -/
def execVopTrn (te : Fin 64) (h : TileHdr) (a : VopArgs) (s : State) : Outcome State Fault Refusal :=
  .next (s.issue te h [] (.vop (vopCode .trn) a))

/-- VOP CPY -/
def execVopCpy (te : Fin 64) (h : TileHdr) (a : VopArgs) (s : State) : Outcome State Fault Refusal :=
  .next (s.issue te h [] (.vop (vopCode .cpy) a))

/-- VOP LDS -/
def execVopLds (te : Fin 64) (h : TileHdr) (a : VopArgs) (s : State) : Outcome State Fault Refusal :=
  .next (s.issue te h [] (.vop (vopCode .lds) a))

/-- VRED SUM -/
def execVredSum (te : Fin 64) (h : TileHdr) (a : VredArgs) (s : State) : Outcome State Fault Refusal :=
  .next (s.issue te h [] (.vred .sum a))

/-- VRED SUMSQ -/
def execVredSumsq (te : Fin 64) (h : TileHdr) (a : VredArgs) (s : State) : Outcome State Fault Refusal :=
  .next (s.issue te h [] (.vred .sumsq a))

/-- VRED MAX -/
def execVredMax (te : Fin 64) (h : TileHdr) (a : VredArgs) (s : State) : Outcome State Fault Refusal :=
  .next (s.issue te h [] (.vred .max a))

/-- VRED MIN -/
def execVredMin (te : Fin 64) (h : TileHdr) (a : VredArgs) (s : State) : Outcome State Fault Refusal :=
  .next (s.issue te h [] (.vred .min a))

/-- VRED AMAX -/
def execVredAmax (te : Fin 64) (h : TileHdr) (a : VredArgs) (s : State) : Outcome State Fault Refusal :=
  .next (s.issue te h [] (.vred .amax a))

/-- VRED ARGMAX -/
def execVredArgmax (te : Fin 64) (h : TileHdr) (a : VredArgs) (s : State) : Outcome State Fault Refusal :=
  .next (s.issue te h [] (.vred .argmax a))

/-- QNT -/
def execQnt (te : Fin 64) (h : TileHdr) (a : QntArgs) (s : State) : Outcome State Fault Refusal :=
  .next (s.issue te h [] (.qnt a))

/-- DQN -/
def execDqn (te : Fin 64) (h : TileHdr) (a : DqnArgs) (s : State) : Outcome State Fault Refusal :=
  .next (s.issue te h [] (.dqn a))

/-- STO -/
def execSto (te : Fin 64) (h : TileHdr) (a : StoArgs) (s : State) : Outcome State Fault Refusal :=
  .next (s.issue te h [] (.sto a))

/-- DMA -/
def execEngineDma (te : Fin 64) (h : TileHdr) (a : DmaArgs) (s : State) : Outcome State Fault Refusal :=
  .next (s.issue te h [] (.dma a))

/-- WAIT -/
def execWaitSem (te : Fin 64) (h : TileHdr) (a : SemArgs) (s : State) : Outcome State Fault Refusal :=
  .next (s.issue te h [] (.wait a))

/-- SIG -/
def execSigSem (te : Fin 64) (h : TileHdr) (a : SemArgs) (s : State) : Outcome State Fault Refusal :=
  .next (s.issue te h [] (.sig a))

/-- FENCE -/
def execFence (te : Fin 64) (h : TileHdr) (a : FenceArgs) (s : State) : Outcome State Fault Refusal :=
  .next (s.issue te h [] (.fence a))

/-- CHK mode 0x0 -/
def execChkCrc (te : Fin 64) (h : TileHdr) (a : ChkArgs) (s : State) : Outcome State Fault Refusal :=
  .next (s.issue te h [] (.chkCrc a))

/-- CHK mode 0x1 -/
def execChkSelftest (te : Fin 64) (h : TileHdr) (s : State) : Outcome State Fault Refusal :=
  .next (s.issue te h [] .chkSelf)

/-- KVL with MODE 0 -/
def execKvlRead (te : Fin 64) (h : TileHdr) (a : KvlArgs) (s : State) : Outcome State Fault Refusal :=
  .next (s.issue te h [] (.kvl false a))

/-- KVL with MODE 1 -/
def execKvlAppend (te : Fin 64) (h : TileHdr) (a : KvlArgs) (s : State) : Outcome State Fault Refusal :=
  .next (s.issue te h [] (.kvl true a))

/-! ## The command queue (R17, R101, R121) -/

/-- Entries of the command queue: at least 64 and at most 4,096.  DESIGN CHOICE, log entry 71: SIZE below 0x6 counts as 0x6 and
above 0xC as 0xC. -/
def State.cqSize (s : State) (te : Nat) : Nat := 2 ^ min 12 (max 6 (s.fld (Reg.TEN_CQ_CFG te) Fld.TEN_CQ_CFG_SIZE))

/-- The physical address of slot `i` of the command queue. -/
def State.cqSlot (s : State) (te i : Nat) : Nat :=
  clusterAt (te / 8) + s.fld (Reg.TEN_CQ_BASE te) Fld.TEN_CQ_BASE_BASE * 16 + i * 16

/-- ENGINE_COMMAND_FETCH: what has started goes on, and the next command of the queue is read, decoded and issued; one that must
wait stays in the queue, and a halted engine fetches none.  DESIGN CHOICE, log entry 71: FAULT_TAG is 0 where the command itself
cannot be read. -/
def execEngineCommandFetch (te : Fin 64) (upsets : List ArrayUpset) (s : State) : Outcome State Fault Refusal :=
  .next <|
    if !(inRange (s.tenState te) 1 3) then s
    else
      let s1 := s.proceed te
      let ctrl := s1.reg (Reg.TEN_CTRL te)
      let head := s1.fld (Reg.TEN_CQ_HEAD te) Fld.TEN_CQ_HEAD_HEAD
      if !(Nat.beq (s1.tenState te) 1) || Nat.beq (Fld.TEN_CTRL_ENABLE.get ctrl) 0 || Nat.beq (Fld.TEN_CTRL_HALT.get ctrl) 1 ||
          Nat.beq head (s1.fld (Reg.TEN_CQ_TAIL te) Fld.TEN_CQ_TAIL_TAIL) || (s1.eng te).waiting.isSome then s1
      else
        match s1.readPhys (s1.tenReq te (s1.tenClass te)) (s1.cqSlot te head) 16 with
        | (.okay, bs, s2) =>
          let w := leNat bs
          let s3 := s2.setFld (Reg.TEN_CQ_HEAD te) Fld.TEN_CQ_HEAD_HEAD ((head + 1) % s2.cqSize te)
          match decodeTile w with
          | none => (s3.plainFault te 5 (bitsOf w 31 24)).settle
          | some (h, o) => (s3.startTile te h upsets o).getD s1
        | (e, _, s2) => (s2.plainFault te (dmaCause e) 0).settle

/-- Words of a stream are stored in the slots of the queue from `i` on, `n` of them; what is left is returned. -/
def State.feedSlots (s : State) (te : Nat) : Nat → Nat → List Nat → List Nat × State
  | 0, _, ws => (ws, s)
  | _, _, [] => ([], s)
  | n + 1, i, w :: ws =>
    let req := s.unitReq (.clusterCore (Fin.ofNat 8 (te / 8))) (s.tenClass te) 0
    (s.storeAt req (s.cqSlot te i) (leBytes 16 w)).feedSlots te n ((i + 1) % s.cqSize te) ws

/-! ## Sweeps and stripes (R133, R138, R140; log entry 75) -/

/-- Engine `te` has completed every command that it has been given. -/
def State.drained (s : State) (te : Nat) : Bool :=
  Nat.beq (s.fld (Reg.TEN_CQ_HEAD te) Fld.TEN_CQ_HEAD_HEAD) (s.fld (Reg.TEN_CQ_TAIL te) Fld.TEN_CQ_TAIL_TAIL) &&
    (s.eng te).quiet && (s.eng te).waiting.isNone

/-- The commands of the engine's sweep that are still to be copied; none without a sweep to keep to. -/
def State.sweepLeft (s : State) (te : Nat) (j : Job) : Option Nat :=
  let e := s.eng te
  if (sweepsOf j.layers)[e.sweep]?.isNone then none
  else some (s.sweepEnd j e.sweep - ((s.feedOf te j).length - e.feed.length))

/-- Engine `te` of job `no` goes on over the sweeps it has done, `fuel` of them at most: the last of a layer completes the engine's
stripe of it, and a layer whose stripes elsewhere are still needed is not begun, whether or not the engine has a row of the one
before.  The commands of a stripe without rows are dropped. -/
def State.passSweeps (s : State) (te no : Nat) : Nat → State
  | 0 => s
  | fuel + 1 =>
    match s.jobOf no with
    | none => s
    | some j =>
      let e := s.eng te
      let k := j.place te
      let n := j.engines.length
      match (sweepsOf j.layers)[e.sweep]?, s.sweepLeft te j with
      | some (i, _), some left =>
        let empty := stripeEmpty j.layers n k i
        let s0 := if empty then s.setEng te { e with feed := e.feed.drop left } else s
        if !empty && (!(Nat.beq left 0) || !(s.drained te)) then s
        else
          let next := (sweepsOf j.layers)[e.sweep + 1]?.map (·.1)
          let j1 := if decide (next = some i) then j else { j with stripes := (j.stripes ++ [(i, k)]).eraseDups }
          let s1 := s0.setJob j1
          let held := match next with
            | some l => !(Nat.beq l i) && (needsFrom j.layers n k l).any fun x => !(j1.stripes.contains x)
            | none => false
          if held then s1 else (s1.toSweep te j (e.sweep + 1)).passSweeps te no fuel
      | _, _ => s

/-- Every engine of the job that runs on engine `te` goes on over the sweeps it has done. -/
def State.noteStripes (s : State) (te : Nat) : State :=
  match (s.eng te).job.bind s.jobOf with
  | none => s
  | some j => j.engines.foldl (fun s k => s.passSweeps k j.no (sweepsOf j.layers).length) s

/-- A write of TEN_CQ_TAIL: where a job's stream is still to be copied, the cluster core has put its next commands into the
slots announced (R189), as far as the sweep at hand goes (R133, R140). -/
def State.writeCqTail (s : State) (te : Nat) (w : Word) : State :=
  let s0 := if (s.eng te).feed.isEmpty then s else s.noteStripes te
  let old := s0.fld (Reg.TEN_CQ_TAIL te) Fld.TEN_CQ_TAIL_TAIL
  let size := s0.cqSize te
  let said := (Fld.TEN_CQ_TAIL_TAIL.get w + size - old) % size
  let n := match (s.eng te).job.bind s.jobOf with
    | some j => if (s0.eng te).feed.isEmpty then said else (match s0.sweepLeft te j with | some k => min said k | none => said)
    | none => said
  let r := s0.feedSlots te n old (s0.eng te).feed
  (r.2.setEng te { r.2.eng te with feed := r.1 }).setFld (Reg.TEN_CQ_TAIL te) Fld.TEN_CQ_TAIL_TAIL
    (if Nat.beq n said then Fld.TEN_CQ_TAIL_TAIL.get w else (old + n) % size)

/-- TEN_CQ_TAIL_WRITE -/
def execTenCqTailWrite (te : Fin 64) (req : Req) (value : Word) (s : State) : Outcome State Fault Refusal :=
  .next (s.busWrite req (Reg.TEN_CQ_TAIL te) value (·.writeCqTail te value))

/-! ## TEN_CTRL, TEN_WDT and TEN_CHK_SKIP (R115, R120 to R122) -/

/-- A write of RESET: the job there ends with FAULT_ENGINE_RESET, and every unit, queue and buffer is cleared; an engine under
test or offline stays so. -/
def State.resetEngine (s : State) (te : Nat) : State :=
  let s1 := match (s.eng te).job with
    | some no => s.faultJob no stEngineReset te 0
    | none => s
  s1.resetKept te

/-- A write of TEN_CTRL: a reset, or ENABLE and HALT with the state they give an engine that is idle, running or halted.
DESIGN CHOICE, log entry 71: ENABLE and HALT written together with RESET = 1 are ignored, and the two bits alone say which of
STATE 0, 1 and 2 an engine that is not stopped shows, commands waiting or not. -/
def State.writeTenCtrl (s : State) (te : Nat) (w : Word) : State :=
  let a := Reg.TEN_CTRL te
  if Nat.beq (Fld.TEN_CTRL_RESET.get w) 1 then (s.resetEngine te).settle
  else
    let en := Fld.TEN_CTRL_ENABLE.get w
    let halt := Fld.TEN_CTRL_HALT.get w
    let s1 := (s.setFld a Fld.TEN_CTRL_ENABLE en).setFld a Fld.TEN_CTRL_HALT halt
    if Nat.ble (s.tenState te) 2 then
      s1.setFld (Reg.TEN_STATUS te) Fld.TEN_STATUS_STATE (if Nat.beq en 0 then 0 else if Nat.beq halt 1 then 2 else 1)
    else s1

/-- TEN_ENABLE -/
def execTenEnable (te : Fin 64) (req : Req) (value : Word) (s : State) : Outcome State Fault Refusal :=
  .next (s.busWrite req (Reg.TEN_CTRL te) value (·.writeTenCtrl te value))

/-- TEN_HALT -/
def execTenHalt (te : Fin 64) (req : Req) (value : Word) (s : State) : Outcome State Fault Refusal :=
  .next (s.busWrite req (Reg.TEN_CTRL te) value (·.writeTenCtrl te value))

/-- TEN_RESET -/
def execTenReset (te : Fin 64) (req : Req) (value : Word) (s : State) : Outcome State Fault Refusal :=
  .next (s.busWrite req (Reg.TEN_CTRL te) value (·.writeTenCtrl te value))

/-- A write of TEN_WDT: a new limit, and the count that runs for a job on the engine starts again (R122). -/
def State.writeTenWdt (s : State) (te : Nat) (w : Word) : State :=
  let s1 := s.plainWrite (Reg.TEN_WDT te) w
  if (s.eng te).wdtStart.isSome then s1.setEng te { s1.eng te with wdtStart := some s.tb.elapsed } else s1

/-- TEN_WDT_WRITE -/
def execTenWdtWrite (te : Fin 64) (req : Req) (value : Word) (s : State) : Outcome State Fault Refusal :=
  .next (s.busWrite req (Reg.TEN_WDT te) value (·.writeTenWdt te value))

/-- TEN_CHK_SKIP_READ -/
def execTenChkSkipRead (te : Fin 64) (req : Req) (s : State) : Outcome State Fault Refusal :=
  .next (s.readClear req (Reg.TEN_CHK_SKIP te))

end Sys2Proof.Machine
end

