-- ==== Sys2Proof/Machine/Heath.lean ====
section
/-!
DEFINITION. The Heath island: triple, dual and split mode, the odd core, the fatal path (13_host_cores_and_redundancy R376 to
R381), and LKSYNC timeouts of both kinds of core.
-/

namespace Sys2Proof.Machine

open Host (Outcome)

/-- MODE of Heath. -/
def State.heathMode (s : State) : Nat := s.fld Reg.HTH_STATUS Fld.HTH_STATUS_MODE

def State.setHeathMode (s : State) (m : Nat) : State := s.setFld Reg.HTH_STATUS Fld.HTH_STATUS_MODE m

def State.heathCore (s : State) (n : Nat) : HeathCore := s.heath.cores[Fin.ofNat 3 n]

def State.setHeathCore (s : State) (n : Nat) (c : HeathCore) : State :=
  { s with heath := { s.heath with cores := s.heath.cores.set (Fin.ofNat 3 n) c } }

/-- A write of integer register `r` of a Heath core; x0 discards it. -/
def HeathCore.setX (c : HeathCore) (r : Fin 32) (v : Word) : HeathCore := if Nat.beq r 0 then c else { c with x := c.x.set r v }

/-- LKSYNC retires with `v` in `rd`. -/
def HeathCore.lkDone (c : HeathCore) (rd : Fin 32) (v : Word) : HeathCore :=
  { c.setX rd v with pc := c.pc + 4#32, arrived := none }

/-- A change of every Heath core. -/
def State.allHeath (s : State) (f : Nat → HeathCore → HeathCore) : State :=
  (List.range 3).foldl (fun s k => s.setHeathCore k (f k (s.heathCore k))) s

/-- Heath enters split mode: the cores retire LKSYNC with their numbers (R381). -/
def State.heathToSplit (s : State) (rd : Fin 32) : State :=
  (s.allHeath fun k c => c.lkDone rd (BitVec.ofNat 32 k)).setHeathMode 2

/-- A CSR of a Heath core. -/
def HeathCore.csr (c : HeathCore) (n : Nat) : Word := SMap.get (fun _ => 0#32) c.csrs n
def HeathCore.setCsr (c : HeathCore) (n : Nat) (v : Word) : HeathCore := { c with csrs := SMap.set (fun _ => 0#32) c.csrs n v }

/-- An illegal-instruction exception of a Heath core: the RISC-V privileged architecture that R376 names, with M and U modes (log
entry 16). -/
def HeathCore.illegal (c : HeathCore) : HeathCore :=
  let st := (c.csr 0x300).toNat
  let mpp := if decide (c.priv = .m) then 3 else 0
  let st1 := st - bitsOf st 7 7 * 2 ^ 7 + bitsOf st 3 3 * 2 ^ 7 - bitsOf st 3 3 * 2 ^ 3 - bitsOf st 12 11 * 2 ^ 11 + mpp * 2 ^ 11
  { ((((c.setCsr 0x341 c.pc).setCsr 0x342 2#32).setCsr 0x343 0#32).setCsr 0x300 (BitVec.ofNat 32 st1)) with
    pc := c.csr 0x305 &&& ~~~3#32, priv := .m }

/-- A change of Heath core n, and of all that run one instruction stream with it (R377, R378). -/
def State.onHeath (s : State) (n : Nat) (f : HeathCore → HeathCore) : State :=
  if Nat.beq s.heathMode 2 then s.setHeathCore n (f (s.heathCore n))
  else s.allHeath fun _ c => if c.fenced then c else f c

/-- LKSYNC on Heath core n (R368, R381).  In triple mode all three cores execute it; during a resync it waits.  Outside M mode, or
where a reserved field of its word is not zero, it is an illegal instruction. -/
def State.heathLksync (s : State) (n : Nat) (rd : Fin 32) (reserved : Bool) : State :=
  let target := s.fld Reg.HTH_MODE Fld.HTH_MODE_TARGET
  let c := s.heathCore n
  if c.arrived.isSome || c.fenced || s.heath.halted || s.rom.running then s
  else if !(decide (c.priv = .m)) || reserved then s.onHeath n (·.illegal)
  else
    match s.heathMode, target with
    | 0, 0 => s.allHeath fun _ c => c.lkDone rd 0xFFFFFFFE#32
    | 0, _ => s.heathToSplit rd
    | 2, 0 =>
      let s1 := s.setHeathCore n { c with arrived := some rd, since := s.tb.elapsed }
      if (List.range 3).all fun k => (s1.heathCore k).arrived.isSome then s1.setHeathMode 3 else s1
    | 2, _ => s.setHeathCore n (c.lkDone rd 0xFFFFFFFE#32)
    | 1, _ =>
      let s1 := s.allHeath fun _ c => { c with arrived := some rd, since := s.tb.elapsed }
      { s1 with heath := { s1.heath with pending := true } }
    | _, 0 => s.allHeath fun _ c => if c.fenced then c else c.lkDone rd 0xFFFFFFFE#32
    | _, _ => s.allHeath fun _ c => if c.fenced then c else { c with arrived := some rd, since := s.tb.elapsed }

/-- HEATH_SPLIT -/
def execHeathSplit (core : Fin 3) (word : Word) (s : State) : Outcome State Fault Refusal :=
  .next (match lkFields word with | some f => s.heathLksync core f.1 f.2 | none => s)

/-- HEATH_TRIPLE -/
def execHeathTriple (core : Fin 3) (word : Word) (s : State) : Outcome State Fault Refusal :=
  .next (match lkFields word with | some f => s.heathLksync core f.1 f.2 | none => s)

/-- HEATH_TRIPLE_DONE: HC0's state is the state of all, LKSYNC retires with 0, and semaphores that HC1 or HC2 holds are
released (R381, R420). -/
def execHeathTripleDone (s : State) : Outcome State Fault Refusal :=
  .next <|
    if Nat.beq (s.heathMode) 3 then
      let c := s.heathCore 0
      let c1 := c.lkDone (c.arrived.getD 0) 0#32
      (((s.allHeath fun _ _ => c1).setHeathMode 0).releaseSems (.hc 1)).releaseSems (.hc 2)
    else s

/-- LKSYNC_TIMEOUT: the other cores did not arrive within TMO_US (R371, R381). -/
def execLksyncTimeout (core : SyncCore) (s : State) : Outcome State Fault Refusal :=
  .next <|
    match core with
    | .ac n =>
      let h := s.hart n
      let p := n.val / 2
      match h.arrived with
      | some rd =>
        if Nat.beq (s.pairMode p) 0 &&
            s.passedUs h.since (waitUs (s.fld (Reg.APC_PAIR_CTRL p) Fld.APC_PAIR_CTRL_TMO_US)) then
          (s.setHart n (h.lkDone rd minusOne)).raise (Reg.APC_PAIR_STATUS p) Fld.APC_PAIR_STATUS_TIMEOUT
        else s
      | none => s
    | .hc n =>
      let c := s.heathCore n
      match c.arrived with
      | some rd =>
        if (Nat.beq s.heathMode 2 || Nat.beq s.heathMode 4) &&
            s.passedUs c.since (waitUs (s.fld Reg.HTH_MODE Fld.HTH_MODE_TMO_US)) then
          (s.setHeathCore n (c.lkDone rd 0xFFFFFFFF#32)).raise Reg.HTH_STATUS Fld.HTH_STATUS_TIMEOUT
        else s
      | none => s

/-- HEATH_ODD_CORE: one core differs in triple mode; the third time within 1 s it is fenced (R378, R380; elapsed time stands
for Heath clock time, log entry 18). -/
def execHeathOddCore (core : Fin 3) (s : State) : Outcome State Fault Refusal :=
  .next <|
    if Nat.beq (s.heathMode) 0 then
      let recent := (core.val, s.tb.elapsed) :: s.heath.odds.filter fun o => !(s.passedUs o.2 1000000)
      let fence := Nat.ble 3 (recent.filter fun o => Nat.beq o.1 core).length
      let s1 := ({ s with heath := { s.heath with odds := recent } }.setFld Reg.HTH_STATUS Fld.HTH_STATUS_ODD core).report
        (plainRecord (.hc core) sevCE)
      if fence then
        (((((s1.setHeathCore core { HeathCore.reset with fenced := true }).setHeathMode 4).raise Reg.HTH_STATUS
          Fld.HTH_STATUS_FENCED)).report (plainRecord (.hc core) sevUE)).releaseSems (.hc core)
      else s1.setHeathMode 1
    else s

/-- HEATH_RESYNC_DONE: the odd core takes the state of the others, triple mode resumes, and an LKSYNC that waited is executed
by all three (R378, R381). -/
def execHeathResyncDone (s : State) : Outcome State Fault Refusal :=
  .next <|
    if Nat.beq (s.heathMode) 1 then
      let good := if Nat.beq (s.fld Reg.HTH_STATUS Fld.HTH_STATUS_ODD) 0 then 1 else 0
      let c := s.heathCore good
      let s1 := ((((s.allHeath fun _ _ => { c with arrived := none }).setHeathMode 0).raise Reg.HTH_STATUS
        Fld.HTH_STATUS_RESYNC)).count Reg.HTH_RESYNC Fld.HTH_RESYNC_COUNT 1
      if s1.heath.pending then
        { s1 with heath := { s1.heath with pending := false } }.heathLksync 0 (c.arrived.getD 0) false
      else s1
    else s

/-- HC0 to HC2 are reset and restart from the boot ROM, in triple mode or, with a fenced core, in dual mode (R379, R380).  The
ROM runs its step 3 only, or the whole boot where that was still running (17_boot_and_firmware R481; log entry 44). -/
def State.restartHeath (s : State) : State :=
  let s1 := s.allHeath fun _ c => { HeathCore.reset with fenced := c.fenced }
  let s2 := (s1.setHeathMode (if s.flag Reg.HTH_STATUS Fld.HTH_STATUS_FENCED then 4 else 0))
  let again := s2.rom.running && !s2.rom.heathOnly
  let rom : BootRom := { s2.rom with
    running := true, heathOnly := !again, dir := if again then none else s2.rom.dir, dirTry := 0, cls := 0, second := false }
  let s3 := { s2 with heath := { s2.heath with pending := false, halted := false }, rom := rom }.setWdt 11 { s2.wdt 11 with kickAt := none }
  ((s3.releaseSems (.hc 0)).releaseSems (.hc 1)).releaseSems (.hc 2)

/-- The fatal path: FAULT_N is asserted, SAFE_STATE takes FALLBACK, a UE_FATAL record is sent, and Heath restarts (R379,
R451). -/
def State.heathFatal (s : State) : State :=
  let s1 := (s.setFld Reg.ERM_SAFE Fld.ERM_SAFE_LEVEL (s.fld Reg.ERM_SAFE Fld.ERM_SAFE_FALLBACK)).setFld Reg.ERM_SAFE
    Fld.ERM_SAFE_FAULT 1
  (s1.report (plainRecord .heath sevFatal)).restartHeath

/-- HEATH_FATAL_PATH: the two cores of dual mode differ, or all three of triple mode. -/
def execHeathFatalPath (s : State) : Outcome State Fault Refusal :=
  .next (if Nat.beq s.heathMode 0 || Nat.beq s.heathMode 1 || Nat.beq s.heathMode 4 then s.heathFatal else s)

/-- HTH_RESYNC_READ -/
def execHthResyncRead (req : Req) (s : State) : Outcome State Fault Refusal := .next (s.readClear req Reg.HTH_RESYNC)

/-- A write of HTH_MODE: with a fenced core, TARGET = 1 is ignored and sets CFG_ERR (R381). -/
def State.writeHeathMode (s : State) (w : Word) : State :=
  let a := Reg.HTH_MODE
  if s.flag Reg.HTH_STATUS Fld.HTH_STATUS_FENCED && Nat.beq (Fld.HTH_MODE_TARGET.get w) 1 then
    (s.plainWrite a (Fld.HTH_MODE_TARGET.put w (s.fld a Fld.HTH_MODE_TARGET))).raise Reg.HTH_STATUS Fld.HTH_STATUS_CFG_ERR
  else s.plainWrite a w

end Sys2Proof.Machine
end

