-- ==== Sys2Proof/Machine/Weir.lean ====
section
/-!
DEFINITION. The Weir bridges' own registers, their messages and semaphores (15_bridges_and_gateway R410, R415 to R420).
-/

namespace Sys2Proof.Machine

open Host (Outcome)

/-! ## Registers (R412, R416, R417) -/

/-- A write of WIR_CTRL: a timeout of 0 is ignored and sets CFG_ERR. -/
def State.writeWirCtrl (s : State) (n : Nat) (w : Word) : State :=
  let a := Reg.WIR_CTRL n
  let keep (f : Fld) (x : Word) : Word := if Nat.beq (f.get w) 0 then f.put x (s.fld a f) else x
  let s1 := s.plainWrite a (keep Fld.WIR_CTRL_TGT_TMO_US (keep Fld.WIR_CTRL_RD_TMO_US w))
  if Nat.beq (Fld.WIR_CTRL_TGT_TMO_US.get w) 0 || Nat.beq (Fld.WIR_CTRL_RD_TMO_US.get w) 0 then s1.cfgErr a else s1

/-- WIR_CNT_READ -/
def execWirCntRead (bridge : Fin 2) (req : Req) (s : State) : Outcome State Fault Refusal :=
  .next (s.readClear req (Reg.WIR_CNT bridge))

/-- READ_RESPONSE_TIMEOUT: the oldest response that nobody takes, held for RD_TMO_US, is discarded and counted, without a
record (R416). -/
def execReadResponseTimeout (bridge : Fin 2) (s : State) : Outcome State Fault Refusal :=
  .next <|
    match (s.weir bridge).held with
    | [] => s
    | t :: ts =>
      if s.passedUs t (s.fld (Reg.WIR_CTRL bridge) Fld.WIR_CTRL_RD_TMO_US) then
        ((s.setWeir bridge { s.weir bridge with held := ts }).raise (Reg.WIR_STATUS bridge) Fld.WIR_STATUS_DISCARD).count
          (Reg.WIR_CNT bridge) Fld.WIR_CNT_DISCARD 1
      else s

/-- A posted write has failed: PERR, its count, and a CE record with the writer's IID, at most one per bridge per 1 ms (R413). -/
def State.postedFailed (s : State) (n : Nat) (req : Req) : State :=
  let s1 := (s.raise (Reg.WIR_STATUS n) Fld.WIR_STATUS_PERR).count (Reg.WIR_CNT n) Fld.WIR_CNT_PERR 1
  if s1.msSince (s1.weir n).perrAt then
    (s1.setWeir n { s1.weir n with perrAt := some s1.tb.elapsed }).report
      { unit := .weir (Fin.ofNat 2 n), sub := 0, sev := sevCE, code := 0, path := pathNone, info := (iidOf req.ini).toNat }
  else s1

/-! ## Messages (R415) -/

/-- BRIDGE_MESSAGE: input `input` changes its level; a transition to active sends the message of its entry. -/
def execBridgeMessage (bridge : Fin 2) (input : Fin 64) (active : Bool) (s : State) : Outcome State Fault Refusal :=
  .next <|
    let x := s.weir bridge
    let was := x.levels.contains input.val
    let levels := if active then (if was then x.levels else x.levels ++ [input.val]) else x.levels.filter (· != input.val)
    let s1 := s.setWeir bridge { x with levels }
    let a := Reg.WIR_MSG bridge input
    let id := s.fld a Fld.WIR_MSG_ID
    if active && !was && s.flag a Fld.WIR_MSG_EN && !(Nat.beq id 0) then
      s1.deliver (0x16000 + s.fld a Fld.WIR_MSG_PAGE) id (s.flag a Fld.WIR_MSG_W)
    else s1

/-! ## Semaphores (R418 to R420) -/

/-- The request comes from the owner of semaphore k. -/
def State.semOwned (s : State) (k : Nat) (req : Req) : Bool :=
  s.flag (Reg.WIR0_SEM_OWN k) Fld.WIR0_SEM_OWN_HELD &&
    Nat.beq (s.fld (Reg.WIR0_SEM_OWN k) Fld.WIR0_SEM_OWN_OWNER) (iidOf req.ini).toNat

/-- A write of WIR0_SEMk_OWN: ACQUIRE of a free semaphore, and RELEASE by its owner; from others it is ignored and sets
CFG_ERR. -/
def State.writeSemOwn (s : State) (k : Nat) (req : Req) (w : Word) : State :=
  let a := Reg.WIR0_SEM_OWN k
  let s1 :=
    if Nat.beq (Fld.WIR0_SEM_OWN_ACQUIRE.get w) 1 && !(s.flag a Fld.WIR0_SEM_OWN_HELD) then
      (s.raise a Fld.WIR0_SEM_OWN_HELD).setFld a Fld.WIR0_SEM_OWN_OWNER (iidOf req.ini).toNat
    else s
  if Nat.beq (Fld.WIR0_SEM_OWN_RELEASE.get w) 1 then
    if s1.semOwned k req then (s1.lower a Fld.WIR0_SEM_OWN_HELD).setFld a Fld.WIR0_SEM_OWN_OWNER 0 else s1.cfgErr a
  else s1

/-- A write of WIR0_SEMk_ADDR or _DATA, by the owner. -/
def State.writeSemReg (s : State) (a k : Nat) (req : Req) (w : Word) : State :=
  if s.semOwned k req then s.plainWrite a w else s.cfgErr a

/-- A write of WIR0_SEMk_CMD: GO starts an operation; while one runs it is ignored and sets CFG_ERR. -/
def State.writeSemCmd (s : State) (k : Nat) (req : Req) (w : Word) : State :=
  let a := Reg.WIR0_SEM_CMD k
  let go := Nat.beq (Fld.WIR0_SEM_CMD_GO.get w) 1
  if !(s.semOwned k req) || (go && s.flag (Reg.WIR0_SEM_OWN k) Fld.WIR0_SEM_OWN_BUSY) then s.cfgErr a
  else
    let s1 := s.plainWrite a w
    if go then
      let o : SemOp := { k, op := s1.fld a Fld.WIR0_SEM_CMD_OP, w := req.w, lost := false, data := s1.reg (Reg.WIR0_SEM_DATA k),
                         addr := s1.fld a Fld.WIR0_SEM_CMD_ADDR_HI * 2 ^ 32 +
                           s1.fld (Reg.WIR0_SEM_ADDR k) Fld.WIR0_SEM_ADDR_ADDR_LO * 4 }
      { s1 with semOps := s1.semOps ++ [o] }.raise (Reg.WIR0_SEM_OWN k) Fld.WIR0_SEM_OWN_BUSY
    else s1

/-- SEM_ACQUIRE -/
def execSemAcquire (sem : Fin 8) (req : Req) (value : Word) (s : State) : Outcome State Fault Refusal :=
  .next (s.busWrite req (Reg.WIR0_SEM_OWN sem) value (·.writeSemOwn sem (s.issued req) value))

/-- SEM_RELEASE -/
def execSemRelease (sem : Fin 8) (req : Req) (value : Word) (s : State) : Outcome State Fault Refusal :=
  .next (s.busWrite req (Reg.WIR0_SEM_OWN sem) value (·.writeSemOwn sem (s.issued req) value))

/-- SEM_GO -/
def execSemGo (sem : Fin 8) (req : Req) (value : Word) (s : State) : Outcome State Fault Refusal :=
  .next (s.busWrite req (Reg.WIR0_SEM_CMD sem) value (·.writeSemCmd sem (s.issued req) value))

/-- The new word of an atomic operation on the old word `x` with the operand `y` (R419). -/
def semResult (op : Nat) (x y : Word) : Word :=
  match op with
  | 0 => y
  | 1 => x + y
  | 2 => x &&& y
  | 3 => x ||| y
  | 4 => x ^^^ y
  | 5 => if Nat.blt x.toNat y.toNat then y else x
  | 6 => if Nat.blt x.toNat y.toNat then x else y
  | 7 => if x.slt y then y else x
  | _ => if x.slt y then x else y

/-- The atomic operation on a DDR word, with the owner's W and class CL15; any other address gives DECODE. -/
def State.semAmo (s : State) (o : SemOp) : Resp × Word × State :=
  match s.place o.addr with
  | .ddr =>
    let req : Req := { ini := .semaphoreUnit, w := o.w, cl := 15, ctx := 0 }
    match s.judge req .amo o.addr 4 with
    | (.okay, s1) =>
      match s1.readBlock .amo req o.addr 4 false with
      | (.okay, d, s2) =>
        let old : Word := BitVec.ofNat 32 (leNat d)
        let r := s2.writeBlock req o.addr (leBytes 4 (semResult o.op old o.data).toNat) false
        (r.1, old, r.2)
      | (e, _, s2) => (e, 0#32, s2)
    | (e, s1) => (e, 0#32, s1)
  | _ => (.decode, 0#32, s)

/-- The operation of semaphore k ends; with a failed response DATA is a free value (log entry 6). -/
def State.semOpDone (s : State) (k : Nat) : State :=
  match s.semOps.find? fun o => Nat.beq o.k k with
  | none => s
  | some o =>
    let own := Reg.WIR0_SEM_OWN k
    let r := { s with semOps := s.semOps.erase o }.semAmo o
    let s1 := r.2.2.lower own Fld.WIR0_SEM_OWN_BUSY
    if o.lost then s1
    else
      let data := if decide (r.1 = .okay) then r.2.1 else BitVec.ofNat 32 (Config.freeValue s.ticks)
      { s1 with ticks := s1.ticks + 1 }.setFld own Fld.WIR0_SEM_OWN_RESP (respCode r.1) |>.setReg
        (Reg.WIR0_SEM_DATA k) data

/-- SEM_OP_DONE -/
def execSemOpDone (sem : Fin 8) (s : State) : Outcome State Fault Refusal := .next (s.semOpDone sem)

/-- A read of DATA waits until a running operation has ended (R419): it ends before the read answers. -/
def State.semAwait (s : State) (a : Nat) : State :=
  if inRange a 0x19000800 0x19000880 && Nat.beq (a % 16) 12 then s.semOpDone ((a - 0x19000800) / 16) else s

end Sys2Proof.Machine
end

