-- ==== Sys2Proof/Machine/Resets.lean ====
section
/-!
DEFINITION. What resets do (00_scope R13; 16_safety_and_errors R450; 18_power_thermal_reset R491, R494, R505, R506): the registers
of a power domain, what its units hold, POR_N and WARM_RST_N.
-/

namespace Sys2Proof.Machine

/-! ## Registers (R13) -/

/-- What a register holds after a reset of its domain: reset values, but for the fields whose map says that they are kept
(R13). -/
def afterReset (a : Nat) (w : Word) : Word :=
  (regFields a).foldl (fun r f => if f.kept then f.fld.put r (f.fld.get w) else r) (regReset a)

/-- The power domain of a register. -/
def domainOfReg (a : Nat) : Option Nat := (unitOfReg a).map domainOf

/-- Registers of the chosen domains at their values after a reset. -/
def resetRegs (p : Nat → Bool) (regs : List (Nat × Word)) : List (Nat × Word) :=
  regs.filterMap fun e =>
    match domainOfReg e.1 with
    | some d =>
      if p d then
        let w := afterReset e.1 e.2
        if decide (w = regReset e.1) then none else some (e.1, w)
      else some e
    | none => some e

/-- The fields that show fuses take their values from them (R465; 14_isolated_worlds R408; R502). -/
def State.senseFuses (s : State) : State :=
  let f := s.fuses
  let s1 := (((((s.setFld Reg.BOOT_LCS Fld.BOOT_LCS_STATE f.inForce).setFld Reg.BOOT_LCS Fld.BOOT_LCS_PENDING
    (if Nat.beq f.lifecycle f.inForce then 0 else 1)).setFld Reg.BOOT_FUSE Fld.BOOT_FUSE_KEYPROG f.keyprog).setFld
    Reg.BOOT_FUSE Fld.BOOT_FUSE_HYBRID f.hybrid.toNat).setFld Reg.BOOT_KEYREV Fld.BOOT_KEYREV_REV f.revoked).setFld
    Reg.THM_WEAR_H Fld.THM_WEAR_H_HOURS f.wear
  let s2 := s1.setFld Reg.THM_STATUS Fld.THM_STATUS_WEAR_OUT
    (if Nat.ble 2000 f.wear && Nat.beq (s1.fld Reg.THM_WEAR_A Fld.THM_WEAR_A_ALLOW_MS) 0 then 1 else 0)
  (List.range 8).foldl (fun s c => s.setFld (Reg.BOOT_ARB c) Fld.BOOT_ARB_COUNT f.counts[Fin.ofNat 8 c]) s2

/-! ## The units of a domain -/

/-- An item of a bridge belongs to domain d: its initiator or its target lies there. -/
def BridgeItem.inDomain (i : BridgeItem) (d : Nat) : Bool :=
  Nat.beq (domainOf (unitOfInitiator i.req.ini)) d || decide (domainOfReg i.addr = some d)

/-- Outstanding transactions of the units of domain d end with RESP LINK (R494); for a buffered write that is a failed one. -/
def State.endOutstanding (s : State) (d : Nat) : State :=
  (List.range 2).foldl (fun s n =>
    let x := s.weir n
    let gone := x.queue.filter fun i => i.inDomain d
    let s1 := s.setWeir n { x with queue := x.queue.filter fun i => !(i.inDomain d) }
    gone.foldl (fun s i => if i.inside then s.postedFailed n i.req else s.answer .link []) s1) s

/-- An engine whose unit or cluster core is reset: what runs there ends with FAULT_ENGINE_RESET, and a segment that runs is
given up (R450, R198). -/
def State.engineLost (s : State) (te : Nat) : State :=
  let s0 := s.resetEngine te
  let t := s0.test te
  let s1 := s0.setTest te { t with running := false }
  if Nat.beq (s1.tenState te) 4 && !t.fault then s1.setFld (Reg.TEN_STATUS te) Fld.TEN_STATUS_STATE 0 else s1

/-- The partition unit k is reset; an engine that is offline, or under test after a fault, stays so (R117, R450). -/
def State.resetPu (s : State) (k : Nat) : State :=
  let tes := enginesOf [k]
  let s1 := tes.foldl (fun s te => s.engineLost te) s
  let kept := tes.map fun te => (te, s1.tenState te)
  let s2 := { s1 with regs := resetRegs (Nat.beq (17 + k)) s1.regs, sems := s1.sems.set (Fin.ofNat 16 k) (Vector.replicate 32 0) }
  let s3 := tes.foldl (fun s te => s.setEng te Engine.reset) s2
  kept.foldl (fun s x => if Nat.ble 4 x.2 then s.setFld (Reg.TEN_STATUS x.1) Fld.TEN_STATUS_STATE x.2 else s) s3

/-- Cluster c is reset: work its core runs ends, and test cycles begin again. -/
def State.resetCluster (s : State) (c : Nat) : State :=
  (List.range 8).foldl (fun s k =>
    let te := 8 * c + k
    let s1 := s.engineLost te
    s1.setTest te { s1.test te with next := 0, from_ := s.tb.elapsed }) s

/-- Miller and its start-up block are reset: nothing is left of contexts, partitions and models. -/
def State.resetMiller (s : State) : State :=
  { s.millerEnd stEngineReset with
    ctxs := Vector.replicate 32 Ctx.reset, parts := Vector.replicate 16 none, models := [], jobs := [], laneLast := [], turn := [], events := [],
    windows := Vector.replicate 16 none }

/-- Hart n is in reset, with W = 1 unless the secure world has failed, and with empty L1 caches (13_host_cores_and_redundancy R374;
14_isolated_worlds R382, R403). -/
def State.stopHart (s : State) (n : Nat) : State :=
  (((s.setHart n Hart.reset).setHartW n (!(s.flag Reg.WGD_STATUS Fld.WGD_STATUS_FAILED))).emptyL1 n).releaseSems (.ac (Fin.ofNat 16 n))

/-- The streams, ports and Fusion Unit hold nothing; the fusion tables are memory. -/
def State.resetSensors (s : State) : State :=
  { s with
    streams := Vector.replicate 20 Stream.reset, csiFill := Vector.replicate 4 0, ssps := Vector.replicate 4 SspPort.reset,
    fusion := { Fusion.reset with banks := s.fusion.banks, ego := s.fusion.ego } }

/-- The gateway holds nothing, but for CAN8 to CAN11, which are Heath's; gate lists and tunnel records are memory. -/
def State.resetGateway (s : State) : State :=
  let cans := (List.range 4).foldl (fun (v : Vector CanChan 12) k => v.set (Fin.ofNat 12 (8 + k)) s.gw.cans[Fin.ofNat 12 (8 + k)])
    (Vector.replicate 12 CanChan.reset)
  { s with gw := { Gateway.reset with lists := s.gw.lists, tunnels := s.gw.tunnels, cans } }

/-- What the units of domain d hold beside registers and memories is reset (R494, R450). -/
def State.resetUnits (s : State) (d : Nat) : State :=
  if Nat.beq d 1 then
    let cans := (List.range 4).foldl (fun (v : Vector CanChan 12) k => v.set (Fin.ofNat 12 (8 + k)) CanChan.reset) s.gw.cans
    { s with gw := { s.gw with cans } }.restartHeath
  else if inRange d 4 8 then (s.setDmc (2 * (d - 4)) Dmc.reset).setDmc (2 * (d - 4) + 1) Dmc.reset
  else if Nat.beq d 8 then s.resetMiller
  else if inRange d 9 17 then s.resetCluster (d - 9)
  else if inRange d 17 33 then s.resetPu (d - 17)
  else if inRange d 33 37 then (List.range 4).foldl (fun s k => s.stopHart (4 * (d - 33) + k)) s
  else if Nat.beq d 37 then
    { s.gfxEnd (some (stEngineReset, s.firstCore)) with gq := Vector.replicate 8 GfxQueue.reset, gfxRun := none }
  else if Nat.beq d 38 then { s with heads := Vector.replicate 4 Head.reset }
  else if Nat.beq d 39 then s.resetSensors
  else if Nat.beq d 40 then s.resetGateway
  else s

/-- A fenced Heath core of the state `old` stays fenced, and shown, through a reset of its domain, until POR_N
(13_host_cores_and_redundancy R380). -/
def State.keepFence (s old : State) : State :=
  if old.flag Reg.HTH_STATUS Fld.HTH_STATUS_FENCED then
    ((s.raise Reg.HTH_STATUS Fld.HTH_STATUS_FENCED).setFld Reg.HTH_STATUS Fld.HTH_STATUS_ODD
      (old.fld Reg.HTH_STATUS Fld.HTH_STATUS_ODD)).setHeathMode 4
  else s

/-- Domain d is reset: its units, its register fields and its outstanding transactions (R494).  Raster cores that are offline stay so until
POR_N or WARM_RST_N (12_graphics_and_display R352). -/
def State.resetDomain (s : State) (d : Nat) : State :=
  let s1 := (s.resetUnits d).endOutstanding d
  let s2 : State := { s1 with regs := if inRange d 17 33 then s1.regs else resetRegs (Nat.beq d) s1.regs }
  (if Nat.beq d 1 then s2.keepFence s else if Nat.beq d 37 then s2.setReg Reg.GFX_CORES (s.reg Reg.GFX_CORES) else s2).settle

/-- The firmware processors of a domain (17_boot_and_firmware R481). -/
def procsOf (d : Nat) : List Nat :=
  if Nat.beq d 1 then [11] else if Nat.beq d 8 then [0] else if inRange d 9 17 then [d - 8]
  else if Nat.beq d 37 then [9] else if Nat.beq d 39 then [10] else []

/-- The result of training in the registers of controller k (11_memory_and_bandwidth R309). -/
def State.recordController (s : State) (t : DdrTraining) (k : Nat) : State :=
  let a := Reg.DMC_CFG k
  ((((s.setFld a Fld.DMC_CFG_RATE t.rate).setFld a Fld.DMC_CFG_DENS t.dens).setFld a Fld.DMC_CFG_WIDTH t.x8.toNat).setFld a
    Fld.DMC_CFG_RANKS t.ranks).raise (Reg.DMC_STATUS k) Fld.DMC_STATUS_READY

/-- Controller k leaves a reset of its domain with what training found for it (log entry 41). -/
def State.recallController (s : State) (k : Nat) : State :=
  match s.rom.training with
  | some t => if Nat.blt k t.count then s.recordController t k else s
  | none => s

/-- The units of a domain leave their reset: controllers with what training found (log entry 41), processors that had been released
restart at their image's ENTRY, and released harts at the Root monitor's (R450, R465, R481; log entry 42). -/
def State.leaveReset (s : State) (d : Nat) : State :=
  let s1 := (procsOf d).foldl (fun s p =>
    let x := s.wdt p
    if s.procRuns p then s.setWdt p { x with kickAt := some s.tb.elapsed } else s) s
  if inRange d 4 8 then (s1.recallController (2 * (d - 4))).recallController (2 * (d - 4) + 1)
  else if Nat.beq d 8 && s1.procRuns 0 then s1.millerTo 1
  else if inRange d 33 37 && s1.rom.entries[1].isSome then
    (List.range 4).foldl (fun s k =>
      let n := 4 * (d - 33) + k
      if Nat.beq n 0 || bitAt (s.reg Reg.BOOT_HARTREL).toNat n then s.restartHart n else s) s1
  else s1

/-- A domain reset is requested: it runs on a domain that is on, and merges with one in progress (R494). -/
def State.requestReset (s : State) (d : Nat) : State :=
  let st := s.domainState d
  if Nat.beq st 2 || Nat.beq st 3 then (s.resetDomain d).setFld (Reg.PWR_DOM d) Fld.PWR_DOM_STATE 5 else s

/-! ## POR_N and WARM_RST_N (R505, R506) -/

/-- The cause of a reset is recorded (R13, R506). -/
def State.resetCause (s : State) (f : Fld) : State := s.raise Reg.PWR_RSTCAUSE f

/-- A running commit is complete before the fuses are sensed again (17_boot_and_firmware R477). -/
def State.finishCommit (s : State) : State :=
  match s.rom.blowing with
  | some (c, n) =>
    { s with fuses := { s.fuses with counts := s.fuses.counts.set (Fin.ofNat 8 c) n }, rom := { s.rom with blowing := none } }
  | none => s

/-- POR_N: everything is reset but the fuses and the flash, which lies outside the A880.  Power loss during a commit leaves its
count anywhere between the old and the new, and a wear bit being blown at 0 or 1: free values (R477, R509; log entry 6). -/
def State.powerOn (s : State) : State :=
  let counts := match s.rom.blowing with
    | some (c, n) =>
      let old := s.fuses.counts[Fin.ofNat 8 c]
      s.fuses.counts.set (Fin.ofNat 8 c) (old + Config.freeValue s.ticks % (n + 1 - old))
    | none => s.fuses.counts
  let wear := if s.therm.blow then min 2000 (s.fuses.wear + Config.freeValue (s.ticks + 1) % 2) else s.fuses.wear
  { State.reset with
    pending := s.pending, regs := [], flash := s.flash, ticks := s.ticks + 2
    fuses := { s.fuses with inForce := s.fuses.lifecycle, counts, wear } }.senseFuses

/-- The memory that WARM_RST_N keeps: DDR, and what lies behind the PCIe ports (R506; log entry 41). -/
def warmMemory (mem : List Host.Cell) : List Host.Cell := mem.filter fun c => Nat.ble ddrBase c.1

/-- The addresses of the dirty lines that the system cache and the cores' caches hold. -/
def State.dirtyLines (s : State) : List Nat :=
  ((s.slc.filter (·.dirty)).map fun l => ddrBase + l.line * 64) ++ ((s.caches.filter (·.dirty)).map fun l => l.line * 64)

/-- The bytes of dirty cache lines, which had not reached DDR, are free values (log entry 41). -/
def State.loseDirty (s : State) : State := s.dirtyLines.foldl (fun s a => s.storeFree a 64) s

/-- WARM_RST_N and PWR_WARM: every domain but 0 is reset, every domain from 4 to 40 powers up, and HC0 to HC2 run the boot ROM,
which skips DDR training.  A fenced Heath core stays fenced (13_host_cores_and_redundancy R380). -/
def State.warm (s0 : State) (cause : Fld) : State :=
  let s := s0.finishCommit.loseDirty
  let cores := s.heath.cores.map fun c => { HeathCore.reset with fenced := c.fenced }
  let r := State.reset
  let s1 : State := { s with
    reply := r.reply, regs := resetRegs (fun d => !(Nat.beq d 0)) s.regs, mem := warmMemory s.mem, sramDamage := [], sramSent := [],
    dgkBuilt := false, iotlb := [], engines := r.engines, sems := r.sems, ctxs := r.ctxs, parts := r.parts, models := [], jobs := [],
    laneLast := [], turn := [], events := [], bus := [], streams := r.streams, tiles := r.tiles, csiFill := r.csiFill, ssps := r.ssps,
    fusion := r.fusion, dmcs := r.dmcs, slc := [], slcUses := r.slcUses, caches := [], links := [], linkLost := [], holdWays := 0,
    wheelPos := r.wheelPos, wheelRun := r.wheelRun, wheelLive := [], wheelOut := r.wheelOut, channels := r.channels,
    ddrQueue := r.ddrQueue, guardLive := [], guardWait := [], guardSent := [], gq := r.gq, gfxRun := none, heads := r.heads,
    harts := r.harts, heath := { Heath.reset with cores }, msis := [],
    irqs := [], irqEn := [], msiDropAt := none, weirs := r.weirs, semOps := [], gw := r.gw,
    erm := { s.erm with isolated := [] }, windows := r.windows,
    tests := Vector.replicate 64 { TestCycle.reset with from_ := s.tb.elapsed },
    rom := { BootRom.reset with warm := true, ddrFailed := s.rom.ddrFailed, training := s.rom.training },
    wdts := r.wdts, portLinks := r.portLinks }
  ((s1.keepFence s).senseFuses).resetCause cause

end Sys2Proof.Machine
end

