-- ==== Sys2Proof/Machine/Power.lean ====
section
/-!
DEFINITION. Power domains and their resets, and the resets of the whole device (18_power_thermal_reset R490 to R494, R505,
R506; 14_isolated_worlds R405).
-/

namespace Sys2Proof.Machine

open Host (Outcome)

/-! ## Idleness (R492) -/

/-- No request of the units of domain d, or to them, is outstanding. -/
def State.quiet (s : State) (d : Nat) : Bool :=
  (List.range 2).all fun n => !((s.weir n).queue.any fun i => i.inDomain d)

/-- The conditions of R492 that a domain's own units give: no ring, queue or stream is enabled and no work runs. -/
def State.unitsIdle (s : State) (d : Nat) : Bool :=
  if inRange d 4 8 then (List.range 41).all fun k => Nat.blt k 8 || Nat.beq (s.domainState k) 0
  else if Nat.beq d 8 then (List.range 32).all fun n => decide ((s.ctx n).status = .free) || Nat.beq (s.ctx n).sqEn 0
  else if inRange d 9 17 then
    (List.range 8).all fun k => (s.eng (8 * (d - 9) + k)).job.isNone && !(s.test (8 * (d - 9) + k)).running
  else if inRange d 17 33 then
    (enginesOf [d - 17]).all (fun te => (s.eng te).job.isNone && !(inRange (s.tenState te) 1 5)) &&
      !((List.range 16).any fun k => match s.part k with
        | some p => bitAt p.puMask (d - 17) && !(Nat.beq p.eshare 0) &&
            (match p.ctx with | some n => (s.ctx n).resident | none => false)
        | none => false)
  else if Nat.beq d 37 then s.gfxRun.isNone && (List.range 8).all fun q => !(s.gfxQueue q).on
  else if Nat.beq d 38 then (List.range 4).all fun h => (s.head h).desc.isNone
  else if Nat.beq d 39 then
    !(s.flag Reg.FUS_CTRL Fld.FUS_CTRL_EN) && (List.range 20).all fun n => (s.stream n).desc.isNone
  else if Nat.beq d 40 then
    s.gw.hif.isNone && (List.range 8).all (fun n => (s.can n).desc.isNone && !(s.audio n).on) &&
      Nat.beq (s.fld Reg.XSP_DB_SQ_HEAD Fld.DB_SQ_HEAD_HEAD) (s.fld Reg.XSP_DB_SQ_TAIL Fld.DB_SQ_TAIL_TAIL)
  else true

/-- The domain reports idle. -/
def State.domainIdle (s : State) (d : Nat) : Bool := s.quiet d && s.unitsIdle d

/-- STATE of domain d becomes `v`. -/
def State.domainTo (s : State) (d v : Nat) : State := s.setFld (Reg.PWR_DOM d) Fld.PWR_DOM_STATE v

/-- PWR_DOMd as it reads: IDLE is what the domain reports; one that is off reads 0 there. -/
def State.pwrDom (s : State) (d : Nat) : Word :=
  Fld.PWR_DOM_IDLE.put (s.reg (Reg.PWR_DOM d)) (!(Nat.beq (s.domainState d) 0) && s.domainIdle d).toNat

/-! ## PWR_DOM (R491, R494) -/

/-- ON of domain d is written: a request to switch it off, its withdrawal, or a power-up. -/
def State.writeOn (s : State) (d on : Nat) : State :=
  if !(domainSwitchable d) then s
  else
    let a := Reg.PWR_DOM d
    let s1 := s.setFld a Fld.PWR_DOM_ON on
    match on, s.domainState d with
    | 0, 2 => (s1.domainTo d 3).noteHold d
    | 0, _ => s1
    | _, 3 => (s1.domainTo d 2).lower a Fld.PWR_DOM_DEFERRED
    | _, 0 | _, 4 => s1.domainTo d 1
    | _, _ => s1.lower a Fld.PWR_DOM_DEFERRED

/-- A write of PWR_DOMd: ON, then RST. -/
def State.writePwrDom (s : State) (d : Nat) (w : Word) : State :=
  let s1 := s.writeOn d (Fld.PWR_DOM_ON.get w)
  if Nat.beq (Fld.PWR_DOM_RST.get w) 0 then s1
  else if Nat.beq (domainReset d) 2 then s1.requestReset d
  else s1.raise Reg.PWR_STATUS Fld.PWR_STATUS_CFG_ERR

/-- DOMAIN_OFF_REQUEST -/
def execDomainOffRequest (dom : Fin 41) (req : Req) (value : Word) (s : State) : Outcome State Fault Refusal :=
  .next (s.busWrite req (Reg.PWR_DOM dom) value (·.writePwrDom dom value))

/-- DOMAIN_ON_REQUEST -/
def execDomainOnRequest (dom : Fin 41) (req : Req) (value : Word) (s : State) : Outcome State Fault Refusal :=
  .next (s.busWrite req (Reg.PWR_DOM dom) value (·.writePwrDom dom value))

/-- DOMAIN_RESET -/
def execDomainReset (dom : Fin 41) (req : Req) (value : Word) (s : State) : Outcome State Fault Refusal :=
  .next (s.busWrite req (Reg.PWR_DOM dom) value (·.writePwrDom dom value))

/-- The processors of domain d are no longer released, and their code memories are lost. -/
def State.loseCode (s : State) (d : Nat) : State :=
  (procsOf d).foldl (fun s p => s.setWdt p { s.wdt p with kickAt := none }) s

/-- The caches of an application cluster that goes off lose their lines; the bytes of a dirty one are free values (R491; log entry 41). -/
def State.loseCaches (s : State) (d : Nat) : State :=
  let gone (x : CacheLine) : Bool := inRange d 33 37 && (List.range 4).any fun k => cacheOf x.cache (Fin.ofNat 16 (4 * (d - 33) + k))
  let s1 : State := { s with caches := s.caches.filter fun x => !(gone x) }
  (s.caches.filter fun x => gone x && x.dirty).foldl (fun s x => s.storeFree (x.line * 64) 64) s1

/-- DOMAIN_POWER_DOWN: the domain is idle and no hold applies; its registers return to their reset values. -/
def execDomainPowerDown (dom : Fin 41) (s : State) : Outcome State Fault Refusal :=
  .next <|
    if Nat.beq (s.domainState dom) 3 && !(s.heldOn dom) && s.domainIdle dom then
      ((((s.loseCode dom).loseCaches dom).resetDomain dom).domainTo dom 4).lower (Reg.PWR_DOM dom) Fld.PWR_DOM_DEFERRED
    else s

/-- DOMAIN_OFF_DONE -/
def execDomainOffDone (dom : Fin 41) (s : State) : Outcome State Fault Refusal :=
  .next (if Nat.beq (s.domainState dom) 4 then s.domainTo dom 0 else s)

/-- Every memory of domain d holds zero and a valid code; DDR keeps its contents (R491, R492). -/
def State.zeroMemories (s : State) (d : Nat) : State :=
  if inRange d 9 17 then s.wipe (clusterAt (d - 9)) 0x800000
  else if inRange d 17 33 then (enginesOf [d - 17]).foldl (fun s te => s.wipe (engineAt te) 0x200000) s
  else if Nat.beq d 37 then { s with tiles := Vector.replicate 8 [] }
  else if Nat.beq d 39 then { s with fusion := { s.fusion with banks := Vector.replicate 2 [], ego := [] } }
  else if Nat.beq d 40 then { s with gw := { s.gw with lists := [], tunnels := [] } }
  else s

/-- The domain is on, or waits for idle where it has been asked off meanwhile. -/
def State.settleOn (s : State) (d : Nat) : State :=
  if s.flag (Reg.PWR_DOM d) Fld.PWR_DOM_ON then s.domainTo d 2 else (s.domainTo d 3).noteHold d

/-- DOMAIN_ON_DONE -/
def execDomainOnDone (dom : Fin 41) (s : State) : Outcome State Fault Refusal :=
  .next <|
    if Nat.beq (s.domainState dom) 1 then (((s.zeroMemories dom).settleOn dom).leaveReset dom).settle else s

/-- DOMAIN_RESET_DONE -/
def execDomainResetDone (dom : Fin 41) (s : State) : Outcome State Fault Refusal :=
  .next (if Nat.beq (s.domainState dom) 5 then ((s.settleOn dom).leaveReset dom).settle else s)

/-! ## POR_N, WARM_RST_N, PWR_WARM -/

/-- POR_N -/
def execPorN (s : State) : Outcome State Fault Refusal := .next s.powerOn

/-- WARM_RST_N -/
def execWarmRstN (s : State) : Outcome State Fault Refusal := .next (s.warm Fld.PWR_RSTCAUSE_PIN_WARM)

/-- A write of PWR_WARM: GO with the code starts a warm reset. -/
def State.writeWarm (s : State) (w : Word) : State :=
  if Nat.beq (Fld.PWR_WARM_GO.get w) 1 && Nat.beq (Fld.PWR_WARM_CODE.get w) 0x5752 then s.warm Fld.PWR_RSTCAUSE_SW_WARM else s

/-- PWR_WARM_GO -/
def execPwrWarmGo (req : Req) (value : Word) (s : State) : Outcome State Fault Refusal :=
  .next (s.busWrite req Reg.PWR_WARM value (·.writeWarm value))

end Sys2Proof.Machine
end

