-- ==== Sys2Proof/Machine/Boot.lean ====
section
/-!
DEFINITION. Secure boot: the boot ROM's steps, images, anti-rollback, key revocation, the lifecycle and the TAP
(17_boot_and_firmware R465 to R480; 14_isolated_worlds R407, R408; 19_package_and_pins R526).
-/

namespace Sys2Proof.Machine

open Host (Outcome)

/-! ## Images (R468, R472, R474) -/

/-- `n` bytes of the boot flash from `o` on. -/
def State.flashBytes (s : State) (o n : Nat) : List Byte := SMap.getMany flashDflt s.flash o n

/-- Every byte of `bs` from `lo` up to `hi` is 0. -/
def allZero (bs : List Byte) (lo hi : Nat) : Bool := ((bs.drop lo).take (hi - lo)).all fun b => decide (b = 0#8)

/-- Bytes of an image. -/
def cut (bs : List Byte) (o n : Nat) : List Byte := (bs.drop o).take n

/-- SIG_OFF for a payload of `len` bytes. -/
def sigOff (len : Nat) : Nat := 4096 + 64 * ((len + 63) / 64)

/-- LOAD_ADDR, PAYLOAD_LEN and ENTRY of an image. -/
def imgLoad (b : List Byte) : Nat := fieldAt b 16 8
def imgLen (b : List Byte) : Nat := fieldAt b 12 4
def imgEntry (b : List Byte) : Nat := fieldAt b 24 8

/-- The destination of class c holds the payload (R470). -/
def State.imageFits (s : State) (c : Nat) (b : List Byte) : Bool :=
  let lo := imgLoad b
  let hi := lo + imgLen b
  match c with
  | 0 => Nat.ble tcmBase lo && Nat.ble hi 0x2087F000
  | 1 => Nat.ble (ddrBase + 0x1000) lo && Nat.beq (lo % 4096) 0 && Nat.ble hi (ddrBase + s.ddrCap)
  | 2 => Nat.ble hi 0x80000
  | _ => Nat.ble hi (Config.codeSize c)

/-- Check 1 of R474 on the 4,096 bytes before the payload and the bytes after the signatures. -/
def State.headerOk (s : State) (c : Nat) (b tail : List Byte) : Bool :=
  let wd := fieldAt b 40 4
  let opens := fieldAt b 44 4
  Nat.beq (fieldAt b 0 4) 0x474D4954 && Nat.beq (fieldAt b 4 1) 1 && Nat.beq (fieldAt b 5 1) c && Nat.blt (fieldAt b 7 1) 2 &&
    allZero b 48 256 && allZero b 2304 4096 && allZero tail 0 51 && Nat.ble 1 (imgLen b) && s.imageFits c b &&
    Nat.ble (imgLoad b) (imgEntry b) && Nat.blt (imgEntry b) (imgLoad b + imgLen b) &&
    (if Nat.beq c 1 then Nat.beq wd 0 && Nat.beq opens 0 else inRange wd 100 1000001 && Nat.blt opens wd)

/-- Check 2: the key is the one of an allowed slot, by its hash; in BLANK only Timond's. -/
def State.keyOk (s : State) (b : List Byte) : Bool :=
  let k := fieldAt b 6 1
  let f := s.fuses
  (if Nat.beq f.inForce 0 then Nat.beq k 0xFF else Nat.blt k 4 && bitAt f.keyprog k && !(bitAt f.revoked k)) &&
    decide (Config.sha384 (cut b 256 96) = Config.keyHash k false) &&
    (!f.hybrid || (bitAt (fieldAt b 7 1) 0 && decide (Config.sha384 (cut b 352 1952) = Config.keyHash k true)))

/-- The digest D of the image at flash offset `o` (R473). -/
def State.imageDigest (s : State) (o len : Nat) : List Byte := Config.sha384 (s.flashBytes o (sigOff len))

/-- The code of R474 for the image of class c at flash offset `o`; 0 = every check passes. -/
def State.imageCode (s : State) (c o : Nat) : Nat :=
  let b := s.flashBytes o 4096
  let sig := o + sigOff (imgLen b)
  let d := s.imageDigest o (imgLen b)
  let ec := s.flashBytes sig 96
  if !(s.headerOk c b (s.flashBytes (sig + 3405) 51)) then 2
  else if !(s.keyOk b) then 3
  else if !(Config.ecdsaP384 (cut b 256 96) d (ec.take 48) (ec.drop 48)) then 4
  else if s.fuses.hybrid && !(Config.mldsa65 (cut b 352 1952) d (s.flashBytes (sig + 96) 3309)) then 5
  else if Nat.blt (fieldAt b 8 4) s.fuses.counts[Fin.ofNat 8 c] then 6
  else 0

/-! ## The directory (R468, R469) -/

/-- Slot A and B of class c, in the order in which they are tried: 0 = A, 1 = B, with their flash offsets. -/
def slotsOf (dir : List Byte) (c : Nat) : List (Nat × Nat) :=
  let a := (0, fieldAt dir (16 + 24 * c) 8)
  let b := (1, fieldAt dir (24 + 24 * c) 8)
  if Nat.beq b.2 0xFFFFFFFFFFFFFFFF then [a] else if Nat.beq (fieldAt dir (32 + 24 * c) 1) 1 then [b, a] else [a, b]

/-- The directory's CRC is right. -/
def dirOk (dir : List Byte) : Bool := Nat.beq (crc32 (dir.take 252)) (fieldAt dir 252 4)

/-! ## Steps of the ROM (R465, R467) -/

/-- STAGE becomes `n`, but for a run of step 3 only. -/
def State.stage (s : State) (n : Nat) : State :=
  if s.rom.heathOnly then s else s.setFld Reg.BOOT_STATUS Fld.BOOT_STATUS_STAGE n

/-- The ROM's requests are those of HC0. -/
def romReq : Req := { ini := .hc 0, w := true, cl := 0, ctx := 0 }

/-- Bytes the ROM writes to memory. -/
def State.romWrite (s : State) (pa : Nat) (bs : List Byte) : State := (s.writeMem romReq true (bs.length + 1) pa bs).2

/-- FAILMASK takes class c; FAIL is the code of the lowest failed class. -/
def State.markFailed (s : State) (c code : Nat) : State :=
  let a := Reg.BOOT_STATUS
  let mask := s.fld a Fld.BOOT_STATUS_FAILMASK
  let lower := !(Nat.beq (mask % 2 ^ c) 0)
  let s1 := s.setFld a Fld.BOOT_STATUS_FAILMASK (mask ||| 2 ^ c)
  let s2 := if lower then s1 else s1.setFld a Fld.BOOT_STATUS_FAIL code
  { s2 with rom := { s2.rom with digests := s2.rom.digests.set (Fin.ofNat 6 c) none,
                                 entries := s2.rom.entries.set (Fin.ofNat 6 c) none } }

/-- HC0 to HC2 halt; the ROM goes no further. -/
def State.haltHeath (s : State) : State :=
  { s with rom := { s.rom with running := false }, heath := { s.heath with halted := true } }

/-- A failed slot leaves its destination, as far as the header names one, with undefined contents: free values (log entry 6). -/
def State.spoil (s : State) (c o : Nat) : State :=
  let b := s.flashBytes o 4096
  if Nat.ble c 1 && s.imageFits c b then
    { s with ticks := s.ticks + imgLen b }.romWrite (imgLoad b)
      ((List.range (imgLen b)).map fun i => BitVec.ofNat 8 (Config.freeValue (s.ticks + i)))
  else s

/-- The processors of an image class (R481). -/
def classProcs : Nat → List Nat
  | 0 => [11]
  | 2 => [0]
  | 3 => [1, 2, 3, 4, 5, 6, 7, 8]
  | 4 => [9]
  | 5 => [10]
  | _ => []

/-- The image of class c at flash offset `o` is loaded: its payload, digest, entry, watchdog settings, slot and SVN. -/
def State.loadImage (s : State) (c slot o : Nat) : State :=
  let b := s.flashBytes o 4096
  let len := imgLen b
  let s1 := if Nat.ble c 1 then s.romWrite (imgLoad b) (s.flashBytes (o + 4096) len) else s
  let rom : BootRom := { s1.rom with
    digests := s1.rom.digests.set (Fin.ofNat 6 c) (some (s.imageDigest o len))
    entries := s1.rom.entries.set (Fin.ofNat 6 c) (some (BitVec.ofNat 64 (imgEntry b)))
    monitorAt := if Nat.beq c 1 then some (imgLoad b) else s1.rom.monitorAt
    modelKeys := if Nat.beq c 2 then s.flashBytes (o + 4096 + fieldAt b 36 4) 768 else s1.rom.modelKeys }
  let s2 := (classProcs c).foldl (fun s p =>
    s.setWdt p { s.wdt p with maxUs := fieldAt b 40 4, openUs := fieldAt b 44 4, kickAt := none }) { s1 with rom := rom }
  (s2.setFld (Reg.BOOT_ARB c) Fld.BOOT_ARB_SLOT slot).setFld (Reg.BOOT_ARB c) Fld.BOOT_ARB_RUN_SVN (fieldAt b 8 4)

/-! ## Identity and release (R479, R480) -/

/-- M of R479. -/
def State.identity (s : State) : List Byte :=
  let f := s.fuses
  Config.sha384 (leBytes 1 f.inForce ++ leBytes 1 f.hybrid.toNat ++ leBytes 1 f.revoked ++
    (f.counts.toList.flatMap fun n => leBytes 1 n) ++
    (s.rom.digests.toList.flatMap fun d => d.getD (List.replicate 48 0#8)))

/-- `bs` cut or filled with zeros to `n` bytes. -/
def fitTo (n : Nat) (bs : List Byte) : List Byte := bs.take n ++ List.replicate (n - bs.length) 0#8

/-- The handover block of a layer. -/
def State.handover (s : State) (monitor : Bool) : List Byte :=
  let m := s.identity
  let cdi := Config.hmacUds (m ++ [if monitor then 1#8 else 0#8])
  let cert := (Config.aliasCert monitor cdi m).take 1536
  let dir := s.rom.dir.getD []
  let dlen := min 2048 (fieldAt dir 12 4)
  leBytes 4 0x444E4854 ++ leBytes 4 (s.reg Reg.BOOT_STATUS).toNat ++ fitTo 48 cdi ++ leBytes 2 cert.length ++ leBytes 2 dlen ++
    List.replicate 452 0#8 ++ fitTo 1536 cert ++ fitTo 2048 (s.flashBytes (fieldAt dir 8 4) dlen)

/-- Step 7: the handover blocks of Heath and, where it is loaded, of the Root monitor. -/
def State.writeHandover (s : State) : State :=
  let s1 := s.romWrite 0x2087F000 (s.handover false)
  match s.rom.entries[1], s.rom.monitorAt with
  | some _, some at_ => s1.romWrite (at_ - 0x1000) (s.handover true)
  | _, _ => s1

/-- HC0 to HC2 jump to the Heath entry. -/
def State.startHeath (s : State) : State :=
  let entry := ((s.rom.entries[0]).getD 0#64).setWidth 32
  let s1 := s.allHeath fun _ c => if c.fenced then c else { c with pc := entry }
  { s1 with rom := { s1.rom with running := false, heathOnly := false } }.setWdt 11 { s1.wdt 11 with kickAt := some s1.tb.elapsed }

/-- Step 8: the processors of the loaded classes are released, and AC0 at the Root monitor entry. -/
def State.releaseAll (s : State) : State :=
  let s1 := (s.stage 0xF).startHeath
  let s2 := [2, 3, 4, 5].foldl (fun s c =>
    if (s.rom.entries[Fin.ofNat 6 c]).isSome then
      (classProcs c).foldl (fun s p => s.setWdt p { s.wdt p with kickAt := some s.tb.elapsed }) s
    else s) s1
  let s3 := if (s2.rom.entries[2]).isSome then s2.millerTo 1 else s2
  if (s3.rom.entries[1]).isSome then s3.restartHart 0 else s3

/-- After class 5: steps 7 and 8. -/
def State.finishBoot (s : State) : State := ((((s.stage 6).writeHandover).stage 7).releaseAll)

/-- The ROM goes on to class c. -/
def State.toClass (s : State) (c : Nat) : State :=
  let s1 := { s with rom := { s.rom with cls := c, second := false } }
  if Nat.ble 6 c then s1.finishBoot else s1

/-- Steps 4 (done) and 5: the Dagiesk table is built and locked, and its CRC verified, which holds of every table as it is built
(`dgkCheck_dgkTable` of the laws); without DDR, class 1 has failed. -/
def State.buildTable (s : State) : State :=
  let s1 := ({ s with dgkBuilt := true }.raise Reg.BOOT_DGK_STATUS Fld.BOOT_DGK_STATUS_READY).setFld Reg.BOOT_DGK_STATUS
    Fld.BOOT_DGK_STATUS_CRC_OK (dgkCheck (dgkTable s.ddrCap s.ddr.ranks)).toNat
  let s2 := s1.stage 5
  if s2.rom.ddrFailed then (s2.markFailed 1 8).toClass 2 else s2.toClass 1

/-- The result of training is recorded in the controllers (11_memory_and_bandwidth R309). -/
def State.recordTraining (s : State) (t : DdrTraining) : State :=
  (List.range t.count).foldl (fun s k => s.recordController t k) { s with rom := { s.rom with training := some t } }

/-- A boot without training finds the registers of the controllers at their reset values (R13), and records again what the last
training found (R506; log entry 41). -/
def State.recallTraining (s : State) : State :=
  match s.rom.training with
  | some t => if s.rom.warm then s.recordTraining t else s
  | none => s

/-- Step 4 waits for DDR training. -/
def State.awaitsDdr (s : State) : Bool :=
  s.rom.running && !s.rom.heathOnly && s.rom.dir.isSome && Nat.beq s.rom.cls 1 && !s.rom.warm && !s.rom.trained && !s.rom.ddrFailed

/-- After class 0: step 4, which only POR_N's boot has; a run of step 3 only compares D with the last full boot. -/
def State.afterHeath (s : State) (old : Option (List Byte)) : State :=
  if s.rom.heathOnly then
    if decide (old = s.rom.digests[0]) then s.startHeath
    else { s with rom := { s.rom with digests := s.rom.digests.set 0 old } }.haltHeath
  else
    let s1 := (s.stage 3).toClass 1
    if s1.awaitsDdr then s1 else s1.recallTraining.buildTable

/-- Class c fails with `code`: Heath's halts the ROM after step 3. -/
def State.failClass (s : State) (c code : Nat) : State :=
  let s1 := s.markFailed c code
  if Nat.beq c 0 then (s1.stage 3).haltHeath else s1.toClass (c + 1)

/-- The read of a slot of the class being loaded ends: the image is loaded, the other slot is tried, or the class fails. -/
def State.slotRead (s : State) (dir : List Byte) (answered : Bool) : State :=
  let c := s.rom.cls
  let slots := slotsOf dir c
  match slots[if s.rom.second then 1 else 0]? with
  | none => s
  | some (slot, o) =>
    let code := if answered then s.imageCode c o else 7
    if Nat.beq code 0 then
      let old := s.rom.digests[0]
      let s1 := s.loadImage c slot o
      if Nat.beq c 0 then s1.afterHeath old else s1.toClass (c + 1)
    else
      let s1 := s.spoil c o
      if !s.rom.second && Nat.beq slots.length 2 then { s1 with rom := { s1.rom with second := true } } else s1.failClass c code

/-- The read of the directory ends: it is taken, its copy is tried, or every class fails with code 0x01. -/
def State.dirRead (s : State) (answered : Bool) : State :=
  let dir := s.flashBytes (s.rom.dirTry * 0x10000) 256
  if answered && dirOk dir then { s with rom := { s.rom with dir := some dir, cls := 0, second := false } }.stage 2
  else if Nat.beq s.rom.dirTry 0 then { s with rom := { s.rom with dirTry := 1 } }.stage 1
  else (((List.range 6).foldl (fun s c => s.markFailed c 1) s).stage 3).haltHeath

/-- The flash read the ROM has begun ends, with its answer or after 10 ms without one. -/
def State.romRead (s : State) (answered : Bool) : State :=
  if !s.rom.running || s.awaitsDdr then s
  else
    let s0 := if s.rom.warm then s.raise Reg.BOOT_STATUS Fld.BOOT_STATUS_WARM else s
    match s0.rom.dir with
    | none => s0.dirRead answered
    | some dir => s0.slotRead dir answered

/-- BOOT_FLASH_READ_DONE -/
def execBootFlashReadDone (s : State) : Outcome State Fault Refusal := .next (s.romRead true)

/-- BOOT_FLASH_TIMEOUT -/
def execBootFlashTimeout (s : State) : Outcome State Fault Refusal := .next (s.romRead false)

/-- A population, width, density and rank count that R309 and R310 allow. -/
def populationOk (n dens ranks : Nat) (x8 : Bool) : Bool :=
  (Nat.beq n 2 || Nat.beq n 4 || Nat.beq n 8) && inRange ranks 1 3 && Nat.blt dens 3 &&
    inRange (2 * n * ranks * (if x8 then 4 else 8) * 2 ^ dens) 16 129

/-- DDR_TRAINING_DONE: what was found is recorded; a failure counts as one of class 1 with code 0x08 (R465, R467). -/
def execDdrTrainingDone (ok : Bool) (controllers : Fin 9) (rate : Fin 3) (dens : Fin 3) (x8 : Bool) (ranks : Fin 3) (s : State) :
    Outcome State Fault Refusal :=
  .next <|
    if !s.awaitsDdr || (ok && !(populationOk controllers dens ranks x8)) then s
    else
      let s1 := if ok then s.recordTraining { count := controllers, rate, dens, x8, ranks } else s
      ({ s1 with rom := { s1.rom with trained := ok, ddrFailed := !ok } }.stage 4).buildTable

/-! ## BOOT registers (R465, R477, R478; R408) -/

/-- A write of BOOT_HARTREL: harts newly released start at the Root monitor entry with W = 1. -/
def State.writeHartrel (s : State) (w : Word) : State :=
  let a := Reg.BOOT_HARTREL
  let s1 := s.plainWrite a w
  (List.range 16).foldl (fun (s2 : State) n =>
    if !(Nat.beq n 0) && bitAt (s1.reg a).toNat n && !(bitAt (s.reg a).toNat n) && (s2.rom.entries[1]).isSome &&
        s2.domainOn (domainOf (.ac (Fin.ofNat 16 n))) then s2.restartHart n else s2) s1

/-- HART_RELEASE -/
def execHartRelease (req : Req) (value : Word) (s : State) : Outcome State Fault Refusal :=
  .next (s.busWrite req Reg.BOOT_HARTREL value (·.writeHartrel value))

/-- A write of BOOT_LCS: an allowed move programs the fuse, sets PENDING and ends any debug session; the reserved TARGET 0x3 is a
configuration error (00_scope R14). -/
def State.writeLcs (s : State) (w : Word) : State :=
  let t := Fld.BOOT_LCS_TARGET.get w
  if Nat.beq (Fld.BOOT_LCS_CODE.get w) 0x4C43 && Nat.blt s.fuses.lifecycle t && Nat.ble t 2 then
    let s1 := (List.range 16).foldl (fun s n => s.setHart n { s.hart n with halted := false, haltWaits := false }) s
    { s1 with fuses := { s1.fuses with lifecycle := t } }.raise Reg.BOOT_LCS Fld.BOOT_LCS_PENDING
  else if Nat.beq t 3 then s.cfgErr Reg.BOOT_LCS
  else s

/-- LIFECYCLE_ADVANCE -/
def execLifecycleAdvance (req : Req) (value : Word) (s : State) : Outcome State Fault Refusal :=
  .next (s.busWrite req Reg.BOOT_LCS value (·.writeLcs value))

/-- A write of BOOT_KEYREV: a revocation in BLANK, and one that would revoke every slot, is ignored, which CFG_ERR of BOOT_FUSE shows
("A revocation or commit write was ignored"). -/
def State.writeKeyrev (s : State) (w : Word) : State :=
  let r := s.fuses.revoked ||| Fld.BOOT_KEYREV_REV.get w
  if Nat.beq (Fld.BOOT_KEYREV_REV.get w) 0 then s
  else if Nat.beq s.fuses.inForce 0 || Nat.beq r 15 then s.raise Reg.BOOT_FUSE Fld.BOOT_FUSE_CFG_ERR
  else { s with fuses := { s.fuses with revoked := r } }.setFld Reg.BOOT_KEYREV Fld.BOOT_KEYREV_REV r

/-- KEY_REVOKE -/
def execKeyRevoke (req : Req) (value : Word) (s : State) : Outcome State Fault Refusal :=
  .next (s.busWrite req Reg.BOOT_KEYREV value (·.writeKeyrev value))

/-- A write of BOOT_ARB_COMMIT: ignored with CFG_ERR while BUSY = 1; GO starts a commit that would raise COUNT. -/
def State.writeArb (s : State) (w : Word) : State :=
  let a := Reg.BOOT_ARB_COMMIT
  if s.flag a Fld.BOOT_ARB_COMMIT_BUSY then s.raise Reg.BOOT_FUSE Fld.BOOT_FUSE_CFG_ERR
  else
    let s1 := s.plainWrite a w
    let c := s1.fld a Fld.BOOT_ARB_COMMIT_CLASS
    let target := min 64 (if Nat.blt c 6 then s1.fld (Reg.BOOT_ARB c) Fld.BOOT_ARB_RUN_SVN else s1.fld a Fld.BOOT_ARB_COMMIT_SVN)
    if Nat.beq (Fld.BOOT_ARB_COMMIT_GO.get w) 1 && Nat.blt s1.fuses.counts[Fin.ofNat 8 c] target then
      { s1 with rom := { s1.rom with blowing := some (c, target) } }.raise a Fld.BOOT_ARB_COMMIT_BUSY
    else s1

/-- ARB_COMMIT -/
def execArbCommit (req : Req) (value : Word) (s : State) : Outcome State Fault Refusal :=
  .next (s.busWrite req Reg.BOOT_ARB_COMMIT value (·.writeArb value))

/-- ARB_COMMIT_DONE -/
def execArbCommitDone (s : State) : Outcome State Fault Refusal :=
  .next <|
    match s.rom.blowing with
    | some (c, n) =>
      (s.finishCommit.setFld (Reg.BOOT_ARB c) Fld.BOOT_ARB_COUNT n).lower Reg.BOOT_ARB_COMMIT Fld.BOOT_ARB_COMMIT_BUSY
    | none => s

/-! ## Boundary scan (R407, R526) -/

/-- The instructions of every lifecycle state. -/
def scanInstructions : List Byte := [0x00#8, 0x01#8, 0x02#8, 0xFF#8]

/-- BOUNDARY_SCAN_INSTRUCTION: in FIELD every other instruction acts as BYPASS; IDCODE answers the identification. -/
def execBoundaryScanInstruction (code : Byte) (s : State) : Outcome State Fault Refusal :=
  .next <|
    let c := if Nat.ble 2 s.fuses.inForce && !(scanInstructions.contains code) then 0xFF#8 else code
    let s1 := { s with pins := { s.pins with tapIr := c } }
    if decide (c = 0x01#8) then s1.answerWord 0x1A880573#32 else s1.answer .okay []

end Sys2Proof.Machine
end

