-- ==== Sys2Proof/Machine/Errors.lean ====
section
/-!
DEFINITION. The error manager: acceptance of records, the queue, handling and escalation, FAULT_N and SAFE_STATE
(16_safety_and_errors R439 to R452).
-/

namespace Sys2Proof.Machine

open Host (Outcome)

/-! ## Records and sources (R439, R441, R446) -/

/-- The bits of FLAGS. -/
def flagNested : Nat := 1
def flagReset : Nat := 2
def flagIsolate : Nat := 4
def flagSafe : Nat := 8
def flagStart : Nat := 16

/-- The 32 bytes of a record. -/
def QueuedRecord.bytes (r : QueuedRecord) : List Byte :=
  leBytes 2 (srcIndex r.rcd.unit) ++ leBytes 1 r.rcd.sub ++ leBytes 1 (r.rcd.sev % 8) ++ leBytes 1 r.flags ++
    leBytes 1 r.rcd.code ++ leBytes 2 0 ++ leBytes 8 r.rcd.path ++ leBytes 8 r.rcd.info ++ leBytes 4 r.t ++ leBytes 4 r.seq

/-- COUNT of a source; none while it is not in HANDLING. -/
def Erm.count (e : Erm) (src : Nat) : Option Nat := SMap.find e.handling src

/-- A source is in HANDLING with COUNT `c`. -/
def Erm.setCount (e : Erm) (src c : Nat) : Erm := { e with handling := SMap.insert e.handling src c }

/-- The error manager holds its interrupt pending at Heath's APLIC while the queue is not empty (R444). -/
def State.ermInterrupt (s : State) : Bool := !s.erm.queue.isEmpty

/-! ## SAFE_STATE and FAULT_N (R451) -/

/-- An escalation or a UE_FATAL record raises LEVEL to at least ESC_LEVEL and asserts FAULT_N. -/
def State.raiseSafe (s : State) : State :=
  let a := Reg.ERM_SAFE
  (s.setFld a Fld.ERM_SAFE_LEVEL (max (s.fld a Fld.ERM_SAFE_LEVEL) (s.fld a Fld.ERM_SAFE_ESC_LEVEL))).raise a Fld.ERM_SAFE_FAULT

/-! ## Acceptance (R445 to R450) -/

/-- The lowest rank in a queue. -/
def lowestRank (q : List QueuedRecord) : Nat := q.foldl (fun m r => min m r.rcd.sev) 7

/-- The queue without the newest record of rank `k`. -/
def dropNewest (k : Nat) (q : List QueuedRecord) : List QueuedRecord :=
  (q.reverse.eraseP fun r => Nat.beq r.rcd.sev k).reverse

/-- A record joins the queue; a full queue gives up a record of lower rank or discards the new one, and DROPPED counts (R445). -/
def State.enqueue (s : State) (r : QueuedRecord) : State :=
  let q := s.erm.queue
  if Nat.blt q.length 64 then { s with erm := { s.erm with queue := q ++ [r] } }
  else
    let low := lowestRank q
    let q1 := if Nat.blt low r.rcd.sev then dropNewest low q ++ [r] else q
    { s with erm := { s.erm with queue := q1 } }.count Reg.ERM_OVF Fld.ERM_OVF_DROPPED 1

/-- The action of R448 at COUNT 2, and the flag of the record that caused it.  A second reset is not started while one is in
progress. -/
def State.takeAction (s : State) (u : UnitId) : Nat × State :=
  match actionOf u with
  | 0 => if Nat.beq (s.domainState (domainOf u)) 5 then (0, s) else (flagReset, s.requestReset (domainOf u))
  | 1 =>
    if s.isIsolated u then (0, s)
    else (flagIsolate, { s with erm := { s.erm with isolated := s.erm.isolated ++ [u] } })
  | _ => (0, s)

/-- HANDLING, COUNT and escalation for a record: its FLAGS and the state after them (R446 to R449). -/
def State.escalate (s : State) (r : ErrRecord) : Nat × State :=
  let src := srcIndex r.unit
  let ranked := Nat.ble 2 r.sev
  let fatal := Nat.beq r.sev 4
  let (flags, s1) : Nat × State :=
    match s.erm.count src with
    | none => if ranked then (flagStart, { s with erm := s.erm.setCount src 1 }) else (0, s)
    | some c =>
      if !ranked then (flagNested, s)
      else
        let c1 := min 3 (c + 1)
        let s1 := { s with erm := s.erm.setCount src c1 }
        if fatal then (flagNested, s1)
        else if Nat.beq c1 3 then (flagNested + flagSafe, s1.raiseSafe)
        else if Nat.beq c 1 then
          let x := s1.takeAction r.unit
          (flagNested + x.1, x.2)
        else (flagNested, s1)
  if fatal then (flags + flagSafe, s1.raiseSafe) else (flags, s1)

/-- A record is accepted: it takes its T and SEQ, has its effects, and joins the queue. -/
def State.acceptRecord (s : State) (r : ErrRecord) : State :=
  let seq := s.erm.seq
  let t := s.short
  let x := { s with erm := { s.erm with seq := seq + 1 } }.escalate r
  x.2.enqueue { rcd := r, flags := x.1, t, seq := seq % 2 ^ 32 }

/-- ERROR_RECORD_ACCEPT: the oldest record at the intake is accepted. -/
def execErrorRecordAccept (s : State) : Outcome State Fault Refusal :=
  .next <|
    match s.errs with
    | [] => s
    | r :: rest => { s with errs := rest }.acceptRecord r

/-! ## Heath software (R444, R446, R451, R452) -/

/-- A write of ERM_POP. -/
def State.writePop (s : State) (w : Word) : State :=
  if Nat.beq (Fld.ERM_POP_POP.get w) 1 then { s with erm := { s.erm with queue := s.erm.queue.tail } } else s

/-- ERM_POP -/
def execErmPop (req : Req) (value : Word) (s : State) : Outcome State Fault Refusal :=
  .next (s.busWrite req Reg.ERM_POP value (·.writePop value))

/-- A write of ERM_SRCn: DONE ends HANDLING and COUNT becomes 0. -/
def State.writeSrc (s : State) (n : Nat) (w : Word) : State :=
  if Nat.beq (Fld.ERM_SRC_DONE.get w) 1 then { s with erm := { s.erm with handling := SMap.erase s.erm.handling n } } else s

/-- ERM_DONE -/
def execErmDone (src : Fin 256) (req : Req) (value : Word) (s : State) : Outcome State Fault Refusal :=
  .next (s.busWrite req (Reg.ERM_SRC src) value (·.writeSrc src value))

/-- A write of ERM_SAFE: LEVEL and ESC_LEVEL as written, and FAULT_CLR releases FAULT_N. -/
def State.writeSafe (s : State) (w : Word) : State :=
  let s1 := s.plainWrite Reg.ERM_SAFE w
  if Nat.beq (Fld.ERM_SAFE_FAULT_CLR.get w) 1 then s1.lower Reg.ERM_SAFE Fld.ERM_SAFE_FAULT else s1

/-- FAULT_CLR -/
def execFaultClr (req : Req) (value : Word) (s : State) : Outcome State Fault Refusal :=
  .next (s.busWrite req Reg.ERM_SAFE value (·.writeSafe value))

/-- SAFE_LEVEL_WRITE -/
def execSafeLevelWrite (req : Req) (value : Word) (s : State) : Outcome State Fault Refusal :=
  .next (s.busWrite req Reg.ERM_SAFE value (·.writeSafe value))

/-- ERM_OVF_READ -/
def execErmOvfRead (req : Req) (s : State) : Outcome State Fault Refusal := .next (s.readClear req Reg.ERM_OVF)

/-! ## The registers that present the error manager (R444, R446, R448, R450) -/

/-- ERM_SRCn as it reads. -/
def State.ermSrc (s : State) (n : Nat) : Word :=
  let c := s.erm.count n
  let mine (u : UnitId) : Bool := Nat.beq (srcIndex u) n
  let w := Fld.ERM_SRC_ACTION.put 0#32 (match allUnits.find? mine with | some u => actionOf u | none => 0)
  Fld.ERM_SRC_HANDLING.put (Fld.ERM_SRC_COUNT.put (Fld.ERM_SRC_ISOLATED.put w (s.erm.isolated.any mine).toNat) (c.getD 0))
    c.isSome.toNat

/-- ERM_RECk as it reads: the oldest record; 0 while the queue is empty. -/
def State.ermRec (s : State) (k : Nat) : Word :=
  match s.erm.queue with
  | [] => 0#32
  | r :: _ => BitVec.ofNat 32 (fieldAt r.bytes (4 * k) 4)

/-- ERM_QSTAT as it reads. -/
def State.ermQstat (s : State) : Word := Fld.ERM_QSTAT_FILL.put 0#32 s.erm.queue.length

end Sys2Proof.Machine
end

