-- ==== Sys2Proof/Machine/Timebase.lean ====
section
/-!
DEFINITION. The timebase: ticks, phase steps, the Fantail servo, gPTP, holdover and capture pins (09_network_time_and_timetable
R235 to R258, R530; 15_bridges_and_gateway R427), and the reference clock monitor (19_package_and_pins R525).
-/

namespace Sys2Proof.Machine

open Host (Outcome)

/-! ## Events and holdover (R240, R245, R249, R250) -/

/-- A W1C bit of TMB_STATUS is set; it raises the interrupt where it was 0 (R240). -/
def State.tmbEvent (s : State) (f : Fld) (bit : Nat) : State :=
  let old := s.fld Reg.TMB_STATUS f
  if bitAt old bit then s else (s.setFld Reg.TMB_STATUS f (old + 2 ^ bit)).interrupt .timebase

/-- A configuration error of the timebase. -/
def State.tmbCfgErr (s : State) : State := s.tmbEvent Fld.TMB_STATUS_CFG_ERR 0

/-- A write of a timebase register by the access types of its fields. -/
def State.tmbWrite (s : State) (a : Nat) (w : Word) : State :=
  let s1 := s.plainWrite a w
  if s1.flag Reg.TMB_STATUS Fld.TMB_STATUS_CFG_ERR && !(s.flag Reg.TMB_STATUS Fld.TMB_STATUS_CFG_ERR) then
    s1.interrupt .timebase
  else s1

/-- LOCKED becomes 0, and LOCK_LOST is set if it was 1 (R245). -/
def State.unlock (s : State) : State :=
  let s1 := { s with tb := { s.tb with good := 0 } }
  if s.flag Reg.TMB_STATUS Fld.TMB_STATUS_LOCKED then
    (s1.lower Reg.TMB_STATUS Fld.TMB_STATUS_LOCKED).tmbEvent Fld.TMB_STATUS_LOCK_LOST 0
  else s1

/-- The timebase is in holdover. -/
def State.inHoldover (s : State) : Bool := s.flag Reg.TMB_STATUS Fld.TMB_STATUS_HOLDOVER

/-- Holdover is entered, or continues, with the causes `c` (R249). -/
def State.enterHoldover (s : State) (c : HoldCause) : State :=
  if s.inHoldover then { s with tb := { s.tb with hold := c } }
  else
    let s1 := ({ s with tb := { s.tb with hold := c, holdFrom := s.tb.elapsed, holdGood := 0 } }.raise Reg.TMB_STATUS
      Fld.TMB_STATUS_HOLDOVER).setReg Reg.TMB_HOLD 0#32
    ((s1.tmbEvent Fld.TMB_STATUS_HOLD 0).report (plainRecord .timebase sevCE)).unlock

/-- The causes `c` are left; with none, holdover ends (R250). -/
def State.leaveHoldover (s : State) (c : HoldCause) : State :=
  let s1 := { s with tb := { s.tb with hold := c } }
  if c.source || c.tbref then s1 else s1.lower Reg.TMB_STATUS Fld.TMB_STATUS_HOLDOVER

/-- SOURCE. -/
def State.tmbSource (s : State) : Nat := s.fld Reg.TMB_CTRL Fld.TMB_CTRL_SOURCE

/-- HOLDOVER_TIMEOUT: no valid offset of the source for the timeout (R249, R530). -/
def execHoldoverTimeout (s : State) : Outcome State Fault Refusal :=
  .next <|
    let source := s.tmbSource
    let limit := 3000000 * usE / (if Nat.beq source 0 then 2 ^ s.fld Reg.TMB_SERVO Fld.TMB_SERVO_SYNC_LOG else 1)
    match s.tb.lastOfs with
    | none => s
    | some t =>
      if !s.tb.acquiring && Nat.blt source 2 && Nat.ble (t + limit) s.tb.elapsed then s.enterHoldover { s.tb.hold with source := true } else s

/-! ## Ticks and steps (R235, R247, R248, R255) -/

/-- The times wrap with SEC (R235). -/
def secWrap : Nat := 2 ^ 48 * 1000000000

/-- The timebase reads `n` ns. -/
def State.setNow (s : State) (n : Nat) : State :=
  { s with tb := { s.tb with sec := BitVec.ofNat 48 (n / 1000000000), ns := n % 1000000000 } }

/-- PPS_OUT goes high at a second boundary `b` above every time reached since SEC last wrapped (R255). -/
def State.ppsPulse (s : State) (b : Nat) : State :=
  if s.flag Reg.TMB_CTRL Fld.TMB_CTRL_PPS_OUT_EN && (match s.tb.ppsTop with | some m => Nat.blt m b | none => true) then
    let w := s.fld Reg.TMB_CTRL Fld.TMB_CTRL_PPS_W
    let ms := if Nat.beq w 0 then 100 else w
    { s with pins := { s.pins with ppsOut := true }, tb := { s.tb with ppsEnd := some (s.tb.elapsed + ms * 1000 * usE) } }
  else s

/-- The highest time reached. -/
def State.reachTop (s : State) : State := { s with tb := { s.tb with ppsTop := some (max (s.tb.ppsTop.getD 0) s.now) } }

/-- An adjustment at the tick (R247, R248): whether it is absolute, and its ns.  A change of SEC or NS is a step. -/
def State.adjust (s : State) (a : Bool × Int) : State :=
  let t0 := s.now
  let t1 := ((if a.1 then a.2 else t0 + a.2) % (secWrap : Int)).toNat
  let s1 := if a.1 then { s with tb := { s.tb with frac := 0#32 } } else s
  if Nat.beq t0 t1 then s1
  else
    let amount := clampInt (1 - 2 ^ 31) (2 ^ 31 - 1) (if a.1 then (t1 : Int) - t0 else a.2)
    let drifts := s1.fusion.drifts.map fun (d : Drift) => { d with ref := d.ref.map fun _ => d.sum }
    let s2 := ({ s1 with fusion := { s1.fusion with drifts } }.ttStep t0 t1).setNow t1
    let s3 := ((s2.setFld Reg.TMB_STEPS Fld.TMB_STEPS_COUNT (s2.fld Reg.TMB_STEPS Fld.TMB_STEPS_COUNT + 1)).setReg
      Reg.TMB_LAST_STEP (BitVec.ofInt 32 amount)).unlock
    let s4 := (s3.tmbEvent Fld.TMB_STATUS_STEP 0).report (plainRecord .timebase sevCE)
    if Nat.beq (t1 % 1000000000) 0 then s4.ppsPulse t1 else s4

/-- The clocks of the timetable follow a wrap of SEC. -/
def Timetable.wrap (t : Timetable) : Timetable :=
  { t with
    firesFrom := t.firesFrom.map (· - secWrap)
    swapAt := t.swapAt.map (· - secWrap)
    fired := []
    floor := t.floor - secWrap }

/-- The time advances by the increment in force (R235, R238). -/
def State.advance (s : State) : State :=
  let old := s.now
  let sum := s.tb.frac.toNat + s.tb.incr
  let n := old + sum / 2 ^ 32
  let s1 := { s with tb := { s.tb with elapsed := s.tb.elapsed + s.tb.incr, frac := BitVec.ofNat 32 sum } }
  let s2 := if Nat.ble secWrap n then { s1 with tt := s1.tt.wrap, tb := { s1.tb with ppsTop := none } } else s1
  let s3 := s2.setNow (n % secWrap)
  let s4 := if Nat.blt (old / 1000000000) (n / 1000000000) then s3.ppsPulse (n % secWrap / 1000000000 * 1000000000) else s3
  if s4.inHoldover then
    s4.setReg Reg.TMB_HOLD (BitVec.ofNat 32 (min ((s4.tb.elapsed - s4.tb.holdFrom) / (1000 * usE)) (2 ^ 32 - 1)))
  else s4

/-- TIMEBASE_TICK: firings that the tick before still owes go out, NONE events leave the time bus, a committed increment takes force, the
time advances, entries skipped by a step at the tick before fire with those due now, and adjustments for this tick apply in turn; the
gates of the switch follow the new time (15_bridges_and_gateway R428, R429). -/
def execTimebaseTick (s : State) : Outcome State Fault Refusal :=
  .next <|
    let s0 := s.fireUpTo s.now
    let s1 := { s0 with bus := s0.bus.filter fun e => !(Nat.beq e.action 0) }
    let steps := s1.tb.adjusts
    let s2 := { s1 with tb := { s1.tb with incr := s1.tb.incrNext.getD s1.tb.incr, incrNext := none, adjusts := [] } }
    (steps.foldl (fun s a => (s.adjust a).reachTop) s2.advance.reachTop.fireSkipped).drainPorts

/-- PPS_OUT_END: PPS_OUT goes low after PPS_W ms. -/
def execPpsOutEnd (s : State) : Outcome State Fault Refusal :=
  .next <|
    match s.tb.ppsEnd with
    | some t =>
      if Nat.ble t s.tb.elapsed then
        { s with pins := { s.pins with ppsOut := false }, tb := { s.tb with ppsEnd := none } }
      else s
    | none => s

/-! ## The increment and adjustments (R236, R247) -/

/-- The limits of TMB_INCR, in 2⁻³² ns (R236). -/
def incrMin : Nat := 0x1FFBE76C9
def incrMax : Nat := 0x200418937

/-- An increment is committed for the next tick, clamped to its limits (R236). -/
def State.commitIncr (s : State) (v : Nat) : State :=
  let c := max incrMin (min incrMax v)
  let s1 := ({ s with tb := { s.tb with incrNext := some c } }.setReg Reg.TMB_INCR_LO (BitVec.ofNat 32 c)).setFld
    Reg.TMB_INCR_HI Fld.TMB_INCR_HI_NS (c / 2 ^ 32)
  if Nat.beq c v then s1 else s1.tmbCfgErr

/-- A write of TMB_INCR_HI. -/
def State.writeIncrHi (s : State) (w : Word) : State :=
  s.commitIncr (Fld.TMB_INCR_HI_NS.get w * 2 ^ 32 + s.fld Reg.TMB_INCR_LO Fld.TMB_INCR_LO_FRAC)

/-- TMB_INCR_COMMIT -/
def execTmbIncrCommit (req : Req) (value : Word) (s : State) : Outcome State Fault Refusal :=
  .next (s.busWrite req Reg.TMB_INCR_HI value (·.writeIncrHi value))

/-- A write of TMB_ADJ_CTRL: GO asks for an adjustment at the next tick, or does nothing with TMB_ADJ_NS out of range. -/
def State.writeAdjCtrl (s : State) (w : Word) : State :=
  let s1 := s.tmbWrite Reg.TMB_ADJ_CTRL w
  let raw := s.fld Reg.TMB_ADJ_NS Fld.TMB_ADJ_NS_NS
  let lo := s.fld Reg.TMB_ADJ_SEC_LO Fld.TMB_ADJ_SEC_LO_SEC_LO
  let add (a : Bool × Int) : State := { s1 with tb := { s1.tb with adjusts := s1.tb.adjusts ++ [a] } }
  if Nat.beq (Fld.TMB_ADJ_CTRL_GO.get w) 0 then s1
  else if Nat.beq (Fld.TMB_ADJ_CTRL_MODE.get w) 0 then
    let ns := signedOf 32 raw
    if ns < -999999999 || 999999999 < ns then s1.tmbCfgErr else add (false, signedOf 32 lo * 1000000000 + ns)
  else if Nat.blt 999999999 raw then s1.tmbCfgErr
  else add (true, ((Fld.TMB_ADJ_CTRL_SEC_HI.get w * 2 ^ 32 + lo) * 1000000000 + raw : Nat))

/-- TMB_ADJ_RELATIVE -/
def execTmbAdjRelative (req : Req) (value : Word) (s : State) : Outcome State Fault Refusal :=
  .next (s.busWrite req Reg.TMB_ADJ_CTRL value (·.writeAdjCtrl value))

/-- TMB_ADJ_ABSOLUTE -/
def execTmbAdjAbsolute (req : Req) (value : Word) (s : State) : Outcome State Fault Refusal :=
  .next (s.busWrite req Reg.TMB_ADJ_CTRL value (·.writeAdjCtrl value))

/-- The seconds are latched for the reads of TMB_NOW_SEC (R239). -/
def State.latchSec (s : State) : State :=
  (s.setReg Reg.TMB_NOW_SEC_LO (s.tb.sec.setWidth 32)).setReg Reg.TMB_NOW_SEC_HI ((s.tb.sec >>> 32).setWidth 32)

/-- TMB_NOW_NS_READ: NS is returned and SEC is latched (R239). -/
def execTmbNowNsRead (req : Req) (s : State) : Outcome State Fault Refusal :=
  .next (s.busRead req Reg.TMB_NOW_NS (fun s => BitVec.ofNat 32 s.tb.ns) (·.latchSec))

/-! ## Source and servo control (R244, R530) -/

/-- Fantail's integrator for the increment that software left (R244). -/
def integOf (incr : Nat) : Rat := -(((incr : Rat) / 2 ^ 33 - 1) * 1000000000)

/-- A write of TMB_CTRL: a change of SOURCE or DOMAIN (R530), SERVO_EN going to 1 (R244), and PPS_OUT no longer driven. -/
def State.writeTmbCtrl (s : State) (w : Word) : State :=
  let s1 := s.tmbWrite Reg.TMB_CTRL w
  let servo (s' : State) := s'.flag Reg.TMB_CTRL Fld.TMB_CTRL_SERVO_EN
  let domain (s' : State) := s'.fld Reg.TMB_CTRL Fld.TMB_CTRL_DOMAIN
  let s2 := if servo s1 && !(servo s) then
      { s1 with tb := { s1.tb with integ := integOf (s1.tb.incrNext.getD s1.tb.incr) } } else s1
  let s3 :=
    if Nat.beq (s1.tmbSource) (s.tmbSource) && Nat.beq (domain s1) (domain s) then s2
    else
      let s4 := { s2 with tb := { s2.tb with acquiring := true, holdGood := 0 } }.unlock
      if s4.inHoldover then
        s4.leaveHoldover { source := false, tbref := s4.tb.hold.tbref && (s4.tb.tbrefOut || Nat.blt s4.tmbSource 2) }
      else s4
  if s3.flag Reg.TMB_CTRL Fld.TMB_CTRL_PPS_OUT_EN then s3
  else { s3 with pins := { s3.pins with ppsOut := false }, tb := { s3.tb with ppsEnd := none } }

/-- TMB_SOURCE_CHANGE -/
def execTmbSourceChange (req : Req) (value : Word) (s : State) : Outcome State Fault Refusal :=
  .next (s.busWrite req Reg.TMB_CTRL value (·.writeTmbCtrl value))

/-- SERVO_ENABLE -/
def execServoEnable (req : Req) (value : Word) (s : State) : Outcome State Fault Refusal :=
  .next (s.busWrite req Reg.TMB_CTRL value (·.writeTmbCtrl value))

/-! ## Fantail (R243 to R246, R250) -/

/-- A non-negative rational rounded to a whole number, ties to even. -/
def roundEven (x : Rat) : Int :=
  let f := x.floor
  let d := 2 * (x - f)
  if d < 1 then f else if 1 < d then f + 1 else if f % 2 == 0 then f else f + 1

/-- A rational held within ±`m`. -/
def clampRat (m x : Rat) : Rat := if x < -m then -m else if m < x then m else x

/-- Fantail's update of the increment at an offset of `theta` ns, `t` s after the previous one (R244); above 1 ms the correction
saturates (R246, STEP_EN = 0). -/
def State.servoUpdate (s : State) (theta t : Rat) : State :=
  let ki := s.fld Reg.TMB_SERVO Fld.TMB_SERVO_KI_SH
  let kp := s.fld Reg.TMB_SERVO Fld.TMB_SERVO_KP_SH
  let far := theta < -1000000 || 1000000 < theta
  let integ := if far then s.tb.integ else clampRat 500000 (s.tb.integ + theta / 2 ^ ki / t)
  let u := if far then (if theta < 0 then 500000 else -500000) else clampRat 500000 (-(theta / 2 ^ kp / t + integ))
  { s with tb := { s.tb with integ } }.commitIncr (roundEven (2 ^ 33 * (1 + u / 1000000000))).toNat

/-- θ of `theta` ÷ 256 ns rounded to whole ns; the spec states no rounding of ties (log entry 6). -/
def State.wholeNs (s : State) (theta : Int) : Int :=
  if theta % 256 == 128 then theta / 256 + (Config.freeValue s.ticks % 2 : Nat) else (theta + 128) / 256

/-- θ in whole ns as TMB_LAST_OFS holds it; the spec does not state the rounding (log entry 6). -/
def State.lastOfs (s : State) (theta : Int) : Int :=
  theta / 256 + (if theta % 256 == 0 then 0 else (Config.freeValue s.ticks % 2 : Nat))

/-- The lock after an offset that is applied (R245). -/
def State.lockUpdate (s : State) (theta : Int) : State :=
  let mag := theta.natAbs
  if Nat.ble (1000 * 256) mag then s.unlock
  else if Nat.ble (100 * 256) mag then { s with tb := { s.tb with good := 0 } }
  else
    let good := s.tb.good + 1
    let s1 := { s with tb := { s.tb with good } }
    if Nat.ble 8 good then s1.raise Reg.TMB_STATUS Fld.TMB_STATUS_LOCKED else s1

/-- A valid offset θ, in 2⁻⁸ ns, from the source (R244 to R250).  In holdover offsets are applied from the second consecutive
one on.  T_k of a first offset is a free value (log entry 6). -/
def State.offset (s : State) (theta : Int) : State :=
  let dt := match s.tb.lastOfs with
    | some t => s.tb.elapsed - t
    | none => 0
  let t : Rat := if Nat.beq dt 0 then (Config.freeValue s.ticks + 1 : Nat) else (dt : Rat) / (2 ^ 32 * 1000000000)
  let s1 := { s with
    tb := { s.tb with lastOfs := some s.tb.elapsed, acquiring := false, holdGood := s.tb.holdGood + 1 }
    ticks := s.ticks + 1 }.setReg Reg.TMB_LAST_OFS (BitVec.ofInt 32 (clampInt (1 - 2 ^ 31) (2 ^ 31 - 1) (s.lastOfs theta)))
  let s2 := if s1.inHoldover && Nat.ble 2 s1.tb.holdGood then
      s1.leaveHoldover { source := false, tbref := s1.tb.tbrefOut } else s1
  if s2.inHoldover then s2
  else
    let s3 := s2.lockUpdate theta
    if s3.flag Reg.TMB_CTRL Fld.TMB_CTRL_SERVO_EN then
      if Nat.blt (1000000 * 256) theta.natAbs && s3.flag Reg.TMB_CTRL Fld.TMB_CTRL_STEP_EN then
        { s3 with tb := { s3.tb with adjusts := s3.tb.adjusts ++ [(false, -(s.wholeNs theta))] } }
      else s3.servoUpdate ((theta : Rat) / 256) t
    else s3

/-! ## gPTP (R241 to R243, R427) -/

/-- The role of port p in instance d: from TSW_PTPd_ROLE with EXT = 1, else as BMCA chose. -/
def State.ptpRole (s : State) (d p : Nat) : Nat :=
  if s.flag (Reg.TSW_PTP_CFG d) Fld.TSW_PTP_CFG_EXT then
    bitsOf (s.fld (Reg.TSW_PTP_ROLE d) Fld.TSW_PTP_ROLE_ROLES) (2 * p + 1) (2 * p)
  else (s.gw.gptp.roles[Fin.ofNat 4 d])[Fin.ofNat 14 p]

/-- meanLinkDelay of a port, in 1/16 ns, where it is valid; ports 12 and 13 have 0. -/
def State.linkDelay (s : State) (p : Nat) : Option Nat :=
  if Nat.ble 12 p then some 0
  else if s.flag (Reg.TSW_PTP_PORT_DELAY p) Fld.TSW_PTP_PORT_DELAY_VALID then
    some (s.fld (Reg.TSW_PTP_PORT_DELAY p) Fld.TSW_PTP_PORT_DELAY_DELAY)
  else none

/-- gPTP runs in instance d on port p. -/
def State.ptpOn (s : State) (d p : Nat) : Bool :=
  s.flag (Reg.TSW_PTP_CFG d) Fld.TSW_PTP_CFG_EN && s.flag (Reg.TSW_PTP_PORT_CFG p) Fld.TSW_PTP_PORT_CFG_EN

/-- A receive timestamp of a port, at the medium, in 2⁻⁸ ns (R242). -/
def State.rxStamp (s : State) (p raw : Nat) : Int := (raw : Int) - 16 * s.fld (Reg.TMB_PTP_LAT p) Fld.TMB_PTP_LAT_RXLAT

/-- The transmit timestamp of a message that a port sends now, at the medium, in 2⁻⁸ ns (R242). -/
def State.txStamp (s : State) (p : Nat) : Nat := 256 * s.now + 16 * s.fld (Reg.TMB_PTP_LAT p) Fld.TMB_PTP_LAT_TXLAT

/-- SYNC_RECEIVED: a Sync on the slave port of an instance is kept for the relay (R241).  In the followed instance it gives an
offset where the link delay is valid; without one, the run of valid offsets is broken (R243). -/
def execSyncReceived (port : Fin 14) (dom : Fin 4) (msg : SyncMsg) (s : State) : Outcome State Fault Refusal :=
  .next <|
    if s.ptpOn dom port && Nat.beq (s.ptpRole dom port) 2 then
      let rx := s.rxStamp port msg.rx
      let got : RelaySync := { port := port, rx, origin := msg.origin, correction := msg.correction }
      let s1 := { s with gw := { s.gw with gptp := { s.gw.gptp with relay := s.gw.gptp.relay.set dom (some got) } } }
      if Nat.beq s.tmbSource 0 && Nat.beq (s.fld Reg.TMB_CTRL Fld.TMB_CTRL_DOMAIN) dom then
        match s.linkDelay port with
        | none => { s1 with tb := { s1.tb with holdGood := 0 } }
        | some d => s1.offset (rx - ((msg.origin : Int) + msg.correction + 16 * d))
      else s1
    else s

/-- The slave port of instance d, by the roles in force. -/
def State.ptpSlave (s : State) (d : Nat) : Option Nat := (List.range 14).find? fun p => Nat.beq (s.ptpRole d p) 2

/-- The status registers of an instance follow its roles and grandmaster; a change of the grandmaster counts in GM_CHG, and
one of the followed instance's grandmaster or slave port causes holdover (R249, R427). -/
def State.ptpFollow (s : State) (d : Nat) (gm : DWord) (gmSelf : Bool) : State :=
  let st := Reg.TSW_PTP_STATE d
  let old := (s.reg (Reg.TSW_PTP_GM_HI d)).toNat * 2 ^ 32 + (s.reg (Reg.TSW_PTP_GM_LO d)).toNat
  let oldSlave := if s.flag st Fld.TSW_PTP_STATE_SLAVE_VALID then some (s.fld st Fld.TSW_PTP_STATE_SLAVE_PORT) else none
  let slave := s.ptpSlave d
  let s1 := ((((s.setFld st Fld.TSW_PTP_STATE_GM_SELF gmSelf.toNat).setFld st Fld.TSW_PTP_STATE_SLAVE_VALID
    slave.isSome.toNat).setFld st Fld.TSW_PTP_STATE_SLAVE_PORT (slave.getD 0)).setReg (Reg.TSW_PTP_GM_LO d)
    (gm.setWidth 32)).setReg (Reg.TSW_PTP_GM_HI d) ((gm >>> 32).setWidth 32)
  let changed := !(Nat.beq old gm.toNat)
  let s2 := if changed then s1.count st Fld.TSW_PTP_STATE_GM_CHG 1 else s1
  if (changed || !(decide (slave = oldSlave))) && Nat.beq s.tmbSource 0 &&
      Nat.beq (s.fld Reg.TMB_CTRL Fld.TMB_CTRL_DOMAIN) d && !s.tb.acquiring then
    s2.enterHoldover { s2.tb.hold with source := true }
  else s2

/-- The priority vector of an Announce on port `p`, `more` steps further on: the first that differs decides, and the lower one is better
(R241; PRESUMED after IEEE 802.1AS-2020, log entry 74). -/
def priorityVector (a : Announce) (more p : Nat) : List Nat :=
  [a.prio1.toNat, a.quality.toNat, a.prio2.toNat, a.gm.toNat, a.steps.toNat + more, a.sender.toNat, a.senderPort.toNat, p]

/-- One priority vector is better than another. -/
def better : List Nat → List Nat → Bool
  | x :: xs, y :: ys => Nat.blt x y || (Nat.beq x y && better xs ys)
  | _, _ => false

/-- TSW_PTP_ID. -/
def State.ptpId (s : State) : DWord := s.reg Reg.TSW_PTP_ID_HI ++ s.reg Reg.TSW_PTP_ID_LO

/-- What this A880 announces of itself in instance d (R427). -/
def State.ownAnnounce (s : State) (d : Nat) : Announce :=
  { prio1 := BitVec.ofNat 8 (s.fld (Reg.TSW_PTP_CFG d) Fld.TSW_PTP_CFG_PRIO1), quality := Config.clockQuality,
    prio2 := BitVec.ofNat 8 (s.fld (Reg.TSW_PTP_CFG d) Fld.TSW_PTP_CFG_PRIO2), gm := s.ptpId, steps := 0#16, sender := s.ptpId,
    senderPort := 0#16 }

/-- The Announce that counts on port p of instance d: one of another clock whose grandmaster is not this A880. -/
def State.heardOn (s : State) (d p : Nat) : Option Announce :=
  ((s.gw.gptp.heard[Fin.ofNat 4 d])[Fin.ofNat 14 p]).filter fun a =>
    s.ptpOn d p && !(decide (a.sender = s.ptpId)) && !(decide (a.gm = s.ptpId)) && Nat.blt a.steps.toNat 255

/-- The port that hears the best Announce of an instance. -/
def State.bestPort (s : State) (d : Nat) : Option (Nat × Announce) :=
  (List.range 14).foldl (fun (b : Option (Nat × Announce)) p =>
    match s.heardOn d p, b with
    | some a, some (q, c) => if better (priorityVector a 1 p) (priorityVector c 1 q) then some (p, a) else b
    | some a, none => some (p, a)
    | none, _ => b) none

/-- Where the time of instance d comes from: with EXT = 1 the slave port of TSW_PTPd_ROLE, else the port with the best Announce, where
it is better than this A880 itself; none where the A880 is the instance's best clock. -/
def State.ptpRoot (s : State) (d : Nat) : Option (Nat × Announce) :=
  if s.flag (Reg.TSW_PTP_CFG d) Fld.TSW_PTP_CFG_EXT then
    (s.ptpSlave d).bind fun p => (s.heardOn d p).map fun a => (p, a)
  else (s.bestPort d).filter fun b => better (priorityVector b.2 1 b.1) (priorityVector (s.ownAnnounce d) 0 0)

/-- What the A880 announces on port p of instance d: its source's grandmaster one step on, or itself. -/
def State.announceOn (s : State) (d p : Nat) : Announce :=
  match s.ptpRoot d with
  | some (_, a) => { a with steps := a.steps + 1#16, sender := s.ptpId, senderPort := BitVec.ofNat 16 (p + 1) }
  | none => { s.ownAnnounce d with senderPort := BitVec.ofNat 16 (p + 1) }

/-- The role that BMCA gives port p of instance d: slave where the time comes from, passive where it hears better than the A880 would
announce, else master. -/
def State.bmcaRole (s : State) (d p : Nat) : Nat :=
  if !(s.ptpOn d p) then 0
  else
    match s.ptpRoot d, s.heardOn d p with
    | some (q, _), some a =>
      if Nat.beq p q then 2 else if better (priorityVector a 0 p) (priorityVector (s.announceOn d p) 0 p) then 3 else 1
    | _, _ => 1

/-- BMCA chooses the roles of instance d, which EXT = 1 replaces, and with them its grandmaster.  The A880 is a grandmaster only with
SOURCE 1 or 2 (R241). -/
def State.bmca (s : State) (d : Nat) : State :=
  let chosen : Vector Nat 14 := Vector.ofFn fun (p : Fin 14) => s.bmcaRole d p
  let s1 := if s.flag (Reg.TSW_PTP_CFG d) Fld.TSW_PTP_CFG_EXT then s
    else { s with gw := { s.gw with gptp := { s.gw.gptp with roles := s.gw.gptp.roles.set (Fin.ofNat 4 d) chosen } } }
  match s.ptpRoot d with
  | some (_, a) => s1.ptpFollow d a.gm false
  | none =>
    let self := !(Nat.beq s.tmbSource 0)
    s1.ptpFollow d (if self then s.ptpId else 0#64) self

/-- ANNOUNCE_RECEIVED: the Announce is kept for its port, and BMCA chooses anew. -/
def execAnnounceReceived (port : Fin 14) (dom : Fin 4) (msg : Announce) (s : State) : Outcome State Fault Refusal :=
  .next <|
    if s.ptpOn dom port then
      let g := s.gw.gptp
      { s with gw := { s.gw with gptp := { g with heard := g.heard.set dom ((g.heard[dom]).set port (some msg)) } } }.bmca dom
    else s

/-- A write of TSW_PTPd_ROLE: with more than one slave it is ignored and sets CFG_ERR (R427). -/
def State.writePtpRole (s : State) (d : Nat) (w : Word) : State :=
  let slaves := (List.range 14).filter fun p => Nat.beq (bitsOf w.toNat (2 * p + 1) (2 * p)) 2
  if Nat.blt 1 slaves.length then s.raise Reg.TSW_STATUS Fld.TSW_STATUS_CFG_ERR
  else
    let s1 := s.plainWrite (Reg.TSW_PTP_ROLE d) w
    if s1.flag (Reg.TSW_PTP_CFG d) Fld.TSW_PTP_CFG_EXT then
      s1.ptpFollow d ((s.reg (Reg.TSW_PTP_GM_HI d)) ++ (s.reg (Reg.TSW_PTP_GM_LO d)))
        (s.flag (Reg.TSW_PTP_STATE d) Fld.TSW_PTP_STATE_GM_SELF)
    else s1

/-- A write of TSW_PTPd_CFG: roles of EXT = 1 take the place of BMCA's, or leave it, and what follows from the roles does (R249,
R427). -/
def State.writePtpCfg (s : State) (d : Nat) (w : Word) : State :=
  let s1 := s.plainWrite (Reg.TSW_PTP_CFG d) w
  s1.ptpFollow d ((s.reg (Reg.TSW_PTP_GM_HI d)) ++ (s.reg (Reg.TSW_PTP_GM_LO d)))
    (s.flag (Reg.TSW_PTP_STATE d) Fld.TSW_PTP_STATE_GM_SELF)

/-- The engine hands messages to the switch, unless TSW_PTP_ID is 0 (R427). -/
def State.ptpSend (s : State) (ms : List PtpMsg) : State :=
  if s.ptpId = 0#64 then s
  else { s with gw := { s.gw with gptp := { s.gw.gptp with sent := s.gw.gptp.sent ++ ms } } }

/-- gPTP measures the link delay of a port; ports 12 and 13 keep their fixed delay (R427). -/
def State.pdelayOn (s : State) (p : Nat) : Bool :=
  s.flag (Reg.TSW_PTP_PORT_CFG p) Fld.TSW_PTP_PORT_CFG_EN && Nat.blt p 12

/-- neighborRateRatio − 1 in ppb, from the last two responses of the neighbour: what its clock has counted against the timebase; 0 before
the second one (R241; PRESUMED after IEEE 802.1AS-2020, log entry 74). -/
def rateRatio (peer : Option (Nat × Int)) (t3 : Nat) (t4 : Int) : Int :=
  match peer with
  | some (t3', t4') => if t4' < t4 then ((t3 : Int) - t3') * 1000000000 / (t4 - t4') - 1000000000 else 0
  | none => 0

/-- meanLinkDelay in 1/16 ns: half of the turnaround in the neighbour's time, less what the neighbour took. -/
def meanDelay (ratio t1 t4 : Int) (t2 t3 : Nat) : Nat :=
  let turn := (t4 - t1) + (t4 - t1) * ratio / 1000000000
  min ((turn - ((t3 : Int) - t2)) / 32).toNat (2 ^ 31 - 1)

/-- PDELAY_RECEIVED: a request is answered; the response to the port's own request gives its rate ratio and its delay; without one in
time the port has no valid delay. -/
def execPdelayReceived (port : Fin 14) (msg : PdelayMsg) (rx : Nat) (s : State) : Outcome State Fault Refusal :=
  .next <|
    let g := s.gw.gptp
    let t4 := s.rxStamp port rx
    let reply (kind : PtpKind) (t : Nat) : PtpMsg :=
      { kind, port := port, dom := 0, stamp := s.txStamp port, origin := t, correction := 0 }
    if !(s.pdelayOn port) then s
    else
      match msg with
      | .request => s.ptpSend [reply .pdelayResp t4.toNat, reply .pdelayFollowUp (s.txStamp port)]
      | .lost =>
        { s with gw := { s.gw with gptp := { g with reqAt := g.reqAt.set port none, peer := g.peer.set port none } } }.setReg
          (Reg.TSW_PTP_PORT_DELAY port) 0#32
      | .response t2 t3 =>
        match g.reqAt[port] with
        | none => s
        | some t1 =>
          let ratio := rateRatio g.peer[port] t3 t4
          { s with gw := { s.gw with gptp := { g with
              reqAt := g.reqAt.set port none, peer := g.peer.set port (some (t3, t4)), ratios := g.ratios.set port ratio } } }.setReg
            (Reg.TSW_PTP_PORT_DELAY port) (BitVec.ofNat 32 (2 ^ 31 + meanDelay ratio t1 t4 t2 t3))

/-- What the Follow_Up of a Sync that port `p` sends now says: the A880's own time where it is the grandmaster; else what the Sync of
the slave port said, with the link delay and the time the message has spent in the A880 (R241; PRESUMED after IEEE 802.1AS-2020,
log entry 74). -/
def State.followUp (s : State) (d p : Nat) : PtpMsg :=
  let tx := s.txStamp p
  match s.gw.gptp.relay[Fin.ofNat 4 d], s.ptpSlave d with
  | some m, some q =>
    let stay : Int := (tx : Int) - m.rx
    let ratio : Int := (s.gw.gptp.ratios[Fin.ofNat 14 q] : Int)
    { kind := .followUp, port := p, dom := d, stamp := tx, origin := m.origin,
      correction := m.correction + 16 * ((s.linkDelay q).getD 0 : Nat) + stay + stay * ratio / 1000000000 }
  | _, _ => { kind := .followUp, port := p, dom := d, stamp := tx, origin := tx, correction := 0 }

/-- The instance has a time to send: its slave port has received a Sync to relay, or the A880 is its grandmaster, which it is only with
SOURCE 1 or 2 (R241). -/
def State.hasTime (s : State) (d : Nat) : Bool :=
  if (s.ptpSlave d).isSome then (s.gw.gptp.relay[Fin.ofNat 4 d]).isSome else !(Nat.beq s.tmbSource 0)

/-- PTP_SYNC_TRANSMIT: BMCA follows the registers as they now stand; on a master port an Announce goes out (DESIGN CHOICE, log entry 74:
no command of its own sends it), and a two-step Sync with its Follow_Up where the instance has a time to send (R241, R427). -/
def execPtpSyncTransmit (port : Fin 14) (dom : Fin 4) (s : State) : Outcome State Fault Refusal :=
  .next <|
    if s.ptpOn dom port then
      let s1 := s.bmca dom
      let msg (kind : PtpKind) : PtpMsg :=
        { kind, port := port, dom := dom, stamp := s1.txStamp port, origin := 0, correction := 0 }
      if Nat.beq (s1.ptpRole dom port) 1 then
        s1.ptpSend (msg (.announce (s1.announceOn dom port)) ::
          (if s1.hasTime dom then [msg .sync, s1.followUp dom port] else []))
      else s1
    else s

/-- PDELAY_REQ_TRANSMIT -/
def execPdelayReqTransmit (port : Fin 14) (s : State) : Outcome State Fault Refusal :=
  .next <|
    if s.pdelayOn port && !(decide (s.ptpId = 0#64)) then
      let g := s.gw.gptp
      { s with gw := { s.gw with gptp := { g with reqAt := g.reqAt.set port (some (s.txStamp port)) } } }.ptpSend
        [{ kind := .pdelayReq, port := port, dom := 0, stamp := s.txStamp port, origin := 0, correction := 0 }]
    else s

/-- GM_CHG_READ -/
def execGmChgRead (dom : Fin 4) (req : Req) (s : State) : Outcome State Fault Refusal :=
  .next (s.readClear req (Reg.TSW_PTP_STATE dom))

/-! ## Capture pins (R256 to R258) -/

/-- Capture pin n. -/
def State.pin (s : State) (n : Nat) : CapPin := s.tb.pins[Fin.ofNat 5 n]

def State.setPin (s : State) (n : Nat) (p : CapPin) : State :=
  { s with tb := { s.tb with pins := s.tb.pins.set (Fin.ofNat 5 n) p } }

/-- CAP of a pin follows its FIFO, and raises the interrupt as it becomes 1 (R240). -/
def State.capUpdate (s : State) (n : Nat) : State :=
  let old := s.fld Reg.TMB_STATUS Fld.TMB_STATUS_CAP
  let fill := (s.pin n).fifo.length
  let s1 := s.setFld (Reg.TMB_CAP_SEC_HI n) Fld.TMB_CAP_SEC_HI_FILL fill
  if Nat.beq fill 0 then s1.setFld Reg.TMB_STATUS Fld.TMB_STATUS_CAP (old - (if bitAt old n then 2 ^ n else 0))
  else if bitAt old n then s1
  else (s1.setFld Reg.TMB_STATUS Fld.TMB_STATUS_CAP (old + 2 ^ n)).interrupt .timebase

/-- The timebase time that a capture now records: within 4 ns of the edge's, by a free value (R256; log entry 6). -/
def State.captureTime (s : State) : Nat :=
  ((((s.now + secWrap : Nat) : Int) + ((Config.freeValue s.ticks % 9 : Nat) : Int) - 4) % (secWrap : Int)).toNat

/-- The pin is accepted as inactive, which re-arms STUCK (R258). -/
def State.pinInactive (s : State) (n : Nat) : State := s.setPin n { s.pin n with active := none, stuck := false }

/-- The active level of a pin is accepted: on a pin that was accepted as inactive this is its active edge, and it is captured, or lost
within 100 ns of the last captured one or with the FIFO full; with PPS_IN as the source, a capture on it gives Fantail its offset (R250,
R256, R257). -/
def State.activeEdge (s : State) (n : Nat) : State :=
  let p := s.pin n
  let s1 := s.setPin n { p with active := some s.tb.elapsed, stuck := false }
  if p.active.isSome then s
  else if !(s.flag (Reg.TMB_CAP_CFG n) Fld.TMB_CAP_CFG_EN) then s1
  else
    let close := match p.lastEdge with
      | some t => Nat.blt s.tb.elapsed (t + 100 * nsE)
      | none => false
    if close || Nat.ble 16 p.fifo.length then
      (s1.tmbEvent Fld.TMB_STATUS_OVR n).count (Reg.TMB_CAP_OVR n) Fld.TMB_CAP_OVR_LOST 1
    else
      let at_ := s.captureTime
      let ns := at_ % 1000000000
      let q : CapPin := { p with
        fifo := p.fifo ++ [(at_ / 1000000000, ns)]
        lastEdge := some s.tb.elapsed
        active := some s.tb.elapsed
        stuck := false }
      let s2 := ({ s with ticks := s.ticks + 1 }.setPin n q).capUpdate n
      if Nat.beq n 4 && Nat.beq s.tmbSource 1 then
        s2.offset (256 * (if Nat.blt ns 500000000 then (ns : Int) else (ns : Int) - 1000000000))
      else s2

/-- Three samples at 500 MHz see a pulse of `width` ns: 20 ns or more always, below 6 ns never, and between them by a free value
(R256; log entry 6). -/
def State.pulseSeen (s : State) (width : Nat) : Bool :=
  Nat.ble 20 width || (Nat.ble 6 width && Nat.beq (Config.freeValue s.ticks % 2) 1)

/-- CAPTURE_EDGE: the pin takes a level for `width` ns.  Where the samples see it, its active edge, by POL, is captured, and the
other edge makes the pin inactive. -/
def execCaptureEdge (edge : PinEdge) (s : State) : Outcome State Fault Refusal :=
  .next <|
    let s1 := if Nat.ble 6 edge.width && Nat.blt edge.width 20 then { s with ticks := s.ticks + 1 } else s
    if !(s.pulseSeen edge.width) then s1
    else if edge.high.xor (s.flag (Reg.TMB_CAP_CFG edge.pin) Fld.TMB_CAP_CFG_POL) then s1.activeEdge edge.pin
    else s1.pinInactive edge.pin

/-- CAPTURE_STUCK: a pin active for longer than STUCK_US raises one STUCK (R258). -/
def execCaptureStuck (pin : Fin 5) (s : State) : Outcome State Fault Refusal :=
  .next <|
    let p := s.pin pin
    let us := s.fld (Reg.TMB_CAP_CFG pin) Fld.TMB_CAP_CFG_STUCK_US
    match p.active with
    | some t =>
      if !p.stuck && !(Nat.beq us 0) && Nat.blt (t + us * usE) s.tb.elapsed then
        ((s.setPin pin { p with stuck := true }).tmbEvent Fld.TMB_STATUS_STUCK pin).report (plainRecord .timebase sevTimeout)
      else s
    | none => s

/-- CAPTURE_PIN_INACTIVE: the pin is accepted as inactive, which re-arms STUCK. -/
def execCapturePinInactive (pin : Fin 5) (s : State) : Outcome State Fault Refusal :=
  .next (s.pinInactive pin)

/-- What a read of TMB_CAPn_NS returns. -/
def State.capNs (s : State) (n : Nat) : Word :=
  match (s.pin n).fifo with
  | c :: _ => BitVec.ofNat 32 c.2
  | [] => 0xFFFFFFFF#32

/-- The oldest capture is removed and its seconds are loaded (R257). -/
def State.popCapture (s : State) (n : Nat) : State :=
  match (s.pin n).fifo with
  | c :: cs =>
    (((s.setPin n { s.pin n with fifo := cs }).setReg (Reg.TMB_CAP_SEC_LO n) (BitVec.ofNat 32 c.1)).setFld
      (Reg.TMB_CAP_SEC_HI n) Fld.TMB_CAP_SEC_HI_SEC_HI (c.1 / 2 ^ 32)).capUpdate n
  | [] => s

/-- TMB_CAP_NS_READ -/
def execTmbCapNsRead (pin : Fin 5) (req : Req) (s : State) : Outcome State Fault Refusal :=
  .next (s.busRead req (Reg.TMB_CAP_NS pin) (·.capNs pin) (·.popCapture pin))

/-- TMB_CAP_OVR_READ -/
def execTmbCapOvrRead (pin : Fin 5) (req : Req) (s : State) : Outcome State Fault Refusal :=
  .next (s.readClear req (Reg.TMB_CAP_OVR pin))

/-! ## The reference clock monitor (R525) -/

/-- SYSCLK_FAIL -/
def execSysclkFail (s : State) : Outcome State Fault Refusal :=
  .next ((s.raise Reg.CLK_MON Fld.CLK_MON_SYSCLK_BAD).report (plainRecord .clk sevFatal))

/-- TBREF_FAIL: the timebase moves to the reference derived from SYSCLK, in holdover. -/
def execTbrefFail (s : State) : Outcome State Fault Refusal :=
  .next <|
    if s.tb.tbrefOut then s
    else
      let s1 := ({ s with tb := { s.tb with tbrefOut := true } }.raise Reg.CLK_MON Fld.CLK_MON_TBREF_BAD).raise Reg.CLK_MON
        Fld.CLK_MON_TB_ON_SYS
      (s1.enterHoldover { s1.tb.hold with tbref := true }).report (plainRecord .clk sevTimeout)

/-- TBREF_RETURN: the timebase returns to TBREF; with SOURCE 0x2 holdover ends, else it waits for two offsets (R250). -/
def execTbrefReturn (s : State) : Outcome State Fault Refusal :=
  .next <|
    if s.tb.tbrefOut then
      let s1 := { s with tb := { s.tb with tbrefOut := false, holdGood := 0 } }.lower Reg.CLK_MON Fld.CLK_MON_TB_ON_SYS
      if Nat.beq s1.tmbSource 2 then s1.leaveHoldover { s1.tb.hold with tbref := false } else s1
    else s

/-- XGREF_FAIL: ports 8 to 11 lose their links. -/
def execXgrefFail (s : State) : Outcome State Fault Refusal :=
  .next <|
    let portLinks := (List.range 4).foldl (fun (v : Vector Bool 14) k => v.set (Fin.ofNat 14 (8 + k)) false) s.portLinks
    ({ s with portLinks }.raise Reg.CLK_MON Fld.CLK_MON_XGREF_BAD).report (plainRecord .clk sevCE)

/-- HCLK_FAIL: Heath's monitor drives FAULT_N and SAFE_STATE until POR_N. -/
def execHclkFail (s : State) : Outcome State Fault Refusal := .next { s with pins := { s.pins with heathDead := true } }

/-- The level of FAULT_N: low while FAULT is asserted (R451, R525). -/
def State.faultN (s : State) : Bool := !(s.pins.heathDead || s.flag Reg.ERM_SAFE Fld.ERM_SAFE_FAULT)

/-- SAFE_STATE[1:0] (R451, R525). -/
def State.safeState (s : State) : Nat := if s.pins.heathDead then 3 else s.fld Reg.ERM_SAFE Fld.ERM_SAFE_LEVEL

end Sys2Proof.Machine
end

