-- ==== Sys2Proof/Machine/Registers.lean ====
section
/-!
DEFINITION. A write or a read at any register address (R9 to R11, R33): the effect is found by the block's slot and then by
the register, and is the same as that of the command of the register's own row.  A register without an effect of its own is
written by the access types of its fields; a reserved register ignores the write, and on a doorbell page it counts.
-/

namespace Sys2Proof.Machine

open Host (Outcome)

/-! ## Writes, block by block -/

/-- TEN: R121, R122. -/
def State.writeTen (s : State) (a : Nat) (w : Word) : State :=
  let te := (a - 0x10100000) / 0x10000 * 8 + a % 0x10000 / 0x2000
  let o := a % 0x2000
  if Nat.beq o 0x00 then s.writeTenCtrl te w
  else if Nat.beq o 0x10 then s.writeCqTail te w
  else if Nat.beq o 0x28 then s.writeTenWdt te w
  else if (Nat.beq o 0x08 || Nat.beq o 0x0C || Nat.beq o 0x20 || Nat.beq o 0x24 || Nat.beq o 0x50 || Nat.beq o 0x54) &&
      Nat.beq (s.fld (Reg.TEN_STATUS te) Fld.TEN_STATUS_STATE) 1 then s.cfgErr a
  else if Nat.beq o 0x20 && Nat.blt 32 (Fld.TEN_ACC_CFG_ACC_BASE.get w + Fld.TEN_ACC_CFG_ACC_SIZE.get w) then
    (s.plainWrite a w).cfgErr a
  else s.plainWrite a w

/-- The doorbell pages of the contexts: R183, R184. -/
def State.writeDoorbell (s : State) (a : Nat) (w : Word) : State :=
  let n := (a - 0x40000000) / 0x1000
  let o := a % 0x1000
  if Nat.blt o 0x20 then s.sqDoorbell n (o / 4) w
  else if Nat.beq o 0x40 then (s.writeCqHead n w).settle
  else if (regFields a).isEmpty then s.dbIgnored n
  else s.plainWrite a w

/-- TCX: R204. -/
def State.writeTcx (s : State) (a : Nat) (w : Word) : State :=
  if Nat.beq a Reg.TCX_CTRL then s.writeTcxCtrl w
  else if (Nat.beq a Reg.TCX_HOST_IFVER || Nat.beq a Reg.TCX_CTX0_DESC_LO || Nat.beq a Reg.TCX_CTX0_DESC_HI) &&
      Nat.beq (s.fld Reg.TCX_FW_STATUS Fld.TCX_FW_STATUS_STATE) 3 then s.cfgErr a
  else s.plainWrite a w

/-- DMC: R309, R314, R326. -/
def State.writeDmc (s : State) (a : Nat) (w : Word) : State :=
  let n := (a - 0x11000000) / 0x10000
  if !(s.dmcPopulated n) then s
  else if Nat.beq a (Reg.DMC_RP_CTRL n) then s.writeRangeCtrl n w
  else if Nat.beq a (Reg.DMC_MARK n) then s.writeMark n w
  else if (Nat.beq a (Reg.DMC_RP_START n) || Nat.beq a (Reg.DMC_RP_END n)) &&
      s.flag (Reg.DMC_STATUS n) Fld.DMC_STATUS_RP_BUSY then s
  else s.plainWrite a w

/-- SLC and SLU: R330 to R334. -/
def State.writeCacheSluice (s : State) (a : Nat) (w : Word) : State :=
  if Nat.beq a Reg.SLC_FLUSH then s.writeFlush w
  else if Nat.beq a Reg.SLC_HOLD then s.writeHold w
  else if inRange a (Reg.SLU_WHL 0 0) (Reg.SLU_WHL 16 0) then s.writeWheel a w
  else s.plainWrite a w

/-- GRD: R386 to R388. -/
def State.writeGuard (s : State) (a : Nat) (w : Word) : State :=
  let t := (a - 0x110A0000) / 0x1000
  if Nat.blt (a % 0x1000) 0x400 then
    if Nat.blt (a % 0x1000) (regionsOf t * 0x20) && Nat.blt (a % 0x20) 0x14 then s.writeRegion a w else s
  else if Nat.beq a (Reg.GRD_FENCE t) then s.writeFence t w
  else s.plainWrite a w

/-- TMB: R236 to R257. -/
def State.writeTmb (s : State) (a : Nat) (w : Word) : State :=
  if Nat.beq a Reg.TMB_CTRL then s.writeTmbCtrl w
  else if Nat.beq a Reg.TMB_INCR_HI then s.writeIncrHi w
  else if Nat.beq a Reg.TMB_ADJ_CTRL then s.writeAdjCtrl w
  else s.tmbWrite a w

/-- TTB: R259 to R264. -/
def State.writeTtb (s : State) (a : Nat) (w : Word) : State :=
  if Nat.ble 0x12018000 a then s.writeTtbWindow a w
  else if Nat.beq a Reg.TTB_CTRL then s.writeTtbCtrl w
  else if Nat.beq a (Reg.TTB_CYCLE 0) then s.writeTtbCycle 0 w
  else if Nat.beq a (Reg.TTB_CYCLE 1) then s.writeTtbCycle 1 w
  else s.plainWrite a w

/-- CSI, SSP, FGD and FUS: R270 to R297. -/
def State.writeSensor (s : State) (a : Nat) (w : Word) : State :=
  let k := a / 0x10000
  let o := a % 0x10000
  if inRange k 0x1300 0x1304 && Nat.beq o 0 then s.writeCsiCfg (k - 0x1300) w
  else if inRange k 0x1308 0x130C && Nat.beq o 0 then s.writeSspCfg (k - 0x1308) w
  else if inRange k 0x1308 0x130C && Nat.beq o 4 then s.writeSspWm (k - 0x1308) w
  else if Nat.beq k 0x130C && Nat.blt o 0x1400 then
    let n := o / 0x100
    let r := o % 0x100
    if Nat.beq r 0 then s.writeStrCtrl n w
    else if Nat.beq r 4 || Nat.beq r 8 then s.writeStrDesc n a w
    else if Nat.beq r 12 then s.writeStrTail n w
    else s.plainWrite a w
  else if Nat.beq k 0x130D then
    if Nat.ble 0x8000 o then s.writeFusWindow a w
    else if Nat.beq a Reg.FUS_CTRL then s.writeFusCtrl w
    else if Nat.beq a Reg.FUS_REPHASE then s.writeRephase w
    else if inRange a (Reg.FUS_BUF_TAIL 0) (Reg.FUS_BUF_TAIL 64) then s.writeFusBufTail (o % 0x100 / 4) w
    else s.plainWrite a w
  else s.plainWrite a w

/-- GFX and DSP: R339, R340, R354, R355. -/
def State.writePicture (s : State) (a : Nat) (w : Word) : State :=
  let k := a / 0x10000
  let o := a % 0x10000
  if Nat.beq k 0x1400 then
    if inRange o 0x100 0x180 then
      let q := (o - 0x100) / 0x10
      if Nat.beq (o % 0x10) 0 then s.writeGqCtrl q w
      else if Nat.beq (o % 0x10) 4 || Nat.beq (o % 0x10) 8 then s.writeGqDesc q a w
      else s.plainWrite a w
    else if Nat.ble 0x8000 o then
      let q := (o - 0x8000) / 0x1000
      if Nat.beq (o % 0x1000) 0 then s.writeGqTail q w
      else if Nat.beq (o % 0x1000) 0x40 then s.writeGqHead q w
      else if (regFields a).isEmpty then s.gqIgnored q
      else s.plainWrite a w
    else s.plainWrite a w
  else
    let n := k - 0x1410
    if Nat.beq o 0 then s.writeDspCtrl n w
    else if Nat.beq o 4 || Nat.beq o 8 then s.writeDspDesc n a w
    else if Nat.beq o 0x8000 then s.writeFlipTail n w
    else if Nat.beq o 0x8040 then s.writeFlipHead n w
    else if inRange o 0x8000 0x9000 && (regFields a).isEmpty then s.dspIgnored n
    else s.plainWrite a w

/-- WGD_GATE_TMO ignores 0 and sets CFG_ERR (R399). -/
def State.writeGateTmo (s : State) (w : Word) : State :=
  if Nat.beq (Fld.WGD_GATE_TMO_US.get w) 0 then s.cfgErr Reg.WGD_GATE_TMO else s.plainWrite Reg.WGD_GATE_TMO w

/-- A write of WGD_IMSIC_OWN changes which M-level files are secure-owned (R392 to R394). -/
def State.writeImsicOwn (s : State) (w : Word) : State :=
  (List.range 16).foldl (fun s n => s.attention n) (s.plainWrite Reg.WGD_IMSIC_OWN w)

/-- APC and WGD: R372, R391, R392, R399, R403. -/
def State.writeWorld (s : State) (a : Nat) (w : Word) : State :=
  let o := a % 0x10000
  if inRange a 0x15000000 0x15040000 then
    if Nat.beq o 0x100 then s.writePair ((a / 0x10000 - 0x1500) * 2) w
    else if Nat.beq o 0x120 then s.writePair ((a / 0x10000 - 0x1500) * 2 + 1) w
    else s.plainWrite a w
  else if Nat.beq a Reg.WGD_CTRL then s.writeFail w
  else if Nat.beq a Reg.WGD_GATE_TMO then s.writeGateTmo w
  else if Nat.beq a Reg.WGD_IMSIC_OWN then s.writeImsicOwn w
  else if inRange a (Reg.WGD_OWN 0) (Reg.WGD_OWN 64) then s.writeOwner ((a - Reg.WGD_OWN 0) / 4) w
  else s.plainWrite a w

/-- TSW: R424 to R433. -/
def State.writeTsw (s : State) (a : Nat) (w : Word) : State :=
  let o := a % 0x10000
  if inRange o 0x100 0x138 then s.writeGcl ((o - 0x100) / 4) w
  else if Nat.beq a Reg.TSW_HIF_CTRL then s.writeHifCtrl w
  else if Nat.beq a Reg.TSW_HIF_DESC_LO || Nat.beq a Reg.TSW_HIF_DESC_HI then s.writeHifDesc a w
  else if inRange o 0x300 0x340 && Nat.beq (o % 0x10) 0 then s.writePtpCfg ((o - 0x300) / 0x10) w
  else if inRange o 0x300 0x340 && Nat.beq (o % 0x10) 4 then s.writePtpRole ((o - 0x300) / 0x10) w
  else if inRange o 0x6000 0x6200 then s.writeTunnel a w
  else if inRange o 0x8000 0xA000 then s.writeGateList a w
  else if inRange o 0xA000 0xA020 then s.writeHifTail true ((o - 0xA000) / 4) w
  else if inRange o 0xA040 0xA060 then s.writeHifTail false ((o - 0xA040) / 4) w
  else if inRange o 0xA000 0xB000 && (regFields a).isEmpty then s.hifIgnored
  else s.plainWrite a w

/-- CAN: R430, R431. -/
def State.writeCan (s : State) (a : Nat) (w : Word) : State :=
  let n := a / 0x10000 - 0x1810
  let o := a % 0x10000
  if Nat.beq o 0 then s.writeCanCtrl n w
  else if Nat.beq o 4 || Nat.beq o 8 then s.writeCanDesc n a w
  else if Nat.beq o 0x8000 then s.writeCanTail n w
  else if Nat.beq o 0x8040 then s.writeCanHead n w
  else if inRange o 0x8000 0x9000 && (regFields a).isEmpty then s.canIgnored n
  else s.plainWrite a w

/-- PCE, XSP and AUD: R435 to R438. -/
def State.writeSlow (s : State) (a : Nat) (w : Word) : State :=
  let o := a % 0x10000
  if inRange a 0x18200000 0x18220000 then
    if Nat.beq o 0 then s.writePceCfg (a / 0x10000 - 0x1820) w else s.plainWrite a w
  else if Nat.beq a Reg.XSP_DB_SQ_TAIL then s.writeXspTail w
  else if inRange o 0x4000 0x5000 then
    if (regFields a).isEmpty then s.count Reg.XSP_DB_ERR Fld.DB_ERR_IGNORED 1 else s.plainWrite a w
  else if inRange o 0x8000 0xC000 then
    let n := (o - 0x8000) / 0x800
    let r := o % 0x800
    if Nat.beq r 0 then s.writeAudCtrl n w
    else if Nat.beq r 4 || Nat.beq r 8 then s.writeAudDesc n a w
    else if Nat.beq r 12 then s.writeAudTail n w
    else s.plainWrite a w
  else s.plainWrite a w

/-- WIR: R412, R416 to R420. -/
def State.writeWir (s : State) (req : Req) (a : Nat) (w : Word) : State :=
  let o := a % 0x10000
  if Nat.beq o 0 then s.writeWirCtrl (a / 0x10000 - 0x1900) w
  else if inRange a 0x19000800 0x19000880 then
    let k := (o - 0x800) / 0x10
    match o % 0x10 with
    | 0 => s.writeSemOwn k req w
    | 8 => s.writeSemCmd k req w
    | _ => s.writeSemReg a k req w
  else s.plainWrite a w

/-- PWR, THM and CLK: R404, R406, R491, R494, R499, R506. -/
def State.writePower (s : State) (a : Nat) (w : Word) : State :=
  if inRange a (Reg.PWR_DOM 0) (Reg.PWR_DOM 41) then s.writePwrDom ((a - Reg.PWR_DOM 0) / 4) w
  else if Nat.beq a (Reg.PWR_SHOLD 0) then s.writeShold 0 w
  else if Nat.beq a (Reg.PWR_SHOLD 1) then s.writeShold 1 w
  else if Nat.beq a (Reg.PWR_HHOLD 0) then s.writeHhold 0 w
  else if Nat.beq a (Reg.PWR_HHOLD 1) then s.writeHhold 1 w
  else if Nat.beq a Reg.PWR_WARM then s.writeWarm w
  else if Nat.beq a Reg.THM_SURGE then s.writeSurge w
  else s.plainWrite a w

/-- BOOT and FWL: R408, R478, R480, R487. -/
def State.writeBoot (s : State) (req : Req) (a : Nat) (w : Word) : State :=
  if Nat.beq a Reg.BOOT_HARTREL then s.writeHartrel w
  else if Nat.beq a Reg.BOOT_LCS then s.writeLcs w
  else if Nat.beq a Reg.BOOT_KEYREV then s.writeKeyrev w
  else if Nat.beq a Reg.BOOT_ARB_COMMIT then s.writeArb w
  else if Nat.beq a Reg.FWL_LOG_CFG then s.writeLogCfg req w
  else if inRange a (Reg.FWL_TRACE 0) (Reg.FWL_TRACE 8) then s.writeTrace req ((a - Reg.FWL_TRACE 0) / 4) w
  else if (Nat.beq a Reg.FWL_LOG_BASE_LO || Nat.beq a Reg.FWL_LOG_BASE_HI) &&
      s.flag Reg.FWL_LOG_CFG Fld.FWL_LOG_CFG_EN then s
  else s.plainWrite a w

/-- HTH and ERM: R381, R444, R451, R452. -/
def State.writeHth (s : State) (a : Nat) (w : Word) : State :=
  if Nat.beq a Reg.HTH_MODE then s.writeHeathMode w
  else if Nat.beq a Reg.ERM_POP then s.writePop w
  else if Nat.beq a Reg.ERM_SAFE then s.writeSafe w
  else if inRange a (Reg.ERM_SRC 0) (Reg.ERM_SRC 256) then s.writeSrc ((a - Reg.ERM_SRC 0) / 4) w
  else s.plainWrite a w

/-- The effect of an admitted 32-bit write at the register address `a`. -/
def State.regWrite (s : State) (req : Req) (a : Nat) (w : Word) : State :=
  let n := a / 0x10000
  if inRange a 0x10100000 0x10180000 then s.writeTen a w
  else if inRange a 0x40000000 0x40020000 then s.writeDoorbell a w
  else if Nat.beq n 0x1000 then s.writeTcx a w
  else if inRange n 0x1100 0x1108 then s.writeDmc a w
  else if Nat.beq n 0x1108 || Nat.beq n 0x1109 then s.writeCacheSluice a w
  else if Nat.beq n 0x110A then s.writeGuard a w
  else if Nat.beq n 0x1200 then s.writeTmb a w
  else if Nat.beq n 0x1201 then s.writeTtb a w
  else if inRange n 0x1300 0x130E then s.writeSensor a w
  else if Nat.beq n 0x1400 || inRange n 0x1410 0x1414 then s.writePicture a w
  else if inRange n 0x1500 0x1504 || Nat.beq n 0x1700 then s.writeWorld a w
  else if Nat.beq n 0x1800 then s.writeTsw a w
  else if inRange n 0x1810 0x181C then s.writeCan a w
  else if inRange n 0x1820 0x1822 || Nat.beq n 0x1830 then s.writeSlow a w
  else if inRange n 0x1900 0x1902 then s.writeWir req a w
  else if inRange n 0x1A00 0x1A03 then s.writePower a w
  else if inRange n 0x1B00 0x1B02 then s.writeBoot req a w
  else if inRange n 0x2000 0x2002 then s.writeHth a w
  else s.plainWrite a w

/-! ## Reads -/

/-- What a read of the register at `a` returns: its fields, or a value that the block computes or a window holds. -/
def State.regValue (s : State) (a : Nat) : Word :=
  let n := a / 0x10000
  let o := a % 0x10000
  if Nat.beq a Reg.TMB_NOW_NS then BitVec.ofNat 32 s.tb.ns
  else if Nat.beq a Reg.TMB_NOW_SHORT then BitVec.ofNat 32 s.short
  else if inRange a (Reg.TMB_CAP_CFG 0) (Reg.TMB_CAP_CFG 5) && Nat.beq (o % 0x20) 4 then s.capNs ((o - 0x100) / 0x20)
  else if Nat.beq n 0x1201 && Nat.ble 0x8000 o then
    BitVec.ofNat 32 (leNat (SMap.getMany (fun _ => 0#8) s.tt.banks[Fin.ofNat 2 (1 - s.ttActive)] (o - 0x8000) 4))
  else if Nat.beq n 0x130D && Nat.ble 0x8000 o then s.readFusWindow a
  else if Nat.beq n 0x1800 && inRange o 0x6000 0x6200 then BitVec.ofNat 32 (leNat (SMap.getMany tswDflt s.gw.tunnels o 4))
  else if Nat.beq n 0x1800 && inRange o 0x8000 0xA000 then BitVec.ofNat 32 (leNat (SMap.getMany tswDflt s.gw.lists o 4))
  else if inRange a (Reg.PWR_DOM 0) (Reg.PWR_DOM 41) then s.pwrDom ((a - Reg.PWR_DOM 0) / 4)
  else if Nat.beq a Reg.THM_WEAR_A then Fld.THM_WEAR_A_ALLOW_MS.put (s.reg a) s.allowNow
  else if Nat.beq a Reg.ERM_QSTAT then s.ermQstat
  else if inRange a (Reg.ERM_REC 0) (Reg.ERM_REC 8) then s.ermRec ((a - Reg.ERM_REC 0) / 4)
  else if inRange a (Reg.ERM_SRC 0) (Reg.ERM_SRC 256) then s.ermSrc ((a - Reg.ERM_SRC 0) / 4)
  else s.reg a

/-- What an admitted read of the register at `a` changes: the latch of TMB_NOW_NS, the capture FIFO, and the read-to-clear
fields. -/
def State.readEffect (s : State) (a : Nat) : State :=
  if Nat.beq a Reg.TMB_NOW_NS then s.latchSec
  else if inRange a (Reg.TMB_CAP_CFG 0) (Reg.TMB_CAP_CFG 5) && Nat.beq (a % 0x20) 4 then s.popCapture ((a % 0x10000 - 0x100) / 0x20)
  else s.clearRead a

/-! ## Accesses at any address -/

/-- A write of `width` bytes of `w` at address `a`: the response and the state after it.  An interrupt file takes a naturally
aligned 32-bit write at its first word and ignores others (log entry 45).  A debug module that is not connected reaches nothing
(00_scope R2, R3). -/
def State.writeAt (s : State) (req : Req) (a width : Nat) (w : Word) : Resp × State :=
  if decide (req.ini = .debugModule) && !s.debugOn then (.decode, s)
  else
  match s.place a with
  | .register =>
    match s.regCheck req .write a width with
    | (.okay, s1) => (.okay, s1.regWrite req a w)
    | r => r
  | .interruptFile =>
    if !(Nat.beq width 4 && Nat.beq (a % 4) 0) then (.decode, s)
    else (.okay, if Nat.beq (a % 4096) 0 then s.deliver (a / 4096) w.toNat req.w else s)
  | .unmapped => (.decode, s.decodeError req .write a)
  | _ => s.writeMem req false 2 a (leBytes width w.toNat)

/-- A 32-bit read at address `a`: the response, the word and the state after it; an interrupt file reads 0. -/
def State.readAt (s : State) (req : Req) (a : Nat) : Resp × Word × State :=
  if decide (req.ini = .debugModule) && !s.debugOn then (.decode, 0#32, s)
  else
  match s.place a with
  | .register =>
    match s.regCheck req .read a 4 with
    | (.okay, s1) =>
      let s2 := s1.semAwait a
      (.okay, s2.regValue a, s2.readEffect a)
    | (e, s1) => (e, 0#32, s1)
  | .interruptFile => if Nat.beq (a % 4) 0 then (.okay, 0#32, s) else (.decode, 0#32, s)
  | .unmapped => (.decode, 0#32, s.decodeError req .read a)
  | _ =>
    match s.readMem req false 2 a 4 with
    | (e, d, s1) => (e, BitVec.ofNat 32 (leNat d), s1)

/-- REGISTER_WRITE: a write of `width` bytes at `addr`. -/
def execRegisterWrite (req : Req) (addr : BitVec 48) (width : Nat) (value : Word) (s : State) :
    Outcome State Fault Refusal :=
  .next <|
    s.passBridge req addr.toNat width (some value) true fun s1 =>
      let r := s1.writeAt (s.issued req) addr.toNat width value
      r.2.answer r.1 []

/-- MSI_DELIVERY: the oldest MSI on its way is translated in its context and reaches its file (R196); elsewhere it is a
32-bit write.  It is a write of the context like any other (R206). -/
def execMsiDelivery (s : State) : Outcome State Fault Refusal :=
  .next <|
    match s.msis with
    | [] => s
    | m :: rest =>
      let s1 := { s with msis := rest }
      match s1.translate m.ini m.ctx m.addr true with
      | none => s1
      | some pa =>
        ((s1.writeAt { ini := m.ini, w := m.w, cl := 0, ctx := Fin.ofNat 32 m.ctx } pa 4 (BitVec.ofNat 32 m.data)).2).markDirty m.ctx
          (s1.guestAddr m.ini m.ctx m.addr)

end Sys2Proof.Machine
end

