-- ==== Sys2Proof/Machine/Bridges.lean ====
section
/-!
DEFINITION. Requests that come down through a Weir bridge: posted and non-posted writes, reads, the targets' answers and the
target timer (15_bridges_and_gateway R410 to R414, R417), and requests from the PCIe link (R435).
-/

namespace Sys2Proof.Machine

open Host (Outcome)

/-! ## The bridges -/

/-- A non-posted request is issued on the bridged bus, and the target's response is passed on; bridge `n` holds that of a read
which the initiator's port does not accept (R416). -/
def State.passDown (s : State) (n : Nat) (i : BridgeItem) : State :=
  match i.data with
  | some w =>
    let r := s.writeAt i.req i.addr i.width w
    r.2.answer r.1 []
  | none =>
    match s.readAt i.req i.addr with
    | (e, w, s1) =>
      if i.taken then s1.answer e (leBytes 4 w.toNat)
      else s1.setWeir n { s1.weir n with held := (s1.weir n).held ++ [s1.tb.elapsed] }

/-- BRIDGE_WRITE: a write comes down from Millrace and is posted or passed on. -/
def execBridgeWrite (bridge : Fin 2) (req : Req) (addr : BitVec 48) (value : Word) (s : State) :
    Outcome State Fault Refusal :=
  .next <|
    let a := addr.toNat
    if decide (bridgeOf req.ini a = some bridge.val) then
      s.passBridge req a 4 (some value) true fun s1 =>
        s1.passDown bridge { req := s.issued req, addr := a, width := 4, data := some value, posted := false, inside := false,
                             since := s.tb.elapsed, taken := true }
    else s

/-- BRIDGE_READ: a read is issued after every earlier posted write of its source; `read.taken` where the initiator's port accepts
the response. -/
def execBridgeRead (bridge : Fin 2) (req : Req) (read : BridgeFetch) (s : State) : Outcome State Fault Refusal :=
  .next <|
    let a := read.addr.toNat
    if decide (bridgeOf req.ini a = some bridge.val) then
      s.passBridge req a 4 none read.taken fun s1 =>
        s1.passDown bridge { req := s.issued req, addr := a, width := 4, data := none, posted := false, inside := false,
                             since := s.tb.elapsed, taken := read.taken }
    else s

/-- The oldest posted write that waits at the port of bridge `n` enters the buffer, where it has room. -/
def State.admitPosted (s : State) (n : Nat) : State :=
  let q := (s.weir n).queue
  match q.findIdx? fun i => i.posted && !i.inside with
  | none => s
  | some k =>
    if Nat.blt (s.buffered n) 32 then
      (s.setBridgeQueue n (q.modify k fun i => { i with inside := true })).answer .okay []
    else s

/-- The first request of `q` that no earlier request of its source holds back, where it is not posted. -/
def firstFree (seen : List Initiator) : List BridgeItem → Option BridgeItem
  | [] => none
  | i :: is => if !i.posted && !(seen.contains i.req.ini) then some i else firstFree (i.req.ini :: seen) is

/-- The held reads and non-posted writes that no earlier request of their source holds back are issued in turn. -/
def State.issueFree (s : State) (n : Nat) : Nat → State
  | 0 => s
  | fuel + 1 =>
    let q := (s.weir n).queue
    match firstFree [] q with
    | none => s
    | some i => ((s.setBridgeQueue n (q.erase i)).passDown n i).issueFree n fuel

/-- After a buffered write has left bridge `n`. -/
def State.bridgeAdvance (s : State) (n : Nat) : State :=
  let s1 := s.admitPosted n
  s1.issueFree n (s1.weir n).queue.length

/-- POSTED_WRITE_RESPONSE: the oldest buffered write is done, or dropped because its target, or the way to it, failed. -/
def execPostedWriteResponse (bridge : Fin 2) (resp : Resp) (s : State) : Outcome State Fault Refusal :=
  .next <|
    let q := (s.weir bridge).queue
    match q.find? (·.inside) with
    | none => s
    | some i =>
      let s1 := s.setBridgeQueue bridge (q.erase i)
      let r := if decide (resp = .okay) then s1.writeAt i.req i.addr i.width (i.data.getD 0#32) else (resp, s1)
      let s2 := if decide (r.1 = .okay) then r.2 else r.2.postedFailed bridge i.req
      s2.bridgeAdvance bridge

/-- TGT_TO is set, and a TIMEOUT record names the target's address (R417). -/
def State.targetLost (s : State) (n a : Nat) : State :=
  (s.raise (Reg.WIR_STATUS n) Fld.WIR_STATUS_TGT_TO).report
    { unit := .weir (Fin.ofNat 2 n), sub := 0, sev := sevTimeout, code := 0, path := pathNone, info := a }

/-- TARGET_TIMEOUT: a request on the bridged bus gets no answer within TGT_TMO_US; a buffered write is handled as a failed one, any other
request ends with DECODE. -/
def execTargetTimeout (bridge : Fin 2) (req : Req) (addr : BitVec 48) (posted : Bool) (s : State) :
    Outcome State Fault Refusal :=
  .next <|
    let a := addr.toNat
    let q := (s.weir bridge).queue
    if !(belowBridge bridge a) then s
    else if posted then
      match q.find? fun i => i.inside && decide (i.req = s.issued req) && Nat.beq i.addr a with
      | none => s
      | some i =>
        if !(s.passedUs i.since (s.fld (Reg.WIR_CTRL bridge) Fld.WIR_CTRL_TGT_TMO_US)) then s
        else (((s.setBridgeQueue bridge (q.erase i)).targetLost bridge a).postedFailed bridge i.req).bridgeAdvance bridge
    else (s.targetLost bridge a).answer .decode []

/-! ## Requests from the PCIe link (R435) -/

/-- The address is a register or an interrupt file: it takes 32-bit accesses only. -/
def State.isControl (s : State) (a : Nat) : Bool := match s.place a with | .register | .interruptFile => true | _ => false

/-- An inbound write: at a register or an interrupt file where it is translated to one, else in memory. -/
def State.pceWrite (s : State) (req : Req) (iova : Nat) (data : List Byte) : Resp × State :=
  match s.translate req.ini req.ctx iova true with
  | some pa =>
    if s.isControl pa then s.writeAt req pa data.length (BitVec.ofNat 32 (leNat (data.take 4))) else s.put req iova data
  | none => s.put req iova data

/-- An inbound read. -/
def State.pceRead (s : State) (req : Req) (iova len : Nat) : Resp × List Byte × State :=
  match s.translate req.ini req.ctx iova false with
  | some pa =>
    if s.isControl pa && Nat.beq len 4 then
      match s.readAt req pa with
      | (e, w, s1) => (e, leBytes 4 w.toNat, s1)
    else s.fetch req iova len
  | none => s.fetch req iova len

/-- PCIE_INBOUND_REQUEST: the request is translated and carried out; a write to an interrupt file is an MSI.  RESP of the
answer gives the completion: DECODE is Unsupported Request, GUARD, UE and LINK are Completer Abort; a failed posted write is
dropped. -/
def execPcieInboundRequest (pce : Fin 2) (write : Bool) (ctx : Fin 32) (iova : BitVec 48) (data : List Byte) (len : Nat)
    (s : State) : Outcome State Fault Refusal :=
  .next <|
    if !(s.flag (Reg.PCE_CFG pce) Fld.PCE_CFG_EN) then s
    else
      let req := s.unitReq (.pcie pce) (s.fld (Reg.PCE_CFG pce) Fld.PCE_CFG_CLASS) ctx
      if write then
        match s.pceWrite req iova.toNat data with
        | (.okay, s1) => s1.answer .okay []
        | (e, s1) => (s1.pceFailed pce e).answer e []
      else
        match s.pceRead req iova.toNat len with
        | (.okay, d, s1) => s1.answer .okay d
        | (e, _, s1) => (s1.pceFailed pce e).answer e []

end Sys2Proof.Machine
end

