-- ==== Sys2Proof/Machine/SelfTest.lean ====
section
/-!
DEFINITION. Test windows, engine self-test, the diagnostic test interval and golden windows (16_safety_and_errors R453 to R462).
-/

namespace Sys2Proof.Machine

open Host (Outcome)

/-! ## Test windows (R453, R455) -/

/-- Window w is open. -/
def State.isOpen (s : State) (w : Nat) : Bool := (s.window w).isSome

/-- Window w closes. -/
def State.shutWindow (s : State) (w : Nat) : State := (s.setWindow w none).lower (Reg.TCX_TW w) Fld.TCX_TW_OPEN

/-- An open event of window w: ignored with LEN_US = 0, and while the window is open. -/
def State.openWindow (s : State) (w scope : Nat) : State :=
  let len := s.fld (Reg.TCX_TW w) Fld.TCX_TW_LEN_US
  if Nat.beq len 0 || s.isOpen w then s
  else (s.setWindow w (some { scope, endAt := s.tb.elapsed + len * usE, deferred := [] })).raise (Reg.TCX_TW w) Fld.TCX_TW_OPEN

/-- The engines of a scope that run a segment. -/
def State.testingIn (s : State) (scope : Nat) : List Nat :=
  (List.range 64).filter fun te => bitAt scope (te / 4) && (s.test te).running

/-- A close event of window w: before the window's end it sets EARLY, and each running segment of its scope sends a record with
CODE 0x04. -/
def State.closeWindow (s : State) (w : Nat) : State :=
  match s.window w with
  | none => s
  | some x =>
    let s1 := s.shutWindow w
    if Nat.ble x.endAt s.tb.elapsed then s1
    else
      (s.testingIn x.scope).foldl (fun s te =>
        s.report { unit := .te (Fin.ofNat 64 te), sub := 0, sev := sevCE, code := 0x04,
                   path := pathOf (.te (Fin.ofNat 64 te)), info := 0 })
        (s1.raise (Reg.TCX_TW w) Fld.TCX_TW_EARLY)

/-- Golden record g at an open event of its window: its job is admitted and placed at once, or deferred (R460, R461). -/
def State.goldenWindow (s : State) (g : Nat) : State :=
  match s.goldenRuns g with
  | none => s.goldenDefer g
  | some (n, r, h) =>
    match s.admission n h.bytes with
    | (.bad st d, s1) => (s1.goldenFail g).finish n r h { status := st, detail := d }
    | (.ok m, s1) =>
      match s1.part m.part with
      | none => s1.goldenDefer g
      | some p =>
        let j := h.newJob s1.jobNext n r m s1.now s1.now
        let s2 := { s1 with jobs := s1.jobs ++ [j], jobNext := s1.jobNext + 1 }
        let s3 := s2.setHeld n r (((s2.ctx n).heldOf r).filter fun x => !(Nat.beq x.jobNo h.jobNo))
        ((s3.placeJob j p 0 false).count (Reg.TCX_GOLD_STAT g) Fld.TCX_GOLD_STAT_RUNS 1).setFld (Reg.TCX_GOLD_STAT g)
          Fld.TCX_GOLD_STAT_DEFER 0

/-- Golden records of window w at its open event. -/
def State.goldenOpen (s : State) (w : Nat) : State :=
  (List.range 4).foldl (fun s g =>
    let a := Reg.TCX_GOLD_CFG g
    if s.flag a Fld.TCX_GOLD_CFG_EN && Nat.beq (s.fld a Fld.TCX_GOLD_CFG_WIN) w then s.goldenWindow g else s) s

/-- TEST_WINDOW_EVENT: the oldest TEST_WINDOW event on the time bus (R261) opens or closes its window. -/
def execTestWindowEvent (s : State) : Outcome State Fault Refusal :=
  .next <|
    match s.takeEvent 4 with
    | none => s
    | some (e, s1) =>
      let w := bitsOf e.arg0 3 0
      if bitAt e.arg0 8 then
        let s2 := s1.openWindow w (e.arg1 % 65536)
        (if s2.millerRuns then s2.goldenOpen w else s2).settle
      else s1.closeWindow w

/-- TEST_WINDOW_EXPIRY: the window's end comes. -/
def execTestWindowExpiry (win : Fin 16) (s : State) : Outcome State Fault Refusal :=
  .next <|
    match s.window win with
    | some x => if Nat.ble x.endAt s.tb.elapsed then s.shutWindow win else s
    | none => s

/-! ## Segments (R454, R455, R458) -/

/-- The longest time of a segment, in µs. -/
def segmentUs (k : Nat) : Nat := if Nat.blt k 64 then 50 else 5

/-- The open windows that name unit pu and have not deferred it. -/
def State.windowsOf (s : State) (pu : Nat) : List (Nat × TestWindow) :=
  (List.range 16).filterMap fun w =>
    match s.window w with
    | some x => if bitAt x.scope pu && !(x.deferred.contains pu) then some (w, x) else none
    | none => none

/-- The engine is idle, or under test with no segment running. -/
def State.testable (s : State) (te : Nat) : Bool :=
  s.engineIdle te || (Nat.beq (s.tenState te) 4 && !(s.test te).running)

/-- A ready job could be placed now on a lane that holds unit pu. -/
def State.wanted (s : State) (pu : Nat) : Bool :=
  s.readyHeads.any fun j =>
    match s.part j.part with
    | some p => s.mayPlace j.ctx && (s.freeLanes p).any fun l => (p.lane l).contains pu
    | none => false

/-- The conditions of R455 for unit pu, which is on, with the cluster core running. -/
def State.mayTest (s : State) (pu : Nat) : Bool :=
  s.domainOn (17 + pu) && s.procRuns (1 + pu / 2) && (enginesOf [pu]).all s.testable && !(s.wanted pu) &&
    (s.windowsOf pu).any fun x =>
      (enginesOf [pu]).all fun te => Nat.ble (s.tb.elapsed + segmentUs (s.test te).next * usE) x.2.endAt

/-- TEST_SEGMENT_START: every engine of the unit starts its next segment, or the segment is deferred to the unit's next
window. -/
def execTestSegmentStart (pu : Fin 16) (s : State) : Outcome State Fault Refusal :=
  .next <|
    if s.mayTest pu then
      (enginesOf [pu.val]).foldl (fun s te =>
        (s.setFld (Reg.TEN_STATUS te) Fld.TEN_STATUS_STATE 4).setTest te { s.test te with running := true }) s
    else
      (s.windowsOf pu).foldl (fun s x => s.setWindow x.1 (some { x.2 with deferred := x.2.deferred ++ [pu.val] })) s

/-- A segment of engine te passes: the next one is due, and after the last the cycle is complete and begins again. -/
def State.segmentPassed (s : State) (te : Nat) : State :=
  let t := s.test te
  let s1 := if Nat.ble 95 t.next then
      s.setTest te { next := 0, from_ := s.tb.elapsed, running := false, fault := false }
    else s.setTest te { t with next := t.next + 1, running := false }
  s1.setFld (Reg.TEN_STATUS te) Fld.TEN_STATUS_STATE (if (s1.test te).fault then 4 else 0)

/-- A segment fails: the engine goes offline (R117, R458). -/
def State.segmentFailed (s : State) (te : Nat) : State :=
  ((s.setTest te { next := 0, from_ := s.tb.elapsed, running := false, fault := false }).setFld (Reg.TEN_STATUS te)
    Fld.TEN_STATUS_STATE 5).report
      { unit := .te (Fin.ofNat 64 te), sub := 0, sev := sevUE, code := 0,
        path := pathOf (.te (Fin.ofNat 64 te)), info := 0 }

/-- TEST_SEGMENT_END: a logic segment ends with an engine reset. -/
def execTestSegmentEnd (te : Fin 64) (pass : Bool) (s : State) : Outcome State Fault Refusal :=
  .next <|
    if (s.test te).running then
      let s1 := if Nat.blt (s.test te).next 64 then s.engineReset te else s
      (if pass then s1.segmentPassed te else s1.segmentFailed te).settle
    else s

/-! ## The diagnostic test interval (R457) -/

/-- DTI_EXPIRY: the interval has passed without completion of the engine's cycle; the cluster core sends the record. -/
def execDtiExpiry (te : Fin 64) (s : State) : Outcome State Fault Refusal :=
  .next <|
    let ms := s.fld Reg.TCX_DTI Fld.TCX_DTI_DTI_MS
    let t := s.test te
    if !(Nat.beq ms 0) && !(Nat.beq (s.tenState te) 5) && s.procRuns (1 + te.val / 8) && s.passedUs t.from_ (ms * 1000) then
      (s.setTest te { t with from_ := t.from_ + ms * 1000 * usE }).report
        { unit := .te te, sub := 0, sev := sevTimeout, code := 0x01, path := pathOf (.te te), info := 0 }
    else s

/-- GOLDEN_STAT_READ -/
def execGoldenStatRead (golden : Fin 4) (req : Req) (s : State) : Outcome State Fault Refusal :=
  .next (s.readClear req (Reg.TCX_GOLD_STAT golden))

end Sys2Proof.Machine
end

