-- ==== Sys2Proof/Machine/Watchdogs.lean ====
section
/-!
DEFINITION. The window watchdogs of the firmware processors (17_boot_and_firmware R481 to R483).
-/

namespace Sys2Proof.Machine

open Host (Outcome)

/-- The unit that sends the records of processor p. -/
def procUnit (p : Nat) : UnitId :=
  if Nat.beq p 0 then .miller
  else if Nat.blt p 9 then .cluster (Fin.ofNat 8 (p - 1))
  else if Nat.beq p 9 then .rasterControl
  else if Nat.beq p 10 then .isp
  else .heath

/-- The cluster core of cluster c is reset: jobs that run on its engines end with FAULT_WATCHDOG, and every engine is reset; a
test segment in progress is run again from its start. -/
def State.clusterWatchdog (s : State) (c : Nat) : State :=
  (List.range 8).foldl (fun s k =>
    let te := 8 * c + k
    let s1 := match (s.eng te).job with
      | some no => s.faultJob no stWatchdog te 0
      | none => s
    s1.resetKept te) s

/-- Frames in the ISP pipes close with TRUNC. -/
def State.ispWatchdog (s : State) : State :=
  (List.range 16).foldl (fun s n =>
    match (s.stream n).desc with
    | some d =>
      if Nat.beq d.kind 1 then
        let s1 := s.closeFrame n true
        let s2 := (s1.stream n).closing.foldl (fun s f => s.writeRecord n { f with trunc := true }) s1
        s2.setStream n { s2.stream n with closing := [] }
      else s
    | none => s) s

/-- What an expiry does to processor p's work. -/
def State.procReset (s : State) (p : Nat) : State :=
  if Nat.beq p 0 then s.millerReset
  else if Nat.blt p 9 then s.clusterWatchdog (p - 1)
  else if Nat.beq p 9 then s.gfxEnd (some (stWatchdog, 0))
  else if Nat.beq p 10 then s.ispWatchdog
  else s.heathFatal

/-- A processor is held: HELD, a UE_CONTAINED record and the FW_HELD log; Miller's state reads OFF (R482). -/
def State.hold (s : State) (p : Nat) : State :=
  let s1 := ((s.raise (Reg.FWL_WDT p) Fld.FWL_WDT_HELD).report (plainRecord (procUnit p) sevUE)).log
    (logRecord 0x11 2 0xFF 0x0011 0 0 [p])
  let s2 := s1.setWdt p { s1.wdt p with kickAt := none }
  if Nat.beq p 0 then s2.millerTo 0 else s2

/-- The watchdog of processor p expires, `early` by an early kick: the log record, the count, the TIMEOUT record (Heath's is the
UE_FATAL record of its fatal path), the consequences, and the third expiry within 1 s. -/
def State.expire (s : State) (p : Nat) (early : Bool) : State :=
  let s1 := (s.log (logRecord 0x11 2 0xFF 0x0010 0 0 [p, early.toNat])).count (Reg.FWL_WDT p) Fld.FWL_WDT_EXPIRIES 1
  let s2 := if Nat.beq p 11 then s1 else s1.report (plainRecord (procUnit p) sevTimeout)
  let recent := s.tb.elapsed :: (s2.wdt p).expiries.filter fun t => !(s.passedUs t 1000000)
  let s3 := (s2.setWdt p { s2.wdt p with kickAt := some s.tb.elapsed, expiries := recent }).procReset p
  (if Nat.ble 3 recent.length && !(Nat.beq p 11) then s3.hold p else s3).settle

/-- FW_WATCHDOG_KICK: a kick within the window restarts the count; an early one is an expiry. -/
def execFwWatchdogKick (proc : Fin 12) (s : State) : Outcome State Fault Refusal :=
  .next <|
    let x := s.wdt proc
    match x.kickAt with
    | none => s
    | some t => if s.passedUs t x.openUs then s.setWdt proc { x with kickAt := some s.tb.elapsed } else s.expire proc true

/-- FW_WATCHDOG_EXPIRY: no kick has come within WD_MAX_US. -/
def execFwWatchdogExpiry (proc : Fin 12) (s : State) : Outcome State Fault Refusal :=
  .next <|
    let x := s.wdt proc
    match x.kickAt with
    | none => s
    | some t => if s.passedUs t x.maxUs then s.expire proc false else s

end Sys2Proof.Machine
end

