-- ==== Sys2Proof/Machine/Dispatch.lean ====
section
/-!
DEFINITION. The dispatch: one arm per command, in the order of the table, each one call of the command's meaning.
-/

namespace Sys2Proof.Machine

/-- The effect of a command on everything but the queue of commands that wait. -/
def exec (i : Instr) (s : State) : Host.Outcome State Fault Refusal :=
  match i with
  | .porN => Sys2Proof.Machine.execPorN s
  | .warmRstN => Sys2Proof.Machine.execWarmRstN s
  | .pwrWarmGo req value => Sys2Proof.Machine.execPwrWarmGo req value s
  | .bootFlashReadDone => Sys2Proof.Machine.execBootFlashReadDone s
  | .bootFlashTimeout => Sys2Proof.Machine.execBootFlashTimeout s
  | .ddrTrainingDone ok controllers rate dens x8 ranks => Sys2Proof.Machine.execDdrTrainingDone ok controllers rate dens x8 ranks s
  | .hartRelease req value => Sys2Proof.Machine.execHartRelease req value s
  | .lifecycleAdvance req value => Sys2Proof.Machine.execLifecycleAdvance req value s
  | .keyRevoke req value => Sys2Proof.Machine.execKeyRevoke req value s
  | .arbCommit req value => Sys2Proof.Machine.execArbCommit req value s
  | .arbCommitDone => Sys2Proof.Machine.execArbCommitDone s
  | .boundaryScanInstruction code => Sys2Proof.Machine.execBoundaryScanInstruction code s
  | .registerWrite req addr width value => Sys2Proof.Machine.execRegisterWrite req addr width value s
  | .decodeErrorAccess req type addr => Sys2Proof.Machine.execDecodeErrorAccess req type addr s
  | .tileNop te h => Sys2Proof.Machine.execTileNop te h s
  | .engineCommandFetch te upsets => Sys2Proof.Machine.execEngineCommandFetch te upsets s
  | .ldw te h a => Sys2Proof.Machine.execLdw te h a s
  | .lda te h a => Sys2Proof.Machine.execLda te h a s
  | .mma te h a upsets => Sys2Proof.Machine.execMma te h a upsets s
  | .mmas te h a upsets => Sys2Proof.Machine.execMmas te h a upsets s
  | .vopAdd te h a => Sys2Proof.Machine.execVopAdd te h a s
  | .vopSub te h a => Sys2Proof.Machine.execVopSub te h a s
  | .vopMul te h a => Sys2Proof.Machine.execVopMul te h a s
  | .vopFma te h a => Sys2Proof.Machine.execVopFma te h a s
  | .vopMax te h a => Sys2Proof.Machine.execVopMax te h a s
  | .vopMin te h a => Sys2Proof.Machine.execVopMin te h a s
  | .vopAbs te h a => Sys2Proof.Machine.execVopAbs te h a s
  | .vopNeg te h a => Sys2Proof.Machine.execVopNeg te h a s
  | .vopDiv te h a => Sys2Proof.Machine.execVopDiv te h a s
  | .vopSqrt te h a => Sys2Proof.Machine.execVopSqrt te h a s
  | .vopExp2 te h a => Sys2Proof.Machine.execVopExp2 te h a s
  | .vopLog2 te h a => Sys2Proof.Machine.execVopLog2 te h a s
  | .vopRcp te h a => Sys2Proof.Machine.execVopRcp te h a s
  | .vopRsqrt te h a => Sys2Proof.Machine.execVopRsqrt te h a s
  | .vopTanh te h a => Sys2Proof.Machine.execVopTanh te h a s
  | .vopCvt te h a => Sys2Proof.Machine.execVopCvt te h a s
  | .vopCmplt te h a => Sys2Proof.Machine.execVopCmplt te h a s
  | .vopSel te h a => Sys2Proof.Machine.execVopSel te h a s
  | .vopAnd te h a => Sys2Proof.Machine.execVopAnd te h a s
  | .vopOr te h a => Sys2Proof.Machine.execVopOr te h a s
  | .vopXor te h a => Sys2Proof.Machine.execVopXor te h a s
  | .vopShl te h a => Sys2Proof.Machine.execVopShl te h a s
  | .vopShr te h a => Sys2Proof.Machine.execVopShr te h a s
  | .vopTrn te h a => Sys2Proof.Machine.execVopTrn te h a s
  | .vopCpy te h a => Sys2Proof.Machine.execVopCpy te h a s
  | .vopLds te h a => Sys2Proof.Machine.execVopLds te h a s
  | .vredSum te h a => Sys2Proof.Machine.execVredSum te h a s
  | .vredSumsq te h a => Sys2Proof.Machine.execVredSumsq te h a s
  | .vredMax te h a => Sys2Proof.Machine.execVredMax te h a s
  | .vredMin te h a => Sys2Proof.Machine.execVredMin te h a s
  | .vredAmax te h a => Sys2Proof.Machine.execVredAmax te h a s
  | .vredArgmax te h a => Sys2Proof.Machine.execVredArgmax te h a s
  | .qnt te h a => Sys2Proof.Machine.execQnt te h a s
  | .dqn te h a => Sys2Proof.Machine.execDqn te h a s
  | .sto te h a => Sys2Proof.Machine.execSto te h a s
  | .engineDma te h a => Sys2Proof.Machine.execEngineDma te h a s
  | .waitSem te h a => Sys2Proof.Machine.execWaitSem te h a s
  | .sigSem te h a => Sys2Proof.Machine.execSigSem te h a s
  | .fence te h a => Sys2Proof.Machine.execFence te h a s
  | .chkCrc te h a => Sys2Proof.Machine.execChkCrc te h a s
  | .chkSelftest te h => Sys2Proof.Machine.execChkSelftest te h s
  | .kvlRead te h a => Sys2Proof.Machine.execKvlRead te h a s
  | .kvlAppend te h a => Sys2Proof.Machine.execKvlAppend te h a s
  | .tenEnable te req value => Sys2Proof.Machine.execTenEnable te req value s
  | .tenHalt te req value => Sys2Proof.Machine.execTenHalt te req value s
  | .tenReset te req value => Sys2Proof.Machine.execTenReset te req value s
  | .tenCqTailWrite te req value => Sys2Proof.Machine.execTenCqTailWrite te req value s
  | .tenWdtWrite te req value => Sys2Proof.Machine.execTenWdtWrite te req value s
  | .tenChkSkipRead te req => Sys2Proof.Machine.execTenChkSkipRead te req s
  | .engineWatchdogExpiry te => Sys2Proof.Machine.execEngineWatchdogExpiry te s
  | .engineCompletion te => Sys2Proof.Machine.execEngineCompletion te s
  | .dbSqTailWrite ctx ring req value => Sys2Proof.Machine.execDbSqTailWrite ctx ring req value s
  | .dbCqHeadWrite ctx req value => Sys2Proof.Machine.execDbCqHeadWrite ctx req value s
  | .dbErrRead ctx req => Sys2Proof.Machine.execDbErrRead ctx req s
  | .nop ctx ring => Sys2Proof.Machine.execNop ctx ring s
  | .job ctx ring => Sys2Proof.Machine.execJob ctx ring s
  | .jobReleaseTime ctx ring => Sys2Proof.Machine.execJobReleaseTime ctx ring s
  | .jobReleaseEvent => Sys2Proof.Machine.execJobReleaseEvent s
  | .jobPlacement => Sys2Proof.Machine.execJobPlacement s
  | .engineStart te => Sys2Proof.Machine.execEngineStart te s
  | .modelLoad ctx ring => Sys2Proof.Machine.execModelLoad ctx ring s
  | .modelUnload ctx ring => Sys2Proof.Machine.execModelUnload ctx ring s
  | .kvMap ctx ring => Sys2Proof.Machine.execKvMap ctx ring s
  | .kvFork ctx ring => Sys2Proof.Machine.execKvFork ctx ring s
  | .kvUnmap ctx ring => Sys2Proof.Machine.execKvUnmap ctx ring s
  | .kvCopyDone ctx => Sys2Proof.Machine.execKvCopyDone ctx s
  | .kvFenceComplete ctx => Sys2Proof.Machine.execKvFenceComplete ctx s
  | .ctxCreate ctx ring => Sys2Proof.Machine.execCtxCreate ctx ring s
  | .ctxReset ctx ring => Sys2Proof.Machine.execCtxReset ctx ring s
  | .ctxDestroy ctx ring => Sys2Proof.Machine.execCtxDestroy ctx ring s
  | .ringFlush ctx ring => Sys2Proof.Machine.execRingFlush ctx ring s
  | .dirtyHarvest ctx ring => Sys2Proof.Machine.execDirtyHarvest ctx ring s
  | .partSet ctx ring => Sys2Proof.Machine.execPartSet ctx ring s
  | .ctxBind ctx ring => Sys2Proof.Machine.execCtxBind ctx ring s
  | .ctxUnbind ctx ring => Sys2Proof.Machine.execCtxUnbind ctx ring s
  | .makeResident ctx => Sys2Proof.Machine.execMakeResident ctx s
  | .weightCopyDone ctx => Sys2Proof.Machine.execWeightCopyDone ctx s
  | .graceExpiry ctx => Sys2Proof.Machine.execGraceExpiry ctx s
  | .shareZeroingDone ctx => Sys2Proof.Machine.execShareZeroingDone ctx s
  | .tcxGo req value => Sys2Proof.Machine.execTcxGo req value s
  | .millerWaitHost => Sys2Proof.Machine.execMillerWaitHost s
  | .millerRestartDone => Sys2Proof.Machine.execMillerRestartDone s
  | .timebaseTick => Sys2Proof.Machine.execTimebaseTick s
  | .ppsOutEnd => Sys2Proof.Machine.execPpsOutEnd s
  | .tmbIncrCommit req value => Sys2Proof.Machine.execTmbIncrCommit req value s
  | .tmbNowNsRead req => Sys2Proof.Machine.execTmbNowNsRead req s
  | .tmbAdjRelative req value => Sys2Proof.Machine.execTmbAdjRelative req value s
  | .tmbAdjAbsolute req value => Sys2Proof.Machine.execTmbAdjAbsolute req value s
  | .tmbSourceChange req value => Sys2Proof.Machine.execTmbSourceChange req value s
  | .servoEnable req value => Sys2Proof.Machine.execServoEnable req value s
  | .syncReceived port dom msg => Sys2Proof.Machine.execSyncReceived port dom msg s
  | .holdoverTimeout => Sys2Proof.Machine.execHoldoverTimeout s
  | .announceReceived port dom msg => Sys2Proof.Machine.execAnnounceReceived port dom msg s
  | .pdelayReceived port msg rx => Sys2Proof.Machine.execPdelayReceived port msg rx s
  | .ptpSyncTransmit port dom => Sys2Proof.Machine.execPtpSyncTransmit port dom s
  | .pdelayReqTransmit port => Sys2Proof.Machine.execPdelayReqTransmit port s
  | .captureEdge pin => Sys2Proof.Machine.execCaptureEdge pin s
  | .captureStuck pin => Sys2Proof.Machine.execCaptureStuck pin s
  | .tmbCapNsRead pin req => Sys2Proof.Machine.execTmbCapNsRead pin req s
  | .tmbCapOvrRead pin req => Sys2Proof.Machine.execTmbCapOvrRead pin req s
  | .timetableFiring entry => Sys2Proof.Machine.execTimetableFiring entry s
  | .triggerPulseEnd pin => Sys2Proof.Machine.execTriggerPulseEnd pin s
  | .timetableSwapRequest req value => Sys2Proof.Machine.execTimetableSwapRequest req value s
  | .timetableSwapCheckDone => Sys2Proof.Machine.execTimetableSwapCheckDone s
  | .timetableBankSwap => Sys2Proof.Machine.execTimetableBankSwap s
  | .timetableEnable req value => Sys2Proof.Machine.execTimetableEnable req value s
  | .ttbSkipRead req => Sys2Proof.Machine.execTtbSkipRead req s
  | .heathCycleEvent => Sys2Proof.Machine.execHeathCycleEvent s
  | .streamEnable str req value => Sys2Proof.Machine.execStreamEnable str req value s
  | .streamDisable str req value => Sys2Proof.Machine.execStreamDisable str req value s
  | .streamBufTailWrite str req value => Sys2Proof.Machine.execStreamBufTailWrite str req value s
  | .csiFrameStart rx vc frameNo => Sys2Proof.Machine.execCsiFrameStart rx vc frameNo s
  | .csiLongPacket rx vc dt payload cond => Sys2Proof.Machine.execCsiLongPacket rx vc dt payload cond s
  | .csiFrameEnd rx vc => Sys2Proof.Machine.execCsiFrameEnd rx vc s
  | .ispOutputDone str width lines => Sys2Proof.Machine.execIspOutputDone str width lines s
  | .csiErrRead rx req => Sys2Proof.Machine.execCsiErrRead rx req s
  | .sspFrameStart port word => Sys2Proof.Machine.execSspFrameStart port word s
  | .sspWord port word => Sys2Proof.Machine.execSspWord port word s
  | .sspFifoDrain port => Sys2Proof.Machine.execSspFifoDrain port s
  | .sspFrameEnd port => Sys2Proof.Machine.execSspFrameEnd port s
  | .sspClockLost port => Sys2Proof.Machine.execSspClockLost port s
  | .sspOvrRead port req => Sys2Proof.Machine.execSspOvrRead port req s
  | .fgdStatRead str req => Sys2Proof.Machine.execFgdStatRead str req s
  | .fusionInstantEvent => Sys2Proof.Machine.execFusionInstantEvent s
  | .fusionCloseTimeout inst => Sys2Proof.Machine.execFusionCloseTimeout inst s
  | .fusionSwapRequest req value => Sys2Proof.Machine.execFusionSwapRequest req value s
  | .fusionRephase req value => Sys2Proof.Machine.execFusionRephase req value s
  | .fusBufTailWrite inst req value => Sys2Proof.Machine.execFusBufTailWrite inst req value s
  | .ddrRead req addr upset => Sys2Proof.Machine.execDdrRead req addr upset s
  | .ddrFullWrite req addr data => Sys2Proof.Machine.execDdrFullWrite req addr data s
  | .ddrPartialWrite req addr data posted upset => Sys2Proof.Machine.execDdrPartialWrite req addr data posted upset s
  | .scrubRead sub upset => Sys2Proof.Machine.execScrubRead sub upset s
  | .ddrRefresh sub => Sys2Proof.Machine.execDdrRefresh sub s
  | .rangePassStart dmc req value => Sys2Proof.Machine.execRangePassStart dmc req value s
  | .rangePassRead dmc upset => Sys2Proof.Machine.execRangePassRead dmc upset s
  | .rangePassAbort dmc req value => Sys2Proof.Machine.execRangePassAbort dmc req value s
  | .markClear dmc req value => Sys2Proof.Machine.execMarkClear dmc req value s
  | .dmcEccCntRead dmc req => Sys2Proof.Machine.execDmcEccCntRead dmc req s
  | .sramRead req addr upset => Sys2Proof.Machine.execSramRead req addr upset s
  | .sramNarrowWrite req addr data upset => Sys2Proof.Machine.execSramNarrowWrite req addr data upset s
  | .slcAccess req addr write err => Sys2Proof.Machine.execSlcAccess req addr write err s
  | .slcFlush req value => Sys2Proof.Machine.execSlcFlush req value s
  | .slcFlushDone way => Sys2Proof.Machine.execSlcFlushDone way s
  | .depthHoldWrite req value => Sys2Proof.Machine.execDepthHoldWrite req value s
  | .depthHoldChange => Sys2Proof.Machine.execDepthHoldChange s
  | .guardedAccess req type addr len => Sys2Proof.Machine.execGuardedAccess req type addr len s
  | .guardFence target req value => Sys2Proof.Machine.execGuardFence target req value s
  | .guardFenceCommit target => Sys2Proof.Machine.execGuardFenceCommit target s
  | .flitParityError router dir again => Sys2Proof.Machine.execFlitParityError router dir again s
  | .mrcReplaysRead req => Sys2Proof.Machine.execMrcReplaysRead req s
  | .wheelSlot sub waiting maintenance => Sys2Proof.Machine.execWheelSlot sub waiting maintenance s
  | .wheelSwapRequest req value => Sys2Proof.Machine.execWheelSwapRequest req value s
  | .wheelBankSwap => Sys2Proof.Machine.execWheelBankSwap s
  | .gqEnable q req value => Sys2Proof.Machine.execGqEnable q req value s
  | .gqDisable q req value => Sys2Proof.Machine.execGqDisable q req value s
  | .gqDoorbell q req value => Sys2Proof.Machine.execGqDoorbell q req value s
  | .graphicsNop q => Sys2Proof.Machine.execGraphicsNop q s
  | .renderPass q batches writes => Sys2Proof.Machine.execRenderPass q batches writes s
  | .dispatch q writes => Sys2Proof.Machine.execDispatch q writes s
  | .graphicsEntryEnd fault => Sys2Proof.Machine.execGraphicsEntryEnd fault s
  | .graphicsWatchdog => Sys2Proof.Machine.execGraphicsWatchdog s
  | .headEnable head req value => Sys2Proof.Machine.execHeadEnable head req value s
  | .headDisable head req value => Sys2Proof.Machine.execHeadDisable head req value s
  | .linkTrainingDone head ok => Sys2Proof.Machine.execLinkTrainingDone head ok s
  | .hpdChange head level => Sys2Proof.Machine.execHpdChange head level s
  | .flipDoorbell head req value => Sys2Proof.Machine.execFlipDoorbell head req value s
  | .vsyncLead head => Sys2Proof.Machine.execVsyncLead head s
  | .vsync head => Sys2Proof.Machine.execVsync head s
  | .displayUnderrun late => Sys2Proof.Machine.execDisplayUnderrun late s
  | .layerReadError head => Sys2Proof.Machine.execLayerReadError head s
  | .dspLateRead head req => Sys2Proof.Machine.execDspLateRead head req s
  | .lksyncLock hart rd => Sys2Proof.Machine.execLksyncLock hart rd s
  | .lockEntryDone pair => Sys2Proof.Machine.execLockEntryDone pair s
  | .lksyncSplit hart rd => Sys2Proof.Machine.execLksyncSplit hart rd s
  | .lksyncTimeout core => Sys2Proof.Machine.execLksyncTimeout core s
  | .lockstepMismatch pair kind => Sys2Proof.Machine.execLockstepMismatch pair kind s
  | .pairReset pair req value => Sys2Proof.Machine.execPairReset pair req value s
  | .heathSplit core rd => Sys2Proof.Machine.execHeathSplit core rd s
  | .heathTriple core rd => Sys2Proof.Machine.execHeathTriple core rd s
  | .heathTripleDone => Sys2Proof.Machine.execHeathTripleDone s
  | .heathOddCore core => Sys2Proof.Machine.execHeathOddCore core s
  | .heathResyncDone => Sys2Proof.Machine.execHeathResyncDone s
  | .heathFatalPath => Sys2Proof.Machine.execHeathFatalPath s
  | .hthResyncRead req => Sys2Proof.Machine.execHthResyncRead req s
  | .hartAccessFault hart type resp va gpa => Sys2Proof.Machine.execHartAccessFault hart type resp va gpa s
  | .impreciseBusError hart resp store pa => Sys2Proof.Machine.execImpreciseBusError hart resp store pa s
  | .classCsrWrite hart csr value => Sys2Proof.Machine.execClassCsrWrite hart csr value s
  | .wmark hart => Sys2Proof.Machine.execWmark hart s
  | .wgateEntry hart rs1 reserved => Sys2Proof.Machine.execWgateEntry hart rs1 reserved s
  | .wgateReturn hart rs1 => Sys2Proof.Machine.execWgateReturn hart rs1 s
  | .gateTimerExpiry hart => Sys2Proof.Machine.execGateTimerExpiry hart s
  | .secureFail req value => Sys2Proof.Machine.execSecureFail req value s
  | .wlock half req value => Sys2Proof.Machine.execWlock half req value s
  | .ownershipWrite unit req value => Sys2Proof.Machine.execOwnershipWrite unit req value s
  | .msiDelivery => Sys2Proof.Machine.execMsiDelivery s
  | .debugHalt hart => Sys2Proof.Machine.execDebugHalt hart s
  | .sholdWrite half req value => Sys2Proof.Machine.execSholdWrite half req value s
  | .hholdWrite half req value => Sys2Proof.Machine.execHholdWrite half req value s
  | .bridgeWrite bridge req addr value => Sys2Proof.Machine.execBridgeWrite bridge req addr value s
  | .bridgeRead bridge req addr => Sys2Proof.Machine.execBridgeRead bridge req addr s
  | .postedWriteResponse bridge resp => Sys2Proof.Machine.execPostedWriteResponse bridge resp s
  | .bridgeMessage bridge input active => Sys2Proof.Machine.execBridgeMessage bridge input active s
  | .readResponseTimeout bridge => Sys2Proof.Machine.execReadResponseTimeout bridge s
  | .targetTimeout bridge req addr posted => Sys2Proof.Machine.execTargetTimeout bridge req addr posted s
  | .wirCntRead bridge req => Sys2Proof.Machine.execWirCntRead bridge req s
  | .semAcquire sem req value => Sys2Proof.Machine.execSemAcquire sem req value s
  | .semRelease sem req value => Sys2Proof.Machine.execSemRelease sem req value s
  | .semGo sem req value => Sys2Proof.Machine.execSemGo sem req value s
  | .semOpDone sem => Sys2Proof.Machine.execSemOpDone sem s
  | .ethFrameReceived port tc egress bytes fcsOk metered => Sys2Proof.Machine.execEthFrameReceived port tc egress bytes fcsOk metered s
  | .hifEnable req value => Sys2Proof.Machine.execHifEnable req value s
  | .hifDisable req value => Sys2Proof.Machine.execHifDisable req value s
  | .hifTxDoorbell ring req value => Sys2Proof.Machine.execHifTxDoorbell ring req value s
  | .hifRxDoorbell ring req value => Sys2Proof.Machine.execHifRxDoorbell ring req value s
  | .hifTransmit egress => Sys2Proof.Machine.execHifTransmit egress s
  | .hifDbErrRead req => Sys2Proof.Machine.execHifDbErrRead req s
  | .hifStatRead req => Sys2Proof.Machine.execHifStatRead req s
  | .gmChgRead dom req => Sys2Proof.Machine.execGmChgRead dom req s
  | .gateSwitchEvent => Sys2Proof.Machine.execGateSwitchEvent s
  | .gateListChange port => Sys2Proof.Machine.execGateListChange port s
  | .gateListClear port req value => Sys2Proof.Machine.execGateListClear port req value s
  | .canEnable can req value => Sys2Proof.Machine.execCanEnable can req value s
  | .canTxDoorbell can req value => Sys2Proof.Machine.execCanTxDoorbell can req value s
  | .canTransmit can sent tec rec => Sys2Proof.Machine.execCanTransmit can sent tec rec s
  | .canFrameReceived can frame => Sys2Proof.Machine.execCanFrameReceived can frame s
  | .tunnelHoldExpiry tunnel => Sys2Proof.Machine.execTunnelHoldExpiry tunnel s
  | .canRxLostRead can req => Sys2Proof.Machine.execCanRxLostRead can req s
  | .pcieEnable pce req value => Sys2Proof.Machine.execPcieEnable pce req value s
  | .pcieInboundRequest pce write ctx iova data len => Sys2Proof.Machine.execPcieInboundRequest pce write ctx iova data len s
  | .xspiDoorbell req value => Sys2Proof.Machine.execXspiDoorbell req value s
  | .xspiRead => Sys2Proof.Machine.execXspiRead s
  | .xspiProgram => Sys2Proof.Machine.execXspiProgram s
  | .xspiEraseSector size => Sys2Proof.Machine.execXspiEraseSector size s
  | .xspiReadSfdp sfdp => Sys2Proof.Machine.execXspiReadSfdp sfdp s
  | .audioEnable port req value => Sys2Proof.Machine.execAudioEnable port req value s
  | .audioBufTailWrite port req value => Sys2Proof.Machine.execAudioBufTailWrite port req value s
  | .audioBufferDone port tFs samples => Sys2Proof.Machine.execAudioBufferDone port tFs samples s
  | .errorRecordAccept => Sys2Proof.Machine.execErrorRecordAccept s
  | .ermPop req value => Sys2Proof.Machine.execErmPop req value s
  | .ermDone src req value => Sys2Proof.Machine.execErmDone src req value s
  | .faultClr req value => Sys2Proof.Machine.execFaultClr req value s
  | .safeLevelWrite req value => Sys2Proof.Machine.execSafeLevelWrite req value s
  | .ermOvfRead req => Sys2Proof.Machine.execErmOvfRead req s
  | .testWindowEvent => Sys2Proof.Machine.execTestWindowEvent s
  | .testWindowExpiry win => Sys2Proof.Machine.execTestWindowExpiry win s
  | .testSegmentStart pu => Sys2Proof.Machine.execTestSegmentStart pu s
  | .testSegmentEnd te pass => Sys2Proof.Machine.execTestSegmentEnd te pass s
  | .dtiExpiry te => Sys2Proof.Machine.execDtiExpiry te s
  | .goldenStatRead golden req => Sys2Proof.Machine.execGoldenStatRead golden req s
  | .fwWatchdogKick proc => Sys2Proof.Machine.execFwWatchdogKick proc s
  | .fwWatchdogExpiry proc => Sys2Proof.Machine.execFwWatchdogExpiry proc s
  | .fwlRecord proc trace level ctx code jobNo tag args => Sys2Proof.Machine.execFwlRecord proc trace level ctx code jobNo tag args s
  | .fwlEnable req value => Sys2Proof.Machine.execFwlEnable req value s
  | .fwlLogLostRead req => Sys2Proof.Machine.execFwlLogLostRead req s
  | .fwlWdtRead proc req => Sys2Proof.Machine.execFwlWdtRead proc req s
  | .domainOffRequest dom req value => Sys2Proof.Machine.execDomainOffRequest dom req value s
  | .domainOnRequest dom req value => Sys2Proof.Machine.execDomainOnRequest dom req value s
  | .domainPowerDown dom => Sys2Proof.Machine.execDomainPowerDown dom s
  | .domainOffDone dom => Sys2Proof.Machine.execDomainOffDone dom s
  | .domainOnDone dom => Sys2Proof.Machine.execDomainOnDone dom s
  | .domainReset dom req value => Sys2Proof.Machine.execDomainReset dom req value s
  | .domainResetDone dom => Sys2Proof.Machine.execDomainResetDone dom s
  | .clockStep => Sys2Proof.Machine.execClockStep s
  | .surgeRequest req value => Sys2Proof.Machine.execSurgeRequest req value s
  | .surgeDisWrite req value => Sys2Proof.Machine.execSurgeDisWrite req value s
  | .surgeGrant => Sys2Proof.Machine.execSurgeGrant s
  | .wearFuseBlowDone => Sys2Proof.Machine.execWearFuseBlowDone s
  | .avsAck => Sys2Proof.Machine.execAvsAck s
  | .avsTimeout => Sys2Proof.Machine.execAvsTimeout s
  | .allowMsExpiry => Sys2Proof.Machine.execAllowMsExpiry s
  | .thermalSample temps errs => Sys2Proof.Machine.execThermalSample temps errs s
  | .powerEstimate power => Sys2Proof.Machine.execPowerEstimate power s
  | .thermtrip sensor => Sys2Proof.Machine.execThermtrip sensor s
  | .sysclkFail => Sys2Proof.Machine.execSysclkFail s
  | .tbrefFail => Sys2Proof.Machine.execTbrefFail s
  | .tbrefReturn => Sys2Proof.Machine.execTbrefReturn s
  | .xgrefFail => Sys2Proof.Machine.execXgrefFail s
  | .hclkFail => Sys2Proof.Machine.execHclkFail s
  | .canBusOffRecovery can => Sys2Proof.Machine.execCanBusOffRecovery can s
  | .displayLinkLost head => Sys2Proof.Machine.execDisplayLinkLost head s
  | .capturePinInactive pin => Sys2Proof.Machine.execCapturePinInactive pin s
  | .xspiOperationTimeout => Sys2Proof.Machine.execXspiOperationTimeout s
  | .avsSetpointResend => Sys2Proof.Machine.execAvsSetpointResend s

end Sys2Proof.Machine
end

