-- ==== Sys2Proof/Machine/Attention.lean ====
section
/-!
DEFINITION. Attention layers (06_attention_and_kv_cache R143 to R154): the positions and masks of the query rows, the recurrence of
the online softmax with its rounding points, the statistics and the stored scores with their layouts, and the backward pass.  Every
operation is one of the arrays or of the vector unit; `exp2` is the vector unit's EXP2, a free value within its bound (log entry
76).
-/

namespace Sys2Proof.Machine

/-! ## Fields of a record (R143) -/

def attMode (r : List Byte) : Nat := fieldAt r 0 1
def attHq (r : List Byte) : Nat := fieldAt r 2 2
def attHkv (r : List Byte) : Nat := fieldAt r 4 2
def attCausal (r : List Byte) : Bool := bitAt (fieldAt r 10 1) 0

/-- Heads whose scores are stored, in SSH order. -/
def attStored (r : List Byte) : List Nat := ((List.range 4).map fun i => fieldAt r (16 + 2 * i) 2).filter fun h => !(Nat.beq h 0xFFFF)

/-- The key-value head of a query head. -/
def kvHeadOf (r : List Byte) (h : Nat) : Nat := h * attHkv r / attHq r

/-! ## Positions and masks (R145, R146) -/

/-- The position of query row `i`: rows of an inference job are the tokens it appends at `ntok`. -/
def rowPosition (mode ntok i : Nat) : Nat := if Nat.beq mode 0 then ntok + i else i

/-- The keys a job of `rows` query rows sees: tokens 0 to this − 1. -/
def visibleKeys (mode ntok rows : Nat) : Nat := if Nat.beq mode 0 then ntok + rows else rows

/-- Key `t` is masked for the row at position `p` of a job that sees `keys` keys. -/
def keyMasked (causal : Bool) (keys p t : Nat) : Bool := Nat.ble keys t || (causal && Nat.blt p t)

/-! ## Array passes (R75, R77) -/

/-- A block of up to 32 operands with the block scale they share. -/
structure OpBlock where
  fmt   : Nat
  kind  : Nat
  scale : Nat
  codes : List Nat
  deriving DecidableEq, Repr

/-- One column of successive passes over blocks of weights and activations, into an FP32 partial sum. -/
def passBlocks (ovf : Bool) : List (OpBlock × OpBlock) → Val → Val × Nat
  | [], prev => (prev, 0)
  | (w, a) :: r, prev =>
    let dec (b : OpBlock) := b.codes.map ((elemFmt b.fmt).getD fp32).decode
    let x := passFloat ((passPath w.fmt w.kind a.fmt a.kind).getD .wide) ovf ((dec w).zip (dec a))
      (scaleVal w.kind w.scale w.fmt) (scaleVal a.kind a.scale a.fmt) 0 prev
    let y := passBlocks ovf r x.1
    (y.1, x.2 ||| y.2)

/-- Values rounded to BF16 with RNE, in blocks of 32. -/
def bf16Blocks (ovf : Bool) (xs : List Val) : List OpBlock :=
  (groups 32 ((xs.length + 31) / 32) xs).map fun g =>
    { fmt := 0x02, kind := 0, scale := 0, codes := g.map fun x => (bf16.toFloat x 0 ovf).1 }

/-- The wide path's sum of products of two lists in BF16 (R153). -/
def passBf16 (ovf : Bool) (ws as_ : List Val) (prev : Val) : Val × Nat :=
  passBlocks ovf ((bf16Blocks ovf ws).zip (bf16Blocks ovf as_)) prev

/-! ## The recurrence of a row (R146 to R148) -/

/-- A query row at work: the running maximum and sum, the output elements, a NaN met, and the flags. -/
structure AttRow where
  m   : Val
  l   : Val
  o   : List Val
  nan : Bool
  fx  : Nat
  deriving DecidableEq, Repr

/-- The row before its first key block. -/
def AttRow.start (d : Nat) : AttRow :=
  { m := .inf true, l := .fin false 0, o := List.replicate d (.fin false 0), nan := false, fx := 0 }

/-- The score of a key from the array's partial sum; a masked key's is −∞ (R145, R146). -/
def score (scale2 : Val) (ovf masked : Bool) (qk : Val × Nat) : Val × Nat :=
  if masked then (.inf true, 0) else let s := fMul fp32 0 ovf scale2 qk.1; (s.1, qk.2 ||| s.2)

/-- exp2(s − m): a masked key gives +0. -/
def expOf (exp2 : Val → Val × Nat) (ovf : Bool) (s m : Val) (masked : Bool) : Val × Nat :=
  if masked then (.fin false 0, 0)
  else
    let d := fAdd fp32 0 ovf s m.flip
    let e := exp2 d.1
    (e.1, d.2 ||| e.2)

/-- The rescale of a row whose block maximum `mb` exceeds its maximum; it stands before the block's terms (R147). -/
def AttRow.rescale (exp2 : Val → Val × Nat) (ovf : Bool) (r : AttRow) (mb : Val) : AttRow :=
  if mb.isNaN || !(r.m.lt mb) then r
  else if decide (r.m = .inf true) then { r with m := mb }
  else
    let a := expOf exp2 ovf r.m mb false
    let l := fMul fp32 0 ovf r.l a.1
    let o := r.o.map fun x => fMul fp32 0 ovf x a.1
    { r with m := mb, l := l.1, o := o.map (·.1), fx := o.foldl (fun f x => f ||| x.2) (r.fx ||| a.2 ||| l.2) }

/-- One key block: its scores, each with whether its key is masked, and `pv`, the passes of p · v into the output. -/
def AttRow.block (exp2 : Val → Val × Nat) (ovf : Bool) (pv : List Val → List Val → List Val × Nat × Bool)
    (r : AttRow) (s : List (Val × Bool)) : AttRow :=
  let mb := fp32.decode (reduce .max true ovf true (s.map (·.1))).1
  let r1 := r.rescale exp2 ovf mb
  let p := s.map fun x => expOf exp2 ovf x.1 r1.m x.2
  let sum := reduce .sum true ovf true (p.map (·.1))
  let l := fAdd fp32 0 ovf r1.l (fp32.decode sum.1)
  let o := pv (p.map (·.1)) r1.o
  { r1 with l := l.1, o := o.1, nan := r1.nan || (p.any fun x => x.1.isNaN) || (s.any fun x => x.1.isNaN) || o.2.2
            fx := p.foldl (fun f x => f ||| x.2) (r1.fx ||| sum.2 ||| l.2 ||| o.2.1) }

/-- The end of a row: the final division, a row without an unmasked key, and the NaN that is carried (R146, R148); the output, the
statistics and the flags. -/
def AttRow.finish (r : AttRow) (ovf allMasked : Bool) : List Val × Val × Val × Nat :=
  if allMasked then (r.o.map fun _ => .fin false 0, .inf true, .fin false 0, 0)
  else if r.nan then (r.o.map fun _ => .nan, .nan, .nan, r.fx)
  else if r.l.isZero then (r.o.map fun _ => .fin false 0, r.m, r.l, r.fx)
  else
    let q := r.o.map fun x => fDiv fp32 0 ovf x r.l
    (q.map (·.1), r.m, r.l, q.foldl (fun f x => f ||| x.2) r.fx)

/-- A row over its key blocks in ascending order, each with the passes of its values. -/
def attendRow (exp2 : Val → Val × Nat) (ovf : Bool) (d : Nat)
    (blocks : List (List (Val × Bool) × (List Val → List Val → List Val × Nat × Bool))) : List Val × Val × Val × Nat :=
  (blocks.foldl (fun r b => r.block exp2 ovf b.2 b.1) (AttRow.start d)).finish ovf (blocks.all fun b => b.1.all (·.2))

/-! ## p · v (R145, R149) -/

/-- p · v of training: p rounded to BF16, on the wide path; `v` holds the values of the block's keys, by key and element. -/
def pvTraining (ovf : Bool) (v : List (List Val)) (p o : List Val) : List Val × Nat × Bool :=
  let r := (o.zip (List.range o.length)).map fun x => passBf16 ovf (v.map fun k => (k[x.2]?).getD (.fin false 0)) p x.1
  (r.map (·.1), r.foldl (fun f x => f ||| x.2) 0, false)

/-- The values of a token in the KV cache: its blocks of 32 elements, codes and FP16 scale, in format KB8 or KB4 (R149). -/
abbrev KvToken := List OpBlock

/-- p folded with the scale of block `b` of each key (R149). -/
def foldScale (ovf : Bool) (v : List KvToken) (b : Nat) (p : List Val) : List (Val × Nat) :=
  (p.zip (List.range p.length)).map fun x =>
    match (v[x.2]?).bind fun t => t[b]? with
    | some w => fMul fp32 0 ovf x.1 (scaleVal w.kind w.scale w.fmt)
    | none => (.fin false 0, 0)

/-- p · v of inference: for each block of 32 output elements the folded p, quantised to MXFP8-E4M3 in blocks of 32 keys, meets the
unscaled codes on the exact path; a NaN among the folded p makes the row NaN (R149). -/
def pvInference (ovf : Bool) (v : List KvToken) (p o : List Val) : List Val × Nat × Bool :=
  let nb := (o.length + 31) / 32
  let per := (List.range nb).map fun b =>
    let q := foldScale ovf v b p
    let acts := (groups 32 ((q.length + 31) / 32) (q.map (·.1))).map fun g =>
      let x := quantBlock 0x04 1 0 ovf g
      (({ fmt := 0x04, kind := 1, scale := x.1, codes := x.2.1 } : OpBlock), x.2.2)
    let cols := (List.range (min 32 (o.length - 32 * b))).map fun c =>
      let codes := v.map fun t => match t[b]? with | some w => (w.codes[c]?).getD 0 | none => 0
      let fmt := match v.head?.bind fun t => t[b]? with | some w => w.fmt | none => 0x12
      let ws := (groups 32 acts.length codes).map fun g => ({ fmt, kind := 0, scale := 0, codes := g } : OpBlock)
      passBlocks ovf (ws.zip (acts.map (·.1))) ((o[32 * b + c]?).getD (.fin false 0))
    (cols, (acts.foldl (fun f x => f ||| x.2) (q.foldl (fun f x => f ||| x.2) 0)), q.any fun x => x.1.isNaN)
  (per.flatMap fun x => x.1.map (·.1),
   per.foldl (fun f x => x.1.foldl (fun f y => f ||| y.2) (f ||| x.2.1)) 0, per.any fun x => x.2.2)

/-! ## Stored scores (R151, R152) -/

/-- The second pass of a stored-score head over one key: p = exp2(s − m) / l, then its FP16 code, and the flags. -/
def storedP (exp2 : Val → Val × Nat) (ovf : Bool) (m l s : Val) (masked : Bool) : Nat × Nat :=
  if masked then (0, 0)
  else
    let e := expOf exp2 ovf s m false
    let p := fDiv fp32 0 ovf e.1 l
    let c := fp16.toFloat p.1 0 ovf
    (c.1, e.2 ||| p.2 ||| c.2)

/-- A row of stored scores: canonical NaNs for the unmasked keys of a row that is NaN. -/
def storedRow (exp2 : Val → Val × Nat) (ovf : Bool) (m l : Val) (s : List (Val × Bool)) : List Nat :=
  s.map fun x => if x.2 then 0 else if m.isNaN then fp16.nanCode else (storedP exp2 ovf m l x.1 false).1

/-- The output of a stored-score row: the sum of p · v with the stored p, neither rescaled nor divided (R151), the flags, and
whether the row is NaN, which a NaN among its scores or its folded p makes it (R148, R149). -/
def storedOutput (d : Nat) (pv : List Val → List Val → List Val × Nat × Bool) (m : Val) (codes : List Nat) : List Val × Nat × Bool :=
  if m.isNaN then (List.replicate d .nan, fxNanIn, true)
  else
    let o := pv (codes.map fp16.decode) (List.replicate d (.fin false 0))
    if o.2.2 then (List.replicate d .nan, o.2.1, true) else (o.1, o.2.1, false)

/-- Elements of a row of stored scores. -/
def scoreRow (keys : Nat) : Nat := (keys + 7) / 8 * 8

/-- The bytes of a row of stored scores, with its padding. -/
def scoreBytes (keys : Nat) (codes : List Nat) : List Byte :=
  ((codes.take keys ++ List.replicate (scoreRow keys - keys) 0).map (leBytes 2)).flatten

/-- The place in the SOUT slot of the score of row `i` and key `t` for the `k`-th stored-score head. -/
def scoreAt (rows keys k i t : Nat) : Nat := ((k * rows + i) * scoreRow keys + t) * 2

/-! ## Row statistics (R150) -/

/-- The place in the STATS slot of the record of head `h` and row `i`, and its bytes. -/
def statsAt (rows h i : Nat) : Nat := (h * rows + i) * 8
def statsBytes (m l : Val) : List Byte := leBytes 4 (fp32.toFloat m 0 false).1 ++ leBytes 4 (fp32.toFloat l 0 false).1

/-- The statistics that eight bytes of the slot hold. -/
def statsOf (b : List Byte) : Val × Val := (fp32.decode (fieldAt b 0 4), fp32.decode (fieldAt b 4 4))

/-! ## A layer's rows (R145 to R152) -/

/-- The operands of a head, by the mode of its layer: queries in QFMT with keys and values of the KV cache, or BF16 throughout
(R145). -/
inductive HeadData where
  | inference (q : List (List OpBlock)) (k v : List KvToken)
  | training (q k v : List (List Val))
  deriving DecidableEq, Repr

/-- Query rows of the head: QROWS of the job. -/
def HeadData.rows : HeadData → Nat
  | .inference q _ _ => q.length
  | .training q _ _ => q.length

/-- D of the head. -/
def HeadData.dim : HeadData → Nat
  | .inference _ _ v => 32 * (v.headD []).length
  | .training _ _ v => (v.headD []).length

/-- q · k of row `i` and key `t`: on the exact path, key codes with their FP16 block scales against the queries in QFMT, or on the
wide path in BF16 (R145). -/
def HeadData.qk (ovf : Bool) (i t : Nat) : HeadData → Val × Nat
  | .inference q k _ => passBlocks ovf (((k[t]?).getD []).zip ((q[i]?).getD [])) (.fin false 0)
  | .training q k _ => passBf16 ovf ((k[t]?).getD []) ((q[i]?).getD []) (.fin false 0)

/-- p · v over the keys from `lo` on that `p` names (R145, R149). -/
def HeadData.pv (ovf : Bool) (lo : Nat) (h : HeadData) (p o : List Val) : List Val × Nat × Bool :=
  match h with
  | .inference _ _ v => pvInference ovf ((v.drop lo).take p.length) p o
  | .training _ _ v => pvTraining ovf ((v.drop lo).take p.length) p o

/-- A forward layer at work: its EXP2, the job's overflow policy, scale2, CAUSAL, its mode, and the NTOK of the job's append KVL
(R143 to R145). -/
structure AttLayer where
  exp2   : Val → Val × Nat
  ovf    : Bool
  scale2 : Val
  causal : Bool
  mode   : Nat
  ntok   : Nat

/-- The keys that the rows of a head see. -/
def AttLayer.keys (a : AttLayer) (h : HeadData) : Nat := visibleKeys a.mode a.ntok h.rows

/-- The scores of row `i`, each with whether its key is masked, and their flags (R145, R146). -/
def AttLayer.scores (a : AttLayer) (h : HeadData) (i : Nat) : List (Val × Bool) × Nat :=
  (List.range (a.keys h)).foldl (fun r t =>
    let masked := keyMasked a.causal (a.keys h) (rowPosition a.mode a.ntok i) t
    let s := score a.scale2 a.ovf masked (h.qk a.ovf i t)
    (r.1 ++ [(s.1, masked)], r.2 ||| s.2)) (([] : List (Val × Bool)), 0)

/-- The key blocks of a row's scores, 128 keys each, with the passes of their values. -/
def AttLayer.blocks (a : AttLayer) (h : HeadData) (s : List (Val × Bool)) :
    List (List (Val × Bool) × (List Val → List Val → List Val × Nat × Bool)) :=
  let n := (s.length + 127) / 128
  ((groups 128 n s).zip (List.range n)).map fun b => (b.1, h.pv a.ovf (128 * b.2))

/-- What a row of a head comes to: its output, the statistics m and l, the stored codes of a stored-score head, and the flags. -/
structure RowOut where
  out   : List Val
  m     : Val
  l     : Val
  codes : List Nat
  fx    : Nat
  deriving DecidableEq, Repr

/-- A row of an ordinary head (R145 to R149). -/
def AttLayer.row (a : AttLayer) (h : HeadData) (i : Nat) : RowOut :=
  let s := a.scores h i
  let r := attendRow a.exp2 a.ovf h.dim (a.blocks h s.1)
  { out := r.1, m := r.2.1, l := r.2.2.1, codes := [], fx := if s.1.all (·.2) then 0 else s.2 ||| r.2.2.2 }

/-- A row of a stored-score head: a pass for m and l alone, then one for p and the output (R151). -/
def AttLayer.storedRow (a : AttLayer) (h : HeadData) (i : Nat) : RowOut :=
  let s := a.scores h i
  let first := attendRow a.exp2 a.ovf 0 ((a.blocks h s.1).map fun b => (b.1, fun _ _ => ([], 0, false)))
  let m := first.2.1
  let l := first.2.2.1
  let codes := Machine.storedRow a.exp2 a.ovf m l s.1
  let o := storedOutput h.dim (h.pv a.ovf 0) m codes
  let fx := s.1.foldl (fun f x => if x.2 then f else f ||| (storedP a.exp2 a.ovf m l x.1 false).2) (s.2 ||| first.2.2.2 ||| o.2.1)
  if s.1.all (·.2) then { out := List.replicate h.dim (.fin false 0), m, l, codes, fx := 0 }
  else if o.2.2 then { out := o.1, m := .nan, l := .nan, codes := Machine.storedRow a.exp2 a.ovf .nan .nan s.1, fx }
  else { out := o.1, m, l, codes, fx }

/-- The rows of head `n` of a layer with record `r`: a head that SSH names is a stored-score head. -/
def AttLayer.head (a : AttLayer) (r : List Byte) (n : Nat) (h : HeadData) : List RowOut :=
  (List.range h.rows).map fun i => if (attStored r).contains n then a.storedRow h i else a.row h i

/-- What the job leaves in the slots that the record names, for the rows of its heads in head order: the statistics from STATS on,
and from SOUT on the scores of the heads that SSH names, in its order (R150, R151, R152). -/
def statsSlot (heads : List (List RowOut)) : List Byte := heads.flatMap fun rows => rows.flatMap fun x => statsBytes x.m x.l
def scoresSlot (r : List Byte) (keys : Nat) (heads : List (List RowOut)) : List Byte :=
  (attStored r).flatMap fun n => ((heads[n]?).getD []).flatMap fun x => scoreBytes keys x.codes

/-- A job of a forward layer writes its statistics and stored scores to the slots; `slots` are the job's IOVAs. -/
def State.putRows (s : State) (req : Req) (slots : List Nat) (r : List Byte) (keys : Nat) (heads : List (List RowOut)) : State :=
  let write (s : State) (slot : Nat) (bs : List Byte) : State :=
    match slots[slot]? with
    | some iova => if Nat.beq slot 0xFF || bs.isEmpty then s else (s.put req iova bs).2
    | none => s
  write (write s (fieldAt r 24 1) (statsSlot heads)) (fieldAt r 11 1) (scoresSlot r keys heads)

/-- The codes of the `k`-th stored-score head that a slot holds, by row and key (R154). -/
def State.storedCodes (s : State) (req : Req) (iova rows keys k : Nat) : Resp × List (List Nat) × State :=
  match s.fetch req (iova + scoreAt rows keys k 0 0) (rows * scoreRow keys * 2) with
  | (.okay, bs, s1) =>
    (.okay, (List.range rows).map fun i => (List.range keys).map fun t => fieldAt bs (scoreAt rows keys 0 i t) 2, s1)
  | (e, _, s1) => (e, [], s1)

/-! ## Backward pass (R153, R154) -/

/-- What a query row of a backward job holds: q, o, do, and m and l. -/
structure GradRow where
  q   : List Val
  o   : List Val
  dout : List Val
  m   : Val
  l   : Val
  deriving DecidableEq, Repr

/-- dd of a row. -/
def GradRow.dd (g : GradRow) (ovf : Bool) : Val := (treeSum (fAdd fp32 0 ovf) 8 ((g.dout.zip g.o).map fun x => (fMul fp32 0 ovf x.1 x.2).1)).1

/-- p of a row and a key: recomputed from the statistics, or, for a stored-score head, read from the slot (R154). -/
def GradRow.p (exp2 : Val → Val × Nat) (ovf : Bool) (scale2 : Val) (g : GradRow) (k : List Val) (masked : Bool) (stored : Option Nat) : Val :=
  match stored with
  | some c => fp16.decode c
  | none =>
    if masked then .fin false 0
    else
      let s := score scale2 ovf false (passBf16 ovf k g.q (.fin false 0))
      (fDiv fp32 0 ovf (expOf exp2 ovf s.1 g.m false).1 g.l).1

/-- ds of a row and a key, from p. -/
def GradRow.ds (ovf : Bool) (sigma : Val) (g : GradRow) (v : List Val) (p : Val) : Val :=
  let dp := (passBf16 ovf v g.dout (.fin false 0)).1
  (fMul fp32 0 ovf (fMul fp32 0 ovf p (fAdd fp32 0 ovf dp (g.dd ovf).flip).1).1 sigma).1

/-- dq of a row, from its ds of all keys; dk and dv of a key, from its ds or p of all rows: FP32 sums, stored in BF16. -/
def gradSum (ovf : Bool) (ws : List Val) (rows : List (List Val)) (d : Nat) : List Nat :=
  (List.range d).map fun c =>
    (bf16.toFloat (passBf16 ovf (rows.map fun r => (r[c]?).getD (.fin false 0)) ws (.fin false 0)).1 0 ovf).1

/-- The gradients of one head: BF16 codes of dq by row, and of dk and dv by key.  `stored` holds the codes of a stored-score head's
p, by row and key. -/
def gradients (exp2 : Val → Val × Nat) (ovf : Bool) (scale2 sigma : Val) (causal : Bool) (rows : List GradRow)
    (ks vs : List (List Val)) (stored : Option (List (List Nat))) : List (List Nat) × List (List Nat) × List (List Nat) :=
  let d := (ks.head?.getD []).length
  let pAt (i t : Nat) : Val :=
    match rows[i]?, ks[t]? with
    | some g, some k => g.p exp2 ovf scale2 k (keyMasked causal ks.length i t) (stored.map fun x => (((x[i]?).getD [])[t]?).getD 0)
    | _, _ => .fin false 0
  let dsAt (i t : Nat) : Val :=
    match rows[i]?, vs[t]? with
    | some g, some v => g.ds ovf sigma v (pAt i t)
    | _, _ => .fin false 0
  let ri := List.range rows.length
  let ti := List.range ks.length
  (ri.map fun i => gradSum ovf (ti.map (dsAt i)) ks d,
   ti.map fun t => gradSum ovf (ri.map fun i => dsAt i t) (rows.map (·.q)) d,
   ti.map fun t => gradSum ovf (ri.map fun i => pAt i t) (rows.map (·.dout)) d)

/-- The gradients of stored-score head `k` of a backward job, which reads p from its input slot, whatever that holds (R154). -/
def State.storedGradients (s : State) (req : Req) (iova k : Nat) (exp2 : Val → Val × Nat) (ovf : Bool) (scale2 sigma : Val)
    (causal : Bool) (rows : List GradRow) (ks vs : List (List Val)) :
    Resp × (List (List Nat) × List (List Nat) × List (List Nat)) × State :=
  match s.storedCodes req iova rows.length ks.length k with
  | (e, codes, s1) => (e, gradients exp2 ovf scale2 sigma causal rows ks vs (some codes), s1)

end Sys2Proof.Machine
end

