-- ==== Sys2Proof/Safety.lean ====
section
/-!
DEFINITION. What statements mean by a state in order, by a run that does not stop, and by an access that is granted; and the
register access that each command row of that kind is.
-/

namespace Sys2Proof

open Machine

/-- The maps that hold registers, memory and flash are in canonical form: equal contents are equal data. -/
def Machine.State.canonical (s : State) : Bool :=
  SMap.wf regReset s.regs && Memory.wf s.mem && SMap.wf flashDflt s.flash

/-- A command is carried out: it neither faults nor is refused. -/
def CarriesOut (o : Host.Outcome State Fault Refusal) : Prop := ∃ t, o = .next t

/-- The 32-bit access of `req` to the register at `a` is answered OKAY, as its port sends it: the unit is on, not isolated, not
the other world's, and its block admits the request (R29, R34, R491, R450, R391 and the blocks' own rules); its initiator issues
requests, no Weir bridge holds it, and no faulty link has lost it (R371, R412, R414, R322).  Where the port replaces the label that
the request carries, SLU_STATUS shows it: `relabel` is the state that the access finds (R332). -/
abbrev Machine.State.Grants (s : State) (req : Req) (ty : AccType) (a : Nat) : Prop :=
  ((s.relabel req).regCheck (s.issued req) ty a 4).1 = .okay ∧ s.straight req (decide (ty = .write)) a = true

/-- Register writes: the rows that are a write of one register, with the request, the register and the word. -/
def Instr.writeOf : Instr → Option (Req × Nat × Word)
  | .pwrWarmGo req value => some (req, Reg.PWR_WARM, value)
  | .hartRelease req value => some (req, Reg.BOOT_HARTREL, value)
  | .lifecycleAdvance req value => some (req, Reg.BOOT_LCS, value)
  | .keyRevoke req value => some (req, Reg.BOOT_KEYREV, value)
  | .arbCommit req value => some (req, Reg.BOOT_ARB_COMMIT, value)
  | .tenEnable te req value => some (req, Reg.TEN_CTRL te, value)
  | .tenHalt te req value => some (req, Reg.TEN_CTRL te, value)
  | .tenReset te req value => some (req, Reg.TEN_CTRL te, value)
  | .tenCqTailWrite te req value => some (req, Reg.TEN_CQ_TAIL te, value)
  | .tenWdtWrite te req value => some (req, Reg.TEN_WDT te, value)
  | .dbSqTailWrite ctx ring req value => some (req, Reg.DB_SQ_TAIL ctx ring, value)
  | .dbCqHeadWrite ctx req value => some (req, Reg.DB_CQ_HEAD ctx, value)
  | .tcxGo req value => some (req, Reg.TCX_CTRL, value)
  | .tmbIncrCommit req value => some (req, Reg.TMB_INCR_HI, value)
  | .tmbAdjRelative req value => some (req, Reg.TMB_ADJ_CTRL, value)
  | .tmbAdjAbsolute req value => some (req, Reg.TMB_ADJ_CTRL, value)
  | .tmbSourceChange req value => some (req, Reg.TMB_CTRL, value)
  | .servoEnable req value => some (req, Reg.TMB_CTRL, value)
  | .timetableSwapRequest req value => some (req, Reg.TTB_CTRL, value)
  | .timetableEnable req value => some (req, Reg.TTB_CTRL, value)
  | .streamEnable str req value => some (req, Reg.FGD_STR_CTRL str, value)
  | .streamDisable str req value => some (req, Reg.FGD_STR_CTRL str, value)
  | .streamBufTailWrite str req value => some (req, Reg.FGD_STR_BUF_TAIL str, value)
  | .fusionSwapRequest req value => some (req, Reg.FUS_CTRL, value)
  | .fusionRephase req value => some (req, Reg.FUS_REPHASE, value)
  | .fusBufTailWrite inst req value => some (req, Reg.FUS_BUF_TAIL inst, value)
  | .rangePassStart dmc req value => some (req, Reg.DMC_RP_CTRL dmc, value)
  | .rangePassAbort dmc req value => some (req, Reg.DMC_RP_CTRL dmc, value)
  | .markClear dmc req value => some (req, Reg.DMC_MARK dmc, value)
  | .slcFlush req value => some (req, Reg.SLC_FLUSH, value)
  | .depthHoldWrite req value => some (req, Reg.SLC_HOLD, value)
  | .guardFence target req value => some (req, Reg.GRD_FENCE target, value)
  | .wheelSwapRequest req value => some (req, Reg.SLU_CTRL, value)
  | .gqEnable q req value => some (req, Reg.GFX_GQ_CTRL q, value)
  | .gqDisable q req value => some (req, Reg.GFX_GQ_CTRL q, value)
  | .gqDoorbell q req value => some (req, Reg.GQ_DB_SQ_TAIL q, value)
  | .headEnable head req value => some (req, Reg.DSP_CTRL head, value)
  | .headDisable head req value => some (req, Reg.DSP_CTRL head, value)
  | .flipDoorbell head req value => some (req, Reg.DSP_DB_SQ_TAIL head, value)
  | .pairReset pair req value => some (req, Reg.APC_PAIR_CTRL pair, value)
  | .secureFail req value => some (req, Reg.WGD_CTRL, value)
  | .wlock half req value => some (req, Reg.WGD_LOCK half, value)
  | .ownershipWrite unit req value => some (req, Reg.WGD_OWN unit, value)
  | .sholdWrite half req value => some (req, Reg.PWR_SHOLD half, value)
  | .hholdWrite half req value => some (req, Reg.PWR_HHOLD half, value)
  | .semAcquire sem req value => some (req, Reg.WIR0_SEM_OWN sem, value)
  | .semRelease sem req value => some (req, Reg.WIR0_SEM_OWN sem, value)
  | .semGo sem req value => some (req, Reg.WIR0_SEM_CMD sem, value)
  | .hifEnable req value => some (req, Reg.TSW_HIF_CTRL, value)
  | .hifDisable req value => some (req, Reg.TSW_HIF_CTRL, value)
  | .hifTxDoorbell ring req value => some (req, Reg.HIF_DB_TX_TAIL ring, value)
  | .hifRxDoorbell ring req value => some (req, Reg.HIF_DB_RX_TAIL ring, value)
  | .gateListClear port req value => some (req, Reg.TSW_GCL port, value)
  | .canEnable can req value => some (req, Reg.CAN_CTRL can, value)
  | .canTxDoorbell can req value => some (req, Reg.CAN_DB_SQ_TAIL can, value)
  | .pcieEnable pce req value => some (req, Reg.PCE_CFG pce, value)
  | .xspiDoorbell req value => some (req, Reg.XSP_DB_SQ_TAIL, value)
  | .audioEnable port req value => some (req, Reg.AUD_CTRL port, value)
  | .audioBufTailWrite port req value => some (req, Reg.AUD_BUF_TAIL port, value)
  | .ermPop req value => some (req, Reg.ERM_POP, value)
  | .ermDone src req value => some (req, Reg.ERM_SRC src, value)
  | .faultClr req value => some (req, Reg.ERM_SAFE, value)
  | .safeLevelWrite req value => some (req, Reg.ERM_SAFE, value)
  | .fwlEnable req value => some (req, Reg.FWL_LOG_CFG, value)
  | .domainOffRequest dom req value => some (req, Reg.PWR_DOM dom, value)
  | .domainOnRequest dom req value => some (req, Reg.PWR_DOM dom, value)
  | .domainReset dom req value => some (req, Reg.PWR_DOM dom, value)
  | .surgeRequest req value => some (req, Reg.THM_SURGE, value)
  | .surgeDisWrite req value => some (req, Reg.THM_SURGE, value)
  | _ => none

/-- The rows that are a read of one register with read-to-clear fields. -/
def Instr.countReadOf : Instr → Option (Req × Nat)
  | .tenChkSkipRead te req => some (req, Reg.TEN_CHK_SKIP te)
  | .dbErrRead ctx req => some (req, Reg.DB_ERR ctx)
  | .tmbCapOvrRead pin req => some (req, Reg.TMB_CAP_OVR pin)
  | .ttbSkipRead req => some (req, Reg.TTB_SKIP)
  | .csiErrRead rx req => some (req, Reg.CSI_ERR rx)
  | .sspOvrRead port req => some (req, Reg.SSP_OVR port)
  | .fgdStatRead str req => some (req, Reg.FGD_STR_STAT str)
  | .dmcEccCntRead dmc req => some (req, Reg.DMC_ECC_CNT dmc)
  | .mrcReplaysRead req => some (req, Reg.MRC_REPLAYS)
  | .dspLateRead head req => some (req, Reg.DSP_LATE head)
  | .hthResyncRead req => some (req, Reg.HTH_RESYNC)
  | .wirCntRead bridge req => some (req, Reg.WIR_CNT bridge)
  | .hifDbErrRead req => some (req, Reg.HIF_DB_ERR)
  | .hifStatRead req => some (req, Reg.TSW_HIF_STAT)
  | .gmChgRead dom req => some (req, Reg.TSW_PTP_STATE dom)
  | .canRxLostRead can req => some (req, Reg.CAN_STATUS can)
  | .ermOvfRead req => some (req, Reg.ERM_OVF)
  | .goldenStatRead golden req => some (req, Reg.TCX_GOLD_STAT golden)
  | .fwlLogLostRead req => some (req, Reg.FWL_LOG_LOST)
  | .fwlWdtRead proc req => some (req, Reg.FWL_WDT proc)
  | _ => none

/-- The rows that access one register: the request, the direction and the register. -/
def Instr.accessOf (i : Instr) : Option (Req × AccType × Nat) :=
  match i.writeOf, i.countReadOf, i with
  | some (req, a, _), _, _ => some (req, .write, a)
  | none, some (req, a), _ => some (req, .read, a)
  | none, none, .tmbNowNsRead req => some (req, .read, Reg.TMB_NOW_NS)
  | none, none, .tmbCapNsRead pin req => some (req, .read, Reg.TMB_CAP_NS pin)
  | none, none, _ => none

/-- The unit of the register at `a` answers `req`: its power domain is on, the error manager has not isolated it, a unit of
the secure world is asked with W = 1, and a debug module that asks is connected. -/
def Machine.State.Answers (s : State) (req : Req) (a : Nat) : Prop :=
  (req.ini = .debugModule → s.debugOn = true) ∧
    ∃ u, unitOfReg a = some u ∧ s.domainOn (domainOf u) = true ∧ s.isIsolated u = false ∧
      (s.ownedSecure u = true → (s.issued req).w = true)

/-- Who may make the write that a row is, in the words of the blocks' rules: the cluster core of the engine's cluster (R121); an
application core or Miller (R204); W = 1 (R386, R391, R372, R504, R506, R408, R480); a Heath core (R381, R451, R406, R410); an
application core with W = 1 (R404); for a power domain that is secure-controlled, W = 1 (R404); for the log, an application
core, or W = 1 (R487). -/
def Instr.mayWrite (s : State) (req : Req) : Instr → Bool
  | .tenEnable te _ _ | .tenHalt te _ _ | .tenReset te _ _ | .tenCqTailWrite te _ _ | .tenWdtWrite te _ _ =>
    match req.ini with
    | .clusterCore c => Nat.beq c (te.val / 8)
    | _ => false
  | .tcxGo _ _ => fromAc req || decide (req.ini = .miller)
  | .guardFence _ _ _ | .secureFail _ _ | .wlock _ _ _ | .ownershipWrite _ _ _ | .pairReset _ _ _ | .surgeRequest _ _
  | .surgeDisWrite _ _ | .pwrWarmGo _ _ | .hartRelease _ _ | .lifecycleAdvance _ _ | .keyRevoke _ _ | .arbCommit _ _ => req.w
  | .ermPop _ _ | .ermDone _ _ _ | .faultClr _ _ | .safeLevelWrite _ _ | .hholdWrite _ _ _ => fromHc req
  | .canEnable n _ _ | .canTxDoorbell n _ _ => Nat.blt n 8 || fromHc req
  | .sholdWrite _ _ _ => fromAc req && req.w
  | .domainOffRequest d _ _ | .domainOnRequest d _ _ | .domainReset d _ _ => req.w || !(s.domainSecure d)
  | .fwlEnable _ _ => fromAc req || req.w
  | _ => true

/-- Registers without an effect of their own: the field maps alone say what a write does. -/
def plainRegs : List Nat :=
  [Reg.TCX_DTI, Reg.SLU_CTRL, Reg.SLU_PRIO 0, Reg.SLU_PRIO 1, Reg.SLC_CLSGRP 0, Reg.SLC_CLSGRP 1, Reg.SLC_WAYMASK 0, Reg.MRC_LFAULT,
    Reg.MRC_ELOG_HI, Reg.TTB_STATUS, Reg.SSP_STATUS 0, Reg.FGD_STR_GUARD 0, Reg.FUS_STATUS, Reg.DSP_STATUS 0,
    Reg.APC_PAIR_STATUS 0, Reg.WGD_STATUS, Reg.WGD_LOCK 0, Reg.WGD_LOCK 1, Reg.WGD_DBG, Reg.HTH_STATUS, Reg.TSW_STATUS,
    Reg.TSW_PTP_PORT_CFG 0, Reg.PWR_STATUS, Reg.THM_STATUS, Reg.THM_TWARN, Reg.CLK_MON]

/-- The fuses are in order: the lifecycle in force is not ahead of the fuse, no more than 2,000 wear bits are blown, and a
commit that runs aims at no fewer bits than are blown. -/
def Machine.State.FusesInOrder (s : State) : Prop :=
  s.fuses.inForce ≤ s.fuses.lifecycle ∧ s.fuses.lifecycle ≤ 2 ∧ s.fuses.wear ≤ 2000 ∧
    ∀ c n, s.rom.blowing = some (c, n) → s.fuses.counts[Fin.ofNat 8 c] ≤ n

/-- Engine `te` and its memory are in order: the power domain is on, the engine is not isolated, and no wrong bits are stored in
the on-chip memories. -/
abbrev Machine.State.EngineClean (s : State) (te : Nat) : Prop :=
  s.domainOn (domainOf (.te (Fin.ofNat 64 te))) = true ∧ s.isIsolated (.te (Fin.ofNat 64 te)) = false ∧ s.sramDamage = []

/-- Engine `te` runs with nothing in flight: no WAIT holds it, no command that has started waits or runs, and its memory is in
order. -/
abbrev Machine.State.EngineQuiet (s : State) (te : Nat) : Prop :=
  s.tenState te = 1 ∧ (s.eng te).waiting = none ∧ (s.eng te).quiet = true ∧ s.EngineClean te

/-- Tile commands: the engine, the header, the wrong bits of an array, and the command (R99, R103). -/
def Instr.tileOf : Instr → Option (Fin 64 × TileHdr × List ArrayUpset × Machine.TileOp)
  | .tileNop te h => some (te, h, [], .nop)
  | .ldw te h a => some (te, h, [], .ldw a)
  | .lda te h a => some (te, h, [], .lda a)
  | .mma te h a upset => some (te, h, upset, .mac false a)
  | .mmas te h a upset => some (te, h, upset, .mac true a)
  | .vopAdd te h a => some (te, h, [], .vop (vopCode .add) a)
  | .vopSub te h a => some (te, h, [], .vop (vopCode .sub) a)
  | .vopMul te h a => some (te, h, [], .vop (vopCode .mul) a)
  | .vopFma te h a => some (te, h, [], .vop (vopCode .fma) a)
  | .vopMax te h a => some (te, h, [], .vop (vopCode .max) a)
  | .vopMin te h a => some (te, h, [], .vop (vopCode .min) a)
  | .vopAbs te h a => some (te, h, [], .vop (vopCode .abs) a)
  | .vopNeg te h a => some (te, h, [], .vop (vopCode .neg) a)
  | .vopDiv te h a => some (te, h, [], .vop (vopCode .div) a)
  | .vopSqrt te h a => some (te, h, [], .vop (vopCode .sqrt) a)
  | .vopExp2 te h a => some (te, h, [], .vop (vopCode .exp2) a)
  | .vopLog2 te h a => some (te, h, [], .vop (vopCode .log2) a)
  | .vopRcp te h a => some (te, h, [], .vop (vopCode .rcp) a)
  | .vopRsqrt te h a => some (te, h, [], .vop (vopCode .rsqrt) a)
  | .vopTanh te h a => some (te, h, [], .vop (vopCode .tanh) a)
  | .vopCvt te h a => some (te, h, [], .vop (vopCode .cvt) a)
  | .vopCmplt te h a => some (te, h, [], .vop (vopCode .cmplt) a)
  | .vopSel te h a => some (te, h, [], .vop (vopCode .sel) a)
  | .vopAnd te h a => some (te, h, [], .vop (vopCode .and) a)
  | .vopOr te h a => some (te, h, [], .vop (vopCode .or) a)
  | .vopXor te h a => some (te, h, [], .vop (vopCode .xor) a)
  | .vopShl te h a => some (te, h, [], .vop (vopCode .shl) a)
  | .vopShr te h a => some (te, h, [], .vop (vopCode .shr) a)
  | .vopTrn te h a => some (te, h, [], .vop (vopCode .trn) a)
  | .vopCpy te h a => some (te, h, [], .vop (vopCode .cpy) a)
  | .vopLds te h a => some (te, h, [], .vop (vopCode .lds) a)
  | .vredSum te h a => some (te, h, [], .vred .sum a)
  | .vredSumsq te h a => some (te, h, [], .vred .sumsq a)
  | .vredMax te h a => some (te, h, [], .vred .max a)
  | .vredMin te h a => some (te, h, [], .vred .min a)
  | .vredAmax te h a => some (te, h, [], .vred .amax a)
  | .vredArgmax te h a => some (te, h, [], .vred .argmax a)
  | .qnt te h a => some (te, h, [], .qnt a)
  | .dqn te h a => some (te, h, [], .dqn a)
  | .sto te h a => some (te, h, [], .sto a)
  | .engineDma te h a => some (te, h, [], .dma a)
  | .waitSem te h a => some (te, h, [], .wait a)
  | .sigSem te h a => some (te, h, [], .sig a)
  | .fence te h a => some (te, h, [], .fence a)
  | .chkCrc te h a => some (te, h, [], .chkCrc a)
  | .chkSelftest te h => some (te, h, [], .chkSelf)
  | .kvlRead te h a => some (te, h, [], .kvl false a)
  | .kvlAppend te h a => some (te, h, [], .kvl true a)
  | _ => none

/-- A tile command of a quiet engine that breaks no encoding rule and names no row beyond the accumulator region (R97, R100). -/
abbrev Machine.State.MayRun (s : State) (te : Nat) (h : TileHdr) (o : TileOp) : Prop :=
  s.EngineQuiet te ∧ o.valid h = true ∧ ∀ r, o.rows h.arym = some r → r.2 ≤ s.accRows te

/-- The lane codes of `n` vectors at granule `g` of engine memory. -/
def Machine.State.lanes (s : State) (te g lane n : Nat) : List Nat :=
  unpack (laneCode lane) (n * laneCount lane) (s.bytes (engineAt te + g * 16) (256 * n))

/-- The rows that read a submission entry of a ring: the context, the ring, and the entries the row takes, by KIND and by byte
34, which tells CTX_BIND from its reverse (R186). -/
def Instr.entryOf : Instr → Option (Fin 32 × Fin 8 × (Nat → Nat → Bool))
  | .nop n r => some (n, r, fun kind _ => Nat.beq kind 0x00 || !(entryKinds.contains kind))
  | .job n r => some (n, r, fun kind _ => Nat.beq kind 0x01)
  | .modelLoad n r => some (n, r, fun kind _ => Nat.beq kind 0x02)
  | .modelUnload n r => some (n, r, fun kind _ => Nat.beq kind 0x03)
  | .kvMap n r => some (n, r, fun kind _ => Nat.beq kind 0x10)
  | .kvFork n r => some (n, r, fun kind _ => Nat.beq kind 0x11)
  | .kvUnmap n r => some (n, r, fun kind _ => Nat.beq kind 0x12)
  | .ctxCreate n r => some (n, r, fun kind _ => Nat.beq kind 0x20)
  | .ctxReset n r => some (n, r, fun kind _ => Nat.beq kind 0x21)
  | .ctxDestroy n r => some (n, r, fun kind _ => Nat.beq kind 0x22)
  | .ringFlush n r => some (n, r, fun kind _ => Nat.beq kind 0x23)
  | .dirtyHarvest n r => some (n, r, fun kind _ => Nat.beq kind 0x24)
  | .partSet n r => some (n, r, fun kind _ => Nat.beq kind 0x28)
  | .ctxBind n r => some (n, r, fun kind op => Nat.beq kind 0x29 && !(Nat.beq op 1))
  | .ctxUnbind n r => some (n, r, fun kind op => Nat.beq kind 0x29 && Nat.beq op 1)
  | _ => none

/-- Nothing but registers, the records of configuration errors of blocks without a bit for them, and the answer differs. -/
abbrev OnlyRegs (s t : State) : Prop := t = { s with regs := t.regs, cfgMarks := t.cfgMarks, reply := t.reply }

end Sys2Proof
end

