-- ==== Sys2Proof/WellFormed.lean ====
section
/-!
DEFINITION. Which commands say something that can happen.  An operand whose type is a number or a list can name more than the
port, the bus or the wire can carry; such a command is ill-formed.  The meanings are total and take ill-formed commands as
well; statements that need the bounds assume them.
-/

namespace Sys2Proof

/-- An access of 1 to `max` bytes at `a` that stays in one block of `max` bytes. -/
def inBlock (a len max : Nat) : Bool := Nat.ble 1 len && Nat.ble (a % max + len) max

/-- The vectors of upsets lie within the command. -/
def upsetsWithin (m : Nat) (us : List ArrayUpset) : Bool := us.all fun u => Nat.blt u.vec m

/-- The primitives of a render pass name tiles of a raster of at most 16,384 × 16,384 pixels, each tile once. -/
def primOk (p : Prim) : Bool := decide p.tiles.Nodup && p.tiles.all fun t => Nat.blt t 0x40000

/-- The bytes of an XL frame, an FD frame or a classic frame (R432). -/
def canLengths (fmt : Nat) : List Nat :=
  match fmt with
  | 0 => [0, 1, 2, 3, 4, 5, 6, 7, 8]
  | 1 => [0, 1, 2, 3, 4, 5, 6, 7, 8, 12, 16, 20, 24, 32, 48, 64]
  | _ => []

/-- The word is an LKSYNC: opcode 0x2B with funct3 0, whatever its reserved fields hold (R368). -/
def lksyncWord (w : Word) : Bool := Nat.beq (w.toNat % 0x80) 0x2B && Nat.beq (w.toNat / 0x1000 % 8) 0

/-- What an access, a packet or a frame of the command can carry. -/
def Instr.wellFormed : Instr → Bool
  | .registerWrite _ _ width _ => [1, 2, 4].contains width
  | .mma _ _ a us => upsetsWithin a.m.toNat us
  | .mmas _ _ a us => upsetsWithin a.m.toNat us
  | .engineCommandFetch _ us => upsetsWithin 0x10000 us
  | .ddrPartialWrite _ addr data _ _ => inBlock addr.toNat data.length 64
  | .sramNarrowWrite _ addr data _ => inBlock addr.toNat data.length 8
  | .guardedAccess _ _ addr len => inBlock addr.toNat len 4096
  | .flitParityError _ _ flit => Nat.ble flit.held.length 64
  | .lksyncLock _ w => lksyncWord w
  | .lksyncSplit _ w => lksyncWord w
  | .heathSplit _ w => lksyncWord w
  | .heathTriple _ w => lksyncWord w
  | .csiLongPacket _ _ _ payload arrival => Nat.blt payload.length 0x10000 && Nat.ble arrival.fill 0x20000
  | .renderPass _ batches writes => (batches.all fun b => b.all primOk) && writes.all fun w => Nat.blt w.1 (2 ^ 48)
  | .dispatch _ writes => writes.all fun w => Nat.blt w.1 (2 ^ 48)
  | .ethFrameReceived _ _ _ bytes _ _ => Nat.ble 14 bytes.length && Nat.ble bytes.length 9600
  | .canFrameReceived _ f =>
    if Nat.beq (f.fmt.toNat % 4) 2 then Nat.ble 1 f.data.length && Nat.ble f.data.length 2048
    else (canLengths (f.fmt.toNat % 4)).contains f.data.length
  | .pcieInboundRequest _ write _ iova data len =>
    inBlock iova.toNat len 4096 && (if write then Nat.beq data.length len else data.isEmpty)
  | .xspiEraseSector size => [0x1000, 0x8000, 0x10000, 0x40000].contains size
  | .xspiReadSfdp sfdp => Nat.ble sfdp.length 0x1000000
  | .audioBufferDone _ _ samples => Nat.beq (samples.length % 4) 0
  | _ => true

end Sys2Proof
end

