-- ==== Sys2Proof/Certificates/Slice0/Obligations.lean ====
section
/-!
DEFINITION. The statements for the provers.
-/

open Sys2Proof Sys2Proof.Machine

/-- A step takes the command at the front of the queue and runs it with the rest of the queue; with no command waiting nothing
changes (log entry 12, the model's choice). -/
def Obligations.StepRunsFrontCommand : Prop :=
  (∀ (c : Instr) (s : State), step { s with pending := c :: s.pending } = exec c s) ∧
  (∀ (c : Instr) (s : State), ∃ t, exec c s = .next t) ∧
  ∀ s : State, s.pending = [] → step s = .next s

/-- R11: a read of an RC field returns the value and then sets it to 0; the row's register is otherwise unchanged, and so is
everything else. -/
def Obligations.CountersClearOnRead : Prop :=
  ∀ (i : Instr) (s : State) (req : Req) (a : Nat), i.countReadOf = some (req, a) → s.Grants req .read a →
    (∃ f ∈ regFields a, f.acc = .rc) ∧
    ∃ t, exec i s = .next t ∧ OnlyRegs s t ∧ t.reply = { resp := .okay, data := leBytes 4 (s.reg a).toNat } ∧
      (∀ b, b ≠ a → t.reg b = (s.relabel req).reg b) ∧
      ∀ f ∈ regFields a, t.fld a f.fld = if f.acc = .rc then 0 else s.fld a f.fld

/-- A row that names a register write is that write of REGISTER_WRITE: the dispatch by address finds the row's effect. -/
def Obligations.RowsAreRegisterWrites : Prop :=
  ∀ (i : Instr) (s : State) (req : Req) (a : Nat) (w : Word), i.writeOf = some (req, a, w) →
    exec i s = exec (.registerWrite req (BitVec.ofNat 48 a) 4 w) s

/-- R9, R323, R391: a refused register access changes no register; a refused read carries all-zero data.  R332: a label that the
port replaces is shown all the same. -/
def Obligations.RefusedRegisterAccess : Prop :=
  ∀ (i : Instr) (s : State) (req : Req) (ty : AccType) (a : Nat), i.accessOf = some (req, ty, a) →
    s.straight req (decide (ty = .write)) a = true → ¬ s.Grants req ty a →
    (∃ e, (e = Resp.decode ∨ e = Resp.guard) ∧
      exec i s = .next { s.relabel req with reply := { resp := e, data := if ty = .read then List.replicate 4 0#8 else [] } }) ∧
    (s.relabel req).flag Reg.SLU_STATUS Fld.SLU_STATUS_RELABEL =
      (s.flag Reg.SLU_STATUS Fld.SLU_STATUS_RELABEL || s.relabelled req) ∧
    ∀ b, b ≠ Reg.SLU_STATUS → (s.relabel req).reg b = s.reg b

/-- The writers that the blocks permit, row by row (mayWrite), and GUARD for the others. -/
def Obligations.RegisterRowsByWriter : Prop :=
  ∀ (i : Instr) (s : State) (req : Req) (a : Nat) (w : Word), i.writeOf = some (req, a, w) →
    s.straight req true a = true → s.Answers req a →
    if i.mayWrite s (s.issued req) then ∃ t, exec i s = .next t ∧ t.reply = { resp := .okay, data := [] }
    else exec i s = .next { s.relabel req with reply := { resp := .guard, data := [] } }

/-- R10, R11, R14: what a write leaves in each field, by its access type. -/
def Obligations.PlainRegistersFollowAccessTypes : Prop :=
  ∀ (s : State) (req : Req) (a : Nat) (w : Word), a ∈ plainRegs → s.Grants req .write a →
    ∃ t, exec (.registerWrite req (BitVec.ofNat 48 a) 4 w) s = .next t ∧ OnlyRegs s t ∧
      t.reply = { resp := .okay, data := [] } ∧
      (∀ f ∈ regFields a,
        (f.acc = .ro ∨ f.acc = .rc → t.fld a f.fld = s.fld a f.fld) ∧
        (f.acc = .rw → t.fld a f.fld = if f.vals = [] ∨ f.fld.get w ∈ f.vals then f.fld.get w else f.reset) ∧
        (f.acc = .rwl → t.fld a f.fld = if s.locked a then s.fld a f.fld else f.fld.get w) ∧
        (f.acc = .w1c → ∀ k, bitAt (t.fld a f.fld) k = (bitAt (s.fld a f.fld) k && !bitAt (f.fld.get w) k)) ∧
        (f.acc = .w1s → ∀ k, bitAt (t.fld a f.fld) k = (bitAt (s.fld a f.fld) k || bitAt (f.fld.get w) k)) ∧
        (f.acc = .wo → t.fld a f.fld = 0)) ∧
      (∀ k < 32, (∀ f ∈ regFields a, k < f.fld.lo ∨ f.fld.hi < k) → bitAt (t.reg a).toNat k = false) ∧
      ∀ b, b ≠ a → (∀ r, cfgErrAt a = some r → reservedValue (regFields a) w = true → b ≠ r.1) → t.reg b = (s.relabel req).reg b

/-- R9: an access of another width, or a misaligned one, receives an error response and changes no register. -/
def Obligations.NarrowRegisterAccess : Prop :=
  ∀ (s : State) (req : Req) (addr : BitVec 48) (width : Nat) (w : Word), s.place addr.toNat = .register →
    s.straight req true addr.toNat = true → s.Answers req addr.toNat → s.regAdmits (s.issued req) true addr.toNat = true → width ≠ 4 ∨ addr.toNat % 4 ≠ 0 →
    exec (.registerWrite req addr width w) s = .next { s.relabel req with reply := { resp := .decode, data := [] } }

/-- R29: an access to an unmapped address, and a write to a read-only region. -/
def Obligations.DecodeErrorIsLogged : Prop :=
  ∀ (s : State) (req : Req) (type : AccType) (addr : BitVec 48),
    (s.place addr.toNat = .unmapped ∨
      ((s.place addr.toNat = .bootRom ∨ s.place addr.toNat = .dagiesk) ∧ (type = .write ∨ type = .amo)) ∨
      (s.place addr.toNat = .bootRom ∧ s.worldOf req.ini = false)) →
    s.mute req.ini = false → (s.issued req).ini ∉ s.linkLost → (req.ini = .debugModule → s.debugOn = true) →
    ∃ t, exec (.decodeErrorAccess req type addr) s = .next t ∧
      t = { s with regs := t.regs, errs := t.errs, reply := { resp := .decode, data := [] } } ∧
      t.errs = s.errs ++
        [{ unit := .mrc, sub := 0, sev := sevCE, code := 0, path := 2 ^ 64 - 1,
           info := addr.toNat + (iidOf (s.issued req).ini).toNat * 2 ^ 48 + (s.worldOf req.ini).toNat * 2 ^ 58 }] ∧
      (∀ a, a ≠ Reg.MRC_ELOG_LO → a ≠ Reg.MRC_ELOG_HI → t.reg a = (s.relabel req).reg a) ∧
      if s.flag Reg.MRC_ELOG_HI Fld.MRC_ELOG_HI_VALID then
        t.reg Reg.MRC_ELOG_LO = s.reg Reg.MRC_ELOG_LO ∧ t.reg Reg.MRC_ELOG_HI = s.reg Reg.MRC_ELOG_HI
      else
        t.fld Reg.MRC_ELOG_LO Fld.MRC_ELOG_LO_ADDR_LO = addr.toNat % 2 ^ 32 ∧
        t.fld Reg.MRC_ELOG_HI Fld.MRC_ELOG_HI_ADDR_HI = addr.toNat / 2 ^ 32 ∧
        t.fld Reg.MRC_ELOG_HI Fld.MRC_ELOG_HI_IID = (iidOf (s.issued req).ini).toNat ∧
        t.fld Reg.MRC_ELOG_HI Fld.MRC_ELOG_HI_W = (s.worldOf req.ini).toNat ∧
        t.fld Reg.MRC_ELOG_HI Fld.MRC_ELOG_HI_VALID = 1

/-- An invariant of every step: registers, memory and flash keep their canonical form. -/
def Obligations.CanonicalFormKept : Prop :=
  ∀ s t : State, s.canonical = true → step s = .next t → t.canonical = true

/-- The two invariants hold at reset (the fuses of State.reset are log entry 3). -/
def Obligations.ResetIsCanonical : Prop := State.reset.canonical = true ∧ State.reset.FusesInOrder

/-- An invariant of every step: permanent fuses are permanent (R3, R408, R476, R478, R502). -/
def Obligations.FusesNeverGoBack : Prop :=
  ∀ s t : State, s.FusesInOrder → step s = .next t →
    t.FusesInOrder ∧ s.fuses.lifecycle ≤ t.fuses.lifecycle ∧ s.fuses.inForce ≤ t.fuses.inForce ∧
      (∀ k, bitAt s.fuses.revoked k = true → bitAt t.fuses.revoked k = true) ∧
      (∀ c : Fin 8, s.fuses.counts[c] ≤ t.fuses.counts[c]) ∧ s.fuses.wear ≤ t.fuses.wear ∧
      t.fuses.hybrid = s.fuses.hybrid ∧ t.fuses.keyprog = s.fuses.keyprog

/-- R408: the advance, its refusal, and when it applies. -/
def Obligations.LifecycleAdvances : Prop :=
  (∀ (s : State) (req : Req) (w : Word), s.FusesInOrder → s.Grants req .write Reg.BOOT_LCS →
    let target := Fld.BOOT_LCS_TARGET.get w
    if Fld.BOOT_LCS_CODE.get w = 0x4C43 ∧ s.fuses.lifecycle < target ∧ target ≤ 2 then
      ∃ t, exec (.lifecycleAdvance req w) s = .next t ∧ t.fuses = { s.fuses with lifecycle := target } ∧
        t.fld Reg.BOOT_LCS Fld.BOOT_LCS_PENDING = 1 ∧ t.fld Reg.BOOT_LCS Fld.BOOT_LCS_STATE = s.fld Reg.BOOT_LCS Fld.BOOT_LCS_STATE ∧
        (∀ n < 16, (t.hart n).halted = false ∧ (t.hart n).haltWaits = false) ∧ t.mem = s.mem ∧
        ∀ n : Fin 16, exec (.debugHalt n) t = .next t
    else exec (.lifecycleAdvance req w) s =
      .next ((if target = 3 then (s.relabel req).cfgErr Reg.BOOT_LCS else s.relabel req).answer .okay [])) ∧
  ∀ s : State, s.FusesInOrder → ∃ t, exec .porN s = .next t ∧ t.fuses.inForce = s.fuses.lifecycle ∧
    t.fuses.lifecycle = s.fuses.lifecycle ∧ t.fld Reg.BOOT_LCS Fld.BOOT_LCS_STATE = s.fuses.lifecycle ∧
    t.fld Reg.BOOT_LCS Fld.BOOT_LCS_PENDING = 0

/-- R478, but for permanence, which FusesNeverGoBack states for every command. -/
def Obligations.KeyRevocation : Prop :=
  ∀ (s : State) (req : Req) (w : Word), s.Grants req .write Reg.BOOT_KEYREV → s.fuses.revoked < 16 →
    let revoked := s.fuses.revoked ||| Fld.BOOT_KEYREV_REV.get w
    ∃ t, exec (.keyRevoke req w) s = .next t ∧ t.reply = { resp := .okay, data := [] } ∧ t.mem = s.mem ∧
      if Fld.BOOT_KEYREV_REV.get w = 0 then t = (s.relabel req).answer .okay []
      else if s.fuses.inForce = 0 ∨ revoked = 15 then
        t.fuses = s.fuses ∧ t.fld Reg.BOOT_FUSE Fld.BOOT_FUSE_CFG_ERR = 1 ∧ ∀ a, a ≠ Reg.BOOT_FUSE → t.reg a = (s.relabel req).reg a
      else
        t.fuses = { s.fuses with revoked := revoked } ∧ t.fld Reg.BOOT_KEYREV Fld.BOOT_KEYREV_REV = revoked ∧
          ∀ a, a ≠ Reg.BOOT_KEYREV → t.reg a = (s.relabel req).reg a

/-- R477: a commit begins, and ends. -/
def Obligations.AntiRollbackCommit : Prop :=
  (∀ (s : State) (req : Req) (w : Word), s.Grants req .write Reg.BOOT_ARB_COMMIT →
    let c := Fld.BOOT_ARB_COMMIT_CLASS.get w
    let target := min 64 (if c < 6 then s.fld (Reg.BOOT_ARB c) Fld.BOOT_ARB_RUN_SVN else Fld.BOOT_ARB_COMMIT_SVN.get w)
    ∃ t, exec (.arbCommit req w) s = .next t ∧ t.fuses = s.fuses ∧ t.mem = s.mem ∧
      if s.flag Reg.BOOT_ARB_COMMIT Fld.BOOT_ARB_COMMIT_BUSY then
        t.rom = s.rom ∧ t.fld Reg.BOOT_FUSE Fld.BOOT_FUSE_CFG_ERR = 1
      else if Fld.BOOT_ARB_COMMIT_GO.get w = 1 ∧ s.fuses.counts[Fin.ofNat 8 c] < target then
        t.rom = { s.rom with blowing := some (c, target) } ∧ t.fld Reg.BOOT_ARB_COMMIT Fld.BOOT_ARB_COMMIT_BUSY = 1
      else t.rom = s.rom) ∧
  ∀ (s : State) (c n : Nat), s.rom.blowing = some (c, n) → c < 8 → n ≤ 64 →
    ∃ t, exec .arbCommitDone s = .next t ∧ t.fuses = { s.fuses with counts := s.fuses.counts.set (Fin.ofNat 8 c) n } ∧
      t.rom = { s.rom with blowing := none } ∧ t.fld (Reg.BOOT_ARB c) Fld.BOOT_ARB_COUNT = n ∧
      t.fld Reg.BOOT_ARB_COMMIT Fld.BOOT_ARB_COMMIT_BUSY = 0 ∧ t.mem = s.mem

/-- R465, R467, R468: the steps of the ROM before the images of classes 1 to 5; R46 to R49: the table it builds. -/
def Obligations.BootRomSteps : Prop :=
  (∀ s : State, s.rom.running = true → s.rom.warm = false → s.rom.heathOnly = false → s.rom.dir = none → s.rom.dirTry < 2 →
    let dir := SMap.getMany flashDflt s.flash (s.rom.dirTry * 0x10000) 256
    let bad (t : State) : Prop :=
      if s.rom.dirTry = 0 then t.rom = { s.rom with dirTry := 1 } ∧ t.fld Reg.BOOT_STATUS Fld.BOOT_STATUS_STAGE = 1
      else t.rom.running = false ∧ t.heath.halted = true ∧ t.fld Reg.BOOT_STATUS Fld.BOOT_STATUS_STAGE = 3 ∧
        t.fld Reg.BOOT_STATUS Fld.BOOT_STATUS_FAILMASK = 0x3F
    (∃ t, exec .bootFlashReadDone s = .next t ∧ t.mem = s.mem ∧ t.fuses = s.fuses ∧
      if crc32 (dir.take 252) = fieldAt dir 252 4 then
        t.rom = { s.rom with dir := some dir, cls := 0, second := false } ∧ t.fld Reg.BOOT_STATUS Fld.BOOT_STATUS_STAGE = 2
      else bad t) ∧
    ∃ t, exec .bootFlashTimeout s = .next t ∧ t.mem = s.mem ∧ t.fuses = s.fuses ∧ bad t) ∧
  (∀ (s : State) (ok : Bool) (n : Fin 9) (rate dens : Fin 3) (x8 : Bool) (ranks : Fin 3), s.awaitsDdr = true →
    (ok = true → populationOk n dens ranks x8 = true) →
    ∃ t, exec (.ddrTrainingDone ok n rate dens x8 ranks) s = .next t ∧ t.dgkBuilt = true ∧
      t.fld Reg.BOOT_DGK_STATUS Fld.BOOT_DGK_STATUS_READY = 1 ∧ t.fld Reg.BOOT_DGK_STATUS Fld.BOOT_DGK_STATUS_CRC_OK = 1 ∧
      t.fld Reg.BOOT_STATUS Fld.BOOT_STATUS_STAGE = 5 ∧ t.rom.trained = ok ∧ t.mem = s.mem ∧
      if ok then
        t.rom.cls = 1 ∧ ∀ k < n.val, t.fld (Reg.DMC_CFG k) Fld.DMC_CFG_RATE = rate ∧ t.fld (Reg.DMC_CFG k) Fld.DMC_CFG_DENS = dens ∧
          t.fld (Reg.DMC_CFG k) Fld.DMC_CFG_WIDTH = x8.toNat ∧ t.fld (Reg.DMC_CFG k) Fld.DMC_CFG_RANKS = ranks ∧
          t.fld (Reg.DMC_STATUS k) Fld.DMC_STATUS_READY = 1
      else t.rom.cls = 2 ∧ bitAt (t.fld Reg.BOOT_STATUS Fld.BOOT_STATUS_FAILMASK) 1 = true ∧ t.rom.ddrFailed = true) ∧
  (∀ cap ranks : Nat, let t := dgkTable cap ranks
    t.take 4 = [0x44#8, 0x47#8, 0x53#8, 0x4B#8] ∧ fieldAt t 4 1 = 1 ∧ fieldAt t 6 2 = 64 ∧ fieldAt t 8 4 = t.length ∧
      fieldAt t 12 4 = (dgkRecords cap ranks).length ∧ t.length % 8 = 0 ∧ t.length < 60 * 1024 ∧
      fieldAt t 16 4 = crc32 (t.take 16 ++ List.replicate 4 0#8 ++ t.drop 20) ∧
      (∀ r ∈ dgkRecords cap ranks, r.body.length % 8 = 0 ∧ ∀ p, r.parent = some p → p < (dgkRecords cap ranks).length) ∧
      ((dgkRecords cap ranks).map (·.type)).Pairwise (· ≤ ·) ∧ (dgkRecords cap ranks).getLast? = some { type := 0xFFFF, parent := none, body := [] }) ∧
  ∀ n : Nat, recordId n < recordId (n + 1)

/-- R465, R480, R383: the release of application harts. -/
def Obligations.HartRelease : Prop :=
  ∀ (s : State) (req : Req) (w : Word) (entry : BitVec 64), s.Grants req .write Reg.BOOT_HARTREL → s.rom.entries[1] = some entry →
    s.flag Reg.WGD_STATUS Fld.WGD_STATUS_FAILED = false → (∀ d, 33 ≤ d → d < 37 → s.domainOn d = true) →
    ∃ t, exec (.hartRelease req w) s = .next t ∧
      (∀ n, 1 ≤ n → n < 16 →
        bitAt (t.reg Reg.BOOT_HARTREL).toNat n = (bitAt (s.reg Reg.BOOT_HARTREL).toNat n || bitAt w.toNat n)) ∧
      (∀ n < 16, if 1 ≤ n ∧ bitAt w.toNat n = true ∧ bitAt (s.reg Reg.BOOT_HARTREL).toNat n = false then
          t.hart n = { Hart.reset with pc := entry, stopped := false } ∧ t.hartW n = true
        else t.hart n = s.hart n ∧ t.hartW n = s.hartW n) ∧
      t.mem = s.mem ∧ t.fuses = s.fuses

/-- R505, R506, R13: what the resets of the whole device leave. -/
def Obligations.WholeDeviceResets : Prop :=
  (∀ s : State, ∃ t, exec .porN s = .next t ∧
    t = { State.reset with pending := s.pending, flash := s.flash, fuses := t.fuses, regs := t.regs, ticks := t.ticks } ∧
    ∀ a, a ∉ [Reg.BOOT_LCS, Reg.BOOT_FUSE, Reg.BOOT_KEYREV, Reg.THM_WEAR_H, Reg.THM_STATUS] → (∀ c < 8, a ≠ Reg.BOOT_ARB c) →
      t.reg a = regReset a) ∧
  let warm (s t : State) (cause : Fld) : Prop :=
    (∀ a, ddrBase ≤ a → (∀ l ∈ s.dirtyLines, a < l ∨ l + 64 ≤ a) →
      t.byte a = s.byte a) ∧
    (∀ a, domainOfReg a = some 0 → a ∉ [Reg.THM_WEAR_H, Reg.THM_STATUS] → t.reg a = s.reg a) ∧
    t.fld Reg.PWR_RSTCAUSE cause = 1 ∧
    (∀ f ∈ [Fld.PWR_RSTCAUSE_POR, Fld.PWR_RSTCAUSE_PIN_WARM, Fld.PWR_RSTCAUSE_SW_WARM], f ≠ cause →
      t.fld Reg.PWR_RSTCAUSE f = s.fld Reg.PWR_RSTCAUSE f) ∧
    (∀ d < 41, t.domainState d = 2 ∧ t.fld (Reg.PWR_DOM d) Fld.PWR_DOM_ON = 1) ∧
    t.ctxs = State.reset.ctxs ∧ t.engines = State.reset.engines ∧ t.parts = State.reset.parts ∧ t.jobs = [] ∧ t.models = [] ∧
    t.streams = State.reset.streams ∧ t.gq = State.reset.gq ∧ t.heads = State.reset.heads ∧ t.gw = State.reset.gw ∧
    t.rom.running = true ∧ t.rom.warm = true ∧ t.tb = s.tb ∧ t.therm = s.therm ∧ t.pending = s.pending
  (∀ s : State, ∃ t, exec .warmRstN s = .next t ∧ warm s t Fld.PWR_RSTCAUSE_PIN_WARM) ∧
  ∀ (s : State) (req : Req) (w : Word), s.Grants req .write Reg.PWR_WARM →
    if Fld.PWR_WARM_GO.get w = 1 ∧ Fld.PWR_WARM_CODE.get w = 0x5752 then
      ∃ t, exec (.pwrWarmGo req w) s = .next t ∧ warm s t Fld.PWR_RSTCAUSE_SW_WARM
    else exec (.pwrWarmGo req w) s = .next ((s.relabel req).answer .okay [])

/-- R491 to R494: the states of a power domain. -/
def Obligations.PowerDomainTransitions : Prop :=
  ∀ (s : State) (d : Fin 41) (req : Req) (w : Word), domainSwitchable d = true →
    let only (r t : State) : Prop := OnlyRegs r t ∧ ∀ a, a ≠ Reg.PWR_DOM d → t.reg a = r.reg a
    (s.Grants req .write (Reg.PWR_DOM d) → Fld.PWR_DOM_RST.get w = 0 → Fld.PWR_DOM_ON.get w = 0 → s.domainState d = 2 →
      ∃ t, exec (.domainOffRequest d req w) s = .next t ∧ only (s.relabel req) t ∧ t.domainState d = 3 ∧ t.fld (Reg.PWR_DOM d) Fld.PWR_DOM_ON = 0) ∧
    (s.Grants req .write (Reg.PWR_DOM d) → Fld.PWR_DOM_RST.get w = 0 → Fld.PWR_DOM_ON.get w = 1 →
      ∃ t, exec (.domainOnRequest d req w) s = .next t ∧ only (s.relabel req) t ∧ t.fld (Reg.PWR_DOM d) Fld.PWR_DOM_ON = 1 ∧
        t.domainState d = if s.domainState d = 3 then 2 else if s.domainState d = 0 ∨ s.domainState d = 4 then 1 else s.domainState d) ∧
    (s.domainState d = 3 → s.heldOn d = false → s.domainIdle d = true →
      ∃ t, exec (.domainPowerDown d) s = .next t ∧ t.domainState d = 4 ∧ t.fld (Reg.PWR_DOM d) Fld.PWR_DOM_DEFERRED = 0) ∧
    (s.domainState d = 4 → ∃ t, exec (.domainOffDone d) s = .next t ∧ only s t ∧ t.domainState d = 0) ∧
    (s.domainState d = 1 → s.flag (Reg.PWR_DOM d) Fld.PWR_DOM_ON = true →
      ∃ u : State, exec (.domainOnDone d) s = .next u.settle ∧ u.domainState d = 2 ∧
        ∀ te < 64, d.val = 17 + te / 4 → ∀ a, engineAt te ≤ a → a < engineAt te + 0x200000 → u.byte a = 0#8) ∧
    (s.Grants req .write (Reg.PWR_DOM d) → Fld.PWR_DOM_RST.get w = 1 → Fld.PWR_DOM_ON.get w = 1 → domainReset d = 2 →
      s.domainState d = 2 → ∃ t, exec (.domainReset d req w) s = .next t ∧ t.domainState d = 5) ∧
    (s.domainState d = 5 → s.flag (Reg.PWR_DOM d) Fld.PWR_DOM_ON = true →
      ∃ u : State, exec (.domainResetDone d) s = .next u.settle ∧ u.domainState d = 2)

/-- R407, R526: instructions of the TAP. -/
def Obligations.BoundaryScanByLifecycle : Prop :=
  ∀ (s : State) (code : Byte),
    let ir := if 2 ≤ s.fuses.inForce ∧ code ∉ [0x00#8, 0x01#8, 0x02#8, 0xFF#8] then 0xFF#8 else code
    ∃ t, exec (.boundaryScanInstruction code) s = .next t ∧ t = { s with pins := { s.pins with tapIr := ir }, reply := t.reply } ∧
      t.reply = { resp := .okay, data := if ir = 0x01#8 then leBytes 4 0x1A880573 else [] }

/-- R97, R100 to R102: when a tile command starts, and what stops it at once. -/
def Obligations.TileCommandIssue : Prop :=
  ∀ (i : Instr) (s : State) (te : Fin 64) (h : TileHdr) (up : List ArrayUpset) (o : TileOp), i.tileOf = some (te, h, up, o) →
    let stops (cause : Nat) : Prop := ∃ u : State, exec i s = .next u.settle ∧ u.fld (Reg.TEN_STATUS te) Fld.TEN_STATUS_CAUSE = cause ∧
      u.fld (Reg.TEN_STATUS te) Fld.TEN_STATUS_FAULT_TAG = h.tag.toNat ∧ u.tenState te = 3 ∧
      ∃ r ∈ u.errs, r.unit = .te te ∧ r.code = cause
    (s.tenState te ≠ 1 → exec i s = .next s) ∧
    (∀ k n, s.tenState te = 1 → (s.eng te).waiting = some (k, n) → s.sem te k < n → (s.eng te).quiet = true →
      exec i s = .next s) ∧
    (s.EngineQuiet te → (s.eng te).job = none → o.valid h = false → stops 5) ∧
    ∀ r, s.EngineQuiet te → (s.eng te).job = none → o.valid h = true → o.rows h.arym = some r → s.accRows te < r.2 → stops 9

/-- R104, R105, R107: the vector unit. -/
def Obligations.VectorUnitCommands : Prop :=
  (∀ (i : Instr) (s : State) (te : Fin 64) (h : TileHdr) (op : Nat) (a : VopArgs), i.tileOf = some (te, h, [], .vop op a) →
    s.MayRun te h (.vop op a) →
    let lane := a.lane.toNat
    let n := a.n.toNat
    let va := s.lanes te a.srca.toNat lane n
    let scalar := (s.eng te).sregs[Fin.ofNat 16 a.srcb.toNat]
    let vb := if a.bsel then List.replicate (n * laneCount lane) (scalar.toNat % 2 ^ (laneFmt lane).bits) else s.lanes te a.srcb.toNat lane n
    let vc := s.lanes te a.srcc.toNat lane n
    if op = 0x19 then
      let c := (s.lanes te a.srca.toNat lane 1).headD 0
      let w := BitVec.ofNat 32 (if lane = 2 then unsignedOf 32 (signedOf 16 c) else c)
      exec i s = .next (s.setEng te { s.eng te with sregs := (s.eng te).sregs.set (Fin.ofNat 16 a.dst.toNat) w })
    else
      let r : List Byte × Nat :=
        if op = 0x0F then
          let x := ((elemFmt a.cfmt.toNat).getD fp32).convertAll a.rnd.toNat (s.ovfNan te) (va.map (laneFmt lane).decode)
          (pack a.cfmt.toNat x.1, x.2)
        else if op = 0x17 then
          (pack (laneCode lane) ((groups (32 * laneCount lane) (n / 32) va).flatMap (transpose (laneCount lane))), 0)
        else if op = 0x18 then (pack (laneCode lane) va, 0)
        else
          let x := laneOps op lane a.rnd.toNat (s.ovfNan te) va (if readsB op then vb else []) (if readsC op then vc else [])
          (pack (laneCode lane) x.1, x.2)
      exec i s = .next ((s.store (engineAt te + a.dst.toNat * 16) r.1).addFx te r.2)) ∧
  ∀ (i : Instr) (s : State) (te : Fin 64) (h : TileHdr) (k : VredKind) (a : VredArgs), i.tileOf = some (te, h, [], .vred k a) →
    s.MayRun te h (.vred k a) →
    let lane := a.lane.toNat
    let vs := groups (laneCount lane) a.n.toNat ((s.lanes te a.src.toNat lane a.n.toNat).map (laneFmt lane).decode)
    let lines := if a.axis then (List.range (laneCount lane)).map fun c => vs.map fun v => (v[c]?).getD (.fin false 0) else vs
    let rs := lines.map (reduce k (laneFloat lane) (s.ovfNan te) (!a.axis))
    exec i s = .next ((s.store (engineAt te + a.dst.toNat * 16) (rs.map fun r => leBytes 4 r.1).flatten).addFx te
      (rs.foldl (fun x r => x ||| r.2) 0))

/-- R105: lane results. -/
def Obligations.LaneResults : Prop :=
  (∀ (lane rnd : Nat) (ovf : Bool) (a b c : Nat), lane = 2 ∨ lane = 3 → let w := (laneFmt lane).bits
    a < 2 ^ w → b < 2 ^ w → c < 2 ^ w →
    let x := signedOf w a
    let y := signedOf w b
    let held (v : Int) : Nat × Nat :=
      if v < -(2 ^ (w - 1)) then (2 ^ (w - 1), 0x40) else if 2 ^ (w - 1) ≤ v then (2 ^ (w - 1) - 1, 0x40) else (unsignedOf w v, 0)
    let op (k : Nat) := laneOp k lane rnd ovf a b c
    op 0x00 = held (x + y) ∧ op 0x01 = held (x - y) ∧ op 0x02 = held (x * y) ∧ op 0x04 = held (max x y) ∧ op 0x05 = held (min x y) ∧
    op 0x06 = held x.natAbs ∧ op 0x07 = held (-x) ∧ op 0x10 = (if x < y then 1 else 0, 0) ∧ op 0x11 = (if c = 0 then b else a, 0) ∧
    op 0x12 = (a &&& b, 0) ∧ op 0x13 = (a ||| b, 0) ∧ op 0x14 = (a ^^^ b, 0) ∧ op 0x15 = (a * 2 ^ (b % w) % 2 ^ w, 0) ∧
    op 0x16 = (unsignedOf w (x / 2 ^ (b % w)), 0)) ∧
  (∀ (lane rnd : Nat) (ovf : Bool) (a b c : Nat), lane < 2 →
    let f := laneFmt lane
    let nan (k : Nat) : Prop := laneOp k lane rnd ovf a b c = (f.nanCode, fxNanIn)
    let na := (f.decode a).isNaN = true
    let nb := (f.decode b).isNaN = true
    (na → ∀ k ∈ [0x00, 0x01, 0x02, 0x03, 0x04, 0x05, 0x06, 0x07, 0x08, 0x09], nan k) ∧
    (nb → ∀ k ∈ [0x00, 0x01, 0x02, 0x03, 0x04, 0x05, 0x08], nan k) ∧ ((f.decode c).isNaN = true → nan 0x03) ∧
    (na ∨ nb → laneOp 0x10 lane rnd ovf a b c = (0, fxNanIn))) ∧
  (∀ (causal : Bool) (ntok rows i t : Nat), keyMasked causal (visibleKeys 0 ntok rows) (rowPosition 0 ntok i) t = false ↔
    t < ntok + rows ∧ (causal = true → t ≤ ntok + i)) ∧
  ∀ (exp2 : Val → Val × Nat) (ovf : Bool) (d : Nat) (blocks : List (List (Val × Bool) × (List Val → List Val → List Val × Nat × Bool))),
    (∀ b ∈ blocks, (∀ x ∈ b.1, x.2 = true) ∧ ∀ p o, (b.2 p o).1.length = o.length) →
    attendRow exp2 ovf d blocks = (List.replicate d (.fin false 0), .inf true, .fin false 0, 0)

/-- R64 to R66, R103, R119: block conversions, stores of rows, and the range check. -/
def Obligations.BlockCommands : Prop :=
  ∀ (s : State) (te : Fin 64) (h : TileHdr), let at_ (off : Nat) : Nat := engineAt te + off
    (∀ a : QntArgs, s.MayRun te h (.qnt a) → scaleAllows a.dscale.toNat a.dfmt.toNat = true →
      let sf := if a.sfmt then 0x02 else 0x00
      let nb := a.nb.toNat
      let bs := s.bytes (at_ (a.src.toNat * 16)) (packedBytes sf (32 * nb))
      let xs := groups 32 nb ((unpack sf (32 * nb) bs).map ((elemFmt sf).getD fp32).decode)
      let sb := scaleBytes a.dscale.toNat
      exec (.qnt te h a) s = .next ((List.range nb).foldl (fun u i =>
        let q := quantBlock a.dfmt.toNat a.dscale.toNat a.rnd.toNat (s.ovfNan te) ((xs[i]?).getD [])
        ((u.store (at_ (a.dst.toNat * 16 + i * packedBytes a.dfmt.toNat 32)) (pack a.dfmt.toNat q.2.1)).store
          (at_ (a.scl.toNat * 16 + i * sb)) (leBytes sb q.1)).addFx te q.2.2) s)) ∧
    (∀ a : DqnArgs, s.MayRun te h (.dqn a) → scaleAllows a.sscale.toNat a.sfmt.toNat = true →
      let sf := a.sfmt.toNat
      let sb := scaleBytes a.sscale.toNat
      let nb := a.nb.toNat
      let df := dqnFmt a.dfmt.toNat
      let codes := groups 32 nb (unpack sf (32 * nb) (s.bytes (at_ (a.src.toNat * 16)) (nb * packedBytes sf 32)))
      let sc := s.bytes (at_ (a.scl.toNat * 16)) (nb * sb)
      let vals := (codes.zip (List.range nb)).flatMap fun x => x.1.map (blockValue sf a.sscale.toNat (fieldAt sc (x.2 * sb) sb))
      let r := ((elemFmt df).getD fp32).convertAll 0 (s.ovfNan te) vals
      exec (.dqn te h a) s = .next ((s.store (at_ (a.dst.toNat * 16)) (pack df r.1)).addFx te r.2)) ∧
    (∀ a : StoArgs, s.MayRun te h (.sto a) → scaleAllows a.dscale.toNat a.dfmt.toNat = true →
      let df := a.dfmt.toNat
      let f := if a.acct then int32 else fp32
      let pitch := if a.dpitch.toNat = 0 then packedBytes df 32 else a.dpitch.toNat * 16
      let sb := scaleBytes a.dscale.toNat
      exec (.sto te h a) s = .next ((List.range a.nr.toNat).foldl (fun u i =>
        let row := at_ (s.rowAt te (a.acc.toNat + i))
        let d := u.bytes row 128
        let u1 := if a.clr then u.store row (List.replicate 128 0#8) else u
        let q := quantBlock df a.dscale.toNat a.rnd.toNat (s.ovfNan te) ((List.range 32).map fun n => f.decode (fieldAt d (4 * n) 4))
        ((u1.store (at_ (a.dst.toNat * 16 + i * pitch)) (pack df q.2.1)).store (at_ (a.scl.toNat * 16 + i * sb))
          (leBytes sb q.1)).addFx te q.2.2) s)) ∧
    ∀ a : ChkArgs, s.MayRun te h (.chkCrc a) →
      if crc32 (s.bytes (at_ (a.src.toNat * 16)) (a.ng.toNat * 16)) = leNat (s.bytes (at_ (a.exp.toNat * 16)) 4) then
        exec (.chkCrc te h a) s = .next s
      else (s.eng te).job = none → ∃ u : State, exec (.chkCrc te h a) s = .next u.settle ∧
        u.tenState te = 3 ∧ u.fld (Reg.TEN_STATUS te) Fld.TEN_STATUS_CAUSE = 7 ∧ u.fld (Reg.TEN_STATUS te) Fld.TEN_STATUS_FAULT_TAG = h.tag.toNat

/-- R84 to R86, R89, R91, R92, R112: what LDW and LDA bring to the arrays. -/
def Obligations.ArrayLoads : Prop :=
  ∀ (s : State) (te : Fin 64) (h : TileHdr), let bytes (off n : Nat) := s.bytes (engineAt te + off) n
    let e := s.eng te
    let arys := arraysOf h.arym
    let only (t : State) : Prop := t = { s with engines := t.engines } ∧ ∀ n : Fin 64, n ≠ te → t.eng n = s.eng n
    (∀ a : LdwArgs, s.MayRun te h (.ldw a) →
      let fmt := a.fmt.toNat
      let row := packedBytes fmt 32
      let sb := scaleBytes a.scale.toNat
      let nsc := if a.sparse then 64 else 32
      let base (j : Nat) := a.src.toNat * 16 + j * a.tstr.toNat * 16
      let words (j : Nat) := if a.sparse then (List.range 64).map fun i => fieldAt (bytes (base j + 32 * row) 256) (4 * i) 4 else []
      let tile (j : Nat) : WeightTile := WeightTile.withSums
        { fmt := a.fmt, scale := a.scale, sparse := a.sparse, words := words j, sums := [], wide := [],
          elems := (List.range 32).flatMap fun r => unpack fmt 32 (bytes (base j + r * row) row),
          scales := if sb = 0 then [] else (List.range nsc).map fun i =>
            leNat (bytes (a.scl.toNat * 16 + j * a.tstr.toNat * 16 + i * sb) sb) }
      let marked (i : Nat) : ArrayPipe := if i ∈ arys then { e.ary i with seen := true, fresh := (e.ary i).fresh + 1 } else e.ary i
      ((∀ j < arys.length, metadataOk (words j) = true) → (∀ i ∈ arys, (e.ary i).shadow = none) →
        ∃ t, exec (.ldw te h a) s = .next t ∧ only t ∧ (t.eng te).quiet = true ∧
          ∀ i < 4, (t.eng te).ary i = if i ∈ arys then { marked i with shadow := some (tile (arys.idxOf i)) } else e.ary i) ∧
      (∀ k x, arys = [k] → (e.ary k).shadow = some x →
        ∃ t, exec (.ldw te h a) s = .next t ∧ only t ∧ (t.eng te).loads = [{ seq := e.issued, hdr := h, args := a, left := [0] }] ∧
          ∀ i < 4, (t.eng te).ary i = marked i) ∧
      (metadataOk (words 0) = false → (∀ i ∈ arys, (e.ary i).shadow = none) → e.job = none →
        ∃ u : State, exec (.ldw te h a) s = .next u.settle ∧ u.fld (Reg.TEN_STATUS te) Fld.TEN_STATUS_CAUSE = 6)) ∧
    ∀ a : LdaArgs, s.MayRun te h (.lda a) → (∀ i ∈ arys, (e.ary i).queue.length + a.m.toNat ≤ 64) →
      let fmt := a.fmt.toNat
      let nv := if a.vlen then 2 else 1
      let sb := scaleBytes a.scale.toNat
      let vec (i : Nat) : ActVector :=
        { fmt := a.fmt, scale := a.scale,
          elems := unpack fmt (32 * nv) (bytes (a.src.toNat * 16 + i * a.pitch.toNat * 16) (packedBytes fmt (32 * nv))),
          scales := if sb = 0 then [] else (List.range nv).map fun b => leNat (bytes (a.scl.toNat * 16 + (i * nv + b) * sb) sb) }
      ∃ t, exec (.lda te h a) s = .next t ∧ only t ∧ (t.eng te).quiet = true ∧
        ∀ i < 4, (t.eng te).ary i = if i ∈ arys then { e.ary i with queue := (e.ary i).queue ++ (List.range a.m.toNat).map vec }
          else e.ary i

/-- R85, R86, R89, R90, R93, R94, R116: a matrix command on one array. -/
def Obligations.MatrixCommands : Prop :=
  ∀ (s : State) (te : Fin 64) (h : TileHdr) (sparse : Bool) (a : MmaArgs) (up : List ArrayUpset) (k : Nat),
    s.MayRun te h (.mac sparse a) → (s.eng te).wcheck = false → arraysOf h.arym = [k] →
    let i : Instr := if sparse then .mmas te h a up else .mma te h a up
    let e := s.eng te
    let p := e.ary k
    let stops (cause : Nat) : Prop := e.job = none → ∃ u : State, exec i s = .next u.settle ∧ u.tenState te = 3 ∧
      u.fld (Reg.TEN_STATUS te) Fld.TEN_STATUS_CAUSE = cause ∧ u.fld (Reg.TEN_STATUS te) Fld.TEN_STATUS_FAULT_TAG = h.tag.toNat
    (p.seen = false → stops 5) ∧
    ∀ t : WeightTile, p.seen = true → (if 0 < p.fresh then p.shadow else p.active) = some t →
      if t.sparse = sparse then
        let job : MacJob := { seq := e.issued, sparse, args := a, hdr := h, row := a.acc.toNat, done := 0, fresh := Nat.blt 0 p.fresh,
                              tile := some t, upsets := up, arm := p.selfTest }
        let started : ArrayPipe :=
          { p with shadow := if 0 < p.fresh then none else p.shadow, active := some t, fresh := p.fresh - 1, selfTest := false }
        (p.queue = [] → exec i s = .next (s.setEng te { e.setAry k { started with macs := [job] } with issued := e.issued + 1 })) ∧
        ∀ v vs path, p.queue = v :: vs → a.m.toNat = 1 → up = [] → job.refuses t v = false →
          passPath t.fmt.toNat t.scale.toNat v.fmt.toNat v.scale.toNat = some path →
          let found (b : Nat) (armed : Bool) := passCheck t v b path [] armed
          (∀ r, found 0 p.selfTest = .mismatch r → stops 1) ∧
          ((∀ b ∈ (if sparse then [0, 1] else [0]), ∀ armed, (armed = true → p.selfTest = true) →
              found b armed ∈ [PassCheck.skipped, PassCheck.good]) →
            let f := if a.acct then int32 else fp32
            let row := engineAt te + s.rowAt te a.acc.toNat
            let prev := if a.init then List.replicate 32 (.fin false 0) else
              (List.range 32).map fun n => f.decode (fieldAt (s.bytes row 128) (4 * n) 4)
            let r0 := passRow t v 0 path a.acct (s.ovfNan te) [] prev
            let r1 := passRow t v 1 path a.acct (s.ovfNan te) [] r0.1
            let r := if sparse then (r1.1, r0.2 ||| r1.2) else r0
            ∃ u : State, exec i s = .next u ∧
              u.mem = (s.store row (r.1.map fun x => leBytes 4 (f.convert x 0 false).1).flatten).mem ∧
              u.fld (Reg.TEN_FX te) Fld.TEN_FX_FX = s.fld (Reg.TEN_FX te) Fld.TEN_FX_FX ||| r.2 ∧
              (∀ b, b ≠ Reg.TEN_FX te → b ≠ Reg.TEN_CHK_SKIP te → u.reg b = s.reg b) ∧
              (∀ n : Fin 64, n ≠ te → u.eng n = s.eng n) ∧ (u.eng te).quiet = true ∧
              ((u.eng te).ary k).queue = vs ∧ ((u.eng te).ary k).active = some t ∧ ((u.eng te).ary k).shadow = started.shadow)
      else stops 5

/-- R99, R102, R110, R119, R163: control commands, DMA and the fetch of commands. -/
def Obligations.ControlCommands : Prop :=
  ∀ (s : State) (te : Fin 64) (h : TileHdr),
    (s.MayRun te h .nop → exec (.tileNop te h) s = .next s) ∧
    (∀ a : FenceArgs, s.MayRun te h (.fence a) → exec (.fence te h a) s = .next s) ∧
    (∀ a : SemArgs, s.MayRun te h (.wait a) → let v := s.sem te a.sem.toNat
      exec (.waitSem te h a) s = .next (if a.n.toNat ≤ v then s.setSem te a.sem.toNat (v - a.n.toNat)
        else s.setEng te { s.eng te with waiting := some (a.sem.toNat, a.n.toNat) })) ∧
    (∀ a : SemArgs, s.MayRun te h (.sig a) → let v := s.sem te a.sem.toNat + a.n.toNat
      ∃ t : State, exec (.sigSem te h a) s = .next t ∧ t.sems = (s.setSem te a.sem.toNat (min v 65535)).sems ∧
        (v ≤ 65535 → t = s.setSem te a.sem.toNat v) ∧ (65535 < v → t.fwlSeq = s.fwlSeq + 1)) ∧
    (s.MayRun te h .chkSelf → ∃ t : State, exec (.chkSelftest te h) s = .next t ∧ t = { s with engines := t.engines } ∧
      ∀ n < 64, ∀ j < 4, (t.eng n).ary j =
        if n = te.val ∧ bitAt h.arym.toNat j = true then { (s.eng n).ary j with selfTest := true } else (s.eng n).ary j) ∧
    (∀ (a : KvlArgs) (append : Bool) (area : KvArea) (geo : KvGeom),
      let n := s.fld (Reg.TEN_JOB te) Fld.TEN_JOB_CTX
      let e := s.eng te
      s.MayRun te h (.kvl append a) → s.kvArea n = some area → (s.ctx n).kvGeom = some geo →
      a.seq.toNat < area.maxSeq → a.ntok.toNat ≤ geo.maxtok → (append = true → a.ntok.toNat ≠ geo.maxtok) →
      let w : KvWindow := { loaded := true, seq := a.seq.toNat, ntok := a.ntok.toNat, append, granted := false }
      let s1 := s.setEng te { e with kvWins := e.kvWins.set (Fin.ofNat 4 a.win.toNat) w, kvlBusy := e.kvlBusy || append }
      if append then
        exec (.kvlAppend te h a) s = .next (s1.setCtx n { s1.ctx n with kvQueue := (s1.ctx n).kvQueue ++
          [{ src := .window te a.win.toNat h.tag.toNat e.job, kind := .append, seq := a.seq.toNat, t0 := a.ntok.toNat,
             t1 := a.ntok.toNat + 1, stage := .waiting, moves := [], tables := [] }] }).settle
      else exec (.kvlRead te h a) s = .next s1.settle) ∧
    (∀ (a : DmaArgs) (t : State), s.MayRun te h (.dma a) →
      let d := s.bytes (engineAt te + a.desc.toNat * 16) 64
      let w := (s.eng te).kvWins[Fin.ofNat 4 (dmaWin d)]
      let kv := fieldAt d 48 1 % 4 = 3 ∨ fieldAt d 48 1 / 4 = 3
      let s1 := s.startDma te h a
      dmaDescOk d = true → ¬(kv ∧ w.append = true ∧ w.granted = false) → s1.moveDma te d = .ok () t → t.eng te = s1.eng te →
      exec (.engineDma te h a) s = .next (t.setEng te { s.eng te with issued := (s.eng te).issued + 1 })) ∧
    ∀ (i : Instr) (up : List ArrayUpset) (o : TileOp) (bs : List Byte) (s1 : State), i.tileOf = some (te, h, up, o) →
      let head := s.fld (Reg.TEN_CQ_HEAD te) Fld.TEN_CQ_HEAD_HEAD
      s.tenState te = 1 → (s.eng te).waiting = none → (s.eng te).quiet = true → s.fld (Reg.TEN_CTRL te) Fld.TEN_CTRL_ENABLE = 1 →
      s.fld (Reg.TEN_CTRL te) Fld.TEN_CTRL_HALT = 0 → head ≠ s.fld (Reg.TEN_CQ_TAIL te) Fld.TEN_CQ_TAIL_TAIL →
      s.readPhys (s.tenReq te (s.tenClass te)) (s.cqSlot te head) 16 = (.okay, bs, s1) → decodeTile (leNat bs) = some (h, o) →
      let s2 := s1.setFld (Reg.TEN_CQ_HEAD te) Fld.TEN_CQ_HEAD_HEAD ((head + 1) % s1.cqSize te)
      s2.MayRun te h o → (s2.startTile te h up o).isSome = true →
      ∃ t, exec (.engineCommandFetch te up) s = .next t ∧ exec i s2 = .next t

/-- R120 to R122, R189, R226: control of an engine. -/
def Obligations.EngineControl : Prop :=
  ∀ (s : State) (te : Fin 64) (req : Req) (w : Word),
    let ctrl := Reg.TEN_CTRL te
    let stat := Reg.TEN_STATUS te
    (∀ i : Instr, i = .tenEnable te req w ∨ i = .tenHalt te req w ∨ i = .tenReset te req w → s.Grants req .write ctrl →
      (Fld.TEN_CTRL_RESET.get w = 0 → s.tenState te ≤ 2 →
        ∃ t, exec i s = .next t ∧ OnlyRegs s t ∧ t.fld ctrl Fld.TEN_CTRL_ENABLE = Fld.TEN_CTRL_ENABLE.get w ∧
          t.fld ctrl Fld.TEN_CTRL_HALT = Fld.TEN_CTRL_HALT.get w ∧
          t.tenState te = (if Fld.TEN_CTRL_ENABLE.get w = 0 then 0 else if Fld.TEN_CTRL_HALT.get w = 1 then 2 else 1) ∧
          ∀ b, b ≠ ctrl → b ≠ stat → t.reg b = (s.relabel req).reg b) ∧
      (Fld.TEN_CTRL_RESET.get w = 1 → (s.eng te).job = none →
        ∃ u : State, exec i s = .next (u.settle.answer .okay []) ∧ u.eng te = (s.eng te).cleared ∧
          u.fld (Reg.TEN_CQ_HEAD te) Fld.TEN_CQ_HEAD_HEAD = s.fld (Reg.TEN_CQ_TAIL te) Fld.TEN_CQ_TAIL_TAIL % 4096 ∧
          u.tenState te = (if 4 ≤ s.tenState te then s.tenState te
            else if s.tenState te = 3 ∧ (s.eng te).faultEnd = .test then 4 else 0) ∧ u.fld ctrl Fld.TEN_CTRL_ENABLE = 0 ∧ u.mem = s.mem)) ∧
    (s.Grants req .write (Reg.TEN_CQ_TAIL te) →
      let new := Fld.TEN_CQ_TAIL_TAIL.get w
      let slots := (new + s.cqSize te - s.fld (Reg.TEN_CQ_TAIL te) Fld.TEN_CQ_TAIL_TAIL) % s.cqSize te
      ∃ t, exec (.tenCqTailWrite te req w) s = .next t ∧ t.reply = { resp := .okay, data := [] } ∧
        ((s.eng te).feed = [] ∨ (∀ j, (s.eng te).job.bind s.jobOf = some j → j.layers = []) →
          t.fld (Reg.TEN_CQ_TAIL te) Fld.TEN_CQ_TAIL_TAIL = new ∧ (t.eng te).feed = (s.eng te).feed.drop slots) ∧
        ((s.eng te).feed = [] → OnlyRegs s t ∧ ∀ b, b ≠ Reg.TEN_CQ_TAIL te → t.reg b = (s.relabel req).reg b)) ∧
    (s.Grants req .write (Reg.TEN_WDT te) →
      ∃ t, exec (.tenWdtWrite te req w) s = .next t ∧ t.fld (Reg.TEN_WDT te) Fld.TEN_WDT_LIMIT_US = Fld.TEN_WDT_LIMIT_US.get w ∧
        (∀ b, b ≠ Reg.TEN_WDT te → t.reg b = (s.relabel req).reg b) ∧ t.mem = s.mem ∧
        (t.eng te).wdtStart = (s.eng te).wdtStart.map fun _ => s.tb.elapsed) ∧
    (∀ t0, (s.eng te).wdtStart = some t0 → s.tenState te ≤ 2 → (s.eng te).job.isSome = true →
      let limit := s.fld (Reg.TEN_WDT te) Fld.TEN_WDT_LIMIT_US
      if limit ≠ 0 ∧ t0 + limit * usE ≤ s.tb.elapsed then
        ∃ u : State, exec (.engineWatchdogExpiry te) s = .next u.settle ∧ u.fld stat Fld.TEN_STATUS_CAUSE = 4 ∧ u.tenState te = 3 ∧
          u.fld stat Fld.TEN_STATUS_FAULT_TAG = s.fld stat Fld.TEN_STATUS_FAULT_TAG
      else exec (.engineWatchdogExpiry te) s = .next s) ∧
    if s.tenState te = 3 then
      ∃ u : State, exec (.engineCompletion te) s = .next u.settle ∧ u.fld ctrl Fld.TEN_CTRL_ENABLE = 0 ∧
        u.tenState te = if (s.eng te).faultEnd = .test then 4 else 0
    else if s.engineDone te = true then
      ∃ u : State, exec (.engineCompletion te) s = .next u.settle ∧ u.tenState te = 0 ∧ u.fld ctrl Fld.TEN_CTRL_ENABLE = 0 ∧
        (u.eng te).job = none
    else exec (.engineCompletion te) s = .next s

/-- R183, R184, R426, R482: doorbell pages and buffer tails. -/
def Obligations.DoorbellWrites : Prop :=
  ∀ (s : State) (req : Req) (w : Word), let v := Fld.DB_SQ_TAIL_TAIL.get w
    let p := s.relabel req
    let done (i : Instr) (t : State) : Prop := exec i s = .next (t.answer .okay [])
    let moves (i : Instr) (a : Nat) (f : Fld) (x : Nat) : Prop := ∃ t, exec i s = .next t ∧ OnlyRegs s t ∧ t.reply = { resp := .okay, data := [] } ∧
      t.fld a f = x ∧ ∀ b, b ≠ a → t.reg b = p.reg b
    (∀ (n : Fin 32) (r : Fin 8), s.Grants req .write (Reg.DB_SQ_TAIL n r) → 
      let u := if s.millerOff = false ∧ (s.ctx n).status = .active ∧ bitAt (s.ctx n).sqEn r = true ∧ v < 2 ^ (s.ctx n).sqLog2[r] then
        p.setFld (Reg.DB_SQ_TAIL n r) Fld.DB_SQ_TAIL_TAIL v else p.count (Reg.DB_ERR n) Fld.DB_ERR_IGNORED 1
      done (.dbSqTailWrite n r req w) (if u.stateNow n = p.stateNow n then u else u.settle)) ∧
    (∀ n : Fin 32, s.Grants req .write (Reg.DB_CQ_HEAD n) → let c := s.ctx n
      let x := Fld.DB_CQ_HEAD_HEAD.get w
      let d := if x = c.cq.idx then c.unread else (x + 2 ^ c.cq.log2 - s.fld (Reg.DB_CQ_HEAD n) Fld.DB_CQ_HEAD_HEAD) % 2 ^ c.cq.log2
      done (.dbCqHeadWrite n req w) (if s.millerOff = false ∧ c.status ≠ .free ∧ x < 2 ^ c.cq.log2 ∧ d ≤ c.unread then
        (p.setCtx n { c with unread := c.unread - d }).setFld (Reg.DB_CQ_HEAD n) Fld.DB_CQ_HEAD_HEAD x
      else p.count (Reg.DB_ERR n) Fld.DB_ERR_IGNORED 1).settle) ∧
    (∀ q : Fin 8, s.Grants req .write (Reg.GQ_DB_SQ_TAIL q) → done (.gqDoorbell q req w)
      (if (s.gfxQueue q).on = true ∧ v < 2 ^ (s.gfxQueue q).sqLog2 then (p.setFld (Reg.GQ_DB_SQ_TAIL q) Fld.DB_SQ_TAIL_TAIL v).gfxRead
        else p.count (Reg.GQ_DB_ERR q) Fld.DB_ERR_IGNORED 1)) ∧
    (∀ h : Fin 4, s.Grants req .write (Reg.DSP_DB_SQ_TAIL h) →
      (∀ d, (s.head h).desc = some d → v < 2 ^ d.log2 → done (.flipDoorbell h req w) (p.setFld (Reg.DSP_DB_SQ_TAIL h) Fld.DB_SQ_TAIL_TAIL v)) ∧
      ((∀ d, (s.head h).desc = some d → 2 ^ d.log2 ≤ v) → done (.flipDoorbell h req w) (p.count (Reg.DSP_DB_ERR h) Fld.DB_ERR_IGNORED 1))) ∧
    (∀ n : Fin 12, s.Grants req .write (Reg.CAN_DB_SQ_TAIL n) →
      (∀ d, (s.can n).desc = some d → v < 2 ^ d.txLog2 → done (.canTxDoorbell n req w) (p.setFld (Reg.CAN_DB_SQ_TAIL n) Fld.DB_SQ_TAIL_TAIL v)) ∧
      ((∀ d, (s.can n).desc = some d → 2 ^ d.txLog2 ≤ v) → done (.canTxDoorbell n req w) (p.count (Reg.CAN_DB_ERR n) Fld.DB_ERR_IGNORED 1))) ∧
    (∀ (tx : Bool) (q : Fin 8), let a := if tx then Reg.HIF_DB_TX_TAIL q else Reg.HIF_DB_RX_TAIL q
      let i : Instr := if tx then .hifTxDoorbell q req w else .hifRxDoorbell q req w
      let x := Fld.HIF_DB_TX_TAIL_TAIL.get w
      let log2 (d : HifDesc) := (if tx then d.txLog2 else d.rxLog2)[q]
      s.Grants req .write a →
      (∀ d, s.gw.hif = some d → log2 d ≠ 0 → x < 2 ^ log2 d → done i (p.setReg a (BitVec.ofNat 32 x))) ∧
      ((∀ d, s.gw.hif = some d → log2 d = 0 ∨ 2 ^ log2 d ≤ x) → done i (p.count Reg.HIF_DB_ERR Fld.HIF_DB_ERR_IGNORED 1))) ∧
    (s.Grants req .write Reg.XSP_DB_SQ_TAIL → done (.xspiDoorbell req w) (if v < 2 ^ Config.xspiRing.2 then
      p.setFld Reg.XSP_DB_SQ_TAIL Fld.DB_SQ_TAIL_TAIL v else p.count Reg.XSP_DB_ERR Fld.DB_ERR_IGNORED 1)) ∧
    (∀ n : Fin 20, s.Grants req .write (Reg.FGD_STR_BUF_TAIL n) → let x := Fld.FGD_STR_BUF_TAIL_TAIL.get w
      (∀ d, (s.stream n).desc = some d → x < 2 ^ d.log2 →
        moves (.streamBufTailWrite n req w) (Reg.FGD_STR_BUF_TAIL n) Fld.FGD_STR_BUF_TAIL_TAIL x) ∧
      ((∀ d, (s.stream n).desc = some d → 2 ^ d.log2 ≤ x) → done (.streamBufTailWrite n req w) p)) ∧
    (∀ n : Fin 64, s.Grants req .write (Reg.FUS_BUF_TAIL n) → let x := Fld.FUS_BUF_TAIL_TAIL.get w
      if s.instantOn s.fusActive n = true ∧ x < 2 ^ (s.instantRec s.fusActive n).log2 then
        moves (.fusBufTailWrite n req w) (Reg.FUS_BUF_TAIL n) Fld.FUS_BUF_TAIL_TAIL x
      else done (.fusBufTailWrite n req w) p) ∧
    ∀ n : Fin 8, s.Grants req .write (Reg.AUD_BUF_TAIL n) → let x := Fld.FGD_STR_BUF_TAIL_TAIL.get w
      if (s.audio n).on = true ∧ x < 2 ^ (s.audio n).log2 then
        moves (.audioBufTailWrite n req w) (Reg.AUD_BUF_TAIL n) Fld.FGD_STR_BUF_TAIL_TAIL x
      else done (.audioBufTailWrite n req w) p

/-- R181, R182, R185, R186, R190: an entry is read. -/
def Obligations.EntriesAreTaken : Prop :=
  (∀ kind ∈ entryKinds, ∀ op < 256, ∃ i want, Instr.entryOf i = some (3, 5, want) ∧ want kind op = true) ∧
  ∀ (s : State) (n : Fin 32) (r : Fin 8),
    ∀ i ∈ [Instr.nop n r, .job n r, .modelLoad n r, .modelUnload n r, .kvMap n r, .kvFork n r, .kvUnmap n r, .ctxCreate n r,
      .ctxReset n r, .ctxDestroy n r, .ringFlush n r, .dirtyHarvest n r, .partSet n r, .ctxBind n r, .ctxUnbind n r],
    ∀ want : Nat → Nat → Bool, i.entryOf = some (n, r, want) →
    (s.mayRead n r = false → exec i s = .next s) ∧
    (∀ (h : HeldEntry) (s1 : State), s.mayRead n r = true → s.readHead n r = (none, h, s1) → exec i s = .next (s1.takeTurn n).settle) ∧
    ∀ (b : List Byte) (h : HeldEntry) (s0 : State), s.mayRead n r = true → s.readHead n r = (some b, h, s0) →
      let s1 := s0.takeTurn n
      let isJob := fieldAt b 0 1 = 0x01
      let late := isJob ∧ jobRelease b ≠ 0 ∧ jobRelease b < s1.now
      (want (fieldAt b 0 1) (fieldAt b 34 1) = false → exec i s = .next s) ∧
      (want (fieldAt b 0 1) (fieldAt b 34 1) = true →
        (∀ status detail, entryChecks n b = .bad status detail → exec i s = .next (s1.endEntry n r h { status, detail }).settle) ∧
        (entryChecks n b = .ok () → late →
          exec i s = .next (s1.endEntry n r h { status := 0x15, detail := 40 }).settle) ∧
        (entryChecks n b = .ok () → ¬ late → ∃ u h', exec i s = .next (u : State).settle ∧
          (u.ctx n).heldOf r = (s1.ctx n).heldOf r ++ [h'] ∧ h'.jobNo = h.jobNo ∧ h'.idx = h.idx ∧ h'.started = false ∧
          h'.bytes = (if (isJob ∨ fieldAt b 0 1 = 0x02) ∧ bitAt (s1.ctx n).classMask (fieldAt b 2 1) = false then
            b.set 2 (BitVec.ofNat 8 (s1.ctx n).classDef) else b) ∧
          h'.released = (if isJob ∧ jobRelease b = 0 ∧ (s1.ctx n).sqRel[r] = 0 ∧ s1.goldenOf n r = none then some s1.now else none) ∧
          u.jobs = s1.jobs))

/-- R176 to R179, R186, R192, R194, R195, R207, R213: the start and the end of entries. -/
def Obligations.EntriesStartAndEnd : Prop :=
  (∀ (s : State) (r : Nat) (h : HeldEntry), let n := fieldAt h.bytes 32 1
    let k := fieldAt h.bytes 33 1
    let free := (s.ctx n).status = .free
    let ok (t : State) := t.finish 0 r h { status := 0x00 }
    let no := s.finish 0 r h { status := 0x10, detail := 32 }
    (h.kind = 0x00 → ∀ m, s.startEntry m r h = s.finish m r h { status := 0x00 }) ∧
    (h.kind = 0x20 → s.startEntry 0 r h = if free then
      match s.entryRead (s.millerReq 0) (fieldAt h.bytes 40 8) 256 with
      | (.bad status _, s1) => s1.finish 0 r h { status }
      | (.ok b, s1) => match firstBad 0x10 (descChecks b) with
        | .bad status detail => s1.finish 0 r h { status, detail }
        | .ok _ => ok (s1.create n b)
      else no) ∧
    (h.kind = 0x21 → s.startEntry 0 r h = if free then no else ok (s.resetCtx n)) ∧
    (h.kind = 0x22 → s.startEntry 0 r h = if free then no else ok (s.destroyCtx n)) ∧
    (h.kind = 0x23 → s.startEntry 0 r h = if free then no else
      (s.flushHeld n k).markStarted 0 r { h with stop := s.fld (Reg.DB_SQ_TAIL n k) Fld.DB_SQ_TAIL_TAIL }) ∧
    (h.kind = 0x24 → let base := fieldAt h.bytes 40 8
      s.startEntry 0 r h = if free then no else if (s.ctx n).dirtyPages = 0 then s.finish 0 r h { status := 0x10, detail := 40 }
        else (s.setCtx n { s.ctx n with dirtyOn := decide (base ≠ 0), dirtyBase := base, dirtyOut := false }).finish 0 r h
          { status := 0x00, detail := (s.ctx n).dirtyOut.toNat }) ∧
    (h.kind = 0x28 → firstBad 0x10 (s.partChecks h.bytes) = .ok () → s.startEntry 0 r h = ok (s.setPartition h.bytes)) ∧
    (h.kind = 0x29 → firstBad 0x10 (s.bindChecks h.bytes) = .ok () → s.startEntry 0 r h =
      if fieldAt h.bytes 34 1 = 1 then ok (s.unbind n k) else if s.bindWaits h.bytes = true then s.markStarted 0 r h else ok (s.bind n k))) ∧
  (∀ (s : State) (n : Fin 32) (b : List Byte), let t := s.create n b
    (t.ctx n).status = .active ∧ (t.ctx n).sqEn = fieldAt b 21 1 ∧ (t.ctx n).cq = { base := fieldAt b 24 8, log2 := fieldAt b 20 1, idx := 0, phase := true } ∧
    (t.ctx n).fences = [] ∧ (t.ctx n).epoch = 1 ∧ (∀ r : Fin 8, (t.ctx n).sqBase[r] = fieldAt b (32 + 8 * r.val) 8 ∧
      t.fld (Reg.DB_SQ_TAIL n r) Fld.DB_SQ_TAIL_TAIL = 0 ∧ t.fld (Reg.DB_SQ_HEAD n r) Fld.DB_SQ_HEAD_HEAD = 0) ∧
    (∀ m : Fin 32, m ≠ n → t.ctx m = s.ctx m) ∧
    ((∀ a, kvAreaFrom s.mem n (b.drop 192) = some a → a.refused = true) → t.mem = s.mem)) ∧
  ∀ (s s1 : State) (n : Fin 32) (r : Nat) (h : HeldEntry) (e : Ending), (s.ctx n).status = .active → let c := s.ctx n
    let s0 := s.setCtx n { c with reserved := c.reserved - 1 }
    s0.put (s0.millerReq n) (c.cq.base + c.cq.idx * 32) ((h.cqe r e).bytes c.cq.phase) = (.okay, s1) →
    bitAt h.flags 0 = false → ¬(e.status ≤ 2 ∧ bitAt h.flags 2 = true) → s1.ctx n = s0.ctx n →
    ∃ t, s.endEntry n r h e = t ∧ (t.ctx n).reserved = c.reserved - 1 ∧ (t.ctx n).unread = c.unread + 1 ∧ t.mem = s1.mem ∧
      (t.ctx n).cq.idx = (if 2 ^ c.cq.log2 ≤ c.cq.idx + 1 then 0 else c.cq.idx + 1) ∧
      (t.ctx n).cq.phase = (if 2 ^ c.cq.log2 ≤ c.cq.idx + 1 then !c.cq.phase else c.cq.phase) ∧ (t.ctx n).fences = c.fences

/-- R190, R221 to R224, R496: releases, placement and engine starts; R127, R129, R136, R138: taps, stripes and empty windows. -/
def Obligations.JobsRun : Prop :=
  (∀ (s : State) (n : Fin 32) (r : Fin 8), (s.ctx n).sqRel[r] = 0 → s.goldenOf n r = none → exec (.jobReleaseTime n r) s = .next
    (s.setHeld n r (((s.ctx n).heldOf r).map fun h =>
      if h.kind = 1 ∧ h.released = none ∧ jobRelease h.bytes ≤ s.now then { h with released := some s.now } else h)).settle) ∧
  (∀ (s : State) (n : Fin 32) (r : Fin 8), (s.ctx n).sqRel[r] ≠ 0 ∨ s.goldenOf n r ≠ none →
    exec (.jobReleaseTime n r) s = .next s) ∧
  (∀ (s : State) (e : ReleaseEvent), s.bus.find? (fun e => Nat.beq e.action 2) = some e →
    let s1 := { s with bus := s.bus.erase e }
    let n := bitsOf e.arg0 4 0
    let r := bitsOf e.arg0 10 8
    (∀ h, (s.ctx n).headOf r = some h → (s.ctx n).sqRel[Fin.ofNat 8 r] ≠ 1 ∨ s.goldenOf n r ≠ none ∨ h.kind ≠ 1 ∨ h.released ≠ none ∨
      e.sched < jobRelease h.bytes → exec .jobReleaseEvent s = .next s1) ∧
    (∀ h, (s.ctx n).headOf r = some h → (s.ctx n).sqRel[Fin.ofNat 8 r] = 1 → s.goldenOf n r = none → h.kind = 1 → h.released = none →
      jobRelease h.bytes ≤ e.sched → exec .jobReleaseEvent s = .next (s1.setHeld n r (((s.ctx n).heldOf r).map fun x =>
        if x.jobNo = h.jobNo then { x with released := some s.now } else x)).settle) ∧
    ((s.ctx n).headOf r = none → exec .jobReleaseEvent s = .next s1)) ∧
  (∀ s : State, s.millerRuns = true → (∀ j ∈ s.readyHeads, s.laneFor j = none) → exec .jobPlacement s = .next s) ∧
  (∀ (s : State) (j : Job) (p : Partition) (lane : Nat) (affine : Bool), s.millerRuns = true → s.readyHeads.head? = some j →
    s.laneFor j = some (p, lane, affine) → j ∈ s.jobs →
    ∃ u : State, exec .jobPlacement s = .next u.settle ∧ u.mem = s.mem ∧ u.regs = s.regs ∧
      (∀ te < 64, (u.eng te).job = if te ∈ enginesOf (p.lane lane) then some j.no else (s.eng te).job) ∧
      (∀ k < 16, u.sems[Fin.ofNat 16 k] = if k ∈ p.lane lane then Vector.replicate 32 0 else s.sems[Fin.ofNat 16 k]) ∧
      (∃ j' ∈ u.jobs, j'.no = j.no ∧ j'.lane = some lane ∧ j'.engines = enginesOf (p.lane lane) ∧ j'.toStart = enginesOf (p.lane lane))) ∧
  (∀ (l : LayerRun) (oy ox ky kx y x : Nat), l.tapAt oy ox (ky, kx) = some (y, x) ↔
    (y : Int) = oy * l.sh - l.pt + ky * l.dh ∧ y < l.inH ∧ (x : Int) = ox * l.sw - l.pl + kx * l.dw ∧ x < l.inW) ∧
  (∀ o e : Nat, 0 < e → ∀ y < o, ∃! j, j < e ∧ (stripeOf o e j).1 ≤ y ∧ y < (stripeOf o e j).2) ∧
  (∀ (l : LayerRun) (inp : Nat → Nat → Val) (oy ox : Nat) (ovf : Bool), (∀ t ∈ l.window oy ox, t = none) →
    l.maxPool inp oy ox = (((laneFmt (poolLane l.fmt l.scale)).convert l.padVal 0 false).1, 0) ∧
    (l.op ≠ 2 → l.avgPool inp oy ox ovf = (l.padVal, 0))) ∧
  ∀ (s : State) (te : Fin 64) (j : Job), s.jobs.find? (fun j => decide (j.toStart.head? = some te.val)) = some j →
    (s.startDue j te = false → exec (.engineStart te) s = .next s) ∧
    (s.startDue j te = true → (s.eng te).job = some j.no → s.tenState te = 0 → s.engineOffline te = false →
      let recent (w : Nat) := (s.therm.starts.filter fun x => s.tb.elapsed < x + w).length
      if 4 ≤ recent (125 * 2 ^ 32) ∨ (s.clockSteps = true ∧ 15 ≤ recent (1000 * 2 ^ 32)) then exec (.engineStart te) s = .next s
      else ∃ t, exec (.engineStart te) s = .next t ∧ t.tenState te = 1 ∧ t.fld (Reg.TEN_CTRL te) Fld.TEN_CTRL_ENABLE = 1 ∧
        t.fld (Reg.TEN_JOB te) Fld.TEN_JOB_CTX = j.ctx % 32 ∧ t.fld (Reg.TEN_FX te) Fld.TEN_FX_FX = 0 ∧
        (t.eng te).job = some j.no ∧ (t.eng te).wdtStart = some s.tb.elapsed ∧ (t.eng te).waiting = none ∧ (t.eng te).quiet = true ∧
        t.therm.starts.head? = some s.tb.elapsed ∧ (j.layers = [] → t.mem = s.mem)) ∧
    (s.startDue j te = true → (s.eng te).job ≠ some j.no ∨ s.tenState te ≠ 0 ∨ s.engineOffline te = true →
      exec (.engineStart te) s = .next (s.faultJob j.no 0x24 te 0).settle)

/-- R217, R218, R227, R161, R163, R168: shares, weights and KV actions. -/
def Obligations.Residency : Prop :=
  ∀ (s : State) (n : Fin 32),
    (if s.millerRuns = true ∧ s.mayTake n = true then
      let todo := ((s.boundTo n).filter fun x => x.2.model.isSome).map (·.1)
      exec (.makeResident n) s = .next (s.setCtx n { s.ctx n with resident := true, claim := false, copying := todo, weightsIn := todo.isEmpty }).settle
    else exec (.makeResident n) s = .next s) ∧
    (let c := s.ctx n
      if c.resident = true ∧ c.copying ≠ [] ∧ (∀ p ∈ s.partsOf n, s.beingZeroed p = false) then
        ∃ u : State, exec (.weightCopyDone n) s = .next u.settle ∧ (u.ctx n).copying = [] ∧ (u.ctx n).weightsIn = true
      else exec (.weightCopyDone n) s = .next s) ∧
    (∃ u : State, exec (.shareZeroingDone n) s = .next u.settle ∧ (u.ctx n).zeroing = [] ∧
      (∀ m : Fin 32, m ≠ n → u.ctx m = s.ctx m) ∧ u.regs = s.regs ∧ (∀ a, u.byte a = 0#8 ∨ u.byte a = s.byte a) ∧
      ∀ p ∈ (s.ctx n).zeroing, ∀ te ∈ enginesOf (pusOf p.puMask), ∀ a, engineAt te + p.eoff * 0x10000 ≤ a →
        a < engineAt te + p.eoff * 0x10000 + p.eshare * 0x10000 → u.byte a = 0#8) ∧
    (if 0 ≤ s.pastGrace n then exec (.graceExpiry n) s = .next (s.settleAnd true) else exec (.graceExpiry n) s = .next s) ∧
    (∀ op, (s.ctx n).kvOp = some op → op.stage = .copying → exec (.kvCopyDone n) s = .next (kvTake n op (s.kvCopied n op)).settle) ∧
    (∀ op, (s.ctx n).kvOp = some op → op.stage = .fencing ∨ op.stage = .fencingChild →
      exec (.kvFenceComplete n) s = .next (kvTake n op (s.kvFenced n op)).settle) ∧
    ((s.ctx n).kvOp = none → exec (.kvCopyDone n) s = .next s ∧ exec (.kvFenceComplete n) s = .next s)

/-- R204, R205, R481: the start-up handshake and a restart. -/
def Obligations.MillerStartUp : Prop :=
  let fw := Reg.TCX_FW_STATUS
  let state (s : State) : Nat := s.fld fw Fld.TCX_FW_STATUS_STATE
  let zeroed (s : State) : Prop := (∀ a, engineMemBase ≤ a → a < engineMemBase + 64 * 0x200000 → s.byte a = 0#8) ∧
    ∀ c < 8, ∀ a, clusterAt c ≤ a → a < clusterAt c + 0x780000 → s.byte a = 0#8
  (∀ s : State, if state s = 1 then
      ∃ t, exec .millerWaitHost s = .next t ∧ state t = 2 ∧ t.parts = Vector.replicate 16 none ∧ zeroed t ∧
        t.fld Reg.TCX_FW_IFVER Fld.TCX_FW_IFVER_MAJOR = 4 ∧ t.fld Reg.TCX_FW_IFVER Fld.TCX_FW_IFVER_MINOR = 0 ∧
        ∀ n < 32, (t.ctx n).resident = false
    else exec .millerWaitHost s = .next s) ∧
  (∀ (s : State) (req : Req) (w : Word), s.Grants req .write Reg.TCX_CTRL →
    let maj := s.fld Reg.TCX_FW_IFVER Fld.TCX_FW_IFVER_MAJOR
    let host := s.reg Reg.TCX_HOST_IFVER
    let bad := Fld.TCX_HOST_IFVER_MAJOR.get host ≠ maj ∨ s.fld Reg.TCX_FW_IFVER Fld.TCX_FW_IFVER_MINOR < Fld.TCX_HOST_IFVER_MINOR.get host
    let p := s.relabel req
    let at_ := s.fld Reg.TCX_CTX0_DESC_HI Fld.TCX_CTX0_DESC_HI_ADDR_HI * 2 ^ 32 + s.fld Reg.TCX_CTX0_DESC_LO Fld.TCX_CTX0_DESC_LO_ADDR_LO * 256
    if Fld.TCX_CTRL_GO.get w = 1 ∧ (state s = 2 ∨ state s = 4 ∨ state s = 5) then
      if bad then exec (.tcxGo req w) s = .next ((p.setFld fw Fld.TCX_FW_STATUS_STATE 4).answer .okay [])
      else match p.fetch (p.millerReq 0) at_ 256 with
        | (.okay, b, s1) => match firstBad 0x10 (descChecks b ++ [(0, !(bitAt (fieldAt b 0 1) 1))]) with
          | .ok _ => exec (.tcxGo req w) s = .next (((s1.create 0 b).setFld fw Fld.TCX_FW_STATUS_STATE 3).settle.answer .okay [])
          | .bad _ _ => exec (.tcxGo req w) s = .next ((s1.setFld fw Fld.TCX_FW_STATUS_STATE 5).answer .okay [])
        | (_, _, s1) => exec (.tcxGo req w) s = .next ((s1.setFld fw Fld.TCX_FW_STATUS_STATE 5).answer .okay [])
    else exec (.tcxGo req w) s = .next (p.answer .okay [])) ∧
  ∀ s : State, if state s = 6 then
      ∃ u : State, exec .millerRestartDone s = .next u.settle ∧ state u = 3 ∧ zeroed u ∧
        ∀ n < 32, (u.ctx n).resident = (decide ((s.ctx n).status ≠ .free) && (s.ctx n).pinned && !(s.boundTo n).isEmpty)
    else exec .millerRestartDone s = .next s

/-- R235, R236, R239, R244, R247 to R249, R255, R530: the timebase. -/
def Obligations.TimebaseKeepsTime : Prop :=
  (∀ s : State, let inc := s.tb.incrNext.getD s.tb.incr
    let sum := s.tb.frac.toNat + inc
    let t1 := (s.now + sum / 2 ^ 32) % secWrap
    let ticked (t : State) : Prop := t.tb.incr = inc ∧ t.tb.incrNext = none ∧ t.tb.elapsed = s.tb.elapsed + inc ∧ t.tb.adjusts = []
    (s.tb.adjusts = [] → ∃ t, exec .timebaseTick s = .next t ∧ ticked t ∧ t.now = t1 ∧ t.tb.frac = BitVec.ofNat 32 sum ∧
      (s.tt.firesFrom = none → s.tt.swapAt = none → s.gw.egress = Vector.replicate 14 [] → t.mem = s.mem ∧ ∀ a, a ≠ Reg.TMB_HOLD → t.reg a = s.reg a)) ∧
    ∀ (abs : Bool) (x : Int), s.tb.adjusts = [(abs, x)] →
      let t2 := (if abs then x % secWrap else (t1 + x) % secWrap).toNat
      ∃ t, exec .timebaseTick s = .next t ∧ ticked t ∧ t.now = t2 ∧ t.tb.frac = (if abs then 0#32 else BitVec.ofNat 32 sum) ∧
        if t2 = t1 then t.reg Reg.TMB_STEPS = s.reg Reg.TMB_STEPS ∧ t.reg Reg.TMB_LAST_STEP = s.reg Reg.TMB_LAST_STEP
        else t.fld Reg.TMB_STEPS Fld.TMB_STEPS_COUNT = (s.fld Reg.TMB_STEPS Fld.TMB_STEPS_COUNT + 1) % 65536 ∧
          t.reg Reg.TMB_LAST_STEP = BitVec.ofInt 32 (clampInt (1 - 2 ^ 31) (2 ^ 31 - 1) (if abs then (t2 : Int) - t1 else x)) ∧
          t.fld Reg.TMB_STATUS Fld.TMB_STATUS_STEP = 1 ∧ t.fld Reg.TMB_STATUS Fld.TMB_STATUS_LOCKED = 0) ∧
  (∀ (s : State) (e : Nat), s.tb.ppsEnd = some e → if e ≤ s.tb.elapsed then
      ∃ t, exec .ppsOutEnd s = .next t ∧ t.pins = { s.pins with ppsOut := false } ∧ t.tb = { s.tb with ppsEnd := none } ∧ t.regs = s.regs
    else exec .ppsOutEnd s = .next s) ∧
  (∀ (s : State) (req : Req) (w : Word), s.Grants req .write Reg.TMB_INCR_HI →
    let v := Fld.TMB_INCR_HI_NS.get w * 2 ^ 32 + (s.reg Reg.TMB_INCR_LO).toNat
    let c := if v < 0x1FFBE76C9 then 0x1FFBE76C9 else if 0x200418937 < v then 0x200418937 else v
    ∃ t, exec (.tmbIncrCommit req w) s = .next t ∧ t.reply = { resp := .okay, data := [] } ∧
      t.tb = { s.tb with incrNext := some c } ∧ t.mem = s.mem ∧
      t.reg Reg.TMB_INCR_LO = BitVec.ofNat 32 c ∧ t.fld Reg.TMB_INCR_HI Fld.TMB_INCR_HI_NS = c / 2 ^ 32 ∧
      (if c = v then t.reg Reg.TMB_STATUS = s.reg Reg.TMB_STATUS else t.fld Reg.TMB_STATUS Fld.TMB_STATUS_CFG_ERR = 1) ∧
      ∀ a, a ∉ [Reg.TMB_INCR_LO, Reg.TMB_INCR_HI, Reg.TMB_STATUS] → t.reg a = (s.relabel req).reg a) ∧
  (∀ (s : State) (req : Req) (w : Word), s.Grants req .write Reg.TMB_ADJ_CTRL →
    let raw := (s.reg Reg.TMB_ADJ_NS).toNat
    let lo := (s.reg Reg.TMB_ADJ_SEC_LO).toNat
    let absolute := Fld.TMB_ADJ_CTRL_MODE.get w = 1
    let ns := signedOf 32 raw
    let ok := if absolute then raw ≤ 999999999 else -999999999 ≤ ns ∧ ns ≤ 999999999
    let adj : Bool × Int := if absolute then (true, ((Fld.TMB_ADJ_CTRL_SEC_HI.get w * 2 ^ 32 + lo) * 1000000000 + raw : Nat))
      else (false, signedOf 32 lo * 1000000000 + ns)
    ∀ i ∈ [Instr.tmbAdjRelative req w, Instr.tmbAdjAbsolute req w], ∃ t, exec i s = .next t ∧ t.mem = s.mem ∧ t.now = s.now ∧
      if Fld.TMB_ADJ_CTRL_GO.get w = 1 then
        if ok then t.tb = { s.tb with adjusts := s.tb.adjusts ++ [adj] }
        else t.tb = s.tb ∧ t.fld Reg.TMB_STATUS Fld.TMB_STATUS_CFG_ERR = 1
      else t.tb = s.tb) ∧
  (∀ (s : State) (req : Req), s.Grants req .read Reg.TMB_NOW_NS →
    ∃ t, exec (.tmbNowNsRead req) s = .next t ∧ OnlyRegs s t ∧
      t.reply = { resp := .okay, data := leBytes 4 (BitVec.ofNat 32 s.tb.ns).toNat } ∧
      t.reg Reg.TMB_NOW_SEC_LO = s.tb.sec.setWidth 32 ∧ t.reg Reg.TMB_NOW_SEC_HI = (s.tb.sec >>> 32).setWidth 32 ∧
      ∀ a, a ≠ Reg.TMB_NOW_SEC_LO → a ≠ Reg.TMB_NOW_SEC_HI → t.reg a = (s.relabel req).reg a) ∧
  (∀ (s : State) (req : Req) (w : Word), s.Grants req .write Reg.TMB_CTRL → Fld.TMB_CTRL_SOURCE.get w ≠ 3 →
    ∀ i ∈ [Instr.tmbSourceChange req w, Instr.servoEnable req w], ∃ t, exec i s = .next t ∧ t.now = s.now ∧ t.mem = s.mem ∧
      t.tmbSource = Fld.TMB_CTRL_SOURCE.get w ∧ t.fld Reg.TMB_CTRL Fld.TMB_CTRL_DOMAIN = Fld.TMB_CTRL_DOMAIN.get w ∧
      t.fld Reg.TMB_CTRL Fld.TMB_CTRL_SERVO_EN = Fld.TMB_CTRL_SERVO_EN.get w ∧
      (t.tb.integ = if Fld.TMB_CTRL_SERVO_EN.get w = 1 ∧ s.fld Reg.TMB_CTRL Fld.TMB_CTRL_SERVO_EN = 0 then
        integOf (s.tb.incrNext.getD s.tb.incr) else s.tb.integ) ∧
      if Fld.TMB_CTRL_SOURCE.get w = s.tmbSource ∧ Fld.TMB_CTRL_DOMAIN.get w = s.fld Reg.TMB_CTRL Fld.TMB_CTRL_DOMAIN then
        t.tb.acquiring = s.tb.acquiring ∧ t.inHoldover = s.inHoldover
      else t.tb.acquiring = true ∧ t.fld Reg.TMB_STATUS Fld.TMB_STATUS_LOCKED = 0 ∧
        (s.fld Reg.TMB_STATUS Fld.TMB_STATUS_LOCKED = 1 → t.fld Reg.TMB_STATUS Fld.TMB_STATUS_LOCK_LOST = 1) ∧
        (s.tb.hold.tbref = false → t.inHoldover = false)) ∧
  ∀ (s : State) (t0 : Nat), s.tb.lastOfs = some t0 → s.tb.acquiring = false → s.tmbSource < 2 → s.inHoldover = false →
    let limit := 3000000 * usE / (if s.tmbSource = 0 then 2 ^ s.fld Reg.TMB_SERVO Fld.TMB_SERVO_SYNC_LOG else 1)
    if t0 + limit ≤ s.tb.elapsed then
      ∃ t, exec .holdoverTimeout s = .next t ∧ t.inHoldover = true ∧ t.fld Reg.TMB_STATUS Fld.TMB_STATUS_HOLD = 1 ∧
        t.reg Reg.TMB_HOLD = 0#32 ∧ t.fld Reg.TMB_STATUS Fld.TMB_STATUS_LOCKED = 0 ∧ t.tb.incr = s.tb.incr ∧
        t.tb.incrNext = s.tb.incrNext ∧ t.errs = s.errs ++ [plainRecord .timebase sevCE] ∧ t.now = s.now
    else exec .holdoverTimeout s = .next s

/-- R241 to R243, R256 to R258, R427: captures and gPTP. -/
def Obligations.CapturesAndOffsets : Prop :=
  (∀ (s : State) (n : Fin 5) (high : Bool) (width : Nat), let p := s.pin n
    let en := s.flag (Reg.TMB_CAP_CFG n) Fld.TMB_CAP_CFG_EN
    let edge := high.xor (s.flag (Reg.TMB_CAP_CFG n) Fld.TMB_CAP_CFG_POL)
    let close : Prop := ∃ e, p.lastEdge = some e ∧ s.tb.elapsed < e + 100 * nsE
    ∃ t, exec (.captureEdge ⟨n, high, width⟩) s = .next t ∧ t.now = s.now ∧ t.mem = s.mem ∧ (∀ k : Fin 5, k ≠ n → t.pin k = s.pin k) ∧
      (width < 6 → t = s) ∧
      (6 ≤ width → width < 20 → Config.freeValue s.ticks % 2 = 0 → t.regs = s.regs ∧ t.pin n = p) ∧
      (20 ≤ width ∨ (6 ≤ width ∧ Config.freeValue s.ticks % 2 = 1) →
        if edge = false then t.regs = s.regs ∧ t.pin n = { p with active := none, stuck := false }
        else if p.active.isSome = true then t.regs = s.regs ∧ t.pin n = p
        else (t.pin n).active = some s.tb.elapsed ∧ (t.pin n).stuck = false ∧
          if en = true ∧ ¬ close ∧ p.fifo.length < 16 then
            (∃ d : Int, -4 ≤ d ∧ d ≤ 4 ∧ let x := (((s.now : Int) + d) % (secWrap : Int)).toNat
              (t.pin n).fifo = p.fifo ++ [(x / 1000000000, x % 1000000000)]) ∧ (t.pin n).lastEdge = some s.tb.elapsed ∧
            t.fld (Reg.TMB_CAP_SEC_HI n) Fld.TMB_CAP_SEC_HI_FILL = p.fifo.length + 1 ∧
            bitAt (t.fld Reg.TMB_STATUS Fld.TMB_STATUS_CAP) n = true ∧ t.reg (Reg.TMB_CAP_OVR n) = s.reg (Reg.TMB_CAP_OVR n)
          else (t.pin n).fifo = p.fifo ∧ (t.pin n).lastEdge = p.lastEdge ∧
            (en = true → bitAt (t.fld Reg.TMB_STATUS Fld.TMB_STATUS_OVR) n = true ∧
              t.reg (Reg.TMB_CAP_OVR n) = BitVec.ofNat 32 (min ((s.reg (Reg.TMB_CAP_OVR n)).toNat + 1) 0xFFFFFFFF)) ∧
            (en = false → t.regs = s.regs))) ∧
  (∀ (s : State) (n : Fin 5), let us := s.fld (Reg.TMB_CAP_CFG n) Fld.TMB_CAP_CFG_STUCK_US
    (∀ e, (s.pin n).active = some e → (s.pin n).stuck = false → us ≠ 0 → e + us * usE < s.tb.elapsed →
      ∃ t, exec (.captureStuck n) s = .next t ∧ bitAt (t.fld Reg.TMB_STATUS Fld.TMB_STATUS_STUCK) n = true ∧
        t.errs = s.errs ++ [plainRecord .timebase sevTimeout] ∧ t.pin n = { s.pin n with stuck := true } ∧
        exec (.captureStuck n) t = .next t) ∧
    ((s.pin n).stuck = true ∨ (s.pin n).active = none ∨ us = 0 → exec (.captureStuck n) s = .next s) ∧
    exec (.capturePinInactive n) s = .next { s with tb := { s.tb with
      pins := s.tb.pins.set n { s.pin n with active := none, stuck := false } } }) ∧
  (∀ (s : State) (n : Fin 5) (req : Req), s.Grants req .read (Reg.TMB_CAP_NS n) →
    match (s.pin n).fifo with
    | [] => exec (.tmbCapNsRead n req) s = .next ((s.relabel req).answer .okay [0xFF#8, 0xFF#8, 0xFF#8, 0xFF#8])
    | c :: cs => ∃ t, exec (.tmbCapNsRead n req) s = .next t ∧
      t.reply = { resp := .okay, data := leBytes 4 (c.2 % 2 ^ 32) } ∧ (t.pin n).fifo = cs ∧
      t.reg (Reg.TMB_CAP_SEC_LO n) = BitVec.ofNat 32 c.1 ∧
      t.fld (Reg.TMB_CAP_SEC_HI n) Fld.TMB_CAP_SEC_HI_SEC_HI = c.1 / 2 ^ 32 % 65536 ∧
      t.fld (Reg.TMB_CAP_SEC_HI n) Fld.TMB_CAP_SEC_HI_FILL = cs.length % 32 ∧
      bitAt (t.fld Reg.TMB_STATUS Fld.TMB_STATUS_CAP) n = !cs.isEmpty ∧ t.mem = s.mem) ∧
  (∀ (s : State) (p : Fin 14) (d : Fin 4) (m : SyncMsg),
    let rx : Int := (m.rx : Int) - 16 * s.fld (Reg.TMB_PTP_LAT p) Fld.TMB_PTP_LAT_RXLAT
    if s.ptpOn d p = true ∧ s.ptpRole d p = 2 then
      ∃ t, exec (.syncReceived p d m) s = .next t ∧ t.now = s.now ∧ t.mem = s.mem ∧
        t.gw.gptp.relay[d] = some { port := p, rx, origin := m.origin, correction := m.correction } ∧
        if s.tmbSource = 0 ∧ s.fld Reg.TMB_CTRL Fld.TMB_CTRL_DOMAIN = d then
          match s.linkDelay p with
          | none => t.tb = { s.tb with holdGood := 0 } ∧ t.regs = s.regs
          | some delay =>
            let theta : Int := rx - (m.origin + m.correction + 16 * delay)
            let ofs : Int := s.lastOfs theta
            t.tb.lastOfs = some s.tb.elapsed ∧ t.tb.acquiring = false ∧
              t.reg Reg.TMB_LAST_OFS = BitVec.ofInt 32 (clampInt (1 - 2 ^ 31) (2 ^ 31 - 1) ofs) ∧
              256 * ofs - 256 < theta ∧ theta < 256 * ofs + 256
        else t.tb = s.tb ∧ t.regs = s.regs
    else exec (.syncReceived p d m) s = .next s) ∧
  (∀ (s : State) (p : Fin 14) (d : Fin 4) (m : Announce),
    let g := s.gw.gptp
    let u : State := { s with gw := { s.gw with gptp := { g with heard := g.heard.set d ((g.heard[d]).set p (some m)) } } }
    let ext := s.flag (Reg.TSW_PTP_CFG d) Fld.TSW_PTP_CFG_EXT
    if s.ptpOn d p = true then ∃ t, exec (.announceReceived p d m) s = .next t ∧ t.now = s.now ∧ t.mem = s.mem ∧
      (t.gw.gptp.heard[d])[p] = some m ∧ (∀ e : Fin 4, e ≠ d → t.gw.gptp.roles[e] = s.gw.gptp.roles[e]) ∧
      (∀ k : Fin 14, (t.gw.gptp.roles[d])[k] = if ext = true then (s.gw.gptp.roles[d])[k] else u.bmcaRole d k) ∧
      let gm : DWord × Bool := match u.ptpRoot d with
        | some (_, a) => (a.gm, false)
        | none => if s.tmbSource = 0 then (0#64, false) else (s.ptpId, true)
      t.reg (Reg.TSW_PTP_GM_HI d) = (gm.1 >>> 32).setWidth 32 ∧ t.reg (Reg.TSW_PTP_GM_LO d) = gm.1.setWidth 32 ∧
      t.fld (Reg.TSW_PTP_STATE d) Fld.TSW_PTP_STATE_GM_SELF = gm.2.toNat
    else exec (.announceReceived p d m) s = .next s) ∧
  (∀ (s : State) (d : Fin 4) (q k : Fin 14), s.flag (Reg.TSW_PTP_CFG d) Fld.TSW_PTP_CFG_EXT = false → s.bmcaRole d q = 2 →
    (s.bmcaRole d k = 2 → k = q) ∧ ∃ b, s.heardOn d q = some b ∧
      better (priorityVector b 1 q) (priorityVector (s.ownAnnounce d) 0 0) = true ∧
      ∀ a, s.heardOn d k = some a → better (priorityVector a 1 k) (priorityVector b 1 q) = false) ∧
  (∀ (s : State) (p : Fin 14) (rx : Nat), let g := s.gw.gptp
    let t4 : Int := (rx : Int) - 16 * s.fld (Reg.TMB_PTP_LAT p) Fld.TMB_PTP_LAT_RXLAT
    let only (t : State) : Prop := t.mem = s.mem ∧ ∀ a, a ≠ Reg.TSW_PTP_PORT_DELAY p → t.reg a = s.reg a
    if p.val < 12 ∧ s.flag (Reg.TSW_PTP_PORT_CFG p) Fld.TSW_PTP_PORT_CFG_EN = true then
      exec (.pdelayReceived p .request rx) s = .next (s.ptpSend
        [{ kind := .pdelayResp, port := p, dom := 0, stamp := s.txStamp p, origin := t4.toNat, correction := 0 },
         { kind := .pdelayFollowUp, port := p, dom := 0, stamp := s.txStamp p, origin := s.txStamp p, correction := 0 }]) ∧
      (∃ t, exec (.pdelayReceived p .lost rx) s = .next t ∧ t.linkDelay p = none ∧ t.gw.gptp.reqAt[p] = none ∧ only t) ∧
      ∀ t2 t3 : Nat, (g.reqAt[p] = none → exec (.pdelayReceived p (.response t2 t3) rx) s = .next s) ∧
        ∀ t1 : Nat, g.reqAt[p] = some t1 →
          ∃ (t : State) (delay : Nat), exec (.pdelayReceived p (.response t2 t3) rx) s = .next t ∧ t.linkDelay p = some delay ∧ only t ∧
            t.gw.gptp.reqAt[p] = none ∧ t.gw.gptp.peer[p] = some (t3, t4) ∧
            let ratio := t.gw.gptp.ratios[p]
            let trip : Int := (t4 - t1) + (t4 - t1) * ratio / 1000000000 - ((t3 : Int) - t2)
            (g.peer[p] = none → ratio = 0) ∧
            (∀ (t3' : Nat) (t4' : Int), g.peer[p] = some (t3', t4') → t4' < t4 →
              ratio = ((t3 : Int) - t3') * 1000000000 / (t4 - t4') - 1000000000) ∧
            (0 ≤ trip → trip < 2 ^ 36 → 32 * (delay : Int) ≤ trip ∧ trip < 32 * delay + 32)
    else ∀ m, exec (.pdelayReceived p m rx) s = .next s) ∧
  ∀ (s : State) (p : Fin 14) (d : Fin 4), let mute := s.reg Reg.TSW_PTP_ID_LO = 0#32 ∧ s.reg Reg.TSW_PTP_ID_HI = 0#32
    let tx := 256 * s.now + 16 * s.fld (Reg.TMB_PTP_LAT p) Fld.TMB_PTP_LAT_TXLAT
    let sends (u : State) (ms : List PtpMsg) : State :=
      if mute then u else { u with gw := { u.gw with gptp := { u.gw.gptp with sent := u.gw.gptp.sent ++ ms } } }
    let msg (k : PtpKind) (d : Nat) : PtpMsg := { kind := k, port := p, dom := d, stamp := tx, origin := 0, correction := 0 }
    let u := s.bmca d
    (exec (.ptpSyncTransmit p d) s = .next
      (if s.ptpOn d p = true then
        if u.ptpRole d p = 1 then
          sends u (msg (.announce (u.announceOn d p)) d :: (if u.hasTime d = true then [msg .sync d, u.followUp d p] else []))
        else u
      else s)) ∧
    (s.hasTime d = true ↔ if s.ptpSlave d = none then s.tmbSource ≠ 0 else s.gw.gptp.relay[d] ≠ none) ∧
    (s.followUp d p).kind = .followUp ∧ (s.followUp d p).stamp = tx ∧
    (s.ptpSlave d = none → (s.followUp d p).origin = tx ∧ (s.followUp d p).correction = 0) ∧
    (∀ m q, s.gw.gptp.relay[d] = some m → s.ptpSlave d = some q → (s.followUp d p).origin = m.origin ∧
      (s.followUp d p).correction = m.correction + 16 * ((s.linkDelay q).getD 0 : Nat) + ((tx : Int) - m.rx) +
        ((tx : Int) - m.rx) * s.gw.gptp.ratios[Fin.ofNat 14 q] / 1000000000) ∧
    exec (.pdelayReqTransmit p) s = .next
      (if p.val < 12 ∧ s.flag (Reg.TSW_PTP_PORT_CFG p) Fld.TSW_PTP_PORT_CFG_EN = true ∧ ¬ mute then
        let g := s.gw.gptp
        { s with gw := { s.gw with gptp := { g with reqAt := g.reqAt.set p (some tx), sent := g.sent ++ [msg .pdelayReq 0] } } }
      else s)

/-- R498, R525: the pins that only POR_N releases. -/
def Obligations.LatchedPinsStay : Prop :=
  (∀ s t : State, (∀ rest, s.pending ≠ .porN :: rest) → step s = .next t →
    (s.pins.heathDead = true → t.pins.heathDead = true ∧ t.faultN = false ∧ t.safeState = 3) ∧
    (s.pins.thermtripN = false → t.pins.thermtripN = false)) ∧
  (∀ s : State, exec .hclkFail s = .next { s with pins := { s.pins with heathDead := true } }) ∧
  (∀ (s : State) (n : Fin 24), exec (.thermtrip n) s =
    .next { s with pins := { s.pins with thermtripN := false }, errs := s.errs ++ [plainRecord .therm sevFatal] }) ∧
  ∀ s : State, ∃ t, exec .porN s = .next t ∧ t.pins.heathDead = false ∧ t.pins.thermtripN = true

/-- R249, R250, R525: the reference clock monitor. -/
def Obligations.ClockFailures : Prop :=
  (∀ s : State, exec .sysclkFail s = .next { s.setFld Reg.CLK_MON Fld.CLK_MON_SYSCLK_BAD 1 with
    errs := s.errs ++ [{ unit := .clk, sub := 0, sev := sevFatal, code := 0, path := pathNone, info := 0 }] }) ∧
  (∀ s : State, ∃ t, exec .xgrefFail s = .next t ∧ t.errs = s.errs ++ [plainRecord .clk sevCE] ∧
    (∀ p : Fin 14, t.portLinks[p] = if 8 ≤ p.val ∧ p.val < 12 then false else s.portLinks[p]) ∧
    t.fld Reg.CLK_MON Fld.CLK_MON_XGREF_BAD = 1 ∧ (∀ a, a ≠ Reg.CLK_MON → t.reg a = s.reg a) ∧ t.tb = s.tb) ∧
  (∀ s : State, if s.tb.tbrefOut = true then exec .tbrefFail s = .next s ∧
      (∃ t, exec .tbrefReturn s = .next t ∧ t.tb.tbrefOut = false ∧ t.tb.holdGood = 0 ∧ t.now = s.now ∧
        t.fld Reg.CLK_MON Fld.CLK_MON_TB_ON_SYS = 0 ∧ (∀ a, a ≠ Reg.CLK_MON → a ≠ Reg.TMB_STATUS → t.reg a = s.reg a) ∧
        (s.tmbSource = 2 → t.inHoldover = (s.inHoldover && s.tb.hold.source)) ∧
        (s.tmbSource ≠ 2 → t.inHoldover = s.inHoldover))
    else exec .tbrefReturn s = .next s ∧
      ∃ t, exec .tbrefFail s = .next t ∧ t.tb.tbrefOut = true ∧ t.tb.incr = s.tb.incr ∧ t.tb.incrNext = s.tb.incrNext ∧ t.now = s.now ∧
        t.fld Reg.CLK_MON Fld.CLK_MON_TBREF_BAD = 1 ∧ t.fld Reg.CLK_MON Fld.CLK_MON_TB_ON_SYS = 1 ∧ t.inHoldover = true ∧
        (s.inHoldover = false → t.fld Reg.TMB_STATUS Fld.TMB_STATUS_HOLD = 1 ∧ t.reg Reg.TMB_HOLD = 0#32 ∧
          t.fld Reg.TMB_STATUS Fld.TMB_STATUS_LOCKED = 0) ∧
        plainRecord .clk sevTimeout ∈ t.errs)

/-- R254, R259 to R264: the timetable. -/
def Obligations.TimetableFires : Prop :=
  (∀ (s : State) (i : Fin 1024), (s.dueFiring i s.now = none → exec (.timetableFiring i) s = .next s) ∧
    ∀ f, s.dueFiring i s.now = some f → let e := s.ttEntry i
      e.on = true ∧ f ≤ s.now ∧ (s.firesFirst i = false → exec (.timetableFiring i) s = .next s) ∧
      (s.firesFirst i = true → ∃ t, exec (.timetableFiring i) s = .next t ∧ SMap.find t.tt.fired i = some f ∧
        t.bus = s.bus ++ (if e.action = 1 then [] else
          [{ entry := i, action := e.action, arg0 := e.arg0, arg1 := e.arg1, tag := e.tag, sched := f, skipped := false }]) ∧
        (e.action ≠ 1 → t.tt.levels = s.tt.levels) ∧
        (e.action = 1 → let p := bitsOf e.arg0 2 0
          let edge := bitsOf e.arg0 5 4
          t.tt.levels[Fin.ofNat 8 p] = (if edge = 1 then false else if edge = 2 then !s.tt.levels[Fin.ofNat 8 p] else true) ∧
          (∀ k : Fin 8, k.val ≠ p → t.tt.levels[k] = s.tt.levels[k]) ∧
          (edge = 3 → s.fld (Reg.TTB_TRIG_CFG p) Fld.TTB_TRIG_CFG_WIDTH ≠ 0 → t.tt.pulses[Fin.ofNat 8 p] =
            some (s.tb.elapsed + 2 * s.fld (Reg.TTB_TRIG_CFG p) Fld.TTB_TRIG_CFG_WIDTH * nsE))))) ∧
  (∀ (s : State) (p : Fin 8) (e : Nat), s.tt.pulses[p] = some e → exec (.triggerPulseEnd p) s = .next (if e ≤ s.tb.elapsed then
    { s with tt := { s.tt with levels := s.tt.levels.set p false, pulses := s.tt.pulses.set p none } } else s)) ∧
  (∀ (s : State) (req : Req) (w : Word), s.Grants req .write Reg.TTB_CTRL →
    let en := Fld.TTB_CTRL_ENABLE.get w = 1
    let was := s.flag Reg.TTB_CTRL Fld.TTB_CTRL_ENABLE
    let c := s.ttCycle s.ttActive
    ∀ i ∈ [Instr.timetableEnable req w, Instr.timetableSwapRequest req w], ∃ t, exec i s = .next t ∧
      t.reply = { resp := .okay, data := [] } ∧ t.fld Reg.TTB_CTRL Fld.TTB_CTRL_ENABLE = Fld.TTB_CTRL_ENABLE.get w ∧
      t.ttActive = s.ttActive ∧ t.mem = s.mem ∧ (∀ a, a ≠ Reg.TTB_CTRL → t.reg a = (s.relabel req).reg a) ∧
      (if en then (if was then t.tt.firesFrom = s.tt.firesFrom else ∃ x, t.tt.firesFrom = some x ∧
          (0 < c → s.now < x ∧ x ≤ s.now + c ∧ x % c = 0))
        else t.tt.firesFrom = none) ∧
      t.tt.swapCheck = (s.tt.swapCheck || (Fld.TTB_CTRL_SWAP.get w == 1 && !(s.flag Reg.TTB_CTRL Fld.TTB_CTRL_SWAP)))) ∧
  (∀ s : State, let idle := 1 - s.ttActive
    let bad (i : Nat) := (ttEntry (s.ttBank idle) i).on = true ∧ (ttEntry (s.ttBank idle) i).bad (s.ttCycle idle) = true
    (s.tt.swapCheck = false → exec .timetableSwapCheckDone s = .next s) ∧
    (s.tt.swapCheck = true → (∀ i < 1024, ¬ bad i) →
      ∃ t x, exec .timetableSwapCheckDone s = .next t ∧ t.tt.swapAt = some x ∧ t.tt.swapCheck = false ∧ t.regs = s.regs ∧
        (0 < s.ttCycle 0 → 0 < s.ttCycle 1 → s.now < x ∧ s.tt.floor ≤ x ∧ x % s.ttCycle 0 = 0 ∧ x % s.ttCycle 1 = 0 ∧
          ∀ y, s.now < y → s.tt.floor ≤ y → y % s.ttCycle 0 = 0 → y % s.ttCycle 1 = 0 → x ≤ y)) ∧
    ∀ i < 1024, s.tt.swapCheck = true → bad i → (∀ j < i, ¬ bad j) →
      ∃ t, exec .timetableSwapCheckDone s = .next t ∧ t.tt = { s.tt with swapCheck := false } ∧
        t.fld Reg.TTB_STATUS Fld.TTB_STATUS_SWAP_ERR = 1 ∧ t.fld Reg.TTB_STATUS Fld.TTB_STATUS_ERR_ENTRY = i ∧
        t.fld Reg.TTB_CTRL Fld.TTB_CTRL_SWAP = 0 ∧ t.ttActive = s.ttActive) ∧
  (∀ s : State, (∀ b, s.tt.swapAt = some b → s.now < b) → exec .timetableBankSwap s = .next s) ∧
  (∀ (s : State) (b : Nat), s.tt.swapAt = some b → b ≤ s.now →
    ∃ t, exec .timetableBankSwap s = .next t ∧ t.ttActive = 1 - s.ttActive ∧ t.fld Reg.TTB_CTRL Fld.TTB_CTRL_SWAP = 0 ∧
      t.tt.swapAt = none ∧ t.tt.banks = s.tt.banks ∧ t.now = s.now ∧
      ((∀ i < 1024, s.dueFiring i s.now = none) → ∀ a, a ≠ Reg.TTB_CTRL → t.reg a = s.reg a)) ∧
  ∀ s : State, (s.bus.find? (fun e => e.action == 6) = none → exec .heathCycleEvent s = .next s) ∧
    ∀ e, s.bus.find? (fun e => e.action == 6) = some e →
      ∃ t, exec .heathCycleEvent s = .next t ∧ t.bus = s.bus.erase e ∧ t.regs = s.regs ∧ ∀ k : Fin 3, t.heath.cores[k] =
        if (bitAt e.arg0 k || (!s.heathSplits && bitsOf e.arg0 2 0 != 0)) = true ∧ s.heath.cores[k].fenced = false then { s.heath.cores[k] with irq := some (bitsOf e.arg0 15 8) } else s.heath.cores[k]

/-- R269 to R279: streams, camera receivers and ISP pipes. -/
def Obligations.CameraStreams : Prop :=
  (∀ (s : State) (n : Fin 20) (req : Req) (w : Word), let a := Reg.FGD_STR_CTRL n
    s.Grants req .write a →
    (Fld.FGD_STR_CTRL_EN.get w = 1 → s.fld a Fld.FGD_STR_CTRL_EN = 0 → ∀ resp bs u,
      let iova := s.fld (Reg.FGD_STR_DESC_HI n) Fld.FGD_STR_DESC_HI_ADDR_HI * 2 ^ 32 +
        s.fld (Reg.FGD_STR_DESC_LO n) Fld.FGD_STR_DESC_LO_ADDR_LO * 64
      let s1 := (s.relabel req).plainWrite a w
      s1.fetch (s1.unitReq .frameGuard 13 0) iova 64 = (resp, bs, u) →
      ∃ t, exec (.streamEnable n req w) s = .next t ∧ t.reply = { resp := .okay, data := [] } ∧ t.mem = u.mem ∧
        (∀ k : Fin 20, k ≠ n → t.stream k = u.stream k) ∧
        if resp = .okay ∧ descFits bs (streamDesc bs) = true ∧ u.descAdmits n (streamDesc bs) = true then
          t.stream n = { Stream.reset with desc := some (streamDesc bs) } ∧ t.reg (Reg.FGD_STR_BUF_TAIL n) = 0#32
        else t.stream n = u.stream n ∧ t.fld a Fld.FGD_STR_CTRL_EN = 0 ∧ t.fld a Fld.FGD_STR_CTRL_CFG_ERR = 1) ∧
    (Fld.FGD_STR_CTRL_EN.get w = 0 → s.fld a Fld.FGD_STR_CTRL_EN = 1 → (s.stream n).desc ≠ none →
      ∃ t, exec (.streamDisable n req w) s = .next t ∧ t.reply = { resp := .okay, data := [] } ∧ (t.stream n).desc = none ∧
        (t.stream n).frame = none ∧ (t.stream n).closing = [] ∧ t.fld a Fld.FGD_STR_CTRL_EN = 0)) ∧
  (∀ (s : State) (rx : Fin 4) (vc : Fin 32) (no : BitVec 16) (dt : BitVec 6) (bs : List Byte) (cond : PacketCond) (fill : Nat), s.csiOn rx = false →
    exec (.csiFrameStart rx vc no) s = .next s ∧ exec (.csiLongPacket rx vc dt bs ⟨cond, fill⟩) s = .next s ∧
    exec (.csiFrameEnd rx vc) s = .next s) ∧
  (∀ (s : State) (rx : Fin 4) (vc : Fin 32) (no : BitVec 16), s.csiOn rx = true →
    ∃ t, exec (.csiFrameStart rx vc no) s = .next t ∧ ∀ (n : Fin 20) (d : StreamDesc), (s.stream n).desc = some d →
      if n.val < 16 ∧ d.port = rx ∧ d.vc = vc then ∃ f, (t.stream n).frame = some f ∧ f.counter = some no.toNat ∧ f.seq = (s.stream n).seq + 1 ∧
          f.tFs = (s.now : Int) - d.latNs ∧ f.bytes = 0 ∧ f.payload = [] ∧ (t.stream n).seq = f.seq ∧ (f.refused = true → f.buf = none ∧ d.kind = 1)
      else t.stream n = s.stream n) ∧
  (∀ (s : State) (rx : Fin 4) (vc : Fin 32) (dt : BitVec 6) (bs : List Byte) (cond : PacketCond) (fill : Nat), s.csiOn rx = true →
    let full := 0x20000 < fill + bs.length
    let bad := full ∨ cond ∈ [PacketCond.headerBad, .crcBad, .fixedCrcBad]
    ∃ t, exec (.csiLongPacket rx vc dt bs ⟨cond, fill⟩) s = .next t ∧
      t.fld (Reg.CSI_ERR rx) Fld.CSI_ERR_DISCARD = (if bad then min (s.fld (Reg.CSI_ERR rx) Fld.CSI_ERR_DISCARD + 1) 65535
        else s.fld (Reg.CSI_ERR rx) Fld.CSI_ERR_DISCARD) ∧
      t.fld (Reg.CSI_ERR rx) Fld.CSI_ERR_ECC_FIX = (if cond ∈ [PacketCond.headerFixed, .fixedCrcBad] then
        min (s.fld (Reg.CSI_ERR rx) Fld.CSI_ERR_ECC_FIX + 1) 65535 else s.fld (Reg.CSI_ERR rx) Fld.CSI_ERR_ECC_FIX) ∧
      ∀ (n : Fin 20) (d : StreamDesc) (f : OpenFrame), n.val < 16 → (s.stream n).desc = some d → d.port = rx →
        (s.stream n).frame = some f → d.vc = vc →
        ∃ g, (t.stream n).frame = some g ∧ g.seq = f.seq ∧
          if bad then g = { f with pktErr := true, lost := f.lost + 1, trunc := f.trunc || decide full }
          else if dt = 0x12#6 then g = { f with embed := f.embed ++ bs }
          else if dt.toNat = d.dt then g.crc = crcUpdate f.crc bs ∧
            if d.kind = 1 then g.payload = f.payload ++ bs else f.lines ≤ g.lines ∧ g.lines ≤ f.lines + 1
          else g = f) ∧
  (∀ (s : State) (rx : Fin 4) (vc : Fin 32), s.csiOn rx = true →
    ∃ t, exec (.csiFrameEnd rx vc) s = .next t ∧ ∀ (n : Fin 20) (d : StreamDesc) (f : OpenFrame), (s.stream n).desc = some d →
      (s.stream n).frame = some f →
      if n.val < 16 ∧ d.port = rx ∧ d.vc = vc then (t.stream n).frame = none ∧ (t.stream n).desc = some d ∧
        (f.buf = none → f.inFifo = 0 → (t.stream n).nobuf =
          if f.refused = true then (s.stream n).nobuf else min ((s.stream n).nobuf + 1) 65535) ∧
        (d.kind = 1 → f.buf ≠ none → ∃ g, (t.stream n).closing = (s.stream n).closing ++ [g] ∧ g.payload = f.payload ∧
          g.buf = f.buf ∧ g.seq = f.seq) ∧
        (d.kind ≠ 1 → f.inFifo = 0 → (t.stream n).closing = (s.stream n).closing)
      else t.stream n = s.stream n) ∧
  ∀ (s : State) (n : Fin 20) (w l : BitVec 16),
    (∀ d f rest, (s.stream n).desc = some d → d.kind = 1 → (s.stream n).closing = f :: rest →
      ∃ t, exec (.ispOutputDone n w l) s = .next t ∧ (t.stream n).closing = rest ∧ (t.stream n).desc = some d ∧
        (t.stream n).frame = (s.stream n).frame ∧ ∀ k : Fin 20, k ≠ n → t.stream k = s.stream k) ∧
    ((s.stream n).closing = [] → exec (.ispOutputDone n w l) s = .next s)

/-- R280 to R286: Sensor Stream Ports. -/
def Obligations.SensorPorts : Prop :=
  (∀ (s : State) (p : Fin 4) (w : Word), s.sspOn p = false → exec (.sspWord p w) s = .next s ∧
    exec (.sspFrameStart p w) s = .next s ∧ exec (.sspClockLost p) s = .next s) ∧
  (∀ (s : State) (p : Fin 4) (w : Word), s.sspOn p = true → let old := s.ssp p
    let st := Reg.SSP_STATUS p
    let takes (t : State) : Prop := (t.ssp p).fv = old.fv ∧ (∀ q : Fin 4, q ≠ p → t.ssp q = s.ssp q) ∧
      if old.fifo.length < 4096 then
        (t.ssp p).fifo = old.fifo ++ [(w, (s.stream (16 + p)).frame.isSome)] ∧ t.fld st Fld.SSP_STATUS_FILL = old.fifo.length + 1 ∧
          t.fld st Fld.SSP_STATUS_FULL = (if old.fifo.length = 4095 then 1 else 0) ∧ t.reg (Reg.SSP_OVR p) = s.reg (Reg.SSP_OVR p) ∧
          (s.fld (Reg.SSP_WM p) Fld.SSP_WM_HWM ≤ old.fifo.length + 1 → t.fld st Fld.SSP_STATUS_HOLD = 1)
      else (t.ssp p).fifo = old.fifo ∧ t.fld st Fld.SSP_STATUS_OVR = 1 ∧
        (t.reg (Reg.SSP_OVR p)).toNat = min ((s.reg (Reg.SSP_OVR p)).toNat + 1) 0xFFFFFFFF ∧
        ∀ f, (s.stream (16 + p)).frame = some f → (t.stream (16 + p)).frame = some { f with loss := true, lost := f.lost + 1 }
    (∃ t, exec (.sspWord p w) s = .next t ∧ takes t) ∧
    (old.fv = true → exec (.sspFrameStart p w) s = .next s) ∧
    (old.fv = false → ∃ t, exec (.sspFrameStart p w) s = .next t ∧ (t.ssp p).fv = true ∧
      (old.fifo.length < 4096 → ∃ m, (t.ssp p).fifo = old.fifo ++ [(w, m)] ∧ (m = true ↔ (t.stream (16 + p)).frame ≠ none))) ∧
    ∃ t, exec (.sspClockLost p) s = .next t ∧ t.fld st Fld.SSP_STATUS_CLK_LOST = 1 ∧
      t.errs = s.errs ++ [plainRecord (.ssp p) sevTimeout] ∧ ∀ a, a ≠ st → t.reg a = s.reg a) ∧
  (∀ (s : State) (p : Fin 4), ((s.ssp p).fifo = [] → exec (.sspFifoDrain p) s = .next s) ∧
    ∀ x rest, (s.ssp p).fifo = x :: rest → rest.length ≤ 4096 →
      ∃ t, exec (.sspFifoDrain p) s = .next t ∧ (t.ssp p).fifo = rest ∧ (t.ssp p).fv = (s.ssp p).fv ∧
        t.fld (Reg.SSP_STATUS p) Fld.SSP_STATUS_FILL = rest.length ∧
        (s.sspOn p = true → rest.length < s.fld (Reg.SSP_WM p) Fld.SSP_WM_HWM → rest.length ≤ s.fld (Reg.SSP_WM p) Fld.SSP_WM_LWM →
          t.fld (Reg.SSP_STATUS p) Fld.SSP_STATUS_HOLD = 0)) ∧
  ∀ (s : State) (p : Fin 4), ((s.ssp p).fv = false → exec (.sspFrameEnd p) s = .next s) ∧
    ((s.ssp p).fv = true → (s.stream (16 + p)).desc ≠ none → ∃ t, exec (.sspFrameEnd p) s = .next t ∧ (t.ssp p).fv = false ∧
      (t.ssp p).fifo = (s.ssp p).fifo ∧ (t.stream (16 + p)).frame = none)

/-- R295, R298, R299, R304, R306: the Fusion Unit. -/
def Obligations.FusionInstants : Prop :=
  (∀ s : State, s.bus.find? (fun e => e.action == 3) = none → exec .fusionInstantEvent s = .next s) ∧
  (∀ (s : State) (e : ReleaseEvent), s.bus.find? (fun e => e.action == 3) = some e →
    let i := bitsOf e.arg0 5 0
    let en := s.flag Reg.FUS_CTRL Fld.FUS_CTRL_EN
    (en = false → exec .fusionInstantEvent s = .next { s with bus := s.bus.erase e }) ∧
    (en = true → s.flag Reg.FUS_CTRL Fld.FUS_CTRL_SWAP = false →
      ∃ t, exec .fusionInstantEvent s = .next t ∧ t.bus = s.bus.erase e ∧ (t.instant i).lastFire = some e.sched ∧
        (s.instantOn s.fusActive i = false → t.fusion.products = s.fusion.products) ∧
        (s.instantOn s.fusActive i = true → (s.instant i).waiting = [] → t.fusion.products = s.fusion.products ++
          [{ instant := i, time := e.sched, bank := s.fusActive, samples := [] }]))) ∧
  (∀ (s : State) (n : Fin 64), let due (p : Product) : Bool := p.instant == n.val && decide (p.time + (s.instantRec p.bank n).closeNs ≤ s.now)
    (s.fusion.products.find? due = none → exec (.fusionCloseTimeout n) s = .next s) ∧
    ∀ p, s.fusion.products.find? due = some p →
      ∃ t, exec (.fusionCloseTimeout n) s = .next t ∧ t.fusion.products = s.fusion.products.erase p ∧
        (t.instant n).seq = (s.instant n).seq + 1 ∧
        if (s.instant n).bufHead = s.fld (Reg.FUS_BUF_TAIL n) Fld.FUS_BUF_TAIL_TAIL then
          (t.instant n).nobuf = (s.instant n).nobuf + 1 ∧ (t.instant n).bufHead = (s.instant n).bufHead ∧ t.mem = s.mem
        else (t.instant n).nobuf = 0 ∧ (t.instant n).late = 0 ∧ (t.instant n).unpaired = 0 ∧
          (t.instant n).bufHead = ((s.instant n).bufHead + 1) % 2 ^ (s.instantRec p.bank n).log2) ∧
  (∀ (s : State) (req : Req) (w : Word), s.Grants req .write Reg.FUS_CTRL →
    let stopped := ∃ i < 64, s.instantOn s.fusActive i = true ∧ s.isActive (s.instantRec s.fusActive i).ctx = false
    ∃ t, exec (.fusionSwapRequest req w) s = .next t ∧ t.reply = { resp := .okay, data := [] } ∧ t.mem = s.mem ∧ t.fusActive = s.fusActive ∧
      t.fld Reg.FUS_CTRL Fld.FUS_CTRL_SWAP = (s.fld Reg.FUS_CTRL Fld.FUS_CTRL_SWAP ||| Fld.FUS_CTRL_SWAP.get w) ∧
      t.fld Reg.FUS_CTRL Fld.FUS_CTRL_SWAP_INST = Fld.FUS_CTRL_SWAP_INST.get w ∧
      if Fld.FUS_CTRL_EN.get w = 1 ∧ s.fld Reg.FUS_CTRL Fld.FUS_CTRL_EN = 0 then
        (stopped → t.fld Reg.FUS_CTRL Fld.FUS_CTRL_EN = 0 ∧ t.fusion = s.fusion) ∧
        (¬ stopped → t.fld Reg.FUS_CTRL Fld.FUS_CTRL_EN = 1 ∧ ∀ i : Fin 64, t.reg (Reg.FUS_BUF_TAIL i) = 0#32 ∧
          t.instant i = { Instant.reset with dead := (s.instant i).dead })
      else t.fusion = s.fusion ∧ t.fld Reg.FUS_CTRL Fld.FUS_CTRL_EN = Fld.FUS_CTRL_EN.get w) ∧
  ∀ (s : State) (req : Req) (w : Word), s.Grants req .write Reg.FUS_REPHASE →
    ∃ t, exec (.fusionRephase req w) s = .next t ∧ t.reply = { resp := .okay, data := [] } ∧ ∀ k : Fin 64,
      t.fusion.drifts[k] = if Fld.FUS_REPHASE_GO.get w = 1 ∧ k.val = Fld.FUS_REPHASE_SENSOR.get w then
        { s.fusion.drifts[k] with again := true } else s.fusion.drifts[k]

/-- R313 to R319, R323, R328, R363: accesses to DDR and to SEC-DED memories. -/
def Obligations.MemoryAccesses : Prop :=
  (∀ (s : State) (req : Req) (addr : BitVec 48) (up10 : BitVec 10) (up : Fin 3) (data : Vector Byte 64) (bs : List Byte) (posted : Bool),
    (s.place addr.toNat ≠ .ddr → exec (.ddrRead req addr up10) s = .next s ∧ exec (.ddrFullWrite req addr data) s = .next s ∧
      exec (.ddrPartialWrite req addr bs posted up10) s = .next s) ∧
    (s.isSram (addr.toNat / 8 * 8) = false → exec (.sramRead req addr up) s = .next s) ∧
    (s.isSram addr.toNat = false → exec (.sramNarrowWrite req addr bs up) s = .next s)) ∧
  (∀ (s : State) (req : Req) (addr : BitVec 48) (up10 : BitVec 10) (up : Fin 3) (data : Vector Byte 64) (bs : List Byte) (posted : Bool),
    s.mute req.ini = true → ∀ i ∈ [Instr.ddrRead req addr up10, .ddrFullWrite req addr data, .ddrPartialWrite req addr bs posted up10,
      .sramRead req addr up, .sramNarrowWrite req addr bs up], exec i s = .next s) ∧
  (∀ (s : State) (req : Req) (addr : BitVec 48) (up : BitVec 10), s.place addr.toNat = .ddr → s.mute req.ini = false →
    let pa := addr.toNat / 64 * 64
    let s0 := s.relabel req
    let cnt := Reg.DMC_ECC_CNT (s.subOf pa / 2)
    let j := s.judged req .read pa 64
    let gives (t : State) : Prop := t.reply = { resp := .okay, data := s.bytes pa 64 }
    let fails (t : State) : Prop := t.reply = { resp := .ue, data := List.replicate 64 0#8 } ∧ t.mem = s.mem
    let counted (t : State) (f : Fld) : Prop := t.fld cnt f = min (s.fld cnt f + 1) 65535
    ∃ t, exec (.ddrRead req addr up) s = .next t ∧
      if j.1 = .okay then
        (t.reply.resp = .okay → ∀ k, (s.issued req).ini = .ac k → ∃ x ∈ t.caches, x.cache = .l1d k ∧ x.line = pa / 64) ∧
        if s.dirtyAtCore (pa / 64) = true then gives t ∧ t.mem = s.mem
        else match s.slcFind ((pa - ddrBase) / 64) with
          | some l => if l.bad = true then fails t else gives t ∧ t.mem = s.mem
          | none => match s0.decodeDdr pa up.toNat with
            | .ok => gives t ∧ t.mem = s.mem ∧ t.errs = s.errs
            | .corrected _ _ => gives t ∧ t.mem = s.mem ∧ counted t Fld.DMC_ECC_CNT_CE
            | .mistaken _ => t.reply.resp = .okay ∧ counted t Fld.DMC_ECC_CNT_CE ∧ ∀ a, a < pa ∨ pa + 64 ≤ a → t.byte a = s.byte a
            | .uncorrectable => fails t ∧ counted t Fld.DMC_ECC_CNT_UE ∧ t.errs.length = s.errs.length + 1
            | .poison => fails t ∧ counted t Fld.DMC_ECC_CNT_UE ∧ t.errs = s.errs ∧ t.ddrDamage = s.ddrDamage
      else t.reply = { resp := j.1, data := List.replicate 64 0#8 } ∧ t.mem = s.mem) ∧
  (∀ (s : State) (req : Req) (addr : BitVec 48) (data : Vector Byte 64), s.place addr.toNat = .ddr → s.mute req.ini = false →
    let pa := addr.toNat / 64 * 64
    let line := (pa - ddrBase) / 64
    let j := s.judged req .write pa 64
    ∃ t, exec (.ddrFullWrite req addr data) s = .next t ∧ t.reply = { resp := j.1, data := [] } ∧
      (∀ a, a < pa ∨ pa + 64 ≤ a → t.byte a = s.byte a) ∧
      if j.1 = .okay then (∀ i : Fin 64, t.byte (pa + i) = data[i]) ∧
        (SMap.find t.ddrDamage (pa / 64) = none ∨ ∃ l ∈ t.slc, l.line = line ∧ l.dirty = true ∧ l.bad = false ∧ l.cls = (s.issued req).cl) ∧
        ∀ x ∈ t.caches, x.line = pa / 64 → ∃ k, (s.issued req).ini = .ac k ∧ cacheOf x.cache k = true
      else t.mem = s.mem) ∧
  (∀ (s : State) (req : Req) (addr : BitVec 48) (data : List Byte) (posted : Bool) (up : BitVec 10), s.place addr.toNat = .ddr →
    s.mute req.ini = false →
    let pa := addr.toNat
    let bs := data.take (64 - pa % 64)
    let s0 := s.relabel req
    let j := s.judged req .write pa bs.length
    let answers (t : State) (r : Resp) : Prop := t.reply = if posted then s.reply else { resp := r, data := [] }
    let stored (t : State) : Prop := ∀ i, (h : i < bs.length) → t.byte (pa + i) = bs[i]
    let kept (t : State) : Prop := ∀ a, a < pa ∨ pa + bs.length ≤ a → t.byte a = s.byte a
    ∃ t, exec (.ddrPartialWrite req addr data posted up) s = .next t ∧
      if j.1 ≠ .okay then answers t j.1 ∧ t.mem = s.mem
      else stored t ∧ (∀ x ∈ t.caches, x.line = pa / 64 → ∃ k, (s.issued req).ini = .ac k ∧ cacheOf x.cache k = true) ∧
        if bs.length = 64 ∨ s.dirtyAtCore (pa / 64) = true then answers t .okay ∧ kept t ∧ t.errs = s.errs
        else match s.slcFind ((pa - ddrBase) / 64) with
          | some l => answers t (if l.bad = true then .ue else .okay) ∧ kept t ∧ t.errs = s.errs
          | none => match s0.decodeDdr pa up.toNat with
            | .ok => answers t .okay ∧ kept t ∧ t.errs = s.errs
            | .corrected _ _ => answers t .okay ∧ kept t
            | .mistaken _ => answers t .okay ∧ ∀ a, a / 64 ≠ pa / 64 → t.byte a = s.byte a
            | .poison => answers t .ue ∧ kept t ∧ t.errs = s.errs ∧ t.ddrDamage = s.ddrDamage
            | .uncorrectable => answers t .ue ∧ SMap.find t.ddrDamage (pa / 64) = some .poison ∧
              ∀ a, a < pa ∨ pa + bs.length ≤ a → t.byte a = if a / 64 = pa / 64 then 0#8 else s.byte a) ∧
  (∀ (s : State) (req : Req) (addr : BitVec 48) (up : Fin 3), let pa := addr.toNat / 8 * 8
    let s0 := s.relabel req
    let j := s.judged req .read pa 8
    s.isSram pa = true → s.mute req.ini = false → ∃ t, exec (.sramRead req addr up) s = .next t ∧ t.mem = s.mem ∧
      if j.1 = .okay then match s0.decodeSram pa up with
        | .ok => t = s0.answer .okay (s.bytes pa 8)
        | .corrected _ _ | .mistaken _ => t.reply = { resp := .okay, data := s.bytes pa 8 } ∧ SMap.find t.sramDamage (pa / 8) = none
        | .uncorrectable => t.reply = { resp := .ue, data := List.replicate 8 0#8 }
        | .poison => t.reply = { resp := .ue, data := List.replicate 8 0#8 } ∧ t.errs = s.errs
      else t.reply = { resp := j.1, data := List.replicate 8 0#8 }) ∧
  ∀ (s : State) (req : Req) (addr : BitVec 48) (data : List Byte) (up : Fin 3), let pa := addr.toNat
    let bs := data.take (8 - pa % 8)
    let s0 := s.relabel req
    let j := s.judged req .write pa bs.length
    s.isSram pa = true → s.mute req.ini = false → ∃ t, exec (.sramNarrowWrite req addr data up) s = .next t ∧ t.reply = { resp := j.1, data := [] } ∧
      (∀ a, a < pa ∨ pa + bs.length ≤ a → t.byte a = s.byte a) ∧
      if j.1 = .okay then (∀ i, (h : i < bs.length) → t.byte (pa + i) = bs[i]) ∧
        (bs.length < 8 → s0.decodeSram pa up = .uncorrectable → SMap.find t.sramDamage (pa / 8) = some .poison)
      else t.mem = s.mem

/-- R312, R314, R325 to R327: maintenance of DDR. -/
def Obligations.MemoryMaintenance : Prop :=
  (∀ (s : State) (g : Fin 16) (up : BitVec 10), let n := g.val / 2
    let runs := s.dmcPopulated n = true ∧ s.fld (Reg.DMC_SCRUB n) Fld.DMC_SCRUB_INTERVAL ≠ 0 ∧
      s.flag (Reg.DMC_STATUS n) Fld.DMC_STATUS_RP_BUSY = false ∧ ∀ at_, (s.dmc n).scrubAt[Fin.ofNat 2 g] = some at_ →
        at_ + s.fld (Reg.DMC_SCRUB n) Fld.DMC_SCRUB_INTERVAL * usE ≤ s.tb.elapsed
    let mine (k : Nat) : Bool := decide (g.val = k)
    (¬ runs → exec (.scrubRead g up) s = .next s) ∧
    ∀ w, runs → s.wordFrom mine ((s.dmc n).scrub[Fin.ofNat 2 g]) s.ddrWords = some w →
      ∃ t, exec (.scrubRead g up) s = .next t ∧ ((∀ d, s.decodeDdr (ddrBase + w * 64) up.toNat ≠ .mistaken d) → t.mem = s.mem) ∧
        t.reply = s.reply ∧ (t.dmc n).scrubAt[Fin.ofNat 2 g] = some s.tb.elapsed ∧
        (t.dmc n).scrub[Fin.ofNat 2 g] = (s.wordFrom mine (w + 1) s.ddrWords).getD 0 ∧
        (s.wordFrom mine (w + 1) s.ddrWords = none → ∀ x ∈ (t.dmc n).counts, x.1 / 32 ≠ g.val % 2)) ∧
  (∀ (s : State) (g : Fin 16), let run := s.wheelRun[g]
    exec (.ddrRefresh g) s = .next (if s.dmcPopulated (g / 2) = true ∧ 1000 * (run.refresh + 1) ≤ 36 * (run.slots + 1) then
      { s with wheelPos := s.wheelPos.set g ((s.wheelPos[g] + 1) % 256), wheelOut := s.wheelOut.set g none
               wheelRun := s.wheelRun.set g { run with slots := run.slots + 1, refresh := run.refresh + 1 } } else s)) ∧
  (∀ (s : State) (n : Fin 8) (req : Req) (w : Word), s.Grants req .write (Reg.DMC_RP_CTRL n) →
    let st := Reg.DMC_STATUS n
    let go := Fld.DMC_RP_CTRL_GO.get w = 1
    let abort := Fld.DMC_RP_CTRL_ABORT.get w = 1
    let a := s.fld (Reg.DMC_RP_START n) Fld.DMC_RP_START_PAGE
    let b := s.fld (Reg.DMC_RP_END n) Fld.DMC_RP_END_PAGE
    let ended (t : State) (status : Nat) : Prop := (t.dmc n).pass = none ∧ t.fld st Fld.DMC_STATUS_RP_BUSY = 0 ∧
      t.fld st Fld.DMC_STATUS_RP_DONE = 1 ∧ t.reg (Reg.DMC_SUM n 0) = BitVec.ofNat 32 status
    ∀ i ∈ [Instr.rangePassStart n req w, Instr.rangePassAbort n req w],
      ∃ t, exec i s = .next t ∧ t.reply = { resp := .okay, data := [] } ∧ t.mem = s.mem ∧
        if s.dmcPopulated n = false then t = (s.relabel req).answer .okay []
        else match (s.dmc n).pass with
          | some p => if abort then ended t 1 ∧ t.reg (Reg.DMC_SUM n 1) = BitVec.ofNat 32 p.words ∧
              t.reg (Reg.DMC_SUM n 3) = BitVec.ofNat 32 p.ue ∧ (go → t.fld st Fld.DMC_STATUS_CFG_ERR = 1)
            else t.dmcs = s.dmcs ∧ (go → t.fld st Fld.DMC_STATUS_CFG_ERR = 1) ∧ (¬ go → t = (s.relabel req).answer .okay [])
          | none => if ¬ go then t = (s.relabel req).answer .okay []
            else if s.flag st Fld.DMC_STATUS_RP_BUSY = true then t.dmcs = s.dmcs ∧ t.fld st Fld.DMC_STATUS_CFG_ERR = 1
            else if a < b ∧ b ≤ s.ddrCap / 4096 then t.fld st Fld.DMC_STATUS_RP_BUSY = 1 ∧
              (t.dmc n).pass = some { next := a * 64, stop := b * 64, words := 0, ce := 0, ue := 0, poison := 0, first := none,
                                      last := none, tStart := s.short }
            else ended t 2) ∧
  (∀ (s : State) (n : Fin 8) (up : BitVec 10), let mine (k : Nat) : Bool := decide (k / 2 = n.val)
    ((s.dmc n).pass = none → exec (.rangePassRead n up) s = .next s) ∧
    ∀ p w, (s.dmc n).pass = some p → s.wordFrom mine p.next p.stop = some w →
      ∃ t, exec (.rangePassRead n up) s = .next t ∧ ((∀ d, s.decodeDdr (ddrBase + w * 64) up.toNat ≠ .mistaken d) → t.mem = s.mem) ∧
        if s.wordFrom mine (w + 1) p.stop = none then (t.dmc n).pass = none ∧ t.reg (Reg.DMC_SUM n 0) = 0#32 ∧
          t.reg (Reg.DMC_SUM n 1) = BitVec.ofNat 32 (p.words + 1) ∧ t.fld (Reg.DMC_STATUS n) Fld.DMC_STATUS_RP_DONE = 1
        else ∃ q, (t.dmc n).pass = some q ∧ q.next = w + 1 ∧ q.stop = p.stop ∧ q.words = p.words + 1 ∧
          q.ce + q.ue + q.poison = p.ce + p.ue + p.poison + (if s.decodeDdr (ddrBase + w * 64) up.toNat = .ok then 0 else 1)) ∧
  ∀ (s : State) (n : Fin 8) (req : Req) (w : Word), s.Grants req .write (Reg.DMC_MARK n) → s.dmcPopulated n = true →
    let marks := s.reg (Reg.DMC_MARK n) &&& 0x80808080#32
    ∃ t, exec (.markClear n req w) s = .next t ∧ t.reply = { resp := .okay, data := [] } ∧ t.mem = s.mem ∧
      t.reg (Reg.DMC_MARK n) &&& 0x80808080#32 = marks &&& ~~~w ∧
      if marks &&& w = 0#32 then t.dmcs = s.dmcs else (t.dmc n).counts = []

/-- R320, R328 to R331: the system cache. -/
def Obligations.SystemCache : Prop :=
  (∀ (s : State) (req : Req) (addr : BitVec 48) (data : Option (Vector Byte 64)) (err : SlcError),
    (s.mute req.ini = true ∨ s.place (addr.toNat / 64 * 64) ≠ .ddr) → exec (.slcAccess req addr data err) s = .next s) ∧
  (∀ (s : State) (req : Req) (addr : BitVec 48) (data : Option (Vector Byte 64)) (err : SlcError), s.mute req.ini = false →
    let pa := addr.toNat / 64 * 64
    let line := (pa - ddrBase) / 64
    let cls := (s.issued req).cl.val
    let write := data.isSome
    let j := s.judged req (if write then .write else .read) pa 64
    let hit := s.slcFind line
    let left : Option SlcLine := hit.bind fun l => match err, l.dirty with
      | .none, _ => some l
      | .data, true => some { l with bad := l.bad || !write }
      | _, _ => none
    let sent : List ErrRecord := match hit, err with
      | some l, .data => if l.dirty = false then [plainRecord .slc sevCE] else if write then [] else [plainRecord .slc sevUE]
      | some l, .tag => [plainRecord .slc (if l.dirty then sevFatal else sevCE)]
      | _, _ => []
    let found := (s.relabel req).decodeDdr pa 0
    s.place pa = .ddr → ∃ t, exec (.slcAccess req addr data err) s = .next t ∧
      if j.1 ≠ .okay then t.reply = { resp := j.1, data := if write then [] else List.replicate 64 0#8 } ∧ t.mem = s.mem ∧ t.slc = s.slc
      else (∀ a, a < pa ∨ pa + 64 ≤ a → t.byte a = s.byte a) ∧ match data with
        | some d => t.reply = { resp := .okay, data := [] } ∧ t.errs = s.errs ++ sent ∧ (∀ i : Fin 64, t.byte (pa + i) = d[i]) ∧
          if left.isSome = true ∨ s.slcWays cls ≠ [] then ∃ l ∈ t.slc, l.line = line ∧ l.dirty = true ∧ l.cls = cls ∧ l.bad = false
          else SMap.find t.ddrDamage (pa / 64) = none
        | none => (∀ k, (s.issued req).ini ≠ .ac k) → s.dirtyAtCore (pa / 64) = false →
          let fails : Prop := t.reply = { resp := .ue, data := List.replicate 64 0#8 }
          let enters : Prop := t.reply = { resp := .okay, data := t.bytes pa 64 } ∧
            (s.slcWays cls ≠ [] → ∃ l ∈ t.slc, l.line = line ∧ l.dirty = false ∧ l.cls = cls ∧ l.bad = false ∧ l.way ∈ s.slcWays cls)
          match left, found with
          | some l, _ => (if l.bad = true then fails else t.reply = { resp := .okay, data := s.bytes pa 64 }) ∧ t.mem = s.mem ∧
            t.errs = s.errs ++ sent
          | none, .ok => enters ∧ t.errs = s.errs ++ sent ∧
            ∀ l, hit = some l → l.dirty = true → l.old.length = 64 → t.bytes pa 64 = l.old
          | none, .corrected _ _ | none, .mistaken _ => enters
          | none, .uncorrectable | none, .poison => fails) ∧
  (∀ (s : State) (req : Req) (w : Word), s.Grants req .write Reg.SLC_FLUSH →
    ∃ t, exec (.slcFlush req w) s = .next t ∧ OnlyRegs s t ∧ t.reply = { resp := .okay, data := [] } ∧ ∀ k < 24,
      bitAt (t.reg Reg.SLC_FLUSH).toNat k = (bitAt (s.reg Reg.SLC_FLUSH).toNat k || (bitAt w.toNat k && !(s.heldWay k)))) ∧
  (∀ (s : State) (k : Fin 24), if bitAt (s.reg Reg.SLC_FLUSH).toNat k = true then
      ∃ t, exec (.slcFlushDone k) s = .next t ∧ t.slc = s.slc.filter (fun l => !(Nat.beq l.way k)) ∧ t.mem = s.mem ∧
        ∀ j < 24, bitAt (t.reg Reg.SLC_FLUSH).toNat j = (bitAt (s.reg Reg.SLC_FLUSH).toNat j && decide (j ≠ k.val))
    else exec (.slcFlushDone k) s = .next s) ∧
  (∀ (s : State) (req : Req) (w : Word), s.Grants req .write Reg.SLC_HOLD → Fld.SLC_HOLD_WAYS.get w ≤ 4 →
    ∃ t, exec (.depthHoldWrite req w) s = .next t ∧ OnlyRegs s t ∧ t.reply = { resp := .okay, data := [] } ∧
      t.fld Reg.SLC_HOLD Fld.SLC_HOLD_WAYS = Fld.SLC_HOLD_WAYS.get w ∧ t.fld Reg.SLC_HOLD Fld.SLC_HOLD_PEND =
        (if Fld.SLC_HOLD_WAYS.get w = s.fld Reg.SLC_HOLD Fld.SLC_HOLD_WAYS then s.fld Reg.SLC_HOLD Fld.SLC_HOLD_PEND else 1) ∧
      ∀ a, a ≠ Reg.SLC_HOLD → t.reg a = (s.relabel req).reg a) ∧
  ∀ s : State, let n := s.fld Reg.SLC_HOLD Fld.SLC_HOLD_WAYS
    if s.flag Reg.SLC_HOLD Fld.SLC_HOLD_PEND = true ∧ s.renderInFlight = false then
      ∃ t, exec .depthHoldChange s = .next t ∧ t.holdWays = n ∧ t.slc = s.slc.filter (fun l => Nat.blt l.way (24 - n)) ∧
        t.fld Reg.SLC_HOLD Fld.SLC_HOLD_PEND = 0 ∧ t.fld Reg.SLC_HOLD Fld.SLC_HOLD_WAYS = n ∧ t.mem = s.mem
    else exec .depthHoldChange s = .next s

/-- R312, R321, R322, R333 to R335, R337: slot wheels and fabric links. -/
def Obligations.WheelsAndLinks : Prop :=
  (∀ (s : State) (g : Fin 16) (arriving : List WheelReq) (fills : List (UrgentMaster × Nat)) (busy : List Nat) (maint : Bool),
    let k := s.wheelPos[g]
    let u := fills.foldl (fun s x => s.bufferNow x) s
    let x := (List.range 16).foldl (fun x i => u.takeTurnAt i x) (s.channels[g] ++ arriving, s.ddrQueue[g])
    let upkeep := maint = true ∧ 1000 * (s.wheelRun[g].scrub + 1) ≤ 4 * (s.wheelRun[g].slots + 1)
    let ofClass (c : Nat) (ws : List WheelReq) := ws.filter fun r => Nat.beq r.cls c
    ∃ t burst, exec (.wheelSlot g ⟨arriving, fills, busy⟩ maint) s = .next t ∧ t.wheelPos = s.wheelPos.set g ((k + 1) % 256) ∧
      t.wheelOut = s.wheelOut.set g burst ∧ t.mem = s.mem ∧
      t.channels[g].length + t.ddrQueue[g].length + burst.toList.length = s.channels[g].length + arriving.length + s.ddrQueue[g].length ∧
      (∀ c, (ofClass c s.ddrQueue[g]).length ≤ 16 → (ofClass c t.ddrQueue[g]).length ≤ 16) ∧
      (∀ h : Fin 16, h ≠ g → t.channels[h] = s.channels[h] ∧ t.ddrQueue[h] = s.ddrQueue[h]) ∧
      (upkeep → burst = none) ∧
      (¬ upkeep →
        let best (o : Option WheelReq) : Prop := match o with
          | none => ∀ r ∈ x.2, s.exclusive r.cls = true
          | some b => b ∈ x.2 ∧ s.exclusive b.cls = false ∧
            ∀ r ∈ x.2, s.exclusive r.cls = false → u.priority r ≤ u.priority b
        match s.slotOwner g k with
        | none => best burst
        | some c => match x.2.find? fun r => Nat.beq r.cls c && !(busy.contains r.bank) with
          | some r => burst = some r
          | none => if s.exclusive c = true then burst = none else best burst)) ∧
  (∀ (s : State) (req : Req) (w : Word), s.Grants req .write Reg.SLU_CTRL →
    ∃ t, exec (.wheelSwapRequest req w) s = .next t ∧ OnlyRegs s t ∧ t.reply = { resp := .okay, data := [] } ∧
      t.fld Reg.SLU_CTRL Fld.SLU_CTRL_SWAP = (s.fld Reg.SLU_CTRL Fld.SLU_CTRL_SWAP ||| Fld.SLU_CTRL_SWAP.get w) ∧
      t.fld Reg.SLU_CTRL Fld.SLU_CTRL_EN = Fld.SLU_CTRL_EN.get w ∧
      t.fld Reg.SLU_CTRL Fld.SLU_CTRL_ACTIVE = s.fld Reg.SLU_CTRL Fld.SLU_CTRL_ACTIVE ∧
      ∀ a, a ≠ Reg.SLU_CTRL → t.reg a = (s.relabel req).reg a) ∧
  (∀ s : State, if s.flag Reg.SLU_CTRL Fld.SLU_CTRL_SWAP = true ∧ ∀ g : Fin 16, s.wheelPos[g] = 0 then
      ∃ t, exec .wheelBankSwap s = .next t ∧ t.fld Reg.SLU_CTRL Fld.SLU_CTRL_SWAP = 0 ∧
        t.fld Reg.SLU_CTRL Fld.SLU_CTRL_ACTIVE = 1 - s.fld Reg.SLU_CTRL Fld.SLU_CTRL_ACTIVE ∧ t.wheelPos = s.wheelPos ∧
        (∀ w < 16, ∀ k < 64, SMap.get regReset t.wheelLive (Reg.SLU_WHL w k) = s.reg (Reg.SLU_WHL w k)) ∧ t.mem = s.mem
    else exec .wheelBankSwap s = .next s) ∧
  (∀ (s : State) (r : Byte) (d : Fin 4) (f : Flit), let here (l : Link) := Nat.beq l.router r.toNat && Nat.beq l.dir d
    let old := s.links.find? here
    let good : Prop := ∀ k : Fin 16, ((List.range 32).filter (bitAt f.words[k].toNat)).length % 2 = (bitAt f.parity.toNat k).toNat
    let n := if f.again then (old.map (·.replays)).getD 0 + 1 else 1
    if (∃ l, old = some l ∧ l.faulty = true) then exec (.flitParityError r d f) s = .next s
    else (good → exec (.flitParityError r d f) s = .next { s with links := s.links.filter (fun l => !(here l)) }) ∧
      (¬ good → ∃ t, exec (.flitParityError r d f) s = .next t ∧ t.mem = s.mem ∧ t.reply = s.reply ∧
        t.links.find? here = some { router := r.toNat, dir := d, replays := n, faulty := decide (8 ≤ n), buffer := f.held.take 64 } ∧
        (t.reg Reg.MRC_REPLAYS).toNat = min ((s.reg Reg.MRC_REPLAYS).toNat + 1) 0xFFFFFFFF ∧
        if n < 8 then t.errs = s.errs ∧ t.linkLost = s.linkLost ∧ t.reg Reg.MRC_LFAULT = s.reg Reg.MRC_LFAULT
        else t.errs = s.errs ++ [{ plainRecord .mrc sevUE with sub := d }] ∧ t.linkLost = s.linkLost ++ f.held.take 64 ∧
          t.fld Reg.MRC_LFAULT Fld.MRC_LFAULT_VALID = 1 ∧
          (s.fld Reg.MRC_LFAULT Fld.MRC_LFAULT_VALID = 1 → t.reg Reg.MRC_LFAULT = s.reg Reg.MRC_LFAULT) ∧
          (s.fld Reg.MRC_LFAULT Fld.MRC_LFAULT_VALID = 0 → t.fld Reg.MRC_LFAULT Fld.MRC_LFAULT_ROUTER = r.toNat ∧
            t.fld Reg.MRC_LFAULT Fld.MRC_LFAULT_DIR = d))) ∧
  ∀ (s : State) (i : Instr) (req : Req) (a : Nat) (w : Word), i.writeOf = some (req, a, w) → s.mute req.ini = false →
    req.ini ∈ s.linkLost → ∃ t, exec i s = .next t ∧ t.reply = { resp := .link, data := [] } ∧
      t.linkLost = s.linkLost.erase req.ini ∧ t.mem = s.mem

/-- R385, R387, R389, R390: region guards. -/
def Obligations.RegionGuards : Prop :=
  (∀ (s : State) (req : Req) (ty : AccType) (addr : BitVec 48) (len : Nat), let pa := addr.toNat
    let s0 := s.relabel req
    match s.guardTarget pa with
    | none => exec (.guardedAccess req ty addr len) s = .next s
    | some t => if s.mute req.ini = true then exec (.guardedAccess req ty addr len) s = .next s
      else if s.fencing t = true then
        exec (.guardedAccess req ty addr len) s = .next { s0 with guardWait := s.guardWait ++ [{ target := t, req := s.issued req, type := ty, addr := pa, len }] }
      else ∃ u, exec (.guardedAccess req ty addr len) s = .next u ∧ u.guardWait = s.guardWait ∧
        (∀ a, ty = .write ∨ s.place a ≠ .ddr → u.byte a = s.byte a) ∧
        let j := s.judged req ty pa len
        let r := s0.readMemAs ty (s.issued req) (s0.readsOwn (s.issued req) pa) (len + 1) pa len
        if j.1 = .okay then if ty = .write then u.reply = { resp := .okay, data := [] } else u.reply = { resp := r.1, data := r.2.1 }
        else u.reply = { resp := j.1, data := if ty = .write then [] else List.replicate len 0#8 }) ∧
  (∀ (s : State) (t : Fin 11) (req : Req) (w : Word), s.Grants req .write (Reg.GRD_FENCE t) →
    exec (.guardFence t req w) s = .next (State.answer (if Fld.GRD_FENCE_GO.get w = 1 then
      (s.relabel req).setFld (Reg.GRD_STATUS t) (if s.fencing t = true then Fld.GRD_STATUS_CFG_ERR else Fld.GRD_STATUS_BUSY) 1
      else s.relabel req) .okay [])) ∧
  (∀ (s : State) (t : Fin 11), s.fencing t = false → exec (.guardFenceCommit t) s = .next s) ∧
  ∀ (s : State) (t : Fin 11), s.fencing t = true →
    ∃ u, exec (.guardFenceCommit t) s = .next u ∧ (∀ a, s.place a ≠ .ddr → u.byte a = s.byte a) ∧ u.fencing t = false ∧
      u.fld (Reg.GRD_STATUS t) Fld.GRD_STATUS_PEND = 0 ∧ u.guardWait = s.guardWait.filter (fun a => !(Nat.beq a.target t)) ∧
      ∀ r < regionsOf t, (∀ o ∈ [0, 4, 8, 12, 16], SMap.get regReset u.guardLive (regionAddr t r o) = u.reg (regionAddr t r o)) ∧
        (∀ o ∈ [0, 4, 8, 12], u.reg (regionAddr t r o) = s.reg (regionAddr t r o)) ∧
        if Fld.GRD_R_PERM_EN.get (regionOf s.reg t r).perm = 1 ∧ (regionOf s.reg t r).bad t = true then
          u.fld (regionAddr t r 16) Fld.GRD_R_PERM_EN = 0 ∧ u.fld (Reg.GRD_STATUS t) Fld.GRD_STATUS_CFG_ERR = 1
        else u.reg (regionAddr t r 16) = s.reg (regionAddr t r 16)

/-- R339 to R343, R352: graphics queues and entries. -/
def Obligations.GraphicsQueuesAndEntries : Prop :=
  (∀ (s : State) (q : Fin 8) (req : Req) (w : Word), let a := Reg.GFX_GQ_CTRL q
    s.Grants req .write a →
    (Fld.GFX_GQ_CTRL_EN.get w = 1 → s.fld a Fld.GFX_GQ_CTRL_EN = 0 → ∀ resp bs u,
      let iova := s.fld (Reg.GFX_GQ_DESC_HI q) Fld.GFX_GQ_DESC_HI_ADDR_HI * 2 ^ 32 +
        s.fld (Reg.GFX_GQ_DESC_LO q) Fld.GFX_GQ_DESC_LO_ADDR_LO * 64
      let s1 := (s.relabel req).plainWrite a w
      s1.fetch (s1.unitReq .rasterControl 12 0) iova 64 = (resp, bs, u) →
      ∃ t, exec (.gqEnable q req w) s = .next t ∧ t.reply = { resp := .okay, data := [] } ∧ t.mem = u.mem ∧
        (∀ k : Fin 8, k ≠ q → t.gfxQueue k = u.gfxQueue k) ∧
        if resp = .okay ∧ u.queueAdmits bs = true then t.gfxQueue q = queueOf bs ∧
          ∀ r ∈ [Reg.GQ_DB_SQ_TAIL q, Reg.GQ_DB_SQ_HEAD q, Reg.GQ_DB_CQ_HEAD q, Reg.GQ_DB_CQ_TAIL q], t.reg r = 0#32
        else t.gfxQueue q = u.gfxQueue q ∧ t.fld a Fld.GFX_GQ_CTRL_EN = 0 ∧ t.fld a Fld.GFX_GQ_CTRL_CFG_ERR = 1) ∧
    (Fld.GFX_GQ_CTRL_EN.get w = 0 → s.fld a Fld.GFX_GQ_CTRL_EN = 1 →
      ∃ t, exec (.gqDisable q req w) s = .next t ∧ t.reply = { resp := .okay, data := [] } ∧ (t.gfxQueue q).on = false ∧
        (t.gfxQueue q).held = [] ∧ t.fld a Fld.GFX_GQ_CTRL_EN = 0 ∧
        t.fld (Reg.GQ_DB_SQ_HEAD q) Fld.DB_SQ_HEAD_HEAD = t.fld (Reg.GQ_DB_SQ_TAIL q) Fld.DB_SQ_TAIL_TAIL ∧
        t.gfxRun = s.gfxRun.filter (fun g => !(Nat.beq g.queue q)))) ∧
  (∀ (s : State) (q : Fin 8) (batches : List (List Prim)) (ws : List (Nat × Byte)), let s1 := s.gfxRead
    let is (k : Nat) : Prop := ∃ h, s1.gfxNext = some (q.val, h) ∧ h.kind = k
    (¬ is 0x00 → exec (.graphicsNop q) s = .next s1) ∧ (¬ is 0x40 → exec (.renderPass q batches ws) s = .next s1) ∧
    (¬ is 0x41 → exec (.dispatch q ws) s = .next s1) ∧
    ∀ h, s1.gfxNext = some (q.val, h) →
      let runs (t : State) (partials : Nat) (bins : Bins) : Prop := ∃ g, t.gfxRun = some g ∧ g.queue = q ∧ g.entry = h ∧
        g.start = s.tb.elapsed ∧ g.tStart = s.now ∧ g.limitUs = 2 * fieldAt h.bytes 44 4 ∧ g.partials ≤ partials ∧ (g.fault = none → g.partials = partials) ∧
        g.cores = s.fld Reg.GFX_CORES Fld.GFX_CORES_ONLINE ∧ g.writes = ws ∧ g.bins = bins
      let left (t : State) : Prop := (t.gfxQueue q).held = (s1.gfxQueue q).held.tail
      (h.kind = 0x00 → ∃ t, exec (.graphicsNop q) s = .next t ∧ left t ∧ t.gfxRun = none ∧
        (t.gfxQueue q).reserved = (s1.gfxQueue q).reserved - 1) ∧
      (h.kind = 0x41 → ∃ t, exec (.dispatch q ws) s = .next t ∧ left t ∧
        match dispatchChecks h.bytes with
        | .ok _ => runs t 0 [] ∧ t.mem = s1.mem
        | .bad _ _ => t.gfxRun = none ∧ (t.gfxQueue q).reserved = (s1.gfxQueue q).reserved - 1) ∧
      (h.kind = 0x40 → ∃ t, exec (.renderPass q batches ws) s = .next t ∧ left t ∧
        match renderChecks h.bytes (s1.takeHold.holdWays * 0x200000) with
        | .ok _ => let binned := binPass (fieldAt h.bytes 60 4) (passBatches (rpTiles h.bytes) batches)
          runs t binned.2.length binned.1.bins
        | .bad _ _ => t.gfxRun = none ∧ (t.gfxQueue q).reserved = (s1.gfxQueue q).reserved - 1)) ∧
  (∀ (size : Nat) (batches : List (List Prim)) (tile : Nat), let binned := binPass size batches
    ((binned.2 ++ [binned.1]).map fun p => p.bins.prims tile).flatten =
      ((numbered 0 batches).flatten.filter fun p => p.2.tiles.contains tile).map (·.1)) ∧
  (∀ (tiles : Nat) (batches : List (List Prim)), let taken := passBatches tiles batches
    (∀ b ∈ taken, b.length ≤ 256) ∧
      taken.flatten = batches.flatten.map fun p => { p with tiles := p.tiles.filter fun k => Nat.blt k tiles }) ∧
  ∀ (s : State) (fault : Option GfxFault), (s.gfxRun = none → exec (.graphicsEntryEnd fault) s = .next s ∧ exec .graphicsWatchdog s = .next s) ∧
    ∀ g, s.gfxRun = some g →
      (∃ t, exec (.graphicsEntryEnd fault) s = .next t ∧ t.gfxRun = none ∧
        ∀ k word passes, fault = some (.tileMemory k word passes) →
          { plainRecord (.rasterCore k) sevUE with path := bankPathOf (.rasterCore k) (Config.bankOf (.rasterCore k) (8 * word)).val
                                                   info := 0 } ∈ t.errs ∧
          if passes then t.fld Reg.GFX_CORES ⟨k, k⟩ = s.fld Reg.GFX_CORES ⟨k, k⟩
          else t.fld Reg.GFX_CORES ⟨k, k⟩ = 0 ∧ plainRecord (.rasterCore k) sevUE ∈ t.errs) ∧
      if s.passedUs g.start g.limitUs = true then ∃ t, exec .graphicsWatchdog s = .next t ∧ t.gfxRun = none
      else exec .graphicsWatchdog s = .next s

/-- R353 to R360: display heads. -/
def Obligations.DisplayHeads : Prop :=
  (∀ (s : State) (n : Fin 4) (req : Req) (w : Word), let a := Reg.DSP_CTRL n
    s.Grants req .write a →
    (Fld.DSP_CTRL_EN.get w = 1 → s.fld a Fld.DSP_CTRL_EN = 0 → ∀ resp b u,
      let iova := s.fld (Reg.DSP_DESC_HI n) Fld.DSP_DESC_HI_ADDR_HI * 2 ^ 32 + s.fld (Reg.DSP_DESC_LO n) Fld.DSP_DESC_LO_ADDR_LO * 64
      let s1 := (s.relabel req).plainWrite a w
      s1.fetch (s1.headReq n 0) iova 64 = (resp, b, u) →
      ∃ t, exec (.headEnable n req w) s = .next t ∧ t.reply = { resp := .okay, data := [] } ∧ t.mem = u.mem ∧
        if resp = .okay ∧ u.headAdmits b = true then
          t.head n = { Head.reset with desc := some (headDesc b), training := true, cq := { base := fieldAt b 40 8, log2 := fieldAt b 24 1, idx := 0, phase := true } }
        else t.head n = u.head n ∧ t.fld a Fld.DSP_CTRL_EN = 0 ∧ t.fld (Reg.DSP_STATUS n) Fld.DSP_STATUS_CFG_ERR = 1) ∧
    (Fld.DSP_CTRL_EN.get w = 0 → s.fld a Fld.DSP_CTRL_EN = 1 →
      ∃ t, exec (.headDisable n req w) s = .next t ∧ t.reply = { resp := .okay, data := [] } ∧ t.head n = Head.reset ∧ t.mem = s.mem ∧
        t.fld a Fld.DSP_CTRL_EN = 0 ∧ t.fld (Reg.DSP_STATUS n) Fld.DSP_STATUS_LINK_UP = 0 ∧
        t.fld (Reg.DSP_DB_SQ_HEAD n) Fld.DB_SQ_HEAD_HEAD = t.fld (Reg.DSP_DB_SQ_TAIL n) Fld.DB_SQ_TAIL_TAIL)) ∧
  (∀ (s : State) (n : Fin 4) (ok : Bool), let a := Reg.DSP_STATUS n
    ((s.head n).training = false → exec (.linkTrainingDone n ok) s = .next s) ∧
    ((s.head n).training = true → ∃ t, exec (.linkTrainingDone n ok) s = .next t ∧ t.mem = s.mem ∧
      if ok then t.head n = { s.head n with training := false } ∧ t.fld a Fld.DSP_STATUS_LINK_UP = 1
      else t.head n = Head.reset ∧ t.fld a Fld.DSP_STATUS_LINK_ERR = 1 ∧ t.fld (Reg.DSP_CTRL n) Fld.DSP_CTRL_EN = 0) ∧
    (exec (.displayLinkLost n) s = .next (if s.fld a Fld.DSP_STATUS_LINK_UP = 1 then
      (s.setFld a Fld.DSP_STATUS_LINK_UP 0).setFld a Fld.DSP_STATUS_LINK_ERR 1 else s)) ∧
    exec (.hpdChange n ok) s = .next (s.setFld a Fld.DSP_STATUS_HPD (if ok then 1 else 0))) ∧
  (∀ (s : State) (n : Fin 4), (s.head n).desc = none → exec (.vsyncLead n) s = .next s ∧ exec (.vsync n) s = .next s ∧
    (∀ first count, exec (.displayUnderrun ⟨n, first, count⟩) s = .next s) ∧ exec (.layerReadError n) s = .next s) ∧
  (∀ (s : State) (n : Fin 4) (d : HeadDesc), let h := s.head n
    let empty := h.flipHead = s.fld (Reg.DSP_DB_SQ_TAIL n) Fld.DB_SQ_TAIL_TAIL
    h.desc = some d → h.training = false → h.taken = none →
    (empty → h.shown = none → exec (.vsyncLead n) s = .next s) ∧
    (empty → h.shown ≠ none → ∃ t, exec (.vsyncLead n) s = .next t ∧ t.head n = { h with repeats := 0 } ∧
      t.fld (Reg.DSP_LATE n) Fld.DSP_LATE_LATE = min (s.fld (Reg.DSP_LATE n) Fld.DSP_LATE_LATE + 1)
        (2 ^ (Fld.DSP_LATE_LATE.hi + 1 - Fld.DSP_LATE_LATE.lo) - 1)) ∧
    ∀ b u, ¬ empty → s.fetch (s.headReq n d.ctx) (d.flipBase + 512 * h.flipHead) 512 = (.okay, b, u) → flipChecks b d = .ok () →
      bitAt (fieldAt b 4 1) 1 = false → ((fieldAt b 24 8 : Nat) : Rat) ≤ s.now + d.leadNs →
      ∃ t, exec (.vsyncLead n) s = .next t ∧ (t.head n).taken = some (b, h.flipHead, s.short) ∧
        (t.head n).flipHead = (h.flipHead + 1) % 2 ^ d.log2 ∧ (t.head n).shown = h.shown) ∧
  (∀ (s : State) (n : Fin 4), let h := s.head n
    h.desc ≠ none → h.training = false → ∃ t, exec (.vsync n) s = .next t ∧ (t.head n).uvDone = false ∧ (t.head n).derrDone = false ∧ (t.head n).late = [] ∧
      (t.head n).taken = none ∧ match h.taken with
      | none => (t.head n).shown = h.shown ∧ (t.head n).frames = (if h.shown = none then 0 else h.frames + 1) ∧ t.mem = s.mem
      | some (b, _, _) => (t.head n).shown = some b ∧ (t.head n).frames = 1 ∧ (t.head n).repeats = 0) ∧
  (∀ (s : State) (n : Fin 4) (x y : Nat), ((s.head n).shown = none → s.composed n x y = { r := 0, g := 0, b := 0, a := 1 }) ∧
    ∀ e d, (s.head n).desc = some d → (s.head n).shown = some e →
      (∀ k < 8, fieldAt e (64 + 56 * k) 8 = 0) ∨ (∃ l ∈ (s.head n).late, l.1 ≤ y * d.hact + x ∧ y * d.hact + x < l.1 + l.2) →
      s.composed n x y = background (some e)) ∧
  ∀ (s : State) (n : Fin 4) (first count : Nat), let h := s.head n
    h.desc ≠ none →
    (∃ t, exec (.displayUnderrun ⟨n, first, count⟩) s = .next t ∧
      t.head n = { h with uvDone := true, late := h.late ++ [(first, count)] } ∧
      t.fld (Reg.DSP_STATUS n) Fld.DSP_STATUS_UNDERRUN = 1 ∧
      t.errs = if h.uvDone then s.errs else s.errs ++ [plainRecord (.display n) sevCE]) ∧
    ∃ t, exec (.layerReadError n) s = .next t ∧ t.head n = { h with derrDone := true } ∧
      t.fld (Reg.DSP_STATUS n) Fld.DSP_STATUS_DERR = 1 ∧
      t.errs = if h.derrDone then s.errs else s.errs ++ [plainRecord (.display n) sevUE]

/-- R368 to R375: lock mode of application-core pairs. -/
def Obligations.LockStep : Prop :=
  let done (h : Hart) (rd : Fin 32) (v : BitVec 64) : Hart := { ((h.setX rd v).retire) with arrived := none }
  let alike (a b : Hart) : Prop := { a with csrs := b.csrs } = b ∧ ∀ c, c ≠ 0x344 → a.csr c = b.csr c
  (∀ (s : State) (n : Fin 16) (w : Word), w.toNat % 128 ≠ 0x2B ∨ w.toNat / 4096 % 8 ≠ 0 →
    exec (.lksyncLock n w) s = .next s ∧ exec (.lksyncSplit n w) s = .next s) ∧
  (∀ (s : State) (n : Fin 16) (w : Word), w.toNat % 128 = 0x2B → w.toNat / 4096 % 8 = 0 → let p := n.val / 2
    let rd : Fin 32 := Fin.ofNat 32 (w.toNat / 128 % 32)
    let rsv := w.toNat / 32768 ≠ 0
    let h := s.hart n
    let target := s.fld (Reg.APC_PAIR_CTRL p) Fld.APC_PAIR_CTRL_TARGET
    ∀ i ∈ [Instr.lksyncLock n w, Instr.lksyncSplit n w],
    (h.runs = false → exec i s = .next s) ∧
    (s.executes n = false → exec i s = .next (s.interrupted n)) ∧
    (s.executes n = true → h.priv ≠ .m ∨ rsv → exec i s = .next (s.onHart n (·.trap 2 0#64 0#64))) ∧
    (s.executes n = true → h.priv = .m → ¬ rsv →
      (s.pairMode p = 0 → target = 0 → exec i s = .next (s.setHart n (done h rd (-2)))) ∧
      (s.pairMode p = 2 → target = 1 → exec i s = .next (s.onHart n fun g => done g rd (-2))) ∧
      (s.pairMode p = 2 → target = 0 → ∃ t, exec i s = .next t ∧ t.pairMode p = 0 ∧
        t.hart (2 * p) = done (s.hart (2 * p)) rd 0 ∧ alike (t.hart (2 * p + 1)) (done (s.hart (2 * p + 1)) rd 1) ∧ t.mem = s.mem) ∧
      (s.pairMode p = 0 → target = 1 → ∃ t, exec i s = .next t ∧ t.hart n = { h with arrived := some rd, since := s.tb.elapsed } ∧
        t.pairMode p = if (s.hart (if n.val % 2 = 0 then n + 1 else n - 1)).arrived = none then 0 else 1))) ∧
  (∀ (s : State) (n : Fin 16), let p := n.val / 2
    let us := s.fld (Reg.APC_PAIR_CTRL p) Fld.APC_PAIR_CTRL_TMO_US
    ((s.hart n).arrived = none → exec (.lksyncTimeout (.ac n)) s = .next s) ∧
    ∀ rd, (s.hart n).arrived = some rd →
      if s.pairMode p = 0 ∧ s.passedUs (s.hart n).since (if us = 0 then 1 else us) = true then
        exec (.lksyncTimeout (.ac n)) s = .next ((s.setHart n (done (s.hart n) rd (-1))).setFld (Reg.APC_PAIR_STATUS p)
          Fld.APC_PAIR_STATUS_TIMEOUT 1)
      else exec (.lksyncTimeout (.ac n)) s = .next s) ∧
  (∀ (s : State) (p : Fin 8), let a := s.hart (2 * p)
    let b := s.hart (2 * p + 1)
    let bad := bitAt (a.csr 0x7C1).toNat 63 = true ∨ bitAt (b.csr 0x7C1).toNat 63 = true
    (s.pairMode p ≠ 1 ∨ s.pairBusy p = true → exec (.lockEntryDone p) s = .next s) ∧
    ∀ rd rd', s.pairMode p = 1 → s.pairBusy p = false → a.arrived = some rd → b.arrived = some rd' → a.forced = none → b.forced = none →
      ∃ t, exec (.lockEntryDone p) s = .next t ∧ t.mem = s.mem ∧
        if bad then t.hart (2 * p) = done a rd (-3) ∧ t.hart (2 * p + 1) = done b rd' (-3) ∧ t.pairMode p = 0
        else alike (t.hart (2 * p)) (done a rd 0) ∧ alike (t.hart (2 * p + 1)) (done a rd 0) ∧ t.pairMode p = 2 ∧
          t.hartW (2 * p + 1) = s.hartW (2 * p) ∧ t.mhartid (2 * p + 1) = 2 * p ∧
          ∀ x ∈ t.caches, ∀ c : Fin 16, c.val / 2 = p.val → x.cache ≠ .l1i c ∧ x.cache ≠ .l1d c) ∧
  (∀ (s : State) (p : Fin 8) (k : Fin 4), let m := Reg.APC_PAIR_MISM p
    if s.pairMode p = 2 then ∃ t, exec (.lockstepMismatch p k) s = .next t ∧ t.pairMode p = 3 ∧
      (t.hart (2 * p)) = { s.hart (2 * p) with stopped := true } ∧ (t.hart (2 * p + 1)) = { s.hart (2 * p + 1) with stopped := true } ∧
      t.fld (Reg.APC_PAIR_STATUS p) Fld.APC_PAIR_STATUS_MISM = 1 ∧ t.fld m Fld.APC_PAIR_MISM_VALID = 1 ∧
      (s.fld m Fld.APC_PAIR_MISM_VALID = 1 → t.reg m = s.reg m) ∧
      (s.fld m Fld.APC_PAIR_MISM_VALID = 0 → t.fld m Fld.APC_PAIR_MISM_KIND = k) ∧
      t.errs = s.errs ++ [plainRecord (.ac (Fin.ofNat 16 (2 * p))) sevCheck]
    else exec (.lockstepMismatch p k) s = .next s) ∧
  ∀ (s : State) (p : Fin 8) (req : Req) (w : Word), s.Grants req .write (Reg.APC_PAIR_CTRL p) →
    ∃ t, exec (.pairReset p req w) s = .next t ∧ t.reply = { resp := .okay, data := [] } ∧ t.mem = s.mem ∧
      if Fld.APC_PAIR_CTRL_RESET.get w = 1 then
        t.pairMode p = 0 ∧ (∀ x ∈ t.caches, ∀ c : Fin 16, c.val / 2 = p.val → x.cache ≠ .l1i c ∧ x.cache ≠ .l1d c) ∧
        ∀ k ∈ [2 * p.val, 2 * p.val + 1], if (s.hart k).stopped = false ∨ s.pairMode p = 3 then
            t.hart k = { Hart.reset with pc := (s.rom.entries[1]).getD 0#64, stopped := false } ∧
            t.hartW k = !(s.flag Reg.WGD_STATUS Fld.WGD_STATUS_FAILED)
          else t.hart k = s.hart k ∧ t.hartW k = s.hartW k
      else t.harts = s.harts ∧ t.pairMode p = s.pairMode p

/-- R377 to R381: the modes of the Heath island. -/
def Obligations.HeathModes : Prop :=
  let done (c : HeathCore) (rd : Fin 32) (v : Word) : HeathCore := { c.setX rd v with pc := c.pc + 4#32, arrived := none }
  (∀ (s : State) (n : Fin 3) (w : Word), w.toNat % 128 ≠ 0x2B ∨ w.toNat / 4096 % 8 ≠ 0 →
    exec (.heathSplit n w) s = .next s ∧ exec (.heathTriple n w) s = .next s) ∧
  (∀ (s : State) (n : Fin 3) (w : Word), w.toNat % 128 = 0x2B → w.toNat / 4096 % 8 = 0 →
    let rd : Fin 32 := Fin.ofNat 32 (w.toNat / 128 % 32)
    let rsv := w.toNat / 32768 ≠ 0
    let target := s.fld Reg.HTH_MODE Fld.HTH_MODE_TARGET
    let c := s.heath.cores[n]
    let runs := c.arrived = none ∧ c.fenced = false ∧ s.heath.halted = false ∧ s.rom.running = false
    let may := runs ∧ c.priv = .m ∧ ¬ rsv
    ∀ i ∈ [Instr.heathSplit n w, Instr.heathTriple n w],
    (¬ runs → exec i s = .next s) ∧
    (runs → c.priv ≠ .m ∨ rsv → ∃ t, exec i s = .next t ∧ t.regs = s.regs ∧ t.mem = s.mem ∧
      let d := t.heath.cores[n]
      d.priv = .m ∧ d.x = c.x ∧ d.csr 0x341 = c.pc ∧ d.csr 0x342 = 2#32 ∧ d.pc = c.csr 0x305 &&& ~~~3#32) ∧
    (may → s.heathMode = 4 → target = 0 → ∃ t, exec i s = .next t ∧ t.heathMode = 4 ∧
      ∀ k : Fin 3, t.heath.cores[k] = if s.heath.cores[k].fenced = true then s.heath.cores[k] else done s.heath.cores[k] rd (-2)) ∧
    (may → s.heathMode = 0 → ∃ t, exec i s = .next t ∧ t.heathMode = (if target = 0 then 0 else 2) ∧ t.mem = s.mem ∧
      ∀ k : Fin 3, t.heath.cores[k] = done s.heath.cores[k] rd (if target = 0 then -2 else BitVec.ofNat 32 k)) ∧
    (may → s.heathMode = 2 → target = 1 → ∃ t, exec i s = .next t ∧ t.heath.cores[n] = done c rd (-2) ∧ t.regs = s.regs) ∧
    (may → s.heathMode = 2 → target = 0 → ∃ t, exec i s = .next t ∧
      t.heath.cores[n] = { c with arrived := some rd, since := s.tb.elapsed } ∧
      t.heathMode = (if ∀ k : Fin 3, k ≠ n → s.heath.cores[k].arrived ≠ none then 3 else 2)) ∧
    (may → s.heathMode = 1 → ∃ t, exec i s = .next t ∧ t.heath.pending = true ∧ t.heathMode = 1 ∧
      ∀ k : Fin 3, t.heath.cores[k].arrived = some rd)) ∧
  (∀ s : State, (s.heathMode ≠ 3 → exec .heathTripleDone s = .next s) ∧
    ∀ rd, s.heathMode = 3 → s.heath.cores[0].arrived = some rd →
      ∃ t, exec .heathTripleDone s = .next t ∧ t.heathMode = 0 ∧ ∀ k : Fin 3, t.heath.cores[k] = done s.heath.cores[0] rd 0) ∧
  (∀ (s : State) (n : Fin 3), let us := s.fld Reg.HTH_MODE Fld.HTH_MODE_TMO_US
    let c := s.heath.cores[n]
    (c.arrived = none → exec (.lksyncTimeout (.hc n)) s = .next s) ∧
    ∀ rd, c.arrived = some rd →
      if (s.heathMode = 2 ∨ s.heathMode = 4) ∧ s.passedUs c.since (if us = 0 then 1 else us) = true then
        ∃ t, exec (.lksyncTimeout (.hc n)) s = .next t ∧ t.heath.cores[n] = done c rd (-1) ∧
          t.fld Reg.HTH_STATUS Fld.HTH_STATUS_TIMEOUT = 1 ∧ t.heathMode = s.heathMode
      else exec (.lksyncTimeout (.hc n)) s = .next s) ∧
  (∀ (s : State) (n : Fin 3), let before := (s.heath.odds.filter fun o => Nat.beq o.1 n && !(s.passedUs o.2 1000000)).length
    (s.heathMode ≠ 0 → exec (.heathOddCore n) s = .next s) ∧
    (s.heathMode = 0 → ∃ t, exec (.heathOddCore n) s = .next t ∧ t.fld Reg.HTH_STATUS Fld.HTH_STATUS_ODD = n ∧
      if before < 2 then t.heathMode = 1 ∧ t.heath.cores = s.heath.cores ∧ t.errs = s.errs ++ [plainRecord (.hc n) sevCE]
      else t.heathMode = 4 ∧ t.heath.cores[n] = { HeathCore.reset with fenced := true } ∧
        t.fld Reg.HTH_STATUS Fld.HTH_STATUS_FENCED = 1 ∧
        t.errs = s.errs ++ [plainRecord (.hc n) sevCE, plainRecord (.hc n) sevUE])) ∧
  (∀ s : State, let good := if s.fld Reg.HTH_STATUS Fld.HTH_STATUS_ODD = 0 then s.heath.cores[1] else s.heath.cores[0]
    (s.heathMode ≠ 1 → exec .heathResyncDone s = .next s) ∧
    (s.heathMode = 1 → s.heath.pending = false → ∃ t, exec .heathResyncDone s = .next t ∧ t.heathMode = 0 ∧
      (∀ k : Fin 3, t.heath.cores[k] = { good with arrived := none }) ∧ t.fld Reg.HTH_STATUS Fld.HTH_STATUS_RESYNC = 1 ∧
      (t.reg Reg.HTH_RESYNC).toNat = min ((s.reg Reg.HTH_RESYNC).toNat + 1) 0xFFFFFFFF)) ∧
  ∀ s : State, let m := s.heathMode
    if m = 0 ∨ m = 1 ∨ m = 4 then
      ∃ t, exec .heathFatalPath s = .next t ∧ t.fld Reg.ERM_SAFE Fld.ERM_SAFE_LEVEL = s.fld Reg.ERM_SAFE Fld.ERM_SAFE_FALLBACK ∧
        t.fld Reg.ERM_SAFE Fld.ERM_SAFE_FAULT = 1 ∧ t.errs = s.errs ++ [plainRecord .heath sevFatal] ∧ t.rom.running = true ∧
        t.heath.halted = false ∧ t.heathMode = (if s.fld Reg.HTH_STATUS Fld.HTH_STATUS_FENCED = 1 then 4 else 0) ∧
        ∀ k : Fin 3, t.heath.cores[k] = { HeathCore.reset with fenced := s.heath.cores[k].fenced }
    else exec .heathFatalPath s = .next s

/-- R361, R362, R365, R367, R370, R393 to R395, R400, R407: harts of the application cores. -/
def Obligations.HartEvents : Prop :=
  (∀ (s : State) (n : Fin 16), let h := s.hart n
    let pend := (h.csr 0x344 &&& h.csr 0x304).toNat
    (h.runs = false → s.interrupted n = s) ∧ (s.executes n = true → s.interrupted n = s) ∧
    ∀ k atM, s.irqNext n = some (k, atM) → h.runs = true → s.executes n = false ∧ bitAt pend k = true ∧
      (s.hartW n = true → k = 7 ∨ (k = 11 ∧ s.fileSecure (s.fileHart n) = true)) ∧
      (atM = true → s.pairMode (n / 2) ≠ 2 → let t := s.interrupted n
        (t.hart n).csr 0x341 = h.pc ∧ (t.hart n).csr 0x342 = BitVec.ofNat 64 (2 ^ 63 + k) ∧ (t.hart n).priv = .m ∧ (t.hart n).x = h.x ∧
        (t.hart n).pc = vectorBase (h.csr 0x305) (some k) ∧ ∀ j : Fin 16, j ≠ n → t.hart j = s.hart j)) ∧
  (∀ (s : State) (n : Fin 16) (ty : AccType) (r : Resp) (va gpa : BitVec 64), let h := s.hart n
    let code := if ty = .fetch then 1 else if ty = .read then 5 else 7
    let faulted (t u : State) : Prop := t.harts = (u.onHart n (·.trap code va gpa)).harts
    (∀ m, s.executes n = false → exec (.hartAccessFault n ty m va gpa) s = .next (s.interrupted n)) ∧
    (r = .okay → s.executes n = true → exec (.hartAccessFault n ty ⟨r, none⟩ va gpa) s = .next s) ∧
    (∀ x : CacheError, cacheOf x.cache n = true → s.executes n = true → let line := x.addr.toNat / 64
      match s.caches.find? fun y => y.is x.cache line with
      | none => exec (.hartAccessFault n ty ⟨r, some x⟩ va gpa) s = .next s
      | some y => ∃ t es, exec (.hartAccessFault n ty ⟨r, some x⟩ va gpa) s = .next t ∧
        t.errs = s.errs ++ plainRecord (.ac n) (if y.dirty = true then sevUE else sevCE) :: es ∧
        (y.dirty = true → es = [] ∧ t.regs = s.regs ∧ t.mem = s.mem ∧ faulted t s ∧ ∀ z ∈ t.caches, z.is x.cache line = false) ∧
        (y.dirty = false → faulted t s ∨ (t.harts = s.harts ∧ ∃ z ∈ t.caches, z.line = line ∧ cacheOf z.cache n = true))) ∧
    (r ≠ .okay → s.executes n = true → exec (.hartAccessFault n ty ⟨r, none⟩ va gpa) s = .next (s.onHart n (·.trap code va gpa)) ∧
      (h.priv = .m → s.pairMode (n / 2) ≠ 2 → ∃ t, exec (.hartAccessFault n ty ⟨r, none⟩ va gpa) s = .next t ∧
        (t.hart n).pc = h.csr 0x305 &&& ~~~3#64 ∧ (t.hart n).csr 0x341 = h.pc ∧ (t.hart n).csr 0x342 = BitVec.ofNat 64 code ∧
        (t.hart n).csr 0x343 = va ∧ (t.hart n).priv = .m ∧ (t.hart n).x = h.x ∧ t.regs = s.regs ∧
        ∀ k : Fin 16, k ≠ n → t.hart k = s.hart k))) ∧
  (∀ (s : State) (n : Fin 16) (r : Resp) (store : Bool) (pa : BitVec 48), let h := s.hart n
    let b := (h.csr 0x7C1).toNat
    (r = .okay ∨ h.stopped = true → exec (.impreciseBusError n r store pa) s = .next s) ∧
    (r ≠ .okay → h.stopped = false → s.pairMode (n / 2) ≠ 2 → ∃ t, exec (.impreciseBusError n r store pa) s = .next t ∧
      bitAt ((t.hart n).csr 0x344).toNat 16 = true ∧ (t.hart n).pc = h.pc ∧ (t.hart n).x = h.x ∧
      let v := ((t.hart n).csr 0x7C1).toNat
      if bitAt b 63 = true then bitsOf v 55 48 = min (bitsOf b 55 48 + 1) 255 ∧ v % 2 ^ 48 = b % 2 ^ 48 ∧ bitsOf v 63 56 = bitsOf b 63 56
      else v % 2 ^ 48 = pa.toNat ∧ bitAt v 63 = true ∧ bitAt v 56 = store ∧ bitsOf v 55 48 = 0)) ∧
  (∀ (s : State) (n : Fin 16) (c : ClassCsr) (rd : Fin 32) (v : DWord), let h := s.hart n
    let i := Instr.classCsrWrite n ⟨.cls c, rd⟩
    let may := h.priv = .m ∨ (c = .tclass ∧ (h.priv = .s ∨ h.priv = .vs)) ∨ ((c = .hgclass ∨ c = .vstclass) ∧ h.priv = .s)
    let number := match c with
      | .mclass => 0x7C0
      | .tclass => if h.priv = .vs ∨ h.priv = .vu then 0x6C1 else 0x5C0
      | .hgclass => 0x6C0
      | .vstclass => 0x6C1
      | .mbusresp => 0x7C1
    let moved (t : State) : Prop := (t.hart n).pc = h.pc + 4#64 ∧ (t.hart n).x = (if rd = 0 then h.x else h.x.set rd (h.csr number))
    (∀ x, s.executes n = false → exec (i x) s = .next (s.interrupted n)) ∧
    (∀ x, s.executes n = true → ¬ may → exec (i x) s = .next (s.onHart n (·.trap 2 0#64 0#64))) ∧
    (s.executes n = true → may → s.pairMode (n / 2) ≠ 2 → ∃ t, exec (i none) s = .next t ∧ moved t ∧
      ∀ k, k ≠ 0xB02 → (t.hart n).csr k = h.csr k) ∧
    (s.executes n = true → h.priv = .m → c = .mbusresp → s.pairMode (n / 2) ≠ 2 → ∃ t, exec (i (some v)) s = .next t ∧ moved t ∧
      (∀ k, k ∉ [0x7C1, 0x344, 0xB02] → (t.hart n).csr k = h.csr k) ∧
      let b := ((t.hart n).csr 0x7C1).toNat
      if bitAt v.toNat 63 = true then ∀ k, k ≠ 0xB02 → (t.hart n).csr k = h.csr k
      else bitAt b 63 = false ∧ bitsOf b 55 48 = 0 ∧ bitAt ((t.hart n).csr 0x344).toNat 16 = false ∧
        bitsOf b 47 0 = bitsOf (h.csr 0x7C1).toNat 47 0) ∧
    (s.executes n = true → may → c ≠ .mbusresp → s.pairMode (n / 2) ≠ 2 → ∃ t, exec (i (some v)) s = .next t ∧ moved t ∧
      (∀ k, k ≠ number → k ≠ 0xB02 → (t.hart n).csr k = h.csr k) ∧
      ((t.hart n).csr number).toNat % 16 = (if v.toNat % 16 < 12 then v.toNat % 16 else 0) ∧
      bitsOf ((t.hart n).csr number).toNat 27 16 = (if c = .mclass ∨ c = .hgclass then bitsOf v.toNat 27 16 else 0))) ∧
  (∀ (s : State) (n : Fin 16) (c : BitVec 12) (rd : Fin 32), let h := s.hart n
    let reads (v : BitVec 64) : Prop := exec (.classCsrWrite n ⟨.other c, rd⟩ none) s = .next (s.onHart n fun g => (g.setX rd v).retire)
    s.executes n = true →
    ((c ∈ [0x7C2#12, 0x7C3#12] ∧ s.hartW n = false) ∨ (bitsOf c.toNat 9 8 = 3 ∧ h.priv ≠ .m) →
      exec (.classCsrWrite n ⟨.other c, rd⟩ none) s = .next (s.onHart n (·.trap 2 0#64 0#64))) ∧
    (h.priv = .m → (c = 0xF14#12 → reads (BitVec.ofNat 64 (if s.pairMode (n / 2) = 2 then n / 2 * 2 else n))) ∧
      (c ∈ [0x351#12, 0x35C#12] → s.hartW n = false → s.fileSecure n = true → reads 0#64) ∧
      (c ∈ [0x300#12, 0x305#12, 0x340#12, 0x341#12, 0x342#12, 0x343#12] → reads (h.csr c.toNat)))) ∧
  (∀ h : Hart, h.retire.pc = h.pc + 4#64 ∧ h.retire.x = h.x ∧ (∀ c, c ≠ 0xB02 → h.retire.csr c = h.csr c) ∧
    h.retire.csr 0xB02 = if bitAt (h.csr 0x320).toNat 2 = true then h.csr 0xB02 else h.csr 0xB02 + 1#64) ∧
  (∀ (s : State) (n : Fin 16), exec (.wmark n) s = .next (if s.executes n = true then s.onHart n (·.retire) else s.interrupted n)) ∧
  (∀ s : State, (s.msis = [] → exec .msiDelivery s = .next s) ∧
    ∀ m rest, s.msis = m :: rest → m.ini ≠ .debugModule → ∃ t, exec .msiDelivery s = .next t ∧ let s1 : State := { s with msis := rest }
      match s1.translate m.ini m.ctx m.addr true with
      | none => t = s1
      | some pa => s.place pa = .interruptFile → pa % 4096 = 0 → let f := pa / 4096
        if s.fileWorld f ≠ m.w then t.irqs = s.irqs ∧ t.fld Reg.WGD_STATUS Fld.WGD_STATUS_MSI_DROP = 1 ∧ t.msis = rest
        else (1 ≤ m.data ∧ m.data < 2048 → (f, m.data) ∈ t.irqs) ∧ (∀ i ∈ s.irqs, i ∈ t.irqs) ∧ t.msis = rest) ∧
  ∀ (s : State) (n : Fin 16), let may := s.fuses.lifecycle = s.fuses.inForce ∧ s.fuses.inForce < 2 ∧ (s.hart n).stopped = false
    let now := s.fuses.inForce = 0 ∨ s.hartW n = false ∨ s.fld Reg.WGD_DBG Fld.WGD_DBG_SDBG = 1
    exec (.debugHalt n) s = .next (if may then
      (if now then s.onHart n fun h => { h with halted := true } else s.onHart n fun h => { h with haltWaits := true }) else s)

/-- R391, R392, R396 to R398, R401 to R403, R406: the two worlds. -/
def Obligations.TwoWorlds : Prop :=
  let forced (t : State) (s : State) (k : Fin 16) (code : BitVec 64) : Prop := t.hartW k = false ∧ (t.hart k).priv = .m ∧
    (t.hart k).pc = (s.hart k).csr 0x7C2 ∧ (t.hart k).gateFrom = none ∧ ∀ r : Fin 32, (t.hart k).x[r] =
      if r = 10 then code else if r = 2 then (s.hart k).csr 0x7C3 else if r = 1 then (s.hart k).csr 0x7C2 else 0#64
  let fails (t s : State) (late : Option (Fin 16)) : Prop := t.fld Reg.WGD_STATUS Fld.WGD_STATUS_FAILED = 1 ∧
    t.reg (Reg.PWR_SHOLD 0) = 0#32 ∧ t.reg (Reg.PWR_SHOLD 1) = 0#32 ∧ t.errs = s.errs ++ [plainRecord .wgd sevTimeout] ∧ t.mem = s.mem ∧
    ∀ k : Fin 16, if s.hartW k = true then s.pairMode (k / 2) ≠ 1 →
        forced t s k (if (∃ m, late = some m ∧ (m = k ∨ (m.val / 2 = k.val / 2 ∧ s.pairMode (k / 2) = 2))) then gateTimeout else serviceUnavailable)
      else t.hartW k = false ∧ (s.pairMode (k / 2) ≠ 2 → t.hart k = s.hart k)
  (∀ (s : State) (n : Fin 16) (rs1 : Fin 32) (rsv : Bool), let h := s.hart n
    let g := h.xreg rs1
    let ok := h.priv = .m ∧ rs1 ≠ 0 ∧ rsv = false
    ∀ i ∈ (if rsv then [Instr.wgateEntry n rs1 rsv] else [Instr.wgateEntry n rs1 rsv, Instr.wgateReturn n rs1]),
    (s.executes n = false → exec i s = .next (s.interrupted n)) ∧
    (s.executes n = true → s.pairMode (n / 2) ≠ 2 →
      (s.hartW n = false → ¬ ok → exec i s = .next (s.setHart n (h.trap 2 0#64 0#64))) ∧
      (s.hartW n = false → ok → s.flag Reg.WGD_STATUS Fld.WGD_STATUS_FAILED = true →
        exec i s = .next (s.setHart n ((h.setX 10 serviceUnavailable).retire))) ∧
      (s.hartW n = false → ok → s.flag Reg.WGD_STATUS Fld.WGD_STATUS_FAILED = false →
        if (s.gateTarget n g.toNat).1 = true then
          ∃ t, exec i s = .next t ∧ t.hartW n = true ∧ (t.hart n).pc = g + 4#64 ∧ (t.hart n).x = h.x ∧ (t.hart n).priv = .m ∧
            (t.hart n).csr 0x7C2 = h.pc + 4#64 ∧ (t.hart n).csr 0x7C3 = h.x[2] ∧ (t.hart n).gateFrom = some s.tb.elapsed ∧
            ∀ k : Fin 16, k ≠ n → t.hart k = s.hart k ∧ t.hartW k = s.hartW k
        else exec i s = .next (((s.gateTarget n g.toNat).2.setHart n (h.trap 1 g 0#64)).setFld Reg.WGD_STATUS Fld.WGD_STATUS_GATE_FLT 1)) ∧
      (s.hartW n = true → rs1 = 0 → rsv = false → ∃ t, exec i s = .next t ∧ t.hartW n = false ∧ (t.hart n).pc = h.csr 0x7C2 ∧
        (t.hart n).priv = .m ∧ (t.hart n).x = h.x ∧ (t.hart n).gateFrom = none ∧ ∀ k : Fin 16, k ≠ n → t.hartW k = s.hartW k) ∧
      (s.hartW n = true → rs1 ≠ 0 ∨ rsv = true → exec i s = .next (s.setHart n (h.trap 2 0#64 0#64))))) ∧
  (∀ (s : State) (n : Fin 16) (a : Nat), (s.gateTarget n a).1 = true → a % 4 = 0 ∧ ∃ d r, s.guardTarget a = some d ∧ r < regionsOf d ∧
    let g := s.region d r
    Fld.GRD_R_PERM_EN.get g.perm = 1 ∧ Fld.GRD_R_PERM_SX.get g.perm = 1 ∧ g.base ≤ a ∧ a + 4 ≤ g.limit + 1) ∧
  (∀ (s : State) (n : Fin 16) (e : Nat), (s.hart n).gateFrom = some e → s.hartW n = true →
    if s.passedUs e (s.fld Reg.WGD_GATE_TMO Fld.WGD_GATE_TMO_US) = true ∧ s.flag Reg.WGD_STATUS Fld.WGD_STATUS_FAILED = false then
      ∃ t, exec (.gateTimerExpiry n) s = .next t ∧ fails t s (some n)
    else exec (.gateTimerExpiry n) s = .next s) ∧
  (∀ (s : State) (req : Req) (w : Word), s.Grants req .write Reg.WGD_CTRL →
    ∃ t, exec (.secureFail req w) s = .next t ∧ t.reply = { resp := .okay, data := [] } ∧
      if Fld.WGD_CTRL_FAIL.get w = 1 ∧ s.flag Reg.WGD_STATUS Fld.WGD_STATUS_FAILED = false then fails t s none
      else OnlyRegs s t ∧ ∀ a, a ≠ Reg.WGD_CTRL → t.reg a = (s.relabel req).reg a) ∧
  (∀ (s : State) (half : Fin 2) (req : Req) (w : Word), s.Grants req .write (Reg.WGD_LOCK half) →
    ∃ t, exec (.wlock half req w) s = .next t ∧ OnlyRegs s t ∧ t.reply = { resp := .okay, data := [] } ∧
      t.reg (Reg.WGD_LOCK half) = s.reg (Reg.WGD_LOCK half) ||| w ∧ ∀ a, a ≠ Reg.WGD_LOCK half → t.reg a = (s.relabel req).reg a) ∧
  (∀ (s : State) (u : Fin 64) (req : Req) (w : Word), let a := Reg.WGD_OWN u
    let v := Fld.WGD_OWN_WORLD.get w
    s.Grants req .write a → ∃ t, exec (.ownershipWrite u req w) s = .next t ∧ OnlyRegs s t ∧ t.reply = { resp := .okay, data := [] } ∧
      if s.locked a = true ∨ ownListed u = false then t.regs = (s.relabel req).regs
      else if (if v = 1 then (Config.ownWorlds u).2 else (Config.ownWorlds u).1) = true then t.fld a Fld.WGD_OWN_WORLD = v
      else t.reg a = s.reg a ∧ t.fld Reg.WGD_STATUS Fld.WGD_STATUS_CFG_ERR = 1) ∧
  ∀ (s : State) (half : Fin 2) (req : Req) (w : Word), let v := if half = 0 then w &&& 0xFC#32 else 0#32
    (s.Grants req .write (Reg.PWR_SHOLD half) → ∃ t, exec (.sholdWrite half req w) s = .next t ∧ OnlyRegs s t ∧
      t.reply = { resp := .okay, data := [] } ∧
      if s.flag Reg.WGD_STATUS Fld.WGD_STATUS_FAILED = true then t.regs = (s.relabel req).regs else t.reg (Reg.PWR_SHOLD half) = v) ∧
    (s.Grants req .write (Reg.PWR_HHOLD half) → ∃ t, exec (.hholdWrite half req w) s = .next t ∧ OnlyRegs s t ∧
      t.reply = { resp := .okay, data := [] } ∧ t.reg (Reg.PWR_HHOLD half) = v ∧
      ∀ d ∈ [4, 5, 6, 7], t.domainState d = s.domainState d ∧ (half = 0 → bitAt w.toNat d = true → s.domainState d = 3 →
        t.fld (Reg.PWR_DOM d) Fld.PWR_DOM_DEFERRED = 1))

/-- R410 to R419: the Weir bridges and their semaphores. -/
def Obligations.BridgesAndSemaphores : Prop :=
  let comes (n : Fin 2) (req : Req) (a : Nat) : Prop := belowBridge n a = true ∧ initiatorBelow n req.ini = false
  let posts (s : State) (n : Fin 2) (a : Nat) : Prop :=
    let holds (e : Nat) : Prop := s.fld (Reg.WIR_RNG_BASE n e) Fld.WIR_RNG_BASE_EN = 1 ∧
      s.fld (Reg.WIR_RNG_HI n e) Fld.WIR_RNG_HI_BASE_HI * 2 ^ 32 + s.fld (Reg.WIR_RNG_BASE n e) Fld.WIR_RNG_BASE_BASE_LO * 4096 ≤ a ∧
      a ≤ s.fld (Reg.WIR_RNG_HI n e) Fld.WIR_RNG_HI_LIMIT_HI * 2 ^ 32 + s.fld (Reg.WIR_RNG_LIMIT n e) Fld.WIR_RNG_LIMIT_LIMIT_LO * 4096 + 4095
    ∃ e : Fin 16, holds e ∧ s.fld (Reg.WIR_RNG_BASE n e) Fld.WIR_RNG_BASE_POSTED = 1 ∧ ∀ k : Fin 16, k < e → ¬ holds k
  let failed (s t : State) (n : Fin 2) (req : Req) : Prop := t.fld (Reg.WIR_STATUS n) Fld.WIR_STATUS_PERR = 1 ∧
    t.fld (Reg.WIR_CNT n) Fld.WIR_CNT_PERR = min (s.fld (Reg.WIR_CNT n) Fld.WIR_CNT_PERR + 1) 65535 ∧
    t.errs = if s.msSince (s.weir n).perrAt = true then s.errs ++ [{ plainRecord (.weir n) sevCE with info := (iidOf req.ini).toNat }]
      else s.errs
  (∀ (s : State) (n : Fin 2) (req : Req) (addr : BitVec 48) (v : Word), let a := addr.toNat
    let q := (s.weir n).queue
    let rq := s.issued req
    let p := s.relabel req
    let w : BridgeItem :=
      { req := rq, addr := a, width := 4, data := some v, posted := false, inside := false, since := s.tb.elapsed, taken := true }
    let i := Instr.bridgeWrite n req addr v
    let reads (k : Bool) := Instr.bridgeRead n req ⟨addr, k⟩
    let free : Prop := s.mute req.ini = false ∧ req.ini ∉ s.linkLost
    let on : Prop := req.ini = .debugModule → s.debugOn = true
    (¬ comes n req a ∨ s.mute req.ini = true → exec i s = .next s ∧ ∀ k, exec (reads k) s = .next s) ∧
    (comes n req a → s.mute req.ini = false → req.ini ∈ s.linkLost → exec i s = .next ((p.linkEnd req.ini).answer .link []) ∧
      ∀ k, exec (reads k) s = .next ((p.linkEnd req.ini).answer .link [0#8, 0#8, 0#8, 0#8])) ∧
    (comes n req a → free → ¬ on → ∃ t, exec i s = .next t ∧ t.reply = { resp := .decode, data := [] } ∧ t.weirs = s.weirs) ∧
    (comes n req a → free → on → posts s n a →
      exec i s = .next (if (q.filter (·.inside)).length < 32 ∧ ∀ x ∈ q, x.posted = true → x.inside = true then
        (p.setWeir n { s.weir n with queue := q ++ [{ w with posted := true, inside := true }] }).answer .okay []
      else p.setWeir n { s.weir n with queue := q ++ [{ w with posted := true }] })) ∧
    (comes n req a → free → on → (∃ x ∈ q, x.req.ini = rq.ini) →
      (¬ posts s n a → exec i s = .next (p.setWeir n { s.weir n with queue := q ++ [w] })) ∧
      ∀ k, exec (reads k) s = .next (p.setWeir n { s.weir n with queue := q ++ [{ w with data := none, taken := k }] })) ∧
    (comes n req a → free → (∀ x ∈ q, x.req.ini ≠ rq.ini) →
      (¬ posts s n a → exec i s = .next ((p.writeAt rq a 4 v).2.answer (p.writeAt rq a 4 v).1 [])) ∧
      let r := p.readAt rq a
      exec (reads true) s = .next (r.2.2.answer r.1 (leBytes 4 r.2.1.toNat)) ∧
      exec (reads false) s = .next (r.2.2.setWeir n { r.2.2.weir n with held := (r.2.2.weir n).held ++ [r.2.2.tb.elapsed] }))) ∧
  (∀ (s : State) (n : Fin 2) (e : Resp) (i : BridgeItem) (rest : List BridgeItem), let q := (s.weir n).queue
    ((∀ x ∈ q, x.inside = false) → exec (.postedWriteResponse n e) s = .next s) ∧
    (q = i :: rest → i.inside = true → i.posted = true → e ≠ .okay →
      ∃ t, exec (.postedWriteResponse n e) s = .next t ∧
        (rest = [] → (t.weir n).queue = [] ∧ t.mem = s.mem ∧ failed s t n i.req) ∧
        ((∀ x ∈ rest, x.posted = true ∧ x.inside = true) → (t.weir n).queue = rest ∧ failed s t n i.req) ∧
        ∀ x, rest = [x] → x.inside = false →
          if x.posted then (t.weir n).queue = [{ x with inside := true }] ∧ t.reply = { resp := .okay, data := [] } ∧ failed s t n i.req
          else ∃ u, failed s u n i.req ∧ u.mem = s.mem ∧ t = (u.setBridgeQueue n []).passDown n x) ∧
    ∀ v, q = [i] → i.inside = true → i.posted = true → i.data = some v →
      let r := (s.setWeir n { s.weir n with queue := [] }).writeAt i.req i.addr i.width v
      r.1 = .okay → (r.2.weir n).queue = [] → exec (.postedWriteResponse n .okay) s = .next r.2) ∧
  (∀ (s : State) (n : Fin 2) (k : Fin 64) (active : Bool), let was := (s.weir n).levels.contains k.val
    let a := Reg.WIR_MSG n k
    let file := 0x16000 + s.fld a Fld.WIR_MSG_PAGE
    let id := s.fld a Fld.WIR_MSG_ID
    ∃ t, exec (.bridgeMessage n k active) s = .next t ∧ (t.weir n).levels.contains k.val = active ∧ (t.weir n).queue = (s.weir n).queue ∧
      if active = true ∧ was = false ∧ s.fld a Fld.WIR_MSG_EN = 1 ∧ id ≠ 0 then
        if s.fileWorld file = s.flag a Fld.WIR_MSG_W then id < 2048 → (file, id) ∈ t.irqs
        else t.irqs = s.irqs ∧ t.fld Reg.WGD_STATUS Fld.WGD_STATUS_MSI_DROP = 1
      else t.irqs = s.irqs ∧ t.regs = s.regs) ∧
  (∀ (s : State) (n : Fin 2), ((s.weir n).held = [] → exec (.readResponseTimeout n) s = .next s) ∧
    ∀ at_ rest, (s.weir n).held = at_ :: rest →
      if s.passedUs at_ (s.fld (Reg.WIR_CTRL n) Fld.WIR_CTRL_RD_TMO_US) = true then
        ∃ t, exec (.readResponseTimeout n) s = .next t ∧ t = { s.setWeir n { s.weir n with held := rest } with regs := t.regs } ∧
          t.fld (Reg.WIR_STATUS n) Fld.WIR_STATUS_DISCARD = 1 ∧
          t.fld (Reg.WIR_CNT n) Fld.WIR_CNT_DISCARD = min (s.fld (Reg.WIR_CNT n) Fld.WIR_CNT_DISCARD + 1) 65535 ∧
          ∀ a, a ≠ Reg.WIR_STATUS n → a ≠ Reg.WIR_CNT n → t.reg a = s.reg a
      else exec (.readResponseTimeout n) s = .next s) ∧
  (∀ (s : State) (n : Fin 2) (req : Req) (addr : BitVec 48), let a := addr.toNat
    let q := (s.weir n).queue
    let rcd : ErrRecord := { plainRecord (.weir n) sevTimeout with info := a }
    (belowBridge n a = false → ∀ p, exec (.targetTimeout n req addr p) s = .next s) ∧
    (belowBridge n a = true →
      (∃ t, exec (.targetTimeout n req addr false) s = .next t ∧ OnlyRegs { s with errs := s.errs ++ [rcd] } t ∧
        t.reply = { resp := .decode, data := [] } ∧ t.fld (Reg.WIR_STATUS n) Fld.WIR_STATUS_TGT_TO = 1) ∧
      ((∀ x ∈ q, x.inside = true → x.req ≠ s.issued req ∨ x.addr ≠ a) → exec (.targetTimeout n req addr true) s = .next s) ∧
      ∀ x, q = [x] → x.inside = true → x.req = s.issued req → x.addr = a →
        if s.passedUs x.since (s.fld (Reg.WIR_CTRL n) Fld.WIR_CTRL_TGT_TMO_US) = true then
          ∃ t, exec (.targetTimeout n req addr true) s = .next t ∧
            (t.weir n).queue = [] ∧ t.mem = s.mem ∧ failed { s with errs := s.errs ++ [rcd] } t n x.req ∧
            t.fld (Reg.WIR_STATUS n) Fld.WIR_STATUS_TGT_TO = 1
        else exec (.targetTimeout n req addr true) s = .next s)) ∧
  (∀ (s : State) (k : Fin 8) (req : Req) (w : Word), let a := Reg.WIR0_SEM_OWN k
    let cmd := Reg.WIR0_SEM_CMD k
    let me := (iidOf (s.issued req).ini).toNat
    let acquire := Fld.WIR0_SEM_OWN_ACQUIRE.get w = 1
    let release := Fld.WIR0_SEM_OWN_RELEASE.get w = 1
    let mine := s.fld a Fld.WIR0_SEM_OWN_HELD = 1 ∧ s.fld a Fld.WIR0_SEM_OWN_OWNER = me
    (s.Grants req .write a → ∀ i ∈ [Instr.semAcquire k req w, Instr.semRelease k req w], ∃ t, exec i s = .next t ∧ OnlyRegs s t ∧
      t.reply = { resp := .okay, data := [] } ∧
      (¬ release → if acquire ∧ s.fld a Fld.WIR0_SEM_OWN_HELD = 0 then
        t.fld a Fld.WIR0_SEM_OWN_HELD = 1 ∧ t.fld a Fld.WIR0_SEM_OWN_OWNER = me else t.regs = (s.relabel req).regs) ∧
      (release → ¬ acquire → if mine then t.fld a Fld.WIR0_SEM_OWN_HELD = 0 ∧ t.fld a Fld.WIR0_SEM_OWN_OWNER = 0
        else t.reg a = s.reg a ∧ t.fld (Reg.WIR_STATUS 0) Fld.WIR_STATUS_CFG_ERR = 1)) ∧
    (s.Grants req .write cmd → Fld.WIR0_SEM_CMD_GO.get w = 1 → Fld.WIR0_SEM_CMD_OP.get w ≤ 8 →
      ∃ t, exec (.semGo k req w) s = .next t ∧ t.reply = { resp := .okay, data := [] } ∧ t.mem = s.mem ∧
        if mine ∧ s.fld a Fld.WIR0_SEM_OWN_BUSY = 0 then t.fld a Fld.WIR0_SEM_OWN_BUSY = 1 ∧
          let at_ := Fld.WIR0_SEM_CMD_ADDR_HI.get w * 2 ^ 32 + s.fld (Reg.WIR0_SEM_ADDR k) Fld.WIR0_SEM_ADDR_ADDR_LO * 4
          t.semOps = s.semOps ++ [{ k := k.val, op := Fld.WIR0_SEM_CMD_OP.get w, w := s.worldOf req.ini, lost := false, addr := at_,
                                    data := s.reg (Reg.WIR0_SEM_DATA k) }]
        else t.semOps = s.semOps ∧ t.reg cmd = s.reg cmd ∧ t.fld (Reg.WIR_STATUS 0) Fld.WIR_STATUS_CFG_ERR = 1) ∧
    ((∀ o ∈ s.semOps, o.k ≠ k.val) → exec (.semOpDone k) s = .next s) ∧
    ∀ o, s.semOps.find? (fun x => Nat.beq x.k k) = some o → ∃ t, exec (.semOpDone k) s = .next t ∧ t.semOps = s.semOps.erase o ∧
      t.fld a Fld.WIR0_SEM_OWN_BUSY = 0 ∧
      (s.place o.addr ≠ .ddr → t.mem = s.mem ∧ (o.lost = false → t.fld a Fld.WIR0_SEM_OWN_RESP = 2)) ∧
      (s.place o.addr = .ddr → o.addr % 4 = 0 → s.decodeDdr o.addr 0 = .ok →
        (∀ l, s.slcFind ((o.addr - ddrBase) / 64) = some l → l.bad = false) →
        (s.judge { ini := .semaphoreUnit, w := o.w, cl := 15, ctx := 0 } .amo o.addr 4).1 = .okay →
        let old : Word := BitVec.ofNat 32 (leNat (s.bytes o.addr 4))
        t.bytes o.addr 4 = leBytes 4 (semResult o.op old o.data).toNat ∧
        (∀ b, b < o.addr ∨ o.addr + 4 ≤ b → t.byte b = s.byte b) ∧
        (o.lost = false → t.fld a Fld.WIR0_SEM_OWN_RESP = 0 ∧ t.reg (Reg.WIR0_SEM_DATA k) = old))) ∧
  ∀ x y : Word, semResult 0 x y = y ∧ semResult 1 x y = x + y ∧ semResult 2 x y = x &&& y ∧ semResult 3 x y = x ||| y ∧
    semResult 4 x y = x ^^^ y ∧ (semResult 5 x y).toNat = max x.toNat y.toNat ∧ (semResult 6 x y).toNat = min x.toNat y.toNat ∧
    (semResult 7 x y).toInt = max x.toInt y.toInt ∧ (semResult 8 x y).toInt = min x.toInt y.toInt

/-- R421 to R429: the Hedgerow switch and its host interface. -/
def Obligations.GatewaySwitch : Prop :=
  let moves (s t : State) (f : EthFrame) (mask : Nat) : Prop := ∀ p : Fin 14, let q := s.gw.egress[p]
    p.val < 12 ∨ bitAt mask 12 = false ∨ f.inPort = 12 → s.packetBytes + 14 * f.bytes.length ≤ 0x400000 →
    if bitAt mask p = true ∧ p.val ≠ f.inPort then
      ((∀ g ∈ q ++ [f], s.gateOpen p g.tc (frameNs p g.bytes) = false) → t.gw.egress[p] = q ++ [f] ∧ t.gw.wire[p] = s.gw.wire[p]) ∧
      ((∀ g ∈ q ++ [f], s.gateOpen p g.tc (frameNs p g.bytes) = true) → t.gw.egress[p] = [] ∧ ∃ g ∈ q ++ [f], t.gw.wire[p] = some g)
    else t.gw.egress[p] = q
  (∀ (s : State) (port : Fin 14) (tc : Fin 8) (egress : BitVec 14) (bytes : List Byte) (ok m : Bool),
    let sized := 60 ≤ bytes.length ∧ bytes.length ≤ 9212
    let good := ok = true ∧ sized
    let cuts (p : Fin 14) : Prop := portRate p ≤ portRate port ∧ (∀ g ∈ s.gw.egress[p], g.tc ≠ tc.val) ∧
      s.gateOpen p tc (frameNs p bytes) = true ∧ m = false
    let f : EthFrame := { inPort := port, tc, bytes, tIn := s.now }
    let s1 : State := { s with portLinks := s.portLinks.set port true }
    (¬ sized → exec (.ethFrameReceived port tc egress bytes ok m) s = .next s1) ∧
    (sized → ok = false → ∃ t, exec (.ethFrameReceived port tc egress bytes ok m) s = .next t ∧
      t = { s1 with gw := { s.gw with wire := t.gw.wire, fcsBad := t.gw.fcsBad } } ∧
      ∀ p : Fin 14, let sent := bitAt egress.toNat p = true ∧ p ≠ port ∧ cuts p
        (sent → t.gw.fcsBad[p] = s.gw.fcsBad[p] + 1 ∧ t.gw.wire[p] = some f) ∧
        (¬ sent → t.gw.fcsBad[p] = s.gw.fcsBad[p] ∧ t.gw.wire[p] = s.gw.wire[p])) ∧
    (good → ∃ t, exec (.ethFrameReceived port tc egress bytes ok m) s = .next t ∧ t.portLinks = s1.portLinks ∧ moves s t f egress.toNat) ∧
    (good → egress = 0x1000#14 → port ≠ 12 → avtpOf bytes = none → s.gw.egress[12] = [] → s.gateOpen 12 tc (frameNs 12 bytes) = true →
      s.packetBytes + bytes.length ≤ 0x400000 →
      ∃ t, exec (.ethFrameReceived port tc egress bytes ok m) s = .next t ∧ t.gw.egress = s.gw.egress ∧
        match s.gw.hif with
        | none => t.mem = s.mem ∧
          t.fld Reg.TSW_HIF_STAT Fld.TSW_HIF_STAT_RX_LOST = min (s.fld Reg.TSW_HIF_STAT Fld.TSW_HIF_STAT_RX_LOST + 1) 65535
        | some d => let head := s.fld (Reg.HIF_DB_RX_HEAD tc) Fld.HIF_DB_RX_HEAD_HEAD
          let rq := s.unitReq .hedgerow d.cls d.ctx
          let at_ := d.rxBase[tc] + 32 * head
          if d.rxLog2[tc] = 0 ∨ head = s.fld (Reg.HIF_DB_RX_TAIL tc) Fld.HIF_DB_RX_TAIL_TAIL ∨ 2 ^ d.rxbLog2 < bytes.length then
            t.mem = s.mem ∧
            t.fld Reg.TSW_HIF_STAT Fld.TSW_HIF_STAT_RX_LOST = min (s.fld Reg.TSW_HIF_STAT Fld.TSW_HIF_STAT_RX_LOST + 1) 65535
          else ∀ ent u v w, s1.fetch rq at_ 32 = (.okay, ent, u) → u.put rq (fieldAt ent 0 8) bytes = (.okay, v) →
            { v with ticks := v.ticks + 1 }.put rq at_ (ent.take 8 ++ leBytes 2 bytes.length ++ leBytes 1 1 ++ leBytes 1 port ++
              leBytes 4 s.now ++ leBytes 16 0) = (.okay, w) →
            t.mem = w.mem ∧ t.msis = w.msis ++ [{ ini := .hedgerow, w := w.worldOf .hedgerow, ctx := d.ctx, addr := d.msiAddr,
                                                  data := d.msiData }] ∧
            t.reg (Reg.HIF_DB_RX_HEAD tc) = BitVec.ofNat 32 ((head + 1) % 2 ^ d.rxLog2[tc]))) ∧
  (∀ s : State, (s.bus.find? (fun e => Nat.beq e.action 5) = none → exec .gateSwitchEvent s = .next s) ∧
    ∀ e, s.bus.find? (fun e => Nat.beq e.action 5) = some e → let l := e.arg1 % 16
      let c := s.gateCycle l
      let admitted := 10000 ≤ c ∧ c ≤ 1000000000 ∧ 1000000000 % c = 0
      ∃ t, exec .gateSwitchEvent s = .next t ∧ t.bus = s.bus.erase e ∧ t.gw.egress = s.gw.egress ∧
        if admitted then t.regs = s.regs ∧ ∃ at_, s.now ≤ at_ ∧ at_ < s.now + c ∧ at_ % c = 0 ∧
          ∀ p : Fin 14, t.gw.pendList[p] = if bitAt e.arg0 p = true then some (l, at_) else s.gw.pendList[p]
        else t.gw.pendList = s.gw.pendList ∧ t.fld Reg.TSW_STATUS Fld.TSW_STATUS_CFG_ERR = 1) ∧
  (∀ (s : State) (p : Fin 14), let a := Reg.TSW_GCL p
    (s.gw.pendList[p] = none → exec (.gateListChange p) s = .next s) ∧
    ∀ l at_, s.gw.pendList[p] = some (l, at_) → l < 16 → (p = 12 → s.gw.egress[p] = [] ∨ s.gw.hif = none) →
      if at_ ≤ s.now then let s1 := (s.setFld a Fld.TSW_GCL_ACTIVE 1).setFld a Fld.TSW_GCL_LIST l
        let q := s.gw.egress[p]
        ∃ t, exec (.gateListChange p) s = .next t ∧ t.fld a Fld.TSW_GCL_ACTIVE = 1 ∧ t.fld a Fld.TSW_GCL_LIST = l ∧
          t.gw.pendList[p] = none ∧ (∀ k : Fin 14, k ≠ p → t.gw.egress[k] = s.gw.egress[k] ∧ t.gw.pendList[k] = s.gw.pendList[k]) ∧
          ((∀ g ∈ q, s1.gateOpen p g.tc (frameNs p g.bytes) = false) → t.gw.egress[p] = q) ∧
          ((∀ g ∈ q, s1.gateOpen p g.tc (frameNs p g.bytes) = true) → t.gw.egress[p] = [])
      else exec (.gateListChange p) s = .next s) ∧
  (∀ (s : State) (p : Fin 14) (req : Req) (w : Word), let a := Reg.TSW_GCL p
    s.Grants req .write a → ∃ t, exec (.gateListClear p req w) s = .next t ∧ OnlyRegs s t ∧ t.reply = { resp := .okay, data := [] } ∧
      if Fld.TSW_GCL_CLEAR.get w = 1 then t.fld a Fld.TSW_GCL_ACTIVE = 0 ∧ t.fld a Fld.TSW_GCL_LIST = 0 ∧ ∀ tc ns, t.gateOpen p tc ns = true
      else t.regs = (s.relabel req).regs) ∧
  (∀ (s : State) (req : Req) (w : Word), let a := Reg.TSW_HIF_CTRL
    s.Grants req .write a →
    (Fld.FGD_STR_CTRL_EN.get w = 1 → s.fld a Fld.FGD_STR_CTRL_EN = 0 → ∀ resp bs u,
      let iova := s.fld Reg.TSW_HIF_DESC_HI Fld.FGD_STR_DESC_HI_ADDR_HI * 2 ^ 32 +
        s.fld Reg.TSW_HIF_DESC_LO Fld.FGD_STR_DESC_LO_ADDR_LO * 64
      let s1 := (s.relabel req).plainWrite a w
      s1.fetch (s1.unitReq .hedgerow 0 0) iova 256 = (resp, bs, u) →
      ∃ t, exec (.hifEnable req w) s = .next t ∧ t.reply = { resp := .okay, data := [] } ∧ t.mem = u.mem ∧
        if resp = .okay ∧ u.hifAdmits bs = true then t.gw = { u.gw with hif := some (hifDesc bs) } ∧
          ∀ q : Fin 8, t.reg (Reg.HIF_DB_TX_TAIL q) = 0#32 ∧ t.reg (Reg.HIF_DB_TX_HEAD q) = 0#32 ∧
            t.reg (Reg.HIF_DB_RX_TAIL q) = 0#32 ∧ t.reg (Reg.HIF_DB_RX_HEAD q) = 0#32
        else t.gw = u.gw ∧ t.fld a Fld.FGD_STR_CTRL_EN = 0 ∧ t.fld a Fld.FGD_STR_CTRL_CFG_ERR = 1) ∧
    (Fld.FGD_STR_CTRL_EN.get w = 0 → s.fld a Fld.FGD_STR_CTRL_EN = 1 →
      ∃ t, exec (.hifDisable req w) s = .next t ∧ t.reply = { resp := .okay, data := [] } ∧ t.gw = { s.gw with hif := none } ∧
        t.mem = s.mem ∧ t.fld a Fld.FGD_STR_CTRL_EN = 0 ∧
        ∀ q : Fin 8, t.reg (Reg.HIF_DB_TX_HEAD q) = s.reg (Reg.HIF_DB_TX_TAIL q))) ∧
  ∀ (s : State) (egress : BitVec 14), let head (q : Fin 8) := s.fld (Reg.HIF_DB_TX_HEAD q) Fld.HIF_DB_TX_HEAD_HEAD
    let waits (d : HifDesc) (q : Fin 8) : Prop := d.txLog2[q] ≠ 0 ∧ head q ≠ s.fld (Reg.HIF_DB_TX_TAIL q) Fld.HIF_DB_TX_TAIL_TAIL
    (s.gw.hif = none → exec (.hifTransmit egress) s = .next s) ∧
    ∀ d, s.gw.hif = some d → ((∀ q, ¬ waits d q) → exec (.hifTransmit egress) s = .next s) ∧
      ∀ q, waits d q → (∀ k, q < k → ¬ waits d k) → ∀ e ent u, let rq := s.unitReq .hedgerow d.cls d.ctx
        let at_ := d.txBase[q] + 32 * head q
        let moved := BitVec.ofNat 32 ((head q + 1) % 2 ^ d.txLog2[q])
        let len := fieldAt ent 8 2
        let flags := fieldAt ent 10 1
        let errs (x t : State) : Prop := t.fld Reg.TSW_HIF_STAT Fld.TSW_HIF_STAT_TX_ERR =
          min (x.fld Reg.TSW_HIF_STAT Fld.TSW_HIF_STAT_TX_ERR + 1) 65535
        let msi (x t : State) : Prop := t.msis = x.msis ++ if bitAt flags 0 = true then
          [{ ini := .hedgerow, w := x.worldOf .hedgerow, ctx := d.ctx, addr := d.msiAddr, data := d.msiData }] else []
        let back (x : State) (err : Nat) : State :=
          let y := (x.put rq (at_ + 10) (leBytes 1 (flags % 2 + 8 * bitsOf flags 3 3 + 2 + 4 * err))).2
          if bitAt flags 3 = true ∧ err = 0 then (y.put rq (at_ + 16) (leBytes 4 s.short)).2 else y
        s.fetch rq at_ 32 = (e, ent, u) → ∃ t, exec (.hifTransmit egress) s = .next t ∧
          if e ≠ .okay then t.reg (Reg.HIF_DB_TX_HEAD q) = moved ∧ errs u t ∧ t.gw = u.gw ∧ t.msis = u.msis
          else if len < 60 ∨ 9212 < len then let x := back u 1
            t.reg (Reg.HIF_DB_TX_HEAD q) = moved ∧ errs x t ∧ t.gw = x.gw ∧ t.mem = x.mem ∧ msi x t
          else ∀ r b v, u.fetch rq (fieldAt ent 0 8) len = (r, b, v) → let x := back v (if r = .okay then 0 else 1)
            t.reg (Reg.HIF_DB_TX_HEAD q) = moved ∧ t.mem = x.mem ∧ msi x t ∧
              if r = .okay then moves x t { inPort := 12, tc := q, bytes := b, tIn := s.now } egress.toNat else errs x t ∧ t.gw = x.gw

/-- R430 to R433: CAN channels and the talkers of the tunnel engine. -/
def Obligations.CanChannels : Prop :=
  let msi (s t : State) (n : Nat) (d : CanDesc) : Prop := d.msiAddr ≠ 0 →
    t.msis = s.msis ++ [{ ini := .can (Fin.ofNat 12 n), w := s.worldOf (.can (Fin.ofNat 12 n)), ctx := d.ctx, addr := d.msiAddr,
                          data := d.msiData }]
  (∀ (s : State) (n : Fin 12) (req : Req) (w : Word), let a := Reg.CAN_CTRL n
    s.Grants req .write a →
    (Fld.FGD_STR_CTRL_EN.get w = 1 → s.fld a Fld.FGD_STR_CTRL_EN = 0 → ∀ resp bs u,
      let iova := s.fld (Reg.CAN_DESC_HI n) Fld.FGD_STR_DESC_HI_ADDR_HI * 2 ^ 32 +
        s.fld (Reg.CAN_DESC_LO n) Fld.FGD_STR_DESC_LO_ADDR_LO * 64
      ((s.relabel req).plainWrite a w).canFetch n 0 iova 64 = (resp, bs, u) →
      ∃ t, exec (.canEnable n req w) s = .next t ∧ t.reply = { resp := .okay, data := [] } ∧ t.mem = u.mem ∧
        (∀ k : Fin 12, k ≠ n → t.can k = u.can k) ∧
        ((∃ rates, resp = .okay ∧ canRates bs = some rates ∧ u.canAdmits n bs = true ∧
          t.can n = { CanChan.reset with desc := some (canDesc bs rates) } ∧ t.reg (Reg.CAN_DB_SQ_TAIL n) = 0#32 ∧
          t.reg (Reg.CAN_DB_SQ_HEAD n) = 0#32 ∧ t.reg (Reg.CAN_DB_CQ_HEAD n) = 0#32 ∧ t.reg (Reg.CAN_DB_CQ_TAIL n) = 0#32) ∨
        ((resp ≠ .okay ∨ canRates bs = none ∨ u.canAdmits n bs = false) ∧ t.can n = u.can n ∧ t.fld a Fld.FGD_STR_CTRL_EN = 0 ∧
          t.fld a Fld.FGD_STR_CTRL_CFG_ERR = 1))) ∧
    (Fld.FGD_STR_CTRL_EN.get w = 0 → s.fld a Fld.FGD_STR_CTRL_EN = 1 →
      ∃ t, exec (.canEnable n req w) s = .next t ∧ t.reply = { resp := .okay, data := [] } ∧ t.can n = CanChan.reset ∧
        t.fld a Fld.FGD_STR_CTRL_EN = 0 ∧ t.mem = s.mem)) ∧
  (∀ kbps lo hi : Nat, 0 < kbps → let exact_ (p n : Nat) : Prop := 1 ≤ p ∧ p ≤ 32 ∧ lo ≤ n ∧ n ≤ hi ∧ p * kbps * n = 160000
    match canTiming kbps lo hi with
    | some (p, n) => exact_ p n ∧ ∀ p' n', exact_ p' n' → p ≤ p'
    | none => ∀ p n, ¬ exact_ p n) ∧
  (∀ (s : State) (n : Fin 12) (sent : Bool) (tec : BitVec 9) (rec : BitVec 8), let a := Reg.CAN_STATUS n
    let i := Instr.canTransmit n sent tec rec
    let counted (u t : State) : Prop := t.fld a Fld.CAN_STATUS_REC = rec.toNat ∧ t.fld a Fld.CAN_STATUS_TEC = min (tec.toNat / 4) 63 ∧
      t.fld a Fld.CAN_STATUS_PASSIVE = (if 128 ≤ tec.toNat ∨ 128 ≤ rec.toNat then 1 else 0) ∧ t.mem = u.mem ∧
      if sent = true then t.errs = u.errs
      else t.fld a Fld.CAN_STATUS_BUSOFF = 1 ∧ t.errs = u.errs ++ [plainRecord (.can n) sevCE]
    ((s.can n).desc = none → exec i s = .next s) ∧
    ∀ d, (s.can n).desc = some d →
      (d.listen = true ∨ s.fld a Fld.CAN_STATUS_BUSOFF = 1 → exec i s = .next s) ∧
      (d.listen = false → s.fld a Fld.CAN_STATUS_BUSOFF = 0 →
        (∀ f, s.gw.tunnelTx.find? (fun f => Nat.beq f.chan n) = some f → ∃ t, exec i s = .next t ∧ counted s t ∧
          t.gw = { s.gw with tunnelTx := s.gw.tunnelTx.erase f, cans := t.gw.cans } ∧
          t.can n = (if sent = true then { s.can n with sent := some f.frame } else s.can n) ∧ ∀ k : Fin 12, k ≠ n → t.can k = s.can k) ∧
        ((∀ f ∈ s.gw.tunnelTx, f.chan ≠ n.val) → let head := s.fld (Reg.CAN_DB_SQ_HEAD n) Fld.DB_SQ_HEAD_HEAD
          (head = s.fld (Reg.CAN_DB_SQ_TAIL n) Fld.DB_SQ_TAIL_TAIL → exec i s = .next s) ∧
          (head ≠ s.fld (Reg.CAN_DB_SQ_TAIL n) Fld.DB_SQ_TAIL_TAIL → 4 ≤ d.txLog2 → d.txLog2 ≤ 12 → ∀ resp ent u,
            let at_ := d.txRing + 32 * head
            let fl := fieldAt ent 5 1
            s.canFetch n d.ctx at_ 32 = (resp, ent, u) → ∃ t, exec i s = .next t ∧
              t.fld (Reg.CAN_DB_SQ_HEAD n) Fld.DB_SQ_HEAD_HEAD = (head + 1) % 2 ^ d.txLog2 ∧
              if resp = .okay then let len := fieldAt ent 6 2
                ∀ r data v, (if len ≤ 8 then (Resp.okay, (ent.drop 24).take len, u) else u.canFetch n d.ctx (fieldAt ent 24 8) len) = (r, data, v) →
                  let frame : CanFrame := { id := BitVec.ofNat 32 (fieldAt ent 0 4), fmt := BitVec.ofNat 8 (fieldAt ent 4 1),
                                            sdt := BitVec.ofNat 8 (fieldAt ent 8 1), vcid := BitVec.ofNat 8 (fieldAt ent 9 1),
                                            af := BitVec.ofNat 32 (fieldAt ent 12 4), data }
                  let gone := r = .okay ∧ sent = true
                  let v1 := if gone then v.setCan n { v.can n with sent := some frame } else v
                  let x := (v1.canPut n d.ctx (at_ + 16) (leBytes 4 s.short)).2
                  let y := (x.canPut n d.ctx (at_ + 5) (leBytes 1 (fl % 4 + 4 + if gone then 0 else 8))).2
                  (bitAt fl 1 = true → msi y t n d) ∧ (bitAt fl 1 = false → t.msis = y.msis) ∧ t.can n = y.can n ∧
                  if r = .okay then counted y t else t.mem = y.mem ∧ t.reg a = y.reg a
              else t.mem = u.mem ∧ t.reg a = u.reg a)))) ∧
  (∀ (s : State) (n : Fin 12), let a := Reg.CAN_STATUS n
    (s.fld a Fld.CAN_STATUS_BUSOFF = 0 → exec (.canBusOffRecovery n) s = .next s) ∧
    (s.fld a Fld.CAN_STATUS_BUSOFF = 1 → ∃ t, exec (.canBusOffRecovery n) s = .next t ∧ t = { s with regs := t.regs } ∧
      t.fld a Fld.CAN_STATUS_BUSOFF = 0 ∧ t.fld a Fld.CAN_STATUS_TEC = 0 ∧ t.fld a Fld.CAN_STATUS_REC = 0 ∧
      t.fld a Fld.CAN_STATUS_PASSIVE = 0 ∧ t.fld a Fld.CAN_STATUS_RX_LOST = s.fld a Fld.CAN_STATUS_RX_LOST ∧
      ∀ b, b ≠ a → t.reg b = s.reg b)) ∧
  (∀ (s : State) (n : Fin 12) (f : CanFrame), let a := Reg.CAN_STATUS n
    let i := Instr.canFrameReceived n f
    let c := s.can n
    (c.desc = none → exec i s = .next s) ∧
    ∀ d, c.desc = some d →
      (s.fld a Fld.CAN_STATUS_BUSOFF = 1 ∨ d.mode < f.fmt.toNat % 4 → exec i s = .next s) ∧
      (s.fld a Fld.CAN_STATUS_BUSOFF = 0 → f.fmt.toNat % 4 ≤ d.mode → 4 ≤ d.rxLog2 → d.rxLog2 ≤ 12 → let size := 2 ^ d.rxLog2
        let slot := d.rxData + 2048 * c.rxIdx
        let long := 8 < f.data.length
        (size ≤ c.unread → ∃ t, exec i s = .next t ∧ t.can n = c ∧
          t.fld a Fld.CAN_STATUS_RX_LOST = min (s.fld a Fld.CAN_STATUS_RX_LOST + 1) 65535 ∧ (8 ≤ n.val → t.mem = s.mem)) ∧
        (c.unread < size → c.rxIdx < size → ∀ u v, (if long then s.canPut n d.ctx slot f.data else (.okay, s)) = (.okay, u) →
          u.canPut n d.ctx (d.rxRing + 32 * c.rxIdx) (rxEntry f c.phase s.short (if long then slot else leNat f.data)) = (.okay, v) →
          let wrap := c.rxIdx + 1 = size
          let next := if wrap then 0 else c.rxIdx + 1
          ∃ t, exec i s = .next t ∧ t.fld (Reg.CAN_DB_CQ_TAIL n) Fld.DB_CQ_TAIL_TAIL = next ∧
            t.can n = { c with rxIdx := next, phase := if wrap then !c.phase else c.phase, unread := c.unread + 1 } ∧
            (8 ≤ n.val → t.mem = v.mem ∧ msi v t n d) ∧
            (n.val < 8 → (∀ k : Fin 16, s.tunField k 0 1 ≠ 1) → t.gw.talkers = s.gw.talkers) ∧
            ∀ k : Fin 16, n.val < 8 → (∀ j : Fin 16, s.tunField j 0 1 = 1 ↔ j = k) → bitAt (s.tunField k 4 2) n = true →
              f.fmt.toNat % 4 ≠ 2 → (s.gw.talkers[k]).length + 1 < s.tunField k 3 1 →
              t.gw.talkers[k] = s.gw.talkers[k] ++ [{ chan := n, frame := f, tSof := v.now, at_ := v.tb.elapsed }]))) ∧
  ∀ (s : State) (k : Fin 16), (s.gw.talkers[k] = [] → exec (.tunnelHoldExpiry k) s = .next s) ∧
    ∀ f rest, s.gw.talkers[k] = f :: rest → s.tunField k 0 1 = 1 →
      if s.passedUs f.at_ (s.tunField k 24 4) = true then ∃ t, exec (.tunnelHoldExpiry k) s = .next t ∧ t.gw.talkers[k] = [] ∧
        (∀ j : Fin 16, j ≠ k → t.gw.talkers[j] = s.gw.talkers[j]) ∧
        SMap.find t.gw.lastSeq k.val = some (match SMap.find s.gw.lastSeq k.val with | some l => (l + 1) % 256 | none => 0)
      else exec (.tunnelHoldExpiry k) s = .next s

/-- R324, R434 to R436: the root ports, the xSPI controller and the audio ports. -/
def Obligations.SlowIo : Prop :=
  (∀ (s : State) (n : Fin 2) (req : Req) (w : Word), let a := Reg.PCE_CFG n
    s.Grants req .write a → ∃ t, exec (.pcieEnable n req w) s = .next t ∧ OnlyRegs s t ∧ t.reply = { resp := .okay, data := [] } ∧
      t.fld a Fld.PCE_CFG_EN = Fld.PCE_CFG_EN.get w ∧
      (s.fld a Fld.PCE_CFG_EN = 1 → ∀ f ∈ [Fld.PCE_CFG_CLASS, Fld.PCE_CFG_GEN, Fld.PCE_CFG_WIDTH], t.fld a f = s.fld a f) ∧
      (s.fld a Fld.PCE_CFG_EN = 0 →
        t.fld a Fld.PCE_CFG_CLASS = (if Fld.PCE_CFG_CLASS.get w < 12 then Fld.PCE_CFG_CLASS.get w else s.fld a Fld.PCE_CFG_CLASS) ∧
        t.fld a Fld.PCE_CFG_GEN = (if 1 ≤ Fld.PCE_CFG_GEN.get w ∧ Fld.PCE_CFG_GEN.get w ≤ 5 then Fld.PCE_CFG_GEN.get w else s.fld a Fld.PCE_CFG_GEN) ∧
        t.fld a Fld.PCE_CFG_WIDTH = (if Fld.PCE_CFG_WIDTH.get w ≤ 2 then Fld.PCE_CFG_WIDTH.get w else s.fld a Fld.PCE_CFG_WIDTH))) ∧
  (∀ (s : State) (n : Fin 2) (write : Bool) (ctx : Fin 32) (iova : BitVec 48) (data : List Byte) (len : Nat),
    let i := Instr.pcieInboundRequest n write ctx iova data len
    let rq := s.unitReq (.pcie n) (s.fld (Reg.PCE_CFG n) Fld.PCE_CFG_CLASS) ctx
    let fails (u t : State) (e : Resp) : Prop := t.reply = { resp := e, data := [] } ∧ t.mem = u.mem ∧
      t.gw.aer = u.gw.aer.set n (match e with
        | .decode => { u.gw.aer[n] with ur := true }
        | .guard => { u.gw.aer[n] with ca := true }
        | _ => { u.gw.aer[n] with ie := true }) ∧
      t.errs = if e = .ue ∨ e = .link then u.errs ++ [plainRecord (.pcie n) sevUE]
        else if u.msSince u.gw.pceSent[n] = true then u.errs ++ [plainRecord (.pcie n) sevCE] else u.errs
    (s.fld (Reg.PCE_CFG n) Fld.PCE_CFG_EN = 0 → exec i s = .next s) ∧
    (s.fld (Reg.PCE_CFG n) Fld.PCE_CFG_EN = 1 → let place (w : Bool) : Place := match s.translate (.pcie n) ctx iova.toNat w with
        | some pa => s.place pa
        | none => .unmapped
      let control (w : Bool) : Prop := place w = .register ∨ place w = .interruptFile
      (write = true → ¬ control true → ∀ e u, s.put rq iova.toNat data = (e, u) → ∃ t, exec i s = .next t ∧
        if e = .okay then t = u.answer .okay [] else fails u t e) ∧
      (write = false → (¬ control false ∨ len ≠ 4) → ∀ e d u, s.fetch rq iova.toNat len = (e, d, u) → ∃ t, exec i s = .next t ∧
        if e = .okay then t = u.answer .okay d else fails u t e) ∧
      (write = true → ∀ pa, s.translate (.pcie n) ctx iova.toNat true = some pa → s.place pa = .interruptFile → pa % 4096 = 0 → data.length = 4 →
        exec i s = .next ((s.deliver (pa / 4096) (leNat data) (s.worldOf (.pcie n))).answer .okay [])) ∧
      ∀ pa, s.translate (.pcie n) ctx iova.toNat write = some pa → s.place pa = .register →
        (write = true → ∃ t, exec i s = .next t ∧ t.reply = { resp := (s.writeAt rq pa data.length (BitVec.ofNat 32 (leNat (data.take 4)))).1, data := [] }) ∧
        (write = false → len = 4 → (s.readAt rq pa).1 = .okay → ∃ t, exec i s = .next t ∧
          t.reply = { resp := .okay, data := leBytes 4 (s.readAt rq pa).2.1.toNat }))) ∧
  (∀ (s : State) (size : Nat) (sfdp : List Byte), let head := s.fld Reg.XSP_DB_SQ_HEAD Fld.DB_SQ_HEAD_HEAD
    let rows := [Instr.xspiRead, .xspiProgram, .xspiEraseSector size, .xspiReadSfdp sfdp, .xspiOperationTimeout]
    let at_ := Config.xspiRing.1 + 32 * head
    let moved (t : State) : Prop := t.fld Reg.XSP_DB_SQ_HEAD Fld.DB_SQ_HEAD_HEAD = (head + 1) % 2 ^ Config.xspiRing.2 % 65536
    let ends (u t : State) (status : Nat) : Prop := moved t ∧ t.mem = (u.put s.xspReq (at_ + 24) (leBytes 8 status)).2.mem ∧ t.flash = u.flash
    (head = s.fld Reg.XSP_DB_SQ_TAIL Fld.DB_SQ_TAIL_TAIL → ∀ i ∈ rows, exec i s = .next s) ∧
    (head ≠ s.fld Reg.XSP_DB_SQ_TAIL Fld.DB_SQ_TAIL_TAIL → ∀ e ent u, s.fetch s.xspReq at_ 32 = (e, ent, u) →
      let op := fieldAt ent 0 1
      let len := fieldAt ent 4 4
      let iova := fieldAt ent 16 8
      let p := fieldAt ent 1 1 % 2 * 2 ^ 32 + fieldAt ent 8 8 % 2 ^ 32
      let flashAt (x : State) (a : Nat) : Byte := SMap.get flashDflt x.flash a
      (e ≠ .okay → ∀ i ∈ rows, ∃ t, exec i s = .next t ∧ moved t ∧ t.mem = u.mem ∧ t.flash = s.flash) ∧
      (e = .okay → (∀ i k, (i, k) ∈ [(Instr.xspiRead, 0), (.xspiProgram, 1), (.xspiEraseSector size, 2), (.xspiReadSfdp sfdp, 3)] → op ≠ k →
          exec i s = .next u) ∧
        (op = 0 → ∀ r v, u.put s.xspReq iova ((List.range len).map fun k => flashAt s (p + k)) = (r, v) →
          ∃ t, exec .xspiRead s = .next t ∧ ends v t (respCode r)) ∧
        (op = 1 → ∀ r d v, u.fetch s.xspReq iova len = (r, d, v) → ∃ t, exec .xspiProgram s = .next t ∧ moved t ∧
          t.mem = ({ v with flash := t.flash }.put s.xspReq (at_ + 24) (leBytes 8 (respCode r))).2.mem ∧
          if r = .okay then (∀ k, (h : k < d.length) → k < len → flashAt t (p + k) = flashAt s (p + k) &&& d[k]) ∧
            ∀ a, a < p ∨ p + len ≤ a → flashAt t a = flashAt s a else t.flash = s.flash) ∧
        (op = 2 → 0 < size → ∃ t, exec (.xspiEraseSector size) s = .next t ∧ moved t ∧
          t.mem = ({ u with flash := t.flash }.put s.xspReq (at_ + 24) (leBytes 8 0)).2.mem ∧
          ∀ a, flashAt t a = if a / size = p / size then 0xFF#8 else flashAt s a) ∧
        (op = 3 → ∀ r v, u.put s.xspReq iova (sfdp.take len) = (r, v) → ∃ t, exec (.xspiReadSfdp sfdp) s = .next t ∧ ends v t (respCode r)) ∧
        ∃ t, exec .xspiOperationTimeout s = .next t ∧ ends u t 255))) ∧
  (∀ (s : State) (n : Fin 8) (req : Req) (w : Word), let a := Reg.AUD_CTRL n
    s.Grants req .write a →
    (Fld.FGD_STR_CTRL_EN.get w = 1 → s.fld a Fld.FGD_STR_CTRL_EN = 0 → ∀ resp bs u,
      let iova := s.fld (Reg.AUD_DESC_HI n) Fld.FGD_STR_DESC_HI_ADDR_HI * 2 ^ 32 +
        s.fld (Reg.AUD_DESC_LO n) Fld.FGD_STR_DESC_LO_ADDR_LO * 64
      let s1 := (s.relabel req).plainWrite a w
      s1.fetch (s1.audReq 0) iova 64 = (resp, bs, u) →
      ∃ t, exec (.audioEnable n req w) s = .next t ∧ t.reply = { resp := .okay, data := [] } ∧ t.mem = u.mem ∧
        (∀ k : Fin 8, k ≠ n → t.audio k = u.audio k) ∧
        if resp = .okay ∧ u.audAdmits bs = true then t.reg (Reg.AUD_BUF_TAIL n) = 0#32 ∧ t.audio n = { AudioPort.reset with
            receive := bitAt (fieldAt bs 0 1) 0, bufRing := fieldAt bs 16 8, recRing := fieldAt bs 24 8, msiAddr := fieldAt bs 32 8
            msiData := fieldAt bs 40 4, log2 := fieldAt bs 44 1, ctx := fieldAt bs 45 1, on := true
            master := bitAt (fieldAt bs 0 1) 1, frame := fieldAt bs 1 1 * (fieldAt bs 2 1 / 8), fsHz := fieldAt bs 4 4, start := fieldAt bs 8 8 }
        else t.audio n = u.audio n ∧ t.fld a Fld.FGD_STR_CTRL_EN = 0 ∧ t.fld a Fld.FGD_STR_CTRL_CFG_ERR = 1) ∧
    (Fld.FGD_STR_CTRL_EN.get w = 0 → s.fld a Fld.FGD_STR_CTRL_EN = 1 → ∃ t, exec (.audioEnable n req w) s = .next t ∧
      t.reply = { resp := .okay, data := [] } ∧ t.audio n = AudioPort.reset ∧ t.fld a Fld.FGD_STR_CTRL_EN = 0 ∧ t.mem = s.mem)) ∧
  ∀ (s : State) (n : Fin 8) (tIn : BitVec 32) (samples : List Byte), let x := s.audio n
    let i := Instr.audioBufferDone n tIn samples
    let tFs : BitVec 32 := if x.master = true then BitVec.ofNat 32 (x.start + x.frames * 1000000000 / x.fsHz) else tIn
    let tail := s.fld (Reg.AUD_BUF_TAIL n) Fld.FGD_STR_BUF_TAIL_TAIL
    (x.on = false → exec i s = .next s) ∧
    (x.on = true → x.head = tail → exec i s = .next (s.setAudio n { x with
      seq := x.seq + 1, nobuf := min (x.nobuf + 1) 65535, frames := x.frames + samples.length / x.frame })) ∧
    (x.on = true → x.head ≠ tail → x.head < 2 ^ x.log2 → ∀ e ent u, let rq := s.audReq x.ctx
      let wrap := x.head + 1 = 2 ^ x.log2
      let y : AudioPort := { x with head := if wrap then 0 else x.head + 1, phase := if wrap then !x.phase else x.phase
                                    seq := x.seq + 1, nobuf := 0 }
      let len := fieldAt ent 8 4
      let recorded (tag moved : Nat) (v : State) (bytes : List Byte) (trunc : Bool) : Prop :=
        let y1 : AudioPort := { y with frames := x.frames + moved / x.frame }
        let record := audioRecord n tag (x.seq + 1) tFs.toNat s.short (crc32 bytes) bytes.length x.nobuf x.phase trunc
        ∃ t, exec i s = .next t ∧ t.audio n = y1 ∧
        ∀ z, (v.setAudio n y1).put rq (x.recRing + 64 * x.head) record = (.okay, z) → t.mem = z.mem ∧
          t.msis = z.msis ++ [{ ini := .audio, w := z.worldOf .audio, ctx := x.ctx, addr := x.msiAddr, data := x.msiData }]
      let tag := fieldAt ent 12 4
      s.fetch rq (x.bufRing + 16 * x.head) 16 = (e, ent, u) →
        (e ≠ .okay → ∃ v free, v.mem = u.mem ∧ recorded free samples.length v [] true) ∧
        (e = .okay → x.receive = true → ∀ v, u.put rq (fieldAt ent 0 8) (samples.take len) = (.okay, v) →
          recorded tag (samples.take len).length v (samples.take len) (decide (len < samples.length))) ∧
        (e = .okay → x.receive = false → ∀ d v, u.fetch rq (fieldAt ent 0 8) len = (.okay, d, v) → recorded tag d.length v d false))

/-- R439 to R451: the error manager. -/
def Obligations.ErrorManager : Prop :=
  let safe := Reg.ERM_SAFE
  (∀ s : State, s.errs = [] → exec .errorRecordAccept s = .next s) ∧
  (∀ (s : State) (r : ErrRecord) (rest : List ErrRecord), s.errs = r :: rest → let src := srcIndex r.unit
    let count := s.erm.count src
    let ranked := 2 ≤ r.sev
    let second := count = some 1 ∧ ranked ∧ r.sev ≠ 4
    let third := ranked ∧ r.sev ≠ 4 ∧ ∃ c, count = some c ∧ 2 ≤ c
    let resets := second ∧ actionOf r.unit = 0 ∧ s.domainState (domainOf r.unit) ≠ 5
    let isolates := second ∧ actionOf r.unit = 1 ∧ s.isIsolated r.unit = false
    let raises := r.sev = 4 ∨ third
    let flags := (if count ≠ none then 1 else 0) + (if isolates then 4 else 0) + (if raises then 8 else 0) +
      (if count = none ∧ ranked then 16 else 0)
    let accepted (f : Nat) : QueuedRecord := { rcd := r, flags := f, t := s.short, seq := s.erm.seq % 2 ^ 32 }
    let low := s.erm.queue.foldl (fun m q => min m q.rcd.sev) 7
    (resets → exec .errorRecordAccept s = .next ((State.requestReset { s with
        errs := rest, erm := { s.erm with seq := s.erm.seq + 1, handling := SMap.insert s.erm.handling src 2 } }
      (domainOf r.unit)).enqueue (accepted 3))) ∧
    (¬ resets → ∃ t, exec .errorRecordAccept s = .next t ∧ t.errs = rest ∧ t.mem = s.mem ∧ t.erm.seq = s.erm.seq + 1 ∧
      t.erm.count src = (if ranked then some (min 3 (count.getD 0 + 1)) else count) ∧
      (∀ k, k ≠ src → t.erm.count k = s.erm.count k) ∧
      t.erm.isolated = (if isolates then s.erm.isolated ++ [r.unit] else s.erm.isolated) ∧
      t.fld safe Fld.ERM_SAFE_ESC_LEVEL = s.fld safe Fld.ERM_SAFE_ESC_LEVEL ∧
      (if raises then t.fld safe Fld.ERM_SAFE_LEVEL = max (s.fld safe Fld.ERM_SAFE_LEVEL) (s.fld safe Fld.ERM_SAFE_ESC_LEVEL) ∧
        t.fld safe Fld.ERM_SAFE_FAULT = 1 else t.reg safe = s.reg safe) ∧
      if s.erm.queue.length < 64 then t.erm.queue = s.erm.queue ++ [accepted flags] ∧ t.reg Reg.ERM_OVF = s.reg Reg.ERM_OVF
      else (t.reg Reg.ERM_OVF).toNat = min ((s.reg Reg.ERM_OVF).toNat + 1) 0xFFFFFFFF ∧
        if low < r.sev then r.sev ≤ 7 → t.erm.queue.length = s.erm.queue.length ∧ t.erm.queue.getLast? = some (accepted flags) ∧
          ∃ a b x, s.erm.queue = a ++ x :: b ∧ x.rcd.sev = low ∧ (∀ q ∈ b, q.rcd.sev ≠ low) ∧ t.erm.queue = a ++ b ++ [accepted flags]
        else t.erm.queue = s.erm.queue)) ∧
  (∀ (s : State) (req : Req) (w : Word), s.Grants req .write Reg.ERM_POP →
    ∃ t, exec (.ermPop req w) s = .next t ∧ t.reply = { resp := .okay, data := [] } ∧ t.regs = (s.relabel req).regs ∧
      t.erm = { s.erm with queue := if Fld.ERM_POP_POP.get w = 1 then s.erm.queue.tail else s.erm.queue }) ∧
  (∀ (s : State) (k : Fin 256) (req : Req) (w : Word), s.Grants req .write (Reg.ERM_SRC k) →
    ∃ t, exec (.ermDone k req w) s = .next t ∧ t.reply = { resp := .okay, data := [] } ∧ t.regs = (s.relabel req).regs ∧
      t.erm.queue = s.erm.queue ∧ t.erm.isolated = s.erm.isolated ∧
      (Fld.ERM_SRC_DONE.get w = 1 → t.erm.count k = none ∧ bitAt (t.ermSrc k).toNat 0 = false) ∧
      (Fld.ERM_SRC_DONE.get w = 0 → t.erm = s.erm) ∧ ∀ j, j ≠ k.val → t.erm.count j = s.erm.count j) ∧
  ∀ (s : State) (req : Req) (w : Word), s.Grants req .write safe → ∀ i ∈ [Instr.faultClr req w, Instr.safeLevelWrite req w],
    ∃ t, exec i s = .next t ∧ OnlyRegs s t ∧ t.reply = { resp := .okay, data := [] } ∧
      t.fld safe Fld.ERM_SAFE_LEVEL = Fld.ERM_SAFE_LEVEL.get w ∧ t.fld safe Fld.ERM_SAFE_ESC_LEVEL = Fld.ERM_SAFE_ESC_LEVEL.get w ∧
      t.fld safe Fld.ERM_SAFE_FALLBACK = s.fld safe Fld.ERM_SAFE_FALLBACK ∧
      t.fld safe Fld.ERM_SAFE_FAULT = (if Fld.ERM_SAFE_FAULT_CLR.get w = 1 then 0 else s.fld safe Fld.ERM_SAFE_FAULT) ∧
      ∀ a, a ≠ safe → t.reg a = (s.relabel req).reg a

/-- R453 to R462: test windows, segments and the test interval. -/
def Obligations.SelfTests : Prop :=
  let fetched (s : State) (e : ReleaseEvent) : State := { s with bus := s.bus.erase e }
  let opens (e : ReleaseEvent) : Prop := bitAt e.arg0 8 = true
  (∀ s : State, (s.bus.find? (fun e => Nat.beq e.action 4) = none → exec .testWindowEvent s = .next s) ∧
    ∀ e, s.bus.find? (fun e => Nat.beq e.action 4) = some e → let w := e.arg0 % 16
      let s1 := fetched s e
      let len := s.fld (Reg.TCX_TW w) Fld.TCX_TW_LEN_US
      let x1 : TestWindow := { scope := e.arg1 % 65536, endAt := s.tb.elapsed + len * usE, deferred := [] }
      (opens e → let o := if len = 0 ∨ s.window w ≠ none then s1 else
          (s1.setWindow w (some x1)).setFld (Reg.TCX_TW w) Fld.TCX_TW_OPEN 1
        (s.millerRuns = false → exec .testWindowEvent s = .next o) ∧
        (s.millerRuns = true → exec .testWindowEvent s = .next (o.goldenOpen w).settle)) ∧
      (¬ opens e → (s.window w = none → exec .testWindowEvent s = .next s1) ∧
        ∀ x, s.window w = some x → ∃ t, exec .testWindowEvent s = .next t ∧ t.window w = none ∧
          t.fld (Reg.TCX_TW w) Fld.TCX_TW_OPEN = 0 ∧ (∀ k : Fin 16, k.val ≠ w → t.window k = s.window k) ∧ t.tests = s.tests ∧
          if x.endAt ≤ s.tb.elapsed then t.errs = s.errs else t.fld (Reg.TCX_TW w) Fld.TCX_TW_EARLY = 1 ∧
            t.errs = s.errs ++ ((List.range 64).filter fun te => bitAt x.scope (te / 4) && (s.test te).running).map fun te =>
              { unit := .te (Fin.ofNat 64 te), sub := 0, sev := sevCE, code := 0x04,
                path := pathOf (.te (Fin.ofNat 64 te)), info := 0 })) ∧
  (∀ (o : State) (w : Fin 16) (g : Fin 4), let d := o.fld (Reg.TCX_GOLD_STAT g) Fld.TCX_GOLD_STAT_DEFER + 1
    let ndef := o.fld (Reg.TCX_GOLD_CFG g) Fld.TCX_GOLD_CFG_NDEF
    (∀ k : Fin 4, (o.fld (Reg.TCX_GOLD_CFG k) Fld.TCX_GOLD_CFG_EN = 1 ∧ o.fld (Reg.TCX_GOLD_CFG k) Fld.TCX_GOLD_CFG_WIN = w) ↔ k = g) →
    o.goldenRuns g = none → if (if ndef = 0 then 1 else ndef) ≤ d then
      (o.goldenOpen w).fld (Reg.TCX_GOLD_STAT g) Fld.TCX_GOLD_STAT_DEFER = 0 ∧ (o.goldenOpen w).errs = o.errs ++
        [{ plainRecord .miller sevTimeout with sub := g.val, code := 0x02 }]
    else (o.goldenOpen w).fld (Reg.TCX_GOLD_STAT g) Fld.TCX_GOLD_STAT_DEFER = d ∧ (o.goldenOpen w).errs = o.errs) ∧
  (∀ (s : State) (w : Fin 16), (s.window w = none → exec (.testWindowExpiry w) s = .next s) ∧
    ∀ x, s.window w = some x → exec (.testWindowExpiry w) s = .next (if x.endAt ≤ s.tb.elapsed then
      (s.setWindow w none).setFld (Reg.TCX_TW w) Fld.TCX_TW_OPEN 0 else s)) ∧
  (∀ (s : State) (pu : Fin 16), let mine (te : Nat) : Prop := te / 4 = pu.val
    let may := s.domainOn (17 + pu) = true ∧ s.procRuns (1 + pu / 2) = true ∧ s.wanted pu = false ∧
      (∀ te : Fin 64, mine te → s.engineIdle te = true ∨ (s.tenState te = 4 ∧ (s.test te).running = false)) ∧
      ∃ (w : Fin 16) (x : TestWindow), s.window w = some x ∧ bitAt x.scope pu = true ∧ pu.val ∉ x.deferred ∧
        ∀ te : Fin 64, mine te → s.tb.elapsed + (if (s.test te).next < 64 then 50 else 5) * usE ≤ x.endAt
    ∃ t, exec (.testSegmentStart pu) s = .next t ∧ t.errs = s.errs ∧ t.mem = s.mem ∧
      if may then t.windows = s.windows ∧ ∀ te : Fin 64, if mine te then t.tenState te = 4 ∧ t.test te = { s.test te with running := true }
        else t.tenState te = s.tenState te ∧ t.test te = s.test te
      else t.regs = s.regs ∧ t.tests = s.tests ∧ ∀ w : Fin 16, t.window w = match s.window w with
        | some x => if bitAt x.scope pu = true ∧ pu.val ∉ x.deferred then some { x with deferred := x.deferred ++ [pu.val] } else some x
        | none => none) ∧
  (∀ (s : State) (te : Fin 64) (pass : Bool), let x := s.test te
    (x.running = false → exec (.testSegmentEnd te pass) s = .next s) ∧
    (x.running = true → ∃ u : State, exec (.testSegmentEnd te pass) s = .next u.settle ∧ u.mem = s.mem ∧
      (∀ k : Fin 64, k ≠ te → u.test k = s.test k ∧ u.tenState k = s.tenState k) ∧
      (x.next < 64 → ∀ j : Fin 4, (u.eng te).arrays[j] = ArrayPipe.reset) ∧
      if pass = true then u.errs = s.errs ∧ u.test te = (if x.next < 95 then { x with next := x.next + 1, running := false }
          else { next := 0, from_ := s.tb.elapsed, running := false, fault := false }) ∧
        u.tenState te = if x.fault = true ∧ x.next < 95 then 4 else 0
      else u.test te = { next := 0, from_ := s.tb.elapsed, running := false, fault := false } ∧ u.tenState te = 5 ∧
        u.errs = s.errs ++ [{ plainRecord (.te te) sevUE with path := pathOf (.te te) }])) ∧
  ∀ (s : State) (te : Fin 64), let ms := s.fld Reg.TCX_DTI Fld.TCX_DTI_DTI_MS
    let x := s.test te
    exec (.dtiExpiry te) s = .next (if ms ≠ 0 ∧ s.tenState te ≠ 5 ∧ s.procRuns (1 + te / 8) = true ∧ x.from_ + ms * 1000 * usE ≤ s.tb.elapsed then
      (s.setTest te { x with from_ := x.from_ + ms * 1000 * usE }).report
        { plainRecord (.te te) sevTimeout with code := 0x01, path := pathOf (.te te) } else s)

/-- R481 to R487: the firmware watchdogs and the log. -/
def Obligations.WatchdogsAndLog : Prop :=
  (∀ (s : State) (p : Fin 12), let x := s.wdt p
    let recent := s.tb.elapsed :: x.expiries.filter fun t => !(s.passedUs t 1000000)
    let expired (early : Bool) : State := ((if p = 11 then id else fun u : State => u.report (plainRecord (procUnit p) sevTimeout))
      ((s.log { proc := 0x11, trace := false, level := 2, ctx := 0xFF, code := 0x0010, jobNo := 0, tag := 0, args := [p.val, early.toNat] }).count
        (Reg.FWL_WDT p) Fld.FWL_WDT_EXPIRIES 1)).setWdt p { x with kickAt := some s.tb.elapsed, expiries := recent }
    let expires (i : Instr) (early : Bool) : Prop := exec i s = .next (if 3 ≤ recent.length ∧ p ≠ 11 then
      ((expired early).procReset p).hold p else (expired early).procReset p).settle
    (x.kickAt = none → exec (.fwWatchdogKick p) s = .next s ∧ exec (.fwWatchdogExpiry p) s = .next s) ∧
    ∀ at_, x.kickAt = some at_ →
      (if s.passedUs at_ x.openUs = true then exec (.fwWatchdogKick p) s = .next (s.setWdt p { x with kickAt := some s.tb.elapsed })
        else expires (.fwWatchdogKick p) true) ∧
      (if s.passedUs at_ x.maxUs = true then expires (.fwWatchdogExpiry p) false else exec (.fwWatchdogExpiry p) s = .next s)) ∧
  (∀ (s : State) (p : Fin 12), s.procReset 11 = s.heathFatal ∧ (s.hold p).fld (Reg.FWL_WDT p) Fld.FWL_WDT_HELD = 1 ∧
    ((s.hold p).wdt p).kickAt = none ∧ plainRecord (procUnit p) sevUE ∈ (s.hold p).errs ∧
    (s.hold 0).fld Reg.TCX_FW_STATUS Fld.TCX_FW_STATUS_STATE = 0 ∧
    ((∀ k : Fin 64, (s.eng k).job = none) → ∀ k : Fin 64, (s.procReset (1 + k / 8)).tenState k =
      if s.tenState k = 3 ∧ (s.eng k).faultEnd = .test then 4 else if 4 ≤ s.tenState k then s.tenState k else 0)) ∧
  (∀ (s : State) (proc : Byte) (trace : Bool) (level : Fin 3) (ctx : Byte) (code : BitVec 16) (jobNo tag : Word) (args : Vector Word 10),
    let i := Instr.fwlRecord proc trace level ctx code jobNo tag args
    let cfg := Reg.FWL_LOG_CFG
    let on := code.toNat < 226 ∧ bitAt (s.reg (Reg.FWL_TRACE (code.toNat / 32))).toNat (code.toNat % 32) = true
    let dropped := s.fld cfg Fld.FWL_LOG_CFG_EN = 0 ∨ (trace = false ∧ level.val < s.fld cfg Fld.FWL_LOG_CFG_MINLVL) ∨
      (proc = 11#8 ∧ s.fld cfg Fld.FWL_LOG_CFG_HEATH_EN = 0)
    let tail := s.fld Reg.FWL_LOG_TAIL Fld.FWL_LOG_TAIL_TAIL
    let next := (tail + 1) % 2 ^ s.fld cfg Fld.FWL_LOG_CFG_LOG2
    let s1 : State := { s with fwlSeq := s.fwlSeq + 1 }
    let bytes := leBytes 4 s.short ++ leBytes 4 (s.fwlSeq % 2 ^ 32) ++ [proc] ++ leBytes 1 trace.toNat ++ leBytes 1 level ++ [ctx] ++
      leBytes 2 code.toNat ++ leBytes 2 0 ++ leBytes 4 jobNo.toNat ++ leBytes 4 tag.toNat ++
      (args.toList.map fun v => leBytes 4 v.toNat).flatten
    (trace = true → ¬ on → exec i s = .next s) ∧
    (trace = false ∨ on → (dropped → exec i s = .next s1) ∧
      (¬ dropped → ∃ t, exec i s = .next t ∧ t.fwlSeq = s.fwlSeq + 1 ∧
        if next = s.fld Reg.FWL_LOG_HEAD Fld.FWL_LOG_HEAD_HEAD then t.mem = s.mem ∧ t.fld Reg.FWL_LOG_TAIL Fld.FWL_LOG_TAIL_TAIL = tail ∧
          (t.reg Reg.FWL_LOG_LOST).toNat = min ((s.reg Reg.FWL_LOG_LOST).toNat + 1) 0xFFFFFFFF
        else t.fld Reg.FWL_LOG_TAIL Fld.FWL_LOG_TAIL_TAIL = next % 32768 ∧ t.mem =
          (s1.put (s.unitReq .firmwareLog (s.ctx 0).classDef 0) (s.fld Reg.FWL_LOG_BASE_HI Fld.FWL_LOG_BASE_HI_ADDR_HI * 2 ^ 32 +
            s.fld Reg.FWL_LOG_BASE_LO Fld.FWL_LOG_BASE_LO_ADDR_LO * 64 + tail * 64) bytes).2.mem))) ∧
  ∀ (s : State) (req : Req) (w : Word), let a := Reg.FWL_LOG_CFG
    s.Grants req .write a → ∃ t, exec (.fwlEnable req w) s = .next t ∧ OnlyRegs s t ∧ t.reply = { resp := .okay, data := [] } ∧
      t.fld a Fld.FWL_LOG_CFG_HEATH_EN = (if s.worldOf req.ini = true then Fld.FWL_LOG_CFG_HEATH_EN.get w else s.fld a Fld.FWL_LOG_CFG_HEATH_EN) ∧
      if fromAc req = true then t.fld a Fld.FWL_LOG_CFG_EN = Fld.FWL_LOG_CFG_EN.get w ∧
        t.fld a Fld.FWL_LOG_CFG_MINLVL = Fld.FWL_LOG_CFG_MINLVL.get w ∧
        t.fld a Fld.FWL_LOG_CFG_LOG2 = (if s.fld a Fld.FWL_LOG_CFG_EN = 0 ∧ 6 ≤ Fld.FWL_LOG_CFG_LOG2.get w then Fld.FWL_LOG_CFG_LOG2.get w
          else s.fld a Fld.FWL_LOG_CFG_LOG2) ∧
        (Fld.FWL_LOG_CFG_EN.get w = 1 → t.reg Reg.FWL_LOG_HEAD = 0#32 ∧ t.reg Reg.FWL_LOG_TAIL = 0#32)
      else t.fld a Fld.FWL_LOG_CFG_EN = s.fld a Fld.FWL_LOG_CFG_EN ∧ t.fld a Fld.FWL_LOG_CFG_MINLVL = s.fld a Fld.FWL_LOG_CFG_MINLVL ∧
        t.fld a Fld.FWL_LOG_CFG_LOG2 = s.fld a Fld.FWL_LOG_CFG_LOG2

/-- R489, R495 to R503: Surge, the arithmetic clock, temperature and power. -/
def Obligations.ThermalAndSurge : Prop :=
  let surge := Reg.THM_SURGE
  let st := Reg.THM_STATUS
  let allow := Fld.THM_WEAR_A_ALLOW_MS
  let held (s t : State) : Prop := t.therm.phase = s.therm.phase ∧ t.therm.lastExit = s.therm.lastExit ∧ t.therm.setpoint = s.therm.setpoint
  let leaves (s t : State) : Prop := match s.therm.phase with
    | .blowing => t.therm.phase = .idle
    | .avsUp => t.therm.phase = .avsDown ∧ t.therm.setpoint = 750 ∧ t.therm.lastExit = some s.tb.elapsed
    | .steppingUp => t.therm.lastExit = some s.tb.elapsed ∧
      if s.therm.mhz ≤ 1500 then t.therm.phase = .avsDown ∧ t.therm.setpoint = 750 else t.therm.phase = .steppingDown
    | .surge => t.therm.phase = .steppingDown ∧ t.therm.lastExit = some s.tb.elapsed
    | _ => held s t
  let rises (s t : State) : Prop := t.therm.phase = .avsUp ∧ t.therm.setpoint = 850 ∧ t.therm.sends = s.therm.sends + 1 ∧
    t.fld surge Fld.THM_SURGE_AVS_HI = 1
  (∀ s : State, let f := s.therm.mhz
    let target (s : State) := if s.fld surge Fld.THM_SURGE_CLAMP = 1 then 750
      else if s.therm.phase = .steppingUp ∨ s.therm.phase = .surge then 1800 else 1500
    let g := if f < target s then f + 150 else f - 150
    (f = target s → exec .clockStep s = .next s) ∧
    (f ≠ target s → ∃ t, exec .clockStep s = .next t ∧ t.therm.mhz = g ∧ t.mem = s.mem ∧ t.errs = s.errs ∧
      t.fld surge Fld.THM_SURGE_CLK = (if g ≠ target t then 3 else if g = 1800 then 1 else if g = 750 then 2 else 0) ∧
      t.therm.stepAt = some s.tb.elapsed ∧
      (s.therm.phase = .steppingDown → f = 1800 → s.therm.blow = false → t.fld Reg.THM_WEAR_A allow =
        s.fld Reg.THM_WEAR_A allow - (s.tb.elapsed - s.therm.chargedAt + (1000 * usE - 1)) / (1000 * usE)) ∧
      if s.therm.phase = .steppingUp ∧ g = 1800 then t.therm.phase = .surge ∧ t.therm.chargedAt = s.tb.elapsed
      else if s.therm.phase = .steppingDown ∧ g ≤ 1500 then t.therm.phase = .avsDown ∧ t.therm.setpoint = 750 ∧
        t.therm.sends = s.therm.sends + 1
      else held s t)) ∧
  (∀ (s : State) (req : Req) (w : Word), s.Grants req .write surge →
    ∀ i ∈ [Instr.surgeRequest req w, Instr.surgeDisWrite req w], ∃ t, exec i s = .next t ∧ t.reply = { resp := .okay, data := [] } ∧
      t.mem = s.mem ∧ t.therm.refused = false ∧ t.fld surge Fld.THM_SURGE_REQ = Fld.THM_SURGE_REQ.get w ∧
      t.fld surge Fld.THM_SURGE_DIS = (if s.fld surge Fld.THM_SURGE_DIS_LOCK = 1 then s.fld surge Fld.THM_SURGE_DIS
        else Fld.THM_SURGE_DIS.get w) ∧
      t.fld surge Fld.THM_SURGE_DIS_LOCK = max (s.fld surge Fld.THM_SURGE_DIS_LOCK) (Fld.THM_SURGE_DIS_LOCK.get w) ∧
      if t.fld surge Fld.THM_SURGE_REQ = s.fld surge Fld.THM_SURGE_REQ ∧ t.fld surge Fld.THM_SURGE_DIS = s.fld surge Fld.THM_SURGE_DIS then
        held s t else leaves s t) ∧
  (∀ s : State, let a := s.fld Reg.THM_WEAR_A allow
    let sum := s.therm.powers.foldl (· + ·) 0
    let may := s.fld surge Fld.THM_SURGE_REQ = 1 ∧ s.fld surge Fld.THM_SURGE_DIS = 0 ∧ tempOf (s.fld Reg.THM_TJ Fld.THM_TJ_TJ) < 110 * 8 ∧
      (∀ n : Fin 24, s.fld (Reg.THM_TS n) Fld.THM_TS_ERR = 0) ∧ (s.therm.powers = [] ∨ sum < 2300 * s.therm.powers.length) ∧
      s.fld surge Fld.THM_SURGE_CLAMP = 0 ∧ s.fld surge Fld.THM_SURGE_AVS_HI = 0 ∧ s.therm.phase = .idle ∧ s.therm.blow = false ∧
      s.therm.refused = false ∧ (s.fuses.wear < 2000 ∨ a ≠ 0) ∧ ∀ e, s.therm.lastExit = some e → e + 10000 * usE ≤ s.tb.elapsed
    (¬ may → exec .surgeGrant s = .next s) ∧
    (may → a = 0 → exec .surgeGrant s = .next { s with therm := { s.therm with phase := .blowing, blow := true } }) ∧
    (may → a ≠ 0 → ∃ t, exec .surgeGrant s = .next t ∧ rises s t ∧ t.mem = s.mem ∧ t.errs = s.errs)) ∧
  (∀ s : State, (s.therm.blow = false → exec .wearFuseBlowDone s = .next s) ∧
    (s.therm.blow = true → ∃ t, exec .wearFuseBlowDone s = .next t ∧ t.therm.blow = false ∧
      t.fuses = { s.fuses with wear := min 2000 (s.fuses.wear + 1) } ∧ t.fld Reg.THM_WEAR_H Fld.THM_WEAR_H_HOURS = min 2000 (s.fuses.wear + 1) ∧
      t.fld Reg.THM_WEAR_A allow = 3600000 - s.therm.owed ∧ if s.therm.phase = .blowing then rises s t else held s t)) ∧
  (∀ s : State,
    (s.therm.phase = .avsUp → (∃ t, exec .avsAck s = .next t ∧ t.therm = { s.therm with phase := .steppingUp }) ∧
      ∃ t, exec .avsTimeout s = .next t ∧ t.therm.phase = .avsDown ∧ t.therm.setpoint = 750 ∧ t.therm.refused = true ∧
        t.fld st Fld.THM_STATUS_AVS_ERR = 1 ∧ t.errs = s.errs) ∧
    (s.therm.phase = .avsDown → (∃ t, exec .avsAck s = .next t ∧ t.therm = { s.therm with phase := .idle, resend := false } ∧
        t.fld surge Fld.THM_SURGE_AVS_HI = 0) ∧
      if s.therm.resend = true then exec .avsTimeout s = .next s else ∃ t, exec .avsTimeout s = .next t ∧
        t.therm = { s.therm with resend := true, refused := true } ∧ t.fld st Fld.THM_STATUS_AVS_ERR = 1 ∧
        t.errs = s.errs ++ [plainRecord .therm sevTimeout]) ∧
    (s.therm.phase ≠ .avsUp → s.therm.phase ≠ .avsDown → exec .avsAck s = .next s ∧ exec .avsTimeout s = .next s) ∧
    exec .avsSetpointResend s = .next (if s.therm.resend = true then
      { s with therm := { s.therm with setpoint := 750, sends := s.therm.sends + 1 } } else s)) ∧
  (∀ s : State, let a := s.fld Reg.THM_WEAR_A allow
    let spent := s.therm.phase = .surge ∧ s.therm.blow = false ∧ a ≤ (s.tb.elapsed - s.therm.chargedAt) / (1000 * usE)
    (¬ spent → exec .allowMsExpiry s = .next s) ∧
    (spent → ∃ t, exec .allowMsExpiry s = .next t ∧ t.fld Reg.THM_WEAR_A allow = 0 ∧
      if s.fuses.wear < 2000 then t.therm.phase = .surge ∧ t.therm.blow = true ∧ t.fuses = s.fuses
      else t.therm.phase = .steppingDown ∧ t.fld st Fld.THM_STATUS_WEAR_OUT = 1)) ∧
  (∀ (s : State) (temps : Vector (BitVec 12) 24) (errs : BitVec 24), let bad (n : Fin 24) : Bool := bitAt errs.toNat n
    ∃ t, exec (.thermalSample temps errs) s = .next t ∧ t.mem = s.mem ∧
      (∀ n : Fin 24, t.fld (Reg.THM_TS n) Fld.THM_TS_T = temps[n].toNat ∧ t.fld (Reg.THM_TS n) Fld.THM_TS_ERR = (bad n).toNat) ∧
      ((∃ n : Fin 24, bad n = true ∧ s.fld (Reg.THM_TS n) Fld.THM_TS_ERR = 0) → t.fld st Fld.THM_STATUS_SENS_ERR = 1 ∧
        plainRecord .therm sevCE ∈ t.errs) ∧
      ((∀ n, bad n = true) → t.reg Reg.THM_TJ = s.reg Reg.THM_TJ ∧ t.therm = s.therm) ∧
      ∀ h : Fin 24, bad h = false → (∀ n, bad n = false → temps[n].toInt ≤ temps[h].toInt ∧ (n < h → temps[n].toInt < temps[h].toInt)) →
        let tj := temps[h].toInt
        let clamped := s.fld surge Fld.THM_SURGE_CLAMP = 1
        let hot := tempOf (s.fld Reg.THM_TWARN Fld.THM_TWARN_TWARN) ≤ tj
        t.fld Reg.THM_TJ Fld.THM_TJ_HOT = h ∧ t.fld Reg.THM_TJ Fld.THM_TJ_TJ = temps[h].toNat ∧
        (t.fld surge Fld.THM_SURGE_CLAMP = if clamped then (if tj < 120 * 8 then 0 else 1) else if 125 * 8 ≤ tj then 1 else 0) ∧
        (¬ clamped → 125 * 8 ≤ tj → t.fld st Fld.THM_STATUS_CLAMPED = 1 ∧ plainRecord .therm sevCE ∈ t.errs) ∧
        t.therm.warned = decide hot ∧ (hot → s.therm.warned = false → t.fld st Fld.THM_STATUS_WARN = 1) ∧
        if 115 * 8 ≤ tj ∧ s.surging = true then t.fld st Fld.THM_STATUS_EXIT_T = 1 ∧ leaves s t else held s t) ∧
  ∀ (s : State) (p : BitVec 16), let ps := (p.toNat :: s.therm.powers).take 1000
    let sum := ps.foldl (· + ·) 0
    ∃ t, exec (.powerEstimate p) s = .next t ∧ t.mem = s.mem ∧ t.therm.powers = ps ∧
      t.fld Reg.THM_PWR Fld.THM_PWR_PINST = p.toNat ∧
      (sum ≤ 65535 * ps.length → sum / ps.length ≤ t.fld Reg.THM_PWR Fld.THM_PWR_P10 ∧
        t.fld Reg.THM_PWR Fld.THM_PWR_P10 * ps.length < sum + ps.length) ∧
      if 2300 * ps.length ≤ sum ∧ s.surging = true then t.fld st Fld.THM_STATUS_EXIT_P = 1 ∧ leaves s t else held s t
end

