-- ==== Sys2Proof/Laws/SMap.lean ====
section
/-!
SUPPORT. Sparse maps: what a write leaves at its key and at the others, and that every operation keeps the canonical form.
-/

namespace Sys2Proof.Machine

variable {α : Type}

/-! ## Reads after writes -/

@[simp] theorem SMap.find_insert_same (m : List (Nat × α)) (k : Nat) (v : α) : SMap.find (SMap.insert m k v) k = some v := by
  induction m with
  | nil => simp [SMap.insert, SMap.find]
  | cons e r ih =>
    obtain ⟨a, b⟩ := e
    simp only [SMap.insert]
    split
    · simp [SMap.find]
    · split
      · simp [SMap.find]
      · rename_i h; simp [SMap.find, ih, h]

theorem SMap.find_insert_other {m : List (Nat × α)} {k j : Nat} {v : α} (h : j ≠ k) :
    SMap.find (SMap.insert m k v) j = SMap.find m j := by
  induction m with
  | nil => simp [SMap.insert, SMap.find, Ne.symm h]
  | cons e r ih =>
    obtain ⟨a, b⟩ := e
    simp only [SMap.insert]
    split
    · simp [SMap.find, Ne.symm h]
    · split
      · rename_i h2; simp only [beq_iff_eq] at h2; subst h2; simp [SMap.find, Ne.symm h]
      · simp [SMap.find, ih]

@[simp] theorem SMap.find_erase_same (m : List (Nat × α)) (k : Nat) : SMap.find (SMap.erase m k) k = none := by
  induction m with
  | nil => simp [SMap.erase, SMap.find]
  | cons e r ih =>
    obtain ⟨a, b⟩ := e
    by_cases h : a = k
    · subst h; simpa [SMap.erase, SMap.find] using ih
    · have : SMap.erase ((a, b) :: r) k = (a, b) :: SMap.erase r k := by simp [SMap.erase, h]
      rw [this]; simp [SMap.find, h, ih]

theorem SMap.find_filter {m : List (Nat × α)} {p : Nat → Bool} {j : Nat} (h : p j = true) :
    SMap.find (m.filter fun e => p e.1) j = SMap.find m j := by
  induction m with
  | nil => rfl
  | cons e r ih =>
    obtain ⟨a, b⟩ := e
    by_cases ha : p a = true
    · simp [ha, SMap.find, ih]
    · have : a ≠ j := by rintro rfl; exact ha h
      simp [ha, SMap.find, ih, this]

theorem SMap.find_erase_other {m : List (Nat × α)} {k j : Nat} (h : j ≠ k) :
    SMap.find (SMap.erase m k) j = SMap.find m j :=
  SMap.find_filter (p := fun a => !(a == k)) (by simp [h])

@[simp] theorem SMap.get_set_same [DecidableEq α] (d : Nat → α) (m : List (Nat × α)) (k : Nat) (v : α) :
    SMap.get d (SMap.set d m k v) k = v := by
  unfold SMap.get SMap.set
  split
  · rename_i h; simp [h]
  · simp

theorem SMap.get_set_other [DecidableEq α] {d : Nat → α} {m : List (Nat × α)} {k j : Nat} {v : α} (h : j ≠ k) :
    SMap.get d (SMap.set d m k v) j = SMap.get d m j := by
  unfold SMap.get SMap.set
  split
  · rw [SMap.find_erase_other h]
  · rw [SMap.find_insert_other h]

/-- What a key reads as after a write of several values. -/
theorem SMap.get_setMany_other [DecidableEq α] {d : Nat → α} {vs : List α} :
    ∀ {m : List (Nat × α)} {k j : Nat}, (j < k ∨ k + vs.length ≤ j) →
      SMap.get d (SMap.setMany d m k vs) j = SMap.get d m j := by
  induction vs with
  | nil => intros; rfl
  | cons v r ih =>
    intro m k j h
    simp only [List.length_cons] at h
    rw [SMap.setMany, ih (by omega), SMap.get_set_other (by omega)]

theorem SMap.get_setMany_same [DecidableEq α] {d : Nat → α} {vs : List α} :
    ∀ {m : List (Nat × α)} {k i : Nat} (h : i < vs.length), SMap.get d (SMap.setMany d m k vs) (k + i) = vs[i] := by
  induction vs with
  | nil => intro m k i h; simp at h
  | cons v r ih =>
    intro m k i h
    cases i with
    | zero => rw [SMap.setMany, SMap.get_setMany_other (by omega)]; simp
    | succ i =>
      have e : k + (i + 1) = k + 1 + i := by omega
      rw [SMap.setMany, e, ih (by simpa using h)]; simp

@[simp] theorem SMap.getMany_length (d : Nat → α) (m : List (Nat × α)) (k n : Nat) : (SMap.getMany d m k n).length = n := by
  induction n generalizing k with
  | zero => rfl
  | succ n ih => simp [SMap.getMany, ih]

theorem SMap.getMany_get {d : Nat → α} {m : List (Nat × α)} {k n i : Nat} (h : i < n) :
    (SMap.getMany d m k n)[i]'(by simpa using h) = SMap.get d m (k + i) := by
  induction n generalizing k i with
  | zero => omega
  | succ n ih =>
    cases i with
    | zero => simp [SMap.getMany]
    | succ i =>
      have e : k + (i + 1) = k + 1 + i := by omega
      simp only [SMap.getMany, List.getElem_cons_succ, e]
      exact ih (by omega)

theorem SMap.find_filter_none {m : List (Nat × α)} {p : Nat → Bool} {j : Nat} (h : p j = false) :
    SMap.find (m.filter fun e => p e.1) j = none := by
  induction m with
  | nil => rfl
  | cons e r ih =>
    obtain ⟨a, b⟩ := e
    by_cases ha : p a = true
    · have : a ≠ j := by rintro rfl; rw [h] at ha; exact absurd ha (by decide)
      simp [ha, SMap.find, ih, this]
    · simp [ha, ih]

theorem SMap.get_clear [DecidableEq α] {d : Nat → α} {m : List (Nat × α)} {lo hi j : Nat} :
    SMap.get d (SMap.clear m lo hi) j = if lo ≤ j ∧ j < hi then d j else SMap.get d m j := by
  unfold SMap.get SMap.clear
  by_cases h : lo ≤ j ∧ j < hi
  · rw [if_pos h, SMap.find_filter_none (p := fun a => !(Nat.ble lo a && Nat.blt a hi))]
    · rfl
    · rw [Nat.ble_eq_true_of_le h.1, show Nat.blt j hi = true by rw [Nat.blt_eq]; exact h.2]; rfl
  · rw [if_neg h, SMap.find_filter (p := fun a => !(Nat.ble lo a && Nat.blt a hi))]
    rw [Bool.not_eq_true', Bool.and_eq_false_iff, ← Bool.not_eq_true, ← Bool.not_eq_true, Nat.ble_eq, Nat.blt_eq]
    omega

/-! ## The canonical form -/

/-- The keys of a canonical map rise, as a statement about the list of keys. -/
theorem SMap.sorted_iff (m : List (Nat × α)) : SMap.sorted m = true ↔ m.Pairwise (fun x y => x.1 < y.1) := by
  induction m with
  | nil => simp [SMap.sorted]
  | cons e r ih =>
    cases r with
    | nil => simp [SMap.sorted]
    | cons f r =>
      obtain ⟨a, x⟩ := e
      obtain ⟨b, c⟩ := f
      simp only [SMap.sorted, Bool.and_eq_true, ih, Nat.blt_eq]
      constructor
      · rintro ⟨h1, h2⟩
        refine List.pairwise_cons.2 ⟨?_, h2⟩
        intro y hy
        rcases List.mem_cons.1 hy with rfl | hy
        · exact h1
        · exact Nat.lt_trans h1 ((List.pairwise_cons.1 h2).1 y hy)
      · intro h
        exact ⟨(List.pairwise_cons.1 h).1 (b, c) (List.mem_cons_self ..), (List.pairwise_cons.1 h).2⟩

theorem SMap.wf_iff [DecidableEq α] (d : Nat → α) (m : List (Nat × α)) :
    SMap.wf d m = true ↔ m.Pairwise (fun x y => x.1 < y.1) ∧ ∀ e ∈ m, e.2 ≠ d e.1 := by
  simp [SMap.wf, SMap.sorted_iff]

@[simp] theorem SMap.wf_nil [DecidableEq α] (d : Nat → α) : SMap.wf d [] = true := rfl

/-- Leaving entries out keeps the canonical form. -/
theorem SMap.wf_filter [DecidableEq α] {d : Nat → α} {m : List (Nat × α)} {p : Nat × α → Bool} (h : SMap.wf d m = true) :
    SMap.wf d (m.filter p) = true := by
  rw [SMap.wf_iff] at h ⊢
  exact ⟨h.1.sublist List.filter_sublist, fun e he => h.2 e (List.mem_filter.1 he).1⟩

theorem SMap.wf_erase [DecidableEq α] {d : Nat → α} {m : List (Nat × α)} {k : Nat} (h : SMap.wf d m = true) :
    SMap.wf d (SMap.erase m k) = true := SMap.wf_filter h

theorem SMap.wf_clear [DecidableEq α] {d : Nat → α} {m : List (Nat × α)} {lo hi : Nat} (h : SMap.wf d m = true) :
    SMap.wf d (SMap.clear m lo hi) = true := SMap.wf_filter h

theorem SMap.mem_insert {m : List (Nat × α)} {k : Nat} {v : α} {e : Nat × α} (h : e ∈ SMap.insert m k v) :
    e = (k, v) ∨ e ∈ m := by
  induction m with
  | nil => simpa [SMap.insert] using h
  | cons f r ih =>
    obtain ⟨a, b⟩ := f
    simp only [SMap.insert] at h
    split at h
    · rcases List.mem_cons.1 h with h | h
      · exact .inl h
      · exact .inr h
    · split at h
      · rcases List.mem_cons.1 h with h | h
        · exact .inl h
        · exact .inr (List.mem_cons_of_mem _ h)
      · rcases List.mem_cons.1 h with h | h
        · exact .inr (h ▸ List.mem_cons_self ..)
        · rcases ih h with h | h
          · exact .inl h
          · exact .inr (List.mem_cons_of_mem _ h)

theorem SMap.sorted_insert {m : List (Nat × α)} {k : Nat} {v : α} (h : m.Pairwise fun x y => x.1 < y.1) :
    (SMap.insert m k v).Pairwise fun x y => x.1 < y.1 := by
  induction m with
  | nil => simp [SMap.insert]
  | cons f r ih =>
    obtain ⟨a, b⟩ := f
    have h1 := List.pairwise_cons.1 h
    simp only [SMap.insert]
    split
    · rename_i hk
      rw [Nat.blt_eq] at hk
      refine List.pairwise_cons.2 ⟨?_, h⟩
      intro y hy
      rcases List.mem_cons.1 hy with rfl | hy
      · exact hk
      · exact Nat.lt_trans hk (h1.1 y hy)
    · split
      · rename_i hk
        simp only [beq_iff_eq] at hk
        subst hk
        exact List.pairwise_cons.2 ⟨h1.1, h1.2⟩
      · rename_i hk1 hk2
        simp only [beq_iff_eq] at hk2
        rw [Nat.blt_eq] at hk1
        refine List.pairwise_cons.2 ⟨?_, ih h1.2⟩
        intro y hy
        rcases SMap.mem_insert hy with rfl | hy
        · show a < k; omega
        · exact h1.1 y hy

theorem SMap.wf_set [DecidableEq α] {d : Nat → α} {m : List (Nat × α)} {k : Nat} {v : α} (h : SMap.wf d m = true) :
    SMap.wf d (SMap.set d m k v) = true := by
  unfold SMap.set
  split
  · exact SMap.wf_erase h
  · rename_i hv
    rw [SMap.wf_iff] at h ⊢
    refine ⟨SMap.sorted_insert h.1, fun e he => ?_⟩
    rcases SMap.mem_insert he with rfl | he
    · exact hv
    · exact h.2 e he

theorem SMap.wf_setMany [DecidableEq α] {d : Nat → α} {vs : List α} :
    ∀ {m : List (Nat × α)} {k : Nat}, SMap.wf d m = true → SMap.wf d (SMap.setMany d m k vs) = true := by
  induction vs with
  | nil => intro m k h; exact h
  | cons v r ih => intro m k h; exact ih (SMap.wf_set h)

/-- Writes one after another, whatever they are, keep the canonical form. -/
theorem SMap.wf_foldl [DecidableEq α] {β : Type} {d : Nat → α} {key : β → Nat} {val : β → α} (xs : List β) :
    ∀ {m : List (Nat × α)}, SMap.wf d m = true → SMap.wf d (xs.foldl (fun m x => SMap.set d m (key x) (val x)) m) = true := by
  induction xs with
  | nil => intro m h; exact h
  | cons x r ih => intro m h; exact ih (SMap.wf_set h)

/-- Two canonical maps that read alike everywhere are the same data. -/
theorem SMap.wf_ext [DecidableEq α] {d : Nat → α} {m n : List (Nat × α)} (hm : SMap.wf d m = true) (hn : SMap.wf d n = true)
    (h : ∀ k, SMap.get d m k = SMap.get d n k) : m = n := by
  rw [SMap.wf_iff] at hm hn
  have find_mem : ∀ (l : List (Nat × α)), l.Pairwise (fun x y => x.1 < y.1) → ∀ e, e ∈ l ↔ SMap.find l e.1 = some e.2 := by
    intro l
    induction l with
    | nil => intro _ e; simp [SMap.find]
    | cons f r ih =>
      intro hl e
      obtain ⟨a, b⟩ := f
      obtain ⟨k, v⟩ := e
      have hl' := List.pairwise_cons.1 hl
      by_cases hk : a = k
      · subst hk
        simp only [List.mem_cons, SMap.find, beq_self_eq_true, if_true, Option.some.injEq, Prod.mk.injEq, true_and]
        constructor
        · rintro (h | h)
          · exact h.symm
          · exact absurd (hl'.1 _ h) (Nat.lt_irrefl _)
        · intro h; exact .inl h.symm
      · simp only [List.mem_cons, SMap.find, Prod.mk.injEq, beq_iff_eq, hk, if_false]
        rw [← ih hl'.2 (k, v)]
        constructor
        · rintro (h | h)
          · exact absurd h.1.symm hk
          · exact h
        · exact .inr
  have same : ∀ e, e ∈ m ↔ e ∈ n := by
    intro e
    have key : ∀ (m n : List (Nat × α)), (m.Pairwise (fun x y => x.1 < y.1) ∧ ∀ e ∈ m, e.2 ≠ d e.1) →
        (n.Pairwise (fun x y => x.1 < y.1) ∧ ∀ e ∈ n, e.2 ≠ d e.1) → (∀ k, SMap.get d m k = SMap.get d n k) →
        e ∈ m → e ∈ n := by
      intro m n hm hn h he
      have h1 := (find_mem m hm.1 e).1 he
      have h2 := h e.1
      simp only [SMap.get, h1, Option.getD_some] at h2
      cases hf : SMap.find n e.1 with
      | none => rw [hf] at h2; exact absurd h2 (hm.2 e he)
      | some x => rw [hf] at h2; rw [find_mem n hn.1 e, hf]; simpa using h2.symm
    exact ⟨key m n hm hn h, key n m hn hm fun k => (h k).symm⟩
  have irr : ∀ (x y : Nat × α), x.1 < y.1 → y.1 < x.1 → False := fun _ _ h1 h2 => Nat.lt_asymm h1 h2
  have nd : ∀ (l : List (Nat × α)), l.Pairwise (fun x y => x.1 < y.1) → l.Nodup := fun l hl =>
    hl.imp fun {x y} hxy => by rintro rfl; exact Nat.lt_irrefl _ hxy
  exact ((List.perm_ext_iff_of_nodup (nd m hm.1) (nd n hn.1)).2 same).eq_of_pairwise
    (fun x y _ _ h1 h2 => (irr x y h1 h2).elim) hm.1 hn.1

end Sys2Proof.Machine
end

