-- ==== Sys2Proof/Laws/Flags.lean ====
section
/-!
SUPPORT. Fields of a word and registers of the state: what a write leaves in the field and register written and in the others.
-/

namespace Sys2Proof.Machine

/-! ## Fields of a word -/

/-- A field lies in a word. -/
def Fld.ok (f : Fld) : Prop := f.lo ≤ f.hi ∧ f.hi < 32

/-- Two fields share no bit. -/
def Fld.apart (f g : Fld) : Prop := f.hi < g.lo ∨ g.hi < f.lo

theorem Fld.get_lt (f : Fld) (w : Word) : f.get w < 2 ^ (f.hi + 1 - f.lo) :=
  Nat.mod_lt _ (Nat.two_pow_pos _)

/-- A word is what lies above a field, the field and what lies below it. -/
theorem Fld.split (f : Fld) (h : f.ok) (w : Word) :
    w.toNat = w.toNat / 2 ^ (f.hi + 1) * 2 ^ (f.hi + 1) + f.get w * 2 ^ f.lo + w.toNat % 2 ^ f.lo := by
  obtain ⟨h1, h2⟩ := h
  have e : 2 ^ (f.hi + 1) = 2 ^ f.lo * 2 ^ (f.hi + 1 - f.lo) := by rw [← Nat.pow_add]; congr 1; omega
  have a := Nat.div_add_mod w.toNat (2 ^ f.lo)
  have b := Nat.div_add_mod (w.toNat / 2 ^ f.lo) (2 ^ (f.hi + 1 - f.lo))
  rw [Nat.div_div_eq_div_mul, ← e] at b
  unfold Fld.get bitsOf
  calc w.toNat = 2 ^ f.lo * (w.toNat / 2 ^ f.lo) + w.toNat % 2 ^ f.lo := a.symm
    _ = 2 ^ f.lo * (2 ^ (f.hi + 1 - f.lo) * (w.toNat / 2 ^ (f.hi + 1)) + w.toNat / 2 ^ f.lo % 2 ^ (f.hi + 1 - f.lo)) +
        w.toNat % 2 ^ f.lo := by rw [b]
    _ = _ := by rw [Nat.mul_add, ← Nat.mul_assoc, ← e]; ring

/-- What a field write leaves: the parts above and below the field, and the value in it. -/
theorem Fld.put_toNat (f : Fld) (h : f.ok) (w : Word) (v : Nat) :
    (f.put w v).toNat = w.toNat / 2 ^ (f.hi + 1) * 2 ^ (f.hi + 1) + v % 2 ^ (f.hi + 1 - f.lo) * 2 ^ f.lo + w.toNat % 2 ^ f.lo := by
  have e : 2 ^ (f.hi + 1) = 2 ^ (f.hi + 1 - f.lo) * 2 ^ f.lo := by
    rw [← Nat.pow_add]; congr 1; have := h.1; omega
  have s := f.split h w
  have hv : v % 2 ^ (f.hi + 1 - f.lo) < 2 ^ (f.hi + 1 - f.lo) := Nat.mod_lt _ (Nat.two_pow_pos _)
  have hl : w.toNat % 2 ^ f.lo < 2 ^ f.lo := Nat.mod_lt _ (Nat.two_pow_pos _)
  have bound : v % 2 ^ (f.hi + 1 - f.lo) * 2 ^ f.lo + w.toNat % 2 ^ f.lo < 2 ^ (f.hi + 1) := by
    rw [e]
    calc _ < v % 2 ^ (f.hi + 1 - f.lo) * 2 ^ f.lo + 2 ^ f.lo := by omega
      _ = (v % 2 ^ (f.hi + 1 - f.lo) + 1) * 2 ^ f.lo := by ring
      _ ≤ _ := Nat.mul_le_mul_right _ hv
  have top : w.toNat / 2 ^ (f.hi + 1) * 2 ^ (f.hi + 1) + 2 ^ (f.hi + 1) ≤ 2 ^ 32 := by
    have h3 : 2 ^ 32 = 2 ^ (32 - (f.hi + 1)) * 2 ^ (f.hi + 1) := by
      rw [← Nat.pow_add]; congr 1; have := h.2; omega
    have h4 : w.toNat / 2 ^ (f.hi + 1) < 2 ^ (32 - (f.hi + 1)) := by
      rw [Nat.div_lt_iff_lt_mul (Nat.two_pow_pos _), ← h3]; exact w.isLt
    rw [h3]
    calc _ = (w.toNat / 2 ^ (f.hi + 1) + 1) * 2 ^ (f.hi + 1) := by ring
      _ ≤ _ := Nat.mul_le_mul_right _ h4
  unfold Fld.put
  rw [BitVec.toNat_ofNat, Nat.mod_eq_of_lt (by omega)]
  omega

/-- The field written holds the value, cut to its width. -/
theorem Fld.get_put_same (f : Fld) (h : f.ok) (w : Word) (v : Nat) : f.get (f.put w v) = v % 2 ^ (f.hi + 1 - f.lo) := by
  have e : 2 ^ (f.hi + 1) = 2 ^ (f.hi + 1 - f.lo) * 2 ^ f.lo := by
    rw [← Nat.pow_add]; congr 1; have := h.1; omega
  have hl : w.toNat % 2 ^ f.lo < 2 ^ f.lo := Nat.mod_lt _ (Nat.two_pow_pos _)
  show (f.put w v).toNat / 2 ^ f.lo % 2 ^ (f.hi + 1 - f.lo) = _
  rw [f.put_toNat h, e]
  rw [show w.toNat / (2 ^ (f.hi + 1 - f.lo) * 2 ^ f.lo) * (2 ^ (f.hi + 1 - f.lo) * 2 ^ f.lo) + v % 2 ^ (f.hi + 1 - f.lo) * 2 ^ f.lo +
      w.toNat % 2 ^ f.lo = w.toNat % 2 ^ f.lo + 2 ^ f.lo * (v % 2 ^ (f.hi + 1 - f.lo) +
        2 ^ (f.hi + 1 - f.lo) * (w.toNat / (2 ^ (f.hi + 1 - f.lo) * 2 ^ f.lo))) by ring]
  rw [Nat.add_mul_div_left _ _ (Nat.two_pow_pos _), Nat.div_eq_of_lt hl, Nat.zero_add, Nat.add_mul_mod_self_left, Nat.mod_mod]

/-- A field that shares no bit with the one written keeps its value. -/
theorem Fld.get_put_apart (f g : Fld) (hf : f.ok) (hg : g.ok) (h : f.apart g) (w : Word) (v : Nat) :
    g.get (f.put w v) = g.get w := by
  have bits : ∀ i, (i < f.lo ∨ f.hi < i) → (f.put w v).toNat.testBit i = w.toNat.testBit i := by
    intro i hi
    rw [f.put_toNat hf]
    have hl : w.toNat % 2 ^ f.lo < 2 ^ f.lo := Nat.mod_lt _ (Nat.two_pow_pos _)
    have e : 2 ^ (f.hi + 1) = 2 ^ f.lo * 2 ^ (f.hi + 1 - f.lo) := by
      rw [← Nat.pow_add]; congr 1; have := hf.1; omega
    rcases hi with hi | hi
    · rw [show w.toNat / 2 ^ (f.hi + 1) * 2 ^ (f.hi + 1) + v % 2 ^ (f.hi + 1 - f.lo) * 2 ^ f.lo + w.toNat % 2 ^ f.lo =
        2 ^ f.lo * (w.toNat / 2 ^ (f.hi + 1) * 2 ^ (f.hi + 1 - f.lo) + v % 2 ^ (f.hi + 1 - f.lo)) + w.toNat % 2 ^ f.lo by
          rw [e]; ring]
      rw [Nat.testBit_two_pow_mul_add _ hl]
      simp [hi, Nat.testBit_mod_two_pow]
    · have hv : v % 2 ^ (f.hi + 1 - f.lo) < 2 ^ (f.hi + 1 - f.lo) := Nat.mod_lt _ (Nat.two_pow_pos _)
      have small : v % 2 ^ (f.hi + 1 - f.lo) * 2 ^ f.lo + w.toNat % 2 ^ f.lo < 2 ^ (f.hi + 1) := by
        rw [e]
        calc _ < v % 2 ^ (f.hi + 1 - f.lo) * 2 ^ f.lo + 2 ^ f.lo := by omega
          _ = 2 ^ f.lo * (v % 2 ^ (f.hi + 1 - f.lo) + 1) := by ring
          _ ≤ _ := Nat.mul_le_mul_left _ hv
      rw [show w.toNat / 2 ^ (f.hi + 1) * 2 ^ (f.hi + 1) + v % 2 ^ (f.hi + 1 - f.lo) * 2 ^ f.lo + w.toNat % 2 ^ f.lo =
        2 ^ (f.hi + 1) * (w.toNat / 2 ^ (f.hi + 1)) + (v % 2 ^ (f.hi + 1 - f.lo) * 2 ^ f.lo + w.toNat % 2 ^ f.lo) by ring]
      rw [Nat.testBit_two_pow_mul_add _ small]
      have : ¬ i < f.hi + 1 := by omega
      simp only [this, if_false, Nat.testBit_div_two_pow]
      congr 1
      omega
  show (f.put w v).toNat / 2 ^ g.lo % 2 ^ (g.hi + 1 - g.lo) = w.toNat / 2 ^ g.lo % 2 ^ (g.hi + 1 - g.lo)
  apply Nat.eq_of_testBit_eq
  intro i
  rw [Nat.testBit_mod_two_pow, Nat.testBit_mod_two_pow, Nat.testBit_div_two_pow, Nat.testBit_div_two_pow]
  by_cases hi : i < g.hi + 1 - g.lo
  · rw [bits]
    have := hg.1
    rcases h with h | h
    · right; omega
    · left; omega
  · simp [hi]

/-! ## Registers -/

@[simp] theorem State.reg_setReg_same (s : State) (a : Nat) (w : Word) : (s.setReg a w).reg a = w := SMap.get_set_same ..

theorem State.reg_setReg_other {s : State} {a b : Nat} {w : Word} (h : b ≠ a) : (s.setReg a w).reg b = s.reg b :=
  SMap.get_set_other h

/-- A field of another register is as before. -/
theorem State.fld_setReg_other {s : State} {a b : Nat} {w : Word} {f : Fld} (h : b ≠ a) : (s.setReg a w).fld b f = s.fld b f := by
  simp [State.fld, State.reg_setReg_other h]

@[simp] theorem State.reg_setFld_same (s : State) (a : Nat) (f : Fld) (v : Nat) : (s.setFld a f v).reg a = f.put (s.reg a) v :=
  State.reg_setReg_same ..

theorem State.reg_setFld_other {s : State} {a b : Nat} {f : Fld} {v : Nat} (h : b ≠ a) : (s.setFld a f v).reg b = s.reg b :=
  State.reg_setReg_other h

/-- The field written holds the value, cut to its width. -/
theorem State.fld_setFld_same {s : State} {a : Nat} {f : Fld} {v : Nat} (h : f.ok) :
    (s.setFld a f v).fld a f = v % 2 ^ (f.hi + 1 - f.lo) := by
  simp [State.fld, Fld.get_put_same f h]

/-- A field apart from the one written is as before. -/
theorem State.fld_setFld_apart {s : State} {a : Nat} {f g : Fld} {v : Nat} (hf : f.ok) (hg : g.ok) (h : f.apart g) :
    (s.setFld a f v).fld a g = s.fld a g := by
  simp [State.fld, Fld.get_put_apart f g hf hg h]

theorem State.fld_setFld_other {s : State} {a b : Nat} {f g : Fld} {v : Nat} (h : b ≠ a) :
    (s.setFld a f v).fld b g = s.fld b g := State.fld_setReg_other h

/-- A configuration error changes registers and the list of blocks that recorded one without a bit for it. -/
theorem State.cfgErr_regs (s : State) (a : Nat) :
    s.cfgErr a = { s with regs := (s.cfgErr a).regs, cfgMarks := (s.cfgErr a).cfgMarks } := by
  unfold State.cfgErr
  split
  · rfl
  · split <;> rfl

end Sys2Proof.Machine
end

