-- ==== Sys2Proof/Laws/State.lean ====
section
/-!
SUPPORT. What each update of the state leaves in each of its fields, so that no later proof unfolds a record update.  The
proofs are written (rfl) so that simp cites the lemmas and the kernel does not compare whole states.
-/

namespace Sys2Proof.Machine

/-! ## The part that an update replaces -/

@[simp] theorem State.eng_setEng_same (s : State) (n : Nat) (x : Engine) : (s.setEng n x).eng n = x := by
  simp [State.eng, State.setEng]

theorem State.eng_setEng_other {s : State} {n m : Nat} {x : Engine} (h : m % 64 ≠ n % 64) :
    (s.setEng n x).eng m = s.eng m := by
  simp only [State.eng, State.setEng, Fin.getElem_fin]
  exact Vector.getElem_set_ne _ _ (Ne.symm h)

@[simp] theorem State.ctx_setCtx_same (s : State) (n : Nat) (x : Ctx) : (s.setCtx n x).ctx n = x := by
  simp [State.ctx, State.setCtx]

theorem State.ctx_setCtx_other {s : State} {n m : Nat} {x : Ctx} (h : m % 32 ≠ n % 32) :
    (s.setCtx n x).ctx m = s.ctx m := by
  simp only [State.ctx, State.setCtx, Fin.getElem_fin]
  exact Vector.getElem_set_ne _ _ (Ne.symm h)

@[simp] theorem State.part_setPart_same (s : State) (n : Nat) (x : Option Partition) : (s.setPart n x).part n = x := by
  simp [State.part, State.setPart]

theorem State.part_setPart_other {s : State} {n m : Nat} {x : Option Partition} (h : m % 16 ≠ n % 16) :
    (s.setPart n x).part m = s.part m := by
  simp only [State.part, State.setPart, Fin.getElem_fin]
  exact Vector.getElem_set_ne _ _ (Ne.symm h)

@[simp] theorem State.stream_setStream_same (s : State) (n : Nat) (x : Stream) : (s.setStream n x).stream n = x := by
  simp [State.stream, State.setStream]

theorem State.stream_setStream_other {s : State} {n m : Nat} {x : Stream} (h : m % 20 ≠ n % 20) :
    (s.setStream n x).stream m = s.stream m := by
  simp only [State.stream, State.setStream, Fin.getElem_fin]
  exact Vector.getElem_set_ne _ _ (Ne.symm h)

@[simp] theorem State.ssp_setSsp_same (s : State) (n : Nat) (x : SspPort) : (s.setSsp n x).ssp n = x := by
  simp [State.ssp, State.setSsp]

theorem State.ssp_setSsp_other {s : State} {n m : Nat} {x : SspPort} (h : m % 4 ≠ n % 4) :
    (s.setSsp n x).ssp m = s.ssp m := by
  simp only [State.ssp, State.setSsp, Fin.getElem_fin]
  exact Vector.getElem_set_ne _ _ (Ne.symm h)

@[simp] theorem State.dmc_setDmc_same (s : State) (n : Nat) (x : Dmc) : (s.setDmc n x).dmc n = x := by
  simp [State.dmc, State.setDmc]

theorem State.dmc_setDmc_other {s : State} {n m : Nat} {x : Dmc} (h : m % 8 ≠ n % 8) :
    (s.setDmc n x).dmc m = s.dmc m := by
  simp only [State.dmc, State.setDmc, Fin.getElem_fin]
  exact Vector.getElem_set_ne _ _ (Ne.symm h)

@[simp] theorem State.gfxQueue_setGfxQueue_same (s : State) (n : Nat) (x : GfxQueue) : (s.setGfxQueue n x).gfxQueue n = x := by
  simp [State.gfxQueue, State.setGfxQueue]

theorem State.gfxQueue_setGfxQueue_other {s : State} {n m : Nat} {x : GfxQueue} (h : m % 8 ≠ n % 8) :
    (s.setGfxQueue n x).gfxQueue m = s.gfxQueue m := by
  simp only [State.gfxQueue, State.setGfxQueue, Fin.getElem_fin]
  exact Vector.getElem_set_ne _ _ (Ne.symm h)

@[simp] theorem State.head_setHead_same (s : State) (n : Nat) (x : Head) : (s.setHead n x).head n = x := by
  simp [State.head, State.setHead]

theorem State.head_setHead_other {s : State} {n m : Nat} {x : Head} (h : m % 4 ≠ n % 4) :
    (s.setHead n x).head m = s.head m := by
  simp only [State.head, State.setHead, Fin.getElem_fin]
  exact Vector.getElem_set_ne _ _ (Ne.symm h)

@[simp] theorem State.hart_setHart_same (s : State) (n : Nat) (x : Hart) : (s.setHart n x).hart n = x := by
  simp [State.hart, State.setHart]

theorem State.hart_setHart_other {s : State} {n m : Nat} {x : Hart} (h : m % 16 ≠ n % 16) :
    (s.setHart n x).hart m = s.hart m := by
  simp only [State.hart, State.setHart, Fin.getElem_fin]
  exact Vector.getElem_set_ne _ _ (Ne.symm h)

@[simp] theorem State.weir_setWeir_same (s : State) (n : Nat) (x : Weir) : (s.setWeir n x).weir n = x := by
  simp [State.weir, State.setWeir]

theorem State.weir_setWeir_other {s : State} {n m : Nat} {x : Weir} (h : m % 2 ≠ n % 2) :
    (s.setWeir n x).weir m = s.weir m := by
  simp only [State.weir, State.setWeir, Fin.getElem_fin]
  exact Vector.getElem_set_ne _ _ (Ne.symm h)

@[simp] theorem State.window_setWindow_same (s : State) (n : Nat) (x : Option TestWindow) : (s.setWindow n x).window n = x := by
  simp [State.window, State.setWindow]

theorem State.window_setWindow_other {s : State} {n m : Nat} {x : Option TestWindow} (h : m % 16 ≠ n % 16) :
    (s.setWindow n x).window m = s.window m := by
  simp only [State.window, State.setWindow, Fin.getElem_fin]
  exact Vector.getElem_set_ne _ _ (Ne.symm h)

@[simp] theorem State.test_setTest_same (s : State) (n : Nat) (x : TestCycle) : (s.setTest n x).test n = x := by
  simp [State.test, State.setTest]

theorem State.test_setTest_other {s : State} {n m : Nat} {x : TestCycle} (h : m % 64 ≠ n % 64) :
    (s.setTest n x).test m = s.test m := by
  simp only [State.test, State.setTest, Fin.getElem_fin]
  exact Vector.getElem_set_ne _ _ (Ne.symm h)

@[simp] theorem State.wdt_setWdt_same (s : State) (n : Nat) (x : FwWatchdog) : (s.setWdt n x).wdt n = x := by
  simp [State.wdt, State.setWdt]

theorem State.wdt_setWdt_other {s : State} {n m : Nat} {x : FwWatchdog} (h : m % 12 ≠ n % 12) :
    (s.setWdt n x).wdt m = s.wdt m := by
  simp only [State.wdt, State.setWdt, Fin.getElem_fin]
  exact Vector.getElem_set_ne _ _ (Ne.symm h)

/-! ## What an update leaves alone -/

@[simp] theorem State.setReg_pending (s : State) (a : Nat) (w : Word) : (s.setReg a w).pending = s.pending := (rfl)
@[simp] theorem State.setReg_reply (s : State) (a : Nat) (w : Word) : (s.setReg a w).reply = s.reply := (rfl)
@[simp] theorem State.setReg_mem (s : State) (a : Nat) (w : Word) : (s.setReg a w).mem = s.mem := (rfl)
@[simp] theorem State.setReg_flash (s : State) (a : Nat) (w : Word) : (s.setReg a w).flash = s.flash := (rfl)
@[simp] theorem State.setReg_ddrDamage (s : State) (a : Nat) (w : Word) : (s.setReg a w).ddrDamage = s.ddrDamage := (rfl)
@[simp] theorem State.setReg_sramDamage (s : State) (a : Nat) (w : Word) : (s.setReg a w).sramDamage = s.sramDamage := (rfl)
@[simp] theorem State.setReg_sramSent (s : State) (a : Nat) (w : Word) : (s.setReg a w).sramSent = s.sramSent := (rfl)
@[simp] theorem State.setReg_dgkBuilt (s : State) (a : Nat) (w : Word) : (s.setReg a w).dgkBuilt = s.dgkBuilt := (rfl)
@[simp] theorem State.setReg_iotlb (s : State) (a : Nat) (w : Word) : (s.setReg a w).iotlb = s.iotlb := (rfl)
@[simp] theorem State.setReg_engines (s : State) (a : Nat) (w : Word) : (s.setReg a w).engines = s.engines := (rfl)
@[simp] theorem State.setReg_sems (s : State) (a : Nat) (w : Word) : (s.setReg a w).sems = s.sems := (rfl)
@[simp] theorem State.setReg_ctxs (s : State) (a : Nat) (w : Word) : (s.setReg a w).ctxs = s.ctxs := (rfl)
@[simp] theorem State.setReg_parts (s : State) (a : Nat) (w : Word) : (s.setReg a w).parts = s.parts := (rfl)
@[simp] theorem State.setReg_models (s : State) (a : Nat) (w : Word) : (s.setReg a w).models = s.models := (rfl)
@[simp] theorem State.setReg_jobs (s : State) (a : Nat) (w : Word) : (s.setReg a w).jobs = s.jobs := (rfl)
@[simp] theorem State.setReg_jobNext (s : State) (a : Nat) (w : Word) : (s.setReg a w).jobNext = s.jobNext := (rfl)
@[simp] theorem State.setReg_laneLast (s : State) (a : Nat) (w : Word) : (s.setReg a w).laneLast = s.laneLast := (rfl)
@[simp] theorem State.setReg_turn (s : State) (a : Nat) (w : Word) : (s.setReg a w).turn = s.turn := (rfl)
@[simp] theorem State.setReg_events (s : State) (a : Nat) (w : Word) : (s.setReg a w).events = s.events := (rfl)
@[simp] theorem State.setReg_bus (s : State) (a : Nat) (w : Word) : (s.setReg a w).bus = s.bus := (rfl)
@[simp] theorem State.setReg_tb (s : State) (a : Nat) (w : Word) : (s.setReg a w).tb = s.tb := (rfl)
@[simp] theorem State.setReg_tt (s : State) (a : Nat) (w : Word) : (s.setReg a w).tt = s.tt := (rfl)
@[simp] theorem State.setReg_streams (s : State) (a : Nat) (w : Word) : (s.setReg a w).streams = s.streams := (rfl)
@[simp] theorem State.setReg_tiles (s : State) (a : Nat) (w : Word) : (s.setReg a w).tiles = s.tiles := (rfl)
@[simp] theorem State.setReg_csiFill (s : State) (a : Nat) (w : Word) : (s.setReg a w).csiFill = s.csiFill := (rfl)
@[simp] theorem State.setReg_ssps (s : State) (a : Nat) (w : Word) : (s.setReg a w).ssps = s.ssps := (rfl)
@[simp] theorem State.setReg_fusion (s : State) (a : Nat) (w : Word) : (s.setReg a w).fusion = s.fusion := (rfl)
@[simp] theorem State.setReg_dmcs (s : State) (a : Nat) (w : Word) : (s.setReg a w).dmcs = s.dmcs := (rfl)
@[simp] theorem State.setReg_slc (s : State) (a : Nat) (w : Word) : (s.setReg a w).slc = s.slc := (rfl)
@[simp] theorem State.setReg_slcUses (s : State) (a : Nat) (w : Word) : (s.setReg a w).slcUses = s.slcUses := (rfl)
@[simp] theorem State.setReg_caches (s : State) (a : Nat) (w : Word) : (s.setReg a w).caches = s.caches := (rfl)
@[simp] theorem State.setReg_links (s : State) (a : Nat) (w : Word) : (s.setReg a w).links = s.links := (rfl)
@[simp] theorem State.setReg_linkLost (s : State) (a : Nat) (w : Word) : (s.setReg a w).linkLost = s.linkLost := (rfl)
@[simp] theorem State.setReg_holdWays (s : State) (a : Nat) (w : Word) : (s.setReg a w).holdWays = s.holdWays := (rfl)
@[simp] theorem State.setReg_wheelPos (s : State) (a : Nat) (w : Word) : (s.setReg a w).wheelPos = s.wheelPos := (rfl)
@[simp] theorem State.setReg_wheelRun (s : State) (a : Nat) (w : Word) : (s.setReg a w).wheelRun = s.wheelRun := (rfl)
@[simp] theorem State.setReg_wheelLive (s : State) (a : Nat) (w : Word) : (s.setReg a w).wheelLive = s.wheelLive := (rfl)
@[simp] theorem State.setReg_wheelOut (s : State) (a : Nat) (w : Word) : (s.setReg a w).wheelOut = s.wheelOut := (rfl)
@[simp] theorem State.setReg_channels (s : State) (a : Nat) (w : Word) : (s.setReg a w).channels = s.channels := (rfl)
@[simp] theorem State.setReg_ddrQueue (s : State) (a : Nat) (w : Word) : (s.setReg a w).ddrQueue = s.ddrQueue := (rfl)
@[simp] theorem State.setReg_guardLive (s : State) (a : Nat) (w : Word) : (s.setReg a w).guardLive = s.guardLive := (rfl)
@[simp] theorem State.setReg_guardWait (s : State) (a : Nat) (w : Word) : (s.setReg a w).guardWait = s.guardWait := (rfl)
@[simp] theorem State.setReg_guardSent (s : State) (a : Nat) (w : Word) : (s.setReg a w).guardSent = s.guardSent := (rfl)
@[simp] theorem State.setReg_gq (s : State) (a : Nat) (w : Word) : (s.setReg a w).gq = s.gq := (rfl)
@[simp] theorem State.setReg_gfxRun (s : State) (a : Nat) (w : Word) : (s.setReg a w).gfxRun = s.gfxRun := (rfl)
@[simp] theorem State.setReg_heads (s : State) (a : Nat) (w : Word) : (s.setReg a w).heads = s.heads := (rfl)
@[simp] theorem State.setReg_harts (s : State) (a : Nat) (w : Word) : (s.setReg a w).harts = s.harts := (rfl)
@[simp] theorem State.setReg_heath (s : State) (a : Nat) (w : Word) : (s.setReg a w).heath = s.heath := (rfl)
@[simp] theorem State.setReg_msis (s : State) (a : Nat) (w : Word) : (s.setReg a w).msis = s.msis := (rfl)
@[simp] theorem State.setReg_irqs (s : State) (a : Nat) (w : Word) : (s.setReg a w).irqs = s.irqs := (rfl)
@[simp] theorem State.setReg_irqEn (s : State) (a : Nat) (w : Word) : (s.setReg a w).irqEn = s.irqEn := (rfl)
@[simp] theorem State.setReg_msiDropAt (s : State) (a : Nat) (w : Word) : (s.setReg a w).msiDropAt = s.msiDropAt := (rfl)
@[simp] theorem State.setReg_weirs (s : State) (a : Nat) (w : Word) : (s.setReg a w).weirs = s.weirs := (rfl)
@[simp] theorem State.setReg_semOps (s : State) (a : Nat) (w : Word) : (s.setReg a w).semOps = s.semOps := (rfl)
@[simp] theorem State.setReg_gw (s : State) (a : Nat) (w : Word) : (s.setReg a w).gw = s.gw := (rfl)
@[simp] theorem State.setReg_erm (s : State) (a : Nat) (w : Word) : (s.setReg a w).erm = s.erm := (rfl)
@[simp] theorem State.setReg_errs (s : State) (a : Nat) (w : Word) : (s.setReg a w).errs = s.errs := (rfl)
@[simp] theorem State.setReg_windows (s : State) (a : Nat) (w : Word) : (s.setReg a w).windows = s.windows := (rfl)
@[simp] theorem State.setReg_tests (s : State) (a : Nat) (w : Word) : (s.setReg a w).tests = s.tests := (rfl)
@[simp] theorem State.setReg_fuses (s : State) (a : Nat) (w : Word) : (s.setReg a w).fuses = s.fuses := (rfl)
@[simp] theorem State.setReg_rom (s : State) (a : Nat) (w : Word) : (s.setReg a w).rom = s.rom := (rfl)
@[simp] theorem State.setReg_wdts (s : State) (a : Nat) (w : Word) : (s.setReg a w).wdts = s.wdts := (rfl)
@[simp] theorem State.setReg_cfgMarks (s : State) (a : Nat) (w : Word) : (s.setReg a w).cfgMarks = s.cfgMarks := (rfl)
@[simp] theorem State.setReg_fwlSeq (s : State) (a : Nat) (w : Word) : (s.setReg a w).fwlSeq = s.fwlSeq := (rfl)
@[simp] theorem State.setReg_therm (s : State) (a : Nat) (w : Word) : (s.setReg a w).therm = s.therm := (rfl)
@[simp] theorem State.setReg_pins (s : State) (a : Nat) (w : Word) : (s.setReg a w).pins = s.pins := (rfl)
@[simp] theorem State.setReg_portLinks (s : State) (a : Nat) (w : Word) : (s.setReg a w).portLinks = s.portLinks := (rfl)
@[simp] theorem State.setReg_ticks (s : State) (a : Nat) (w : Word) : (s.setReg a w).ticks = s.ticks := (rfl)

@[simp] theorem State.setFld_pending (s : State) (a : Nat) (f : Fld) (v : Nat) : (s.setFld a f v).pending = s.pending := (rfl)
@[simp] theorem State.setFld_reply (s : State) (a : Nat) (f : Fld) (v : Nat) : (s.setFld a f v).reply = s.reply := (rfl)
@[simp] theorem State.setFld_mem (s : State) (a : Nat) (f : Fld) (v : Nat) : (s.setFld a f v).mem = s.mem := (rfl)
@[simp] theorem State.setFld_flash (s : State) (a : Nat) (f : Fld) (v : Nat) : (s.setFld a f v).flash = s.flash := (rfl)
@[simp] theorem State.setFld_ddrDamage (s : State) (a : Nat) (f : Fld) (v : Nat) : (s.setFld a f v).ddrDamage = s.ddrDamage := (rfl)
@[simp] theorem State.setFld_sramDamage (s : State) (a : Nat) (f : Fld) (v : Nat) : (s.setFld a f v).sramDamage = s.sramDamage := (rfl)
@[simp] theorem State.setFld_sramSent (s : State) (a : Nat) (f : Fld) (v : Nat) : (s.setFld a f v).sramSent = s.sramSent := (rfl)
@[simp] theorem State.setFld_dgkBuilt (s : State) (a : Nat) (f : Fld) (v : Nat) : (s.setFld a f v).dgkBuilt = s.dgkBuilt := (rfl)
@[simp] theorem State.setFld_iotlb (s : State) (a : Nat) (f : Fld) (v : Nat) : (s.setFld a f v).iotlb = s.iotlb := (rfl)
@[simp] theorem State.setFld_engines (s : State) (a : Nat) (f : Fld) (v : Nat) : (s.setFld a f v).engines = s.engines := (rfl)
@[simp] theorem State.setFld_sems (s : State) (a : Nat) (f : Fld) (v : Nat) : (s.setFld a f v).sems = s.sems := (rfl)
@[simp] theorem State.setFld_ctxs (s : State) (a : Nat) (f : Fld) (v : Nat) : (s.setFld a f v).ctxs = s.ctxs := (rfl)
@[simp] theorem State.setFld_parts (s : State) (a : Nat) (f : Fld) (v : Nat) : (s.setFld a f v).parts = s.parts := (rfl)
@[simp] theorem State.setFld_models (s : State) (a : Nat) (f : Fld) (v : Nat) : (s.setFld a f v).models = s.models := (rfl)
@[simp] theorem State.setFld_jobs (s : State) (a : Nat) (f : Fld) (v : Nat) : (s.setFld a f v).jobs = s.jobs := (rfl)
@[simp] theorem State.setFld_jobNext (s : State) (a : Nat) (f : Fld) (v : Nat) : (s.setFld a f v).jobNext = s.jobNext := (rfl)
@[simp] theorem State.setFld_laneLast (s : State) (a : Nat) (f : Fld) (v : Nat) : (s.setFld a f v).laneLast = s.laneLast := (rfl)
@[simp] theorem State.setFld_turn (s : State) (a : Nat) (f : Fld) (v : Nat) : (s.setFld a f v).turn = s.turn := (rfl)
@[simp] theorem State.setFld_events (s : State) (a : Nat) (f : Fld) (v : Nat) : (s.setFld a f v).events = s.events := (rfl)
@[simp] theorem State.setFld_bus (s : State) (a : Nat) (f : Fld) (v : Nat) : (s.setFld a f v).bus = s.bus := (rfl)
@[simp] theorem State.setFld_tb (s : State) (a : Nat) (f : Fld) (v : Nat) : (s.setFld a f v).tb = s.tb := (rfl)
@[simp] theorem State.setFld_tt (s : State) (a : Nat) (f : Fld) (v : Nat) : (s.setFld a f v).tt = s.tt := (rfl)
@[simp] theorem State.setFld_streams (s : State) (a : Nat) (f : Fld) (v : Nat) : (s.setFld a f v).streams = s.streams := (rfl)
@[simp] theorem State.setFld_tiles (s : State) (a : Nat) (f : Fld) (v : Nat) : (s.setFld a f v).tiles = s.tiles := (rfl)
@[simp] theorem State.setFld_csiFill (s : State) (a : Nat) (f : Fld) (v : Nat) : (s.setFld a f v).csiFill = s.csiFill := (rfl)
@[simp] theorem State.setFld_ssps (s : State) (a : Nat) (f : Fld) (v : Nat) : (s.setFld a f v).ssps = s.ssps := (rfl)
@[simp] theorem State.setFld_fusion (s : State) (a : Nat) (f : Fld) (v : Nat) : (s.setFld a f v).fusion = s.fusion := (rfl)
@[simp] theorem State.setFld_dmcs (s : State) (a : Nat) (f : Fld) (v : Nat) : (s.setFld a f v).dmcs = s.dmcs := (rfl)
@[simp] theorem State.setFld_slc (s : State) (a : Nat) (f : Fld) (v : Nat) : (s.setFld a f v).slc = s.slc := (rfl)
@[simp] theorem State.setFld_slcUses (s : State) (a : Nat) (f : Fld) (v : Nat) : (s.setFld a f v).slcUses = s.slcUses := (rfl)
@[simp] theorem State.setFld_caches (s : State) (a : Nat) (f : Fld) (v : Nat) : (s.setFld a f v).caches = s.caches := (rfl)
@[simp] theorem State.setFld_links (s : State) (a : Nat) (f : Fld) (v : Nat) : (s.setFld a f v).links = s.links := (rfl)
@[simp] theorem State.setFld_linkLost (s : State) (a : Nat) (f : Fld) (v : Nat) : (s.setFld a f v).linkLost = s.linkLost := (rfl)
@[simp] theorem State.setFld_holdWays (s : State) (a : Nat) (f : Fld) (v : Nat) : (s.setFld a f v).holdWays = s.holdWays := (rfl)
@[simp] theorem State.setFld_wheelPos (s : State) (a : Nat) (f : Fld) (v : Nat) : (s.setFld a f v).wheelPos = s.wheelPos := (rfl)
@[simp] theorem State.setFld_wheelRun (s : State) (a : Nat) (f : Fld) (v : Nat) : (s.setFld a f v).wheelRun = s.wheelRun := (rfl)
@[simp] theorem State.setFld_wheelLive (s : State) (a : Nat) (f : Fld) (v : Nat) : (s.setFld a f v).wheelLive = s.wheelLive := (rfl)
@[simp] theorem State.setFld_wheelOut (s : State) (a : Nat) (f : Fld) (v : Nat) : (s.setFld a f v).wheelOut = s.wheelOut := (rfl)
@[simp] theorem State.setFld_channels (s : State) (a : Nat) (f : Fld) (v : Nat) : (s.setFld a f v).channels = s.channels := (rfl)
@[simp] theorem State.setFld_ddrQueue (s : State) (a : Nat) (f : Fld) (v : Nat) : (s.setFld a f v).ddrQueue = s.ddrQueue := (rfl)
@[simp] theorem State.setFld_guardLive (s : State) (a : Nat) (f : Fld) (v : Nat) : (s.setFld a f v).guardLive = s.guardLive := (rfl)
@[simp] theorem State.setFld_guardWait (s : State) (a : Nat) (f : Fld) (v : Nat) : (s.setFld a f v).guardWait = s.guardWait := (rfl)
@[simp] theorem State.setFld_guardSent (s : State) (a : Nat) (f : Fld) (v : Nat) : (s.setFld a f v).guardSent = s.guardSent := (rfl)
@[simp] theorem State.setFld_gq (s : State) (a : Nat) (f : Fld) (v : Nat) : (s.setFld a f v).gq = s.gq := (rfl)
@[simp] theorem State.setFld_gfxRun (s : State) (a : Nat) (f : Fld) (v : Nat) : (s.setFld a f v).gfxRun = s.gfxRun := (rfl)
@[simp] theorem State.setFld_heads (s : State) (a : Nat) (f : Fld) (v : Nat) : (s.setFld a f v).heads = s.heads := (rfl)
@[simp] theorem State.setFld_harts (s : State) (a : Nat) (f : Fld) (v : Nat) : (s.setFld a f v).harts = s.harts := (rfl)
@[simp] theorem State.setFld_heath (s : State) (a : Nat) (f : Fld) (v : Nat) : (s.setFld a f v).heath = s.heath := (rfl)
@[simp] theorem State.setFld_msis (s : State) (a : Nat) (f : Fld) (v : Nat) : (s.setFld a f v).msis = s.msis := (rfl)
@[simp] theorem State.setFld_irqs (s : State) (a : Nat) (f : Fld) (v : Nat) : (s.setFld a f v).irqs = s.irqs := (rfl)
@[simp] theorem State.setFld_irqEn (s : State) (a : Nat) (f : Fld) (v : Nat) : (s.setFld a f v).irqEn = s.irqEn := (rfl)
@[simp] theorem State.setFld_msiDropAt (s : State) (a : Nat) (f : Fld) (v : Nat) : (s.setFld a f v).msiDropAt = s.msiDropAt := (rfl)
@[simp] theorem State.setFld_weirs (s : State) (a : Nat) (f : Fld) (v : Nat) : (s.setFld a f v).weirs = s.weirs := (rfl)
@[simp] theorem State.setFld_semOps (s : State) (a : Nat) (f : Fld) (v : Nat) : (s.setFld a f v).semOps = s.semOps := (rfl)
@[simp] theorem State.setFld_gw (s : State) (a : Nat) (f : Fld) (v : Nat) : (s.setFld a f v).gw = s.gw := (rfl)
@[simp] theorem State.setFld_erm (s : State) (a : Nat) (f : Fld) (v : Nat) : (s.setFld a f v).erm = s.erm := (rfl)
@[simp] theorem State.setFld_errs (s : State) (a : Nat) (f : Fld) (v : Nat) : (s.setFld a f v).errs = s.errs := (rfl)
@[simp] theorem State.setFld_windows (s : State) (a : Nat) (f : Fld) (v : Nat) : (s.setFld a f v).windows = s.windows := (rfl)
@[simp] theorem State.setFld_tests (s : State) (a : Nat) (f : Fld) (v : Nat) : (s.setFld a f v).tests = s.tests := (rfl)
@[simp] theorem State.setFld_fuses (s : State) (a : Nat) (f : Fld) (v : Nat) : (s.setFld a f v).fuses = s.fuses := (rfl)
@[simp] theorem State.setFld_rom (s : State) (a : Nat) (f : Fld) (v : Nat) : (s.setFld a f v).rom = s.rom := (rfl)
@[simp] theorem State.setFld_wdts (s : State) (a : Nat) (f : Fld) (v : Nat) : (s.setFld a f v).wdts = s.wdts := (rfl)
@[simp] theorem State.setFld_cfgMarks (s : State) (a : Nat) (f : Fld) (v : Nat) : (s.setFld a f v).cfgMarks = s.cfgMarks := (rfl)
@[simp] theorem State.setFld_fwlSeq (s : State) (a : Nat) (f : Fld) (v : Nat) : (s.setFld a f v).fwlSeq = s.fwlSeq := (rfl)
@[simp] theorem State.setFld_therm (s : State) (a : Nat) (f : Fld) (v : Nat) : (s.setFld a f v).therm = s.therm := (rfl)
@[simp] theorem State.setFld_pins (s : State) (a : Nat) (f : Fld) (v : Nat) : (s.setFld a f v).pins = s.pins := (rfl)
@[simp] theorem State.setFld_portLinks (s : State) (a : Nat) (f : Fld) (v : Nat) : (s.setFld a f v).portLinks = s.portLinks := (rfl)
@[simp] theorem State.setFld_ticks (s : State) (a : Nat) (f : Fld) (v : Nat) : (s.setFld a f v).ticks = s.ticks := (rfl)

@[simp] theorem State.raise_pending (s : State) (a : Nat) (f : Fld) : (s.raise a f).pending = s.pending := (rfl)
@[simp] theorem State.raise_reply (s : State) (a : Nat) (f : Fld) : (s.raise a f).reply = s.reply := (rfl)
@[simp] theorem State.raise_mem (s : State) (a : Nat) (f : Fld) : (s.raise a f).mem = s.mem := (rfl)
@[simp] theorem State.raise_flash (s : State) (a : Nat) (f : Fld) : (s.raise a f).flash = s.flash := (rfl)
@[simp] theorem State.raise_ddrDamage (s : State) (a : Nat) (f : Fld) : (s.raise a f).ddrDamage = s.ddrDamage := (rfl)
@[simp] theorem State.raise_sramDamage (s : State) (a : Nat) (f : Fld) : (s.raise a f).sramDamage = s.sramDamage := (rfl)
@[simp] theorem State.raise_sramSent (s : State) (a : Nat) (f : Fld) : (s.raise a f).sramSent = s.sramSent := (rfl)
@[simp] theorem State.raise_dgkBuilt (s : State) (a : Nat) (f : Fld) : (s.raise a f).dgkBuilt = s.dgkBuilt := (rfl)
@[simp] theorem State.raise_iotlb (s : State) (a : Nat) (f : Fld) : (s.raise a f).iotlb = s.iotlb := (rfl)
@[simp] theorem State.raise_engines (s : State) (a : Nat) (f : Fld) : (s.raise a f).engines = s.engines := (rfl)
@[simp] theorem State.raise_sems (s : State) (a : Nat) (f : Fld) : (s.raise a f).sems = s.sems := (rfl)
@[simp] theorem State.raise_ctxs (s : State) (a : Nat) (f : Fld) : (s.raise a f).ctxs = s.ctxs := (rfl)
@[simp] theorem State.raise_parts (s : State) (a : Nat) (f : Fld) : (s.raise a f).parts = s.parts := (rfl)
@[simp] theorem State.raise_models (s : State) (a : Nat) (f : Fld) : (s.raise a f).models = s.models := (rfl)
@[simp] theorem State.raise_jobs (s : State) (a : Nat) (f : Fld) : (s.raise a f).jobs = s.jobs := (rfl)
@[simp] theorem State.raise_jobNext (s : State) (a : Nat) (f : Fld) : (s.raise a f).jobNext = s.jobNext := (rfl)
@[simp] theorem State.raise_laneLast (s : State) (a : Nat) (f : Fld) : (s.raise a f).laneLast = s.laneLast := (rfl)
@[simp] theorem State.raise_turn (s : State) (a : Nat) (f : Fld) : (s.raise a f).turn = s.turn := (rfl)
@[simp] theorem State.raise_events (s : State) (a : Nat) (f : Fld) : (s.raise a f).events = s.events := (rfl)
@[simp] theorem State.raise_bus (s : State) (a : Nat) (f : Fld) : (s.raise a f).bus = s.bus := (rfl)
@[simp] theorem State.raise_tb (s : State) (a : Nat) (f : Fld) : (s.raise a f).tb = s.tb := (rfl)
@[simp] theorem State.raise_tt (s : State) (a : Nat) (f : Fld) : (s.raise a f).tt = s.tt := (rfl)
@[simp] theorem State.raise_streams (s : State) (a : Nat) (f : Fld) : (s.raise a f).streams = s.streams := (rfl)
@[simp] theorem State.raise_tiles (s : State) (a : Nat) (f : Fld) : (s.raise a f).tiles = s.tiles := (rfl)
@[simp] theorem State.raise_csiFill (s : State) (a : Nat) (f : Fld) : (s.raise a f).csiFill = s.csiFill := (rfl)
@[simp] theorem State.raise_ssps (s : State) (a : Nat) (f : Fld) : (s.raise a f).ssps = s.ssps := (rfl)
@[simp] theorem State.raise_fusion (s : State) (a : Nat) (f : Fld) : (s.raise a f).fusion = s.fusion := (rfl)
@[simp] theorem State.raise_dmcs (s : State) (a : Nat) (f : Fld) : (s.raise a f).dmcs = s.dmcs := (rfl)
@[simp] theorem State.raise_slc (s : State) (a : Nat) (f : Fld) : (s.raise a f).slc = s.slc := (rfl)
@[simp] theorem State.raise_slcUses (s : State) (a : Nat) (f : Fld) : (s.raise a f).slcUses = s.slcUses := (rfl)
@[simp] theorem State.raise_caches (s : State) (a : Nat) (f : Fld) : (s.raise a f).caches = s.caches := (rfl)
@[simp] theorem State.raise_links (s : State) (a : Nat) (f : Fld) : (s.raise a f).links = s.links := (rfl)
@[simp] theorem State.raise_linkLost (s : State) (a : Nat) (f : Fld) : (s.raise a f).linkLost = s.linkLost := (rfl)
@[simp] theorem State.raise_holdWays (s : State) (a : Nat) (f : Fld) : (s.raise a f).holdWays = s.holdWays := (rfl)
@[simp] theorem State.raise_wheelPos (s : State) (a : Nat) (f : Fld) : (s.raise a f).wheelPos = s.wheelPos := (rfl)
@[simp] theorem State.raise_wheelRun (s : State) (a : Nat) (f : Fld) : (s.raise a f).wheelRun = s.wheelRun := (rfl)
@[simp] theorem State.raise_wheelLive (s : State) (a : Nat) (f : Fld) : (s.raise a f).wheelLive = s.wheelLive := (rfl)
@[simp] theorem State.raise_wheelOut (s : State) (a : Nat) (f : Fld) : (s.raise a f).wheelOut = s.wheelOut := (rfl)
@[simp] theorem State.raise_channels (s : State) (a : Nat) (f : Fld) : (s.raise a f).channels = s.channels := (rfl)
@[simp] theorem State.raise_ddrQueue (s : State) (a : Nat) (f : Fld) : (s.raise a f).ddrQueue = s.ddrQueue := (rfl)
@[simp] theorem State.raise_guardLive (s : State) (a : Nat) (f : Fld) : (s.raise a f).guardLive = s.guardLive := (rfl)
@[simp] theorem State.raise_guardWait (s : State) (a : Nat) (f : Fld) : (s.raise a f).guardWait = s.guardWait := (rfl)
@[simp] theorem State.raise_guardSent (s : State) (a : Nat) (f : Fld) : (s.raise a f).guardSent = s.guardSent := (rfl)
@[simp] theorem State.raise_gq (s : State) (a : Nat) (f : Fld) : (s.raise a f).gq = s.gq := (rfl)
@[simp] theorem State.raise_gfxRun (s : State) (a : Nat) (f : Fld) : (s.raise a f).gfxRun = s.gfxRun := (rfl)
@[simp] theorem State.raise_heads (s : State) (a : Nat) (f : Fld) : (s.raise a f).heads = s.heads := (rfl)
@[simp] theorem State.raise_harts (s : State) (a : Nat) (f : Fld) : (s.raise a f).harts = s.harts := (rfl)
@[simp] theorem State.raise_heath (s : State) (a : Nat) (f : Fld) : (s.raise a f).heath = s.heath := (rfl)
@[simp] theorem State.raise_msis (s : State) (a : Nat) (f : Fld) : (s.raise a f).msis = s.msis := (rfl)
@[simp] theorem State.raise_irqs (s : State) (a : Nat) (f : Fld) : (s.raise a f).irqs = s.irqs := (rfl)
@[simp] theorem State.raise_irqEn (s : State) (a : Nat) (f : Fld) : (s.raise a f).irqEn = s.irqEn := (rfl)
@[simp] theorem State.raise_msiDropAt (s : State) (a : Nat) (f : Fld) : (s.raise a f).msiDropAt = s.msiDropAt := (rfl)
@[simp] theorem State.raise_weirs (s : State) (a : Nat) (f : Fld) : (s.raise a f).weirs = s.weirs := (rfl)
@[simp] theorem State.raise_semOps (s : State) (a : Nat) (f : Fld) : (s.raise a f).semOps = s.semOps := (rfl)
@[simp] theorem State.raise_gw (s : State) (a : Nat) (f : Fld) : (s.raise a f).gw = s.gw := (rfl)
@[simp] theorem State.raise_erm (s : State) (a : Nat) (f : Fld) : (s.raise a f).erm = s.erm := (rfl)
@[simp] theorem State.raise_errs (s : State) (a : Nat) (f : Fld) : (s.raise a f).errs = s.errs := (rfl)
@[simp] theorem State.raise_windows (s : State) (a : Nat) (f : Fld) : (s.raise a f).windows = s.windows := (rfl)
@[simp] theorem State.raise_tests (s : State) (a : Nat) (f : Fld) : (s.raise a f).tests = s.tests := (rfl)
@[simp] theorem State.raise_fuses (s : State) (a : Nat) (f : Fld) : (s.raise a f).fuses = s.fuses := (rfl)
@[simp] theorem State.raise_rom (s : State) (a : Nat) (f : Fld) : (s.raise a f).rom = s.rom := (rfl)
@[simp] theorem State.raise_wdts (s : State) (a : Nat) (f : Fld) : (s.raise a f).wdts = s.wdts := (rfl)
@[simp] theorem State.raise_cfgMarks (s : State) (a : Nat) (f : Fld) : (s.raise a f).cfgMarks = s.cfgMarks := (rfl)
@[simp] theorem State.raise_fwlSeq (s : State) (a : Nat) (f : Fld) : (s.raise a f).fwlSeq = s.fwlSeq := (rfl)
@[simp] theorem State.raise_therm (s : State) (a : Nat) (f : Fld) : (s.raise a f).therm = s.therm := (rfl)
@[simp] theorem State.raise_pins (s : State) (a : Nat) (f : Fld) : (s.raise a f).pins = s.pins := (rfl)
@[simp] theorem State.raise_portLinks (s : State) (a : Nat) (f : Fld) : (s.raise a f).portLinks = s.portLinks := (rfl)
@[simp] theorem State.raise_ticks (s : State) (a : Nat) (f : Fld) : (s.raise a f).ticks = s.ticks := (rfl)

@[simp] theorem State.lower_pending (s : State) (a : Nat) (f : Fld) : (s.lower a f).pending = s.pending := (rfl)
@[simp] theorem State.lower_reply (s : State) (a : Nat) (f : Fld) : (s.lower a f).reply = s.reply := (rfl)
@[simp] theorem State.lower_mem (s : State) (a : Nat) (f : Fld) : (s.lower a f).mem = s.mem := (rfl)
@[simp] theorem State.lower_flash (s : State) (a : Nat) (f : Fld) : (s.lower a f).flash = s.flash := (rfl)
@[simp] theorem State.lower_ddrDamage (s : State) (a : Nat) (f : Fld) : (s.lower a f).ddrDamage = s.ddrDamage := (rfl)
@[simp] theorem State.lower_sramDamage (s : State) (a : Nat) (f : Fld) : (s.lower a f).sramDamage = s.sramDamage := (rfl)
@[simp] theorem State.lower_sramSent (s : State) (a : Nat) (f : Fld) : (s.lower a f).sramSent = s.sramSent := (rfl)
@[simp] theorem State.lower_dgkBuilt (s : State) (a : Nat) (f : Fld) : (s.lower a f).dgkBuilt = s.dgkBuilt := (rfl)
@[simp] theorem State.lower_iotlb (s : State) (a : Nat) (f : Fld) : (s.lower a f).iotlb = s.iotlb := (rfl)
@[simp] theorem State.lower_engines (s : State) (a : Nat) (f : Fld) : (s.lower a f).engines = s.engines := (rfl)
@[simp] theorem State.lower_sems (s : State) (a : Nat) (f : Fld) : (s.lower a f).sems = s.sems := (rfl)
@[simp] theorem State.lower_ctxs (s : State) (a : Nat) (f : Fld) : (s.lower a f).ctxs = s.ctxs := (rfl)
@[simp] theorem State.lower_parts (s : State) (a : Nat) (f : Fld) : (s.lower a f).parts = s.parts := (rfl)
@[simp] theorem State.lower_models (s : State) (a : Nat) (f : Fld) : (s.lower a f).models = s.models := (rfl)
@[simp] theorem State.lower_jobs (s : State) (a : Nat) (f : Fld) : (s.lower a f).jobs = s.jobs := (rfl)
@[simp] theorem State.lower_jobNext (s : State) (a : Nat) (f : Fld) : (s.lower a f).jobNext = s.jobNext := (rfl)
@[simp] theorem State.lower_laneLast (s : State) (a : Nat) (f : Fld) : (s.lower a f).laneLast = s.laneLast := (rfl)
@[simp] theorem State.lower_turn (s : State) (a : Nat) (f : Fld) : (s.lower a f).turn = s.turn := (rfl)
@[simp] theorem State.lower_events (s : State) (a : Nat) (f : Fld) : (s.lower a f).events = s.events := (rfl)
@[simp] theorem State.lower_bus (s : State) (a : Nat) (f : Fld) : (s.lower a f).bus = s.bus := (rfl)
@[simp] theorem State.lower_tb (s : State) (a : Nat) (f : Fld) : (s.lower a f).tb = s.tb := (rfl)
@[simp] theorem State.lower_tt (s : State) (a : Nat) (f : Fld) : (s.lower a f).tt = s.tt := (rfl)
@[simp] theorem State.lower_streams (s : State) (a : Nat) (f : Fld) : (s.lower a f).streams = s.streams := (rfl)
@[simp] theorem State.lower_tiles (s : State) (a : Nat) (f : Fld) : (s.lower a f).tiles = s.tiles := (rfl)
@[simp] theorem State.lower_csiFill (s : State) (a : Nat) (f : Fld) : (s.lower a f).csiFill = s.csiFill := (rfl)
@[simp] theorem State.lower_ssps (s : State) (a : Nat) (f : Fld) : (s.lower a f).ssps = s.ssps := (rfl)
@[simp] theorem State.lower_fusion (s : State) (a : Nat) (f : Fld) : (s.lower a f).fusion = s.fusion := (rfl)
@[simp] theorem State.lower_dmcs (s : State) (a : Nat) (f : Fld) : (s.lower a f).dmcs = s.dmcs := (rfl)
@[simp] theorem State.lower_slc (s : State) (a : Nat) (f : Fld) : (s.lower a f).slc = s.slc := (rfl)
@[simp] theorem State.lower_slcUses (s : State) (a : Nat) (f : Fld) : (s.lower a f).slcUses = s.slcUses := (rfl)
@[simp] theorem State.lower_caches (s : State) (a : Nat) (f : Fld) : (s.lower a f).caches = s.caches := (rfl)
@[simp] theorem State.lower_links (s : State) (a : Nat) (f : Fld) : (s.lower a f).links = s.links := (rfl)
@[simp] theorem State.lower_linkLost (s : State) (a : Nat) (f : Fld) : (s.lower a f).linkLost = s.linkLost := (rfl)
@[simp] theorem State.lower_holdWays (s : State) (a : Nat) (f : Fld) : (s.lower a f).holdWays = s.holdWays := (rfl)
@[simp] theorem State.lower_wheelPos (s : State) (a : Nat) (f : Fld) : (s.lower a f).wheelPos = s.wheelPos := (rfl)
@[simp] theorem State.lower_wheelRun (s : State) (a : Nat) (f : Fld) : (s.lower a f).wheelRun = s.wheelRun := (rfl)
@[simp] theorem State.lower_wheelLive (s : State) (a : Nat) (f : Fld) : (s.lower a f).wheelLive = s.wheelLive := (rfl)
@[simp] theorem State.lower_wheelOut (s : State) (a : Nat) (f : Fld) : (s.lower a f).wheelOut = s.wheelOut := (rfl)
@[simp] theorem State.lower_channels (s : State) (a : Nat) (f : Fld) : (s.lower a f).channels = s.channels := (rfl)
@[simp] theorem State.lower_ddrQueue (s : State) (a : Nat) (f : Fld) : (s.lower a f).ddrQueue = s.ddrQueue := (rfl)
@[simp] theorem State.lower_guardLive (s : State) (a : Nat) (f : Fld) : (s.lower a f).guardLive = s.guardLive := (rfl)
@[simp] theorem State.lower_guardWait (s : State) (a : Nat) (f : Fld) : (s.lower a f).guardWait = s.guardWait := (rfl)
@[simp] theorem State.lower_guardSent (s : State) (a : Nat) (f : Fld) : (s.lower a f).guardSent = s.guardSent := (rfl)
@[simp] theorem State.lower_gq (s : State) (a : Nat) (f : Fld) : (s.lower a f).gq = s.gq := (rfl)
@[simp] theorem State.lower_gfxRun (s : State) (a : Nat) (f : Fld) : (s.lower a f).gfxRun = s.gfxRun := (rfl)
@[simp] theorem State.lower_heads (s : State) (a : Nat) (f : Fld) : (s.lower a f).heads = s.heads := (rfl)
@[simp] theorem State.lower_harts (s : State) (a : Nat) (f : Fld) : (s.lower a f).harts = s.harts := (rfl)
@[simp] theorem State.lower_heath (s : State) (a : Nat) (f : Fld) : (s.lower a f).heath = s.heath := (rfl)
@[simp] theorem State.lower_msis (s : State) (a : Nat) (f : Fld) : (s.lower a f).msis = s.msis := (rfl)
@[simp] theorem State.lower_irqs (s : State) (a : Nat) (f : Fld) : (s.lower a f).irqs = s.irqs := (rfl)
@[simp] theorem State.lower_irqEn (s : State) (a : Nat) (f : Fld) : (s.lower a f).irqEn = s.irqEn := (rfl)
@[simp] theorem State.lower_msiDropAt (s : State) (a : Nat) (f : Fld) : (s.lower a f).msiDropAt = s.msiDropAt := (rfl)
@[simp] theorem State.lower_weirs (s : State) (a : Nat) (f : Fld) : (s.lower a f).weirs = s.weirs := (rfl)
@[simp] theorem State.lower_semOps (s : State) (a : Nat) (f : Fld) : (s.lower a f).semOps = s.semOps := (rfl)
@[simp] theorem State.lower_gw (s : State) (a : Nat) (f : Fld) : (s.lower a f).gw = s.gw := (rfl)
@[simp] theorem State.lower_erm (s : State) (a : Nat) (f : Fld) : (s.lower a f).erm = s.erm := (rfl)
@[simp] theorem State.lower_errs (s : State) (a : Nat) (f : Fld) : (s.lower a f).errs = s.errs := (rfl)
@[simp] theorem State.lower_windows (s : State) (a : Nat) (f : Fld) : (s.lower a f).windows = s.windows := (rfl)
@[simp] theorem State.lower_tests (s : State) (a : Nat) (f : Fld) : (s.lower a f).tests = s.tests := (rfl)
@[simp] theorem State.lower_fuses (s : State) (a : Nat) (f : Fld) : (s.lower a f).fuses = s.fuses := (rfl)
@[simp] theorem State.lower_rom (s : State) (a : Nat) (f : Fld) : (s.lower a f).rom = s.rom := (rfl)
@[simp] theorem State.lower_wdts (s : State) (a : Nat) (f : Fld) : (s.lower a f).wdts = s.wdts := (rfl)
@[simp] theorem State.lower_cfgMarks (s : State) (a : Nat) (f : Fld) : (s.lower a f).cfgMarks = s.cfgMarks := (rfl)
@[simp] theorem State.lower_fwlSeq (s : State) (a : Nat) (f : Fld) : (s.lower a f).fwlSeq = s.fwlSeq := (rfl)
@[simp] theorem State.lower_therm (s : State) (a : Nat) (f : Fld) : (s.lower a f).therm = s.therm := (rfl)
@[simp] theorem State.lower_pins (s : State) (a : Nat) (f : Fld) : (s.lower a f).pins = s.pins := (rfl)
@[simp] theorem State.lower_portLinks (s : State) (a : Nat) (f : Fld) : (s.lower a f).portLinks = s.portLinks := (rfl)
@[simp] theorem State.lower_ticks (s : State) (a : Nat) (f : Fld) : (s.lower a f).ticks = s.ticks := (rfl)

@[simp] theorem State.count_pending (s : State) (a : Nat) (f : Fld) (n : Nat) : (s.count a f n).pending = s.pending := (rfl)
@[simp] theorem State.count_reply (s : State) (a : Nat) (f : Fld) (n : Nat) : (s.count a f n).reply = s.reply := (rfl)
@[simp] theorem State.count_mem (s : State) (a : Nat) (f : Fld) (n : Nat) : (s.count a f n).mem = s.mem := (rfl)
@[simp] theorem State.count_flash (s : State) (a : Nat) (f : Fld) (n : Nat) : (s.count a f n).flash = s.flash := (rfl)
@[simp] theorem State.count_ddrDamage (s : State) (a : Nat) (f : Fld) (n : Nat) : (s.count a f n).ddrDamage = s.ddrDamage := (rfl)
@[simp] theorem State.count_sramDamage (s : State) (a : Nat) (f : Fld) (n : Nat) : (s.count a f n).sramDamage = s.sramDamage := (rfl)
@[simp] theorem State.count_sramSent (s : State) (a : Nat) (f : Fld) (n : Nat) : (s.count a f n).sramSent = s.sramSent := (rfl)
@[simp] theorem State.count_dgkBuilt (s : State) (a : Nat) (f : Fld) (n : Nat) : (s.count a f n).dgkBuilt = s.dgkBuilt := (rfl)
@[simp] theorem State.count_iotlb (s : State) (a : Nat) (f : Fld) (n : Nat) : (s.count a f n).iotlb = s.iotlb := (rfl)
@[simp] theorem State.count_engines (s : State) (a : Nat) (f : Fld) (n : Nat) : (s.count a f n).engines = s.engines := (rfl)
@[simp] theorem State.count_sems (s : State) (a : Nat) (f : Fld) (n : Nat) : (s.count a f n).sems = s.sems := (rfl)
@[simp] theorem State.count_ctxs (s : State) (a : Nat) (f : Fld) (n : Nat) : (s.count a f n).ctxs = s.ctxs := (rfl)
@[simp] theorem State.count_parts (s : State) (a : Nat) (f : Fld) (n : Nat) : (s.count a f n).parts = s.parts := (rfl)
@[simp] theorem State.count_models (s : State) (a : Nat) (f : Fld) (n : Nat) : (s.count a f n).models = s.models := (rfl)
@[simp] theorem State.count_jobs (s : State) (a : Nat) (f : Fld) (n : Nat) : (s.count a f n).jobs = s.jobs := (rfl)
@[simp] theorem State.count_jobNext (s : State) (a : Nat) (f : Fld) (n : Nat) : (s.count a f n).jobNext = s.jobNext := (rfl)
@[simp] theorem State.count_laneLast (s : State) (a : Nat) (f : Fld) (n : Nat) : (s.count a f n).laneLast = s.laneLast := (rfl)
@[simp] theorem State.count_turn (s : State) (a : Nat) (f : Fld) (n : Nat) : (s.count a f n).turn = s.turn := (rfl)
@[simp] theorem State.count_events (s : State) (a : Nat) (f : Fld) (n : Nat) : (s.count a f n).events = s.events := (rfl)
@[simp] theorem State.count_bus (s : State) (a : Nat) (f : Fld) (n : Nat) : (s.count a f n).bus = s.bus := (rfl)
@[simp] theorem State.count_tb (s : State) (a : Nat) (f : Fld) (n : Nat) : (s.count a f n).tb = s.tb := (rfl)
@[simp] theorem State.count_tt (s : State) (a : Nat) (f : Fld) (n : Nat) : (s.count a f n).tt = s.tt := (rfl)
@[simp] theorem State.count_streams (s : State) (a : Nat) (f : Fld) (n : Nat) : (s.count a f n).streams = s.streams := (rfl)
@[simp] theorem State.count_tiles (s : State) (a : Nat) (f : Fld) (n : Nat) : (s.count a f n).tiles = s.tiles := (rfl)
@[simp] theorem State.count_csiFill (s : State) (a : Nat) (f : Fld) (n : Nat) : (s.count a f n).csiFill = s.csiFill := (rfl)
@[simp] theorem State.count_ssps (s : State) (a : Nat) (f : Fld) (n : Nat) : (s.count a f n).ssps = s.ssps := (rfl)
@[simp] theorem State.count_fusion (s : State) (a : Nat) (f : Fld) (n : Nat) : (s.count a f n).fusion = s.fusion := (rfl)
@[simp] theorem State.count_dmcs (s : State) (a : Nat) (f : Fld) (n : Nat) : (s.count a f n).dmcs = s.dmcs := (rfl)
@[simp] theorem State.count_slc (s : State) (a : Nat) (f : Fld) (n : Nat) : (s.count a f n).slc = s.slc := (rfl)
@[simp] theorem State.count_slcUses (s : State) (a : Nat) (f : Fld) (n : Nat) : (s.count a f n).slcUses = s.slcUses := (rfl)
@[simp] theorem State.count_caches (s : State) (a : Nat) (f : Fld) (n : Nat) : (s.count a f n).caches = s.caches := (rfl)
@[simp] theorem State.count_links (s : State) (a : Nat) (f : Fld) (n : Nat) : (s.count a f n).links = s.links := (rfl)
@[simp] theorem State.count_linkLost (s : State) (a : Nat) (f : Fld) (n : Nat) : (s.count a f n).linkLost = s.linkLost := (rfl)
@[simp] theorem State.count_holdWays (s : State) (a : Nat) (f : Fld) (n : Nat) : (s.count a f n).holdWays = s.holdWays := (rfl)
@[simp] theorem State.count_wheelPos (s : State) (a : Nat) (f : Fld) (n : Nat) : (s.count a f n).wheelPos = s.wheelPos := (rfl)
@[simp] theorem State.count_wheelRun (s : State) (a : Nat) (f : Fld) (n : Nat) : (s.count a f n).wheelRun = s.wheelRun := (rfl)
@[simp] theorem State.count_wheelLive (s : State) (a : Nat) (f : Fld) (n : Nat) : (s.count a f n).wheelLive = s.wheelLive := (rfl)
@[simp] theorem State.count_wheelOut (s : State) (a : Nat) (f : Fld) (n : Nat) : (s.count a f n).wheelOut = s.wheelOut := (rfl)
@[simp] theorem State.count_channels (s : State) (a : Nat) (f : Fld) (n : Nat) : (s.count a f n).channels = s.channels := (rfl)
@[simp] theorem State.count_ddrQueue (s : State) (a : Nat) (f : Fld) (n : Nat) : (s.count a f n).ddrQueue = s.ddrQueue := (rfl)
@[simp] theorem State.count_guardLive (s : State) (a : Nat) (f : Fld) (n : Nat) : (s.count a f n).guardLive = s.guardLive := (rfl)
@[simp] theorem State.count_guardWait (s : State) (a : Nat) (f : Fld) (n : Nat) : (s.count a f n).guardWait = s.guardWait := (rfl)
@[simp] theorem State.count_guardSent (s : State) (a : Nat) (f : Fld) (n : Nat) : (s.count a f n).guardSent = s.guardSent := (rfl)
@[simp] theorem State.count_gq (s : State) (a : Nat) (f : Fld) (n : Nat) : (s.count a f n).gq = s.gq := (rfl)
@[simp] theorem State.count_gfxRun (s : State) (a : Nat) (f : Fld) (n : Nat) : (s.count a f n).gfxRun = s.gfxRun := (rfl)
@[simp] theorem State.count_heads (s : State) (a : Nat) (f : Fld) (n : Nat) : (s.count a f n).heads = s.heads := (rfl)
@[simp] theorem State.count_harts (s : State) (a : Nat) (f : Fld) (n : Nat) : (s.count a f n).harts = s.harts := (rfl)
@[simp] theorem State.count_heath (s : State) (a : Nat) (f : Fld) (n : Nat) : (s.count a f n).heath = s.heath := (rfl)
@[simp] theorem State.count_msis (s : State) (a : Nat) (f : Fld) (n : Nat) : (s.count a f n).msis = s.msis := (rfl)
@[simp] theorem State.count_irqs (s : State) (a : Nat) (f : Fld) (n : Nat) : (s.count a f n).irqs = s.irqs := (rfl)
@[simp] theorem State.count_irqEn (s : State) (a : Nat) (f : Fld) (n : Nat) : (s.count a f n).irqEn = s.irqEn := (rfl)
@[simp] theorem State.count_msiDropAt (s : State) (a : Nat) (f : Fld) (n : Nat) : (s.count a f n).msiDropAt = s.msiDropAt := (rfl)
@[simp] theorem State.count_weirs (s : State) (a : Nat) (f : Fld) (n : Nat) : (s.count a f n).weirs = s.weirs := (rfl)
@[simp] theorem State.count_semOps (s : State) (a : Nat) (f : Fld) (n : Nat) : (s.count a f n).semOps = s.semOps := (rfl)
@[simp] theorem State.count_gw (s : State) (a : Nat) (f : Fld) (n : Nat) : (s.count a f n).gw = s.gw := (rfl)
@[simp] theorem State.count_erm (s : State) (a : Nat) (f : Fld) (n : Nat) : (s.count a f n).erm = s.erm := (rfl)
@[simp] theorem State.count_errs (s : State) (a : Nat) (f : Fld) (n : Nat) : (s.count a f n).errs = s.errs := (rfl)
@[simp] theorem State.count_windows (s : State) (a : Nat) (f : Fld) (n : Nat) : (s.count a f n).windows = s.windows := (rfl)
@[simp] theorem State.count_tests (s : State) (a : Nat) (f : Fld) (n : Nat) : (s.count a f n).tests = s.tests := (rfl)
@[simp] theorem State.count_fuses (s : State) (a : Nat) (f : Fld) (n : Nat) : (s.count a f n).fuses = s.fuses := (rfl)
@[simp] theorem State.count_rom (s : State) (a : Nat) (f : Fld) (n : Nat) : (s.count a f n).rom = s.rom := (rfl)
@[simp] theorem State.count_wdts (s : State) (a : Nat) (f : Fld) (n : Nat) : (s.count a f n).wdts = s.wdts := (rfl)
@[simp] theorem State.count_cfgMarks (s : State) (a : Nat) (f : Fld) (n : Nat) : (s.count a f n).cfgMarks = s.cfgMarks := (rfl)
@[simp] theorem State.count_fwlSeq (s : State) (a : Nat) (f : Fld) (n : Nat) : (s.count a f n).fwlSeq = s.fwlSeq := (rfl)
@[simp] theorem State.count_therm (s : State) (a : Nat) (f : Fld) (n : Nat) : (s.count a f n).therm = s.therm := (rfl)
@[simp] theorem State.count_pins (s : State) (a : Nat) (f : Fld) (n : Nat) : (s.count a f n).pins = s.pins := (rfl)
@[simp] theorem State.count_portLinks (s : State) (a : Nat) (f : Fld) (n : Nat) : (s.count a f n).portLinks = s.portLinks := (rfl)
@[simp] theorem State.count_ticks (s : State) (a : Nat) (f : Fld) (n : Nat) : (s.count a f n).ticks = s.ticks := (rfl)

@[simp] theorem State.setEng_pending (s : State) (n : Nat) (x : Engine) : (s.setEng n x).pending = s.pending := (rfl)
@[simp] theorem State.setEng_reply (s : State) (n : Nat) (x : Engine) : (s.setEng n x).reply = s.reply := (rfl)
@[simp] theorem State.setEng_regs (s : State) (n : Nat) (x : Engine) : (s.setEng n x).regs = s.regs := (rfl)
@[simp] theorem State.setEng_mem (s : State) (n : Nat) (x : Engine) : (s.setEng n x).mem = s.mem := (rfl)
@[simp] theorem State.setEng_flash (s : State) (n : Nat) (x : Engine) : (s.setEng n x).flash = s.flash := (rfl)
@[simp] theorem State.setEng_ddrDamage (s : State) (n : Nat) (x : Engine) : (s.setEng n x).ddrDamage = s.ddrDamage := (rfl)
@[simp] theorem State.setEng_sramDamage (s : State) (n : Nat) (x : Engine) : (s.setEng n x).sramDamage = s.sramDamage := (rfl)
@[simp] theorem State.setEng_sramSent (s : State) (n : Nat) (x : Engine) : (s.setEng n x).sramSent = s.sramSent := (rfl)
@[simp] theorem State.setEng_dgkBuilt (s : State) (n : Nat) (x : Engine) : (s.setEng n x).dgkBuilt = s.dgkBuilt := (rfl)
@[simp] theorem State.setEng_iotlb (s : State) (n : Nat) (x : Engine) : (s.setEng n x).iotlb = s.iotlb := (rfl)
@[simp] theorem State.setEng_sems (s : State) (n : Nat) (x : Engine) : (s.setEng n x).sems = s.sems := (rfl)
@[simp] theorem State.setEng_ctxs (s : State) (n : Nat) (x : Engine) : (s.setEng n x).ctxs = s.ctxs := (rfl)
@[simp] theorem State.setEng_parts (s : State) (n : Nat) (x : Engine) : (s.setEng n x).parts = s.parts := (rfl)
@[simp] theorem State.setEng_models (s : State) (n : Nat) (x : Engine) : (s.setEng n x).models = s.models := (rfl)
@[simp] theorem State.setEng_jobs (s : State) (n : Nat) (x : Engine) : (s.setEng n x).jobs = s.jobs := (rfl)
@[simp] theorem State.setEng_jobNext (s : State) (n : Nat) (x : Engine) : (s.setEng n x).jobNext = s.jobNext := (rfl)
@[simp] theorem State.setEng_laneLast (s : State) (n : Nat) (x : Engine) : (s.setEng n x).laneLast = s.laneLast := (rfl)
@[simp] theorem State.setEng_turn (s : State) (n : Nat) (x : Engine) : (s.setEng n x).turn = s.turn := (rfl)
@[simp] theorem State.setEng_events (s : State) (n : Nat) (x : Engine) : (s.setEng n x).events = s.events := (rfl)
@[simp] theorem State.setEng_bus (s : State) (n : Nat) (x : Engine) : (s.setEng n x).bus = s.bus := (rfl)
@[simp] theorem State.setEng_tb (s : State) (n : Nat) (x : Engine) : (s.setEng n x).tb = s.tb := (rfl)
@[simp] theorem State.setEng_tt (s : State) (n : Nat) (x : Engine) : (s.setEng n x).tt = s.tt := (rfl)
@[simp] theorem State.setEng_streams (s : State) (n : Nat) (x : Engine) : (s.setEng n x).streams = s.streams := (rfl)
@[simp] theorem State.setEng_tiles (s : State) (n : Nat) (x : Engine) : (s.setEng n x).tiles = s.tiles := (rfl)
@[simp] theorem State.setEng_csiFill (s : State) (n : Nat) (x : Engine) : (s.setEng n x).csiFill = s.csiFill := (rfl)
@[simp] theorem State.setEng_ssps (s : State) (n : Nat) (x : Engine) : (s.setEng n x).ssps = s.ssps := (rfl)
@[simp] theorem State.setEng_fusion (s : State) (n : Nat) (x : Engine) : (s.setEng n x).fusion = s.fusion := (rfl)
@[simp] theorem State.setEng_dmcs (s : State) (n : Nat) (x : Engine) : (s.setEng n x).dmcs = s.dmcs := (rfl)
@[simp] theorem State.setEng_slc (s : State) (n : Nat) (x : Engine) : (s.setEng n x).slc = s.slc := (rfl)
@[simp] theorem State.setEng_slcUses (s : State) (n : Nat) (x : Engine) : (s.setEng n x).slcUses = s.slcUses := (rfl)
@[simp] theorem State.setEng_caches (s : State) (n : Nat) (x : Engine) : (s.setEng n x).caches = s.caches := (rfl)
@[simp] theorem State.setEng_links (s : State) (n : Nat) (x : Engine) : (s.setEng n x).links = s.links := (rfl)
@[simp] theorem State.setEng_linkLost (s : State) (n : Nat) (x : Engine) : (s.setEng n x).linkLost = s.linkLost := (rfl)
@[simp] theorem State.setEng_holdWays (s : State) (n : Nat) (x : Engine) : (s.setEng n x).holdWays = s.holdWays := (rfl)
@[simp] theorem State.setEng_wheelPos (s : State) (n : Nat) (x : Engine) : (s.setEng n x).wheelPos = s.wheelPos := (rfl)
@[simp] theorem State.setEng_wheelRun (s : State) (n : Nat) (x : Engine) : (s.setEng n x).wheelRun = s.wheelRun := (rfl)
@[simp] theorem State.setEng_wheelLive (s : State) (n : Nat) (x : Engine) : (s.setEng n x).wheelLive = s.wheelLive := (rfl)
@[simp] theorem State.setEng_wheelOut (s : State) (n : Nat) (x : Engine) : (s.setEng n x).wheelOut = s.wheelOut := (rfl)
@[simp] theorem State.setEng_channels (s : State) (n : Nat) (x : Engine) : (s.setEng n x).channels = s.channels := (rfl)
@[simp] theorem State.setEng_ddrQueue (s : State) (n : Nat) (x : Engine) : (s.setEng n x).ddrQueue = s.ddrQueue := (rfl)
@[simp] theorem State.setEng_guardLive (s : State) (n : Nat) (x : Engine) : (s.setEng n x).guardLive = s.guardLive := (rfl)
@[simp] theorem State.setEng_guardWait (s : State) (n : Nat) (x : Engine) : (s.setEng n x).guardWait = s.guardWait := (rfl)
@[simp] theorem State.setEng_guardSent (s : State) (n : Nat) (x : Engine) : (s.setEng n x).guardSent = s.guardSent := (rfl)
@[simp] theorem State.setEng_gq (s : State) (n : Nat) (x : Engine) : (s.setEng n x).gq = s.gq := (rfl)
@[simp] theorem State.setEng_gfxRun (s : State) (n : Nat) (x : Engine) : (s.setEng n x).gfxRun = s.gfxRun := (rfl)
@[simp] theorem State.setEng_heads (s : State) (n : Nat) (x : Engine) : (s.setEng n x).heads = s.heads := (rfl)
@[simp] theorem State.setEng_harts (s : State) (n : Nat) (x : Engine) : (s.setEng n x).harts = s.harts := (rfl)
@[simp] theorem State.setEng_heath (s : State) (n : Nat) (x : Engine) : (s.setEng n x).heath = s.heath := (rfl)
@[simp] theorem State.setEng_msis (s : State) (n : Nat) (x : Engine) : (s.setEng n x).msis = s.msis := (rfl)
@[simp] theorem State.setEng_irqs (s : State) (n : Nat) (x : Engine) : (s.setEng n x).irqs = s.irqs := (rfl)
@[simp] theorem State.setEng_irqEn (s : State) (n : Nat) (x : Engine) : (s.setEng n x).irqEn = s.irqEn := (rfl)
@[simp] theorem State.setEng_msiDropAt (s : State) (n : Nat) (x : Engine) : (s.setEng n x).msiDropAt = s.msiDropAt := (rfl)
@[simp] theorem State.setEng_weirs (s : State) (n : Nat) (x : Engine) : (s.setEng n x).weirs = s.weirs := (rfl)
@[simp] theorem State.setEng_semOps (s : State) (n : Nat) (x : Engine) : (s.setEng n x).semOps = s.semOps := (rfl)
@[simp] theorem State.setEng_gw (s : State) (n : Nat) (x : Engine) : (s.setEng n x).gw = s.gw := (rfl)
@[simp] theorem State.setEng_erm (s : State) (n : Nat) (x : Engine) : (s.setEng n x).erm = s.erm := (rfl)
@[simp] theorem State.setEng_errs (s : State) (n : Nat) (x : Engine) : (s.setEng n x).errs = s.errs := (rfl)
@[simp] theorem State.setEng_windows (s : State) (n : Nat) (x : Engine) : (s.setEng n x).windows = s.windows := (rfl)
@[simp] theorem State.setEng_tests (s : State) (n : Nat) (x : Engine) : (s.setEng n x).tests = s.tests := (rfl)
@[simp] theorem State.setEng_fuses (s : State) (n : Nat) (x : Engine) : (s.setEng n x).fuses = s.fuses := (rfl)
@[simp] theorem State.setEng_rom (s : State) (n : Nat) (x : Engine) : (s.setEng n x).rom = s.rom := (rfl)
@[simp] theorem State.setEng_wdts (s : State) (n : Nat) (x : Engine) : (s.setEng n x).wdts = s.wdts := (rfl)
@[simp] theorem State.setEng_cfgMarks (s : State) (n : Nat) (x : Engine) : (s.setEng n x).cfgMarks = s.cfgMarks := (rfl)
@[simp] theorem State.setEng_fwlSeq (s : State) (n : Nat) (x : Engine) : (s.setEng n x).fwlSeq = s.fwlSeq := (rfl)
@[simp] theorem State.setEng_therm (s : State) (n : Nat) (x : Engine) : (s.setEng n x).therm = s.therm := (rfl)
@[simp] theorem State.setEng_pins (s : State) (n : Nat) (x : Engine) : (s.setEng n x).pins = s.pins := (rfl)
@[simp] theorem State.setEng_portLinks (s : State) (n : Nat) (x : Engine) : (s.setEng n x).portLinks = s.portLinks := (rfl)
@[simp] theorem State.setEng_ticks (s : State) (n : Nat) (x : Engine) : (s.setEng n x).ticks = s.ticks := (rfl)

@[simp] theorem State.setCtx_pending (s : State) (n : Nat) (x : Ctx) : (s.setCtx n x).pending = s.pending := (rfl)
@[simp] theorem State.setCtx_reply (s : State) (n : Nat) (x : Ctx) : (s.setCtx n x).reply = s.reply := (rfl)
@[simp] theorem State.setCtx_regs (s : State) (n : Nat) (x : Ctx) : (s.setCtx n x).regs = s.regs := (rfl)
@[simp] theorem State.setCtx_mem (s : State) (n : Nat) (x : Ctx) : (s.setCtx n x).mem = s.mem := (rfl)
@[simp] theorem State.setCtx_flash (s : State) (n : Nat) (x : Ctx) : (s.setCtx n x).flash = s.flash := (rfl)
@[simp] theorem State.setCtx_ddrDamage (s : State) (n : Nat) (x : Ctx) : (s.setCtx n x).ddrDamage = s.ddrDamage := (rfl)
@[simp] theorem State.setCtx_sramDamage (s : State) (n : Nat) (x : Ctx) : (s.setCtx n x).sramDamage = s.sramDamage := (rfl)
@[simp] theorem State.setCtx_sramSent (s : State) (n : Nat) (x : Ctx) : (s.setCtx n x).sramSent = s.sramSent := (rfl)
@[simp] theorem State.setCtx_dgkBuilt (s : State) (n : Nat) (x : Ctx) : (s.setCtx n x).dgkBuilt = s.dgkBuilt := (rfl)
@[simp] theorem State.setCtx_iotlb (s : State) (n : Nat) (x : Ctx) : (s.setCtx n x).iotlb = s.iotlb := (rfl)
@[simp] theorem State.setCtx_engines (s : State) (n : Nat) (x : Ctx) : (s.setCtx n x).engines = s.engines := (rfl)
@[simp] theorem State.setCtx_sems (s : State) (n : Nat) (x : Ctx) : (s.setCtx n x).sems = s.sems := (rfl)
@[simp] theorem State.setCtx_parts (s : State) (n : Nat) (x : Ctx) : (s.setCtx n x).parts = s.parts := (rfl)
@[simp] theorem State.setCtx_models (s : State) (n : Nat) (x : Ctx) : (s.setCtx n x).models = s.models := (rfl)
@[simp] theorem State.setCtx_jobs (s : State) (n : Nat) (x : Ctx) : (s.setCtx n x).jobs = s.jobs := (rfl)
@[simp] theorem State.setCtx_jobNext (s : State) (n : Nat) (x : Ctx) : (s.setCtx n x).jobNext = s.jobNext := (rfl)
@[simp] theorem State.setCtx_laneLast (s : State) (n : Nat) (x : Ctx) : (s.setCtx n x).laneLast = s.laneLast := (rfl)
@[simp] theorem State.setCtx_turn (s : State) (n : Nat) (x : Ctx) : (s.setCtx n x).turn = s.turn := (rfl)
@[simp] theorem State.setCtx_events (s : State) (n : Nat) (x : Ctx) : (s.setCtx n x).events = s.events := (rfl)
@[simp] theorem State.setCtx_bus (s : State) (n : Nat) (x : Ctx) : (s.setCtx n x).bus = s.bus := (rfl)
@[simp] theorem State.setCtx_tb (s : State) (n : Nat) (x : Ctx) : (s.setCtx n x).tb = s.tb := (rfl)
@[simp] theorem State.setCtx_tt (s : State) (n : Nat) (x : Ctx) : (s.setCtx n x).tt = s.tt := (rfl)
@[simp] theorem State.setCtx_streams (s : State) (n : Nat) (x : Ctx) : (s.setCtx n x).streams = s.streams := (rfl)
@[simp] theorem State.setCtx_tiles (s : State) (n : Nat) (x : Ctx) : (s.setCtx n x).tiles = s.tiles := (rfl)
@[simp] theorem State.setCtx_csiFill (s : State) (n : Nat) (x : Ctx) : (s.setCtx n x).csiFill = s.csiFill := (rfl)
@[simp] theorem State.setCtx_ssps (s : State) (n : Nat) (x : Ctx) : (s.setCtx n x).ssps = s.ssps := (rfl)
@[simp] theorem State.setCtx_fusion (s : State) (n : Nat) (x : Ctx) : (s.setCtx n x).fusion = s.fusion := (rfl)
@[simp] theorem State.setCtx_dmcs (s : State) (n : Nat) (x : Ctx) : (s.setCtx n x).dmcs = s.dmcs := (rfl)
@[simp] theorem State.setCtx_slc (s : State) (n : Nat) (x : Ctx) : (s.setCtx n x).slc = s.slc := (rfl)
@[simp] theorem State.setCtx_slcUses (s : State) (n : Nat) (x : Ctx) : (s.setCtx n x).slcUses = s.slcUses := (rfl)
@[simp] theorem State.setCtx_caches (s : State) (n : Nat) (x : Ctx) : (s.setCtx n x).caches = s.caches := (rfl)
@[simp] theorem State.setCtx_links (s : State) (n : Nat) (x : Ctx) : (s.setCtx n x).links = s.links := (rfl)
@[simp] theorem State.setCtx_linkLost (s : State) (n : Nat) (x : Ctx) : (s.setCtx n x).linkLost = s.linkLost := (rfl)
@[simp] theorem State.setCtx_holdWays (s : State) (n : Nat) (x : Ctx) : (s.setCtx n x).holdWays = s.holdWays := (rfl)
@[simp] theorem State.setCtx_wheelPos (s : State) (n : Nat) (x : Ctx) : (s.setCtx n x).wheelPos = s.wheelPos := (rfl)
@[simp] theorem State.setCtx_wheelRun (s : State) (n : Nat) (x : Ctx) : (s.setCtx n x).wheelRun = s.wheelRun := (rfl)
@[simp] theorem State.setCtx_wheelLive (s : State) (n : Nat) (x : Ctx) : (s.setCtx n x).wheelLive = s.wheelLive := (rfl)
@[simp] theorem State.setCtx_wheelOut (s : State) (n : Nat) (x : Ctx) : (s.setCtx n x).wheelOut = s.wheelOut := (rfl)
@[simp] theorem State.setCtx_channels (s : State) (n : Nat) (x : Ctx) : (s.setCtx n x).channels = s.channels := (rfl)
@[simp] theorem State.setCtx_ddrQueue (s : State) (n : Nat) (x : Ctx) : (s.setCtx n x).ddrQueue = s.ddrQueue := (rfl)
@[simp] theorem State.setCtx_guardLive (s : State) (n : Nat) (x : Ctx) : (s.setCtx n x).guardLive = s.guardLive := (rfl)
@[simp] theorem State.setCtx_guardWait (s : State) (n : Nat) (x : Ctx) : (s.setCtx n x).guardWait = s.guardWait := (rfl)
@[simp] theorem State.setCtx_guardSent (s : State) (n : Nat) (x : Ctx) : (s.setCtx n x).guardSent = s.guardSent := (rfl)
@[simp] theorem State.setCtx_gq (s : State) (n : Nat) (x : Ctx) : (s.setCtx n x).gq = s.gq := (rfl)
@[simp] theorem State.setCtx_gfxRun (s : State) (n : Nat) (x : Ctx) : (s.setCtx n x).gfxRun = s.gfxRun := (rfl)
@[simp] theorem State.setCtx_heads (s : State) (n : Nat) (x : Ctx) : (s.setCtx n x).heads = s.heads := (rfl)
@[simp] theorem State.setCtx_harts (s : State) (n : Nat) (x : Ctx) : (s.setCtx n x).harts = s.harts := (rfl)
@[simp] theorem State.setCtx_heath (s : State) (n : Nat) (x : Ctx) : (s.setCtx n x).heath = s.heath := (rfl)
@[simp] theorem State.setCtx_msis (s : State) (n : Nat) (x : Ctx) : (s.setCtx n x).msis = s.msis := (rfl)
@[simp] theorem State.setCtx_irqs (s : State) (n : Nat) (x : Ctx) : (s.setCtx n x).irqs = s.irqs := (rfl)
@[simp] theorem State.setCtx_irqEn (s : State) (n : Nat) (x : Ctx) : (s.setCtx n x).irqEn = s.irqEn := (rfl)
@[simp] theorem State.setCtx_msiDropAt (s : State) (n : Nat) (x : Ctx) : (s.setCtx n x).msiDropAt = s.msiDropAt := (rfl)
@[simp] theorem State.setCtx_weirs (s : State) (n : Nat) (x : Ctx) : (s.setCtx n x).weirs = s.weirs := (rfl)
@[simp] theorem State.setCtx_semOps (s : State) (n : Nat) (x : Ctx) : (s.setCtx n x).semOps = s.semOps := (rfl)
@[simp] theorem State.setCtx_gw (s : State) (n : Nat) (x : Ctx) : (s.setCtx n x).gw = s.gw := (rfl)
@[simp] theorem State.setCtx_erm (s : State) (n : Nat) (x : Ctx) : (s.setCtx n x).erm = s.erm := (rfl)
@[simp] theorem State.setCtx_errs (s : State) (n : Nat) (x : Ctx) : (s.setCtx n x).errs = s.errs := (rfl)
@[simp] theorem State.setCtx_windows (s : State) (n : Nat) (x : Ctx) : (s.setCtx n x).windows = s.windows := (rfl)
@[simp] theorem State.setCtx_tests (s : State) (n : Nat) (x : Ctx) : (s.setCtx n x).tests = s.tests := (rfl)
@[simp] theorem State.setCtx_fuses (s : State) (n : Nat) (x : Ctx) : (s.setCtx n x).fuses = s.fuses := (rfl)
@[simp] theorem State.setCtx_rom (s : State) (n : Nat) (x : Ctx) : (s.setCtx n x).rom = s.rom := (rfl)
@[simp] theorem State.setCtx_wdts (s : State) (n : Nat) (x : Ctx) : (s.setCtx n x).wdts = s.wdts := (rfl)
@[simp] theorem State.setCtx_cfgMarks (s : State) (n : Nat) (x : Ctx) : (s.setCtx n x).cfgMarks = s.cfgMarks := (rfl)
@[simp] theorem State.setCtx_fwlSeq (s : State) (n : Nat) (x : Ctx) : (s.setCtx n x).fwlSeq = s.fwlSeq := (rfl)
@[simp] theorem State.setCtx_therm (s : State) (n : Nat) (x : Ctx) : (s.setCtx n x).therm = s.therm := (rfl)
@[simp] theorem State.setCtx_pins (s : State) (n : Nat) (x : Ctx) : (s.setCtx n x).pins = s.pins := (rfl)
@[simp] theorem State.setCtx_portLinks (s : State) (n : Nat) (x : Ctx) : (s.setCtx n x).portLinks = s.portLinks := (rfl)
@[simp] theorem State.setCtx_ticks (s : State) (n : Nat) (x : Ctx) : (s.setCtx n x).ticks = s.ticks := (rfl)

@[simp] theorem State.setPart_pending (s : State) (n : Nat) (x : Option Partition) : (s.setPart n x).pending = s.pending := (rfl)
@[simp] theorem State.setPart_reply (s : State) (n : Nat) (x : Option Partition) : (s.setPart n x).reply = s.reply := (rfl)
@[simp] theorem State.setPart_regs (s : State) (n : Nat) (x : Option Partition) : (s.setPart n x).regs = s.regs := (rfl)
@[simp] theorem State.setPart_mem (s : State) (n : Nat) (x : Option Partition) : (s.setPart n x).mem = s.mem := (rfl)
@[simp] theorem State.setPart_flash (s : State) (n : Nat) (x : Option Partition) : (s.setPart n x).flash = s.flash := (rfl)
@[simp] theorem State.setPart_ddrDamage (s : State) (n : Nat) (x : Option Partition) : (s.setPart n x).ddrDamage = s.ddrDamage := (rfl)
@[simp] theorem State.setPart_sramDamage (s : State) (n : Nat) (x : Option Partition) : (s.setPart n x).sramDamage = s.sramDamage := (rfl)
@[simp] theorem State.setPart_sramSent (s : State) (n : Nat) (x : Option Partition) : (s.setPart n x).sramSent = s.sramSent := (rfl)
@[simp] theorem State.setPart_dgkBuilt (s : State) (n : Nat) (x : Option Partition) : (s.setPart n x).dgkBuilt = s.dgkBuilt := (rfl)
@[simp] theorem State.setPart_iotlb (s : State) (n : Nat) (x : Option Partition) : (s.setPart n x).iotlb = s.iotlb := (rfl)
@[simp] theorem State.setPart_engines (s : State) (n : Nat) (x : Option Partition) : (s.setPart n x).engines = s.engines := (rfl)
@[simp] theorem State.setPart_sems (s : State) (n : Nat) (x : Option Partition) : (s.setPart n x).sems = s.sems := (rfl)
@[simp] theorem State.setPart_ctxs (s : State) (n : Nat) (x : Option Partition) : (s.setPart n x).ctxs = s.ctxs := (rfl)
@[simp] theorem State.setPart_models (s : State) (n : Nat) (x : Option Partition) : (s.setPart n x).models = s.models := (rfl)
@[simp] theorem State.setPart_jobs (s : State) (n : Nat) (x : Option Partition) : (s.setPart n x).jobs = s.jobs := (rfl)
@[simp] theorem State.setPart_jobNext (s : State) (n : Nat) (x : Option Partition) : (s.setPart n x).jobNext = s.jobNext := (rfl)
@[simp] theorem State.setPart_laneLast (s : State) (n : Nat) (x : Option Partition) : (s.setPart n x).laneLast = s.laneLast := (rfl)
@[simp] theorem State.setPart_turn (s : State) (n : Nat) (x : Option Partition) : (s.setPart n x).turn = s.turn := (rfl)
@[simp] theorem State.setPart_events (s : State) (n : Nat) (x : Option Partition) : (s.setPart n x).events = s.events := (rfl)
@[simp] theorem State.setPart_bus (s : State) (n : Nat) (x : Option Partition) : (s.setPart n x).bus = s.bus := (rfl)
@[simp] theorem State.setPart_tb (s : State) (n : Nat) (x : Option Partition) : (s.setPart n x).tb = s.tb := (rfl)
@[simp] theorem State.setPart_tt (s : State) (n : Nat) (x : Option Partition) : (s.setPart n x).tt = s.tt := (rfl)
@[simp] theorem State.setPart_streams (s : State) (n : Nat) (x : Option Partition) : (s.setPart n x).streams = s.streams := (rfl)
@[simp] theorem State.setPart_tiles (s : State) (n : Nat) (x : Option Partition) : (s.setPart n x).tiles = s.tiles := (rfl)
@[simp] theorem State.setPart_csiFill (s : State) (n : Nat) (x : Option Partition) : (s.setPart n x).csiFill = s.csiFill := (rfl)
@[simp] theorem State.setPart_ssps (s : State) (n : Nat) (x : Option Partition) : (s.setPart n x).ssps = s.ssps := (rfl)
@[simp] theorem State.setPart_fusion (s : State) (n : Nat) (x : Option Partition) : (s.setPart n x).fusion = s.fusion := (rfl)
@[simp] theorem State.setPart_dmcs (s : State) (n : Nat) (x : Option Partition) : (s.setPart n x).dmcs = s.dmcs := (rfl)
@[simp] theorem State.setPart_slc (s : State) (n : Nat) (x : Option Partition) : (s.setPart n x).slc = s.slc := (rfl)
@[simp] theorem State.setPart_slcUses (s : State) (n : Nat) (x : Option Partition) : (s.setPart n x).slcUses = s.slcUses := (rfl)
@[simp] theorem State.setPart_caches (s : State) (n : Nat) (x : Option Partition) : (s.setPart n x).caches = s.caches := (rfl)
@[simp] theorem State.setPart_links (s : State) (n : Nat) (x : Option Partition) : (s.setPart n x).links = s.links := (rfl)
@[simp] theorem State.setPart_linkLost (s : State) (n : Nat) (x : Option Partition) : (s.setPart n x).linkLost = s.linkLost := (rfl)
@[simp] theorem State.setPart_holdWays (s : State) (n : Nat) (x : Option Partition) : (s.setPart n x).holdWays = s.holdWays := (rfl)
@[simp] theorem State.setPart_wheelPos (s : State) (n : Nat) (x : Option Partition) : (s.setPart n x).wheelPos = s.wheelPos := (rfl)
@[simp] theorem State.setPart_wheelRun (s : State) (n : Nat) (x : Option Partition) : (s.setPart n x).wheelRun = s.wheelRun := (rfl)
@[simp] theorem State.setPart_wheelLive (s : State) (n : Nat) (x : Option Partition) : (s.setPart n x).wheelLive = s.wheelLive := (rfl)
@[simp] theorem State.setPart_wheelOut (s : State) (n : Nat) (x : Option Partition) : (s.setPart n x).wheelOut = s.wheelOut := (rfl)
@[simp] theorem State.setPart_channels (s : State) (n : Nat) (x : Option Partition) : (s.setPart n x).channels = s.channels := (rfl)
@[simp] theorem State.setPart_ddrQueue (s : State) (n : Nat) (x : Option Partition) : (s.setPart n x).ddrQueue = s.ddrQueue := (rfl)
@[simp] theorem State.setPart_guardLive (s : State) (n : Nat) (x : Option Partition) : (s.setPart n x).guardLive = s.guardLive := (rfl)
@[simp] theorem State.setPart_guardWait (s : State) (n : Nat) (x : Option Partition) : (s.setPart n x).guardWait = s.guardWait := (rfl)
@[simp] theorem State.setPart_guardSent (s : State) (n : Nat) (x : Option Partition) : (s.setPart n x).guardSent = s.guardSent := (rfl)
@[simp] theorem State.setPart_gq (s : State) (n : Nat) (x : Option Partition) : (s.setPart n x).gq = s.gq := (rfl)
@[simp] theorem State.setPart_gfxRun (s : State) (n : Nat) (x : Option Partition) : (s.setPart n x).gfxRun = s.gfxRun := (rfl)
@[simp] theorem State.setPart_heads (s : State) (n : Nat) (x : Option Partition) : (s.setPart n x).heads = s.heads := (rfl)
@[simp] theorem State.setPart_harts (s : State) (n : Nat) (x : Option Partition) : (s.setPart n x).harts = s.harts := (rfl)
@[simp] theorem State.setPart_heath (s : State) (n : Nat) (x : Option Partition) : (s.setPart n x).heath = s.heath := (rfl)
@[simp] theorem State.setPart_msis (s : State) (n : Nat) (x : Option Partition) : (s.setPart n x).msis = s.msis := (rfl)
@[simp] theorem State.setPart_irqs (s : State) (n : Nat) (x : Option Partition) : (s.setPart n x).irqs = s.irqs := (rfl)
@[simp] theorem State.setPart_irqEn (s : State) (n : Nat) (x : Option Partition) : (s.setPart n x).irqEn = s.irqEn := (rfl)
@[simp] theorem State.setPart_msiDropAt (s : State) (n : Nat) (x : Option Partition) : (s.setPart n x).msiDropAt = s.msiDropAt := (rfl)
@[simp] theorem State.setPart_weirs (s : State) (n : Nat) (x : Option Partition) : (s.setPart n x).weirs = s.weirs := (rfl)
@[simp] theorem State.setPart_semOps (s : State) (n : Nat) (x : Option Partition) : (s.setPart n x).semOps = s.semOps := (rfl)
@[simp] theorem State.setPart_gw (s : State) (n : Nat) (x : Option Partition) : (s.setPart n x).gw = s.gw := (rfl)
@[simp] theorem State.setPart_erm (s : State) (n : Nat) (x : Option Partition) : (s.setPart n x).erm = s.erm := (rfl)
@[simp] theorem State.setPart_errs (s : State) (n : Nat) (x : Option Partition) : (s.setPart n x).errs = s.errs := (rfl)
@[simp] theorem State.setPart_windows (s : State) (n : Nat) (x : Option Partition) : (s.setPart n x).windows = s.windows := (rfl)
@[simp] theorem State.setPart_tests (s : State) (n : Nat) (x : Option Partition) : (s.setPart n x).tests = s.tests := (rfl)
@[simp] theorem State.setPart_fuses (s : State) (n : Nat) (x : Option Partition) : (s.setPart n x).fuses = s.fuses := (rfl)
@[simp] theorem State.setPart_rom (s : State) (n : Nat) (x : Option Partition) : (s.setPart n x).rom = s.rom := (rfl)
@[simp] theorem State.setPart_wdts (s : State) (n : Nat) (x : Option Partition) : (s.setPart n x).wdts = s.wdts := (rfl)
@[simp] theorem State.setPart_cfgMarks (s : State) (n : Nat) (x : Option Partition) : (s.setPart n x).cfgMarks = s.cfgMarks := (rfl)
@[simp] theorem State.setPart_fwlSeq (s : State) (n : Nat) (x : Option Partition) : (s.setPart n x).fwlSeq = s.fwlSeq := (rfl)
@[simp] theorem State.setPart_therm (s : State) (n : Nat) (x : Option Partition) : (s.setPart n x).therm = s.therm := (rfl)
@[simp] theorem State.setPart_pins (s : State) (n : Nat) (x : Option Partition) : (s.setPart n x).pins = s.pins := (rfl)
@[simp] theorem State.setPart_portLinks (s : State) (n : Nat) (x : Option Partition) : (s.setPart n x).portLinks = s.portLinks := (rfl)
@[simp] theorem State.setPart_ticks (s : State) (n : Nat) (x : Option Partition) : (s.setPart n x).ticks = s.ticks := (rfl)

@[simp] theorem State.setStream_pending (s : State) (n : Nat) (x : Stream) : (s.setStream n x).pending = s.pending := (rfl)
@[simp] theorem State.setStream_reply (s : State) (n : Nat) (x : Stream) : (s.setStream n x).reply = s.reply := (rfl)
@[simp] theorem State.setStream_regs (s : State) (n : Nat) (x : Stream) : (s.setStream n x).regs = s.regs := (rfl)
@[simp] theorem State.setStream_mem (s : State) (n : Nat) (x : Stream) : (s.setStream n x).mem = s.mem := (rfl)
@[simp] theorem State.setStream_flash (s : State) (n : Nat) (x : Stream) : (s.setStream n x).flash = s.flash := (rfl)
@[simp] theorem State.setStream_ddrDamage (s : State) (n : Nat) (x : Stream) : (s.setStream n x).ddrDamage = s.ddrDamage := (rfl)
@[simp] theorem State.setStream_sramDamage (s : State) (n : Nat) (x : Stream) : (s.setStream n x).sramDamage = s.sramDamage := (rfl)
@[simp] theorem State.setStream_sramSent (s : State) (n : Nat) (x : Stream) : (s.setStream n x).sramSent = s.sramSent := (rfl)
@[simp] theorem State.setStream_dgkBuilt (s : State) (n : Nat) (x : Stream) : (s.setStream n x).dgkBuilt = s.dgkBuilt := (rfl)
@[simp] theorem State.setStream_iotlb (s : State) (n : Nat) (x : Stream) : (s.setStream n x).iotlb = s.iotlb := (rfl)
@[simp] theorem State.setStream_engines (s : State) (n : Nat) (x : Stream) : (s.setStream n x).engines = s.engines := (rfl)
@[simp] theorem State.setStream_sems (s : State) (n : Nat) (x : Stream) : (s.setStream n x).sems = s.sems := (rfl)
@[simp] theorem State.setStream_ctxs (s : State) (n : Nat) (x : Stream) : (s.setStream n x).ctxs = s.ctxs := (rfl)
@[simp] theorem State.setStream_parts (s : State) (n : Nat) (x : Stream) : (s.setStream n x).parts = s.parts := (rfl)
@[simp] theorem State.setStream_models (s : State) (n : Nat) (x : Stream) : (s.setStream n x).models = s.models := (rfl)
@[simp] theorem State.setStream_jobs (s : State) (n : Nat) (x : Stream) : (s.setStream n x).jobs = s.jobs := (rfl)
@[simp] theorem State.setStream_jobNext (s : State) (n : Nat) (x : Stream) : (s.setStream n x).jobNext = s.jobNext := (rfl)
@[simp] theorem State.setStream_laneLast (s : State) (n : Nat) (x : Stream) : (s.setStream n x).laneLast = s.laneLast := (rfl)
@[simp] theorem State.setStream_turn (s : State) (n : Nat) (x : Stream) : (s.setStream n x).turn = s.turn := (rfl)
@[simp] theorem State.setStream_events (s : State) (n : Nat) (x : Stream) : (s.setStream n x).events = s.events := (rfl)
@[simp] theorem State.setStream_bus (s : State) (n : Nat) (x : Stream) : (s.setStream n x).bus = s.bus := (rfl)
@[simp] theorem State.setStream_tb (s : State) (n : Nat) (x : Stream) : (s.setStream n x).tb = s.tb := (rfl)
@[simp] theorem State.setStream_tt (s : State) (n : Nat) (x : Stream) : (s.setStream n x).tt = s.tt := (rfl)
@[simp] theorem State.setStream_tiles (s : State) (n : Nat) (x : Stream) : (s.setStream n x).tiles = s.tiles := (rfl)
@[simp] theorem State.setStream_csiFill (s : State) (n : Nat) (x : Stream) : (s.setStream n x).csiFill = s.csiFill := (rfl)
@[simp] theorem State.setStream_ssps (s : State) (n : Nat) (x : Stream) : (s.setStream n x).ssps = s.ssps := (rfl)
@[simp] theorem State.setStream_fusion (s : State) (n : Nat) (x : Stream) : (s.setStream n x).fusion = s.fusion := (rfl)
@[simp] theorem State.setStream_dmcs (s : State) (n : Nat) (x : Stream) : (s.setStream n x).dmcs = s.dmcs := (rfl)
@[simp] theorem State.setStream_slc (s : State) (n : Nat) (x : Stream) : (s.setStream n x).slc = s.slc := (rfl)
@[simp] theorem State.setStream_slcUses (s : State) (n : Nat) (x : Stream) : (s.setStream n x).slcUses = s.slcUses := (rfl)
@[simp] theorem State.setStream_caches (s : State) (n : Nat) (x : Stream) : (s.setStream n x).caches = s.caches := (rfl)
@[simp] theorem State.setStream_links (s : State) (n : Nat) (x : Stream) : (s.setStream n x).links = s.links := (rfl)
@[simp] theorem State.setStream_linkLost (s : State) (n : Nat) (x : Stream) : (s.setStream n x).linkLost = s.linkLost := (rfl)
@[simp] theorem State.setStream_holdWays (s : State) (n : Nat) (x : Stream) : (s.setStream n x).holdWays = s.holdWays := (rfl)
@[simp] theorem State.setStream_wheelPos (s : State) (n : Nat) (x : Stream) : (s.setStream n x).wheelPos = s.wheelPos := (rfl)
@[simp] theorem State.setStream_wheelRun (s : State) (n : Nat) (x : Stream) : (s.setStream n x).wheelRun = s.wheelRun := (rfl)
@[simp] theorem State.setStream_wheelLive (s : State) (n : Nat) (x : Stream) : (s.setStream n x).wheelLive = s.wheelLive := (rfl)
@[simp] theorem State.setStream_wheelOut (s : State) (n : Nat) (x : Stream) : (s.setStream n x).wheelOut = s.wheelOut := (rfl)
@[simp] theorem State.setStream_channels (s : State) (n : Nat) (x : Stream) : (s.setStream n x).channels = s.channels := (rfl)
@[simp] theorem State.setStream_ddrQueue (s : State) (n : Nat) (x : Stream) : (s.setStream n x).ddrQueue = s.ddrQueue := (rfl)
@[simp] theorem State.setStream_guardLive (s : State) (n : Nat) (x : Stream) : (s.setStream n x).guardLive = s.guardLive := (rfl)
@[simp] theorem State.setStream_guardWait (s : State) (n : Nat) (x : Stream) : (s.setStream n x).guardWait = s.guardWait := (rfl)
@[simp] theorem State.setStream_guardSent (s : State) (n : Nat) (x : Stream) : (s.setStream n x).guardSent = s.guardSent := (rfl)
@[simp] theorem State.setStream_gq (s : State) (n : Nat) (x : Stream) : (s.setStream n x).gq = s.gq := (rfl)
@[simp] theorem State.setStream_gfxRun (s : State) (n : Nat) (x : Stream) : (s.setStream n x).gfxRun = s.gfxRun := (rfl)
@[simp] theorem State.setStream_heads (s : State) (n : Nat) (x : Stream) : (s.setStream n x).heads = s.heads := (rfl)
@[simp] theorem State.setStream_harts (s : State) (n : Nat) (x : Stream) : (s.setStream n x).harts = s.harts := (rfl)
@[simp] theorem State.setStream_heath (s : State) (n : Nat) (x : Stream) : (s.setStream n x).heath = s.heath := (rfl)
@[simp] theorem State.setStream_msis (s : State) (n : Nat) (x : Stream) : (s.setStream n x).msis = s.msis := (rfl)
@[simp] theorem State.setStream_irqs (s : State) (n : Nat) (x : Stream) : (s.setStream n x).irqs = s.irqs := (rfl)
@[simp] theorem State.setStream_irqEn (s : State) (n : Nat) (x : Stream) : (s.setStream n x).irqEn = s.irqEn := (rfl)
@[simp] theorem State.setStream_msiDropAt (s : State) (n : Nat) (x : Stream) : (s.setStream n x).msiDropAt = s.msiDropAt := (rfl)
@[simp] theorem State.setStream_weirs (s : State) (n : Nat) (x : Stream) : (s.setStream n x).weirs = s.weirs := (rfl)
@[simp] theorem State.setStream_semOps (s : State) (n : Nat) (x : Stream) : (s.setStream n x).semOps = s.semOps := (rfl)
@[simp] theorem State.setStream_gw (s : State) (n : Nat) (x : Stream) : (s.setStream n x).gw = s.gw := (rfl)
@[simp] theorem State.setStream_erm (s : State) (n : Nat) (x : Stream) : (s.setStream n x).erm = s.erm := (rfl)
@[simp] theorem State.setStream_errs (s : State) (n : Nat) (x : Stream) : (s.setStream n x).errs = s.errs := (rfl)
@[simp] theorem State.setStream_windows (s : State) (n : Nat) (x : Stream) : (s.setStream n x).windows = s.windows := (rfl)
@[simp] theorem State.setStream_tests (s : State) (n : Nat) (x : Stream) : (s.setStream n x).tests = s.tests := (rfl)
@[simp] theorem State.setStream_fuses (s : State) (n : Nat) (x : Stream) : (s.setStream n x).fuses = s.fuses := (rfl)
@[simp] theorem State.setStream_rom (s : State) (n : Nat) (x : Stream) : (s.setStream n x).rom = s.rom := (rfl)
@[simp] theorem State.setStream_wdts (s : State) (n : Nat) (x : Stream) : (s.setStream n x).wdts = s.wdts := (rfl)
@[simp] theorem State.setStream_cfgMarks (s : State) (n : Nat) (x : Stream) : (s.setStream n x).cfgMarks = s.cfgMarks := (rfl)
@[simp] theorem State.setStream_fwlSeq (s : State) (n : Nat) (x : Stream) : (s.setStream n x).fwlSeq = s.fwlSeq := (rfl)
@[simp] theorem State.setStream_therm (s : State) (n : Nat) (x : Stream) : (s.setStream n x).therm = s.therm := (rfl)
@[simp] theorem State.setStream_pins (s : State) (n : Nat) (x : Stream) : (s.setStream n x).pins = s.pins := (rfl)
@[simp] theorem State.setStream_portLinks (s : State) (n : Nat) (x : Stream) : (s.setStream n x).portLinks = s.portLinks := (rfl)
@[simp] theorem State.setStream_ticks (s : State) (n : Nat) (x : Stream) : (s.setStream n x).ticks = s.ticks := (rfl)

@[simp] theorem State.setSsp_pending (s : State) (n : Nat) (x : SspPort) : (s.setSsp n x).pending = s.pending := (rfl)
@[simp] theorem State.setSsp_reply (s : State) (n : Nat) (x : SspPort) : (s.setSsp n x).reply = s.reply := (rfl)
@[simp] theorem State.setSsp_regs (s : State) (n : Nat) (x : SspPort) : (s.setSsp n x).regs = s.regs := (rfl)
@[simp] theorem State.setSsp_mem (s : State) (n : Nat) (x : SspPort) : (s.setSsp n x).mem = s.mem := (rfl)
@[simp] theorem State.setSsp_flash (s : State) (n : Nat) (x : SspPort) : (s.setSsp n x).flash = s.flash := (rfl)
@[simp] theorem State.setSsp_ddrDamage (s : State) (n : Nat) (x : SspPort) : (s.setSsp n x).ddrDamage = s.ddrDamage := (rfl)
@[simp] theorem State.setSsp_sramDamage (s : State) (n : Nat) (x : SspPort) : (s.setSsp n x).sramDamage = s.sramDamage := (rfl)
@[simp] theorem State.setSsp_sramSent (s : State) (n : Nat) (x : SspPort) : (s.setSsp n x).sramSent = s.sramSent := (rfl)
@[simp] theorem State.setSsp_dgkBuilt (s : State) (n : Nat) (x : SspPort) : (s.setSsp n x).dgkBuilt = s.dgkBuilt := (rfl)
@[simp] theorem State.setSsp_iotlb (s : State) (n : Nat) (x : SspPort) : (s.setSsp n x).iotlb = s.iotlb := (rfl)
@[simp] theorem State.setSsp_engines (s : State) (n : Nat) (x : SspPort) : (s.setSsp n x).engines = s.engines := (rfl)
@[simp] theorem State.setSsp_sems (s : State) (n : Nat) (x : SspPort) : (s.setSsp n x).sems = s.sems := (rfl)
@[simp] theorem State.setSsp_ctxs (s : State) (n : Nat) (x : SspPort) : (s.setSsp n x).ctxs = s.ctxs := (rfl)
@[simp] theorem State.setSsp_parts (s : State) (n : Nat) (x : SspPort) : (s.setSsp n x).parts = s.parts := (rfl)
@[simp] theorem State.setSsp_models (s : State) (n : Nat) (x : SspPort) : (s.setSsp n x).models = s.models := (rfl)
@[simp] theorem State.setSsp_jobs (s : State) (n : Nat) (x : SspPort) : (s.setSsp n x).jobs = s.jobs := (rfl)
@[simp] theorem State.setSsp_jobNext (s : State) (n : Nat) (x : SspPort) : (s.setSsp n x).jobNext = s.jobNext := (rfl)
@[simp] theorem State.setSsp_laneLast (s : State) (n : Nat) (x : SspPort) : (s.setSsp n x).laneLast = s.laneLast := (rfl)
@[simp] theorem State.setSsp_turn (s : State) (n : Nat) (x : SspPort) : (s.setSsp n x).turn = s.turn := (rfl)
@[simp] theorem State.setSsp_events (s : State) (n : Nat) (x : SspPort) : (s.setSsp n x).events = s.events := (rfl)
@[simp] theorem State.setSsp_bus (s : State) (n : Nat) (x : SspPort) : (s.setSsp n x).bus = s.bus := (rfl)
@[simp] theorem State.setSsp_tb (s : State) (n : Nat) (x : SspPort) : (s.setSsp n x).tb = s.tb := (rfl)
@[simp] theorem State.setSsp_tt (s : State) (n : Nat) (x : SspPort) : (s.setSsp n x).tt = s.tt := (rfl)
@[simp] theorem State.setSsp_streams (s : State) (n : Nat) (x : SspPort) : (s.setSsp n x).streams = s.streams := (rfl)
@[simp] theorem State.setSsp_tiles (s : State) (n : Nat) (x : SspPort) : (s.setSsp n x).tiles = s.tiles := (rfl)
@[simp] theorem State.setSsp_csiFill (s : State) (n : Nat) (x : SspPort) : (s.setSsp n x).csiFill = s.csiFill := (rfl)
@[simp] theorem State.setSsp_fusion (s : State) (n : Nat) (x : SspPort) : (s.setSsp n x).fusion = s.fusion := (rfl)
@[simp] theorem State.setSsp_dmcs (s : State) (n : Nat) (x : SspPort) : (s.setSsp n x).dmcs = s.dmcs := (rfl)
@[simp] theorem State.setSsp_slc (s : State) (n : Nat) (x : SspPort) : (s.setSsp n x).slc = s.slc := (rfl)
@[simp] theorem State.setSsp_slcUses (s : State) (n : Nat) (x : SspPort) : (s.setSsp n x).slcUses = s.slcUses := (rfl)
@[simp] theorem State.setSsp_caches (s : State) (n : Nat) (x : SspPort) : (s.setSsp n x).caches = s.caches := (rfl)
@[simp] theorem State.setSsp_links (s : State) (n : Nat) (x : SspPort) : (s.setSsp n x).links = s.links := (rfl)
@[simp] theorem State.setSsp_linkLost (s : State) (n : Nat) (x : SspPort) : (s.setSsp n x).linkLost = s.linkLost := (rfl)
@[simp] theorem State.setSsp_holdWays (s : State) (n : Nat) (x : SspPort) : (s.setSsp n x).holdWays = s.holdWays := (rfl)
@[simp] theorem State.setSsp_wheelPos (s : State) (n : Nat) (x : SspPort) : (s.setSsp n x).wheelPos = s.wheelPos := (rfl)
@[simp] theorem State.setSsp_wheelRun (s : State) (n : Nat) (x : SspPort) : (s.setSsp n x).wheelRun = s.wheelRun := (rfl)
@[simp] theorem State.setSsp_wheelLive (s : State) (n : Nat) (x : SspPort) : (s.setSsp n x).wheelLive = s.wheelLive := (rfl)
@[simp] theorem State.setSsp_wheelOut (s : State) (n : Nat) (x : SspPort) : (s.setSsp n x).wheelOut = s.wheelOut := (rfl)
@[simp] theorem State.setSsp_channels (s : State) (n : Nat) (x : SspPort) : (s.setSsp n x).channels = s.channels := (rfl)
@[simp] theorem State.setSsp_ddrQueue (s : State) (n : Nat) (x : SspPort) : (s.setSsp n x).ddrQueue = s.ddrQueue := (rfl)
@[simp] theorem State.setSsp_guardLive (s : State) (n : Nat) (x : SspPort) : (s.setSsp n x).guardLive = s.guardLive := (rfl)
@[simp] theorem State.setSsp_guardWait (s : State) (n : Nat) (x : SspPort) : (s.setSsp n x).guardWait = s.guardWait := (rfl)
@[simp] theorem State.setSsp_guardSent (s : State) (n : Nat) (x : SspPort) : (s.setSsp n x).guardSent = s.guardSent := (rfl)
@[simp] theorem State.setSsp_gq (s : State) (n : Nat) (x : SspPort) : (s.setSsp n x).gq = s.gq := (rfl)
@[simp] theorem State.setSsp_gfxRun (s : State) (n : Nat) (x : SspPort) : (s.setSsp n x).gfxRun = s.gfxRun := (rfl)
@[simp] theorem State.setSsp_heads (s : State) (n : Nat) (x : SspPort) : (s.setSsp n x).heads = s.heads := (rfl)
@[simp] theorem State.setSsp_harts (s : State) (n : Nat) (x : SspPort) : (s.setSsp n x).harts = s.harts := (rfl)
@[simp] theorem State.setSsp_heath (s : State) (n : Nat) (x : SspPort) : (s.setSsp n x).heath = s.heath := (rfl)
@[simp] theorem State.setSsp_msis (s : State) (n : Nat) (x : SspPort) : (s.setSsp n x).msis = s.msis := (rfl)
@[simp] theorem State.setSsp_irqs (s : State) (n : Nat) (x : SspPort) : (s.setSsp n x).irqs = s.irqs := (rfl)
@[simp] theorem State.setSsp_irqEn (s : State) (n : Nat) (x : SspPort) : (s.setSsp n x).irqEn = s.irqEn := (rfl)
@[simp] theorem State.setSsp_msiDropAt (s : State) (n : Nat) (x : SspPort) : (s.setSsp n x).msiDropAt = s.msiDropAt := (rfl)
@[simp] theorem State.setSsp_weirs (s : State) (n : Nat) (x : SspPort) : (s.setSsp n x).weirs = s.weirs := (rfl)
@[simp] theorem State.setSsp_semOps (s : State) (n : Nat) (x : SspPort) : (s.setSsp n x).semOps = s.semOps := (rfl)
@[simp] theorem State.setSsp_gw (s : State) (n : Nat) (x : SspPort) : (s.setSsp n x).gw = s.gw := (rfl)
@[simp] theorem State.setSsp_erm (s : State) (n : Nat) (x : SspPort) : (s.setSsp n x).erm = s.erm := (rfl)
@[simp] theorem State.setSsp_errs (s : State) (n : Nat) (x : SspPort) : (s.setSsp n x).errs = s.errs := (rfl)
@[simp] theorem State.setSsp_windows (s : State) (n : Nat) (x : SspPort) : (s.setSsp n x).windows = s.windows := (rfl)
@[simp] theorem State.setSsp_tests (s : State) (n : Nat) (x : SspPort) : (s.setSsp n x).tests = s.tests := (rfl)
@[simp] theorem State.setSsp_fuses (s : State) (n : Nat) (x : SspPort) : (s.setSsp n x).fuses = s.fuses := (rfl)
@[simp] theorem State.setSsp_rom (s : State) (n : Nat) (x : SspPort) : (s.setSsp n x).rom = s.rom := (rfl)
@[simp] theorem State.setSsp_wdts (s : State) (n : Nat) (x : SspPort) : (s.setSsp n x).wdts = s.wdts := (rfl)
@[simp] theorem State.setSsp_cfgMarks (s : State) (n : Nat) (x : SspPort) : (s.setSsp n x).cfgMarks = s.cfgMarks := (rfl)
@[simp] theorem State.setSsp_fwlSeq (s : State) (n : Nat) (x : SspPort) : (s.setSsp n x).fwlSeq = s.fwlSeq := (rfl)
@[simp] theorem State.setSsp_therm (s : State) (n : Nat) (x : SspPort) : (s.setSsp n x).therm = s.therm := (rfl)
@[simp] theorem State.setSsp_pins (s : State) (n : Nat) (x : SspPort) : (s.setSsp n x).pins = s.pins := (rfl)
@[simp] theorem State.setSsp_portLinks (s : State) (n : Nat) (x : SspPort) : (s.setSsp n x).portLinks = s.portLinks := (rfl)
@[simp] theorem State.setSsp_ticks (s : State) (n : Nat) (x : SspPort) : (s.setSsp n x).ticks = s.ticks := (rfl)

@[simp] theorem State.setDmc_pending (s : State) (n : Nat) (x : Dmc) : (s.setDmc n x).pending = s.pending := (rfl)
@[simp] theorem State.setDmc_reply (s : State) (n : Nat) (x : Dmc) : (s.setDmc n x).reply = s.reply := (rfl)
@[simp] theorem State.setDmc_regs (s : State) (n : Nat) (x : Dmc) : (s.setDmc n x).regs = s.regs := (rfl)
@[simp] theorem State.setDmc_mem (s : State) (n : Nat) (x : Dmc) : (s.setDmc n x).mem = s.mem := (rfl)
@[simp] theorem State.setDmc_flash (s : State) (n : Nat) (x : Dmc) : (s.setDmc n x).flash = s.flash := (rfl)
@[simp] theorem State.setDmc_ddrDamage (s : State) (n : Nat) (x : Dmc) : (s.setDmc n x).ddrDamage = s.ddrDamage := (rfl)
@[simp] theorem State.setDmc_sramDamage (s : State) (n : Nat) (x : Dmc) : (s.setDmc n x).sramDamage = s.sramDamage := (rfl)
@[simp] theorem State.setDmc_sramSent (s : State) (n : Nat) (x : Dmc) : (s.setDmc n x).sramSent = s.sramSent := (rfl)
@[simp] theorem State.setDmc_dgkBuilt (s : State) (n : Nat) (x : Dmc) : (s.setDmc n x).dgkBuilt = s.dgkBuilt := (rfl)
@[simp] theorem State.setDmc_iotlb (s : State) (n : Nat) (x : Dmc) : (s.setDmc n x).iotlb = s.iotlb := (rfl)
@[simp] theorem State.setDmc_engines (s : State) (n : Nat) (x : Dmc) : (s.setDmc n x).engines = s.engines := (rfl)
@[simp] theorem State.setDmc_sems (s : State) (n : Nat) (x : Dmc) : (s.setDmc n x).sems = s.sems := (rfl)
@[simp] theorem State.setDmc_ctxs (s : State) (n : Nat) (x : Dmc) : (s.setDmc n x).ctxs = s.ctxs := (rfl)
@[simp] theorem State.setDmc_parts (s : State) (n : Nat) (x : Dmc) : (s.setDmc n x).parts = s.parts := (rfl)
@[simp] theorem State.setDmc_models (s : State) (n : Nat) (x : Dmc) : (s.setDmc n x).models = s.models := (rfl)
@[simp] theorem State.setDmc_jobs (s : State) (n : Nat) (x : Dmc) : (s.setDmc n x).jobs = s.jobs := (rfl)
@[simp] theorem State.setDmc_jobNext (s : State) (n : Nat) (x : Dmc) : (s.setDmc n x).jobNext = s.jobNext := (rfl)
@[simp] theorem State.setDmc_laneLast (s : State) (n : Nat) (x : Dmc) : (s.setDmc n x).laneLast = s.laneLast := (rfl)
@[simp] theorem State.setDmc_turn (s : State) (n : Nat) (x : Dmc) : (s.setDmc n x).turn = s.turn := (rfl)
@[simp] theorem State.setDmc_events (s : State) (n : Nat) (x : Dmc) : (s.setDmc n x).events = s.events := (rfl)
@[simp] theorem State.setDmc_bus (s : State) (n : Nat) (x : Dmc) : (s.setDmc n x).bus = s.bus := (rfl)
@[simp] theorem State.setDmc_tb (s : State) (n : Nat) (x : Dmc) : (s.setDmc n x).tb = s.tb := (rfl)
@[simp] theorem State.setDmc_tt (s : State) (n : Nat) (x : Dmc) : (s.setDmc n x).tt = s.tt := (rfl)
@[simp] theorem State.setDmc_streams (s : State) (n : Nat) (x : Dmc) : (s.setDmc n x).streams = s.streams := (rfl)
@[simp] theorem State.setDmc_tiles (s : State) (n : Nat) (x : Dmc) : (s.setDmc n x).tiles = s.tiles := (rfl)
@[simp] theorem State.setDmc_csiFill (s : State) (n : Nat) (x : Dmc) : (s.setDmc n x).csiFill = s.csiFill := (rfl)
@[simp] theorem State.setDmc_ssps (s : State) (n : Nat) (x : Dmc) : (s.setDmc n x).ssps = s.ssps := (rfl)
@[simp] theorem State.setDmc_fusion (s : State) (n : Nat) (x : Dmc) : (s.setDmc n x).fusion = s.fusion := (rfl)
@[simp] theorem State.setDmc_slc (s : State) (n : Nat) (x : Dmc) : (s.setDmc n x).slc = s.slc := (rfl)
@[simp] theorem State.setDmc_slcUses (s : State) (n : Nat) (x : Dmc) : (s.setDmc n x).slcUses = s.slcUses := (rfl)
@[simp] theorem State.setDmc_caches (s : State) (n : Nat) (x : Dmc) : (s.setDmc n x).caches = s.caches := (rfl)
@[simp] theorem State.setDmc_links (s : State) (n : Nat) (x : Dmc) : (s.setDmc n x).links = s.links := (rfl)
@[simp] theorem State.setDmc_linkLost (s : State) (n : Nat) (x : Dmc) : (s.setDmc n x).linkLost = s.linkLost := (rfl)
@[simp] theorem State.setDmc_holdWays (s : State) (n : Nat) (x : Dmc) : (s.setDmc n x).holdWays = s.holdWays := (rfl)
@[simp] theorem State.setDmc_wheelPos (s : State) (n : Nat) (x : Dmc) : (s.setDmc n x).wheelPos = s.wheelPos := (rfl)
@[simp] theorem State.setDmc_wheelRun (s : State) (n : Nat) (x : Dmc) : (s.setDmc n x).wheelRun = s.wheelRun := (rfl)
@[simp] theorem State.setDmc_wheelLive (s : State) (n : Nat) (x : Dmc) : (s.setDmc n x).wheelLive = s.wheelLive := (rfl)
@[simp] theorem State.setDmc_wheelOut (s : State) (n : Nat) (x : Dmc) : (s.setDmc n x).wheelOut = s.wheelOut := (rfl)
@[simp] theorem State.setDmc_channels (s : State) (n : Nat) (x : Dmc) : (s.setDmc n x).channels = s.channels := (rfl)
@[simp] theorem State.setDmc_ddrQueue (s : State) (n : Nat) (x : Dmc) : (s.setDmc n x).ddrQueue = s.ddrQueue := (rfl)
@[simp] theorem State.setDmc_guardLive (s : State) (n : Nat) (x : Dmc) : (s.setDmc n x).guardLive = s.guardLive := (rfl)
@[simp] theorem State.setDmc_guardWait (s : State) (n : Nat) (x : Dmc) : (s.setDmc n x).guardWait = s.guardWait := (rfl)
@[simp] theorem State.setDmc_guardSent (s : State) (n : Nat) (x : Dmc) : (s.setDmc n x).guardSent = s.guardSent := (rfl)
@[simp] theorem State.setDmc_gq (s : State) (n : Nat) (x : Dmc) : (s.setDmc n x).gq = s.gq := (rfl)
@[simp] theorem State.setDmc_gfxRun (s : State) (n : Nat) (x : Dmc) : (s.setDmc n x).gfxRun = s.gfxRun := (rfl)
@[simp] theorem State.setDmc_heads (s : State) (n : Nat) (x : Dmc) : (s.setDmc n x).heads = s.heads := (rfl)
@[simp] theorem State.setDmc_harts (s : State) (n : Nat) (x : Dmc) : (s.setDmc n x).harts = s.harts := (rfl)
@[simp] theorem State.setDmc_heath (s : State) (n : Nat) (x : Dmc) : (s.setDmc n x).heath = s.heath := (rfl)
@[simp] theorem State.setDmc_msis (s : State) (n : Nat) (x : Dmc) : (s.setDmc n x).msis = s.msis := (rfl)
@[simp] theorem State.setDmc_irqs (s : State) (n : Nat) (x : Dmc) : (s.setDmc n x).irqs = s.irqs := (rfl)
@[simp] theorem State.setDmc_irqEn (s : State) (n : Nat) (x : Dmc) : (s.setDmc n x).irqEn = s.irqEn := (rfl)
@[simp] theorem State.setDmc_msiDropAt (s : State) (n : Nat) (x : Dmc) : (s.setDmc n x).msiDropAt = s.msiDropAt := (rfl)
@[simp] theorem State.setDmc_weirs (s : State) (n : Nat) (x : Dmc) : (s.setDmc n x).weirs = s.weirs := (rfl)
@[simp] theorem State.setDmc_semOps (s : State) (n : Nat) (x : Dmc) : (s.setDmc n x).semOps = s.semOps := (rfl)
@[simp] theorem State.setDmc_gw (s : State) (n : Nat) (x : Dmc) : (s.setDmc n x).gw = s.gw := (rfl)
@[simp] theorem State.setDmc_erm (s : State) (n : Nat) (x : Dmc) : (s.setDmc n x).erm = s.erm := (rfl)
@[simp] theorem State.setDmc_errs (s : State) (n : Nat) (x : Dmc) : (s.setDmc n x).errs = s.errs := (rfl)
@[simp] theorem State.setDmc_windows (s : State) (n : Nat) (x : Dmc) : (s.setDmc n x).windows = s.windows := (rfl)
@[simp] theorem State.setDmc_tests (s : State) (n : Nat) (x : Dmc) : (s.setDmc n x).tests = s.tests := (rfl)
@[simp] theorem State.setDmc_fuses (s : State) (n : Nat) (x : Dmc) : (s.setDmc n x).fuses = s.fuses := (rfl)
@[simp] theorem State.setDmc_rom (s : State) (n : Nat) (x : Dmc) : (s.setDmc n x).rom = s.rom := (rfl)
@[simp] theorem State.setDmc_wdts (s : State) (n : Nat) (x : Dmc) : (s.setDmc n x).wdts = s.wdts := (rfl)
@[simp] theorem State.setDmc_cfgMarks (s : State) (n : Nat) (x : Dmc) : (s.setDmc n x).cfgMarks = s.cfgMarks := (rfl)
@[simp] theorem State.setDmc_fwlSeq (s : State) (n : Nat) (x : Dmc) : (s.setDmc n x).fwlSeq = s.fwlSeq := (rfl)
@[simp] theorem State.setDmc_therm (s : State) (n : Nat) (x : Dmc) : (s.setDmc n x).therm = s.therm := (rfl)
@[simp] theorem State.setDmc_pins (s : State) (n : Nat) (x : Dmc) : (s.setDmc n x).pins = s.pins := (rfl)
@[simp] theorem State.setDmc_portLinks (s : State) (n : Nat) (x : Dmc) : (s.setDmc n x).portLinks = s.portLinks := (rfl)
@[simp] theorem State.setDmc_ticks (s : State) (n : Nat) (x : Dmc) : (s.setDmc n x).ticks = s.ticks := (rfl)

@[simp] theorem State.setGfxQueue_pending (s : State) (n : Nat) (x : GfxQueue) : (s.setGfxQueue n x).pending = s.pending := (rfl)
@[simp] theorem State.setGfxQueue_reply (s : State) (n : Nat) (x : GfxQueue) : (s.setGfxQueue n x).reply = s.reply := (rfl)
@[simp] theorem State.setGfxQueue_regs (s : State) (n : Nat) (x : GfxQueue) : (s.setGfxQueue n x).regs = s.regs := (rfl)
@[simp] theorem State.setGfxQueue_mem (s : State) (n : Nat) (x : GfxQueue) : (s.setGfxQueue n x).mem = s.mem := (rfl)
@[simp] theorem State.setGfxQueue_flash (s : State) (n : Nat) (x : GfxQueue) : (s.setGfxQueue n x).flash = s.flash := (rfl)
@[simp] theorem State.setGfxQueue_ddrDamage (s : State) (n : Nat) (x : GfxQueue) : (s.setGfxQueue n x).ddrDamage = s.ddrDamage := (rfl)
@[simp] theorem State.setGfxQueue_sramDamage (s : State) (n : Nat) (x : GfxQueue) : (s.setGfxQueue n x).sramDamage = s.sramDamage := (rfl)
@[simp] theorem State.setGfxQueue_sramSent (s : State) (n : Nat) (x : GfxQueue) : (s.setGfxQueue n x).sramSent = s.sramSent := (rfl)
@[simp] theorem State.setGfxQueue_dgkBuilt (s : State) (n : Nat) (x : GfxQueue) : (s.setGfxQueue n x).dgkBuilt = s.dgkBuilt := (rfl)
@[simp] theorem State.setGfxQueue_iotlb (s : State) (n : Nat) (x : GfxQueue) : (s.setGfxQueue n x).iotlb = s.iotlb := (rfl)
@[simp] theorem State.setGfxQueue_engines (s : State) (n : Nat) (x : GfxQueue) : (s.setGfxQueue n x).engines = s.engines := (rfl)
@[simp] theorem State.setGfxQueue_sems (s : State) (n : Nat) (x : GfxQueue) : (s.setGfxQueue n x).sems = s.sems := (rfl)
@[simp] theorem State.setGfxQueue_ctxs (s : State) (n : Nat) (x : GfxQueue) : (s.setGfxQueue n x).ctxs = s.ctxs := (rfl)
@[simp] theorem State.setGfxQueue_parts (s : State) (n : Nat) (x : GfxQueue) : (s.setGfxQueue n x).parts = s.parts := (rfl)
@[simp] theorem State.setGfxQueue_models (s : State) (n : Nat) (x : GfxQueue) : (s.setGfxQueue n x).models = s.models := (rfl)
@[simp] theorem State.setGfxQueue_jobs (s : State) (n : Nat) (x : GfxQueue) : (s.setGfxQueue n x).jobs = s.jobs := (rfl)
@[simp] theorem State.setGfxQueue_jobNext (s : State) (n : Nat) (x : GfxQueue) : (s.setGfxQueue n x).jobNext = s.jobNext := (rfl)
@[simp] theorem State.setGfxQueue_laneLast (s : State) (n : Nat) (x : GfxQueue) : (s.setGfxQueue n x).laneLast = s.laneLast := (rfl)
@[simp] theorem State.setGfxQueue_turn (s : State) (n : Nat) (x : GfxQueue) : (s.setGfxQueue n x).turn = s.turn := (rfl)
@[simp] theorem State.setGfxQueue_events (s : State) (n : Nat) (x : GfxQueue) : (s.setGfxQueue n x).events = s.events := (rfl)
@[simp] theorem State.setGfxQueue_bus (s : State) (n : Nat) (x : GfxQueue) : (s.setGfxQueue n x).bus = s.bus := (rfl)
@[simp] theorem State.setGfxQueue_tb (s : State) (n : Nat) (x : GfxQueue) : (s.setGfxQueue n x).tb = s.tb := (rfl)
@[simp] theorem State.setGfxQueue_tt (s : State) (n : Nat) (x : GfxQueue) : (s.setGfxQueue n x).tt = s.tt := (rfl)
@[simp] theorem State.setGfxQueue_streams (s : State) (n : Nat) (x : GfxQueue) : (s.setGfxQueue n x).streams = s.streams := (rfl)
@[simp] theorem State.setGfxQueue_tiles (s : State) (n : Nat) (x : GfxQueue) : (s.setGfxQueue n x).tiles = s.tiles := (rfl)
@[simp] theorem State.setGfxQueue_csiFill (s : State) (n : Nat) (x : GfxQueue) : (s.setGfxQueue n x).csiFill = s.csiFill := (rfl)
@[simp] theorem State.setGfxQueue_ssps (s : State) (n : Nat) (x : GfxQueue) : (s.setGfxQueue n x).ssps = s.ssps := (rfl)
@[simp] theorem State.setGfxQueue_fusion (s : State) (n : Nat) (x : GfxQueue) : (s.setGfxQueue n x).fusion = s.fusion := (rfl)
@[simp] theorem State.setGfxQueue_dmcs (s : State) (n : Nat) (x : GfxQueue) : (s.setGfxQueue n x).dmcs = s.dmcs := (rfl)
@[simp] theorem State.setGfxQueue_slc (s : State) (n : Nat) (x : GfxQueue) : (s.setGfxQueue n x).slc = s.slc := (rfl)
@[simp] theorem State.setGfxQueue_slcUses (s : State) (n : Nat) (x : GfxQueue) : (s.setGfxQueue n x).slcUses = s.slcUses := (rfl)
@[simp] theorem State.setGfxQueue_caches (s : State) (n : Nat) (x : GfxQueue) : (s.setGfxQueue n x).caches = s.caches := (rfl)
@[simp] theorem State.setGfxQueue_links (s : State) (n : Nat) (x : GfxQueue) : (s.setGfxQueue n x).links = s.links := (rfl)
@[simp] theorem State.setGfxQueue_linkLost (s : State) (n : Nat) (x : GfxQueue) : (s.setGfxQueue n x).linkLost = s.linkLost := (rfl)
@[simp] theorem State.setGfxQueue_holdWays (s : State) (n : Nat) (x : GfxQueue) : (s.setGfxQueue n x).holdWays = s.holdWays := (rfl)
@[simp] theorem State.setGfxQueue_wheelPos (s : State) (n : Nat) (x : GfxQueue) : (s.setGfxQueue n x).wheelPos = s.wheelPos := (rfl)
@[simp] theorem State.setGfxQueue_wheelRun (s : State) (n : Nat) (x : GfxQueue) : (s.setGfxQueue n x).wheelRun = s.wheelRun := (rfl)
@[simp] theorem State.setGfxQueue_wheelLive (s : State) (n : Nat) (x : GfxQueue) : (s.setGfxQueue n x).wheelLive = s.wheelLive := (rfl)
@[simp] theorem State.setGfxQueue_wheelOut (s : State) (n : Nat) (x : GfxQueue) : (s.setGfxQueue n x).wheelOut = s.wheelOut := (rfl)
@[simp] theorem State.setGfxQueue_channels (s : State) (n : Nat) (x : GfxQueue) : (s.setGfxQueue n x).channels = s.channels := (rfl)
@[simp] theorem State.setGfxQueue_ddrQueue (s : State) (n : Nat) (x : GfxQueue) : (s.setGfxQueue n x).ddrQueue = s.ddrQueue := (rfl)
@[simp] theorem State.setGfxQueue_guardLive (s : State) (n : Nat) (x : GfxQueue) : (s.setGfxQueue n x).guardLive = s.guardLive := (rfl)
@[simp] theorem State.setGfxQueue_guardWait (s : State) (n : Nat) (x : GfxQueue) : (s.setGfxQueue n x).guardWait = s.guardWait := (rfl)
@[simp] theorem State.setGfxQueue_guardSent (s : State) (n : Nat) (x : GfxQueue) : (s.setGfxQueue n x).guardSent = s.guardSent := (rfl)
@[simp] theorem State.setGfxQueue_gfxRun (s : State) (n : Nat) (x : GfxQueue) : (s.setGfxQueue n x).gfxRun = s.gfxRun := (rfl)
@[simp] theorem State.setGfxQueue_heads (s : State) (n : Nat) (x : GfxQueue) : (s.setGfxQueue n x).heads = s.heads := (rfl)
@[simp] theorem State.setGfxQueue_harts (s : State) (n : Nat) (x : GfxQueue) : (s.setGfxQueue n x).harts = s.harts := (rfl)
@[simp] theorem State.setGfxQueue_heath (s : State) (n : Nat) (x : GfxQueue) : (s.setGfxQueue n x).heath = s.heath := (rfl)
@[simp] theorem State.setGfxQueue_msis (s : State) (n : Nat) (x : GfxQueue) : (s.setGfxQueue n x).msis = s.msis := (rfl)
@[simp] theorem State.setGfxQueue_irqs (s : State) (n : Nat) (x : GfxQueue) : (s.setGfxQueue n x).irqs = s.irqs := (rfl)
@[simp] theorem State.setGfxQueue_irqEn (s : State) (n : Nat) (x : GfxQueue) : (s.setGfxQueue n x).irqEn = s.irqEn := (rfl)
@[simp] theorem State.setGfxQueue_msiDropAt (s : State) (n : Nat) (x : GfxQueue) : (s.setGfxQueue n x).msiDropAt = s.msiDropAt := (rfl)
@[simp] theorem State.setGfxQueue_weirs (s : State) (n : Nat) (x : GfxQueue) : (s.setGfxQueue n x).weirs = s.weirs := (rfl)
@[simp] theorem State.setGfxQueue_semOps (s : State) (n : Nat) (x : GfxQueue) : (s.setGfxQueue n x).semOps = s.semOps := (rfl)
@[simp] theorem State.setGfxQueue_gw (s : State) (n : Nat) (x : GfxQueue) : (s.setGfxQueue n x).gw = s.gw := (rfl)
@[simp] theorem State.setGfxQueue_erm (s : State) (n : Nat) (x : GfxQueue) : (s.setGfxQueue n x).erm = s.erm := (rfl)
@[simp] theorem State.setGfxQueue_errs (s : State) (n : Nat) (x : GfxQueue) : (s.setGfxQueue n x).errs = s.errs := (rfl)
@[simp] theorem State.setGfxQueue_windows (s : State) (n : Nat) (x : GfxQueue) : (s.setGfxQueue n x).windows = s.windows := (rfl)
@[simp] theorem State.setGfxQueue_tests (s : State) (n : Nat) (x : GfxQueue) : (s.setGfxQueue n x).tests = s.tests := (rfl)
@[simp] theorem State.setGfxQueue_fuses (s : State) (n : Nat) (x : GfxQueue) : (s.setGfxQueue n x).fuses = s.fuses := (rfl)
@[simp] theorem State.setGfxQueue_rom (s : State) (n : Nat) (x : GfxQueue) : (s.setGfxQueue n x).rom = s.rom := (rfl)
@[simp] theorem State.setGfxQueue_wdts (s : State) (n : Nat) (x : GfxQueue) : (s.setGfxQueue n x).wdts = s.wdts := (rfl)
@[simp] theorem State.setGfxQueue_cfgMarks (s : State) (n : Nat) (x : GfxQueue) : (s.setGfxQueue n x).cfgMarks = s.cfgMarks := (rfl)
@[simp] theorem State.setGfxQueue_fwlSeq (s : State) (n : Nat) (x : GfxQueue) : (s.setGfxQueue n x).fwlSeq = s.fwlSeq := (rfl)
@[simp] theorem State.setGfxQueue_therm (s : State) (n : Nat) (x : GfxQueue) : (s.setGfxQueue n x).therm = s.therm := (rfl)
@[simp] theorem State.setGfxQueue_pins (s : State) (n : Nat) (x : GfxQueue) : (s.setGfxQueue n x).pins = s.pins := (rfl)
@[simp] theorem State.setGfxQueue_portLinks (s : State) (n : Nat) (x : GfxQueue) : (s.setGfxQueue n x).portLinks = s.portLinks := (rfl)
@[simp] theorem State.setGfxQueue_ticks (s : State) (n : Nat) (x : GfxQueue) : (s.setGfxQueue n x).ticks = s.ticks := (rfl)

@[simp] theorem State.setHead_pending (s : State) (n : Nat) (x : Head) : (s.setHead n x).pending = s.pending := (rfl)
@[simp] theorem State.setHead_reply (s : State) (n : Nat) (x : Head) : (s.setHead n x).reply = s.reply := (rfl)
@[simp] theorem State.setHead_regs (s : State) (n : Nat) (x : Head) : (s.setHead n x).regs = s.regs := (rfl)
@[simp] theorem State.setHead_mem (s : State) (n : Nat) (x : Head) : (s.setHead n x).mem = s.mem := (rfl)
@[simp] theorem State.setHead_flash (s : State) (n : Nat) (x : Head) : (s.setHead n x).flash = s.flash := (rfl)
@[simp] theorem State.setHead_ddrDamage (s : State) (n : Nat) (x : Head) : (s.setHead n x).ddrDamage = s.ddrDamage := (rfl)
@[simp] theorem State.setHead_sramDamage (s : State) (n : Nat) (x : Head) : (s.setHead n x).sramDamage = s.sramDamage := (rfl)
@[simp] theorem State.setHead_sramSent (s : State) (n : Nat) (x : Head) : (s.setHead n x).sramSent = s.sramSent := (rfl)
@[simp] theorem State.setHead_dgkBuilt (s : State) (n : Nat) (x : Head) : (s.setHead n x).dgkBuilt = s.dgkBuilt := (rfl)
@[simp] theorem State.setHead_iotlb (s : State) (n : Nat) (x : Head) : (s.setHead n x).iotlb = s.iotlb := (rfl)
@[simp] theorem State.setHead_engines (s : State) (n : Nat) (x : Head) : (s.setHead n x).engines = s.engines := (rfl)
@[simp] theorem State.setHead_sems (s : State) (n : Nat) (x : Head) : (s.setHead n x).sems = s.sems := (rfl)
@[simp] theorem State.setHead_ctxs (s : State) (n : Nat) (x : Head) : (s.setHead n x).ctxs = s.ctxs := (rfl)
@[simp] theorem State.setHead_parts (s : State) (n : Nat) (x : Head) : (s.setHead n x).parts = s.parts := (rfl)
@[simp] theorem State.setHead_models (s : State) (n : Nat) (x : Head) : (s.setHead n x).models = s.models := (rfl)
@[simp] theorem State.setHead_jobs (s : State) (n : Nat) (x : Head) : (s.setHead n x).jobs = s.jobs := (rfl)
@[simp] theorem State.setHead_jobNext (s : State) (n : Nat) (x : Head) : (s.setHead n x).jobNext = s.jobNext := (rfl)
@[simp] theorem State.setHead_laneLast (s : State) (n : Nat) (x : Head) : (s.setHead n x).laneLast = s.laneLast := (rfl)
@[simp] theorem State.setHead_turn (s : State) (n : Nat) (x : Head) : (s.setHead n x).turn = s.turn := (rfl)
@[simp] theorem State.setHead_events (s : State) (n : Nat) (x : Head) : (s.setHead n x).events = s.events := (rfl)
@[simp] theorem State.setHead_bus (s : State) (n : Nat) (x : Head) : (s.setHead n x).bus = s.bus := (rfl)
@[simp] theorem State.setHead_tb (s : State) (n : Nat) (x : Head) : (s.setHead n x).tb = s.tb := (rfl)
@[simp] theorem State.setHead_tt (s : State) (n : Nat) (x : Head) : (s.setHead n x).tt = s.tt := (rfl)
@[simp] theorem State.setHead_streams (s : State) (n : Nat) (x : Head) : (s.setHead n x).streams = s.streams := (rfl)
@[simp] theorem State.setHead_tiles (s : State) (n : Nat) (x : Head) : (s.setHead n x).tiles = s.tiles := (rfl)
@[simp] theorem State.setHead_csiFill (s : State) (n : Nat) (x : Head) : (s.setHead n x).csiFill = s.csiFill := (rfl)
@[simp] theorem State.setHead_ssps (s : State) (n : Nat) (x : Head) : (s.setHead n x).ssps = s.ssps := (rfl)
@[simp] theorem State.setHead_fusion (s : State) (n : Nat) (x : Head) : (s.setHead n x).fusion = s.fusion := (rfl)
@[simp] theorem State.setHead_dmcs (s : State) (n : Nat) (x : Head) : (s.setHead n x).dmcs = s.dmcs := (rfl)
@[simp] theorem State.setHead_slc (s : State) (n : Nat) (x : Head) : (s.setHead n x).slc = s.slc := (rfl)
@[simp] theorem State.setHead_slcUses (s : State) (n : Nat) (x : Head) : (s.setHead n x).slcUses = s.slcUses := (rfl)
@[simp] theorem State.setHead_caches (s : State) (n : Nat) (x : Head) : (s.setHead n x).caches = s.caches := (rfl)
@[simp] theorem State.setHead_links (s : State) (n : Nat) (x : Head) : (s.setHead n x).links = s.links := (rfl)
@[simp] theorem State.setHead_linkLost (s : State) (n : Nat) (x : Head) : (s.setHead n x).linkLost = s.linkLost := (rfl)
@[simp] theorem State.setHead_holdWays (s : State) (n : Nat) (x : Head) : (s.setHead n x).holdWays = s.holdWays := (rfl)
@[simp] theorem State.setHead_wheelPos (s : State) (n : Nat) (x : Head) : (s.setHead n x).wheelPos = s.wheelPos := (rfl)
@[simp] theorem State.setHead_wheelRun (s : State) (n : Nat) (x : Head) : (s.setHead n x).wheelRun = s.wheelRun := (rfl)
@[simp] theorem State.setHead_wheelLive (s : State) (n : Nat) (x : Head) : (s.setHead n x).wheelLive = s.wheelLive := (rfl)
@[simp] theorem State.setHead_wheelOut (s : State) (n : Nat) (x : Head) : (s.setHead n x).wheelOut = s.wheelOut := (rfl)
@[simp] theorem State.setHead_channels (s : State) (n : Nat) (x : Head) : (s.setHead n x).channels = s.channels := (rfl)
@[simp] theorem State.setHead_ddrQueue (s : State) (n : Nat) (x : Head) : (s.setHead n x).ddrQueue = s.ddrQueue := (rfl)
@[simp] theorem State.setHead_guardLive (s : State) (n : Nat) (x : Head) : (s.setHead n x).guardLive = s.guardLive := (rfl)
@[simp] theorem State.setHead_guardWait (s : State) (n : Nat) (x : Head) : (s.setHead n x).guardWait = s.guardWait := (rfl)
@[simp] theorem State.setHead_guardSent (s : State) (n : Nat) (x : Head) : (s.setHead n x).guardSent = s.guardSent := (rfl)
@[simp] theorem State.setHead_gq (s : State) (n : Nat) (x : Head) : (s.setHead n x).gq = s.gq := (rfl)
@[simp] theorem State.setHead_gfxRun (s : State) (n : Nat) (x : Head) : (s.setHead n x).gfxRun = s.gfxRun := (rfl)
@[simp] theorem State.setHead_harts (s : State) (n : Nat) (x : Head) : (s.setHead n x).harts = s.harts := (rfl)
@[simp] theorem State.setHead_heath (s : State) (n : Nat) (x : Head) : (s.setHead n x).heath = s.heath := (rfl)
@[simp] theorem State.setHead_msis (s : State) (n : Nat) (x : Head) : (s.setHead n x).msis = s.msis := (rfl)
@[simp] theorem State.setHead_irqs (s : State) (n : Nat) (x : Head) : (s.setHead n x).irqs = s.irqs := (rfl)
@[simp] theorem State.setHead_irqEn (s : State) (n : Nat) (x : Head) : (s.setHead n x).irqEn = s.irqEn := (rfl)
@[simp] theorem State.setHead_msiDropAt (s : State) (n : Nat) (x : Head) : (s.setHead n x).msiDropAt = s.msiDropAt := (rfl)
@[simp] theorem State.setHead_weirs (s : State) (n : Nat) (x : Head) : (s.setHead n x).weirs = s.weirs := (rfl)
@[simp] theorem State.setHead_semOps (s : State) (n : Nat) (x : Head) : (s.setHead n x).semOps = s.semOps := (rfl)
@[simp] theorem State.setHead_gw (s : State) (n : Nat) (x : Head) : (s.setHead n x).gw = s.gw := (rfl)
@[simp] theorem State.setHead_erm (s : State) (n : Nat) (x : Head) : (s.setHead n x).erm = s.erm := (rfl)
@[simp] theorem State.setHead_errs (s : State) (n : Nat) (x : Head) : (s.setHead n x).errs = s.errs := (rfl)
@[simp] theorem State.setHead_windows (s : State) (n : Nat) (x : Head) : (s.setHead n x).windows = s.windows := (rfl)
@[simp] theorem State.setHead_tests (s : State) (n : Nat) (x : Head) : (s.setHead n x).tests = s.tests := (rfl)
@[simp] theorem State.setHead_fuses (s : State) (n : Nat) (x : Head) : (s.setHead n x).fuses = s.fuses := (rfl)
@[simp] theorem State.setHead_rom (s : State) (n : Nat) (x : Head) : (s.setHead n x).rom = s.rom := (rfl)
@[simp] theorem State.setHead_wdts (s : State) (n : Nat) (x : Head) : (s.setHead n x).wdts = s.wdts := (rfl)
@[simp] theorem State.setHead_cfgMarks (s : State) (n : Nat) (x : Head) : (s.setHead n x).cfgMarks = s.cfgMarks := (rfl)
@[simp] theorem State.setHead_fwlSeq (s : State) (n : Nat) (x : Head) : (s.setHead n x).fwlSeq = s.fwlSeq := (rfl)
@[simp] theorem State.setHead_therm (s : State) (n : Nat) (x : Head) : (s.setHead n x).therm = s.therm := (rfl)
@[simp] theorem State.setHead_pins (s : State) (n : Nat) (x : Head) : (s.setHead n x).pins = s.pins := (rfl)
@[simp] theorem State.setHead_portLinks (s : State) (n : Nat) (x : Head) : (s.setHead n x).portLinks = s.portLinks := (rfl)
@[simp] theorem State.setHead_ticks (s : State) (n : Nat) (x : Head) : (s.setHead n x).ticks = s.ticks := (rfl)

@[simp] theorem State.setHart_pending (s : State) (n : Nat) (x : Hart) : (s.setHart n x).pending = s.pending := (rfl)
@[simp] theorem State.setHart_reply (s : State) (n : Nat) (x : Hart) : (s.setHart n x).reply = s.reply := (rfl)
@[simp] theorem State.setHart_regs (s : State) (n : Nat) (x : Hart) : (s.setHart n x).regs = s.regs := (rfl)
@[simp] theorem State.setHart_mem (s : State) (n : Nat) (x : Hart) : (s.setHart n x).mem = s.mem := (rfl)
@[simp] theorem State.setHart_flash (s : State) (n : Nat) (x : Hart) : (s.setHart n x).flash = s.flash := (rfl)
@[simp] theorem State.setHart_ddrDamage (s : State) (n : Nat) (x : Hart) : (s.setHart n x).ddrDamage = s.ddrDamage := (rfl)
@[simp] theorem State.setHart_sramDamage (s : State) (n : Nat) (x : Hart) : (s.setHart n x).sramDamage = s.sramDamage := (rfl)
@[simp] theorem State.setHart_sramSent (s : State) (n : Nat) (x : Hart) : (s.setHart n x).sramSent = s.sramSent := (rfl)
@[simp] theorem State.setHart_dgkBuilt (s : State) (n : Nat) (x : Hart) : (s.setHart n x).dgkBuilt = s.dgkBuilt := (rfl)
@[simp] theorem State.setHart_iotlb (s : State) (n : Nat) (x : Hart) : (s.setHart n x).iotlb = s.iotlb := (rfl)
@[simp] theorem State.setHart_engines (s : State) (n : Nat) (x : Hart) : (s.setHart n x).engines = s.engines := (rfl)
@[simp] theorem State.setHart_sems (s : State) (n : Nat) (x : Hart) : (s.setHart n x).sems = s.sems := (rfl)
@[simp] theorem State.setHart_ctxs (s : State) (n : Nat) (x : Hart) : (s.setHart n x).ctxs = s.ctxs := (rfl)
@[simp] theorem State.setHart_parts (s : State) (n : Nat) (x : Hart) : (s.setHart n x).parts = s.parts := (rfl)
@[simp] theorem State.setHart_models (s : State) (n : Nat) (x : Hart) : (s.setHart n x).models = s.models := (rfl)
@[simp] theorem State.setHart_jobs (s : State) (n : Nat) (x : Hart) : (s.setHart n x).jobs = s.jobs := (rfl)
@[simp] theorem State.setHart_jobNext (s : State) (n : Nat) (x : Hart) : (s.setHart n x).jobNext = s.jobNext := (rfl)
@[simp] theorem State.setHart_laneLast (s : State) (n : Nat) (x : Hart) : (s.setHart n x).laneLast = s.laneLast := (rfl)
@[simp] theorem State.setHart_turn (s : State) (n : Nat) (x : Hart) : (s.setHart n x).turn = s.turn := (rfl)
@[simp] theorem State.setHart_events (s : State) (n : Nat) (x : Hart) : (s.setHart n x).events = s.events := (rfl)
@[simp] theorem State.setHart_bus (s : State) (n : Nat) (x : Hart) : (s.setHart n x).bus = s.bus := (rfl)
@[simp] theorem State.setHart_tb (s : State) (n : Nat) (x : Hart) : (s.setHart n x).tb = s.tb := (rfl)
@[simp] theorem State.setHart_tt (s : State) (n : Nat) (x : Hart) : (s.setHart n x).tt = s.tt := (rfl)
@[simp] theorem State.setHart_streams (s : State) (n : Nat) (x : Hart) : (s.setHart n x).streams = s.streams := (rfl)
@[simp] theorem State.setHart_tiles (s : State) (n : Nat) (x : Hart) : (s.setHart n x).tiles = s.tiles := (rfl)
@[simp] theorem State.setHart_csiFill (s : State) (n : Nat) (x : Hart) : (s.setHart n x).csiFill = s.csiFill := (rfl)
@[simp] theorem State.setHart_ssps (s : State) (n : Nat) (x : Hart) : (s.setHart n x).ssps = s.ssps := (rfl)
@[simp] theorem State.setHart_fusion (s : State) (n : Nat) (x : Hart) : (s.setHart n x).fusion = s.fusion := (rfl)
@[simp] theorem State.setHart_dmcs (s : State) (n : Nat) (x : Hart) : (s.setHart n x).dmcs = s.dmcs := (rfl)
@[simp] theorem State.setHart_slc (s : State) (n : Nat) (x : Hart) : (s.setHart n x).slc = s.slc := (rfl)
@[simp] theorem State.setHart_slcUses (s : State) (n : Nat) (x : Hart) : (s.setHart n x).slcUses = s.slcUses := (rfl)
@[simp] theorem State.setHart_caches (s : State) (n : Nat) (x : Hart) : (s.setHart n x).caches = s.caches := (rfl)
@[simp] theorem State.setHart_links (s : State) (n : Nat) (x : Hart) : (s.setHart n x).links = s.links := (rfl)
@[simp] theorem State.setHart_linkLost (s : State) (n : Nat) (x : Hart) : (s.setHart n x).linkLost = s.linkLost := (rfl)
@[simp] theorem State.setHart_holdWays (s : State) (n : Nat) (x : Hart) : (s.setHart n x).holdWays = s.holdWays := (rfl)
@[simp] theorem State.setHart_wheelPos (s : State) (n : Nat) (x : Hart) : (s.setHart n x).wheelPos = s.wheelPos := (rfl)
@[simp] theorem State.setHart_wheelRun (s : State) (n : Nat) (x : Hart) : (s.setHart n x).wheelRun = s.wheelRun := (rfl)
@[simp] theorem State.setHart_wheelLive (s : State) (n : Nat) (x : Hart) : (s.setHart n x).wheelLive = s.wheelLive := (rfl)
@[simp] theorem State.setHart_wheelOut (s : State) (n : Nat) (x : Hart) : (s.setHart n x).wheelOut = s.wheelOut := (rfl)
@[simp] theorem State.setHart_channels (s : State) (n : Nat) (x : Hart) : (s.setHart n x).channels = s.channels := (rfl)
@[simp] theorem State.setHart_ddrQueue (s : State) (n : Nat) (x : Hart) : (s.setHart n x).ddrQueue = s.ddrQueue := (rfl)
@[simp] theorem State.setHart_guardLive (s : State) (n : Nat) (x : Hart) : (s.setHart n x).guardLive = s.guardLive := (rfl)
@[simp] theorem State.setHart_guardWait (s : State) (n : Nat) (x : Hart) : (s.setHart n x).guardWait = s.guardWait := (rfl)
@[simp] theorem State.setHart_guardSent (s : State) (n : Nat) (x : Hart) : (s.setHart n x).guardSent = s.guardSent := (rfl)
@[simp] theorem State.setHart_gq (s : State) (n : Nat) (x : Hart) : (s.setHart n x).gq = s.gq := (rfl)
@[simp] theorem State.setHart_gfxRun (s : State) (n : Nat) (x : Hart) : (s.setHart n x).gfxRun = s.gfxRun := (rfl)
@[simp] theorem State.setHart_heads (s : State) (n : Nat) (x : Hart) : (s.setHart n x).heads = s.heads := (rfl)
@[simp] theorem State.setHart_heath (s : State) (n : Nat) (x : Hart) : (s.setHart n x).heath = s.heath := (rfl)
@[simp] theorem State.setHart_msis (s : State) (n : Nat) (x : Hart) : (s.setHart n x).msis = s.msis := (rfl)
@[simp] theorem State.setHart_irqs (s : State) (n : Nat) (x : Hart) : (s.setHart n x).irqs = s.irqs := (rfl)
@[simp] theorem State.setHart_irqEn (s : State) (n : Nat) (x : Hart) : (s.setHart n x).irqEn = s.irqEn := (rfl)
@[simp] theorem State.setHart_msiDropAt (s : State) (n : Nat) (x : Hart) : (s.setHart n x).msiDropAt = s.msiDropAt := (rfl)
@[simp] theorem State.setHart_weirs (s : State) (n : Nat) (x : Hart) : (s.setHart n x).weirs = s.weirs := (rfl)
@[simp] theorem State.setHart_semOps (s : State) (n : Nat) (x : Hart) : (s.setHart n x).semOps = s.semOps := (rfl)
@[simp] theorem State.setHart_gw (s : State) (n : Nat) (x : Hart) : (s.setHart n x).gw = s.gw := (rfl)
@[simp] theorem State.setHart_erm (s : State) (n : Nat) (x : Hart) : (s.setHart n x).erm = s.erm := (rfl)
@[simp] theorem State.setHart_errs (s : State) (n : Nat) (x : Hart) : (s.setHart n x).errs = s.errs := (rfl)
@[simp] theorem State.setHart_windows (s : State) (n : Nat) (x : Hart) : (s.setHart n x).windows = s.windows := (rfl)
@[simp] theorem State.setHart_tests (s : State) (n : Nat) (x : Hart) : (s.setHart n x).tests = s.tests := (rfl)
@[simp] theorem State.setHart_fuses (s : State) (n : Nat) (x : Hart) : (s.setHart n x).fuses = s.fuses := (rfl)
@[simp] theorem State.setHart_rom (s : State) (n : Nat) (x : Hart) : (s.setHart n x).rom = s.rom := (rfl)
@[simp] theorem State.setHart_wdts (s : State) (n : Nat) (x : Hart) : (s.setHart n x).wdts = s.wdts := (rfl)
@[simp] theorem State.setHart_cfgMarks (s : State) (n : Nat) (x : Hart) : (s.setHart n x).cfgMarks = s.cfgMarks := (rfl)
@[simp] theorem State.setHart_fwlSeq (s : State) (n : Nat) (x : Hart) : (s.setHart n x).fwlSeq = s.fwlSeq := (rfl)
@[simp] theorem State.setHart_therm (s : State) (n : Nat) (x : Hart) : (s.setHart n x).therm = s.therm := (rfl)
@[simp] theorem State.setHart_pins (s : State) (n : Nat) (x : Hart) : (s.setHart n x).pins = s.pins := (rfl)
@[simp] theorem State.setHart_portLinks (s : State) (n : Nat) (x : Hart) : (s.setHart n x).portLinks = s.portLinks := (rfl)
@[simp] theorem State.setHart_ticks (s : State) (n : Nat) (x : Hart) : (s.setHart n x).ticks = s.ticks := (rfl)

@[simp] theorem State.setWeir_pending (s : State) (n : Nat) (x : Weir) : (s.setWeir n x).pending = s.pending := (rfl)
@[simp] theorem State.setWeir_reply (s : State) (n : Nat) (x : Weir) : (s.setWeir n x).reply = s.reply := (rfl)
@[simp] theorem State.setWeir_regs (s : State) (n : Nat) (x : Weir) : (s.setWeir n x).regs = s.regs := (rfl)
@[simp] theorem State.setWeir_mem (s : State) (n : Nat) (x : Weir) : (s.setWeir n x).mem = s.mem := (rfl)
@[simp] theorem State.setWeir_flash (s : State) (n : Nat) (x : Weir) : (s.setWeir n x).flash = s.flash := (rfl)
@[simp] theorem State.setWeir_ddrDamage (s : State) (n : Nat) (x : Weir) : (s.setWeir n x).ddrDamage = s.ddrDamage := (rfl)
@[simp] theorem State.setWeir_sramDamage (s : State) (n : Nat) (x : Weir) : (s.setWeir n x).sramDamage = s.sramDamage := (rfl)
@[simp] theorem State.setWeir_sramSent (s : State) (n : Nat) (x : Weir) : (s.setWeir n x).sramSent = s.sramSent := (rfl)
@[simp] theorem State.setWeir_dgkBuilt (s : State) (n : Nat) (x : Weir) : (s.setWeir n x).dgkBuilt = s.dgkBuilt := (rfl)
@[simp] theorem State.setWeir_iotlb (s : State) (n : Nat) (x : Weir) : (s.setWeir n x).iotlb = s.iotlb := (rfl)
@[simp] theorem State.setWeir_engines (s : State) (n : Nat) (x : Weir) : (s.setWeir n x).engines = s.engines := (rfl)
@[simp] theorem State.setWeir_sems (s : State) (n : Nat) (x : Weir) : (s.setWeir n x).sems = s.sems := (rfl)
@[simp] theorem State.setWeir_ctxs (s : State) (n : Nat) (x : Weir) : (s.setWeir n x).ctxs = s.ctxs := (rfl)
@[simp] theorem State.setWeir_parts (s : State) (n : Nat) (x : Weir) : (s.setWeir n x).parts = s.parts := (rfl)
@[simp] theorem State.setWeir_models (s : State) (n : Nat) (x : Weir) : (s.setWeir n x).models = s.models := (rfl)
@[simp] theorem State.setWeir_jobs (s : State) (n : Nat) (x : Weir) : (s.setWeir n x).jobs = s.jobs := (rfl)
@[simp] theorem State.setWeir_jobNext (s : State) (n : Nat) (x : Weir) : (s.setWeir n x).jobNext = s.jobNext := (rfl)
@[simp] theorem State.setWeir_laneLast (s : State) (n : Nat) (x : Weir) : (s.setWeir n x).laneLast = s.laneLast := (rfl)
@[simp] theorem State.setWeir_turn (s : State) (n : Nat) (x : Weir) : (s.setWeir n x).turn = s.turn := (rfl)
@[simp] theorem State.setWeir_events (s : State) (n : Nat) (x : Weir) : (s.setWeir n x).events = s.events := (rfl)
@[simp] theorem State.setWeir_bus (s : State) (n : Nat) (x : Weir) : (s.setWeir n x).bus = s.bus := (rfl)
@[simp] theorem State.setWeir_tb (s : State) (n : Nat) (x : Weir) : (s.setWeir n x).tb = s.tb := (rfl)
@[simp] theorem State.setWeir_tt (s : State) (n : Nat) (x : Weir) : (s.setWeir n x).tt = s.tt := (rfl)
@[simp] theorem State.setWeir_streams (s : State) (n : Nat) (x : Weir) : (s.setWeir n x).streams = s.streams := (rfl)
@[simp] theorem State.setWeir_tiles (s : State) (n : Nat) (x : Weir) : (s.setWeir n x).tiles = s.tiles := (rfl)
@[simp] theorem State.setWeir_csiFill (s : State) (n : Nat) (x : Weir) : (s.setWeir n x).csiFill = s.csiFill := (rfl)
@[simp] theorem State.setWeir_ssps (s : State) (n : Nat) (x : Weir) : (s.setWeir n x).ssps = s.ssps := (rfl)
@[simp] theorem State.setWeir_fusion (s : State) (n : Nat) (x : Weir) : (s.setWeir n x).fusion = s.fusion := (rfl)
@[simp] theorem State.setWeir_dmcs (s : State) (n : Nat) (x : Weir) : (s.setWeir n x).dmcs = s.dmcs := (rfl)
@[simp] theorem State.setWeir_slc (s : State) (n : Nat) (x : Weir) : (s.setWeir n x).slc = s.slc := (rfl)
@[simp] theorem State.setWeir_slcUses (s : State) (n : Nat) (x : Weir) : (s.setWeir n x).slcUses = s.slcUses := (rfl)
@[simp] theorem State.setWeir_caches (s : State) (n : Nat) (x : Weir) : (s.setWeir n x).caches = s.caches := (rfl)
@[simp] theorem State.setWeir_links (s : State) (n : Nat) (x : Weir) : (s.setWeir n x).links = s.links := (rfl)
@[simp] theorem State.setWeir_linkLost (s : State) (n : Nat) (x : Weir) : (s.setWeir n x).linkLost = s.linkLost := (rfl)
@[simp] theorem State.setWeir_holdWays (s : State) (n : Nat) (x : Weir) : (s.setWeir n x).holdWays = s.holdWays := (rfl)
@[simp] theorem State.setWeir_wheelPos (s : State) (n : Nat) (x : Weir) : (s.setWeir n x).wheelPos = s.wheelPos := (rfl)
@[simp] theorem State.setWeir_wheelRun (s : State) (n : Nat) (x : Weir) : (s.setWeir n x).wheelRun = s.wheelRun := (rfl)
@[simp] theorem State.setWeir_wheelLive (s : State) (n : Nat) (x : Weir) : (s.setWeir n x).wheelLive = s.wheelLive := (rfl)
@[simp] theorem State.setWeir_wheelOut (s : State) (n : Nat) (x : Weir) : (s.setWeir n x).wheelOut = s.wheelOut := (rfl)
@[simp] theorem State.setWeir_channels (s : State) (n : Nat) (x : Weir) : (s.setWeir n x).channels = s.channels := (rfl)
@[simp] theorem State.setWeir_ddrQueue (s : State) (n : Nat) (x : Weir) : (s.setWeir n x).ddrQueue = s.ddrQueue := (rfl)
@[simp] theorem State.setWeir_guardLive (s : State) (n : Nat) (x : Weir) : (s.setWeir n x).guardLive = s.guardLive := (rfl)
@[simp] theorem State.setWeir_guardWait (s : State) (n : Nat) (x : Weir) : (s.setWeir n x).guardWait = s.guardWait := (rfl)
@[simp] theorem State.setWeir_guardSent (s : State) (n : Nat) (x : Weir) : (s.setWeir n x).guardSent = s.guardSent := (rfl)
@[simp] theorem State.setWeir_gq (s : State) (n : Nat) (x : Weir) : (s.setWeir n x).gq = s.gq := (rfl)
@[simp] theorem State.setWeir_gfxRun (s : State) (n : Nat) (x : Weir) : (s.setWeir n x).gfxRun = s.gfxRun := (rfl)
@[simp] theorem State.setWeir_heads (s : State) (n : Nat) (x : Weir) : (s.setWeir n x).heads = s.heads := (rfl)
@[simp] theorem State.setWeir_harts (s : State) (n : Nat) (x : Weir) : (s.setWeir n x).harts = s.harts := (rfl)
@[simp] theorem State.setWeir_heath (s : State) (n : Nat) (x : Weir) : (s.setWeir n x).heath = s.heath := (rfl)
@[simp] theorem State.setWeir_msis (s : State) (n : Nat) (x : Weir) : (s.setWeir n x).msis = s.msis := (rfl)
@[simp] theorem State.setWeir_irqs (s : State) (n : Nat) (x : Weir) : (s.setWeir n x).irqs = s.irqs := (rfl)
@[simp] theorem State.setWeir_irqEn (s : State) (n : Nat) (x : Weir) : (s.setWeir n x).irqEn = s.irqEn := (rfl)
@[simp] theorem State.setWeir_msiDropAt (s : State) (n : Nat) (x : Weir) : (s.setWeir n x).msiDropAt = s.msiDropAt := (rfl)
@[simp] theorem State.setWeir_semOps (s : State) (n : Nat) (x : Weir) : (s.setWeir n x).semOps = s.semOps := (rfl)
@[simp] theorem State.setWeir_gw (s : State) (n : Nat) (x : Weir) : (s.setWeir n x).gw = s.gw := (rfl)
@[simp] theorem State.setWeir_erm (s : State) (n : Nat) (x : Weir) : (s.setWeir n x).erm = s.erm := (rfl)
@[simp] theorem State.setWeir_errs (s : State) (n : Nat) (x : Weir) : (s.setWeir n x).errs = s.errs := (rfl)
@[simp] theorem State.setWeir_windows (s : State) (n : Nat) (x : Weir) : (s.setWeir n x).windows = s.windows := (rfl)
@[simp] theorem State.setWeir_tests (s : State) (n : Nat) (x : Weir) : (s.setWeir n x).tests = s.tests := (rfl)
@[simp] theorem State.setWeir_fuses (s : State) (n : Nat) (x : Weir) : (s.setWeir n x).fuses = s.fuses := (rfl)
@[simp] theorem State.setWeir_rom (s : State) (n : Nat) (x : Weir) : (s.setWeir n x).rom = s.rom := (rfl)
@[simp] theorem State.setWeir_wdts (s : State) (n : Nat) (x : Weir) : (s.setWeir n x).wdts = s.wdts := (rfl)
@[simp] theorem State.setWeir_cfgMarks (s : State) (n : Nat) (x : Weir) : (s.setWeir n x).cfgMarks = s.cfgMarks := (rfl)
@[simp] theorem State.setWeir_fwlSeq (s : State) (n : Nat) (x : Weir) : (s.setWeir n x).fwlSeq = s.fwlSeq := (rfl)
@[simp] theorem State.setWeir_therm (s : State) (n : Nat) (x : Weir) : (s.setWeir n x).therm = s.therm := (rfl)
@[simp] theorem State.setWeir_pins (s : State) (n : Nat) (x : Weir) : (s.setWeir n x).pins = s.pins := (rfl)
@[simp] theorem State.setWeir_portLinks (s : State) (n : Nat) (x : Weir) : (s.setWeir n x).portLinks = s.portLinks := (rfl)
@[simp] theorem State.setWeir_ticks (s : State) (n : Nat) (x : Weir) : (s.setWeir n x).ticks = s.ticks := (rfl)

@[simp] theorem State.setWindow_pending (s : State) (n : Nat) (x : Option TestWindow) : (s.setWindow n x).pending = s.pending := (rfl)
@[simp] theorem State.setWindow_reply (s : State) (n : Nat) (x : Option TestWindow) : (s.setWindow n x).reply = s.reply := (rfl)
@[simp] theorem State.setWindow_regs (s : State) (n : Nat) (x : Option TestWindow) : (s.setWindow n x).regs = s.regs := (rfl)
@[simp] theorem State.setWindow_mem (s : State) (n : Nat) (x : Option TestWindow) : (s.setWindow n x).mem = s.mem := (rfl)
@[simp] theorem State.setWindow_flash (s : State) (n : Nat) (x : Option TestWindow) : (s.setWindow n x).flash = s.flash := (rfl)
@[simp] theorem State.setWindow_ddrDamage (s : State) (n : Nat) (x : Option TestWindow) : (s.setWindow n x).ddrDamage = s.ddrDamage := (rfl)
@[simp] theorem State.setWindow_sramDamage (s : State) (n : Nat) (x : Option TestWindow) : (s.setWindow n x).sramDamage = s.sramDamage := (rfl)
@[simp] theorem State.setWindow_sramSent (s : State) (n : Nat) (x : Option TestWindow) : (s.setWindow n x).sramSent = s.sramSent := (rfl)
@[simp] theorem State.setWindow_dgkBuilt (s : State) (n : Nat) (x : Option TestWindow) : (s.setWindow n x).dgkBuilt = s.dgkBuilt := (rfl)
@[simp] theorem State.setWindow_iotlb (s : State) (n : Nat) (x : Option TestWindow) : (s.setWindow n x).iotlb = s.iotlb := (rfl)
@[simp] theorem State.setWindow_engines (s : State) (n : Nat) (x : Option TestWindow) : (s.setWindow n x).engines = s.engines := (rfl)
@[simp] theorem State.setWindow_sems (s : State) (n : Nat) (x : Option TestWindow) : (s.setWindow n x).sems = s.sems := (rfl)
@[simp] theorem State.setWindow_ctxs (s : State) (n : Nat) (x : Option TestWindow) : (s.setWindow n x).ctxs = s.ctxs := (rfl)
@[simp] theorem State.setWindow_parts (s : State) (n : Nat) (x : Option TestWindow) : (s.setWindow n x).parts = s.parts := (rfl)
@[simp] theorem State.setWindow_models (s : State) (n : Nat) (x : Option TestWindow) : (s.setWindow n x).models = s.models := (rfl)
@[simp] theorem State.setWindow_jobs (s : State) (n : Nat) (x : Option TestWindow) : (s.setWindow n x).jobs = s.jobs := (rfl)
@[simp] theorem State.setWindow_jobNext (s : State) (n : Nat) (x : Option TestWindow) : (s.setWindow n x).jobNext = s.jobNext := (rfl)
@[simp] theorem State.setWindow_laneLast (s : State) (n : Nat) (x : Option TestWindow) : (s.setWindow n x).laneLast = s.laneLast := (rfl)
@[simp] theorem State.setWindow_turn (s : State) (n : Nat) (x : Option TestWindow) : (s.setWindow n x).turn = s.turn := (rfl)
@[simp] theorem State.setWindow_events (s : State) (n : Nat) (x : Option TestWindow) : (s.setWindow n x).events = s.events := (rfl)
@[simp] theorem State.setWindow_bus (s : State) (n : Nat) (x : Option TestWindow) : (s.setWindow n x).bus = s.bus := (rfl)
@[simp] theorem State.setWindow_tb (s : State) (n : Nat) (x : Option TestWindow) : (s.setWindow n x).tb = s.tb := (rfl)
@[simp] theorem State.setWindow_tt (s : State) (n : Nat) (x : Option TestWindow) : (s.setWindow n x).tt = s.tt := (rfl)
@[simp] theorem State.setWindow_streams (s : State) (n : Nat) (x : Option TestWindow) : (s.setWindow n x).streams = s.streams := (rfl)
@[simp] theorem State.setWindow_tiles (s : State) (n : Nat) (x : Option TestWindow) : (s.setWindow n x).tiles = s.tiles := (rfl)
@[simp] theorem State.setWindow_csiFill (s : State) (n : Nat) (x : Option TestWindow) : (s.setWindow n x).csiFill = s.csiFill := (rfl)
@[simp] theorem State.setWindow_ssps (s : State) (n : Nat) (x : Option TestWindow) : (s.setWindow n x).ssps = s.ssps := (rfl)
@[simp] theorem State.setWindow_fusion (s : State) (n : Nat) (x : Option TestWindow) : (s.setWindow n x).fusion = s.fusion := (rfl)
@[simp] theorem State.setWindow_dmcs (s : State) (n : Nat) (x : Option TestWindow) : (s.setWindow n x).dmcs = s.dmcs := (rfl)
@[simp] theorem State.setWindow_slc (s : State) (n : Nat) (x : Option TestWindow) : (s.setWindow n x).slc = s.slc := (rfl)
@[simp] theorem State.setWindow_slcUses (s : State) (n : Nat) (x : Option TestWindow) : (s.setWindow n x).slcUses = s.slcUses := (rfl)
@[simp] theorem State.setWindow_caches (s : State) (n : Nat) (x : Option TestWindow) : (s.setWindow n x).caches = s.caches := (rfl)
@[simp] theorem State.setWindow_links (s : State) (n : Nat) (x : Option TestWindow) : (s.setWindow n x).links = s.links := (rfl)
@[simp] theorem State.setWindow_linkLost (s : State) (n : Nat) (x : Option TestWindow) : (s.setWindow n x).linkLost = s.linkLost := (rfl)
@[simp] theorem State.setWindow_holdWays (s : State) (n : Nat) (x : Option TestWindow) : (s.setWindow n x).holdWays = s.holdWays := (rfl)
@[simp] theorem State.setWindow_wheelPos (s : State) (n : Nat) (x : Option TestWindow) : (s.setWindow n x).wheelPos = s.wheelPos := (rfl)
@[simp] theorem State.setWindow_wheelRun (s : State) (n : Nat) (x : Option TestWindow) : (s.setWindow n x).wheelRun = s.wheelRun := (rfl)
@[simp] theorem State.setWindow_wheelLive (s : State) (n : Nat) (x : Option TestWindow) : (s.setWindow n x).wheelLive = s.wheelLive := (rfl)
@[simp] theorem State.setWindow_wheelOut (s : State) (n : Nat) (x : Option TestWindow) : (s.setWindow n x).wheelOut = s.wheelOut := (rfl)
@[simp] theorem State.setWindow_channels (s : State) (n : Nat) (x : Option TestWindow) : (s.setWindow n x).channels = s.channels := (rfl)
@[simp] theorem State.setWindow_ddrQueue (s : State) (n : Nat) (x : Option TestWindow) : (s.setWindow n x).ddrQueue = s.ddrQueue := (rfl)
@[simp] theorem State.setWindow_guardLive (s : State) (n : Nat) (x : Option TestWindow) : (s.setWindow n x).guardLive = s.guardLive := (rfl)
@[simp] theorem State.setWindow_guardWait (s : State) (n : Nat) (x : Option TestWindow) : (s.setWindow n x).guardWait = s.guardWait := (rfl)
@[simp] theorem State.setWindow_guardSent (s : State) (n : Nat) (x : Option TestWindow) : (s.setWindow n x).guardSent = s.guardSent := (rfl)
@[simp] theorem State.setWindow_gq (s : State) (n : Nat) (x : Option TestWindow) : (s.setWindow n x).gq = s.gq := (rfl)
@[simp] theorem State.setWindow_gfxRun (s : State) (n : Nat) (x : Option TestWindow) : (s.setWindow n x).gfxRun = s.gfxRun := (rfl)
@[simp] theorem State.setWindow_heads (s : State) (n : Nat) (x : Option TestWindow) : (s.setWindow n x).heads = s.heads := (rfl)
@[simp] theorem State.setWindow_harts (s : State) (n : Nat) (x : Option TestWindow) : (s.setWindow n x).harts = s.harts := (rfl)
@[simp] theorem State.setWindow_heath (s : State) (n : Nat) (x : Option TestWindow) : (s.setWindow n x).heath = s.heath := (rfl)
@[simp] theorem State.setWindow_msis (s : State) (n : Nat) (x : Option TestWindow) : (s.setWindow n x).msis = s.msis := (rfl)
@[simp] theorem State.setWindow_irqs (s : State) (n : Nat) (x : Option TestWindow) : (s.setWindow n x).irqs = s.irqs := (rfl)
@[simp] theorem State.setWindow_irqEn (s : State) (n : Nat) (x : Option TestWindow) : (s.setWindow n x).irqEn = s.irqEn := (rfl)
@[simp] theorem State.setWindow_msiDropAt (s : State) (n : Nat) (x : Option TestWindow) : (s.setWindow n x).msiDropAt = s.msiDropAt := (rfl)
@[simp] theorem State.setWindow_weirs (s : State) (n : Nat) (x : Option TestWindow) : (s.setWindow n x).weirs = s.weirs := (rfl)
@[simp] theorem State.setWindow_semOps (s : State) (n : Nat) (x : Option TestWindow) : (s.setWindow n x).semOps = s.semOps := (rfl)
@[simp] theorem State.setWindow_gw (s : State) (n : Nat) (x : Option TestWindow) : (s.setWindow n x).gw = s.gw := (rfl)
@[simp] theorem State.setWindow_erm (s : State) (n : Nat) (x : Option TestWindow) : (s.setWindow n x).erm = s.erm := (rfl)
@[simp] theorem State.setWindow_errs (s : State) (n : Nat) (x : Option TestWindow) : (s.setWindow n x).errs = s.errs := (rfl)
@[simp] theorem State.setWindow_tests (s : State) (n : Nat) (x : Option TestWindow) : (s.setWindow n x).tests = s.tests := (rfl)
@[simp] theorem State.setWindow_fuses (s : State) (n : Nat) (x : Option TestWindow) : (s.setWindow n x).fuses = s.fuses := (rfl)
@[simp] theorem State.setWindow_rom (s : State) (n : Nat) (x : Option TestWindow) : (s.setWindow n x).rom = s.rom := (rfl)
@[simp] theorem State.setWindow_wdts (s : State) (n : Nat) (x : Option TestWindow) : (s.setWindow n x).wdts = s.wdts := (rfl)
@[simp] theorem State.setWindow_cfgMarks (s : State) (n : Nat) (x : Option TestWindow) : (s.setWindow n x).cfgMarks = s.cfgMarks := (rfl)
@[simp] theorem State.setWindow_fwlSeq (s : State) (n : Nat) (x : Option TestWindow) : (s.setWindow n x).fwlSeq = s.fwlSeq := (rfl)
@[simp] theorem State.setWindow_therm (s : State) (n : Nat) (x : Option TestWindow) : (s.setWindow n x).therm = s.therm := (rfl)
@[simp] theorem State.setWindow_pins (s : State) (n : Nat) (x : Option TestWindow) : (s.setWindow n x).pins = s.pins := (rfl)
@[simp] theorem State.setWindow_portLinks (s : State) (n : Nat) (x : Option TestWindow) : (s.setWindow n x).portLinks = s.portLinks := (rfl)
@[simp] theorem State.setWindow_ticks (s : State) (n : Nat) (x : Option TestWindow) : (s.setWindow n x).ticks = s.ticks := (rfl)

@[simp] theorem State.setTest_pending (s : State) (n : Nat) (x : TestCycle) : (s.setTest n x).pending = s.pending := (rfl)
@[simp] theorem State.setTest_reply (s : State) (n : Nat) (x : TestCycle) : (s.setTest n x).reply = s.reply := (rfl)
@[simp] theorem State.setTest_regs (s : State) (n : Nat) (x : TestCycle) : (s.setTest n x).regs = s.regs := (rfl)
@[simp] theorem State.setTest_mem (s : State) (n : Nat) (x : TestCycle) : (s.setTest n x).mem = s.mem := (rfl)
@[simp] theorem State.setTest_flash (s : State) (n : Nat) (x : TestCycle) : (s.setTest n x).flash = s.flash := (rfl)
@[simp] theorem State.setTest_ddrDamage (s : State) (n : Nat) (x : TestCycle) : (s.setTest n x).ddrDamage = s.ddrDamage := (rfl)
@[simp] theorem State.setTest_sramDamage (s : State) (n : Nat) (x : TestCycle) : (s.setTest n x).sramDamage = s.sramDamage := (rfl)
@[simp] theorem State.setTest_sramSent (s : State) (n : Nat) (x : TestCycle) : (s.setTest n x).sramSent = s.sramSent := (rfl)
@[simp] theorem State.setTest_dgkBuilt (s : State) (n : Nat) (x : TestCycle) : (s.setTest n x).dgkBuilt = s.dgkBuilt := (rfl)
@[simp] theorem State.setTest_iotlb (s : State) (n : Nat) (x : TestCycle) : (s.setTest n x).iotlb = s.iotlb := (rfl)
@[simp] theorem State.setTest_engines (s : State) (n : Nat) (x : TestCycle) : (s.setTest n x).engines = s.engines := (rfl)
@[simp] theorem State.setTest_sems (s : State) (n : Nat) (x : TestCycle) : (s.setTest n x).sems = s.sems := (rfl)
@[simp] theorem State.setTest_ctxs (s : State) (n : Nat) (x : TestCycle) : (s.setTest n x).ctxs = s.ctxs := (rfl)
@[simp] theorem State.setTest_parts (s : State) (n : Nat) (x : TestCycle) : (s.setTest n x).parts = s.parts := (rfl)
@[simp] theorem State.setTest_models (s : State) (n : Nat) (x : TestCycle) : (s.setTest n x).models = s.models := (rfl)
@[simp] theorem State.setTest_jobs (s : State) (n : Nat) (x : TestCycle) : (s.setTest n x).jobs = s.jobs := (rfl)
@[simp] theorem State.setTest_jobNext (s : State) (n : Nat) (x : TestCycle) : (s.setTest n x).jobNext = s.jobNext := (rfl)
@[simp] theorem State.setTest_laneLast (s : State) (n : Nat) (x : TestCycle) : (s.setTest n x).laneLast = s.laneLast := (rfl)
@[simp] theorem State.setTest_turn (s : State) (n : Nat) (x : TestCycle) : (s.setTest n x).turn = s.turn := (rfl)
@[simp] theorem State.setTest_events (s : State) (n : Nat) (x : TestCycle) : (s.setTest n x).events = s.events := (rfl)
@[simp] theorem State.setTest_bus (s : State) (n : Nat) (x : TestCycle) : (s.setTest n x).bus = s.bus := (rfl)
@[simp] theorem State.setTest_tb (s : State) (n : Nat) (x : TestCycle) : (s.setTest n x).tb = s.tb := (rfl)
@[simp] theorem State.setTest_tt (s : State) (n : Nat) (x : TestCycle) : (s.setTest n x).tt = s.tt := (rfl)
@[simp] theorem State.setTest_streams (s : State) (n : Nat) (x : TestCycle) : (s.setTest n x).streams = s.streams := (rfl)
@[simp] theorem State.setTest_tiles (s : State) (n : Nat) (x : TestCycle) : (s.setTest n x).tiles = s.tiles := (rfl)
@[simp] theorem State.setTest_csiFill (s : State) (n : Nat) (x : TestCycle) : (s.setTest n x).csiFill = s.csiFill := (rfl)
@[simp] theorem State.setTest_ssps (s : State) (n : Nat) (x : TestCycle) : (s.setTest n x).ssps = s.ssps := (rfl)
@[simp] theorem State.setTest_fusion (s : State) (n : Nat) (x : TestCycle) : (s.setTest n x).fusion = s.fusion := (rfl)
@[simp] theorem State.setTest_dmcs (s : State) (n : Nat) (x : TestCycle) : (s.setTest n x).dmcs = s.dmcs := (rfl)
@[simp] theorem State.setTest_slc (s : State) (n : Nat) (x : TestCycle) : (s.setTest n x).slc = s.slc := (rfl)
@[simp] theorem State.setTest_slcUses (s : State) (n : Nat) (x : TestCycle) : (s.setTest n x).slcUses = s.slcUses := (rfl)
@[simp] theorem State.setTest_caches (s : State) (n : Nat) (x : TestCycle) : (s.setTest n x).caches = s.caches := (rfl)
@[simp] theorem State.setTest_links (s : State) (n : Nat) (x : TestCycle) : (s.setTest n x).links = s.links := (rfl)
@[simp] theorem State.setTest_linkLost (s : State) (n : Nat) (x : TestCycle) : (s.setTest n x).linkLost = s.linkLost := (rfl)
@[simp] theorem State.setTest_holdWays (s : State) (n : Nat) (x : TestCycle) : (s.setTest n x).holdWays = s.holdWays := (rfl)
@[simp] theorem State.setTest_wheelPos (s : State) (n : Nat) (x : TestCycle) : (s.setTest n x).wheelPos = s.wheelPos := (rfl)
@[simp] theorem State.setTest_wheelRun (s : State) (n : Nat) (x : TestCycle) : (s.setTest n x).wheelRun = s.wheelRun := (rfl)
@[simp] theorem State.setTest_wheelLive (s : State) (n : Nat) (x : TestCycle) : (s.setTest n x).wheelLive = s.wheelLive := (rfl)
@[simp] theorem State.setTest_wheelOut (s : State) (n : Nat) (x : TestCycle) : (s.setTest n x).wheelOut = s.wheelOut := (rfl)
@[simp] theorem State.setTest_channels (s : State) (n : Nat) (x : TestCycle) : (s.setTest n x).channels = s.channels := (rfl)
@[simp] theorem State.setTest_ddrQueue (s : State) (n : Nat) (x : TestCycle) : (s.setTest n x).ddrQueue = s.ddrQueue := (rfl)
@[simp] theorem State.setTest_guardLive (s : State) (n : Nat) (x : TestCycle) : (s.setTest n x).guardLive = s.guardLive := (rfl)
@[simp] theorem State.setTest_guardWait (s : State) (n : Nat) (x : TestCycle) : (s.setTest n x).guardWait = s.guardWait := (rfl)
@[simp] theorem State.setTest_guardSent (s : State) (n : Nat) (x : TestCycle) : (s.setTest n x).guardSent = s.guardSent := (rfl)
@[simp] theorem State.setTest_gq (s : State) (n : Nat) (x : TestCycle) : (s.setTest n x).gq = s.gq := (rfl)
@[simp] theorem State.setTest_gfxRun (s : State) (n : Nat) (x : TestCycle) : (s.setTest n x).gfxRun = s.gfxRun := (rfl)
@[simp] theorem State.setTest_heads (s : State) (n : Nat) (x : TestCycle) : (s.setTest n x).heads = s.heads := (rfl)
@[simp] theorem State.setTest_harts (s : State) (n : Nat) (x : TestCycle) : (s.setTest n x).harts = s.harts := (rfl)
@[simp] theorem State.setTest_heath (s : State) (n : Nat) (x : TestCycle) : (s.setTest n x).heath = s.heath := (rfl)
@[simp] theorem State.setTest_msis (s : State) (n : Nat) (x : TestCycle) : (s.setTest n x).msis = s.msis := (rfl)
@[simp] theorem State.setTest_irqs (s : State) (n : Nat) (x : TestCycle) : (s.setTest n x).irqs = s.irqs := (rfl)
@[simp] theorem State.setTest_irqEn (s : State) (n : Nat) (x : TestCycle) : (s.setTest n x).irqEn = s.irqEn := (rfl)
@[simp] theorem State.setTest_msiDropAt (s : State) (n : Nat) (x : TestCycle) : (s.setTest n x).msiDropAt = s.msiDropAt := (rfl)
@[simp] theorem State.setTest_weirs (s : State) (n : Nat) (x : TestCycle) : (s.setTest n x).weirs = s.weirs := (rfl)
@[simp] theorem State.setTest_semOps (s : State) (n : Nat) (x : TestCycle) : (s.setTest n x).semOps = s.semOps := (rfl)
@[simp] theorem State.setTest_gw (s : State) (n : Nat) (x : TestCycle) : (s.setTest n x).gw = s.gw := (rfl)
@[simp] theorem State.setTest_erm (s : State) (n : Nat) (x : TestCycle) : (s.setTest n x).erm = s.erm := (rfl)
@[simp] theorem State.setTest_errs (s : State) (n : Nat) (x : TestCycle) : (s.setTest n x).errs = s.errs := (rfl)
@[simp] theorem State.setTest_windows (s : State) (n : Nat) (x : TestCycle) : (s.setTest n x).windows = s.windows := (rfl)
@[simp] theorem State.setTest_fuses (s : State) (n : Nat) (x : TestCycle) : (s.setTest n x).fuses = s.fuses := (rfl)
@[simp] theorem State.setTest_rom (s : State) (n : Nat) (x : TestCycle) : (s.setTest n x).rom = s.rom := (rfl)
@[simp] theorem State.setTest_wdts (s : State) (n : Nat) (x : TestCycle) : (s.setTest n x).wdts = s.wdts := (rfl)
@[simp] theorem State.setTest_cfgMarks (s : State) (n : Nat) (x : TestCycle) : (s.setTest n x).cfgMarks = s.cfgMarks := (rfl)
@[simp] theorem State.setTest_fwlSeq (s : State) (n : Nat) (x : TestCycle) : (s.setTest n x).fwlSeq = s.fwlSeq := (rfl)
@[simp] theorem State.setTest_therm (s : State) (n : Nat) (x : TestCycle) : (s.setTest n x).therm = s.therm := (rfl)
@[simp] theorem State.setTest_pins (s : State) (n : Nat) (x : TestCycle) : (s.setTest n x).pins = s.pins := (rfl)
@[simp] theorem State.setTest_portLinks (s : State) (n : Nat) (x : TestCycle) : (s.setTest n x).portLinks = s.portLinks := (rfl)
@[simp] theorem State.setTest_ticks (s : State) (n : Nat) (x : TestCycle) : (s.setTest n x).ticks = s.ticks := (rfl)

@[simp] theorem State.setWdt_pending (s : State) (n : Nat) (x : FwWatchdog) : (s.setWdt n x).pending = s.pending := (rfl)
@[simp] theorem State.setWdt_reply (s : State) (n : Nat) (x : FwWatchdog) : (s.setWdt n x).reply = s.reply := (rfl)
@[simp] theorem State.setWdt_regs (s : State) (n : Nat) (x : FwWatchdog) : (s.setWdt n x).regs = s.regs := (rfl)
@[simp] theorem State.setWdt_mem (s : State) (n : Nat) (x : FwWatchdog) : (s.setWdt n x).mem = s.mem := (rfl)
@[simp] theorem State.setWdt_flash (s : State) (n : Nat) (x : FwWatchdog) : (s.setWdt n x).flash = s.flash := (rfl)
@[simp] theorem State.setWdt_ddrDamage (s : State) (n : Nat) (x : FwWatchdog) : (s.setWdt n x).ddrDamage = s.ddrDamage := (rfl)
@[simp] theorem State.setWdt_sramDamage (s : State) (n : Nat) (x : FwWatchdog) : (s.setWdt n x).sramDamage = s.sramDamage := (rfl)
@[simp] theorem State.setWdt_sramSent (s : State) (n : Nat) (x : FwWatchdog) : (s.setWdt n x).sramSent = s.sramSent := (rfl)
@[simp] theorem State.setWdt_dgkBuilt (s : State) (n : Nat) (x : FwWatchdog) : (s.setWdt n x).dgkBuilt = s.dgkBuilt := (rfl)
@[simp] theorem State.setWdt_iotlb (s : State) (n : Nat) (x : FwWatchdog) : (s.setWdt n x).iotlb = s.iotlb := (rfl)
@[simp] theorem State.setWdt_engines (s : State) (n : Nat) (x : FwWatchdog) : (s.setWdt n x).engines = s.engines := (rfl)
@[simp] theorem State.setWdt_sems (s : State) (n : Nat) (x : FwWatchdog) : (s.setWdt n x).sems = s.sems := (rfl)
@[simp] theorem State.setWdt_ctxs (s : State) (n : Nat) (x : FwWatchdog) : (s.setWdt n x).ctxs = s.ctxs := (rfl)
@[simp] theorem State.setWdt_parts (s : State) (n : Nat) (x : FwWatchdog) : (s.setWdt n x).parts = s.parts := (rfl)
@[simp] theorem State.setWdt_models (s : State) (n : Nat) (x : FwWatchdog) : (s.setWdt n x).models = s.models := (rfl)
@[simp] theorem State.setWdt_jobs (s : State) (n : Nat) (x : FwWatchdog) : (s.setWdt n x).jobs = s.jobs := (rfl)
@[simp] theorem State.setWdt_jobNext (s : State) (n : Nat) (x : FwWatchdog) : (s.setWdt n x).jobNext = s.jobNext := (rfl)
@[simp] theorem State.setWdt_laneLast (s : State) (n : Nat) (x : FwWatchdog) : (s.setWdt n x).laneLast = s.laneLast := (rfl)
@[simp] theorem State.setWdt_turn (s : State) (n : Nat) (x : FwWatchdog) : (s.setWdt n x).turn = s.turn := (rfl)
@[simp] theorem State.setWdt_events (s : State) (n : Nat) (x : FwWatchdog) : (s.setWdt n x).events = s.events := (rfl)
@[simp] theorem State.setWdt_bus (s : State) (n : Nat) (x : FwWatchdog) : (s.setWdt n x).bus = s.bus := (rfl)
@[simp] theorem State.setWdt_tb (s : State) (n : Nat) (x : FwWatchdog) : (s.setWdt n x).tb = s.tb := (rfl)
@[simp] theorem State.setWdt_tt (s : State) (n : Nat) (x : FwWatchdog) : (s.setWdt n x).tt = s.tt := (rfl)
@[simp] theorem State.setWdt_streams (s : State) (n : Nat) (x : FwWatchdog) : (s.setWdt n x).streams = s.streams := (rfl)
@[simp] theorem State.setWdt_tiles (s : State) (n : Nat) (x : FwWatchdog) : (s.setWdt n x).tiles = s.tiles := (rfl)
@[simp] theorem State.setWdt_csiFill (s : State) (n : Nat) (x : FwWatchdog) : (s.setWdt n x).csiFill = s.csiFill := (rfl)
@[simp] theorem State.setWdt_ssps (s : State) (n : Nat) (x : FwWatchdog) : (s.setWdt n x).ssps = s.ssps := (rfl)
@[simp] theorem State.setWdt_fusion (s : State) (n : Nat) (x : FwWatchdog) : (s.setWdt n x).fusion = s.fusion := (rfl)
@[simp] theorem State.setWdt_dmcs (s : State) (n : Nat) (x : FwWatchdog) : (s.setWdt n x).dmcs = s.dmcs := (rfl)
@[simp] theorem State.setWdt_slc (s : State) (n : Nat) (x : FwWatchdog) : (s.setWdt n x).slc = s.slc := (rfl)
@[simp] theorem State.setWdt_slcUses (s : State) (n : Nat) (x : FwWatchdog) : (s.setWdt n x).slcUses = s.slcUses := (rfl)
@[simp] theorem State.setWdt_caches (s : State) (n : Nat) (x : FwWatchdog) : (s.setWdt n x).caches = s.caches := (rfl)
@[simp] theorem State.setWdt_links (s : State) (n : Nat) (x : FwWatchdog) : (s.setWdt n x).links = s.links := (rfl)
@[simp] theorem State.setWdt_linkLost (s : State) (n : Nat) (x : FwWatchdog) : (s.setWdt n x).linkLost = s.linkLost := (rfl)
@[simp] theorem State.setWdt_holdWays (s : State) (n : Nat) (x : FwWatchdog) : (s.setWdt n x).holdWays = s.holdWays := (rfl)
@[simp] theorem State.setWdt_wheelPos (s : State) (n : Nat) (x : FwWatchdog) : (s.setWdt n x).wheelPos = s.wheelPos := (rfl)
@[simp] theorem State.setWdt_wheelRun (s : State) (n : Nat) (x : FwWatchdog) : (s.setWdt n x).wheelRun = s.wheelRun := (rfl)
@[simp] theorem State.setWdt_wheelLive (s : State) (n : Nat) (x : FwWatchdog) : (s.setWdt n x).wheelLive = s.wheelLive := (rfl)
@[simp] theorem State.setWdt_wheelOut (s : State) (n : Nat) (x : FwWatchdog) : (s.setWdt n x).wheelOut = s.wheelOut := (rfl)
@[simp] theorem State.setWdt_channels (s : State) (n : Nat) (x : FwWatchdog) : (s.setWdt n x).channels = s.channels := (rfl)
@[simp] theorem State.setWdt_ddrQueue (s : State) (n : Nat) (x : FwWatchdog) : (s.setWdt n x).ddrQueue = s.ddrQueue := (rfl)
@[simp] theorem State.setWdt_guardLive (s : State) (n : Nat) (x : FwWatchdog) : (s.setWdt n x).guardLive = s.guardLive := (rfl)
@[simp] theorem State.setWdt_guardWait (s : State) (n : Nat) (x : FwWatchdog) : (s.setWdt n x).guardWait = s.guardWait := (rfl)
@[simp] theorem State.setWdt_guardSent (s : State) (n : Nat) (x : FwWatchdog) : (s.setWdt n x).guardSent = s.guardSent := (rfl)
@[simp] theorem State.setWdt_gq (s : State) (n : Nat) (x : FwWatchdog) : (s.setWdt n x).gq = s.gq := (rfl)
@[simp] theorem State.setWdt_gfxRun (s : State) (n : Nat) (x : FwWatchdog) : (s.setWdt n x).gfxRun = s.gfxRun := (rfl)
@[simp] theorem State.setWdt_heads (s : State) (n : Nat) (x : FwWatchdog) : (s.setWdt n x).heads = s.heads := (rfl)
@[simp] theorem State.setWdt_harts (s : State) (n : Nat) (x : FwWatchdog) : (s.setWdt n x).harts = s.harts := (rfl)
@[simp] theorem State.setWdt_heath (s : State) (n : Nat) (x : FwWatchdog) : (s.setWdt n x).heath = s.heath := (rfl)
@[simp] theorem State.setWdt_msis (s : State) (n : Nat) (x : FwWatchdog) : (s.setWdt n x).msis = s.msis := (rfl)
@[simp] theorem State.setWdt_irqs (s : State) (n : Nat) (x : FwWatchdog) : (s.setWdt n x).irqs = s.irqs := (rfl)
@[simp] theorem State.setWdt_irqEn (s : State) (n : Nat) (x : FwWatchdog) : (s.setWdt n x).irqEn = s.irqEn := (rfl)
@[simp] theorem State.setWdt_msiDropAt (s : State) (n : Nat) (x : FwWatchdog) : (s.setWdt n x).msiDropAt = s.msiDropAt := (rfl)
@[simp] theorem State.setWdt_weirs (s : State) (n : Nat) (x : FwWatchdog) : (s.setWdt n x).weirs = s.weirs := (rfl)
@[simp] theorem State.setWdt_semOps (s : State) (n : Nat) (x : FwWatchdog) : (s.setWdt n x).semOps = s.semOps := (rfl)
@[simp] theorem State.setWdt_gw (s : State) (n : Nat) (x : FwWatchdog) : (s.setWdt n x).gw = s.gw := (rfl)
@[simp] theorem State.setWdt_erm (s : State) (n : Nat) (x : FwWatchdog) : (s.setWdt n x).erm = s.erm := (rfl)
@[simp] theorem State.setWdt_errs (s : State) (n : Nat) (x : FwWatchdog) : (s.setWdt n x).errs = s.errs := (rfl)
@[simp] theorem State.setWdt_windows (s : State) (n : Nat) (x : FwWatchdog) : (s.setWdt n x).windows = s.windows := (rfl)
@[simp] theorem State.setWdt_tests (s : State) (n : Nat) (x : FwWatchdog) : (s.setWdt n x).tests = s.tests := (rfl)
@[simp] theorem State.setWdt_fuses (s : State) (n : Nat) (x : FwWatchdog) : (s.setWdt n x).fuses = s.fuses := (rfl)
@[simp] theorem State.setWdt_rom (s : State) (n : Nat) (x : FwWatchdog) : (s.setWdt n x).rom = s.rom := (rfl)
@[simp] theorem State.setWdt_cfgMarks (s : State) (n : Nat) (x : FwWatchdog) : (s.setWdt n x).cfgMarks = s.cfgMarks := (rfl)
@[simp] theorem State.setWdt_fwlSeq (s : State) (n : Nat) (x : FwWatchdog) : (s.setWdt n x).fwlSeq = s.fwlSeq := (rfl)
@[simp] theorem State.setWdt_therm (s : State) (n : Nat) (x : FwWatchdog) : (s.setWdt n x).therm = s.therm := (rfl)
@[simp] theorem State.setWdt_pins (s : State) (n : Nat) (x : FwWatchdog) : (s.setWdt n x).pins = s.pins := (rfl)
@[simp] theorem State.setWdt_portLinks (s : State) (n : Nat) (x : FwWatchdog) : (s.setWdt n x).portLinks = s.portLinks := (rfl)
@[simp] theorem State.setWdt_ticks (s : State) (n : Nat) (x : FwWatchdog) : (s.setWdt n x).ticks = s.ticks := (rfl)

@[simp] theorem State.report_pending (s : State) (r : ErrRecord) : (s.report r).pending = s.pending := (rfl)
@[simp] theorem State.report_reply (s : State) (r : ErrRecord) : (s.report r).reply = s.reply := (rfl)
@[simp] theorem State.report_regs (s : State) (r : ErrRecord) : (s.report r).regs = s.regs := (rfl)
@[simp] theorem State.report_mem (s : State) (r : ErrRecord) : (s.report r).mem = s.mem := (rfl)
@[simp] theorem State.report_flash (s : State) (r : ErrRecord) : (s.report r).flash = s.flash := (rfl)
@[simp] theorem State.report_ddrDamage (s : State) (r : ErrRecord) : (s.report r).ddrDamage = s.ddrDamage := (rfl)
@[simp] theorem State.report_sramDamage (s : State) (r : ErrRecord) : (s.report r).sramDamage = s.sramDamage := (rfl)
@[simp] theorem State.report_sramSent (s : State) (r : ErrRecord) : (s.report r).sramSent = s.sramSent := (rfl)
@[simp] theorem State.report_dgkBuilt (s : State) (r : ErrRecord) : (s.report r).dgkBuilt = s.dgkBuilt := (rfl)
@[simp] theorem State.report_iotlb (s : State) (r : ErrRecord) : (s.report r).iotlb = s.iotlb := (rfl)
@[simp] theorem State.report_engines (s : State) (r : ErrRecord) : (s.report r).engines = s.engines := (rfl)
@[simp] theorem State.report_sems (s : State) (r : ErrRecord) : (s.report r).sems = s.sems := (rfl)
@[simp] theorem State.report_ctxs (s : State) (r : ErrRecord) : (s.report r).ctxs = s.ctxs := (rfl)
@[simp] theorem State.report_parts (s : State) (r : ErrRecord) : (s.report r).parts = s.parts := (rfl)
@[simp] theorem State.report_models (s : State) (r : ErrRecord) : (s.report r).models = s.models := (rfl)
@[simp] theorem State.report_jobs (s : State) (r : ErrRecord) : (s.report r).jobs = s.jobs := (rfl)
@[simp] theorem State.report_jobNext (s : State) (r : ErrRecord) : (s.report r).jobNext = s.jobNext := (rfl)
@[simp] theorem State.report_laneLast (s : State) (r : ErrRecord) : (s.report r).laneLast = s.laneLast := (rfl)
@[simp] theorem State.report_turn (s : State) (r : ErrRecord) : (s.report r).turn = s.turn := (rfl)
@[simp] theorem State.report_events (s : State) (r : ErrRecord) : (s.report r).events = s.events := (rfl)
@[simp] theorem State.report_bus (s : State) (r : ErrRecord) : (s.report r).bus = s.bus := (rfl)
@[simp] theorem State.report_tb (s : State) (r : ErrRecord) : (s.report r).tb = s.tb := (rfl)
@[simp] theorem State.report_tt (s : State) (r : ErrRecord) : (s.report r).tt = s.tt := (rfl)
@[simp] theorem State.report_streams (s : State) (r : ErrRecord) : (s.report r).streams = s.streams := (rfl)
@[simp] theorem State.report_tiles (s : State) (r : ErrRecord) : (s.report r).tiles = s.tiles := (rfl)
@[simp] theorem State.report_csiFill (s : State) (r : ErrRecord) : (s.report r).csiFill = s.csiFill := (rfl)
@[simp] theorem State.report_ssps (s : State) (r : ErrRecord) : (s.report r).ssps = s.ssps := (rfl)
@[simp] theorem State.report_fusion (s : State) (r : ErrRecord) : (s.report r).fusion = s.fusion := (rfl)
@[simp] theorem State.report_dmcs (s : State) (r : ErrRecord) : (s.report r).dmcs = s.dmcs := (rfl)
@[simp] theorem State.report_slc (s : State) (r : ErrRecord) : (s.report r).slc = s.slc := (rfl)
@[simp] theorem State.report_slcUses (s : State) (r : ErrRecord) : (s.report r).slcUses = s.slcUses := (rfl)
@[simp] theorem State.report_caches (s : State) (r : ErrRecord) : (s.report r).caches = s.caches := (rfl)
@[simp] theorem State.report_links (s : State) (r : ErrRecord) : (s.report r).links = s.links := (rfl)
@[simp] theorem State.report_linkLost (s : State) (r : ErrRecord) : (s.report r).linkLost = s.linkLost := (rfl)
@[simp] theorem State.report_holdWays (s : State) (r : ErrRecord) : (s.report r).holdWays = s.holdWays := (rfl)
@[simp] theorem State.report_wheelPos (s : State) (r : ErrRecord) : (s.report r).wheelPos = s.wheelPos := (rfl)
@[simp] theorem State.report_wheelRun (s : State) (r : ErrRecord) : (s.report r).wheelRun = s.wheelRun := (rfl)
@[simp] theorem State.report_wheelLive (s : State) (r : ErrRecord) : (s.report r).wheelLive = s.wheelLive := (rfl)
@[simp] theorem State.report_wheelOut (s : State) (r : ErrRecord) : (s.report r).wheelOut = s.wheelOut := (rfl)
@[simp] theorem State.report_channels (s : State) (r : ErrRecord) : (s.report r).channels = s.channels := (rfl)
@[simp] theorem State.report_ddrQueue (s : State) (r : ErrRecord) : (s.report r).ddrQueue = s.ddrQueue := (rfl)
@[simp] theorem State.report_guardLive (s : State) (r : ErrRecord) : (s.report r).guardLive = s.guardLive := (rfl)
@[simp] theorem State.report_guardWait (s : State) (r : ErrRecord) : (s.report r).guardWait = s.guardWait := (rfl)
@[simp] theorem State.report_guardSent (s : State) (r : ErrRecord) : (s.report r).guardSent = s.guardSent := (rfl)
@[simp] theorem State.report_gq (s : State) (r : ErrRecord) : (s.report r).gq = s.gq := (rfl)
@[simp] theorem State.report_gfxRun (s : State) (r : ErrRecord) : (s.report r).gfxRun = s.gfxRun := (rfl)
@[simp] theorem State.report_heads (s : State) (r : ErrRecord) : (s.report r).heads = s.heads := (rfl)
@[simp] theorem State.report_harts (s : State) (r : ErrRecord) : (s.report r).harts = s.harts := (rfl)
@[simp] theorem State.report_heath (s : State) (r : ErrRecord) : (s.report r).heath = s.heath := (rfl)
@[simp] theorem State.report_msis (s : State) (r : ErrRecord) : (s.report r).msis = s.msis := (rfl)
@[simp] theorem State.report_irqs (s : State) (r : ErrRecord) : (s.report r).irqs = s.irqs := (rfl)
@[simp] theorem State.report_irqEn (s : State) (r : ErrRecord) : (s.report r).irqEn = s.irqEn := (rfl)
@[simp] theorem State.report_msiDropAt (s : State) (r : ErrRecord) : (s.report r).msiDropAt = s.msiDropAt := (rfl)
@[simp] theorem State.report_weirs (s : State) (r : ErrRecord) : (s.report r).weirs = s.weirs := (rfl)
@[simp] theorem State.report_semOps (s : State) (r : ErrRecord) : (s.report r).semOps = s.semOps := (rfl)
@[simp] theorem State.report_gw (s : State) (r : ErrRecord) : (s.report r).gw = s.gw := (rfl)
@[simp] theorem State.report_erm (s : State) (r : ErrRecord) : (s.report r).erm = s.erm := (rfl)
@[simp] theorem State.report_windows (s : State) (r : ErrRecord) : (s.report r).windows = s.windows := (rfl)
@[simp] theorem State.report_tests (s : State) (r : ErrRecord) : (s.report r).tests = s.tests := (rfl)
@[simp] theorem State.report_fuses (s : State) (r : ErrRecord) : (s.report r).fuses = s.fuses := (rfl)
@[simp] theorem State.report_rom (s : State) (r : ErrRecord) : (s.report r).rom = s.rom := (rfl)
@[simp] theorem State.report_wdts (s : State) (r : ErrRecord) : (s.report r).wdts = s.wdts := (rfl)
@[simp] theorem State.report_cfgMarks (s : State) (r : ErrRecord) : (s.report r).cfgMarks = s.cfgMarks := (rfl)
@[simp] theorem State.report_fwlSeq (s : State) (r : ErrRecord) : (s.report r).fwlSeq = s.fwlSeq := (rfl)
@[simp] theorem State.report_therm (s : State) (r : ErrRecord) : (s.report r).therm = s.therm := (rfl)
@[simp] theorem State.report_pins (s : State) (r : ErrRecord) : (s.report r).pins = s.pins := (rfl)
@[simp] theorem State.report_portLinks (s : State) (r : ErrRecord) : (s.report r).portLinks = s.portLinks := (rfl)
@[simp] theorem State.report_ticks (s : State) (r : ErrRecord) : (s.report r).ticks = s.ticks := (rfl)

@[simp] theorem State.store_pending (s : State) (pa : Nat) (bs : List Byte) : (s.store pa bs).pending = s.pending := (rfl)
@[simp] theorem State.store_reply (s : State) (pa : Nat) (bs : List Byte) : (s.store pa bs).reply = s.reply := (rfl)
@[simp] theorem State.store_regs (s : State) (pa : Nat) (bs : List Byte) : (s.store pa bs).regs = s.regs := (rfl)
@[simp] theorem State.store_flash (s : State) (pa : Nat) (bs : List Byte) : (s.store pa bs).flash = s.flash := (rfl)
@[simp] theorem State.store_ddrDamage (s : State) (pa : Nat) (bs : List Byte) : (s.store pa bs).ddrDamage = s.ddrDamage := (rfl)
@[simp] theorem State.store_sramDamage (s : State) (pa : Nat) (bs : List Byte) : (s.store pa bs).sramDamage = s.sramDamage := (rfl)
@[simp] theorem State.store_sramSent (s : State) (pa : Nat) (bs : List Byte) : (s.store pa bs).sramSent = s.sramSent := (rfl)
@[simp] theorem State.store_dgkBuilt (s : State) (pa : Nat) (bs : List Byte) : (s.store pa bs).dgkBuilt = s.dgkBuilt := (rfl)
@[simp] theorem State.store_iotlb (s : State) (pa : Nat) (bs : List Byte) : (s.store pa bs).iotlb = s.iotlb := (rfl)
@[simp] theorem State.store_engines (s : State) (pa : Nat) (bs : List Byte) : (s.store pa bs).engines = s.engines := (rfl)
@[simp] theorem State.store_sems (s : State) (pa : Nat) (bs : List Byte) : (s.store pa bs).sems = s.sems := (rfl)
@[simp] theorem State.store_ctxs (s : State) (pa : Nat) (bs : List Byte) : (s.store pa bs).ctxs = s.ctxs := (rfl)
@[simp] theorem State.store_parts (s : State) (pa : Nat) (bs : List Byte) : (s.store pa bs).parts = s.parts := (rfl)
@[simp] theorem State.store_models (s : State) (pa : Nat) (bs : List Byte) : (s.store pa bs).models = s.models := (rfl)
@[simp] theorem State.store_jobs (s : State) (pa : Nat) (bs : List Byte) : (s.store pa bs).jobs = s.jobs := (rfl)
@[simp] theorem State.store_jobNext (s : State) (pa : Nat) (bs : List Byte) : (s.store pa bs).jobNext = s.jobNext := (rfl)
@[simp] theorem State.store_laneLast (s : State) (pa : Nat) (bs : List Byte) : (s.store pa bs).laneLast = s.laneLast := (rfl)
@[simp] theorem State.store_turn (s : State) (pa : Nat) (bs : List Byte) : (s.store pa bs).turn = s.turn := (rfl)
@[simp] theorem State.store_events (s : State) (pa : Nat) (bs : List Byte) : (s.store pa bs).events = s.events := (rfl)
@[simp] theorem State.store_bus (s : State) (pa : Nat) (bs : List Byte) : (s.store pa bs).bus = s.bus := (rfl)
@[simp] theorem State.store_tb (s : State) (pa : Nat) (bs : List Byte) : (s.store pa bs).tb = s.tb := (rfl)
@[simp] theorem State.store_tt (s : State) (pa : Nat) (bs : List Byte) : (s.store pa bs).tt = s.tt := (rfl)
@[simp] theorem State.store_streams (s : State) (pa : Nat) (bs : List Byte) : (s.store pa bs).streams = s.streams := (rfl)
@[simp] theorem State.store_tiles (s : State) (pa : Nat) (bs : List Byte) : (s.store pa bs).tiles = s.tiles := (rfl)
@[simp] theorem State.store_csiFill (s : State) (pa : Nat) (bs : List Byte) : (s.store pa bs).csiFill = s.csiFill := (rfl)
@[simp] theorem State.store_ssps (s : State) (pa : Nat) (bs : List Byte) : (s.store pa bs).ssps = s.ssps := (rfl)
@[simp] theorem State.store_fusion (s : State) (pa : Nat) (bs : List Byte) : (s.store pa bs).fusion = s.fusion := (rfl)
@[simp] theorem State.store_dmcs (s : State) (pa : Nat) (bs : List Byte) : (s.store pa bs).dmcs = s.dmcs := (rfl)
@[simp] theorem State.store_slc (s : State) (pa : Nat) (bs : List Byte) : (s.store pa bs).slc = s.slc := (rfl)
@[simp] theorem State.store_slcUses (s : State) (pa : Nat) (bs : List Byte) : (s.store pa bs).slcUses = s.slcUses := (rfl)
@[simp] theorem State.store_caches (s : State) (pa : Nat) (bs : List Byte) : (s.store pa bs).caches = s.caches := (rfl)
@[simp] theorem State.store_links (s : State) (pa : Nat) (bs : List Byte) : (s.store pa bs).links = s.links := (rfl)
@[simp] theorem State.store_linkLost (s : State) (pa : Nat) (bs : List Byte) : (s.store pa bs).linkLost = s.linkLost := (rfl)
@[simp] theorem State.store_holdWays (s : State) (pa : Nat) (bs : List Byte) : (s.store pa bs).holdWays = s.holdWays := (rfl)
@[simp] theorem State.store_wheelPos (s : State) (pa : Nat) (bs : List Byte) : (s.store pa bs).wheelPos = s.wheelPos := (rfl)
@[simp] theorem State.store_wheelRun (s : State) (pa : Nat) (bs : List Byte) : (s.store pa bs).wheelRun = s.wheelRun := (rfl)
@[simp] theorem State.store_wheelLive (s : State) (pa : Nat) (bs : List Byte) : (s.store pa bs).wheelLive = s.wheelLive := (rfl)
@[simp] theorem State.store_wheelOut (s : State) (pa : Nat) (bs : List Byte) : (s.store pa bs).wheelOut = s.wheelOut := (rfl)
@[simp] theorem State.store_channels (s : State) (pa : Nat) (bs : List Byte) : (s.store pa bs).channels = s.channels := (rfl)
@[simp] theorem State.store_ddrQueue (s : State) (pa : Nat) (bs : List Byte) : (s.store pa bs).ddrQueue = s.ddrQueue := (rfl)
@[simp] theorem State.store_guardLive (s : State) (pa : Nat) (bs : List Byte) : (s.store pa bs).guardLive = s.guardLive := (rfl)
@[simp] theorem State.store_guardWait (s : State) (pa : Nat) (bs : List Byte) : (s.store pa bs).guardWait = s.guardWait := (rfl)
@[simp] theorem State.store_guardSent (s : State) (pa : Nat) (bs : List Byte) : (s.store pa bs).guardSent = s.guardSent := (rfl)
@[simp] theorem State.store_gq (s : State) (pa : Nat) (bs : List Byte) : (s.store pa bs).gq = s.gq := (rfl)
@[simp] theorem State.store_gfxRun (s : State) (pa : Nat) (bs : List Byte) : (s.store pa bs).gfxRun = s.gfxRun := (rfl)
@[simp] theorem State.store_heads (s : State) (pa : Nat) (bs : List Byte) : (s.store pa bs).heads = s.heads := (rfl)
@[simp] theorem State.store_harts (s : State) (pa : Nat) (bs : List Byte) : (s.store pa bs).harts = s.harts := (rfl)
@[simp] theorem State.store_heath (s : State) (pa : Nat) (bs : List Byte) : (s.store pa bs).heath = s.heath := (rfl)
@[simp] theorem State.store_msis (s : State) (pa : Nat) (bs : List Byte) : (s.store pa bs).msis = s.msis := (rfl)
@[simp] theorem State.store_irqs (s : State) (pa : Nat) (bs : List Byte) : (s.store pa bs).irqs = s.irqs := (rfl)
@[simp] theorem State.store_irqEn (s : State) (pa : Nat) (bs : List Byte) : (s.store pa bs).irqEn = s.irqEn := (rfl)
@[simp] theorem State.store_msiDropAt (s : State) (pa : Nat) (bs : List Byte) : (s.store pa bs).msiDropAt = s.msiDropAt := (rfl)
@[simp] theorem State.store_weirs (s : State) (pa : Nat) (bs : List Byte) : (s.store pa bs).weirs = s.weirs := (rfl)
@[simp] theorem State.store_semOps (s : State) (pa : Nat) (bs : List Byte) : (s.store pa bs).semOps = s.semOps := (rfl)
@[simp] theorem State.store_gw (s : State) (pa : Nat) (bs : List Byte) : (s.store pa bs).gw = s.gw := (rfl)
@[simp] theorem State.store_erm (s : State) (pa : Nat) (bs : List Byte) : (s.store pa bs).erm = s.erm := (rfl)
@[simp] theorem State.store_errs (s : State) (pa : Nat) (bs : List Byte) : (s.store pa bs).errs = s.errs := (rfl)
@[simp] theorem State.store_windows (s : State) (pa : Nat) (bs : List Byte) : (s.store pa bs).windows = s.windows := (rfl)
@[simp] theorem State.store_tests (s : State) (pa : Nat) (bs : List Byte) : (s.store pa bs).tests = s.tests := (rfl)
@[simp] theorem State.store_fuses (s : State) (pa : Nat) (bs : List Byte) : (s.store pa bs).fuses = s.fuses := (rfl)
@[simp] theorem State.store_rom (s : State) (pa : Nat) (bs : List Byte) : (s.store pa bs).rom = s.rom := (rfl)
@[simp] theorem State.store_wdts (s : State) (pa : Nat) (bs : List Byte) : (s.store pa bs).wdts = s.wdts := (rfl)
@[simp] theorem State.store_cfgMarks (s : State) (pa : Nat) (bs : List Byte) : (s.store pa bs).cfgMarks = s.cfgMarks := (rfl)
@[simp] theorem State.store_fwlSeq (s : State) (pa : Nat) (bs : List Byte) : (s.store pa bs).fwlSeq = s.fwlSeq := (rfl)
@[simp] theorem State.store_therm (s : State) (pa : Nat) (bs : List Byte) : (s.store pa bs).therm = s.therm := (rfl)
@[simp] theorem State.store_pins (s : State) (pa : Nat) (bs : List Byte) : (s.store pa bs).pins = s.pins := (rfl)
@[simp] theorem State.store_portLinks (s : State) (pa : Nat) (bs : List Byte) : (s.store pa bs).portLinks = s.portLinks := (rfl)
@[simp] theorem State.store_ticks (s : State) (pa : Nat) (bs : List Byte) : (s.store pa bs).ticks = s.ticks := (rfl)

@[simp] theorem State.zero_pending (s : State) (pa n : Nat) : (s.zero pa n).pending = s.pending := (rfl)
@[simp] theorem State.zero_reply (s : State) (pa n : Nat) : (s.zero pa n).reply = s.reply := (rfl)
@[simp] theorem State.zero_regs (s : State) (pa n : Nat) : (s.zero pa n).regs = s.regs := (rfl)
@[simp] theorem State.zero_flash (s : State) (pa n : Nat) : (s.zero pa n).flash = s.flash := (rfl)
@[simp] theorem State.zero_ddrDamage (s : State) (pa n : Nat) : (s.zero pa n).ddrDamage = s.ddrDamage := (rfl)
@[simp] theorem State.zero_sramDamage (s : State) (pa n : Nat) : (s.zero pa n).sramDamage = s.sramDamage := (rfl)
@[simp] theorem State.zero_sramSent (s : State) (pa n : Nat) : (s.zero pa n).sramSent = s.sramSent := (rfl)
@[simp] theorem State.zero_dgkBuilt (s : State) (pa n : Nat) : (s.zero pa n).dgkBuilt = s.dgkBuilt := (rfl)
@[simp] theorem State.zero_iotlb (s : State) (pa n : Nat) : (s.zero pa n).iotlb = s.iotlb := (rfl)
@[simp] theorem State.zero_engines (s : State) (pa n : Nat) : (s.zero pa n).engines = s.engines := (rfl)
@[simp] theorem State.zero_sems (s : State) (pa n : Nat) : (s.zero pa n).sems = s.sems := (rfl)
@[simp] theorem State.zero_ctxs (s : State) (pa n : Nat) : (s.zero pa n).ctxs = s.ctxs := (rfl)
@[simp] theorem State.zero_parts (s : State) (pa n : Nat) : (s.zero pa n).parts = s.parts := (rfl)
@[simp] theorem State.zero_models (s : State) (pa n : Nat) : (s.zero pa n).models = s.models := (rfl)
@[simp] theorem State.zero_jobs (s : State) (pa n : Nat) : (s.zero pa n).jobs = s.jobs := (rfl)
@[simp] theorem State.zero_jobNext (s : State) (pa n : Nat) : (s.zero pa n).jobNext = s.jobNext := (rfl)
@[simp] theorem State.zero_laneLast (s : State) (pa n : Nat) : (s.zero pa n).laneLast = s.laneLast := (rfl)
@[simp] theorem State.zero_turn (s : State) (pa n : Nat) : (s.zero pa n).turn = s.turn := (rfl)
@[simp] theorem State.zero_events (s : State) (pa n : Nat) : (s.zero pa n).events = s.events := (rfl)
@[simp] theorem State.zero_bus (s : State) (pa n : Nat) : (s.zero pa n).bus = s.bus := (rfl)
@[simp] theorem State.zero_tb (s : State) (pa n : Nat) : (s.zero pa n).tb = s.tb := (rfl)
@[simp] theorem State.zero_tt (s : State) (pa n : Nat) : (s.zero pa n).tt = s.tt := (rfl)
@[simp] theorem State.zero_streams (s : State) (pa n : Nat) : (s.zero pa n).streams = s.streams := (rfl)
@[simp] theorem State.zero_tiles (s : State) (pa n : Nat) : (s.zero pa n).tiles = s.tiles := (rfl)
@[simp] theorem State.zero_csiFill (s : State) (pa n : Nat) : (s.zero pa n).csiFill = s.csiFill := (rfl)
@[simp] theorem State.zero_ssps (s : State) (pa n : Nat) : (s.zero pa n).ssps = s.ssps := (rfl)
@[simp] theorem State.zero_fusion (s : State) (pa n : Nat) : (s.zero pa n).fusion = s.fusion := (rfl)
@[simp] theorem State.zero_dmcs (s : State) (pa n : Nat) : (s.zero pa n).dmcs = s.dmcs := (rfl)
@[simp] theorem State.zero_slc (s : State) (pa n : Nat) : (s.zero pa n).slc = s.slc := (rfl)
@[simp] theorem State.zero_slcUses (s : State) (pa n : Nat) : (s.zero pa n).slcUses = s.slcUses := (rfl)
@[simp] theorem State.zero_caches (s : State) (pa n : Nat) : (s.zero pa n).caches = s.caches := (rfl)
@[simp] theorem State.zero_links (s : State) (pa n : Nat) : (s.zero pa n).links = s.links := (rfl)
@[simp] theorem State.zero_linkLost (s : State) (pa n : Nat) : (s.zero pa n).linkLost = s.linkLost := (rfl)
@[simp] theorem State.zero_holdWays (s : State) (pa n : Nat) : (s.zero pa n).holdWays = s.holdWays := (rfl)
@[simp] theorem State.zero_wheelPos (s : State) (pa n : Nat) : (s.zero pa n).wheelPos = s.wheelPos := (rfl)
@[simp] theorem State.zero_wheelRun (s : State) (pa n : Nat) : (s.zero pa n).wheelRun = s.wheelRun := (rfl)
@[simp] theorem State.zero_wheelLive (s : State) (pa n : Nat) : (s.zero pa n).wheelLive = s.wheelLive := (rfl)
@[simp] theorem State.zero_wheelOut (s : State) (pa n : Nat) : (s.zero pa n).wheelOut = s.wheelOut := (rfl)
@[simp] theorem State.zero_channels (s : State) (pa n : Nat) : (s.zero pa n).channels = s.channels := (rfl)
@[simp] theorem State.zero_ddrQueue (s : State) (pa n : Nat) : (s.zero pa n).ddrQueue = s.ddrQueue := (rfl)
@[simp] theorem State.zero_guardLive (s : State) (pa n : Nat) : (s.zero pa n).guardLive = s.guardLive := (rfl)
@[simp] theorem State.zero_guardWait (s : State) (pa n : Nat) : (s.zero pa n).guardWait = s.guardWait := (rfl)
@[simp] theorem State.zero_guardSent (s : State) (pa n : Nat) : (s.zero pa n).guardSent = s.guardSent := (rfl)
@[simp] theorem State.zero_gq (s : State) (pa n : Nat) : (s.zero pa n).gq = s.gq := (rfl)
@[simp] theorem State.zero_gfxRun (s : State) (pa n : Nat) : (s.zero pa n).gfxRun = s.gfxRun := (rfl)
@[simp] theorem State.zero_heads (s : State) (pa n : Nat) : (s.zero pa n).heads = s.heads := (rfl)
@[simp] theorem State.zero_harts (s : State) (pa n : Nat) : (s.zero pa n).harts = s.harts := (rfl)
@[simp] theorem State.zero_heath (s : State) (pa n : Nat) : (s.zero pa n).heath = s.heath := (rfl)
@[simp] theorem State.zero_msis (s : State) (pa n : Nat) : (s.zero pa n).msis = s.msis := (rfl)
@[simp] theorem State.zero_irqs (s : State) (pa n : Nat) : (s.zero pa n).irqs = s.irqs := (rfl)
@[simp] theorem State.zero_irqEn (s : State) (pa n : Nat) : (s.zero pa n).irqEn = s.irqEn := (rfl)
@[simp] theorem State.zero_msiDropAt (s : State) (pa n : Nat) : (s.zero pa n).msiDropAt = s.msiDropAt := (rfl)
@[simp] theorem State.zero_weirs (s : State) (pa n : Nat) : (s.zero pa n).weirs = s.weirs := (rfl)
@[simp] theorem State.zero_semOps (s : State) (pa n : Nat) : (s.zero pa n).semOps = s.semOps := (rfl)
@[simp] theorem State.zero_gw (s : State) (pa n : Nat) : (s.zero pa n).gw = s.gw := (rfl)
@[simp] theorem State.zero_erm (s : State) (pa n : Nat) : (s.zero pa n).erm = s.erm := (rfl)
@[simp] theorem State.zero_errs (s : State) (pa n : Nat) : (s.zero pa n).errs = s.errs := (rfl)
@[simp] theorem State.zero_windows (s : State) (pa n : Nat) : (s.zero pa n).windows = s.windows := (rfl)
@[simp] theorem State.zero_tests (s : State) (pa n : Nat) : (s.zero pa n).tests = s.tests := (rfl)
@[simp] theorem State.zero_fuses (s : State) (pa n : Nat) : (s.zero pa n).fuses = s.fuses := (rfl)
@[simp] theorem State.zero_rom (s : State) (pa n : Nat) : (s.zero pa n).rom = s.rom := (rfl)
@[simp] theorem State.zero_wdts (s : State) (pa n : Nat) : (s.zero pa n).wdts = s.wdts := (rfl)
@[simp] theorem State.zero_cfgMarks (s : State) (pa n : Nat) : (s.zero pa n).cfgMarks = s.cfgMarks := (rfl)
@[simp] theorem State.zero_fwlSeq (s : State) (pa n : Nat) : (s.zero pa n).fwlSeq = s.fwlSeq := (rfl)
@[simp] theorem State.zero_therm (s : State) (pa n : Nat) : (s.zero pa n).therm = s.therm := (rfl)
@[simp] theorem State.zero_pins (s : State) (pa n : Nat) : (s.zero pa n).pins = s.pins := (rfl)
@[simp] theorem State.zero_portLinks (s : State) (pa n : Nat) : (s.zero pa n).portLinks = s.portLinks := (rfl)
@[simp] theorem State.zero_ticks (s : State) (pa n : Nat) : (s.zero pa n).ticks = s.ticks := (rfl)

@[simp] theorem State.sendMsi_pending (s : State) (i : Initiator) (c a d : Nat) : (s.sendMsi i c a d).pending = s.pending := (rfl)
@[simp] theorem State.sendMsi_reply (s : State) (i : Initiator) (c a d : Nat) : (s.sendMsi i c a d).reply = s.reply := (rfl)
@[simp] theorem State.sendMsi_regs (s : State) (i : Initiator) (c a d : Nat) : (s.sendMsi i c a d).regs = s.regs := (rfl)
@[simp] theorem State.sendMsi_mem (s : State) (i : Initiator) (c a d : Nat) : (s.sendMsi i c a d).mem = s.mem := (rfl)
@[simp] theorem State.sendMsi_flash (s : State) (i : Initiator) (c a d : Nat) : (s.sendMsi i c a d).flash = s.flash := (rfl)
@[simp] theorem State.sendMsi_ddrDamage (s : State) (i : Initiator) (c a d : Nat) : (s.sendMsi i c a d).ddrDamage = s.ddrDamage := (rfl)
@[simp] theorem State.sendMsi_sramDamage (s : State) (i : Initiator) (c a d : Nat) : (s.sendMsi i c a d).sramDamage = s.sramDamage := (rfl)
@[simp] theorem State.sendMsi_sramSent (s : State) (i : Initiator) (c a d : Nat) : (s.sendMsi i c a d).sramSent = s.sramSent := (rfl)
@[simp] theorem State.sendMsi_dgkBuilt (s : State) (i : Initiator) (c a d : Nat) : (s.sendMsi i c a d).dgkBuilt = s.dgkBuilt := (rfl)
@[simp] theorem State.sendMsi_iotlb (s : State) (i : Initiator) (c a d : Nat) : (s.sendMsi i c a d).iotlb = s.iotlb := (rfl)
@[simp] theorem State.sendMsi_engines (s : State) (i : Initiator) (c a d : Nat) : (s.sendMsi i c a d).engines = s.engines := (rfl)
@[simp] theorem State.sendMsi_sems (s : State) (i : Initiator) (c a d : Nat) : (s.sendMsi i c a d).sems = s.sems := (rfl)
@[simp] theorem State.sendMsi_ctxs (s : State) (i : Initiator) (c a d : Nat) : (s.sendMsi i c a d).ctxs = s.ctxs := (rfl)
@[simp] theorem State.sendMsi_parts (s : State) (i : Initiator) (c a d : Nat) : (s.sendMsi i c a d).parts = s.parts := (rfl)
@[simp] theorem State.sendMsi_models (s : State) (i : Initiator) (c a d : Nat) : (s.sendMsi i c a d).models = s.models := (rfl)
@[simp] theorem State.sendMsi_jobs (s : State) (i : Initiator) (c a d : Nat) : (s.sendMsi i c a d).jobs = s.jobs := (rfl)
@[simp] theorem State.sendMsi_jobNext (s : State) (i : Initiator) (c a d : Nat) : (s.sendMsi i c a d).jobNext = s.jobNext := (rfl)
@[simp] theorem State.sendMsi_laneLast (s : State) (i : Initiator) (c a d : Nat) : (s.sendMsi i c a d).laneLast = s.laneLast := (rfl)
@[simp] theorem State.sendMsi_turn (s : State) (i : Initiator) (c a d : Nat) : (s.sendMsi i c a d).turn = s.turn := (rfl)
@[simp] theorem State.sendMsi_events (s : State) (i : Initiator) (c a d : Nat) : (s.sendMsi i c a d).events = s.events := (rfl)
@[simp] theorem State.sendMsi_bus (s : State) (i : Initiator) (c a d : Nat) : (s.sendMsi i c a d).bus = s.bus := (rfl)
@[simp] theorem State.sendMsi_tb (s : State) (i : Initiator) (c a d : Nat) : (s.sendMsi i c a d).tb = s.tb := (rfl)
@[simp] theorem State.sendMsi_tt (s : State) (i : Initiator) (c a d : Nat) : (s.sendMsi i c a d).tt = s.tt := (rfl)
@[simp] theorem State.sendMsi_streams (s : State) (i : Initiator) (c a d : Nat) : (s.sendMsi i c a d).streams = s.streams := (rfl)
@[simp] theorem State.sendMsi_tiles (s : State) (i : Initiator) (c a d : Nat) : (s.sendMsi i c a d).tiles = s.tiles := (rfl)
@[simp] theorem State.sendMsi_csiFill (s : State) (i : Initiator) (c a d : Nat) : (s.sendMsi i c a d).csiFill = s.csiFill := (rfl)
@[simp] theorem State.sendMsi_ssps (s : State) (i : Initiator) (c a d : Nat) : (s.sendMsi i c a d).ssps = s.ssps := (rfl)
@[simp] theorem State.sendMsi_fusion (s : State) (i : Initiator) (c a d : Nat) : (s.sendMsi i c a d).fusion = s.fusion := (rfl)
@[simp] theorem State.sendMsi_dmcs (s : State) (i : Initiator) (c a d : Nat) : (s.sendMsi i c a d).dmcs = s.dmcs := (rfl)
@[simp] theorem State.sendMsi_slc (s : State) (i : Initiator) (c a d : Nat) : (s.sendMsi i c a d).slc = s.slc := (rfl)
@[simp] theorem State.sendMsi_slcUses (s : State) (i : Initiator) (c a d : Nat) : (s.sendMsi i c a d).slcUses = s.slcUses := (rfl)
@[simp] theorem State.sendMsi_caches (s : State) (i : Initiator) (c a d : Nat) : (s.sendMsi i c a d).caches = s.caches := (rfl)
@[simp] theorem State.sendMsi_links (s : State) (i : Initiator) (c a d : Nat) : (s.sendMsi i c a d).links = s.links := (rfl)
@[simp] theorem State.sendMsi_linkLost (s : State) (i : Initiator) (c a d : Nat) : (s.sendMsi i c a d).linkLost = s.linkLost := (rfl)
@[simp] theorem State.sendMsi_holdWays (s : State) (i : Initiator) (c a d : Nat) : (s.sendMsi i c a d).holdWays = s.holdWays := (rfl)
@[simp] theorem State.sendMsi_wheelPos (s : State) (i : Initiator) (c a d : Nat) : (s.sendMsi i c a d).wheelPos = s.wheelPos := (rfl)
@[simp] theorem State.sendMsi_wheelRun (s : State) (i : Initiator) (c a d : Nat) : (s.sendMsi i c a d).wheelRun = s.wheelRun := (rfl)
@[simp] theorem State.sendMsi_wheelLive (s : State) (i : Initiator) (c a d : Nat) : (s.sendMsi i c a d).wheelLive = s.wheelLive := (rfl)
@[simp] theorem State.sendMsi_wheelOut (s : State) (i : Initiator) (c a d : Nat) : (s.sendMsi i c a d).wheelOut = s.wheelOut := (rfl)
@[simp] theorem State.sendMsi_channels (s : State) (i : Initiator) (c a d : Nat) : (s.sendMsi i c a d).channels = s.channels := (rfl)
@[simp] theorem State.sendMsi_ddrQueue (s : State) (i : Initiator) (c a d : Nat) : (s.sendMsi i c a d).ddrQueue = s.ddrQueue := (rfl)
@[simp] theorem State.sendMsi_guardLive (s : State) (i : Initiator) (c a d : Nat) : (s.sendMsi i c a d).guardLive = s.guardLive := (rfl)
@[simp] theorem State.sendMsi_guardWait (s : State) (i : Initiator) (c a d : Nat) : (s.sendMsi i c a d).guardWait = s.guardWait := (rfl)
@[simp] theorem State.sendMsi_guardSent (s : State) (i : Initiator) (c a d : Nat) : (s.sendMsi i c a d).guardSent = s.guardSent := (rfl)
@[simp] theorem State.sendMsi_gq (s : State) (i : Initiator) (c a d : Nat) : (s.sendMsi i c a d).gq = s.gq := (rfl)
@[simp] theorem State.sendMsi_gfxRun (s : State) (i : Initiator) (c a d : Nat) : (s.sendMsi i c a d).gfxRun = s.gfxRun := (rfl)
@[simp] theorem State.sendMsi_heads (s : State) (i : Initiator) (c a d : Nat) : (s.sendMsi i c a d).heads = s.heads := (rfl)
@[simp] theorem State.sendMsi_harts (s : State) (i : Initiator) (c a d : Nat) : (s.sendMsi i c a d).harts = s.harts := (rfl)
@[simp] theorem State.sendMsi_heath (s : State) (i : Initiator) (c a d : Nat) : (s.sendMsi i c a d).heath = s.heath := (rfl)
@[simp] theorem State.sendMsi_irqs (s : State) (i : Initiator) (c a d : Nat) : (s.sendMsi i c a d).irqs = s.irqs := (rfl)
@[simp] theorem State.sendMsi_irqEn (s : State) (i : Initiator) (c a d : Nat) : (s.sendMsi i c a d).irqEn = s.irqEn := (rfl)
@[simp] theorem State.sendMsi_msiDropAt (s : State) (i : Initiator) (c a d : Nat) : (s.sendMsi i c a d).msiDropAt = s.msiDropAt := (rfl)
@[simp] theorem State.sendMsi_weirs (s : State) (i : Initiator) (c a d : Nat) : (s.sendMsi i c a d).weirs = s.weirs := (rfl)
@[simp] theorem State.sendMsi_semOps (s : State) (i : Initiator) (c a d : Nat) : (s.sendMsi i c a d).semOps = s.semOps := (rfl)
@[simp] theorem State.sendMsi_gw (s : State) (i : Initiator) (c a d : Nat) : (s.sendMsi i c a d).gw = s.gw := (rfl)
@[simp] theorem State.sendMsi_erm (s : State) (i : Initiator) (c a d : Nat) : (s.sendMsi i c a d).erm = s.erm := (rfl)
@[simp] theorem State.sendMsi_errs (s : State) (i : Initiator) (c a d : Nat) : (s.sendMsi i c a d).errs = s.errs := (rfl)
@[simp] theorem State.sendMsi_windows (s : State) (i : Initiator) (c a d : Nat) : (s.sendMsi i c a d).windows = s.windows := (rfl)
@[simp] theorem State.sendMsi_tests (s : State) (i : Initiator) (c a d : Nat) : (s.sendMsi i c a d).tests = s.tests := (rfl)
@[simp] theorem State.sendMsi_fuses (s : State) (i : Initiator) (c a d : Nat) : (s.sendMsi i c a d).fuses = s.fuses := (rfl)
@[simp] theorem State.sendMsi_rom (s : State) (i : Initiator) (c a d : Nat) : (s.sendMsi i c a d).rom = s.rom := (rfl)
@[simp] theorem State.sendMsi_wdts (s : State) (i : Initiator) (c a d : Nat) : (s.sendMsi i c a d).wdts = s.wdts := (rfl)
@[simp] theorem State.sendMsi_cfgMarks (s : State) (i : Initiator) (c a d : Nat) : (s.sendMsi i c a d).cfgMarks = s.cfgMarks := (rfl)
@[simp] theorem State.sendMsi_fwlSeq (s : State) (i : Initiator) (c a d : Nat) : (s.sendMsi i c a d).fwlSeq = s.fwlSeq := (rfl)
@[simp] theorem State.sendMsi_therm (s : State) (i : Initiator) (c a d : Nat) : (s.sendMsi i c a d).therm = s.therm := (rfl)
@[simp] theorem State.sendMsi_pins (s : State) (i : Initiator) (c a d : Nat) : (s.sendMsi i c a d).pins = s.pins := (rfl)
@[simp] theorem State.sendMsi_portLinks (s : State) (i : Initiator) (c a d : Nat) : (s.sendMsi i c a d).portLinks = s.portLinks := (rfl)
@[simp] theorem State.sendMsi_ticks (s : State) (i : Initiator) (c a d : Nat) : (s.sendMsi i c a d).ticks = s.ticks := (rfl)

@[simp] theorem State.answer_pending (s : State) (e : Resp) (d : List Byte) : (s.answer e d).pending = s.pending := (rfl)
@[simp] theorem State.answer_regs (s : State) (e : Resp) (d : List Byte) : (s.answer e d).regs = s.regs := (rfl)
@[simp] theorem State.answer_mem (s : State) (e : Resp) (d : List Byte) : (s.answer e d).mem = s.mem := (rfl)
@[simp] theorem State.answer_flash (s : State) (e : Resp) (d : List Byte) : (s.answer e d).flash = s.flash := (rfl)
@[simp] theorem State.answer_ddrDamage (s : State) (e : Resp) (d : List Byte) : (s.answer e d).ddrDamage = s.ddrDamage := (rfl)
@[simp] theorem State.answer_sramDamage (s : State) (e : Resp) (d : List Byte) : (s.answer e d).sramDamage = s.sramDamage := (rfl)
@[simp] theorem State.answer_sramSent (s : State) (e : Resp) (d : List Byte) : (s.answer e d).sramSent = s.sramSent := (rfl)
@[simp] theorem State.answer_dgkBuilt (s : State) (e : Resp) (d : List Byte) : (s.answer e d).dgkBuilt = s.dgkBuilt := (rfl)
@[simp] theorem State.answer_iotlb (s : State) (e : Resp) (d : List Byte) : (s.answer e d).iotlb = s.iotlb := (rfl)
@[simp] theorem State.answer_engines (s : State) (e : Resp) (d : List Byte) : (s.answer e d).engines = s.engines := (rfl)
@[simp] theorem State.answer_sems (s : State) (e : Resp) (d : List Byte) : (s.answer e d).sems = s.sems := (rfl)
@[simp] theorem State.answer_ctxs (s : State) (e : Resp) (d : List Byte) : (s.answer e d).ctxs = s.ctxs := (rfl)
@[simp] theorem State.answer_parts (s : State) (e : Resp) (d : List Byte) : (s.answer e d).parts = s.parts := (rfl)
@[simp] theorem State.answer_models (s : State) (e : Resp) (d : List Byte) : (s.answer e d).models = s.models := (rfl)
@[simp] theorem State.answer_jobs (s : State) (e : Resp) (d : List Byte) : (s.answer e d).jobs = s.jobs := (rfl)
@[simp] theorem State.answer_jobNext (s : State) (e : Resp) (d : List Byte) : (s.answer e d).jobNext = s.jobNext := (rfl)
@[simp] theorem State.answer_laneLast (s : State) (e : Resp) (d : List Byte) : (s.answer e d).laneLast = s.laneLast := (rfl)
@[simp] theorem State.answer_turn (s : State) (e : Resp) (d : List Byte) : (s.answer e d).turn = s.turn := (rfl)
@[simp] theorem State.answer_events (s : State) (e : Resp) (d : List Byte) : (s.answer e d).events = s.events := (rfl)
@[simp] theorem State.answer_bus (s : State) (e : Resp) (d : List Byte) : (s.answer e d).bus = s.bus := (rfl)
@[simp] theorem State.answer_tb (s : State) (e : Resp) (d : List Byte) : (s.answer e d).tb = s.tb := (rfl)
@[simp] theorem State.answer_tt (s : State) (e : Resp) (d : List Byte) : (s.answer e d).tt = s.tt := (rfl)
@[simp] theorem State.answer_streams (s : State) (e : Resp) (d : List Byte) : (s.answer e d).streams = s.streams := (rfl)
@[simp] theorem State.answer_tiles (s : State) (e : Resp) (d : List Byte) : (s.answer e d).tiles = s.tiles := (rfl)
@[simp] theorem State.answer_csiFill (s : State) (e : Resp) (d : List Byte) : (s.answer e d).csiFill = s.csiFill := (rfl)
@[simp] theorem State.answer_ssps (s : State) (e : Resp) (d : List Byte) : (s.answer e d).ssps = s.ssps := (rfl)
@[simp] theorem State.answer_fusion (s : State) (e : Resp) (d : List Byte) : (s.answer e d).fusion = s.fusion := (rfl)
@[simp] theorem State.answer_dmcs (s : State) (e : Resp) (d : List Byte) : (s.answer e d).dmcs = s.dmcs := (rfl)
@[simp] theorem State.answer_slc (s : State) (e : Resp) (d : List Byte) : (s.answer e d).slc = s.slc := (rfl)
@[simp] theorem State.answer_slcUses (s : State) (e : Resp) (d : List Byte) : (s.answer e d).slcUses = s.slcUses := (rfl)
@[simp] theorem State.answer_caches (s : State) (e : Resp) (d : List Byte) : (s.answer e d).caches = s.caches := (rfl)
@[simp] theorem State.answer_links (s : State) (e : Resp) (d : List Byte) : (s.answer e d).links = s.links := (rfl)
@[simp] theorem State.answer_linkLost (s : State) (e : Resp) (d : List Byte) : (s.answer e d).linkLost = s.linkLost := (rfl)
@[simp] theorem State.answer_holdWays (s : State) (e : Resp) (d : List Byte) : (s.answer e d).holdWays = s.holdWays := (rfl)
@[simp] theorem State.answer_wheelPos (s : State) (e : Resp) (d : List Byte) : (s.answer e d).wheelPos = s.wheelPos := (rfl)
@[simp] theorem State.answer_wheelRun (s : State) (e : Resp) (d : List Byte) : (s.answer e d).wheelRun = s.wheelRun := (rfl)
@[simp] theorem State.answer_wheelLive (s : State) (e : Resp) (d : List Byte) : (s.answer e d).wheelLive = s.wheelLive := (rfl)
@[simp] theorem State.answer_wheelOut (s : State) (e : Resp) (d : List Byte) : (s.answer e d).wheelOut = s.wheelOut := (rfl)
@[simp] theorem State.answer_channels (s : State) (e : Resp) (d : List Byte) : (s.answer e d).channels = s.channels := (rfl)
@[simp] theorem State.answer_ddrQueue (s : State) (e : Resp) (d : List Byte) : (s.answer e d).ddrQueue = s.ddrQueue := (rfl)
@[simp] theorem State.answer_guardLive (s : State) (e : Resp) (d : List Byte) : (s.answer e d).guardLive = s.guardLive := (rfl)
@[simp] theorem State.answer_guardWait (s : State) (e : Resp) (d : List Byte) : (s.answer e d).guardWait = s.guardWait := (rfl)
@[simp] theorem State.answer_guardSent (s : State) (e : Resp) (d : List Byte) : (s.answer e d).guardSent = s.guardSent := (rfl)
@[simp] theorem State.answer_gq (s : State) (e : Resp) (d : List Byte) : (s.answer e d).gq = s.gq := (rfl)
@[simp] theorem State.answer_gfxRun (s : State) (e : Resp) (d : List Byte) : (s.answer e d).gfxRun = s.gfxRun := (rfl)
@[simp] theorem State.answer_heads (s : State) (e : Resp) (d : List Byte) : (s.answer e d).heads = s.heads := (rfl)
@[simp] theorem State.answer_harts (s : State) (e : Resp) (d : List Byte) : (s.answer e d).harts = s.harts := (rfl)
@[simp] theorem State.answer_heath (s : State) (e : Resp) (d : List Byte) : (s.answer e d).heath = s.heath := (rfl)
@[simp] theorem State.answer_msis (s : State) (e : Resp) (d : List Byte) : (s.answer e d).msis = s.msis := (rfl)
@[simp] theorem State.answer_irqs (s : State) (e : Resp) (d : List Byte) : (s.answer e d).irqs = s.irqs := (rfl)
@[simp] theorem State.answer_irqEn (s : State) (e : Resp) (d : List Byte) : (s.answer e d).irqEn = s.irqEn := (rfl)
@[simp] theorem State.answer_msiDropAt (s : State) (e : Resp) (d : List Byte) : (s.answer e d).msiDropAt = s.msiDropAt := (rfl)
@[simp] theorem State.answer_weirs (s : State) (e : Resp) (d : List Byte) : (s.answer e d).weirs = s.weirs := (rfl)
@[simp] theorem State.answer_semOps (s : State) (e : Resp) (d : List Byte) : (s.answer e d).semOps = s.semOps := (rfl)
@[simp] theorem State.answer_gw (s : State) (e : Resp) (d : List Byte) : (s.answer e d).gw = s.gw := (rfl)
@[simp] theorem State.answer_erm (s : State) (e : Resp) (d : List Byte) : (s.answer e d).erm = s.erm := (rfl)
@[simp] theorem State.answer_errs (s : State) (e : Resp) (d : List Byte) : (s.answer e d).errs = s.errs := (rfl)
@[simp] theorem State.answer_windows (s : State) (e : Resp) (d : List Byte) : (s.answer e d).windows = s.windows := (rfl)
@[simp] theorem State.answer_tests (s : State) (e : Resp) (d : List Byte) : (s.answer e d).tests = s.tests := (rfl)
@[simp] theorem State.answer_fuses (s : State) (e : Resp) (d : List Byte) : (s.answer e d).fuses = s.fuses := (rfl)
@[simp] theorem State.answer_rom (s : State) (e : Resp) (d : List Byte) : (s.answer e d).rom = s.rom := (rfl)
@[simp] theorem State.answer_wdts (s : State) (e : Resp) (d : List Byte) : (s.answer e d).wdts = s.wdts := (rfl)
@[simp] theorem State.answer_cfgMarks (s : State) (e : Resp) (d : List Byte) : (s.answer e d).cfgMarks = s.cfgMarks := (rfl)
@[simp] theorem State.answer_fwlSeq (s : State) (e : Resp) (d : List Byte) : (s.answer e d).fwlSeq = s.fwlSeq := (rfl)
@[simp] theorem State.answer_therm (s : State) (e : Resp) (d : List Byte) : (s.answer e d).therm = s.therm := (rfl)
@[simp] theorem State.answer_pins (s : State) (e : Resp) (d : List Byte) : (s.answer e d).pins = s.pins := (rfl)
@[simp] theorem State.answer_portLinks (s : State) (e : Resp) (d : List Byte) : (s.answer e d).portLinks = s.portLinks := (rfl)
@[simp] theorem State.answer_ticks (s : State) (e : Resp) (d : List Byte) : (s.answer e d).ticks = s.ticks := (rfl)

/-- The answer to a request holds the response and the data. -/
@[simp] theorem State.answer_reply (s : State) (e : Resp) (d : List Byte) : (s.answer e d).reply = { resp := e, data := d } := (rfl)

@[simp] theorem State.report_errs (s : State) (r : ErrRecord) : (s.report r).errs = s.errs ++ [r] := (rfl)

end Sys2Proof.Machine
end

