-- ==== Sys2Proof/Laws/Access.lean ====
section
/-!
SUPPORT. Register accesses: what the checks of an access change, and what a command row that writes or reads a register does
where the access is admitted and where it is refused.
-/

namespace Sys2Proof.Machine

/-- At a register address the checks change nothing, whatever they answer. -/
theorem State.regCheck_state {s : State} {req : Req} {ty : AccType} {a width : Nat} (h : s.place a = .register) :
    (s.regCheck req ty a width).2 = s := by
  unfold State.regCheck
  rw [h]
  repeat' (first | rfl | split)

/-- An admitted access has changed nothing. -/
theorem State.regCheck_okay {s : State} {req : Req} {ty : AccType} {a width : Nat}
    (h : (s.regCheck req ty a width).1 = .okay) : s.regCheck req ty a width = (.okay, s) := by
  cases hp : s.place a with
  | register => exact Prod.ext h (State.regCheck_state hp)
  | _ => simp only [State.regCheck, hp] at h; split at h <;> cases h

/-- A request whose label is not replaced leaves SLU_STATUS alone (R332). -/
theorem State.relabel_same {s : State} {req : Req} (h : s.relabelled req = false) : s.relabel req = s := by
  simp [State.relabel, h]

/-- The replacement of a label is shown in SLU_STATUS and nowhere else (R332). -/
theorem State.relabel_frame (s : State) (req : Req) : s.relabel req = { s with regs := (s.relabel req).regs } := by
  unfold State.relabel
  split <;> rfl

/-- A request that nothing holds passes to its target, with its label as its port sets it. -/
theorem State.passBridge_straight {s : State} {req : Req} {a width : Nat} {data : Option Word} {taken : Bool} {go : State → State}
    (h : s.straight req data.isSome a = true) : s.passBridge req a width data taken go = go (s.relabel req) := by
  simp only [State.straight, Bool.and_eq_true, Bool.not_eq_true', Option.isNone_iff_eq_none] at h
  simp only [State.passBridge, h.1.1, h.1.2, h.2, Bool.false_eq_true, if_false]

/-- A write row where the access is admitted. -/
theorem State.busWrite_okay {s : State} {req : Req} {a : Nat} {w : Word} {eff : State → State}
    (hs : s.straight req true a = true) (h : ((s.relabel req).regCheck (s.issued req) .write a 4).1 = .okay) :
    s.busWrite req a w eff = (eff (s.relabel req)).answer .okay [] := by
  unfold State.busWrite
  rw [State.passBridge_straight hs, State.regCheck_okay h]

/-- A write row where the access is refused: the response alone. -/
theorem State.busWrite_refused {s : State} {req : Req} {a : Nat} {w : Word} {eff : State → State}
    (hs : s.straight req true a = true) (hp : (s.relabel req).place a = .register)
    (h : ((s.relabel req).regCheck (s.issued req) .write a 4).1 ≠ .okay) :
    s.busWrite req a w eff = (s.relabel req).answer ((s.relabel req).regCheck (s.issued req) .write a 4).1 [] := by
  unfold State.busWrite
  rw [State.passBridge_straight hs]
  have h2 := State.regCheck_state (req := s.issued req) (ty := .write) (width := 4) hp
  generalize (s.relabel req).regCheck (s.issued req) .write a 4 = r at h h2 ⊢
  obtain ⟨e, t⟩ := r
  subst h2
  cases e <;> first | exact absurd rfl h | rfl

/-- A read row where the access is admitted. -/
theorem State.busRead_okay {s : State} {req : Req} {a : Nat} {val : State → Word} {eff : State → State}
    (hs : s.straight req false a = true) (h : ((s.relabel req).regCheck (s.issued req) .read a 4).1 = .okay) :
    s.busRead req a val eff = (eff (s.relabel req)).answerWord (val (s.relabel req)) := by
  unfold State.busRead
  rw [State.passBridge_straight hs, State.regCheck_okay h]

/-- A read row where the access is refused: the response and zero data. -/
theorem State.busRead_refused {s : State} {req : Req} {a : Nat} {val : State → Word} {eff : State → State}
    (hs : s.straight req false a = true) (hp : (s.relabel req).place a = .register)
    (h : ((s.relabel req).regCheck (s.issued req) .read a 4).1 ≠ .okay) :
    s.busRead req a val eff =
      (s.relabel req).answer ((s.relabel req).regCheck (s.issued req) .read a 4).1 (List.replicate 4 0#8) := by
  unfold State.busRead
  rw [State.passBridge_straight hs]
  have h2 := State.regCheck_state (req := s.issued req) (ty := .read) (width := 4) hp
  generalize (s.relabel req).regCheck (s.issued req) .read a 4 = r at h h2 ⊢
  obtain ⟨e, t⟩ := r
  subst h2
  cases e <;> first | exact absurd rfl h | rfl

/-- A write by the access types of the fields changes registers and records of configuration errors alone. -/
theorem State.plainWrite_frame (s : State) (a : Nat) (w : Word) :
    s.plainWrite a w = { s with regs := (s.plainWrite a w).regs, cfgMarks := (s.plainWrite a w).cfgMarks } := by
  unfold State.plainWrite
  dsimp only
  split
  · rw [State.cfgErr_regs s a]; rfl
  · rfl

/-- The read of a register with read-to-clear fields changes that register alone. -/
theorem State.clearRead_other {s : State} {a b : Nat} (h : b ≠ a) : (s.clearRead a).reg b = s.reg b :=
  State.reg_setReg_other h

/-! ## Lists of fields -/

/-- The fields of a list lie in a word and share no bits. -/
def fieldsApart (fs : List RegField) : Bool :=
  fs.all (fun f => Nat.ble f.fld.lo f.fld.hi && Nat.blt f.fld.hi 32) &&
    decide (fs.Pairwise fun f g => f.fld.hi < g.fld.lo ∨ g.fld.hi < f.fld.lo)

theorem fieldsApart_cons {f : RegField} {fs : List RegField} (h : fieldsApart (f :: fs) = true) :
    f.fld.ok ∧ (∀ g ∈ fs, g.fld.ok ∧ f.fld.apart g.fld) ∧ fieldsApart fs = true := by
  simp only [fieldsApart, List.all_cons, Bool.and_eq_true, decide_eq_true_eq, List.pairwise_cons, Nat.ble_eq, Nat.blt_eq,
    List.all_eq_true] at h ⊢
  obtain ⟨⟨⟨h1, h2⟩, h3⟩, h4, h5⟩ := h
  exact ⟨⟨h1, h2⟩, fun g hg => ⟨h3 g hg, h4 g hg⟩, fun g hg => h3 g hg, h5⟩

/-- A field that shares no bit with any field written keeps its value. -/
theorem foldl_put_apart (fs : List RegField) (val : RegField → Nat) (p : RegField → Bool) (g : Fld) (hg : g.ok) :
    ∀ w : Word, (∀ f ∈ fs, f.fld.ok ∧ f.fld.apart g) →
      g.get (fs.foldl (fun r f => if p f then f.fld.put r (val f) else r) w) = g.get w := by
  induction fs with
  | nil => intro w _; rfl
  | cons f fs ih =>
    intro w h
    rw [List.foldl_cons, ih _ fun x hx => h x (List.mem_cons_of_mem _ hx)]
    have hf := h f (List.mem_cons_self ..)
    split
    · exact Fld.get_put_apart f.fld g hf.1 hg hf.2 w _
    · rfl

/-- What a list of field writes leaves in each field: the value written where it is written, else what was there. -/
theorem foldl_put_get (fs : List RegField) (val : RegField → Nat) (p : RegField → Bool) :
    ∀ w : Word, fieldsApart fs = true → ∀ f ∈ fs,
      f.fld.get (fs.foldl (fun r f => if p f then f.fld.put r (val f) else r) w) =
        if p f then val f % 2 ^ (f.fld.hi + 1 - f.fld.lo) else f.fld.get w := by
  induction fs with
  | nil => intro w _ f hf; simp at hf
  | cons g fs ih =>
    intro w h f hf
    obtain ⟨hg, hgs, hfs⟩ := fieldsApart_cons h
    rw [List.foldl_cons]
    rcases List.mem_cons.1 hf with rfl | hf
    · rw [foldl_put_apart fs val p f.fld hg _ fun x hx =>
        ⟨(hgs x hx).1, (hgs x hx).2.symm⟩]
      by_cases hp : p f = true
      · simp only [hp, if_true]; exact Fld.get_put_same f.fld hg w _
      · simp only [hp]; rfl
    · rw [ih _ hfs f hf]
      by_cases hp : p f = true
      · simp only [hp, if_true]
      · simp only [hp]
        by_cases hp2 : p g = true
        · simp only [hp2, if_true]
          exact Fld.get_put_apart g.fld f.fld hg (hgs f hf).1 (hgs f hf).2 w _
        · simp only [hp2]; rfl

/-- A read of a register leaves 0 in its read-to-clear fields and the others alone (R11). -/
theorem readFields_get {fs : List RegField} (h : fieldsApart fs = true) (w : Word) {f : RegField} (hf : f ∈ fs) :
    f.fld.get (readFields fs w) = if f.acc = .rc then 0 else f.fld.get w := by
  have := foldl_put_get fs (fun _ => 0) (fun f => decide (f.acc = .rc)) w h f hf
  simpa [readFields] using this

/-- A write by access types leaves in each field what its type says (R11). -/
theorem writeFields_get {fs : List RegField} (h : fieldsApart fs = true) (old w : Word) (lk : Bool) {f : RegField} (hf : f ∈ fs) :
    f.fld.get (writeFields fs old w lk) = f.written old w lk % 2 ^ (f.fld.hi + 1 - f.fld.lo) := by
  have := foldl_put_get fs (fun f => f.written old w lk) (fun _ => true) 0#32 h f hf
  simpa [writeFields] using this

/-- Where a write puts nothing, the register reads 0: reserved bits stay 0 (R10). -/
theorem writeFields_reserved {fs : List RegField} (old w : Word) (lk : Bool) (g : Fld) (hg : g.ok)
    (h : ∀ f ∈ fs, f.fld.ok ∧ f.fld.apart g) : g.get (writeFields fs old w lk) = 0 := by
  have := foldl_put_apart fs (fun f => f.written old w lk) (fun _ => true) g hg 0#32 h
  simp only [if_true] at this
  rw [writeFields, this]
  simp [Fld.get, bitsOf]

end Sys2Proof.Machine
end

