-- ==== Sys2Proof/Laws/Dagiesk.lean ====
section
/-!
SUPPORT. The Dagiesk table as it is built passes the boot ROM's check of its CRC.
-/

namespace Sys2Proof.Machine

theorem leBytes_length (n v : Nat) : (leBytes n v).length = n := by
  induction n generalizing v with
  | zero => rfl
  | succ n ih => simp [leBytes, ih]

theorem leNat_leBytes (n v : Nat) : leNat (leBytes n v) = v % 256 ^ n := by
  induction n generalizing v with
  | zero => simp [leBytes, leNat, Nat.mod_one]
  | succ n ih =>
    simp only [leBytes, leNat, ih, BitVec.toNat_ofNat]
    rw [show 256 ^ (n + 1) = 256 * 256 ^ n from by rw [Nat.pow_succ, Nat.mul_comm], Nat.mod_mul]

theorem crcBit_lt {r : Nat} (h : r < 2 ^ 32) : crcBit r < 2 ^ 32 := by
  unfold crcBit
  split
  · exact Nat.xor_lt_two_pow (by omega) (by decide)
  · omega

theorem crcUpdate_lt {r : Nat} (bs : List Byte) (h : r < 2 ^ 32) : crcUpdate r bs < 2 ^ 32 := by
  induction bs generalizing r with
  | nil => exact h
  | cons b bs ih =>
    refine ih ?_
    have hb : b.toNat < 2 ^ 32 := by have := b.isLt; omega
    have := Nat.xor_lt_two_pow h hb
    unfold crcByte
    iterate 8 apply crcBit_lt
    exact this

theorem crc32_lt (bs : List Byte) : crc32 bs < 2 ^ 32 :=
  Nat.xor_lt_two_pow (crcUpdate_lt bs (by decide)) (by decide)

/-- The header is its first 16 bytes, the CRC, and the rest. -/
theorem dgkHeader_split (total : Nat) : ∃ a b, a.length = 16 ∧ ∀ c, dgkHeader total c = a ++ leBytes 4 c ++ b := by
  refine ⟨[0x44#8, 0x47#8, 0x53#8, 0x4B#8] ++ leBytes 1 1 ++ leBytes 1 0 ++ leBytes 2 64 ++ leBytes 4 total ++
    leBytes 4 recordCount, leBytes 4 stringsAt ++ leBytes 2 1 ++ List.replicate 38 0#8, by simp [leBytes_length], ?_⟩
  intro c
  simp [dgkHeader, padTo, leBytes_length, List.append_assoc]

/-- Step 5's check of the table holds whatever memory was found (R43, R47). -/
theorem dgkCheck_dgkTable (cap ranks : Nat) : dgkCheck (dgkTable cap ranks) = true := by
  obtain ⟨a, b, ha, hs⟩ := dgkHeader_split (64 + (recordBytes 0 (dgkRecords cap ranks)).length)
  have hw : ∀ c, dgkWith cap ranks c = a ++ (leBytes 4 c ++ (b ++ recordBytes 0 (dgkRecords cap ranks))) := by
    intro c; simp only [dgkWith, hs, List.append_assoc]
  have h0 : leBytes 4 0 = List.replicate 4 0#8 := by decide
  unfold dgkCheck dgkTable
  have hf : fieldAt (dgkWith cap ranks (dgkCrc cap ranks)) 16 4 = dgkCrc cap ranks := by
    rw [hw, fieldAt, ← ha, List.drop_left, List.take_left' (leBytes_length 4 _), leNat_leBytes]
    exact Nat.mod_eq_of_lt (crc32_lt _)
  have hd : (dgkWith cap ranks (dgkCrc cap ranks)).take 16 ++ List.replicate 4 0#8 ++
      (dgkWith cap ranks (dgkCrc cap ranks)).drop 20 = dgkWith cap ranks 0 := by
    rw [hw, hw, h0]
    rw [show (20 : Nat) = 16 + 4 from rfl, ← List.drop_drop, List.take_left' ha, List.drop_left' ha,
      List.drop_left' (leBytes_length 4 _), List.append_assoc]
  rw [hf, hd]
  exact Nat.beq_refl _

end Sys2Proof.Machine
end

