-- ==== Sys2Proof/Laws/Memory.lean ====
section
/-!
SUPPORT. Memory: a byte reads what was last stored in it, a store leaves every other byte alone, and every memory operation
keeps the canonical form.
-/

namespace Sys2Proof.Machine

/-- A byte outside the bytes stored is as before. -/
theorem State.byte_store_other {s : State} {pa a : Nat} {bs : List Byte} (h : a < pa ∨ pa + bs.length ≤ a) :
    (s.store pa bs).byte a = s.byte a := SMap.get_setMany_other h

/-- A byte stored reads back. -/
theorem State.byte_store_same {s : State} {pa i : Nat} {bs : List Byte} (h : i < bs.length) :
    (s.store pa bs).byte (pa + i) = bs[i] := SMap.get_setMany_same h

/-- Zeroed bytes read 0, and the others as before. -/
theorem State.byte_zero {s : State} {pa n a : Nat} :
    (s.zero pa n).byte a = if pa ≤ a ∧ a < pa + n then 0#8 else s.byte a := by
  unfold State.byte State.zero
  rw [SMap.get_clear]
  rfl

/-- A store keeps the canonical form. -/
theorem State.wf_store {s : State} {pa : Nat} {bs : List Byte} (h : Memory.wf s.mem = true) :
    Memory.wf (s.store pa bs).mem = true := SMap.wf_setMany h

/-- Zeroing keeps the canonical form. -/
theorem State.wf_zero {s : State} {pa n : Nat} (h : Memory.wf s.mem = true) : Memory.wf (s.zero pa n).mem = true :=
  SMap.wf_clear h

/-- Reset memory is canonical. -/
theorem Memory.wf_reset : Memory.wf State.reset.mem = true := rfl

/-! ## Writes through the decoders, the guards and the IOMMU -/

/-- Memory of `t` is canonical if memory of `s` is. -/
def KeepsMem (s t : State) : Prop := Memory.wf s.mem = true → Memory.wf t.mem = true

theorem KeepsMem.of_eq {s t : State} (h : t.mem = s.mem) : KeepsMem s t := fun hs => h ▸ hs

theorem KeepsMem.trans {s t u : State} (h1 : KeepsMem s t) (h2 : KeepsMem t u) : KeepsMem s u := fun h => h2 (h1 h)

theorem KeepsMem.snd {α : Type} {s t : State} {r : α × State} {x : α} (h : KeepsMem s r.2) (e : r = (x, t)) : KeepsMem s t := by
  subst e; exact h

theorem State.ddrCeRecord_mem (s : State) (g pa iid : Nat) : (s.ddrCeRecord g pa iid).mem = s.mem := by
  unfold State.ddrCeRecord
  dsimp only
  split <;> simp

theorem State.ddrLog_mem (s : State) (g pa src dev : Nat) (ue : Bool) : (s.ddrLog g pa src dev ue).mem = s.mem := by
  unfold State.ddrLog
  dsimp only
  split <;> simp

theorem State.ddrCount_mem (s : State) (g pa dev iid : Nat) : (s.ddrCount g pa dev iid).mem = s.mem := by
  unfold State.ddrCount
  dsimp only
  split
  · rfl
  · split
    · rw [State.ddrCeRecord_mem, State.setFld_mem, State.setFld_mem, State.setDmc_mem]
    · rw [State.setDmc_mem]

theorem State.wf_storeFree (s : State) (pa n : Nat) : KeepsMem s (s.storeFree pa n) := fun h => SMap.wf_setMany h

theorem State.ddrCorrected_mem (s : State) (pa dev src iid : Nat) : (s.ddrCorrected pa dev src iid).mem = s.mem := by
  unfold State.ddrCorrected
  exact (State.ddrCeRecord_mem _ _ _ _).trans ((State.ddrCount_mem _ _ _ _ _).trans ((State.ddrLog_mem _ _ _ _ _ _).trans
    (State.count_mem _ _ _ _)))

/-- A read by a DDR controller keeps the canonical form: it changes no byte unless it mistakes what it found. -/
theorem State.wf_ddrDecode (s : State) (pa upset src iid : Nat) : KeepsMem s (s.ddrDecode pa upset src iid).2 := by
  have log (t : State) (ht : t.mem = s.mem) (g dev : Nat) (ue : Bool) : (t.ddrLog g pa src dev ue).mem = s.mem := by
    rw [State.ddrLog_mem, ht]
  have damage (t : State) (x : List (Nat × Damage)) (ht : t.mem = s.mem) : ({ t with ddrDamage := x } : State).mem = s.mem := ht
  unfold State.ddrDecode
  cases s.decodeDdr pa upset with
  | ok => exact KeepsMem.of_eq rfl
  | corrected dev marked => exact KeepsMem.of_eq (State.ddrCorrected_mem _ _ _ _ _)
  | mistaken dev =>
    intro h
    dsimp only
    rw [State.ddrCorrected_mem]
    split
    · exact h
    · exact State.wf_storeFree _ _ _ h
  | uncorrectable =>
    exact KeepsMem.of_eq ((State.report_mem _ _).trans (log _ ((State.count_mem _ _ _ _).trans (damage s _ rfl)) _ _ _))
  | poison => exact KeepsMem.of_eq (State.count_mem _ _ _ _)

/-- A read of a SEC-DED word changes no byte. -/
theorem State.sramDecode_mem (s : State) (pa upset : Nat) (own : Bool) : (s.sramDecode pa upset own).2.mem = s.mem := by
  unfold State.sramDecode
  dsimp only
  split
  · rfl
  · dsimp only; split <;> simp
  · dsimp only; split <;> simp
  · dsimp only; split <;> simp
  · rfl

/-- A write into a DDR word keeps the canonical form. -/
theorem State.wf_ddrWriteWord (s : State) (iid pa : Nat) (bs : List Byte) (upset : Nat) :
    KeepsMem s (s.ddrWriteWord iid pa bs upset).2 := by
  intro h
  have hd : Memory.wf (s.ddrDecode pa upset 1 iid).2.mem = true := State.wf_ddrDecode _ _ _ _ _ h
  unfold State.ddrWriteWord
  dsimp only
  split
  · exact SMap.wf_setMany h
  · split
    · exact SMap.wf_setMany hd
    · exact SMap.wf_setMany hd
    · exact SMap.wf_setMany hd
    · exact SMap.wf_setMany (SMap.wf_clear hd)
    · exact SMap.wf_setMany hd

/-- A write into a SEC-DED word keeps the canonical form. -/
theorem State.wf_sramWriteWord (s : State) (pa : Nat) (bs : List Byte) (upset : Nat) (own : Bool) :
    KeepsMem s (s.sramWriteWord pa bs upset own) := by
  intro h
  have hd : Memory.wf (s.sramDecode pa upset own).2.mem = true := by rw [State.sramDecode_mem]; exact h
  unfold State.sramWriteWord
  dsimp only
  split
  · exact SMap.wf_setMany h
  · split <;> exact SMap.wf_setMany hd

/-! ## Caches -/

theorem State.slcAllocate_mem (s : State) (line cls : Nat) (dirty : Bool) : (s.slcAllocate line cls dirty).mem = s.mem := by
  unfold State.slcAllocate
  split <;> rfl

theorem State.slcWriteLine_mem (s : State) (line cls : Nat) : (s.slcWriteLine line cls).mem = s.mem := by
  unfold State.slcWriteLine
  split
  · rfl
  · split
    · rfl
    · exact State.slcAllocate_mem _ _ _ _

/-- A write into DDR through the system cache keeps the canonical form. -/
theorem State.wf_ddrWrite (s : State) (req : Req) (pa : Nat) (bs : List Byte) (upset : Nat) :
    KeepsMem s (s.ddrWrite req pa bs upset).2 := by
  intro h
  have word := State.wf_ddrWriteWord s (iidOf req.ini).toNat pa bs upset h
  have pick (b : Bool) (x y : Resp × State) (hx : Memory.wf x.2.mem = true) (hy : Memory.wf y.2.mem = true) :
      Memory.wf (if b then x else y).2.mem = true := by
    cases b <;> assumption
  unfold State.ddrWrite
  refine pick _ _ _ (SMap.wf_setMany ?_) ?_
  · rw [State.slcWriteLine_mem]; exact h
  · split
    · exact SMap.wf_setMany h
    · split
      · exact word
      · exact word
      · exact word
      · refine SMap.wf_setMany ?_
        rw [State.slcAllocate_mem]
        exact State.wf_ddrDecode _ _ _ _ _ h

theorem State.guardRefuse_mem (s : State) (t : Nat) (req : Req) (ty : AccType) (pa : Nat) :
    (s.guardRefuse t req ty pa).mem = s.mem := by
  unfold State.guardRefuse
  dsimp only
  split <;> split <;> simp

theorem State.decodeError_mem (s : State) (req : Req) (ty : AccType) (pa : Nat) : (s.decodeError req ty pa).mem = s.mem := by
  unfold State.decodeError
  dsimp only
  split <;> simp

/-- The judgement of an access changes no byte. -/
theorem State.judge_mem (s : State) (req : Req) (ty : AccType) (pa len : Nat) : (s.judge req ty pa len).2.mem = s.mem := by
  unfold State.judge
  repeat' (first | rfl | exact State.decodeError_mem _ _ _ _ | exact State.guardRefuse_mem _ _ _ _ _ | split)

/-- A write of a block keeps the canonical form. -/
theorem State.wf_writeBlock (s : State) (req : Req) (pa : Nat) (bs : List Byte) (own : Bool) :
    KeepsMem s (s.writeBlock req pa bs own).2 := by
  unfold State.writeBlock
  split
  · exact State.wf_ddrWrite _ _ _ _ _
  · exact State.wf_sramWriteWord _ _ _ _ _
  · exact State.wf_sramWriteWord _ _ _ _ _
  · exact State.wf_sramWriteWord _ _ _ _ _
  · exact KeepsMem.of_eq rfl
  · exact KeepsMem.of_eq rfl
  · exact fun h => SMap.wf_setMany h

/-- A write to memory keeps the canonical form, however far it gets. -/
theorem State.wf_writeMem (req : Req) (own : Bool) (fuel : Nat) :
    ∀ (s : State) (pa : Nat) (bs : List Byte), KeepsMem s (s.writeMem req own fuel pa bs).2 := by
  induction fuel with
  | zero => intro s pa bs; exact KeepsMem.of_eq (by unfold State.writeMem; rfl)
  | succ fuel ih =>
    intro s pa bs
    cases bs with
    | nil => exact KeepsMem.of_eq (by unfold State.writeMem; rfl)
    | cons b bs =>
      unfold State.writeMem
      dsimp only
      split
      · rename_i s1 h1
        have k1 : KeepsMem s s1 := KeepsMem.snd (KeepsMem.of_eq (State.judge_mem _ _ _ _ _)) h1
        split
        · rename_i s2 h2
          exact (k1.trans (KeepsMem.snd (State.wf_writeBlock _ _ _ _ _) h2)).trans (ih _ _ _)
        · rename_i h2
          exact k1.trans (KeepsMem.snd (State.wf_writeBlock _ _ _ _ _) h2)
      · rename_i h1
        exact KeepsMem.snd (KeepsMem.of_eq (State.judge_mem _ _ _ _ _)) h1

theorem State.wf_markDirty (s : State) (n gpa : Nat) : KeepsMem s (s.markDirty n gpa) := by
  unfold State.markDirty
  dsimp only
  split
  · exact KeepsMem.of_eq rfl
  · split
    · exact KeepsMem.of_eq rfl
    · split
      · exact KeepsMem.of_eq rfl
      · exact State.wf_writeMem _ _ _ _ _ _

/-- A unit's write through the IOMMU keeps the canonical form. -/
theorem State.wf_dmaWrite (req : Req) (fuel : Nat) :
    ∀ (s : State) (iova : Nat) (bs : List Byte), KeepsMem s (s.dmaWrite req fuel iova bs).2 := by
  induction fuel with
  | zero => intro s iova bs; exact KeepsMem.of_eq (by unfold State.dmaWrite; rfl)
  | succ fuel ih =>
    intro s iova bs
    cases bs with
    | nil => exact KeepsMem.of_eq (by unfold State.dmaWrite; rfl)
    | cons b bs =>
      unfold State.dmaWrite
      dsimp only
      split
      · exact KeepsMem.of_eq rfl
      · rename_i pa _
        split
        · rename_i s1 h1
          exact ((KeepsMem.snd (State.wf_writeMem _ _ _ _ _ _) h1).trans (State.wf_markDirty _ _ _)).trans (ih _ _ _)
        · rename_i h1
          exact (KeepsMem.snd (State.wf_writeMem _ _ _ _ _ _) h1).trans (State.wf_markDirty _ _ _)

theorem State.relabel_mem (s : State) (req : Req) : (s.relabel req).mem = s.mem := by
  unfold State.relabel
  split <;> rfl

theorem State.wf_put (s : State) (req : Req) (iova : Nat) (bs : List Byte) : KeepsMem s (s.put req iova bs).2 :=
  (KeepsMem.of_eq (State.relabel_mem _ _)).trans (State.wf_dmaWrite _ _ _ _ _)

end Sys2Proof.Machine
end

