-- ==== Sys2Proof/Laws/Engine.lean ====
section
/-!
SUPPORT. Engine memory as an engine reads and writes it: with no wrong bits stored, a read gives the bytes stored and changes
nothing, and a write stores its bytes and changes nothing else.
-/

namespace Sys2Proof.Machine

/-- Engine memory is none of the other places. -/
theorem State.place_engine {s : State} {te off : Nat} (ht : te < 64) (ho : off < engineBytes) :
    s.place (engineAt te + off) = .engineMem := by
  unfold engineBytes at ho
  unfold State.place placeOf engineAt inRange
  have e1 : (Nat.ble ddrBase (engineMemBase + te * 0x200000 + off)) = false := by
    rw [Bool.eq_false_iff, Ne, Nat.ble_eq]; simp only [ddrBase, engineMemBase]; omega
  have e2 : (Nat.ble engineMemBase (engineMemBase + te * 0x200000 + off)) = true := by
    rw [Nat.ble_eq]; omega
  have e3 : (Nat.blt (engineMemBase + te * 0x200000 + off) clusterMemBase) = true := by
    rw [Nat.blt_eq]; simp only [clusterMemBase, engineMemBase]; omega
  rw [e1, e2, e3]; rfl

/-- The unit that serves an address of engine memory. -/
theorem State.servedBy_engineMem {s : State} {pa te : Nat} (hp : s.place pa = .engineMem) (h : (pa - engineMemBase) / 0x200000 = te) :
    s.servedBy pa = some (.te (Fin.ofNat 64 te)) := by
  subst h
  unfold State.servedBy
  rw [hp]

theorem engine_of_address {te off : Nat} (ho : off < engineBytes) : (engineAt te + off - engineMemBase) / 0x200000 = te := by
  unfold engineBytes at ho; unfold engineAt; omega

theorem State.servedBy_engine {s : State} {te off : Nat} (ht : te < 64) (ho : off < engineBytes) :
    s.servedBy (engineAt te + off) = some (.te (Fin.ofNat 64 te)) :=
  State.servedBy_engineMem (State.place_engine ht ho) (engine_of_address ho)

theorem State.judge_engineMem {s : State} {req : Req} {pa n : Nat} {u : UnitId} {ty : AccType} (hp : s.place pa = .engineMem)
    (hs : s.servedBy pa = some u) (hd : s.domainOn (domainOf u) = true) (hi : s.isIsolated u = false)
    (ha : s.admits 8 req ty pa n = true) (hm : req.ini ≠ .debugModule) (hu : u = unitOfInitiator req.ini) :
    s.judge req ty pa n = (.okay, s) := by
  have hg : s.guardTarget pa = some 8 := by unfold State.guardTarget; rw [hp]
  unfold State.judge
  rw [hp]
  simp only [hm, ← hu, decide_true, Bool.not_true, Bool.and_false, decide_false, Bool.false_and, hs, hd, hi, hg, ha, Bool.not_true, Bool.or_false, Bool.false_eq_true, if_false, if_true]

/-- An engine's access to its memory is admitted where its power domain is on and it is not isolated. -/
theorem State.judge_engine {s : State} {te off n : Nat} {req : Req} {ty : AccType} (ht : te < 64) (ho : off < engineBytes)
    (hq : req.ini = .engine (Fin.ofNat 64 te)) (hc : s.EngineClean te) : s.judge req ty (engineAt te + off) n = (.okay, s) :=
  State.judge_engineMem (State.place_engine ht ho) (State.servedBy_engine ht ho) hc.1 hc.2.1 (by
    unfold State.admits; rw [hq]; rfl) (by rw [hq]; exact Initiator.noConfusion) (by rw [hq]; rfl)

theorem State.decodeSram_clean {s : State} {pa : Nat} (h : s.sramDamage = []) : s.decodeSram pa 0 = .ok := by
  unfold State.decodeSram; rw [h]; rfl

theorem State.sramDecode_clean {s : State} {pa : Nat} {own : Bool} (h : s.sramDamage = []) : s.sramDecode pa 0 own = (.ok, s) := by
  unfold State.sramDecode; rw [State.decodeSram_clean h]

theorem State.sramWriteWord_clean {s : State} {pa : Nat} {bs : List Byte} {own : Bool} (h : s.sramDamage = []) :
    s.sramWriteWord pa bs 0 own = s.store pa bs := by
  unfold State.sramWriteWord
  simp only [State.sramDecode_clean h]
  split
  · rw [h]
    show ({ s with sramDamage := ([] : List (Nat × Damage)) }).store pa bs = s.store pa bs
    rw [← h]
  · rfl

theorem SMap.getMany_append {α : Type} {d : Nat → α} {m : List (Nat × α)} (n k : Nat) :
    ∀ a, SMap.getMany d m a n ++ SMap.getMany d m (a + n) k = SMap.getMany d m a (n + k) := by
  induction n with
  | zero => intro a; simp [SMap.getMany]
  | succ n ih =>
    intro a
    have := ih (a + 1)
    rw [Nat.add_right_comm] at this
    rw [show n + 1 + k = (n + k) + 1 by omega]
    simp only [SMap.getMany, List.cons_append]
    rw [← this, Nat.add_assoc]

theorem SMap.setMany_append {α : Type} [DecidableEq α] {d : Nat → α} {xs : List α} :
    ∀ {ys : List α} {m : List (Nat × α)} {a : Nat},
      SMap.setMany d (SMap.setMany d m a xs) (a + xs.length) ys = SMap.setMany d m a (xs ++ ys) := by
  induction xs with
  | nil => intro ys m a; rfl
  | cons x xs ih =>
    intro ys m a
    simp only [SMap.setMany, List.cons_append, List.length_cons]
    rw [show a + (xs.length + 1) = (a + 1) + xs.length by omega, ih]

theorem State.bytes_append {s : State} {a n k : Nat} : s.bytes a n ++ s.bytes (a + n) k = s.bytes a (n + k) :=
  SMap.getMany_append n k a

theorem State.store_append {s : State} {a : Nat} {xs ys : List Byte} : (s.store a xs).store (a + xs.length) ys = s.store a (xs ++ ys) := by
  unfold State.store
  dsimp only
  rw [SMap.setMany_append]

/-- Registers, isolation and stored wrong bits decide whether an engine is in order. -/
theorem State.EngineClean.congr {s t : State} {te : Nat} (hr : t.regs = s.regs) (he : t.erm = s.erm)
    (hd : t.sramDamage = s.sramDamage) (h : s.EngineClean te) : t.EngineClean te := by
  have h1 (d : Nat) : t.domainOn d = s.domainOn d := by
    unfold State.domainOn State.domainState State.fld State.reg; rw [hr]
  have h2 (u : UnitId) : t.isIsolated u = s.isIsolated u := by unfold State.isIsolated; rw [he]
  exact ⟨(h1 _).trans h.1, (h2 _).trans h.2.1, hd.trans h.2.2⟩

theorem State.EngineClean.store {s : State} {te a : Nat} {bs : List Byte} (h : s.EngineClean te) : (s.store a bs).EngineClean te :=
  State.EngineClean.congr (by simp) (by simp) (by simp) h

/-- A read of words of engine memory that are admitted and hold no wrong bits. -/
theorem State.readMem_clean {s : State} {req : Req} (hd : s.sramDamage = []) (fuel : Nat) :
    ∀ n pa, (∀ i < n, s.place (pa + i) = .engineMem ∧ ∀ m, s.judge req .read (pa + i) m = (.okay, s)) → n < fuel →
      s.readMem req true fuel pa n = (.okay, s.bytes pa n, s) := by
  induction fuel with
  | zero => intro n pa _ h; omega
  | succ fuel ih =>
    intro n pa hp hf
    cases n with
    | zero => rfl
    | succ n =>
      have h0 := hp 0 (by omega)
      rw [Nat.add_zero] at h0
      have hb : s.blockSize pa = 8 := by unfold State.blockSize; rw [h0.1]
      unfold State.readMem State.readMemAs
      simp only [hb, h0.2]
      generalize hm : min (n + 1) (8 - pa % 8) = m
      have hm1 : 1 ≤ m := by omega
      have hm2 : m ≤ n + 1 := by omega
      have hr : s.readBlock .read req pa m true = (.okay, s.bytes pa m, s) := by
        unfold State.readBlock
        rw [h0.1]
        simp only
        unfold State.sramReadWord
        rw [State.sramDecode_clean hd]
        rfl
      rw [hr]
      simp only
      have rest := ih (n + 1 - m) (pa + m) (fun i hi => by have := hp (m + i) (by omega); rwa [← Nat.add_assoc] at this) (by omega)
      unfold State.readMem at rest
      rw [rest]
      simp only
      rw [State.bytes_append]
      congr 3
      omega

/-- A write of words of engine memory that are admitted and hold no wrong bits. -/
theorem State.writeMem_clean {req : Req} {te : Nat} (fuel : Nat) :
    ∀ (s : State) (bs : List Byte) (pa : Nat), s.EngineClean te →
      (∀ t : State, t.EngineClean te → ∀ i < bs.length, t.place (pa + i) = .engineMem ∧ ∀ m, t.judge req .write (pa + i) m = (.okay, t)) →
      bs.length < fuel → s.writeMem req true fuel pa bs = (.okay, s.store pa bs) := by
  induction fuel with
  | zero => intro s bs pa _ _ h; omega
  | succ fuel ih =>
    intro s bs pa hc hp hf
    cases bs with
    | nil => rfl
    | cons b bs =>
      have h0 := hp s hc 0 (by simp)
      rw [Nat.add_zero] at h0
      have hb : s.blockSize pa = 8 := by unfold State.blockSize; rw [h0.1]
      unfold State.writeMem
      simp only [hb, h0.2]
      generalize hm : min (b :: bs).length (8 - pa % 8) = m
      have hm1 : 1 ≤ m := by simp only [List.length_cons] at hm; omega
      have hm2 : m ≤ (b :: bs).length := by omega
      have hw : s.writeBlock req pa ((b :: bs).take m) true = (.okay, s.store pa ((b :: bs).take m)) := by
        unfold State.writeBlock
        rw [h0.1]
        simp only
        rw [State.sramWriteWord_clean hc.2.2]
      rw [hw]
      simp only
      have hl : ((b :: bs).take m).length = m := by rw [List.length_take]; omega
      rw [ih (s.store pa ((b :: bs).take m)) ((b :: bs).drop m) (pa + m) hc.store
        (fun t ht i hi => by
          rw [List.length_drop] at hi
          have := hp t ht (m + i) (by omega)
          rwa [← Nat.add_assoc] at this)
        (by rw [List.length_drop]; omega)]
      have h2 := @State.store_append s pa ((b :: bs).take m) ((b :: bs).drop m)
      rw [hl, List.take_append_drop] at h2
      rw [h2]

/-- What an engine reads in its memory. -/
theorem State.engRead_clean {s : State} {te off n : Nat} (ht : te < 64) (hc : s.EngineClean te) (ho : off + n ≤ engineBytes) :
    s.engRead te off n = .ok (s.bytes (engineAt te + off) n) s := by
  unfold State.engRead
  dsimp only
  rw [State.readMem_clean hc.2.2 (n + 1) n (engineAt te + off) (fun i hi => by
    rw [Nat.add_assoc]
    exact ⟨State.place_engine ht (by omega), fun m => State.judge_engine ht (by omega) rfl hc⟩) (by omega)]

/-- What an engine writes in its memory. -/
theorem State.engWrite_clean {s : State} {te off : Nat} {bs : List Byte} (ht : te < 64) (hc : s.EngineClean te)
    (ho : off + bs.length ≤ engineBytes) : s.engWrite te off bs = .ok () (s.store (engineAt te + off) bs) := by
  unfold State.engWrite
  rw [State.writeMem_clean (te := te) (bs.length + 1) s bs (engineAt te + off) hc (fun t htc i hi => by
    rw [Nat.add_assoc]
    exact ⟨State.place_engine ht (by omega), fun m => State.judge_engine ht (by omega) rfl htc⟩) (by omega)]

/-! ## Issue -/

/-- What is empty on a quiet engine. -/
theorem Engine.quiet_parts {e : Engine} (h : e.quiet = true) :
    e.loads = [] ∧ e.fetches = [] ∧ e.dmas = [] ∧ ∀ j < 4, (e.ary j).macs = [] := by
  simp only [Engine.quiet, Bool.and_eq_true, List.isEmpty_iff, List.all_eq_true, List.mem_range] at h
  exact ⟨h.1.1.1.2, h.1.1.2, h.1.2, h.2⟩

/-- Units that hold nothing have nothing to do. -/
theorem State.unitStep_idle {s : State} {te : Nat} (h : (s.eng te).loads = [] ∧ (s.eng te).fetches = [] ∧ (s.eng te).dmas = [] ∧
    ∀ j < 4, ((s.eng te).ary j).macs = []) : s.unitStep te = none := by
  obtain ⟨hl, hf, hd, hm⟩ := h
  have h0 := hm 0 (by decide)
  have h1 := hm 1 (by decide)
  have h2 := hm 2 (by decide)
  have h3 := hm 3 (by decide)
  have hs : (s.eng te).nextStart = none := by
    unfold Engine.nextStart
    rw [show List.range 4 = [0, 1, 2, 3] from rfl]
    simp [h0, h1, h2, h3]
  have hr : (s.eng te).ready = [] := by
    unfold Engine.ready
    rw [show List.range 4 = [0, 1, 2, 3] from rfl]
    simp [h0, h1, h2, h3]
  unfold State.unitStep
  simp only [hl, hf, hd, Engine.nextLoad, Engine.nextFetch, hs, hr, State.nextDma, Option.map_none]

/-- They go on to where they are, whether or not an append KVL still waits for its grant. -/
theorem State.unitsGo_idle {s : State} {te : Nat} (h : (s.eng te).loads = [] ∧ (s.eng te).fetches = [] ∧ (s.eng te).dmas = [] ∧
    ∀ j < 4, ((s.eng te).ary j).macs = []) : s.unitsGo te = .ok () s := by
  have hu := State.unitStep_idle h
  unfold State.unitsGo
  generalize (s.eng te).toDo = n
  cases n with
  | zero => rfl
  | succ n => unfold State.goUnits; rw [hu]

theorem State.unitsGo_quiet {s : State} {te : Nat} (h : (s.eng te).quiet = true) : s.unitsGo te = .ok () s :=
  State.unitsGo_idle (Engine.quiet_parts h)

/-- Nothing goes on in a quiet engine that no WAIT holds. -/
theorem State.proceed_quiet {s : State} {te : Nat} (hq : (s.eng te).quiet = true) (hw : (s.eng te).waiting = none) :
    s.proceed te = s := by
  have e1 : s.retryWait te = s := by unfold State.retryWait; rw [hw]
  unfold State.proceed
  rw [e1, State.unitsGo_quiet hq]

theorem State.heldRanges_quiet {s : State} {te : Nat} (h : (s.eng te).quiet = true) : s.heldRanges te = [] := by
  obtain ⟨hl, hf, hd, hm⟩ := Engine.quiet_parts h
  have h0 := hm 0 (by decide)
  have h1 := hm 1 (by decide)
  have h2 := hm 2 (by decide)
  have h3 := hm 3 (by decide)
  unfold State.heldRanges
  rw [show List.range 4 = [0, 1, 2, 3] from rfl]
  simp [hl, hf, hd, h0, h1, h2, h3]

/-- Nothing holds back a command of a quiet engine that no WAIT holds. -/
theorem State.blocked_quiet {s : State} {te : Nat} {h : TileHdr} {o : TileOp} (hq : (s.eng te).quiet = true)
    (hw : (s.eng te).waiting = none) : s.blocked te h o = false := by
  obtain ⟨hl, hf, hd, hm⟩ := Engine.quiet_parts hq
  have h0 := hm 0 (by decide)
  have h1 := hm 1 (by decide)
  have h2 := hm 2 (by decide)
  have h3 := hm 3 (by decide)
  have e : ((List.range 4).any fun j => !((s.eng te).ary j).macs.isEmpty) = false := by
    rw [show List.range 4 = [0, 1, 2, 3] from rfl]
    simp [h0, h1, h2, h3]
  unfold State.blocked
  rw [State.heldRanges_quiet hq]
  dsimp only
  rw [hw, hq]
  cases o <;> simp [State.fenceHeld, State.windowBusy, hl, hf, hd, e]

/-- A command that may run has its effect, and then the units go on; a KVL then lets Miller settle. -/
theorem State.issue_starts {s s1 s2 : State} {te : Nat} {h : TileHdr} {up : List ArrayUpset} {o : TileOp} (hm : s.MayRun te h o)
    (hr : s.runTile te h up o = .ok () s1) (hg : s1.unitsGo te = .ok () s2) :
    s.issue te h up o = if (match o with | .kvl _ _ => true | _ => false) then s2.settle else s2 := by
  obtain ⟨⟨h1, h2, h3, _⟩, hv, hrows⟩ := hm
  unfold State.issue
  rw [h1, State.proceed_quiet h3 h2]
  dsimp only
  rw [h1]
  unfold State.startTile
  dsimp only
  rw [State.blocked_quiet h3 h2, hv, hr]
  dsimp only [Ran.bind]
  rw [hg]
  cases hx : o.rows h.arym with
  | none => rfl
  | some r =>
    have e3 : Nat.blt (s.accRows te) r.2 = false := by
      have := hrows r hx
      rw [Bool.eq_false_iff, Ne, Nat.blt_eq]
      omega
    simp only [e3, Bool.false_eq_true, if_false]
    rfl

/-- A command that may run, whose effect leaves nothing for the units, has that effect. -/
theorem State.issue_runs {s s1 : State} {te : Nat} {h : TileHdr} {up : List ArrayUpset} {o : TileOp} (hm : s.MayRun te h o)
    (hr : s.runTile te h up o = .ok () s1) (hq : (s1.eng te).quiet = true) :
    s.issue te h up o = if (match o with | .kvl _ _ => true | _ => false) then s1.settle else s1 :=
  State.issue_starts hm hr (State.unitsGo_quiet hq)

end Sys2Proof.Machine
end

