-- ==== Sys2Proof/Laws/Frame.lean ====
section
/-!
SUPPORT. What an access of a unit can change: memory and its wrong bits, the caches, the counters, logs and records of the memory side,
the transactions that a faulty link has ended, the dirty log of a context, and the count of free values.  Nothing else, and no register
outside the memory and guard blocks.
-/

namespace Sys2Proof.Machine

/-- The state without what an access can change. -/
def State.beside (s : State) : State :=
  { s with mem := [], ddrDamage := [], sramDamage := [], sramSent := [], ctxs := State.reset.ctxs, guardSent := [], errs := [],
           dmcs := State.reset.dmcs, regs := [], caches := [], slc := [], slcUses := State.reset.slcUses, linkLost := [], ticks := 0 }

/-- `t` differs from `s` by accesses alone. -/
def AccessOnly (s t : State) : Prop :=
  t.beside = s.beside ∧ (∀ a, a < 0x11000000 ∨ 0x11200000 ≤ a → t.reg a = s.reg a) ∧ ∀ r ∈ s.errs, r ∈ t.errs

theorem AccessOnly.rfl {s : State} : AccessOnly s s := ⟨Eq.refl _, fun _ _ => Eq.refl _, fun _ h => h⟩

theorem AccessOnly.trans {s t u : State} (h1 : AccessOnly s t) (h2 : AccessOnly t u) : AccessOnly s u :=
  ⟨h2.1.trans h1.1, fun a ha => (h2.2.1 a ha).trans (h1.2.1 a ha), fun r hr => h2.2.2 r (h1.2.2 r hr)⟩

theorem AccessOnly.snd {α : Type} {s t : State} {r : α × State} {x : α} (h : AccessOnly s r.2) (e : r = (x, t)) : AccessOnly s t := by
  subst e; exact h

theorem AccessOnly.of_regs {s t : State} (h : t.beside = s.beside) (hr : t.regs = s.regs) (he : t.errs = s.errs) : AccessOnly s t :=
  ⟨h, fun a _ => by unfold State.reg; rw [hr], fun _ m => he ▸ m⟩

/-- A field of `t` that no access changes is that of `s`. -/
theorem AccessOnly.eq {α : Type} {s t : State} (h : AccessOnly s t) (f : State → α) (hf : ∀ u : State, f u.beside = f u) : f t = f s := by
  rw [← hf t, ← hf s, h.1]

theorem AccessOnly.setFld (s : State) (a : Nat) (f : Fld) (v : Nat) (h : 0x11000000 ≤ a ∧ a < 0x11200000) :
    AccessOnly s (s.setFld a f v) :=
  ⟨Eq.refl _, fun b hb => State.reg_setFld_other (by omega), fun _ h => h⟩

theorem AccessOnly.setReg (s : State) (a : Nat) (w : Word) (h : 0x11000000 ≤ a ∧ a < 0x11200000) : AccessOnly s (s.setReg a w) :=
  ⟨Eq.refl _, fun b hb => State.reg_setReg_other (by omega), fun _ h => h⟩

theorem AccessOnly.count (s : State) (a : Nat) (f : Fld) (n : Nat) (h : 0x11000000 ≤ a ∧ a < 0x11200000) :
    AccessOnly s (s.count a f n) := AccessOnly.setFld _ _ _ _ h

theorem AccessOnly.report (s : State) (r : ErrRecord) : AccessOnly s (s.report r) :=
  ⟨Eq.refl _, fun _ _ => Eq.refl _, fun _ h => List.mem_append_left _ h⟩

theorem AccessOnly.setDmc (s : State) (n : Nat) (x : Dmc) : AccessOnly s (s.setDmc n x) := .of_regs (Eq.refl _) (Eq.refl _) (Eq.refl _)

/-! ## DDR and on-chip words -/

theorem State.subOf_lt (s : State) (pa : Nat) : s.subOf pa < 16 := by
  have four (x h l : Nat) (e : h + 1 - l = 4) : bitsOf x h l < 2 ^ 4 := by
    unfold bitsOf
    rw [e]
    exact Nat.mod_lt _ (by decide)
  have n : s.nsub ≤ 16 := by
    unfold State.nsub
    have := s.ddr.count.isLt
    omega
  unfold State.subOf ddrSub
  have x := Nat.xor_lt_two_pow (four (pa - ddrBase) 11 8 rfl)
    (Nat.xor_lt_two_pow (four (pa - ddrBase) 15 12 rfl) (Nat.xor_lt_two_pow (four (pa - ddrBase) 19 16 rfl) (four (pa - ddrBase) 23 20 rfl)))
  cases h : s.nsub with
  | zero => rw [Nat.mod_zero]; exact x
  | succ k => exact Nat.lt_of_lt_of_le (Nat.mod_lt _ (Nat.succ_pos k)) (h ▸ n)

/-- The registers of the controller of a subchannel are in the memory blocks. -/
theorem dmcReg_in {n o : Nat} (hn : n < 16) (ho : o < 0x10000) : 0x11000000 ≤ 0x11000000 + o + n / 2 * 0x10000 ∧
    0x11000000 + o + n / 2 * 0x10000 < 0x11200000 := by omega

theorem AccessOnly.ddrCeRecord (s : State) (g pa iid : Nat) : AccessOnly s (s.ddrCeRecord g pa iid) := by
  unfold State.ddrCeRecord
  dsimp only
  split
  · exact (AccessOnly.setDmc _ _ _).trans (AccessOnly.report _ _)
  · exact .rfl

theorem AccessOnly.ddrLog (s : State) (g pa src dev : Nat) (ue : Bool) (hg : g < 16) : AccessOnly s (s.ddrLog g pa src dev ue) := by
  have loc : 0x11000000 ≤ Reg.DMC_ECC_LOC (g / 2) ∧ Reg.DMC_ECC_LOC (g / 2) < 0x11200000 := by unfold Reg.DMC_ECC_LOC; omega
  have addr : 0x11000000 ≤ Reg.DMC_ECC_ADDR (g / 2) ∧ Reg.DMC_ECC_ADDR (g / 2) < 0x11200000 := by unfold Reg.DMC_ECC_ADDR; omega
  unfold State.ddrLog
  dsimp only
  split
  · exact .rfl
  · exact ((((((AccessOnly.setFld _ _ _ _ loc).trans (AccessOnly.setFld _ _ _ _ loc)).trans (AccessOnly.setFld _ _ _ _ loc)).trans
      (AccessOnly.setFld _ _ _ _ loc)).trans (AccessOnly.setFld _ _ _ _ loc)).trans (AccessOnly.setFld _ _ _ _ loc)).trans
      (AccessOnly.setFld _ _ _ _ addr)

theorem AccessOnly.ddrCount (s : State) (g pa dev iid : Nat) (hg : g < 16) : AccessOnly s (s.ddrCount g pa dev iid) := by
  have mark : 0x11000000 ≤ Reg.DMC_MARK (g / 2) ∧ Reg.DMC_MARK (g / 2) < 0x11200000 := by unfold Reg.DMC_MARK; omega
  unfold State.ddrCount
  dsimp only
  split
  · exact .rfl
  · split
    · exact (((AccessOnly.setDmc _ _ _).trans (AccessOnly.setFld _ _ _ _ mark)).trans (AccessOnly.setFld _ _ _ _ mark)).trans
        (AccessOnly.ddrCeRecord _ _ _ _)
    · exact AccessOnly.setDmc _ _ _

theorem AccessOnly.ddrDamage (s : State) (x : List (Nat × Damage)) : AccessOnly s { s with ddrDamage := x } :=
  .of_regs (Eq.refl _) (Eq.refl _) (Eq.refl _)

theorem AccessOnly.sramDamage (s : State) (x : List (Nat × Damage)) : AccessOnly s { s with sramDamage := x } :=
  .of_regs (Eq.refl _) (Eq.refl _) (Eq.refl _)

theorem AccessOnly.ddrUeRecord (s : State) (g pa iid : Nat) : AccessOnly s (s.ddrUeRecord g pa iid) := by
  unfold State.ddrUeRecord
  exact AccessOnly.report _ _

theorem AccessOnly.ddrCorrected (s : State) (pa dev src iid : Nat) : AccessOnly s (s.ddrCorrected pa dev src iid) := by
  have hg := s.subOf_lt pa
  have cnt : 0x11000000 ≤ Reg.DMC_ECC_CNT (s.subOf pa / 2) ∧ Reg.DMC_ECC_CNT (s.subOf pa / 2) < 0x11200000 := by
    unfold Reg.DMC_ECC_CNT; omega
  unfold State.ddrCorrected
  exact (((AccessOnly.count s _ Fld.DMC_ECC_CNT_CE 1 cnt).trans (AccessOnly.ddrLog _ _ pa src dev false hg)).trans
    (AccessOnly.ddrCount _ _ pa dev iid hg)).trans (AccessOnly.ddrCeRecord _ _ _ _)

theorem AccessOnly.storeFree (s : State) (pa n : Nat) : AccessOnly s (s.storeFree pa n) := .of_regs (Eq.refl _) (Eq.refl _) (Eq.refl _)

theorem AccessOnly.ddrDecode (s : State) (pa upset src iid : Nat) : AccessOnly s (s.ddrDecode pa upset src iid).2 := by
  have hg := s.subOf_lt pa
  have cnt : 0x11000000 ≤ Reg.DMC_ECC_CNT (s.subOf pa / 2) ∧ Reg.DMC_ECC_CNT (s.subOf pa / 2) < 0x11200000 := by
    unfold Reg.DMC_ECC_CNT; omega
  unfold State.ddrDecode
  cases s.decodeDdr pa upset with
  | ok => exact .rfl
  | corrected dev marked => exact (AccessOnly.ddrDamage _ _).trans (AccessOnly.ddrCorrected _ _ _ _ _)
  | mistaken dev =>
    refine AccessOnly.trans ?_ (AccessOnly.ddrCorrected _ _ _ _ _)
    split
    · exact AccessOnly.ddrDamage _ _
    · exact (AccessOnly.ddrDamage _ _).trans (AccessOnly.storeFree _ _ _)
  | uncorrectable =>
    refine AccessOnly.trans ?_ (AccessOnly.ddrUeRecord _ _ _ _)
    refine AccessOnly.trans ?_ (AccessOnly.ddrLog _ _ _ _ _ _ hg)
    exact AccessOnly.trans (AccessOnly.ddrDamage _ _) (AccessOnly.count _ _ _ _ cnt)
  | poison => exact AccessOnly.count _ _ _ _ cnt

theorem AccessOnly.sramDecode (s : State) (pa upset : Nat) (own : Bool) : AccessOnly s (s.sramDecode pa upset own).2 := by
  unfold State.sramDecode
  dsimp only
  split
  · exact .rfl
  · dsimp only
    split
    · exact AccessOnly.trans (.of_regs (Eq.refl _) (Eq.refl _) (Eq.refl _)) (AccessOnly.report _ _)
    · exact .of_regs (Eq.refl _) (Eq.refl _) (Eq.refl _)
  · dsimp only
    split
    · exact AccessOnly.trans (.of_regs (Eq.refl _) (Eq.refl _) (Eq.refl _)) (AccessOnly.report _ _)
    · exact .of_regs (Eq.refl _) (Eq.refl _) (Eq.refl _)
  · dsimp only
    split
    · exact .of_regs (Eq.refl _) (Eq.refl _) (Eq.refl _)
    · exact AccessOnly.trans (.of_regs (Eq.refl _) (Eq.refl _) (Eq.refl _)) (AccessOnly.report _ _)
  · exact .rfl

theorem AccessOnly.store (s : State) (pa : Nat) (bs : List Byte) : AccessOnly s (s.store pa bs) := .of_regs (Eq.refl _) (Eq.refl _) (Eq.refl _)

theorem AccessOnly.zero (s : State) (pa n : Nat) : AccessOnly s (s.zero pa n) := .of_regs (Eq.refl _) (Eq.refl _) (Eq.refl _)

theorem AccessOnly.ddrWriteWord (s : State) (iid pa : Nat) (bs : List Byte) (upset : Nat) :
    AccessOnly s (s.ddrWriteWord iid pa bs upset).2 := by
  have k := AccessOnly.ddrDecode s pa upset 1 iid
  unfold State.ddrWriteWord
  dsimp only
  split
  · exact (AccessOnly.ddrDamage _ _).trans (AccessOnly.store _ _ _)
  · split
    · exact k.trans (AccessOnly.store _ _ _)
    · exact (k.trans (AccessOnly.ddrDamage _ _)).trans (AccessOnly.store _ _ _)
    · exact (k.trans (AccessOnly.ddrDamage _ _)).trans (AccessOnly.store _ _ _)
    · exact ((k.trans (AccessOnly.ddrDamage _ _)).trans (AccessOnly.zero _ _ _)).trans (AccessOnly.store _ _ _)
    · exact k.trans (AccessOnly.store _ _ _)

theorem AccessOnly.sramWriteWord (s : State) (pa : Nat) (bs : List Byte) (upset : Nat) (own : Bool) :
    AccessOnly s (s.sramWriteWord pa bs upset own) := by
  have k := AccessOnly.sramDecode s pa upset own
  unfold State.sramWriteWord
  dsimp only
  split
  · exact (AccessOnly.sramDamage _ _).trans (AccessOnly.store _ _ _)
  · split
    · exact k.trans (AccessOnly.store _ _ _)
    · exact k.trans (AccessOnly.store _ _ _)
    · exact k.trans (AccessOnly.store _ _ _)
    · exact k.trans (AccessOnly.store _ _ _)
    · exact (k.trans (AccessOnly.sramDamage _ _)).trans (AccessOnly.store _ _ _)

/-! ## Caches -/

theorem AccessOnly.slcAllocate (s : State) (line cls : Nat) (dirty : Bool) : AccessOnly s (s.slcAllocate line cls dirty) := by
  unfold State.slcAllocate
  split
  · exact .rfl
  · exact .of_regs (Eq.refl _) (Eq.refl _) (Eq.refl _)

theorem AccessOnly.slcUse (s : State) (cls line way : Nat) : AccessOnly s (s.slcUse cls line way) :=
  .of_regs (Eq.refl _) (Eq.refl _) (Eq.refl _)

theorem AccessOnly.slcDirty (s : State) (line cls : Nat) (whole : Bool) : AccessOnly s (s.slcDirty line cls whole) :=
  .of_regs (Eq.refl _) (Eq.refl _) (Eq.refl _)

theorem AccessOnly.slcWriteLine (s : State) (line cls : Nat) : AccessOnly s (s.slcWriteLine line cls) := by
  unfold State.slcWriteLine
  split
  · exact (AccessOnly.slcDirty _ _ _ _).trans (AccessOnly.slcUse _ _ _ _)
  · split
    · exact AccessOnly.ddrDamage _ _
    · exact AccessOnly.slcAllocate _ _ _ _

theorem AccessOnly.foldl {α : Type} {f : State → α → State} (h : ∀ s x, AccessOnly s (f s x)) (xs : List α) :
    ∀ s, AccessOnly s (xs.foldl f s) := by
  induction xs with
  | nil => intro s; exact .rfl
  | cons x xs ih => intro s; exact (h s x).trans (ih _)

theorem AccessOnly.cacheFill (s : State) {back : State → Nat → State} (h : ∀ s l, AccessOnly s (back s l)) (c : CacheId) (line : Nat)
    (dirty : Bool) : AccessOnly s (s.cacheFill back c line dirty) := by
  unfold State.cacheFill
  dsimp only
  split
  · exact .of_regs (Eq.refl _) (Eq.refl _) (Eq.refl _)
  · refine AccessOnly.trans (.of_regs (Eq.refl _) (Eq.refl _) (Eq.refl _)) (AccessOnly.foldl (fun s x => ?_) _ _)
    split
    · exact h _ _
    · exact .rfl

theorem AccessOnly.fillL2 (s : State) (cls p line : Nat) (dirty : Bool) : AccessOnly s (s.fillL2 cls p line dirty) :=
  AccessOnly.cacheFill _ (fun _ _ => AccessOnly.slcWriteLine _ _ _) _ _ _

theorem AccessOnly.fillL1 (s : State) (cls k line : Nat) (dirty : Bool) : AccessOnly s (s.fillL1 cls k line dirty) :=
  AccessOnly.cacheFill _ (fun _ _ => AccessOnly.fillL2 _ _ _ _ _) _ _ _

theorem AccessOnly.hartFill (s : State) (req : Req) (ty : AccType) (line : Nat) : AccessOnly s (s.hartFill req ty line) := by
  unfold State.hartFill
  split
  · refine (AccessOnly.fillL2 _ _ _ _ _).trans (AccessOnly.foldl (fun s c => ?_) _ _)
    split
    · exact AccessOnly.cacheFill _ (fun _ _ => .rfl) _ _ _
    · exact AccessOnly.fillL1 _ _ _ _ _
    · exact AccessOnly.fillL1 _ _ _ _ _
  · exact .rfl

theorem AccessOnly.snoop (s : State) (ini : Initiator) (line : Nat) : AccessOnly s (s.snoop ini line) :=
  .of_regs (Eq.refl _) (Eq.refl _) (Eq.refl _)

theorem AccessOnly.ddrReadWord (s : State) (iid pa n upset : Nat) : AccessOnly s (s.ddrReadWord iid pa n upset).2.2 := by
  have k := AccessOnly.ddrDecode s pa upset 0 iid
  unfold State.ddrReadWord
  dsimp only
  split <;> exact k

theorem AccessOnly.ite (b : Bool) {s x y : State} (hx : AccessOnly s x) (hy : AccessOnly s y) : AccessOnly s (if b then x else y) := by
  cases b <;> assumption

theorem AccessOnly.ddrRead (s : State) (req : Req) (ty : AccType) (pa n upset : Nat) :
    AccessOnly s (s.ddrRead req ty pa n upset).2.2 := by
  have fill {r : Resp × List Byte × State} (k : AccessOnly s r.2.2) :
      AccessOnly s (if decide (r.1 = .okay) then r.2.2.hartFill req ty (pa / 64) else r.2.2) :=
    .ite _ (k.trans (AccessOnly.hartFill _ _ _ _)) k
  unfold State.ddrRead
  refine fill ?_
  split
  · exact .rfl
  · split
    · dsimp only
      split
      · exact AccessOnly.slcUse _ _ _ _
      · exact AccessOnly.slcUse _ _ _ _
    · have k := AccessOnly.ddrReadWord s (iidOf req.ini).toNat pa n upset
      exact .ite _ (k.trans (AccessOnly.slcAllocate _ _ _ _)) k

theorem AccessOnly.ddrWrite (s : State) (req : Req) (pa : Nat) (bs : List Byte) (upset : Nat) :
    AccessOnly s (s.ddrWrite req pa bs upset).2 := by
  have word := AccessOnly.ddrWriteWord s (iidOf req.ini).toNat pa bs upset
  unfold State.ddrWrite
  refine AccessOnly.trans ?_ (AccessOnly.snoop _ _ _)
  have pick (b : Bool) (x y : Resp × State) (hx : AccessOnly s x.2) (hy : AccessOnly s y.2) : AccessOnly s (if b then x else y).2 := by
    cases b <;> assumption
  refine pick _ _ _ ((AccessOnly.slcWriteLine _ _ _).trans (AccessOnly.store _ _ _)) ?_
  split
  · exact ((AccessOnly.slcDirty _ _ _ _).trans (AccessOnly.slcUse _ _ _ _)).trans (AccessOnly.store _ _ _)
  · split
    · exact word
    · exact word
    · exact word
    · exact ((AccessOnly.ddrDecode _ _ _ _ _).trans (AccessOnly.slcAllocate _ _ _ _)).trans (AccessOnly.store _ _ _)

/-! ## Judgement, blocks and transfers -/

theorem AccessOnly.linkEnd (s : State) (i : Initiator) : AccessOnly s (s.linkEnd i) := .of_regs (Eq.refl _) (Eq.refl _) (Eq.refl _)

theorem AccessOnly.relabel (s : State) (req : Req) : AccessOnly s (s.relabel req) := by
  unfold State.relabel
  split
  · exact AccessOnly.setFld _ _ _ _ (by decide)
  · exact .rfl

theorem AccessOnly.decodeError (s : State) (req : Req) (ty : AccType) (pa : Nat) : AccessOnly s (s.decodeError req ty pa) := by
  unfold State.decodeError
  dsimp only
  split
  · exact AccessOnly.report _ _
  · exact ((AccessOnly.setReg _ _ _ (by decide)).trans (AccessOnly.setReg _ _ _ (by decide))).trans (AccessOnly.report _ _)

theorem AccessOnly.guardRefuse (s : State) (t : Nat) (req : Req) (ty : AccType) (pa : Nat) (ht : t < 16) :
    AccessOnly s (s.guardRefuse t req ty pa) := by
  have lo : 0x11000000 ≤ Reg.GRD_LOG_LO t ∧ Reg.GRD_LOG_LO t < 0x11200000 := by unfold Reg.GRD_LOG_LO; omega
  have hi : 0x11000000 ≤ Reg.GRD_LOG_HI t ∧ Reg.GRD_LOG_HI t < 0x11200000 := by unfold Reg.GRD_LOG_HI; omega
  have sent (x : State) (b : Bool) (m : List (Nat × Nat)) (r : ErrRecord) (hx : AccessOnly s x) :
      AccessOnly s (if b then { x with guardSent := m }.report r else x) := by
    cases b
    · exact hx
    · exact (hx.trans (.of_regs (Eq.refl _) (Eq.refl _) (Eq.refl _))).trans (AccessOnly.report _ _)
  unfold State.guardRefuse
  refine sent _ _ _ _ ?_
  split
  · exact .rfl
  · exact (AccessOnly.setReg _ _ _ lo).trans (AccessOnly.setReg _ _ _ hi)

theorem State.guardTarget_lt {s : State} {pa t : Nat} (h : s.guardTarget pa = some t) : t < 16 := by
  have := s.subOf_lt pa
  unfold State.guardTarget at h
  split at h <;> cases h <;> omega

theorem AccessOnly.judge (s : State) (req : Req) (ty : AccType) (pa len : Nat) : AccessOnly s (s.judge req ty pa len).2 := by
  unfold State.judge
  split
  · exact AccessOnly.linkEnd _ _
  split
  · exact .rfl
  split
  · exact AccessOnly.decodeError _ _ _ _
  · split
    · exact AccessOnly.decodeError _ _ _ _
    · exact .rfl
  · split
    · exact AccessOnly.decodeError _ _ _ _
    · exact .rfl
  · split
    · split
      · exact .rfl
      · split
        · split
          · exact .rfl
          · exact AccessOnly.guardRefuse _ _ _ _ _ (State.guardTarget_lt ‹_›)
        · exact .rfl
    · exact .rfl

theorem AccessOnly.writeBlock (s : State) (req : Req) (pa : Nat) (bs : List Byte) (own : Bool) :
    AccessOnly s (s.writeBlock req pa bs own).2 := by
  unfold State.writeBlock
  split
  · exact AccessOnly.ddrWrite _ _ _ _ _
  · exact AccessOnly.sramWriteWord _ _ _ _ _
  · exact AccessOnly.sramWriteWord _ _ _ _ _
  · exact AccessOnly.sramWriteWord _ _ _ _ _
  · exact .rfl
  · exact .rfl
  · exact AccessOnly.store _ _ _

theorem AccessOnly.writeMem (req : Req) (own : Bool) (fuel : Nat) :
    ∀ (s : State) (pa : Nat) (bs : List Byte), AccessOnly s (s.writeMem req own fuel pa bs).2 := by
  induction fuel with
  | zero => intro s pa bs; unfold State.writeMem; exact .rfl
  | succ fuel ih =>
    intro s pa bs
    cases bs with
    | nil => unfold State.writeMem; exact .rfl
    | cons b bs =>
      unfold State.writeMem
      dsimp only
      split
      · rename_i h1
        have k1 := AccessOnly.snd (AccessOnly.judge _ _ _ _ _) h1
        split
        · rename_i h2
          exact (k1.trans (AccessOnly.snd (AccessOnly.writeBlock _ _ _ _ _) h2)).trans (ih _ _ _)
        · rename_i h2
          exact k1.trans (AccessOnly.snd (AccessOnly.writeBlock _ _ _ _ _) h2)
      · rename_i h1
        exact AccessOnly.snd (AccessOnly.judge _ _ _ _ _) h1

theorem AccessOnly.markDirty (s : State) (n gpa : Nat) : AccessOnly s (s.markDirty n gpa) := by
  unfold State.markDirty
  dsimp only
  split
  · exact .rfl
  · split
    · exact .of_regs (Eq.refl _) (Eq.refl _) (Eq.refl _)
    · split
      · exact .rfl
      · exact AccessOnly.writeMem _ _ _ _ _ _

theorem AccessOnly.dmaWrite (req : Req) (fuel : Nat) :
    ∀ (s : State) (iova : Nat) (bs : List Byte), AccessOnly s (s.dmaWrite req fuel iova bs).2 := by
  induction fuel with
  | zero => intro s iova bs; unfold State.dmaWrite; exact .rfl
  | succ fuel ih =>
    intro s iova bs
    cases bs with
    | nil => unfold State.dmaWrite; exact .rfl
    | cons b bs =>
      unfold State.dmaWrite
      dsimp only
      split
      · exact .rfl
      · split
        · rename_i h1
          exact ((AccessOnly.snd (AccessOnly.writeMem _ _ _ _ _ _) h1).trans (AccessOnly.markDirty _ _ _)).trans (ih _ _ _)
        · rename_i h1
          exact (AccessOnly.snd (AccessOnly.writeMem _ _ _ _ _ _) h1).trans (AccessOnly.markDirty _ _ _)

/-- What a unit's write can change. -/
theorem AccessOnly.put (s : State) (req : Req) (iova : Nat) (bs : List Byte) : AccessOnly s (s.put req iova bs).2 :=
  (AccessOnly.relabel _ _).trans (AccessOnly.dmaWrite _ _ _ _ _)

theorem AccessOnly.sramReadWord (s : State) (pa n upset : Nat) (own : Bool) : AccessOnly s (s.sramReadWord pa n upset own).2.2 := by
  have k := AccessOnly.sramDecode s pa upset own
  unfold State.sramReadWord
  dsimp only
  split <;> exact k

theorem AccessOnly.readBlock (s : State) (ty : AccType) (req : Req) (pa n : Nat) (own : Bool) :
    AccessOnly s (s.readBlock ty req pa n own).2.2 := by
  unfold State.readBlock
  split
  · exact AccessOnly.ddrRead _ _ _ _ _ _
  · exact AccessOnly.sramReadWord _ _ _ _ _
  · exact AccessOnly.sramReadWord _ _ _ _ _
  · exact AccessOnly.sramReadWord _ _ _ _ _
  all_goals exact .rfl

theorem AccessOnly.snd2 {α β : Type} {s t : State} {r : α × β × State} {x : α} {y : β} (h : AccessOnly s r.2.2) (e : r = (x, y, t)) :
    AccessOnly s t := by
  subst e; exact h

theorem AccessOnly.readMemAs (ty : AccType) (req : Req) (own : Bool) (fuel : Nat) :
    ∀ (s : State) (pa n : Nat), AccessOnly s (s.readMemAs ty req own fuel pa n).2.2 := by
  induction fuel with
  | zero => intro s pa n; unfold State.readMemAs; exact .rfl
  | succ fuel ih =>
    intro s pa n
    unfold State.readMemAs
    split
    · exact .rfl
    · exact .rfl
    · rename_i e _
      cases e
      dsimp only
      split
      · rename_i h1
        have k1 := AccessOnly.snd (AccessOnly.judge _ _ _ _ _) h1
        split
        · rename_i h2
          have k2 := k1.trans (AccessOnly.snd2 (AccessOnly.readBlock _ _ _ _ _ _) h2)
          split
          · rename_i h3; exact k2.trans (AccessOnly.snd2 (ih _ _ _) h3)
          · rename_i h3; exact k2.trans (AccessOnly.snd2 (ih _ _ _) h3)
        · rename_i h2
          exact k1.trans (AccessOnly.snd2 (AccessOnly.readBlock _ _ _ _ _ _) h2)
      · rename_i h1
        exact AccessOnly.snd (AccessOnly.judge _ _ _ _ _) h1

theorem AccessOnly.readMem (s : State) (req : Req) (own : Bool) (fuel pa n : Nat) : AccessOnly s (s.readMem req own fuel pa n).2.2 :=
  AccessOnly.readMemAs _ _ _ _ _ _ _

theorem AccessOnly.dmaRead (req : Req) (fuel : Nat) :
    ∀ (s : State) (iova n : Nat), AccessOnly s (s.dmaRead req fuel iova n).2.2 := by
  induction fuel with
  | zero => intro s iova n; unfold State.dmaRead; exact .rfl
  | succ fuel ih =>
    intro s iova n
    unfold State.dmaRead
    split
    · exact .rfl
    · exact .rfl
    · rename_i e _
      cases e
      dsimp only
      split
      · exact .rfl
      · split
        · rename_i h1
          have k1 := AccessOnly.snd2 (AccessOnly.readMem _ _ _ _ _ _) h1
          split
          · rename_i h2; exact k1.trans (AccessOnly.snd2 (ih _ _ _) h2)
          · rename_i h2; exact k1.trans (AccessOnly.snd2 (ih _ _ _) h2)
        · rename_i h1
          exact AccessOnly.snd2 (AccessOnly.readMem _ _ _ _ _ _) h1

/-- What a unit's read can change. -/
theorem AccessOnly.fetch (s : State) (req : Req) (iova n : Nat) : AccessOnly s (s.fetch req iova n).2.2 :=
  (AccessOnly.relabel _ _).trans (AccessOnly.dmaRead _ _ _ _ _)

end Sys2Proof.Machine
end

