-- ==== Sys2Proof/Laws/Jobs.lean ====
section
/-!
SUPPORT. A job that ends and an engine that faults: what of the engine registers they leave.
-/

namespace Sys2Proof.Machine

/-- `t` has the engine registers of `s`. -/
def KeepsTen (s t : State) : Prop := ∀ a, 0x10100000 ≤ a → a < 0x10180000 → t.reg a = s.reg a

theorem KeepsTen.rfl {s : State} : KeepsTen s s := fun _ _ _ => Eq.refl _

theorem KeepsTen.trans {s t u : State} (h1 : KeepsTen s t) (h2 : KeepsTen t u) : KeepsTen s u :=
  fun a l r => (h2 a l r).trans (h1 a l r)

theorem KeepsTen.of_regs {s t : State} (h : t.regs = s.regs) : KeepsTen s t := fun a _ _ => by unfold State.reg; rw [h]

theorem KeepsTen.of_access {s t : State} (h : AccessOnly s t) : KeepsTen s t := fun a _ r => h.2.1 a (.inl (by omega))

theorem KeepsTen.setFld (s : State) (a : Nat) (f : Fld) (v : Nat) (h : a < 0x10100000 ∨ 0x10180000 ≤ a) : KeepsTen s (s.setFld a f v) :=
  fun b l r => State.reg_setFld_other (by omega)

theorem KeepsTen.foldl {α : Type} {f : State → α → State} (h : ∀ s x, KeepsTen s (f s x)) (xs : List α) :
    ∀ s, KeepsTen s (xs.foldl f s) := by
  induction xs with
  | nil => intro s; exact .rfl
  | cons x xs ih => intro s; exact (h s x).trans (ih _)

theorem KeepsTen.snd {α : Type} {s t : State} {r : α × State} {x : α} (h : KeepsTen s r.2) (e : r = (x, t)) : KeepsTen s t := by
  subst e; exact h

theorem KeepsTen.ite (b : Bool) {s x y : State} (hx : KeepsTen s x) (hy : KeepsTen s y) : KeepsTen s (if b then x else y) := by
  cases b <;> assumption

/-! ## What an ending job does -/

theorem KeepsTen.log (s : State) (r : LogRecord) : KeepsTen s (s.log r) := by
  have next : KeepsTen s { s with fwlSeq := s.fwlSeq + 1 } := .of_regs (Eq.refl _)
  have write {t : State} (h : KeepsTen s t) (req : Req) (a v : Nat) (bs : List Byte) :
      KeepsTen s ((t.put req a bs).2.setFld Reg.FWL_LOG_TAIL Fld.FWL_LOG_TAIL_TAIL v) :=
    (h.trans (.of_access (AccessOnly.put _ _ _ _))).trans (KeepsTen.setFld _ _ _ _ (by decide))
  unfold State.log
  refine .ite _ .rfl (.ite _ next (.ite _ (next.trans ?_) ?_))
  · exact KeepsTen.setFld _ _ _ _ (by decide)
  · exact write next _ _ _ _

theorem KeepsTen.goldenFail (s : State) (g : Nat) (h : g < 4) : KeepsTen s (s.goldenFail g) := by
  unfold State.goldenFail
  exact (KeepsTen.setFld s _ _ _ (by unfold Reg.TCX_GOLD_STAT; omega)).trans (.of_access (AccessOnly.report _ _))

theorem State.goldenOf_lt {s : State} {n r g : Nat} (h : s.goldenOf n r = some g) : g < 4 :=
  List.mem_range.1 (List.mem_of_find?_eq_some h)

theorem KeepsTen.halt (s : State) (n : Nat) : KeepsTen s (s.halt n) := by
  have post (t : State) (c : Nat) : KeepsTen t (t.postEvent c n) := by
    unfold State.postEvent
    split <;> exact .of_regs (Eq.refl _)
  have status (st : CtxStatus) : KeepsTen s (s.setStatus n st) := fun a l _ => by
    unfold State.setStatus
    exact (State.reg_setReg_other (by unfold Reg.TCX_CTX_ACTIVE; omega)).trans (by unfold State.reg; rfl)
  unfold State.halt
  exact .ite _ ((status _).trans (post _ _)) .rfl

theorem KeepsTen.cqWrite (s : State) (n : Nat) (e : CqEntry) : KeepsTen s (s.cqWrite n e).2 := by
  unfold State.cqWrite State.cqPut
  dsimp only
  split
  · rename_i h
    have k := KeepsTen.of_access (AccessOnly.snd (AccessOnly.put _ _ _ _) h)
    exact (k.trans (.of_regs (Eq.refl _))).trans (KeepsTen.setFld _ _ _ _ (by unfold Reg.DB_CQ_TAIL; omega))
  · rename_i h
    exact (KeepsTen.of_access (AccessOnly.snd (AccessOnly.put _ _ _ _) h)).trans (KeepsTen.halt _ _)

theorem KeepsTen.raiseFence (s : State) (n f v : Nat) : KeepsTen s (s.raiseFence n f v) := by
  unfold State.raiseFence
  exact KeepsTen.trans (.of_regs (Eq.refl _)) (.of_access (AccessOnly.put _ _ _ _))

theorem KeepsTen.endEntry (s : State) (n r : Nat) (h : HeldEntry) (e : Ending) : KeepsTen s (s.endEntry n r h e) := by
  have start : KeepsTen s (s.setCtx n { s.ctx n with reserved := (s.ctx n).reserved - 1 }) := .of_regs (Eq.refl _)
  unfold State.endEntry
  dsimp only
  refine .ite _ start ?_
  split
  · rename_i h1
    exact start.trans (KeepsTen.snd (KeepsTen.cqWrite _ _ _) h1)
  · rename_i h1
    have k := start.trans (KeepsTen.snd (KeepsTen.cqWrite _ _ _) h1)
    have msi {u : State} (b : Bool) (h : KeepsTen s u) : KeepsTen s (if b then u.ctxMsi n else u) :=
      .ite b (h.trans (.of_regs (Eq.refl _))) h
    exact msi _ (.ite _ (k.trans (KeepsTen.raiseFence _ _ _ _)) k)

theorem AccessOnly.kvWrite (req : Req) (n fuel : Nat) :
    ∀ (s : State) (gpa : Nat) (bs : List Byte), AccessOnly s (s.kvWrite req n fuel gpa bs).2 := by
  induction fuel with
  | zero => intro s gpa bs; unfold State.kvWrite; exact .rfl
  | succ fuel ih =>
    intro s gpa bs
    cases bs with
    | nil => unfold State.kvWrite; exact .rfl
    | cons b bs =>
      have wr (x : State) (p : Nat) (y : List Byte) : AccessOnly x (x.writePhys req p y).2 := by
        unfold State.writePhys
        exact (AccessOnly.relabel _ _).trans (AccessOnly.writeMem _ _ _ _ _ _)
      unfold State.kvWrite
      dsimp only
      split
      · exact .rfl
      · split
        · rename_i h1
          exact ((AccessOnly.snd (wr _ _ _) h1).trans (AccessOnly.markDirty _ _ _)).trans (ih _ _ _)
        · rename_i h1
          exact (AccessOnly.snd (wr _ _ _) h1).trans (AccessOnly.markDirty _ _ _)

theorem KeepsTen.setKvRec (s : State) (n : Nat) (a : KvArea) (i : Nat) (r : KvRec) : KeepsTen s (s.setKvRec n a i r).2 := by
  unfold State.setKvRec
  exact KeepsTen.trans (.of_regs (Eq.refl _)) (.of_access (AccessOnly.kvWrite _ _ _ _ _ _))

theorem KeepsTen.setRecs (n : Nat) (a : KvArea) (xs : List (Nat × (KvRec → KvRec))) : ∀ s, KeepsTen s (s.setRecs n a xs).2 := by
  induction xs with
  | nil => intro s; exact .rfl
  | cons x xs ih =>
    intro s
    unfold State.setRecs
    split
    · rename_i h1
      exact (KeepsTen.snd (KeepsTen.setKvRec _ _ _ _ _) h1).trans (ih _)
    · rename_i h1
      exact KeepsTen.snd (KeepsTen.setKvRec _ _ _ _ _) h1

theorem KeepsTen.reclaim (s : State) (n : Nat) : KeepsTen s (s.reclaim n).2 := by
  unfold State.reclaim
  split
  · exact .rfl
  · exact KeepsTen.setRecs _ _ _ _

theorem KeepsTen.refuseArea (s : State) (n : Nat) : KeepsTen s (s.refuseArea n) := by
  have counts : KeepsTen s (s.raiseCounts n) := by
    unfold State.raiseCounts
    split
    · exact KeepsTen.foldl (fun _ _ => KeepsTen.setKvRec _ _ _ _ _) _ _
    · exact .rfl
  unfold State.refuseArea
  exact counts.trans (.of_regs (Eq.refl _))

theorem KeepsTen.goldenCheck (s : State) (g : Nat) (j : Job) (h : g < 4) : KeepsTen s (s.goldenCheck g j) := by
  have slots : KeepsTen s (s.jobSlots j.ctx j.bytes).2 := by
    unfold State.jobSlots
    dsimp only
    split
    · exact .rfl
    · unfold State.entryRead
      generalize hf : State.fetch s _ _ _ = r
      have k : KeepsTen s r.2.2 := hf ▸ .of_access (AccessOnly.fetch _ _ _ _)
      obtain ⟨e, bs, t⟩ := r
      cases e <;> exact k
  unfold State.goldenCheck
  dsimp only
  split
  · rename_i h1
    exact (KeepsTen.snd slots h1).trans (KeepsTen.goldenFail _ _ h)
  · rename_i h1
    have k := KeepsTen.snd slots h1
    split
    · rename_i h2
      have k2 := k.trans (.of_access (AccessOnly.snd2 (AccessOnly.fetch _ _ _ _) h2))
      exact .ite _ k2 (k2.trans (KeepsTen.goldenFail _ _ h))
    · rename_i h2
      exact (k.trans (.of_access (AccessOnly.snd2 (AccessOnly.fetch _ _ _ _) h2))).trans (KeepsTen.goldenFail _ _ h)

/-- A job that ends leaves the registers of every engine. -/
theorem KeepsTen.endJob (s : State) (j : Job) : KeepsTen s (s.endJob j) := by
  unfold State.endJob
  dsimp only
  refine KeepsTen.trans ?_ (KeepsTen.endEntry _ _ _ _ _)
  have free : KeepsTen s (s.freeEngines j) := by
    unfold State.freeEngines
    refine KeepsTen.foldl (fun t k => ?_) _ _
    exact .of_regs (Eq.refl _)
  have area {t : State} (h : KeepsTen s t) : KeepsTen s (match t.reclaim j.ctx with
      | (.okay, u) => u
      | (_, u) => u.refuseArea j.ctx) := by
    split
    · rename_i h1; exact h.trans (KeepsTen.snd (KeepsTen.reclaim _ _) h1)
    · rename_i h1; exact (h.trans (KeepsTen.snd (KeepsTen.reclaim _ _) h1)).trans (KeepsTen.refuseArea _ _)
  refine area ?_
  have golden {t : State} (b : Bool) (h : KeepsTen s t) : KeepsTen s (match t.goldenOf j.ctx j.ring with
      | some g => if b then t.goldenCheck g j else t
      | none => t) := by
    split
    · rename_i h1; exact .ite _ (h.trans (KeepsTen.goldenCheck _ _ _ (State.goldenOf_lt h1))) h
    · exact h
  refine golden _ ?_
  refine .ite _ (KeepsTen.trans ?_ (KeepsTen.log _ _)) ?_
  · exact free.trans (.of_regs (Eq.refl _))
  · exact free.trans (.of_regs (Eq.refl _))

/-! ## An engine fault -/

/-- The status registers of two engines are apart. -/
theorem tenStatus_ne {te k : Nat} (h : k ≠ te) : Reg.TEN_STATUS te ≠ Reg.TEN_STATUS k := by unfold Reg.TEN_STATUS; omega

theorem State.leaveJob_regs (s : State) (te : Nat) : (s.leaveJob te).regs = s.regs := by
  unfold State.leaveJob
  split
  · rfl
  · dsimp only
    split <;> rfl

/-- An engine that is stopped leaves the status of the others. -/
theorem State.stopEngine_status {s : State} {te k : Nat} (h : k ≠ te) :
    (s.stopEngine k).reg (Reg.TEN_STATUS te) = s.reg (Reg.TEN_STATUS te) := by
  have head : Reg.TEN_STATUS te ≠ Reg.TEN_CQ_HEAD k := by unfold Reg.TEN_STATUS Reg.TEN_CQ_HEAD; omega
  have ctrl : Reg.TEN_STATUS te ≠ Reg.TEN_CTRL k := by unfold Reg.TEN_STATUS Reg.TEN_CTRL; omega
  unfold State.stopEngine State.engineIdles State.engineTo State.lower
  dsimp only
  rw [State.reg_setFld_other ctrl, State.reg_setFld_other (tenStatus_ne h), State.reg_setFld_other head]
  unfold State.reg
  rw [State.setEng_regs, State.leaveJob_regs]

/-- A job that is faulted leaves the status of the engine that faulted. -/
theorem State.faultJob_status (s : State) (no status : Nat) {te : Nat} (cause : Nat) (ht : te < 64) :
    (s.faultJob no status te cause).reg (Reg.TEN_STATUS te) = s.reg (Reg.TEN_STATUS te) := by
  have stops : ∀ (xs : List Nat) (u : State), te ∉ xs →
      (xs.foldl (fun s k => s.stopEngine k) u).reg (Reg.TEN_STATUS te) = u.reg (Reg.TEN_STATUS te) := by
    intro xs
    induction xs with
    | nil => intro u _; rfl
    | cons x xs ih =>
      intro u h
      rw [List.mem_cons, not_or] at h
      exact (ih _ h.2).trans (State.stopEngine_status (Ne.symm h.1))
  have ends (u : State) : KeepsTen u (u.endIfDone no) := by
    unfold State.endIfDone
    split
    · exact .ite _ (KeepsTen.endJob _ _) .rfl
    · exact .rfl
  have lo : 0x10100000 ≤ Reg.TEN_STATUS te := by unfold Reg.TEN_STATUS; omega
  have hi : Reg.TEN_STATUS te < 0x10180000 := by unfold Reg.TEN_STATUS; omega
  have free (xs : List Nat) : ∀ u : State, KeepsTen u (xs.foldl (fun s k => s.setEng k { s.eng k with job := none }) u) := by
    refine KeepsTen.foldl (fun u k => ?_) _
    exact .of_regs (Eq.refl _)
  unfold State.faultJob
  split
  · rfl
  · rename_i j _
    dsimp only
    rw [ends _ _ lo hi, free _ _ _ lo hi]
    unfold State.reg
    rw [State.leaveJob_regs]
    refine Eq.trans (stops _ _ ?_) rfl
    rw [List.mem_filter]
    simp

/-- What an engine fault leaves in TEN_STATUS: the cause, the TAG and STATE 3 (R120). -/
theorem State.engineFault_status (s : State) {te : Nat} (ht : te < 64) (x : Stop) (more : List Stop) :
    (s.engineFault te x more).reg (Reg.TEN_STATUS te) =
      Fld.TEN_STATUS_STATE.put (Fld.TEN_STATUS_FAULT_TAG.put (Fld.TEN_STATUS_CAUSE.put (s.reg (Reg.TEN_STATUS te)) x.cause)
        (x.tag.getD 0)) 3 := by
  have lo : 0x10100000 ≤ Reg.TEN_STATUS te := by unfold Reg.TEN_STATUS; omega
  have hi : Reg.TEN_STATUS te < 0x10180000 := by unfold Reg.TEN_STATUS; omega
  have ctrl : Reg.TEN_STATUS te ≠ Reg.TEN_CTRL te := by unfold Reg.TEN_STATUS Reg.TEN_CTRL; omega
  have reports (ys : List Stop) : ∀ u : State, KeepsTen u (ys.foldl (fun s y => s.report (y.record te)) u) :=
    KeepsTen.foldl (fun u y => .of_access (AccessOnly.report u (y.record te))) ys
  have base (r : LogRecord) : ((more.foldl (fun s y => s.report (y.record te))
      (((s.setFld (Reg.TEN_STATUS te) Fld.TEN_STATUS_CAUSE x.cause).setFld (Reg.TEN_STATUS te) Fld.TEN_STATUS_FAULT_TAG
        (x.tag.getD 0)).report (x.record te))).log r).reg (Reg.TEN_STATUS te) =
      Fld.TEN_STATUS_FAULT_TAG.put (Fld.TEN_STATUS_CAUSE.put (s.reg (Reg.TEN_STATUS te)) x.cause) (x.tag.getD 0) := by
    rw [KeepsTen.log _ _ _ lo hi, reports _ _ _ lo hi, KeepsTen.of_access (AccessOnly.report _ _) _ lo hi, State.reg_setFld_same,
      State.reg_setFld_same]
  have idle (u : State) (e : Engine) : ((u.setEng te e).engineTo te 3).reg (Reg.TEN_STATUS te) =
      Fld.TEN_STATUS_STATE.put (u.reg (Reg.TEN_STATUS te)) 3 := by
    unfold State.engineTo State.lower
    rw [State.reg_setFld_other ctrl, State.reg_setFld_same]
    congr 1
  have job (u : State) (o : Option Nat) (st c : Nat) : (match o with
      | some k => u.faultJob k st te c
      | none => u).reg (Reg.TEN_STATUS te) = u.reg (Reg.TEN_STATUS te) := by
    cases o
    · rfl
    · exact State.faultJob_status u _ _ c ht
  unfold State.engineFault
  exact (job _ _ _ _).trans ((idle _ _).trans (congrArg (Fld.TEN_STATUS_STATE.put · 3) (base _)))

end Sys2Proof.Machine
end

