-- ==== Sys2Proof/Tests/Slice0.lean ====
section
/-!
SUPPORT. The model's own tests: ill-formed commands, steps on small states, and for every statement a state and operands that
meet its hypotheses.
-/

namespace Sys2Proof.Tests

open Sys2Proof.Machine

/-! ## Requests and states for the tests -/

/-- A secure request of an application core. -/
def secureReq : Req := { ini := .ac 0, w := true, cl := 0, ctx := 0 }

/-- A normal-world request, of Miller. -/
def normalReq : Req := { ini := .miller, w := false, cl := 0, ctx := 0 }

/-- A request of a Heath core. -/
def hcReq : Req := { ini := .hc 0, w := true, cl := 15, ctx := 0 }

/-- A request of a cluster core. -/
def clusterReq : Req := { ini := .clusterCore 0, w := false, cl := 0, ctx := 0 }

/-- A cold boot that has loaded class 0. -/
def awaiting : State := { State.reset with rom := { State.reset.rom with dir := some [], cls := 1 } }

/-- A part whose Root monitor is loaded. -/
def loaded : State :=
  { State.reset with rom := { State.reset.rom with running := false, entries := State.reset.rom.entries.set 1 (some 0x1000001000#64) } }

/-- The reset state with power domain `d` in state `v`. -/
def inState (d v : Nat) : State := State.reset.setFld (Reg.PWR_DOM d) Fld.PWR_DOM_STATE v

/-- A part in FIELD. -/
def fieldPart : State := { State.reset with fuses := { State.reset.fuses with lifecycle := 2, inForce := 2 } }

/-! ## Ill-formed commands, one for each check -/

/-- An MMA of four vectors. -/
def fourRows : MmaArgs := { acc := 0#12, astr := 0#12, m := 4#16, init := true, acct := false }

/-- The comparator of the checker fails at a vector. -/
def upsetAt (v : Nat) : List ArrayUpset := [{ ary := 0, vec := v, blk := false, fault := .comparator }]

/-- The header of a tile command for all arrays. -/
def allArrays : TileHdr := { tag := 0#8, arym := 15#4, sync := false }

theorem test_ill_formed_engines : (Instr.registerWrite secureReq 0x1000#48 3 0#32).wellFormed = false ∧
    (Instr.mma 0 allArrays fourRows (upsetAt 4)).wellFormed = false ∧ (Instr.mma 0 allArrays fourRows (upsetAt 3)).wellFormed = true ∧
    (Instr.mmas 0 allArrays fourRows (upsetAt 4)).wellFormed = false ∧
    (Instr.engineCommandFetch 0 (upsetAt 0x10000)).wellFormed = false := by decide

theorem test_ill_formed_memory : (Instr.ddrPartialWrite secureReq 0x100000003F#48 [1#8, 2#8] false 0#10).wellFormed = false ∧
    (Instr.sramNarrowWrite secureReq 0x7#48 [1#8, 2#8] 0).wellFormed = false ∧
    (Instr.guardedAccess secureReq .read 0xFFF#48 2).wellFormed = false ∧ (Instr.guardedAccess secureReq .read 0xFFF#48 1).wellFormed = true ∧
    (Instr.guardedAccess secureReq .read 0x0#48 0).wellFormed = false := by decide

theorem test_ill_formed_graphics : (Instr.renderPass 0 [[{ vars := 0, tiles := [5, 5] }]] []).wellFormed = false ∧
    (Instr.renderPass 0 [[{ vars := 0, tiles := [0x40000] }]] []).wellFormed = false ∧
    (Instr.renderPass 0 [] [(2 ^ 48, 0#8)]).wellFormed = false ∧ (Instr.dispatch 0 [(2 ^ 48, 0#8)]).wellFormed = false := by decide

/-- An EBREAK is no LKSYNC; an LKSYNC with a reserved field that is not zero is one. -/
theorem test_ill_formed_lksync : (Instr.lksyncLock 0 0x00100073#32).wellFormed = false ∧
    (Instr.lksyncSplit 0 0x00100073#32).wellFormed = false ∧ (Instr.heathSplit 0 0x00100073#32).wellFormed = false ∧
    (Instr.heathTriple 0 0x0000152B#32).wellFormed = false ∧ (Instr.lksyncLock 0 0x0001052B#32).wellFormed = true := by decide

/-- A replay buffer holds 64 flits. -/
theorem test_ill_formed_flit : (Instr.flitParityError 0#8 0
    { again := false, words := .replicate 16 0#32, parity := 1#16, held := List.replicate 65 .miller }).wellFormed = false := by decide

/-- A classical frame with nine bytes, and an XL frame with none. -/
theorem test_ill_formed_can :
    (Instr.canFrameReceived 0 { id := 0#32, fmt := 0#8, sdt := 0#8, vcid := 0#8, af := 0#32, data := List.replicate 9 0#8 }).wellFormed = false ∧
    (Instr.canFrameReceived 0 { id := 0#32, fmt := 2#8, sdt := 0#8, vcid := 0#8, af := 0#32, data := [] }).wellFormed = false := by decide

theorem test_ill_formed_io : (Instr.ethFrameReceived 0 0 0#14 (List.replicate 13 0#8) true false).wellFormed = false ∧
    (Instr.pcieInboundRequest 0 true 0 0x0#48 [] 4).wellFormed = false ∧ (Instr.pcieInboundRequest 0 false 0 0xFFE#48 [] 4).wellFormed = false ∧
    (Instr.xspiEraseSector 0x2000).wellFormed = false ∧ (Instr.audioBufferDone 0 0#32 [1#8]).wellFormed = false := by decide

/-- A packet longer than its 16-bit word count, and parameters longer than their 24-bit addresses. -/
theorem test_ill_formed_long : ∀ (l : List Byte) (c : PacketCond), (l.length = 0x10000 → (Instr.csiLongPacket 0 0 0#6 l ⟨c, 0⟩).wellFormed = false) ∧
    (l.length = 0x1000001 → (Instr.xspiReadSfdp l).wellFormed = false) := by
  intro l c
  constructor <;> intro h <;> simp only [Instr.wellFormed, h] <;> decide

/-! StepRunsFrontCommand -/

/-- A state with no command waiting. -/
theorem test_witness_idle : State.reset.pending = [] := by decide

/-! CountersClearOnRead -/

/-- A granted read of a counter. -/
theorem test_witness_counter_read : (Instr.mrcReplaysRead hcReq).countReadOf = some (hcReq, Reg.MRC_REPLAYS) ∧
    State.reset.Grants hcReq .read Reg.MRC_REPLAYS := by decide

/-! RowsAreRegisterWrites -/

/-- A row that is a register write. -/
theorem test_witness_write_row : (Instr.ermPop hcReq 1#32).writeOf = some (hcReq, Reg.ERM_POP, 1#32) := rfl

/-! RefusedRegisterAccess -/

/-- A normal-world request is refused at WGD. -/
theorem test_witness_refused : (Instr.secureFail normalReq 1#32).accessOf = some (normalReq, .write, Reg.WGD_CTRL) ∧
    State.reset.straight normalReq true Reg.WGD_CTRL = true ∧ ¬ State.reset.Grants normalReq .write Reg.WGD_CTRL := by decide

/-! RegisterRowsByWriter -/

/-- ERM answers at reset, and a Heath core's write reaches it. -/
theorem test_witness_answers : State.reset.straight hcReq true Reg.ERM_POP = true ∧ State.reset.Answers hcReq Reg.ERM_POP :=
  ⟨by decide, by decide, .erm, by decide⟩

/-! PlainRegistersFollowAccessTypes -/

/-- A lock register is plain and its write granted. -/
theorem test_witness_plain : Reg.WGD_LOCK 0 ∈ plainRegs ∧ State.reset.Grants secureReq .write (Reg.WGD_LOCK 0) := by decide

/-- A lock bit that is set stays set when 0 is written over it. -/
theorem test_lock_stays : (match exec (.wlock 0 secureReq 0#32) (State.reset.setReg (Reg.WGD_LOCK 0) 0x5#32) with
    | .next t => t.reg (Reg.WGD_LOCK 0)
    | _ => 0#32) = 0x5#32 := by decide

/-! NarrowRegisterAccess -/

/-- A byte write to ERM_POP. -/
theorem test_witness_narrow : State.reset.place (BitVec.ofNat 48 Reg.ERM_POP).toNat = .register ∧
    State.reset.straight hcReq true (BitVec.ofNat 48 Reg.ERM_POP).toNat = true ∧
    State.reset.regAdmits (State.reset.issued hcReq) true (BitVec.ofNat 48 Reg.ERM_POP).toNat = true := by decide

/-! DecodeErrorIsLogged -/

/-- An unmapped address at reset, asked for by an initiator that no link has failed. -/
theorem test_witness_unmapped : State.reset.place (0x30000000#48).toNat = .unmapped ∧ State.reset.mute hcReq.ini = false ∧
    (State.reset.issued hcReq).ini ∉ State.reset.linkLost ∧ hcReq.ini ≠ .debugModule := by decide

/-! CanonicalFormKept -/

/-- Reset is canonical. -/
theorem test_witness_canonical : State.reset.canonical = true ∧ step State.reset = .next State.reset := ⟨by decide, rfl⟩

/-! FusesNeverGoBack -/

/-- Fuses are in order at reset, and a step answers. -/
theorem test_witness_fuses : State.reset.FusesInOrder ∧ step State.reset = .next State.reset :=
  ⟨⟨by decide, by decide, by decide, fun _ _ h => by cases h⟩, rfl⟩

/-! LifecycleAdvances -/

/-- The secure world may write BOOT_LCS at reset. -/
theorem test_witness_lcs : State.reset.Grants secureReq .write Reg.BOOT_LCS := by decide

/-- DEV to FIELD is an advance; FIELD to DEV is none. -/
theorem test_lifecycle_advance : (match exec (.lifecycleAdvance secureReq 0x4C430020#32) State.reset with
    | .next t => t.fuses.lifecycle
    | _ => 9) = 2 ∧ (match exec (.lifecycleAdvance secureReq 0x4C430000#32) State.reset with
    | .next t => t.fuses.lifecycle
    | _ => 9) = 1 := by decide

/-! KeyRevocation -/

theorem test_witness_keyrev : State.reset.Grants secureReq .write Reg.BOOT_KEYREV ∧ State.reset.fuses.revoked < 16 := by decide

/-! AntiRollbackCommit -/

/-- A commit may be written at reset. -/
theorem test_witness_commit : State.reset.Grants secureReq .write Reg.BOOT_ARB_COMMIT := by decide

/-- A commit of class 6 to SVN 3 blows three fuses. -/
theorem test_commit : (match exec (.arbCommit secureReq 0x316#32) State.reset with
    | .next t => (match exec .arbCommitDone t with
      | .next u => u.fuses.counts.toList
      | _ => [])
    | _ => []) = [0, 0, 0, 0, 0, 0, 3, 0] := by decide

/-! BootRomSteps -/

/-- At reset the ROM reads the directory. -/
theorem test_witness_rom : State.reset.rom.running = true ∧ State.reset.rom.warm = false ∧ State.reset.rom.heathOnly = false ∧
    State.reset.rom.dir = none ∧ State.reset.rom.dirTry < 2 := by decide

/-- A cold boot that has loaded class 0 waits for DDR training. -/
theorem test_witness_training : awaiting.awaitsDdr = true ∧ populationOk 8 0 1 false = true := by decide

/-- An erased flash holds no directory: the copy is tried, and then every class has failed. -/
theorem test_no_directory : (match exec .bootFlashTimeout State.reset with
    | .next t => (match exec .bootFlashTimeout t with
      | .next u => (t.rom.dirTry, u.heath.halted, u.fld Reg.BOOT_STATUS Fld.BOOT_STATUS_FAIL)
      | _ => (9, false, 9))
    | _ => (9, false, 9)) = (1, true, 1) := by decide

/-! HartRelease -/

/-- A part whose Root monitor is loaded. -/
theorem test_witness_release : loaded.Grants secureReq .write Reg.BOOT_HARTREL ∧ loaded.rom.entries[1] = some 0x1000001000#64 ∧
    loaded.flag Reg.WGD_STATUS Fld.WGD_STATUS_FAILED = false ∧ ([33, 34, 35, 36].all fun d => loaded.domainOn d) = true := by decide

/-! WholeDeviceResets -/

/-- The secure world may ask for a warm reset. -/
theorem test_witness_warm : State.reset.Grants secureReq .write Reg.PWR_WARM := by decide

/-! PowerDomainTransitions -/

/-- The raster complex at reset may be asked off, and each later state of a domain has its command. -/
theorem test_witness_domain : domainSwitchable 37 = true ∧ State.reset.Grants secureReq .write (Reg.PWR_DOM 37) ∧
    State.reset.domainState 37 = 2 ∧ Fld.PWR_DOM_ON.get 0#32 = 0 ∧ Fld.PWR_DOM_RST.get 0#32 = 0 ∧
    Fld.PWR_DOM_ON.get 3#32 = 1 ∧ Fld.PWR_DOM_RST.get 3#32 = 1 ∧ domainReset 37 = 2 := by decide

theorem test_witness_domain_states : (inState 37 3).domainState 37 = 3 ∧ (inState 37 3).heldOn 37 = false ∧
    (inState 37 3).domainIdle 37 = true ∧ (inState 37 4).domainState 37 = 4 ∧ (inState 37 1).domainState 37 = 1 ∧
    (inState 37 1).flag (Reg.PWR_DOM 37) Fld.PWR_DOM_ON = true ∧ (inState 37 5).domainState 37 = 5 := by decide

/-! BoundaryScanByLifecycle -/

/-- In FIELD a private instruction acts as BYPASS. -/
theorem test_tap_field : (match exec (.boundaryScanInstruction 0x30#8) fieldPart with
    | .next t => t.pins.tapIr
    | _ => 0#8) = 0xFF#8 := by decide

/-! TileCommandIssue -/

/-- A header that selects no array. -/
def hdr (arym : BitVec 4) : TileHdr := { tag := 0xA5#8, arym, sync := false }

/-- An engine that runs, with an accumulator region of one unit at the start of its memory. -/
def runs : State :=
  (State.reset.setFld (Reg.TEN_STATUS 3) Fld.TEN_STATUS_STATE 1).setFld (Reg.TEN_ACC_CFG 3) Fld.TEN_ACC_CFG_ACC_SIZE 1

theorem test_witness_quiet : runs.EngineQuiet 3 ∧ (runs.eng 3).job = none ∧ State.reset.tenState 3 ≠ 1 ∧
    (TileOp.nop).valid (hdr 1#4) = false := by decide

/-- A WAIT for one more than the semaphore holds. -/
theorem test_witness_waits : (runs.setEng 3 { runs.eng 3 with waiting := some (7, 1) }).tenState 3 = 1 ∧
    ((runs.setEng 3 { runs.eng 3 with waiting := some (7, 1) }).eng 3).waiting = some (7, 1) ∧
    (runs.setEng 3 { runs.eng 3 with waiting := some (7, 1) }).sem 3 7 < 1 ∧
    ((runs.setEng 3 { runs.eng 3 with waiting := some (7, 1) }).eng 3).quiet = true := by decide

/-- Row 512 lies beyond a region of one unit. -/
def storeRows : StoArgs :=
  { acc := 512#12, nr := 1#12, dst := 0x10000#17, scl := 0#17, dfmt := 2#5, dscale := 0#2, rnd := 0#2, clr := false, acct := false,
    dpitch := 0#16 }

theorem test_witness_row : (TileOp.sto storeRows).valid (hdr 0#4) = true ∧ (TileOp.sto storeRows).rows 0#4 = some (512, 513) ∧
    runs.accRows 3 = 512 := by decide

/-! VectorUnitCommands -/

/-- One vector of INT32 lanes. -/
def oneVector : VopArgs :=
  { dst := 0x20#17, srca := 0#17, srcb := 0x10#17, srcc := 0#17, n := 1#12, lane := 3#2, rnd := 0#2, bsel := false, cfmt := 0#5 }

theorem test_witness_vop : runs.MayRun 3 (hdr 0#4) (.vop (vopCode .add) oneVector) :=
  ⟨by decide, by decide, fun _ h => by cases h⟩

theorem test_witness_lds : (TileOp.vop 0x19 { oneVector with dst := 5#17, srcb := 0#17 }).valid (hdr 0#4) = true := by decide

theorem test_witness_vred : runs.MayRun 3 (hdr 0#4) (.vred .sum { dst := 0x20#17, src := 0#17, n := 1#16, axis := false, lane := 3#2 }) :=
  ⟨by decide, by decide, fun _ h => by cases h⟩

/-- INT32 addition saturates and sets INT_SAT; −1 shifted right stays −1. -/
theorem test_lanes : laneOp 0x00 3 0 false 0x7FFFFFFF 1 0 = (0x7FFFFFFF, 0x40) ∧ laneOp 0x16 3 0 false 0xFFFFFFFF 33 0 = (0xFFFFFFFF, 0) ∧
    laneOp 0x16 2 0 false 0x8000 0x11 0 = (0xC000, 0) := by decide

/-! LaneResults -/

/-- A NaN of FP32 and one of BF16. -/
theorem test_witness_nan : ((laneFmt 0).decode 0x7FC00000).isNaN = true ∧ ((laneFmt 1).decode 0x7FC0).isNaN = true ∧
    (laneFmt 2).bits = 16 ∧ (laneFmt 3).bits = 32 := by decide

/-- The exponentials of the worked recurrence, by their arguments 0, -1/2, -1 and -3. -/
def workedExp2 (v : Val) : Val × Nat :=
  (.fin false (if v.q = 0 then 1 else if v.q = -1 / 2 then 1 / 2 else if v.q = -1 then 1 / 4 else 1 / 8), 0)

/-- The worked recurrence of 06_attention_and_kv_cache: the last block raises the maximum. -/
theorem test_recurrence :
    let val (q : Rat) : Val := .fin false q
    let r := attendRow workedExp2 false 1 [
      ([(val 2, false), (val (3 / 2), false)], pvTraining false [[val 2], [val 2]]),
      ([(val 1, false)], pvTraining false [[val 2]]),
      ([(val 5, false), (.inf true, true)], pvTraining false [[val 4], [val 1]])]
    r.1.map (fun v => (fp32.toFloat v 0 false).1) = [0x40690690] ∧ r.2.1 = val 5 ∧ r.2.2.1 = val (39 / 32) := by decide +kernel

/-- A row whose only key is masked. -/
theorem test_witness_masked : ∀ b ∈ [([(Val.fin false 1, true)], pvTraining false [[Val.fin false 2]])], ∀ x ∈ b.1, x.2 = true := by decide

/-! BlockCommands -/

def toE4m3 : QntArgs :=
  { dst := 0x1000#17, src := 0#17, scl := 0x2000#17, nb := 1#16, dfmt := 4#5, dscale := 1#2, rnd := 0#2, sfmt := false }

theorem test_witness_qnt : runs.MayRun 3 (hdr 0#4) (.qnt toE4m3) ∧ scaleAllows 1 4 = true := ⟨⟨by decide, by decide, fun _ h => by cases h⟩, by decide⟩

def fromE4m3 : DqnArgs :=
  { dst := 0x1000#17, src := 0#17, scl := 0x2000#17, nb := 1#16, sfmt := 4#5, sscale := 1#2, dfmt := 0#2 }

theorem test_witness_dqn : runs.MayRun 3 (hdr 0#4) (.dqn fromE4m3) := ⟨by decide, by decide, fun _ h => by cases h⟩

theorem test_witness_sto : runs.MayRun 3 (hdr 0#4) (.sto { storeRows with acc := 511#12 }) ∧ scaleAllows 0 2 = true :=
  ⟨⟨by decide, by decide, fun r h => by cases h; decide⟩, by decide⟩

theorem test_witness_chk : runs.MayRun 3 (hdr 0#4) (.chkCrc { src := 0#17, ng := 1#16, exp := 1#17 }) :=
  ⟨by decide, by decide, fun _ h => by cases h⟩

/-- The CRC-32 of the letter a, as published for this CRC. -/
theorem test_crc : crc32 [0x61#8] = 0xE8B7BE43 := by decide

/-! ArrayLoads -/

def twoTiles : LdwArgs := { src := 0#17, fmt := 4#5, scale := 0#2, sparse := false, scl := 0#17, tstr := 64#17 }
def twoVectors : LdaArgs := { src := 0#17, fmt := 4#5, scale := 0#2, vlen := false, m := 2#16, scl := 0#17, pitch := 2#16 }

/-- An E4M3 tile of zeros, and a vector of zeros. -/
def zeroTile : WeightTile :=
  WeightTile.withSums { fmt := 4#5, scale := 0#2, sparse := false, elems := List.replicate 1024 0, scales := [], words := [], sums := [], wide := [] }
def zeroVec : ActVector := { fmt := 4#5, scale := 0#2, elems := List.replicate 32 0, scales := [] }

/-- `runs` with that tile loaded on array 0 and not taken and, where `q`, that vector waiting. -/
def withTile (q : Bool) : State :=
  runs.setAry 3 0 { ArrayPipe.reset with shadow := some zeroTile, seen := true, fresh := 1, queue := if q then [zeroVec] else [] }

theorem test_witness_ldw : runs.MayRun 3 (hdr 5#4) (.ldw twoTiles) ∧ metadataOk [] = true ∧ metadataOk [0] = false ∧
    ((runs.eng 3).ary 0).shadow = none ∧ ((runs.eng 3).ary 2).shadow = none ∧
    (withTile false).MayRun 3 (hdr 1#4) (.ldw twoTiles) ∧ (((withTile false).eng 3).ary 0).shadow = some zeroTile :=
  ⟨⟨by decide, by decide, fun _ h => by cases h⟩, by decide, by decide, by decide, by decide, ⟨by decide, by decide, fun _ h => by cases h⟩, rfl⟩

theorem test_witness_lda : runs.MayRun 3 (hdr 5#4) (.lda twoVectors) ∧ ((runs.eng 3).ary 0).queue = [] ∧ ((runs.eng 3).ary 2).queue = [] :=
  ⟨⟨by decide, by decide, fun _ h => by cases h⟩, by decide, by decide⟩

/-! MatrixCommands -/

def oneRow : MmaArgs := { acc := 0#12, astr := 0#12, m := 1#16, init := true, acct := false }

theorem test_witness_mma : (withTile true).MayRun 3 (hdr 1#4) (.mac false oneRow) ∧ ((withTile true).eng 3).wcheck = false ∧
    arraysOf (hdr 1#4).arym = [0] ∧ (((withTile true).eng 3).ary 0).shadow = some zeroTile ∧
    (((withTile true).eng 3).ary 0).queue = [zeroVec] ∧ (((withTile false).eng 3).ary 0).queue = [] ∧
    passPath 4 0 4 0 = some .exact :=
  ⟨⟨by decide, by decide, fun r h => by cases h; decide⟩, rfl, by decide, rfl, rfl, rfl, by decide⟩

/-- The check of a pass of zeros is good; with one wrong checksum weight it is a mismatch. -/
theorem test_witness_pass : passCheck { zeroTile with elems := [] } { zeroVec with elems := [] } 0 .exact [] true = .good ∧
    passCheck { zeroTile with elems := [], sums := [1] } { zeroVec with elems := [0x38] } 0 .exact [] false =
      .mismatch false := by decide +kernel

/-- No LDW at all. -/
theorem test_witness_no_tile : runs.MayRun 3 (hdr 1#4) (.mac true oneRow) ∧ ((runs.eng 3).ary 0).seen = false :=
  ⟨⟨by decide, by decide, fun r h => by cases h; decide⟩, by decide⟩

/-! ControlCommands -/

theorem test_witness_control : runs.MayRun 3 (hdr 0#4) .nop ∧ runs.MayRun 3 (hdr 0#4) (.fence { scope := 1#2, rd := true }) ∧
    runs.MayRun 3 (hdr 0#4) (.wait { sem := 7#5, n := 1#16 }) ∧ runs.MayRun 3 (hdr 0#4) (.sig { sem := 7#5, n := 65535#16 }) ∧
    runs.MayRun 3 (hdr 9#4) .chkSelf :=
  ⟨⟨by decide, by decide, fun _ h => by cases h⟩, ⟨by decide, by decide, fun _ h => by cases h⟩,
    ⟨by decide, by decide, fun _ h => by cases h⟩, ⟨by decide, by decide, fun _ h => by cases h⟩,
    ⟨by decide, by decide, fun _ h => by cases h⟩⟩

/-- `runs` with a descriptor of one byte from offset 0x100 to 0x200 at its start. -/
def withDesc : State :=
  runs.store (engineAt 3) ([0x00#8, 1#8, 0#8, 0#8, 0#8, 0#8, 0#8, 0#8, 0x00#8, 2#8, 0#8, 0#8, 0#8, 0#8, 0#8, 0#8,
    1#8, 0#8, 1#8, 0#8, 1#8, 0#8, 1#8, 0#8] ++ List.replicate 40 0#8)

theorem test_witness_dma : withDesc.MayRun 3 (hdr 0#4) (.dma { desc := 0#17, ch := 0#2 }) ∧
    dmaDescOk (withDesc.bytes (engineAt 3) 64) = true := ⟨⟨by decide, by decide, fun _ h => by cases h⟩, by decide⟩

/-- A SIG to a full semaphore saturates. -/
theorem test_sig : (match exec (.sigSem 3 (hdr 0#4) { sem := 7#5, n := 65535#16 }) (runs.setSem 3 7 2) with
    | .next t => t.sem 3 7
    | _ => 0) = 65535 := by decide

/-- `runs` enabled with one command in its queue: a SIG of 1 to semaphore 0, TAG 0x12. -/
def withCommand : State :=
  ((runs.setFld (Reg.TEN_CTRL 3) Fld.TEN_CTRL_ENABLE 1).setFld (Reg.TEN_CQ_TAIL 3) Fld.TEN_CQ_TAIL_TAIL 1).store (runs.cqSlot 3 0)
    [0x0C#8, 0#8, 0#8, 0x12#8, 0x20#8, 0#8, 0#8, 0#8, 0#8, 0#8, 0#8, 0#8, 0#8, 0#8, 0#8, 0#8]

theorem test_fetch : (match exec (.engineCommandFetch 3 []) withCommand with
    | .next t => (t.sem 3 0, t.fld (Reg.TEN_CQ_HEAD 3) Fld.TEN_CQ_HEAD_HEAD)
    | _ => (0, 0)) = (1, 1) := by decide

/-! EngineControl -/

theorem test_witness_ten : State.reset.Grants clusterReq .write (Reg.TEN_CTRL 3) ∧ State.reset.Grants clusterReq .write (Reg.TEN_CQ_TAIL 3) ∧
    State.reset.Grants clusterReq .write (Reg.TEN_WDT 3) ∧ State.reset.tenState 3 ≤ 2 ∧ (State.reset.eng 3).job = none := by decide

theorem test_witness_wdt : ((runs.setEng 3 { runs.eng 3 with job := some 5, wdtStart := some 0 }).eng 3).wdtStart = some 0 ∧
    ((runs.setEng 3 { runs.eng 3 with job := some 5, wdtStart := some 0 }).eng 3).job.isSome = true ∧
    (runs.setEng 3 { runs.eng 3 with job := some 5, wdtStart := some 0 }).tenState 3 ≤ 2 ∧
    (runs.setEng 3 { runs.eng 3 with job := some 5 }).engineDone 3 = true := by decide

/-! DoorbellWrites -/

/-- Every doorbell register may be written at reset, once Miller's, the raster complex's and the gateway's domains are on. -/
theorem test_witness_doorbells : State.reset.Grants normalReq .write (Reg.DB_SQ_TAIL 4 7) ∧ State.reset.Grants normalReq .write (Reg.DB_CQ_HEAD 4) ∧
    State.reset.Grants normalReq .write (Reg.GQ_DB_SQ_TAIL 7) ∧ State.reset.Grants normalReq .write (Reg.DSP_DB_SQ_TAIL 3) ∧
    State.reset.Grants normalReq .write (Reg.CAN_DB_SQ_TAIL 7) ∧ State.reset.Grants normalReq .write (Reg.HIF_DB_TX_TAIL 7) ∧
    State.reset.Grants normalReq .write (Reg.HIF_DB_RX_TAIL 0) ∧ State.reset.Grants secureReq .write Reg.XSP_DB_SQ_TAIL ∧
    State.reset.Grants normalReq .write (Reg.FGD_STR_BUF_TAIL 19) ∧ State.reset.Grants normalReq .write (Reg.FUS_BUF_TAIL 63) ∧
    State.reset.Grants normalReq .write (Reg.AUD_BUF_TAIL 7) := by decide

/-- R435, R391: at reset the normal world is refused at the xSPI controller. -/
theorem test_xspi_is_secure : ¬ State.reset.Grants normalReq .write Reg.XSP_DB_SQ_TAIL := by decide

/-- A doorbell of a context that is free is ignored and counted. -/
theorem test_ignored_doorbell : (match exec (.dbSqTailWrite 4 0 normalReq 1#32) State.reset with
    | .next t => t.fld (Reg.DB_ERR 4) Fld.DB_ERR_IGNORED
    | _ => 9) = 1 := by decide

/-! EntriesAreTaken -/

/-- Miller runs with context 4 active and one entry announced on its ring 5; the completion ring has two places. -/
def announced : State :=
  ((State.reset.setFld Reg.TCX_FW_STATUS Fld.TCX_FW_STATUS_STATE 3).setFld (Reg.DB_SQ_TAIL 4 5) Fld.DB_SQ_TAIL_TAIL 1).setCtx 4
    { Ctx.reset with status := .active, sqEn := 0x20, sqLog2 := Vector.replicate 8 4, cq := { Ctx.reset.cq with log2 := 1 } }

theorem test_witness_may_read : announced.mayRead 4 5 = true ∧ State.reset.mayRead 4 5 = false := by decide

/-- A NOP of zero bytes passes its checks, a KIND that no row names fails at byte 0. -/
def checkOf (kind : Byte) : Option (Nat × Nat) :=
  match entryChecks 4 (kind :: List.replicate 127 0#8) with
  | .ok _ => none
  | .bad status detail => some (status, detail)

theorem test_entry_checks : checkOf 0x00#8 = none ∧ checkOf 0x7F#8 = some (0x10, 0) ∧ checkOf 0x20#8 = some (0x10, 0) := by decide

/-! EntriesStartAndEnd -/

/-- An entry of KIND `k` with byte 32 at 4 and the next bytes as given. -/
def entryWith (k : Byte) (more : List Byte) : HeldEntry :=
  { bytes := k :: (List.replicate 31 0#8 ++ 4#8 :: (more ++ List.replicate (95 - more.length) 0#8)), idx := 0, readNs := 0,
    released := none, started := false, stop := 0, jobNo := 1 }

def entryOfKind (k : Byte) : HeldEntry := entryWith k []

/-- Partition 4 on unit 0: one unit a job, engine share 1. -/
def partition4 : List Byte := [1#8, 1#8, 0#8, 0#8, 1#8]

theorem test_witness_kinds : (entryOfKind 0x21#8).kind = 0x21 ∧ fieldAt (entryOfKind 0x21#8).bytes 32 1 = 4 ∧
    (announced.ctx 4).status = .active ∧ (State.reset.ctx 4).status = .free := by decide

theorem test_witness_part : firstBad 0x10 (State.reset.partChecks (entryWith 0x28#8 partition4).bytes) = .ok () := rfl

/-- With that partition, context 4 may be bound to it. -/
theorem test_witness_bind : firstBad 0x10 ((announced.setPartition (entryWith 0x28#8 partition4).bytes).bindChecks
    (entryWith 0x29#8 [4#8]).bytes) = .ok () := rfl

/-! JobsRun -/

/-- The worked layer of 05_sliding_window_operators: a 7 x 7 filter over 5 rows of 6, pad value 0.5. -/
def workedLayer : LayerRun :=
  { bytes := [0, 7, 7, 1, 2, 1, 1, 2, 2, 1, 3, 0, 0, 0, 0, 0, 1, 0, 1, 0, 1, 0, 0, 0, 0, 0, 255, 4, 254, 255, 0, 0].map (BitVec.ofNat 8)
    inH := 5, inW := 6, outH := 2, outW := 2, pad := 0x30 }

/-- R125, R127: its output is 2 x 2, and its window at (0, 1) has 30 input taps. -/
theorem test_window : layerShape workedLayer.bytes 5 6 = some (2, 2) ∧
    (workedLayer.window 0 1).countP (·.isSome) = 30 ∧ workedLayer.tapAt 0 1 (2, 6) = some (0, 5) := by decide +kernel

/-- R128, R133: the worked outputs, 34.5 and 39.5. -/
theorem test_convolution :
    let one (_ _ c : Nat) : Val := .fin false (if c = 0 then 1 else 0)
    (workedLayer.convolve .exact false one one 0 0).1 = .fin false (69 / 2) ∧
    (workedLayer.convolve .exact false one one 1 1).1 = .fin false (79 / 2) := by decide +kernel

/-- A window of pad taps alone. -/
theorem test_witness_empty_window : ∀ t ∈ { workedLayer with inH := 1 }.window 9 0, t = none := by decide +kernel

/-- A release event for ring 5 of context 4. -/
def releaseEvent : ReleaseEvent := { entry := 0, action := 2, arg0 := 0x504, arg1 := 0, tag := 0, sched := 100, skipped := false }

theorem test_witness_release_event : ({ announced with bus := [releaseEvent] } : State).bus.find? (fun e => Nat.beq e.action 2) = some releaseEvent ∧
    (announced.ctx 4).headOf 5 = none ∧ announced.millerRuns = true ∧ announced.readyHeads = [] := by decide

/-- A job placed on a lane whose engine 3 is to start; `n` engines have started in this instant. -/
def startable (n : Nat) : State :=
  let j : Job := { no := 0, ctx := 4, ring := 5, idx := 0, bytes := List.replicate 64 0#8, jobNo := 1, relNs := 0, keyNs := 0, lane := some 0, part := 0,
                   engines := [3], toStart := [3], running := [], tStart := none, tEnd := 0, placedAt := 0, fx := 0, fault := none, epoch := 0, stream := 0,
                   grants := [], laneless := false, layers := [], stripes := [] }
  let s := (State.reset.setWdt 1 { State.reset.wdt 1 with kickAt := some 0 }).setEng 3 { State.reset.eng 3 with job := some 0 }
  { s with jobs := [j], therm := { s.therm with starts := List.replicate n 0 } }

theorem test_witness_start : ((startable 3).jobs.find? fun j => decide (j.toStart.head? = some 3)).isSome = true ∧
    (startable 3).engineOffline 3 = false ∧ (startable 3).tenState 3 = 0 ∧ ((startable 3).eng 3).job = some 0 := by decide

/-- R496: the fourth start of an instant is made, the fifth waits. -/
theorem test_start_arbiter : (startable 3).startAllowed = true ∧ (startable 4).startAllowed = false ∧
    ((startable 4).setFld Reg.THM_SURGE Fld.THM_SURGE_CLAMP 1).clockSteps = true := by decide

/-! Residency -/

/-- A KV action that copies. -/
def copying (st : KvStage) : KvOp :=
  { src := .entry 0 0, kind := .append, seq := 1, t0 := 0, t1 := 1, stage := st, moves := [], tables := [] }

theorem test_witness_kv : ((announced.setCtx 4 { announced.ctx 4 with kvOp := some (copying .copying) }).ctx 4).kvOp = some (copying .copying) ∧
    (announced.ctx 4).kvOp = none := by decide

/-- A zeroed share reads 0 afterwards. -/
theorem test_zeroing : (match exec (.shareZeroingDone 4) (State.reset.store (engineAt 0) [7#8]) with
    | .next t => t.byte (engineAt 0)
    | _ => 9#8) = 7#8 := by decide

/-! MillerStartUp -/

theorem test_witness_go : (State.reset.setFld Reg.TCX_FW_STATUS Fld.TCX_FW_STATUS_STATE 2).Grants normalReq .write Reg.TCX_CTRL ∧
    Fld.TCX_CTRL_GO.get 1#32 = 1 := by decide

/-- A host of another major version is refused. -/
theorem test_version : (match exec (.tcxGo normalReq 1#32) (State.reset.setFld Reg.TCX_FW_STATUS Fld.TCX_FW_STATUS_STATE 2 |>.setFld
      Reg.TCX_FW_IFVER Fld.TCX_FW_IFVER_MAJOR 4) with
    | .next t => t.fld Reg.TCX_FW_STATUS Fld.TCX_FW_STATUS_STATE
    | _ => 9) = 4 := by decide

/-! TimebaseKeepsTime -/

/-- Any core may read and write the timebase at reset. -/
theorem test_witness_timebase : State.reset.Grants normalReq .write Reg.TMB_INCR_HI ∧ State.reset.Grants normalReq .write Reg.TMB_ADJ_CTRL ∧
    State.reset.Grants normalReq .read Reg.TMB_NOW_NS ∧ State.reset.Grants normalReq .write Reg.TMB_CTRL ∧
    Fld.TMB_CTRL_SOURCE.get 0x102#32 ≠ 3 := by decide

/-- A timebase that follows gPTP and had its last offset one second ago at the shortest interval, or at reset time. -/
def following : State := { State.reset with tb := { State.reset.tb with lastOfs := some 0, acquiring := false, elapsed := 3000000 * usE } }

theorem test_witness_holdover : following.tb.acquiring = false ∧ following.tmbSource < 2 ∧ following.inHoldover = false ∧
    3000000 * usE / 2 ^ following.fld Reg.TMB_SERVO Fld.TMB_SERVO_SYNC_LOG ≤ following.tb.elapsed := by decide

/-- R235, R238: the first tick of a cold start gives 2 ns. -/
theorem test_tick : (match exec .timebaseTick State.reset with
    | .next t => (t.now, t.tb.frac)
    | _ => (9, 9#32)) = (2, 0#32) := by decide

/-- R236: an increment above the limit is clamped to 0x02_0041_8937. -/
theorem test_incr_clamp : (match exec (.tmbIncrCommit normalReq 3#32) State.reset with
    | .next t => (t.reg Reg.TMB_INCR_LO, t.reg Reg.TMB_INCR_HI)
    | _ => (0#32, 0#32)) = (0x00418937#32, 2#32) := by decide

/-! CapturesAndOffsets -/

/-- Capture of pin 1 is on, and it has been active for 51 µs with STUCK_US = 50. -/
def stuckPin : State :=
  { (State.reset.setReg (Reg.TMB_CAP_CFG 1) 0x3201#32) with tb := { State.reset.tb with
      elapsed := 51 * usE, pins := State.reset.tb.pins.set 1 { State.reset.pin 1 with active := some 0 } } }

/-- The same pin, accepted as inactive. -/
def quietPin : State := stuckPin.pinInactive 1

theorem test_witness_stuck : (stuckPin.pin 1).active = some 0 ∧ (stuckPin.pin 1).stuck = false ∧
    stuckPin.fld (Reg.TMB_CAP_CFG 1) Fld.TMB_CAP_CFG_STUCK_US ≠ 0 ∧
    0 + stuckPin.fld (Reg.TMB_CAP_CFG 1) Fld.TMB_CAP_CFG_STUCK_US * usE < stuckPin.tb.elapsed ∧
    State.reset.Grants normalReq .read (Reg.TMB_CAP_NS 4) := by decide

/-- R256, R257: an edge on an inactive pin is captured; one 50 ns after the last captured edge is lost and counted; on an active pin
there is no edge. -/
theorem test_capture : (match exec (.captureEdge ⟨1, true, 20⟩) quietPin with
    | .next t => ((t.pin 1).fifo.length, t.reg (Reg.TMB_CAP_OVR 1))
    | _ => (9, 9#32)) = (1, 0#32) ∧
    (match exec (.captureEdge ⟨1, true, 20⟩) (quietPin.setPin 1 { quietPin.pin 1 with lastEdge := some (51 * usE - 50 * nsE) }) with
    | .next t => ((t.pin 1).fifo.length, t.reg (Reg.TMB_CAP_OVR 1))
    | _ => (9, 9#32)) = (0, 1#32) ∧
    (match exec (.captureEdge ⟨1, true, 20⟩) stuckPin with
    | .next t => ((t.pin 1).fifo.length, t.reg (Reg.TMB_CAP_OVR 1))
    | _ => (9, 9#32)) = (0, 0#32) := by decide

/-! LatchedPinsStay -/

/-- A part with HCLK_IN lost and THERMTRIP_N asserted, whose next command is a warm reset. -/
def latched : State :=
  { State.reset with pins := { State.reset.pins with heathDead := true, thermtripN := false }, pending := [.warmRstN] }

theorem test_witness_latched : latched.pins.heathDead = true ∧ latched.pins.thermtripN = false ∧
    (match step latched with
    | .next t => t.pins.heathDead && !t.pins.thermtripN
    | _ => false) = true := by decide

/-! ClockFailures -/

/-- R525: TBREF fails and returns with SOURCE at its reset value: holdover goes on. -/
theorem test_tbref : (match exec .tbrefFail State.reset with
    | .next t => (match exec .tbrefReturn t with
      | .next u => (t.reg Reg.CLK_MON, u.reg Reg.CLK_MON, u.inHoldover)
      | _ => (0#32, 0#32, false))
    | _ => (0#32, 0#32, false)) = (0x12#32, 0x2#32, true) := by decide

/-! TimetableFires -/

/-- A timetable whose entry 3 makes TRIG_OUT[2] active at 20 ns of the cycle, at 30 ns. -/
def scheduled : State :=
  let bank := SMap.setMany (fun _ => 0#8) State.reset.tt.banks[0] (32 * 3)
    (leBytes 4 (2 ^ 31 + 10) ++ leBytes 4 0 ++ [1#8, 0#8, 0#8, 0#8] ++ leBytes 4 2)
  { State.reset with
    tb := { State.reset.tb with ns := 30 }
    tt := { State.reset.tt with banks := State.reset.tt.banks.set 0 bank, firesFrom := some 0 } }

theorem test_firing : scheduled.dueFiring 3 scheduled.now = some 20 ∧ (match exec (.timetableFiring 3) scheduled with
    | .next t => t.tt.levels[2]
    | _ => false) = true := by decide

/-- A swap to an empty idle bank is armed at the next 10 ms boundary; and the timetable may be written at reset. -/
theorem test_witness_swap : State.reset.Grants normalReq .write Reg.TTB_CTRL ∧ State.reset.ttCycle 0 ≠ 0 ∧
    ({ State.reset with tt := { State.reset.tt with swapCheck := true, swapAt := some 0 } } : State).tt.swapAt = some 0 := by decide

/-! CameraStreams -/

/-- Stream 2 stores channel 5 of receiver 1, which is on; its control register may be written at reset. -/
def camera : State :=
  let d : StreamDesc :=
    { kind := 0, port := 1, pipe := 0, vc := 5, dt := 0x2A, sensor := 255, ctx := 4, ofmt := 0, log2 := 4, latNs := 100,
      tovOfs := 0, bufRing := 0, recRing := 0, msiAddr := 0, msiData := 1, fperNs := 33000000, hdrVc1 := 255, hdrVc2 := 255 }
  { State.reset.setReg (Reg.CSI_CFG 1) (Fld.CSI_CFG_EN.put 0#32 1) with
    tb := { State.reset.tb with ns := 500 }
    streams := State.reset.streams.set 2 { Stream.reset with desc := some d, seq := 7 } }

theorem test_witness_camera : State.reset.Grants normalReq .write (Reg.FGD_STR_CTRL 2) ∧ camera.csiOn 1 = true ∧
    State.reset.csiOn 1 = false ∧ (camera.stream 2).desc ≠ none := by decide

/-- R271, R275: the frame that opens has the next SEQ, and is stamped at the latency before the packet. -/
theorem test_frame_start : (match exec (.csiFrameStart 1 5 9#16) camera with
    | .next t => (t.stream 2).frame.map fun f => (f.seq, f.counter, f.tFs)
    | _ => none) = some (8, some 9, 400) := by decide

/-! SensorPorts -/

/-- Port 3 is on with one word left over in its FIFO. -/
def portOn : State :=
  (State.reset.setReg (Reg.SSP_CFG 3) (Fld.SSP_CFG_EN.put 0#32 1)).setSsp 3 { fifo := [(5#32, false)], fv := true }

theorem test_witness_ssp : portOn.sspOn 3 = true ∧ (portOn.ssp 3).fv = true ∧ State.reset.sspOn 3 = false := by decide

theorem test_ssp_word : (match exec (.sspWord 3 6#32) portOn with
    | .next t => ((t.ssp 3).fifo, t.fld (Reg.SSP_STATUS 3) Fld.SSP_STATUS_FILL)
    | _ => ([], 0)) = ([(5#32, false), (6#32, false)], 2) := by decide

/-! FusionInstants -/

/-- The unit is on, and an event of instant 9 waits on the bus. -/
def instantDue : State :=
  { State.reset.raise Reg.FUS_CTRL Fld.FUS_CTRL_EN with
    bus := [{ entry := 0, action := 3, arg0 := 9, arg1 := 0, tag := 0, sched := 777, skipped := false }] }

theorem test_witness_instant : (instantDue.bus.find? fun e => e.action == 3) ≠ none ∧
    instantDue.flag Reg.FUS_CTRL Fld.FUS_CTRL_EN = true ∧ instantDue.flag Reg.FUS_CTRL Fld.FUS_CTRL_SWAP = false ∧
    State.reset.Grants normalReq .write Reg.FUS_CTRL ∧ State.reset.Grants normalReq .write Reg.FUS_REPHASE := by decide

theorem test_instant : (match exec .fusionInstantEvent instantDue with
    | .next t => (t.bus.length, (t.instant 9).lastFire)
    | _ => (9, none)) = (0, some 777) := by decide

/-! MemoryAccesses -/

/-- A part with DDR on controller 0: one rank of the smallest x4 parts. -/
def withDdr : State := State.reset.recordTraining { count := 1, rate := 0, dens := 0, x8 := false, ranks := 1 }

theorem test_witness_ddr : withDdr.place 0x1000000040 = .ddr ∧ State.reset.isSram (engineAt 3) = true ∧
    (State.reset.judged (State.reset.unitReq (.engine 3) 0 0) .read (engineAt 3) 8).1 = .okay ∧ State.reset.mute (.engine 3) = false ∧
    (State.reset.setFld (Reg.APC_PAIR_STATUS 2) Fld.APC_PAIR_STATUS_MODE 3).mute (.ac 4) = true := by decide

/-- R319: two wrong bits in a word that a narrow write merges into: the word is poison, its other bytes keep their values. -/
theorem test_sram_poison : (match exec (.sramNarrowWrite (State.reset.unitReq (.engine 3) 0 0) (BitVec.ofNat 48 (engineAt 3)) [7#8] 2)
      State.reset with
    | .next t => (t.byte (engineAt 3), SMap.find t.sramDamage (engineAt 3 / 8))
    | _ => (0#8, none)) = (7#8, some .poison) := by decide

/-! MemoryMaintenance -/

/-- Controller 0 holds a range pass over one page. -/
def passing : State :=
  withDdr.setDmc 0 { withDdr.dmc 0 with
    pass := some { next := 0, stop := 64, words := 0, ce := 0, ue := 0, poison := 0, first := none, last := none, tStart := 0 } }

theorem test_witness_range_pass : withDdr.Grants secureReq .write (Reg.DMC_RP_CTRL 0) ∧ withDdr.Grants secureReq .write (Reg.DMC_MARK 0) ∧
    withDdr.dmcPopulated 0 = true ∧ passing.wordFrom (fun k => decide (k / 2 = 0)) 0 64 ≠ none ∧ (passing.dmc 0).pass ≠ none := by decide

/-- R326: an aborted pass ends with STATUS 1. -/
theorem test_abort : (match exec (.rangePassAbort 0 secureReq 2#32) passing with
    | .next t => (t.reg (Reg.DMC_SUM 0 0), t.fld (Reg.DMC_STATUS 0) Fld.DMC_STATUS_RP_DONE)
    | _ => (9#32, 9)) = (1#32, 1) := by decide

/-! SystemCache -/

/-- A hold of two ways waits while no render pass runs. -/
def holding : State := (State.reset.setFld Reg.SLC_HOLD Fld.SLC_HOLD_PEND 1).setFld Reg.SLC_HOLD Fld.SLC_HOLD_WAYS 2

theorem test_witness_hold : holding.flag Reg.SLC_HOLD Fld.SLC_HOLD_PEND = true ∧ holding.renderInFlight = false ∧
    State.reset.Grants secureReq .write Reg.SLC_FLUSH ∧ State.reset.Grants secureReq .write Reg.SLC_HOLD := by decide

theorem test_hold : (match exec .depthHoldChange holding with
    | .next t => (t.holdWays, t.heldWay 22, t.heldWay 21)
    | _ => (9, false, false)) = (2, true, false) := by decide

/-! WheelsAndLinks -/

theorem test_witness_wheel : State.reset.Grants secureReq .write Reg.SLU_CTRL ∧
    (State.reset.setFld Reg.SLU_CTRL Fld.SLU_CTRL_SWAP 1).flag Reg.SLU_CTRL Fld.SLU_CTRL_SWAP = true := by decide

/-- R322: the eighth replay in a row takes the link out of service. -/
theorem test_link : (match exec (.flitParityError 5#8 2 ⟨true, Vector.replicate 16 1#32, 0xFFFB#16, [.miller]⟩)
      { State.reset with links := [{ router := 5, dir := 2, replays := 7, faulty := false, buffer := [] }] } with
    | .next t => (t.linkLost, t.reg Reg.MRC_LFAULT)
    | _ => ([], 0#32)) = ([.miller], 0x80000205#32) ∧
    (match exec (.slcFlush { normalReq with ini := .miller } 1#32) { State.reset with linkLost := [.miller] } with
    | .next t => (t.reply.resp, t.linkLost)
    | _ => (.okay, [])) = (.link, []) := by decide

/-! RegionGuards -/

/-- A fence of the engine memories' guard runs. -/
def fenced : State := State.reset.setFld (Reg.GRD_STATUS 8) Fld.GRD_STATUS_BUSY 1

theorem test_witness_fence : fenced.fencing 8 = true ∧ State.reset.Grants secureReq .write (Reg.GRD_FENCE 8) ∧
    fenced.guardTarget (engineAt 5) = some 8 ∧ State.reset.fencing 8 = false := by decide

/-- R389: an access that meets the fence waits. -/
theorem test_fenced_access : (match exec (.guardedAccess normalReq .read (BitVec.ofNat 48 (engineAt 5)) 4) fenced with
    | .next t => t.guardWait.length
    | _ => 9) = 1 := by decide

/-! GraphicsQueuesAndEntries -/

/-- Queue 2 holds a DISPATCH of one group with a limit of 10 µs, and the raster control core runs. -/
def rastering : State :=
  let h : HeldEntry :=
    { bytes := [0x41#8] ++ List.replicate 39 0#8 ++ leBytes 4 1 ++ leBytes 4 5 ++ List.replicate 80 0#8
      idx := 0, readNs := 0, released := none, started := false, stop := 0, jobNo := 1 }
  let s := State.reset.setGfxQueue 2 { GfxQueue.reset with on := true, held := [h], reserved := 1 }
  { s with wdts := s.wdts.set 9 { s.wdt 9 with kickAt := some 0 } }

theorem test_witness_raster : (rastering.gfxRead.gfxNext.map fun x => (x.1, x.2.kind)) = some (2, 0x41) ∧
    State.reset.Grants normalReq .write (Reg.GFX_GQ_CTRL 2) := by decide

/-- R341, R352: the dispatch runs for at most twice its estimate. -/
theorem test_dispatch : (match exec (.dispatch 2 []) rastering with
    | .next t => t.gfxRun.map fun g => (g.queue, g.limitUs)
    | _ => none) = some (2, 10) := by decide

/-! DisplayHeads -/

/-- Head 3 is set up with its link trained and a frame on screen; its flip ring is empty. -/
def displaying : State :=
  State.reset.setHead 3 { Head.reset with desc := some (headDesc (List.replicate 64 0#8)), shown := some [], frames := 4 }

theorem test_witness_display : (displaying.head 3).desc ≠ none ∧ (displaying.head 3).training = false ∧ (displaying.head 3).taken = none ∧
    (displaying.head 3).flipHead = displaying.fld (Reg.DSP_DB_SQ_TAIL 3) Fld.DB_SQ_TAIL_TAIL ∧
    State.reset.Grants normalReq .write (Reg.DSP_CTRL 3) := by decide

/-- R358: a lead without a flip shows the frame again, and counts it late. -/
theorem test_late : (match exec (.vsyncLead 3) displaying with
    | .next t => t.fld (Reg.DSP_LATE 3) Fld.DSP_LATE_LATE
    | _ => 9) = 1 := by decide

/-! LockStep -/

/-- Pair 1 is in lock mode, and hart 4 runs in split mode in M mode. -/
def paired : State :=
  ((State.reset.setFld (Reg.APC_PAIR_STATUS 1) Fld.APC_PAIR_STATUS_MODE 2).setHart 4 { Hart.reset with stopped := false }).setHart 2
    { Hart.reset with stopped := false }

theorem test_witness_pair : paired.pairMode 1 = 2 ∧ paired.executes 4 = true ∧ (paired.hart 4).priv = .m ∧ paired.pairMode 2 = 0 ∧
    paired.pairBusy 1 = false ∧ (0x2AB#32).toNat % 128 = 0x2B ∧
    State.reset.Grants secureReq .write (Reg.APC_PAIR_CTRL 1) := by decide

/-- R373: leaving lock mode, the primary reads 0 and the secondary 1. -/
theorem test_split : (match exec (.lksyncSplit 2 0x2AB#32) paired with
    | .next t => ((t.hart 2).x[5], (t.hart 3).x[5], t.pairMode 1)
    | _ => (9#64, 9#64, 9)) = (0#64, 1#64, 0) := by decide

/-! HeathModes -/

/-- Heath runs past its boot, in triple mode with TARGET at `g`. -/
def triple (g : Nat) : State :=
  { (State.reset.setFld Reg.HTH_MODE Fld.HTH_MODE_TARGET g) with rom := { State.reset.rom with running := false } }

theorem test_witness_heath : (triple 1).heath.cores[0].arrived = none ∧ (triple 1).heath.cores[0].fenced = false ∧
    (triple 1).heath.halted = false ∧ (triple 1).heathMode = 0 := by decide

/-- R381: entering split mode, each core reads its number. -/
theorem test_heath_split : (match exec (.heathSplit 0 0x3AB#32) (triple 1) with
    | .next t => (t.heath.cores[0].x[7], t.heath.cores[1].x[7], t.heath.cores[2].x[7], t.heathMode)
    | _ => (9#32, 9#32, 9#32, 9)) = (0#32, 1#32, 2#32, 2) := by decide

/-! HartEvents -/

/-- Hart 4 runs in M mode with mtvec 0x100. -/
def trapping : State := State.reset.setHart 4 (({ Hart.reset with stopped := false, pc := 0x40#64 } : Hart).setCsr 0x305 0x100#64)

theorem test_witness_hart : trapping.executes 4 = true ∧ (trapping.hart 4).priv = .m ∧ trapping.pairMode 2 ≠ 2 ∧
    (trapping.hart 4).stopped = false ∧ (State.reset.hart 4).runs = false := by decide

/-- R365, R367: a load fault is cause 5; a class of 13 is stored as 0. -/
theorem test_hart_events : (match exec (.hartAccessFault 4 .read ⟨.ue, none⟩ 0x80#64 0#64) trapping with
    | .next t => ((t.hart 4).pc, (t.hart 4).csr 0x341, (t.hart 4).csr 0x342)
    | _ => (0#64, 0#64, 0#64)) = (0x100#64, 0x40#64, 5#64) ∧
    (match exec (.classCsrWrite 4 ⟨.cls .mclass, 3⟩ (some 0x10DD000D#64)) trapping with
    | .next t => (t.hart 4).csr 0x7C0
    | _ => 0#64) = 0x00DD0000#64 := by decide

/-! TwoWorlds -/

/-- Hart 4 is in the secure world since time 0, and returns to 0x500. -/
def inside : State :=
  (State.reset.setHart 4 (({ Hart.reset with stopped := false, gateFrom := some 0 } : Hart).setCsr 0x7C2 0x500#64)).setHartW 4 true

theorem test_witness_worlds : inside.executes 4 = true ∧ inside.hartW 4 = true ∧ inside.pairMode 2 ≠ 2 ∧
    State.reset.Grants secureReq .write Reg.WGD_CTRL ∧ State.reset.Grants secureReq .write (Reg.WGD_LOCK 1) ∧
    State.reset.Grants secureReq .write (Reg.WGD_OWN 5) ∧ State.reset.Grants secureReq .write (Reg.PWR_SHOLD 0) ∧
    State.reset.Grants hcReq .write (Reg.PWR_HHOLD 0) := by decide

/-- R398: the return goes to wgret with W = 0. -/
theorem test_return : (match exec (.wgateReturn 4 0) inside with
    | .next t => ((t.hart 4).pc, t.hartW 4)
    | _ => (0#64, true)) = (0x500#64, false) := by decide

/-! BridgesAndSemaphores -/

/-- A posted write of an application core in the buffer of bridge 1. -/
def buffered : BridgeItem := { req := normalReq, addr := 0x18000000, width := 4, data := some 1#32, posted := true, inside := true, since := 0, taken := true }

/-- Bridge 1 holds it, and its range 0 posts the page of the switch. -/
def posting : State :=
  (((State.reset.setWeir 1 { State.reset.weir 1 with queue := [buffered] }).setFld (Reg.WIR_RNG_BASE 1 0) Fld.WIR_RNG_BASE_EN 1).setFld
    (Reg.WIR_RNG_BASE 1 0) Fld.WIR_RNG_BASE_POSTED 1).setFld (Reg.WIR_RNG_LIMIT 1 0) Fld.WIR_RNG_LIMIT_LIMIT_LO 0xFFFFF

/-- Semaphore 2 runs an operation on an address outside DDR. -/
def amoRuns : State := { State.reset with semOps := [{ k := 2, op := 1, addr := 0x40, w := true, lost := false, data := 5#32 }] }

theorem test_witness_bridge : belowBridge 1 0x18000000 = true ∧ belowBridge 0 0x18000000 = false ∧ initiatorBelow 1 normalReq.ini = false ∧
    posting.rangePosted 1 0x18000000 = true ∧ State.reset.rangePosted 1 0x18000000 = false ∧
    State.reset.Grants hcReq .write (Reg.WIR0_SEM_OWN 2) ∧ State.reset.Grants hcReq .write (Reg.WIR0_SEM_CMD 2) ∧
    amoRuns.place 0x40 ≠ .ddr := by decide

/-- A DDR word on an unguarded part: the operation is admitted and its word is right. -/
theorem test_witness_amo : withDdr.place 0x1000000040 = .ddr ∧ withDdr.decodeDdr 0x1000000040 0 = .ok ∧ withDdr.slcFind 1 = none ∧
    State.reset.mute normalReq.ini = false ∧ normalReq.ini ∉ State.reset.linkLost ∧ State.reset.debugOn = true := by decide

/-- R413: a failed posted write is dropped and counted. -/
theorem test_posted_failed : (match exec (.postedWriteResponse 1 .ue) posting with
    | .next t => ((t.weir 1).queue.length, t.fld (Reg.WIR_CNT 1) Fld.WIR_CNT_PERR)
    | _ => (9, 9)) = (0, 1) := by decide

/-- R419: the operation adds 5 to the word 3, and DATA holds 3. -/
theorem test_sem_add : (match exec (.semOpDone 2) { withDdr with
      mem := [(0x1000000040, 3#8)], semOps := [{ k := 2, op := 1, addr := 0x1000000040, w := true, lost := false, data := 5#32 }] } with
    | .next t => (t.byte 0x1000000040, t.reg (Reg.WIR0_SEM_DATA 2))
    | _ => (0#8, 0#32)) = (8#8, 3#32) := by decide

/-! GatewaySwitch -/

/-- The host interface has ring pair 7 alone, of 64 entries, and an entry waits; port 3 is about to follow list 2. -/
def hosting : State :=
  (({ State.reset with gw := { State.reset.gw with
    pendList := State.reset.gw.pendList.set 3 (some (2, 0))
    hif := some { ctx := 0, cls := 0, rxbLog2 := 11, msiAddr := 0, msiData := 1, txBase := Vector.replicate 8 0,
                  rxBase := Vector.replicate 8 0, txLog2 := (Vector.replicate 8 0).set 7 6,
                  rxLog2 := (Vector.replicate 8 0).set 7 6 } } }).setFld Reg.TSW_HIF_CTRL Fld.FGD_STR_CTRL_EN 1).setReg
    (Reg.HIF_DB_TX_TAIL 7) 1#32

theorem test_witness_hif : hosting.gw.hif.isSome = true ∧ hosting.fld (Reg.HIF_DB_TX_TAIL 7) Fld.HIF_DB_TX_TAIL_TAIL = 1 ∧
    hosting.fld (Reg.HIF_DB_TX_HEAD 7) Fld.HIF_DB_TX_HEAD_HEAD = 0 ∧ State.reset.Grants normalReq .write Reg.TSW_HIF_CTRL ∧
    State.reset.Grants normalReq .write (Reg.TSW_GCL 3) ∧ State.reset.gateOpen 12 5 1000 = true ∧
    hosting.fld Reg.TSW_HIF_CTRL Fld.FGD_STR_CTRL_EN = 1 := by decide

/-- R425: without an interface a frame for port 12 is lost. -/
theorem test_frame_lost : (match exec (.ethFrameReceived 0 5 0x1000#14 (List.replicate 60 0#8) true false) State.reset with
    | .next t => t.fld Reg.TSW_HIF_STAT Fld.TSW_HIF_STAT_RX_LOST
    | _ => 9) = 1 := by decide

/-- R424: an interface that stops discards its unsent entries. -/
theorem test_hif_stops : (match exec (.hifDisable normalReq 0#32) hosting with
    | .next t => (t.fld (Reg.HIF_DB_TX_HEAD 7) Fld.HIF_DB_TX_HEAD_HEAD, t.gw.hif.isSome)
    | _ => (9, true)) = (1, false) := by decide

/-! CanChannels -/

/-- A channel descriptor in use. -/
def canInUse : CanDesc :=
  { mode := 1, listen := false, rates := [(500, 4, 80, 64)], ctx := 0, txLog2 := 4, rxLog2 := 4, txRing := 0x18182000, rxRing := 0x18183000,
    msiAddr := 0, msiData := 1, rxData := 0x18184000 }

/-- CAN 9 is enabled and bus-off; CAN 3 and CAN 10 are enabled, the latter's ring full; tunnel 2 is a talker of CAN 3. -/
def canning : State :=
  let s : State := { State.reset with gw := { State.reset.gw with tunnels := SMap.setMany tswDflt [] 0x6040 [1#8, 0#8, 0#8, 9#8, 8#8] } }
  ((((s.setCan 9 { CanChan.reset with desc := some canInUse }).setCan 3 { CanChan.reset with desc := some canInUse }).setCan 10
    { CanChan.reset with desc := some canInUse, unread := 16 }).setFld (Reg.CAN_STATUS 9) Fld.CAN_STATUS_BUSOFF 1).setFld
    (Reg.CAN_STATUS 9) Fld.CAN_STATUS_TEC 63

theorem test_witness_can : (canning.can 3).desc = some canInUse ∧ canning.fld (Reg.CAN_STATUS 3) Fld.CAN_STATUS_BUSOFF = 0 ∧
    canning.fld (Reg.CAN_STATUS 9) Fld.CAN_STATUS_BUSOFF = 1 ∧ State.reset.Grants hcReq .write (Reg.CAN_CTRL 9) ∧
    State.reset.Grants normalReq .write (Reg.CAN_CTRL 3) ∧ (∀ j : Fin 16, canning.tunField j 0 1 = 1 ↔ j = 2) ∧
    bitAt (canning.tunField 2 4 2) 3 = true ∧ (canning.gw.talkers[2]).length + 1 < canning.tunField 2 3 1 := by decide

/-- R431: 500 kbit/s and 8,000 kbit/s are exact at the smallest prescalers that fit; 133 kbit/s is not. -/
theorem test_can_timing : canTiming 500 8 200 = some (2, 160) ∧ canTiming 8000 8 50 = some (1, 20) ∧ canTiming 133 8 200 = none := by decide

/-- R432: a full ring loses the frame. -/
theorem test_can_lost : (match exec (.canFrameReceived 10 { id := 5#32, fmt := 0#8, sdt := 0#8, vcid := 0#8, af := 0#32, data := [1#8] })
      canning with
    | .next t => t.fld (Reg.CAN_STATUS 10) Fld.CAN_STATUS_RX_LOST
    | _ => 9) = 1 := by decide

/-- R432: recovery clears the counters. -/
theorem test_can_recovers : (match exec (.canBusOffRecovery 9) canning with
    | .next t => (t.reg (Reg.CAN_STATUS 9)).toNat
    | _ => 9) = 0 := by decide

/-! SlowIo -/

/-- Audio port 2 is on with a buffer posted; root port 1 trains; the xSPI ring has an entry. -/
def slow : State :=
  ((((State.reset.setAudio 2 { AudioPort.reset with on := true, log2 := 4 }).setReg (Reg.AUD_BUF_TAIL 2) 1#32).setAudio 3
    { AudioPort.reset with on := true, log2 := 4 }).setFld (Reg.PCE_CFG 1) Fld.PCE_CFG_EN 1).setReg Reg.XSP_DB_SQ_TAIL 1#32

theorem test_witness_slow : (slow.audio 2).on = true ∧ (slow.audio 2).head ≠ slow.fld (Reg.AUD_BUF_TAIL 2) Fld.FGD_STR_BUF_TAIL_TAIL ∧
    (slow.audio 3).head = slow.fld (Reg.AUD_BUF_TAIL 3) Fld.FGD_STR_BUF_TAIL_TAIL ∧ slow.fld (Reg.PCE_CFG 1) Fld.PCE_CFG_EN = 1 ∧
    slow.fld Reg.XSP_DB_SQ_HEAD Fld.DB_SQ_HEAD_HEAD ≠ slow.fld Reg.XSP_DB_SQ_TAIL Fld.DB_SQ_TAIL_TAIL ∧
    State.reset.Grants secureReq .write (Reg.PCE_CFG 1) ∧ State.reset.Grants secureReq .write (Reg.AUD_CTRL 2) := by decide

/-- R434: while EN = 1 a write changes EN alone. -/
theorem test_pce_kept : (match exec (.pcieEnable 1 secureReq 0x110#32) slow with
    | .next t => t.reg (Reg.PCE_CFG 1)
    | _ => 0#32) = 0x58#32 := by decide

/-- R436: without a posted buffer the port counts the loss. -/
theorem test_audio_lost : (match exec (.audioBufferDone 3 0#32 [1#8, 2#8, 3#8, 4#8]) slow with
    | .next t => ((t.audio 3).nobuf, (t.audio 3).seq == (slow.audio 3).seq + 1)
    | _ => (9, false)) = (1, true) := by decide

/-! ErrorManager -/

/-- A record of a display head waits at the intake with severity `v`. -/
def reporting (v : Nat) : State := { State.reset with errs := [plainRecord (.display 1) v] }

theorem test_witness_erm : (reporting 4).errs = [plainRecord (.display 1) 4] ∧
    State.reset.Grants hcReq .write Reg.ERM_POP ∧ State.reset.Grants hcReq .write (Reg.ERM_SRC 71) ∧
    State.reset.Grants hcReq .write Reg.ERM_SAFE ∧ actionOf (.display 1) = 0 ∧ actionOf (.dmc 3) = 2 := by decide

/-- R451: Heath software sets LEVEL 1 and releases FAULT_N. -/
theorem test_fault_clr : (match exec (.faultClr hcReq 0x809#32) State.reset with
    | .next t => t.reg Reg.ERM_SAFE
    | _ => 0#32) = 0xB01#32 := by decide

/-- R444: the oldest record is removed. -/
theorem test_pop : (match exec (.ermPop hcReq 1#32) { State.reset with erm := { State.reset.erm with queue := [
      { rcd := plainRecord .fusion 0, flags := 0, t := 0, seq := 0 }, { rcd := plainRecord .fusion 1, flags := 0, t := 0, seq := 1 }] } } with
    | .next t => t.erm.queue.map (·.seq)
    | _ => []) = [1] := by decide

/-! SelfTests -/

/-- Window 3 is open for unit 2 until 500 µs, engine 8 runs segment 70, and the next event opens window 5. -/
def testing : State :=
  let s := (State.reset.setWindow 3 (some { scope := 4, endAt := 500 * usE, deferred := [] })).setTest 8
    { next := 70, from_ := 0, running := true, fault := false }
  { s.setFld (Reg.TCX_TW 5) Fld.TCX_TW_LEN_US 10 with bus := [{ action := 4, arg0 := 0x105, arg1 := 1, tag := 0, entry := 0, sched := 0, skipped := false }] }

theorem test_witness_tests : (testing.window 3).isSome = true ∧ testing.window 5 = none ∧ (testing.test 8).running = true ∧
    testing.millerRuns = false ∧ testing.fld (Reg.TCX_TW 5) Fld.TCX_TW_LEN_US = 10 := by decide

/-- R453: an open event opens window 5 for 10 µs. -/
theorem test_window_opens : (match exec .testWindowEvent testing with
    | .next t => ((t.window 5).map (·.scope), t.fld (Reg.TCX_TW 5) Fld.TCX_TW_OPEN)
    | _ => (none, 9)) = (some 1, 1) := by decide

/-- R454: segment 70 passes, and segment 71 is due. -/
theorem test_segment_passes : (match exec (.testSegmentEnd 8 true) testing with
    | .next t => ((t.test 8).next, (t.test 8).running, t.tenState 8)
    | _ => (9, true, 9)) = (71, false, 0) := by decide

/-! WatchdogsAndLog -/

/-- Processor 9 was released at time 0 with a window of 10 to 100 µs, now 50 µs; the log is off. -/
def watched : State :=
  { State.reset.setWdt 9 { maxUs := 100, openUs := 10, kickAt := some 0, expiries := [] } with
    tb := { State.reset.tb with elapsed := 50 * usE } }

theorem test_witness_watchdog : (watched.wdt 9).kickAt = some 0 ∧ watched.passedUs 0 10 = true ∧ watched.passedUs 0 100 = false ∧
    State.reset.Grants secureReq .write Reg.FWL_LOG_CFG ∧ State.reset.fld Reg.FWL_LOG_CFG Fld.FWL_LOG_CFG_EN = 0 := by decide

/-- R481: a kick within the window restarts the count. -/
theorem test_kick : (match exec (.fwWatchdogKick 9) watched with
    | .next t => ((t.wdt 9).kickAt, (t.wdt 9).expiries)
    | _ => (none, [9])) = (some (50 * usE), []) := by decide

/-- R485: a record dropped while EN = 0 still takes its SEQ. -/
theorem test_log_dropped : (match exec (.fwlRecord 0#8 false 2 0xFF#8 1#16 0#32 0#32 (Vector.replicate 10 0#32)) State.reset with
    | .next t => (t.fwlSeq, t.reg Reg.FWL_LOG_LOST)
    | _ => (9, 9#32)) = (State.reset.fwlSeq + 1, 0#32) := by decide

/-! ThermalAndSurge -/

/-- REQ is 1 with allowance left. -/
def requested : State := (State.reset.setFld Reg.THM_SURGE Fld.THM_SURGE_REQ 1).setFld Reg.THM_WEAR_A Fld.THM_WEAR_A_ALLOW_MS 5

theorem test_witness_thermal : requested.mayGrant = true ∧ State.reset.mayGrant = false ∧
    State.reset.Grants secureReq .write Reg.THM_SURGE ∧ State.reset.therm.blow = false := by decide

/-- R499: a grant with allowance left sends 0.85 V. -/
theorem test_grant : (match exec .surgeGrant requested with
    | .next t => (t.therm.setpoint, t.fld Reg.THM_SURGE Fld.THM_SURGE_AVS_HI, t.therm.phase)
    | _ => (9, 9, .idle)) = (850, 1, .avsUp) := by decide

/-- R500: the write of REQ = 0 abandons the entry. -/
theorem test_abandoned : (match exec (.surgeRequest secureReq 0#32) { requested with therm := { requested.therm with phase := .avsUp } } with
    | .next t => (t.therm.setpoint, t.therm.phase)
    | _ => (9, .idle)) = (750, .avsDown) := by decide

/-- R495: the clock steps up from 1.5 GHz. -/
theorem test_clock_step : (match exec .clockStep { requested with therm := { requested.therm with phase := .steppingUp } } with
    | .next t => (t.therm.mhz, t.fld Reg.THM_SURGE Fld.THM_SURGE_CLK)
    | _ => (9, 9)) = (1650, 3) := by decide

end Sys2Proof.Tests
end

section

namespace Sys2Proof.Machine

-- One lemma after another: elaborated at once they wait for each other, each with a stack of its own.
set_option Elab.async false

/-! ## What no step undoes

One relation, `Keeps s t`, holds of every state `t` that a run from `s` comes to: from `s` to `t` the maps stay in canonical form
(CanonicalFormKept) and the fuses in order, none taken back (FusesNeverGoBack).  It composes, it holds of every primitive of the state,
and one lemma per operation of the model, in the order of the model's files, carries it through that operation: from `Keeps s t` to
`Keeps s (t.op …)`.  So the proof for an operation is the chain of the lemmas of the operations that its body calls. -/

/-- No fuse of `f` is taken back in `g`. -/
def Fuses.Ahead (f g : Fuses) : Prop :=
  f.lifecycle ≤ g.lifecycle ∧ f.inForce ≤ g.inForce ∧ (∀ k, bitAt f.revoked k = true → bitAt g.revoked k = true) ∧
    (∀ c : Fin 8, f.counts[c] ≤ g.counts[c]) ∧ f.wear ≤ g.wear ∧ g.hybrid = f.hybrid ∧ g.keyprog = f.keyprog

theorem Fuses.Ahead.refl {f : Fuses} : f.Ahead f :=
  ⟨Nat.le_refl _, Nat.le_refl _, fun _ h => h, fun _ => Nat.le_refl _, Nat.le_refl _, rfl, rfl⟩

theorem Fuses.Ahead.trans {f g k : Fuses} (h1 : f.Ahead g) (h2 : g.Ahead k) : f.Ahead k := by
  obtain ⟨l1, i1, r1, c1, w1, y1, p1⟩ := h1
  obtain ⟨l2, i2, r2, c2, w2, y2, p2⟩ := h2
  exact ⟨l1.trans l2, i1.trans i2, fun b h => r2 b (r1 b h), fun c => (c1 c).trans (c2 c), w1.trans w2, y2.trans y1, p2.trans p1⟩

/-- `t` comes after `s` in every run: its maps are canonical if those of `s` are, and if the fuses of `s` are in order, so are those
of `t`, and none is taken back. -/
def Keeps (s t : State) : Prop :=
  (s.canonical = true → t.canonical = true) ∧ (s.FusesInOrder → t.FusesInOrder ∧ s.fuses.Ahead t.fuses)

variable {s t u : State}

theorem Keeps.refl : Keeps s s := ⟨id, fun h => ⟨h, .refl⟩⟩

theorem Keeps.trans (h1 : Keeps s t) (h2 : Keeps t u) : Keeps s u :=
  ⟨fun h => h2.1 (h1.1 h), fun h => ⟨(h2.2 (h1.2 h).1).1, (h1.2 h).2.trans (h2.2 (h1.2 h).1).2⟩⟩

theorem canonical_iff : s.canonical = true ↔
    SMap.wf regReset s.regs = true ∧ Memory.wf s.mem = true ∧ SMap.wf flashDflt s.flash = true := by
  simp [State.canonical, and_assoc]

/-- Fuses and the running commit as before: the maps alone are left to show. -/
theorem Keeps.of_maps (h : Keeps s t) (hc : t.canonical = true → u.canonical = true) (hf : u.fuses = t.fuses)
    (hb : u.rom.blowing = t.rom.blowing) : Keeps s u := by
  refine h.trans ⟨hc, fun ho => ?_⟩
  unfold State.FusesInOrder at ho ⊢
  rw [hf, hb]
  exact ⟨ho, .refl⟩

/-- A part of the state that `Keeps` does not speak of may change. -/
theorem Keeps.eq (h : Keeps s t) (hr : u.regs = t.regs := by rfl) (hm : u.mem = t.mem := by rfl) (hl : u.flash = t.flash := by rfl)
    (hf : u.fuses = t.fuses := by rfl) (hb : u.rom.blowing = t.rom.blowing := by rfl) : Keeps s u := by
  refine h.of_maps ?_ hf hb
  unfold State.canonical
  rw [hr, hm, hl]
  exact id

/-- Fuses are blown, or a commit of a count begins or ends: what is left to show where the maps are as before. -/
theorem Keeps.burn (h : Keeps s t) (hf : t.FusesInOrder → u.FusesInOrder ∧ t.fuses.Ahead u.fuses)
    (hr : u.regs = t.regs := by rfl) (hm : u.mem = t.mem := by rfl) (hl : u.flash = t.flash := by rfl) : Keeps s u := by
  refine h.trans ⟨fun hc => ?_, hf⟩
  unfold State.canonical at hc ⊢
  rwa [hr, hm, hl]

theorem Keeps.setReg (h : Keeps s t) {a w} : Keeps s (t.setReg a w) :=
  h.of_maps (fun hc => by
    obtain ⟨hr, hm⟩ := canonical_iff.1 hc
    exact canonical_iff.2 ⟨SMap.wf_set hr, hm⟩) rfl rfl

theorem Keeps.setFld (h : Keeps s t) {a f v} : Keeps s (t.setFld a f v) := h.setReg

theorem Keeps.store (h : Keeps s t) {pa bs} : Keeps s (t.store pa bs) :=
  h.of_maps (fun hc => by
    obtain ⟨hr, hm, hl⟩ := canonical_iff.1 hc
    exact canonical_iff.2 ⟨hr, SMap.wf_setMany hm, hl⟩) rfl rfl

theorem Keeps.zero (h : Keeps s t) {pa n} : Keeps s (t.zero pa n) :=
  h.of_maps (fun hc => by
    obtain ⟨hr, hm, hl⟩ := canonical_iff.1 hc
    exact canonical_iff.2 ⟨hr, SMap.wf_clear hm, hl⟩) rfl rfl

/-! A field that `Keeps` does not speak of, whatever its new value: stated apart where that value is costly to compare. -/

theorem Keeps.setTb (h : Keeps s t) {b} : Keeps s { t with tb := b } := h.eq

theorem Keeps.setPinsTb (h : Keeps s t) {a b} : Keeps s { t with pins := a, tb := b } := h.eq

theorem Keeps.setHeathRom (h : Keeps s t) {a b} (e : b.blowing = t.rom.blowing := by rfl) :
    Keeps s { t with heath := a, rom := b } :=
  h.eq (hb := e)

theorem Keeps.setHeath (h : Keeps s t) {a} : Keeps s { t with heath := a } := h.eq

theorem Keeps.setGw (h : Keeps s t) {a} : Keeps s { t with gw := a } := h.eq

theorem Keeps.setTherm (h : Keeps s t) {a} : Keeps s { t with therm := a } := h.eq

theorem Keeps.ite {p : Prop} {d : Decidable p} (h1 : Keeps s t) (h2 : Keeps s u) : Keeps s (if p then t else u) := by
  split <;> assumption

theorem Keeps.iteSnd {α : Type} {p : Prop} {d : Decidable p} {x y : α × State} (h1 : Keeps s x.2) (h2 : Keeps s y.2) :
    Keeps s (if p then x else y).2 := by
  split <;> assumption

theorem Keeps.itePair {α : Type} {p : Prop} {d : Decidable p} {a b : α} (h1 : Keeps s t) (h2 : Keeps s u) :
    Keeps s (if p then (a, t) else (b, u)).2 := by
  split <;> assumption

theorem Keeps.iteSnd2 {α β : Type} {p : Prop} {d : Decidable p} {x y : α × β × State} (h1 : Keeps s x.2.2) (h2 : Keeps s y.2.2) :
    Keeps s (if p then x else y).2.2 := by
  split <;> assumption

theorem Keeps.snd {α : Type} {r : α × State} {x : α} (h : Keeps s r.2) (e : r = (x, t)) : Keeps s t := by
  subst e; exact h

theorem Keeps.snd2 {α β : Type} {r : α × β × State} {x : α} {y : β} (h : Keeps s r.2.2) (e : r = (x, y, t)) : Keeps s t := by
  subst e; exact h

theorem Keeps.snd3 {α β γ : Type} {r : α × β × γ × State} {x : α} {y : β} {z : γ} (h : Keeps s r.2.2.2) (e : r = (x, y, z, t)) :
    Keeps s t := by
  subst e; exact h

theorem Keeps.foldl {α : Type} {f : State → α → State} (hf : ∀ u x, Keeps s u → Keeps s (f u x)) {xs : List α} :
    ∀ {t}, Keeps s t → Keeps s (xs.foldl f t) := by
  induction xs with
  | nil => exact id
  | cons x xs ih => exact fun h => ih (hf _ x h)

/-! ## Results that hold a state

`Keeps` for the answers of the model that are no plain state: the step of a tile command, an act that may not be possible, an outcome. -/

variable {α β : Type}

/-- Every state that a step of a tile command comes to is one that `s` leads to. -/
def KeepsRan (s : State) : Ran α → Prop
  | .ok _ t => Keeps s t
  | .waits => True
  | .fault _ _ t => Keeps s t

theorem KeepsRan.ok (h : Keeps s t) {a : α} : KeepsRan s (.ok a t) := h

theorem KeepsRan.waits : KeepsRan s (.waits : Ran α) := trivial

theorem KeepsRan.fault (h : Keeps s t) {x more} : KeepsRan s (.fault x more t : Ran α) := h

theorem KeepsRan.faultAs (h : Keeps s t) {te c sub} : KeepsRan s (faultAs te c sub t : Ran α) := h

theorem KeepsRan.of_ok {r : Ran α} (h : KeepsRan s r) {a} (e : r = .ok a t) : Keeps s t := by subst e; exact h

theorem KeepsRan.of_fault {r : Ran α} (h : KeepsRan s r) {x more} (e : r = .fault x more t) : Keeps s t := by subst e; exact h

theorem KeepsRan.ite {p : Prop} {d : Decidable p} {x y : Ran α} (h1 : KeepsRan s x) (h2 : KeepsRan s y) :
    KeepsRan s (if p then x else y) := by
  split <;> assumption

theorem KeepsRan.bind {r : Ran α} {f : α → State → Ran β} (h : KeepsRan s r) (hf : ∀ a u, Keeps s u → KeepsRan s (f a u)) :
    KeepsRan s (r.bind f) := by
  cases r with
  | ok a t => exact hf a t h
  | waits => trivial
  | fault x more t => exact h

theorem KeepsRan.tagged {r : Ran α} (h : KeepsRan s r) {n} : KeepsRan s (r.tagged n) := by
  cases r <;> exact h

theorem KeepsRan.over {f : α → State → Ran Unit} (hf : ∀ a u, Keeps s u → KeepsRan s (f a u)) {xs : List α} :
    ∀ {t}, Keeps s t → KeepsRan s (ranOver f xs t) := by
  induction xs with
  | nil => exact fun h => h
  | cons x xs ih => exact fun h => (hf _ _ h).bind fun _ _ h1 => ih h1

/-- The state that an act comes to, where there is one, is one that `s` leads to. -/
def KeepsOpt (s : State) (o : Option State) : Prop := ∀ u, o = some u → Keeps s u

theorem KeepsOpt.nothing : KeepsOpt s none := fun _ e => absurd e.symm (Option.some_ne_none _)

theorem KeepsOpt.to (h : Keeps s t) : KeepsOpt s (some t) := fun _ e => Option.some.inj e ▸ h

theorem KeepsOpt.of_some {o : Option State} (h : KeepsOpt s o) (e : o = .some t) : Keeps s t := h t e

theorem KeepsOpt.ite {p : Prop} {d : Decidable p} {x y : Option State} (h1 : KeepsOpt s x) (h2 : KeepsOpt s y) :
    KeepsOpt s (if p then x else y) := by
  split <;> assumption

theorem KeepsOpt.getD {o : Option State} (h1 : KeepsOpt s o) (h2 : Keeps s t) : Keeps s (o.getD t) := by
  cases o with
  | none => exact h2
  | some u => exact h1 u rfl

theorem KeepsOpt.findSome {f : α → Option State} (hf : ∀ a, KeepsOpt s (f a)) {xs : List α} : KeepsOpt s (xs.findSome? f) := by
  intro u e
  obtain ⟨a, _, ha⟩ := List.exists_of_findSome?_eq_some e
  exact hf a u ha

/-- The outcome of a command is no state that `s` does not lead to. -/
def KeepsOut (s : State) (o : Host.Outcome State Fault Refusal) : Prop := ∀ u, o = .next u → Keeps s u

theorem KeepsOut.next (h : Keeps s t) : KeepsOut s (.next t) := fun _ e => Host.Outcome.next.inj e ▸ h

/-! ## `Keeps` through registers and their flags

The operations of Machine/Flags. -/

theorem Keeps.raise (h : Keeps s t) {a f} : Keeps s (t.raise a f) := h.setFld

theorem Keeps.lower (h : Keeps s t) {a f} : Keeps s (t.lower a f) := h.setFld

theorem Keeps.count (h : Keeps s t) {a f n} : Keeps s (t.count a f n) := h.setFld

theorem Keeps.cfgErr (h : Keeps s t) {a} : Keeps s (t.cfgErr a) := by
  unfold State.cfgErr
  split
  · exact h.raise
  · exact h.ite h.eq

/-! ## `Keeps` through memory, caches, translation and messages

The operations of Machine/Ops. -/

theorem Keeps.setEng (h : Keeps s t) {n x} : Keeps s (t.setEng n x) := h.eq

theorem Keeps.setCtx (h : Keeps s t) {n x} : Keeps s (t.setCtx n x) := h.eq

theorem Keeps.setPart (h : Keeps s t) {n x} : Keeps s (t.setPart n x) := h.eq

theorem Keeps.setStream (h : Keeps s t) {n x} : Keeps s (t.setStream n x) := h.eq

theorem Keeps.setSsp (h : Keeps s t) {n x} : Keeps s (t.setSsp n x) := h.eq

theorem Keeps.setDmc (h : Keeps s t) {n x} : Keeps s (t.setDmc n x) := h.eq

theorem Keeps.setGfxQueue (h : Keeps s t) {n x} : Keeps s (t.setGfxQueue n x) := h.eq

theorem Keeps.setHead (h : Keeps s t) {n x} : Keeps s (t.setHead n x) := h.eq

theorem Keeps.setHart (h : Keeps s t) {n x} : Keeps s (t.setHart n x) := h.eq

theorem Keeps.setWeir (h : Keeps s t) {n x} : Keeps s (t.setWeir n x) := h.eq

theorem Keeps.setWindow (h : Keeps s t) {n x} : Keeps s (t.setWindow n x) := h.eq

theorem Keeps.setTest (h : Keeps s t) {n x} : Keeps s (t.setTest n x) := h.eq

theorem Keeps.setWdt (h : Keeps s t) {n x} : Keeps s (t.setWdt n x) := h.eq

theorem Keeps.report (h : Keeps s t) {r} : Keeps s (t.report r) := h.eq

theorem Keeps.relabel (h : Keeps s t) {req} : Keeps s (t.relabel req) := h.raise.ite h

theorem Keeps.ddrCeRecord (h : Keeps s t) {g pa iid} : Keeps s (t.ddrCeRecord g pa iid) := h.setDmc.report.ite h

theorem Keeps.ddrUeRecord (h : Keeps s t) {g pa iid} : Keeps s (t.ddrUeRecord g pa iid) := h.report

theorem Keeps.ddrLog (h : Keeps s t) {g pa src dev ue} : Keeps s (t.ddrLog g pa src dev ue) :=
  h.ite h.setFld.setFld.setFld.setFld.setFld.setFld.setFld

theorem Keeps.ddrCount (h : Keeps s t) {g pa dev iid} : Keeps s (t.ddrCount g pa dev iid) :=
  h.ite (h.setDmc.setFld.setFld.ddrCeRecord.ite h.setDmc)

theorem Keeps.ddrCorrected (h : Keeps s t) {pa dev src iid} : Keeps s (t.ddrCorrected pa dev src iid) :=
  h.count.ddrLog.ddrCount.ddrCeRecord

theorem Keeps.storeFree (h : Keeps s t) {pa n} : Keeps s (t.storeFree pa n) := h.eq.store

theorem Keeps.ddrDecode (h : Keeps s t) {pa upset src iid} : Keeps s (t.ddrDecode pa upset src iid).2 := by
  unfold State.ddrDecode
  dsimp only
  split
  · exact h
  · exact h.eq.ddrCorrected
  · exact .ddrCorrected (h.eq.ite h.eq.storeFree)
  · exact h.eq.count.ddrLog.ddrUeRecord
  · exact h.count

theorem Keeps.sramDecode (h : Keeps s t) {pa upset own} : Keeps s (t.sramDecode pa upset own).2 := by
  unfold State.sramDecode
  dsimp only
  split
  · exact h
  · exact h.eq.report.ite h.eq
  · exact h.eq.report.ite h.eq
  · exact h.eq.ite h.eq.report
  · exact h

theorem Keeps.ddrReadWord (h : Keeps s t) {iid pa n upset} : Keeps s (t.ddrReadWord iid pa n upset).2.2 := by
  unfold State.ddrReadWord
  dsimp only
  split <;> exact h.ddrDecode

theorem Keeps.ddrWriteWord (h : Keeps s t) {iid pa bs upset} : Keeps s (t.ddrWriteWord iid pa bs upset).2 := by
  unfold State.ddrWriteWord
  refine h.eq.store.iteSnd ?_
  dsimp only
  split
  · exact h.ddrDecode.store
  · exact h.ddrDecode.eq.store
  · exact h.ddrDecode.eq.store
  · exact h.ddrDecode.eq.zero.store
  · exact h.ddrDecode.store

theorem Keeps.sramReadWord (h : Keeps s t) {pa n upset own} : Keeps s (t.sramReadWord pa n upset own).2.2 := by
  unfold State.sramReadWord
  dsimp only
  split <;> exact h.sramDecode

theorem Keeps.sramWriteWord (h : Keeps s t) {pa bs upset own} : Keeps s (t.sramWriteWord pa bs upset own) := by
  unfold State.sramWriteWord
  refine h.eq.store.ite ?_
  dsimp only
  split
  · exact h.sramDecode.store
  · exact h.sramDecode.store
  · exact h.sramDecode.store
  · exact h.sramDecode.store
  · exact h.sramDecode.eq.store

theorem Keeps.evictAll (h : Keeps s t) {p} : Keeps s (t.evictAll p) := h.eq

theorem Keeps.slcUse (h : Keeps s t) {cls line way} : Keeps s (t.slcUse cls line way) := h.eq

theorem Keeps.slcAllocate (h : Keeps s t) {line cls dirty} : Keeps s (t.slcAllocate line cls dirty) := by
  unfold State.slcAllocate
  split
  · exact h
  · exact h.eq

theorem Keeps.slcDirty (h : Keeps s t) {line cls whole} : Keeps s (t.slcDirty line cls whole) := h.eq

theorem Keeps.slcWriteLine (h : Keeps s t) {line cls} : Keeps s (t.slcWriteLine line cls) := by
  unfold State.slcWriteLine
  split
  · exact h.slcDirty.slcUse
  · exact h.eq.ite h.slcAllocate

theorem Keeps.cacheFill (h :
    Keeps s t) {c line dirty} {back : State → Nat → State} (hback : ∀ u x, Keeps s u → Keeps s (back u x)) : Keeps s (t.cacheFill
        back c line dirty) := h.eq.ite (.foldl (fun _ _ h1 => .ite (hback _ _ h1) h1) h.eq)

theorem Keeps.fillL2 (h : Keeps s t) {cls p line dirty} : Keeps s (t.fillL2 cls p line dirty) :=
  h.cacheFill (fun _ _ h1 => h1.slcWriteLine)

theorem Keeps.fillL1 (h : Keeps s t) {cls k line dirty} : Keeps s (t.fillL1 cls k line dirty) :=
  h.cacheFill (fun _ _ h1 => h1.fillL2)

theorem Keeps.hartFill (h : Keeps s t) {req ty line} : Keeps s (t.hartFill req ty line) := by
  unfold State.hartFill
  split
  · refine .foldl (fun _ _ h1 => ?_) h.fillL2
    split
    · exact h1.cacheFill (fun _ _ h1 => h1)
    · exact h1.fillL1
    · exact h1.fillL1
  · exact h

theorem Keeps.snoop (h : Keeps s t) {ini line} : Keeps s (t.snoop ini line) := h.eq

theorem Keeps.ddrRead (h : Keeps s t) {req ty pa n upset} : Keeps s (t.ddrRead req ty pa n upset).2.2 := by
  unfold State.ddrRead
  refine .ite (.hartFill (h.iteSnd2 ?_)) (h.iteSnd2 ?_)
  · split
    · exact h.slcUse.iteSnd2 h.slcUse
    · exact h.ddrReadWord.slcAllocate.ite h.ddrReadWord
  · split
    · exact h.slcUse.iteSnd2 h.slcUse
    · exact h.ddrReadWord.slcAllocate.ite h.ddrReadWord

theorem Keeps.ddrWrite (h : Keeps s t) {req pa bs upset} : Keeps s (t.ddrWrite req pa bs upset).2 := by
  unfold State.ddrWrite
  refine .snoop (h.slcWriteLine.store.iteSnd ?_)
  split
  · exact h.slcDirty.slcUse.store
  · split
    · exact h.ddrWriteWord
    · exact h.ddrWriteWord
    · exact h.ddrWriteWord
    · exact h.ddrDecode.slcAllocate.store

theorem Keeps.guardRefuse (h : Keeps s t) {t' req ty pa} : Keeps s (t.guardRefuse t' req ty pa) :=
  .ite (.report (.eq (h.ite h.setReg.setReg))) (h.ite h.setReg.setReg)

theorem Keeps.releaseSems (h : Keeps s t) {i} : Keeps s (t.releaseSems i) := .foldl (fun _ _ h1 => h1.eq.setReg.ite h1) h

theorem Keeps.decodeError (h : Keeps s t) {req ty pa} : Keeps s (t.decodeError req ty pa) := .report (h.ite h.setReg.setReg)

theorem Keeps.linkEnd (h : Keeps s t) {i} : Keeps s (t.linkEnd i) := h.eq

theorem Keeps.judge (h : Keeps s t) {req ty pa len} : Keeps s (t.judge req ty pa len).2 := by
  unfold State.judge
  refine h.linkEnd.iteSnd (h.iteSnd ?_)
  split
  · exact h.decodeError
  · exact h.decodeError.iteSnd h
  · exact h.decodeError.iteSnd h
  · split
    · refine h.iteSnd ?_
      split
      · exact h.iteSnd h.guardRefuse
      · exact h
    · exact h

theorem Keeps.judged (h : Keeps s t) {req ty pa len} : Keeps s (t.judged req ty pa len).2 := h.relabel.judge

theorem Keeps.readBlock (h : Keeps s t) {ty req pa n own} : Keeps s (t.readBlock ty req pa n own).2.2 := by
  unfold State.readBlock
  split
  · exact h.ddrRead
  · exact h.sramReadWord
  · exact h.sramReadWord
  · exact h.sramReadWord
  · exact h
  · exact h
  · exact h
  · exact h
  · exact h

theorem Keeps.writeBlock (h : Keeps s t) {req pa bs own} : Keeps s (t.writeBlock req pa bs own).2 := by
  unfold State.writeBlock
  split
  · exact h.ddrWrite
  · exact h.sramWriteWord
  · exact h.sramWriteWord
  · exact h.sramWriteWord
  · exact h
  · exact h
  · exact h.store

theorem Keeps.readMemAs (h : Keeps s t) {ty req own fuel pa n} : Keeps s (t.readMemAs ty req own fuel pa n).2.2 := by
  fun_induction State.readMemAs t ty req own fuel pa n with
  | case1 => exact h
  | case2 => exact h
  | case3 _ _ _ _ _ _ _ e1 _ _ e2 _ _ e3 ih => exact (ih ((h.judge.snd e1).readBlock.snd2 e2)).snd2 e3
  | case4 _ _ _ _ _ _ _ e1 _ _ e2 _ _ _ _ e3 ih => exact (ih ((h.judge.snd e1).readBlock.snd2 e2)).snd2 e3
  | case5 _ _ _ _ _ _ _ e1 _ _ _ _ e2 => exact (h.judge.snd e1).readBlock.snd2 e2
  | case6 _ _ _ _ _ _ _ _ _ e1 => exact h.judge.snd e1

theorem Keeps.readMem (h : Keeps s t) {req own fuel pa n} : Keeps s (t.readMem req own fuel pa n).2.2 := h.readMemAs

theorem Keeps.writeMem {req own fuel} : ∀ {t pa bs}, Keeps s t → Keeps s (State.writeMem t req own fuel pa bs).2 := by
  induction fuel with
  | zero => intro t pa bs h; unfold State.writeMem; exact h
  | succ fuel ih =>
    intro t pa bs h
    cases bs with
    | nil => unfold State.writeMem; exact h
    | cons b bs =>
      unfold State.writeMem
      dsimp only
      split
      · rename_i e1
        have h1 := h.judge.snd e1
        split
        · rename_i e1
          have h1 := h1.writeBlock.snd e1
          exact ih h1
        · rename_i e1
          exact h1.writeBlock.snd e1
      · rename_i e1
        exact h.judge.snd e1

theorem Keeps.readPhys (h : Keeps s t) {req pa n} : Keeps s (t.readPhys req pa n).2.2 := h.relabel.readMem

theorem Keeps.writePhys (h : Keeps s t) {req pa bs} : Keeps s (t.writePhys req pa bs).2 := h.relabel.writeMem

theorem Keeps.markDirty (h : Keeps s t) {n gpa} : Keeps s (t.markDirty n gpa) := by
  unfold State.markDirty
  refine h.ite (h.setCtx.ite ?_)
  split
  · exact h
  · exact h.writeMem

theorem Keeps.dmaRead (h : Keeps s t) {req fuel iova n} : Keeps s (t.dmaRead req fuel iova n).2.2 := by
  fun_induction State.dmaRead t req fuel iova n with
  | case1 => exact h
  | case2 => exact h
  | case3 => exact h
  | case4 _ _ _ _ _ _ _ _ _ _ e1 _ _ e2 ih => exact (ih (h.readMem.snd2 e1)).snd2 e2
  | case5 _ _ _ _ _ _ _ _ _ _ e1 _ _ _ _ e2 ih => exact (ih (h.readMem.snd2 e1)).snd2 e2
  | case6 _ _ _ _ _ _ _ _ _ _ _ _ e1 => exact h.readMem.snd2 e1

theorem Keeps.dmaWrite {req fuel} : ∀ {t iova bs}, Keeps s t → Keeps s (State.dmaWrite t req fuel iova bs).2 := by
  induction fuel with
  | zero => intro t iova bs h; unfold State.dmaWrite; exact h
  | succ fuel ih =>
    intro t iova bs h
    cases bs with
    | nil => unfold State.dmaWrite; exact h
    | cons b bs =>
      unfold State.dmaWrite
      dsimp only
      split
      · exact h
      · split
        · rename_i e1
          have h1 := h.writeMem.snd e1
          exact ih h1.markDirty
        · rename_i e1
          have h1 := h.writeMem.snd e1
          exact h1.markDirty

theorem Keeps.fetch (h : Keeps s t) {req iova n} : Keeps s (t.fetch req iova n).2.2 := h.relabel.dmaRead

theorem Keeps.put (h : Keeps s t) {req iova bs} : Keeps s (t.put req iova bs).2 := h.relabel.dmaWrite

theorem Keeps.sendMsi (h : Keeps s t) {ini ctx addr data} : Keeps s (t.sendMsi ini ctx addr data) := h.eq

theorem Keeps.interrupt (h : Keeps s t) {u'} : Keeps s (t.interrupt u') := h.ite h.eq

theorem Keeps.answer (h : Keeps s t) {resp data} : Keeps s (t.answer resp data) := h.eq

theorem Keeps.answerWord (h : Keeps s t) {w} : Keeps s (t.answerWord w) := h.answer

/-! ## `Keeps` through register accesses

The operations of Machine/Access. -/

theorem Keeps.regCheck (h : Keeps s t) {req ty a width} : Keeps s (t.regCheck req ty a width).2 := by
  unfold State.regCheck
  refine h.iteSnd ?_
  split
  · split
    · exact h
    · exact h.iteSnd (h.iteSnd (h.iteSnd (h.iteSnd h)))
  · exact h.decodeError

theorem Keeps.setBridgeQueue (h : Keeps s t) {n q} : Keeps s (t.setBridgeQueue n q) := h.setWeir

theorem Keeps.bridgeHold (h : Keeps s t) {n i} : Keeps s (t.bridgeHold n i) := h.setBridgeQueue.answer.ite h.setBridgeQueue

theorem Keeps.passBridge (h : Keeps s t) {req a width data taken} {go : State → State} (hgo : ∀ u, Keeps s u → Keeps s (go u)) :
    Keeps s (t.passBridge req a width data taken go) := by
  unfold State.passBridge
  refine h.ite (h.relabel.linkEnd.answer.ite ?_)
  split
  · exact h.relabel.answer.ite h.relabel.bridgeHold
  · exact hgo _ h.relabel

theorem Keeps.busWrite (h : Keeps s t) {req a w} {eff : State → State} (heff : ∀ u, Keeps s u → Keeps s (eff u)) :
    Keeps s (t.busWrite req a w eff) := by
  unfold State.busWrite
  refine h.passBridge (fun _ h1 => ?_)
  split
  · rename_i e1
    have h1 := h1.regCheck.snd e1
    exact .answer (heff _ h1)
  · rename_i e1
    have h1 := h1.regCheck.snd e1
    exact h1.answer

theorem Keeps.busRead (h : Keeps s t) {req a val} {eff : State → State} (heff : ∀ u, Keeps s u → Keeps s (eff u)) :
    Keeps s (t.busRead req a val eff) := by
  unfold State.busRead
  refine h.passBridge (fun _ h1 => ?_)
  split
  · rename_i e1
    have h1 := h1.regCheck.snd e1
    exact .answerWord (heff _ h1)
  · rename_i e1
    have h1 := h1.regCheck.snd e1
    exact h1.answer

theorem Keeps.plainWrite (h : Keeps s t) {a w} : Keeps s (t.plainWrite a w) := .setReg (h.cfgErr.ite h)

theorem Keeps.clearRead (h : Keeps s t) {a} : Keeps s (t.clearRead a) := h.setReg

theorem Keeps.readClear (h : Keeps s t) {req a} : Keeps s (t.readClear req a) := h.busRead (fun _ h1 => h1.clearRead)

/-! ## `Keeps` through the firmware log

The operations of Machine/Log. -/

theorem Keeps.log (h : Keeps s t) {r} : Keeps s (t.log r) := h.ite (h.eq.ite (h.eq.count.ite h.eq.put.setFld))

theorem Keeps.writeLogCfg (h : Keeps s t) {req w} : Keeps s (t.writeLogCfg req w) :=
  .ite (h.plainWrite.setReg.setReg.ite h.plainWrite) h.setReg

theorem Keeps.writeTrace (h : Keeps s t) {req k w} : Keeps s (t.writeTrace req k w) := h.ite h.plainWrite

/-! ## `Keeps` through contexts and their rings

The operations of Machine/Contexts. -/

theorem Keeps.setStatus (h : Keeps s t) {n st} : Keeps s (t.setStatus n st) := h.setCtx.setReg

theorem Keeps.postEvent (h : Keeps s t) {code n} : Keeps s (t.postEvent code n) := h.eq.ite h.eq

theorem Keeps.halt (h : Keeps s t) {n} : Keeps s (t.halt n) := h.setStatus.postEvent.ite h

theorem Keeps.cqPut (h : Keeps s t) {req q e'} : Keeps s (t.cqPut req q e').2 := h.put

theorem Keeps.cqWrite (h : Keeps s t) {n e'} : Keeps s (t.cqWrite n e').2 := by
  unfold State.cqWrite
  dsimp only
  split
  · rename_i e1
    have h1 := h.cqPut.snd e1
    exact h1.setCtx.setFld
  · rename_i e1
    have h1 := h.cqPut.snd e1
    exact h1.halt

theorem Keeps.ctxMsi (h : Keeps s t) {n} : Keeps s (t.ctxMsi n) := h.sendMsi

theorem Keeps.writeEvents {fuel} : ∀ {t}, Keeps s t → Keeps s (State.writeEvents t fuel) := by
  induction fuel with
  | zero => intro t h; unfold State.writeEvents; exact h
  | succ fuel ih =>
    intro t h
    unfold State.writeEvents
    split
    · exact h
    · exact .ite (ih (h.eq.cqWrite.ctxMsi.ite h.eq.cqWrite)) h

theorem Keeps.raiseFence (h : Keeps s t) {n f v} : Keeps s (t.raiseFence n f v) := h.setCtx.put

theorem Keeps.endEntry (h : Keeps s t) {n r h' e'} : Keeps s (t.endEntry n r h' e') := by
  unfold State.endEntry
  refine h.setCtx.ite ?_
  split
  · rename_i e1
    exact h.setCtx.cqWrite.snd e1
  · rename_i e1
    have h1 := h.setCtx.cqWrite.snd e1
    exact .ite (.ctxMsi (h1.raiseFence.ite h1)) (h1.raiseFence.ite h1)

theorem Keeps.dbIgnored (h : Keeps s t) {n} : Keeps s (t.dbIgnored n) := h.count

theorem Keeps.writeSqTail (h : Keeps s t) {n r w} : Keeps s (t.writeSqTail n r w) := h.setFld.ite h.dbIgnored

theorem Keeps.writeCqHead (h : Keeps s t) {n w} : Keeps s (t.writeCqHead n w) := h.dbIgnored.ite h.setCtx.setFld

theorem Keeps.takeTurn (h : Keeps s t) {n} : Keeps s (t.takeTurn n) := h.eq

theorem Keeps.setHeld (h : Keeps s t) {n r hs} : Keeps s (t.setHeld n r hs) := h.setCtx

theorem Keeps.passEntry (h : Keeps s t) {n r} : Keeps s (t.passEntry n r) := h.setFld

/-! ## `Keeps` through model packs

The operations of Machine/Models. -/

theorem Keeps.entryRead (h : Keeps s t) {req iova n} : Keeps s (t.entryRead req iova n).2 := by
  unfold State.entryRead
  split
  · rename_i e1
    exact h.fetch.snd2 e1
  · rename_i e1
    exact h.fetch.snd2 e1

theorem Keeps.readSections {req pack xs} : ∀ {t}, Keeps s t → Keeps s (State.readSections t req pack xs).2 := by
  induction xs with
  | nil => intro t h; unfold State.readSections; exact h
  | cons x xs ih =>
    intro t h
    unfold State.readSections
    split
    · rename_i e1
      exact h.entryRead.snd e1
    · rename_i e1
      have h1 := h.entryRead.snd e1
      split
      · rename_i e1
        exact (ih h1).snd e1
      · rename_i e1
        exact (ih h1).snd e1

theorem Keeps.packFront (h : Keeps s t) {req pack len signedOnly} : Keeps s (t.packFront req pack len signedOnly).2 := by
  unfold State.packFront
  refine h.iteSnd ?_
  split
  · rename_i e1
    exact h.entryRead.snd e1
  · rename_i e1
    have h1 := h.entryRead.snd e1
    refine h1.iteSnd ?_
    dsimp only
    split
    · rename_i e1
      exact h1.entryRead.snd e1
    · rename_i e1
      have h1 := h1.entryRead.snd e1
      refine h1.iteSnd (.iteSnd (h1.iteSnd h1) ?_)
      split
      · rename_i e1
        exact h1.entryRead.snd e1
      · rename_i e1
        have h1 := h1.entryRead.snd e1
        refine h1.iteSnd ?_
        split
        · rename_i e1
          exact h1.entryRead.snd e1
        · rename_i e1
          have h1 := h1.entryRead.snd e1
          exact h1.iteSnd h1

theorem Keeps.descsOk (h : Keeps s t) {req pack p secs xs} : Keeps s (t.descsOk req pack p secs xs).2 := by
  fun_induction State.descsOk t req pack p secs xs
  case case1 => exact h
  case case2 ih => exact ih h
  case case3 e1 => exact h.entryRead.snd e1
  case case4 e1 _ ih => exact ih (h.entryRead.snd e1)
  case case5 e1 _ => exact h.entryRead.snd e1

theorem Keeps.checkPack (h : Keeps s t) {req n part pack len} : Keeps s (t.checkPack req n part pack len).2 := by
  unfold State.checkPack
  split
  · rename_i e1
    exact h.packFront.snd e1
  · rename_i e1
    have h1 := h.packFront.snd e1
    refine h1.iteSnd ?_
    split
    · rename_i e1
      exact h1.readSections.snd e1
    · rename_i e1
      have h1 := h1.readSections.snd e1
      dsimp only
      split
      · split
        · rename_i e1
          exact h1.descsOk.snd e1
        · rename_i e1
          exact h1.descsOk.snd e1
      · exact h1

theorem Keeps.freshValue (h : Keeps s t) : Keeps s t.freshValue.2 := h.eq

theorem Keeps.newHandle (h : Keeps s t) {n} : Keeps s (t.newHandle n).2 := h.freshValue

theorem Keeps.recordModel (h : Keeps s t) {n part pack i} : Keeps s (t.recordModel n part pack i).2 := by
  unfold State.recordModel
  extract_lets r s1 m s2 s3 c
  have h1 : Keeps s s1 := h.newHandle
  clear_value s1
  have h3 : Keeps s s3 := by
    simp only [s3]
    split
    · exact h1.eq.setPart
    · exact h1.eq
  exact h3.setCtx

theorem Keeps.forgetModel (h : Keeps s t) {m} : Keeps s (t.forgetModel m) := by
  unfold State.forgetModel
  dsimp only
  split
  · exact h.eq.setPart
  · exact h.eq

theorem Keeps.undoLoad (h : Keeps s t) {m} : Keeps s (t.undoLoad m) := by
  unfold State.undoLoad
  refine h.forgetModel.ite ?_
  split
  · exact h.forgetModel.eq
  · exact h.forgetModel.setCtx

/-! ## `Keeps` through partitions, shares and residency

The operations of Machine/Partitions. -/

theorem Keeps.wipe (h : Keeps s t) {pa n} : Keeps s (t.wipe pa n) := h.eq.zero

theorem Keeps.wipeShares (h : Keeps s t) {p} : Keeps s (t.wipeShares p) :=
  .foldl (fun _ _ h1 => h1.wipe) (.foldl (fun _ _ h1 => h1.wipe) h)

theorem Keeps.noteStates (h : Keeps s t) : Keeps s t.noteStates := .foldl (fun _ _ h1 => h1.setCtx) h

theorem Keeps.dropResidency (h : Keeps s t) {n} : Keeps s (t.dropResidency n) := h.eq.setCtx

theorem Keeps.dropShares (h : Keeps s t) {n k p} : Keeps s (t.dropShares n k p) := h.eq.setCtx.ite h

theorem Keeps.takeShares (h : Keeps s t) {n} : Keeps s (t.takeShares n) := h.setCtx

theorem Keeps.storeAt (h : Keeps s t) {req pa bs} : Keeps s (t.storeAt req pa bs) := h.writePhys

theorem Keeps.readWeights {req pack xs} : ∀ {t}, Keeps s t → Keeps s (State.readWeights t req pack xs).2 := by
  induction xs with
  | nil => intro t h; unfold State.readWeights; exact h
  | cons x xs ih =>
    intro t h
    unfold State.readWeights
    split
    · rename_i e1
      exact h.entryRead.snd e1
    · rename_i e1
      have h1 := h.entryRead.snd e1
      split
      · rename_i e1
        exact (ih h1).snd e1
      · rename_i e1
        exact (ih h1).snd e1

theorem Keeps.copyWeights (h : Keeps s t) {n m p} : Keeps s (t.copyWeights n m p).2 := by
  unfold State.copyWeights
  dsimp only
  split
  · rename_i e1
    exact h.readWeights.snd e1
  · rename_i e1
    have h1 := h.readWeights.snd e1
    exact .foldl (fun _ _ h1 => .foldl (fun _ _ h2 => h2.storeAt) h1) h1

theorem Keeps.noteWaits (h : Keeps s t) : Keeps s t.noteWaits := .foldl (fun _ _ h1 => h1.setCtx) h

theorem Keeps.evictFor (h : Keeps s t) {x} : Keeps s (t.evictFor x) :=
  h.ite (h.setCtx.ite (h.postEvent.ite (h.ite (h.ite (.setCtx (.foldl (fun _ _ h1 => h1.dropResidency) h))))))

theorem Keeps.residency (h : Keeps s t) : Keeps s t.residency := .foldl (fun _ _ h1 => h1.evictFor) h

theorem Keeps.starveLanes (h : Keeps s t) : Keeps s t.starveLanes := by
  unfold State.starveLanes
  refine .foldl (fun _ _ h1 => ?_) h
  split
  · exact h1.eq.postEvent.ite h1
  · exact h1

theorem Keeps.setPartition (h : Keeps s t) {b} : Keeps s (t.setPartition b) := h.eq.setPart

theorem Keeps.bind (h : Keeps s t) {n k} : Keeps s (t.bind n k) := by
  unfold State.bind
  extract_lets s1
  have h1 : Keeps s s1 := .ite (.foldl (fun _ _ h1 => h1.dropResidency) h) (h.dropResidency.ite h)
  clear_value s1
  split
  · exact h1.setPart.takeShares.ite h1.setPart
  · exact h1

theorem Keeps.unbind (h : Keeps s t) {n k} : Keeps s (t.unbind n k) := by
  unfold State.unbind
  split
  · exact h.dropShares.setPart
  · exact h

/-! ## `Keeps` through the paged KV cache

The operations of Machine/Kv. -/

theorem Keeps.kvWrite {req c fuel} : ∀ {t gpa bs}, Keeps s t → Keeps s (State.kvWrite t req c fuel gpa bs).2 := by
  induction fuel with
  | zero => intro t gpa bs h; unfold State.kvWrite; exact h
  | succ fuel ih =>
    intro t gpa bs h
    cases bs with
    | nil => unfold State.kvWrite; exact h
    | cons b bs =>
      unfold State.kvWrite
      dsimp only
      split
      · exact h
      · split
        · rename_i e1
          have h1 := h.writePhys.snd e1
          exact ih h1.markDirty
        · rename_i e1
          have h1 := h.writePhys.snd e1
          exact h1.markDirty

theorem Keeps.kvRead (h : Keeps s t) {req c fuel gpa n} : Keeps s (t.kvRead req c fuel gpa n).2.2 := by
  fun_induction State.kvRead t req c fuel gpa n with
  | case1 => exact h
  | case2 => exact h
  | case3 => exact h
  | case4 _ _ _ _ _ _ _ _ _ _ e1 _ _ e2 ih => exact (ih (h.readPhys.snd2 e1)).snd2 e2
  | case5 _ _ _ _ _ _ _ _ _ _ e1 _ _ _ _ e2 ih => exact (ih (h.readPhys.snd2 e1)).snd2 e2
  | case6 _ _ _ _ _ _ _ _ _ _ _ _ e1 => exact h.readPhys.snd2 e1

theorem Keeps.kvWrites {req n xs} : ∀ {t}, Keeps s t → Keeps s (State.kvWrites t req n xs).2 := by
  induction xs with
  | nil => intro t h; unfold State.kvWrites; exact h
  | cons x xs ih =>
    intro t h
    unfold State.kvWrites
    split
    · rename_i e1
      have h1 := h.kvWrite.snd e1
      exact ih h1
    · rename_i e1
      exact h.kvWrite.snd e1

theorem Keeps.setKvRec (h : Keeps s t) {n a i r} : Keeps s (t.setKvRec n a i r).2 := h.setCtx.kvWrite

theorem Keeps.takeTable (h : Keeps s t) {n a sp j} : Keeps s (t.takeTable n a sp j).2 := h.setCtx.kvWrites

theorem State.takeTables_cons {n a sp j xs} : t.takeTables n a ((sp, j) :: xs) = match t.takeTable n a sp j with
    | (.okay, u) => u.takeTables n a xs
    | (e, u) => (e, u) := by
  delta State.takeTables State.takeTables._f
  generalize State.takeTable = f
  rfl

theorem Keeps.takeTables {n a xs} : ∀ {t}, Keeps s t → Keeps s (State.takeTables t n a xs).2 := by
  induction xs with
  | nil => exact fun h => h
  | cons x xs ih =>
    intro t h
    obtain ⟨sp, j⟩ := x
    rw [State.takeTables_cons]
    split
    · rename_i e1
      exact ih (h.takeTable.snd e1)
    · rename_i e1
      exact h.takeTable.snd e1

theorem Keeps.keepStale (h : Keeps s t) {n key a} : Keeps s (t.keepStale n key a) := by
  unfold State.keepStale
  split
  · exact h
  · dsimp only
    split
    · exact h.freshValue.eq.ite h.freshValue
    · exact h.freshValue

theorem Keeps.setPte (h : Keeps s t) {n a k p} : Keeps s (t.setPte n a k p).2 := by
  unfold State.setPte
  dsimp only
  split
  · exact h.keepStale.setCtx.kvWrite
  · exact h.keepStale.setCtx

theorem Keeps.setPtes {n a xs} : ∀ {t}, Keeps s t → Keeps s (State.setPtes t n a xs).2 := by
  induction xs with
  | nil => intro t h; unfold State.setPtes; exact h
  | cons x xs ih =>
    intro t h
    unfold State.setPtes
    split
    · rename_i e1
      have h1 := h.setPte.snd e1
      exact ih h1
    · rename_i e1
      exact h.setPte.snd e1

theorem Keeps.setRecs {n a xs} : ∀ {t}, Keeps s t → Keeps s (State.setRecs t n a xs).2 := by
  induction xs with
  | nil => intro t h; unfold State.setRecs; exact h
  | cons x xs ih =>
    intro t h
    unfold State.setRecs
    split
    · rename_i e1
      have h1 := h.setKvRec.snd e1
      exact ih h1
    · rename_i e1
      exact h.setKvRec.snd e1

theorem Keeps.reclaim (h : Keeps s t) {n} : Keeps s (t.reclaim n).2 := by
  unfold State.reclaim
  split
  · exact h
  · exact h.setRecs

theorem Keeps.raiseCounts (h : Keeps s t) {n} : Keeps s (t.raiseCounts n) := by
  unfold State.raiseCounts
  split
  · exact .foldl (fun _ _ h1 => h1.setKvRec) h
  · exact h

theorem Keeps.refuseArea (h : Keeps s t) {n} : Keeps s (t.refuseArea n) := h.raiseCounts.setCtx

theorem Keeps.writeRecords (h : Keeps s t) {n a} : Keeps s (t.writeRecords n a).2 := h.kvWrite

theorem Keeps.kvThen {r : Resp × State} {f : State → KvOut × State} (h : Keeps s r.2) (hf : ∀ u, Keeps s u → Keeps s (f u).2) :
    Keeps s (kvThen r f).2 := by
  obtain ⟨e, u⟩ := r
  cases e with
  | okay => exact hf u h
  | _ => exact h

theorem Keeps.reserve (h : Keeps s t) {n a keys spanKeys} : Keeps s (t.reserve n a keys spanKeys).2 := by
  unfold State.reserve
  extract_lets c r pages spans tables
  have h1 : Keeps s r.2 := h.freshValue
  clear_value r
  split <;> exact h1

theorem Keeps.fillPages (h : Keeps s t) {n a geo ini tokens xs} : Keeps s (t.fillPages n a geo ini tokens xs).2.2 := by
  fun_induction State.fillPages t n a geo ini tokens xs
  case case1 => exact h
  case case2 e1 ih => exact ih (h.kvWrite.snd e1)
  case case3 e1 => exact h.kvWrite.snd e1
  case case4 e1 _ _ e2 _ e3 ih => exact ih (((h.kvRead.snd2 e1).kvRead.snd2 e2).kvWrites.snd e3)
  case case5 e1 _ _ e2 _ _ _ e3 => exact ((h.kvRead.snd2 e1).kvRead.snd2 e2).kvWrites.snd e3
  case case6 e1 _ _ _ _ e2 => exact (h.kvRead.snd2 e1).kvRead.snd2 e2
  case case7 e1 => exact h.kvRead.snd2 e1

theorem Keeps.mapPages {n a xs} : ∀ {t}, Keeps s t → Keeps s (State.mapPages t n a xs).2 := by
  induction xs with
  | nil => intro t h; unfold State.mapPages; exact h
  | cons x xs ih =>
    intro t h
    unfold State.mapPages
    split
    · rename_i e1
      have h1 := h.setPte.snd e1
      split
      · rename_i e1
        have h1 := h1.setRecs.snd e1
        exact ih h1
      · rename_i e1
        exact h1.setRecs.snd e1
    · rename_i e1
      exact h.setPte.snd e1

theorem Keeps.finishMap (h : Keeps s t) {n a op} : Keeps s (t.finishMap n a op).2 :=
  h.takeTables.kvThen (fun _ h1 => h1.mapPages.kvThen (fun _ h2 => h2))

theorem Keeps.beginMap (h : Keeps s t) {n a geo op zero} : Keeps s (t.beginMap n a geo op zero).2 := by
  unfold State.beginMap
  dsimp only
  split
  · rename_i e1
    exact h.reserve.snd e1
  · rename_i e1
    have h1 := h.reserve.snd e1
    exact h1.iteSnd h1.finishMap

theorem Keeps.beginFork (h : Keeps s t) {n a geo op parent} : Keeps s (t.beginFork n a geo op parent).2 := by
  unfold State.beginFork
  dsimp only
  split
  · rename_i e1
    exact h.reserve.snd e1
  · rename_i e1
    have h1 := h.reserve.snd e1
    exact h1.setPtes.kvThen (fun _ h1 => h1)

theorem Keeps.beginUnmap (h : Keeps s t) {n a geo op} : Keeps s (t.beginUnmap n a geo op).2 := h.setPtes.kvThen (fun _ h1 => h1)

theorem Keeps.appendPtes (h : Keeps s t) {n a geo op} : Keeps s (t.appendPtes n a geo op).2 :=
  h.takeTables.kvThen (fun _ h1 => h1.setPtes.kvThen (fun _ h2 => h2))

theorem Keeps.beginAppend (h : Keeps s t) {n a geo op} : Keeps s (t.beginAppend n a geo op).2 := by
  unfold State.beginAppend
  refine h.iteSnd ?_
  split
  · rename_i e1
    exact h.reserve.snd e1
  · rename_i e1
    have h1 := h.reserve.snd e1
    exact h1.appendPtes.iteSnd h1

theorem Keeps.kvCopied (h : Keeps s t) {n op} : Keeps s (t.kvCopied n op).2 := by
  unfold State.kvCopied
  split
  · split
    · rename_i e1
      have h1 := h.fillPages.snd2 e1
      split
      · exact h1.appendPtes
      · exact h1.finishMap
    · rename_i e1
      exact h.fillPages.snd2 e1
    · rename_i e1
      exact h.fillPages.snd2 e1
  · exact h

theorem Keeps.dropHeld (h : Keeps s t) {n a seq} : Keeps s (t.dropHeld n a seq) := h.eq

theorem Keeps.dropTables (h : Keeps s t) {n a} : Keeps s (t.dropTables n a).2 := h.setCtx.kvWrites

theorem Keeps.kvFenced (h : Keeps s t) {n op} : Keeps s (t.kvFenced n op).2 := by
  unfold State.kvFenced
  split
  · split
    · exact h.dropHeld.setRecs.kvThen (fun _ h1 => h1)
    · exact h.dropHeld.setCtx.setRecs.kvThen (fun _ h1 => h1.dropTables.kvThen (fun _ h2 => h2))
    · dsimp only
      split
      · exact h.dropHeld.takeTables.kvThen (fun _ h1 => h1.setPtes.kvThen (fun _ h2 => h2))
      · exact h.dropHeld.setRecs.kvThen (fun _ h1 => h1)
    · exact h
  · exact h

theorem Keeps.beginKv (h : Keeps s t) {n op} : Keeps s (t.beginKv n op).2 := by
  unfold State.beginKv
  split
  · split
    · exact h.beginMap
    · exact h.beginFork
    · exact h.beginUnmap
    · exact h.beginAppend
  · exact h
  · exact h

/-! ## `Keeps` through the timetable

The operations of Machine/Timetable. -/

theorem Keeps.pinAction (h : Keeps s t) {n edge} : Keeps s (t.pinAction n edge) := h.eq

theorem Keeps.fire (h : Keeps s t) {i e' sched skipped} : Keeps s (t.fire i e' sched skipped) := by
  unfold State.fire
  refine .log ?_
  split
  · exact h.eq.pinAction
  · exact h.eq

theorem Keeps.fireEntry (h : Keeps s t) {i sched} : Keeps s (t.fireEntry i sched) := h.fire

theorem Keeps.writeTtbCtrl (h : Keeps s t) {w} : Keeps s (t.writeTtbCtrl w) := h.plainWrite.eq

theorem Keeps.swapBanks (h : Keeps s t) {b} : Keeps s (t.swapBanks b) := h.eq.setFld.lower

theorem Keeps.fireOwed (h : Keeps s t) {skips x i} : Keeps s (t.fireOwed skips x i) := by
  unfold State.fireOwed
  dsimp only
  split
  · refine .fireEntry ?_
    split
    · exact h.fire
    · exact h
  · split
    · exact h.fire
    · exact h

theorem Keeps.fireDue (h : Keeps s t) {skips x} : Keeps s (t.fireDue skips x) := by
  unfold State.fireDue
  split
  · exact h
  · exact .foldl (fun _ _ h1 => h1.fireOwed) h

theorem Keeps.swapUpTo (h : Keeps s t) {x} : Keeps s (t.swapUpTo x) := by
  unfold State.swapUpTo
  split
  · exact h.fireDue.swapBanks.ite h
  · exact h

theorem Keeps.writeTtbWindow (h : Keeps s t) {a w} : Keeps s (t.writeTtbWindow a w) := h.raise.ite h.eq

theorem Keeps.writeTtbCycle (h : Keeps s t) {b w} : Keeps s (t.writeTtbCycle b w) := h.raise.ite h.plainWrite

theorem Keeps.fireUpTo (h : Keeps s t) {x} : Keeps s (t.fireUpTo x) := h.swapUpTo.fireDue

theorem Keeps.countSkips (h : Keeps s t) {lo hi} {f : State → TtEntry → State} (hf : ∀ u x, Keeps s u → Keeps s (f u x)) :
    Keeps s (t.countSkips lo hi f) := by
  unfold State.countSkips
  split
  · exact h
  · exact .foldl (fun _ _ h1 => .ite (hf _ _ h1) h1) h

theorem Keeps.skipForward (h : Keeps s t) {t0 t1} : Keeps s (t.skipForward t0 t1) := by
  have h1 : ∀ {o : Option Nat} {lo : Nat}, Keeps s (match o with
      | some b => (t.countSkips lo b fun u _ => u.count Reg.TTB_SKIP Fld.TTB_SKIP_DROPPED 1).swapBanks b
      | none => t) := by
    intro o lo
    split
    · exact (h.countSkips fun _ _ h1 => h1.count).swapBanks
    · exact h
  unfold State.skipForward
  extract_lets drop start swap s1 lo s2 found
  have h2 : Keeps s s2 := .countSkips h1 fun _ _ h2 => h2.count.ite h2.count
  clear_value s2
  exact h2.eq

theorem Keeps.stepBack (h : Keeps s t) {t0} : Keeps s (t.stepBack t0) := h.eq

theorem Keeps.fusionStep (h : Keeps s t) {t0 t1} : Keeps s (t.fusionStep t0 t1) := h.eq

theorem Keeps.ttStep (h : Keeps s t) {t0 t1} : Keeps s (t.ttStep t0 t1) :=
  h.fireUpTo.fusionStep.skipForward.ite h.fireUpTo.fusionStep.stepBack

theorem Keeps.fireSkipped (h : Keeps s t) : Keeps s t.fireSkipped := h.ite h.eq.swapUpTo.fireDue

theorem Keeps.takeEvent (h : Keeps s t) {a x} (e : t.takeEvent a = some (x, u)) : Keeps s u := by
  unfold State.takeEvent at e
  split at e
  · exact (Prod.mk.inj (Option.some.inj e)).2 ▸ h.eq
  · cases e

/-! ## `Keeps` through the network gateway

The operations of Machine/Gateway. -/

theorem Keeps.tswErr (h : Keeps s t) : Keeps s t.tswErr := h.raise

theorem Keeps.writeGateList (h : Keeps s t) {a w} : Keeps s (t.writeGateList a w) := h.tswErr.ite h.eq

theorem Keeps.writeGcl (h : Keeps s t) {p w} : Keeps s (t.writeGcl p w) := h.lower.setFld.ite h

theorem Keeps.hifIndices (h : Keeps s t) : Keeps s t.hifIndices := .foldl (fun _ _ h1 => h1.setReg.setReg.setReg.setReg) h

theorem Keeps.startHif (h : Keeps s t) : Keeps s t.startHif := by
  unfold State.startHif
  dsimp only
  split
  · rename_i e1
    have h1 := h.fetch.snd2 e1
    exact h1.eq.hifIndices.ite h1.lower.raise
  · rename_i e1
    have h1 := h.fetch.snd2 e1
    exact h1.lower.raise

theorem Keeps.stopHif (h : Keeps s t) : Keeps s t.stopHif := .foldl (fun _ _ h1 => h1.setReg) h.eq.lower

theorem Keeps.writeHifCtrl (h : Keeps s t) {w} : Keeps s (t.writeHifCtrl w) := by
  unfold State.writeHifCtrl
  dsimp only
  split
  · exact h.plainWrite.startHif
  · exact h.plainWrite.stopHif
  · exact h.plainWrite

theorem Keeps.writeHifDesc (h : Keeps s t) {a w} : Keeps s (t.writeHifDesc a w) := h.ite h.plainWrite

theorem Keeps.hifIgnored (h : Keeps s t) : Keeps s t.hifIgnored := h.count

theorem Keeps.writeHifTail (h : Keeps s t) {tx q w} : Keeps s (t.writeHifTail tx q w) := by
  unfold State.writeHifTail
  dsimp only
  split
  · exact h.hifIgnored
  · exact h.setReg.ite h.hifIgnored

theorem Keeps.hifLost (h : Keeps s t) : Keeps s t.hifLost := h.count

theorem Keeps.hifMsi (h : Keeps s t) {d} : Keeps s (t.hifMsi d) := h.sendMsi

theorem Keeps.hifReceive (h : Keeps s t) {f} : Keeps s (t.hifReceive f) := by
  unfold State.hifReceive
  split
  · exact h.hifLost
  · refine h.hifLost.ite ?_
    dsimp only
    split
    · rename_i e1
      have h1 := h.fetch.snd2 e1
      split
      · rename_i e1
        have h1 := h1.put.snd e1
        split
        · rename_i e1
          have h1 := h1.eq.put.snd e1
          exact h1.setReg.hifMsi
        · rename_i e1
          have h1 := h1.eq.put.snd e1
          exact h1.hifLost
      · rename_i e1
        have h1 := h1.put.snd e1
        exact h1.hifLost
    · rename_i e1
      have h1 := h.fetch.snd2 e1
      exact h1.hifLost

theorem Keeps.writeTunnel (h : Keeps s t) {a w} : Keeps s (t.writeTunnel a w) := h.eq

theorem Keeps.tunDrop (h : Keeps s t) {t' n} : Keeps s (t.tunDrop t' n) := h.eq

theorem Keeps.listen (h : Keeps s t) {p t'} : Keeps s (t.listen p t') :=
  .ite (.foldl (fun _ _ h1 => h1.eq.ite h1.tunDrop) h.eq.tunDrop) h

theorem Keeps.listeners (h : Keeps s t) {b} : Keeps s (t.listeners b) := by
  unfold State.listeners
  split
  · exact .foldl (fun _ _ h1 => h1.listen) h
  · exact h

theorem Keeps.drainPort {p fuel} : ∀ {t}, Keeps s t → Keeps s (State.drainPort t p fuel) := by
  induction fuel with
  | zero => intro t h; unfold State.drainPort; exact h
  | succ fuel ih =>
    intro t h
    unfold State.drainPort
    split
    · exact h
    · exact ih (h.eq.hifReceive.ite h.eq)

theorem Keeps.forward (h : Keeps s t) {f mask} : Keeps s (t.forward f mask) :=
  .foldl (fun _ _ h1 => h1.eq.drainPort.ite h1) h.listeners

theorem Keeps.sendBad (h : Keeps s t) {f p} : Keeps s (t.sendBad f p) := h.eq

theorem Keeps.drainPorts (h : Keeps s t) : Keeps s t.drainPorts := .foldl (fun _ _ h1 => h1.drainPort) h

/-! ## `Keeps` through CAN

The operations of Machine/Can. -/

theorem Keeps.canFetch (h : Keeps s t) {n ctx iova len} : Keeps s (t.canFetch n ctx iova len).2.2 := h.readPhys.iteSnd2 h.fetch

theorem Keeps.canPut (h : Keeps s t) {n ctx iova bs} : Keeps s (t.canPut n ctx iova bs).2 := h.writePhys.iteSnd h.put

theorem Keeps.canIrq (h : Keeps s t) {n d} : Keeps s (t.canIrq n d) := h.interrupt.ite h.sendMsi

theorem Keeps.setCan (h : Keeps s t) {n x} : Keeps s (t.setCan n x) := h.eq

theorem Keeps.startCan (h : Keeps s t) {n} : Keeps s (t.startCan n) := by
  unfold State.startCan
  dsimp only
  split
  · rename_i e1
    have h1 := h.canFetch.snd2 e1
    split
    · exact h1.setCan.setReg.setReg.setReg.setReg.ite h1.lower.raise
    · exact h1.lower.raise
  · rename_i e1
    have h1 := h.canFetch.snd2 e1
    exact h1.lower.raise

theorem Keeps.stopCan (h : Keeps s t) {n} : Keeps s (t.stopCan n) := h.setCan.lower

theorem Keeps.writeCanCtrl (h : Keeps s t) {n w} : Keeps s (t.writeCanCtrl n w) := by
  unfold State.writeCanCtrl
  dsimp only
  split
  · exact h.plainWrite.startCan
  · exact h.plainWrite.stopCan
  · exact h.plainWrite

theorem Keeps.writeCanDesc (h : Keeps s t) {n a w} : Keeps s (t.writeCanDesc n a w) := h.ite h.plainWrite

theorem Keeps.canIgnored (h : Keeps s t) {n} : Keeps s (t.canIgnored n) := h.count

theorem Keeps.writeCanTail (h : Keeps s t) {n w} : Keeps s (t.writeCanTail n w) := by
  unfold State.writeCanTail
  dsimp only
  split
  · exact h.setFld.ite h.canIgnored
  · exact h.canIgnored

theorem Keeps.writeCanHead (h : Keeps s t) {n w} : Keeps s (t.writeCanHead n w) := by
  unfold State.writeCanHead
  dsimp only
  split
  · exact h.canIgnored
  · exact h.canIgnored.ite h.setCan.setFld

theorem Keeps.canCounters (h : Keeps s t) {n sent tec rec_} : Keeps s (t.canCounters n sent tec rec_) :=
  h.setFld.setFld.setFld.ite h.setFld.setFld.setFld.raise.report

theorem Keeps.txFrame (h : Keeps s t) {n d e'} : Keeps s (t.txFrame n d e').2.2 := h.iteSnd2 h.canFetch

theorem Keeps.canSent (h : Keeps s t) {n sent f} : Keeps s (t.canSent n sent f) := h.setCan.ite h

theorem Keeps.talk (h : Keeps s t) {t'} : Keeps s (t.talk t') := h.eq.forward

theorem Keeps.collect (h : Keeps s t) {n f t'} : Keeps s (t.collect n f t') := .ite (h.tunDrop.ite (h.eq.talk.ite h.eq)) h

theorem Keeps.canReceive (h : Keeps s t) {n d f} : Keeps s (t.canReceive n d f) := by
  unfold State.canReceive
  refine h.count.ite ?_
  dsimp only
  split
  · split
    · rename_i e1
      have h1 := (Keeps.canPut (h.canPut.iteSnd h)).snd e1
      exact h1.setCan.setFld.canIrq
    · rename_i e1
      exact (Keeps.canPut (h.canPut.iteSnd h)).snd e1
  · exact h.canPut.iteSnd h

/-! ## `Keeps` through the display heads

The operations of Machine/Display. -/

theorem Keeps.startHead (h : Keeps s t) {n} : Keeps s (t.startHead n) := by
  unfold State.startHead
  dsimp only
  split
  · rename_i e1
    have h1 := h.fetch.snd2 e1
    exact h1.setHead.setReg.setReg.setReg.setReg.ite h1.lower.raise
  · rename_i e1
    have h1 := h.fetch.snd2 e1
    exact h1.lower.raise

theorem Keeps.stopHead (h : Keeps s t) {n} : Keeps s (t.stopHead n) := h.setHead.lower.lower.setFld

theorem Keeps.writeDspCtrl (h : Keeps s t) {n w} : Keeps s (t.writeDspCtrl n w) := by
  unfold State.writeDspCtrl
  dsimp only
  split
  · exact h.plainWrite.startHead
  · exact h.plainWrite.stopHead
  · exact h.plainWrite

theorem Keeps.writeDspDesc (h : Keeps s t) {n a w} : Keeps s (t.writeDspDesc n a w) := h.ite h.plainWrite

theorem Keeps.dspIgnored (h : Keeps s t) {n} : Keeps s (t.dspIgnored n) := h.count

theorem Keeps.writeFlipTail (h : Keeps s t) {n w} : Keeps s (t.writeFlipTail n w) := by
  unfold State.writeFlipTail
  dsimp only
  split
  · exact h.setFld.ite h.dspIgnored
  · exact h.dspIgnored

theorem Keeps.writeFlipHead (h : Keeps s t) {n w} : Keeps s (t.writeFlipHead n w) := h.dspIgnored.ite h.setFld

theorem Keeps.flipEnd (h : Keeps s t) {n d b e'} : Keeps s (t.flipEnd n d b e') := by
  unfold State.flipEnd
  split
  · rename_i e1
    have h1 := h.cqPut.snd e1
    exact h1.setHead.setFld.sendMsi.ite h1.setHead.setFld
  · rename_i e1
    exact h.cqPut.snd e1

theorem Keeps.flipNext (h : Keeps s t) {n d} : Keeps s (t.flipNext n d) := h.setHead.setFld

theorem Keeps.examineFlip {n d fuel} : ∀ {t}, Keeps s t → Keeps s (State.examineFlip t n d fuel) := by
  induction fuel with
  | zero => intro t h; unfold State.examineFlip; exact h
  | succ fuel ih =>
    intro t h
    unfold State.examineFlip
    refine h.ite ?_
    split
    · rename_i e1
      have h1 := h.fetch.snd2 e1
      split
      · exact ih h1.flipEnd.flipNext
      · refine .ite (.setHead (.flipNext (.iteSnd ?_ h1))) (.iteSnd ?_ h1)
        · split
          · rename_i e1
            exact h1.fetch.snd2 e1
          · rename_i e1
            exact h1.fetch.snd2 e1
        · split
          · rename_i e1
            exact h1.fetch.snd2 e1
          · rename_i e1
            exact h1.fetch.snd2 e1
    · rename_i e1
      exact h.fetch.snd2 e1

/-! ## `Keeps` through DDR, the system cache and the wheel

The operations of Machine/Memory. -/

theorem Keeps.endPass (h : Keeps s t) {n st p} : Keeps s (t.endPass n st p) :=
  h.setReg.setReg.setReg.setReg.setReg.setReg.setReg.setReg.setReg.setDmc.lower.raise.interrupt

theorem Keeps.writeRangeCtrl (h : Keeps s t) {n w} : Keeps s (t.writeRangeCtrl n w) := by
  unfold State.writeRangeCtrl
  refine h.ite ?_
  dsimp only
  split
  · exact .ite (.endPass (h.raise.ite h)) (h.raise.ite h)
  · exact h.ite (h.raise.ite (h.endPass.ite h.setDmc.raise))

theorem Keeps.writeMark (h : Keeps s t) {n w} : Keeps s (t.writeMark n w) := h.ite (h.plainWrite.ite h.plainWrite.setDmc)

theorem Keeps.passSlot (h : Keeps s t) {sub refresh scrub burst} : Keeps s (t.passSlot sub refresh scrub burst) := h.eq

theorem Keeps.slcError (h : Keeps s t) {l err write} : Keeps s (t.slcError l err write) := by
  unfold State.slcError
  dsimp only
  split
  · exact h
  · exact h.eq.report
  · exact h.eq.report
  · exact h.ite h.eq.report
  · exact .report (h.eq.ite h.eq.store)

theorem Keeps.writeFlush (h : Keeps s t) {w} : Keeps s (t.writeFlush w) := h.plainWrite

theorem Keeps.writeHold (h : Keeps s t) {w} : Keeps s (t.writeHold w) := h.plainWrite.ite h.plainWrite.raise

theorem Keeps.takeHold (h : Keeps s t) : Keeps s t.takeHold := h.eq.lower.ite h

theorem Keeps.bufferNow (h : Keeps s t) {a} : Keeps s (t.bufferNow a) := by
  unfold State.bufferNow
  split
  · exact h.eq
  · exact h.setHead.setFld
  · exact h

theorem Keeps.writeWheel (h : Keeps s t) {a w} : Keeps s (t.writeWheel a w) := h.cfgErr.ite (.setReg (h.ite h.cfgErr))

/-! ## `Keeps` through graphics

The operations of Machine/Graphics. -/

theorem Keeps.gqIgnored (h : Keeps s t) {q} : Keeps s (t.gqIgnored q) := h.count

theorem Keeps.startQueue (h : Keeps s t) {q} : Keeps s (t.startQueue q) := by
  unfold State.startQueue
  dsimp only
  split
  · rename_i e1
    have h1 := h.fetch.snd2 e1
    exact h1.setGfxQueue.setReg.setReg.setReg.setReg.ite h1.lower.raise
  · rename_i e1
    have h1 := h.fetch.snd2 e1
    exact h1.lower.raise

theorem Keeps.gqFence (h : Keeps s t) {q f v} : Keeps s (t.gqFence q f v) := h.setGfxQueue.put

theorem Keeps.gqEnd (h : Keeps s t) {q h' e'} : Keeps s (t.gqEnd q h' e') := by
  unfold State.gqEnd
  dsimp only
  split
  · rename_i e1
    have h1 := h.setGfxQueue.cqPut.snd e1
    exact .ite (.sendMsi (h1.setGfxQueue.setFld.gqFence.ite h1.setGfxQueue.setFld)) (h1.setGfxQueue.setFld.gqFence.ite
        h1.setGfxQueue.setFld)
  · rename_i e1
    exact h.setGfxQueue.cqPut.snd e1

theorem Keeps.gqRead {q fuel} : ∀ {t}, Keeps s t → Keeps s (State.gqRead t q fuel) := by
  induction fuel with
  | zero => intro t h; unfold State.gqRead; exact h
  | succ fuel ih =>
    intro t h
    unfold State.gqRead
    refine h.ite ?_
    split
    · rename_i e1
      have h1 := h.fetch.snd2 e1
      refine ih ?_
      split
      · exact h1.setGfxQueue.setFld.setGfxQueue
      · exact h1.setGfxQueue.setFld.gqEnd
    · rename_i e1
      exact h.fetch.snd2 e1

theorem Keeps.gfxRead (h : Keeps s t) : Keeps s t.gfxRead := .foldl (fun _ _ h1 => h1.gqRead) h

theorem Keeps.writeGqTail (h : Keeps s t) {q w} : Keeps s (t.writeGqTail q w) := h.setFld.gfxRead.ite h.gqIgnored

theorem Keeps.writeGqHead (h : Keeps s t) {q w} : Keeps s (t.writeGqHead q w) := h.gqIgnored.ite h.setGfxQueue.setFld.gfxRead

theorem Keeps.resetQueue (h : Keeps s t) {q} : Keeps s (t.resetQueue q) := by
  unfold State.resetQueue
  refine .setFld (.foldl (fun _ _ h1 => h1.gqEnd) (.setGfxQueue ?_))
  split
  · exact h.eq.gqEnd.ite h
  · exact h

theorem Keeps.stopQueue (h : Keeps s t) {q} : Keeps s (t.stopQueue q) := h.resetQueue.setGfxQueue.lower

theorem Keeps.writeGqCtrl (h : Keeps s t) {q w} : Keeps s (t.writeGqCtrl q w) := by
  unfold State.writeGqCtrl
  dsimp only
  split
  · exact h.plainWrite.startQueue
  · exact h.plainWrite.stopQueue
  · exact h.plainWrite

theorem Keeps.writeGqDesc (h : Keeps s t) {q a w} : Keeps s (t.writeGqDesc q a w) := h.ite h.plainWrite

theorem Keeps.readEach {req place n} : ∀ {t k}, Keeps s t → Keeps s (State.readEach t req place k n).2.2 := by
  induction n with
  | zero => intro t k h; unfold State.readEach; exact h
  | succ n ih =>
    intro t k h
    unfold State.readEach
    split
    · rename_i e1
      have h1 := h.fetch.snd2 e1
      exact ih h1
    · rename_i e1
      exact h.fetch.snd2 e1

theorem Keeps.writeEach {req place xs} : ∀ {t k}, Keeps s t → Keeps s (State.writeEach t req place k xs).2 := by
  induction xs with
  | nil => intro t k h; unfold State.writeEach; exact h
  | cons x xs ih =>
    intro t k h
    unfold State.writeEach
    split
    · rename_i e1
      have h1 := h.put.snd e1
      exact ih h1
    · rename_i e1
      exact h.put.snd e1

theorem Keeps.firstDepth (h : Keeps s t) {req b tile} : Keeps s (t.firstDepth req b tile).2.2 := h.iteSnd2 h.readEach

theorem Keeps.holdTile (h : Keeps s t) {core n c} : Keeps s (t.holdTile core n c) := h.eq

theorem Keeps.renderDepth (h : Keeps s t) {bins tile} : Keeps s (t.renderDepth bins tile) := by
  unfold State.renderDepth
  split
  · exact h
  · extract_lets b r
    have hr : Keeps s r.2.2 := by
      simp only [r]
      split
      · exact h
      · exact h.firstDepth
    clear_value r
    refine h.ite ?_
    split <;> exact hr.eq

theorem Keeps.renderColour (h : Keeps s t) {bins tile} : Keeps s (t.renderColour bins tile).2 := by
  unfold State.renderColour
  split
  · exact h
  · refine h.iteSnd ?_
    dsimp only
    split
    · rename_i e1
      have h1 := (h.readEach.iteSnd2 h).snd2 e1
      exact h1.holdTile
    · rename_i e1
      have h1 := (h.readEach.iteSnd2 h).snd2 e1
      exact h1.eq

theorem Keeps.storeTile (h : Keeps s t) {tile place c} : Keeps s (t.storeTile tile place c) := by
  unfold State.storeTile
  split
  · exact h
  · split
    · rename_i e1
      exact h.writeEach.snd e1
    · rename_i e1
      have h1 := h.writeEach.snd e1
      exact h1.eq

theorem Keeps.partialTile (h : Keeps s t) {bins tile} : Keeps s (t.partialTile bins tile) := by
  unfold State.partialTile
  refine .renderDepth ?_
  split
  · exact h.renderColour.eq.storeTile
  · exact h.renderColour

theorem Keeps.partialRender (h : Keeps s t) {bins} : Keeps s (t.partialRender bins) := .eq (.foldl (fun _ _ h1 => h1.partialTile) h)

theorem Keeps.finalTile (h : Keeps s t) {tile} : Keeps s (t.finalTile tile) := by
  unfold State.finalTile
  split
  · exact h
  · dsimp only
    split
    · refine .renderDepth ?_
      split
      · exact h.renderColour.storeTile
      · exact h.renderColour
    · refine .ite (.renderDepth ?_) (.storeTile (.renderDepth ?_))
      · split
        · exact h.renderColour.storeTile
        · exact h.renderColour
      · split
        · exact h.renderColour.storeTile
        · exact h.renderColour

theorem Keeps.freeAt (h : Keeps s t) {req place n} : Keeps s (t.freeAt req place n) := h.writeEach.eq

theorem Keeps.undefinePass (h : Keeps s t) {g} : Keeps s (t.undefinePass g) := by
  refine h.ite (.foldl (fun u tile h1 => ?_) h)
  extract_lets req s1 s2
  have h2 : Keeps s s2 := h1.freeAt.freeAt.ite h1.freeAt
  exact h2.ite h2.freeAt

theorem Keeps.finalRender (h : Keeps s t) : Keeps s t.finalRender := by
  unfold State.finalRender
  split
  · exact .ite (.foldl (fun _ _ h1 => h1.finalTile) h) h
  · exact h

theorem Keeps.gqPop (h : Keeps s t) {q} : Keeps s (t.gqPop q) := h.setGfxQueue

theorem Keeps.gfxTake (h : Keeps s t) {q kind} {f : HeldEntry → State → State} (hf : ∀ x0 u, Keeps s u → Keeps s (f x0 u)) :
    Keeps s (t.gfxTake q kind f) := by
  unfold State.gfxTake
  dsimp only
  split
  · exact .ite (hf _ _ h.gfxRead.gqPop) h.gfxRead
  · exact h.gfxRead

theorem Keeps.writePool (h : Keeps s t) {p} : Keeps s (t.writePool p) := by
  unfold State.writePool
  split
  · exact h
  · refine h.ite ?_
    split
    · rename_i e1
      have h1 := h.put.snd e1
      exact h1.eq
    · rename_i e1
      have h1 := h.put.snd e1
      exact h1.eq

theorem Keeps.gfxStart (h : Keeps s t) {q h' binned cores writes} : Keeps s (t.gfxStart q h' binned cores writes) :=
  .writePool (.foldl (fun _ _ h1 => h1.writePool.partialRender) h.eq)

theorem Keeps.gfxStores {req value xs} : ∀ {t k}, Keeps s t → Keeps s (State.gfxStores t req value k xs).2 := by
  induction xs with
  | nil => intro t k h; unfold State.gfxStores; exact h
  | cons x xs ih =>
    intro t k h
    unfold State.gfxStores
    split
    · rename_i e1
      have h1 := h.put.snd e1
      exact ih h1
    · rename_i e1
      exact h.put.snd e1

theorem Keeps.coreOffline (h : Keeps s t) {k} : Keeps s (t.coreOffline k) := h.setFld.report

theorem Keeps.gfxEnd (h : Keeps s t) {given} : Keeps s (t.gfxEnd given) := by
  unfold State.gfxEnd
  extract_lets early s0
  clear_value early
  have h0 : Keeps s s0 := by
    simp only [s0]
    split
    · exact h
    · exact h.finalRender
  clear_value s0
  split
  · exact h0
  · extract_lets core req r s2 s3 s1 pass deadline st
    have hr : Keeps s r.2 := by
      simp only [r]
      split
      · exact h0
      · split
        · rename_i e1
          exact h0.gfxStores.snd e1
        · rename_i e1
          exact h0.gfxStores.snd e1
    have h1 : Keeps s s1 := by
      simp only [s1]
      split
      · exact hr
      · have h3 : Keeps s s3 := hr.undefinePass.gfxStores
        clear_value s3
        exact h3.eq
    clear_value s1
    exact (Keeps.gqEnd h1.eq).gfxRead

theorem Keeps.tileFault (h : Keeps s t) {k word bistPasses} : Keeps s (t.tileFault k word bistPasses) :=
  h.eq.report.ite h.eq.report.coreOffline

/-! ## `Keeps` through the region guards

The operations of Machine/Guards. -/

theorem Keeps.guarded (h : Keeps s t) {req ty pa len} : Keeps s (t.guarded req ty pa len) := by
  unfold State.guarded
  split
  · rename_i e1
    have h1 := h.judge.snd e1
    exact .ite (.answer (h1.snoop.hartFill.ite h1)) h1.readMemAs.answer
  · rename_i e1
    have h1 := h.judge.snd e1
    exact h1.answer

theorem Keeps.writeRegion (h : Keeps s t) {a w} : Keeps s (t.writeRegion a w) := h.raise.ite h.plainWrite.raise

theorem Keeps.writeFence (h : Keeps s t) {t' w} : Keeps s (t.writeFence t' w) := .ite (h.raise.ite h.raise) h

theorem Keeps.commitRegion (h : Keeps s t) {t' r} : Keeps s (t.commitRegion t' r) := .eq (h.setFld.raise.ite h)

/-! ## `Keeps` through the application cores

The operations of Machine/Harts. -/

theorem Keeps.setHartW (h : Keeps s t) {n w} : Keeps s (t.setHartW n w) := h.setFld

theorem Keeps.onHart (h : Keeps s t) {n f} : Keeps s (t.onHart n f) := h.setHart.setHart.ite h.setHart

theorem Keeps.fileBits (h : Keeps s t) {n src} : Keeps s (t.fileBits n src) := h.setHart

theorem Keeps.attention (h : Keeps s t) {n} : Keeps s (t.attention n) := .ite (h.fileBits.fileBits.ite h) h.fileBits

theorem Keeps.interrupted (h : Keeps s t) {n} : Keeps s (t.interrupted n) := by
  unfold State.interrupted
  refine h.ite ?_
  split
  · exact h.onHart
  · exact h

theorem Keeps.writeFile (h : Keeps s t) {page sel v} : Keeps s (t.writeFile page sel v) := by
  unfold State.writeFile
  refine .ite ?_ (h.eq.ite (h.eq.ite h))
  split
  · exact h.eq
  · exact h

theorem Keeps.writeOther (h : Keeps s t) {n c v} : Keeps s (t.writeOther n c v) := by
  unfold State.writeOther
  dsimp only
  split
  · exact h.ite h.writeFile.attention
  · exact h.onHart

theorem Keeps.csrAccess (h : Keeps s t) {n x value} : Keeps s (t.csrAccess n x value) := by
  unfold State.csrAccess
  dsimp only
  split
  · exact h.onHart
  · split
    · exact h.onHart
    · exact h.onHart
    · exact h.onHart.ite h.onHart.writeOther

theorem Keeps.dropLine (h : Keeps s t) {c line} : Keeps s (t.dropLine c line) := h.eq

theorem Keeps.lineFill (h : Keeps s t) {hart type line} : Keeps s (t.lineFill hart type line).2 := by
  unfold State.lineFill
  dsimp only
  split
  · rename_i e1
    have h1 := h.judge.snd e1
    exact h1.ddrRead
  · exact h.judge

theorem Keeps.lineError (h : Keeps s t) {hart type x} : Keeps s (t.lineError hart type x).2 :=
  h.dropLine.report.iteSnd h.dropLine.report.lineFill

theorem Keeps.restartHart (h : Keeps s t) {n} : Keeps s (t.restartHart n) := h.setHart.setHartW.releaseSems

theorem Keeps.emptyL1 (h : Keeps s t) {n} : Keeps s (t.emptyL1 n) := h.eq

theorem Keeps.flushL1 (h : Keeps s t) {p} : Keeps s (t.flushL1 p) := .emptyL1 (.emptyL1 (.foldl (fun _ _ h1 => h1.fillL2) h))

theorem Keeps.resetPair (h : Keeps s t) {p} : Keeps s (t.resetPair p) := by
  unfold State.resetPair
  extract_lets s1 again
  have h1 : Keeps s s1 := h.emptyL1.emptyL1
  have ha : ∀ {u n}, Keeps s u → Keeps s (again u n) := fun h2 => h2.restartHart.ite h2
  exact (ha (ha h1)).setFld

theorem Keeps.lksync (h : Keeps s t) {n rd reserved} : Keeps s (t.lksync n rd reserved) := by
  unfold State.lksync
  refine h.interrupted.ite (h.onHart.ite ?_)
  split
  · exact h.setHart
  · exact h.onHart
  · exact h.setHart.setHart.setFld.attention
  · exact h.setHart.setFld.ite h.setHart
  · exact h

theorem Keeps.forceBack (h : Keeps s t) {n code} : Keeps s (t.forceBack n code) := h.setHart.setHartW.attention

theorem Keeps.forceBackOrWait (h : Keeps s t) {n code} : Keeps s (t.forceBackOrWait n code) := h.setHart.ite h.forceBack

theorem Keeps.failSecure (h : Keeps s t) {late} : Keeps s (t.failSecure late) :=
  h.ite (.report (.setReg (.setReg (.foldl (fun _ _ h1 => h1.forceBackOrWait.ite h1) h.raise))))

theorem Keeps.gateTarget (h : Keeps s t) {n t'} : Keeps s (t.gateTarget n t').2 := by
  unfold State.gateTarget
  extract_lets req
  split
  · exact h
  · exact .iteSnd h.readMemAs h

theorem Keeps.enterSecure (h : Keeps s t) {n t'} : Keeps s (t.enterSecure n t') := h.setHart.setHartW.attention

theorem Keeps.wgateOn (h : Keeps s t) {n rs1 reserved} : Keeps s (t.wgateOn n rs1 reserved) :=
  .ite (h.setHart.ite h.setHart.setHartW.attention) (h.setHart.ite (h.setHart.ite (h.gateTarget.enterSecure.ite
      h.gateTarget.setHart.raise)))

theorem Keeps.wgate (h : Keeps s t) {n rs1 reserved} : Keeps s (t.wgate n rs1 reserved) :=
  h.interrupted.ite (h.wgateOn.wgateOn.ite h.wgateOn)

theorem Keeps.writeFail (h : Keeps s t) {w} : Keeps s (t.writeFail w) := h.plainWrite.failSecure.ite h.plainWrite

theorem Keeps.lockEntry (h : Keeps s t) {p} : Keeps s (t.lockEntry p) :=
  h.setHart.setHart.setFld.ite h.setHart.setHart.setFld.setFld.setHartW.attention.flushL1

theorem Keeps.writePair (h : Keeps s t) {p w} : Keeps s (t.writePair p w) := h.plainWrite.resetPair.ite h.plainWrite

theorem Keeps.writeOwner (h : Keeps s t) {k w} : Keeps s (t.writeOwner k w) := h.ite (h.plainWrite.ite h.cfgErr)

theorem Keeps.noteHold (h : Keeps s t) {d} : Keeps s (t.noteHold d) := h.raise.ite h

theorem Keeps.noteHolds (h : Keeps s t) : Keeps s t.noteHolds := .foldl (fun _ _ h1 => h1.noteHold) h

theorem Keeps.writeShold (h : Keeps s t) {half w} : Keeps s (t.writeShold half w) := h.ite h.setReg.noteHolds

theorem Keeps.writeHhold (h : Keeps s t) {half w} : Keeps s (t.writeHhold half w) := h.setReg.noteHolds

theorem Keeps.deliver (h : Keeps s t) {page ident w} : Keeps s (t.deliver page ident w) :=
  .ite (h.raise.eq.report.ite h.raise) (h.ite (.ite (.attention (h.ite h.eq)) (.ite (.attention (h.ite h.eq)) (h.ite h.eq))))

/-! ## `Keeps` through sensor fusion

The operations of Machine/Fusion. -/

theorem Keeps.setInstant (h : Keeps s t) {i x} : Keeps s (t.setInstant i x) := h.eq

theorem Keeps.updateLock (h : Keeps s t) : Keeps s t.updateLock := h.setFld

theorem Keeps.writeFusWindow (h : Keeps s t) {a w} : Keeps s (t.writeFusWindow a w) := by
  unfold State.writeFusWindow
  exact h.eq.ite (h.raise.ite h.eq)

theorem Keeps.lidarFrames {cls xs} : ∀ {t}, Keeps s t → Keeps s (State.lidarFrames t cls xs).2.2 := by
  induction xs with
  | nil => intro t h; unfold State.lidarFrames; exact h
  | cons x xs ih =>
    intro t h
    unfold State.lidarFrames
    split
    · rename_i e1
      have h1 := h.fetch.snd2 e1
      exact ih h1
    · rename_i e1
      exact h.fetch.snd2 e1

theorem Keeps.productBody (h : Keeps s t) {p r} : Keeps s (t.productBody p r).2.2.2 := by
  unfold State.productBody
  dsimp only
  split
  · split
    · rename_i e
      exact h.lidarFrames.snd2 e
    · rename_i e
      exact h.lidarFrames.snd2 e
  · exact h

theorem Keeps.fusionCqe (h : Keeps s t) {i r e'} : Keeps s (t.fusionCqe i r e') := by
  unfold State.fusionCqe
  dsimp only
  split
  · rename_i e1
    have h1 := h.cqPut.snd e1
    exact h1.setInstant.sendMsi
  · rename_i e1
    exact h.cqPut.snd e1

theorem Keeps.writeProduct (h : Keeps s t) {p r idx seq} : Keeps s (t.writeProduct p r idx seq) := by
  unfold State.writeProduct
  dsimp only
  split
  · rename_i e1
    have h1 := h.fetch.snd2 e1
    split
    · rename_i e1
      have h1 := h1.productBody.snd3 e1
      split
      · rename_i e1
        have h1 := h1.put.snd e1
        exact h1.fusionCqe
      · rename_i e1
        have h1 := h1.put.snd e1
        exact h1.fusionCqe
    · rename_i e1
      have h1 := h1.productBody.snd3 e1
      exact h1.fusionCqe
  · rename_i e1
    have h1 := h.fetch.snd2 e1
    exact h1.fusionCqe

theorem Keeps.productOut (h : Keeps s t) {p} : Keeps s (t.productOut p) :=
  .updateLock (h.eq.setInstant.ite h.eq.writeProduct.setInstant)

theorem Keeps.tryOut (h : Keeps s t) {p} : Keeps s (t.tryOut p) := h.productOut.ite h

theorem Keeps.countUnpaired (h : Keeps s t) {i} : Keeps s (t.countUnpaired i) := h.setInstant

theorem Keeps.setProduct (h : Keeps s t) {p q} : Keeps s (t.setProduct p q) := h.eq

theorem Keeps.joinProduct (h : Keeps s t) {p x} : Keeps s (t.joinProduct p x) := by
  unfold State.joinProduct
  dsimp only
  split
  · exact h.countUnpaired
  · split
    · exact h.setProduct.tryOut
    · exact h.setProduct.tryOut.ite (h.ite (.ite (.tryOut (.setProduct (h.ite h.countUnpaired))) (h.ite h.countUnpaired)))

theorem Keeps.lateSample (h : Keeps s t) {i r x t'} : Keeps s (t.lateSample i r x t') := by
  unfold State.lateSample
  refine h.setInstant.ite ?_
  dsimp only
  split
  · exact h.setInstant.joinProduct
  · exact h.setInstant.ite h.setInstant.setInstant

theorem Keeps.followPhase (h : Keeps s t) {i r sensor fper phi} : Keeps s (t.followPhase i r sensor fper phi) := by
  unfold State.followPhase
  dsimp only
  split
  · exact h.eq
  · exact h.eq.ite (h.eq.fusionCqe.ite h.eq)

theorem Keeps.pairSample (h : Keeps s t) {x frozen lowest fper i} : Keeps s (t.pairSample x frozen lowest fper i) := by
  unfold State.pairSample
  dsimp only
  split
  · exact h.countUnpaired
  · refine h.countUnpaired.ite (h.countUnpaired.ite (.ite (.setInstant (h.followPhase.ite h)) ?_))
    split
    · exact .joinProduct (h.followPhase.ite h)
    · split
      · exact .ite (.lateSample (h.followPhase.ite h)) (.countUnpaired (h.followPhase.ite h))
      · exact .countUnpaired (h.followPhase.ite h)

theorem Keeps.offerSample (h : Keeps s t) {x frozen fper} : Keeps s (t.offerSample x frozen fper) :=
  .ite (.eq (.foldl (fun _ _ h1 => h1.pairSample) h)) h

theorem Keeps.reviveInstants (h : Keeps s t) : Keeps s t.reviveInstants := .foldl (fun _ _ h1 => h1.setInstant) h

theorem Keeps.fusionSwap (h : Keeps s t) : Keeps s t.fusionSwap := by
  unfold State.fusionSwap
  exact h.lower.raise.ite h.lower.setFld.raise.reviveInstants.updateLock

theorem Keeps.resolveWaiting (h : Keeps s t) {i r t' skipped x} : Keeps s (t.resolveWaiting i r t' skipped x) := by
  unfold State.resolveWaiting
  refine h.countUnpaired.ite ?_
  dsimp only
  split
  · exact h.joinProduct
  · exact h.ite h.lateSample

theorem Keeps.writeFusCtrl (h : Keeps s t) {w} : Keeps s (t.writeFusCtrl w) :=
  .ite (h.plainWrite.lower.cfgErr.ite (.foldl (fun _ _ h1 => h1.setInstant.setReg) h.plainWrite)) h.plainWrite

theorem Keeps.writeRephase (h : Keeps s t) {w} : Keeps s (t.writeRephase w) := h.plainWrite.eq.ite h.plainWrite

theorem Keeps.writeFusBufTail (h : Keeps s t) {i w} : Keeps s (t.writeFusBufTail i w) := h.plainWrite.ite h

theorem Keeps.stopInstants (h : Keeps s t) {n} : Keeps s (t.stopInstants n) := by
  unfold State.stopInstants
  extract_lets names s1 keep
  have h1 : Keeps s s1 := .foldl (fun _ _ h1 => h1.setInstant.ite h1) h
  clear_value s1
  exact h1.eq.updateLock

/-! ## `Keeps` through camera and sensor streams

The operations of Machine/Sensors. -/

theorem Keeps.writeRecord (h : Keeps s t) {n f} : Keeps s (t.writeRecord n f) := by
  unfold State.writeRecord
  dsimp only
  split
  · split
    · rename_i e1
      have h1 := h.put.snd e1
      exact h1.setStream.sendMsi.ite h1.setStream.sendMsi.offerSample
    · rename_i e1
      exact h.put.snd e1
  · exact h

theorem Keeps.guardCheck (h : Keeps s t) {n} : Keeps s (t.guardCheck n) := h.report

theorem Keeps.guardFrame (h : Keeps s t) {n f} : Keeps s (t.guardFrame n f).2 := by
  unfold State.guardFrame
  extract_lets st g m0 m _ stamp crc rep cnt ts frz keep s1 s2 s3 s4
  have h2 : Keeps s s2 := h.setStream.count.count
  have h3 : Keeps s s3 := h2.guardCheck.ite h2
  exact h3.guardCheck.ite h3

theorem Keeps.takeBuffer (h : Keeps s t) {n d} : Keeps s (t.takeBuffer n d).2.2 := by
  unfold State.takeBuffer
  refine h.iteSnd2 ?_
  dsimp only
  split
  · rename_i e1
    have h1 := h.fetch.snd2 e1
    exact h1.setStream
  · rename_i e1
    have h1 := h.fetch.snd2 e1
    exact h1.eq

theorem Keeps.openFrame (h : Keeps s t) {n counter} : Keeps s (t.openFrame n counter) := by
  unfold State.openFrame
  split
  · exact h
  · dsimp only
    exact .setStream (h.iteSnd2 h.takeBuffer)

theorem Keeps.frameWrite (h : Keeps s t) {d f o bs} : Keeps s (t.frameWrite d f o bs).2 := by
  unfold State.frameWrite
  split
  · exact h
  · refine h.iteSnd ?_
    split
    · rename_i e1
      exact h.put.snd e1
    · rename_i e1
      exact h.put.snd e1

theorem Keeps.closeFrame (h : Keeps s t) {n trunc} : Keeps s (t.closeFrame n trunc) := by
  unfold State.closeFrame
  dsimp only
  split
  · exact h.setStream.guardFrame.setStream.ite h.setStream.guardFrame.setStream.writeRecord
  · exact h

theorem Keeps.stopStream (h : Keeps s t) {n} : Keeps s (t.stopStream n) := by
  unfold State.stopStream
  extract_lets s1 s2 _ s3 unmark
  have h2 : Keeps s s2 := .foldl (fun _ _ h1 => h1.writeRecord) h.closeFrame
  have h3 : Keeps s s3 := h2.setStream
  exact .lower (h3.setSsp.ite h3)

theorem Keeps.startStream (h : Keeps s t) {n} : Keeps s (t.startStream n) := by
  unfold State.startStream
  dsimp only
  split
  · rename_i e1
    have h1 := h.fetch.snd2 e1
    exact h1.setStream.setReg.ite h1.lower.raise
  · rename_i e1
    have h1 := h.fetch.snd2 e1
    exact h1.lower.raise

theorem Keeps.writeStrCtrl (h : Keeps s t) {n w} : Keeps s (t.writeStrCtrl n w) := by
  unfold State.writeStrCtrl
  dsimp only
  split
  · exact h.plainWrite.startStream
  · exact h.plainWrite.stopStream
  · exact h.plainWrite

theorem Keeps.writeStrDesc (h : Keeps s t) {n a w} : Keeps s (t.writeStrDesc n a w) := h.ite h.plainWrite

theorem Keeps.writeStrTail (h : Keeps s t) {n w} : Keeps s (t.writeStrTail n w) := by
  unfold State.writeStrTail
  split
  · exact h.plainWrite.ite h
  · exact h

theorem Keeps.pixelPacket (h : Keeps s t) {d f bs} : Keeps s (t.pixelPacket d f bs).2 := h.iteSnd h.frameWrite

theorem Keeps.streamPacket (h : Keeps s t) {vc dt payload bad full x} : Keeps s (t.streamPacket vc dt payload bad full x) := by
  unfold State.streamPacket
  split
  · dsimp only
    split
    · exact h
    · exact .ite (h.setStream.report.ite h.setStream) (.ite (h.setStream.ite h) (h.pixelPacket.setStream.ite h))

theorem Keeps.writeCsiCfg (h : Keeps s t) {rx w} : Keeps s (t.writeCsiCfg rx w) := h.setReg.ite (.setReg (h.ite h.cfgErr))

theorem Keeps.sspUpdate (h : Keeps s t) {p} : Keeps s (t.sspUpdate p) := h.setFld.setFld.setFld.setFld

theorem Keeps.writeSspCfg (h : Keeps s t) {p w} : Keeps s (t.writeSspCfg p w) := h.plainWrite.sspUpdate

theorem Keeps.writeSspWm (h : Keeps s t) {p w} : Keeps s (t.writeSspWm p w) := h.raise.ite h.plainWrite.sspUpdate

theorem Keeps.sspAccept (h : Keeps s t) {p w} : Keeps s (t.sspAccept p w) :=
  .ite (h.raise.count.setStream.ite h.raise.count.setStream.report) h.setStream.setSsp.sspUpdate

theorem Keeps.drainWord (h : Keeps s t) {n w} : Keeps s (t.drainWord n w) := by
  unfold State.drainWord
  dsimp only
  split
  · exact h
  · split
    · exact h.frameWrite.setStream.writeRecord.ite h.frameWrite.setStream
    · exact h.frameWrite.setStream
    · exact h

theorem Keeps.stopStreams (h : Keeps s t) {n} : Keeps s (t.stopStreams n) := by
  unfold State.stopStreams
  refine .foldl (fun _ _ h1 => ?_) h
  split
  · exact h1.stopStream.ite h1
  · exact h1

/-! ## `Keeps` through PCIe, flash and audio

The operations of Machine/Slow. -/

theorem Keeps.writePceCfg (h : Keeps s t) {n w} : Keeps s (t.writePceCfg n w) := h.setFld.ite h.plainWrite

theorem Keeps.pceFailed (h : Keeps s t) {n e'} : Keeps s (t.pceFailed n e') := by
  unfold State.pceFailed
  dsimp only
  split
  · exact h.eq.report
  · exact h.eq.report
  · exact h.eq.report.ite h.eq

theorem Keeps.writeXspTail (h : Keeps s t) {w} : Keeps s (t.writeXspTail w) := h.setFld.ite h.count

theorem Keeps.xspEntry (h :
    Keeps s t) {want} {run : List Byte → State → Nat × State} (hrun : ∀ x0 u, Keeps s u → Keeps s (run x0 u).2) : Keeps s
        (t.xspEntry want run) := by
  unfold State.xspEntry
  refine h.ite ?_
  dsimp only
  split
  · rename_i e1
    have h1 := h.fetch.snd2 e1
    exact .ite (.setFld (.put (hrun _ _ h1))) h1
  · rename_i e1
    have h1 := h.fetch.snd2 e1
    exact h1.setFld

theorem Keeps.xspOut (h : Keeps s t) {e' bs} : Keeps s (t.xspOut e' bs).2 := h.put

theorem Keeps.setAudio (h : Keeps s t) {n x} : Keeps s (t.setAudio n x) := h.eq

theorem Keeps.startAudio (h : Keeps s t) {n} : Keeps s (t.startAudio n) := by
  unfold State.startAudio
  dsimp only
  split
  · rename_i e1
    have h1 := h.fetch.snd2 e1
    exact h1.setAudio.setReg.ite h1.lower.raise
  · rename_i e1
    have h1 := h.fetch.snd2 e1
    exact h1.lower.raise

theorem Keeps.stopAudio (h : Keeps s t) {n} : Keeps s (t.stopAudio n) := h.setAudio.lower

theorem Keeps.writeAudCtrl (h : Keeps s t) {n w} : Keeps s (t.writeAudCtrl n w) := by
  unfold State.writeAudCtrl
  dsimp only
  split
  · exact h.plainWrite.startAudio
  · exact h.plainWrite.stopAudio
  · exact h.plainWrite

theorem Keeps.writeAudDesc (h : Keeps s t) {n a w} : Keeps s (t.writeAudDesc n a w) := h.ite h.plainWrite

theorem Keeps.writeAudTail (h : Keeps s t) {n w} : Keeps s (t.writeAudTail n w) := h.plainWrite.ite h

theorem Keeps.audioRecorded (h : Keeps s t) {req x rcd} : Keeps s (t.audioRecorded req x rcd) := by
  unfold State.audioRecorded
  split
  · rename_i e1
    have h1 := h.put.snd e1
    exact h1.sendMsi
  · rename_i e1
    exact h.put.snd e1

/-! ## `Keeps` through units of a context

The operations of Machine/Units. -/

theorem Keeps.resetQueues (h : Keeps s t) {n} : Keeps s (t.resetQueues n) :=
  .gfxRead (.foldl (fun _ _ h1 => h1.resetQueue.ite h1) h)

theorem Keeps.disableShown (h : Keeps s t) {n} : Keeps s (t.disableShown n) := by
  unfold State.disableShown
  refine .foldl (fun _ _ h1 => ?_) (.foldl (fun _ _ h1 => h1.stopQueue.ite h1) h)
  split
  · exact h1.stopHead.ite h1
  · exact h1

theorem Keeps.disableGateway (h : Keeps s t) {n} : Keeps s (t.disableGateway n) := by
  unfold State.disableGateway
  refine .foldl (fun _ _ h1 => h1.stopAudio.ite h1) ?_
  split
  · refine .ite (.stopHif (.foldl (fun _ _ h1 => ?_) h)) (.foldl (fun _ _ h1 => ?_) h)
    · split
      · exact h1.stopCan.ite h1
      · exact h1
    · split
      · exact h1.stopCan.ite h1
      · exact h1
  · refine .foldl (fun _ _ h1 => ?_) h
    split
    · exact h1.stopCan.ite h1
    · exact h1

theorem Keeps.disableUnits (h : Keeps s t) {n} : Keeps s (t.disableUnits n) :=
  h.stopStreams.stopInstants.disableShown.disableGateway

/-! ## `Keeps` through jobs

The operations of Machine/Jobs. -/

theorem Keeps.jobSlots (h : Keeps s t) {n b} : Keeps s (t.jobSlots n b).2 := by
  unfold State.jobSlots
  refine h.iteSnd ?_
  split
  · rename_i e1
    exact h.entryRead.snd e1
  · rename_i e1
    exact h.entryRead.snd e1

theorem Keeps.admission (h : Keeps s t) {n b} : Keeps s (t.admission n b).2 := by
  unfold State.admission
  split
  · exact h
  · refine h.iteSnd (h.iteSnd (h.iteSnd ?_))
    split
    · rename_i e1
      exact h.jobSlots.snd e1
    · rename_i e1
      exact h.jobSlots.snd e1

theorem Keeps.goldenFail (h : Keeps s t) {g} : Keeps s (t.goldenFail g) := h.count.report

theorem Keeps.goldenCheck (h : Keeps s t) {g j} : Keeps s (t.goldenCheck g j) := by
  unfold State.goldenCheck
  dsimp only
  split
  · rename_i e1
    have h1 := h.jobSlots.snd e1
    exact h1.goldenFail
  · rename_i e1
    have h1 := h.jobSlots.snd e1
    split
    · rename_i e1
      have h1 := h1.fetch.snd2 e1
      exact h1.ite h1.goldenFail
    · rename_i e1
      have h1 := h1.fetch.snd2 e1
      exact h1.goldenFail

theorem Keeps.setJob (h : Keeps s t) {j} : Keeps s (t.setJob j) := h.eq

theorem Keeps.freeEngines (h : Keeps s t) {j} : Keeps s (t.freeEngines j) := .foldl (fun _ _ h1 => h1.setEng) h

theorem Keeps.endJob (h : Keeps s t) {j} : Keeps s (t.endJob j) := by
  unfold State.endJob
  extract_lets late status detail s1 s2 ok last s3 ran s4 s5 s6
  have h1 : Keeps s s1 := h.freeEngines
  clear_value s1
  have h3 : Keeps s s3 := h1.eq
  clear_value s3
  have h4 : Keeps s s4 := h3.log.ite h3
  have h5 : Keeps s s5 := by
    simp only [s5]
    split
    · exact h4.goldenCheck.ite h4
    · exact h4
  have h6 : Keeps s s6 := by
    simp only [s6]
    split
    · rename_i e1
      exact h5.reclaim.snd e1
    · rename_i e1
      exact (h5.reclaim.snd e1).refuseArea
  exact h6.endEntry

theorem Keeps.endIfDone (h : Keeps s t) {no} : Keeps s (t.endIfDone no) := by
  unfold State.endIfDone
  split
  · exact h.endJob.ite h
  · exact h

theorem Keeps.leaveJob (h : Keeps s t) {te} : Keeps s (t.leaveJob te) := by
  unfold State.leaveJob
  split
  · exact h
  · dsimp only
    split
    · exact h.setEng
    · exact h.setEng.setJob

theorem Keeps.engineTo (h : Keeps s t) {te st} : Keeps s (t.engineTo te st) := h.setFld.lower

theorem Keeps.engineIdles (h : Keeps s t) {te e'} : Keeps s (t.engineIdles te e') := h.setEng.setFld.engineTo

theorem Keeps.engineReset (h : Keeps s t) {te} : Keeps s (t.engineReset te) := h.engineIdles

theorem Keeps.stopEngine (h : Keeps s t) {te} : Keeps s (t.stopEngine te) := h.leaveJob.engineIdles

theorem Keeps.faultJob (h : Keeps s t) {no status te cause} : Keeps s (t.faultJob no status te cause) := by
  unfold State.faultJob
  split
  · exact h
  · exact .endIfDone (.foldl (fun _ _ h1 => h1.setEng) (.leaveJob (.foldl (fun _ _ h1 => h1.stopEngine) h.setJob)))

theorem Keeps.underTest (h : Keeps s t) {te} : Keeps s (t.underTest te) := h.engineTo.setTest

theorem Keeps.engineFault (h : Keeps s t) {te x more} : Keeps s (t.engineFault te x more) := by
  unfold State.engineFault
  dsimp only
  split
  · exact .faultJob (.engineTo (.setEng (.log (.foldl (fun _ _ h1 => h1.report) h.setFld.setFld.report))))
  · exact .engineTo (.setEng (.log (.foldl (fun _ _ h1 => h1.report) h.setFld.setFld.report)))

theorem Keeps.plainFault (h : Keeps s t) {te cause tag} : Keeps s (t.plainFault te cause tag) := h.engineFault

theorem Keeps.leaveFault (h : Keeps s t) {te} : Keeps s (t.leaveFault te) := by
  unfold State.leaveFault
  split
  · exact h.engineTo
  · exact h.engineReset
  · exact h.underTest

theorem Keeps.resetKept (h : Keeps s t) {te} : Keeps s (t.resetKept te) :=
  h.engineReset.underTest.ite (h.engineReset.setFld.ite h.engineReset)

theorem Keeps.placeJob (h : Keeps s t) {j p lane affine} : Keeps s (t.placeJob j p lane affine) :=
  .eq (.foldl (fun _ _ h1 => h1.setEng) h.setJob)

theorem Keeps.putShare (h : Keeps s t) {te p g bs} : Keeps s (t.putShare te p g bs) := h.ite h.storeAt

theorem Keeps.putWindows (h : Keeps s t) {te j} : Keeps s (t.putWindows te j) := by
  unfold State.putWindows
  split
  · exact h
  · refine .foldl (fun _ _ h1 => ?_) h
    split
    · exact h1
    · exact h1.ite (.ite (.putShare (h1.ite h1.putShare)) (h1.ite h1.putShare))

theorem Keeps.toSweep (h : Keeps s t) {te j k} : Keeps s (t.toSweep te j k) := h.setEng

theorem Keeps.startEngine (h : Keeps s t) {te j} : Keeps s (t.startEngine te j) := by
  unfold State.startEngine
  refine .setJob (.putWindows (.toSweep (.setEng (.setFld (.raise (.setFld (.lower (.setFld (.setFld (.setFld (.setFld ?_)))))))))))
  split
  · exact h.setFld.setFld
  · exact h

theorem Keeps.goldenDefer (h : Keeps s t) {g} : Keeps s (t.goldenDefer g) := h.setFld.report.ite h.setFld

/-! ## `Keeps` through ring entries

The operations of Machine/Entries. -/

theorem Keeps.finish (h : Keeps s t) {n r h' e'} : Keeps s (t.finish n r h' e') := h.setHeld.endEntry

theorem Keeps.markStarted (h : Keeps s t) {n r h'} : Keeps s (t.markStarted n r h') := h.setHeld

theorem Keeps.dropJob (h : Keeps s t) {j status} : Keeps s (t.dropJob j status) := h.eq.endEntry

theorem Keeps.abortJob (h : Keeps s t) {j status} : Keeps s (t.abortJob j status) :=
  .endIfDone (.foldl (fun _ _ h1 => h1.setEng) (.foldl (fun _ _ h1 => h1.stopEngine) h.setJob))

theorem Keeps.kvReport (h : Keeps s t) {n op status detail} : Keeps s (t.kvReport n op status detail) := by
  unfold State.kvReport
  split
  · split
    · exact h.finish
    · exact h
  · refine .ite (.ite ?_ h.plainFault) h
    dsimp only
    split
    · exact h.setEng.setJob
    · exact h.setEng

theorem Keeps.kvTake {o : KvOut × State} (h : Keeps s o.2) {n op} : Keeps s (kvTake n op o) := by
  obtain ⟨o, t⟩ := o
  have put (x : Option KvOp) : Keeps s (t.setCtx n { t.ctx n with kvOp := x }) := h.setCtx
  unfold Machine.kvTake
  cases o with
  | waits x => exact put _
  | broken e => exact (put none).refuseArea.kvReport
  | done st d =>
    dsimp only
    split
    · rename_i e
      exact ((put none).reclaim.snd e).kvReport
    · rename_i e
      exact ((put none).reclaim.snd e).refuseArea.kvReport

theorem Keeps.kvNext (h : Keeps s t) {n} : KeepsOpt s (t.kvNext n) := by
  unfold State.kvNext
  dsimp only
  split
  · exact .to (h.setCtx.beginKv.kvTake)
  · exact .nothing

theorem Keeps.clearDoorbells (h : Keeps s t) {n} : Keeps s (t.clearDoorbells n) :=
  .setFld (.setFld (.foldl (fun _ _ h1 => h1.setFld.setFld) h))

theorem Keeps.create (h : Keeps s t) {n b} : Keeps s (t.create n b) := by
  unfold State.create
  refine .setStatus (.clearDoorbells ?_)
  split
  · split
    · rename_i e1
      exact h.setCtx.writeRecords.snd e1
    · rename_i e1
      have h1 := h.setCtx.writeRecords.snd e1
      exact h1.refuseArea
  · exact h.setCtx

theorem Keeps.abortAll (h : Keeps s t) {n} : Keeps s (t.abortAll n) :=
  .foldl (fun _ _ h1 => h1.setFld) (.foldl (fun _ _ h1 => .foldl (fun _ _ h2 => h2.finish) h1) (.foldl (fun _ _ h1 => h1.kvReport)
      (.setCtx (.foldl (fun _ _ h1 => h1.dropJob) (.foldl (fun _ _ h1 => h1.abortJob) h)))))

theorem Keeps.resetCtx (h : Keeps s t) {n} : Keeps s (t.resetCtx n) := h.abortAll.setStatus.resetQueues

theorem Keeps.destroyCtx (h : Keeps s t) {n} : Keeps s (t.destroyCtx n) := by
  unfold State.destroyCtx
  extract_lets s1 s2 s3 s4 s5 s6
  have h2 : Keeps s s2 := .foldl (fun _ _ h1 => .foldl (fun _ _ h2 => h2.finish) h1) h.abortAll
  have h3 : Keeps s s3 := h2.dropResidency.ite h2
  clear_value s3
  have h5 : Keeps s s5 := .foldl (fun _ _ h1 => h1.setPart) h3.eq
  exact h5.disableUnits.setCtx.setStatus

theorem Keeps.flushHeld (h : Keeps s t) {n r} : Keeps s (t.flushHeld n r) :=
  .foldl (fun _ _ h1 => h1.finish) (.foldl (fun _ _ h1 => h1.kvReport) (.setCtx (.foldl (fun _ _ h1 => h1.dropJob) h)))

theorem Keeps.readHead (h : Keeps s t) {n r} : Keeps s (t.readHead n r).2.2 := by
  unfold State.readHead
  extract_lets c head got s1 c1 s2 h'
  have h2 : Keeps s s2 := h.fetch.passEntry.setCtx
  clear_value s2
  split
  · exact h2
  · exact h2.endEntry.halt

theorem Keeps.flushStep (h : Keeps s t) {n r stop} : KeepsOpt s (t.flushStep n r stop) := by
  unfold State.flushStep
  refine .ite .nothing (.ite (.to h.setFld) (.ite .nothing ?_))
  split
  · rename_i e1
    have h1 := h.readHead.snd2 e1
    exact .to h1.endEntry
  · rename_i e1
    have h1 := h.readHead.snd2 e1
    exact .to h1

theorem Keeps.startJob (h : Keeps s t) {n r h'} : Keeps s (t.startJob n r h') := by
  unfold State.startJob
  split
  · rename_i e1
    have h1 := h.admission.snd e1
    exact h1.finish
  · rename_i e1
    have h1 := h.admission.snd e1
    exact h1.eq

theorem Keeps.startLoad (h : Keeps s t) {n r h'} : Keeps s (t.startLoad n r h') := by
  unfold State.startLoad
  dsimp only
  split
  · rename_i e1
    have h1 := h.checkPack.snd e1
    exact h1.finish
  · rename_i e1
    have h1 := h.checkPack.snd e1
    exact h1.recordModel.setCtx.markStarted.ite h1.recordModel.finish

theorem Keeps.startUnload (h : Keeps s t) {n r h'} : Keeps s (t.startUnload n r h') := by
  unfold State.startUnload
  split
  · exact h.finish.ite h.eq.markStarted
  · exact h.finish

theorem Keeps.startKv (h : Keeps s t) {n r h'} : Keeps s (t.startKv n r h') := h.markStarted.setCtx

theorem Keeps.startCreate (h : Keeps s t) {r h'} : Keeps s (t.startCreate r h') := by
  unfold State.startCreate
  refine h.finish.ite ?_
  split
  · rename_i e1
    have h1 := h.entryRead.snd e1
    exact h1.finish
  · rename_i e1
    have h1 := h.entryRead.snd e1
    split
    · exact h1.finish
    · exact h1.create.finish

theorem Keeps.onTarget (h : Keeps s t) {r h'} {f : State → Nat → State} (hf : ∀ u x, Keeps s u → Keeps s (f u x)) :
    Keeps s (t.onTarget r h' f) := h.finish.ite (.finish (hf _ _ h))

theorem Keeps.startFlush (h : Keeps s t) {r h'} : Keeps s (t.startFlush r h') := h.finish.ite h.flushHeld.markStarted

theorem Keeps.startHarvest (h : Keeps s t) {r h'} : Keeps s (t.startHarvest r h') := h.finish.ite (h.finish.ite h.setCtx.finish)

theorem Keeps.startBind (h : Keeps s t) {r h'} : Keeps s (t.startBind r h') := by
  unfold State.startBind
  extract_lets n k
  split
  · exact h.finish
  · exact .ite h.unbind.finish (.ite h.markStarted (Keeps.finish (Keeps.bind h)))

theorem Keeps.startEntry (h : Keeps s t) {n r h'} : Keeps s (t.startEntry n r h') := by
  unfold State.startEntry
  split
  · exact h.finish
  · exact h.startJob
  · exact h.startLoad
  · exact h.startUnload
  · exact h.startKv
  · exact h.startKv
  · exact h.startKv
  · exact h.startCreate
  · exact h.onTarget (fun _ _ h1 => h1.resetCtx)
  · exact h.onTarget (fun _ _ h1 => h1.destroyCtx)
  · exact h.startFlush
  · exact h.startHarvest
  · split
    · exact h.finish
    · exact h.setPartition.finish
  · exact h.startBind

theorem Keeps.goOn (h : Keeps s t) {n r h'} : KeepsOpt s (t.goOn n r h') := by
  unfold State.goOn
  dsimp only
  split
  · exact .ite .nothing (.to h.finish)
  · refine .ite .nothing ?_
    split
    · refine .to (.finish (.forgetModel ?_))
      split
      · exact h.dropShares
      · exact h
    · exact .to h.finish
  · split
    · rename_i e1
      have h1 := h.flushStep.of_some e1
      exact .to h1
    · exact .ite (.to h.finish) .nothing
  · exact .ite .nothing (.to h.startBind)
  · exact .nothing

theorem Keeps.workOnce (h : Keeps s t) : KeepsOpt s t.workOnce := by
  unfold State.workOnce
  split
  · rename_i e
    refine .to (KeepsOpt.of_some (.findSome fun x => .findSome fun k => ?_) e)
    exact .ite (Keeps.goOn h) .nothing
  · split
    · rename_i e
      exact .to (KeepsOpt.of_some (.findSome fun n => h.kvNext) e)
    · refine .findSome fun x => ?_
      intro u e
      obtain ⟨_, _, rfl⟩ := Option.map_eq_some_iff.1 e
      exact h.startEntry

theorem Keeps.work {fuel} : ∀ {t}, Keeps s t → Keeps s (State.work t fuel) := by
  induction fuel with
  | zero => intro t h; unfold State.work; exact h
  | succ fuel ih =>
    intro t h
    unfold State.work
    split
    · rename_i e1
      have h1 := h.workOnce.of_some e1
      exact ih h1
    · exact h

theorem Keeps.settleAnd (h : Keeps s t) {again} : Keeps s (t.settleAnd again) :=
  h.ite (.writeEvents (.starveLanes (h.work.noteStates.residency.noteWaits.ite h.work)))

theorem Keeps.settle (h : Keeps s t) : Keeps s t.settle := h.settleAnd

theorem Keeps.replaceClass (h : Keeps s t) {n h'} : Keeps s (t.replaceClass n h').2 := h.log.iteSnd h

theorem Keeps.takeEntry (h : Keeps s t) {n r h'} : Keeps s (t.takeEntry n r h') := by
  unfold State.takeEntry
  split
  · exact h.endEntry
  · exact h.endEntry.ite h.replaceClass.setHeld

theorem Keeps.readEntry (h : Keeps s t) {n r want} : Keeps s (t.readEntry n r want) := by
  unfold State.readEntry
  refine h.ite ?_
  split
  · rename_i e1
    have h1 := h.readHead.snd2 e1
    exact h1.takeTurn.takeEntry.settle.ite h
  · rename_i e1
    have h1 := h.readHead.snd2 e1
    exact h1.takeTurn.settle

/-! ## `Keeps` through clocks and temperature

The operations of Machine/Thermal. -/

theorem Keeps.thmEvent (h : Keeps s t) {f} : Keeps s (t.thmEvent f) := h.ite h.raise.interrupt

theorem Keeps.sendSetpoint (h : Keeps s t) {mv} : Keeps s (t.sendSetpoint mv) := h.eq

theorem Keeps.surgeTo (h : Keeps s t) {p} : Keeps s (t.surgeTo p) := h.eq

theorem Keeps.showClock (h : Keeps s t) : Keeps s t.showClock := h.setFld

theorem Keeps.noteStart (h : Keeps s t) : Keeps s t.noteStart := h.eq

theorem Keeps.avsReturn (h : Keeps s t) : Keeps s t.avsReturn := h.sendSetpoint.surgeTo

theorem Keeps.avsRise (h : Keeps s t) : Keeps s t.avsRise := h.sendSetpoint.surgeTo.raise

theorem Keeps.chargeSurge (h : Keeps s t) : Keeps s t.chargeSurge := by
  unfold State.chargeSurge
  extract_lets _ s1
  have h1 : Keeps s s1 := h.setFld
  clear_value s1
  exact h.eq.ite (h1.raise.ite h1)

theorem Keeps.surgeExit (h : Keeps s t) : Keeps s t.surgeExit := by
  unfold State.surgeExit
  dsimp only
  split
  · exact h.surgeTo
  · exact h.eq.avsReturn.showClock
  · exact h.eq.avsReturn.showClock.ite h.eq.surgeTo.showClock
  · exact h.eq.surgeTo.showClock
  · exact h

theorem Keeps.writeSurge (h : Keeps s t) {w} : Keeps s (t.writeSurge w) := by
  unfold State.writeSurge
  extract_lets s1 _ s2 changed
  have h1 : Keeps s s1 := h.plainWrite
  have h2 : Keeps s s2 := h1.eq
  exact h2.surgeExit.ite h2

theorem Keeps.showSensors (h : Keeps s t) {ts} : Keeps s (t.showSensors ts) :=
  .foldl (fun _ _ h1 => h1.setFld.setFld.thmEvent.report.ite h1.setFld.setFld) h

theorem Keeps.judgeTj (h : Keeps s t) : Keeps s t.judgeTj := by
  unfold State.judgeTj
  extract_lets hot s1 _ s2 s3
  have h1 : Keeps s s1 := h.thmEvent.ite h
  have h2 : Keeps s s2 := h1.eq
  have h3 : Keeps s s3 := h2.thmEvent.surgeExit.ite h2
  clear_value s3
  exact .ite (h3.lower.showClock.ite h3) (h3.raise.thmEvent.report.showClock.ite h3)

/-! ## `Keeps` through the job scheduler

The operations of Machine/Miller. -/

theorem Keeps.sqDoorbell (h : Keeps s t) {n r w} : Keeps s (t.sqDoorbell n r w) := h.writeSqTail.ite h.writeSqTail.settle

theorem Keeps.copyPart (h : Keeps s t) {n k} : Keeps s (t.copyPart n k) := by
  unfold State.copyPart
  split
  · exact h
  · split
    · exact h
    · dsimp only
      split
      · exact h.copyWeights.ite h.copyWeights.undoLoad.finish
      · exact h.copyWeights

theorem Keeps.millerTo (h : Keeps s t) {v} : Keeps s (t.millerTo v) := h.setFld

theorem Keeps.wipeAll (h : Keeps s t) : Keeps s t.wipeAll := by
  unfold State.wipeAll
  extract_lets s1 s2 s3
  have h1 : Keeps s s1 := .foldl (fun _ _ h1 => h1.wipe) h
  have h2 : Keeps s s2 := .foldl (fun _ _ h1 => h1.wipe) h1
  have h3 : Keeps s s3 := .foldl (fun _ _ h1 => h1.setCtx) h2
  clear_value s3
  exact h3.eq

theorem Keeps.handshake (h : Keeps s t) : Keeps s t.handshake := by
  unfold State.handshake
  refine h.millerTo.ite ?_
  dsimp only
  split
  · rename_i e1
    have h1 := h.fetch.snd2 e1
    split
    · exact h1.create.millerTo.settle
    · exact h1.millerTo
  · rename_i e1
    have h1 := h.fetch.snd2 e1
    exact h1.millerTo

theorem Keeps.writeTcxCtrl (h : Keeps s t) {w} : Keeps s (t.writeTcxCtrl w) := h.handshake.ite h

theorem Keeps.millerEnd (h : Keeps s t) {status} : Keeps s (t.millerEnd status) := by
  unfold State.millerEnd
  extract_lets s2 s3 s4 s5
  have h2 : Keeps s s2 := .foldl (fun _ _ h1 => h1.abortJob) h
  have h3 : Keeps s s3 := .foldl (fun _ _ h1 => h1.dropJob) h2
  have h4 : Keeps s s4 := by
    refine .foldl (fun _ x h1 => .foldl (fun u e h2 => ?_) h1) h3
    refine Keeps.finish (.ite ?_ h2)
    split
    · exact h2.undoLoad
    · exact h2
  have h5 : Keeps s s5 := .foldl (fun _ _ h1 => h1.setCtx.raiseCounts) h4
  clear_value s5
  exact h5.eq

theorem Keeps.millerReset (h : Keeps s t) : Keeps s t.millerReset := h.millerTo.millerEnd

/-! ## `Keeps` through tile commands

The operations of Machine/EngineOps. -/

theorem Keeps.engRead (h : Keeps s t) {te off n} : KeepsRan s (t.engRead te off n) := by
  unfold State.engRead
  dsimp only
  split
  · rename_i e1
    have h1 := h.readMem.snd2 e1
    exact .ok h1
  · rename_i e1
    have h1 := h.readMem.snd2 e1
    exact .fault h1
  · rename_i e1
    have h1 := h.readMem.snd2 e1
    exact .faultAs h1

theorem Keeps.engWrite (h : Keeps s t) {te off bs} : KeepsRan s (t.engWrite te off bs) := by
  unfold State.engWrite
  split
  · rename_i e1
    have h1 := h.writeMem.snd e1
    exact .ok h1
  · rename_i e1
    have h1 := h.writeMem.snd e1
    exact .fault h1
  · rename_i e1
    have h1 := h.writeMem.snd e1
    exact .faultAs h1

theorem Keeps.addFx (h : Keeps s t) {te fx} : Keeps s (t.addFx te fx) := h.setFld

theorem Keeps.setAry (h : Keeps s t) {te j a} : Keeps s (t.setAry te j a) := h.setEng

theorem Keeps.loadTile (h : Keeps s t) {te a j} : KeepsRan s (t.loadTile te a j) :=
  h.engRead.bind (fun _ _ h1 => .bind (.ite h1.engRead (.ok h1)) (fun _ _ h2 => h2.engRead.bind (fun _ _ h3 => .ite (.ok h3)
      (.faultAs h3))))

theorem Keeps.onEng (h : Keeps s t) {te f} : Keeps s (t.onEng te f) := h.setEng

theorem Keeps.startLdw (h : Keeps s t) {te h' a} : Keeps s (t.startLdw te h' a) := h.onEng

theorem Keeps.startLda (h : Keeps s t) {te h' a} : Keeps s (t.startLda te h' a) := h.onEng

theorem Keeps.runLoad (h : Keeps s t) {te w j} : KeepsRan s (t.runLoad te w j) :=
  .tagged (h.loadTile.bind (fun _ _ h1 => .ok h1.onEng))

theorem Keeps.loadVector (h : Keeps s t) {te a i} : KeepsRan s (t.loadVector te a i) :=
  h.engRead.bind (fun _ _ h1 => h1.engRead.bind (fun _ _ h2 => .ok h2))

theorem Keeps.runFetch (h : Keeps s t) {te w} : KeepsRan s (t.runFetch te w) :=
  .tagged (h.loadVector.bind (fun _ _ h1 => .ok h1.onEng))

theorem Keeps.runStart (h : Keeps s t) {te j m t'} : KeepsRan s (t.runStart te j m t') := .ite (.tagged (.faultAs h)) (.ok h.onEng)

theorem Keeps.vectorOut (h : Keeps s t) {te x} : Keeps s (t.vectorOut te x).2 := by
  unfold State.vectorOut
  split
  · refine h.iteSnd (h.iteSnd ?_)
    split
    · rename_i e1
      exact h.engRead.of_ok e1
    · rename_i e1
      exact h.engRead.of_fault e1
    · exact h

theorem Keeps.roundOuts {te xs} : ∀ {t}, Keeps s t → Keeps s (State.roundOuts t te xs).2 := by
  induction xs with
  | nil => intro t h; unfold State.roundOuts; exact h
  | cons x xs ih =>
    intro t h
    unfold State.roundOuts
    exact ih h.vectorOut

theorem Keeps.chkRecord (h : Keeps s t) {te j tag vec c} : Keeps s (t.chkRecord te j tag vec c) := h.ite h.setReg

theorem Keeps.takeRound (h : Keeps s t) {te outs} : KeepsRan s (t.takeRound te outs) := by
  unfold State.takeRound
  dsimp only
  split
  · refine .fault ?_
    split
    · exact h.count.chkRecord
    · exact h.count
  · refine .over (fun _ _ h1 => ?_) h.count
    split
    · split
      · exact .tagged (h1.engWrite.bind (fun _ _ h1 => .ok h1.addFx.onEng))
      · exact .ok h1
    · exact .ok h1

theorem Keeps.checkWeights (h : Keeps s t) {te} : KeepsRan s (t.checkWeights te) := by
  unfold State.checkWeights
  refine .ite (.ok h) ?_
  dsimp only
  split
  · exact .ok h.setEng
  · exact .over (fun _ _ h1 => h1.engRead.bind (fun _ _ h2 => .ite (.ok h2) (.faultAs h2))) h.setEng

theorem Keeps.runMac (h : Keeps s t) {te h' sparse a upsets} : KeepsRan s (t.runMac te h' sparse a upsets) :=
  h.checkWeights.bind (fun _ _ h1 => .ite (.faultAs h1) (.ok h1.onEng))

theorem Keeps.readLanes (h : Keeps s t) {te g lane n} : KeepsRan s (t.readLanes te g lane n) :=
  h.engRead.bind (fun _ _ h1 => .ok h1)

theorem Keeps.runVop (h : Keeps s t) {te op a} : KeepsRan s (t.runVop te op a) :=
  .ite (h.readLanes.bind (fun _ _ h1 => .ok h1.setEng)) (h.readLanes.bind (fun _ _ h1 => .bind (.ite (.ok h1) (.ite (.ok h1)
      h1.readLanes)) (fun _ _ h2 => .bind (.ite h2.readLanes (.ok h2)) (fun _ _ h3 => h3.engWrite.bind (fun _ _ h4 => .ok
          h4.addFx)))))

theorem Keeps.runVred (h : Keeps s t) {te k a} : KeepsRan s (t.runVred te k a) :=
  h.readLanes.bind (fun _ _ h1 => h1.engWrite.bind (fun _ _ h2 => .ok h2.addFx))

theorem Keeps.writeBlocks (h : Keeps s t) {te scl kind fmt dof blocks} : KeepsRan s (t.writeBlocks te scl kind fmt dof blocks) := by
  unfold State.writeBlocks
  refine .over (fun _ _ h1 => ?_) h
  split
  · exact h1.engWrite.bind (fun _ _ h1 => h1.engWrite.bind (fun _ _ h2 => .ok h2.addFx))
  · exact .ok h1

theorem Keeps.runQnt (h : Keeps s t) {te a} : KeepsRan s (t.runQnt te a) :=
  .ite (.faultAs h) (h.engRead.bind (fun _ _ h1 => h1.writeBlocks))

theorem Keeps.runDqn (h : Keeps s t) {te a} : KeepsRan s (t.runDqn te a) :=
  .ite (.faultAs h) (h.engRead.bind (fun _ _ h1 => h1.engRead.bind (fun _ _ h2 => h2.engWrite.bind (fun _ _ h3 => .ok h3.addFx))))

theorem Keeps.runSto (h : Keeps s t) {te a} : KeepsRan s (t.runSto te a) :=
  .ite (.faultAs h) (.over (fun _ _ h1 => h1.engRead.bind (fun _ _ h2 => .bind (.ite h2.engWrite (.ok h2)) (fun _ _ h3 =>
      h3.engWrite.bind (fun _ _ h4 => h4.engWrite.bind (fun _ _ h5 => .ok h5.addFx))))) h)

theorem Keeps.dmaLoad (h : Keeps s t) {te space d addr n} : KeepsRan s (t.dmaLoad te space d addr n) := by
  unfold State.dmaLoad
  dsimp only
  split
  · exact .ite h.engRead (.faultAs h)
  · refine .ite ?_ (.faultAs h)
    split
    · rename_i e1
      have h1 := h.readPhys.snd2 e1
      exact .ok h1
    · rename_i e1
      have h1 := h.readPhys.snd2 e1
      exact .faultAs h1
  · refine .ite ?_ (.faultAs h)
    split
    · rename_i e1
      have h1 := h.fetch.snd2 e1
      exact .ok h1
    · rename_i e1
      have h1 := h.fetch.snd2 e1
      exact .faultAs h1
  · split
    · split
      · rename_i e1
        have h1 := h.fetch.snd2 e1
        exact .ok h1
      · rename_i e1
        have h1 := h.fetch.snd2 e1
        exact .faultAs h1
    · exact .faultAs h

theorem Keeps.dmaStore (h : Keeps s t) {te space d addr bs} : KeepsRan s (t.dmaStore te space d addr bs) := by
  unfold State.dmaStore
  dsimp only
  split
  · exact .ite h.engWrite (.faultAs h)
  · refine .ite ?_ (.faultAs h)
    split
    · rename_i e1
      have h1 := h.writePhys.snd e1
      exact .ok h1
    · rename_i e1
      have h1 := h.writePhys.snd e1
      exact .faultAs h1
  · refine .ite ?_ (.faultAs h)
    split
    · rename_i e1
      have h1 := h.put.snd e1
      exact .ok h1
    · rename_i e1
      have h1 := h.put.snd e1
      exact .faultAs h1
  · split
    · split
      · rename_i e1
        have h1 := h.put.snd e1
        exact .ok h1
      · rename_i e1
        have h1 := h.put.snd e1
        exact .faultAs h1
    · exact .faultAs h

theorem Keeps.dmaElem (h : Keeps s t) {te d p j c} : KeepsRan s (t.dmaElem te d p j c) :=
  .ite (h.dmaLoad.bind (fun _ _ h1 => h1.dmaStore)) (.ite h.dmaStore (.ok h))

theorem Keeps.moveDma (h : Keeps s t) {te d} : KeepsRan s (t.moveDma te d) :=
  .over (fun _ _ h1 => .over (fun _ _ h2 => .over (fun _ _ h3 => h3.dmaElem) h2) h1) h

theorem Keeps.startDma (h : Keeps s t) {te h' a} : Keeps s (t.startDma te h' a) := h.onEng

theorem Keeps.runDma (h : Keeps s t) {te w} : KeepsRan s (t.runDma te w) :=
  .tagged (h.engRead.bind (fun _ _ h1 => .ite (.faultAs h1) (h1.moveDma.bind (fun _ _ h2 => .ok h2.onEng))))

theorem Keeps.setSem (h : Keeps s t) {te k v} : Keeps s (t.setSem te k v) := h.eq

theorem Keeps.runWait (h : Keeps s t) {te k n} : Keeps s (t.runWait te k n) := h.setSem.setEng.ite h.setEng

theorem Keeps.runSig (h : Keeps s t) {te k n} : Keeps s (t.runSig te k n) := h.setSem.ite h.setSem.log

theorem Keeps.runKvl (h : Keeps s t) {te h' append a} : KeepsRan s (t.runKvl te h' append a) := by
  unfold State.runKvl
  dsimp only
  split
  · exact .ite .waits (.ite (.faultAs h) (.ite (.ok h.setEng.setCtx) (.ok h.setEng)))
  · exact .faultAs h

theorem Keeps.runChkCrc (h : Keeps s t) {te a} : KeepsRan s (t.runChkCrc te a) :=
  h.engRead.bind (fun _ _ h1 => h1.engRead.bind (fun _ _ h2 => .ite (.ok h2) (.faultAs h2)))

theorem Keeps.runChkSelf (h : Keeps s t) {te h'} : Keeps s (t.runChkSelf te h') := .foldl (fun _ _ h1 => h1.setAry) h

theorem Keeps.unitStep (h : Keeps s t) {te} : ∀ r, t.unitStep te = some r → KeepsRan s r := by
  intro r e
  unfold State.unitStep at e
  dsimp only at e
  split at e
  · exact Option.some.inj e ▸ h.runLoad
  split at e
  · exact Option.some.inj e ▸ h.runFetch
  split at e
  · exact Option.some.inj e ▸ h.runStart
  split at e
  · exact Option.some.inj e ▸ h.roundOuts.takeRound
  · obtain ⟨w, _, rfl⟩ := Option.map_eq_some_iff.1 e
    exact h.runDma

theorem Keeps.goUnits {te fuel} : ∀ {t}, Keeps s t → KeepsRan s (State.goUnits t te fuel) := by
  induction fuel with
  | zero => intro t h; unfold State.goUnits; exact h
  | succ fuel ih =>
    intro t h
    unfold State.goUnits
    split
    · exact h
    · exact (h.unitStep _ ‹_›).bind fun _ _ h1 => ih h1

theorem Keeps.unitsGo (h : Keeps s t) {te} : KeepsRan s (t.unitsGo te) := h.goUnits

theorem Keeps.runTile (h : Keeps s t) {te h' upsets a} : KeepsRan s (t.runTile te h' upsets a) := by
  unfold State.runTile
  split
  · exact .ok h
  · exact .ok h
  · exact .ok h.startLdw
  · exact .ok h.startLda
  · exact h.runMac
  · exact h.runVop
  · exact h.runVred
  · exact h.runQnt
  · exact h.runDqn
  · exact h.runSto
  · exact .ok h.startDma
  · exact .ok h.runWait
  · exact .ok h.runSig
  · exact h.runChkCrc
  · exact .ok h.runChkSelf
  · exact h.runKvl

theorem Keeps.retryWait (h : Keeps s t) {te} : Keeps s (t.retryWait te) := by
  unfold State.retryWait
  split
  · exact h.runWait
  · exact h

theorem Keeps.proceed (h : Keeps s t) {te} : Keeps s (t.proceed te) := by
  unfold State.proceed
  split
  · rename_i e1
    exact h.retryWait.unitsGo.of_ok e1
  · exact h
  · rename_i e1
    have h1 := h.retryWait.unitsGo.of_fault e1
    exact h1.engineFault.settle

theorem Keeps.startTile (h : Keeps s t) {te h' upsets o} : KeepsOpt s (t.startTile te h' upsets o) := by
  unfold State.startTile
  refine .ite .nothing (.ite (.to h.plainFault.settle) (.ite (.to h.plainFault.settle) ?_))
  split
  · exact .nothing
  · rename_i e1
    have h1 := (KeepsRan.tagged (h.runTile.bind (fun _ _ h1 => h1.unitsGo))).of_fault e1
    exact .to h1.engineFault.settle
  · rename_i e1
    have h1 := (KeepsRan.tagged (h.runTile.bind (fun _ _ h1 => h1.unitsGo))).of_ok e1
    exact .to (h1.settle.ite h1)

theorem Keeps.issue (h : Keeps s t) {te h' upsets o} : Keeps s (t.issue te h' upsets o) :=
  h.ite (.ite (h.proceed.startTile.getD h.proceed) h.proceed)

/-! ## `Keeps` through the tensor engines

The operations of Machine/Engine. -/

theorem Keeps.feedSlots {te n} : ∀ {t i ws}, Keeps s t → Keeps s (State.feedSlots t te n i ws).2 := by
  induction n with
  | zero => intro t i ws h; unfold State.feedSlots; exact h
  | succ n ih =>
    intro t i ws h
    cases ws with
    | nil => unfold State.feedSlots; exact h
    | cons w ws =>
      unfold State.feedSlots
      exact ih h.storeAt

theorem Keeps.passSweeps {te no fuel} : ∀ {t}, Keeps s t → Keeps s (State.passSweeps t te no fuel) := by
  induction fuel with
  | zero => intro t h; unfold State.passSweeps; exact h
  | succ fuel ih =>
    intro t h
    unfold State.passSweeps
    split
    · exact h
    · dsimp only
      split
      · exact h.ite (.ite (.setJob (h.setEng.ite h)) (ih (.toSweep (.setJob (h.setEng.ite h)))))
      · exact h

theorem Keeps.noteStripes (h : Keeps s t) {te} : Keeps s (t.noteStripes te) := by
  unfold State.noteStripes
  split
  · exact h
  · exact .foldl (fun _ _ h1 => h1.passSweeps) h

theorem Keeps.writeCqTail (h : Keeps s t) {te w} : Keeps s (t.writeCqTail te w) :=
  .setFld (.setEng (.feedSlots (h.ite h.noteStripes)))

theorem Keeps.resetEngine (h : Keeps s t) {te} : Keeps s (t.resetEngine te) := by
  unfold State.resetEngine
  refine .resetKept ?_
  split
  · exact h.faultJob
  · exact h

theorem Keeps.writeTenCtrl (h : Keeps s t) {te w} : Keeps s (t.writeTenCtrl te w) :=
  h.resetEngine.settle.ite (h.setFld.setFld.setFld.ite h.setFld.setFld)

theorem Keeps.writeTenWdt (h : Keeps s t) {te w} : Keeps s (t.writeTenWdt te w) := h.plainWrite.setEng.ite h.plainWrite

/-! ## `Keeps` through the Heath cores

The operations of Machine/Heath. -/

theorem Keeps.setHeathMode (h : Keeps s t) {m} : Keeps s (t.setHeathMode m) := h.setFld

theorem Keeps.setHeathCore (h : Keeps s t) {n c} : Keeps s (t.setHeathCore n c) := h.eq

theorem Keeps.allHeath (h : Keeps s t) {f} : Keeps s (t.allHeath f) := .foldl (fun _ _ h1 => h1.setHeathCore) h

theorem Keeps.heathToSplit (h : Keeps s t) {rd} : Keeps s (t.heathToSplit rd) := h.allHeath.setHeathMode

theorem Keeps.onHeath (h : Keeps s t) {n f} : Keeps s (t.onHeath n f) := h.setHeathCore.ite h.allHeath

theorem Keeps.heathLksync (h : Keeps s t) {n rd reserved} : Keeps s (t.heathLksync n rd reserved) := by
  unfold State.heathLksync
  extract_lets target c s1 s2
  have h1 : Keeps s s1 := h.setHeathCore
  have h2 : Keeps s s2 := h.allHeath
  clear_value s1 s2
  refine h.ite (h.onHeath.ite ?_)
  split
  · exact h.allHeath
  · exact h.heathToSplit
  · exact h1.setHeathMode.ite h1
  · exact h.setHeathCore
  · exact h2.eq
  · exact h.allHeath
  · exact h.allHeath

theorem Keeps.restartHeath (h : Keeps s t) : Keeps s t.restartHeath := by
  unfold State.restartHeath
  extract_lets _ s1 s2 again _ rom _ _ s3
  have h1 : Keeps s s1 := h.allHeath
  clear_value s1
  have h2 : Keeps s s2 := h1.setHeathMode
  clear_value s2
  have h3 : Keeps s s3 := (h2.setHeathRom (b := rom)).setWdt
  clear_value s3
  exact h3.releaseSems.releaseSems.releaseSems

theorem Keeps.heathFatal (h : Keeps s t) : Keeps s t.heathFatal := h.setFld.setFld.report.restartHeath

theorem Keeps.writeHeathMode (h : Keeps s t) {w} : Keeps s (t.writeHeathMode w) := h.plainWrite.raise.ite h.plainWrite

/-! ## `Keeps` through bridges and semaphores

The operations of Machine/Weir. -/

theorem Keeps.writeWirCtrl (h : Keeps s t) {n w} : Keeps s (t.writeWirCtrl n w) := h.plainWrite.cfgErr.ite h.plainWrite

theorem Keeps.postedFailed (h : Keeps s t) {n req} : Keeps s (t.postedFailed n req) :=
  h.raise.count.setWeir.report.ite h.raise.count

theorem Keeps.writeSemOwn (h : Keeps s t) {k req w} : Keeps s (t.writeSemOwn k req w) := by
  unfold State.writeSemOwn
  extract_lets a s1
  have h1 : Keeps s s1 := h.raise.setFld.ite h
  clear_value s1
  exact .ite (h1.lower.setFld.ite h1.cfgErr) h1

theorem Keeps.writeSemReg (h : Keeps s t) {a k req w} : Keeps s (t.writeSemReg a k req w) := h.plainWrite.ite h.cfgErr

theorem Keeps.writeSemCmd (h : Keeps s t) {k req w} : Keeps s (t.writeSemCmd k req w) := by
  unfold State.writeSemCmd
  extract_lets a go s1 o
  have h1 : Keeps s s1 := h.plainWrite
  clear_value s1
  exact h.cfgErr.ite (.ite (Keeps.raise h1.eq) h1)

theorem Keeps.semAmo (h : Keeps s t) {o} : Keeps s (t.semAmo o).2.2 := by
  unfold State.semAmo
  split
  · dsimp only
    split
    · rename_i e1
      have h1 := h.judge.snd e1
      split
      · rename_i e1
        have h1 := h1.readBlock.snd2 e1
        exact h1.writeBlock
      · rename_i e1
        exact h1.readBlock.snd2 e1
    · rename_i e1
      exact h.judge.snd e1
  · exact h

theorem Keeps.semOpDone (h : Keeps s t) {k} : Keeps s (t.semOpDone k) := by
  unfold State.semOpDone
  split
  · exact h
  · extract_lets own r s1
    have h1 : Keeps s s1 := (Keeps.semAmo h.eq).lower
    clear_value s1
    refine h1.ite ?_
    exact (Keeps.setFld h1.eq).setReg

theorem Keeps.semAwait (h : Keeps s t) {a} : Keeps s (t.semAwait a) := h.semOpDone.ite h

/-! ## `Keeps` through resets

The operations of Machine/Resets. -/

theorem Keeps.senseFuses (h : Keeps s t) : Keeps s t.senseFuses :=
  .foldl (fun _ _ h1 => h1.setFld) h.setFld.setFld.setFld.setFld.setFld.setFld.setFld

theorem Keeps.endOutstanding (h : Keeps s t) {d} : Keeps s (t.endOutstanding d) :=
  .foldl (fun _ _ h1 => .foldl (fun _ _ h2 => h2.postedFailed.ite h2.answer) h1.setWeir) h

theorem Keeps.engineLost (h : Keeps s t) {te} : Keeps s (t.engineLost te) := h.resetEngine.setTest.setFld.ite h.resetEngine.setTest

/-- A reset of registers keeps an entry's address, and leaves out one that has its reset value. -/
def resetEntry (p : Nat → Bool) (e : Nat × Word) : Option (Nat × Word) :=
  match domainOfReg e.1 with
  | some d => if p d then (if decide (afterReset e.1 e.2 = regReset e.1) then none else some (e.1, afterReset e.1 e.2)) else some e
  | none => some e

theorem resetRegs_eq {p regs} : resetRegs p regs = regs.filterMap (resetEntry p) := rfl

theorem resetEntry_some {p : Nat → Bool} {e x : Nat × Word} (h : resetEntry p e = some x) :
    x.1 = e.1 ∧ (e.2 ≠ regReset e.1 → x.2 ≠ regReset x.1) := by
  unfold resetEntry at h
  split at h
  · split at h
    · split at h
      · cases h
      · rename_i hw
        cases h
        exact ⟨rfl, fun _ => by simpa using hw⟩
    · cases h
      exact ⟨rfl, id⟩
  · cases h
    exact ⟨rfl, id⟩

theorem SMap.wf_resetRegs {p : Nat → Bool} {regs : List (Nat × Word)} (h : SMap.wf regReset regs = true) :
    SMap.wf regReset (resetRegs p regs) = true := by
  rw [SMap.wf_iff] at h ⊢
  rw [resetRegs_eq]
  refine ⟨List.pairwise_filterMap.2 (h.1.imp fun hlt x hx y hy => ?_), fun x hx => ?_⟩
  · rw [(resetEntry_some hx).1, (resetEntry_some hy).1]
    exact hlt
  · obtain ⟨e, he, hx⟩ := List.mem_filterMap.1 hx
    exact (resetEntry_some hx).2 (h.2 e he)

theorem Keeps.resetRegs (h : Keeps s t) {p} : Keeps s { t with regs := resetRegs p t.regs } :=
  h.of_maps (fun hc => by
    obtain ⟨hr, hm⟩ := canonical_iff.1 hc
    exact canonical_iff.2 ⟨SMap.wf_resetRegs hr, hm⟩) (Eq.refl _) (Eq.refl _)

theorem Keeps.resetPu (h : Keeps s t) {k} : Keeps s (t.resetPu k) := by
  unfold State.resetPu
  extract_lets tes s1 kept s2 s3
  have h1 : Keeps s s1 := .foldl (fun _ _ h1 => h1.engineLost) h
  clear_value s1
  have h2 : Keeps s s2 := h1.resetRegs.eq
  clear_value s2
  have h3 : Keeps s s3 := .foldl (fun _ _ h1 => h1.setEng) h2
  exact .foldl (fun _ _ h1 => h1.setFld.ite h1) h3

theorem Keeps.resetCluster (h : Keeps s t) {c} : Keeps s (t.resetCluster c) := .foldl (fun _ _ h1 => h1.engineLost.setTest) h

theorem Keeps.resetMiller (h : Keeps s t) : Keeps s t.resetMiller := by
  have h1 : Keeps s (t.millerEnd stEngineReset) := h.millerEnd
  unfold State.resetMiller
  generalize t.millerEnd stEngineReset = u at h1
  exact h1.eq

theorem Keeps.stopHart (h : Keeps s t) {n} : Keeps s (t.stopHart n) := h.setHart.setHartW.emptyL1.releaseSems

theorem Keeps.resetSensors (h : Keeps s t) : Keeps s t.resetSensors := h.eq

theorem Keeps.resetGateway (h : Keeps s t) : Keeps s t.resetGateway := h.eq

theorem Keeps.resetUnits (h : Keeps s t) {d} : Keeps s (t.resetUnits d) :=
  h.eq.restartHeath.ite (h.setDmc.setDmc.ite (h.resetMiller.ite (h.resetCluster.ite (h.resetPu.ite (.ite (.foldl (fun _ _ h1 =>
      h1.stopHart) h) (h.gfxEnd.eq.ite (h.eq.ite (h.resetSensors.ite (h.resetGateway.ite h)))))))))

theorem Keeps.keepFence (h : Keeps s t) {old} : Keeps s (t.keepFence old) := h.raise.setFld.setHeathMode.ite h

theorem Keeps.resetDomain (h : Keeps s t) {d} : Keeps s (t.resetDomain d) := by
  unfold State.resetDomain
  extract_lets s1 s2
  have h1 : Keeps s s1 := h.resetUnits.endOutstanding
  clear_value s1
  have h2 : Keeps s s2 := by
    simp only [s2]
    split
    · exact h1
    · exact h1.resetRegs
  exact .settle (.ite h2.keepFence (h2.setReg.ite h2))

theorem Keeps.recordController (h : Keeps s t) {t' k} : Keeps s (t.recordController t' k) := h.setFld.setFld.setFld.setFld.raise

theorem Keeps.recallController (h : Keeps s t) {k} : Keeps s (t.recallController k) := by
  unfold State.recallController
  split
  · exact h.recordController.ite h
  · exact h

theorem Keeps.leaveReset (h : Keeps s t) {d} : Keeps s (t.leaveReset d) := by
  unfold State.leaveReset
  extract_lets s1
  have h1 : Keeps s s1 := .foldl (fun _ _ h1 => h1.setWdt.ite h1) h
  clear_value s1
  exact h1.recallController.recallController.ite (h1.millerTo.ite (.ite (.foldl (fun _ _ h2 => h2.restartHart.ite h2) h1) h1))

theorem Keeps.requestReset (h : Keeps s t) {d} : Keeps s (t.requestReset d) := h.resetDomain.setFld.ite h

theorem Keeps.resetCause (h : Keeps s t) {f} : Keeps s (t.resetCause f) := h.raise

theorem bitAt_eq_testBit (v k : Nat) : bitAt v k = v.testBit k := by
  rw [bitAt, Nat.testBit_eq_decide_div_mod_eq]
  rfl

theorem bitAt_or {a b k : Nat} : bitAt (a ||| b) k = (bitAt a k || bitAt b k) := by
  simp only [bitAt_eq_testBit, Nat.testBit_or]

theorem Keeps.blowLifecycle (h : Keeps s t) {l : Nat} (hl : t.fuses.lifecycle ≤ l) (h2 : l ≤ 2) :
    Keeps s { t with fuses := { t.fuses with lifecycle := l } } :=
  h.burn fun ⟨hf, _, hw, hb⟩ =>
    ⟨⟨hf.trans hl, h2, hw, hb⟩, hl, Nat.le_refl _, fun _ hk => hk, fun _ => Nat.le_refl _, Nat.le_refl _, rfl, rfl⟩

theorem Keeps.blowRevoked (h : Keeps s t) {r : Nat} (hr : ∀ k, bitAt t.fuses.revoked k = true → bitAt r k = true) :
    Keeps s { t with fuses := { t.fuses with revoked := r } } :=
  h.burn fun ho => ⟨ho, Nat.le_refl _, Nat.le_refl _, hr, fun _ => Nat.le_refl _, Nat.le_refl _, rfl, rfl⟩

theorem Keeps.blowWear (h : Keeps s t) {b o} : Keeps s { t with
    fuses := { t.fuses with wear := min 2000 (t.fuses.wear + 1) }, therm := { t.therm with blow := b, owed := o } } :=
  h.burn fun ⟨hf, hl, hw, hb⟩ => ⟨⟨hf, hl, Nat.min_le_left _ _, hb⟩, Nat.le_refl _, Nat.le_refl _, fun _ hk => hk,
    fun _ => Nat.le_refl _, Nat.le_min.2 ⟨hw, Nat.le_succ _⟩, rfl, rfl⟩

theorem Keeps.beginCommit (h : Keeps s t) {c n : Nat} (hlt : t.fuses.counts[Fin.ofNat 8 c] < n) :
    Keeps s { t with rom := { t.rom with blowing := some (c, n) } } :=
  h.burn fun ⟨hf, hl, hw, _⟩ => ⟨⟨hf, hl, hw, fun _ _ e => by cases e; exact Nat.le_of_lt hlt⟩, .refl⟩

theorem Fuses.counts_set_le {v : Vector Nat 8} {c : Nat} {n : Nat} (hn : v[Fin.ofNat 8 c] ≤ n) (k : Fin 8) :
    v[k] ≤ (v.set (Fin.ofNat 8 c) n)[k] := by
  simp only [Fin.getElem_fin, Vector.getElem_set]
  split
  · rename_i e
    simpa [← e] using hn
  · exact Nat.le_refl _

theorem Keeps.finishCommit (h : Keeps s t) : Keeps s t.finishCommit := by
  unfold State.finishCommit
  split
  · rename_i c n e
    exact h.burn fun ⟨hf, hl, hw, hb⟩ => ⟨⟨hf, hl, hw, fun _ _ e => by cases e⟩, Nat.le_refl _, Nat.le_refl _, fun _ hk => hk,
      Fuses.counts_set_le (hb c n e), Nat.le_refl _, rfl, rfl⟩
  · exact h

/-- The counts after POR_N: a running commit has left its count anywhere between the old and the new. -/
theorem Fuses.powerOn_counts_le {f : Fuses} {o : Option (Nat × Nat)} {v : Nat} (k : Fin 8) :
    f.counts[k] ≤ (match o with
      | some (c, n) => f.counts.set (Fin.ofNat 8 c) (f.counts[Fin.ofNat 8 c] + v % (n + 1 - f.counts[Fin.ofNat 8 c]))
      | none => f.counts)[k] := by
  split
  · exact Fuses.counts_set_le (Nat.le_add_right _ _) k
  · exact Nat.le_refl _

theorem Keeps.powerOn (h : Keeps s t) : Keeps s t.powerOn := by
  unfold State.powerOn
  extract_lets counts wear
  have hc : ∀ k : Fin 8, t.fuses.counts[k] ≤ counts[k] := Fuses.powerOn_counts_le
  have hw : t.fuses.wear ≤ 2000 → t.fuses.wear ≤ wear ∧ wear ≤ 2000 := by
    simp only [wear]
    split <;> omega
  clear_value counts wear
  refine Keeps.senseFuses (h.trans ⟨fun hcan => ?_, fun ⟨hf, hl, h2, _⟩ => ?_⟩)
  · obtain ⟨_, _, hfl⟩ := canonical_iff.1 hcan
    exact canonical_iff.2 ⟨rfl, Memory.wf_reset, hfl⟩
  · exact ⟨⟨Nat.le_refl _, hl, (hw h2).2, fun _ _ e => by cases e⟩, Nat.le_refl _, hf, fun _ hk => hk, hc, (hw h2).1, rfl, rfl⟩

theorem Keeps.loseDirty (h : Keeps s t) : Keeps s t.loseDirty := .foldl (fun _ _ h1 => h1.storeFree) h

theorem Keeps.warm (h : Keeps s t) {cause} : Keeps s (t.warm cause) := by
  unfold State.warm
  extract_lets s0 _ cores r _ _ _ _ s1
  have h0 : Keeps s s0 := h.finishCommit.loseDirty
  clear_value s0
  have h1 : Keeps s s1 := by
    refine h0.trans ⟨fun hcan => ?_, fun ⟨hf, hl, hw, _⟩ => ⟨⟨hf, hl, hw, fun _ _ e => by cases e⟩, .refl⟩⟩
    obtain ⟨hr, hm, hfl⟩ := canonical_iff.1 hcan
    exact canonical_iff.2 ⟨SMap.wf_resetRegs hr, SMap.wf_filter hm, hfl⟩
  clear_value s1
  unfold State.resetCause
  exact h1.keepFence.senseFuses.raise

/-! ## `Keeps` through power domains

The operations of Machine/Power. -/

theorem Keeps.domainTo (h : Keeps s t) {d v} : Keeps s (t.domainTo d v) := h.setFld

theorem Keeps.writeOn (h : Keeps s t) {d on} : Keeps s (t.writeOn d on) := by
  unfold State.writeOn
  refine h.ite ?_
  dsimp only
  split
  · exact h.setFld.domainTo.noteHold
  · exact h.setFld
  · exact h.setFld.domainTo.lower
  · exact h.setFld.domainTo
  · exact h.setFld.domainTo
  · exact h.setFld.lower

theorem Keeps.writePwrDom (h : Keeps s t) {d w} : Keeps s (t.writePwrDom d w) :=
  h.writeOn.ite (h.writeOn.requestReset.ite h.writeOn.raise)

theorem Keeps.loseCode (h : Keeps s t) {d} : Keeps s (t.loseCode d) := .foldl (fun _ _ h1 => h1.setWdt) h

theorem Keeps.loseCaches (h : Keeps s t) {d} : Keeps s (t.loseCaches d) := .foldl (fun _ _ h1 => h1.storeFree) h.eq

theorem Keeps.zeroMemories (h : Keeps s t) {d} : Keeps s (t.zeroMemories d) :=
  h.wipe.ite (.ite (.foldl (fun _ _ h1 => h1.wipe) h) (h.eq.ite (h.eq.ite (h.eq.ite h))))

theorem Keeps.settleOn (h : Keeps s t) {d} : Keeps s (t.settleOn d) := h.domainTo.ite h.domainTo.noteHold

theorem Keeps.writeWarm (h : Keeps s t) {w} : Keeps s (t.writeWarm w) := h.warm.ite h

/-! ## `Keeps` through the boot ROM

The operations of Machine/Boot. -/

theorem Keeps.stage (h : Keeps s t) {n} : Keeps s (t.stage n) := h.ite h.setFld

theorem Keeps.romWrite (h : Keeps s t) {pa bs} : Keeps s (t.romWrite pa bs) := h.writeMem

theorem Keeps.markFailed (h : Keeps s t) {c code} : Keeps s (t.markFailed c code) := .eq (h.setFld.ite h.setFld.setFld)

theorem Keeps.haltHeath (h : Keeps s t) : Keeps s t.haltHeath := h.eq

theorem Keeps.spoil (h : Keeps s t) {c o} : Keeps s (t.spoil c o) := h.eq.romWrite.ite h

theorem Keeps.loadImage (h : Keeps s t) {c slot o} : Keeps s (t.loadImage c slot o) :=
  .setFld (.setFld (.foldl (fun _ _ h1 => h1.setWdt) (.eq (h.romWrite.ite h))))

theorem Keeps.writeHandover (h : Keeps s t) : Keeps s t.writeHandover := by
  unfold State.writeHandover
  dsimp only
  split
  · exact h.romWrite.romWrite
  · exact h.romWrite

theorem Keeps.startHeath (h : Keeps s t) : Keeps s t.startHeath := by
  unfold State.startHeath
  extract_lets entry s1
  have h1 : Keeps s s1 := h.allHeath
  clear_value s1
  exact (Keeps.eq h1).setWdt

theorem Keeps.releaseAll (h : Keeps s t) : Keeps s t.releaseAll := by
  unfold State.releaseAll
  extract_lets s1 s2 s3
  have h2 : Keeps s s2 := .foldl (fun _ _ h1 => .ite (.foldl (fun _ _ h2 => h2.setWdt) h1) h1) h.stage.startHeath
  clear_value s2
  have h3 : Keeps s s3 := h2.millerTo.ite h2
  exact h3.restartHart.ite h3

theorem Keeps.finishBoot (h : Keeps s t) : Keeps s t.finishBoot := h.stage.writeHandover.stage.releaseAll

theorem Keeps.toClass (h : Keeps s t) {c} : Keeps s (t.toClass c) := h.eq.finishBoot.ite h.eq

theorem Keeps.buildTable (h : Keeps s t) : Keeps s t.buildTable :=
  h.eq.raise.setFld.stage.markFailed.toClass.ite h.eq.raise.setFld.stage.toClass

theorem Keeps.recordTraining (h : Keeps s t) {t'} : Keeps s (t.recordTraining t') := .foldl (fun _ _ h1 => h1.recordController) h.eq

theorem Keeps.recallTraining (h : Keeps s t) : Keeps s t.recallTraining := by
  unfold State.recallTraining
  split
  · exact h.recordTraining.ite h
  · exact h

theorem Keeps.afterHeath (h : Keeps s t) {old} : Keeps s (t.afterHeath old) :=
  .ite (h.startHeath.ite h.eq.haltHeath) (h.stage.toClass.ite h.stage.toClass.recallTraining.buildTable)

theorem Keeps.failClass (h : Keeps s t) {c code} : Keeps s (t.failClass c code) :=
  h.markFailed.stage.haltHeath.ite h.markFailed.toClass

theorem Keeps.slotRead (h : Keeps s t) {dir answered} : Keeps s (t.slotRead dir answered) := by
  unfold State.slotRead
  dsimp only
  split
  · exact h
  · exact .ite (h.loadImage.afterHeath.ite h.loadImage.toClass) (h.spoil.eq.ite h.spoil.failClass)

theorem Keeps.dirRead (h : Keeps s t) {answered} : Keeps s (t.dirRead answered) :=
  h.eq.stage.ite (h.eq.stage.ite (.haltHeath (.stage (.foldl (fun _ _ h1 => h1.markFailed) h))))

theorem Keeps.romRead (h : Keeps s t) {answered} : Keeps s (t.romRead answered) := by
  unfold State.romRead
  refine h.ite ?_
  dsimp only
  split
  · exact .dirRead (h.raise.ite h)
  · exact .slotRead (h.raise.ite h)

theorem Keeps.writeHartrel (h : Keeps s t) {w} : Keeps s (t.writeHartrel w) :=
  .foldl (fun _ _ h1 => h1.restartHart.ite h1) h.plainWrite

theorem State.foldl_setHart_fuses {f : State → Nat → Hart} {ns : List Nat} :
    ∀ {t : State}, (ns.foldl (fun u n => u.setHart n (f u n)) t).fuses = t.fuses := by
  induction ns with
  | nil => exact rfl
  | cons n ns ih => exact ih.trans (State.setHart_fuses ..)

theorem Keeps.writeLcs (h : Keeps s t) {w} : Keeps s (t.writeLcs w) := by
  unfold State.writeLcs
  extract_lets l s1
  have h1 : Keeps s s1 := .foldl (fun _ _ h1 => h1.setHart) h
  have hf : s1.fuses = t.fuses := State.foldl_setHart_fuses
  clear_value s1
  split
  · rename_i hgo
    simp only [Bool.and_eq_true, Nat.blt_eq, Nat.ble_eq] at hgo
    obtain ⟨⟨_, hlt⟩, h2⟩ := hgo
    rw [← hf] at hlt
    exact (h1.blowLifecycle (Nat.le_of_lt hlt) h2).raise
  · exact h.cfgErr.ite h

theorem Keeps.writeKeyrev (h : Keeps s t) {w} : Keeps s (t.writeKeyrev w) := by
  unfold State.writeKeyrev
  extract_lets r
  exact h.ite (h.raise.ite (Keeps.setFld (h.blowRevoked fun k hk => by simp [r, bitAt_or, hk])))

theorem Keeps.writeArb (h : Keeps s t) {w} : Keeps s (t.writeArb w) := by
  unfold State.writeArb
  extract_lets a s1 c target
  refine h.raise.ite ?_
  have h1 : Keeps s s1 := h.plainWrite
  split
  · rename_i hgo
    simp only [Bool.and_eq_true, Nat.blt_eq] at hgo
    exact (h1.beginCommit hgo.2).raise
  · exact h1

/-! ## `Keeps` through error records

The operations of Machine/Errors. -/

theorem Keeps.raiseSafe (h : Keeps s t) : Keeps s t.raiseSafe := h.setFld.raise

theorem Keeps.enqueue (h : Keeps s t) {r} : Keeps s (t.enqueue r) := h.eq.ite h.eq.count

theorem Keeps.takeAction (h : Keeps s t) {u'} : Keeps s (t.takeAction u').2 := by
  unfold State.takeAction
  split
  · exact h.iteSnd h.requestReset
  · exact h.iteSnd h.eq
  · exact h

theorem Keeps.escalate (h : Keeps s t) {r} : Keeps s (t.escalate r).2 := by
  unfold State.escalate
  extract_lets src ranked fatal
  split
  rename_i flags s1 e
  have h1 : Keeps s s1 := by
    refine .snd ?_ e
    split
    · exact .iteSnd h.eq h
    · refine h.iteSnd ?_
      extract_lets c1 s2 x
      have h2 : Keeps s s2 := h.eq
      have hx : Keeps s x.2 := h2.takeAction
      clear_value x s2
      exact h2.itePair (h2.raiseSafe.itePair (hx.itePair h2))
  exact h1.raiseSafe.itePair h1

theorem Keeps.acceptRecord (h : Keeps s t) {r} : Keeps s (t.acceptRecord r) := h.eq.escalate.enqueue

theorem Keeps.writePop (h : Keeps s t) {w} : Keeps s (t.writePop w) := h.eq.ite h

theorem Keeps.writeSrc (h : Keeps s t) {n w} : Keeps s (t.writeSrc n w) := h.eq.ite h

theorem Keeps.writeSafe (h : Keeps s t) {w} : Keeps s (t.writeSafe w) := h.plainWrite.lower.ite h.plainWrite

/-! ## `Keeps` through the timebase

The operations of Machine/Timebase. -/

theorem Keeps.tmbEvent (h : Keeps s t) {f bit} : Keeps s (t.tmbEvent f bit) := h.ite h.setFld.interrupt

theorem Keeps.tmbCfgErr (h : Keeps s t) : Keeps s t.tmbCfgErr := h.tmbEvent

theorem Keeps.tmbWrite (h : Keeps s t) {a w} : Keeps s (t.tmbWrite a w) := h.plainWrite.interrupt.ite h.plainWrite

theorem Keeps.unlock (h : Keeps s t) : Keeps s t.unlock := h.eq.lower.tmbEvent.ite h.eq

theorem Keeps.enterHoldover (h : Keeps s t) {c} : Keeps s (t.enterHoldover c) := h.eq.ite h.eq.raise.setReg.tmbEvent.report.unlock

theorem Keeps.leaveHoldover (h : Keeps s t) {c} : Keeps s (t.leaveHoldover c) := h.eq.ite h.eq.lower

theorem Keeps.setNow (h : Keeps s t) {n} : Keeps s (t.setNow n) := h.eq

theorem Keeps.ppsPulse (h : Keeps s t) {b} : Keeps s (t.ppsPulse b) := h.eq.ite h

theorem Keeps.reachTop (h : Keeps s t) : Keeps s t.reachTop := h.eq

theorem Keeps.adjust (h : Keeps s t) {a} : Keeps s (t.adjust a) := by
  unfold State.adjust
  dsimp only
  split
  · exact h.eq.ite (h.eq.ttStep.setNow.setFld.setReg.unlock.tmbEvent.report.ppsPulse.ite
      h.eq.ttStep.setNow.setFld.setReg.unlock.tmbEvent.report)
  · exact h.ite (h.eq.ttStep.setNow.setFld.setReg.unlock.tmbEvent.report.ppsPulse.ite
      h.eq.ttStep.setNow.setFld.setReg.unlock.tmbEvent.report)

theorem Keeps.advance (h : Keeps s t) : Keeps s t.advance := by
  unfold State.advance
  extract_lets old sum n _ s1 _ s2 s3 s4
  have h3 : Keeps s s3 := Keeps.setNow (h.eq.ite h.eq)
  clear_value s3
  have h4 : Keeps s s4 := h3.ppsPulse.ite h3
  clear_value s4
  exact h4.setReg.ite h4

theorem Keeps.commitIncr (h : Keeps s t) {v} : Keeps s (t.commitIncr v) := h.eq.setReg.setFld.ite h.eq.setReg.setFld.tmbCfgErr

theorem Keeps.writeIncrHi (h : Keeps s t) {w} : Keeps s (t.writeIncrHi w) := h.commitIncr

theorem Keeps.writeAdjCtrl (h : Keeps s t) {w} : Keeps s (t.writeAdjCtrl w) := by
  unfold State.writeAdjCtrl
  extract_lets s1 raw lo _ add ns
  have h1 : Keeps s s1 := h.tmbWrite
  clear_value s1
  have ha : ∀ {x}, Keeps s (add x) := h1.setTb
  exact h1.ite (.ite (h1.tmbCfgErr.ite ha) (h1.tmbCfgErr.ite ha))

theorem Keeps.latchSec (h : Keeps s t) : Keeps s t.latchSec := h.setReg.setReg

theorem Keeps.writeTmbCtrl (h : Keeps s t) {w} : Keeps s (t.writeTmbCtrl w) := by
  unfold State.writeTmbCtrl
  extract_lets s1 servo domain _ s2 _ s4 s3
  have h1 : Keeps s s1 := h.tmbWrite
  clear_value s1
  have h2 : Keeps s s2 := h1.setTb.ite h1
  clear_value s2
  have h3 : Keeps s s3 := by
    have h4 : Keeps s s4 := h2.setTb.unlock
    clear_value s4
    exact h2.ite (h4.leaveHoldover.ite h4)
  clear_value s3
  exact h3.ite h3.setPinsTb

theorem Keeps.servoUpdate (h : Keeps s t) {theta t'} : Keeps s (t.servoUpdate theta t') := h.eq.commitIncr

theorem Keeps.lockUpdate (h : Keeps s t) {theta} : Keeps s (t.lockUpdate theta) := h.unlock.ite (h.eq.ite (h.eq.raise.ite h.eq))

theorem Keeps.offset (h : Keeps s t) {theta} : Keeps s (t.offset theta) := by
  unfold State.offset
  extract_lets dt t' _ s1 s2 s3
  have h1 : Keeps s s1 := Keeps.setReg h.eq
  clear_value s1
  have h2 : Keeps s s2 := h1.leaveHoldover.ite h1
  clear_value s2
  have h3 : Keeps s s3 := h2.lockUpdate
  clear_value s3
  exact h2.ite (.ite (h3.eq.ite h3.servoUpdate) h3)

theorem Keeps.ptpFollow (h : Keeps s t) {d gm gmSelf} : Keeps s (t.ptpFollow d gm gmSelf) := by
  unfold State.ptpFollow
  extract_lets st old oldSlave slave s1 changed s2
  have h1 : Keeps s s1 := h.setFld.setFld.setFld.setReg.setReg
  clear_value s1
  have h2 : Keeps s s2 := h1.count.ite h1
  exact h2.enterHoldover.ite h2

theorem Keeps.bmca (h : Keeps s t) {d} : Keeps s (t.bmca d) := by
  unfold State.bmca
  dsimp only
  split <;> exact .ptpFollow (h.ite h.eq)

theorem Keeps.writePtpRole (h : Keeps s t) {d w} : Keeps s (t.writePtpRole d w) :=
  h.raise.ite (h.plainWrite.ptpFollow.ite h.plainWrite)

theorem Keeps.writePtpCfg (h : Keeps s t) {d w} : Keeps s (t.writePtpCfg d w) := h.plainWrite.ptpFollow

theorem Keeps.ptpSend (h : Keeps s t) {ms} : Keeps s (t.ptpSend ms) := h.ite h.eq

theorem Keeps.setPin (h : Keeps s t) {n p} : Keeps s (t.setPin n p) := h.eq

theorem Keeps.capUpdate (h : Keeps s t) {n} : Keeps s (t.capUpdate n) :=
  h.setFld.setFld.ite (h.setFld.ite h.setFld.setFld.interrupt)

theorem Keeps.pinInactive (h : Keeps s t) {n} : Keeps s (t.pinInactive n) := h.setPin

theorem Keeps.activeEdge (h : Keeps s t) {n} : Keeps s (t.activeEdge n) :=
  h.ite (h.setPin.ite (h.setPin.tmbEvent.count.ite (h.eq.setPin.capUpdate.offset.ite h.eq.setPin.capUpdate)))

theorem Keeps.popCapture (h : Keeps s t) {n} : Keeps s (t.popCapture n) := by
  unfold State.popCapture
  split
  · exact h.setPin.setReg.setFld.capUpdate
  · exact h

/-! ## `Keeps` through register writes by address

The operations of Machine/Registers. -/

theorem Keeps.writeTen (h : Keeps s t) {a w} : Keeps s (t.writeTen a w) :=
  h.writeTenCtrl.ite (h.writeCqTail.ite (h.writeTenWdt.ite (h.cfgErr.ite (h.plainWrite.cfgErr.ite h.plainWrite))))

theorem Keeps.writeDoorbell (h : Keeps s t) {a w} : Keeps s (t.writeDoorbell a w) :=
  h.sqDoorbell.ite (h.writeCqHead.settle.ite (h.dbIgnored.ite h.plainWrite))

theorem Keeps.writeTcx (h : Keeps s t) {a w} : Keeps s (t.writeTcx a w) := h.writeTcxCtrl.ite (h.cfgErr.ite h.plainWrite)

theorem Keeps.writeDmc (h : Keeps s t) {a w} : Keeps s (t.writeDmc a w) :=
  h.ite (h.writeRangeCtrl.ite (h.writeMark.ite (h.ite h.plainWrite)))

theorem Keeps.writeCacheSluice (h : Keeps s t) {a w} : Keeps s (t.writeCacheSluice a w) :=
  h.writeFlush.ite (h.writeHold.ite (h.writeWheel.ite h.plainWrite))

theorem Keeps.writeGuard (h : Keeps s t) {a w} : Keeps s (t.writeGuard a w) :=
  .ite (h.writeRegion.ite h) (h.writeFence.ite h.plainWrite)

theorem Keeps.writeTmb (h : Keeps s t) {a w} : Keeps s (t.writeTmb a w) :=
  h.writeTmbCtrl.ite (h.writeIncrHi.ite (h.writeAdjCtrl.ite h.tmbWrite))

theorem Keeps.writeTtb (h : Keeps s t) {a w} : Keeps s (t.writeTtb a w) :=
  h.writeTtbWindow.ite (h.writeTtbCtrl.ite (h.writeTtbCycle.ite (h.writeTtbCycle.ite h.plainWrite)))

theorem Keeps.writeSensor (h : Keeps s t) {a w} : Keeps s (t.writeSensor a w) :=
  h.writeCsiCfg.ite (h.writeSspCfg.ite (h.writeSspWm.ite (.ite (h.writeStrCtrl.ite (h.writeStrDesc.ite (h.writeStrTail.ite
      h.plainWrite))) (.ite (h.writeFusWindow.ite (h.writeFusCtrl.ite (h.writeRephase.ite (h.writeFusBufTail.ite h.plainWrite))))
          h.plainWrite))))

theorem Keeps.writePicture (h : Keeps s t) {a w} : Keeps s (t.writePicture a w) :=
  .ite (.ite (h.writeGqCtrl.ite (h.writeGqDesc.ite h.plainWrite)) (.ite (h.writeGqTail.ite (h.writeGqHead.ite (h.gqIgnored.ite
      h.plainWrite))) h.plainWrite)) (h.writeDspCtrl.ite (h.writeDspDesc.ite (h.writeFlipTail.ite (h.writeFlipHead.ite
          (h.dspIgnored.ite h.plainWrite)))))

theorem Keeps.writeGateTmo (h : Keeps s t) {w} : Keeps s (t.writeGateTmo w) := h.cfgErr.ite h.plainWrite

theorem Keeps.writeImsicOwn (h : Keeps s t) {w} : Keeps s (t.writeImsicOwn w) := .foldl (fun _ _ h1 => h1.attention) h.plainWrite

theorem Keeps.writeWorld (h : Keeps s t) {a w} : Keeps s (t.writeWorld a w) :=
  .ite (h.writePair.ite (h.writePair.ite h.plainWrite)) (h.writeFail.ite (h.writeGateTmo.ite (h.writeImsicOwn.ite (h.writeOwner.ite
      h.plainWrite))))

theorem Keeps.writeTsw (h : Keeps s t) {a w} : Keeps s (t.writeTsw a w) :=
  h.writeGcl.ite (h.writeHifCtrl.ite (h.writeHifDesc.ite (h.writePtpCfg.ite (h.writePtpRole.ite (h.writeTunnel.ite
      (h.writeGateList.ite (h.writeHifTail.ite (h.writeHifTail.ite (h.hifIgnored.ite h.plainWrite)))))))))

theorem Keeps.writeCan (h : Keeps s t) {a w} : Keeps s (t.writeCan a w) :=
  h.writeCanCtrl.ite (h.writeCanDesc.ite (h.writeCanTail.ite (h.writeCanHead.ite (h.canIgnored.ite h.plainWrite))))

theorem Keeps.writeSlow (h : Keeps s t) {a w} : Keeps s (t.writeSlow a w) :=
  .ite (h.writePceCfg.ite h.plainWrite) (h.writeXspTail.ite (.ite (h.count.ite h.plainWrite) (.ite (h.writeAudCtrl.ite
      (h.writeAudDesc.ite (h.writeAudTail.ite h.plainWrite))) h.plainWrite)))

theorem Keeps.writeWir (h : Keeps s t) {req a w} : Keeps s (t.writeWir req a w) := by
  unfold State.writeWir
  refine h.writeWirCtrl.ite (.ite ?_ h.plainWrite)
  dsimp only
  split
  · exact h.writeSemOwn
  · exact h.writeSemCmd
  · exact h.writeSemReg

theorem Keeps.writePower (h : Keeps s t) {a w} : Keeps s (t.writePower a w) :=
  h.writePwrDom.ite (h.writeShold.ite (h.writeShold.ite (h.writeHhold.ite (h.writeHhold.ite (h.writeWarm.ite (h.writeSurge.ite
      h.plainWrite))))))

theorem Keeps.writeBoot (h : Keeps s t) {req a w} : Keeps s (t.writeBoot req a w) :=
  h.writeHartrel.ite (h.writeLcs.ite (h.writeKeyrev.ite (h.writeArb.ite (h.writeLogCfg.ite (h.writeTrace.ite (h.ite
      h.plainWrite))))))

theorem Keeps.writeHth (h : Keeps s t) {a w} : Keeps s (t.writeHth a w) :=
  h.writeHeathMode.ite (h.writePop.ite (h.writeSafe.ite (h.writeSrc.ite h.plainWrite)))

theorem Keeps.regWrite (h : Keeps s t) {req a w} : Keeps s (t.regWrite req a w) :=
  h.writeTen.ite (h.writeDoorbell.ite (h.writeTcx.ite (h.writeDmc.ite (h.writeCacheSluice.ite (h.writeGuard.ite (h.writeTmb.ite
      (h.writeTtb.ite (h.writeSensor.ite (h.writePicture.ite (h.writeWorld.ite (h.writeTsw.ite (h.writeCan.ite (h.writeSlow.ite
          (h.writeWir.ite (h.writePower.ite (h.writeBoot.ite (h.writeHth.ite h.plainWrite)))))))))))))))))

theorem Keeps.readEffect (h : Keeps s t) {a} : Keeps s (t.readEffect a) := h.latchSec.ite (h.popCapture.ite h.clearRead)

theorem Keeps.writeAt (h : Keeps s t) {req a width w} : Keeps s (t.writeAt req a width w).2 := by
  unfold State.writeAt
  refine h.iteSnd ?_
  split
  · split
    · rename_i e1
      have h1 := h.regCheck.snd e1
      exact h1.regWrite
    · exact h.regCheck
  · exact h.iteSnd (h.deliver.ite h)
  · exact h.decodeError
  · exact h.writeMem

theorem Keeps.readAt (h : Keeps s t) {req a} : Keeps s (t.readAt req a).2.2 := by
  unfold State.readAt
  refine h.iteSnd2 ?_
  split
  · split
    · rename_i e1
      have h1 := h.regCheck.snd e1
      exact h1.semAwait.readEffect
    · rename_i e1
      exact h.regCheck.snd e1
  · exact h.iteSnd2 h
  · exact h.decodeError
  · split
    · rename_i e1
      exact h.readMem.snd2 e1

/-! ## `Keeps` through requests through bridges

The operations of Machine/Bridges. -/

theorem Keeps.passDown (h : Keeps s t) {n i} : Keeps s (t.passDown n i) := by
  unfold State.passDown
  split
  · exact h.writeAt.answer
  · split
    · rename_i e1
      have h1 := h.readAt.snd2 e1
      exact h1.answer.ite h1.setWeir

theorem Keeps.admitPosted (h : Keeps s t) {n} : Keeps s (t.admitPosted n) := by
  unfold State.admitPosted
  dsimp only
  split
  · exact h
  · exact h.setBridgeQueue.answer.ite h

theorem Keeps.issueFree {n fuel} : ∀ {t}, Keeps s t → Keeps s (State.issueFree t n fuel) := by
  induction fuel with
  | zero => intro t h; unfold State.issueFree; exact h
  | succ fuel ih =>
    intro t h
    unfold State.issueFree
    dsimp only
    split
    · exact h
    · exact ih h.setBridgeQueue.passDown

theorem Keeps.bridgeAdvance (h : Keeps s t) {n} : Keeps s (t.bridgeAdvance n) := h.admitPosted.issueFree

theorem Keeps.targetLost (h : Keeps s t) {n a} : Keeps s (t.targetLost n a) := h.raise.report

theorem Keeps.pceWrite (h : Keeps s t) {req iova data} : Keeps s (t.pceWrite req iova data).2 := by
  unfold State.pceWrite
  split
  · exact h.writeAt.iteSnd h.put
  · exact h.put

theorem Keeps.pceRead (h : Keeps s t) {req iova len} : Keeps s (t.pceRead req iova len).2.2 := by
  unfold State.pceRead
  split
  · refine .iteSnd2 ?_ h.fetch
    split
    · rename_i e1
      exact h.readAt.snd2 e1
  · exact h.fetch

/-! ## `Keeps` through self-tests

The operations of Machine/SelfTest. -/

theorem Keeps.shutWindow (h : Keeps s t) {w} : Keeps s (t.shutWindow w) := h.setWindow.lower

theorem Keeps.openWindow (h : Keeps s t) {w scope} : Keeps s (t.openWindow w scope) := h.ite h.setWindow.raise

theorem Keeps.closeWindow (h : Keeps s t) {w} : Keeps s (t.closeWindow w) := by
  unfold State.closeWindow
  split
  · exact h
  · exact h.shutWindow.ite (.foldl (fun _ _ h1 => h1.report) h.shutWindow.raise)

theorem Keeps.goldenWindow (h : Keeps s t) {g} : Keeps s (t.goldenWindow g) := by
  unfold State.goldenWindow
  split
  · exact h.goldenDefer
  · split
    · rename_i e1
      have h1 := h.admission.snd e1
      exact h1.goldenFail.finish
    · rename_i e1
      have h1 := h.admission.snd e1
      split
      · exact h1.goldenDefer
      · exact h1.eq.setHeld.placeJob.count.setFld

theorem Keeps.goldenOpen (h : Keeps s t) {w} : Keeps s (t.goldenOpen w) := .foldl (fun _ _ h1 => h1.goldenWindow.ite h1) h

theorem Keeps.segmentPassed (h : Keeps s t) {te} : Keeps s (t.segmentPassed te) := .setFld (h.setTest.ite h.setTest)

theorem Keeps.segmentFailed (h : Keeps s t) {te} : Keeps s (t.segmentFailed te) := h.setTest.setFld.report

/-! ## `Keeps` through firmware watchdogs

The operations of Machine/Watchdogs. -/

theorem Keeps.clusterWatchdog (h : Keeps s t) {c} : Keeps s (t.clusterWatchdog c) := by
  unfold State.clusterWatchdog
  refine .foldl (fun _ _ h1 => ?_) h
  refine .resetKept ?_
  split
  · exact h1.faultJob
  · exact h1

theorem Keeps.ispWatchdog (h : Keeps s t) : Keeps s t.ispWatchdog := by
  unfold State.ispWatchdog
  refine .foldl (fun _ _ h1 => ?_) h
  split
  · exact .ite (.setStream (.foldl (fun _ _ h1 => h1.writeRecord) h1.closeFrame)) h1
  · exact h1

theorem Keeps.procReset (h : Keeps s t) {p} : Keeps s (t.procReset p) :=
  h.millerReset.ite (h.clusterWatchdog.ite (h.gfxEnd.ite (h.ispWatchdog.ite h.heathFatal)))

theorem Keeps.hold (h : Keeps s t) {p} : Keeps s (t.hold p) := h.raise.report.log.setWdt.millerTo.ite h.raise.report.log.setWdt

theorem Keeps.expire (h : Keeps s t) {p early} : Keeps s (t.expire p early) := by
  unfold State.expire
  extract_lets s1 s2 recent _ s3
  have h1 : Keeps s s1 := h.log.count
  clear_value s1
  have h2 : Keeps s s2 := h1.ite h1.report
  have h3 : Keeps s s3 := h2.setWdt.procReset
  exact .settle (h3.hold.ite h3)

/-! ## `Keeps` through the commands of more than one line

A command whose meaning is one operation, or a choice between a few, has no lemma of its own: its line in `keepsOut_exec` says it. -/

theorem keepsOut_execTimetableFiring (h : Keeps s t) {entry} : KeepsOut s (execTimetableFiring entry t) := by
  unfold execTimetableFiring
  refine .next ?_
  split
  · exact h.fireEntry.ite h
  · exact h

theorem keepsOut_execTriggerPulseEnd (h : Keeps s t) {pin} : KeepsOut s (execTriggerPulseEnd pin t) := by
  unfold execTriggerPulseEnd
  refine .next ?_
  split
  · exact h.eq.ite h
  · exact h

theorem keepsOut_execTimetableSwapCheckDone (h : Keeps s t) : KeepsOut s (execTimetableSwapCheckDone t) := by
  unfold execTimetableSwapCheckDone
  refine .next (.ite ?_ h)
  dsimp only
  split
  · exact h.eq.raise.setFld.lower
  · exact h.eq

theorem keepsOut_execHeathCycleEvent (h : Keeps s t) : KeepsOut s (execHeathCycleEvent t) := by
  unfold execHeathCycleEvent
  refine .next ?_
  split
  · exact h
  · rename_i e1
    exact (h.takeEvent e1).setHeath

theorem keepsOut_execGateSwitchEvent (h : Keeps s t) : KeepsOut s (execGateSwitchEvent t) := by
  unfold execGateSwitchEvent
  refine .next ?_
  split
  · exact h
  · rename_i e1
    have h1 := h.takeEvent e1
    exact h1.setGw.ite h1.tswErr

theorem keepsOut_execGateListChange (h : Keeps s t) {port} : KeepsOut s (execGateListChange port t) := by
  unfold execGateListChange
  refine .next ?_
  split
  · exact h.eq.raise.setFld.drainPort.ite h
  · exact h

theorem keepsOut_execHifTransmit (h : Keeps s t) {egress} : KeepsOut s (execHifTransmit egress t) := by
  unfold execHifTransmit
  refine .next ?_
  split
  · exact h
  · dsimp only
    split
    · exact h
    · split
      · rename_i e1
        have h1 := h.fetch.snd2 e1
        refine .ite ?_ (.count (.ite (.hifMsi (.setReg (h1.put.put.ite h1.put))) (.setReg (h1.put.put.ite h1.put))))
        split
        · rename_i e1
          have h1 := h1.fetch.snd2 e1
          exact .forward (.ite (.hifMsi (.setReg (h1.put.put.ite h1.put))) (.setReg (h1.put.put.ite h1.put)))
        · rename_i e1
          have h1 := h1.fetch.snd2 e1
          exact .count (.ite (.hifMsi (.setReg (h1.put.put.ite h1.put))) (.setReg (h1.put.put.ite h1.put)))
      · rename_i e1
        have h1 := h.fetch.snd2 e1
        exact h1.setReg.count

theorem keepsOut_execCanTransmit (h : Keeps s t) {can sent tec rec} : KeepsOut s (execCanTransmit can sent tec rec t) := by
  unfold execCanTransmit
  refine .next ?_
  split
  · exact h
  · refine h.ite ?_
    split
    · exact h.eq.canSent.canCounters
    · extract_lets head at_ next
      refine h.ite ?_
      split
      · rename_i e1
        have h1 := h.canFetch.snd2 e1
        extract_lets fl r good s2 s3 s4
        have h3 : Keeps s s3 := h1.txFrame.canSent.canPut.canPut
        clear_value s3
        have h4 : Keeps s s4 := h3.setFld.canCounters.ite h3.setFld
        exact h4.canIrq.ite h4
      · rename_i e1
        exact (h.canFetch.snd2 e1).setFld

theorem keepsOut_execTunnelHoldExpiry (h : Keeps s t) {tunnel} : KeepsOut s (execTunnelHoldExpiry tunnel t) := by
  unfold execTunnelHoldExpiry
  refine .next ?_
  split
  · exact h
  · exact h.talk.ite h

theorem keepsOut_execCanFrameReceived (h : Keeps s t) {can frame} : KeepsOut s (execCanFrameReceived can frame t) := by
  unfold execCanFrameReceived
  refine .next ?_
  split
  · exact h
  · exact h.ite (.ite (.foldl (fun _ _ h1 => h1.collect) h.canReceive) h.canReceive)

theorem keepsOut_execVsyncLead (h : Keeps s t) {head} : KeepsOut s (execVsyncLead head t) := by
  unfold execVsyncLead
  refine .next ?_
  dsimp only
  split
  · exact h
  · exact h.ite (h.examineFlip.ite h.examineFlip.setHead.count)

theorem keepsOut_execVsync (h : Keeps s t) {head} : KeepsOut s (execVsync head t) := by
  unfold execVsync
  refine .next ?_
  dsimp only
  split
  · exact h
  · refine h.ite ?_
    split
    · exact h.setHead
    · exact h.setHead.flipEnd

theorem keepsOut_execDecodeErrorAccess (h : Keeps s t) {req type addr} : KeepsOut s (execDecodeErrorAccess req type addr t) := by
  unfold execDecodeErrorAccess
  refine .next (h.ite ?_)
  split
  · exact h.judged.answer.ite h
  · exact h.judged.answer.ite h
  · exact h.judged.answer.ite h
  · exact h

theorem keepsOut_execDdrRead (h : Keeps s t) {req addr upset} : KeepsOut s (execDdrRead req addr upset t) := by
  unfold execDdrRead
  refine .next (h.ite ?_)
  split
  · dsimp only
    split
    · rename_i e1
      have h1 := h.judged.snd e1
      exact h1.ddrRead.answer
    · rename_i e1
      have h1 := h.judged.snd e1
      exact h1.answer
  · exact h

theorem keepsOut_execDdrFullWrite (h : Keeps s t) {req addr data} : KeepsOut s (execDdrFullWrite req addr data t) := by
  unfold execDdrFullWrite
  refine .next (h.ite ?_)
  split
  · dsimp only
    split
    · rename_i e1
      have h1 := h.judged.snd e1
      exact h1.ddrWrite.answer
    · rename_i e1
      have h1 := h.judged.snd e1
      exact h1.answer
  · exact h

theorem keepsOut_execDdrPartialWrite (h : Keeps s t) {req addr data posted upset} :
    KeepsOut s (execDdrPartialWrite req addr data posted upset t) := by
  unfold execDdrPartialWrite
  refine .next (h.ite ?_)
  split
  · dsimp only
    split
    · rename_i e1
      have h1 := h.judged.snd e1
      exact h1.ddrWrite.ite h1.ddrWrite.answer
    · rename_i e1
      have h1 := h.judged.snd e1
      exact h1.ite h1.answer
  · exact h

theorem keepsOut_execScrubRead (h : Keeps s t) {sub upset} : KeepsOut s (execScrubRead sub upset t) := by
  unfold execScrubRead
  refine .next (h.ite ?_)
  split
  · exact h
  · dsimp only
    split <;> exact h.ddrDecode.setDmc

theorem keepsOut_execRangePassRead (h : Keeps s t) {dmc upset} : KeepsOut s (execRangePassRead dmc upset t) := by
  unfold execRangePassRead
  refine .next ?_
  split
  · exact h
  · split
    · exact h.endPass
    · dsimp only
      split
      · exact h.ddrDecode.setDmc
      · exact h.ddrDecode.endPass

theorem keepsOut_execSramRead (h : Keeps s t) {req addr upset} : KeepsOut s (execSramRead req addr upset t) := by
  unfold execSramRead
  refine .next (h.ite (.ite ?_ h))
  split
  · rename_i e1
    have h1 := h.judged.snd e1
    exact h1.sramReadWord.answer
  · rename_i e1
    have h1 := h.judged.snd e1
    exact h1.answer

theorem keepsOut_execSramNarrowWrite (h : Keeps s t) {req addr data upset} :
    KeepsOut s (execSramNarrowWrite req addr data upset t) := by
  unfold execSramNarrowWrite
  refine .next (h.ite (.ite ?_ h))
  split
  · rename_i e1
    have h1 := h.judged.snd e1
    exact h1.sramWriteWord.answer
  · rename_i e1
    have h1 := h.judged.snd e1
    exact h1.answer

theorem keepsOut_execSlcAccess (h : Keeps s t) {req addr data err} : KeepsOut s (execSlcAccess req addr data err t) := by
  unfold execSlcAccess
  refine .next (h.ite ?_)
  dsimp only
  split
  · split
    · rename_i e1
      have h1 := h.judged.snd e1
      split
      · rename_i e1
        have h1 := h.judged.snd e1
        refine .answer (.ddrWrite ?_)
        split
        · exact h1.slcError
        · exact h1
      · rename_i e1
        have h1 := h.judged.snd e1
        refine .answer (.ddrRead ?_)
        split
        · exact h1.slcError
        · exact h1
    · rename_i e1
      have h1 := h.judged.snd e1
      exact h1.answer
  · exact h

theorem keepsOut_execFlitParityError (h : Keeps s t) {router dir flit} : KeepsOut s (execFlitParityError router dir flit t) := by
  unfold execFlitParityError
  extract_lets here old others n link s1 s2
  have h1 : Keeps s s1 := Keeps.count h.eq
  clear_value s1
  have h2 : Keeps s s2 := h1.ite h1.setFld.setFld.raise
  clear_value s2
  exact .next (h.ite (h.eq.ite (.ite (Keeps.report h2.eq) h1)))

theorem keepsOut_execWheelSlot (h : Keeps s t) {sub found maintenance} : KeepsOut s (execWheelSlot sub found maintenance t) := by
  unfold execWheelSlot
  extract_lets s1 k x upkeep burst left s2
  have h1 : Keeps s s1 := .foldl (fun _ _ h1 => h1.bufferNow) h
  have h2 : Keeps s s2 := h1.passSlot
  clear_value s2
  exact .next h2.eq

theorem SMap.wf_bankSwap {live regs : List (Nat × Word)} {p : Nat × Word → Bool} (h : SMap.wf regReset regs = true) :
    SMap.wf regReset (live.foldl (fun m e => SMap.set regReset m e.1 e.2) (regs.filter p)) = true :=
  SMap.wf_foldl live (SMap.wf_filter h)

theorem keepsOut_execWheelBankSwap (h : Keeps s t) : KeepsOut s (execWheelBankSwap t) := by
  unfold execWheelBankSwap
  extract_lets isWheel regs s1
  have h1 : Keeps s s1 := h.of_maps (fun hc => by
    obtain ⟨hr, hm⟩ := canonical_iff.1 hc
    exact canonical_iff.2 ⟨SMap.wf_foldl _ (SMap.wf_filter hr), hm⟩) rfl rfl
  clear_value s1
  exact .next (h1.lower.setFld.ite h)

theorem keepsOut_execRenderPass (h : Keeps s t) {q batches writes} : KeepsOut s (execRenderPass q batches writes t) := by
  unfold execRenderPass
  refine .next (h.gfxTake (fun _ _ h1 => ?_))
  dsimp only
  split
  · exact h1.takeHold.gfxStart
  · exact h1.takeHold.gqEnd

theorem keepsOut_execDispatch (h : Keeps s t) {q writes} : KeepsOut s (execDispatch q writes t) := by
  unfold execDispatch
  refine .next (h.gfxTake (fun _ _ h1 => ?_))
  split
  · exact h1.gfxStart
  · exact h1.gqEnd

theorem keepsOut_execGraphicsEntryEnd (h : Keeps s t) {fault} : KeepsOut s (execGraphicsEntryEnd fault t) := by
  unfold execGraphicsEntryEnd
  refine .next ?_
  split
  · exact h
  · dsimp only
    split
    · exact h.gfxEnd.tileFault
    · exact h.gfxEnd

theorem keepsOut_execGraphicsWatchdog (h : Keeps s t) : KeepsOut s (execGraphicsWatchdog t) := by
  unfold execGraphicsWatchdog
  refine .next ?_
  split
  · exact h.gfxEnd.ite h
  · exact h

theorem keepsOut_execGuardedAccess (h : Keeps s t) {req type addr len} : KeepsOut s (execGuardedAccess req type addr len t) := by
  unfold execGuardedAccess
  refine .next ?_
  split
  · exact h
  · exact h.ite (h.relabel.eq.ite h.relabel.guarded)

theorem keepsOut_execGuardFenceCommit (h : Keeps s t) {target} : KeepsOut s (execGuardFenceCommit target t) := by
  unfold execGuardFenceCommit
  extract_lets s1 s2 waited s3
  have h1 : Keeps s s1 := .foldl (fun _ _ h1 => h1.commitRegion) h
  have h2 : Keeps s s2 := h1.lower.lower
  clear_value s2
  exact .next (.ite (.foldl (fun _ _ h1 => h1.guarded) h2.eq) h)

theorem keepsOut_execHartAccessFault (h : Keeps s t) {hart type meets va gpa} :
    KeepsOut s (execHartAccessFault hart type meets va gpa t) := by
  unfold execHartAccessFault
  refine .next (h.interrupted.ite (.ite ?_ (.onHart ?_)))
  · split
    · split
      · exact h.lineError.iteSnd h
      · exact h
    · exact h
  · split
    · split
      · exact h.lineError.iteSnd h
      · exact h
    · exact h

theorem keepsOut_execLksyncLock (h : Keeps s t) {hart word} : KeepsOut s (execLksyncLock hart word t) := by
  unfold execLksyncLock
  refine .next ?_
  split
  · exact h.lksync
  · exact h

theorem keepsOut_execLksyncSplit (h : Keeps s t) {hart word} : KeepsOut s (execLksyncSplit hart word t) := by
  unfold execLksyncSplit
  refine .next ?_
  split
  · exact h.lksync
  · exact h

theorem keepsOut_execGateTimerExpiry (h : Keeps s t) {hart} : KeepsOut s (execGateTimerExpiry hart t) := by
  unfold execGateTimerExpiry
  refine .next ?_
  split
  · exact h.failSecure.ite h
  · exact h

theorem keepsOut_execLockEntryDone (h : Keeps s t) {pair} : KeepsOut s (execLockEntryDone pair t) := by
  unfold execLockEntryDone
  refine .next (.ite ?_ h)
  dsimp only
  split
  · exact .ite (.forceBack (h.lockEntry.forceBack.ite h.lockEntry)) (h.lockEntry.forceBack.ite h.lockEntry)
  · exact h.lockEntry

theorem keepsOut_execFusionInstantEvent (h : Keeps s t) : KeepsOut s (execFusionInstantEvent t) := by
  unfold execFusionInstantEvent
  refine .next ?_
  split
  · exact h
  · rename_i e1
    have h0 := h.takeEvent e1
    extract_lets i s1 inst s2 p r _ s3
    have h1 : Keeps s s1 := h0.fusionSwap.ite h0
    clear_value s1
    have h2 : Keeps s s2 := h1.setInstant
    clear_value s2
    exact h0.ite (h2.ite (.foldl (fun _ _ h3 => h3.resolveWaiting) h2.eq))

theorem keepsOut_execFusionCloseTimeout (h : Keeps s t) {inst} : KeepsOut s (execFusionCloseTimeout inst t) := by
  unfold execFusionCloseTimeout
  refine .next ?_
  split
  · exact h.productOut
  · exact h

theorem keepsOut_execCsiLongPacket (h : Keeps s t) {rx vc dt payload arrival} :
    KeepsOut s (execCsiLongPacket rx vc dt payload arrival t) := by
  unfold execCsiLongPacket
  extract_lets cond fill full bad s0 s1 s2
  have h0 : Keeps s s0 := h.count.ite h
  have h1 : Keeps s s1 := h0.count.ite h0
  clear_value s1
  exact .next (.ite (.foldl (fun _ _ h2 => h2.streamPacket) h1.eq) h)

theorem keepsOut_execIspOutputDone (h : Keeps s t) {str width lines} : KeepsOut s (execIspOutputDone str width lines t) := by
  unfold execIspOutputDone
  extract_lets st
  clear_value st
  refine .next ?_
  split
  · extract_lets row rows r1 r2
    have hrow : ∀ {first xs r}, Keeps s r.2 → Keeps s (List.foldl (row first) r xs).2 := by
      intro first xs
      induction xs with
      | nil => exact id
      | cons x xs ih => exact fun hr => ih hr.frameWrite
    have h2 : Keeps s r2.2 := hrow (hrow h.setStream)
    clear_value r2
    exact .ite (Keeps.writeRecord h2.eq) h
  · exact h

theorem keepsOut_execSspFifoDrain (h : Keeps s t) {port} : KeepsOut s (execSspFifoDrain port t) := by
  unfold execSspFifoDrain
  refine .next ?_
  split
  · exact h
  · exact h.setSsp.sspUpdate.drainWord.ite h.setSsp.sspUpdate

theorem Keeps.setFlash (h : Keeps s t) {f} (hf : SMap.wf flashDflt t.flash = true → SMap.wf flashDflt f = true) :
    Keeps s { t with flash := f } :=
  h.of_maps (fun hc => by
    obtain ⟨hr, hm, hl⟩ := canonical_iff.1 hc
    exact canonical_iff.2 ⟨hr, hm, hf hl⟩) rfl rfl

theorem keepsOut_execXspiProgram (h : Keeps s t) : KeepsOut s (execXspiProgram t) := by
  unfold execXspiProgram
  refine .next (h.xspEntry fun e u h1 => ?_)
  extract_lets n
  split
  · rename_i e1
    exact (h1.fetch.snd2 e1).setFlash SMap.wf_setMany
  · rename_i e1
    exact h1.fetch.snd2 e1

theorem keepsOut_execXspiEraseSector (h : Keeps s t) {size} : KeepsOut s (execXspiEraseSector size t) := by
  unfold execXspiEraseSector
  exact .next (h.xspEntry fun e u h1 => h1.setFlash SMap.wf_clear)

theorem keepsOut_execAudioBufferDone (h : Keeps s t) {port tFsIn samples} :
    KeepsOut s (execAudioBufferDone port tFsIn samples t) := by
  unfold execAudioBufferDone
  refine .next (h.ite (h.setAudio.ite ?_))
  dsimp only
  split
  · rename_i e1
    have h1 := h.fetch.snd2 e1
    exact .audioRecorded (.setAudio (h1.put.iteSnd2 h1.fetch))
  · rename_i e1
    have h1 := h.fetch.snd2 e1
    exact h1.eq.setAudio.audioRecorded

theorem keepsOut_execClockStep (h : Keeps s t) : KeepsOut s (execClockStep t) := by
  unfold execClockStep
  refine .next (h.ite (.showClock ?_))
  split
  · exact .ite (.eq (.eq (h.chargeSurge.ite h))) (.eq (h.chargeSurge.ite h))
  · exact .ite (.avsReturn (.eq (h.chargeSurge.ite h))) (.eq (h.chargeSurge.ite h))
  · exact .eq (h.chargeSurge.ite h)

theorem keepsOut_execWearFuseBlowDone (h : Keeps s t) : KeepsOut s (execWearFuseBlowDone t) := by
  unfold execWearFuseBlowDone
  extract_lets wear _ _ s1 s2
  have h1 : Keeps s s1 := h.blowWear
  have h2 : Keeps s s2 := h1.setFld.setFld
  exact .next (.ite (h2.avsRise.ite h2) h)

theorem keepsOut_execAvsAck (h : Keeps s t) : KeepsOut s (execAvsAck t) := by
  unfold execAvsAck
  refine .next ?_
  split
  · exact h.surgeTo.showClock
  · exact h.eq.lower
  · exact h

theorem keepsOut_execAvsTimeout (h : Keeps s t) : KeepsOut s (execAvsTimeout t) := by
  unfold execAvsTimeout
  refine .next ?_
  dsimp only
  split
  · exact h.avsReturn.eq.thmEvent.showClock
  · exact h.eq.thmEvent.report
  · exact h

theorem keepsOut_execAllowMsExpiry (h : Keeps s t) : KeepsOut s (execAllowMsExpiry t) := by
  unfold execAllowMsExpiry
  extract_lets used _ s1
  have h1 : Keeps s s1 := h.setTherm.setFld
  clear_value s1
  exact .next (.ite (h1.raise.surgeExit.ite h1.setTherm) h)

theorem keepsOut_execThermalSample (h : Keeps s t) {temps errs} : KeepsOut s (execThermalSample temps errs t) := by
  unfold execThermalSample
  refine .next ?_
  dsimp only
  split
  · exact h.showSensors.setFld.setFld.judgeTj
  · exact h.showSensors

theorem keepsOut_execJobReleaseEvent (h : Keeps s t) : KeepsOut s (execJobReleaseEvent t) := by
  unfold execJobReleaseEvent
  refine .next ?_
  split
  · exact h
  · rename_i e1
    have h1 := h.takeEvent e1
    extract_lets n r
    split
    · exact h1
    · exact h1.setHeld.settle.ite h1

theorem keepsOut_execJobPlacement (h : Keeps s t) : KeepsOut s (execJobPlacement t) := by
  unfold execJobPlacement
  refine .next (h.ite ?_)
  split
  · exact h.placeJob.settle
  · exact h

theorem keepsOut_execEngineStart (h : Keeps s t) {te} : KeepsOut s (execEngineStart te t) := by
  unfold execEngineStart
  refine .next ?_
  split
  · exact h
  · exact h.ite (.ite (h.noteStart.startEngine.ite h) h.faultJob.settle)

theorem keepsOut_execEngineCompletion (h : Keeps s t) {te} : KeepsOut s (execEngineCompletion te t) := by
  unfold execEngineCompletion
  refine .next (h.leaveFault.settle.ite (.ite ?_ h))
  split
  · exact h.leaveJob.engineTo.endIfDone.settle
  · exact h

theorem keepsOut_execEngineWatchdogExpiry (h : Keeps s t) {te} : KeepsOut s (execEngineWatchdogExpiry te t) := by
  unfold execEngineWatchdogExpiry
  refine .next ?_
  dsimp only
  split
  · exact h.plainFault.settle.ite h
  · exact h

theorem keepsOut_execKvCopyDone (h : Keeps s t) {ctx} : KeepsOut s (execKvCopyDone ctx t) := by
  unfold execKvCopyDone
  refine .next ?_
  split
  · exact .ite (Keeps.settle (Keeps.kvTake h.kvCopied)) h
  · exact h

theorem keepsOut_execKvFenceComplete (h : Keeps s t) {ctx} : KeepsOut s (execKvFenceComplete ctx t) := by
  unfold execKvFenceComplete
  refine .next ?_
  split
  · exact .ite (Keeps.settle (Keeps.kvTake h.kvFenced)) h
  · exact h

theorem keepsOut_execEngineCommandFetch (h : Keeps s t) {te upsets} : KeepsOut s (execEngineCommandFetch te upsets t) := by
  unfold execEngineCommandFetch
  refine .next (h.ite (h.proceed.ite ?_))
  split
  · rename_i e1
    have h1 := h.proceed.readPhys.snd2 e1
    dsimp only
    split
    · exact h1.setFld.plainFault.settle
    · exact h1.setFld.startTile.getD h.proceed
  · rename_i e1
    have h1 := h.proceed.readPhys.snd2 e1
    exact h1.plainFault.settle

theorem keepsOut_execHeathSplit (h : Keeps s t) {core word} : KeepsOut s (execHeathSplit core word t) := by
  unfold execHeathSplit
  refine .next ?_
  split
  · exact h.heathLksync
  · exact h

theorem keepsOut_execHeathTriple (h : Keeps s t) {core word} : KeepsOut s (execHeathTriple core word t) := by
  unfold execHeathTriple
  refine .next ?_
  split
  · exact h.heathLksync
  · exact h

theorem keepsOut_execLksyncTimeout (h : Keeps s t) {core} : KeepsOut s (execLksyncTimeout core t) := by
  unfold execLksyncTimeout
  refine .next ?_
  split
  · dsimp only
    split
    · exact h.setHart.raise.ite h
    · exact h
  · dsimp only
    split
    · exact h.setHeathCore.raise.ite h
    · exact h

theorem keepsOut_execHeathResyncDone (h : Keeps s t) : KeepsOut s (execHeathResyncDone t) := by
  unfold execHeathResyncDone
  extract_lets good c s1
  have h1 : Keeps s s1 := h.allHeath.setHeathMode.raise.count
  clear_value s1
  exact .next (.ite (h1.setHeath.heathLksync.ite h1) h)

theorem keepsOut_execReadResponseTimeout (h : Keeps s t) {bridge} : KeepsOut s (execReadResponseTimeout bridge t) := by
  unfold execReadResponseTimeout
  refine .next ?_
  split
  · exact h
  · exact h.setWeir.raise.count.ite h

theorem keepsOut_execArbCommitDone (h : Keeps s t) : KeepsOut s (execArbCommitDone t) := by
  unfold execArbCommitDone
  refine .next ?_
  split
  · exact h.finishCommit.setFld.lower
  · exact h

theorem keepsOut_execErrorRecordAccept (h : Keeps s t) : KeepsOut s (execErrorRecordAccept t) := by
  unfold execErrorRecordAccept
  refine .next ?_
  split
  · exact h
  · exact h.eq.acceptRecord

theorem keepsOut_execHoldoverTimeout (h : Keeps s t) : KeepsOut s (execHoldoverTimeout t) := by
  unfold execHoldoverTimeout
  refine .next ?_
  dsimp only
  split
  · exact h
  · exact h.enterHoldover.ite h

theorem keepsOut_execPpsOutEnd (h : Keeps s t) : KeepsOut s (execPpsOutEnd t) := by
  unfold execPpsOutEnd
  refine .next ?_
  split
  · exact h.eq.ite h
  · exact h

theorem keepsOut_execSyncReceived (h : Keeps s t) {port dom msg} : KeepsOut s (execSyncReceived port dom msg t) := by
  unfold execSyncReceived
  refine .next (.ite (.ite ?_ h.eq) h)
  split
  · exact h.eq
  · exact h.eq.offset

theorem keepsOut_execPdelayReceived (h : Keeps s t) {port msg rx} : KeepsOut s (execPdelayReceived port msg rx t) := by
  unfold execPdelayReceived
  refine .next (h.ite ?_)
  split
  · exact h.ptpSend
  · exact h.eq.setReg
  · split
    · exact h
    · exact h.eq.setReg

theorem keepsOut_execCaptureStuck (h : Keeps s t) {pin} : KeepsOut s (execCaptureStuck pin t) := by
  unfold execCaptureStuck
  refine .next ?_
  dsimp only
  split
  · exact h.setPin.tmbEvent.report.ite h
  · exact h

theorem keepsOut_execMsiDelivery (h : Keeps s t) : KeepsOut s (execMsiDelivery t) := by
  unfold execMsiDelivery
  refine .next ?_
  split
  · exact h
  · dsimp only
    split
    · exact h.eq
    · exact h.eq.writeAt.markDirty

theorem keepsOut_execPostedWriteResponse (h : Keeps s t) {bridge resp} : KeepsOut s (execPostedWriteResponse bridge resp t) := by
  unfold execPostedWriteResponse
  refine .next ?_
  dsimp only
  split
  · exact h
  · exact .bridgeAdvance (.ite (h.setBridgeQueue.writeAt.iteSnd h.setBridgeQueue) (.postedFailed (h.setBridgeQueue.writeAt.iteSnd
      h.setBridgeQueue)))

theorem keepsOut_execTargetTimeout (h : Keeps s t) {bridge req addr posted} :
    KeepsOut s (execTargetTimeout bridge req addr posted t) := by
  unfold execTargetTimeout
  refine .next (h.ite (.ite ?_ h.targetLost.answer))
  split
  · exact h
  · exact h.ite h.setBridgeQueue.targetLost.postedFailed.bridgeAdvance

theorem keepsOut_execPcieInboundRequest (h : Keeps s t) {pce write ctx iova data len} :
    KeepsOut s (execPcieInboundRequest pce write ctx iova data len t) := by
  unfold execPcieInboundRequest
  refine .next (h.ite (.ite ?_ ?_))
  · split
    · rename_i e1
      have h1 := h.pceWrite.snd e1
      exact h1.answer
    · rename_i e1
      have h1 := h.pceWrite.snd e1
      exact h1.pceFailed.answer
  · split
    · rename_i e1
      have h1 := h.pceRead.snd2 e1
      exact h1.answer
    · rename_i e1
      have h1 := h.pceRead.snd2 e1
      exact h1.pceFailed.answer

theorem keepsOut_execTestWindowEvent (h : Keeps s t) : KeepsOut s (execTestWindowEvent t) := by
  unfold execTestWindowEvent
  refine .next ?_
  split
  · exact h
  · rename_i e1
    have h1 := h.takeEvent e1
    extract_lets w s2
    have h2 : Keeps s s2 := h1.openWindow
    clear_value s2
    exact (h2.goldenOpen.ite h2).settle.ite h1.closeWindow

theorem keepsOut_execTestWindowExpiry (h : Keeps s t) {win} : KeepsOut s (execTestWindowExpiry win t) := by
  unfold execTestWindowExpiry
  refine .next ?_
  split
  · exact h.shutWindow.ite h
  · exact h

theorem keepsOut_execFwWatchdogKick (h : Keeps s t) {proc} : KeepsOut s (execFwWatchdogKick proc t) := by
  unfold execFwWatchdogKick
  refine .next ?_
  dsimp only
  split
  · exact h
  · exact h.setWdt.ite h.expire

theorem keepsOut_execFwWatchdogExpiry (h : Keeps s t) {proc} : KeepsOut s (execFwWatchdogExpiry proc t) := by
  unfold execFwWatchdogExpiry
  refine .next ?_
  dsimp only
  split
  · exact h
  · exact h.expire.ite h

/-! ## `Keeps` through every command and every step

The dispatch, and a step. -/

/-- Every command, whatever the queue: a case per arm of the dispatch. -/
theorem keepsOut_exec (h : Keeps s t) {i : Instr} : KeepsOut s (exec i t) := by
  cases i with
  | porN => exact .next h.powerOn
  | warmRstN => exact .next h.warm
  | pwrWarmGo => exact .next (h.busWrite (fun _ h1 => h1.writeWarm))
  | bootFlashReadDone => exact .next h.romRead
  | bootFlashTimeout => exact .next h.romRead
  | ddrTrainingDone => exact .next (h.ite (.buildTable (.stage (.eq (h.recordTraining.ite h)))))
  | hartRelease => exact .next (h.busWrite (fun _ h1 => h1.writeHartrel))
  | lifecycleAdvance => exact .next (h.busWrite (fun _ h1 => h1.writeLcs))
  | keyRevoke => exact .next (h.busWrite (fun _ h1 => h1.writeKeyrev))
  | arbCommit => exact .next (h.busWrite (fun _ h1 => h1.writeArb))
  | arbCommitDone => exact keepsOut_execArbCommitDone h
  | boundaryScanInstruction => exact .next (h.eq.answerWord.ite h.eq.answer)
  | registerWrite => exact .next (h.passBridge (fun _ h1 => h1.writeAt.answer))
  | decodeErrorAccess => exact keepsOut_execDecodeErrorAccess h
  | tileNop => exact .next h.issue
  | engineCommandFetch => exact keepsOut_execEngineCommandFetch h
  | ldw => exact .next h.issue
  | lda => exact .next h.issue
  | mma => exact .next h.issue
  | mmas => exact .next h.issue
  | vopAdd => exact .next h.issue
  | vopSub => exact .next h.issue
  | vopMul => exact .next h.issue
  | vopFma => exact .next h.issue
  | vopMax => exact .next h.issue
  | vopMin => exact .next h.issue
  | vopAbs => exact .next h.issue
  | vopNeg => exact .next h.issue
  | vopDiv => exact .next h.issue
  | vopSqrt => exact .next h.issue
  | vopExp2 => exact .next h.issue
  | vopLog2 => exact .next h.issue
  | vopRcp => exact .next h.issue
  | vopRsqrt => exact .next h.issue
  | vopTanh => exact .next h.issue
  | vopCvt => exact .next h.issue
  | vopCmplt => exact .next h.issue
  | vopSel => exact .next h.issue
  | vopAnd => exact .next h.issue
  | vopOr => exact .next h.issue
  | vopXor => exact .next h.issue
  | vopShl => exact .next h.issue
  | vopShr => exact .next h.issue
  | vopTrn => exact .next h.issue
  | vopCpy => exact .next h.issue
  | vopLds => exact .next h.issue
  | vredSum => exact .next h.issue
  | vredSumsq => exact .next h.issue
  | vredMax => exact .next h.issue
  | vredMin => exact .next h.issue
  | vredAmax => exact .next h.issue
  | vredArgmax => exact .next h.issue
  | qnt => exact .next h.issue
  | dqn => exact .next h.issue
  | sto => exact .next h.issue
  | engineDma => exact .next h.issue
  | waitSem => exact .next h.issue
  | sigSem => exact .next h.issue
  | fence => exact .next h.issue
  | chkCrc => exact .next h.issue
  | chkSelftest => exact .next h.issue
  | kvlRead => exact .next h.issue
  | kvlAppend => exact .next h.issue
  | tenEnable => exact .next (h.busWrite (fun _ h1 => h1.writeTenCtrl))
  | tenHalt => exact .next (h.busWrite (fun _ h1 => h1.writeTenCtrl))
  | tenReset => exact .next (h.busWrite (fun _ h1 => h1.writeTenCtrl))
  | tenCqTailWrite => exact .next (h.busWrite (fun _ h1 => h1.writeCqTail))
  | tenWdtWrite => exact .next (h.busWrite (fun _ h1 => h1.writeTenWdt))
  | tenChkSkipRead => exact .next h.readClear
  | engineWatchdogExpiry => exact keepsOut_execEngineWatchdogExpiry h
  | engineCompletion => exact keepsOut_execEngineCompletion h
  | dbSqTailWrite => exact .next (h.busWrite (fun _ h1 => h1.sqDoorbell))
  | dbCqHeadWrite => exact .next (h.busWrite (fun _ h1 => h1.writeCqHead.settle))
  | dbErrRead => exact .next h.readClear
  | nop => exact .next h.readEntry
  | job => exact .next h.readEntry
  | jobReleaseTime => exact .next (h.setHeld.settle.ite h)
  | jobReleaseEvent => exact keepsOut_execJobReleaseEvent h
  | jobPlacement => exact keepsOut_execJobPlacement h
  | engineStart => exact keepsOut_execEngineStart h
  | modelLoad => exact .next h.readEntry
  | modelUnload => exact .next h.readEntry
  | kvMap => exact .next h.readEntry
  | kvFork => exact .next h.readEntry
  | kvUnmap => exact .next h.readEntry
  | kvCopyDone => exact keepsOut_execKvCopyDone h
  | kvFenceComplete => exact keepsOut_execKvFenceComplete h
  | ctxCreate => exact .next h.readEntry
  | ctxReset => exact .next h.readEntry
  | ctxDestroy => exact .next h.readEntry
  | ringFlush => exact .next h.readEntry
  | dirtyHarvest => exact .next h.readEntry
  | partSet => exact .next h.readEntry
  | ctxBind => exact .next h.readEntry
  | ctxUnbind => exact .next h.readEntry
  | makeResident => exact .next (h.takeShares.settle.ite h)
  | weightCopyDone => exact .next (.ite (.settle (.setCtx (.foldl (fun _ _ h1 => h1.copyPart) h))) h)
  | graceExpiry => exact .next (h.settleAnd.ite h)
  | shareZeroingDone => exact .next (.settle (.setCtx (.foldl (fun _ _ h1 => h1.wipeShares) h)))
  | tcxGo => exact .next (h.busWrite (fun _ h1 => h1.writeTcxCtrl))
  | millerWaitHost => exact .next (h.eq.wipeAll.setFld.setFld.millerTo.ite h)
  | millerRestartDone => exact .next (.ite (.settle (.millerTo (.foldl (fun _ _ h1 => h1.takeShares.ite h1) h.wipeAll))) h)
  | timebaseTick => exact .next (.drainPorts (.foldl (fun _ _ h1 => h1.adjust.reachTop) h.fireUpTo.eq.advance.reachTop.fireSkipped))
  | ppsOutEnd => exact keepsOut_execPpsOutEnd h
  | tmbIncrCommit => exact .next (h.busWrite (fun _ h1 => h1.writeIncrHi))
  | tmbNowNsRead => exact .next (h.busRead (fun _ h1 => h1.latchSec))
  | tmbAdjRelative => exact .next (h.busWrite (fun _ h1 => h1.writeAdjCtrl))
  | tmbAdjAbsolute => exact .next (h.busWrite (fun _ h1 => h1.writeAdjCtrl))
  | tmbSourceChange => exact .next (h.busWrite (fun _ h1 => h1.writeTmbCtrl))
  | servoEnable => exact .next (h.busWrite (fun _ h1 => h1.writeTmbCtrl))
  | syncReceived => exact keepsOut_execSyncReceived h
  | holdoverTimeout => exact keepsOut_execHoldoverTimeout h
  | announceReceived => exact .next (h.eq.bmca.ite h)
  | pdelayReceived => exact keepsOut_execPdelayReceived h
  | ptpSyncTransmit => exact .next (.ite (h.bmca.ptpSend.ite h.bmca) h)
  | pdelayReqTransmit => exact .next (h.eq.ptpSend.ite h)
  | captureEdge => exact .next (.ite (h.eq.ite h) (.ite (.activeEdge (h.eq.ite h)) (.pinInactive (h.eq.ite h))))
  | captureStuck => exact keepsOut_execCaptureStuck h
  | tmbCapNsRead => exact .next (h.busRead (fun _ h1 => h1.popCapture))
  | tmbCapOvrRead => exact .next h.readClear
  | timetableFiring => exact keepsOut_execTimetableFiring h
  | triggerPulseEnd => exact keepsOut_execTriggerPulseEnd h
  | timetableSwapRequest => exact .next (h.busWrite (fun _ h1 => h1.writeTtbCtrl))
  | timetableSwapCheckDone => unfold exec; exact keepsOut_execTimetableSwapCheckDone h
  | timetableBankSwap => exact .next h.swapUpTo
  | timetableEnable => exact .next (h.busWrite (fun _ h1 => h1.writeTtbCtrl))
  | ttbSkipRead => exact .next h.readClear
  | heathCycleEvent => exact keepsOut_execHeathCycleEvent h
  | streamEnable => exact .next (h.busWrite (fun _ h1 => h1.writeStrCtrl))
  | streamDisable => exact .next (h.busWrite (fun _ h1 => h1.writeStrCtrl))
  | streamBufTailWrite => exact .next (h.busWrite (fun _ h1 => h1.writeStrTail))
  | csiFrameStart => exact .next (.ite (.foldl (fun _ _ h1 => h1.closeFrame.openFrame) h) h)
  | csiLongPacket => exact keepsOut_execCsiLongPacket h
  | csiFrameEnd => exact .next (.ite (.foldl (fun _ _ h1 => h1.closeFrame) h) h)
  | ispOutputDone => exact keepsOut_execIspOutputDone h
  | csiErrRead => exact .next h.readClear
  | sspFrameStart => exact .next (h.setSsp.openFrame.sspAccept.ite h)
  | sspWord => exact .next (h.sspAccept.ite h)
  | sspFifoDrain => exact keepsOut_execSspFifoDrain h
  | sspFrameEnd => exact .next (h.setSsp.closeFrame.ite h)
  | sspClockLost => exact .next (h.raise.report.ite h)
  | sspOvrRead => exact .next h.readClear
  | fgdStatRead => exact .next h.readClear
  | fusionInstantEvent => exact keepsOut_execFusionInstantEvent h
  | fusionCloseTimeout => exact keepsOut_execFusionCloseTimeout h
  | fusionSwapRequest => exact .next (h.busWrite (fun _ h1 => h1.writeFusCtrl))
  | fusionRephase => exact .next (h.busWrite (fun _ h1 => h1.writeRephase))
  | fusBufTailWrite => exact .next (h.busWrite (fun _ h1 => h1.writeFusBufTail))
  | ddrRead => exact keepsOut_execDdrRead h
  | ddrFullWrite => exact keepsOut_execDdrFullWrite h
  | ddrPartialWrite => exact keepsOut_execDdrPartialWrite h
  | scrubRead => exact keepsOut_execScrubRead h
  | ddrRefresh => exact .next (h.passSlot.ite h)
  | rangePassStart => exact .next (h.busWrite (fun _ h1 => h1.writeRangeCtrl))
  | rangePassRead => exact keepsOut_execRangePassRead h
  | rangePassAbort => exact .next (h.busWrite (fun _ h1 => h1.writeRangeCtrl))
  | markClear => exact .next (h.busWrite (fun _ h1 => h1.writeMark))
  | dmcEccCntRead => exact .next h.readClear
  | sramRead => exact keepsOut_execSramRead h
  | sramNarrowWrite => exact keepsOut_execSramNarrowWrite h
  | slcAccess => exact keepsOut_execSlcAccess h
  | slcFlush => exact .next (h.busWrite (fun _ h1 => h1.writeFlush))
  | slcFlushDone => exact .next (h.evictAll.setFld.ite h)
  | depthHoldWrite => exact .next (h.busWrite (fun _ h1 => h1.writeHold))
  | depthHoldChange => exact .next h.takeHold
  | guardedAccess => exact keepsOut_execGuardedAccess h
  | guardFence => exact .next (h.busWrite (fun _ h1 => h1.writeFence))
  | guardFenceCommit => exact keepsOut_execGuardFenceCommit h
  | flitParityError => exact keepsOut_execFlitParityError h
  | mrcReplaysRead => exact .next h.readClear
  | wheelSlot => exact keepsOut_execWheelSlot h
  | wheelSwapRequest => exact .next (h.busWrite (fun _ h1 => h1.plainWrite))
  | wheelBankSwap => exact keepsOut_execWheelBankSwap h
  | gqEnable => exact .next (h.busWrite (fun _ h1 => h1.writeGqCtrl))
  | gqDisable => exact .next (h.busWrite (fun _ h1 => h1.writeGqCtrl))
  | gqDoorbell => exact .next (h.busWrite (fun _ h1 => h1.writeGqTail))
  | graphicsNop => exact .next (h.gfxTake (fun _ _ h1 => h1.gqEnd))
  | renderPass => exact keepsOut_execRenderPass h
  | dispatch => exact keepsOut_execDispatch h
  | graphicsEntryEnd => exact keepsOut_execGraphicsEntryEnd h
  | graphicsWatchdog => exact keepsOut_execGraphicsWatchdog h
  | headEnable => exact .next (h.busWrite (fun _ h1 => h1.writeDspCtrl))
  | headDisable => exact .next (h.busWrite (fun _ h1 => h1.writeDspCtrl))
  | linkTrainingDone => exact .next (h.ite (h.setHead.raise.ite h.stopHead.raise))
  | hpdChange => exact .next h.setFld
  | flipDoorbell => exact .next (h.busWrite (fun _ h1 => h1.writeFlipTail))
  | vsyncLead => exact keepsOut_execVsyncLead h
  | vsync => exact keepsOut_execVsync h
  | displayUnderrun => exact .next (h.ite (h.setHead.raise.ite h.setHead.raise.report))
  | layerReadError => exact .next (h.ite (h.setHead.raise.ite h.setHead.raise.report))
  | dspLateRead => exact .next h.readClear
  | lksyncLock => exact keepsOut_execLksyncLock h
  | lockEntryDone => exact keepsOut_execLockEntryDone h
  | lksyncSplit => exact keepsOut_execLksyncSplit h
  | lksyncTimeout => exact keepsOut_execLksyncTimeout h
  | lockstepMismatch => exact .next (.ite (.report (.raise (.setFld (h.onHart.ite h.onHart.setFld.setFld.raise)))) h)
  | pairReset => exact .next (h.busWrite (fun _ h1 => h1.writePair))
  | heathSplit => exact keepsOut_execHeathSplit h
  | heathTriple => exact keepsOut_execHeathTriple h
  | heathTripleDone => exact .next (h.allHeath.setHeathMode.releaseSems.releaseSems.ite h)
  | heathOddCore => exact .next (.ite (h.eq.setFld.report.setHeathCore.setHeathMode.raise.report.releaseSems.ite
      h.eq.setFld.report.setHeathMode) h)
  | heathResyncDone => exact keepsOut_execHeathResyncDone h
  | heathFatalPath => exact .next (h.heathFatal.ite h)
  | hthResyncRead => exact .next h.readClear
  | hartAccessFault => exact keepsOut_execHartAccessFault h
  | impreciseBusError => exact .next (h.ite h.onHart)
  | classCsrWrite => exact .next (h.csrAccess.ite h.interrupted)
  | wmark => exact .next (h.onHart.ite h.interrupted)
  | wgateEntry => exact .next h.wgate
  | wgateReturn => exact .next h.wgate
  | gateTimerExpiry => exact keepsOut_execGateTimerExpiry h
  | secureFail => exact .next (h.busWrite (fun _ h1 => h1.writeFail))
  | wlock => exact .next (h.busWrite (fun _ h1 => h1.plainWrite))
  | ownershipWrite => exact .next (h.busWrite (fun _ h1 => h1.writeOwner))
  | msiDelivery => exact keepsOut_execMsiDelivery h
  | debugHalt => exact .next (h.ite (h.onHart.ite h.onHart))
  | sholdWrite => exact .next (h.busWrite (fun _ h1 => h1.writeShold))
  | hholdWrite => exact .next (h.busWrite (fun _ h1 => h1.writeHhold))
  | bridgeWrite => exact .next (.ite (h.passBridge (fun _ h1 => h1.passDown)) h)
  | bridgeRead => exact .next (.ite (h.passBridge (fun _ h1 => h1.passDown)) h)
  | postedWriteResponse => exact keepsOut_execPostedWriteResponse h
  | bridgeMessage => exact .next (h.setWeir.deliver.ite h.setWeir)
  | readResponseTimeout => exact keepsOut_execReadResponseTimeout h
  | targetTimeout => exact keepsOut_execTargetTimeout h
  | wirCntRead => exact .next h.readClear
  | semAcquire => exact .next (h.busWrite (fun _ h1 => h1.writeSemOwn))
  | semRelease => exact .next (h.busWrite (fun _ h1 => h1.writeSemOwn))
  | semGo => exact .next (h.busWrite (fun _ h1 => h1.writeSemCmd))
  | semOpDone => exact .next h.semOpDone
  | ethFrameReceived => exact .next (h.eq.ite (h.eq.forward.ite (.foldl (fun _ _ h1 => h1.sendBad) h.eq)))
  | hifEnable => exact .next (h.busWrite (fun _ h1 => h1.writeHifCtrl))
  | hifDisable => exact .next (h.busWrite (fun _ h1 => h1.writeHifCtrl))
  | hifTxDoorbell => exact .next (h.busWrite (fun _ h1 => h1.writeHifTail))
  | hifRxDoorbell => exact .next (h.busWrite (fun _ h1 => h1.writeHifTail))
  | hifTransmit => exact keepsOut_execHifTransmit h
  | hifDbErrRead => exact .next h.readClear
  | hifStatRead => exact .next h.readClear
  | gmChgRead => exact .next h.readClear
  | gateSwitchEvent => exact keepsOut_execGateSwitchEvent h
  | gateListChange => exact keepsOut_execGateListChange h
  | gateListClear => exact .next (h.busWrite (fun _ h1 => h1.writeGcl))
  | canEnable => exact .next (h.busWrite (fun _ h1 => h1.writeCanCtrl))
  | canTxDoorbell => exact .next (h.busWrite (fun _ h1 => h1.writeCanTail))
  | canTransmit => exact keepsOut_execCanTransmit h
  | canFrameReceived => exact keepsOut_execCanFrameReceived h
  | tunnelHoldExpiry => exact keepsOut_execTunnelHoldExpiry h
  | canRxLostRead => exact .next h.readClear
  | pcieEnable => exact .next (h.busWrite (fun _ h1 => h1.writePceCfg))
  | pcieInboundRequest => exact keepsOut_execPcieInboundRequest h
  | xspiDoorbell => exact .next (h.busWrite (fun _ h1 => h1.writeXspTail))
  | xspiRead => exact .next (h.xspEntry (fun _ _ h1 => h1.xspOut))
  | xspiProgram => exact keepsOut_execXspiProgram h
  | xspiEraseSector => exact keepsOut_execXspiEraseSector h
  | xspiReadSfdp => exact .next (h.xspEntry (fun _ _ h1 => h1.xspOut))
  | audioEnable => exact .next (h.busWrite (fun _ h1 => h1.writeAudCtrl))
  | audioBufTailWrite => exact .next (h.busWrite (fun _ h1 => h1.writeAudTail))
  | audioBufferDone => exact keepsOut_execAudioBufferDone h
  | errorRecordAccept => exact keepsOut_execErrorRecordAccept h
  | ermPop => exact .next (h.busWrite (fun _ h1 => h1.writePop))
  | ermDone => exact .next (h.busWrite (fun _ h1 => h1.writeSrc))
  | faultClr => exact .next (h.busWrite (fun _ h1 => h1.writeSafe))
  | safeLevelWrite => exact .next (h.busWrite (fun _ h1 => h1.writeSafe))
  | ermOvfRead => exact .next h.readClear
  | testWindowEvent => exact keepsOut_execTestWindowEvent h
  | testWindowExpiry => exact keepsOut_execTestWindowExpiry h
  | testSegmentStart => exact .next (.ite (.foldl (fun _ _ h1 => h1.setFld.setTest) h) (.foldl (fun _ _ h1 => h1.setWindow) h))
  | testSegmentEnd => exact .next (.ite (.settle (.ite (.segmentPassed (h.engineReset.ite h)) (.segmentFailed (h.engineReset.ite
      h)))) h)
  | dtiExpiry => exact .next (h.setTest.report.ite h)
  | goldenStatRead => exact .next h.readClear
  | fwWatchdogKick => exact keepsOut_execFwWatchdogKick h
  | fwWatchdogExpiry => exact keepsOut_execFwWatchdogExpiry h
  | fwlRecord => exact .next h.log
  | fwlEnable => exact .next (h.busWrite (fun _ h1 => h1.writeLogCfg))
  | fwlLogLostRead => exact .next h.readClear
  | fwlWdtRead => exact .next h.readClear
  | domainOffRequest => exact .next (h.busWrite (fun _ h1 => h1.writePwrDom))
  | domainOnRequest => exact .next (h.busWrite (fun _ h1 => h1.writePwrDom))
  | domainPowerDown => exact .next (h.loseCode.loseCaches.resetDomain.domainTo.lower.ite h)
  | domainOffDone => exact .next (h.domainTo.ite h)
  | domainOnDone => exact .next (h.zeroMemories.settleOn.leaveReset.settle.ite h)
  | domainReset => exact .next (h.busWrite (fun _ h1 => h1.writePwrDom))
  | domainResetDone => exact .next (h.settleOn.leaveReset.settle.ite h)
  | clockStep => exact keepsOut_execClockStep h
  | surgeRequest => exact .next (h.busWrite (fun _ h1 => h1.writeSurge))
  | surgeDisWrite => exact .next (h.busWrite (fun _ h1 => h1.writeSurge))
  | surgeGrant => exact .next (.ite (h.eq.ite h.avsRise) h)
  | wearFuseBlowDone => exact keepsOut_execWearFuseBlowDone h
  | avsAck => exact keepsOut_execAvsAck h
  | avsTimeout => exact keepsOut_execAvsTimeout h
  | allowMsExpiry => exact keepsOut_execAllowMsExpiry h
  | thermalSample => exact keepsOut_execThermalSample h
  | powerEstimate => exact .next (h.eq.setFld.setFld.thmEvent.surgeExit.ite h.eq.setFld.setFld)
  | thermtrip => exact .next h.eq.report
  | sysclkFail => exact .next h.raise.report
  | tbrefFail => exact .next (h.ite h.eq.raise.raise.enterHoldover.report)
  | tbrefReturn => exact .next (.ite (h.eq.lower.leaveHoldover.ite h.eq.lower) h)
  | xgrefFail => exact .next h.eq.raise.report
  | hclkFail => exact .next h.eq
  | canBusOffRecovery => exact .next (h.lower.setFld.setFld.lower.ite h)
  | displayLinkLost => exact .next (h.lower.raise.ite h)
  | capturePinInactive => exact .next h.pinInactive
  | xspiOperationTimeout => exact .next (h.xspEntry (fun _ _ h1 => h1))
  | avsSetpointResend => exact .next (h.sendSetpoint.ite h)

theorem keepsOut_step : KeepsOut s (step s) := by
  unfold step
  split
  · exact .next .refl
  · exact keepsOut_exec Keeps.refl.eq

end Sys2Proof.Machine

end

/-! ## The invariants of a step -/

section

open Sys2Proof Sys2Proof.Machine

/-- Settles O9: a step leads to a state that `Keeps` relates to the one it starts from, and `Keeps` carries the canonical form. -/
theorem canonicalFormKept : Obligations.CanonicalFormKept := by
  intro s t hc hstep
  exact (keepsOut_step t hstep).1 hc

/-- Settles O11: `Keeps` carries the order of the fuses, and says that none is taken back. -/
theorem fusesNeverGoBack : Obligations.FusesNeverGoBack := by
  intro s t ho hstep
  exact (keepsOut_step t hstep).2 ho

/-- Settles O10: the reset state lists two registers, nothing in memory or flash, and the fuses as shipped. -/
theorem resetIsCanonical : Obligations.ResetIsCanonical :=
  ⟨by decide, by decide, by decide, by decide, fun _ _ e => nomatch e⟩

end

section
/-!
SUPPORT. What the replacement of a request's label leaves as it was (R332), so that the checks of an access answer for the
state that the access finds what they answer for the state before it.
-/

namespace Sys2Proof.Machine

/-- A test that no entry of key `k` passes does not see a write of `k`. -/
theorem SMap.any_set {α : Type} [DecidableEq α] {d : Nat → α} {m : List (Nat × α)} {k : Nat} {v : α} {p : Nat × α → Bool}
    (h : ∀ x, p (k, x) = false) : (SMap.set d m k v).any p = m.any p := by
  have erased : (SMap.erase m k).any p = m.any p := by
    induction m with
    | nil => rfl
    | cons e r ih =>
      obtain ⟨a, b⟩ := e
      by_cases ha : a = k
      · subst ha; simpa [SMap.erase, h] using ih
      · simp only [SMap.erase] at ih
        simp [SMap.erase, ha, ih]
  have inserted : (SMap.insert m k v).any p = m.any p := by
    clear erased
    induction m with
    | nil => simp [SMap.insert, h]
    | cons e r ih =>
      obtain ⟨a, b⟩ := e
      unfold SMap.insert
      split
      · simp [h]
      · split
        next hk => obtain rfl := eq_of_beq hk; simp [h]
        next => simp only [List.any_cons, ih] 
  unfold SMap.set
  split
  · exact erased
  · exact inserted

/-- A register that is no ownership register. -/
def notOwnership (a : Nat) : Prop := inRange a (Reg.WGD_OWN 0) (Reg.WGD_OWN 64) = false

section
variable {s : State} {a : Nat} {w : Word} (h : notOwnership a)
include h

theorem State.xspiSecure_setReg : (s.setReg a w).xspiSecure = s.xspiSecure :=
  congrArg (! ·) (SMap.any_set fun x => by simp [show inRange a _ _ = false from h])

theorem State.ownedSecure_setReg (u : UnitId) : (s.setReg a w).ownedSecure u = s.ownedSecure u := by
  unfold State.ownedSecure
  rw [State.xspiSecure_setReg h]
  refine congrArg (ite _ _) (SMap.any_set fun x => by simp [show inRange a _ _ = false from h])

theorem State.domainSecure_setReg (d : Nat) : (s.setReg a w).domainSecure d = s.domainSecure d := by
  unfold State.domainSecure
  rw [State.xspiSecure_setReg h]
  refine congrArg (fun b => _ && (_ || b)) (SMap.any_set fun x => by simp [show inRange a _ _ = false from h])

theorem State.clockSecure_setReg (c : Nat) : (s.setReg a w).clockSecure c = s.clockSecure c := by
  unfold State.clockSecure
  rw [State.xspiSecure_setReg h]
  refine congrArg (fun b => _ || b) (SMap.any_set fun x => by simp [show inRange a _ _ = false from h])

theorem State.regAdmits_setReg (req : Req) (write : Bool) (b : Nat) :
    (s.setReg a w).regAdmits req write b = s.regAdmits req write b := by
  unfold State.regAdmits
  simp only [State.domainSecure_setReg h, State.clockSecure_setReg h]
end

/-! ## The replaced label -/

/-- The replacement of a label is a write of SLU_STATUS, or nothing (R332). -/
theorem State.relabel_eq (s : State) (req : Req) : s.relabel req = s ∨ ∃ w, s.relabel req = s.setReg Reg.SLU_STATUS w := by
  unfold State.relabel
  split
  · exact .inr ⟨_, rfl⟩
  · exact .inl rfl

section
variable (s : State) (req : Req)

theorem State.reg_relabel {b : Nat} (h : b ≠ Reg.SLU_STATUS) : (s.relabel req).reg b = s.reg b := by
  rcases s.relabel_eq req with e | ⟨w, e⟩
  · rw [e]
  · rw [e, State.reg_setReg_other h]

theorem State.fld_relabel {b : Nat} (f : Fld) (h : b ≠ Reg.SLU_STATUS) : (s.relabel req).fld b f = s.fld b f := by
  simp only [State.fld, s.reg_relabel req h]

theorem State.flag_relabel {b : Nat} (f : Fld) (h : b ≠ Reg.SLU_STATUS) : (s.relabel req).flag b f = s.flag b f := by
  simp only [State.flag, s.fld_relabel req f h]

@[simp] theorem State.place_relabel (a : Nat) : (s.relabel req).place a = s.place a := by
  rw [s.relabel_frame req]; rfl

@[simp] theorem State.debugOn_relabel : (s.relabel req).debugOn = s.debugOn := by
  rw [s.relabel_frame req]; rfl

@[simp] theorem State.isIsolated_relabel (u : UnitId) : (s.relabel req).isIsolated u = s.isIsolated u := by
  rw [s.relabel_frame req]; rfl

@[simp] theorem State.domainOn_relabel (u : UnitId) : (s.relabel req).domainOn (domainOf u) = s.domainOn (domainOf u) := by
  have h : Reg.PWR_DOM (domainOf u) ≠ Reg.SLU_STATUS := by simp only [Reg.PWR_DOM, Reg.SLU_STATUS]; omega
  simp only [State.domainOn, State.domainState, s.fld_relabel req _ h]

theorem notOwnership_SLU_STATUS : notOwnership Reg.SLU_STATUS := by unfold notOwnership; decide

@[simp] theorem State.ownedSecure_relabel (u : UnitId) : (s.relabel req).ownedSecure u = s.ownedSecure u := by
  rcases s.relabel_eq req with e | ⟨w, e⟩
  · rw [e]
  · rw [e, State.ownedSecure_setReg notOwnership_SLU_STATUS]

@[simp] theorem State.regAdmits_relabel (r : Req) (write : Bool) (a : Nat) :
    (s.relabel req).regAdmits r write a = s.regAdmits r write a := by
  rcases s.relabel_eq req with e | ⟨w, e⟩
  · rw [e]
  · rw [e, State.regAdmits_setReg notOwnership_SLU_STATUS]

/-- RELABEL shows a label that was replaced, now or before (R332). -/
theorem State.flag_relabel_RELABEL :
    (s.relabel req).flag Reg.SLU_STATUS Fld.SLU_STATUS_RELABEL =
      (s.flag Reg.SLU_STATUS Fld.SLU_STATUS_RELABEL || s.relabelled req) := by
  unfold State.relabel
  split
  next h =>
    have one : (s.raise Reg.SLU_STATUS Fld.SLU_STATUS_RELABEL).fld Reg.SLU_STATUS Fld.SLU_STATUS_RELABEL = 1 :=
      State.fld_setFld_same (by simp [Fld.ok, Fld.SLU_STATUS_RELABEL])
    simp [State.flag, one, h]
  next h => simp [h]

/-- A debug module issues as itself, and nothing else issues as one (R369, R377). -/
theorem State.issued_debugModule : (s.issued req).ini = .debugModule ↔ req.ini = .debugModule := by
  show s.issuer req.ini = _ ↔ _
  cases req.ini with
  | ac k => simp only [State.issuer]; split <;> simp
  | hc k => simp only [State.issuer]; split <;> simp
  | _ => simp [State.issuer]
end

/-! ## Writes of another width -/

/-- The checks answer an error to an access of another width than 32 bits, or a misaligned one, and change nothing (R9). -/
theorem State.regCheck_narrow {s : State} {req : Req} {ty : AccType} {a width : Nat} {u : UnitId} (hp : s.place a = .register)
    (hd : req.ini = .debugModule → s.debugOn = true) (hu : unitOfReg a = some u) (hon : s.domainOn (domainOf u) = true)
    (hiso : s.isIsolated u = false) (hw : s.ownedSecure u = true → req.w = true)
    (had : s.regAdmits req (decide (ty = .write)) a = true) (narrow : width ≠ 4 ∨ a % 4 ≠ 0) :
    s.regCheck req ty a width = (.decode, s) := by
  have hdbg : (decide (req.ini = .debugModule) && !s.debugOn) = false := by
    by_cases h : req.ini = .debugModule <;> simp [h, hd]
  have hsec : (s.ownedSecure u && !req.w) = false := by
    cases h : s.ownedSecure u <;> simp [hw, h]
  have hwide : (Nat.beq width 4 && Nat.beq (a % 4) 0) = false := by
    rw [Bool.eq_false_iff, Ne, Bool.and_eq_true, Nat.beq_eq, Nat.beq_eq]
    omega
  simp only [State.regCheck, hdbg, hp, hu, hon, hiso, hsec, had, hwide, Bool.not_true, Bool.or_self, Bool.false_eq_true, if_false]

/-- The checks refuse what comes from a debug module that is not connected (R407). -/
theorem State.regCheck_debugModule {s : State} {req : Req} {ty : AccType} {a width : Nat}
    (h : (decide (req.ini = .debugModule) && !s.debugOn) = true) : s.regCheck req ty a width = (.decode, s) := by
  simp only [State.regCheck, h, if_true]

/-- A write at a register address, where the checks refuse it, is that refusal. -/
theorem State.writeAt_refused {s : State} {req : Req} {a width : Nat} {w : Word} (hp : s.place a = .register)
    (h : (s.regCheck req .write a width).1 ≠ .okay) : s.writeAt req a width w = s.regCheck req .write a width := by
  unfold State.writeAt
  split
  next hd => rw [State.regCheck_debugModule hd]
  next =>
    rw [hp]
    generalize s.regCheck req .write a width = r at h ⊢
    obtain ⟨e, t⟩ := r
    cases e with
    | okay => exact absurd rfl h
    | _ => rfl

/-- A write at a register address, where the checks let it pass, is the register's own. -/
theorem State.writeAt_okay {s : State} {req : Req} {a width : Nat} {w : Word} (hp : s.place a = .register)
    (h : (s.regCheck req .write a width).1 = .okay) : s.writeAt req a width w = (.okay, s.regWrite req a w) := by
  unfold State.writeAt
  split
  next hd => rw [State.regCheck_debugModule hd] at h; cases h
  next => rw [hp, State.regCheck_okay h]

end Sys2Proof.Machine
end

section
open Sys2Proof Sys2Proof.Machine

/-- Settles O7: the request reaches the checks of the register's block, which answer DECODE to a width that is not 4 and to an
address that is no multiple of 4. -/
theorem narrowRegisterAccess : Obligations.NarrowRegisterAccess := by
  intro s req addr width w hp hs hans had narrow
  obtain ⟨hdbg, u, hu, hon, hiso, hw⟩ := hans
  have hd : (s.issued req).ini = .debugModule → (s.relabel req).debugOn = true := by
    rw [s.issued_debugModule req, s.debugOn_relabel req]; exact hdbg
  have hp' : (s.relabel req).place addr.toNat = .register := by rw [s.place_relabel req, hp]
  have check : (s.relabel req).regCheck (s.issued req) .write addr.toNat width = (.decode, s.relabel req) :=
    State.regCheck_narrow hp' hd hu (by simpa using hon) (by simpa using hiso) (by simpa using hw) (by simpa using had) narrow
  show Host.Outcome.next _ = _
  rw [State.passBridge_straight hs, State.writeAt_refused hp' (by simp [check]), check]
  rfl

end

section
/-!
SUPPORT. The dispatch of a register write by its address: what an admitted write of each register that a row writes does, the
places of those registers, and what each row that accesses one register does.
-/

namespace Sys2Proof.Machine

/-! ## The blocks of the address map -/

section
variable (s : State) (req : Req) (w : Word) {a : Nat}

theorem State.regWrite_ten (lo : 0x10100000 ≤ a) (hi : a < 0x10180000) : s.regWrite req a w = s.writeTen a w := by
  simp (disch := omega) only [State.regWrite, inRange, Bool.and_eq_true, Bool.or_eq_true, Nat.ble_eq, Nat.blt_eq, Nat.beq_eq,
    if_pos, if_neg]

theorem State.regWrite_doorbell (lo : 0x40000000 ≤ a) (hi : a < 0x40020000) : s.regWrite req a w = s.writeDoorbell a w := by
  simp (disch := omega) only [State.regWrite, inRange, Bool.and_eq_true, Bool.or_eq_true, Nat.ble_eq, Nat.blt_eq, Nat.beq_eq,
    if_pos, if_neg]

theorem State.regWrite_dmc (lo : 0x11000000 ≤ a) (hi : a < 0x11080000) : s.regWrite req a w = s.writeDmc a w := by
  simp (disch := omega) only [State.regWrite, inRange, Bool.and_eq_true, Bool.or_eq_true, Nat.ble_eq, Nat.blt_eq, Nat.beq_eq,
    if_pos, if_neg]

theorem State.regWrite_guard (lo : 0x110A0000 ≤ a) (hi : a < 0x110B0000) : s.regWrite req a w = s.writeGuard a w := by
  simp (disch := omega) only [State.regWrite, inRange, Bool.and_eq_true, Bool.or_eq_true, Nat.ble_eq, Nat.blt_eq, Nat.beq_eq,
    if_pos, if_neg]

theorem State.regWrite_sensor (lo : 0x13000000 ≤ a) (hi : a < 0x130E0000) : s.regWrite req a w = s.writeSensor a w := by
  simp (disch := omega) only [State.regWrite, inRange, Bool.and_eq_true, Bool.or_eq_true, Nat.ble_eq, Nat.blt_eq, Nat.beq_eq,
    if_pos, if_neg]

theorem State.regWrite_picture_graphics (lo : 0x14000000 ≤ a) (hi : a < 0x14010000) : s.regWrite req a w = s.writePicture a w := by
  simp (disch := omega) only [State.regWrite, inRange, Bool.and_eq_true, Bool.or_eq_true, Nat.ble_eq, Nat.blt_eq, Nat.beq_eq,
    if_pos, if_neg]

theorem State.regWrite_picture_display (lo : 0x14100000 ≤ a) (hi : a < 0x14140000) : s.regWrite req a w = s.writePicture a w := by
  simp (disch := omega) only [State.regWrite, inRange, Bool.and_eq_true, Bool.or_eq_true, Nat.ble_eq, Nat.blt_eq, Nat.beq_eq,
    if_pos, if_neg]

theorem State.regWrite_world_pairs (lo : 0x15000000 ≤ a) (hi : a < 0x15040000) : s.regWrite req a w = s.writeWorld a w := by
  simp (disch := omega) only [State.regWrite, inRange, Bool.and_eq_true, Bool.or_eq_true, Nat.ble_eq, Nat.blt_eq, Nat.beq_eq,
    if_pos, if_neg]

theorem State.regWrite_world_wgd (lo : 0x17000000 ≤ a) (hi : a < 0x17010000) : s.regWrite req a w = s.writeWorld a w := by
  simp (disch := omega) only [State.regWrite, inRange, Bool.and_eq_true, Bool.or_eq_true, Nat.ble_eq, Nat.blt_eq, Nat.beq_eq,
    if_pos, if_neg]

theorem State.regWrite_tsw (lo : 0x18000000 ≤ a) (hi : a < 0x18010000) : s.regWrite req a w = s.writeTsw a w := by
  simp (disch := omega) only [State.regWrite, inRange, Bool.and_eq_true, Bool.or_eq_true, Nat.ble_eq, Nat.blt_eq, Nat.beq_eq,
    if_pos, if_neg]

theorem State.regWrite_can (lo : 0x18100000 ≤ a) (hi : a < 0x181C0000) : s.regWrite req a w = s.writeCan a w := by
  simp (disch := omega) only [State.regWrite, inRange, Bool.and_eq_true, Bool.or_eq_true, Nat.ble_eq, Nat.blt_eq, Nat.beq_eq,
    if_pos, if_neg]

theorem State.regWrite_slow_pcie (lo : 0x18200000 ≤ a) (hi : a < 0x18220000) : s.regWrite req a w = s.writeSlow a w := by
  simp (disch := omega) only [State.regWrite, inRange, Bool.and_eq_true, Bool.or_eq_true, Nat.ble_eq, Nat.blt_eq, Nat.beq_eq,
    if_pos, if_neg]

theorem State.regWrite_slow_serial (lo : 0x18300000 ≤ a) (hi : a < 0x18310000) : s.regWrite req a w = s.writeSlow a w := by
  simp (disch := omega) only [State.regWrite, inRange, Bool.and_eq_true, Bool.or_eq_true, Nat.ble_eq, Nat.blt_eq, Nat.beq_eq,
    if_pos, if_neg]

theorem State.regWrite_wir (lo : 0x19000000 ≤ a) (hi : a < 0x19020000) : s.regWrite req a w = s.writeWir req a w := by
  simp (disch := omega) only [State.regWrite, inRange, Bool.and_eq_true, Bool.or_eq_true, Nat.ble_eq, Nat.blt_eq, Nat.beq_eq,
    if_pos, if_neg]

theorem State.regWrite_power (lo : 0x1A000000 ≤ a) (hi : a < 0x1A030000) : s.regWrite req a w = s.writePower a w := by
  simp (disch := omega) only [State.regWrite, inRange, Bool.and_eq_true, Bool.or_eq_true, Nat.ble_eq, Nat.blt_eq, Nat.beq_eq,
    if_pos, if_neg]

theorem State.regWrite_hth (lo : 0x20000000 ≤ a) (hi : a < 0x20020000) : s.regWrite req a w = s.writeHth a w := by
  simp (disch := omega) only [State.regWrite, inRange, Bool.and_eq_true, Bool.or_eq_true, Nat.ble_eq, Nat.blt_eq, Nat.beq_eq,
    if_pos, if_neg]

/-! ## The registers of the rows that write one -/

theorem State.regWrite_PWR_WARM : s.regWrite req Reg.PWR_WARM w = s.writeWarm w := by
  simp (disch := decide) only [State.regWrite, State.writePower, if_pos, if_neg]

theorem State.regWrite_BOOT_HARTREL : s.regWrite req Reg.BOOT_HARTREL w = s.writeHartrel w := by
  simp (disch := decide) only [State.regWrite, State.writeBoot, if_pos, if_neg]

theorem State.regWrite_BOOT_LCS : s.regWrite req Reg.BOOT_LCS w = s.writeLcs w := by
  simp (disch := decide) only [State.regWrite, State.writeBoot, if_pos, if_neg]

theorem State.regWrite_BOOT_KEYREV : s.regWrite req Reg.BOOT_KEYREV w = s.writeKeyrev w := by
  simp (disch := decide) only [State.regWrite, State.writeBoot, if_pos, if_neg]

theorem State.regWrite_BOOT_ARB_COMMIT : s.regWrite req Reg.BOOT_ARB_COMMIT w = s.writeArb w := by
  simp (disch := decide) only [State.regWrite, State.writeBoot, if_pos, if_neg]

theorem State.regWrite_TEN_CTRL (n : Fin 64) : s.regWrite req (Reg.TEN_CTRL n) w = s.writeTenCtrl n w := by
  unfold Reg.TEN_CTRL
  rw [State.regWrite_ten _ _ _ (by omega) (by omega)]
  simp (disch := omega) only [State.writeTen, Reg.TEN_STATUS, Bool.and_eq_true, Bool.or_eq_true, Nat.blt_eq, Nat.beq_eq, if_pos]
  congr 1
  omega

theorem State.regWrite_TEN_CQ_TAIL (n : Fin 64) : s.regWrite req (Reg.TEN_CQ_TAIL n) w = s.writeCqTail n w := by
  unfold Reg.TEN_CQ_TAIL
  rw [State.regWrite_ten _ _ _ (by omega) (by omega)]
  simp (disch := omega) only [State.writeTen, Reg.TEN_STATUS, Bool.and_eq_true, Bool.or_eq_true, Nat.blt_eq, Nat.beq_eq,
    if_pos, if_neg]
  congr 1
  omega

theorem State.regWrite_TEN_WDT (n : Fin 64) : s.regWrite req (Reg.TEN_WDT n) w = s.writeTenWdt n w := by
  unfold Reg.TEN_WDT
  rw [State.regWrite_ten _ _ _ (by omega) (by omega)]
  simp (disch := omega) only [State.writeTen, Reg.TEN_STATUS, Bool.and_eq_true, Bool.or_eq_true, Nat.blt_eq, Nat.beq_eq,
    if_pos, if_neg]
  congr 1
  omega

theorem State.regWrite_DB_SQ_TAIL (n : Fin 32) (k : Fin 8) : s.regWrite req (Reg.DB_SQ_TAIL n k) w = s.sqDoorbell n k w := by
  unfold Reg.DB_SQ_TAIL
  rw [State.regWrite_doorbell _ _ _ (by omega) (by omega)]
  simp (disch := omega) only [State.writeDoorbell, Nat.blt_eq, Nat.beq_eq, if_pos]
  congr 1
  · omega
  · omega

theorem State.regWrite_DB_CQ_HEAD (n : Fin 32) : s.regWrite req (Reg.DB_CQ_HEAD n) w = (s.writeCqHead n w).settle := by
  unfold Reg.DB_CQ_HEAD
  rw [State.regWrite_doorbell _ _ _ (by omega) (by omega)]
  simp (disch := omega) only [State.writeDoorbell, Nat.blt_eq, Nat.beq_eq, if_pos, if_neg]
  congr 2
  omega

theorem State.regWrite_TCX_CTRL : s.regWrite req Reg.TCX_CTRL w = s.writeTcxCtrl w := by
  simp (disch := decide) only [State.regWrite, State.writeTcx, if_pos, if_neg]

theorem State.regWrite_TMB_INCR_HI : s.regWrite req Reg.TMB_INCR_HI w = s.writeIncrHi w := by
  simp (disch := decide) only [State.regWrite, State.writeTmb, if_pos, if_neg]

theorem State.regWrite_TMB_ADJ_CTRL : s.regWrite req Reg.TMB_ADJ_CTRL w = s.writeAdjCtrl w := by
  simp (disch := decide) only [State.regWrite, State.writeTmb, if_pos, if_neg]

theorem State.regWrite_TMB_CTRL : s.regWrite req Reg.TMB_CTRL w = s.writeTmbCtrl w := by
  simp (disch := decide) only [State.regWrite, State.writeTmb, if_pos, if_neg]

theorem State.regWrite_TTB_CTRL : s.regWrite req Reg.TTB_CTRL w = s.writeTtbCtrl w := by
  simp (disch := decide) only [State.regWrite, State.writeTtb, if_pos, if_neg]

theorem State.regWrite_FGD_STR_CTRL (n : Fin 20) : s.regWrite req (Reg.FGD_STR_CTRL n) w = s.writeStrCtrl n w := by
  unfold Reg.FGD_STR_CTRL
  rw [State.regWrite_sensor _ _ _ (by omega) (by omega)]
  simp (disch := omega) only [State.writeSensor, Reg.FUS_BUF_TAIL, Reg.FUS_CTRL, Reg.FUS_REPHASE, inRange, Bool.and_eq_true,
    Bool.or_eq_true, Nat.ble_eq, Nat.blt_eq, Nat.beq_eq, if_pos, if_neg]
  congr 1
  omega

theorem State.regWrite_FGD_STR_BUF_TAIL (n : Fin 20) : s.regWrite req (Reg.FGD_STR_BUF_TAIL n) w = s.writeStrTail n w := by
  unfold Reg.FGD_STR_BUF_TAIL
  rw [State.regWrite_sensor _ _ _ (by omega) (by omega)]
  simp (disch := omega) only [State.writeSensor, Reg.FUS_BUF_TAIL, Reg.FUS_CTRL, Reg.FUS_REPHASE, inRange, Bool.and_eq_true,
    Bool.or_eq_true, Nat.ble_eq, Nat.blt_eq, Nat.beq_eq, if_pos, if_neg]
  congr 1
  omega

theorem State.regWrite_FUS_CTRL : s.regWrite req Reg.FUS_CTRL w = s.writeFusCtrl w := by
  simp (disch := decide) only [State.regWrite, State.writeSensor, if_pos, if_neg]

theorem State.regWrite_FUS_REPHASE : s.regWrite req Reg.FUS_REPHASE w = s.writeRephase w := by
  simp (disch := decide) only [State.regWrite, State.writeSensor, if_pos, if_neg]

theorem State.regWrite_FUS_BUF_TAIL (n : Fin 64) : s.regWrite req (Reg.FUS_BUF_TAIL n) w = s.writeFusBufTail n w := by
  unfold Reg.FUS_BUF_TAIL
  rw [State.regWrite_sensor _ _ _ (by omega) (by omega)]
  simp (disch := omega) only [State.writeSensor, Reg.FUS_BUF_TAIL, Reg.FUS_CTRL, Reg.FUS_REPHASE, inRange, Bool.and_eq_true,
    Bool.or_eq_true, Nat.ble_eq, Nat.blt_eq, Nat.beq_eq, if_pos, if_neg]
  congr 1
  omega

theorem State.regWrite_DMC_RP_CTRL (n : Fin 8) : s.regWrite req (Reg.DMC_RP_CTRL n) w = s.writeRangeCtrl n w := by
  unfold Reg.DMC_RP_CTRL
  rw [State.regWrite_dmc _ _ _ (by omega) (by omega)]
  have hn : (0x11000038 + n.val * 0x10000 - 0x11000000) / 0x10000 = n.val := by omega
  simp (disch := omega) only [State.writeDmc, State.writeRangeCtrl, hn, Reg.DMC_MARK, Reg.DMC_RP_CTRL, Reg.DMC_RP_END,
    Reg.DMC_RP_START, Reg.DMC_STATUS, Bool.and_eq_true, Bool.or_eq_true, Nat.ble_eq, Nat.blt_eq, Nat.beq_eq, if_neg]
  split <;> rfl

theorem State.regWrite_DMC_MARK (n : Fin 8) : s.regWrite req (Reg.DMC_MARK n) w = s.writeMark n w := by
  unfold Reg.DMC_MARK
  rw [State.regWrite_dmc _ _ _ (by omega) (by omega)]
  have hn : (0x1100001C + n.val * 0x10000 - 0x11000000) / 0x10000 = n.val := by omega
  simp (disch := omega) only [State.writeDmc, State.writeMark, hn, Reg.DMC_MARK, Reg.DMC_RP_CTRL, Reg.DMC_RP_END,
    Reg.DMC_RP_START, Reg.DMC_STATUS, Bool.and_eq_true, Bool.or_eq_true, Nat.beq_eq, if_neg]
  split <;> rfl

theorem State.regWrite_SLC_FLUSH : s.regWrite req Reg.SLC_FLUSH w = s.writeFlush w := by
  simp (disch := decide) only [State.regWrite, State.writeCacheSluice, if_pos, if_neg]

theorem State.regWrite_SLC_HOLD : s.regWrite req Reg.SLC_HOLD w = s.writeHold w := by
  simp (disch := decide) only [State.regWrite, State.writeCacheSluice, if_pos, if_neg]

theorem State.regWrite_GRD_FENCE (n : Fin 11) : s.regWrite req (Reg.GRD_FENCE n) w = s.writeFence n w := by
  unfold Reg.GRD_FENCE
  rw [State.regWrite_guard _ _ _ (by omega) (by omega)]
  simp (disch := omega) only [State.writeGuard, Reg.GRD_FENCE, Bool.and_eq_true, Nat.blt_eq, Nat.beq_eq, if_pos, if_neg]
  congr 1
  omega

theorem State.regWrite_SLU_CTRL : s.regWrite req Reg.SLU_CTRL w = s.plainWrite Reg.SLU_CTRL w := by
  simp (disch := decide) only [State.regWrite, State.writeCacheSluice, if_pos, if_neg]

theorem State.regWrite_GFX_GQ_CTRL (n : Fin 8) : s.regWrite req (Reg.GFX_GQ_CTRL n) w = s.writeGqCtrl n w := by
  unfold Reg.GFX_GQ_CTRL
  rw [State.regWrite_picture_graphics _ _ _ (by omega) (by omega)]
  simp (disch := omega) only [State.writePicture, inRange, Bool.and_eq_true, Bool.or_eq_true, Nat.ble_eq, Nat.blt_eq,
    Nat.beq_eq, if_pos, if_neg]
  congr 1
  omega

theorem State.regWrite_GQ_DB_SQ_TAIL (n : Fin 8) : s.regWrite req (Reg.GQ_DB_SQ_TAIL n) w = s.writeGqTail n w := by
  unfold Reg.GQ_DB_SQ_TAIL
  rw [State.regWrite_picture_graphics _ _ _ (by omega) (by omega)]
  simp (disch := omega) only [State.writePicture, inRange, Bool.and_eq_true, Bool.or_eq_true, Nat.ble_eq, Nat.blt_eq,
    Nat.beq_eq, if_pos, if_neg]
  congr 1
  omega

theorem State.regWrite_DSP_CTRL (n : Fin 4) : s.regWrite req (Reg.DSP_CTRL n) w = s.writeDspCtrl n w := by
  unfold Reg.DSP_CTRL
  rw [State.regWrite_picture_display _ _ _ (by omega) (by omega)]
  have hn : (0x14100000 + n.val * 0x10000) / 0x10000 - 0x1410 = n.val := by omega
  simp (disch := omega) only [State.writePicture, hn, inRange, Bool.and_eq_true, Bool.or_eq_true, Nat.ble_eq, Nat.blt_eq,
    Nat.beq_eq, if_pos, if_neg]

theorem State.regWrite_DSP_DB_SQ_TAIL (n : Fin 4) : s.regWrite req (Reg.DSP_DB_SQ_TAIL n) w = s.writeFlipTail n w := by
  unfold Reg.DSP_DB_SQ_TAIL
  rw [State.regWrite_picture_display _ _ _ (by omega) (by omega)]
  have hn : (0x14108000 + n.val * 0x10000) / 0x10000 - 0x1410 = n.val := by omega
  simp (disch := omega) only [State.writePicture, hn, inRange, Bool.and_eq_true, Bool.or_eq_true, Nat.ble_eq, Nat.blt_eq,
    Nat.beq_eq, if_pos, if_neg]

theorem State.regWrite_APC_PAIR_CTRL (n : Fin 8) : s.regWrite req (Reg.APC_PAIR_CTRL n) w = s.writePair n w := by
  unfold Reg.APC_PAIR_CTRL
  rw [State.regWrite_world_pairs _ _ _ (by omega) (by omega)]
  rcases Nat.mod_two_eq_zero_or_one n.val with h | h
  · have hn : ((0x15000100 + n.val / 2 * 0x10000 + n.val % 2 * 0x20) / 0x10000 - 0x1500) * 2 = n.val := by omega
    simp (disch := omega) only [State.writeWorld, hn, inRange, Bool.and_eq_true, Nat.ble_eq, Nat.blt_eq, Nat.beq_eq, if_pos]
  · have hn : ((0x15000100 + n.val / 2 * 0x10000 + n.val % 2 * 0x20) / 0x10000 - 0x1500) * 2 + 1 = n.val := by omega
    simp (disch := omega) only [State.writeWorld, hn, inRange, Bool.and_eq_true, Nat.ble_eq, Nat.blt_eq, Nat.beq_eq, if_pos,
      if_neg]

theorem State.regWrite_WGD_CTRL : s.regWrite req Reg.WGD_CTRL w = s.writeFail w := by
  simp (disch := decide) only [State.regWrite, State.writeWorld, if_pos, if_neg]

theorem State.regWrite_WGD_LOCK (n : Fin 2) : s.regWrite req (Reg.WGD_LOCK n) w = s.plainWrite (Reg.WGD_LOCK n) w := by
  unfold Reg.WGD_LOCK
  rw [State.regWrite_world_wgd _ _ _ (by omega) (by omega)]
  simp (disch := omega) only [State.writeWorld, Reg.WGD_CTRL, Reg.WGD_GATE_TMO, Reg.WGD_IMSIC_OWN, Reg.WGD_OWN, inRange,
    Bool.and_eq_true, Nat.ble_eq, Nat.blt_eq, Nat.beq_eq, if_neg]

theorem State.regWrite_WGD_OWN (n : Fin 64) : s.regWrite req (Reg.WGD_OWN n) w = s.writeOwner n w := by
  unfold Reg.WGD_OWN
  rw [State.regWrite_world_wgd _ _ _ (by omega) (by omega)]
  simp (disch := omega) only [State.writeWorld, Reg.WGD_CTRL, Reg.WGD_GATE_TMO, Reg.WGD_IMSIC_OWN, Reg.WGD_OWN, inRange,
    Bool.and_eq_true, Nat.ble_eq, Nat.blt_eq, Nat.beq_eq, if_pos, if_neg]
  congr 1
  omega

theorem State.regWrite_PWR_SHOLD (n : Fin 2) : s.regWrite req (Reg.PWR_SHOLD n) w = s.writeShold n w := by
  match n with
  | 0 => simp (disch := decide) only [State.regWrite, State.writePower, if_pos, if_neg]; rfl
  | 1 => simp (disch := decide) only [State.regWrite, State.writePower, if_pos, if_neg]; rfl

theorem State.regWrite_PWR_HHOLD (n : Fin 2) : s.regWrite req (Reg.PWR_HHOLD n) w = s.writeHhold n w := by
  match n with
  | 0 => simp (disch := decide) only [State.regWrite, State.writePower, if_pos, if_neg]; rfl
  | 1 => simp (disch := decide) only [State.regWrite, State.writePower, if_pos, if_neg]; rfl

theorem State.regWrite_WIR0_SEM_OWN (n : Fin 8) : s.regWrite req (Reg.WIR0_SEM_OWN n) w = s.writeSemOwn n req w := by
  unfold Reg.WIR0_SEM_OWN
  rw [State.regWrite_wir _ _ _ (by omega) (by omega)]
  have ho : (0x19000800 + n.val * 0x10) % 0x10000 % 0x10 = 0 := by omega
  simp (disch := omega) only [State.writeWir, ho, inRange, Bool.and_eq_true, Nat.ble_eq, Nat.blt_eq, Nat.beq_eq, if_pos, if_neg]
  congr 1
  omega

theorem State.regWrite_WIR0_SEM_CMD (n : Fin 8) : s.regWrite req (Reg.WIR0_SEM_CMD n) w = s.writeSemCmd n req w := by
  unfold Reg.WIR0_SEM_CMD
  rw [State.regWrite_wir _ _ _ (by omega) (by omega)]
  have ho : (0x19000808 + n.val * 0x10) % 0x10000 % 0x10 = 8 := by omega
  simp (disch := omega) only [State.writeWir, ho, inRange, Bool.and_eq_true, Nat.ble_eq, Nat.blt_eq, Nat.beq_eq, if_pos, if_neg]
  congr 1
  omega

theorem State.regWrite_TSW_HIF_CTRL : s.regWrite req Reg.TSW_HIF_CTRL w = s.writeHifCtrl w := by
  simp (disch := decide) only [State.regWrite, State.writeTsw, if_pos, if_neg]

theorem State.regWrite_HIF_DB_TX_TAIL (n : Fin 8) : s.regWrite req (Reg.HIF_DB_TX_TAIL n) w = s.writeHifTail true n w := by
  unfold Reg.HIF_DB_TX_TAIL
  rw [State.regWrite_tsw _ _ _ (by omega) (by omega)]
  simp (disch := omega) only [State.writeTsw, Reg.TSW_HIF_CTRL, Reg.TSW_HIF_DESC_HI, Reg.TSW_HIF_DESC_LO, inRange,
    Bool.and_eq_true, Bool.or_eq_true, Nat.ble_eq, Nat.blt_eq, Nat.beq_eq, if_pos, if_neg]
  congr 1
  omega

theorem State.regWrite_HIF_DB_RX_TAIL (n : Fin 8) : s.regWrite req (Reg.HIF_DB_RX_TAIL n) w = s.writeHifTail false n w := by
  unfold Reg.HIF_DB_RX_TAIL
  rw [State.regWrite_tsw _ _ _ (by omega) (by omega)]
  simp (disch := omega) only [State.writeTsw, Reg.TSW_HIF_CTRL, Reg.TSW_HIF_DESC_HI, Reg.TSW_HIF_DESC_LO, inRange,
    Bool.and_eq_true, Bool.or_eq_true, Nat.ble_eq, Nat.blt_eq, Nat.beq_eq, if_pos, if_neg]
  congr 1
  omega

theorem State.regWrite_TSW_GCL (n : Fin 14) : s.regWrite req (Reg.TSW_GCL n) w = s.writeGcl n w := by
  unfold Reg.TSW_GCL
  rw [State.regWrite_tsw _ _ _ (by omega) (by omega)]
  simp (disch := omega) only [State.writeTsw, Reg.TSW_HIF_CTRL, Reg.TSW_HIF_DESC_HI, Reg.TSW_HIF_DESC_LO, inRange,
    Bool.and_eq_true, Bool.or_eq_true, Nat.ble_eq, Nat.blt_eq, Nat.beq_eq, if_pos, if_neg]
  congr 1
  omega

theorem State.regWrite_CAN_CTRL (n : Fin 12) : s.regWrite req (Reg.CAN_CTRL n) w = s.writeCanCtrl n w := by
  unfold Reg.CAN_CTRL
  rw [State.regWrite_can _ _ _ (by omega) (by omega)]
  have hn : (0x18100000 + n.val * 0x10000) / 0x10000 - 0x1810 = n.val := by omega
  simp (disch := omega) only [State.writeCan, hn, inRange, Bool.and_eq_true, Bool.or_eq_true, Nat.ble_eq, Nat.blt_eq,
    Nat.beq_eq, if_pos]

theorem State.regWrite_CAN_DB_SQ_TAIL (n : Fin 12) : s.regWrite req (Reg.CAN_DB_SQ_TAIL n) w = s.writeCanTail n w := by
  unfold Reg.CAN_DB_SQ_TAIL
  rw [State.regWrite_can _ _ _ (by omega) (by omega)]
  have hn : (0x18108000 + n.val * 0x10000) / 0x10000 - 0x1810 = n.val := by omega
  simp (disch := omega) only [State.writeCan, hn, inRange, Bool.and_eq_true, Bool.or_eq_true, Nat.ble_eq, Nat.blt_eq,
    Nat.beq_eq, if_pos, if_neg]

theorem State.regWrite_PCE_CFG (n : Fin 2) : s.regWrite req (Reg.PCE_CFG n) w = s.writePceCfg n w := by
  unfold Reg.PCE_CFG
  rw [State.regWrite_slow_pcie _ _ _ (by omega) (by omega)]
  have hn : (0x18200000 + n.val * 0x10000) / 0x10000 - 0x1820 = n.val := by omega
  simp (disch := omega) only [State.writeSlow, hn, Reg.XSP_DB_ERR, Reg.XSP_DB_SQ_TAIL, inRange, Bool.and_eq_true,
    Bool.or_eq_true, Nat.ble_eq, Nat.blt_eq, Nat.beq_eq, if_pos, if_neg]

theorem State.regWrite_XSP_DB_SQ_TAIL : s.regWrite req Reg.XSP_DB_SQ_TAIL w = s.writeXspTail w := by
  simp (disch := decide) only [State.regWrite, State.writeSlow, if_pos, if_neg]

theorem State.regWrite_AUD_CTRL (n : Fin 8) : s.regWrite req (Reg.AUD_CTRL n) w = s.writeAudCtrl n w := by
  unfold Reg.AUD_CTRL
  rw [State.regWrite_slow_serial _ _ _ (by omega) (by omega)]
  simp (disch := omega) only [State.writeSlow, Reg.XSP_DB_ERR, Reg.XSP_DB_SQ_TAIL, inRange, Bool.and_eq_true, Bool.or_eq_true,
    Nat.ble_eq, Nat.blt_eq, Nat.beq_eq, if_pos, if_neg]
  congr 1
  omega

theorem State.regWrite_AUD_BUF_TAIL (n : Fin 8) : s.regWrite req (Reg.AUD_BUF_TAIL n) w = s.writeAudTail n w := by
  unfold Reg.AUD_BUF_TAIL
  rw [State.regWrite_slow_serial _ _ _ (by omega) (by omega)]
  simp (disch := omega) only [State.writeSlow, Reg.XSP_DB_ERR, Reg.XSP_DB_SQ_TAIL, inRange, Bool.and_eq_true, Bool.or_eq_true,
    Nat.ble_eq, Nat.blt_eq, Nat.beq_eq, if_pos, if_neg]
  congr 1
  omega

theorem State.regWrite_ERM_POP : s.regWrite req Reg.ERM_POP w = s.writePop w := by
  simp (disch := decide) only [State.regWrite, State.writeHth, if_pos, if_neg]

theorem State.regWrite_ERM_SRC (n : Fin 256) : s.regWrite req (Reg.ERM_SRC n) w = s.writeSrc n w := by
  unfold Reg.ERM_SRC
  rw [State.regWrite_hth _ _ _ (by omega) (by omega)]
  simp (disch := omega) only [State.writeHth, Reg.ERM_POP, Reg.ERM_SAFE, Reg.ERM_SRC, Reg.HTH_MODE, inRange, Bool.and_eq_true,
    Nat.ble_eq, Nat.blt_eq, Nat.beq_eq, if_pos, if_neg]
  congr 1
  omega

theorem State.regWrite_ERM_SAFE : s.regWrite req Reg.ERM_SAFE w = s.writeSafe w := by
  simp (disch := decide) only [State.regWrite, State.writeHth, if_pos, if_neg]

theorem State.regWrite_FWL_LOG_CFG : s.regWrite req Reg.FWL_LOG_CFG w = s.writeLogCfg req w := by
  simp (disch := decide) only [State.regWrite, State.writeBoot, if_pos, if_neg]

theorem State.regWrite_PWR_DOM (n : Fin 41) : s.regWrite req (Reg.PWR_DOM n) w = s.writePwrDom n w := by
  unfold Reg.PWR_DOM
  rw [State.regWrite_power _ _ _ (by omega) (by omega)]
  simp (disch := omega) only [State.writePower, Reg.PWR_DOM, Reg.PWR_HHOLD, Reg.PWR_SHOLD, Reg.PWR_WARM, Reg.THM_SURGE,
    inRange, Bool.and_eq_true, Nat.ble_eq, Nat.blt_eq, Nat.beq_eq, if_pos, if_neg]
  congr 1
  omega

theorem State.regWrite_THM_SURGE : s.regWrite req Reg.THM_SURGE w = s.writeSurge w := by
  simp (disch := decide) only [State.regWrite, State.writePower, if_pos, if_neg]
end

/-! ## Places -/

/-- An address of a register block's slot. -/
def inSlot (a : Nat) : Bool := regSlots.any fun r => inRange a r.1 r.2

/-- The slots lie apart from the memories, the interrupt files and the tables. -/
theorem regSlots_apart : ∀ r ∈ regSlots, 0x10000000 ≤ r.1 ∧
    (r.2 ≤ 0x16000000 ∨ (0x17000000 ≤ r.1 ∧ r.2 ≤ tcmBase) ∨ (0x20880000 ≤ r.1 ∧ r.2 ≤ engineMemBase)) := by decide

/-- In a slot lie registers, whatever DDR is installed. -/
theorem placeOf_inSlot {cap a : Nat} (h : inSlot a = true) : placeOf cap a = .register := by
  have slot := h
  simp only [inSlot, List.any_eq_true, inRange, Bool.and_eq_true, Nat.ble_eq, Nat.blt_eq] at slot
  obtain ⟨r, hr, lo, hi⟩ := slot
  have apart := regSlots_apart r hr
  simp only [tcmBase, engineMemBase] at apart
  unfold inSlot at h
  simp (disch := omega) only [placeOf, isInterruptFile, ddrBase, engineMemBase, clusterMemBase, tcmBase, inRange,
    Bool.and_eq_true, Bool.or_eq_true, Nat.ble_eq, Nat.blt_eq, if_neg]
  exact if_pos h

theorem State.place_inSlot (s : State) {a : Nat} (h : inSlot a = true) : s.place a = .register := placeOf_inSlot h

theorem inSlot_lt {a : Nat} (h : inSlot a = true) : a < 2 ^ 48 := by
  simp only [inSlot, List.any_eq_true, inRange, Bool.and_eq_true, Nat.blt_eq] at h
  obtain ⟨r, hr, _, hi⟩ := h
  have apart := regSlots_apart r hr
  simp only [tcmBase, engineMemBase] at apart
  omega

theorem inSlot_ERM_SRC (n : Fin 256) : inSlot (Reg.ERM_SRC n) = true := by
  refine List.any_eq_true.2 ⟨(0x20000000, 0x20020000), by decide, ?_⟩
  simp only [inRange, Reg.ERM_SRC, Bool.and_eq_true, Nat.ble_eq, Nat.blt_eq]
  omega

/-! ## The rows that write one register -/

/-- A row that writes a register through its bus, with the effect that the dispatch by address finds. -/
theorem exec_busWrite {i : Instr} {s : State} {req : Req} {a : Nat} {w : Word} {eff : State → State} (slot : inSlot a = true)
    (he : exec i s = .next (s.busWrite req a w eff)) (hr : ∀ t : State, t.regWrite (s.issued req) a w = eff t) :
    inSlot a = true ∧ exec i s = .next (s.busWrite req a w fun t => t.regWrite (s.issued req) a w) := by
  obtain rfl : (fun t : State => t.regWrite (s.issued req) a w) = eff := funext hr
  exact ⟨slot, he⟩

/-- Each row that names a register write is that write: at its register's address the dispatch finds the row's effect. -/
theorem exec_writeOf {i : Instr} {req : Req} {a : Nat} {w : Word} (s : State) (h : i.writeOf = some (req, a, w)) :
    inSlot a = true ∧ exec i s = .next (s.busWrite req a w fun t => t.regWrite (s.issued req) a w) := by
  cases i with
  | pwrWarmGo _ _ => cases h; exact exec_busWrite (by decide) rfl fun t => t.regWrite_PWR_WARM ..
  | hartRelease _ _ => cases h; exact exec_busWrite (by decide) rfl fun t => t.regWrite_BOOT_HARTREL ..
  | lifecycleAdvance _ _ => cases h; exact exec_busWrite (by decide) rfl fun t => t.regWrite_BOOT_LCS ..
  | keyRevoke _ _ => cases h; exact exec_busWrite (by decide) rfl fun t => t.regWrite_BOOT_KEYREV ..
  | arbCommit _ _ => cases h; exact exec_busWrite (by decide) rfl fun t => t.regWrite_BOOT_ARB_COMMIT ..
  | tenEnable te _ _ => cases h; exact exec_busWrite (by decide +revert) rfl fun t => t.regWrite_TEN_CTRL ..
  | tenHalt te _ _ => cases h; exact exec_busWrite (by decide +revert) rfl fun t => t.regWrite_TEN_CTRL ..
  | tenReset te _ _ => cases h; exact exec_busWrite (by decide +revert) rfl fun t => t.regWrite_TEN_CTRL ..
  | tenCqTailWrite te _ _ => cases h; exact exec_busWrite (by decide +revert) rfl fun t => t.regWrite_TEN_CQ_TAIL ..
  | tenWdtWrite te _ _ => cases h; exact exec_busWrite (by decide +revert) rfl fun t => t.regWrite_TEN_WDT ..
  | dbSqTailWrite ctx ring _ _ => cases h; exact exec_busWrite (by decide +revert) rfl fun t => t.regWrite_DB_SQ_TAIL ..
  | dbCqHeadWrite ctx _ _ => cases h; exact exec_busWrite (by decide +revert) rfl fun t => t.regWrite_DB_CQ_HEAD ..
  | tcxGo _ _ => cases h; exact exec_busWrite (by decide) rfl fun t => t.regWrite_TCX_CTRL ..
  | tmbIncrCommit _ _ => cases h; exact exec_busWrite (by decide) rfl fun t => t.regWrite_TMB_INCR_HI ..
  | tmbAdjRelative _ _ => cases h; exact exec_busWrite (by decide) rfl fun t => t.regWrite_TMB_ADJ_CTRL ..
  | tmbAdjAbsolute _ _ => cases h; exact exec_busWrite (by decide) rfl fun t => t.regWrite_TMB_ADJ_CTRL ..
  | tmbSourceChange _ _ => cases h; exact exec_busWrite (by decide) rfl fun t => t.regWrite_TMB_CTRL ..
  | servoEnable _ _ => cases h; exact exec_busWrite (by decide) rfl fun t => t.regWrite_TMB_CTRL ..
  | timetableSwapRequest _ _ => cases h; exact exec_busWrite (by decide) rfl fun t => t.regWrite_TTB_CTRL ..
  | timetableEnable _ _ => cases h; exact exec_busWrite (by decide) rfl fun t => t.regWrite_TTB_CTRL ..
  | streamEnable str _ _ => cases h; exact exec_busWrite (by decide +revert) rfl fun t => t.regWrite_FGD_STR_CTRL ..
  | streamDisable str _ _ => cases h; exact exec_busWrite (by decide +revert) rfl fun t => t.regWrite_FGD_STR_CTRL ..
  | streamBufTailWrite str _ _ => cases h; exact exec_busWrite (by decide +revert) rfl fun t => t.regWrite_FGD_STR_BUF_TAIL ..
  | fusionSwapRequest _ _ => cases h; exact exec_busWrite (by decide) rfl fun t => t.regWrite_FUS_CTRL ..
  | fusionRephase _ _ => cases h; exact exec_busWrite (by decide) rfl fun t => t.regWrite_FUS_REPHASE ..
  | fusBufTailWrite inst _ _ => cases h; exact exec_busWrite (by decide +revert) rfl fun t => t.regWrite_FUS_BUF_TAIL ..
  | rangePassStart dmc _ _ => cases h; exact exec_busWrite (by decide +revert) rfl fun t => t.regWrite_DMC_RP_CTRL ..
  | rangePassAbort dmc _ _ => cases h; exact exec_busWrite (by decide +revert) rfl fun t => t.regWrite_DMC_RP_CTRL ..
  | markClear dmc _ _ => cases h; exact exec_busWrite (by decide +revert) rfl fun t => t.regWrite_DMC_MARK ..
  | slcFlush _ _ => cases h; exact exec_busWrite (by decide) rfl fun t => t.regWrite_SLC_FLUSH ..
  | depthHoldWrite _ _ => cases h; exact exec_busWrite (by decide) rfl fun t => t.regWrite_SLC_HOLD ..
  | guardFence target _ _ => cases h; exact exec_busWrite (by decide +revert) rfl fun t => t.regWrite_GRD_FENCE ..
  | wheelSwapRequest _ _ => cases h; exact exec_busWrite (by decide) rfl fun t => t.regWrite_SLU_CTRL ..
  | gqEnable q _ _ => cases h; exact exec_busWrite (by decide +revert) rfl fun t => t.regWrite_GFX_GQ_CTRL ..
  | gqDisable q _ _ => cases h; exact exec_busWrite (by decide +revert) rfl fun t => t.regWrite_GFX_GQ_CTRL ..
  | gqDoorbell q _ _ => cases h; exact exec_busWrite (by decide +revert) rfl fun t => t.regWrite_GQ_DB_SQ_TAIL ..
  | headEnable head _ _ => cases h; exact exec_busWrite (by decide +revert) rfl fun t => t.regWrite_DSP_CTRL ..
  | headDisable head _ _ => cases h; exact exec_busWrite (by decide +revert) rfl fun t => t.regWrite_DSP_CTRL ..
  | flipDoorbell head _ _ => cases h; exact exec_busWrite (by decide +revert) rfl fun t => t.regWrite_DSP_DB_SQ_TAIL ..
  | pairReset pair _ _ => cases h; exact exec_busWrite (by decide +revert) rfl fun t => t.regWrite_APC_PAIR_CTRL ..
  | secureFail _ _ => cases h; exact exec_busWrite (by decide) rfl fun t => t.regWrite_WGD_CTRL ..
  | wlock half _ _ => cases h; exact exec_busWrite (by decide +revert) rfl fun t => t.regWrite_WGD_LOCK ..
  | ownershipWrite unit _ _ => cases h; exact exec_busWrite (by decide +revert) rfl fun t => t.regWrite_WGD_OWN ..
  | sholdWrite half _ _ => cases h; exact exec_busWrite (by decide +revert) rfl fun t => t.regWrite_PWR_SHOLD ..
  | hholdWrite half _ _ => cases h; exact exec_busWrite (by decide +revert) rfl fun t => t.regWrite_PWR_HHOLD ..
  | semAcquire sem _ _ => cases h; exact exec_busWrite (by decide +revert) rfl fun t => t.regWrite_WIR0_SEM_OWN ..
  | semRelease sem _ _ => cases h; exact exec_busWrite (by decide +revert) rfl fun t => t.regWrite_WIR0_SEM_OWN ..
  | semGo sem _ _ => cases h; exact exec_busWrite (by decide +revert) rfl fun t => t.regWrite_WIR0_SEM_CMD ..
  | hifEnable _ _ => cases h; exact exec_busWrite (by decide) rfl fun t => t.regWrite_TSW_HIF_CTRL ..
  | hifDisable _ _ => cases h; exact exec_busWrite (by decide) rfl fun t => t.regWrite_TSW_HIF_CTRL ..
  | hifTxDoorbell ring _ _ => cases h; exact exec_busWrite (by decide +revert) rfl fun t => t.regWrite_HIF_DB_TX_TAIL ..
  | hifRxDoorbell ring _ _ => cases h; exact exec_busWrite (by decide +revert) rfl fun t => t.regWrite_HIF_DB_RX_TAIL ..
  | gateListClear port _ _ => cases h; exact exec_busWrite (by decide +revert) rfl fun t => t.regWrite_TSW_GCL ..
  | canEnable can _ _ => cases h; exact exec_busWrite (by decide +revert) rfl fun t => t.regWrite_CAN_CTRL ..
  | canTxDoorbell can _ _ => cases h; exact exec_busWrite (by decide +revert) rfl fun t => t.regWrite_CAN_DB_SQ_TAIL ..
  | pcieEnable pce _ _ => cases h; exact exec_busWrite (by decide +revert) rfl fun t => t.regWrite_PCE_CFG ..
  | xspiDoorbell _ _ => cases h; exact exec_busWrite (by decide) rfl fun t => t.regWrite_XSP_DB_SQ_TAIL ..
  | audioEnable port _ _ => cases h; exact exec_busWrite (by decide +revert) rfl fun t => t.regWrite_AUD_CTRL ..
  | audioBufTailWrite port _ _ => cases h; exact exec_busWrite (by decide +revert) rfl fun t => t.regWrite_AUD_BUF_TAIL ..
  | ermPop _ _ => cases h; exact exec_busWrite (by decide) rfl fun t => t.regWrite_ERM_POP ..
  | ermDone src _ _ => cases h; exact exec_busWrite (inSlot_ERM_SRC src) rfl fun t => t.regWrite_ERM_SRC ..
  | faultClr _ _ => cases h; exact exec_busWrite (by decide) rfl fun t => t.regWrite_ERM_SAFE ..
  | safeLevelWrite _ _ => cases h; exact exec_busWrite (by decide) rfl fun t => t.regWrite_ERM_SAFE ..
  | fwlEnable _ _ => cases h; exact exec_busWrite (by decide) rfl fun t => t.regWrite_FWL_LOG_CFG ..
  | domainOffRequest dom _ _ => cases h; exact exec_busWrite (by decide +revert) rfl fun t => t.regWrite_PWR_DOM ..
  | domainOnRequest dom _ _ => cases h; exact exec_busWrite (by decide +revert) rfl fun t => t.regWrite_PWR_DOM ..
  | domainReset dom _ _ => cases h; exact exec_busWrite (by decide +revert) rfl fun t => t.regWrite_PWR_DOM ..
  | surgeRequest _ _ => cases h; exact exec_busWrite (by decide) rfl fun t => t.regWrite_THM_SURGE ..
  | surgeDisWrite _ _ => cases h; exact exec_busWrite (by decide) rfl fun t => t.regWrite_THM_SURGE ..
  | _ => cases h

/-! ## The rows that read one register -/

/-- The fields of a register share no bits, and one of them at least is read-to-clear. -/
def counts (a : Nat) : Bool := fieldsApart (regFields a) && (regFields a).any fun f => decide (f.acc = .rc)

/-- Each row that reads a register with read-to-clear fields is that read. -/
theorem exec_countReadOf {i : Instr} {req : Req} {a : Nat} (s : State) (h : i.countReadOf = some (req, a)) :
    inSlot a = true ∧ counts a = true ∧ exec i s = .next (s.readClear req a) := by
  cases i with
  | tenChkSkipRead te _ => cases h; exact ⟨by decide +revert, by decide +revert, rfl⟩
  | dbErrRead ctx _ => cases h; exact ⟨by decide +revert, by decide +revert, rfl⟩
  | tmbCapOvrRead pin _ => cases h; exact ⟨by decide +revert, by decide +revert, rfl⟩
  | ttbSkipRead _ => cases h; exact ⟨by decide, by decide, rfl⟩
  | csiErrRead rx _ => cases h; exact ⟨by decide +revert, by decide +revert, rfl⟩
  | sspOvrRead port _ => cases h; exact ⟨by decide +revert, by decide +revert, rfl⟩
  | fgdStatRead str _ => cases h; exact ⟨by decide +revert, by decide +revert, rfl⟩
  | dmcEccCntRead dmc _ => cases h; exact ⟨by decide +revert, by decide +revert, rfl⟩
  | mrcReplaysRead _ => cases h; exact ⟨by decide, by decide, rfl⟩
  | dspLateRead head _ => cases h; exact ⟨by decide +revert, by decide +revert, rfl⟩
  | hthResyncRead _ => cases h; exact ⟨by decide, by decide, rfl⟩
  | wirCntRead bridge _ => cases h; exact ⟨by decide +revert, by decide +revert, rfl⟩
  | hifDbErrRead _ => cases h; exact ⟨by decide, by decide, rfl⟩
  | hifStatRead _ => cases h; exact ⟨by decide, by decide, rfl⟩
  | gmChgRead dom _ => cases h; exact ⟨by decide +revert, by decide +revert, rfl⟩
  | canRxLostRead can _ => cases h; exact ⟨by decide +revert, by decide +revert, rfl⟩
  | ermOvfRead _ => cases h; exact ⟨by decide, by decide, rfl⟩
  | goldenStatRead golden _ => cases h; exact ⟨by decide +revert, by decide +revert, rfl⟩
  | fwlLogLostRead _ => cases h; exact ⟨by decide, by decide, rfl⟩
  | fwlWdtRead proc _ => cases h; exact ⟨by decide +revert, by decide +revert, rfl⟩
  | _ => cases h

end Sys2Proof.Machine
end

section
/-!
SUPPORT. Rows that access one register, against the accesses of REGISTER_WRITE and the refusals of the checks.
-/

namespace Sys2Proof.Machine

/-- REGISTER_WRITE of 32 bits at a register's address is the write of that register through its bus. -/
theorem execRegisterWrite_inSlot {s : State} {req : Req} {a : Nat} {w : Word} (slot : inSlot a = true) :
    execRegisterWrite req (BitVec.ofNat 48 a) 4 w s =
      .next (s.busWrite req a w fun t => t.regWrite (s.issued req) a w) := by
  have toNat : (BitVec.ofNat 48 a).toNat = a := Nat.mod_eq_of_lt (inSlot_lt slot)
  unfold execRegisterWrite State.busWrite
  rw [toNat]
  congr 2
  funext t
  have hp := t.place_inSlot slot
  by_cases h : (t.regCheck (s.issued req) .write a 4).1 = .okay
  · rw [State.writeAt_okay hp h, State.regCheck_okay h]
  · rw [State.writeAt_refused hp h]
    generalize t.regCheck (s.issued req) .write a 4 = r at h ⊢
    obtain ⟨e, u⟩ := r
    cases e with
    | okay => exact absurd rfl h
    | _ => rfl

/-- The checks refuse with DECODE or GUARD. -/
theorem State.regCheck_resp (s : State) (req : Req) (ty : AccType) (a width : Nat) :
    (s.regCheck req ty a width).1 = .okay ∨ (s.regCheck req ty a width).1 = .decode ∨
      (s.regCheck req ty a width).1 = .guard := by
  unfold State.regCheck
  split
  · exact .inr (.inl rfl)
  · split
    · split
      · exact .inl rfl
      · split
        · exact .inr (.inl rfl)
        · split
          · exact .inr (.inr rfl)
          · split
            · exact .inr (.inr rfl)
            · split
              · exact .inl rfl
              · exact .inr (.inl rfl)
    · exact .inr (.inl rfl)

/-- The register accesses are the 69 writes, the 20 counter reads, and the reads of TMB_NOW_NS and TMB_CAP_NS. -/
theorem accessOf_cases {i : Instr} {req : Req} {ty : AccType} {a : Nat} (h : i.accessOf = some (req, ty, a)) :
    (ty = .write ∧ ∃ w, i.writeOf = some (req, a, w)) ∨ (ty = .read ∧ i.countReadOf = some (req, a)) ∨
      (ty = .read ∧ i = .tmbNowNsRead req ∧ a = Reg.TMB_NOW_NS) ∨
      ∃ pin, ty = .read ∧ i = .tmbCapNsRead pin req ∧ a = Reg.TMB_CAP_NS pin := by
  unfold Instr.accessOf at h
  split at h
  next => cases h; exact .inl ⟨rfl, _, by assumption⟩
  next => cases h; exact .inr (.inl ⟨rfl, by assumption⟩)
  next => cases h; exact .inr (.inr (.inl ⟨rfl, rfl, rfl⟩))
  next => cases h; exact .inr (.inr (.inr ⟨_, rfl, rfl, rfl⟩))
  next => cases h

/-- A write row that the checks refuse answers the refusal alone. -/
theorem State.busWrite_refusal {s : State} {req : Req} {a : Nat} {w : Word} {eff : State → State} (slot : inSlot a = true)
    (hs : s.straight req true a = true) (h : ¬ s.Grants req .write a) :
    ∃ e, (e = .decode ∨ e = .guard) ∧ s.busWrite req a w eff = (s.relabel req).answer e [] := by
  have refused : ((s.relabel req).regCheck (s.issued req) .write a 4).1 ≠ .okay := fun ok => h ⟨ok, by simpa using hs⟩
  exact ⟨_, (State.regCheck_resp ..).resolve_left refused,
    State.busWrite_refused hs (State.place_inSlot _ slot) refused⟩

/-- A read row that the checks refuse answers the refusal alone, with zero data. -/
theorem State.busRead_refusal {s : State} {req : Req} {a : Nat} {val : State → Word} {eff : State → State}
    (slot : inSlot a = true) (hs : s.straight req false a = true) (h : ¬ s.Grants req .read a) :
    ∃ e, (e = .decode ∨ e = .guard) ∧ s.busRead req a val eff = (s.relabel req).answer e (List.replicate 4 0#8) := by
  have refused : ((s.relabel req).regCheck (s.issued req) .read a 4).1 ≠ .okay := fun ok => h ⟨ok, by simpa using hs⟩
  exact ⟨_, (State.regCheck_resp ..).resolve_left refused,
    State.busRead_refused hs (State.place_inSlot _ slot) refused⟩

/-- A row that accesses a register and is refused answers the refusal, with zero data for a read, and changes nothing else than
the replaced label's bit. -/
theorem exec_accessOf_refused {i : Instr} {s : State} {req : Req} {ty : AccType} {a : Nat} (h : i.accessOf = some (req, ty, a))
    (hs : s.straight req (decide (ty = .write)) a = true) (hg : ¬ s.Grants req ty a) :
    ∃ e, (e = Resp.decode ∨ e = Resp.guard) ∧
      exec i s = .next ((s.relabel req).answer e (if ty = .read then List.replicate 4 0#8 else [])) := by
  rcases accessOf_cases h with ⟨rfl, w, hw⟩ | ⟨rfl, hr⟩ | ⟨rfl, rfl, rfl⟩ | ⟨pin, rfl, rfl, rfl⟩
  · obtain ⟨slot, he⟩ := exec_writeOf s hw
    obtain ⟨e, refusal, hb⟩ := State.busWrite_refusal slot hs hg
    exact ⟨e, refusal, by rw [he, hb]; rfl⟩
  · obtain ⟨slot, _, he⟩ := exec_countReadOf s hr
    obtain ⟨e, refusal, hb⟩ := State.busRead_refusal slot hs hg
    exact ⟨e, refusal, he.trans (congrArg _ hb)⟩
  · obtain ⟨e, refusal, hb⟩ := State.busRead_refusal (by decide) hs hg
    exact ⟨e, refusal, congrArg Host.Outcome.next hb⟩
  · have slot : ∀ n : Fin 5, inSlot (Reg.TMB_CAP_NS n) = true := by decide
    obtain ⟨e, refusal, hb⟩ := State.busRead_refusal (slot pin) hs hg
    exact ⟨e, refusal, congrArg Host.Outcome.next hb⟩

/-! ## Counter registers -/

/-- A register with read-to-clear fields is not SLU_STATUS, which has none. -/
theorem ne_SLU_STATUS_of_counts {a : Nat} (h : counts a = true) : a ≠ Reg.SLU_STATUS := by
  rintro rfl
  exact absurd h (by decide)

/-- What the read of a register leaves in each of its fields (R11). -/
theorem State.fld_clearRead (s : State) {a : Nat} (h : fieldsApart (regFields a) = true) {f : RegField} (hf : f ∈ regFields a) :
    (s.clearRead a).fld a f.fld = if f.acc = .rc then 0 else s.fld a f.fld := by
  unfold State.fld State.clearRead
  rw [State.reg_setReg_same, readFields_get h _ hf]

/-- A register read that is admitted changes registers and the answer alone. -/
theorem State.onlyRegs_clearRead (s : State) (req : Req) (a : Nat) (w : Word) :
    OnlyRegs s (((s.relabel req).clearRead a).answerWord w) := by
  rw [s.relabel_frame req]
  rfl

end Sys2Proof.Machine
end

section
open Sys2Proof Sys2Proof.Machine

/-- Settles O3: the row and REGISTER_WRITE both write the register through its bus with the effect that the dispatch finds at
its address. -/
theorem rowsAreRegisterWrites : Obligations.RowsAreRegisterWrites := by
  intro i s req a w h
  obtain ⟨slot, he⟩ := exec_writeOf s h
  exact he.trans (execRegisterWrite_inSlot slot).symm

/-- Settles O4: each row is an access of a register in its slot, whose checks refuse with DECODE or GUARD. -/
theorem refusedRegisterAccess : Obligations.RefusedRegisterAccess := by
  intro i s req ty a h hs hg
  exact ⟨exec_accessOf_refused h hs hg, s.flag_relabel_RELABEL req, fun b hb => s.reg_relabel req hb⟩

/-- Settles O2: the rows are reads of registers whose fields are apart, and what such a read leaves in each field is known. -/
theorem countersClearOnRead : Obligations.CountersClearOnRead := by
  intro i s req a h hg
  obtain ⟨_, hc, he⟩ := exec_countReadOf s h
  obtain ⟨apart, rc⟩ := Bool.and_eq_true_iff.1 hc
  have ha := ne_SLU_STATUS_of_counts hc
  have okay := State.busRead_okay (val := (·.reg a)) (eff := (·.clearRead a)) hg.2 hg.1
  refine ⟨by simpa using rc, _, he.trans (congrArg _ okay), State.onlyRegs_clearRead s req a _, ?_, ?_, ?_⟩
  · show ({ resp := _, data := _ } : Reply) = _
    rw [s.reg_relabel req ha]
  · exact fun b hb => State.clearRead_other hb
  · intro f hf
    refine ((s.relabel req).fld_clearRead apart hf).trans ?_
    rw [s.fld_relabel req _ ha]

end

section
/-!
SUPPORT. What the loops over the harts and over the registers that show fuses leave, the advance of the lifecycle, and what the
resets of the whole device leave in the registers.
-/

namespace Sys2Proof.Machine

/-! ## Loops over harts -/

theorem State.foldl_setHart_frame {f : State → Nat → Hart} {ns : List Nat} :
    ∀ t : State, ns.foldl (fun u n => u.setHart n (f u n)) t =
      { t with harts := (ns.foldl (fun u n => u.setHart n (f u n)) t).harts } := by
  induction ns with
  | nil => exact fun _ => rfl
  | cons n ns ih => exact fun t => (ih (t.setHart n (f t n))).trans rfl

/-- What every hart that a loop replaces is given, and no replacement takes away, holds of the harts of the loop afterwards. -/
theorem State.foldl_setHart_holds {f : State → Nat → Hart} {P : Hart → Prop} (given : ∀ u n, P (f u n)) {ns : List Nat} {k : Nat} :
    ∀ t : State, k ∈ ns ∨ P (t.hart k) → P ((ns.foldl (fun u n => u.setHart n (f u n)) t).hart k) := by
  induction ns with
  | nil => intro t h; simpa using h
  | cons n ns ih =>
    intro t h
    refine ih _ ?_
    by_cases hn : k % 16 = n % 16
    · have same : ∀ u : State, u.hart k = u.hart n := fun u => by
        simp only [State.hart, show Fin.ofNat 16 k = Fin.ofNat 16 n from Fin.ext hn]
      right
      rw [same, State.hart_setHart_same]
      exact given t n
    · rw [State.hart_setHart_other hn]
      rcases h with h | h
      · rcases List.mem_cons.1 h with rfl | h
        · exact absurd rfl hn
        · exact .inl h
      · exact .inr h

/-! ## The advance of the lifecycle (R408) -/

/-- The harts of `s` with no halt of a debugger. -/
def State.endDebug (s : State) : State :=
  (List.range 16).foldl (fun s n => s.setHart n { s.hart n with halted := false, haltWaits := false }) s

theorem State.endDebug_eq (s : State) : ∃ harts, s.endDebug = { s with harts } := ⟨_, State.foldl_setHart_frame s⟩

theorem State.endDebug_hart (s : State) {n : Nat} (h : n < 16) :
    (s.endDebug.hart n).halted = false ∧ (s.endDebug.hart n).haltWaits = false :=
  State.foldl_setHart_holds (P := fun x => x.halted = false ∧ x.haltWaits = false) (fun _ _ => ⟨rfl, rfl⟩) s
    (.inl (List.mem_range.2 h))

/-- The state after an advance to `target`: debugging has ended, the fuse is programmed, and PENDING is set. -/
def State.advanced (s : State) (target : Nat) : State :=
  { s.endDebug with fuses := { s.endDebug.fuses with lifecycle := target } }.raise Reg.BOOT_LCS Fld.BOOT_LCS_PENDING

/-- The code and a later state than the fuse make an advance (R408). -/
def State.mayAdvance (s : State) (w : Word) : Prop :=
  Fld.BOOT_LCS_CODE.get w = 0x4C43 ∧ s.fuses.lifecycle < Fld.BOOT_LCS_TARGET.get w ∧ Fld.BOOT_LCS_TARGET.get w ≤ 2

theorem State.writeLcs_of_mayAdvance {s : State} {w : Word} (h : s.mayAdvance w) :
    s.writeLcs w = s.advanced (Fld.BOOT_LCS_TARGET.get w) := by
  obtain ⟨code, later, known⟩ := h
  refine if_pos ?_
  rw [Bool.and_eq_true, Bool.and_eq_true, Nat.beq_eq, Nat.blt_eq, Nat.ble_eq]
  exact ⟨⟨code, later⟩, known⟩

theorem State.writeLcs_of_not_mayAdvance {s : State} {w : Word} (h : ¬ s.mayAdvance w) :
    s.writeLcs w = if Fld.BOOT_LCS_TARGET.get w = 3 then s.cfgErr Reg.BOOT_LCS else s := by
  refine (if_neg fun c => h ?_).trans ?_
  · rw [Bool.and_eq_true, Bool.and_eq_true, Nat.beq_eq, Nat.blt_eq, Nat.ble_eq] at c
    exact ⟨c.1.1, c.1.2, c.2⟩
  · simp only [Nat.beq_eq]

section
variable (s : State) (target : Nat)

theorem State.advanced_eq : ∃ harts regs, harts = s.endDebug.harts ∧ s.advanced target =
    { s with harts, fuses := { s.fuses with lifecycle := target }, regs } := by
  obtain ⟨harts, e⟩ := s.endDebug_eq
  unfold State.advanced
  rw [e]
  exact ⟨_, _, rfl, rfl⟩

theorem State.advanced_hart (n : Nat) : (s.advanced target).hart n = s.endDebug.hart n := by
  obtain ⟨harts, regs, hh, e⟩ := s.advanced_eq target
  rw [e]
  show harts[Fin.ofNat 16 n] = _
  rw [hh]
  rfl

theorem State.endDebug_fld (a : Nat) (f : Fld) : s.endDebug.fld a f = s.fld a f := by
  obtain ⟨harts, e⟩ := s.endDebug_eq
  rw [e]; rfl

theorem State.advanced_PENDING : (s.advanced target).fld Reg.BOOT_LCS Fld.BOOT_LCS_PENDING = 1 := by
  unfold State.advanced
  exact State.fld_setFld_same (by simp [Fld.ok, Fld.BOOT_LCS_PENDING])

theorem State.advanced_STATE :
    (s.advanced target).fld Reg.BOOT_LCS Fld.BOOT_LCS_STATE = s.fld Reg.BOOT_LCS Fld.BOOT_LCS_STATE := by
  rw [← s.endDebug_fld]
  unfold State.advanced
  generalize s.endDebug = u
  exact State.fld_setFld_apart (by simp [Fld.ok, Fld.BOOT_LCS_PENDING]) (by simp [Fld.ok, Fld.BOOT_LCS_STATE])
    (by simp [Fld.apart, Fld.BOOT_LCS_PENDING, Fld.BOOT_LCS_STATE])
end

/-- While the fuse is ahead of the state in force no debugger halts a hart (R407, R408). -/
theorem exec_debugHalt_of_ahead {s : State} (h : s.fuses.inForce < s.fuses.lifecycle) (n : Fin 16) :
    exec (.debugHalt n) s = .next s := by
  have off : s.debugOn = false := by
    have : Nat.beq s.fuses.lifecycle s.fuses.inForce = false := by
      rw [Bool.eq_false_iff, Ne, Nat.beq_eq]; omega
    simp [State.debugOn, this]
  show Host.Outcome.next _ = _
  simp [off]

/-! ## Registers that show fuses -/

/-- `t` differs from `s` in registers at most. -/
def RegsOnly (s t : State) : Prop := ∃ regs, t = { s with regs }

theorem RegsOnly.refl (s : State) : RegsOnly s s := ⟨_, rfl⟩

theorem RegsOnly.setFld {s t : State} (h : RegsOnly s t) {a : Nat} {f : Fld} {v : Nat} : RegsOnly s (t.setFld a f v) := by
  obtain ⟨regs, rfl⟩ := h
  exact ⟨_, rfl⟩

theorem RegsOnly.foldl_setFld {s : State} {a : Nat → Nat} {f : Fld} {v : Nat → Nat} {ns : List Nat} :
    ∀ {t : State}, RegsOnly s t → RegsOnly s (ns.foldl (fun u n => u.setFld (a n) f (v n)) t) := by
  induction ns with
  | nil => exact id
  | cons n ns ih => exact fun h => ih h.setFld

theorem State.foldl_setFld_reg {a : Nat → Nat} {f : Fld} {v : Nat → Nat} {b : Nat} {ns : List Nat} (h : ∀ n ∈ ns, b ≠ a n) :
    ∀ t : State, (ns.foldl (fun u n => u.setFld (a n) f (v n)) t).reg b = t.reg b := by
  induction ns with
  | nil => exact fun _ => rfl
  | cons n ns ih =>
    intro t
    rw [List.foldl_cons, ih fun m hm => h m (List.mem_cons_of_mem _ hm), State.reg_setFld_other (h n (List.mem_cons_self ..))]

theorem State.regsOnly_senseFuses (s : State) : RegsOnly s s.senseFuses :=
  (RegsOnly.refl s).setFld.setFld.setFld.setFld.setFld.setFld.setFld.foldl_setFld

/-- The registers that show fuses. -/
def showsFuses (a : Nat) : Prop :=
  a ∈ [Reg.BOOT_LCS, Reg.BOOT_FUSE, Reg.BOOT_KEYREV, Reg.THM_WEAR_H, Reg.THM_STATUS] ∨ ∃ c < 8, a = Reg.BOOT_ARB c

theorem State.reg_senseFuses {s : State} {a : Nat} (h : ¬ showsFuses a) : s.senseFuses.reg a = s.reg a := by
  simp only [showsFuses, List.mem_cons, List.not_mem_nil, or_false, not_or, not_exists, not_and] at h
  obtain ⟨⟨lcs, fuse, rev, wear, status⟩, arb⟩ := h
  unfold State.senseFuses
  extract_lets f s1 s2
  rw [State.foldl_setFld_reg (a := Reg.BOOT_ARB) fun c hc => arb c (List.mem_range.1 hc)]
  rw [State.reg_setFld_other status, State.reg_setFld_other wear, State.reg_setFld_other rev, State.reg_setFld_other fuse,
    State.reg_setFld_other fuse, State.reg_setFld_other lcs, State.reg_setFld_other lcs]

/-- What the loop over the anti-rollback counts and the other fuses leave in BOOT_LCS (R408). -/
theorem State.reg_senseFuses_LCS (s : State) : s.senseFuses.reg Reg.BOOT_LCS =
    Fld.BOOT_LCS_PENDING.put (Fld.BOOT_LCS_STATE.put (s.reg Reg.BOOT_LCS) s.fuses.inForce)
      (if Nat.beq s.fuses.lifecycle s.fuses.inForce then 0 else 1) := by
  have arb : ∀ c ∈ List.range 8, Reg.BOOT_LCS ≠ Reg.BOOT_ARB c := by decide
  unfold State.senseFuses
  extract_lets f s1 s2
  rw [State.foldl_setFld_reg (a := Reg.BOOT_ARB) arb]
  rw [State.reg_setFld_other (by decide), State.reg_setFld_other (by decide), State.reg_setFld_other (by decide),
    State.reg_setFld_other (by decide), State.reg_setFld_other (by decide), State.reg_setFld_same, State.reg_setFld_same]

theorem State.STATE_senseFuses {s : State} (h : s.fuses.inForce ≤ 2) :
    s.senseFuses.fld Reg.BOOT_LCS Fld.BOOT_LCS_STATE = s.fuses.inForce := by
  unfold State.fld
  rw [State.reg_senseFuses_LCS, Fld.get_put_apart _ _ (by simp [Fld.ok, Fld.BOOT_LCS_PENDING])
    (by simp [Fld.ok, Fld.BOOT_LCS_STATE]) (by simp [Fld.apart, Fld.BOOT_LCS_PENDING, Fld.BOOT_LCS_STATE]),
    Fld.get_put_same _ (by simp [Fld.ok, Fld.BOOT_LCS_STATE])]
  exact Nat.mod_eq_of_lt (by simp only [Fld.BOOT_LCS_STATE]; omega)

theorem State.PENDING_senseFuses {s : State} (h : s.fuses.lifecycle = s.fuses.inForce) :
    s.senseFuses.fld Reg.BOOT_LCS Fld.BOOT_LCS_PENDING = 0 := by
  unfold State.fld
  rw [State.reg_senseFuses_LCS, Fld.get_put_same _ (by simp [Fld.ok, Fld.BOOT_LCS_PENDING]), h]
  simp

/-- What the advance leaves, as its answer finds it (R408). -/
theorem advanced_outcome {s r : State} {target : Nat} (fuses : r.fuses = s.fuses)
    (state : r.fld Reg.BOOT_LCS Fld.BOOT_LCS_STATE = s.fld Reg.BOOT_LCS Fld.BOOT_LCS_STATE) (mem : r.mem = s.mem)
    (order : s.FusesInOrder) (later : s.fuses.lifecycle < target) :
    let t := (r.advanced target).answer .okay []
    t.fuses = { s.fuses with lifecycle := target } ∧ t.fld Reg.BOOT_LCS Fld.BOOT_LCS_PENDING = 1 ∧
      t.fld Reg.BOOT_LCS Fld.BOOT_LCS_STATE = s.fld Reg.BOOT_LCS Fld.BOOT_LCS_STATE ∧
      (∀ n < 16, (t.hart n).halted = false ∧ (t.hart n).haltWaits = false) ∧ t.mem = s.mem ∧
      ∀ n : Fin 16, exec (.debugHalt n) t = .next t := by
  have pending := r.advanced_PENDING target
  have kept := (r.advanced_STATE target).trans state
  have harts : ∀ n < 16, ((r.advanced target).hart n).halted = false ∧ ((r.advanced target).hart n).haltWaits = false :=
    fun n hn => by rw [r.advanced_hart target]; exact r.endDebug_hart hn
  obtain ⟨_, _, _, e⟩ := r.advanced_eq target
  have programmed : (r.advanced target).fuses = { s.fuses with lifecycle := target } := by rw [e, ← fuses]
  have unchanged : (r.advanced target).mem = s.mem := by rw [e, ← mem]
  generalize r.advanced target = u at pending kept harts programmed unchanged
  refine ⟨programmed, pending, kept, harts, unchanged, exec_debugHalt_of_ahead ?_⟩
  show u.fuses.inForce < u.fuses.lifecycle
  rw [programmed]
  exact Nat.lt_of_le_of_lt order.1 later

/-- POR_N brings the lifecycle fuse into force. -/
theorem State.powerOn_lifecycle (s : State) :
    s.powerOn.fuses.inForce = s.fuses.lifecycle ∧ s.powerOn.fuses.lifecycle = s.fuses.lifecycle := by
  unfold State.powerOn
  extract_lets counts wear _
  obtain ⟨regs, e⟩ := State.regsOnly_senseFuses _
  rw [e]
  exact ⟨rfl, rfl⟩

theorem State.powerOn_STATE {s : State} (h : s.fuses.lifecycle ≤ 2) :
    s.powerOn.fld Reg.BOOT_LCS Fld.BOOT_LCS_STATE = s.fuses.lifecycle := by
  unfold State.powerOn
  exact State.STATE_senseFuses h

theorem State.powerOn_PENDING (s : State) : s.powerOn.fld Reg.BOOT_LCS Fld.BOOT_LCS_PENDING = 0 := by
  unfold State.powerOn
  exact State.PENDING_senseFuses rfl

end Sys2Proof.Machine
end

section
open Sys2Proof Sys2Proof.Machine

/-- Settles O12: a granted write is writeLcs of the relabelled state, by whether it may advance; POR_N senses the fuses. -/
theorem lifecycleAdvances : Obligations.LifecycleAdvances := by
  refine ⟨fun s req w order hg => ?_, fun s order => ?_⟩
  · have he : exec (.lifecycleAdvance req w) s = .next (((s.relabel req).writeLcs w).answer .okay []) :=
      congrArg _ (State.busWrite_okay (eff := (·.writeLcs w)) (w := w) hg.2 hg.1)
    have fuses : (s.relabel req).fuses = s.fuses := by rw [s.relabel_frame req]
    have state := s.fld_relabel req Fld.BOOT_LCS_STATE (show Reg.BOOT_LCS ≠ Reg.SLU_STATUS by decide)
    have mem : (s.relabel req).mem = s.mem := by rw [s.relabel_frame req]
    generalize s.relabel req = r at he fuses state mem
    intro target
    split
    next h =>
      have may : r.mayAdvance w := by rw [State.mayAdvance, fuses]; exact h
      rw [State.writeLcs_of_mayAdvance may] at he
      exact ⟨_, he, advanced_outcome fuses state mem order h.2.1⟩
    next h =>
      have not : ¬ r.mayAdvance w := by rw [State.mayAdvance, fuses]; exact h
      rw [he, State.writeLcs_of_not_mayAdvance not]
  · obtain ⟨inForce, lifecycle⟩ := s.powerOn_lifecycle
    exact ⟨s.powerOn, rfl, inForce, lifecycle, State.powerOn_STATE order.2.1, s.powerOn_PENDING⟩

end

section
/-!
SUPPORT. A state that the canonical form excludes, in which a warm reset brings a hidden entry of PWR_RSTCAUSE to light.
-/

namespace Sys2Proof.Machine

/-- The register list names PWR_RSTCAUSE twice: reads find its first entry, at its reset value, and not the second, where SW_WARM
is set.  The canonical form excludes this. -/
def repeatedCause : State :=
  { State.reset with regs := [(Reg.PWR_RSTCAUSE, regReset Reg.PWR_RSTCAUSE), (Reg.PWR_RSTCAUSE, 0x4#32)] }

theorem repeatedCause_before : repeatedCause.fld Reg.PWR_RSTCAUSE Fld.PWR_RSTCAUSE_SW_WARM = 0 := by decide

/-- The reset drops the first entry, which has its reset value, so that reads find the second. -/
theorem repeatedCause_after :
    (repeatedCause.warm Fld.PWR_RSTCAUSE_PIN_WARM).fld Reg.PWR_RSTCAUSE Fld.PWR_RSTCAUSE_SW_WARM = 1 := by decide +kernel

end Sys2Proof.Machine
end

section
open Sys2Proof Sys2Proof.Machine

/-- Refutes O17: it speaks of every state, also of one whose register list names PWR_RSTCAUSE twice, as no state in canonical form
does; there WARM_RST_N sets the cause SW_WARM, which read 0, instead of keeping it. -/
theorem not_wholeDeviceResets : ¬ Obligations.WholeDeviceResets := by
  intro h
  obtain ⟨t, he, _, _, _, kept, _⟩ := h.2.1 repeatedCause
  obtain rfl : repeatedCause.warm Fld.PWR_RSTCAUSE_PIN_WARM = t := Host.Outcome.next.inj he
  have same := kept Fld.PWR_RSTCAUSE_SW_WARM (by simp) (by decide)
  rw [repeatedCause_before, repeatedCause_after] at same
  exact absurd same (by decide)

end

section
/-!
SUPPORT. Registers without an effect of their own: the dispatch of a write leads to the access types of their fields, and what
those leave in each field.
-/

namespace Sys2Proof.Machine

/-! ## Fields and bits -/

/-- A value of `n` bits with those of `x` cleared (W1C). -/
theorem bitAt_cleared {v x n k : Nat} (hv : v < 2 ^ n) (hx : x < 2 ^ n) :
    bitAt ((v &&& (2 ^ n - 1 - x)) % 2 ^ n) k = (bitAt v k && !bitAt x k) := by
  have low : v &&& (2 ^ n - 1 - x) < 2 ^ n := Nat.and_lt_two_pow _ (by omega)
  rw [Nat.mod_eq_of_lt low, show 2 ^ n - 1 - x = 2 ^ n - (x + 1) by omega]
  simp only [bitAt_eq_testBit, Nat.testBit_and, Nat.testBit_two_pow_sub_succ hx]
  by_cases hk : k < n
  · simp [hk]
  · simp [Nat.testBit_lt_two_pow (Nat.lt_of_lt_of_le hv (Nat.pow_le_pow_right (by decide) (Nat.le_of_not_lt hk)))]

/-- A value of `n` bits with those of `x` set (W1S). -/
theorem bitAt_set {v x n k : Nat} (hv : v < 2 ^ n) (hx : x < 2 ^ n) :
    bitAt ((v ||| x) % 2 ^ n) k = (bitAt v k || bitAt x k) := by
  rw [Nat.mod_eq_of_lt (Nat.or_lt_two_pow hv hx), bitAt_or]

/-- What a field holds after a write, cut to its width, by its access type (R11, R14). -/
theorem RegField.written_access (f : RegField) (old w : Word) (locked : Bool)
    (fits : f.reset < 2 ^ (f.fld.hi + 1 - f.fld.lo)) :
    let v := f.written old w locked % 2 ^ (f.fld.hi + 1 - f.fld.lo)
    (f.acc = .ro ∨ f.acc = .rc → v = f.fld.get old) ∧
      (f.acc = .rw → v = if f.vals = [] ∨ f.fld.get w ∈ f.vals then f.fld.get w else f.reset) ∧
      (f.acc = .rwl → v = if locked then f.fld.get old else f.fld.get w) ∧
      (f.acc = .w1c → ∀ k, bitAt v k = (bitAt (f.fld.get old) k && !bitAt (f.fld.get w) k)) ∧
      (f.acc = .w1s → ∀ k, bitAt v k = (bitAt (f.fld.get old) k || bitAt (f.fld.get w) k)) ∧
      (f.acc = .wo → v = 0) := by
  have hold := f.fld.get_lt old
  have hw := f.fld.get_lt w
  intro v
  refine ⟨fun h => ?_, fun h => ?_, fun h => ?_, fun h k => ?_, fun h k => ?_, fun h => ?_⟩
  · rcases h with h | h
    · simp only [v, RegField.written, h, Nat.mod_eq_of_lt hold]
    · simp only [v, RegField.written, h, Nat.mod_eq_of_lt hold]
  · simp only [v, RegField.written, h, List.isEmpty_iff, List.contains_iff_mem, Bool.or_eq_true]
    split
    · exact Nat.mod_eq_of_lt hw
    · exact Nat.mod_eq_of_lt fits
  · simp only [v, RegField.written, h]
    split
    · exact Nat.mod_eq_of_lt hold
    · exact Nat.mod_eq_of_lt hw
  · simp only [v, RegField.written, h]
    exact bitAt_cleared hold hw
  · simp only [v, RegField.written, h]
    exact bitAt_set hold hw
  · simp only [v, RegField.written, h, Nat.zero_mod]

/-! ## Plain registers -/

/-- A write of a plain register has no effect but that of its fields' access types. -/
theorem State.regWrite_plain (s : State) (req : Req) {a : Nat} (w : Word) (h : a ∈ plainRegs) :
    s.regWrite req a w = s.plainWrite a w := by
  simp only [plainRegs, List.mem_cons, List.not_mem_nil, or_false] at h
  rcases h with rfl | rfl | rfl | rfl | rfl | rfl | rfl | rfl | rfl | rfl | rfl | rfl | rfl | rfl | rfl | rfl | rfl | rfl |
    rfl | rfl | rfl | rfl | rfl | rfl | rfl | rfl
  · simp (disch := decide) only [State.regWrite, State.writeTcx, if_pos, if_neg]
    exact if_neg fun c => by cases c
  all_goals
    simp (disch := decide) only [State.regWrite, State.writeCacheSluice, State.writeTtb, State.writeSensor,
      State.writePicture, State.writeWorld, State.writeHth, State.writeTsw, State.writePower, if_pos, if_neg]

/-- The fields of a plain register share no bits, and their reset values fit; it lies in a slot. -/
theorem plainRegs_fields : ∀ a ∈ plainRegs, fieldsApart (regFields a) = true ∧
    (∀ f ∈ regFields a, f.reset < 2 ^ (f.fld.hi + 1 - f.fld.lo)) ∧ inSlot a = true ∧ a ≠ Reg.SLU_STATUS := by decide

/-- No plain register with an enumerated field shows configuration errors, and no lock bit lies in a register that does. -/
theorem plainRegs_cfgErr : ∀ a ∈ plainRegs, ∀ r ∈ cfgErrAt a, r.1 ≠ Reg.WGD_DBG ∧
    (r.1 = a → ∀ f ∈ regFields a, f.acc = .rw → f.vals = []) := by decide

/-- The plain registers that could be locked are those whose lock bit is their own. -/
theorem plainRegs_locks : ∀ a ∈ plainRegs, inRange a (Reg.WGD_OWN 0) (Reg.WGD_OWN 64) = false ∧ a ≠ Reg.WGD_IMSIC_OWN ∧
    a ≠ Reg.THM_SURGE := by decide

theorem State.locked_plain {s t : State} {a : Nat} (h : a ∈ plainRegs) (hd : t.reg Reg.WGD_DBG = s.reg Reg.WGD_DBG) :
    t.locked a = s.locked a := by
  obtain ⟨own, imsic, surge⟩ := plainRegs_locks a h
  simp only [State.locked, own, Nat.beq_eq, imsic, surge, if_false, Bool.false_eq_true, State.flag, State.fld, hd]

/-- A configuration error changes no register but the one that shows it. -/
theorem State.reg_cfgErr {s : State} {a b : Nat} (h : ∀ r, cfgErrAt a = some r → b ≠ r.1) : (s.cfgErr a).reg b = s.reg b := by
  unfold State.cfgErr
  split
  next r f hr => exact State.reg_setFld_other (h (r, f) hr)
  next => split <;> rfl

/-- A write of a reserved value to a plain register is shown in another one. -/
theorem cfgErrAt_ne {a : Nat} {w : Word} (h : a ∈ plainRegs) (hv : reservedValue (regFields a) w = true) :
    ∀ r, cfgErrAt a = some r → a ≠ r.1 := by
  rintro r hr rfl
  obtain ⟨f, hf, reserved⟩ := List.any_eq_true.1 hv
  simp only [Bool.and_eq_true, decide_eq_true_eq, Bool.not_eq_true', List.isEmpty_eq_false_iff] at reserved
  exact reserved.1.2 ((plainRegs_cfgErr _ h r hr).2 rfl f hf reserved.1.1)

/-- The state in which a write of the register at `a` takes effect: a reserved value has been recorded (R14). -/
def State.recorded (s : State) (a : Nat) (w : Word) : State := if reservedValue (regFields a) w then s.cfgErr a else s

theorem State.plainWrite_eq (s : State) (a : Nat) (w : Word) : s.plainWrite a w =
    (s.recorded a w).setReg a (writeFields (regFields a) ((s.recorded a w).reg a) w ((s.recorded a w).locked a)) := rfl

theorem State.reg_recorded {s : State} {a b : Nat} {w : Word}
    (h : ∀ r, cfgErrAt a = some r → reservedValue (regFields a) w = true → b ≠ r.1) : (s.recorded a w).reg b = s.reg b := by
  unfold State.recorded
  split
  next hv => exact State.reg_cfgErr fun r hr => h r hr hv
  next => rfl

/-- What a write leaves in a plain register. -/
theorem State.reg_plainWrite_plain (s : State) {a : Nat} (w : Word) (h : a ∈ plainRegs) :
    (s.plainWrite a w).reg a = writeFields (regFields a) (s.reg a) w (s.locked a) := by
  rw [State.plainWrite_eq, State.reg_setReg_same, State.reg_recorded fun r hr hv => cfgErrAt_ne h hv r hr,
    State.locked_plain h (State.reg_recorded fun r hr _ => ((plainRegs_cfgErr a h r hr).1).symm)]

/-- A bit that lies in no field reads 0 after a write (R10). -/
theorem bitAt_writeFields_reserved {fs : List RegField} (hfs : fieldsApart fs = true) (old w : Word) (lk : Bool) {k : Nat}
    (hk : k < 32) (h : ∀ f ∈ fs, k < f.fld.lo ∨ f.fld.hi < k) : bitAt (writeFields fs old w lk).toNat k = false := by
  have ok : ∀ f ∈ fs, f.fld.ok := fun f hf => by
    have all := List.all_eq_true.1 (Bool.and_eq_true_iff.1 hfs).1 f hf
    rw [Bool.and_eq_true, Nat.ble_eq, Nat.blt_eq] at all
    exact all
  have zero := writeFields_reserved (fs := fs) old w lk ⟨k, k⟩ ⟨Nat.le_refl k, hk⟩ fun f hf => ⟨ok f hf, (h f hf).symm⟩
  simp only [Fld.get, bitsOf, Nat.add_sub_cancel_left, Nat.pow_one] at zero
  simp [bitAt, zero]

/-- A plain write that is admitted changes registers, the records of configuration errors and the answer alone. -/
theorem State.onlyRegs_plainWrite (s : State) (req : Req) (a : Nat) (w : Word) :
    OnlyRegs s (((s.relabel req).plainWrite a w).answer .okay []) := by
  have frame := (s.relabel req).plainWrite_frame a w
  generalize (s.relabel req).plainWrite a w = t at frame
  rw [frame, s.relabel_frame req]
  rfl

end Sys2Proof.Machine
end

section
open Sys2Proof Sys2Proof.Machine

/-- Settles O6: REGISTER_WRITE is the write of the register through its bus, which is plainWrite of the relabelled state. -/
theorem plainRegistersFollowAccessTypes : Obligations.PlainRegistersFollowAccessTypes := by
  intro s req a w h hg
  obtain ⟨apart, fits, slot, ha⟩ := plainRegs_fields a h
  have he : exec (.registerWrite req (BitVec.ofNat 48 a) 4 w) s = .next (((s.relabel req).plainWrite a w).answer .okay []) := by
    refine (execRegisterWrite_inSlot slot).trans ?_
    rw [State.busWrite_okay hg.2 hg.1, State.regWrite_plain _ _ _ h]
  have value : ((s.relabel req).plainWrite a w).reg a = writeFields (regFields a) (s.reg a) w (s.locked a) := by
    rw [State.reg_plainWrite_plain _ w h, s.reg_relabel req ha, State.locked_plain h (s.reg_relabel req (by decide))]
  refine ⟨_, he, s.onlyRegs_plainWrite req a w, rfl, fun f hf => ?_, fun k hk hf => ?_, fun b hb hr => ?_⟩
  · have got : (((s.relabel req).plainWrite a w).answer .okay []).fld a f.fld =
        f.written (s.reg a) w (s.locked a) % 2 ^ (f.fld.hi + 1 - f.fld.lo) := by
      refine (congrArg f.fld.get value).trans (writeFields_get apart _ _ _ hf)
    rw [got]
    exact f.written_access (s.reg a) w (s.locked a) (fits f hf)
  · refine (congrArg (fun r : Word => bitAt r.toNat k) value).trans ?_
    exact bitAt_writeFields_reserved apart _ _ _ hk hf
  · refine (State.reg_setReg_other hb).trans (State.reg_recorded hr)

end

section
/-!
SUPPORT. The Dagiesk table (R46 to R51): the type, length and parent of its records, the length of the whole, and where the fields of
the header lie.
-/

namespace Sys2Proof.Machine

/-! ## Fields of a structure of bytes -/

@[simp] theorem padTo_length (n : Nat) (bs : List Byte) : (padTo n bs).length = max n bs.length := by
  simp only [padTo, List.length_append, List.length_replicate]
  omega

/-- What lies before a field is passed over. -/
theorem fieldAt_append {as bs : List Byte} {o n : Nat} (h : as.length ≤ o) :
    fieldAt (as ++ bs) o n = fieldAt bs (o - as.length) n := by
  rw [fieldAt, List.drop_append, List.drop_of_length_le h, List.nil_append, fieldAt]

theorem fieldAt_leBytes (n v : Nat) (bs : List Byte) : fieldAt (leBytes n v ++ bs) 0 n = v % 256 ^ n := by
  rw [fieldAt, List.drop_zero, List.take_left' (leBytes_length n v), leNat_leBytes]

/-! ## Orders and places -/

theorem shuffleFrom_length_le (seed : Nat → Nat) (n : Nat) : ∀ xs, (shuffleFrom seed n xs).length ≤ n := by
  induction n with
  | zero => simp [shuffleFrom]
  | succ n ih =>
    intro xs
    cases xs with
    | nil => simp [shuffleFrom]
    | cons x xs =>
      simp only [shuffleFrom, List.length_cons]
      exact Nat.succ_le_succ (ih _)

theorem idxOf_shuffle_le (seed : Nat → Nat) (n x : Nat) : (shuffle seed n).idxOf x ≤ n :=
  List.idxOf_le_length.trans (shuffleFrom_length_le seed n _)

/-- The place of a unit's record is at most the number of UNIT records. -/
theorem unitPlace_le (n : Nat) : unitPlace n ≤ memory0 := idxOf_shuffle_le _ _ _

theorem srcIndex_le (u : UnitId) : srcIndex u ≤ memory0 := unitPlace_le _

theorem nodePlace_lt (j : Nat) : nodePlace j < recordCount :=
  Nat.lt_of_le_of_lt (Nat.add_le_add_left (idxOf_shuffle_le _ _ j) path0) (by decide)

theorem unit_lt {n : Nat} (h : n ≤ memory0) : unit0 + n < recordCount :=
  Nat.lt_of_le_of_lt (Nat.add_le_add_left h unit0) (by decide)

theorem power_lt (p : Fin 41) : power0 + p.val < recordCount :=
  (Nat.add_lt_add_left p.isLt power0).trans (by decide)

/-! ## The records -/

/-- A record of type `type` with `len` bytes after its first 16, whose parent, if it has one, is a place of the table. -/
structure DgkRecord.Shaped (r : DgkRecord) (type len : Nat) : Prop where
  type_eq : r.type = type
  body_len : r.body.length = len
  parent_lt : ∀ p, r.parent = some p → p < recordCount

theorem unitRec_shaped (k : Fin 182) : (unitRec k).Shaped 1 48 where
  type_eq := rfl
  body_len := by simp [unitRec, leBytes_length]
  parent_lt p h := Option.some.inj h ▸ nodePlace_lt _

theorem memoryRec_shaped (cap : Nat) (k : Fin 85) : (memoryRec cap k).Shaped 2 32 where
  type_eq := rfl
  body_len := by simp [memoryRec, leBytes_length]
  parent_lt p h := by
    rw [← Option.some.inj h]
    refine unit_lt ?_
    cases (memoryFacts cap ((shuffle Config.memorySeed 85).getD k 0)).server with
    | none => exact unitPlace_le _
    | some u => exact srcIndex_le u

theorem clockRec_shaped (k : Fin 248) : (clockRec k).Shaped 3 16 where
  type_eq := rfl
  body_len := by simp [clockRec, leBytes_length]
  parent_lt p h := Option.some.inj h ▸ power_lt _

theorem powerRec_shaped (d : Fin 41) : (powerRec d).Shaped 4 16 where
  type_eq := rfl
  body_len := by simp [powerRec, leBytes_length]
  parent_lt p h := by
    obtain ⟨q, -, rfl⟩ := Option.map_eq_some_iff.1 h
    exact power_lt q

theorem irqRec_shaped (k : Fin 412) : (irqRec k).Shaped 5 16 where
  type_eq := rfl
  body_len := by simp [irqRec, leBytes_length]
  parent_lt p h := by
    rw [← Option.some.inj h]
    refine unit_lt ?_
    cases irqUnits[irqOrder.idxOf k.val]? with
    | none => exact unitPlace_le _
    | some u => exact srcIndex_le u

theorem worldRec_shaped (k : Fin 58) : (worldRec k).Shaped 6 16 where
  type_eq := rfl
  body_len := by simp [worldRec, leBytes_length]
  parent_lt p h := Option.some.inj h ▸ unit_lt (srcIndex_le _)

theorem pathRec_shaped (k : Fin 360) : (pathRec k).Shaped 7 16 := by
  unfold pathRec
  extract_lets j node
  have shaped {path level children parent} (h : ∀ p, parent = some p → p < recordCount) :
      (node path level children parent).Shaped 7 16 := ⟨rfl, by simp [node, leBytes_length], h⟩
  split
  next => exact shaped fun p h => nomatch h
  next =>
    split
    next => exact shaped fun p h => Option.some.inj h ▸ nodePlace_lt 0
    next =>
      split
      next => exact shaped fun p h => Option.some.inj h ▸ nodePlace_lt 1
      next => exact shaped fun p h => Option.some.inj h ▸ unit_lt (unitPlace_le _)

theorem paramRec_shaped (cap ranks : Nat) (k : Fin 24) : (paramRec cap ranks k).Shaped 8 16 where
  type_eq := rfl
  body_len := by simp [paramRec, leBytes_length]
  parent_lt p h := nomatch h

theorem stringsRec_shaped : stringsRec.Shaped 9 stringsBody.length := ⟨rfl, rfl, fun _ h => nomatch h⟩

theorem endRec_shaped : endRec.Shaped 0xFFFF 0 := ⟨rfl, rfl, fun _ h => nomatch h⟩

/-! ## The STRINGS record -/

theorem unitName_length_le {u : UnitId} {bs : List Byte} (h : unitName u = some bs) : bs.length ≤ 5 := by
  have named {p : String} {n : Nat} (hp : p.length ≤ 3) (hn : n < 10 ^ 2) :
      ((p ++ toString n).toList.map fun c => BitVec.ofNat 8 c.toNat).length ≤ 5 := by
    have := Nat.repr_length n 2 (by decide) hn
    rw [List.length_map, String.toList_append, List.length_append, String.length_toList, String.length_toList]
    exact Nat.add_le_add hp this
  unfold unitName at h
  split at h
  case h_8 => exact nomatch h
  all_goals exact Option.some.inj h ▸ named (by decide) ((Fin.isLt _).trans (by decide))

theorem allUnits_length : allUnits.length = 164 := by simp [allUnits]

theorem partName_length : partName.length = 9 := by
  unfold partName
  rw [List.length_map, String.length_toList]
  decide

/-- The printed names leave room for others (R50). -/
theorem printedNames_length_le : printedNames.length ≤ 9023 := by
  have part : (asString partName).length = 10 := by rw [asString, List.length_append, partName_length]; rfl
  have name : ∀ bs ∈ allUnits.filterMap unitName, (asString bs).length ≤ 6 := fun bs h => by
    obtain ⟨u, -, hu⟩ := List.mem_filterMap.1 h
    rw [asString, List.length_append]
    exact Nat.succ_le_succ (unitName_length_le hu)
  have names := List.sum_le_card_nsmul ((allUnits.filterMap unitName).map fun bs => (asString bs).length) 6
    (List.forall_mem_map.2 name)
  have units : (allUnits.filterMap unitName).length ≤ 164 := allUnits_length ▸ List.length_filterMap_le unitName allUnits
  rw [List.length_map, smul_eq_mul] at names
  rw [printedNames, List.length_append, List.length_flatMap, part]
  omega

/-- The STRINGS record is filled to a multiple of 8 and short enough for the table's limit (R48, R50). -/
theorem stringsBody_length : stringsBody.length % 8 = 0 ∧ stringsBody.length ≤ 9024 := by
  have room := printedNames_length_le
  have bound : (printedNames ++ Config.strings.take (9023 - printedNames.length) ++ [0#8]).length ≤ 9024 := by
    simp only [List.length_append, List.length_take, List.length_cons, List.length_nil]
    omega
  unfold stringsBody
  extract_lets bs
  rw [padTo_length]
  change bs.length ≤ 9024 at bound
  omega

/-! ## Groups of records of one shape -/

section
variable {n type len : Nat} {f : Fin n → DgkRecord} (h : ∀ k, (f k).Shaped type len)
include h

theorem map_type_of_shaped : ((List.finRange n).map f).map (·.type) = List.replicate n type := by
  have each : (·.type) ∘ f = fun _ => type := funext fun k => (h k).type_eq
  rw [List.map_map, each, List.map_const', List.length_finRange]

theorem sum_lengths_of_shaped : (((List.finRange n).map f).map fun r => 16 + r.body.length).sum = n * (16 + len) := by
  have each : (fun r : DgkRecord => 16 + r.body.length) ∘ f = fun _ => 16 + len := funext fun k => congrArg (16 + ·) (h k).body_len
  rw [List.map_map, each, List.map_const', List.length_finRange, List.sum_replicate, smul_eq_mul]

/-- What holds of every record of the shape holds of the group's. -/
theorem mem_of_shaped {P : DgkRecord → Prop} (hP : ∀ r : DgkRecord, r.Shaped type len → P r) :
    ∀ r ∈ (List.finRange n).map f, P r :=
  List.forall_mem_map.2 fun k _ => hP _ (h k)

end

/-! ## The list of records -/

theorem dgkRecords_length (cap ranks : Nat) : (dgkRecords cap ranks).length = recordCount := by
  simp [dgkRecords, recordCount]

theorem dgkRecords_getLast? (cap ranks : Nat) : (dgkRecords cap ranks).getLast? = some endRec := by
  rw [dgkRecords, List.getLast?_append_of_ne_nil _ (List.cons_ne_nil _ _)]
  rfl

theorem dgkRecords_types (cap ranks : Nat) : (dgkRecords cap ranks).map (·.type) =
    List.replicate 182 1 ++ List.replicate 85 2 ++ List.replicate 248 3 ++ List.replicate 41 4 ++ List.replicate 412 5 ++
      List.replicate 58 6 ++ List.replicate 360 7 ++ List.replicate 24 8 ++ [9, 0xFFFF] := by
  simp only [dgkRecords, List.map_append, map_type_of_shaped unitRec_shaped, map_type_of_shaped (memoryRec_shaped cap),
    map_type_of_shaped clockRec_shaped, map_type_of_shaped powerRec_shaped, map_type_of_shaped irqRec_shaped,
    map_type_of_shaped worldRec_shaped, map_type_of_shaped pathRec_shaped, map_type_of_shaped (paramRec_shaped cap ranks)]
  rfl

/-- Copies of a number that is not above the first go before an ascending list. -/
theorem ascending_replicate {n a c : Nat} {l : List Nat} (h : (c :: l).Pairwise (· ≤ ·)) (hac : a ≤ c := by decide) :
    (a :: (List.replicate n a ++ l)).Pairwise (· ≤ ·) := by
  obtain ⟨least, rest⟩ := List.pairwise_cons.1 h
  rw [← List.cons_append, ← List.replicate_succ, List.pairwise_append]
  refine ⟨List.pairwise_replicate.2 (.inr (Nat.le_refl a)), rest, fun x hx y hy => ?_⟩
  exact (List.eq_of_mem_replicate hx).le.trans (hac.trans (least y hy))

/-- The records ascend by type (R49). -/
theorem dgkRecords_ascend (cap ranks : Nat) : ((dgkRecords cap ranks).map (·.type)).Pairwise (· ≤ ·) := by
  have last : ([9, 9, 0xFFFF] : List Nat).Pairwise (· ≤ ·) := by decide
  have all := ascending_replicate (n := 182) (a := 1) <| ascending_replicate (n := 85) (a := 2) <|
    ascending_replicate (n := 248) (a := 3) <| ascending_replicate (n := 41) (a := 4) <|
    ascending_replicate (n := 412) (a := 5) <| ascending_replicate (n := 58) (a := 6) <|
    ascending_replicate (n := 360) (a := 7) <| ascending_replicate (n := 24) (a := 8) last
  rw [dgkRecords_types]
  simp only [List.append_assoc]
  exact (List.pairwise_cons.1 all).2

theorem DgkRecord.bytes_length (r : DgkRecord) (n : Nat) : (r.bytes n).length = 16 + r.body.length := by
  simp only [DgkRecord.bytes, List.length_append, leBytes_length]

theorem recordBytes_length (rs : List DgkRecord) : ∀ n, (recordBytes n rs).length = (rs.map fun r => 16 + r.body.length).sum := by
  induction rs with
  | nil => exact fun _ => rfl
  | cons r rs ih => intro n; rw [recordBytes, List.length_append, r.bytes_length, ih, List.map_cons, List.sum_cons]

/-- The records but STRINGS have fixed lengths: 182 × 64, 85 × 48 and 1,143 × 32 bytes, and the first 16 of STRINGS and END (R50). -/
theorem recordBytes_dgkRecords_length (cap ranks : Nat) :
    (recordBytes 0 (dgkRecords cap ranks)).length = 52336 + stringsBody.length := by
  rw [recordBytes_length]
  simp only [dgkRecords, List.map_append, List.sum_append, sum_lengths_of_shaped unitRec_shaped,
    sum_lengths_of_shaped (memoryRec_shaped cap), sum_lengths_of_shaped clockRec_shaped, sum_lengths_of_shaped powerRec_shaped,
    sum_lengths_of_shaped irqRec_shaped, sum_lengths_of_shaped worldRec_shaped, sum_lengths_of_shaped pathRec_shaped,
    sum_lengths_of_shaped (paramRec_shaped cap ranks), List.map_cons, List.map_nil, List.sum_cons, List.sum_nil,
    stringsRec_shaped.body_len, endRec_shaped.body_len]
  omega

/-- Every record has a length that is a multiple of 8, and a parent in the table if it has one (R48). -/
theorem dgkRecords_sound (cap ranks : Nat) : ∀ r ∈ dgkRecords cap ranks, r.body.length % 8 = 0 ∧
    ∀ p, r.parent = some p → p < recordCount := by
  have sound {type len : Nat} (hl : len % 8 = 0) (r : DgkRecord) (h : r.Shaped type len) :
      r.body.length % 8 = 0 ∧ ∀ p, r.parent = some p → p < recordCount := ⟨h.body_len ▸ hl, h.parent_lt⟩
  simp only [dgkRecords, List.forall_mem_append, List.forall_mem_cons]
  exact ⟨⟨⟨⟨⟨⟨⟨⟨mem_of_shaped unitRec_shaped (sound rfl), mem_of_shaped (memoryRec_shaped cap) (sound rfl)⟩,
    mem_of_shaped clockRec_shaped (sound rfl)⟩, mem_of_shaped powerRec_shaped (sound rfl)⟩,
    mem_of_shaped irqRec_shaped (sound rfl)⟩, mem_of_shaped worldRec_shaped (sound rfl)⟩,
    mem_of_shaped pathRec_shaped (sound rfl)⟩, mem_of_shaped (paramRec_shaped cap ranks) (sound rfl)⟩,
    sound stringsBody_length.1 _ stringsRec_shaped, sound rfl _ endRec_shaped, fun r h => nomatch h⟩

/-! ## The header and the table -/

theorem dgkHeader_length (total crc : Nat) : (dgkHeader total crc).length = 64 := by
  simp [dgkHeader, leBytes_length]

theorem dgkTable_length (cap ranks : Nat) : (dgkTable cap ranks).length = 52400 + stringsBody.length := by
  rw [dgkTable, dgkWith, List.length_append, dgkHeader_length, recordBytes_dgkRecords_length]
  omega

/-- The table as its signature and the header's fields one after another, up to the count of records (R47). -/
theorem dgkTable_split (cap ranks : Nat) : ∃ rest, dgkTable cap ranks = [0x44#8, 0x47#8, 0x53#8, 0x4B#8] ++ (leBytes 1 1 ++
    (leBytes 1 0 ++ (leBytes 2 64 ++ (leBytes 4 (52400 + stringsBody.length) ++ (leBytes 4 recordCount ++ rest))))) := by
  have total : 64 + (recordBytes 0 (dgkRecords cap ranks)).length = 52400 + stringsBody.length := by
    rw [recordBytes_dgkRecords_length]
    omega
  rw [dgkTable, dgkWith, total, dgkHeader, padTo]
  exact ⟨_, by simp only [List.append_assoc]; rfl⟩

/-- What the header says: the signature, version 1, a header of 64 bytes, the length of the table and the number of its records. -/
theorem dgkTable_header (cap ranks : Nat) : let t := dgkTable cap ranks
    t.take 4 = [0x44#8, 0x47#8, 0x53#8, 0x4B#8] ∧ fieldAt t 4 1 = 1 ∧ fieldAt t 6 2 = 64 ∧ fieldAt t 8 4 = t.length ∧
      fieldAt t 12 4 = (dgkRecords cap ranks).length := by
  obtain ⟨rest, ht⟩ := dgkTable_split cap ranks
  intro t
  have small : (52400 + stringsBody.length) % 256 ^ 4 = 52400 + stringsBody.length :=
    Nat.mod_eq_of_lt (by have := stringsBody_length.2; omega)
  have len : t.length = 52400 + stringsBody.length := dgkTable_length cap ranks
  have signature : ([0x44#8, 0x47#8, 0x53#8, 0x4B#8] : List Byte).length = 4 := rfl
  rw [len, dgkRecords_length, show t = _ from ht]
  refine ⟨rfl, ?_, ?_, ?_, ?_⟩ <;>
    simp only [fieldAt_append, signature, leBytes_length, fieldAt_leBytes, Nat.reduceLeDiff, Nat.reduceSub, Nat.sub_self, small]
  all_goals rfl

end Sys2Proof.Machine
end

section
/-!
SUPPORT. The boot ROM before the images of classes 1 to 5 (R465 to R468): what marking a failed class, the registers of DDR training and
the end of step 4 leave.
-/

namespace Sys2Proof.Machine

variable {s : State}

/-! ## Fields of a word, by their bits -/

theorem Fld.get_put_clear {f g : Fld}
    (h : f.lo ≤ f.hi ∧ f.hi < 32 ∧ g.lo ≤ g.hi ∧ g.hi < 32 ∧ (f.hi < g.lo ∨ g.hi < f.lo)) (w : Word) (v : Nat) :
    g.get (f.put w v) = g.get w := by
  obtain ⟨fOrder, fWord, gOrder, gWord, apart⟩ := h
  exact Fld.get_put_apart f g ⟨fOrder, fWord⟩ ⟨gOrder, gWord⟩ apart w v

theorem Fld.get_put_whole {f : Fld} (h : f.lo ≤ f.hi ∧ f.hi < 32) (w : Word) (v : Nat) :
    f.get (f.put w v) = v % 2 ^ (f.hi + 1 - f.lo) :=
  Fld.get_put_same f h w v

/-! ## Stage and failures (R465, R467) -/

theorem Fld.ok_STAGE : Fld.BOOT_STATUS_STAGE.ok := by simp [Fld.ok, Fld.BOOT_STATUS_STAGE]

theorem Fld.ok_FAILMASK : Fld.BOOT_STATUS_FAILMASK.ok := by simp [Fld.ok, Fld.BOOT_STATUS_FAILMASK]

theorem Fld.ok_FAIL : Fld.BOOT_STATUS_FAIL.ok := by simp [Fld.ok, Fld.BOOT_STATUS_FAIL]

/-- Unless the ROM runs step 3 only, a new stage is shown in BOOT_STATUS. -/
theorem State.stage_eq (h : s.rom.heathOnly = false) (n : Nat) :
    s.stage n = s.setFld Reg.BOOT_STATUS Fld.BOOT_STATUS_STAGE n := by
  simp [State.stage, h]

/-- STAGE shows the stage. -/
theorem State.STAGE_setFld {n : Nat} (h : n < 16) :
    (s.setFld Reg.BOOT_STATUS Fld.BOOT_STATUS_STAGE n).fld Reg.BOOT_STATUS Fld.BOOT_STATUS_STAGE = n :=
  (State.fld_setFld_same Fld.ok_STAGE).trans (Nat.mod_eq_of_lt h)

/-- A new stage leaves FAILMASK as it is. -/
theorem State.FAILMASK_setFld_STAGE (n : Nat) :
    (s.setFld Reg.BOOT_STATUS Fld.BOOT_STATUS_STAGE n).fld Reg.BOOT_STATUS Fld.BOOT_STATUS_FAILMASK =
      s.fld Reg.BOOT_STATUS Fld.BOOT_STATUS_FAILMASK :=
  State.fld_setFld_apart Fld.ok_STAGE Fld.ok_FAILMASK (by simp [Fld.apart, Fld.BOOT_STATUS_STAGE, Fld.BOOT_STATUS_FAILMASK])

/-- From `s` to `t` registers have changed, and what the ROM keeps of the classes that it has loaded; nothing else. -/
def FailsOnly (s t : State) : Prop := ∃ regs digests entries, t = { s with regs, rom := { s.rom with digests, entries } }

theorem FailsOnly.refl (s : State) : FailsOnly s s := ⟨s.regs, s.rom.digests, s.rom.entries, rfl⟩

theorem FailsOnly.trans {s t u : State} (h1 : FailsOnly s t) (h2 : FailsOnly t u) : FailsOnly s u := by
  obtain ⟨_, _, _, rfl⟩ := h1
  obtain ⟨regs, digests, entries, rfl⟩ := h2
  exact ⟨regs, digests, entries, rfl⟩

theorem RegsOnly.failsOnly {u : State} (h : RegsOnly s u) {digests : Vector (Option (List Byte)) 6}
    {entries : Vector (Option (BitVec 64)) 6} : FailsOnly s { u with rom := { u.rom with digests, entries } } := by
  obtain ⟨regs, rfl⟩ := h
  exact ⟨regs, digests, entries, rfl⟩

theorem State.failsOnly_markFailed (s : State) (c code : Nat) : FailsOnly s (s.markFailed c code) := by
  unfold State.markFailed
  extract_lets a mask lower s1 s2
  have only : RegsOnly s s2 := by
    unfold s2
    split
    next => exact (RegsOnly.refl s).setFld
    next => exact (RegsOnly.refl s).setFld.setFld
  exact only.failsOnly

theorem State.reg_markFailed {c code b : Nat} (h : b ≠ Reg.BOOT_STATUS) : (s.markFailed c code).reg b = s.reg b := by
  unfold State.markFailed
  extract_lets a mask lower s1 s2
  have first : s1.reg b = s.reg b := State.reg_setFld_other h
  change s2.reg b = s.reg b
  unfold s2
  split
  next => exact first
  next => exact (State.reg_setFld_other h).trans first

/-- FAIL aside, BOOT_STATUS is as FAILMASK leaves it where it takes the class. -/
theorem State.fld_markFailed {g : Fld} (hg : g.ok) (apart : Fld.BOOT_STATUS_FAIL.apart g) (c code : Nat) :
    (s.markFailed c code).fld Reg.BOOT_STATUS g = (s.setFld Reg.BOOT_STATUS Fld.BOOT_STATUS_FAILMASK
      (s.fld Reg.BOOT_STATUS Fld.BOOT_STATUS_FAILMASK ||| 2 ^ c)).fld Reg.BOOT_STATUS g := by
  unfold State.markFailed
  extract_lets a mask lower s1 s2
  change s2.fld a g = s1.fld a g
  unfold s2
  split
  next => rfl
  next => exact State.fld_setFld_apart Fld.ok_FAIL hg apart

theorem State.STAGE_markFailed (c code : Nat) : (s.markFailed c code).fld Reg.BOOT_STATUS Fld.BOOT_STATUS_STAGE =
    s.fld Reg.BOOT_STATUS Fld.BOOT_STATUS_STAGE :=
  (State.fld_markFailed Fld.ok_STAGE (by simp [Fld.apart, Fld.BOOT_STATUS_FAIL, Fld.BOOT_STATUS_STAGE]) c code).trans
    (State.fld_setFld_apart Fld.ok_FAILMASK Fld.ok_STAGE (by simp [Fld.apart, Fld.BOOT_STATUS_FAILMASK, Fld.BOOT_STATUS_STAGE]))

theorem State.FAILMASK_lt (s : State) : s.fld Reg.BOOT_STATUS Fld.BOOT_STATUS_FAILMASK < 2 ^ 6 := Fld.get_lt _ _

/-- FAILMASK takes the class. -/
theorem State.FAILMASK_markFailed {c : Nat} (h : c < 6) (code : Nat) :
    (s.markFailed c code).fld Reg.BOOT_STATUS Fld.BOOT_STATUS_FAILMASK =
      s.fld Reg.BOOT_STATUS Fld.BOOT_STATUS_FAILMASK ||| 2 ^ c := by
  rw [State.fld_markFailed Fld.ok_FAILMASK (by simp [Fld.apart, Fld.BOOT_STATUS_FAIL, Fld.BOOT_STATUS_FAILMASK]),
    State.fld_setFld_same Fld.ok_FAILMASK]
  exact Nat.mod_eq_of_lt (Nat.or_lt_two_pow s.FAILMASK_lt (Nat.pow_lt_pow_right Nat.one_lt_two h))

/-- The classes `cs` fail, one after another. -/
def State.markAll (s : State) (code : Nat) (cs : List Nat) : State := cs.foldl (fun s c => s.markFailed c code) s

theorem State.failsOnly_markAll {code : Nat} {cs : List Nat} : ∀ s : State, FailsOnly s (s.markAll code cs) := by
  induction cs with
  | nil => exact FailsOnly.refl
  | cons c cs ih => exact fun s => (s.failsOnly_markFailed c code).trans (ih _)

/-- FAILMASK takes each of the classes. -/
theorem State.FAILMASK_markAll {code : Nat} {cs : List Nat} : ∀ {s : State}, (∀ c ∈ cs, c < 6) →
    (s.markAll code cs).fld Reg.BOOT_STATUS Fld.BOOT_STATUS_FAILMASK =
      cs.foldl (fun m c => m ||| 2 ^ c) (s.fld Reg.BOOT_STATUS Fld.BOOT_STATUS_FAILMASK) := by
  induction cs with
  | nil => exact fun _ => rfl
  | cons c cs ih =>
    intro s h
    rw [List.foldl_cons, ← State.FAILMASK_markFailed (h c (List.mem_cons_self ..)) code]
    exact ih fun d hd => h d (List.mem_cons_of_mem _ hd)

/-! ## The directory (R465, R468) -/

/-- Where a read of the directory from `s` has failed: the copy is tried, or after it every class fails and Heath halts. -/
def DirMissed (s t : State) : Prop :=
  if s.rom.dirTry = 0 then t.rom = { s.rom with dirTry := 1 } ∧ t.fld Reg.BOOT_STATUS Fld.BOOT_STATUS_STAGE = 1
  else t.rom.running = false ∧ t.heath.halted = true ∧ t.fld Reg.BOOT_STATUS Fld.BOOT_STATUS_STAGE = 3 ∧
    t.fld Reg.BOOT_STATUS Fld.BOOT_STATUS_FAILMASK = 0x3F

/-- The directory, or its copy, that the ROM reads. -/
def State.dirBytes (s : State) : List Byte := s.flashBytes (s.rom.dirTry * 0x10000) 256

/-- The ROM goes on to its copy of the directory. -/
def State.tryCopy (s : State) : State := { s with rom := { s.rom with dirTry := 1 } }

/-- The ROM takes the directory and goes on to class 0. -/
def State.takeDir (s : State) : State := { s with rom := { s.rom with dir := some s.dirBytes, cls := 0, second := false } }

theorem dirOk_iff (dir : List Byte) : dirOk dir = true ↔ crc32 (dir.take 252) = fieldAt dir 252 4 :=
  iff_of_eq Nat.beq_eq

/-- A cold boot that has no directory yet reads it. -/
theorem State.romRead_noDir (running : s.rom.running = true) (cold : s.rom.warm = false) (unread : s.rom.dir = none)
    (answered : Bool) : s.romRead answered = s.dirRead answered := by
  simp [State.romRead, State.awaitsDdr, running, cold, unread]

theorem State.fld_haltHeath (s : State) (a : Nat) (f : Fld) : s.haltHeath.fld a f = s.fld a f := (rfl)

section
variable (full : s.rom.heathOnly = false) {answered : Bool}
include full

theorem State.dirRead_ok (ok : (answered && dirOk s.dirBytes) = true) :
    s.dirRead answered = s.takeDir.setFld Reg.BOOT_STATUS Fld.BOOT_STATUS_STAGE 2 :=
  (if_pos ok).trans (State.stage_eq (s := s.takeDir) full 2)

theorem State.dirRead_copy (bad : (answered && dirOk s.dirBytes) ≠ true) (first : s.rom.dirTry = 0) :
    s.dirRead answered = s.tryCopy.setFld Reg.BOOT_STATUS Fld.BOOT_STATUS_STAGE 1 :=
  (if_neg bad).trans ((if_pos (by rw [first]; rfl)).trans (State.stage_eq (s := s.tryCopy) full 1))

theorem State.dirRead_failed (bad : (answered && dirOk s.dirBytes) ≠ true) (copy : s.rom.dirTry ≠ 0) :
    s.dirRead answered = ((s.markAll 1 (List.range 6)).setFld Reg.BOOT_STATUS Fld.BOOT_STATUS_STAGE 3).haltHeath := by
  have same : (s.markAll 1 (List.range 6)).rom.heathOnly = false := by
    obtain ⟨_, _, _, h⟩ := s.failsOnly_markAll (code := 1) (cs := List.range 6)
    rw [h]
    exact full
  rw [← State.stage_eq same]
  exact (if_neg bad).trans (if_neg fun h => copy (Nat.eq_of_beq_eq_true h))

/-- A read with a wrong CRC or without an answer. -/
theorem State.dirRead_missed (bad : (answered && dirOk s.dirBytes) ≠ true) :
    (s.dirRead answered).mem = s.mem ∧ (s.dirRead answered).fuses = s.fuses ∧ DirMissed s (s.dirRead answered) := by
  unfold DirMissed
  by_cases first : s.rom.dirTry = 0
  · rw [if_pos first, State.dirRead_copy full bad first]
    exact ⟨rfl, rfl, rfl, State.STAGE_setFld (by decide)⟩
  · rw [if_neg first, State.dirRead_failed full bad first]
    obtain ⟨_, _, _, frame⟩ := s.failsOnly_markAll (code := 1) (cs := List.range 6)
    have mem : (s.markAll 1 (List.range 6)).mem = s.mem := by rw [frame]
    have fuses : (s.markAll 1 (List.range 6)).fuses = s.fuses := by rw [frame]
    have mask := State.FAILMASK_markAll (s := s) (code := 1) (cs := List.range 6) fun c hc => List.mem_range.1 hc
    have every : ∀ m < 2 ^ 6, (List.range 6).foldl (fun m c => m ||| 2 ^ c) m = 0x3F := by decide
    refine ⟨mem, fuses, rfl, rfl, ?_, ?_⟩
    · rw [State.fld_haltHeath, State.STAGE_setFld (by decide)]
    · rw [State.fld_haltHeath, State.FAILMASK_setFld_STAGE, mask, every _ s.FAILMASK_lt]

end

/-! ## DDR training (R309, R465) -/

/-- The registers of controller k hold what training found. -/
structure Recorded (s : State) (t : DdrTraining) (k : Nat) : Prop where
  rate : s.fld (Reg.DMC_CFG k) Fld.DMC_CFG_RATE = t.rate
  dens : s.fld (Reg.DMC_CFG k) Fld.DMC_CFG_DENS = t.dens
  width : s.fld (Reg.DMC_CFG k) Fld.DMC_CFG_WIDTH = t.x8.toNat
  ranks : s.fld (Reg.DMC_CFG k) Fld.DMC_CFG_RANKS = t.ranks
  ready : s.fld (Reg.DMC_STATUS k) Fld.DMC_STATUS_READY = 1

/-- A state with these two registers as before has recorded as much. -/
theorem Recorded.of_reg {u : State} {t : DdrTraining} {k : Nat} (h : Recorded s t k)
    (cfg : u.reg (Reg.DMC_CFG k) = s.reg (Reg.DMC_CFG k)) (status : u.reg (Reg.DMC_STATUS k) = s.reg (Reg.DMC_STATUS k)) :
    Recorded u t k where
  rate := (congrArg Fld.DMC_CFG_RATE.get cfg).trans h.rate
  dens := (congrArg Fld.DMC_CFG_DENS.get cfg).trans h.dens
  width := (congrArg Fld.DMC_CFG_WIDTH.get cfg).trans h.width
  ranks := (congrArg Fld.DMC_CFG_RANKS.get cfg).trans h.ranks
  ready := (congrArg Fld.DMC_STATUS_READY.get status).trans h.ready

theorem DMC_CFG_ne_DMC_STATUS (j k : Nat) : Reg.DMC_CFG j ≠ Reg.DMC_STATUS k := by
  unfold Reg.DMC_CFG Reg.DMC_STATUS
  omega

theorem State.reg_recordController {t : DdrTraining} {k b : Nat} (cfg : b ≠ Reg.DMC_CFG k) (status : b ≠ Reg.DMC_STATUS k) :
    (s.recordController t k).reg b = s.reg b := by
  unfold State.recordController State.raise
  rw [State.reg_setFld_other status, State.reg_setFld_other cfg, State.reg_setFld_other cfg, State.reg_setFld_other cfg,
    State.reg_setFld_other cfg]

section
variable {t : DdrTraining} (rate : t.rate < 4) (dens : t.dens < 4) (ranks : t.ranks < 4)
include rate dens ranks

theorem State.recorded_recordController (s : State) (k : Nat) : Recorded (s.recordController t k) t k := by
  have cfg : (s.recordController t k).reg (Reg.DMC_CFG k) = Fld.DMC_CFG_RANKS.put (Fld.DMC_CFG_WIDTH.put (Fld.DMC_CFG_DENS.put
      (Fld.DMC_CFG_RATE.put (s.reg (Reg.DMC_CFG k)) t.rate) t.dens) t.x8.toNat) t.ranks := by
    unfold State.recordController State.raise
    simp only [State.reg_setFld_other (DMC_CFG_ne_DMC_STATUS k k), State.reg_setFld_same]
  have width : t.x8.toNat < 2 := Bool.toNat_lt _
  have ready : Fld.DMC_STATUS_READY.ok := by simp [Fld.ok, Fld.DMC_STATUS_READY]
  refine ⟨?_, ?_, ?_, ?_, State.fld_setFld_same ready⟩
  all_goals
    rw [State.fld, cfg]
    simp (disch := decide) only [Fld.get_put_clear, Fld.get_put_whole]
    exact Nat.mod_eq_of_lt (by assumption)

/-- What is recorded of a controller stays when that of a controller is recorded. -/
theorem Recorded.recordController {k : Nat} (h : Recorded s t k) (j : Nat) : Recorded (s.recordController t j) t k := by
  by_cases hj : k = j
  · rw [hj]
    exact s.recorded_recordController rate dens ranks j
  · refine h.of_reg (State.reg_recordController ?_ (DMC_CFG_ne_DMC_STATUS k j))
      (State.reg_recordController (DMC_CFG_ne_DMC_STATUS j k).symm ?_)
    · unfold Reg.DMC_CFG
      omega
    · unfold Reg.DMC_STATUS
      omega

theorem recorded_foldl {ks : List Nat} {k : Nat} : ∀ {s : State}, k ∈ ks ∨ Recorded s t k →
    Recorded (ks.foldl (fun s k => s.recordController t k) s) t k := by
  induction ks with
  | nil => exact fun h => h.resolve_left List.not_mem_nil
  | cons j ks ih =>
    intro s h
    refine ih ?_
    rcases h with h | h
    · rcases List.mem_cons.1 h with rfl | h
      · exact .inr (s.recorded_recordController rate dens ranks k)
      · exact .inl h
    · exact .inr (h.recordController rate dens ranks j)

theorem State.recorded_recordTraining {k : Nat} (h : k < t.count) : Recorded (s.recordTraining t) t k :=
  recorded_foldl rate dens ranks (.inl (List.mem_range.2 h))

end

theorem RegsOnly.recordController {u : State} (h : RegsOnly s u) (t : DdrTraining) (k : Nat) :
    RegsOnly s (u.recordController t k) := by
  unfold State.recordController State.raise
  exact h.setFld.setFld.setFld.setFld.setFld

theorem RegsOnly.recordControllers {t : DdrTraining} {ks : List Nat} : ∀ {u : State}, RegsOnly s u →
    RegsOnly s (ks.foldl (fun s k => s.recordController t k) u) := by
  induction ks with
  | nil => exact id
  | cons k ks ih => exact fun h => ih (h.recordController t k)

/-- Training is recorded in registers and kept for later boots. -/
theorem State.recordTraining_regsOnly (t : DdrTraining) :
    RegsOnly { s with rom := { s.rom with training := some t } } (s.recordTraining t) :=
  (RegsOnly.refl _).recordControllers

/-! ## The end of step 4 (R43, R465) -/

/-- The ROM goes on to class c, which no image is read for yet. -/
def State.atClass (s : State) (c : Nat) : State := { s with rom := { s.rom with cls := c, second := false } }

theorem State.reg_atClass (s : State) (c b : Nat) : (s.atClass c).reg b = s.reg b := (rfl)

theorem State.fld_atClass (s : State) (c b : Nat) (f : Fld) : (s.atClass c).fld b f = s.fld b f := (rfl)

theorem State.toClass_eq {c : Nat} (h : c < 6) : s.toClass c = s.atClass c :=
  if_neg fun le => absurd (Nat.le_of_ble_eq_true le) (Nat.not_le.2 h)

/-- The Dagiesk table stands, BOOT_DGK_STATUS says so, and STAGE is 5. -/
def State.tableReady (s : State) : State :=
  (({ s with dgkBuilt := true }.raise Reg.BOOT_DGK_STATUS Fld.BOOT_DGK_STATUS_READY).setFld Reg.BOOT_DGK_STATUS
    Fld.BOOT_DGK_STATUS_CRC_OK 1).setFld Reg.BOOT_STATUS Fld.BOOT_STATUS_STAGE 5

theorem State.reg_tableReady {b : Nat} (status : b ≠ Reg.BOOT_STATUS) (dgk : b ≠ Reg.BOOT_DGK_STATUS) :
    s.tableReady.reg b = s.reg b := by
  unfold State.tableReady State.raise
  rw [State.reg_setFld_other status, State.reg_setFld_other dgk, State.reg_setFld_other dgk]
  rfl

theorem State.buildTable_eq (full : s.rom.heathOnly = false) :
    s.buildTable = if s.rom.ddrFailed then (s.tableReady.markFailed 1 8).atClass 2 else s.tableReady.atClass 1 := by
  unfold State.buildTable
  rw [dgkCheck_dgkTable]
  extract_lets s1 s2
  have ready : s2 = s.tableReady := State.stage_eq (s := s1) full 5
  rw [ready, State.toClass_eq (by decide), State.toClass_eq (by decide)]
  rfl

/-- Step 4 waits for training in a cold boot that is no run of step 3 only. -/
theorem State.heathOnly_of_awaitsDdr (h : s.awaitsDdr = true) : s.rom.heathOnly = false := by
  simp only [State.awaitsDdr, Bool.and_eq_true, Bool.not_eq_true'] at h
  tauto

/-- The table as `tableReady` leaves it: built, shown in BOOT_DGK_STATUS and in STAGE, with memory and the outcome of training as in
`s`. -/
structure TableStands (s t : State) : Prop where
  built : t.dgkBuilt = true
  ready : t.fld Reg.BOOT_DGK_STATUS Fld.BOOT_DGK_STATUS_READY = 1
  crcOk : t.fld Reg.BOOT_DGK_STATUS Fld.BOOT_DGK_STATUS_CRC_OK = 1
  stage : t.fld Reg.BOOT_STATUS Fld.BOOT_STATUS_STAGE = 5
  trained : t.rom.trained = s.rom.trained
  failed : t.rom.ddrFailed = s.rom.ddrFailed
  mem : t.mem = s.mem

theorem State.tableReady_stands (s : State) : TableStands s s.tableReady := by
  have elsewhere : Reg.BOOT_DGK_STATUS ≠ Reg.BOOT_STATUS := by decide
  have ready : Fld.BOOT_DGK_STATUS_READY.ok := by simp [Fld.ok, Fld.BOOT_DGK_STATUS_READY]
  have crc : Fld.BOOT_DGK_STATUS_CRC_OK.ok := by simp [Fld.ok, Fld.BOOT_DGK_STATUS_CRC_OK]
  have apart : Fld.BOOT_DGK_STATUS_CRC_OK.apart Fld.BOOT_DGK_STATUS_READY := by
    simp [Fld.apart, Fld.BOOT_DGK_STATUS_CRC_OK, Fld.BOOT_DGK_STATUS_READY]
  refine ⟨rfl, ?_, ?_, State.STAGE_setFld (by decide), rfl, rfl, rfl⟩
  · exact (State.fld_setFld_other elsewhere).trans ((State.fld_setFld_apart crc ready apart).trans (State.fld_setFld_same ready))
  · exact (State.fld_setFld_other elsewhere).trans (State.fld_setFld_same crc)

theorem TableStands.markFailed {t : State} (h : TableStands s t) (c code : Nat) : TableStands s (t.markFailed c code) := by
  have elsewhere : (t.markFailed c code).reg Reg.BOOT_DGK_STATUS = t.reg Reg.BOOT_DGK_STATUS := State.reg_markFailed (by decide)
  obtain ⟨_, _, _, frame⟩ := t.failsOnly_markFailed c code
  exact {
    built := frame ▸ h.built
    ready := (congrArg Fld.BOOT_DGK_STATUS_READY.get elsewhere).trans h.ready
    crcOk := (congrArg Fld.BOOT_DGK_STATUS_CRC_OK.get elsewhere).trans h.crcOk
    stage := (State.STAGE_markFailed c code).trans h.stage
    trained := frame ▸ h.trained
    failed := frame ▸ h.failed
    mem := frame ▸ h.mem }

theorem TableStands.atClass {t : State} (h : TableStands s t) (c : Nat) : TableStands s (t.atClass c) :=
  ⟨h.built, h.ready, h.crcOk, h.stage, h.trained, h.failed, h.mem⟩

theorem State.buildTable_stands (full : s.rom.heathOnly = false) : TableStands s s.buildTable := by
  rw [State.buildTable_eq full]
  split
  next => exact (s.tableReady_stands.markFailed 1 8).atClass 2
  next => exact s.tableReady_stands.atClass 1

/-! ## The end of training -/

/-- What training found is recorded if it succeeded, and the ROM knows of its outcome. -/
def State.trainingEnds (s : State) (ok : Bool) (t : DdrTraining) : State :=
  let s1 := if ok then s.recordTraining t else s
  { s1 with rom := { s1.rom with trained := ok, ddrFailed := !ok } }

theorem State.trainingEnds_frame (s : State) (ok : Bool) (t : DdrTraining) : (s.trainingEnds ok t).mem = s.mem ∧
    (s.trainingEnds ok t).rom.heathOnly = s.rom.heathOnly := by
  cases ok with
  | false => exact ⟨rfl, rfl⟩
  | true =>
    obtain ⟨regs, frame⟩ := State.recordTraining_regsOnly (s := s) t
    have mem : (s.recordTraining t).mem = s.mem := by rw [frame]
    have full : (s.recordTraining t).rom.heathOnly = s.rom.heathOnly := by rw [frame]
    exact ⟨mem, full⟩

theorem State.reg_trainingEnds_true (t : DdrTraining) (b : Nat) : (s.trainingEnds true t).reg b = (s.recordTraining t).reg b := by
  rw [State.trainingEnds, if_pos rfl]
  rfl

/-- The end of training that the ROM waits for: STAGE is 4, then the table is built. -/
def State.afterTraining (s : State) (ok : Bool) (t : DdrTraining) : State :=
  ((s.trainingEnds ok t).setFld Reg.BOOT_STATUS Fld.BOOT_STATUS_STAGE 4).buildTable

section
variable {ok : Bool} (waits : s.awaitsDdr = true)
include waits

theorem State.heathOnly_trainingEnds (t : DdrTraining) : (s.trainingEnds ok t).rom.heathOnly = false :=
  (s.trainingEnds_frame ok t).2.trans (State.heathOnly_of_awaitsDdr waits)

theorem exec_ddrTrainingDone {n : Fin 9} {rate dens ranks : Fin 3} {x8 : Bool}
    (allowed : ok = true → populationOk n dens ranks x8 = true) : exec (.ddrTrainingDone ok n rate dens x8 ranks) s =
      .next (s.afterTraining ok { count := n, rate, dens, x8, ranks }) := by
  have taken : ¬ (!s.awaitsDdr || (ok && !(populationOk n dens ranks x8))) = true := by
    cases ok with
    | false => simp [waits]
    | true => simp [waits, allowed rfl]
  refine congrArg Host.Outcome.next ((if_neg taken).trans ?_)
  exact congrArg State.buildTable (State.stage_eq (State.heathOnly_trainingEnds waits _) 4)

theorem State.afterTraining_stands (t : DdrTraining) : TableStands (s.trainingEnds ok t) (s.afterTraining ok t) := by
  have stands := State.buildTable_stands (s := (s.trainingEnds ok t).setFld Reg.BOOT_STATUS Fld.BOOT_STATUS_STAGE 4)
    (State.heathOnly_trainingEnds waits t)
  exact ⟨stands.built, stands.ready, stands.crcOk, stands.stage, stands.trained, stands.failed, stands.mem⟩

/-- With memory, the ROM goes to class 1, and every controller trained has what was found. -/
theorem State.afterTraining_ok {t : DdrTraining} (rate : t.rate < 4) (dens : t.dens < 4) (ranks : t.ranks < 4) :
    (s.afterTraining true t).rom.cls = 1 ∧ ∀ k < t.count.val, Recorded (s.afterTraining true t) t k := by
  have built : s.afterTraining true t =
      ((s.trainingEnds true t).setFld Reg.BOOT_STATUS Fld.BOOT_STATUS_STAGE 4).tableReady.atClass 1 :=
    State.buildTable_eq (State.heathOnly_trainingEnds waits t)
  rw [built]
  refine ⟨rfl, fun k hk => ?_⟩
  have small := hk.trans_le (Nat.le_of_lt_succ t.count.isLt)
  have reg (b : Nat) (status : b ≠ Reg.BOOT_STATUS) (dgk : b ≠ Reg.BOOT_DGK_STATUS) :
      (((s.trainingEnds true t).setFld Reg.BOOT_STATUS Fld.BOOT_STATUS_STAGE 4).tableReady.atClass 1).reg b =
        (s.recordTraining t).reg b :=
    calc
      _ = ((s.trainingEnds true t).setFld Reg.BOOT_STATUS Fld.BOOT_STATUS_STAGE 4).tableReady.reg b := State.reg_atClass _ 1 b
      _ = ((s.trainingEnds true t).setFld Reg.BOOT_STATUS Fld.BOOT_STATUS_STAGE 4).reg b := State.reg_tableReady status dgk
      _ = (s.trainingEnds true t).reg b := State.reg_setFld_other status
      _ = (s.recordTraining t).reg b := State.reg_trainingEnds_true t b
  refine (State.recorded_recordTraining rate dens ranks hk).of_reg (reg _ ?_ ?_) (reg _ ?_ ?_)
  all_goals
    simp only [Reg.DMC_CFG, Reg.DMC_STATUS, Reg.BOOT_STATUS, Reg.BOOT_DGK_STATUS]
    omega

/-- Without memory, class 1 has failed, and the ROM goes to class 2. -/
theorem State.afterTraining_failed (t : DdrTraining) : (s.afterTraining false t).rom.cls = 2 ∧
    bitAt ((s.afterTraining false t).fld Reg.BOOT_STATUS Fld.BOOT_STATUS_FAILMASK) 1 = true := by
  have built : s.afterTraining false t =
      (((s.trainingEnds false t).setFld Reg.BOOT_STATUS Fld.BOOT_STATUS_STAGE 4).tableReady.markFailed 1 8).atClass 2 :=
    State.buildTable_eq (State.heathOnly_trainingEnds waits t)
  rw [built]
  refine ⟨rfl, ?_⟩
  rw [State.fld_atClass, State.FAILMASK_markFailed (by decide), bitAt_or]
  exact Bool.or_true _

end

/-! ## The parts of BootRomSteps -/

/-- The read of the directory in a cold boot (R465, R468). -/
theorem bootFlashRead_outcomes (s : State) (running : s.rom.running = true) (cold : s.rom.warm = false)
    (full : s.rom.heathOnly = false) (unread : s.rom.dir = none) :
    (∃ t, exec .bootFlashReadDone s = .next t ∧ t.mem = s.mem ∧ t.fuses = s.fuses ∧
      if crc32 (s.dirBytes.take 252) = fieldAt s.dirBytes 252 4 then
        t.rom = { s.rom with dir := some s.dirBytes, cls := 0, second := false } ∧ t.fld Reg.BOOT_STATUS Fld.BOOT_STATUS_STAGE = 2
      else DirMissed s t) ∧
    ∃ t, exec .bootFlashTimeout s = .next t ∧ t.mem = s.mem ∧ t.fuses = s.fuses ∧ DirMissed s t := by
  have read (answered : Bool) := State.romRead_noDir running cold unread answered
  refine ⟨⟨_, congrArg Host.Outcome.next (read true), ?_⟩, ⟨_, congrArg Host.Outcome.next (read false), ?_⟩⟩
  · by_cases ok : dirOk s.dirBytes = true
    · rw [if_pos ((dirOk_iff _).1 ok), State.dirRead_ok full (by rw [ok]; rfl)]
      exact ⟨rfl, rfl, rfl, State.STAGE_setFld (by decide)⟩
    · rw [if_neg (mt (dirOk_iff _).2 ok)]
      exact State.dirRead_missed full (by rwa [Bool.true_and])
  · exact State.dirRead_missed full Bool.false_ne_true

/-- The end of DDR training (R309, R43, R465). -/
theorem ddrTraining_outcomes (s : State) (ok : Bool) (n : Fin 9) (rate dens : Fin 3) (x8 : Bool) (ranks : Fin 3)
    (waits : s.awaitsDdr = true) (allowed : ok = true → populationOk n dens ranks x8 = true) :
    ∃ t, exec (.ddrTrainingDone ok n rate dens x8 ranks) s = .next t ∧ t.dgkBuilt = true ∧
      t.fld Reg.BOOT_DGK_STATUS Fld.BOOT_DGK_STATUS_READY = 1 ∧ t.fld Reg.BOOT_DGK_STATUS Fld.BOOT_DGK_STATUS_CRC_OK = 1 ∧
      t.fld Reg.BOOT_STATUS Fld.BOOT_STATUS_STAGE = 5 ∧ t.rom.trained = ok ∧ t.mem = s.mem ∧
      if ok then
        t.rom.cls = 1 ∧ ∀ k < n.val, t.fld (Reg.DMC_CFG k) Fld.DMC_CFG_RATE = rate ∧ t.fld (Reg.DMC_CFG k) Fld.DMC_CFG_DENS = dens ∧
          t.fld (Reg.DMC_CFG k) Fld.DMC_CFG_WIDTH = x8.toNat ∧ t.fld (Reg.DMC_CFG k) Fld.DMC_CFG_RANKS = ranks ∧
          t.fld (Reg.DMC_STATUS k) Fld.DMC_STATUS_READY = 1
      else t.rom.cls = 2 ∧ bitAt (t.fld Reg.BOOT_STATUS Fld.BOOT_STATUS_FAILMASK) 1 = true ∧ t.rom.ddrFailed = true := by
  have stands := State.afterTraining_stands (ok := ok) waits { count := n, rate, dens, x8, ranks }
  refine ⟨_, exec_ddrTrainingDone waits allowed, stands.built, stands.ready, stands.crcOk, stands.stage, stands.trained,
    stands.mem.trans (s.trainingEnds_frame ok _).1, ?_⟩
  cases ok with
  | true =>
    obtain ⟨cls, recorded⟩ := State.afterTraining_ok waits (t := { count := n, rate, dens, x8, ranks })
      (rate.isLt.trans (by decide)) (dens.isLt.trans (by decide)) (ranks.isLt.trans (by decide))
    exact ⟨cls, fun k hk => ⟨(recorded k hk).rate, (recorded k hk).dens, (recorded k hk).width, (recorded k hk).ranks,
      (recorded k hk).ready⟩⟩
  | false =>
    obtain ⟨cls, mask⟩ := State.afterTraining_failed waits { count := n, rate, dens, x8, ranks }
    exact ⟨cls, mask, stands.failed⟩

/-- The table that the ROM builds (R46 to R49). -/
theorem dgkTable_formed (cap ranks : Nat) : let t := dgkTable cap ranks
    t.take 4 = [0x44#8, 0x47#8, 0x53#8, 0x4B#8] ∧ fieldAt t 4 1 = 1 ∧ fieldAt t 6 2 = 64 ∧ fieldAt t 8 4 = t.length ∧
      fieldAt t 12 4 = (dgkRecords cap ranks).length ∧ t.length % 8 = 0 ∧ t.length < 60 * 1024 ∧
      fieldAt t 16 4 = crc32 (t.take 16 ++ List.replicate 4 0#8 ++ t.drop 20) ∧
      (∀ r ∈ dgkRecords cap ranks, r.body.length % 8 = 0 ∧ ∀ p, r.parent = some p → p < (dgkRecords cap ranks).length) ∧
      ((dgkRecords cap ranks).map (·.type)).Pairwise (· ≤ ·) ∧
      (dgkRecords cap ranks).getLast? = some { type := 0xFFFF, parent := none, body := [] } := by
  obtain ⟨signature, version, header, total, count⟩ := dgkTable_header cap ranks
  obtain ⟨aligned, bound⟩ := stringsBody_length
  have len := dgkTable_length cap ranks
  have sound := dgkRecords_sound cap ranks
  rw [← dgkRecords_length cap ranks] at sound
  exact ⟨signature, version, header, total, count, by omega, by omega, Nat.eq_of_beq_eq_true (dgkCheck_dgkTable cap ranks), sound,
    dgkRecords_ascend cap ranks, dgkRecords_getLast? cap ranks⟩

end Sys2Proof.Machine
end

section
open Sys2Proof Sys2Proof.Machine

/-- Settles O15: the ROM's reads of the directory, the end of training, the table it builds, and the order of record IDs. -/
theorem bootRomSteps : Obligations.BootRomSteps :=
  ⟨fun s running cold full unread _ => bootFlashRead_outcomes s running cold full unread,
    fun s ok n rate dens x8 ranks => ddrTraining_outcomes s ok n rate dens x8 ranks,
    dgkTable_formed,
    fun _ => Nat.lt_of_lt_of_le (Nat.lt_succ_self _) (Nat.le_add_right _ _)⟩

end

section
/-!
SUPPORT. Tile commands of a quiet engine: the row's effect is that of its command, a fault shows in TEN_STATUS, and what the bounds
of R100 say of each range.
-/

namespace Sys2Proof.Machine

/-! ## Rows -/

/-- A row that is a tile command gives it to its engine; `tileOf` names no command for the other rows. -/
theorem exec_tileOf {i : Instr} {te : Fin 64} {h : TileHdr} {up : List ArrayUpset} {o : TileOp} (s : State)
    (hi : i.tileOf = some (te, h, up, o)) : exec i s = .next (s.issue te h up o) := by
  cases i <;> cases hi <;> rfl

/-- A command that may run and whose effect or units meet a cause stops the engine, with the command's TAG where the cause names
none of its own. -/
theorem State.issue_faults {s s1 : State} {te : Nat} {h : TileHdr} {up : List ArrayUpset} {o : TileOp} {x : Stop} {more : List Stop}
    (hm : s.MayRun te h o) (hr : ((s.runTile te h up o).bind fun _ t => t.unitsGo te) = .fault x more s1) :
    s.issue te h up o = (s1.engineFault te { x with tag := some (x.tag.getD h.tag.toNat) } more).settle := by
  obtain ⟨⟨running, waits, quiet, _⟩, valid, rows⟩ := hm
  unfold State.issue
  rw [running, State.proceed_quiet quiet waits]
  dsimp only
  rw [running]
  unfold State.startTile
  dsimp only
  rw [State.blocked_quiet quiet waits, valid, hr]
  cases hx : o.rows h.arym with
  | none => rfl
  | some r =>
    have fits : Nat.blt (s.accRows te) r.2 = false := by
      have := rows r hx
      rw [Bool.eq_false_iff, Ne, Nat.blt_eq]
      omega
    simp only [fits, Bool.false_eq_true, if_false]
    rfl

/-- A row whose command may run has the command's effect, and then the units go on; a KVL is followed by more. -/
theorem exec_tileOf_starts {i : Instr} {s s1 s2 : State} {te : Fin 64} {h : TileHdr} {up : List ArrayUpset} {o : TileOp}
    (hi : i.tileOf = some (te, h, up, o)) (hm : s.MayRun te h o) (hr : s.runTile te h up o = .ok () s1)
    (hg : s1.unitsGo te = .ok () s2) (hk : ∀ append a, o ≠ .kvl append a) : exec i s = .next s2 := by
  rw [exec_tileOf s hi, State.issue_starts hm hr hg]
  cases o with
  | kvl append a => exact absurd rfl (hk append a)
  | _ => rfl

/-- The same, where the effect leaves nothing for the units. -/
theorem exec_tileOf_runs {i : Instr} {s s1 : State} {te : Fin 64} {h : TileHdr} {up : List ArrayUpset} {o : TileOp}
    (hi : i.tileOf = some (te, h, up, o)) (hm : s.MayRun te h o) (hr : s.runTile te h up o = .ok () s1)
    (hq : (s1.eng te).quiet = true) (hk : ∀ append a, o ≠ .kvl append a) : exec i s = .next s1 :=
  exec_tileOf_starts hi hm hr (State.unitsGo_quiet hq) hk

/-- What a fault shows: STATE 3, the cause and the TAG (R120). -/
theorem State.engineFault_shows (s : State) {te : Nat} (ht : te < 64) {x : Stop} (more : List Stop) (cause : x.cause < 16)
    (tag : x.tag.getD 0 < 256) :
    (s.engineFault te x more).tenState te = 3 ∧ (s.engineFault te x more).fld (Reg.TEN_STATUS te) Fld.TEN_STATUS_CAUSE = x.cause ∧
      (s.engineFault te x more).fld (Reg.TEN_STATUS te) Fld.TEN_STATUS_FAULT_TAG = x.tag.getD 0 := by
  have state : Fld.TEN_STATUS_STATE.ok := ⟨by decide, by decide⟩
  have causes : Fld.TEN_STATUS_CAUSE.ok := ⟨by decide, by decide⟩
  have tags : Fld.TEN_STATUS_FAULT_TAG.ok := ⟨by decide, by decide⟩
  unfold State.tenState State.fld
  rw [State.engineFault_status s ht]
  refine ⟨Fld.get_put_same _ state _ _, ?_, ?_⟩
  · rw [Fld.get_put_apart _ _ state causes (.inl (by decide)), Fld.get_put_apart _ _ tags causes (.inr (by decide)),
      Fld.get_put_same _ causes]
    exact Nat.mod_eq_of_lt cause
  · rw [Fld.get_put_apart _ _ state tags (.inl (by decide)), Fld.get_put_same _ tags]
    exact Nat.mod_eq_of_lt tag

/-- A row whose command may run and meets a cause: the engine is stopped, with the cause and the command's TAG. -/
theorem exec_tileOf_stops {i : Instr} {s s1 : State} {te : Fin 64} {h : TileHdr} {up : List ArrayUpset} {o : TileOp} {x : Stop}
    {more : List Stop} (hi : i.tileOf = some (te, h, up, o)) (hm : s.MayRun te h o)
    (hr : ((s.runTile te h up o).bind fun _ t => t.unitsGo te) = .fault x more s1) (cause : x.cause < 16)
    (tag : x.tag.getD h.tag.toNat = h.tag.toNat) :
    ∃ u : State, exec i s = .next u.settle ∧ u.tenState te = 3 ∧ u.fld (Reg.TEN_STATUS te) Fld.TEN_STATUS_CAUSE = x.cause ∧
      u.fld (Reg.TEN_STATUS te) Fld.TEN_STATUS_FAULT_TAG = h.tag.toNat := by
  obtain ⟨state, causes, tags⟩ := s1.engineFault_shows te.isLt (x := { x with tag := some (x.tag.getD h.tag.toNat) }) more cause
    (by show x.tag.getD h.tag.toNat < 256; rw [tag]; exact h.tag.isLt)
  exact ⟨_, (exec_tileOf s hi).trans (congrArg _ (State.issue_faults hm hr)), state, causes, tags.trans tag⟩

/-- The same, of a cause whose record names the engine. -/
theorem exec_tileOf_faultAs {i : Instr} {s s1 : State} {te : Fin 64} {h : TileHdr} {up : List ArrayUpset} {o : TileOp} {cause sub : Nat}
    (hi : i.tileOf = some (te, h, up, o)) (hm : s.MayRun te h o)
    (hr : ((s.runTile te h up o).bind fun _ t => t.unitsGo te) = faultAs te cause sub s1) (hc : cause < 16) :
    ∃ u : State, exec i s = .next u.settle ∧ u.tenState te = 3 ∧ u.fld (Reg.TEN_STATUS te) Fld.TEN_STATUS_CAUSE = cause ∧
      u.fld (Reg.TEN_STATUS te) Fld.TEN_STATUS_FAULT_TAG = h.tag.toNat := exec_tileOf_stops hi hm hr hc rfl

/-! ## What R100 says of the ranges of a command -/

theorem TileOp.valid_iff {o : TileOp} {h : TileHdr} : o.valid h = true ↔
    o.fieldsOk = true ∧ (o.usesArrays != Nat.beq h.arym.toNat 0) = true ∧ ∀ x ∈ o.areas h.arym, x.hi ≤ engineBytes := by
  simp [TileOp.valid, and_assoc]

/-- Bytes that a range names lie in engine memory; those of an empty one do, wherever it starts. -/
theorem rangeOf_fits {g : BitVec 17} {n : Nat} {w : Bool} (h : ∀ x ∈ rangeOf g.toNat n w, x.hi ≤ engineBytes) :
    g.toNat * 16 + n ≤ engineBytes := by
  by_cases h0 : n = 0
  · subst h0
    have := g.isLt
    unfold engineBytes
    omega
  · refine h { lo := g.toNat * 16, hi := g.toNat * 16 + n, write := w } ?_
    rw [rangeOf, if_neg (by simpa using h0)]
    exact List.mem_singleton.2 rfl

/-! ## Engine memory and its results -/

@[simp] theorem State.reg_setEng (s : State) (n : Nat) (x : Engine) (b : Nat) : (s.setEng n x).reg b = s.reg b := by
  rw [State.reg, State.setEng_regs, State.reg]

@[simp] theorem State.fld_setEng (s : State) (n : Nat) (x : Engine) (b : Nat) (f : Fld) : (s.setEng n x).fld b f = s.fld b f :=
  congrArg f.get (State.reg_setEng ..)

@[simp] theorem State.reg_store (s : State) (pa : Nat) (bs : List Byte) (b : Nat) : (s.store pa bs).reg b = s.reg b := by
  rw [State.reg, State.store_regs, State.reg]

@[simp] theorem State.eng_store (s : State) (pa : Nat) (bs : List Byte) (n : Nat) : (s.store pa bs).eng n = s.eng n := by
  rw [State.eng, State.store_engines, State.eng]

@[simp] theorem State.eng_setFld (s : State) (a : Nat) (f : Fld) (v n : Nat) : (s.setFld a f v).eng n = s.eng n := by
  rw [State.eng, State.setFld_engines, State.eng]

@[simp] theorem State.eng_addFx (s : State) (te fx n : Nat) : (s.addFx te fx).eng n = s.eng n := State.eng_setFld ..

/-- Whether an engine is in order is shown by the registers of the power domains, by isolation and by stored wrong bits. -/
theorem State.EngineClean.of_domains {s t : State} {te : Nat} (hr : ∀ d, t.reg (Reg.PWR_DOM d) = s.reg (Reg.PWR_DOM d))
    (he : t.erm = s.erm) (hd : t.sramDamage = s.sramDamage) (h : s.EngineClean te) : t.EngineClean te := by
  obtain ⟨on, free, whole⟩ := h
  refine ⟨?_, ?_, hd.trans whole⟩
  · unfold State.domainOn State.domainState State.fld at on ⊢
    rwa [hr]
  · unfold State.isIsolated at free ⊢
    rwa [he]

/-- `u` differs from `s` in bytes and in the exception flags of engine `te` alone. -/
structure OnlyResults (te : Nat) (s u : State) : Prop where
  rest : u = { s with regs := u.regs, mem := u.mem }
  reg : ∀ b, b ≠ Reg.TEN_FX te → u.reg b = s.reg b

namespace OnlyResults

variable {te : Nat} {s u : State}

protected theorem refl (te : Nat) (s : State) : OnlyResults te s s := ⟨rfl, fun _ _ => rfl⟩

theorem store (h : OnlyResults te s u) (a : Nat) (bs : List Byte) : OnlyResults te s (u.store a bs) :=
  ⟨congrArg (fun t : State => { t with mem := (u.store a bs).mem }) h.rest, h.reg⟩

theorem addFx (h : OnlyResults te s u) (fx : Nat) : OnlyResults te s (u.addFx te fx) :=
  ⟨congrArg (fun t : State => { t with regs := (u.addFx te fx).regs }) h.rest,
    fun b hb => (State.reg_setFld_other hb).trans (h.reg b hb)⟩

theorem eng (h : OnlyResults te s u) (n : Nat) : u.eng n = s.eng n := congrArg (·.eng n) h.rest

theorem quiet (h : OnlyResults te s u) (hq : (s.eng te).quiet = true) : (u.eng te).quiet = true := h.eng te ▸ hq

/-- A field of another register is as before. -/
theorem fld (h : OnlyResults te s u) {a : Nat} (ha : a ≠ Reg.TEN_FX te) (f : Fld) : u.fld a f = s.fld a f :=
  congrArg f.get (h.reg a ha)

theorem ovfNan (h : OnlyResults te s u) : u.ovfNan te = s.ovfNan te :=
  congrArg (Nat.beq · 1) (h.fld (by unfold Reg.TEN_JOB Reg.TEN_FX; omega) _)

theorem rowAt (h : OnlyResults te s u) (r : Nat) : u.rowAt te r = s.rowAt te r :=
  congrArg (· * 0x10000 + r * 128) (h.fld (by unfold Reg.TEN_ACC_CFG Reg.TEN_FX; omega) _)

/-- Domains are shown by registers of another unit. -/
theorem clean (h : OnlyResults te s u) (ht : te < 64) (hc : s.EngineClean te) : u.EngineClean te :=
  .of_domains (fun d => h.reg _ (by unfold Reg.PWR_DOM Reg.TEN_FX; omega)) ((congrArg State.erm h.rest).trans rfl)
    ((congrArg State.sramDamage h.rest).trans rfl) hc

end OnlyResults

/-- A step that succeeds on what `P` says and keeps it makes the whole list succeed. -/
theorem ranOver_ok {α : Type} {P : State → Prop} {f : α → State → Ran Unit} {g : State → α → State} :
    ∀ {xs : List α} {s : State}, (∀ x ∈ xs, ∀ u, P u → f x u = .ok () (g u x) ∧ P (g u x)) → P s →
      ranOver f xs s = .ok () (xs.foldl g s) ∧ P (xs.foldl g s)
  | [], _, _, h => ⟨rfl, h⟩
  | x :: xs, s, step, h => by
    obtain ⟨runs, keeps⟩ := step x List.mem_cons_self s h
    rw [ranOver, runs]
    exact ranOver_ok (fun y hy => step y (List.mem_cons_of_mem _ hy)) keeps

/-! ## Numbers of elements and of bytes -/

@[simp] theorem splitBits_length (b n v : Nat) : (splitBits b n v).length = n := by
  induction n generalizing v with
  | zero => rfl
  | succ n ih => rw [splitBits, List.length_cons, ih]

@[simp] theorem unpack_length (fmt n : Nat) (bs : List Byte) : (unpack fmt n bs).length = n := splitBits_length ..

@[simp] theorem pack_length (fmt : Nat) (codes : List Nat) : (pack fmt codes).length = packedBytes fmt codes.length :=
  leBytes_length ..

@[simp] theorem convertAll_length (f : NumFmt) (rnd : Nat) (ovf : Bool) (xs : List Val) :
    (f.convertAll rnd ovf xs).1.length = xs.length := by
  induction xs with
  | nil => rfl
  | cons x xs ih => rw [NumFmt.convertAll, List.length_cons, ih, List.length_cons]

@[simp] theorem groups_length {α : Type} (k n : Nat) (xs : List α) : (groups k n xs).length = n := by
  induction n generalizing xs with
  | zero => rfl
  | succ n ih => rw [groups, List.length_cons, ih]

/-- Where there are enough elements every group is full. -/
theorem length_of_mem_groups {α : Type} {k n : Nat} {xs g : List α} (h : n * k ≤ xs.length) (hg : g ∈ groups k n xs) :
    g.length = k := by
  induction n generalizing xs with
  | zero => exact nomatch hg
  | succ n ih =>
    rw [Nat.succ_mul] at h
    rcases List.mem_cons.1 hg with rfl | hg
    · rw [List.length_take]
      omega
    · exact ih (by rw [List.length_drop]; omega) hg

/-- The bytes of `n` lines of four bytes each. -/
theorem length_flatten_words {α : Type} (f : α → Nat) (xs : List α) :
    (xs.map fun x => leBytes 4 (f x)).flatten.length = 4 * xs.length := by
  induction xs with
  | nil => rfl
  | cons x xs ih =>
    rw [List.map_cons, List.flatten_cons, List.length_append, leBytes_length, ih, List.length_cons]
    omega

end Sys2Proof.Machine
end

section
/-!
SUPPORT. The vector unit (R104 to R107): its operands and results lie in ranges that R100 holds within engine memory, so a VOP or VRED
reads, writes its results, and ORs its flags.
-/

namespace Sys2Proof.Machine

/-! ## Sizes -/

/-- A vector is 256 bytes in each lane format. -/
theorem packedBytes_lanes (lane : BitVec 2) (n : Nat) : packedBytes (laneCode lane.toNat) (n * laneCount lane.toNat) = 256 * n := by
  have sizes : ∀ l < 4, packedBytes (laneCode l) (n * laneCount l) = 256 * n
    | 0, _ => show n * 64 * 4 = 256 * n by omega
    | 1, _ => show n * 128 * 2 = 256 * n by omega
    | 2, _ => show n * 128 * 2 = 256 * n by omega
    | 3, _ => show n * 64 * 4 = 256 * n by omega
  exact sizes _ lane.isLt

@[simp] theorem State.lanes_length (s : State) (te g lane n : Nat) : (s.lanes te g lane n).length = n * laneCount lane := unpack_length ..

@[simp] theorem laneOps_length (op lane rnd : Nat) (ovf : Bool) (as bs cs : List Nat) :
    (laneOps op lane rnd ovf as bs cs).1.length = as.length := by
  induction as generalizing bs cs with
  | nil => rfl
  | cons a as ih => rw [laneOps, List.length_cons, ih, List.length_cons]

@[simp] theorem transpose_length (l : Nat) (v : List Nat) : (transpose l v).length = 32 * l := by
  simp only [transpose, List.length_flatMap, List.length_map, List.length_range, List.map_const', List.sum_replicate, smul_eq_mul]

theorem transposed_length (l n : Nat) (v : List Nat) (h : n % 32 = 0) :
    ((groups (32 * l) (n / 32) v).flatMap (transpose l)).length = n * l := by
  simp only [List.length_flatMap, transpose_length, List.map_const', List.sum_replicate, groups_length, smul_eq_mul]
  rw [← Nat.mul_assoc, Nat.div_mul_cancel (Nat.dvd_of_mod_eq_zero h)]

/-! ## VOP -/

/-- Operand B of a VOP: a vector, or the low bits of a scalar register in every lane. -/
def State.vopB (s : State) (te : Nat) (a : VopArgs) : List Nat :=
  if a.bsel then
    List.replicate (a.n.toNat * laneCount a.lane.toNat)
      (((s.eng te).sregs[Fin.ofNat 16 a.srcb.toNat]).toNat % 2 ^ (laneFmt a.lane.toNat).bits)
  else s.lanes te a.srcb.toNat a.lane.toNat a.n.toNat

/-- The bytes and the flags of a VOP other than LDS (R104, R105). -/
def State.vopOut (s : State) (te op : Nat) (a : VopArgs) : List Byte × Nat :=
  let lane := a.lane.toNat
  let n := a.n.toNat
  let va := s.lanes te a.srca.toNat lane n
  if op = 0x0F then
    let x := ((elemFmt a.cfmt.toNat).getD fp32).convertAll a.rnd.toNat (s.ovfNan te) (va.map (laneFmt lane).decode)
    (pack a.cfmt.toNat x.1, x.2)
  else if op = 0x17 then (pack (laneCode lane) ((groups (32 * laneCount lane) (n / 32) va).flatMap (transpose (laneCount lane))), 0)
  else if op = 0x18 then (pack (laneCode lane) va, 0)
  else
    let x := laneOps op lane a.rnd.toNat (s.ovfNan te) va (if readsB op then s.vopB te a else [])
      (if readsC op then s.lanes te a.srcc.toNat lane n else [])
    (pack (laneCode lane) x.1, x.2)

/-- CVT packs densely; every other operation leaves vectors. -/
theorem State.vopOut_length (s : State) (te op : Nat) (a : VopArgs) (whole : op = 0x17 → a.n.toNat % 32 = 0) :
    (s.vopOut te op a).1.length =
      if op = 0x0F then packedBytes a.cfmt.toNat (a.n.toNat * laneCount a.lane.toNat) else 256 * a.n.toNat := by
  unfold State.vopOut
  dsimp only
  split
  · simp
  · rw [← packedBytes_lanes a.lane]
    split
    · rw [pack_length, transposed_length _ _ _ (whole ‹_›)]
    · split <;> simp

/-- What R100 says of the ranges of a VOP. -/
theorem vop_fits {h : TileHdr} {op : Nat} {a : VopArgs} (valid : (TileOp.vop op a).valid h = true) :
    a.srca.toNat * 16 + 256 * a.n.toNat ≤ engineBytes ∧
      (readsB op = true → a.bsel = false → a.srcb.toNat * 16 + 256 * a.n.toNat ≤ engineBytes) ∧
      (readsC op = true → a.srcc.toNat * 16 + 256 * a.n.toNat ≤ engineBytes) ∧
      (op ≠ 0x19 → a.dst.toNat * 16 + (if op = 0x0F then packedBytes a.cfmt.toNat (a.n.toNat * laneCount a.lane.toNat)
        else 256 * a.n.toNat) ≤ engineBytes) := by
  obtain ⟨-, -, areas⟩ := TileOp.valid_iff.1 valid
  simp only [TileOp.areas, List.forall_mem_append, Nat.beq_eq] at areas
  obtain ⟨⟨⟨fitsA, fitsB⟩, fitsC⟩, fitsDst⟩ := areas
  refine ⟨rangeOf_fits fitsA, fun b v => ?_, fun c => ?_, fun ne => ?_⟩
  · rw [b, v] at fitsB
    exact rangeOf_fits fitsB
  · rw [c] at fitsC
    exact rangeOf_fits fitsC
  · rw [if_neg ne] at fitsDst
    split at fitsDst
    · rw [if_pos ‹_›]
      exact rangeOf_fits fitsDst
    · rw [if_neg ‹_›]
      exact rangeOf_fits fitsDst

/-- What a VOP says of its own fields: LDS takes one vector, and TRN blocks of 32. -/
theorem vop_counts {h : TileHdr} {op : Nat} {a : VopArgs} (valid : (TileOp.vop op a).valid h = true) :
    (op = 0x19 → a.n.toNat = 1) ∧ (op = 0x17 → a.n.toNat % 32 = 0) := by
  obtain ⟨fields, -, -⟩ := TileOp.valid_iff.1 valid
  simp only [TileOp.fieldsOk, Bool.and_eq_true, Bool.or_eq_true, Bool.not_eq_true', Nat.beq_eq] at fields
  obtain ⟨⟨-, lds⟩, trn⟩ := fields
  constructor
  · rintro rfl
    simp only [Nat.beq_eq, if_true, Bool.and_eq_true] at lds
    obtain ⟨⟨⟨⟨⟨⟨one, -⟩, -⟩, -⟩, -⟩, -⟩, -⟩ := lds
    exact one
  · rintro rfl
    simpa using trn

theorem State.readLanes_clean {s : State} {te lane n : Nat} {g : BitVec 17} (ht : te < 64) (hc : s.EngineClean te)
    (fits : g.toNat * 16 + 256 * n ≤ engineBytes) : s.readLanes te g.toNat lane n = .ok (s.lanes te g.toNat lane n) s := by
  rw [State.readLanes, State.engRead_clean ht hc fits]
  rfl

/-- LDS of an engine whose memory is in order (R105). -/
theorem State.runVop_lds {s : State} {te : Nat} {h : TileHdr} {a : VopArgs} (ht : te < 64) (hc : s.EngineClean te)
    (valid : (TileOp.vop 0x19 a).valid h = true) :
    s.runVop te 0x19 a = .ok () (s.setEng te { s.eng te with
      sregs := (s.eng te).sregs.set (Fin.ofNat 16 a.dst.toNat) (BitVec.ofNat 32
        (if a.lane.toNat = 2 then unsignedOf 32 (signedOf 16 ((s.lanes te a.srca.toNat a.lane.toNat 1).headD 0))
        else (s.lanes te a.srca.toNat a.lane.toNat 1).headD 0)) }) := by
  have fits := (vop_fits valid).1
  rw [(vop_counts valid).1 rfl] at fits
  unfold State.runVop
  dsimp only
  rw [if_pos (Nat.beq_refl _), State.readLanes_clean ht hc fits]
  simp only [Ran.bind, Nat.beq_eq]

/-- Every other VOP writes its results and ORs its flags (R104, R105). -/
theorem State.runVop_clean {s : State} {te op : Nat} {h : TileHdr} {a : VopArgs} (ht : te < 64) (hc : s.EngineClean te)
    (valid : (TileOp.vop op a).valid h = true) (ne : op ≠ 0x19) :
    s.runVop te op a =
      .ok () ((s.store (engineAt te + a.dst.toNat * 16) (s.vopOut te op a).1).addFx te (s.vopOut te op a).2) := by
  obtain ⟨fitsA, fitsB, fitsC, fitsDst⟩ := vop_fits valid
  have readB : (if !(readsB op) then Ran.ok [] s
      else if a.bsel then
        .ok (List.replicate (a.n.toNat * laneCount a.lane.toNat)
          (((s.eng te).sregs[Fin.ofNat 16 a.srcb.toNat]).toNat % 2 ^ (laneFmt a.lane.toNat).bits)) s
      else s.readLanes te a.srcb.toNat a.lane.toNat a.n.toNat) = .ok (if readsB op then s.vopB te a else []) s := by
    cases reads : readsB op with
    | false => rfl
    | true =>
      cases vector : a.bsel with
      | true => simp [State.vopB, vector]
      | false => simp [State.vopB, vector, State.readLanes_clean ht hc (fitsB reads vector)]
  have readC : (if readsC op then s.readLanes te a.srcc.toNat a.lane.toNat a.n.toNat else .ok [] s) =
      .ok (if readsC op then s.lanes te a.srcc.toNat a.lane.toNat a.n.toNat else []) s := by
    cases reads : readsC op with
    | false => rfl
    | true => exact State.readLanes_clean ht hc (fitsC reads)
  have write := State.engWrite_clean (bs := (s.vopOut te op a).1) ht hc
    (by rw [s.vopOut_length te op a (vop_counts valid).2]; exact fitsDst ne)
  unfold State.runVop
  dsimp only
  rw [if_neg (by simpa using ne), State.readLanes_clean ht hc fitsA]
  dsimp only [Ran.bind]
  rw [readB]
  dsimp only [Ran.bind]
  rw [readC]
  simp only [State.vopOut, ← Nat.beq_eq] at write ⊢
  rw [write]

/-! ## VRED -/

/-- The reductions of a VRED, one for each vector or for each lane: the result and the flags (R107). -/
def State.vredOut (s : State) (te : Nat) (k : VredKind) (a : VredArgs) : List (Nat × Nat) :=
  let lane := a.lane.toNat
  let vs := groups (laneCount lane) a.n.toNat ((s.lanes te a.src.toNat lane a.n.toNat).map (laneFmt lane).decode)
  let lines := if a.axis then (List.range (laneCount lane)).map fun c => vs.map fun v => (v[c]?).getD (.fin false 0) else vs
  lines.map (reduce k (laneFloat lane) (s.ovfNan te) (!a.axis))

theorem State.vredOut_length (s : State) (te : Nat) (k : VredKind) (a : VredArgs) :
    (s.vredOut te k a).length = if a.axis then laneCount a.lane.toNat else a.n.toNat := by
  unfold State.vredOut
  cases a.axis <;> simp

/-- VRED of an engine whose memory is in order (R107). -/
theorem State.runVred_clean {s : State} {te : Nat} {h : TileHdr} {k : VredKind} {a : VredArgs} (ht : te < 64) (hc : s.EngineClean te)
    (valid : (TileOp.vred k a).valid h = true) :
    s.runVred te k a = .ok () ((s.store (engineAt te + a.dst.toNat * 16)
      ((s.vredOut te k a).map fun r => leBytes 4 r.1).flatten).addFx te ((s.vredOut te k a).foldl (fun x r => x ||| r.2) 0)) := by
  obtain ⟨-, -, areas⟩ := TileOp.valid_iff.1 valid
  simp only [TileOp.areas, List.forall_mem_append] at areas
  obtain ⟨fitsSrc, fitsDst⟩ := areas
  have write := State.engWrite_clean (bs := ((s.vredOut te k a).map fun r => leBytes 4 r.1).flatten) ht hc
    (by rw [length_flatten_words, State.vredOut_length]; exact rangeOf_fits fitsDst)
  unfold State.runVred
  dsimp only
  rw [State.readLanes_clean ht hc (rangeOf_fits fitsSrc)]
  simp only [State.vredOut] at write ⊢
  dsimp only [Ran.bind]
  rw [write]

end Sys2Proof.Machine
end

section
open Sys2Proof Sys2Proof.Machine

/-- Settles O21: the command runs to its effect, which reads its operands, stores its results and adds its flags. -/
theorem vectorUnitCommands : Obligations.VectorUnitCommands := by
  constructor
  · intro i s te h op a hi may
    obtain ⟨⟨-, -, quiet, clean⟩, valid, -⟩ := id may
    dsimp only
    split
    · subst op
      exact exec_tileOf_runs hi may (State.runVop_lds te.isLt clean valid) (by rw [State.eng_setEng_same]; exact quiet)
        fun _ _ => TileOp.noConfusion
    · exact exec_tileOf_runs hi may (State.runVop_clean te.isLt clean valid ‹_›)
        ((((OnlyResults.refl te s).store _ _).addFx _).quiet quiet) fun _ _ => TileOp.noConfusion
  · intro i s te h k a hi may
    obtain ⟨⟨-, -, quiet, clean⟩, valid, -⟩ := id may
    exact exec_tileOf_runs hi may (State.runVred_clean te.isLt clean valid)
      ((((OnlyResults.refl te s).store _ _).addFx _).quiet quiet) fun _ _ => TileOp.noConfusion

end

section
/-!
SUPPORT. The results of one lane (R79, R105), and attention's masks and rows without an unmasked key (R145, R146, R148).
-/

namespace Sys2Proof.Machine

/-! ## Integer lanes -/

/-- An integer in the `w` bits of a format, held within its range; INT_SAT where it lay outside (R62, R105). -/
def heldIn (w : Nat) (v : Int) : Nat × Nat :=
  if v < -(2 ^ (w - 1)) then (2 ^ (w - 1), 0x40) else if 2 ^ (w - 1) ≤ v then (2 ^ (w - 1) - 1, 0x40) else (unsignedOf w v, 0)

theorem unsignedOf_lt (w : Nat) (v : Int) : unsignedOf w v < 2 ^ w := by
  have pos : (0 : Int) < 2 ^ w := by positivity
  have := Int.emod_lt_of_pos v pos
  have := Int.emod_nonneg v pos.ne'
  unfold unsignedOf
  zify
  omega

theorem saturate_signed {w : Nat} (hw : 0 < w) (v : Int) : (intFmt w true).saturate v = heldIn w v := by
  obtain ⟨k, rfl⟩ : ∃ k, w = k + 1 := ⟨w - 1, by omega⟩
  have pos : (0 : Int) < 2 ^ k := by positivity
  have twice : (2 : Int) ^ (k + 1) = 2 ^ k + 2 ^ k := by ring
  have low : unsignedOf (k + 1) (-(2 ^ k)) = 2 ^ k := by
    unfold unsignedOf
    rw [show (-(2 ^ k) : Int) % 2 ^ (k + 1) = 2 ^ k from ?_]
    · norm_cast
    · rw [twice, ← Int.add_emod_right, Int.emod_eq_of_lt] <;> omega
  have high : unsignedOf (k + 1) (2 ^ k - 1) = 2 ^ k - 1 := by
    unfold unsignedOf
    rw [Int.emod_eq_of_lt (by omega) (by omega)]
    have : (2 : Int) ^ k = ((2 ^ k : Nat) : Int) := by norm_cast
    omega
  simp only [NumFmt.saturate, intFmt, clampInt, heldIn, if_true, Nat.add_sub_cancel]
  split
  · rw [low, beq_false_of_ne (by omega)]
    rfl
  · split
    · rw [high, beq_false_of_ne (by omega), if_pos (show (2 : Int) ^ k ≤ v by omega)]
      rfl
    · rw [beq_self_eq_true, if_neg (show ¬ (2 : Int) ^ k ≤ v by omega)]
      rfl

/-- Integer lanes (R105). -/
theorem laneOp_integer {lane w : Nat} (hf : laneFmt lane = intFmt w true) (hw : 0 < w) (rnd : Nat) (ovf : Bool) {a b : Nat} (c : Nat)
    (ha : a < 2 ^ w) (hb : b < 2 ^ w) :
    let x := signedOf w a
    let y := signedOf w b
    let op (k : Nat) := laneOp k lane rnd ovf a b c
    op 0x00 = heldIn w (x + y) ∧ op 0x01 = heldIn w (x - y) ∧ op 0x02 = heldIn w (x * y) ∧ op 0x04 = heldIn w (max x y) ∧
      op 0x05 = heldIn w (min x y) ∧ op 0x06 = heldIn w x.natAbs ∧ op 0x07 = heldIn w (-x) ∧
      op 0x10 = (if x < y then 1 else 0, 0) ∧ op 0x11 = (if c = 0 then b else a, 0) ∧ op 0x12 = (a &&& b, 0) ∧
      op 0x13 = (a ||| b, 0) ∧ op 0x14 = (a ^^^ b, 0) ∧ op 0x15 = (a * 2 ^ (b % w) % 2 ^ w, 0) ∧
      op 0x16 = (unsignedOf w (x / 2 ^ (b % w)), 0) := by
  have one : 1 < 2 ^ w := Nat.one_lt_two_pow hw.ne'
  have bit {r k : Nat} (h : r < 2 ^ w) (e : r = k) : (r % 2 ^ w, 0) = (k, 0) := by rw [Nat.mod_eq_of_lt h, e]
  simp only [laneOp, hf, intFmt, Bool.false_eq_true, if_false]
  refine ⟨saturate_signed hw _, saturate_signed hw _, saturate_signed hw _, saturate_signed hw _, saturate_signed hw _,
    saturate_signed hw _, saturate_signed hw _, bit ?_ rfl, bit ?_ ?_, bit (Nat.and_lt_two_pow _ hb) rfl,
    bit (Nat.or_lt_two_pow ha hb) rfl, bit (Nat.xor_lt_two_pow ha hb) rfl, trivial, bit (unsignedOf_lt _ _) rfl⟩
  · split <;> omega
  · split <;> assumption
  · simp only [Nat.beq_eq]

/-! ## Float lanes -/

theorem Val.eq_nan {v : Val} (h : v.isNaN = true) : v = .nan := by
  cases v with
  | nan => rfl
  | inf _ => exact nomatch h
  | fin _ _ => exact nomatch h

/-- A float lane format has a NaN. -/
theorem laneFmt_float {lane : Nat} (h : lane < 2) : (laneFmt lane).float = true ∧ (laneFmt lane).top = .ieee := by
  match lane, h with
  | 0, _ => exact ⟨rfl, rfl⟩
  | 1, _ => exact ⟨rfl, rfl⟩

theorem toFloat_nan {f : NumFmt} (h : f.top = .ieee) (rnd : Nat) (ovf : Bool) : f.toFloat .nan rnd ovf = (f.nanCode, fxNanIn) := by
  simp [NumFmt.toFloat, h]

@[simp] theorem fAdd_nan_left (f : NumFmt) (rnd : Nat) (ovf : Bool) (y : Val) : fAdd f rnd ovf .nan y = (.nan, fxNanIn) := rfl
@[simp] theorem fAdd_nan_right (f : NumFmt) (rnd : Nat) (ovf : Bool) (x : Val) : fAdd f rnd ovf x .nan = (.nan, fxNanIn) := by
  cases x <;> rfl
@[simp] theorem fMul_nan_left (f : NumFmt) (rnd : Nat) (ovf : Bool) (y : Val) : fMul f rnd ovf .nan y = (.nan, fxNanIn) := rfl
@[simp] theorem fMul_nan_right (f : NumFmt) (rnd : Nat) (ovf : Bool) (x : Val) : fMul f rnd ovf x .nan = (.nan, fxNanIn) := by
  cases x <;> rfl
@[simp] theorem fDiv_nan_left (f : NumFmt) (rnd : Nat) (ovf : Bool) (y : Val) : fDiv f rnd ovf .nan y = (.nan, fxNanIn) := rfl
@[simp] theorem fDiv_nan_right (f : NumFmt) (rnd : Nat) (ovf : Bool) (x : Val) : fDiv f rnd ovf x .nan = (.nan, fxNanIn) := by
  cases x <;> rfl
@[simp] theorem fSqrt_nan (f : NumFmt) (rnd : Nat) (ovf : Bool) : fSqrt f rnd ovf .nan = (.nan, fxNanIn) := rfl

theorem fFma_nan {f : NumFmt} {rnd : Nat} {ovf : Bool} {x y z : Val} (h : (x.isNaN || y.isNaN || z.isNaN) = true) :
    fFma f rnd ovf x y z = (.nan, fxNanIn) := by
  simp only [fFma, h, if_true]

/-- Float lanes with a NaN among the operands they read (R79, R105). -/
theorem laneOp_nan {lane : Nat} (hl : lane < 2) (rnd : Nat) (ovf : Bool) (a b c : Nat) :
    let f := laneFmt lane
    let nan (k : Nat) : Prop := laneOp k lane rnd ovf a b c = (f.nanCode, fxNanIn)
    ((f.decode a).isNaN = true → ∀ k ∈ [0x00, 0x01, 0x02, 0x03, 0x04, 0x05, 0x06, 0x07, 0x08, 0x09], nan k) ∧
      ((f.decode b).isNaN = true → ∀ k ∈ [0x00, 0x01, 0x02, 0x03, 0x04, 0x05, 0x08], nan k) ∧
      ((f.decode c).isNaN = true → nan 0x03) ∧
      ((f.decode a).isNaN = true ∨ (f.decode b).isNaN = true → laneOp 0x10 lane rnd ovf a b c = (0, fxNanIn)) := by
  obtain ⟨float, top⟩ := laneFmt_float hl
  have out := toFloat_nan top 0 false
  have zero : ((laneFmt lane).toFloat (.fin false 0) 0 false).1 = 0 := by simp [NumFmt.toFloat, NumFmt.encode]
  simp only [laneOp, float, if_true]
  refine ⟨fun ha => ?_, fun hb => ?_, fun hc => ?_, fun hab => ?_⟩
  · simp [Val.eq_nan ha, out, fFma_nan, Val.isNaN, Val.abs, Val.flip]
  · simp [Val.eq_nan hb, out, fFma_nan, Val.isNaN, Val.flip]
  · rw [fFma_nan (by rw [hc, Bool.or_true]), out]
  · rw [if_pos (by rwa [Bool.or_eq_true]), zero]

/-! ## Attention -/

/-- The keys that row `i` of an inference job sees (R145, R146). -/
theorem keyMasked_inference (causal : Bool) (ntok rows i t : Nat) :
    keyMasked causal (visibleKeys 0 ntok rows) (rowPosition 0 ntok i) t = false ↔
      t < ntok + rows ∧ (causal = true → t ≤ ntok + i) := by
  have keys : visibleKeys 0 ntok rows = ntok + rows := rfl
  have position : rowPosition 0 ntok i = ntok + i := rfl
  rw [keyMasked, keys, position, Bool.or_eq_false_iff, Bool.and_eq_false_imp]
  simp only [Bool.eq_false_iff, Ne, Nat.ble_eq, Nat.blt_eq, Nat.not_le, Nat.not_lt]

theorem AttRow.rescale_length (exp2 : Val → Val × Nat) (ovf : Bool) (r : AttRow) (mb : Val) :
    (r.rescale exp2 ovf mb).o.length = r.o.length := by
  unfold AttRow.rescale
  split
  · rfl
  · split
    · rfl
    · simp only [List.length_map]

/-- A key block keeps the number of outputs, where the passes of its values do. -/
theorem AttRow.block_length {exp2 : Val → Val × Nat} {ovf : Bool} {pv : List Val → List Val → List Val × Nat × Bool}
    (hp : ∀ p o, (pv p o).1.length = o.length) (r : AttRow) (s : List (Val × Bool)) :
    (r.block exp2 ovf pv s).o.length = r.o.length :=
  (hp _ _).trans (AttRow.rescale_length ..)

theorem AttRow.blocks_length {exp2 : Val → Val × Nat} {ovf : Bool}
    {blocks : List (List (Val × Bool) × (List Val → List Val → List Val × Nat × Bool))}
    (hp : ∀ b ∈ blocks, ∀ p o, (b.2 p o).1.length = o.length) (r : AttRow) :
    (blocks.foldl (fun r b => r.block exp2 ovf b.2 b.1) r).o.length = r.o.length := by
  induction blocks generalizing r with
  | nil => rfl
  | cons b bs ih =>
    rw [List.forall_mem_cons] at hp
    exact (ih hp.2 _).trans (AttRow.block_length hp.1 r b.1)

/-- A row whose keys are all masked (R146). -/
theorem attendRow_masked {exp2 : Val → Val × Nat} {ovf : Bool} {d : Nat}
    {blocks : List (List (Val × Bool) × (List Val → List Val → List Val × Nat × Bool))}
    (masked : ∀ b ∈ blocks, ∀ x ∈ b.1, x.2 = true) (hp : ∀ b ∈ blocks, ∀ p o, (b.2 p o).1.length = o.length) :
    attendRow exp2 ovf d blocks = (List.replicate d (.fin false 0), .inf true, .fin false 0, 0) := by
  have all : (blocks.all fun b => b.1.all (·.2)) = true := by simpa [List.all_eq_true] using masked
  rw [attendRow, all, AttRow.finish, if_pos rfl, List.map_const', AttRow.blocks_length hp, AttRow.start, List.length_replicate]

end Sys2Proof.Machine
end

section
open Sys2Proof Sys2Proof.Machine

/-- Settles O22: integer lanes are held within their format, NaNs go through the float operations, and the mask of R146. -/
theorem laneResults : Obligations.LaneResults := by
  refine ⟨?_, fun lane rnd ovf a b c hl => laneOp_nan hl rnd ovf a b c, keyMasked_inference,
    fun _ _ _ _ h => attendRow_masked (fun b hb => (h b hb).1) fun b hb => (h b hb).2⟩
  rintro lane rnd ovf a b c (rfl | rfl) _ ha hb _
  · exact laneOp_integer (w := 16) rfl (by decide) rnd ovf c ha hb
  · exact laneOp_integer (w := 32) rfl (by decide) rnd ovf c ha hb

end

section
/-!
SUPPORT. Block conversions, stores of accumulator rows and the range check (R64 to R66, R97, R103, R119): each block goes to its place
with its scale, in ranges that R100 holds within engine memory.
-/

namespace Sys2Proof.Machine

/-! ## Blocks -/

theorem elemFmt_of_narrow {fmt : Nat} (h : narrow fmt = true) : (elemFmt fmt).isSome = true := by
  unfold narrow at h
  split at h
  · rw [‹elemFmt fmt = _›]
    rfl
  · exact nomatch h

/-- A block has a code for each of its values. -/
theorem quantBlock_length {fmt : Nat} (h : (elemFmt fmt).isSome = true) (kind rnd : Nat) (ovf : Bool) (xs : List Val) :
    (quantBlock fmt kind rnd ovf xs).2.1.length = xs.length := by
  obtain ⟨f, hf⟩ := Option.isSome_iff_exists.1 h
  have mx : (quantMx fmt f rnd xs).2.1.length = xs.length := by
    unfold quantMx
    split <;> simp
  have kb : (quantKb f xs).2.1.length = xs.length := by
    unfold quantKb
    split
    · simp
    · dsimp only
      split <;> simp
  unfold quantBlock
  rw [hf]
  dsimp only
  split
  · exact convertAll_length ..
  · exact mx
  · exact kb

/-- A quantised block `q` at its places, its flags added: the codes at `dst` and the scale of `sb` bytes at `scl`. -/
def State.putBlock (u : State) (te fmt sb dst scl : Nat) (q : Nat × List Nat × Nat) : State :=
  ((u.store (engineAt te + dst) (pack fmt q.2.1)).store (engineAt te + scl) (leBytes sb q.1)).addFx te q.2.2

theorem OnlyResults.putBlock {te : Nat} {s u : State} (h : OnlyResults te s u) (fmt sb dst scl : Nat) (q : Nat × List Nat × Nat) :
    OnlyResults te s (u.putBlock te fmt sb dst scl q) := ((h.store _ _).store _ _).addFx _

theorem State.putBlock_runs {u : State} {te fmt sb dst scl : Nat} {q : Nat × List Nat × Nat} (ht : te < 64) (hc : u.EngineClean te)
    (codes : dst + packedBytes fmt q.2.1.length ≤ engineBytes) (scale : scl + sb ≤ engineBytes) :
    ((u.engWrite te dst (pack fmt q.2.1)).bind fun _ s1 =>
      (s1.engWrite te scl (leBytes sb q.1)).bind fun _ s2 => .ok () (s2.addFx te q.2.2)) = .ok () (u.putBlock te fmt sb dst scl q) := by
  rw [State.engWrite_clean ht hc (by rwa [pack_length])]
  dsimp only [Ran.bind]
  rw [State.engWrite_clean ht hc.store (by rwa [leBytes_length])]
  rfl

/-- Entry `i` of `n` equal entries lies before the end of the last. -/
theorem entry_le {i n : Nat} (h : i < n) (size : Nat) : i * size + size ≤ n * size := by
  rw [← Nat.succ_mul]
  exact Nat.mul_le_mul_right _ h

/-! ## QNT (R64, R65) -/

/-- The blocks that a QNT reads. -/
def State.qntSource (s : State) (te : Nat) (a : QntArgs) : List (List Val) :=
  let sf := if a.sfmt then 0x02 else 0x00
  groups 32 a.nb.toNat ((unpack sf (32 * a.nb.toNat) (s.bytes (engineAt te + a.src.toNat * 16)
    (packedBytes sf (32 * a.nb.toNat)))).map ((elemFmt sf).getD fp32).decode)

/-- Block `i` of a QNT at its place, quantised from the source as it was in `s`. -/
def State.qntStep (s : State) (te : Nat) (a : QntArgs) (u : State) (i : Nat) : State :=
  u.putBlock te a.dfmt.toNat (scaleBytes a.dscale.toNat) (a.dst.toNat * 16 + i * packedBytes a.dfmt.toNat 32)
    (a.scl.toNat * 16 + i * scaleBytes a.dscale.toNat)
    (quantBlock a.dfmt.toNat a.dscale.toNat a.rnd.toNat (s.ovfNan te) (((s.qntSource te a)[i]?).getD []))

/-- What R100 says of the ranges of a QNT. -/
theorem qnt_fits {h : TileHdr} {a : QntArgs} (valid : (TileOp.qnt a).valid h = true) :
    (elemFmt a.dfmt.toNat).isSome = true ∧
      a.src.toNat * 16 + packedBytes (if a.sfmt then 0x02 else 0x00) (32 * a.nb.toNat) ≤ engineBytes ∧
      a.dst.toNat * 16 + a.nb.toNat * packedBytes a.dfmt.toNat 32 ≤ engineBytes ∧
      a.scl.toNat * 16 + a.nb.toNat * scaleBytes a.dscale.toNat ≤ engineBytes := by
  obtain ⟨fields, -, areas⟩ := TileOp.valid_iff.1 valid
  simp only [TileOp.fieldsOk, Bool.and_eq_true] at fields
  simp only [TileOp.areas, List.forall_mem_append] at areas
  obtain ⟨⟨narrowed, -⟩, -⟩ := fields
  obtain ⟨⟨src, dst⟩, scl⟩ := areas
  have size : packedBytes (if a.sfmt then 0x02 else 0x00) (32 * a.nb.toNat) = a.nb.toNat * 32 * (if a.sfmt then 2 else 4) := by
    cases a.sfmt
    · show 32 * a.nb.toNat * 4 = a.nb.toNat * 32 * 4
      omega
    · show 32 * a.nb.toNat * 2 = a.nb.toNat * 32 * 2
      omega
  exact ⟨elemFmt_of_narrow narrowed, size ▸ rangeOf_fits src, rangeOf_fits dst, rangeOf_fits scl⟩

/-- QNT of an engine whose memory is in order. -/
theorem State.runQnt_clean {s : State} {te : Nat} {h : TileHdr} {a : QntArgs} (ht : te < 64) (hc : s.EngineClean te)
    (valid : (TileOp.qnt a).valid h = true) (allows : scaleAllows a.dscale.toNat a.dfmt.toNat = true) :
    s.runQnt te a = .ok () ((List.range a.nb.toNat).foldl (s.qntStep te a) s) ∧
      OnlyResults te s ((List.range a.nb.toNat).foldl (s.qntStep te a) s) := by
  obtain ⟨elem, src, dst, scl⟩ := qnt_fits valid
  unfold State.runQnt
  dsimp only
  rw [allows, State.engRead_clean ht hc src]
  simp only [Bool.not_true, Bool.false_eq_true, if_false, Ran.bind, State.writeBlocks, List.length_map, groups_length]
  refine ranOver_ok (fun i hi u hu => ⟨?_, hu.putBlock ..⟩) (.refl te s)
  rw [List.mem_range] at hi
  obtain ⟨g, block⟩ : ∃ g, (s.qntSource te a)[i]? = some g := ⟨_, List.getElem?_eq_getElem (by simpa [State.qntSource] using hi)⟩
  have full : g.length = 32 := length_of_mem_groups (by simp [Nat.mul_comm]) (List.mem_of_getElem? block)
  have write := State.putBlock_runs (q := quantBlock a.dfmt.toNat a.dscale.toNat a.rnd.toNat (s.ovfNan te)
      (((s.qntSource te a)[i]?).getD [])) (fmt := a.dfmt.toNat) (sb := scaleBytes a.dscale.toNat)
    (dst := a.dst.toNat * 16 + i * packedBytes a.dfmt.toNat 32) (scl := a.scl.toNat * 16 + i * scaleBytes a.dscale.toNat)
    ht (hu.clean ht hc)
    (by
      have := entry_le hi (packedBytes a.dfmt.toNat 32)
      rw [block, Option.getD_some, quantBlock_length elem, full]
      omega)
    (by
      have := entry_le hi (scaleBytes a.dscale.toNat)
      omega)
  rw [State.qntStep, ← write, block]
  unfold State.qntSource at block
  rw [List.getElem?_map, block]
  rfl

/-! ## DQN (R66) -/

/-- The values of a DQN, block after block. -/
def State.dqnValues (s : State) (te : Nat) (a : DqnArgs) : List Val :=
  let sf := a.sfmt.toNat
  let sb := scaleBytes a.sscale.toNat
  let nb := a.nb.toNat
  let codes := groups 32 nb (unpack sf (32 * nb) (s.bytes (engineAt te + a.src.toNat * 16) (nb * packedBytes sf 32)))
  let sc := s.bytes (engineAt te + a.scl.toNat * 16) (nb * sb)
  (codes.zip (List.range nb)).flatMap fun x => x.1.map (blockValue sf a.sscale.toNat (fieldAt sc (x.2 * sb) sb))

theorem State.dqnValues_length (s : State) (te : Nat) (a : DqnArgs) : (s.dqnValues te a).length = 32 * a.nb.toNat := by
  have full : ∀ x ∈ (groups 32 a.nb.toNat (unpack a.sfmt.toNat (32 * a.nb.toNat) (s.bytes (engineAt te + a.src.toNat * 16)
      (a.nb.toNat * packedBytes a.sfmt.toNat 32)))).zip (List.range a.nb.toNat), x.1.length = 32 := fun x hx =>
    length_of_mem_groups (by simp [Nat.mul_comm]) (List.of_mem_zip hx).1
  unfold State.dqnValues
  dsimp only
  simp only [List.length_flatMap, List.length_map]
  rw [List.map_congr_left full, List.map_const', List.sum_replicate]
  simp [Nat.mul_comm]

/-- The values of a DQN in the format of DFMT, with their flags. -/
def State.dqnOut (s : State) (te : Nat) (a : DqnArgs) : List Nat × Nat :=
  ((elemFmt (dqnFmt a.dfmt.toNat)).getD fp32).convertAll 0 (s.ovfNan te) (s.dqnValues te a)

theorem packedBytes_dqn (dfmt : BitVec 2) (n : Nat) :
    packedBytes (dqnFmt dfmt.toNat) (32 * n) = n * 32 * (if Nat.beq dfmt.toNat 0 then 4 else 2) := by
  have sizes : ∀ d < 4, packedBytes (dqnFmt d) (32 * n) = n * 32 * (if Nat.beq d 0 then 4 else 2)
    | 0, _ => show 32 * n * 4 = n * 32 * 4 by omega
    | 1, _ => show 32 * n * 2 = n * 32 * 2 by omega
    | 2, _ => show 32 * n * 2 = n * 32 * 2 by omega
    | 3, _ => show 32 * n * 2 = n * 32 * 2 by omega
  exact sizes _ dfmt.isLt

/-- DQN of an engine whose memory is in order. -/
theorem State.runDqn_clean {s : State} {te : Nat} {h : TileHdr} {a : DqnArgs} (ht : te < 64) (hc : s.EngineClean te)
    (valid : (TileOp.dqn a).valid h = true) (allows : scaleAllows a.sscale.toNat a.sfmt.toNat = true) :
    s.runDqn te a = .ok () ((s.store (engineAt te + a.dst.toNat * 16) (pack (dqnFmt a.dfmt.toNat) (s.dqnOut te a).1)).addFx te
      (s.dqnOut te a).2) := by
  obtain ⟨-, -, areas⟩ := TileOp.valid_iff.1 valid
  simp only [TileOp.areas, List.forall_mem_append] at areas
  obtain ⟨⟨src, dst⟩, scl⟩ := areas
  have write := State.engWrite_clean (off := a.dst.toNat * 16) (bs := pack (dqnFmt a.dfmt.toNat) (s.dqnOut te a).1) ht hc (by
    rw [pack_length, State.dqnOut, convertAll_length, State.dqnValues_length, packedBytes_dqn]
    exact rangeOf_fits dst)
  unfold State.runDqn
  dsimp only
  rw [allows, State.engRead_clean ht hc (rangeOf_fits src)]
  simp only [Bool.not_true, Bool.false_eq_true, if_false, Ran.bind]
  rw [State.engRead_clean ht hc (rangeOf_fits scl)]
  simp only [State.dqnOut, State.dqnValues] at write ⊢
  rw [write]

/-! ## STO (R97, R103) -/

/-- A row of the accumulator region lies in engine memory (R97). -/
theorem State.rowAt_fits {s : State} {te r : Nat} (h : r < s.accRows te) : s.rowAt te r + 128 ≤ engineBytes := by
  unfold State.accRows at h
  dsimp only at h
  split at h
  · rename_i region
    rw [Nat.ble_eq] at region
    unfold State.rowAt engineBytes
    omega
  · exact absurd h (Nat.not_lt_zero _)

/-- Bytes from one stored row to the next. -/
def stoPitch (a : StoArgs) : Nat := if a.dpitch.toNat = 0 then packedBytes a.dfmt.toNat 32 else a.dpitch.toNat * 16

/-- Row `i` of a STO in state `u`: the row is read, cleared with CLR, and stored as a block with its scale.  The engine's registers
are those of `s`. -/
def State.stoStep (s : State) (te : Nat) (a : StoArgs) (u : State) (i : Nat) : State :=
  let row := engineAt te + s.rowAt te (a.acc.toNat + i)
  let d := u.bytes row 128
  let u1 := if a.clr then u.store row (List.replicate 128 0#8) else u
  u1.putBlock te a.dfmt.toNat (scaleBytes a.dscale.toNat) (a.dst.toNat * 16 + i * stoPitch a)
    (a.scl.toNat * 16 + i * scaleBytes a.dscale.toNat)
    (quantBlock a.dfmt.toNat a.dscale.toNat a.rnd.toNat (s.ovfNan te)
      ((List.range 32).map fun n => (if a.acct then int32 else fp32).decode (fieldAt d (4 * n) 4)))

/-- What R100 says of the ranges of a STO. -/
theorem sto_fits {h : TileHdr} {a : StoArgs} (valid : (TileOp.sto a).valid h = true) :
    (elemFmt a.dfmt.toNat).isSome = true ∧
      (∀ i < a.nr.toNat, a.dst.toNat * 16 + i * stoPitch a + packedBytes a.dfmt.toNat 32 ≤ engineBytes) ∧
      a.scl.toNat * 16 + a.nr.toNat * scaleBytes a.dscale.toNat ≤ engineBytes := by
  obtain ⟨fields, -, areas⟩ := TileOp.valid_iff.1 valid
  simp only [TileOp.fieldsOk, Bool.and_eq_true] at fields
  simp only [TileOp.areas, List.forall_mem_append, Nat.beq_eq] at areas
  obtain ⟨⟨elem, -⟩, -⟩ := fields
  obtain ⟨dstArea, scl⟩ := areas
  have dst := rangeOf_fits dstArea
  refine ⟨elem, fun i hi => ?_, rangeOf_fits scl⟩
  unfold stoPitch
  split at dst
  · rw [if_pos ‹_›]
    have := entry_le hi (packedBytes a.dfmt.toNat 32)
    omega
  · rw [if_neg ‹_›]
    have : i * (a.dpitch.toNat * 16) ≤ (a.nr.toNat - 1) * (a.dpitch.toNat * 16) := Nat.mul_le_mul_right _ (by omega)
    rw [Nat.mul_assoc] at dst
    omega

/-- STO of an engine whose memory is in order, of rows that lie in the region. -/
theorem State.runSto_clean {s : State} {te : Nat} {h : TileHdr} {a : StoArgs} (ht : te < 64) (hc : s.EngineClean te)
    (valid : (TileOp.sto a).valid h = true) (rows : a.acc.toNat + a.nr.toNat ≤ s.accRows te)
    (allows : scaleAllows a.dscale.toNat a.dfmt.toNat = true) :
    s.runSto te a = .ok () ((List.range a.nr.toNat).foldl (s.stoStep te a) s) ∧
      OnlyResults te s ((List.range a.nr.toNat).foldl (s.stoStep te a) s) := by
  obtain ⟨elem, dst, scl⟩ := sto_fits valid
  unfold State.runSto
  dsimp only
  rw [allows]
  simp only [Bool.not_true, Bool.false_eq_true, if_false, Nat.beq_eq]
  refine ranOver_ok (fun i hi u hu => ?_) (.refl te s)
  rw [List.mem_range] at hi
  have region : s.rowAt te (a.acc.toNat + i) + 128 ≤ engineBytes := State.rowAt_fits (by omega)
  have cleared : (if a.clr then u.engWrite te (s.rowAt te (a.acc.toNat + i)) (List.replicate 128 0#8) else .ok () u) =
      .ok () (if a.clr then u.store (engineAt te + s.rowAt te (a.acc.toNat + i)) (List.replicate 128 0#8) else u) := by
    split
    · exact State.engWrite_clean ht (hu.clean ht hc) region
    · rfl
  have only : OnlyResults te s (if a.clr then u.store (engineAt te + s.rowAt te (a.acc.toNat + i)) (List.replicate 128 0#8) else u) := by
    split
    · exact hu.store _ _
    · exact hu
  refine ⟨?_, only.putBlock ..⟩
  rw [hu.rowAt, State.engRead_clean ht (hu.clean ht hc) region]
  dsimp only [Ran.bind]
  rw [cleared]
  dsimp only [Ran.bind]
  rw [only.ovfNan]
  refine State.putBlock_runs ht (only.clean ht hc) ?_ ?_
  · rw [quantBlock_length elem, List.length_map, List.length_range]
    exact dst i hi
  · have := entry_le hi (scaleBytes a.dscale.toNat)
    omega

/-! ## CHK (R119) -/

/-- CHK mode 0x0 of an engine whose memory is in order. -/
theorem State.runChkCrc_clean {s : State} {te : Nat} {h : TileHdr} {a : ChkArgs} (ht : te < 64) (hc : s.EngineClean te)
    (valid : (TileOp.chkCrc a).valid h = true) :
    s.runChkCrc te a =
      if crc32 (s.bytes (engineAt te + a.src.toNat * 16) (a.ng.toNat * 16)) = leNat (s.bytes (engineAt te + a.exp.toNat * 16) 4)
      then .ok () s else faultAs te 7 0 s := by
  obtain ⟨-, -, areas⟩ := TileOp.valid_iff.1 valid
  simp only [TileOp.areas, List.forall_mem_append] at areas
  obtain ⟨range, exp⟩ := areas
  have expected := rangeOf_fits exp
  unfold State.runChkCrc
  rw [State.engRead_clean ht hc (rangeOf_fits range)]
  dsimp only [Ran.bind]
  rw [State.engRead_clean ht hc (by omega)]
  simp only [Nat.beq_eq]

end Sys2Proof.Machine
end

section
open Sys2Proof Sys2Proof.Machine

/-- Settles O23: each command runs to its effect, over its blocks in order, and a CHK on a wrong CRC stops the engine. -/
theorem blockCommands : Obligations.BlockCommands := by
  intro s te h
  refine ⟨fun a may allows => ?_, fun a may allows => ?_, fun a may allows => ?_, fun a may => ?_⟩ <;>
    obtain ⟨⟨-, -, quiet, clean⟩, valid, rows⟩ := id may
  · obtain ⟨runs, only⟩ := State.runQnt_clean te.isLt clean valid allows
    exact exec_tileOf_runs rfl may runs (only.quiet quiet) fun _ _ => TileOp.noConfusion
  · exact exec_tileOf_runs rfl may (State.runDqn_clean te.isLt clean valid allows)
      ((((OnlyResults.refl te s).store _ _).addFx _).quiet quiet) fun _ _ => TileOp.noConfusion
  · obtain ⟨runs, only⟩ := State.runSto_clean te.isLt clean valid (rows _ rfl) allows
    exact exec_tileOf_runs rfl may runs (only.quiet quiet) fun _ _ => TileOp.noConfusion
  · have runs := State.runChkCrc_clean te.isLt clean valid
    dsimp only
    split
    · rw [if_pos ‹_›] at runs
      exact exec_tileOf_runs rfl may runs quiet fun _ _ => TileOp.noConfusion
    · rw [if_neg ‹_›] at runs
      have stops : ((s.runTile te h [] (.chkCrc a)).bind fun _ t => t.unitsGo te) = faultAs te 7 0 s := by
        rw [State.runTile, runs]
        rfl
      exact fun _ => exec_tileOf_faultAs rfl may stops (by decide)

end

section
/-!
SUPPORT. The exception flags of a pass are the eight of R71, so the field of TEN_FX holds them all.
-/

namespace Sys2Proof.Machine

theorem fx_or_lt {x y : Nat} (hx : x < 256) (hy : y < 256) : x ||| y < 256 := Nat.or_lt_two_pow (n := 8) hx hy

theorem fx_ite_lt {c : Prop} [Decidable c] {x y : Nat} (hx : x < 256) (hy : y < 256) : (if c then x else y) < 256 := by
  split <;> assumption

theorem overflow_fx_lt (f : NumFmt) (neg ovf : Bool) : (f.overflow neg ovf).2 < 256 := by
  rw [NumFmt.overflow, apply_ite Prod.snd]
  exact fx_ite_lt (by decide : fxOvfNan < 256) (by decide : fxOvfSat < 256)

theorem toFloat_fx_lt (f : NumFmt) (x : Val) (rnd : Nat) (ovf : Bool) : (f.toFloat x rnd ovf).2 < 256 := by
  cases x with
  | nan =>
    rw [NumFmt.toFloat, apply_ite Prod.snd]
    exact fx_ite_lt (by decide : fxNanIn + fxNanZero < 256) (by decide : fxNanIn < 256)
  | inf neg =>
    rw [NumFmt.toFloat, apply_ite Prod.snd]
    exact fx_ite_lt (by decide : 0 < 256) (by decide : fxInfSat < 256)
  | fin neg mag =>
    rw [NumFmt.toFloat, apply_ite Prod.snd, apply_ite Prod.snd]
    exact fx_ite_lt (by decide : 0 < 256) (fx_ite_lt (overflow_fx_lt ..) (fx_ite_lt (by decide : fxUnderflow < 256) (by decide)))

theorem saturate_fx_lt (f : NumFmt) (v : Int) : (f.saturate v).2 < 256 :=
  fx_ite_lt (by decide) (by decide : fxIntSat < 256)

theorem fAdd_fx_lt (f : NumFmt) (rnd : Nat) (ovf : Bool) (x y : Val) : (fAdd f rnd ovf x y).2 < 256 := by
  unfold fAdd
  split
  · exact (by decide : fxNanIn < 256)
  · exact (by decide : fxNanIn < 256)
  · rw [apply_ite Prod.snd]
    exact fx_ite_lt (by decide : 0 < 256) (by decide : fxInvalid < 256)
  · exact (by decide : 0 < 256)
  · exact (by decide : 0 < 256)
  · dsimp only
    rw [apply_ite Prod.snd]
    exact fx_ite_lt (by decide : 0 < 256) (toFloat_fx_lt ..)

theorem passSpecial_fx_lt {ps : List (Val × Val)} {r : Val × Nat} (h : passSpecial ps = some r) : r.2 < 256 := by
  unfold passSpecial at h
  dsimp only at h
  split at h
  · cases h
    exact fx_or_lt (fx_ite_lt (by decide : fxNanIn < 256) (by decide)) (fx_ite_lt (by decide : fxInvalid < 256) (by decide))
  · split at h
    · cases h
      exact (by decide : 0 < 256)
    · exact nomatch h

theorem passFloat_fx_lt (path : PassPath) (ovf : Bool) (ps : List (Val × Val)) (ws as_ : Val) (extra : Rat) (prev : Val) :
    (passFloat path ovf ps ws as_ extra prev).2 < 256 := by
  unfold passFloat
  split
  · refine fx_or_lt (passSpecial_fx_lt ‹_›) ?_
    exact fx_ite_lt (by decide) (fAdd_fx_lt ..)
  · split
    · split <;> exact toFloat_fx_lt ..
    · exact (by decide : 0 < 256)

theorem passInt_fx_lt (ps : List (Val × Val)) (extra : Rat) (prev : Val) : (passInt ps extra prev).2 < 256 := saturate_fx_lt ..

/-- Columns that each add a sum, and flags of R71, leave as many sums as there are columns, and flags of R71. -/
theorem foldl_columns {f : List Val × Nat → Nat → List Val × Nat}
    (step : ∀ r n, r.2 < 256 → (f r n).1.length = r.1.length + 1 ∧ (f r n).2 < 256) (ns : List Nat) (r : List Val × Nat)
    (h : r.2 < 256) : (ns.foldl f r).1.length = r.1.length + ns.length ∧ (ns.foldl f r).2 < 256 := by
  induction ns generalizing r with
  | nil => exact ⟨rfl, h⟩
  | cons n ns ih =>
    obtain ⟨length, flags⟩ := step r n h
    obtain ⟨rest, last⟩ := ih (f r n) flags
    exact ⟨by rw [List.foldl_cons, rest, length, List.length_cons]; omega, last⟩

/-- A pass leaves 32 partial sums. -/
theorem passRow_sums (t : WeightTile) (v : ActVector) (b : Nat) (path : PassPath) (int ovf : Bool) (fs : List ArrayFault)
    (prev : List Val) : (passRow t v b path int ovf fs prev).1.length = 32 ∧ (passRow t v b path int ovf fs prev).2 < 256 := by
  refine foldl_columns (fun r n h => ⟨List.length_append, fx_or_lt h ?_⟩) (List.range 32) ([], 0) (by decide)
  cases int
  · exact passFloat_fx_lt ..
  · exact passInt_fx_lt ..

end Sys2Proof.Machine
end

section
/-!
SUPPORT. A matrix command on one array of a quiet engine (R85, R86, R89, R90, R93, R94, R116): the array takes the command, its tile
becomes active, and the vector at the head of its queue makes its passes.
-/

namespace Sys2Proof.Machine

/-! ## Array pipes of an engine -/

@[simp] theorem Engine.ary_setAry_same (e : Engine) (k : Nat) (x : ArrayPipe) : (e.setAry k x).ary k = x := by
  simp [Engine.ary, Engine.setAry]

theorem Engine.ary_setAry_other {e : Engine} {j k : Nat} (hj : j < 4) (hk : k < 4) (h : j ≠ k) (x : ArrayPipe) :
    (e.setAry k x).ary j = e.ary j := by
  simp only [Engine.ary, Engine.setAry, Fin.getElem_fin]
  exact Vector.getElem_set_ne _ _ (by rw [Fin.val_ofNat, Fin.val_ofNat]; omega)

@[simp] theorem Engine.setAry_setAry (e : Engine) (k : Nat) (x y : ArrayPipe) : (e.setAry k x).setAry k y = e.setAry k y := by
  simp [Engine.setAry]

@[simp] theorem State.setEng_setEng (s : State) (n : Nat) (x y : Engine) : (s.setEng n x).setEng n y = s.setEng n y := by
  simp [State.setEng]

/-- The engine has nothing at work but the MMA and MMAS of array `k`. -/
structure Engine.OnlyMacs (e : Engine) (k : Nat) : Prop where
  loads : e.loads = []
  fetches : e.fetches = []
  dmas : e.dmas = []
  others : ∀ j < 4, j ≠ k → (e.ary j).macs = []

/-- `e` with array pipe `k` replaced and `n` commands issued. -/
def Engine.withPipe (e : Engine) (k : Nat) (p : ArrayPipe) (n : Nat) : Engine := { e.setAry k p with issued := n }

@[simp] theorem Engine.setAry_withPipe (e : Engine) (k : Nat) (p q : ArrayPipe) (n : Nat) :
    (e.withPipe k p n).setAry k q = e.withPipe k q n := congrArg (fun x : Engine => { x with issued := n }) (Engine.setAry_setAry e k p q)

@[simp] theorem Engine.ary_withPipe (e : Engine) (k : Nat) (p : ArrayPipe) (n : Nat) : (e.withPipe k p n).ary k = p :=
  Engine.ary_setAry_same ..

theorem Engine.onlyMacs_withPipe {e : Engine} {k : Nat} (hq : e.quiet = true) (hk : k < 4) (p : ArrayPipe) (n : Nat) :
    (e.withPipe k p n).OnlyMacs k := by
  obtain ⟨loads, fetches, dmas, macs⟩ := Engine.quiet_parts hq
  exact ⟨loads, fetches, dmas, fun j hj ne => (congrArg _ (Engine.ary_setAry_other hj hk ne p)).trans (macs j hj)⟩

/-- A quiet engine whose array pipe is replaced by one without commands is quiet. -/
theorem Engine.quiet_withPipe {e : Engine} {k : Nat} {p : ArrayPipe} (hq : e.quiet = true) (hk : k < 4) (hp : p.macs = []) (n : Nat) :
    (e.withPipe k p n).quiet = true := by
  have only := Engine.onlyMacs_withPipe hq hk p n
  have none : ∀ j < 4, ((e.withPipe k p n).ary j).macs = [] := fun j hj => by
    by_cases h : j = k
    · rw [h, Engine.ary_withPipe, hp]
    · exact only.others j hj h
  have kvl : (e.withPipe k p n).kvlBusy = false := by
    simp only [Engine.quiet, Bool.and_eq_true, Bool.not_eq_true'] at hq
    obtain ⟨⟨⟨⟨idle, -⟩, -⟩, -⟩, -⟩ := hq
    exact idle
  simp only [Engine.quiet, only.loads, only.fetches, only.dmas, kvl, List.isEmpty_nil, Bool.not_false, Bool.and_self, Bool.true_and,
    List.all_eq_true, List.mem_range, List.isEmpty_iff]
  exact none

/-- Of four places only the `k`-th gives anything. -/
theorem findSome?_four {α : Type} {f : Nat → Option α} {k : Nat} (hk : k < 4) (h : ∀ j < 4, j ≠ k → f j = none) :
    (List.range 4).findSome? f = f k ∧ (List.range 4).filterMap f = (f k).toList := by
  rw [show List.range 4 = [0, 1, 2, 3] from rfl]
  cases hf : f k <;> interval_cases k <;> simp [h, hf]

namespace Engine.OnlyMacs

variable {e : Engine} {k : Nat}

/-- The next start is that of array `k`. -/
theorem nextStart (h : e.OnlyMacs k) (hk : k < 4) {m : MacJob} {ms : List MacJob} (hm : (e.ary k).macs = m :: ms) :
    e.nextStart = if m.tile.isSome then none else (if m.fresh then (e.ary k).shadow else (e.ary k).active).map fun t => (k, m, t) := by
  refine (findSome?_four hk fun j hj ne => ?_).1.trans ?_
  · dsimp only
    rw [h.others j hj ne]
  · dsimp only
    rw [hm]

/-- The array that can take a vector is `k`, with its command and the head of its queue. -/
theorem ready (h : e.OnlyMacs k) (hk : k < 4) {m : MacJob} {ms : List MacJob} {t : WeightTile} (hm : (e.ary k).macs = m :: ms)
    (ht : m.tile = some t) : e.ready = (e.ary k).queue.head?.toList.map fun v => (k, m, t, v) := by
  refine (findSome?_four hk fun j hj ne => ?_).2.trans ?_
  · rw [h.others j hj ne]
  · rw [hm]
    cases (e.ary k).queue with
    | nil => rfl
    | cons v vs => simp [ht]

/-- The engine has more to do than the vectors and commands of array `k`. -/
theorem toDo_gt (h : e.OnlyMacs k) (hk : k < 4) : (e.ary k).queue.length + (e.ary k).macs.length < e.toDo := by
  unfold Engine.toDo
  rw [h.loads, h.fetches, h.dmas, show List.range 4 = [0, 1, 2, 3] from rfl]
  simp only [List.foldl_cons, List.foldl_nil, List.length_nil]
  interval_cases k <;> omega

end Engine.OnlyMacs

/-! ## What the units do next -/

theorem State.unitStep_start {s : State} {te k j : Nat} {m : MacJob} {t : WeightTile} (h : (s.eng te).OnlyMacs k)
    (hs : (s.eng te).nextStart = some (j, m, t)) : s.unitStep te = some (s.runStart te j m t) := by
  unfold State.unitStep
  simp only [h.loads, h.fetches, hs, Engine.nextLoad, Engine.nextFetch]

theorem State.unitStep_round {s : State} {te k : Nat} {x : Nat × MacJob × WeightTile × ActVector} (h : (s.eng te).OnlyMacs k)
    (hs : (s.eng te).nextStart = none) (hr : (s.eng te).ready = [x]) :
    s.unitStep te = some ((s.vectorOut te x).2.takeRound te [(s.vectorOut te x).1]) := by
  unfold State.unitStep
  simp only [h.loads, h.fetches, hs, hr, Engine.nextLoad, Engine.nextFetch, State.roundOuts]

theorem State.unitStep_none {s : State} {te k : Nat} (h : (s.eng te).OnlyMacs k) (hs : (s.eng te).nextStart = none)
    (hr : (s.eng te).ready = []) : s.unitStep te = none := by
  unfold State.unitStep
  simp only [h.loads, h.fetches, h.dmas, hs, hr, Engine.nextLoad, Engine.nextFetch, State.nextDma, Option.map_none]

theorem State.goUnits_none {s : State} {te : Nat} (h : s.unitStep te = none) (fuel : Nat) : s.goUnits te fuel = .ok () s := by
  cases fuel with
  | zero => rfl
  | succ n => rw [State.goUnits, h]

theorem State.goUnits_some {s : State} {te : Nat} {r : Ran Unit} (h : s.unitStep te = some r) (fuel : Nat) :
    s.goUnits te (fuel + 1) = r.bind fun _ s1 => s1.goUnits te fuel := by
  rw [State.goUnits, h]

/-! ## The command as its array holds it -/

/-- The command as array `k` of engine `e` takes it, with the tile it works with, if it has one yet (R85, R86, R119). -/
def Engine.macJob (e : Engine) (k : Nat) (h : TileHdr) (sparse : Bool) (a : MmaArgs) (up : List ArrayUpset) (t : Option WeightTile) :
    MacJob :=
  { seq := e.issued, sparse, args := a, hdr := h, row := a.acc.toNat, done := 0, fresh := Nat.blt 0 (e.ary k).fresh, tile := t,
    upsets := up, arm := (e.ary k).selfTest }

/-- The tile that the next MMA or MMAS takes: that of an LDW which none has taken yet, else the active one (R85, R86). -/
def ArrayPipe.takes (p : ArrayPipe) : Option WeightTile := if 0 < p.fresh then p.shadow else p.active

/-- The pipe with the command `m` waiting in it. -/
def ArrayPipe.holding (p : ArrayPipe) (m : MacJob) : ArrayPipe := { p with fresh := p.fresh - 1, selfTest := false, macs := [m] }

/-- The pipe with the tile `t` active for the command `m`: an LDW's tile leaves the shadow buffer (R85). -/
def ArrayPipe.working (p : ArrayPipe) (t : WeightTile) (m : MacJob) : ArrayPipe :=
  { p with shadow := if 0 < p.fresh then none else p.shadow, active := some t, fresh := p.fresh - 1, selfTest := false, macs := [m] }

theorem arraysOf_lt {arym : BitVec 4} {k : Nat} (h : k ∈ arraysOf arym) : k < 4 := List.mem_range.1 (List.mem_filter.1 h).1

/-- A quiet engine gives the command to the one array that it names, if an LDW stands before it (R86). -/
theorem State.runMac_one {s : State} {te k : Nat} {h : TileHdr} {sparse : Bool} {a : MmaArgs} {up : List ArrayUpset}
    (quiet : (s.eng te).quiet = true) (checked : (s.eng te).wcheck = false) (one : arraysOf h.arym = [k]) :
    s.runMac te h sparse a up = if ((s.eng te).ary k).seen then
      .ok () (s.setEng te ((s.eng te).withPipe k (((s.eng te).ary k).holding ((s.eng te).macJob k h sparse a up none))
        ((s.eng te).issued + 1)))
      else faultAs te 5 0 s := by
  have hk : k < 4 := arraysOf_lt (one ▸ List.mem_singleton.2 rfl)
  obtain ⟨-, -, -, idle⟩ := Engine.quiet_parts quiet
  have first : aryAt h 0 = k := by rw [aryAt, one]; rfl
  have weights : s.checkWeights te = .ok () s := by rw [State.checkWeights, checked]; rfl
  unfold State.runMac
  rw [weights, one]
  dsimp only [Ran.bind]
  cases seen : ((s.eng te).ary k).seen with
  | false => simp [seen]
  | true =>
    simp [seen, first, State.onEng, Engine.onArys, Engine.withPipe, ArrayPipe.holding, Engine.macJob, idle k hk]

/-- The command starts on the tile it takes, which becomes active, if the tile is of its kind (R94). -/
theorem State.runStart_one {s : State} {te k : Nat} {e : Engine} {h : TileHdr} {sparse : Bool} {a : MmaArgs} {up : List ArrayUpset}
    {n : Nat} (t : WeightTile) :
    (s.setEng te (e.withPipe k ((e.ary k).holding (e.macJob k h sparse a up none)) n)).runStart te k (e.macJob k h sparse a up none) t =
      if t.sparse = sparse then
        .ok () (s.setEng te (e.withPipe k ((e.ary k).working t (e.macJob k h sparse a up (some t))) n))
      else .fault { checkStop te 0 5 with tag := some h.tag.toNat } []
        (s.setEng te (e.withPipe k ((e.ary k).holding (e.macJob k h sparse a up none)) n)) := by
  unfold State.runStart
  split
  · rename_i other
    rw [if_neg (by simpa [Engine.macJob] using other)]
    rfl
  · rename_i same
    rw [if_pos (by simpa [Engine.macJob] using same)]
    simp [State.onEng, Engine.onArys, ArrayPipe.holding, ArrayPipe.working, Engine.macJob]

/-! ## The passes of one vector -/

/-- Without upsets nothing strikes a pass. -/
theorem faultsAt_none {m : MacJob} (h : m.upsets = []) (j b : Nat) : m.faultsAt j b = [] := by rw [MacJob.faultsAt, h]; rfl

/-- A pass whose check finds a mismatch stops the engine with cause 0x1 (R116). -/
theorem macVector_mismatch {te : Nat} {m : MacJob} {j : Nat} {v : ActVector} {path : PassPath} {ovf : Bool} {b : Nat} {bs : List Nat}
    {t : WeightTile} {prev : List Val} {armed : Bool} {fx skipped : Nat} {residue : Bool} (up : m.upsets = [])
    (found : passCheck t v b path [] armed = .mismatch residue) :
    ∃ c, macVector te m j v path ovf (b :: bs) t prev armed fx skipped = .stop j (checkStop te j 1) (some c) skipped := by
  rw [macVector, faultsAt_none up]
  dsimp only [struck, List.foldl_nil]
  rw [found]
  exact ⟨_, rfl⟩

/-- A pass whose check is good or skipped leaves its sums to the next. -/
theorem macVector_pass {te : Nat} {m : MacJob} {j : Nat} {v : ActVector} {path : PassPath} {ovf : Bool} {b : Nat}
    {t : WeightTile} {armed : Bool} (up : m.upsets = []) (found : passCheck t v b path [] armed ∈ [PassCheck.skipped, PassCheck.good])
    (bs : List Nat) (prev : List Val) (fx skipped : Nat) :
    ∃ armed' skipped', (armed' = true → armed = true) ∧ macVector te m j v path ovf (b :: bs) t prev armed fx skipped =
      macVector te m j v path ovf bs t (passRow t v b path m.args.acct ovf [] prev).1 armed'
        (fx ||| (passRow t v b path m.args.acct ovf [] prev).2) skipped' := by
  rw [macVector, faultsAt_none up]
  dsimp only [struck, List.foldl_nil]
  simp only [List.mem_cons, List.not_mem_nil, or_false] at found
  rcases found with found | found <;> rw [found] <;>
    exact ⟨_, _, fun armed' => (Bool.and_eq_true_iff.1 armed').1, rfl⟩

/-- The blocks of a vector that a command multiplies (R93). -/
def macBlocks (sparse : Bool) : List Nat := if sparse then [0, 1] else [0]

/-- The sums and flags after the passes of a vector over the blocks of its command (R90, R93). -/
def macSums (t : WeightTile) (v : ActVector) (path : PassPath) (sparse int ovf : Bool) (prev : List Val) : List Val × Nat :=
  let r0 := passRow t v 0 path int ovf [] prev
  let r1 := passRow t v 1 path int ovf [] r0.1
  if sparse then (r1.1, r0.2 ||| r1.2) else r0

theorem macSums_dense (t : WeightTile) (v : ActVector) (path : PassPath) (int ovf : Bool) (prev : List Val) :
    macSums t v path false int ovf prev = passRow t v 0 path int ovf [] prev := by
  simp only [macSums, Bool.false_eq_true, if_false]

theorem macSums_sparse (t : WeightTile) (v : ActVector) (path : PassPath) (int ovf : Bool) (prev : List Val) :
    macSums t v path true int ovf prev = ((passRow t v 1 path int ovf [] (passRow t v 0 path int ovf [] prev).1).1,
      (passRow t v 0 path int ovf [] prev).2 ||| (passRow t v 1 path int ovf [] (passRow t v 0 path int ovf [] prev).1).2) := by
  simp only [macSums, if_true]

theorem macSums_sound (t : WeightTile) (v : ActVector) (path : PassPath) (sparse int ovf : Bool) (prev : List Val) :
    (macSums t v path sparse int ovf prev).1.length = 32 ∧ (macSums t v path sparse int ovf prev).2 < 256 := by
  obtain ⟨sums0, flags0⟩ := passRow_sums t v 0 path int ovf [] prev
  obtain ⟨sums1, flags1⟩ := passRow_sums t v 1 path int ovf [] (passRow t v 0 path int ovf [] prev).1
  cases sparse
  · rw [macSums_dense]
    exact ⟨sums0, flags0⟩
  · rw [macSums_sparse]
    exact ⟨sums1, fx_or_lt flags0 flags1⟩

/-- The bytes of an accumulator row. -/
def rowBytes (int : Bool) (sums : List Val) : List Byte :=
  (sums.map fun x => leBytes 4 ((if int then int32 else fp32).convert x 0 false).1).flatten

/-- A vector whose passes are all good or skipped leaves its row. -/
theorem macVector_passes {te : Nat} {m : MacJob} {j : Nat} {v : ActVector} {path : PassPath} {ovf : Bool} {t : WeightTile}
    (up : m.upsets = []) (found : ∀ b ∈ macBlocks m.sparse, ∀ armed, (armed = true → m.arm = true) →
      passCheck t v b path [] armed ∈ [PassCheck.skipped, PassCheck.good]) (prev : List Val) :
    ∃ armed skipped, macVector te m j v path ovf (macBlocks m.sparse) t prev m.arm 0 0 =
      .row j (rowBytes m.args.acct (macSums t v path m.sparse m.args.acct ovf prev).1)
        (macSums t v path m.sparse m.args.acct ovf prev).2 skipped armed t := by
  cases sparse : m.sparse with
  | false =>
    rw [sparse] at found
    obtain ⟨armed, skipped, -, first⟩ := macVector_pass (te := te) (j := j) (ovf := ovf) up (found 0 (by decide) m.arm id) [] prev 0 0
    refine ⟨armed, skipped, first.trans ?_⟩
    rw [macVector, Nat.zero_or, macSums_dense]
    rfl
  | true =>
    rw [sparse] at found
    obtain ⟨armed0, skipped0, still, first⟩ :=
      macVector_pass (te := te) (j := j) (ovf := ovf) up (found 0 (by decide) m.arm id) [1] prev 0 0
    obtain ⟨armed, skipped, -, second⟩ := macVector_pass (te := te) (j := j) (ovf := ovf) up (found 1 (by decide) armed0 still) []
      (passRow t v 0 path m.args.acct ovf [] prev).1 (0 ||| (passRow t v 0 path m.args.acct ovf [] prev).2) skipped0
    refine ⟨armed, skipped, first.trans (second.trans ?_)⟩
    rw [macVector, Nat.zero_or, macSums_sparse]
    rfl

/-! ## A round of one vector -/

/-- The sums that a vector's passes start from: 0 with INIT, else the row's (R90). -/
def State.macStart (s : State) (te : Nat) (m : MacJob) : List Val :=
  if m.args.init then List.replicate 32 (.fin false 0)
  else (List.range 32).map fun n =>
    (if m.args.acct then int32 else fp32).decode (fieldAt (s.bytes (engineAt te + s.rowAt te (m.row + m.done)) 128) (4 * n) 4)

theorem State.vectorOut_clean {s : State} {te j : Nat} {m : MacJob} {t : WeightTile} {v : ActVector} {path : PassPath} (ht : te < 64)
    (hc : s.EngineClean te) (row : m.row + m.done < s.accRows te) (takes : m.refuses t v = false)
    (hp : passPath t.fmt.toNat t.scale.toNat v.fmt.toNat v.scale.toNat = some path) :
    s.vectorOut te (j, m, t, v) =
      (macVector te m j v path (s.ovfNan te) (macBlocks m.sparse) t (s.macStart te m) m.arm 0 0, s) := by
  unfold State.vectorOut State.macStart
  dsimp only
  rw [takes, hp, if_neg Bool.false_ne_true]
  split
  · rfl
  · rw [State.engRead_clean ht hc (State.rowAt_fits row)]
    rfl

@[simp] theorem State.eng_count (s : State) (a : Nat) (f : Fld) (n k : Nat) : (s.count a f n).eng k = s.eng k := State.eng_setFld ..

theorem State.reg_count_other {s : State} {a b : Nat} {f : Fld} {n : Nat} (h : b ≠ a) : (s.count a f n).reg b = s.reg b := by
  rw [State.count, State.reg_setFld_other h]

/-- A vector that stops the engine: the cause, with the TAG of the command at work. -/
theorem State.takeRound_stop (s : State) (te j : Nat) (x : Stop) (chk : Option ChkFault) (skipped : Nat) :
    ∃ more s1, s.takeRound te [.stop j x chk skipped] = .fault { x with tag := some (s.macAt te j).1 } more s1 := by
  have tag : (s.count (Reg.TEN_CHK_SKIP te) Fld.TEN_CHK_SKIP_SKIPPED (skippedIn [.stop j x chk skipped])).macAt te j = s.macAt te j := by
    rw [State.macAt, State.eng_count, State.macAt]
  unfold State.takeRound
  dsimp only [State.roundStops, List.filterMap_cons, List.filterMap_nil, List.foldl_nil]
  rw [tag]
  exact ⟨_, _, rfl⟩

/-- `s` with the results of a round: the bytes at an offset of engine memory, the flags, and the passes that were not checked. -/
def State.withRow (s : State) (te off : Nat) (bytes : List Byte) (fx skipped : Nat) : State :=
  ((s.count (Reg.TEN_CHK_SKIP te) Fld.TEN_CHK_SKIP_SKIPPED skipped).store (engineAt te + off) bytes).addFx te fx

theorem State.withRow_mem (s : State) (te off : Nat) (bytes : List Byte) (fx skipped : Nat) :
    (s.withRow te off bytes fx skipped).mem = (s.store (engineAt te + off) bytes).mem := by
  simp only [State.withRow, State.addFx, State.setFld_mem, State.store, State.count_mem]

theorem State.withRow_eng (s : State) (te off : Nat) (bytes : List Byte) (fx skipped n : Nat) :
    (s.withRow te off bytes fx skipped).eng n = s.eng n := by
  rw [State.withRow, State.eng_addFx, State.eng_store, State.eng_count]

theorem State.withRow_reg (s : State) {te : Nat} (off : Nat) (bytes : List Byte) (fx skipped : Nat) {b : Nat} (hf : b ≠ Reg.TEN_FX te)
    (hs : b ≠ Reg.TEN_CHK_SKIP te) : (s.withRow te off bytes fx skipped).reg b = s.reg b := by
  rw [State.withRow, State.addFx, State.reg_setFld_other hf, State.reg_store, State.reg_count_other hs]

/-- TEN_FX holds the flags of R71. -/
theorem State.withRow_fx (s : State) (te off : Nat) (bytes : List Byte) {fx : Nat} (skipped : Nat) (h : fx < 256) :
    (s.withRow te off bytes fx skipped).fld (Reg.TEN_FX te) Fld.TEN_FX_FX = s.fld (Reg.TEN_FX te) Fld.TEN_FX_FX ||| fx := by
  have before : ((s.count (Reg.TEN_CHK_SKIP te) Fld.TEN_CHK_SKIP_SKIPPED skipped).store (engineAt te + off) bytes).reg (Reg.TEN_FX te) =
      s.reg (Reg.TEN_FX te) := by
    rw [State.reg_store, State.reg_count_other (by unfold Reg.TEN_FX Reg.TEN_CHK_SKIP; omega)]
  rw [State.withRow, State.addFx, State.fld_setFld_same ⟨by decide, by decide⟩, State.fld, State.fld, before]
  exact Nat.mod_eq_of_lt (fx_or_lt (Fld.get_lt ..) h)

/-- A vector that leaves its row: the row is written, the flags join, and the array has taken the vector. -/
theorem State.takeRound_row {s : State} {te j : Nat} {m : MacJob} {bytes : List Byte} (ht : te < 64) (hc : s.EngineClean te)
    (hm : ((s.eng te).ary j).macs = [m]) (fits : s.rowAt te (m.row + m.done) + bytes.length ≤ engineBytes) (fx skipped : Nat)
    (armed : Bool) (t : WeightTile) :
    s.takeRound te [.row j bytes fx skipped armed t] =
      .ok () ((s.withRow te (s.rowAt te (m.row + m.done)) bytes fx skipped).onEng te (·.tookVector j armed t)) := by
  have one : skippedIn [.row j bytes fx skipped armed t] = skipped := Nat.zero_add skipped
  have clean : (s.count (Reg.TEN_CHK_SKIP te) Fld.TEN_CHK_SKIP_SKIPPED skipped).EngineClean te :=
    .of_domains (fun d => State.reg_count_other (by unfold Reg.PWR_DOM Reg.TEN_CHK_SKIP; omega)) (State.count_erm ..)
      (State.count_sramDamage ..) hc
  have base : (s.count (Reg.TEN_CHK_SKIP te) Fld.TEN_CHK_SKIP_SKIPPED skipped).rowAt te (m.row + m.done) =
      s.rowAt te (m.row + m.done) := by
    rw [State.rowAt, State.fld, State.reg_count_other (by unfold Reg.TEN_ACC_CFG Reg.TEN_CHK_SKIP; omega), State.rowAt, State.fld]
  have pipe : (((s.count (Reg.TEN_CHK_SKIP te) Fld.TEN_CHK_SKIP_SKIPPED skipped).eng te).ary j).macs = [m] := by
    rw [State.eng_count, hm]
  unfold State.takeRound
  rw [one]
  dsimp only [State.roundStops, List.filterMap_cons, List.filterMap_nil, ranOver]
  rw [pipe]
  dsimp only
  rw [base, State.engWrite_clean ht clean fits]
  rfl

/-- An array that has taken the last vector of its only command holds none. -/
theorem Engine.tookVector_last {e : Engine} {j : Nat} {m : MacJob} (hm : (e.ary j).macs = [m]) (last : m.args.m.toNat ≤ m.done + 1)
    (armed : Bool) (t : WeightTile) :
    e.tookVector j armed t = e.setAry j { e.ary j with
      queue := (e.ary j).queue.tail, active := some t, macs := [], selfTest := (e.ary j).selfTest || armed } := by
  unfold Engine.tookVector Engine.onArys
  simp only [List.foldl_cons, List.foldl_nil, hm, Nat.ble_eq_true_of_le last, if_true]

end Sys2Proof.Machine
end

section
/-!
SUPPORT. A matrix command from its issue to its end: it is given to its array, it starts on a tile, and it takes a vector.
-/

namespace Sys2Proof.Machine

/-- `s` with the command waiting in array `k`. -/
def State.macIssued (s : State) (te k : Nat) (h : TileHdr) (sparse : Bool) (a : MmaArgs) (up : List ArrayUpset) : State :=
  s.setEng te ((s.eng te).withPipe k (((s.eng te).ary k).holding ((s.eng te).macJob k h sparse a up none)) ((s.eng te).issued + 1))

/-- `s` with the command at work in array `k` on the tile `t`. -/
def State.macStarted (s : State) (te k : Nat) (h : TileHdr) (sparse : Bool) (a : MmaArgs) (up : List ArrayUpset) (t : WeightTile) :
    State :=
  s.setEng te ((s.eng te).withPipe k (((s.eng te).ary k).working t ((s.eng te).macJob k h sparse a up (some t)))
    ((s.eng te).issued + 1))

section

variable {s : State} {te k : Nat} {h : TileHdr} {sparse : Bool} {a : MmaArgs} {up : List ArrayUpset} {t : WeightTile}

@[simp] theorem State.macIssued_eng : (s.macIssued te k h sparse a up).eng te =
    (s.eng te).withPipe k (((s.eng te).ary k).holding ((s.eng te).macJob k h sparse a up none)) ((s.eng te).issued + 1) :=
  State.eng_setEng_same ..

@[simp] theorem State.macStarted_eng : (s.macStarted te k h sparse a up t).eng te =
    (s.eng te).withPipe k (((s.eng te).ary k).working t ((s.eng te).macJob k h sparse a up (some t))) ((s.eng te).issued + 1) :=
  State.eng_setEng_same ..

/-! ## The start -/

/-- The units begin with the start of the command on the tile it takes. -/
theorem State.macIssued_unitsGo (quiet : (s.eng te).quiet = true) (hk : k < 4)
    (takes : ((s.eng te).ary k).takes = some t) :
    ∃ n, (s.macIssued te k h sparse a up).unitsGo te =
      ((s.macIssued te k h sparse a up).runStart te k ((s.eng te).macJob k h sparse a up none) t).bind
        fun _ s1 => s1.goUnits te (n + 1) := by
  have only := Engine.onlyMacs_withPipe quiet hk (((s.eng te).ary k).holding ((s.eng te).macJob k h sparse a up none))
    ((s.eng te).issued + 1)
  have more := only.toDo_gt hk
  rw [Engine.ary_withPipe, ← State.macIssued_eng] at more
  rw [← State.macIssued_eng] at only
  have start : ((s.macIssued te k h sparse a up).eng te).nextStart = some (k, (s.eng te).macJob k h sparse a up none, t) := by
    refine (only.nextStart hk (ms := []) (by rw [State.macIssued_eng, Engine.ary_withPipe]; rfl)).trans ?_
    rw [State.macIssued_eng, Engine.ary_withPipe]
    unfold ArrayPipe.takes at takes
    simp [Engine.macJob, ArrayPipe.holding, takes]
  obtain ⟨n, fuel⟩ : ∃ n, ((s.macIssued te k h sparse a up).eng te).toDo = n + 1 + 1 :=
    ⟨_, (Nat.sub_add_cancel (Nat.lt_of_le_of_lt (Nat.le_add_left 1 _) more)).symm⟩
  exact ⟨n, by rw [State.unitsGo, fuel, State.goUnits_some (State.unitStep_start only start)]⟩

/-- A tile of the command's kind becomes active, and the units go on. -/
theorem State.macIssued_starts (quiet : (s.eng te).quiet = true) (hk : k < 4)
    (takes : ((s.eng te).ary k).takes = some t)
    (kind : t.sparse = sparse) :
    ∃ n, (s.macIssued te k h sparse a up).unitsGo te = (s.macStarted te k h sparse a up t).goUnits te (n + 1) := by
  obtain ⟨n, go⟩ := State.macIssued_unitsGo (h := h) (sparse := sparse) (a := a) (up := up) quiet hk takes
  exact ⟨n, by rw [go, State.macIssued, State.runStart_one, if_pos kind]; rfl⟩

/-- A tile of the other kind stops the engine (R94). -/
theorem State.macIssued_refuses (quiet : (s.eng te).quiet = true) (hk : k < 4)
    (takes : ((s.eng te).ary k).takes = some t)
    (kind : t.sparse ≠ sparse) :
    ∃ s1, (s.macIssued te k h sparse a up).unitsGo te = .fault { checkStop te 0 5 with tag := some h.tag.toNat } [] s1 := by
  obtain ⟨n, go⟩ := State.macIssued_unitsGo (h := h) (sparse := sparse) (a := a) (up := up) quiet hk takes
  exact ⟨_, by rw [go, State.macIssued, State.runStart_one, if_neg kind]; rfl⟩

/-! ## At work -/

theorem State.macStarted_only (quiet : (s.eng te).quiet = true) (hk : k < 4) :
    ((s.macStarted te k h sparse a up t).eng te).OnlyMacs k ∧ ((s.macStarted te k h sparse a up t).eng te).nextStart = none ∧
      ((s.macStarted te k h sparse a up t).eng te).ready =
        ((s.eng te).ary k).queue.head?.toList.map fun v => (k, (s.eng te).macJob k h sparse a up (some t), t, v) := by
  have only := Engine.onlyMacs_withPipe quiet hk (((s.eng te).ary k).working t ((s.eng te).macJob k h sparse a up (some t)))
    ((s.eng te).issued + 1)
  have pipe := Engine.ary_withPipe (s.eng te) k (((s.eng te).ary k).working t ((s.eng te).macJob k h sparse a up (some t)))
    ((s.eng te).issued + 1)
  have macs := congrArg ArrayPipe.macs pipe
  rw [State.macStarted_eng]
  exact ⟨only, only.nextStart hk macs, (only.ready hk macs rfl).trans (by rw [pipe]; rfl)⟩

/-- With an empty queue the command waits (R89). -/
theorem State.macStarted_waits (quiet : (s.eng te).quiet = true) (hk : k < 4) (empty : ((s.eng te).ary k).queue = []) (fuel : Nat) :
    (s.macStarted te k h sparse a up t).goUnits te fuel = .ok () (s.macStarted te k h sparse a up t) := by
  obtain ⟨only, started, ready⟩ := State.macStarted_only (h := h) (sparse := sparse) (a := a) (up := up) (t := t) quiet hk
  rw [empty] at ready
  exact State.goUnits_none (State.unitStep_none only started ready) fuel

/-- The passes of the vector at the head of the queue, from the sums that the command starts with. -/
theorem State.macStarted_vectorOut {v : ActVector} {path : PassPath} (ht : te < 64) (clean : s.EngineClean te)
    (row : a.acc.toNat < s.accRows te) (accepts : ((s.eng te).macJob k h sparse a up (some t)).refuses t v = false)
    (hp : passPath t.fmt.toNat t.scale.toNat v.fmt.toNat v.scale.toNat = some path) :
    (s.macStarted te k h sparse a up t).vectorOut te (k, (s.eng te).macJob k h sparse a up (some t), t, v) =
      (macVector te ((s.eng te).macJob k h sparse a up (some t)) k v path (s.ovfNan te) (macBlocks sparse) t
        (s.macStart te ((s.eng te).macJob k h sparse a up (some t))) ((s.eng te).ary k).selfTest 0 0,
        s.macStarted te k h sparse a up t) :=
  State.vectorOut_clean (s := s.macStarted te k h sparse a up t) ht (State.EngineClean.congr rfl rfl rfl clean) row accepts hp

/-- A first pass whose check finds a mismatch stops the engine (R116). -/
theorem State.macStarted_mismatch {v : ActVector} {vs : List ActVector} {path : PassPath} (ht : te < 64) (clean : s.EngineClean te)
    (quiet : (s.eng te).quiet = true) (hk : k < 4) (row : a.acc.toNat < s.accRows te)
    (queue : ((s.eng te).ary k).queue = v :: vs) (accepts : ((s.eng te).macJob k h sparse a [] (some t)).refuses t v = false)
    (hp : passPath t.fmt.toNat t.scale.toNat v.fmt.toNat v.scale.toNat = some path) {residue : Bool}
    (found : passCheck t v 0 path [] ((s.eng te).ary k).selfTest = .mismatch residue) (fuel : Nat) :
    ∃ more s1, (s.macStarted te k h sparse a [] t).goUnits te (fuel + 1) =
      .fault { checkStop te k 1 with tag := some h.tag.toNat } more s1 := by
  obtain ⟨only, started, ready⟩ := State.macStarted_only (h := h) (sparse := sparse) (a := a) (up := []) (t := t) quiet hk
  rw [queue] at ready
  have stop : ∃ c, macVector te ((s.eng te).macJob k h sparse a [] (some t)) k v path (s.ovfNan te) (macBlocks sparse) t
      (s.macStart te ((s.eng te).macJob k h sparse a [] (some t))) ((s.eng te).ary k).selfTest 0 0 =
        .stop k (checkStop te k 1) (some c) 0 := by
    cases sparse <;> exact macVector_mismatch rfl found
  obtain ⟨c, stop⟩ := stop
  obtain ⟨more, s1, round⟩ := State.takeRound_stop (s.macStarted te k h sparse a [] t) te k (checkStop te k 1) (some c) 0
  have tag : ((s.macStarted te k h sparse a [] t).macAt te k).1 = h.tag.toNat := by
    rw [State.macAt, State.macStarted_eng, Engine.ary_withPipe]
    rfl
  refine ⟨more, s1, ?_⟩
  rw [State.goUnits_some (State.unitStep_round only started ready), State.macStarted_vectorOut ht clean row accepts hp, stop, round, tag]
  rfl

/-- A vector whose passes are good or skipped (R89, R90): the row holds the sums, the vector has left the queue, the flags join
TEN_FX, and the skipped passes are counted. -/
theorem State.macStarted_passes {v : ActVector} {vs : List ActVector} {path : PassPath} (ht : te < 64) (clean : s.EngineClean te)
    (quiet : (s.eng te).quiet = true) (hk : k < 4) (row : a.acc.toNat < s.accRows te) (last : a.m.toNat = 1)
    (queue : ((s.eng te).ary k).queue = v :: vs) (accepts : ((s.eng te).macJob k h sparse a [] (some t)).refuses t v = false)
    (hp : passPath t.fmt.toNat t.scale.toNat v.fmt.toNat v.scale.toNat = some path)
    (found : ∀ b ∈ macBlocks sparse, ∀ armed, (armed = true → ((s.eng te).ary k).selfTest = true) →
      passCheck t v b path [] armed ∈ [PassCheck.skipped, PassCheck.good]) (fuel : Nat) :
    let r := macSums t v path sparse a.acct (s.ovfNan te) (s.macStart te ((s.eng te).macJob k h sparse a [] (some t)))
    ∃ u : State, (s.macStarted te k h sparse a [] t).goUnits te (fuel + 1) = .ok () u ∧
      u.mem = (s.store (engineAt te + s.rowAt te a.acc.toNat) (rowBytes a.acct r.1)).mem ∧
      u.fld (Reg.TEN_FX te) Fld.TEN_FX_FX = s.fld (Reg.TEN_FX te) Fld.TEN_FX_FX ||| r.2 ∧
      (∀ b, b ≠ Reg.TEN_FX te → b ≠ Reg.TEN_CHK_SKIP te → u.reg b = s.reg b) ∧
      (∀ n : Fin 64, n ≠ te → u.eng n = s.eng n) ∧
      ∃ armed, u.eng te = (s.eng te).withPipe k { ((s.eng te).ary k).working t ((s.eng te).macJob k h sparse a [] (some t)) with
        queue := vs, macs := [], selfTest := armed } ((s.eng te).issued + 1) := by
  intro r
  obtain ⟨only, started, ready⟩ := State.macStarted_only (h := h) (sparse := sparse) (a := a) (up := []) (t := t) quiet hk
  rw [queue] at ready
  obtain ⟨armed, skipped, out⟩ := macVector_passes (te := te) (m := (s.eng te).macJob k h sparse a [] (some t)) (j := k)
    (ovf := s.ovfNan te) rfl found (s.macStart te ((s.eng te).macJob k h sparse a [] (some t)))
  obtain ⟨sums, flags⟩ := macSums_sound t v path sparse a.acct (s.ovfNan te)
    (s.macStart te ((s.eng te).macJob k h sparse a [] (some t)))
  obtain ⟨u, hu⟩ : ∃ u, u = ((s.macStarted te k h sparse a [] t).withRow te (s.rowAt te a.acc.toNat) (rowBytes a.acct r.1) r.2
    skipped).onEng te (·.tookVector k armed t) := ⟨_, rfl⟩
  have macs : (((s.macStarted te k h sparse a [] t).eng te).ary k).macs = [(s.eng te).macJob k h sparse a [] (some t)] := by
    rw [State.macStarted_eng, Engine.ary_withPipe]
    rfl
  have round := State.takeRound_row (bytes := rowBytes a.acct r.1) ht
    (State.EngineClean.congr (t := s.macStarted te k h sparse a [] t) rfl rfl rfl clean) macs
    (by rw [rowBytes, length_flatten_words, sums]; exact State.rowAt_fits row) r.2 skipped armed t
  have step : (s.macStarted te k h sparse a [] t).unitStep te = some (.ok () u) := by
    rw [hu, State.unitStep_round only started ready, State.macStarted_vectorOut ht clean row accepts hp]
    exact congrArg some ((congrArg (fun o => State.takeRound _ te [o]) out).trans round)
  have eng : u.eng te = (s.eng te).withPipe k { ((s.eng te).ary k).working t ((s.eng te).macJob k h sparse a [] (some t)) with
      queue := vs, macs := [], selfTest := armed } ((s.eng te).issued + 1) := by
    rw [hu, State.onEng, State.eng_setEng_same, State.withRow_eng, Engine.tookVector_last macs last.le, State.macStarted_eng,
      Engine.ary_withPipe, Engine.setAry_withPipe]
    simp only [ArrayPipe.working, queue, List.tail_cons, Bool.false_or]
  have done : u.goUnits te fuel = .ok () u :=
    State.goUnits_none (State.unitStep_idle (Engine.quiet_parts (eng ▸ Engine.quiet_withPipe quiet hk rfl _))) fuel
  refine ⟨u, ?_, ?_, ?_, fun b fx skip => ?_, fun n hn => ?_, armed, eng⟩
  · rw [State.goUnits_some step]
    exact done
  · simp only [hu, State.onEng, State.setEng_mem, State.withRow_mem, State.store, State.macStarted]
  · rw [hu, State.onEng, State.fld_setEng, State.withRow_fx _ _ _ _ _ flags, State.macStarted, State.fld_setEng]
  · rw [hu, State.onEng, State.reg_setEng, State.withRow_reg _ _ _ _ _ fx skip, State.macStarted, State.reg_setEng]
  · have other : n.val % 64 ≠ te % 64 := by omega
    rw [hu, State.onEng, State.eng_setEng_other other, State.withRow_eng, State.macStarted, State.eng_setEng_other other]

end

end Sys2Proof.Machine
end

section
open Sys2Proof Sys2Proof.Machine

/-- Settles O25: the array takes the command, which stops for want of a tile, starts on the one it takes, waits, or takes its vector. -/
theorem matrixCommands : Obligations.MatrixCommands := by
  intro s te h sparse a up k may checked one i e p stops
  obtain ⟨⟨-, -, quiet, clean⟩, valid, rows⟩ := id may
  have hk : k < 4 := arraysOf_lt (one ▸ List.mem_singleton.2 rfl)
  have hi : i.tileOf = some (te, h, up, .mac sparse a) := by cases sparse <;> rfl
  have run := State.runMac_one (h := h) (sparse := sparse) (a := a) (up := up) quiet checked one
  refine ⟨fun seen _ => ?_, fun t seen takes => ?_⟩
  · rw [seen] at run
    have faults : ((s.runTile te h up (.mac sparse a)).bind fun _ t => t.unitsGo te) = faultAs te 5 0 s := by
      rw [State.runTile, run]
      rfl
    exact exec_tileOf_faultAs hi may faults (by decide)
  rw [seen] at run
  have go : ((s.runTile te h up (.mac sparse a)).bind fun _ t => t.unitsGo te) = (s.macIssued te k h sparse a up).unitsGo te := by
    rw [State.runTile, run]
    rfl
  split
  · rename_i kind
    intro job started
    obtain ⟨n, units⟩ := State.macIssued_starts (h := h) (a := a) (up := up) quiet hk takes kind
    refine ⟨fun empty => ?_, fun v vs path queue last noUpset accepts hp => ?_⟩
    · exact exec_tileOf_starts hi may run (units.trans (State.macStarted_waits quiet hk empty _)) fun _ _ => TileOp.noConfusion
    subst noUpset
    have row : a.acc.toNat < s.accRows te := by
      have := rows _ rfl
      dsimp only at this
      omega
    refine ⟨fun residue found _ => ?_, fun found => ?_⟩
    · obtain ⟨more, s1, fault⟩ := State.macStarted_mismatch te.isLt clean quiet hk row queue accepts hp found n
      exact exec_tileOf_stops hi may (go.trans (units.trans fault)) (by decide : 1 < 16) rfl
    · obtain ⟨u, ends, mem, fx, regs, engs, armed, eng⟩ :=
        State.macStarted_passes te.isLt clean quiet hk row last queue accepts hp found n
      have quiet' : (u.eng te).quiet = true := eng ▸ Engine.quiet_withPipe quiet hk rfl _
      have pipe := congrArg (Engine.ary · k) eng
      rw [Engine.ary_withPipe] at pipe
      exact ⟨u, exec_tileOf_starts hi may run (units.trans ends) fun _ _ => TileOp.noConfusion, mem, fx, regs,
        fun n hn => engs n fun e => hn (Fin.ext e), quiet', congrArg ArrayPipe.queue pipe, congrArg ArrayPipe.active pipe,
        (congrArg ArrayPipe.shadow pipe).trans rfl⟩
  · rename_i kind
    intro _
    obtain ⟨s1, fault⟩ := State.macIssued_refuses (h := h) (a := a) (up := up) quiet hk takes kind
    exact exec_tileOf_stops hi may (go.trans fault) (by decide : 5 < 16) rfl

end

section
/-!
SUPPORT. Who may write a register, by its address alone: the rule of its block, which is what the block's check admits and what the
rows that write a register state.
-/

namespace Sys2Proof.Machine

/-- Whom a block permits a register write: anyone; the cluster core of a cluster; that core or Miller; an application core or
Miller; W = 1; a Heath core; an application core with W = 1; W = 1 for a secure-controlled power domain or clock; for the log, an
application core or W = 1; an application core. -/
inductive WriteRule where
  | anyone
  | cluster (c : Nat)
  | clusterOrMiller (c : Nat)
  | acOrMiller
  | secure
  | heath
  | acSecure
  | domain (d : Nat)
  | clock (a : Nat)
  | acOrSecure
  | ac
  deriving DecidableEq

/-- The rule permits the request. -/
def WriteRule.admits (s : State) (req : Req) : WriteRule → Bool
  | .anyone => true
  | .cluster c => match req.ini with
    | .clusterCore k => Nat.beq k c
    | _ => false
  | .clusterOrMiller c => match req.ini with
    | .clusterCore k => Nat.beq k c
    | .miller => true
    | _ => false
  | .acOrMiller => fromAc req || decide (req.ini = .miller)
  | .secure => req.w
  | .heath => fromHc req
  | .acSecure => fromAc req && req.w
  | .domain d => req.w || !(s.domainSecure d)
  | .clock a => req.w || (match Config.clockControl (a - 0x1A020000) with | some d => !(s.clockSecure d.val) | none => true)
  | .acOrSecure => fromAc req || req.w
  | .ac => fromAc req

/-- The rule for writes of the register at `a`, by its block. -/
def writeRule (a : Nat) : WriteRule :=
  let n := a / 0x10000
  if inRange a 0x10100000 0x10180000 then
    if Nat.beq (a % 0x2000) 0x50 || Nat.beq (a % 0x2000) 0x54 then .clusterOrMiller (n - 0x1010) else .cluster (n - 0x1010)
  else if Nat.beq n 0x1000 then .acOrMiller
  else if Nat.beq n 0x110A || Nat.beq n 0x1700 || inRange n 0x1500 0x1504 then .secure
  else if Nat.beq n 0x2000 then .heath
  else if Nat.beq n 0x2001 then .heath
  else if inRange n 0x1818 0x181C then .heath
  else if inRange n 0x1900 0x1902 then if inRange a 0x19000800 0x19000880 then .anyone else .secure
  else if Nat.beq n 0x1A01 then .secure
  else if Nat.beq n 0x1A00 then
    if inRange a (Reg.PWR_SHOLD 0) (Reg.PWR_SHOLD 2) then .acSecure
    else if inRange a (Reg.PWR_HHOLD 0) (Reg.PWR_HHOLD 2) then .heath
    else if Nat.beq a Reg.PWR_WARM then .secure
    else if Nat.blt a (Reg.PWR_DOM 41) then .domain ((a - Reg.PWR_DOM 0) / 4)
    else .anyone
  else if Nat.beq n 0x1A02 then if Nat.beq a Reg.CLK_MON then .anyone else .clock a
  else if Nat.beq n 0x1B00 then
    if Nat.beq a Reg.BOOT_LCS || Nat.beq a Reg.BOOT_HARTREL || Nat.beq a Reg.BOOT_KEYREV || Nat.beq a Reg.BOOT_ARB_COMMIT then .secure
    else .anyone
  else if Nat.beq n 0x1B01 then if Nat.beq a Reg.FWL_LOG_CFG then .acOrSecure else .ac
  else .anyone

/-- A block's check of a write is its rule. -/
theorem State.regAdmits_write (s : State) (req : Req) (a : Nat) : s.regAdmits req true a = (writeRule a).admits s req := by
  have weir : (req.w || inRange a 0x19000800 0x19000880) = if inRange a 0x19000800 0x19000880 then true else req.w := by
    cases req.w <;> cases inRange a 0x19000800 0x19000880 <;> rfl
  have clock (x : Bool) : (req.w || Nat.beq a Reg.CLK_MON || x) = if Nat.beq a Reg.CLK_MON then true else req.w || x := by
    cases req.w <;> cases Nat.beq a Reg.CLK_MON <;> rfl
  have boot (b : Bool) : (req.w || !b) = if b then req.w else true := by cases req.w <;> cases b <;> rfl
  have log (b : Bool) : (fromAc req || b && req.w) = if b then fromAc req || req.w else fromAc req := by
    cases b <;> simp
  unfold State.regAdmits writeRule
  simp only [apply_ite (WriteRule.admits s req), Bool.not_true, Bool.false_or, if_true, Bool.false_eq_true, if_false]
  congr 1
  · cases Nat.beq (a % 0x2000) 0x50 || Nat.beq (a % 0x2000) 0x54 <;> cases initiator : req.ini <;>
      simp [WriteRule.admits, initiator]
  · cases control : Config.clockControl (a - 0x1A020000) <;> simp only [WriteRule.admits, control, weir, clock, boot, log]

theorem writeRule_ERM_SRC (n : Fin 256) : .heath = writeRule (Reg.ERM_SRC n) ∧ Reg.ERM_SRC n % 4 = 0 := by
  unfold Reg.ERM_SRC
  refine ⟨?_, by omega⟩
  simp (disch := omega) only [writeRule, inRange, Bool.and_eq_true, Bool.or_eq_true, Nat.ble_eq, Nat.blt_eq, Nat.beq_eq,
    if_pos, if_neg]

/-- A row that writes a register names a whole word, and states whom the register's block permits. -/
theorem writeOf_permits {i : Instr} {req' : Req} {a : Nat} {w : Word} (s : State) (req : Req) (h : i.writeOf = some (req', a, w)) :
    a % 4 = 0 ∧ i.mayWrite s req = (writeRule a).admits s req := by
  have rule {b : Nat} (r : WriteRule) (e : r = writeRule b ∧ b % 4 = 0) : b % 4 = 0 ∧ r.admits s req = (writeRule b).admits s req :=
    ⟨e.2, congrArg _ e.1⟩
  have can (n : Nat) : (Nat.blt n 8 || fromHc req) = (if Nat.blt n 8 then WriteRule.anyone else .heath).admits s req := by
    cases Nat.blt n 8 <;> rfl
  cases i with
  | tenEnable te _ _ | tenHalt te _ _ | tenReset te _ _ | tenCqTailWrite te _ _ | tenWdtWrite te _ _ =>
    cases h; exact rule (.cluster (te.val / 8)) (by decide +revert)
  | tcxGo _ _ => cases h; exact rule .acOrMiller (by decide)
  | guardFence _ _ _ | wlock _ _ _ | ownershipWrite _ _ _ | pairReset _ _ _ => cases h; exact rule .secure (by decide +revert)
  | secureFail _ _ | surgeRequest _ _ | surgeDisWrite _ _ | pwrWarmGo _ _ | hartRelease _ _ | lifecycleAdvance _ _ | keyRevoke _ _
  | arbCommit _ _ => cases h; exact rule .secure (by decide)
  | ermPop _ _ | faultClr _ _ | safeLevelWrite _ _ => cases h; exact rule .heath (by decide)
  | ermDone src _ _ => cases h; exact rule .heath (writeRule_ERM_SRC src)
  | hholdWrite _ _ _ => cases h; exact rule .heath (by decide +revert)
  | canEnable n _ _ | canTxDoorbell n _ _ => cases h; rw [Instr.mayWrite, can]; exact rule _ (by decide +revert)
  | sholdWrite _ _ _ => cases h; exact rule .acSecure (by decide +revert)
  | domainOffRequest d _ _ | domainOnRequest d _ _ | domainReset d _ _ => cases h; exact rule (.domain d) (by decide +revert)
  | fwlEnable _ _ => cases h; exact rule .acOrSecure (by decide)
  | dbSqTailWrite _ _ _ _ | dbCqHeadWrite _ _ _ | streamEnable _ _ _ | streamDisable _ _ _ | streamBufTailWrite _ _ _
  | fusBufTailWrite _ _ _ | rangePassStart _ _ _ | rangePassAbort _ _ _ | markClear _ _ _ | gqEnable _ _ _ | gqDisable _ _ _
  | gqDoorbell _ _ _ | headEnable _ _ _ | headDisable _ _ _ | flipDoorbell _ _ _ | semAcquire _ _ _ | semRelease _ _ _ | semGo _ _ _
  | hifTxDoorbell _ _ _ | hifRxDoorbell _ _ _ | gateListClear _ _ _ | pcieEnable _ _ _ | audioEnable _ _ _ | audioBufTailWrite _ _ _ =>
    cases h; exact rule .anyone (by decide +revert)
  | tmbIncrCommit _ _ | tmbAdjRelative _ _ | tmbAdjAbsolute _ _ | tmbSourceChange _ _ | servoEnable _ _ | timetableSwapRequest _ _
  | timetableEnable _ _ | fusionSwapRequest _ _ | fusionRephase _ _ | slcFlush _ _ | depthHoldWrite _ _ | wheelSwapRequest _ _
  | hifEnable _ _ | hifDisable _ _ | xspiDoorbell _ _ => cases h; exact rule .anyone (by decide)
  | _ => cases h

/-- What the checks answer to a 32-bit access of a register whose unit answers: what the block's own check says. -/
theorem State.regCheck_answers {s : State} {req : Req} {ty : AccType} {a : Nat} {u : UnitId} (hp : s.place a = .register)
    (hd : req.ini = .debugModule → s.debugOn = true) (hu : unitOfReg a = some u) (hon : s.domainOn (domainOf u) = true)
    (hiso : s.isIsolated u = false) (hw : s.ownedSecure u = true → req.w = true) (aligned : a % 4 = 0) :
    (s.regCheck req ty a 4).1 = if s.regAdmits req (decide (ty = .write)) a then .okay else .guard := by
  have hdbg : (decide (req.ini = .debugModule) && !s.debugOn) = false := by
    by_cases h : req.ini = .debugModule <;> simp [h, hd]
  have hsec : (s.ownedSecure u && !req.w) = false := by
    cases h : s.ownedSecure u <;> simp [hw, h]
  unfold State.regCheck
  simp only [hdbg, hp, hu, hon, hiso, hsec, aligned, Nat.beq_refl, Bool.not_true, Bool.or_self, Bool.and_self, Bool.false_eq_true, if_false,
    if_true]
  cases s.regAdmits req (decide (ty = .write)) a <;> rfl

end Sys2Proof.Machine
end

section
open Sys2Proof Sys2Proof.Machine

/-- Settles O5: the unit answers, so the block's own check decides, which is the rule that the row states. -/
theorem registerRowsByWriter : Obligations.RegisterRowsByWriter := by
  intro i s req a w h straight answers
  obtain ⟨slot, row⟩ := exec_writeOf s h
  obtain ⟨hdbg, u, hu, hon, hiso, hw⟩ := answers
  obtain ⟨aligned, permits⟩ := writeOf_permits s (s.issued req) h
  have hp := (s.relabel req).place_inSlot slot
  have check : ((s.relabel req).regCheck (s.issued req) .write a 4).1 = if i.mayWrite s (s.issued req) then .okay else .guard := by
    rw [State.regCheck_answers hp (by rw [s.issued_debugModule req, s.debugOn_relabel req]; exact hdbg) hu (by simpa using hon)
      (by simpa using hiso) (by simpa using hw) aligned, s.regAdmits_relabel req, permits, ← State.regAdmits_write]
    rfl
  split
  · rw [if_pos ‹_›] at check
    exact ⟨_, row.trans (congrArg _ (State.busWrite_okay straight check)), rfl⟩
  · rw [if_neg ‹_›] at check
    rw [row, State.busWrite_refused straight hp (by rw [check]; exact Resp.noConfusion), check]
    rfl

end

section
/-!
SUPPORT. Log records, accesses and an ending job leave the engines: what they change beside registers and memory.
-/

namespace Sys2Proof.Machine

/-! ## A log record (R484) -/

/-- `s` after SEQ has counted a record. -/
def State.nextSeq (s : State) : State := { s with fwlSeq := s.fwlSeq + 1 }

/-- What becomes of a record: a trace record whose point is off is not produced; any other takes the next SEQ and is filtered, or lost
and counted, or written before TAIL advances. -/
theorem State.log_cases (s : State) (r : LogRecord) : (r.trace = true ∧ s.log r = s) ∨ s.log r = s.nextSeq ∨
    s.log r = s.nextSeq.count Reg.FWL_LOG_LOST Fld.FWL_LOG_LOST_LOST 1 ∨
      ∃ req a bs v, s.log r = (s.nextSeq.put req a bs).2.setFld Reg.FWL_LOG_TAIL Fld.FWL_LOG_TAIL_TAIL v := by
  unfold State.log
  split
  · rename_i off
    exact .inl ⟨(Bool.and_eq_true_iff.1 off).1, rfl⟩
  · dsimp only
    split
    · exact .inr (.inl rfl)
    · split
      · exact .inr (.inr (.inl rfl))
      · exact .inr (.inr (.inr ⟨_, _, _, _, rfl⟩))

/-- A record that is no trace takes the next SEQ. -/
theorem State.fwlSeq_log (s : State) {r : LogRecord} (h : r.trace = false) : (s.log r).fwlSeq = s.fwlSeq + 1 := by
  rcases s.log_cases r with ⟨trace, -⟩ | e | e | ⟨req, a, bs, v, e⟩
  · rw [h] at trace
    exact nomatch trace
  · rw [e, State.nextSeq]
  · rw [e, State.count_fwlSeq, State.nextSeq]
  · rw [e, State.setFld_fwlSeq, (AccessOnly.put ..).eq State.fwlSeq fun _ => rfl, State.nextSeq]

@[simp] theorem State.engines_log (s : State) (r : LogRecord) : (s.log r).engines = s.engines := by
  rcases s.log_cases r with ⟨-, e⟩ | e | e | ⟨req, a, bs, v, e⟩
  · rw [e]
  · rw [e, State.nextSeq]
  · rw [e, State.count_engines, State.nextSeq]
  · rw [e, State.setFld_engines, (AccessOnly.put ..).eq State.engines fun _ => rfl, State.nextSeq]

@[simp] theorem State.sems_log (s : State) (r : LogRecord) : (s.log r).sems = s.sems := by
  rcases s.log_cases r with ⟨-, e⟩ | e | e | ⟨req, a, bs, v, e⟩
  · rw [e]
  · rw [e, State.nextSeq]
  · rw [e, State.count_sems, State.nextSeq]
  · rw [e, State.setFld_sems, (AccessOnly.put ..).eq State.sems fun _ => rfl, State.nextSeq]

/-- A log record takes no error record away. -/
theorem State.errs_log {s : State} {x : LogRecord} {r : ErrRecord} (h : r ∈ s.errs) : r ∈ (s.log x).errs := by
  rcases s.log_cases x with ⟨-, e⟩ | e | e | ⟨req, a, bs, v, e⟩
  · rwa [e]
  · rwa [e, State.nextSeq]
  · rwa [e, State.count_errs, State.nextSeq]
  · obtain ⟨-, -, errs⟩ := AccessOnly.put s.nextSeq req a bs
    rw [e, State.setFld_errs]
    exact errs r h

theorem State.eng_congr {s : State} {m n : Nat} (h : m % 64 = n % 64) : s.eng m = s.eng n := by
  unfold State.eng
  simp only [Fin.getElem_fin, Fin.val_ofNat, h]

/-! ## The end of a job -/

/-- `t` has the engines of `s`. -/
def SameEngines (s t : State) : Prop := t.engines = s.engines

namespace SameEngines

variable {s t u : State}

protected theorem rfl : SameEngines s s := Eq.refl _

theorem trans (h1 : SameEngines s t) (h2 : SameEngines t u) : SameEngines s u := Eq.trans h2 h1

theorem of_access (h : AccessOnly s t) : SameEngines s t := h.eq State.engines fun _ => Eq.refl _

theorem snd {α : Type} {r : α × State} {x : α} (h : SameEngines s r.2) (e : r = (x, t)) : SameEngines s t := by
  subst e; exact h

theorem ite (b : Bool) (ht : SameEngines s t) (hu : SameEngines s u) : SameEngines s (if b then t else u) := by
  cases b <;> assumption

theorem foldl {α : Type} {f : State → α → State} (h : ∀ s x, SameEngines s (f s x)) (xs : List α) (s : State) :
    SameEngines s (xs.foldl f s) := by
  induction xs generalizing s with
  | nil => exact .rfl
  | cons x xs ih => exact (h s x).trans (ih _)

theorem eng (h : SameEngines s t) (n : Nat) : t.eng n = s.eng n := by rw [State.eng, h, State.eng]

theorem setFld (s : State) (a : Nat) (f : Fld) (v : Nat) : SameEngines s (s.setFld a f v) := Eq.refl _

theorem setCtx (s : State) (n : Nat) (c : Ctx) : SameEngines s (s.setCtx n c) := Eq.refl _

theorem halt (s : State) (n : Nat) : SameEngines s (s.halt n) := by
  have post (u : State) (c : Nat) : SameEngines u (u.postEvent c n) := by
    unfold State.postEvent
    split <;> exact Eq.refl _
  unfold State.halt
  exact .ite _ (post (s.setStatus n .halted) _) .rfl

theorem cqWrite (s : State) (n : Nat) (e : CqEntry) : SameEngines s (s.cqWrite n e).2 := by
  unfold State.cqWrite State.cqPut
  dsimp only
  split
  · rename_i put
    have written : SameEngines s _ := .of_access (AccessOnly.snd (AccessOnly.put ..) put)
    exact written.trans (setFld ..)
  · rename_i put
    have written : SameEngines s _ := .of_access (AccessOnly.snd (AccessOnly.put ..) put)
    exact written.trans (halt ..)

theorem endEntry (s : State) (n r : Nat) (h : HeldEntry) (e : Ending) : SameEngines s (s.endEntry n r h e) := by
  have msi (b : Bool) {u : State} (hu : SameEngines s u) : SameEngines s (if b then u.ctxMsi n else u) :=
    .ite b (hu.trans (Eq.refl _)) hu
  have fence (u : State) (f v : Nat) : SameEngines u (u.raiseFence n f v) := trans (setCtx ..) (.of_access (AccessOnly.put ..))
  unfold State.endEntry
  dsimp only
  refine .ite _ (setCtx ..) ?_
  split
  · rename_i write
    exact (setCtx ..).trans (snd (cqWrite ..) write)
  · rename_i write
    have written := (setCtx s n _).trans (snd (cqWrite ..) write)
    exact msi _ (.ite _ (written.trans (fence ..)) written)

theorem setKvRec (s : State) (n : Nat) (a : KvArea) (i : Nat) (r : KvRec) : SameEngines s (s.setKvRec n a i r).2 :=
  .of_access (AccessOnly.kvWrite ..)

theorem setRecs (n : Nat) (a : KvArea) (xs : List (Nat × (KvRec → KvRec))) (s : State) : SameEngines s (s.setRecs n a xs).2 := by
  induction xs generalizing s with
  | nil => exact .rfl
  | cons x xs ih =>
    unfold State.setRecs
    split
    · rename_i write
      exact (snd (setKvRec ..) write).trans (ih _)
    · rename_i write
      exact snd (setKvRec ..) write

theorem reclaim (s : State) (n : Nat) : SameEngines s (s.reclaim n).2 := by
  unfold State.reclaim
  split
  · exact .rfl
  · exact setRecs ..

theorem refuseArea (s : State) (n : Nat) : SameEngines s (s.refuseArea n) := by
  have counts : SameEngines s (s.raiseCounts n) := by
    unfold State.raiseCounts
    split
    · exact foldl (fun _ _ => setKvRec ..) _ _
    · exact .rfl
  exact counts

theorem goldenCheck (s : State) (g : Nat) (j : Job) : SameEngines s (s.goldenCheck g j) := by
  have slots : SameEngines s (s.jobSlots j.ctx j.bytes).2 := by
    unfold State.jobSlots
    dsimp only
    split
    · exact .rfl
    · unfold State.entryRead
      generalize hf : State.fetch s _ _ _ = r
      have k : SameEngines s r.2.2 := hf ▸ .of_access (AccessOnly.fetch ..)
      obtain ⟨e, bs, t⟩ := r
      cases e <;> exact k
  have fails (u : State) : SameEngines u (u.goldenFail g) := Eq.refl _
  unfold State.goldenCheck
  dsimp only
  split
  · rename_i read
    exact (snd slots read).trans (fails _)
  · rename_i read
    have k := snd slots read
    split
    · rename_i outputs
      have out := k.trans (.of_access (AccessOnly.snd2 (AccessOnly.fetch ..) outputs))
      exact .ite _ out (out.trans (fails _))
    · rename_i outputs
      have out := k.trans (.of_access (AccessOnly.snd2 (AccessOnly.fetch ..) outputs))
      exact out.trans (fails _)

end SameEngines

/-- A job that ends leaves an engine without a job as one (R163). -/
theorem State.endJob_job {s : State} {te : Nat} (idle : (s.eng te).job = none) (j : Job) : ((s.endJob j).eng te).job = none := by
  have freed : ((s.freeEngines j).eng te).job = none := by
    unfold State.freeEngines
    refine List.foldlRecOn (motive := fun u : State => (u.eng te).job = none) j.engines _ idle fun u h n _ => ?_
    by_cases same : te % 64 = n % 64
    · rw [State.eng_congr same, State.eng_setEng_same]
    · rw [State.eng_setEng_other same, h]
  have rest : SameEngines (s.freeEngines j) (s.endJob j) := by
    unfold State.endJob
    dsimp only
    refine .trans ?_ (.endEntry ..)
    have area {u t : State} (n : Nat) (h : SameEngines u t) : SameEngines u (match t.reclaim n with
        | (.okay, v) => v
        | (_, v) => v.refuseArea n) := by
      split
      · rename_i done
        exact h.trans (.snd (.reclaim ..) done)
      · rename_i done
        exact (h.trans (.snd (.reclaim ..) done)).trans (.refuseArea ..)
    have golden {u t : State} (b : Bool) (h : SameEngines u t) : SameEngines u (match t.goldenOf j.ctx j.ring with
        | some g => if b then t.goldenCheck g j else t
        | none => t) := by
      split
      · exact .ite _ (h.trans (.goldenCheck ..)) h
      · exact h
    refine area _ (golden _ (.ite _ ?_ ?_))
    · exact State.engines_log ..
    · exact .rfl
  rw [rest.eng, freed]

end Sys2Proof.Machine
end

section
/-!
SUPPORT. When a tile command starts (R97, R100 to R102): a stopped engine and one that a WAIT holds keep their state, and a quiet one
takes the command, which may break a rule of R100 or name a row beyond the region.
-/

namespace Sys2Proof.Machine

/-- An engine put back as it is changes nothing. -/
@[simp] theorem State.setEng_eng (s : State) (n : Nat) : s.setEng n (s.eng n) = s := by
  simp only [State.setEng, State.eng, Fin.getElem_fin, Vector.set_getElem_self]

section

variable {s : State} {te : Nat} {h : TileHdr} {up : List ArrayUpset} {o : TileOp}

/-- A tile command does nothing on an engine that does not run (R120). -/
theorem State.issue_stopped (stopped : s.tenState te ≠ 1) : s.issue te h up o = s := by
  unfold State.issue
  rw [if_pos (by rw [Bool.not_eq_true', Bool.eq_false_iff, Ne, Nat.beq_eq]; exact stopped)]

/-- A WAIT whose semaphore does not hold its count goes on holding the engine (R102). -/
theorem State.proceed_waits {k n : Nat} (waits : (s.eng te).waiting = some (k, n)) (short : s.sem te k < n)
    (quiet : (s.eng te).quiet = true) : s.proceed te = s := by
  have tried : s.retryWait te = s := by
    have still : ({ s.eng te with waiting := some (k, n) } : Engine) = s.eng te := by rw [← waits]
    unfold State.retryWait State.runWait
    rw [waits]
    dsimp only
    rw [if_neg (by rw [Nat.ble_eq]; omega), still, State.setEng_eng]
  unfold State.proceed
  rw [tried, State.unitsGo_quiet quiet]

/-- A WAIT holds back every command (R102). -/
theorem State.startTile_waits {w : Nat × Nat} (waits : (s.eng te).waiting = some w) : s.startTile te h up o = none := by
  have held : s.blocked te h o = true := by
    unfold State.blocked
    simp only [waits, Option.isSome_some, Bool.true_or]
  unfold State.startTile
  rw [held]
  rfl

/-- On a running engine where nothing goes on, a command starts or waits. -/
theorem State.issue_running (running : s.tenState te = 1) (same : s.proceed te = s) :
    s.issue te h up o = (s.startTile te h up o).getD s := by
  have runs : Nat.beq (s.tenState te) 1 = true := by rw [running]; rfl
  unfold State.issue
  dsimp only
  rw [same, runs]
  rfl

/-- A quiet engine takes the command. -/
theorem State.issue_quiet (hq : s.EngineQuiet te) : s.issue te h up o = (s.startTile te h up o).getD s := by
  obtain ⟨running, waits, quiet, -⟩ := hq
  exact State.issue_running running (State.proceed_quiet quiet waits)

/-- A command that breaks a rule of R100 stops a quiet engine with cause 0x5. -/
theorem State.startTile_invalid (hq : s.EngineQuiet te) (invalid : o.valid h = false) :
    s.startTile te h up o = some (s.plainFault te 5 h.tag.toNat).settle := by
  obtain ⟨-, waits, quiet, -⟩ := hq
  unfold State.startTile
  dsimp only
  rw [State.blocked_quiet quiet waits, invalid]
  rfl

/-- A command with a row beyond the accumulator region stops a quiet engine with cause 0x9 (R97). -/
theorem State.startTile_beyond (hq : s.EngineQuiet te) (valid : o.valid h = true) {r : Nat × Nat} (rows : o.rows h.arym = some r)
    (beyond : s.accRows te < r.2) : s.startTile te h up o = some (s.plainFault te 9 h.tag.toNat).settle := by
  obtain ⟨-, waits, quiet, -⟩ := hq
  have outside : Nat.blt (s.accRows te) r.2 = true := by rw [Nat.blt_eq]; exact beyond
  unfold State.startTile
  dsimp only
  rw [State.blocked_quiet quiet waits, valid, rows]
  simp only [outside, Bool.not_true, Bool.false_eq_true, if_false, if_true]

end

/-! ## The record of a fault -/

/-- What a fault without detail shows: STATE 3, the cause and the TAG (R120). -/
theorem State.plainFault_shows (s : State) {te cause tag : Nat} (ht : te < 64) (hc : cause < 16) (htag : tag < 256) :
    (s.plainFault te cause tag).tenState te = 3 ∧ (s.plainFault te cause tag).fld (Reg.TEN_STATUS te) Fld.TEN_STATUS_CAUSE = cause ∧
      (s.plainFault te cause tag).fld (Reg.TEN_STATUS te) Fld.TEN_STATUS_FAULT_TAG = tag :=
  s.engineFault_shows ht [] hc htag

/-- `s` with a fault recorded: its cause and TAG in TEN_STATUS, the records of it and of `more`, and its trace record (R120). -/
def State.faultNoted (s : State) (te : Nat) (x : Stop) (more : List Stop) : State :=
  (more.foldl (fun s y => s.report (y.record te)) (((s.setFld (Reg.TEN_STATUS te) Fld.TEN_STATUS_CAUSE x.cause).setFld
    (Reg.TEN_STATUS te) Fld.TEN_STATUS_FAULT_TAG (x.tag.getD 0)).report (x.record te))).log
      (traceRecord 225 (x.tag.getD 0) [te, x.cause])

/-- An engine without a job that faults is stopped, and nothing else happens. -/
theorem State.engineFault_idle {s : State} {te : Nat} (idle : (s.eng te).job = none) (x : Stop) (more : List Stop) :
    s.engineFault te x more =
      ((s.faultNoted te x more).setEng te (((s.faultNoted te x more).eng te).stopped x.ending)).engineTo te 3 := by
  have reports : ∀ u : State, SameEngines u (more.foldl (fun s y => s.report (y.record te)) u) :=
    SameEngines.foldl (fun u y => State.report_engines u (y.record te)) more
  unfold State.engineFault State.faultNoted
  dsimp only
  generalize noted : State.log _ _ = u
  have job : (u.eng te).job = none := by
    rw [← noted, State.eng, State.engines_log, reports _, State.report_engines, State.setFld_engines, State.setFld_engines]
    exact idle
  rw [job]

/-- A fault of an engine without a job leaves the record of its cause (R120). -/
theorem State.engineFault_reports {s : State} {te : Nat} (idle : (s.eng te).job = none) (x : Stop) :
    x.record te ∈ (s.engineFault te x []).errs := by
  rw [State.engineFault_idle idle, State.engineTo, State.lower_errs, State.setFld_errs, State.setEng_errs, State.faultNoted]
  exact State.errs_log (List.mem_append_right _ (List.mem_singleton.2 rfl))

end Sys2Proof.Machine
end

section
open Sys2Proof Sys2Proof.Machine

/-- Settles O20: the command is held back, or it starts and its check of R100 or R97 stops the engine. -/
theorem tileCommandIssue : Obligations.TileCommandIssue := by
  intro i s te h up o hi stops
  have faults {cause : Nat} (quiet : s.EngineQuiet te) (idle : (s.eng te).job = none) (hc : cause < 16)
      (start : s.startTile te h up o = some (s.plainFault te cause h.tag.toNat).settle) : stops cause := by
    obtain ⟨state, causes, tags⟩ := s.plainFault_shows te.isLt hc h.tag.isLt
    refine ⟨s.plainFault te cause h.tag.toNat, ?_, causes, tags, state, _, State.engineFault_reports idle _, ?_, rfl⟩
    · rw [exec_tileOf s hi, State.issue_quiet quiet, start, Option.getD_some]
    · exact congrArg UnitId.te (Fin.ofNat_val_eq_self te)
  refine ⟨fun stopped => ?_, fun k n running waits short quiet => ?_, fun quiet idle invalid => ?_, fun r quiet idle valid rows beyond => ?_⟩
  · rw [exec_tileOf s hi, State.issue_stopped stopped]
  · rw [exec_tileOf s hi, State.issue_running running (State.proceed_waits waits short quiet), State.startTile_waits waits]
    rfl
  · exact faults quiet idle (by decide) (State.startTile_invalid quiet invalid)
  · exact faults quiet idle (by decide) (State.startTile_beyond quiet valid rows beyond)

end

section
/-!
SUPPORT. Control of an engine (R120 to R122, R189, R226): what its state changes show, the writes of TEN_CTRL, TEN_CQ_TAIL and TEN_WDT, and
its end of work.
-/

namespace Sys2Proof.Machine

/-! ## Changes of STATE -/

section

variable (s : State) (te : Nat)

/-- STATE as it is changed to, and ENABLE 0. -/
theorem State.engineTo_shows {st : Nat} (h : st < 8) :
    (s.engineTo te st).tenState te = st ∧ (s.engineTo te st).fld (Reg.TEN_CTRL te) Fld.TEN_CTRL_ENABLE = 0 := by
  have apart : Reg.TEN_STATUS te ≠ Reg.TEN_CTRL te := by unfold Reg.TEN_STATUS Reg.TEN_CTRL; omega
  unfold State.engineTo State.tenState State.lower
  exact ⟨(State.fld_setFld_other apart).trans ((State.fld_setFld_same ⟨by decide, by decide⟩).trans (Nat.mod_eq_of_lt h)),
    State.fld_setFld_same ⟨by decide, by decide⟩⟩

theorem State.reg_engineTo_other {st b : Nat} (stat : b ≠ Reg.TEN_STATUS te) (ctrl : b ≠ Reg.TEN_CTRL te) :
    (s.engineTo te st).reg b = s.reg b :=
  (State.reg_setFld_other ctrl).trans (State.reg_setFld_other stat)

@[simp] theorem State.engineTo_engines (st : Nat) : (s.engineTo te st).engines = s.engines := (rfl)

@[simp] theorem State.engineTo_mem (st : Nat) : (s.engineTo te st).mem = s.mem := (rfl)

@[simp] theorem State.engineTo_eng (st n : Nat) : (s.engineTo te st).eng n = s.eng n := (rfl)

/-- An engine that is idle as `e`: its command queue is empty, STATE and ENABLE are 0, and memory is as before. -/
theorem State.engineIdles_shows (e : Engine) : (s.engineIdles te e).eng te = e ∧
    (s.engineIdles te e).fld (Reg.TEN_CQ_HEAD te) Fld.TEN_CQ_HEAD_HEAD = s.fld (Reg.TEN_CQ_TAIL te) Fld.TEN_CQ_TAIL_TAIL % 4096 ∧
    (s.engineIdles te e).tenState te = 0 ∧ (s.engineIdles te e).fld (Reg.TEN_CTRL te) Fld.TEN_CTRL_ENABLE = 0 ∧
    (s.engineIdles te e).mem = s.mem := by
  have stat : Reg.TEN_CQ_HEAD te ≠ Reg.TEN_STATUS te := by unfold Reg.TEN_CQ_HEAD Reg.TEN_STATUS; omega
  have ctrl : Reg.TEN_CQ_HEAD te ≠ Reg.TEN_CTRL te := by unfold Reg.TEN_CQ_HEAD Reg.TEN_CTRL; omega
  unfold State.engineIdles
  dsimp only
  obtain ⟨state, enable⟩ := State.engineTo_shows ((s.setEng te e).setFld (Reg.TEN_CQ_HEAD te) Fld.TEN_CQ_HEAD_HEAD
    (s.fld (Reg.TEN_CQ_TAIL te) Fld.TEN_CQ_TAIL_TAIL)) te (st := 0) (by decide)
  refine ⟨?_, ?_, state, enable, ?_⟩
  · rw [State.engineTo_eng, State.eng_setFld, State.eng_setEng_same]
  · rw [State.fld, State.reg_engineTo_other _ _ stat ctrl]
    exact State.fld_setFld_same ⟨by decide, by decide⟩
  · rw [State.engineTo_mem, State.setFld_mem, State.setEng_mem]

theorem State.reg_underTest (b : Nat) : (s.underTest te).reg b = (s.engineTo te 4).reg b := by
  rw [State.underTest, State.reg, State.setTest_regs, State.reg]

theorem State.fld_underTest (b : Nat) (f : Fld) : (s.underTest te).fld b f = (s.engineTo te 4).fld b f :=
  congrArg f.get (State.reg_underTest s te b)

@[simp] theorem State.underTest_eng (n : Nat) : (s.underTest te).eng n = s.eng n := by
  rw [State.underTest, State.eng, State.setTest_engines, State.engineTo_engines, State.eng]

@[simp] theorem State.underTest_mem : (s.underTest te).mem = s.mem := by
  rw [State.underTest, State.setTest_mem, State.engineTo_mem]

/-- An engine "under test" (R117). -/
theorem State.underTest_shows : (s.underTest te).tenState te = 4 ∧ (s.underTest te).fld (Reg.TEN_CTRL te) Fld.TEN_CTRL_ENABLE = 0 := by
  rw [State.tenState, State.fld_underTest, State.fld_underTest]
  exact s.engineTo_shows te (by decide)

/-- STATE after an engine reset: one under test or offline stays so, and one bound for a test goes there (R117, R120). -/
def State.resetState : Nat :=
  if 4 ≤ s.tenState te then s.tenState te else if s.tenState te = 3 ∧ (s.eng te).faultEnd = .test then 4 else 0

/-- What an engine reset shows (R120). -/
theorem State.resetKept_shows : (s.resetKept te).eng te = (s.eng te).cleared ∧
    (s.resetKept te).fld (Reg.TEN_CQ_HEAD te) Fld.TEN_CQ_HEAD_HEAD = s.fld (Reg.TEN_CQ_TAIL te) Fld.TEN_CQ_TAIL_TAIL % 4096 ∧
    (s.resetKept te).tenState te = s.resetState te ∧ (s.resetKept te).fld (Reg.TEN_CTRL te) Fld.TEN_CTRL_ENABLE = 0 ∧
    (s.resetKept te).mem = s.mem := by
  have stat : Reg.TEN_CQ_HEAD te ≠ Reg.TEN_STATUS te := by unfold Reg.TEN_CQ_HEAD Reg.TEN_STATUS; omega
  have ctrl : Reg.TEN_CQ_HEAD te ≠ Reg.TEN_CTRL te := by unfold Reg.TEN_CQ_HEAD Reg.TEN_CTRL; omega
  have apart : Reg.TEN_CTRL te ≠ Reg.TEN_STATUS te := by unfold Reg.TEN_CTRL Reg.TEN_STATUS; omega
  obtain ⟨eng, head, state, enable, mem⟩ := s.engineIdles_shows te (s.eng te).cleared
  have kept : s.resetKept te =
      if s.tenState te = 3 ∧ (s.eng te).faultEnd = .test then (s.engineReset te).underTest te
      else if 4 ≤ s.tenState te then (s.engineReset te).setFld (Reg.TEN_STATUS te) Fld.TEN_STATUS_STATE (s.tenState te)
      else s.engineReset te := by
    simp only [State.resetKept, State.tenState, Bool.and_eq_true, Nat.beq_eq, Nat.ble_eq, decide_eq_true_eq]
    rfl
  unfold State.resetState
  rw [kept]
  split
  · rename_i test
    obtain ⟨testing, disabled⟩ := (s.engineReset te).underTest_shows te
    refine ⟨?_, ?_, ?_, disabled, ?_⟩
    · rw [State.underTest_eng, State.engineReset, eng]
    · rw [State.fld_underTest, State.fld, State.reg_engineTo_other _ _ stat ctrl]
      exact head
    · rw [testing, if_neg (by omega)]
    · rw [State.underTest_mem, State.engineReset, mem]
  · rename_i other
    split
    · rename_i high
      refine ⟨?_, (State.fld_setFld_other stat).trans head, ?_, (State.fld_setFld_other apart).trans enable, ?_⟩
      · rw [State.eng_setFld, State.engineReset, eng]
      · rw [State.tenState, State.fld_setFld_same ⟨by decide, by decide⟩]
        exact Nat.mod_eq_of_lt (Fld.get_lt ..)
      · rw [State.setFld_mem, State.engineReset, mem]
    · rename_i low
      exact ⟨eng, head, state, enable, mem⟩

/-- What an engine that a fault has stopped comes to (R117, R120). -/
theorem State.leaveFault_shows : (s.leaveFault te).fld (Reg.TEN_CTRL te) Fld.TEN_CTRL_ENABLE = 0 ∧
    (s.leaveFault te).tenState te = if (s.eng te).faultEnd = .test then 4 else 0 := by
  obtain ⟨-, -, state, enable, -⟩ := s.engineIdles_shows te (s.eng te).cleared
  unfold State.leaveFault
  cases (s.eng te).faultEnd with
  | idle => exact (State.engineTo_shows s te (by decide)).symm
  | reset => exact ⟨enable, state⟩
  | test => exact (s.underTest_shows te).symm

end

/-! ## Writes of TEN_CTRL -/

section

variable {s : State} {te : Nat} {w : Word}

/-- RESET on an engine with no job resets it. -/
theorem State.writeTenCtrl_reset (reset : Fld.TEN_CTRL_RESET.get w = 1) (idle : (s.eng te).job = none) :
    s.writeTenCtrl te w = (s.resetKept te).settle := by
  have set : Nat.beq (Fld.TEN_CTRL_RESET.get w) 1 = true := by rw [reset]; rfl
  unfold State.writeTenCtrl State.resetEngine
  dsimp only
  rw [if_pos set, idle]

/-- ENABLE and HALT on an engine that is not stopped. -/
theorem State.writeTenCtrl_runs (reset : Fld.TEN_CTRL_RESET.get w = 0) (live : s.tenState te ≤ 2) :
    s.writeTenCtrl te w = ((s.setFld (Reg.TEN_CTRL te) Fld.TEN_CTRL_ENABLE (Fld.TEN_CTRL_ENABLE.get w)).setFld (Reg.TEN_CTRL te)
      Fld.TEN_CTRL_HALT (Fld.TEN_CTRL_HALT.get w)).setFld (Reg.TEN_STATUS te) Fld.TEN_STATUS_STATE
        (if Fld.TEN_CTRL_ENABLE.get w = 0 then 0 else if Fld.TEN_CTRL_HALT.get w = 1 then 2 else 1) := by
  have clear : ¬Nat.beq (Fld.TEN_CTRL_RESET.get w) 1 = true := by rw [reset]; decide
  unfold State.writeTenCtrl
  dsimp only
  rw [if_neg clear, if_pos (Nat.ble_eq_true_of_le live)]
  simp only [Nat.beq_eq]

/-- What ENABLE and HALT leave in the registers of an engine that is not stopped. -/
theorem State.writeTenCtrl_shows (reset : Fld.TEN_CTRL_RESET.get w = 0) (live : s.tenState te ≤ 2) :
    (s.writeTenCtrl te w).fld (Reg.TEN_CTRL te) Fld.TEN_CTRL_ENABLE = Fld.TEN_CTRL_ENABLE.get w ∧
    (s.writeTenCtrl te w).fld (Reg.TEN_CTRL te) Fld.TEN_CTRL_HALT = Fld.TEN_CTRL_HALT.get w ∧
    (s.writeTenCtrl te w).tenState te =
      (if Fld.TEN_CTRL_ENABLE.get w = 0 then 0 else if Fld.TEN_CTRL_HALT.get w = 1 then 2 else 1) ∧
    ∀ b, b ≠ Reg.TEN_CTRL te → b ≠ Reg.TEN_STATUS te → (s.writeTenCtrl te w).reg b = s.reg b := by
  have apart : Reg.TEN_CTRL te ≠ Reg.TEN_STATUS te := by unfold Reg.TEN_CTRL Reg.TEN_STATUS; omega
  rw [State.writeTenCtrl_runs reset live]
  refine ⟨?_, ?_, ?_, fun b ctrl stat => ?_⟩
  · rw [State.fld_setFld_other apart, State.fld_setFld_apart ⟨by decide, by decide⟩ ⟨by decide, by decide⟩ (by unfold Fld.apart; decide),
      State.fld_setFld_same ⟨by decide, by decide⟩]
    exact Nat.mod_eq_of_lt (Fld.get_lt ..)
  · rw [State.fld_setFld_other apart, State.fld_setFld_same ⟨by decide, by decide⟩]
    exact Nat.mod_eq_of_lt (Fld.get_lt ..)
  · refine (State.fld_setFld_same ⟨by decide, by decide⟩).trans (Nat.mod_eq_of_lt ?_)
    split
    · decide
    · split <;> decide
  · rw [State.reg_setFld_other stat, State.reg_setFld_other ctrl, State.reg_setFld_other ctrl]

end

/-! ## Writes of TEN_CQ_TAIL -/

section

variable {s : State} {te : Nat}

/-- With no words left, no slot is filled. -/
theorem State.feedSlots_nil (s : State) (te n i : Nat) : s.feedSlots te n i [] = ([], s) := by
  cases n <;> rfl

/-- The words that `n` slots leave over. -/
theorem State.feedSlots_rest (ws : List Nat) : ∀ (s : State) (n i : Nat), (s.feedSlots te n i ws).1 = ws.drop n := by
  induction ws with
  | nil => intro s n i; rw [State.feedSlots_nil, List.drop_nil]
  | cons w ws ih =>
    intro s n i
    cases n with
    | zero => rfl
    | succ n => exact ih _ n _

/-- The slots that a write of TEN_CQ_TAIL announces. -/
def State.slotsSaid (s : State) (te : Nat) (w : Word) : Nat :=
  (Fld.TEN_CQ_TAIL_TAIL.get w + s.cqSize te - s.fld (Reg.TEN_CQ_TAIL te) Fld.TEN_CQ_TAIL_TAIL) % s.cqSize te

/-- A job without window layers has no sweep to keep to. -/
theorem State.noteStripes_plain (plain : ∀ j, (s.eng te).job.bind s.jobOf = some j → j.layers = []) : s.noteStripes te = s := by
  unfold State.noteStripes
  cases found : (s.eng te).job.bind s.jobOf with
  | none => rfl
  | some j =>
    dsimp only
    rw [plain j found, show (sweepsOf []).length = 0 from rfl]
    exact List.foldl_fixed j.engines

/-- Where no sweep holds the stream back, a write of TEN_CQ_TAIL copies as many commands as it announces slots (R189). -/
theorem State.writeCqTail_whole (w : Word)
    (free : (s.eng te).feed = [] ∨ ∀ j, (s.eng te).job.bind s.jobOf = some j → j.layers = []) :
    s.writeCqTail te w =
      let r := s.feedSlots te (s.slotsSaid te w) (s.fld (Reg.TEN_CQ_TAIL te) Fld.TEN_CQ_TAIL_TAIL) (s.eng te).feed
      (r.2.setEng te { r.2.eng te with feed := r.1 }).setFld (Reg.TEN_CQ_TAIL te) Fld.TEN_CQ_TAIL_TAIL (Fld.TEN_CQ_TAIL_TAIL.get w) := by
  have noted : (if (s.eng te).feed.isEmpty then s else s.noteStripes te) = s := by
    split
    · rfl
    · rename_i more
      refine State.noteStripes_plain (free.resolve_left fun none => ?_)
      rw [none] at more
      exact more rfl
  unfold State.writeCqTail
  dsimp only
  rw [noted, State.slotsSaid]
  cases found : (s.eng te).job.bind s.jobOf with
  | none =>
    dsimp only
    rw [if_pos (Nat.beq_refl _)]
  | some j =>
    dsimp only
    by_cases more : (s.eng te).feed.isEmpty = true
    · simp only [more, Nat.beq_refl, if_true]
    · have plain := free.resolve_left (fun none => more (by rw [none]; rfl)) j found
      have unbound : s.sweepLeft te j = none := by
        unfold State.sweepLeft
        rw [plain]
        rfl
      simp only [more, unbound, Nat.beq_refl, if_true, Bool.false_eq_true, if_false]

/-- Off a job's stream, a write of TEN_CQ_TAIL sets TAIL. -/
theorem State.writeCqTail_empty (w : Word) (none : (s.eng te).feed = []) :
    s.writeCqTail te w = s.setFld (Reg.TEN_CQ_TAIL te) Fld.TEN_CQ_TAIL_TAIL (Fld.TEN_CQ_TAIL_TAIL.get w) := by
  have same : ({ s.eng te with feed := [] } : Engine) = s.eng te := by rw [← none]
  rw [State.writeCqTail_whole w (.inl none)]
  dsimp only
  rw [none, State.feedSlots_nil]
  dsimp only
  rw [same, State.setEng_eng]

/-- TAIL and the stream after a write of TEN_CQ_TAIL that no sweep holds back. -/
theorem State.writeCqTail_shows (w : Word)
    (free : (s.eng te).feed = [] ∨ ∀ j, (s.eng te).job.bind s.jobOf = some j → j.layers = []) :
    (s.writeCqTail te w).fld (Reg.TEN_CQ_TAIL te) Fld.TEN_CQ_TAIL_TAIL = Fld.TEN_CQ_TAIL_TAIL.get w ∧
      ((s.writeCqTail te w).eng te).feed = (s.eng te).feed.drop (s.slotsSaid te w) := by
  rw [State.writeCqTail_whole w free]
  dsimp only
  constructor
  · rw [State.fld_setFld_same ⟨by decide, by decide⟩]
    exact Nat.mod_eq_of_lt (Fld.get_lt ..)
  · rw [State.eng_setFld, State.eng_setEng_same]
    exact State.feedSlots_rest ..

end

/-! ## Writes of TEN_WDT -/

/-- TEN_WDT is one field. -/
theorem regFields_TEN_WDT (te : Fin 64) :
    regFields (Reg.TEN_WDT te) = [{ fld := Fld.TEN_WDT_LIMIT_US, acc := .rw }] := by
  decide +revert

/-- A write of TEN_WDT by its access type. -/
theorem State.plainWrite_TEN_WDT (s : State) (te : Fin 64) (w : Word) :
    ∃ v, s.plainWrite (Reg.TEN_WDT te) w = s.setReg (Reg.TEN_WDT te) v ∧ Fld.TEN_WDT_LIMIT_US.get v = Fld.TEN_WDT_LIMIT_US.get w := by
  have fits : reservedValue (regFields (Reg.TEN_WDT te)) w = false := by rw [regFields_TEN_WDT]; rfl
  have recorded : s.recorded (Reg.TEN_WDT te) w = s := by
    rw [State.recorded, fits]
    rfl
  refine ⟨_, by rw [State.plainWrite_eq, recorded], ?_⟩
  rw [regFields_TEN_WDT]
  exact (writeFields_get (by decide) _ _ _ (List.mem_singleton.2 rfl)).trans (Nat.mod_eq_of_lt (Fld.get_lt ..))

/-- A write of TEN_WDT takes the limit, and a count that runs starts again (R122). -/
theorem State.writeTenWdt_shows (s : State) (te : Fin 64) (w : Word) :
    (s.writeTenWdt te w).fld (Reg.TEN_WDT te) Fld.TEN_WDT_LIMIT_US = Fld.TEN_WDT_LIMIT_US.get w ∧
    (∀ b, b ≠ Reg.TEN_WDT te → (s.writeTenWdt te w).reg b = s.reg b) ∧ (s.writeTenWdt te w).mem = s.mem ∧
    ((s.writeTenWdt te w).eng te).wdtStart = (s.eng te).wdtStart.map fun _ => s.tb.elapsed := by
  obtain ⟨v, write, limit⟩ := s.plainWrite_TEN_WDT te w
  have same : (s.setReg (Reg.TEN_WDT te) v).fld (Reg.TEN_WDT te) Fld.TEN_WDT_LIMIT_US = Fld.TEN_WDT_LIMIT_US.get w := by
    rw [State.fld, State.reg_setReg_same, limit]
  unfold State.writeTenWdt
  dsimp only
  rw [write]
  cases start : (s.eng te).wdtStart with
  | none =>
    refine ⟨same, fun b other => State.reg_setReg_other other, State.setReg_mem .., ?_⟩
    rw [Option.isSome_none, if_neg Bool.false_ne_true, State.eng, State.setReg_engines]
    exact start
  | some t0 =>
    rw [Option.isSome_some, if_pos rfl]
    refine ⟨same, fun b other => State.reg_setReg_other other, ?_, ?_⟩
    · rw [State.setEng_mem, State.setReg_mem]
    · rw [State.eng_setEng_same]
      rfl

/-! ## The end of an engine's work -/

/-- An engine that has left its job has none. -/
theorem State.leaveJob_job (s : State) (te : Nat) : ((s.leaveJob te).eng te).job = none := by
  unfold State.leaveJob
  split
  · assumption
  · dsimp only
    split
    · rw [State.eng_setEng_same]
    · rename_i j _
      have jobs (t : State) (j : Job) : (t.setJob j).eng te = t.eng te := rfl
      rw [jobs, State.eng_setEng_same]

theorem KeepsTen.endIfDone (s : State) (no : Nat) : KeepsTen s (s.endIfDone no) := by
  unfold State.endIfDone
  split
  · exact .ite _ (KeepsTen.endJob _ _) .rfl
  · exact .rfl

/-- The end of a job gives no engine another one. -/
theorem State.endIfDone_job {s : State} {te : Nat} (idle : (s.eng te).job = none) (no : Nat) :
    ((s.endIfDone no).eng te).job = none := by
  unfold State.endIfDone
  split
  · split
    · exact State.endJob_job idle _
    · exact idle
  · exact idle

/-- An engine whose stream is done is idle, disabled and without a job. -/
theorem State.doneEngine_shows (s : State) {te : Nat} (ht : te < 64) (no : Nat) :
    (((s.leaveJob te).engineTo te 0).endIfDone no).tenState te = 0 ∧
    (((s.leaveJob te).engineTo te 0).endIfDone no).fld (Reg.TEN_CTRL te) Fld.TEN_CTRL_ENABLE = 0 ∧
    ((((s.leaveJob te).engineTo te 0).endIfDone no).eng te).job = none := by
  have keeps := KeepsTen.endIfDone ((s.leaveJob te).engineTo te 0) no
  have status : ∀ f, (((s.leaveJob te).engineTo te 0).endIfDone no).fld (Reg.TEN_STATUS te) f =
      ((s.leaveJob te).engineTo te 0).fld (Reg.TEN_STATUS te) f := fun f => by
    rw [State.fld, State.fld, keeps _ (by unfold Reg.TEN_STATUS; omega) (by unfold Reg.TEN_STATUS; omega)]
  have ctrl : ∀ f, (((s.leaveJob te).engineTo te 0).endIfDone no).fld (Reg.TEN_CTRL te) f =
      ((s.leaveJob te).engineTo te 0).fld (Reg.TEN_CTRL te) f := fun f => by
    rw [State.fld, State.fld, keeps _ (by unfold Reg.TEN_CTRL; omega) (by unfold Reg.TEN_CTRL; omega)]
  obtain ⟨state, enable⟩ := (s.leaveJob te).engineTo_shows te (st := 0) (by decide)
  refine ⟨(status _).trans state, (ctrl _).trans enable, State.endIfDone_job ?_ no⟩
  rw [State.engineTo_eng]
  exact s.leaveJob_job te

/-! ## The rows -/

section

variable {s : State} {te : Fin 64}

theorem State.eng_relabel (s : State) (req : Req) (n : Nat) : (s.relabel req).eng n = s.eng n := by
  rw [s.relabel_frame req]
  rfl

theorem State.jobOf_relabel (s : State) (req : Req) : (s.relabel req).jobOf = s.jobOf := by
  rw [s.relabel_frame req]
  rfl

theorem State.tb_relabel (s : State) (req : Req) : (s.relabel req).tb = s.tb := by
  rw [s.relabel_frame req]

theorem State.tenState_relabel (s : State) (req : Req) (te : Fin 64) : (s.relabel req).tenState te = s.tenState te :=
  s.fld_relabel req _ (by unfold Reg.TEN_STATUS Reg.SLU_STATUS; omega)

theorem State.slotsSaid_relabel (s : State) (req : Req) (te : Fin 64) (w : Word) :
    (s.relabel req).slotsSaid te w = s.slotsSaid te w := by
  rw [State.slotsSaid, State.cqSize, s.fld_relabel req _ (by unfold Reg.TEN_CQ_CFG Reg.SLU_STATUS; omega),
    s.fld_relabel req _ (by unfold Reg.TEN_CQ_TAIL Reg.SLU_STATUS; omega)]
  rfl

/-- An answer after changes of registers alone. -/
theorem State.onlyRegs_setFld_answer {t : State} (frame : t = { s with regs := t.regs }) (a : Nat) (f : Fld) (v : Nat) (e : Resp)
    (d : List Byte) : OnlyRegs s ((t.setFld a f v).answer e d) := by
  rw [frame]
  rfl

/-- The watchdog's row where a count runs. -/
theorem exec_engineWatchdogExpiry {t0 : Nat} (start : (s.eng te).wdtStart = some t0) (live : s.tenState te ≤ 2)
    (job : (s.eng te).job.isSome = true) : exec (.engineWatchdogExpiry te) s =
      .next (if s.fld (Reg.TEN_WDT te) Fld.TEN_WDT_LIMIT_US ≠ 0 ∧ t0 + s.fld (Reg.TEN_WDT te) Fld.TEN_WDT_LIMIT_US * usE ≤ s.tb.elapsed
        then (s.plainFault te 4 (s.fld (Reg.TEN_STATUS te) Fld.TEN_STATUS_FAULT_TAG)).settle else s) := by
  change execEngineWatchdogExpiry te s = _
  unfold execEngineWatchdogExpiry State.passedUs
  rw [start]
  simp only [job, Nat.ble_eq_true_of_le live, Bool.true_and, Bool.and_eq_true, Bool.not_eq_true', Nat.ble_eq, Bool.eq_false_iff, Ne, Nat.beq_eq]

/-- The end of work where a fault has stopped the engine. -/
theorem exec_engineCompletion_stopped (stopped : s.tenState te = 3) :
    exec (.engineCompletion te) s = .next (s.leaveFault te).settle := by
  change execEngineCompletion te s = _
  unfold execEngineCompletion
  rw [if_pos (by rw [Nat.beq_eq]; exact stopped)]

/-- The end of work where the stream of a job is done. -/
theorem exec_engineCompletion_done {no : Nat} (runs : s.tenState te ≠ 3) (done : s.engineDone te = true) (job : (s.eng te).job = some no) :
    exec (.engineCompletion te) s = .next (((s.leaveJob te).engineTo te 0).endIfDone no).settle := by
  change execEngineCompletion te s = _
  unfold execEngineCompletion
  rw [if_neg (by rw [Nat.beq_eq]; exact runs), if_pos done, job]

/-- An engine with work to do, or with none, goes on as it is. -/
theorem exec_engineCompletion_works (runs : s.tenState te ≠ 3) (works : s.engineDone te ≠ true) :
    exec (.engineCompletion te) s = .next s := by
  change execEngineCompletion te s = _
  unfold execEngineCompletion
  rw [if_neg (by rw [Nat.beq_eq]; exact runs), if_neg works]

theorem State.engineDone_job {te : Nat} (done : s.engineDone te = true) : ∃ no, (s.eng te).job = some no := by
  unfold State.engineDone at done
  simp only [Bool.and_eq_true] at done
  obtain ⟨⟨⟨⟨⟨-, job⟩, -⟩, -⟩, -⟩, -⟩ := done
  exact Option.isSome_iff_exists.1 job

end

end Sys2Proof.Machine
end

section
open Sys2Proof Sys2Proof.Machine

/-- Settles O27: a granted write is the register's effect on the relabelled state, the watchdog's expiry is a plain fault, and the end of
work is leaveFault or the job's leaving. -/
theorem engineControl : Obligations.EngineControl := by
  intro s te req w
  dsimp only
  refine ⟨fun i row grants => ?_, fun grants => ?_, fun grants => ?_, fun t0 start live job => ?_, ?_⟩
  · have runs : exec i s = .next (((s.relabel req).writeTenCtrl te w).answer .okay []) := by
      rw [← State.busWrite_okay (eff := (·.writeTenCtrl te w)) grants.2 grants.1]
      rcases row with rfl | rfl | rfl <;> rfl
    rw [runs]
    refine ⟨fun reset live => ?_, fun reset idle => ?_⟩
    · have live' : (s.relabel req).tenState te ≤ 2 := by rw [s.tenState_relabel]; exact live
      obtain ⟨enable, halt, state, regs⟩ := State.writeTenCtrl_shows reset live'
      refine ⟨_, rfl, ?_, enable, halt, state, regs⟩
      rw [State.writeTenCtrl_runs reset live', s.relabel_frame req]
      rfl
    · have idle' : ((s.relabel req).eng te).job = none := by rw [State.eng_relabel]; exact idle
      obtain ⟨eng, head, state, enable, mem⟩ := (s.relabel req).resetKept_shows te
      refine ⟨_, by rw [State.writeTenCtrl_reset reset idle'], ?_, ?_, ?_, enable, mem.trans (s.relabel_mem req)⟩
      · rw [eng, State.eng_relabel]
      · rw [head, s.fld_relabel req _ (by unfold Reg.TEN_CQ_TAIL Reg.SLU_STATUS; omega)]
      · rw [state, State.resetState, State.tenState_relabel, State.eng_relabel]
  · have runs : exec (.tenCqTailWrite te req w) s = .next (((s.relabel req).writeCqTail te w).answer .okay []) := by
      rw [← State.busWrite_okay (eff := (·.writeCqTail te w)) grants.2 grants.1]
      rfl
    refine ⟨_, runs, rfl, fun free => ?_, fun none => ?_⟩
    · have shows := (s.relabel req).writeCqTail_shows (te := te) w (by rw [State.eng_relabel, State.jobOf_relabel]; exact free)
      rw [State.slotsSaid_relabel, State.eng_relabel] at shows
      exact shows
    · rw [State.writeCqTail_empty w (by rw [State.eng_relabel]; exact none)]
      exact ⟨State.onlyRegs_setFld_answer (s.relabel_frame req) .., fun b other => State.reg_setFld_other other⟩
  · have runs : exec (.tenWdtWrite te req w) s = .next (((s.relabel req).writeTenWdt te w).answer .okay []) := by
      rw [← State.busWrite_okay (eff := (·.writeTenWdt te w)) grants.2 grants.1]
      rfl
    obtain ⟨limit, regs, mem, start⟩ := (s.relabel req).writeTenWdt_shows te w
    rw [State.eng_relabel, State.tb_relabel] at start
    exact ⟨_, runs, limit, regs, mem.trans (s.relabel_mem req), start⟩
  · rw [exec_engineWatchdogExpiry start live job]
    split
    · obtain ⟨state, cause, tag⟩ := s.plainFault_shows te.isLt (cause := 4) (by decide)
        (Fld.get_lt Fld.TEN_STATUS_FAULT_TAG (s.reg (Reg.TEN_STATUS te)))
      exact ⟨_, rfl, cause, state, tag⟩
    · rfl
  · split
    · rename_i stopped
      obtain ⟨enable, state⟩ := s.leaveFault_shows te
      exact ⟨_, exec_engineCompletion_stopped stopped, enable, state⟩
    · rename_i runs
      split
      · rename_i done
        obtain ⟨no, job⟩ := State.engineDone_job done
        obtain ⟨state, enable, left⟩ := s.doneEngine_shows te.isLt no
        exact ⟨_, exec_engineCompletion_done runs done job, state, enable, left⟩
      · rename_i works
        exact exec_engineCompletion_works runs works

end

section
/-!
SUPPORT. Control commands, DMA and the fetch of commands (R99, R102, R110, R119, R162, R163): what each row does on a quiet engine.
-/

namespace Sys2Proof.Machine

/-! ## Which unit goes next -/

section

variable {s : State} {te : Nat}

/-- Arrays without MMA or MMAS start nothing and finish nothing. -/
theorem Engine.no_macs {e : Engine} (idle : ∀ j < 4, (e.ary j).macs = []) : e.nextStart = none ∧ e.ready = [] := by
  have h0 := idle 0 (by decide)
  have h1 := idle 1 (by decide)
  have h2 := idle 2 (by decide)
  have h3 := idle 3 (by decide)
  unfold Engine.nextStart Engine.ready
  rw [show List.range 4 = [0, 1, 2, 3] from rfl]
  simp [h0, h1, h2, h3]

theorem State.unitStep_load {w : LdwJob} {j : Nat} (next : (s.eng te).nextLoad [] (s.eng te).loads = some (w, j)) :
    s.unitStep te = some (s.runLoad te w j) := by
  unfold State.unitStep
  dsimp only
  rw [next]

theorem State.unitStep_fetch {w : LdaJob} (loads : (s.eng te).loads = [])
    (next : (s.eng te).nextFetch [] (s.eng te).fetches = some w) : s.unitStep te = some (s.runFetch te w) := by
  unfold State.unitStep
  dsimp only
  rw [loads, Engine.nextLoad, next]

theorem State.unitStep_dma (loads : (s.eng te).loads = []) (fetches : (s.eng te).fetches = [])
    (macs : ∀ j < 4, ((s.eng te).ary j).macs = []) :
    s.unitStep te = (s.nextDma te [] (s.eng te).dmas).map (s.runDma te) := by
  obtain ⟨starts, ready⟩ := Engine.no_macs macs
  unfold State.unitStep
  dsimp only
  rw [loads, fetches, Engine.nextLoad, Engine.nextFetch, starts, ready]

/-- Units that come to rest after one step. -/
theorem State.unitsGo_once {t : State} (step : s.unitStep te = some (.ok () t)) (rest : t.unitStep te = none) :
    s.unitsGo te = .ok () t := by
  unfold State.unitsGo
  rw [Engine.toDo, State.goUnits_some step, Ran.bind, State.goUnits_none rest]

end

/-! ## WAIT and SIG (R102) -/

section

variable {s : State} {te : Nat}

@[simp] theorem State.setSem_eng (s : State) (te k v n : Nat) : (s.setSem te k v).eng n = s.eng n := (rfl)

/-- WAIT on an engine that no WAIT holds. -/
theorem State.runWait_free (free : (s.eng te).waiting = none) (k n : Nat) :
    s.runWait te k n = if n ≤ s.sem te k then s.setSem te k (s.sem te k - n) else s.setEng te { s.eng te with waiting := some (k, n) } := by
  have same : ({ s.eng te with waiting := none } : Engine) = s.eng te := by rw [← free]
  unfold State.runWait
  dsimp only
  rw [same, ← State.setSem_eng s te k (s.sem te k - n) te, State.setEng_eng]
  simp only [Nat.ble_eq, State.setSem_eng]

theorem State.runWait_quiet (k n : Nat) : ((s.runWait te k n).eng te).quiet = (s.eng te).quiet := by
  unfold State.runWait
  dsimp only
  split <;> rw [State.eng_setEng_same] <;> rfl

/-- SIG saturates (R102). -/
theorem State.runSig_shows (s : State) (te k n : Nat) :
    (s.runSig te k n).sems = (s.setSem te k (min (s.sem te k + n) 65535)).sems ∧
    (s.sem te k + n ≤ 65535 → s.runSig te k n = s.setSem te k (s.sem te k + n)) ∧
    (65535 < s.sem te k + n → (s.runSig te k n).fwlSeq = s.fwlSeq + 1) ∧ ((s.runSig te k n).eng te).quiet = (s.eng te).quiet := by
  unfold State.runSig
  dsimp only
  split
  · rename_i fits
    rw [Nat.ble_eq] at fits
    rw [Nat.min_eq_left fits]
    exact ⟨rfl, fun _ => rfl, fun above => absurd above (by omega), rfl⟩
  · rename_i above
    rw [Nat.ble_eq] at above
    rw [Nat.min_eq_right (by omega), State.sems_log, State.fwlSeq_log _ rfl, SameEngines.eng (State.engines_log ..)]
    exact ⟨rfl, fun fits => absurd fits above, fun _ => rfl, rfl⟩

end

/-! ## CHK mode 0x1 (R119) -/

/-- `e` with a self-test armed in each array of `arys`. -/
def Engine.armed (e : Engine) (arys : List Nat) : Engine :=
  arys.foldl (fun e j => e.setAry j { e.ary j with selfTest := true }) e

theorem State.foldl_armed (te : Nat) (arys : List Nat) (s : State) :
    arys.foldl (fun s j => s.setAry te j { (s.eng te).ary j with selfTest := true }) s = s.setEng te ((s.eng te).armed arys) := by
  induction arys generalizing s with
  | nil => exact (State.setEng_eng s te).symm
  | cons k arys ih =>
    rw [List.foldl_cons, ih, State.setAry, State.eng_setEng_same, State.setEng_setEng]
    rfl

/-- A self-test is armed in the arrays named, and nothing else changes in any. -/
theorem Engine.ary_armed (arys : List Nat) (lt : ∀ k ∈ arys, k < 4) {j : Nat} (hj : j < 4) (e : Engine) :
    (e.armed arys).ary j = if j ∈ arys then { e.ary j with selfTest := true } else e.ary j := by
  induction arys generalizing e with
  | nil => rfl
  | cons k arys ih =>
    have step : (e.armed (k :: arys)).ary j = ((e.setAry k { e.ary k with selfTest := true }).armed arys).ary j := rfl
    rw [step, ih fun x hx => lt x (List.mem_cons_of_mem _ hx)]
    by_cases same : j = k
    · subst same
      rw [Engine.ary_setAry_same, if_pos (List.mem_cons_self ..), ite_self]
    · rw [Engine.ary_setAry_other hj (lt k (List.mem_cons_self ..)) same]
      simp only [List.mem_cons, same, false_or]

/-- Nothing is in flight where the lists are empty and no append KVL is at Miller. -/
theorem Engine.quiet_iff (e : Engine) : e.quiet = true ↔
    e.kvlBusy = false ∧ e.loads = [] ∧ e.fetches = [] ∧ e.dmas = [] ∧ ∀ j < 4, (e.ary j).macs = [] := by
  simp only [Engine.quiet, Engine.ary, Bool.and_eq_true, Bool.not_eq_true', List.isEmpty_iff, List.all_eq_true, List.mem_range, and_assoc]

theorem Engine.armed_frame (arys : List Nat) (e : Engine) : e.armed arys = { e with arrays := (e.armed arys).arrays } := by
  induction arys generalizing e with
  | nil => rfl
  | cons k arys ih => exact ih (e.setAry k { e.ary k with selfTest := true })

theorem Engine.armed_quiet {e : Engine} {arys : List Nat} (lt : ∀ k ∈ arys, k < 4) (quiet : e.quiet = true) :
    (e.armed arys).quiet = true := by
  obtain ⟨kvl, loads, fetches, dmas, macs⟩ := e.quiet_iff.1 quiet
  refine (Engine.quiet_iff _).2 ⟨?_, ?_, ?_, ?_, fun j hj => ?_⟩
  · rw [Engine.armed_frame]; exact kvl
  · rw [Engine.armed_frame]; exact loads
  · rw [Engine.armed_frame]; exact fetches
  · rw [Engine.armed_frame]; exact dmas
  · rw [Engine.ary_armed arys lt hj]
    split <;> exact macs j hj

theorem mem_arraysOf {arym : BitVec 4} {j : Nat} (hj : j < 4) : j ∈ arraysOf arym ↔ bitAt arym.toNat j = true := by
  simp only [arraysOf, List.mem_filter, List.mem_range, hj, true_and]

/-- CHK mode 0x1 arms the selected arrays (R119). -/
theorem State.runChkSelf_eq (s : State) (te : Nat) (h : TileHdr) :
    s.runChkSelf te h = s.setEng te ((s.eng te).armed (arraysOf h.arym)) := State.foldl_armed te _ s

/-! ## KVL (R162, R163) -/

/-- KVL of a sequence and tokens that the geometry has, where no append is at Miller. -/
theorem State.runKvl_loads {s : State} {te : Nat} {h : TileHdr} {append : Bool} {a : KvlArgs} {area : KvArea} {geo : KvGeom}
    (areas : s.kvArea (s.fld (Reg.TEN_JOB te) Fld.TEN_JOB_CTX) = some area)
    (geom : (s.ctx (s.fld (Reg.TEN_JOB te) Fld.TEN_JOB_CTX)).kvGeom = some geo) (free : (s.eng te).kvlBusy = false)
    (seq : a.seq.toNat < area.maxSeq) (ntok : a.ntok.toNat ≤ geo.maxtok) (room : append = true → a.ntok.toNat ≠ geo.maxtok) :
    s.runKvl te h append a =
      let n := s.fld (Reg.TEN_JOB te) Fld.TEN_JOB_CTX
      let w : KvWindow := { loaded := true, seq := a.seq.toNat, ntok := a.ntok.toNat, append, granted := false }
      let s1 := s.setEng te { s.eng te with kvWins := (s.eng te).kvWins.set (Fin.ofNat 4 a.win.toNat) w,
                                            kvlBusy := (s.eng te).kvlBusy || append }
      .ok () (if append then s1.setCtx n { s1.ctx n with kvQueue := (s1.ctx n).kvQueue ++
          [{ src := .window te a.win.toNat h.tag.toNat (s.eng te).job, kind := .append, seq := a.seq.toNat, t0 := a.ntok.toNat,
             t1 := a.ntok.toNat + 1, stage := .waiting, moves := [], tables := [] }] } else s1) := by
  have inside : (Nat.ble area.maxSeq a.seq.toNat || Nat.blt geo.maxtok a.ntok.toNat || (append && Nat.beq a.ntok.toNat geo.maxtok)) = false := by
    rw [Bool.eq_false_iff]
    simp only [Ne, Bool.or_eq_true, Bool.and_eq_true, Nat.ble_eq, Nat.blt_eq, Nat.beq_eq]
    rintro ((beyond | long) | ⟨appends, full⟩)
    · omega
    · omega
    · exact room appends full
  unfold State.runKvl
  dsimp only
  rw [areas, geom]
  dsimp only
  rw [inside, free, Bool.and_false]
  cases append <;> rfl

/-! ## DMA (R108 to R111) -/

section

variable {s : State} {te : Nat} {h : TileHdr} {a : DmaArgs}

/-- The command as its channel takes it. -/
def State.dmaJob (s : State) (te : Nat) (h : TileHdr) (a : DmaArgs) : DmaJob :=
  { seq := (s.eng te).issued, hdr := h, args := a,
    areas := (a.desc.toNat * 16, a.desc.toNat * 16 + 64, false) ::
      if dmaDescOk (s.dmaDesc te a) then dmaAreas (s.dmaDesc te a) else [] }

theorem State.startDma_quiet (none : (s.eng te).dmas = []) : s.startDma te h a =
    s.setEng te { s.eng te with dmas := [s.dmaJob te h a], issued := (s.eng te).issued + 1 } := by
  unfold State.startDma State.onEng
  dsimp only
  rw [none, List.nil_append]
  rfl

/-- A channel that its descriptor lets run is next. -/
theorem State.nextDma_one (w : DmaJob) (free : s.dmaWaits te w.args = false) : s.nextDma te [] [w] = some w := by
  unfold State.nextDma
  rw [free]
  rfl

/-- A DMA whose window has its grant, or needs none, does not wait. -/
theorem State.dmaWaits_free (free : ¬((fieldAt (s.dmaDesc te a) 48 1 % 4 = 3 ∨ fieldAt (s.dmaDesc te a) 48 1 / 4 = 3) ∧
    ((s.eng te).kvWins[Fin.ofNat 4 (dmaWin (s.dmaDesc te a))]).append = true ∧
    ((s.eng te).kvWins[Fin.ofNat 4 (dmaWin (s.dmaDesc te a))]).granted = false)) : s.dmaWaits te a = false := by
  rw [Bool.eq_false_iff]
  intro waits
  simp only [State.dmaWaits, dmaUsesKv, Bool.and_eq_true, Bool.or_eq_true, Bool.not_eq_true', Nat.beq_eq] at waits
  obtain ⟨⟨⟨-, kv⟩, append⟩, granted⟩ := waits
  exact free ⟨kv, append, granted⟩

/-- A channel runs a descriptor that is in order, and is free again. -/
theorem State.runDma_done {s t : State} {te : Nat} {w : DmaJob} (ht : te < 64) (clean : s.EngineClean te)
    (fits : w.args.desc.toNat * 16 + 64 ≤ engineBytes) (sound : dmaDescOk (s.dmaDesc te w.args) = true)
    (moves : s.moveDma te (s.dmaDesc te w.args) = .ok () t) :
    s.runDma te w = .ok () (t.onEng te fun e => { e with dmas := e.dmas.filter fun x => !(Nat.beq x.seq w.seq) }) := by
  unfold State.runDma
  rw [State.engRead_clean ht clean fits]
  have desc : s.bytes (engineAt te + w.args.desc.toNat * 16) 64 = s.dmaDesc te w.args := rfl
  rw [Ran.bind, desc, sound, Bool.not_true, if_neg Bool.false_ne_true, moves]
  rfl

/-- The engine with its one DMA ended. -/
theorem Engine.filter_own_dma (e : Engine) (none : e.dmas = []) (w : DmaJob) (n : Nat) :
    ({ e with dmas := [w].filter fun x => !(Nat.beq x.seq w.seq), issued := n } : Engine) = { e with issued := n } := by
  rw [List.filter_singleton, Nat.beq_refl, ← none]
  rfl

end

/-! ## The fetch of a command (R99, R101) -/

/-- On an enabled, running and quiet engine the command at HEAD is taken as its word spells it. -/
theorem exec_engineCommandFetch {s s1 : State} {te : Fin 64} {up : List ArrayUpset} {bs : List Byte} {h : TileHdr} {o : TileOp}
    (running : s.tenState te = 1) (waits : (s.eng te).waiting = none) (quiet : (s.eng te).quiet = true)
    (enable : s.fld (Reg.TEN_CTRL te) Fld.TEN_CTRL_ENABLE = 1) (halt : s.fld (Reg.TEN_CTRL te) Fld.TEN_CTRL_HALT = 0)
    (more : s.fld (Reg.TEN_CQ_HEAD te) Fld.TEN_CQ_HEAD_HEAD ≠ s.fld (Reg.TEN_CQ_TAIL te) Fld.TEN_CQ_TAIL_TAIL)
    (read : s.readPhys (s.tenReq te (s.tenClass te)) (s.cqSlot te (s.fld (Reg.TEN_CQ_HEAD te) Fld.TEN_CQ_HEAD_HEAD)) 16 = (.okay, bs, s1))
    (decoded : decodeTile (leNat bs) = some (h, o)) : exec (.engineCommandFetch te up) s =
      .next (((s1.setFld (Reg.TEN_CQ_HEAD te) Fld.TEN_CQ_HEAD_HEAD
        ((s.fld (Reg.TEN_CQ_HEAD te) Fld.TEN_CQ_HEAD_HEAD + 1) % s1.cqSize te)).startTile te h up o).getD s) := by
  have enabled : Fld.TEN_CTRL_ENABLE.get (s.reg (Reg.TEN_CTRL te)) = 1 := enable
  have unhalted : Fld.TEN_CTRL_HALT.get (s.reg (Reg.TEN_CTRL te)) = 0 := halt
  have queued : Nat.beq (s.fld (Reg.TEN_CQ_HEAD te) Fld.TEN_CQ_HEAD_HEAD) (s.fld (Reg.TEN_CQ_TAIL te) Fld.TEN_CQ_TAIL_TAIL) = false := by
    rw [Bool.eq_false_iff, Ne, Nat.beq_eq]
    exact more
  change execEngineCommandFetch te up s = _
  unfold execEngineCommandFetch
  dsimp only
  rw [State.proceed_quiet quiet waits, running, enabled, unhalted, queued, waits, read]
  dsimp only
  rw [decoded]
  rfl

end Sys2Proof.Machine
end

section
open Sys2Proof Sys2Proof.Machine

/-- Settles O26: each command is its effect on the state, after which a quiet engine's units have nothing left to do; a DMA is the one step
of its channel; a fetched command is what its row gives the state whose HEAD has advanced. -/
theorem controlCommands : Obligations.ControlCommands := by
  intro s te h
  refine ⟨fun run => ?_, fun a run => ?_, fun a run => ?_, fun a run => ?_, fun run => ?_, fun a append area geo => ?_, fun a t run => ?_,
    fun i up o bs s1 row => ?_⟩
  · exact exec_tileOf_runs rfl run rfl run.1.2.2.1 nofun
  · exact exec_tileOf_runs rfl run rfl run.1.2.2.1 nofun
  · have ⟨⟨_, waits, quiet, _⟩, _⟩ := run
    dsimp only
    rw [← State.runWait_free waits]
    exact exec_tileOf_runs rfl run rfl ((State.runWait_quiet ..).trans quiet) nofun
  · obtain ⟨sems, below, above, still⟩ := s.runSig_shows te a.sem.toNat a.n.toNat
    exact ⟨_, exec_tileOf_runs rfl run rfl (still.trans run.1.2.2.1) nofun, sems, below, above⟩
  · have lt : ∀ k ∈ arraysOf h.arym, k < 4 := fun _ => arraysOf_lt
    refine ⟨s.setEng te ((s.eng te).armed (arraysOf h.arym)), exec_tileOf_runs rfl run (congrArg (Ran.ok ()) (s.runChkSelf_eq te h)) ?_ nofun,
      rfl, fun n hn j hj => ?_⟩
    · rw [State.eng_setEng_same]
      exact Engine.armed_quiet lt run.1.2.2.1
    · by_cases same : n = te
      · subst same
        rw [State.eng_setEng_same, Engine.ary_armed _ lt hj]
        simp only [mem_arraysOf hj, true_and]
      · rw [State.eng_setEng_other (by omega), if_neg fun both => same both.1]
  · intro n e run areas geom seq ntok room
    dsimp only
    obtain ⟨kvl, loads, fetches, dmas, macs⟩ := (Engine.quiet_iff _).1 run.1.2.2.1
    have effect := State.runKvl_loads (h := h) areas geom kvl seq ntok room
    have idle {u : State} (same : u.eng te = { e with kvWins := (u.eng te).kvWins, kvlBusy := (u.eng te).kvlBusy }) :
        u.unitsGo te = .ok () u := by
      refine State.unitsGo_idle ?_
      rw [same]
      exact ⟨loads, fetches, dmas, macs⟩
    cases append with
    | true =>
      rw [if_pos rfl, exec_tileOf (i := .kvlAppend te h a) s rfl, State.issue_starts run effect (idle ?_)]
      · rfl
      · rw [if_pos rfl, State.eng, State.setCtx_engines, ← State.eng, State.eng_setEng_same]
    | false =>
      rw [if_neg Bool.false_ne_true, exec_tileOf (i := .kvlRead te h a) s rfl, State.issue_starts run effect (idle ?_)]
      · rfl
      · rw [if_neg Bool.false_ne_true, State.eng_setEng_same]
  · intro d w kv s1 sound granted moves kept
    have ⟨⟨_, _, quiet, clean⟩, valid, _⟩ := run
    obtain ⟨loads, fetches, dmas, macs⟩ := Engine.quiet_parts quiet
    have fits : a.desc.toNat * 16 + 64 ≤ engineBytes :=
      rangeOf_fits (w := false) fun x hx => (TileOp.valid_iff.1 valid).2.2 x hx
    have started : s1.eng te = { s.eng te with dmas := [s.dmaJob te h a], issued := (s.eng te).issued + 1 } := by
      rw [show s1 = _ from State.startDma_quiet dmas, State.eng_setEng_same]
    have free : s1.dmaWaits te (s.dmaJob te h a).args = false := by
      refine State.dmaWaits_free ?_
      rw [started]
      exact granted
    have done := State.runDma_done (s := s1) (w := s.dmaJob te h a) te.isLt (clean.congr rfl rfl rfl) fits sound moves
    rw [State.onEng, kept, started, Engine.filter_own_dma _ dmas] at done
    have step : s1.unitStep te = some (.ok () (t.setEng te { s.eng te with issued := (s.eng te).issued + 1 })) := by
      rw [State.unitStep_dma (by rw [started]; exact loads) (by rw [started]; exact fetches) (by rw [started]; exact macs), started,
        State.nextDma_one _ free, Option.map_some, done]
    refine exec_tileOf_starts rfl run rfl (State.unitsGo_once step (State.unitStep_idle ?_)) nofun
    rw [State.eng_setEng_same]
    exact ⟨loads, fetches, dmas, macs⟩
  · intro head running waits quiet enable halt more read decoded s2 run starts
    obtain ⟨u, start⟩ := Option.isSome_iff_exists.1 starts
    refine ⟨u, ?_, ?_⟩
    · rw [exec_engineCommandFetch running waits quiet enable halt more read decoded, start, Option.getD_some]
    · rw [exec_tileOf s2 row, State.issue_quiet run.1, start, Option.getD_some]

end

section
/-!
SUPPORT. LDW and LDA (R84 to R92, R112): what each finds in engine memory, and the engine after each tile loaded and each vector fetched.
-/

namespace Sys2Proof.Machine

/-! ## Array pipes changed one and all -/

/-- `e` with each array pipe changed by its number. -/
def Engine.withArys (e : Engine) (f : Nat → ArrayPipe → ArrayPipe) : Engine := { e with arrays := Vector.ofFn fun i : Fin 4 => f i (e.ary i) }

theorem Engine.ary_withArys (e : Engine) (f : Nat → ArrayPipe → ArrayPipe) {j : Nat} (hj : j < 4) : (e.withArys f).ary j = f j (e.ary j) := by
  simp [Engine.ary, Engine.withArys, Nat.mod_eq_of_lt hj]

/-- Four array pipes make the arrays of an engine. -/
theorem Engine.arrays_ext {e f : Engine} (h : ∀ j < 4, e.ary j = f.ary j) : e.arrays = f.arrays := by
  refine Vector.ext fun j hj => ?_
  have same := h j hj
  simp only [Engine.ary, Fin.getElem_fin, Fin.val_ofNat, Nat.mod_eq_of_lt hj] at same
  exact same

theorem Engine.onArys_frame (arys : List Nat) (f : ArrayPipe → ArrayPipe) (e : Engine) :
    e.onArys arys f = { e with arrays := (e.onArys arys f).arrays } := by
  induction arys generalizing e with
  | nil => rfl
  | cons k arys ih => exact ih (e.setAry k (f (e.ary k)))

theorem Engine.ary_onArys {arys : List Nat} (lt : ∀ k ∈ arys, k < 4) (nodup : arys.Nodup) (f : ArrayPipe → ArrayPipe) {j : Nat}
    (hj : j < 4) (e : Engine) : (e.onArys arys f).ary j = if j ∈ arys then f (e.ary j) else e.ary j := by
  induction arys generalizing e with
  | nil => rfl
  | cons k arys ih =>
    obtain ⟨fresh, nodup⟩ := List.nodup_cons.1 nodup
    have hk := lt k (List.mem_cons_self ..)
    have step : (e.onArys (k :: arys) f).ary j = ((e.setAry k (f (e.ary k))).onArys arys f).ary j := rfl
    rw [step, ih (fun x hx => lt x (List.mem_cons_of_mem _ hx)) nodup]
    by_cases same : j = k
    · subst same
      rw [Engine.ary_setAry_same, if_neg fresh, if_pos (List.mem_cons_self ..)]
    · rw [Engine.ary_setAry_other hj hk same]
      simp only [List.mem_cons, same, false_or]

/-- A change of the arrays that a list names. -/
theorem Engine.onArys_eq {arys : List Nat} (lt : ∀ k ∈ arys, k < 4) (nodup : arys.Nodup) (f : ArrayPipe → ArrayPipe) (e : Engine) :
    e.onArys arys f = e.withArys fun j p => if j ∈ arys then f p else p := by
  have same : (e.onArys arys f).arrays = (e.withArys fun j p => if j ∈ arys then f p else p).arrays :=
    Engine.arrays_ext fun j hj => by rw [Engine.ary_onArys lt nodup f hj, Engine.ary_withArys _ _ hj]
  rw [Engine.onArys_frame, same]
  rfl

/-- Two changes in a row. -/
theorem Engine.withArys_withArys (e : Engine) (f g : Nat → ArrayPipe → ArrayPipe) :
    (e.withArys f).withArys g = e.withArys fun j p => g j (f j p) := by
  have same : ((e.withArys f).withArys g).arrays = (e.withArys fun j p => g j (f j p)).arrays :=
    Engine.arrays_ext fun j hj => by rw [Engine.ary_withArys _ _ hj, Engine.ary_withArys _ _ hj, Engine.ary_withArys _ _ hj]
  exact congrArg (fun x => { e with arrays := x }) same

theorem Engine.withArys_congr {e : Engine} {f g : Nat → ArrayPipe → ArrayPipe} (h : ∀ j < 4, f j (e.ary j) = g j (e.ary j)) :
    e.withArys f = e.withArys g :=
  congrArg (fun x => { e with arrays := x }) (Engine.arrays_ext (e := e.withArys f) (f := e.withArys g)
    fun j hj => by rw [Engine.ary_withArys _ _ hj, Engine.ary_withArys _ _ hj, h j hj])

theorem arraysOf_nodup (arym : BitVec 4) : (arraysOf arym).Nodup := List.nodup_range.filter _

/-- The number of the `n`-th array that a header selects. -/
theorem aryAt_eq {h : TileHdr} {n : Nat} (hn : n < (arraysOf h.arym).length) : aryAt h n = (arraysOf h.arym)[n] := by
  rw [aryAt, List.getElem?_eq_getElem hn, Option.getD_some]

theorem aryAt_mem {h : TileHdr} {n : Nat} (hn : n < (arraysOf h.arym).length) : aryAt h n ∈ arraysOf h.arym := by
  rw [aryAt_eq hn]
  exact List.getElem_mem hn

/-- An array is the `n`-th selected where its place among them is `n`. -/
theorem eq_aryAt_iff {h : TileHdr} {n j : Nat} (hn : n < (arraysOf h.arym).length) :
    j = aryAt h n ↔ j ∈ arraysOf h.arym ∧ (arraysOf h.arym).idxOf j = n := by
  rw [aryAt_eq hn]
  constructor
  · rintro rfl
    exact ⟨List.getElem_mem hn, (arraysOf_nodup h.arym).idxOf_getElem n hn⟩
  · rintro ⟨mem, rfl⟩
    exact (List.getElem_idxOf (List.idxOf_lt_length_iff.2 mem)).symm

/-! ## Steps of the units -/

section

variable {s : State} {te : Nat}

/-- Units that go on step by step until they come to rest. -/
theorem State.goUnits_steps {f : Nat → State} {n : Nat} (step : ∀ i < n, (f i).unitStep te = some (.ok () (f (i + 1))))
    (rest : (f n).unitStep te = none) : ∀ k i, i + k = n → ∀ fuel, k ≤ fuel → (f i).goUnits te fuel = .ok () (f n) := by
  intro k
  induction k with
  | zero =>
    rintro i rfl fuel -
    exact State.goUnits_none rest fuel
  | succ k ih =>
    intro i last fuel enough
    obtain ⟨fuel, rfl⟩ : ∃ m, fuel = m + 1 := ⟨fuel - 1, by omega⟩
    rw [State.goUnits_some (step i (by omega)), Ran.bind]
    exact ih (i + 1) (by omega) fuel (by omega)

theorem State.unitsGo_steps {f : Nat → State} {n : Nat} (step : ∀ i < n, (f i).unitStep te = some (.ok () (f (i + 1))))
    (rest : (f n).unitStep te = none) (enough : n ≤ ((f 0).eng te).toDo) : (f 0).unitsGo te = .ok () (f n) :=
  State.goUnits_steps step rest n 0 (Nat.zero_add n) _ enough

/-- Units rest behind an LDW that waits. -/
theorem State.unitStep_waits (load : (s.eng te).nextLoad [] (s.eng te).loads = none) (fetches : (s.eng te).fetches = [])
    (dmas : (s.eng te).dmas = []) (macs : ∀ j < 4, ((s.eng te).ary j).macs = []) : s.unitStep te = none := by
  obtain ⟨starts, ready⟩ := Engine.no_macs macs
  unfold State.unitStep
  dsimp only
  rw [load, fetches, dmas, Engine.nextFetch, starts, ready]
  rfl

end

/-! ## Reads of engine memory -/

section

variable {s : State} {te : Nat}

@[simp] theorem State.bytes_length (s : State) (a n : Nat) : (s.bytes a n).length = n := SMap.getMany_length ..

/-- Part of a read is the read of the part. -/
theorem State.bytes_slice {a n k m : Nat} (h : k + m ≤ n) : ((s.bytes a n).drop k).take m = s.bytes (a + k) m := by
  obtain ⟨r, rfl⟩ : ∃ r, n = k + (m + r) := ⟨n - (k + m), by omega⟩
  rw [← State.bytes_append, List.drop_left' (State.bytes_length ..), ← State.bytes_append, List.take_left' (State.bytes_length ..)]

theorem State.fieldAt_bytes {a n k m : Nat} (h : k + m ≤ n) : fieldAt (s.bytes a n) k m = leNat (s.bytes (a + k) m) := by
  rw [fieldAt, State.bytes_slice h]

/-- A read of nothing is answered wherever it is. -/
theorem State.engRead_nothing (s : State) (te off : Nat) : s.engRead te off 0 = .ok [] s := (rfl)

/-- What an engine reads where the range, if it holds a byte, lies in its memory. -/
theorem State.engRead_within {off n : Nat} (ht : te < 64) (clean : s.EngineClean te) (fits : n ≠ 0 → off + n ≤ engineBytes) :
    s.engRead te off n = .ok (s.bytes (engineAt te + off) n) s := by
  by_cases none : n = 0
  · subst none
    exact s.engRead_nothing te off
  · exact State.engRead_clean ht clean (fits none)

end

/-! ## The tile of an LDW -/

/-- The metadata words of the `j`-th tile (R92). -/
def State.ldwWords (s : State) (te : Nat) (a : LdwArgs) (j : Nat) : List Nat :=
  if a.sparse then (List.range 64).map fun i =>
    fieldAt (s.bytes (engineAt te + (a.src.toNat * 16 + j * a.tstr.toNat * 16 + 32 * packedBytes a.fmt.toNat 32)) 256) (4 * i) 4 else []

/-- The `j`-th tile as it lies in engine memory (R84, R85, R112). -/
def State.ldwTile (s : State) (te : Nat) (a : LdwArgs) (j : Nat) : WeightTile :=
  WeightTile.withSums
    { fmt := a.fmt, scale := a.scale, sparse := a.sparse, words := s.ldwWords te a j, sums := [], wide := [],
      elems := (List.range 32).flatMap fun r => unpack a.fmt.toNat 32
        (s.bytes (engineAt te + (a.src.toNat * 16 + j * a.tstr.toNat * 16 + r * packedBytes a.fmt.toNat 32)) (packedBytes a.fmt.toNat 32)),
      scales := if scaleBytes a.scale.toNat = 0 then [] else (List.range (if a.sparse then 64 else 32)).map fun i =>
        leNat (s.bytes (engineAt te + (a.scl.toNat * 16 + j * a.tstr.toNat * 16 + i * scaleBytes a.scale.toNat)) (scaleBytes a.scale.toNat)) }

section

variable {s : State} {te : Nat} {h : TileHdr} {a : LdwArgs}

/-- The ranges of the `j`-th tile lie in engine memory where the command's areas do (R100). -/
theorem ldw_fits (valid : (TileOp.ldw a).valid h = true) {j : Nat} (hj : j < (arraysOf h.arym).length) :
    a.src.toNat * 16 + j * a.tstr.toNat * 16 + 32 * packedBytes a.fmt.toNat 32 ≤ engineBytes ∧
    (a.sparse = true → a.src.toNat * 16 + j * a.tstr.toNat * 16 + 32 * packedBytes a.fmt.toNat 32 + 256 ≤ engineBytes) ∧
    (scaleBytes a.scale.toNat ≠ 0 → a.scl.toNat * 16 + j * a.tstr.toNat * 16 +
      (if a.sparse then 64 else 32) * scaleBytes a.scale.toNat ≤ engineBytes) := by
  obtain ⟨-, -, areas⟩ := TileOp.valid_iff.1 valid
  have gap : j * a.tstr.toNat * 16 ≤ ((arraysOf h.arym).length - 1) * a.tstr.toNat * 16 :=
    Nat.mul_le_mul_right _ (Nat.mul_le_mul_right _ (by omega))
  refine ⟨?_, fun sparse => ?_, fun scaled => ?_⟩
  · have := rangeOf_fits (w := false) fun x hx => areas x (List.mem_append_left _ (List.mem_append_left _ hx))
    omega
  · have := areas _ (List.mem_append_left _ (List.mem_append_right _ (by rw [if_pos sparse]; exact List.mem_singleton.2 rfl)))
    dsimp only at this
    omega
  · have := rangeOf_fits (w := false) fun x hx => areas x (List.mem_append_right _ (by
      rw [if_neg (by rw [Nat.beq_eq]; exact scaled)]
      exact hx))
    omega

/-- A tile is loaded where its metadata keep the order of R92. -/
theorem State.loadTile_clean (ht : te < 64) (clean : s.EngineClean te) (valid : (TileOp.ldw a).valid h = true) {j : Nat}
    (hj : j < (arraysOf h.arym).length) : s.loadTile te a j =
      if metadataOk (s.ldwWords te a j) then .ok (s.ldwTile te a j) s else faultAs te 6 0 s := by
  obtain ⟨rows, metadata, scales⟩ := ldw_fits valid hj
  unfold State.loadTile State.ldwTile State.ldwWords
  dsimp only
  generalize a.src.toNat * 16 + j * a.tstr.toNat * 16 = base at *
  generalize a.scl.toNat * 16 + j * a.tstr.toNat * 16 = scl at *
  generalize packedBytes a.fmt.toNat 32 = row at *
  generalize scaleBytes a.scale.toNat = sb at *
  generalize (if a.sparse then 64 else 32) = nsc at *
  have elems : ((List.range 32).flatMap fun r => unpack a.fmt.toNat 32
      (((s.bytes (engineAt te + base) (32 * row)).drop (r * row)).take row)) =
      (List.range 32).flatMap fun r => unpack a.fmt.toNat 32 (s.bytes (engineAt te + (base + r * row)) row) :=
    List.flatMap_congr fun r hr => by rw [State.bytes_slice (entry_le (List.mem_range.1 hr) _), Nat.add_assoc]
  have scaling : ((List.range nsc).map fun i => fieldAt (s.bytes (engineAt te + scl) (nsc * sb)) (i * sb) sb) =
      (List.range nsc).map fun i => leNat (s.bytes (engineAt te + (scl + i * sb)) sb) :=
    List.map_congr_left fun i hi => by rw [State.fieldAt_bytes (entry_le (List.mem_range.1 hi) _), Nat.add_assoc]
  have scaleRead : s.engRead te scl (nsc * sb) = .ok (s.bytes (engineAt te + scl) (nsc * sb)) s :=
    State.engRead_within ht clean fun some => scales fun none => some (by rw [none, Nat.mul_zero])
  rw [State.engRead_clean ht clean rows, Ran.bind]
  cases sparse : a.sparse with
  | true =>
    rw [if_pos rfl, State.engRead_clean ht clean (metadata sparse), Ran.bind, scaleRead, Ran.bind, elems, scaling]
    simp only [Nat.beq_eq, if_true]
  | false =>
    rw [if_neg Bool.false_ne_true, Ran.bind, scaleRead, Ran.bind, elems, scaling]
    simp only [Nat.beq_eq, Bool.false_eq_true, if_false]

end

/-! ## The engine as an LDW goes on (R86) -/

/-- An LDW as its loaders hold it when `n` of its tiles have been loaded. -/
def ldwJob (seq : Nat) (h : TileHdr) (a : LdwArgs) (n : Nat) : LdwJob :=
  { seq, hdr := h, args := a, left := List.range' n ((arraysOf h.arym).length - n) }

/-- What is left of an LDW when `n` of its tiles have been loaded. -/
def ldwLeft (seq : Nat) (h : TileHdr) (a : LdwArgs) (n : Nat) : List LdwJob :=
  if n < (arraysOf h.arym).length then [ldwJob seq h a n] else []

/-- `e` when a loader has put tile `t`, the `j`-th of its LDW, into its array. -/
def Engine.tileIn (e : Engine) (w : LdwJob) (j : Nat) (t : WeightTile) : Engine :=
  { e.onArys [aryAt w.hdr j] (fun p => { p with shadow := some t }) with
    loads := e.loads.filterMap fun x =>
      if Nat.beq x.seq w.seq then
        let left := x.left.filter fun k => !(Nat.beq k j)
        if left.isEmpty then none else some { x with left }
      else some x }

/-- A step that goes on names no TAG. -/
theorem Ran.tagged_ok {α : Type} (t : Nat) (x : α) (s : State) : (Ran.ok x s).tagged t = .ok x s := (rfl)

theorem State.runLoad_eq (s : State) (te : Nat) (w : LdwJob) (j : Nat) : s.runLoad te w j =
    ((s.loadTile te w.args j).bind fun t s1 => .ok () (s1.onEng te fun e => e.tileIn w j t)).tagged w.hdr.tag.toNat := (rfl)

/-- An array that an LDW has been issued for, with its tile where that is among the first `n`. -/
def ArrayPipe.ldwAt (arys : List Nat) (tile : Nat → WeightTile) (n j : Nat) (p : ArrayPipe) : ArrayPipe :=
  if j ∈ arys then
    { p with seen := true, fresh := p.fresh + 1, shadow := if arys.idxOf j < n then some (tile (arys.idxOf j)) else p.shadow }
  else p

/-- Engine `e` with an LDW started and `n` of its tiles loaded. -/
def Engine.ldwAt (e : Engine) (h : TileHdr) (a : LdwArgs) (tile : Nat → WeightTile) (n : Nat) : Engine :=
  { e.withArys (ArrayPipe.ldwAt (arraysOf h.arym) tile n) with loads := ldwLeft e.issued h a n, issued := e.issued + 1 }

section

variable {e : Engine} {h : TileHdr} {a : LdwArgs} {tile : Nat → WeightTile} {n : Nat}

theorem Engine.ary_ldwAt {j : Nat} (hj : j < 4) : (e.ldwAt h a tile n).ary j = (e.ary j).ldwAt (arraysOf h.arym) tile n j :=
  Engine.ary_withArys e _ hj

theorem Engine.ldwAt_macs {j : Nat} (hj : j < 4) : ((e.ldwAt h a tile n).ary j).macs = (e.ary j).macs := by
  rw [Engine.ary_ldwAt hj, ArrayPipe.ldwAt]
  split <;> rfl

/-- An LDW starts with none of its tiles loaded. -/
theorem State.startLdw_eq {s : State} {te : Nat} (idle : (s.eng te).loads = []) (named : 0 < (arraysOf h.arym).length)
    (tile : Nat → WeightTile) : s.startLdw te h a = s.setEng te ((s.eng te).ldwAt h a tile 0) := by
  have marks : (s.eng te).onArys (arraysOf h.arym) (fun p => { p with seen := true, fresh := p.fresh + 1 }) =
      (s.eng te).withArys (ArrayPipe.ldwAt (arraysOf h.arym) tile 0) := by
    rw [Engine.onArys_eq (fun _ => arraysOf_lt) (arraysOf_nodup _)]
    refine Engine.withArys_congr fun j _ => ?_
    rw [ArrayPipe.ldwAt, if_neg (Nat.not_lt_zero _)]
  unfold State.startLdw State.onEng
  dsimp only
  rw [marks, idle, List.nil_append, Engine.ldwAt, ldwLeft, if_pos named, ldwJob, Nat.sub_zero, List.range_eq_range']

/-- The next tile goes into the next array, whose shadow buffer is empty. -/
theorem Engine.nextLoad_ldwAt (more : n < (arraysOf h.arym).length) (empty : ∀ i ∈ arraysOf h.arym, (e.ary i).shadow = none) :
    (e.ldwAt h a tile n).nextLoad [] (e.ldwAt h a tile n).loads =
      some (ldwJob e.issued h a n, n) := by
  have mem := aryAt_mem more
  have room : ((e.ldwAt h a tile n).ary (aryAt h n)).shadow = none := by
    obtain ⟨-, place⟩ := (eq_aryAt_iff more).1 rfl
    rw [Engine.ary_ldwAt (arraysOf_lt mem), ArrayPipe.ldwAt, if_pos mem, place, if_neg (Nat.lt_irrefl n)]
    exact empty _ mem
  have left : List.range' n ((arraysOf h.arym).length - n) = n :: List.range' (n + 1) ((arraysOf h.arym).length - (n + 1)) := by
    rw [← List.range'_succ]
    congr 1
    omega
  have loads : (e.ldwAt h a tile n).loads = ldwLeft e.issued h a n := rfl
  rw [loads, ldwLeft, if_pos more, Engine.nextLoad, ldwJob, left, List.find?_cons_of_pos (by simp [room])]

/-- The places left of an LDW but its first. -/
theorem filter_range' (n k : Nat) : (List.range' n (k + 1)).filter (fun j => !(Nat.beq j n)) = List.range' (n + 1) k := by
  rw [List.range'_succ, List.filter_cons_of_neg (by simp), List.filter_eq_self.2 fun j hj => ?_]
  have := (List.mem_range'_1.1 hj).1
  rw [Bool.not_eq_true', Bool.eq_false_iff, Ne, Nat.beq_eq]
  omega

/-- What is left when the next tile is loaded too. -/
theorem ldwLeft_succ (seq : Nat) (more : n < (arraysOf h.arym).length) :
    ((ldwLeft seq h a n).filterMap fun x =>
      if Nat.beq x.seq seq then
        if (x.left.filter fun k => !(Nat.beq k n)).isEmpty then none else some { x with left := x.left.filter fun k => !(Nat.beq k n) }
      else some x) = ldwLeft seq h a (n + 1) := by
  obtain ⟨k, len⟩ : ∃ k, (arraysOf h.arym).length = n + 1 + k := ⟨(arraysOf h.arym).length - (n + 1), by omega⟩
  rw [ldwLeft, if_pos more, ldwLeft, ldwJob, ldwJob, len, Nat.add_sub_cancel_left, show n + 1 + k - n = k + 1 by omega]
  simp only [List.filterMap_cons, List.filterMap_nil, Nat.beq_refl, if_true, filter_range']
  cases k with
  | zero => exact (if_neg (Nat.lt_irrefl _)).symm
  | succ k => exact (if_pos (by omega)).symm

/-- An array when the next tile is loaded too. -/
theorem ArrayPipe.ldwAt_succ (more : n < (arraysOf h.arym).length) (j : Nat) (p : ArrayPipe) :
    (if j = aryAt h n then { p.ldwAt (arraysOf h.arym) tile n j with shadow := some (tile n) } else p.ldwAt (arraysOf h.arym) tile n j) =
      p.ldwAt (arraysOf h.arym) tile (n + 1) j := by
  have this := eq_aryAt_iff (j := j) more
  unfold ArrayPipe.ldwAt
  by_cases mem : j ∈ arraysOf h.arym
  · rw [if_pos mem, if_pos mem]
    by_cases place : (arraysOf h.arym).idxOf j = n
    · rw [if_pos (this.2 ⟨mem, place⟩), place, if_pos (Nat.lt_succ_self n)]
    · rw [if_neg fun here => place (this.1 here).2]
      congr 1
      simp only [Nat.lt_succ_iff_lt_or_eq, place, or_false]
  · rw [if_neg fun here => mem (this.1 here).1, if_neg mem, if_neg mem]

/-- The engine when the next tile is loaded too. -/
theorem Engine.ldwAt_succ (more : n < (arraysOf h.arym).length) :
    (e.ldwAt h a tile n).tileIn (ldwJob e.issued h a n) n (tile n) = e.ldwAt h a tile (n + 1) := by
  have mem := aryAt_mem more
  have loaded : (e.withArys (ArrayPipe.ldwAt (arraysOf h.arym) tile n)).withArys
      (fun j p => if j ∈ [aryAt h n] then { p with shadow := some (tile n) } else p) =
      e.withArys (ArrayPipe.ldwAt (arraysOf h.arym) tile (n + 1)) := by
    rw [Engine.withArys_withArys]
    refine Engine.withArys_congr fun j _ => ?_
    simp only [List.mem_singleton]
    exact ArrayPipe.ldwAt_succ more j _
  have left : ((e.ldwAt h a tile n).loads.filterMap fun x =>
      if Nat.beq x.seq (ldwJob e.issued h a n).seq then
        if (x.left.filter fun k => !(Nat.beq k n)).isEmpty then none else some { x with left := x.left.filter fun k => !(Nat.beq k n) }
      else some x) = ldwLeft e.issued h a (n + 1) := ldwLeft_succ e.issued more
  unfold Engine.tileIn
  dsimp only
  rw [left, Engine.onArys_eq (fun k hk => arraysOf_lt (List.mem_singleton.1 hk ▸ mem)) (List.nodup_singleton _)]
  exact congrArg (fun x : Engine => { x with loads := ldwLeft e.issued h a (n + 1), issued := e.issued + 1 }) loaded

end

/-! ## LDW -/

/-- A command that must name an array names one (R99). -/
theorem arraysOf_pos {o : TileOp} {h : TileHdr} (uses : o.usesArrays = true) (valid : o.valid h = true) : 0 < (arraysOf h.arym).length := by
  obtain ⟨-, named, -⟩ := TileOp.valid_iff.1 valid
  have some : ∀ m : BitVec 4, Nat.beq m.toNat 0 = false → 0 < (arraysOf m).length := by decide
  exact some h.arym (by simpa [uses] using named)

/-- `s` with an LDW started on its engine and `n` of its tiles loaded. -/
def State.ldwAt (s : State) (te : Nat) (h : TileHdr) (a : LdwArgs) (n : Nat) : State :=
  s.setEng te ((s.eng te).ldwAt h a (s.ldwTile te a) n)

section

variable {s : State} {te : Nat} {h : TileHdr} {a : LdwArgs} {n : Nat}

@[simp] theorem State.eng_ldwAt : (s.ldwAt te h a n).eng te = (s.eng te).ldwAt h a (s.ldwTile te a) n := State.eng_setEng_same ..

/-- The next tile is loaded, or its metadata stop the engine. -/
theorem State.unitStep_ldwAt (ht : te < 64) (clean : s.EngineClean te) (valid : (TileOp.ldw a).valid h = true)
    (more : n < (arraysOf h.arym).length) (empty : ∀ i ∈ arraysOf h.arym, ((s.eng te).ary i).shadow = none) :
    (s.ldwAt te h a n).unitStep te = some (if metadataOk (s.ldwWords te a n) then .ok () (s.ldwAt te h a (n + 1))
      else (faultAs te 6 0 (s.ldwAt te h a n)).tagged h.tag.toNat) := by
  have load := State.loadTile_clean (s := s.ldwAt te h a n) ht (clean.congr rfl rfl rfl) valid more
  have words : (s.ldwAt te h a n).ldwWords te a n = s.ldwWords te a n := rfl
  have tile : (s.ldwAt te h a n).ldwTile te a n = s.ldwTile te a n := rfl
  have args : (ldwJob (s.eng te).issued h a n).args = a := rfl
  rw [words, tile] at load
  rw [State.unitStep_load (by rw [State.eng_ldwAt]; exact Engine.nextLoad_ldwAt more empty), State.runLoad_eq, args, load]
  split
  · rw [Ran.bind, Ran.tagged_ok, State.onEng, State.eng_ldwAt, Engine.ldwAt_succ more, State.ldwAt, State.setEng_setEng, State.ldwAt]
  · rfl

/-- Nothing but an LDW's own loads is at work after it has started. -/
theorem State.unitStep_ldwAt_rests (quiet : (s.eng te).quiet = true)
    (load : ((s.eng te).ldwAt h a (s.ldwTile te a) n).nextLoad [] (ldwLeft (s.eng te).issued h a n) = none) :
    (s.ldwAt te h a n).unitStep te = none := by
  obtain ⟨-, fetches, dmas, macs⟩ := Engine.quiet_parts quiet
  refine State.unitStep_waits (by rw [State.eng_ldwAt]; exact load) ?_ ?_ fun j hj => ?_
  · rw [State.eng_ldwAt]; exact fetches
  · rw [State.eng_ldwAt]; exact dmas
  · rw [State.eng_ldwAt, Engine.ldwAt_macs hj, macs j hj]

theorem ldwLeft_all (seq : Nat) : ldwLeft seq h a (arraysOf h.arym).length = [] := if_neg (Nat.lt_irrefl _)

/-- LDW loads every tile where its buffers are empty and its metadata in order. -/
theorem State.unitsGo_ldwAt (ht : te < 64) (run : s.MayRun te h (.ldw a))
    (good : ∀ j < (arraysOf h.arym).length, metadataOk (s.ldwWords te a j) = true)
    (empty : ∀ i ∈ arraysOf h.arym, ((s.eng te).ary i).shadow = none) :
    (s.ldwAt te h a 0).unitsGo te = .ok () (s.ldwAt te h a (arraysOf h.arym).length) := by
  have ⟨⟨_, _, quiet, clean⟩, valid, _⟩ := run
  refine State.unitsGo_steps (f := s.ldwAt te h a) (fun i hi => ?_) (State.unitStep_ldwAt_rests quiet ?_) ?_
  · rw [State.unitStep_ldwAt ht clean valid hi empty, if_pos (good i hi)]
  · rw [ldwLeft_all]
    rfl
  · have loads : ((s.eng te).ldwAt h a (s.ldwTile te a) 0).loads = ldwLeft (s.eng te).issued h a 0 := rfl
    rw [State.eng_ldwAt, Engine.toDo, loads, ldwLeft, if_pos (arraysOf_pos rfl valid)]
    simp only [List.foldl_cons, List.foldl_nil, ldwJob, List.length_range']
    omega

end

/-- LDW behind a tile that nobody has taken waits (R86). -/
theorem State.unitStep_ldwAt_waits {s : State} {te k : Nat} {h : TileHdr} {a : LdwArgs} {x : WeightTile} (quiet : (s.eng te).quiet = true)
    (one : arraysOf h.arym = [k]) (held : ((s.eng te).ary k).shadow = some x) : (s.ldwAt te h a 0).unitStep te = none := by
  have mem : k ∈ arraysOf h.arym := one ▸ List.mem_singleton.2 rfl
  have full : ((((s.eng te).ldwAt h a (s.ldwTile te a) 0).ary (aryAt h 0)).shadow).isNone = false := by
    rw [show aryAt h 0 = k by rw [aryAt, one]; rfl, Engine.ary_ldwAt (arraysOf_lt mem), ArrayPipe.ldwAt, if_pos mem,
      if_neg (Nat.not_lt_zero _), held]
    rfl
  refine State.unitStep_ldwAt_rests quiet ?_
  have left : (ldwJob (s.eng te).issued h a 0).left = [0] := by
    rw [ldwJob, one]
    rfl
  have hdr : (ldwJob (s.eng te).issued h a 0).hdr = h := rfl
  rw [ldwLeft, if_pos (by rw [one]; exact Nat.one_pos), Engine.nextLoad, left, hdr, List.find?_cons_of_neg (by rw [full]; simp),
    List.find?_nil]
  rfl

/-- The row of an LDW whose units come to rest with `n` tiles loaded. -/
theorem exec_ldw {s : State} {te : Fin 64} {h : TileHdr} {a : LdwArgs} {n : Nat} (run : s.MayRun te h (.ldw a))
    (goes : (s.ldwAt te h a 0).unitsGo te = .ok () (s.ldwAt te h a n)) : exec (.ldw te h a) s = .next (s.ldwAt te h a n) := by
  have ⟨⟨_, _, quiet, _⟩, valid, _⟩ := run
  obtain ⟨loads, -, -, -⟩ := Engine.quiet_parts quiet
  exact exec_tileOf_starts rfl run (congrArg (Ran.ok ()) (State.startLdw_eq loads (arraysOf_pos rfl valid) _)) goes nofun

/-- A tile whose metadata break the order of R92 stops the engine with cause 0x6. -/
theorem exec_ldw_stops {s : State} {te : Fin 64} {h : TileHdr} {a : LdwArgs} (run : s.MayRun te h (.ldw a))
    (bad : metadataOk (s.ldwWords te a 0) = false) (empty : ∀ i ∈ arraysOf h.arym, ((s.eng te).ary i).shadow = none) :
    ∃ u : State, exec (.ldw te h a) s = .next u.settle ∧ u.fld (Reg.TEN_STATUS te) Fld.TEN_STATUS_CAUSE = 6 := by
  have ⟨⟨_, _, quiet, clean⟩, valid, _⟩ := run
  obtain ⟨loads, -, -, -⟩ := Engine.quiet_parts quiet
  have step := State.unitStep_ldwAt te.isLt clean valid (arraysOf_pos rfl valid) empty
  rw [bad, if_neg Bool.false_ne_true] at step
  have stops : ((s.runTile te h [] (.ldw a)).bind fun _ t => t.unitsGo te) =
      (faultAs te 6 0 (s.ldwAt te h a 0) : Ran Unit).tagged h.tag.toNat := by
    have start : s.runTile te h [] (.ldw a) = .ok () (s.ldwAt te h a 0) :=
      congrArg (Ran.ok ()) (State.startLdw_eq loads (arraysOf_pos rfl valid) _)
    rw [start, Ran.bind, State.unitsGo, Engine.toDo, State.goUnits_some step]
    rfl
  obtain ⟨u, he, -, cause, -⟩ := exec_tileOf_stops (i := .ldw te h a) rfl run stops (show 6 < 16 by decide) rfl
  exact ⟨u, he, cause⟩

/-! ## The vectors of an LDA -/

/-- Vector `i` as it lies in engine memory (R89). -/
def State.ldaVector (s : State) (te : Nat) (a : LdaArgs) (i : Nat) : ActVector :=
  let nv := if a.vlen then 2 else 1
  let sb := scaleBytes a.scale.toNat
  { fmt := a.fmt, scale := a.scale,
    elems := unpack a.fmt.toNat (32 * nv)
      (s.bytes (engineAt te + (a.src.toNat * 16 + i * a.pitch.toNat * 16)) (packedBytes a.fmt.toNat (32 * nv))),
    scales := if sb = 0 then [] else (List.range nv).map fun b =>
      leNat (s.bytes (engineAt te + (a.scl.toNat * 16 + (i * nv + b) * sb)) sb) }

/-- A vector is fetched as it lies there. -/
theorem State.loadVector_clean {s : State} {te : Nat} {h : TileHdr} {a : LdaArgs} (ht : te < 64) (clean : s.EngineClean te)
    (valid : (TileOp.lda a).valid h = true) {i : Nat} (hi : i < a.m.toNat) : s.loadVector te a i = .ok (s.ldaVector te a i) s := by
  obtain ⟨-, -, areas⟩ := TileOp.valid_iff.1 valid
  have data := rangeOf_fits (w := false) fun x hx => areas x (List.mem_append_left _ hx)
  have scaling := rangeOf_fits (w := false) fun x hx => areas x (List.mem_append_right _ hx)
  have before : i * a.pitch.toNat * 16 ≤ (a.m.toNat - 1) * a.pitch.toNat * 16 :=
    Nat.mul_le_mul_right _ (Nat.mul_le_mul_right _ (by omega))
  unfold State.loadVector State.ldaVector
  dsimp only
  generalize (if a.vlen then 2 else 1) = nv at *
  generalize scaleBytes a.scale.toNat = sb at *
  have entry := entry_le hi (nv * sb)
  rw [← Nat.mul_assoc, ← Nat.mul_assoc] at entry
  have scales : ((List.range nv).map fun b => fieldAt (s.bytes (engineAt te + (a.scl.toNat * 16 + i * nv * sb)) (nv * sb)) (b * sb) sb) =
      (List.range nv).map fun b => leNat (s.bytes (engineAt te + (a.scl.toNat * 16 + (i * nv + b) * sb)) sb) :=
    List.map_congr_left fun b hb => by
      rw [State.fieldAt_bytes (entry_le (List.mem_range.1 hb) _), Nat.add_mul, Nat.add_assoc, Nat.add_assoc]
  rw [State.engRead_clean ht clean (by omega), Ran.bind, State.engRead_clean ht clean (by omega), Ran.bind, scales]
  simp only [Nat.beq_eq]

/-! ## The engine as an LDA goes on (R89) -/

/-- An LDA as its loaders hold it when `n` of its vectors have been fetched. -/
def ldaJob (seq : Nat) (h : TileHdr) (a : LdaArgs) (n : Nat) : LdaJob := { seq, hdr := h, args := a, next := n }

/-- What is left of an LDA when `n` of its vectors have been fetched. -/
def ldaLeft (seq : Nat) (h : TileHdr) (a : LdaArgs) (n : Nat) : List LdaJob := if n < a.m.toNat then [ldaJob seq h a n] else []

/-- `e` when the loaders have appended vector `v` of an LDA to the queues. -/
def Engine.vectorIn (e : Engine) (w : LdaJob) (v : ActVector) : Engine :=
  { e.onArys (arraysOf w.hdr.arym) (fun p => { p with queue := p.queue ++ [v] }) with
    fetches := e.fetches.filterMap fun x =>
      if Nat.beq x.seq w.seq then (if Nat.ble x.args.m.toNat (x.next + 1) then none else some { x with next := x.next + 1 })
      else some x }

theorem State.runFetch_eq (s : State) (te : Nat) (w : LdaJob) : s.runFetch te w =
    ((s.loadVector te w.args w.next).bind fun v s1 => .ok () (s1.onEng te fun e => e.vectorIn w v)).tagged w.hdr.tag.toNat := (rfl)

/-- An array that an LDA names, with the first `n` vectors in its queue. -/
def ArrayPipe.ldaAt (arys : List Nat) (vec : Nat → ActVector) (n j : Nat) (p : ArrayPipe) : ArrayPipe :=
  if j ∈ arys then { p with queue := p.queue ++ (List.range n).map vec } else p

/-- Engine `e` with an LDA started and `n` of its vectors fetched. -/
def Engine.ldaAt (e : Engine) (h : TileHdr) (a : LdaArgs) (vec : Nat → ActVector) (n : Nat) : Engine :=
  { e.withArys (ArrayPipe.ldaAt (arraysOf h.arym) vec n) with fetches := ldaLeft e.issued h a n, issued := e.issued + 1 }

section

variable {e : Engine} {h : TileHdr} {a : LdaArgs} {vec : Nat → ActVector} {n : Nat}

theorem Engine.ary_ldaAt {j : Nat} (hj : j < 4) : (e.ldaAt h a vec n).ary j = (e.ary j).ldaAt (arraysOf h.arym) vec n j :=
  Engine.ary_withArys e _ hj

theorem Engine.ldaAt_macs {j : Nat} (hj : j < 4) : ((e.ldaAt h a vec n).ary j).macs = (e.ary j).macs := by
  rw [Engine.ary_ldaAt hj, ArrayPipe.ldaAt]
  split <;> rfl

/-- An LDA starts with none of its vectors fetched. -/
theorem State.startLda_eq {s : State} {te : Nat} (idle : (s.eng te).fetches = []) (some : 0 < a.m.toNat) (vec : Nat → ActVector) :
    s.startLda te h a = s.setEng te ((s.eng te).ldaAt h a vec 0) := by
  have same : (s.eng te).arrays = ((s.eng te).withArys (ArrayPipe.ldaAt (arraysOf h.arym) vec 0)).arrays := by
    refine Engine.arrays_ext fun j hj => ?_
    rw [Engine.ary_withArys _ _ hj, ArrayPipe.ldaAt, List.range_zero, List.map_nil, List.append_nil, ite_self]
  unfold State.startLda State.onEng
  dsimp only
  rw [idle, List.nil_append, same, Engine.ldaAt, ldaLeft, if_pos some, ldaJob]
  rfl

/-- The next vector is fetched where every queue has room for it. -/
theorem Engine.nextFetch_ldaAt (more : n < a.m.toNat) (room : ∀ i ∈ arraysOf h.arym, (e.ary i).queue.length + a.m.toNat ≤ 64) :
    (e.ldaAt h a vec n).nextFetch [] (e.ldaAt h a vec n).fetches = some (ldaJob e.issued h a n) := by
  have fetches : (e.ldaAt h a vec n).fetches = ldaLeft e.issued h a n := rfl
  have hdr : (ldaJob e.issued h a n).hdr = h := rfl
  have free : ((arraysOf h.arym).all fun i => !(([] : List Nat).contains i) && Nat.blt ((e.ldaAt h a vec n).ary i).queue.length 64) = true := by
    refine List.all_eq_true.2 fun i mem => ?_
    have := room i mem
    rw [List.contains_nil, Bool.not_false, Bool.true_and, Nat.blt_eq, Engine.ary_ldaAt (arraysOf_lt mem), ArrayPipe.ldaAt, if_pos mem]
    simp only [List.length_append, List.length_map, List.length_range]
    omega
  rw [fetches, ldaLeft, if_pos more, Engine.nextFetch, hdr, if_pos free]

/-- What is left when the next vector is fetched too. -/
theorem ldaLeft_succ (seq : Nat) (more : n < a.m.toNat) :
    ((ldaLeft seq h a n).filterMap fun x =>
      if Nat.beq x.seq seq then (if Nat.ble x.args.m.toNat (x.next + 1) then none else some { x with next := x.next + 1 })
      else some x) = ldaLeft seq h a (n + 1) := by
  rw [ldaLeft, if_pos more, ldaLeft, ldaJob, ldaJob]
  simp only [List.filterMap_cons, List.filterMap_nil, Nat.beq_refl, if_true, Nat.ble_eq]
  by_cases last : a.m.toNat ≤ n + 1
  · simp only [if_pos last, if_neg (show ¬n + 1 < a.m.toNat by omega)]
  · simp only [if_neg last, if_pos (show n + 1 < a.m.toNat by omega)]

/-- The engine when the next vector is fetched too. -/
theorem Engine.ldaAt_succ (more : n < a.m.toNat) :
    (e.ldaAt h a vec n).vectorIn (ldaJob e.issued h a n) (vec n) = e.ldaAt h a vec (n + 1) := by
  have fetched : (e.withArys (ArrayPipe.ldaAt (arraysOf h.arym) vec n)).withArys
      (fun j p => if j ∈ arraysOf h.arym then { p with queue := p.queue ++ [vec n] } else p) =
      e.withArys (ArrayPipe.ldaAt (arraysOf h.arym) vec (n + 1)) := by
    rw [Engine.withArys_withArys]
    refine Engine.withArys_congr fun j _ => ?_
    unfold ArrayPipe.ldaAt
    split
    · rw [List.range_succ, List.map_append, ← List.append_assoc]
      rfl
    · rfl
  have left : ((e.ldaAt h a vec n).fetches.filterMap fun x =>
      if Nat.beq x.seq (ldaJob e.issued h a n).seq then
        (if Nat.ble x.args.m.toNat (x.next + 1) then none else some { x with next := x.next + 1 })
      else some x) = ldaLeft e.issued h a (n + 1) := ldaLeft_succ e.issued more
  unfold Engine.vectorIn
  rw [left, Engine.onArys_eq (fun _ => arraysOf_lt) (arraysOf_nodup _)]
  exact congrArg (fun x : Engine => { x with fetches := ldaLeft e.issued h a (n + 1), issued := e.issued + 1 }) fetched

end

/-! ## LDA -/

/-- `s` with an LDA started on its engine and `n` of its vectors fetched. -/
def State.ldaAt (s : State) (te : Nat) (h : TileHdr) (a : LdaArgs) (n : Nat) : State :=
  s.setEng te ((s.eng te).ldaAt h a (s.ldaVector te a) n)

section

variable {s : State} {te : Nat} {h : TileHdr} {a : LdaArgs} {n : Nat}

@[simp] theorem State.eng_ldaAt : (s.ldaAt te h a n).eng te = (s.eng te).ldaAt h a (s.ldaVector te a) n := State.eng_setEng_same ..

/-- The next vector goes into every queue that the LDA names. -/
theorem State.unitStep_ldaAt (ht : te < 64) (run : s.MayRun te h (.lda a)) (more : n < a.m.toNat)
    (room : ∀ i ∈ arraysOf h.arym, ((s.eng te).ary i).queue.length + a.m.toNat ≤ 64) :
    (s.ldaAt te h a n).unitStep te = some (.ok () (s.ldaAt te h a (n + 1))) := by
  have ⟨⟨_, _, quiet, clean⟩, valid, _⟩ := run
  obtain ⟨loads, -, -, -⟩ := Engine.quiet_parts quiet
  have load := State.loadVector_clean (s := s.ldaAt te h a n) ht (clean.congr rfl rfl rfl) valid more
  have vector : (s.ldaAt te h a n).ldaVector te a n = s.ldaVector te a n := rfl
  have args : (ldaJob (s.eng te).issued h a n).args = a := rfl
  have next : (ldaJob (s.eng te).issued h a n).next = n := rfl
  rw [vector] at load
  rw [State.unitStep_fetch (by rw [State.eng_ldaAt]; exact loads) (by rw [State.eng_ldaAt]; exact Engine.nextFetch_ldaAt more room),
    State.runFetch_eq, args, next, load, Ran.bind, Ran.tagged_ok, State.onEng, State.eng_ldaAt, Engine.ldaAt_succ more, State.ldaAt,
    State.setEng_setEng, State.ldaAt]

/-- Nothing is at work when the last vector has been fetched. -/
theorem State.unitStep_ldaAt_rests (quiet : (s.eng te).quiet = true) : (s.ldaAt te h a a.m.toNat).unitStep te = none := by
  obtain ⟨loads, -, dmas, macs⟩ := Engine.quiet_parts quiet
  refine State.unitStep_idle ?_
  rw [State.eng_ldaAt]
  refine ⟨loads, if_neg (Nat.lt_irrefl _), dmas, fun j hj => ?_⟩
  rw [Engine.ldaAt_macs hj, macs j hj]

end

/-- The row of an LDA whose vectors the queues have room for. -/
theorem exec_lda {s : State} {te : Fin 64} {h : TileHdr} {a : LdaArgs} (run : s.MayRun te h (.lda a))
    (room : ∀ i ∈ arraysOf h.arym, ((s.eng te).ary i).queue.length + a.m.toNat ≤ 64) :
    exec (.lda te h a) s = .next (s.ldaAt te h a a.m.toNat) := by
  have ⟨⟨_, _, quiet, _⟩, valid, _⟩ := run
  obtain ⟨-, fetches, -, -⟩ := Engine.quiet_parts quiet
  have some : 0 < a.m.toNat := by
    obtain ⟨fields, -, -⟩ := TileOp.valid_iff.1 valid
    simp only [TileOp.fieldsOk, Bool.and_eq_true, Bool.not_eq_true', Bool.eq_false_iff, Ne, Nat.beq_eq] at fields
    exact Nat.pos_of_ne_zero fields.2
  have start : s.runTile te h [] (.lda a) = .ok () (s.ldaAt te h a 0) := congrArg (Ran.ok ()) (State.startLda_eq fetches some _)
  refine exec_tileOf_starts rfl run start
    (State.unitsGo_steps (f := s.ldaAt te h a) (fun i hi => State.unitStep_ldaAt te.isLt run hi room) (State.unitStep_ldaAt_rests quiet) ?_) nofun
  have left : ((s.eng te).ldaAt h a (s.ldaVector te a) 0).fetches = ldaLeft (s.eng te).issued h a 0 := rfl
  rw [State.eng_ldaAt, Engine.toDo, left, ldaLeft, if_pos some]
  simp only [List.foldl_cons, List.foldl_nil, ldaJob]
  omega

end Sys2Proof.Machine
end

section
open Sys2Proof Sys2Proof.Machine

/-- Settles O24: an LDW goes from `n` tiles loaded to `n + 1`, an LDA from `n` vectors fetched to `n + 1`, until nothing is left, a tile
nobody took holds the LDW, or the order of R92 is broken. -/
theorem arrayLoads : Obligations.ArrayLoads := by
  intro s te h
  dsimp only
  have others (e : Engine) : s.setEng te e = { s with engines := (s.setEng te e).engines } ∧
      ∀ n : Fin 64, n ≠ te → (s.setEng te e).eng n = s.eng n :=
    ⟨rfl, fun n ne => State.eng_setEng_other (by omega)⟩
  refine ⟨fun a run => ⟨fun good empty => ?_, fun k x one held => ?_, fun bad empty _ => exec_ldw_stops run bad empty⟩, fun a run room => ?_⟩
  · refine ⟨_, exec_ldw run (State.unitsGo_ldwAt te.isLt run good empty), others _, ?_, fun i hi => ?_⟩
    · obtain ⟨kvl, -, fetches, dmas, macs⟩ := (Engine.quiet_iff _).1 run.1.2.2.1
      rw [State.eng_ldwAt, Engine.quiet_iff]
      exact ⟨kvl, ldwLeft_all _, fetches, dmas, fun j hj => (Engine.ldwAt_macs hj).trans (macs j hj)⟩
    · rw [State.eng_ldwAt, Engine.ary_ldwAt hi, ArrayPipe.ldwAt]
      split
      · rename_i mem
        rw [if_pos (List.idxOf_lt_length_iff.2 mem)]
        rfl
      · rfl
  · have rests := State.unitStep_ldwAt_waits (a := a) run.1.2.2.1 one held
    refine ⟨_, exec_ldw run (State.goUnits_none rests _), others _, ?_, fun i hi => ?_⟩
    · rw [State.eng_ldwAt]
      change ldwLeft _ _ _ _ = _
      rw [ldwLeft, one, if_pos (show 0 < [k].length from Nat.one_pos), ldwJob, one]
      rfl
    · rw [State.eng_ldwAt, Engine.ary_ldwAt hi, ArrayPipe.ldwAt, if_neg (Nat.not_lt_zero _)]
  · refine ⟨_, exec_lda run room, others _, ?_, fun i hi => ?_⟩
    · obtain ⟨kvl, loads, -, dmas, macs⟩ := (Engine.quiet_iff _).1 run.1.2.2.1
      rw [State.eng_ldaAt, Engine.quiet_iff]
      exact ⟨kvl, loads, if_neg (Nat.lt_irrefl _), dmas, fun j hj => (Engine.ldaAt_macs hj).trans (macs j hj)⟩
    · rw [State.eng_ldaAt, Engine.ary_ldaAt hi, ArrayPipe.ldaAt]
      rfl

end

section
/-!
SUPPORT. Residency and the KV steps (R161, R163, R168, R217, R218, R228): what zeroing shares leaves of memory and state, and each event as
its guard and its effect.
-/

namespace Sys2Proof.Machine

/-! ## Zeroing of shares (R218) -/

/-- From `s` to `t` bytes of memory have become 0; contexts and registers are as they were. -/
structure Zeroes (s t : State) : Prop where
  ctxs : t.ctxs = s.ctxs
  regs : t.regs = s.regs
  bytes (a : Nat) : t.byte a = 0#8 ∨ t.byte a = s.byte a

namespace Zeroes

theorem refl (s : State) : Zeroes s s := ⟨rfl, rfl, fun _ => .inr rfl⟩

theorem trans {s t u : State} (h : Zeroes s t) (k : Zeroes t u) : Zeroes s u :=
  ⟨k.ctxs.trans h.ctxs, k.regs.trans h.regs, fun a => (k.bytes a).elim .inl fun same => same ▸ h.bytes a⟩

/-- A byte that is 0 stays so. -/
theorem keeps_zero {s t : State} (h : Zeroes s t) {a : Nat} (zero : s.byte a = 0#8) : t.byte a = 0#8 :=
  (h.bytes a).elim id fun same => same.trans zero

section foldl
variable {α : Type} {f : State → α → State}

theorem foldl (h : ∀ s x, Zeroes s (f s x)) (xs : List α) (s : State) : Zeroes s (xs.foldl f s) := by
  induction xs generalizing s with
  | nil => exact refl s
  | cons x xs ih => exact (h s x).trans (ih _)

/-- What one element of the list zeroes is 0 in the end. -/
theorem foldl_zero (h : ∀ s x, Zeroes s (f s x)) {x : α} {a : Nat} (zero : ∀ s, (f s x).byte a = 0#8) {xs : List α} (mem : x ∈ xs)
    (s : State) : (xs.foldl f s).byte a = 0#8 := by
  induction xs generalizing s with
  | nil => exact absurd mem List.not_mem_nil
  | cons y ys ih =>
    rcases List.mem_cons.1 mem with rfl | later
    · exact (foldl h ys _).keeps_zero (zero s)
    · exact ih later _

end foldl

end Zeroes

theorem State.byte_wipe (s : State) (pa n a : Nat) : (s.wipe pa n).byte a = if pa ≤ a ∧ a < pa + n then 0#8 else s.byte a :=
  SMap.get_clear

theorem Zeroes.wipe (s : State) (pa n : Nat) : Zeroes s (s.wipe pa n) := by
  refine ⟨rfl, rfl, fun a => ?_⟩
  rw [State.byte_wipe]
  split
  · exact .inl rfl
  · exact .inr rfl

theorem Zeroes.wipeShares (s : State) (p : Partition) : Zeroes s (s.wipeShares p) :=
  (foldl (fun s _ => wipe s _ _) _ s).trans (foldl (fun s _ => wipe s _ _) _ _)

/-- The engine share of a partition is 0 once its shares are zeroed. -/
theorem State.byte_wipeShares (s : State) {p : Partition} {te a : Nat} (engine : te ∈ enginesOf (pusOf p.puMask))
    (lo : engineAt te + p.eoff * 0x10000 ≤ a) (hi : a < engineAt te + p.eoff * 0x10000 + p.eshare * 0x10000) :
    (s.wipeShares p).byte a = 0#8 := by
  refine Zeroes.keeps_zero (.foldl (fun s _ => .wipe s _ _) _ _) ?_
  refine Zeroes.foldl_zero (fun s _ => .wipe s _ _) (fun s => ?_) engine s
  rw [State.byte_wipe, if_pos ⟨lo, hi⟩]

theorem shareZeroingDone_zeroes (s : State) (n : Fin 32) :
    ∃ u : State, exec (.shareZeroingDone n) s = .next u.settle ∧ (u.ctx n).zeroing = [] ∧
      (∀ m : Fin 32, m ≠ n → u.ctx m = s.ctx m) ∧ u.regs = s.regs ∧ (∀ a, u.byte a = 0#8 ∨ u.byte a = s.byte a) ∧
      ∀ p ∈ (s.ctx n).zeroing, ∀ te ∈ enginesOf (pusOf p.puMask), ∀ a, engineAt te + p.eoff * 0x10000 ≤ a →
        a < engineAt te + p.eoff * 0x10000 + p.eshare * 0x10000 → u.byte a = 0#8 := by
  have wiped : Zeroes s ((s.ctx n).zeroing.foldl (fun s p => s.wipeShares p) s) := .foldl .wipeShares _ s
  refine ⟨_, rfl, ?_, fun m other => ?_, wiped.regs, wiped.bytes, fun p left te engine a lo hi => ?_⟩
  · rw [State.ctx_setCtx_same]
  · rw [State.ctx_setCtx_other (by omega), State.ctx, wiped.ctxs, ← State.ctx]
  · exact Zeroes.foldl_zero .wipeShares (fun s => s.byte_wipeShares engine lo hi) left s

/-! ## Events with a guard -/

open Host (Outcome)

/-- An event that has its effect where `b` holds and changes nothing otherwise, by what `b` says. -/
theorem next_guarded {o : Outcome State Fault Refusal} {b : Bool} {t s : State} {P Q : Prop} [Decidable P]
    (run : o = .next (if b then t else s)) (guard : b = true ↔ P) (effect : o = .next t → Q) : if P then Q else o = .next s := by
  by_cases h : P
  · rw [if_pos h]
    exact effect (run.trans (congrArg _ (if_pos (guard.2 h))))
  · rw [if_neg h]
    exact run.trans (congrArg _ (if_neg (mt guard.1 h)))

theorem exec_makeResident (s : State) (n : Fin 32) :
    if s.millerRuns = true ∧ s.mayTake n = true then exec (.makeResident n) s = .next (s.takeShares n).settle
    else exec (.makeResident n) s = .next s :=
  next_guarded rfl Bool.and_eq_true_iff id

/-- WEIGHT_COPY_DONE may end the copies: the guard of the model, by what it says. -/
theorem copies_end_iff (s : State) (n : Fin 32) :
    ((s.ctx n).resident && !(s.ctx n).copying.isEmpty && !((s.partsOf n).any s.beingZeroed)) = true ↔
      (s.ctx n).resident = true ∧ (s.ctx n).copying ≠ [] ∧ ∀ p ∈ s.partsOf n, s.beingZeroed p = false := by
  simp only [Bool.and_eq_true, Bool.not_eq_true', List.isEmpty_eq_false_iff, List.any_eq_false, Bool.not_eq_true, and_assoc]

theorem weightCopyDone_ends (s : State) (n : Fin 32) :
    if (s.ctx n).resident = true ∧ (s.ctx n).copying ≠ [] ∧ (∀ p ∈ s.partsOf n, s.beingZeroed p = false) then
      ∃ u : State, exec (.weightCopyDone n) s = .next u.settle ∧ (u.ctx n).copying = [] ∧ (u.ctx n).weightsIn = true
    else exec (.weightCopyDone n) s = .next s := by
  refine next_guarded rfl (copies_end_iff s n) fun run => ⟨_, run, ?_⟩
  rw [State.ctx_setCtx_same]
  exact ⟨rfl, rfl⟩

theorem exec_graceExpiry (s : State) (n : Fin 32) :
    if 0 ≤ s.pastGrace n then exec (.graceExpiry n) s = .next (s.settleAnd true) else exec (.graceExpiry n) s = .next s :=
  next_guarded rfl decide_eq_true_iff id

/-! ## KV steps -/

section
variable {s : State} {n : Fin 32} {op : KvOp}

theorem exec_kvCopyDone (action : (s.ctx n).kvOp = some op) (copying : op.stage = .copying) :
    exec (.kvCopyDone n) s = .next (kvTake n op (s.kvCopied n op)).settle := by
  change execKvCopyDone n s = _
  rw [execKvCopyDone, action]
  exact congrArg _ (if_pos (decide_eq_true copying))

theorem exec_kvFenceComplete (action : (s.ctx n).kvOp = some op) (fencing : op.stage = .fencing ∨ op.stage = .fencingChild) :
    exec (.kvFenceComplete n) s = .next (kvTake n op (s.kvFenced n op)).settle := by
  have guard : (decide (op.stage = .fencing) || decide (op.stage = .fencingChild)) = true := by
    rwa [Bool.or_eq_true, decide_eq_true_iff, decide_eq_true_iff]
  change execKvFenceComplete n s = _
  rw [execKvFenceComplete, action]
  exact congrArg _ (if_pos guard)

theorem exec_kvCopyDone_none (idle : (s.ctx n).kvOp = none) : exec (.kvCopyDone n) s = .next s := by
  change execKvCopyDone n s = _
  rw [execKvCopyDone, idle]

theorem exec_kvFenceComplete_none (idle : (s.ctx n).kvOp = none) : exec (.kvFenceComplete n) s = .next s := by
  change execKvFenceComplete n s = _
  rw [execKvFenceComplete, idle]

end

end Sys2Proof.Machine
end

section
open Sys2Proof Sys2Proof.Machine

/-- Settles O32: each event is its guard and its effect; the shares that a context left are 0 since zeroing one share never undoes
another. -/
theorem residency : Obligations.Residency := by
  intro s n
  exact ⟨exec_makeResident s n, weightCopyDone_ends s n, shareZeroingDone_zeroes s n, exec_graceExpiry s n,
    fun _ => exec_kvCopyDone, fun _ => exec_kvFenceComplete, fun idle => ⟨exec_kvCopyDone_none idle, exec_kvFenceComplete_none idle⟩⟩

end

section
/-!
SUPPORT. Doorbell writes (R183, R184, R426, R482): the state that a granted write finds, and what the write of each tail and of DB_CQ_HEAD
does to it.
-/

namespace Sys2Proof.Machine

open Host (Outcome)

/-! ## The state that a granted write finds -/

section
variable {α : Type} (s : State) (req : Req)

/-- The replacement of a label shows in registers alone. -/
theorem State.relabel_apart (f : State → α) (apart : ∀ regs, f { s with regs } = f s) : f (s.relabel req) = f s :=
  (congrArg f (s.relabel_frame req)).trans (apart _)

theorem State.ctx_relabel (n : Nat) : (s.relabel req).ctx n = s.ctx n := s.relabel_apart req (·.ctx n) fun _ => rfl

theorem State.gfxQueue_relabel (n : Nat) : (s.relabel req).gfxQueue n = s.gfxQueue n :=
  s.relabel_apart req (·.gfxQueue n) fun _ => rfl

theorem State.head_relabel (n : Nat) : (s.relabel req).head n = s.head n := s.relabel_apart req (·.head n) fun _ => rfl

theorem State.can_relabel (n : Nat) : (s.relabel req).can n = s.can n := s.relabel_apart req (·.can n) fun _ => rfl

theorem State.gw_relabel : (s.relabel req).gw = s.gw := s.relabel_apart req (·.gw) fun _ => rfl

theorem State.stream_relabel (n : Nat) : (s.relabel req).stream n = s.stream n := s.relabel_apart req (·.stream n) fun _ => rfl

theorem State.audio_relabel (n : Nat) : (s.relabel req).audio n = s.audio n := s.relabel_apart req (·.audio n) fun _ => rfl

theorem State.instantRec_relabel : (s.relabel req).instantRec = s.instantRec :=
  s.relabel_apart req (·.instantRec) fun _ => rfl

theorem State.instantOn_relabel : (s.relabel req).instantOn = s.instantOn := s.relabel_apart req (·.instantOn) fun _ => rfl

theorem State.fusActive_relabel : (s.relabel req).fusActive = s.fusActive := s.fld_relabel req _ (by decide)

theorem State.millerOff_relabel : (s.relabel req).millerOff = s.millerOff :=
  congrArg (Nat.beq · 0) (s.fld_relabel req _ (by decide))

end

section
variable {o : Outcome State Fault Refusal} {s : State} {req : Req} {a : Nat} {w : Word}

/-- A row that writes a register, where the write is granted and its effect on the state that it finds is known. -/
theorem next_of_granted {eff : State → State} {t : State} (grants : s.Grants req .write a) (run : o = .next (s.busWrite req a w eff))
    (effect : eff (s.relabel req) = t) : o = .next (t.answer .okay []) := by
  rw [run, State.busWrite_okay grants.2 grants.1, effect]

/-! ## Registers of one field that software writes -/

/-- A write of a register that is one RW field sets that field. -/
theorem State.plainWrite_one (s : State) {f : Fld} (one : regFields a = [{ fld := f, acc := .rw }]) (ok : f.ok) :
    ∃ v, s.plainWrite a w = s.setReg a v ∧ f.get v = f.get w := by
  have recorded : s.recorded a w = s := by
    rw [State.recorded, one]
    rfl
  have apart : fieldsApart [({ fld := f, acc := .rw } : RegField)] = true := by
    obtain ⟨order, fits⟩ := ok
    simp [fieldsApart, order, fits]
  refine ⟨_, by rw [State.plainWrite_eq, recorded], ?_⟩
  rw [one]
  exact (writeFields_get apart _ _ _ (List.mem_singleton.2 rfl)).trans (Nat.mod_eq_of_lt (Fld.get_lt ..))

/-- A granted write of such a register sets the field and leaves all else. -/
theorem moves_of_granted {f : Fld} (one : regFields a = [{ fld := f, acc := .rw }]) (ok : f.ok)
    (run : o = .next (((s.relabel req).plainWrite a w).answer .okay [])) :
    ∃ t, o = .next t ∧ OnlyRegs s t ∧ t.reply = { resp := .okay, data := [] } ∧ t.fld a f = f.get w ∧
      ∀ b, b ≠ a → t.reg b = (s.relabel req).reg b := by
  obtain ⟨v, write, value⟩ := (s.relabel req).plainWrite_one (w := w) one ok
  refine ⟨_, run, s.onlyRegs_plainWrite req a w, rfl, ?_, fun b other => ?_⟩
  · rw [write]
    exact (congrArg f.get (State.reg_setReg_same ..)).trans value
  · rw [write]
    exact State.reg_setReg_other other

/-- A granted write of the tail of a ring of buffers, where `p` says when the tail moves. -/
theorem tail_of_granted {f : Fld} {eff : State → State} {p : Prop} [Decidable p] (one : regFields a = [{ fld := f, acc := .rw }])
    (ok : f.ok) (grants : s.Grants req .write a) (run : o = .next (s.busWrite req a w eff))
    (effect : eff (s.relabel req) = if p then (s.relabel req).plainWrite a w else s.relabel req) :
    if p then ∃ t, o = .next t ∧ OnlyRegs s t ∧ t.reply = { resp := .okay, data := [] } ∧ t.fld a f = f.get w ∧
      ∀ b, b ≠ a → t.reg b = (s.relabel req).reg b
    else o = .next ((s.relabel req).answer .okay []) := by
  split
  next h => exact moves_of_granted one ok (next_of_granted grants run (effect.trans (if_pos h)))
  next h => exact next_of_granted grants run (effect.trans (if_neg h))

end

theorem regFields_FGD_STR_BUF_TAIL (n : Fin 20) :
    regFields (Reg.FGD_STR_BUF_TAIL n) = [{ fld := Fld.FGD_STR_BUF_TAIL_TAIL, acc := .rw }] := by
  decide +revert

theorem regFields_FUS_BUF_TAIL (n : Fin 64) : regFields (Reg.FUS_BUF_TAIL n) = [{ fld := Fld.FUS_BUF_TAIL_TAIL, acc := .rw }] := by
  decide +revert

theorem regFields_AUD_BUF_TAIL (n : Fin 8) : regFields (Reg.AUD_BUF_TAIL n) = [{ fld := Fld.FGD_STR_BUF_TAIL_TAIL, acc := .rw }] := by
  decide +revert

/-! ## What each write does -/

section
variable (s : State) (w : Word)

theorem State.writeSqTail_eq (n : Nat) (r : Fin 8) : s.writeSqTail n r w =
    if s.millerOff = false ∧ (s.ctx n).status = .active ∧ bitAt (s.ctx n).sqEn r = true ∧
        Fld.DB_SQ_TAIL_TAIL.get w < 2 ^ (s.ctx n).sqLog2[r] then
      s.setFld (Reg.DB_SQ_TAIL n r) Fld.DB_SQ_TAIL_TAIL (Fld.DB_SQ_TAIL_TAIL.get w)
    else s.count (Reg.DB_ERR n) Fld.DB_ERR_IGNORED 1 := by
  simp only [State.writeSqTail, State.isActive, State.dbIgnored, Fin.ofNat_val_eq_self, Bool.and_eq_true, Bool.not_eq_true',
    decide_eq_true_eq, Nat.blt_eq, and_assoc]

theorem State.writeCqHead_eq (n : Nat) : s.writeCqHead n w =
    let c := s.ctx n
    let x := Fld.DB_CQ_HEAD_HEAD.get w
    let d := if x = c.cq.idx then c.unread else (x + 2 ^ c.cq.log2 - s.fld (Reg.DB_CQ_HEAD n) Fld.DB_CQ_HEAD_HEAD) % 2 ^ c.cq.log2
    if s.millerOff = false ∧ c.status ≠ .free ∧ x < 2 ^ c.cq.log2 ∧ d ≤ c.unread then
      (s.setCtx n { c with unread := c.unread - d }).setFld (Reg.DB_CQ_HEAD n) Fld.DB_CQ_HEAD_HEAD x
    else s.count (Reg.DB_ERR n) Fld.DB_ERR_IGNORED 1 := by
  simp only [State.writeCqHead, Nat.beq_eq, Bool.or_eq_true, decide_eq_true_eq, Nat.ble_eq, Nat.blt_eq]
  rw [← ite_not]
  simp only [not_or, Bool.not_eq_true, Nat.not_le, Nat.not_lt, and_assoc, State.dbIgnored, ne_eq]

theorem State.writeGqTail_eq (q : Nat) : s.writeGqTail q w =
    if (s.gfxQueue q).on = true ∧ Fld.DB_SQ_TAIL_TAIL.get w < 2 ^ (s.gfxQueue q).sqLog2 then
      (s.setFld (Reg.GQ_DB_SQ_TAIL q) Fld.DB_SQ_TAIL_TAIL (Fld.DB_SQ_TAIL_TAIL.get w)).gfxRead
    else s.count (Reg.GQ_DB_ERR q) Fld.DB_ERR_IGNORED 1 := by
  simp only [State.writeGqTail, State.gqIgnored, Bool.and_eq_true, Nat.blt_eq]

theorem State.writeXspTail_eq : s.writeXspTail w =
    if Fld.DB_SQ_TAIL_TAIL.get w < 2 ^ Config.xspiRing.2 then
      s.setFld Reg.XSP_DB_SQ_TAIL Fld.DB_SQ_TAIL_TAIL (Fld.DB_SQ_TAIL_TAIL.get w)
    else s.count Reg.XSP_DB_ERR Fld.DB_ERR_IGNORED 1 := by
  simp only [State.writeXspTail, Nat.blt_eq]

theorem State.writeFusBufTail_eq (n : Nat) : s.writeFusBufTail n w =
    if s.instantOn s.fusActive n = true ∧ Fld.FUS_BUF_TAIL_TAIL.get w < 2 ^ (s.instantRec s.fusActive n).log2 then
      s.plainWrite (Reg.FUS_BUF_TAIL n) w
    else s := by
  simp only [State.writeFusBufTail, Bool.and_eq_true, Nat.blt_eq]

theorem State.writeAudTail_eq (n : Nat) : s.writeAudTail n w =
    if (s.audio n).on = true ∧ Fld.FGD_STR_BUF_TAIL_TAIL.get w < 2 ^ (s.audio n).log2 then s.plainWrite (Reg.AUD_BUF_TAIL n) w
    else s := by
  simp only [State.writeAudTail, Bool.and_eq_true, Nat.blt_eq]

end

section
variable {s : State} {w : Word} {n : Nat}

theorem State.writeFlipTail_moves {d : HeadDesc} (desc : (s.head n).desc = some d) (within : Fld.DB_SQ_TAIL_TAIL.get w < 2 ^ d.log2) :
    s.writeFlipTail n w = s.setFld (Reg.DSP_DB_SQ_TAIL n) Fld.DB_SQ_TAIL_TAIL (Fld.DB_SQ_TAIL_TAIL.get w) := by
  rw [State.writeFlipTail, desc]
  exact if_pos ((Nat.blt_eq ..).mpr within)

theorem State.writeFlipTail_ignored (beyond : ∀ d, (s.head n).desc = some d → 2 ^ d.log2 ≤ Fld.DB_SQ_TAIL_TAIL.get w) :
    s.writeFlipTail n w = s.count (Reg.DSP_DB_ERR n) Fld.DB_ERR_IGNORED 1 := by
  unfold State.writeFlipTail
  split
  next d desc => exact if_neg fun within => Nat.not_lt.2 (beyond d desc) ((Nat.blt_eq ..).mp within)
  next => rfl

theorem State.writeCanTail_moves {d : CanDesc} (desc : (s.can n).desc = some d) (within : Fld.DB_SQ_TAIL_TAIL.get w < 2 ^ d.txLog2) :
    s.writeCanTail n w = s.setFld (Reg.CAN_DB_SQ_TAIL n) Fld.DB_SQ_TAIL_TAIL (Fld.DB_SQ_TAIL_TAIL.get w) := by
  rw [State.writeCanTail, desc]
  exact if_pos ((Nat.blt_eq ..).mpr within)

theorem State.writeCanTail_ignored (beyond : ∀ d, (s.can n).desc = some d → 2 ^ d.txLog2 ≤ Fld.DB_SQ_TAIL_TAIL.get w) :
    s.writeCanTail n w = s.count (Reg.CAN_DB_ERR n) Fld.DB_ERR_IGNORED 1 := by
  unfold State.writeCanTail
  split
  next d desc => exact if_neg fun within => Nat.not_lt.2 (beyond d desc) ((Nat.blt_eq ..).mp within)
  next => rfl

theorem State.writeStrTail_moves {d : StreamDesc} (desc : (s.stream n).desc = some d)
    (within : Fld.FGD_STR_BUF_TAIL_TAIL.get w < 2 ^ d.log2) : s.writeStrTail n w = s.plainWrite (Reg.FGD_STR_BUF_TAIL n) w := by
  rw [State.writeStrTail, desc]
  exact if_pos ((Nat.blt_eq ..).mpr within)

theorem State.writeStrTail_ignored (beyond : ∀ d, (s.stream n).desc = some d → 2 ^ d.log2 ≤ Fld.FGD_STR_BUF_TAIL_TAIL.get w) :
    s.writeStrTail n w = s := by
  unfold State.writeStrTail
  split
  next d desc => exact if_neg fun within => Nat.not_lt.2 (beyond d desc) ((Nat.blt_eq ..).mp within)
  next => rfl

/-- The LOG2 of transmit (`tx`) or receive ring `q` of the host interface. -/
def HifDesc.log2 (d : HifDesc) (tx : Bool) (q : Fin 8) : Nat := (if tx then d.txLog2 else d.rxLog2)[q]

variable {tx : Bool} {q : Fin 8}

/-- The guard of a tail write of the host interface, by what it says. -/
theorem HifDesc.tail_moves_iff (d : HifDesc) (v : Nat) :
    (!(Nat.beq (if tx then d.txLog2 else d.rxLog2)[Fin.ofNat 8 q] 0) &&
      Nat.blt v (2 ^ (if tx then d.txLog2 else d.rxLog2)[Fin.ofNat 8 q])) = true ↔ d.log2 tx q ≠ 0 ∧ v < 2 ^ d.log2 tx q := by
  simp only [HifDesc.log2, Fin.ofNat_val_eq_self, Bool.and_eq_true, Bool.not_eq_true', Bool.eq_false_iff, ne_eq, Nat.beq_eq,
    Nat.blt_eq]

theorem State.writeHifTail_moves {d : HifDesc} (desc : s.gw.hif = some d) (enabled : d.log2 tx q ≠ 0)
    (within : Fld.HIF_DB_TX_TAIL_TAIL.get w < 2 ^ d.log2 tx q) : s.writeHifTail tx q w =
      s.setReg (if tx then Reg.HIF_DB_TX_TAIL q else Reg.HIF_DB_RX_TAIL q) (BitVec.ofNat 32 (Fld.HIF_DB_TX_TAIL_TAIL.get w)) := by
  rw [State.writeHifTail, desc]
  exact if_pos ((d.tail_moves_iff _).mpr ⟨enabled, within⟩)

theorem State.writeHifTail_ignored (beyond : ∀ d, s.gw.hif = some d → d.log2 tx q = 0 ∨ 2 ^ d.log2 tx q ≤ Fld.HIF_DB_TX_TAIL_TAIL.get w) :
    s.writeHifTail tx q w = s.count Reg.HIF_DB_ERR Fld.HIF_DB_ERR_IGNORED 1 := by
  unfold State.writeHifTail
  split
  next => rfl
  next d desc =>
    refine if_neg fun moves => ?_
    obtain ⟨enabled, within⟩ := (d.tail_moves_iff _).mp moves
    exact (beyond d desc).elim enabled (Nat.not_le.2 within)

end

end Sys2Proof.Machine
end

section
open Sys2Proof Sys2Proof.Machine

/-- Settles O28: a granted write is its register's effect on the relabelled state, and that effect reads nothing that the label
changes. -/
theorem doorbellWrites : Obligations.DoorbellWrites := by
  intro s req w
  dsimp only
  refine ⟨fun n r grants => ?_, fun n grants => ?_, fun q grants => ?_, fun h grants => ⟨fun d desc within => ?_, fun beyond => ?_⟩,
    fun n grants => ⟨fun d desc within => ?_, fun beyond => ?_⟩,
    fun tx q grants => ⟨fun d desc enabled within => ?_, fun beyond => ?_⟩, fun grants => ?_,
    fun n grants => ⟨fun d desc within => ?_, fun beyond => ?_⟩, fun n grants => ?_, fun n grants => ?_⟩
  · refine next_of_granted grants rfl ?_
    simp only [State.sqDoorbell, State.writeSqTail_eq, State.millerOff_relabel, State.ctx_relabel, decide_eq_true_eq]
  · refine next_of_granted grants rfl (congrArg State.settle ?_)
    rw [State.writeCqHead_eq, State.millerOff_relabel, State.ctx_relabel,
      s.fld_relabel req _ (by unfold Reg.DB_CQ_HEAD Reg.SLU_STATUS; omega)]
  · refine next_of_granted grants rfl ?_
    rw [State.writeGqTail_eq, State.gfxQueue_relabel]
  · exact next_of_granted grants rfl (State.writeFlipTail_moves (by rwa [State.head_relabel]) within)
  · exact next_of_granted grants rfl (State.writeFlipTail_ignored (by rwa [State.head_relabel]))
  · exact next_of_granted grants rfl (State.writeCanTail_moves (by rwa [State.can_relabel]) within)
  · exact next_of_granted grants rfl (State.writeCanTail_ignored (by rwa [State.can_relabel]))
  · have effect := State.writeHifTail_moves (s := s.relabel req) (by rwa [State.gw_relabel]) enabled within
    cases tx <;> exact next_of_granted grants rfl effect
  · have effect := State.writeHifTail_ignored (s := s.relabel req) (tx := tx) (by rwa [State.gw_relabel])
    cases tx <;> exact next_of_granted grants rfl effect
  · exact next_of_granted grants rfl (State.writeXspTail_eq ..)
  · exact moves_of_granted (regFields_FGD_STR_BUF_TAIL n) ⟨by decide, by decide⟩
      (next_of_granted grants rfl (State.writeStrTail_moves (by rwa [State.stream_relabel]) within))
  · exact next_of_granted grants rfl (State.writeStrTail_ignored (by rwa [State.stream_relabel]))
  · refine tail_of_granted (regFields_FUS_BUF_TAIL n) ⟨by decide, by decide⟩ grants rfl ?_
    rw [State.writeFusBufTail_eq, State.instantOn_relabel, State.instantRec_relabel, State.fusActive_relabel]
  · refine tail_of_granted (regFields_AUD_BUF_TAIL n) ⟨by decide, by decide⟩ grants rfl ?_
    rw [State.writeAudTail_eq, State.audio_relabel]

end

section
/-!
SUPPORT. What a unit's write leaves of the contexts: a write in memory leaves them as they are, and the dirty log of a context, which a
write through the IOMMU may note, lies beside its rings (R206).
-/

namespace Sys2Proof.Machine

/-- `t` has the contexts of `s`. -/
def SameCtxs (s t : State) : Prop := t.ctxs = s.ctxs

namespace SameCtxs

variable {s t u : State}

protected theorem rfl : SameCtxs s s := Eq.refl _

theorem trans (h : SameCtxs s t) (k : SameCtxs t u) : SameCtxs s u := Eq.trans k h

theorem snd {α : Type} {r : α × State} {x : α} (h : SameCtxs s r.2) (e : r = (x, t)) : SameCtxs s t := by
  subst e; exact h

theorem ite {p : Prop} [Decidable p] (h : SameCtxs s t) (k : SameCtxs s u) : SameCtxs s (if p then t else u) := by
  split <;> assumption

theorem iteSnd {α : Type} {p : Prop} [Decidable p] {x y : α × State} (h : SameCtxs s x.2) (k : SameCtxs s y.2) :
    SameCtxs s (if p then x else y).2 := by
  split <;> assumption

/-! ## DDR and on-chip words -/

theorem setFld (s : State) (a : Nat) (f : Fld) (v : Nat) : SameCtxs s (s.setFld a f v) := Eq.refl _

theorem setReg (s : State) (a : Nat) (w : Word) : SameCtxs s (s.setReg a w) := Eq.refl _

theorem report (s : State) (r : ErrRecord) : SameCtxs s (s.report r) := Eq.refl _

theorem store (s : State) (pa : Nat) (bs : List Byte) : SameCtxs s (s.store pa bs) := Eq.refl _

theorem count (s : State) (a : Nat) (f : Fld) (n : Nat) : SameCtxs s (s.count a f n) := Eq.refl _

theorem storeFree (s : State) (pa n : Nat) : SameCtxs s (s.storeFree pa n) := Eq.refl _

theorem ddrUeRecord (s : State) (g pa iid : Nat) : SameCtxs s (s.ddrUeRecord g pa iid) := Eq.refl _

theorem damage (s : State) (x : List (Nat × Damage)) : SameCtxs s { s with ddrDamage := x } := Eq.refl _

theorem ddrCeRecord (s : State) (g pa iid : Nat) : SameCtxs s (s.ddrCeRecord g pa iid) := by
  unfold State.ddrCeRecord
  dsimp only
  split
  · exact trans (s.setDmc_ctxs ..) (report ..)
  · exact .rfl

theorem ddrLog (s : State) (g pa src dev : Nat) (ue : Bool) : SameCtxs s (s.ddrLog g pa src dev ue) := by
  unfold State.ddrLog
  dsimp only
  split
  · exact .rfl
  · exact ((((((setFld ..).trans (setFld ..)).trans (setFld ..)).trans (setFld ..)).trans (setFld ..)).trans (setFld ..)).trans
      (setFld ..)

theorem ddrCount (s : State) (g pa dev iid : Nat) : SameCtxs s (s.ddrCount g pa dev iid) := by
  unfold State.ddrCount
  dsimp only
  split
  · exact .rfl
  · split
    · exact ((trans (s.setDmc_ctxs ..) (setFld ..)).trans (setFld ..)).trans (ddrCeRecord ..)
    · exact s.setDmc_ctxs ..

theorem ddrCorrected (s : State) (pa dev src iid : Nat) : SameCtxs s (s.ddrCorrected pa dev src iid) := by
  unfold State.ddrCorrected
  exact (((count ..).trans (ddrLog ..)).trans (ddrCount ..)).trans (ddrCeRecord ..)

theorem ddrDecode (s : State) (pa upset src iid : Nat) : SameCtxs s (s.ddrDecode pa upset src iid).2 := by
  unfold State.ddrDecode
  cases s.decodeDdr pa upset with
  | ok => exact .rfl
  | corrected dev marked => exact (damage ..).trans (ddrCorrected ..)
  | mistaken dev => exact trans (.ite (damage ..) ((damage ..).trans (storeFree ..))) (ddrCorrected ..)
  | uncorrectable => exact (((damage ..).trans (count ..)).trans (ddrLog ..)).trans (ddrUeRecord ..)
  | poison => exact count ..

theorem sramDecode (s : State) (pa upset : Nat) (own : Bool) : SameCtxs s (s.sramDecode pa upset own).2 := by
  unfold State.sramDecode
  cases s.decodeSram pa upset with
  | ok => exact .rfl
  | corrected dev marked => exact .ite (trans (Eq.refl _) (report ..)) (Eq.refl _)
  | mistaken dev => exact .ite (trans (Eq.refl _) (report ..)) (Eq.refl _)
  | uncorrectable => exact .ite (Eq.refl _) (trans (Eq.refl _) (report ..))
  | poison => exact .rfl

theorem ddrWriteWord (s : State) (iid pa : Nat) (bs : List Byte) (upset : Nat) : SameCtxs s (s.ddrWriteWord iid pa bs upset).2 := by
  have decoded := ddrDecode s pa upset 1 iid
  unfold State.ddrWriteWord
  dsimp only
  split
  · exact (damage ..).trans (store ..)
  · split <;> exact trans decoded (Eq.refl _)

theorem sramWriteWord (s : State) (pa : Nat) (bs : List Byte) (upset : Nat) (own : Bool) :
    SameCtxs s (s.sramWriteWord pa bs upset own) := by
  have decoded := sramDecode s pa upset own
  unfold State.sramWriteWord
  dsimp only
  split
  · exact Eq.refl _
  · split <;> exact trans decoded (Eq.refl _)

/-! ## The system cache -/

theorem slcAllocate (s : State) (line cls : Nat) (dirty : Bool) : SameCtxs s (s.slcAllocate line cls dirty) := by
  unfold State.slcAllocate
  split
  · exact .rfl
  · exact Eq.refl _

theorem slcWriteLine (s : State) (line cls : Nat) : SameCtxs s (s.slcWriteLine line cls) := by
  unfold State.slcWriteLine
  split
  · exact Eq.refl _
  · exact .ite (Eq.refl _) (slcAllocate ..)

theorem ddrWrite (s : State) (req : Req) (pa : Nat) (bs : List Byte) (upset : Nat) : SameCtxs s (s.ddrWrite req pa bs upset).2 := by
  have word := ddrWriteWord s (iidOf req.ini).toNat pa bs upset
  have snoop (t : State) (line : Nat) : SameCtxs t (t.snoop req.ini line) := Eq.refl _
  unfold State.ddrWrite
  refine trans (.iteSnd ((slcWriteLine ..).trans (store ..)) ?_) (snoop ..)
  split
  · exact Eq.refl _
  · split
    · exact word
    · exact word
    · exact word
    · exact ((ddrDecode ..).trans (slcAllocate ..)).trans (store ..)

/-! ## Judgement, blocks and transfers -/

theorem guardRefuse (s : State) (t : Nat) (req : Req) (ty : AccType) (pa : Nat) : SameCtxs s (s.guardRefuse t req ty pa) := by
  have sent (u : State) (x : List (Nat × Nat)) : SameCtxs u { u with guardSent := x } := Eq.refl _
  unfold State.guardRefuse
  extract_lets hi s1
  have logged : SameCtxs s s1 := .ite .rfl ((setReg ..).trans (setReg ..))
  exact .ite ((logged.trans (sent ..)).trans (report ..)) logged

theorem decodeError (s : State) (req : Req) (ty : AccType) (pa : Nat) : SameCtxs s (s.decodeError req ty pa) := by
  unfold State.decodeError
  exact trans (.ite .rfl ((setReg ..).trans (setReg ..))) (report ..)

theorem judge (s : State) (req : Req) (ty : AccType) (pa len : Nat) : SameCtxs s (s.judge req ty pa len).2 := by
  refine .iteSnd (Eq.refl _) (.iteSnd .rfl ?_)
  split
  · exact decodeError ..
  · exact .iteSnd (decodeError ..) .rfl
  · exact .iteSnd (decodeError ..) .rfl
  · split
    · refine .iteSnd .rfl ?_
      split
      · exact .iteSnd .rfl (guardRefuse ..)
      · exact .rfl
    · exact .rfl

theorem writeBlock (s : State) (req : Req) (pa : Nat) (bs : List Byte) (own : Bool) : SameCtxs s (s.writeBlock req pa bs own).2 := by
  unfold State.writeBlock
  split
  · exact ddrWrite ..
  · exact sramWriteWord ..
  · exact sramWriteWord ..
  · exact sramWriteWord ..
  · exact .rfl
  · exact .rfl
  · exact Eq.refl _

theorem writeMem (req : Req) (own : Bool) (fuel : Nat) (s : State) (pa : Nat) (bs : List Byte) :
    SameCtxs s (s.writeMem req own fuel pa bs).2 := by
  induction fuel generalizing s pa bs with
  | zero => unfold State.writeMem; exact .rfl
  | succ fuel ih =>
    cases bs with
    | nil => unfold State.writeMem; exact .rfl
    | cons b bs =>
      unfold State.writeMem
      dsimp only
      split
      next judged =>
        have admitted := (judge ..).snd judged
        split
        next written => exact (admitted.trans ((writeBlock ..).snd written)).trans (ih ..)
        next written => exact admitted.trans ((writeBlock ..).snd written)
      next judged => exact (judge ..).snd judged

end SameCtxs

/-! ## Held entries -/

/-- Every context holds the entries in `t` that it holds in `s`. -/
structure SameHeld (s t : State) : Prop where
  held (n : Nat) : (t.ctx n).held = (s.ctx n).held

namespace SameHeld

variable {s t u : State}

protected theorem rfl : SameHeld s s := ⟨fun _ => Eq.refl _⟩

theorem trans (h : SameHeld s t) (k : SameHeld t u) : SameHeld s u :=
  ⟨fun n => (k.held n).trans (h.held n)⟩

theorem of_ctxs (h : SameCtxs s t) : SameHeld s t := ⟨fun n => by rw [State.ctx, h, State.ctx]⟩

theorem snd {α : Type} {r : α × State} {x : α} (h : SameHeld s r.2) (e : r = (x, t)) : SameHeld s t := by
  subst e; exact h

/-- A context that is replaced by one with its held entries. -/
theorem setCtx (s : State) (n : Nat) {c : Ctx} (same : c.held = (s.ctx n).held) : SameHeld s (s.setCtx n c) := by
  constructor
  intro m
  by_cases here : m % 32 = n % 32
  · have at_n (v : State) : v.ctx m = v.ctx n := by
      simp only [State.ctx, show Fin.ofNat 32 m = Fin.ofNat 32 n from Fin.ext here]
    rw [at_n, at_n, State.ctx_setCtx_same, same]
  · rw [State.ctx_setCtx_other here]

theorem markDirty (s : State) (n gpa : Nat) : SameHeld s (s.markDirty n gpa) := by
  unfold State.markDirty
  dsimp only
  split
  · exact .rfl
  · split
    · exact setCtx s n (Eq.refl _)
    · split
      · exact .rfl
      · exact of_ctxs (SameCtxs.writeMem ..)

theorem dmaWrite (req : Req) (fuel : Nat) (s : State) (iova : Nat) (bs : List Byte) : SameHeld s (s.dmaWrite req fuel iova bs).2 := by
  induction fuel generalizing s iova bs with
  | zero => unfold State.dmaWrite; exact .rfl
  | succ fuel ih =>
    cases bs with
    | nil => unfold State.dmaWrite; exact .rfl
    | cons b bs =>
      unfold State.dmaWrite
      dsimp only
      split
      · exact .rfl
      · split
        next written => exact ((of_ctxs ((SameCtxs.writeMem ..).snd written)).trans (markDirty ..)).trans (ih ..)
        next written => exact (of_ctxs ((SameCtxs.writeMem ..).snd written)).trans (markDirty ..)

theorem put (s : State) (req : Req) (iova : Nat) (bs : List Byte) : SameHeld s (s.put req iova bs).2 :=
  trans (of_ctxs (s.relabel_apart req (·.ctxs) fun _ => Eq.refl _)) (dmaWrite ..)

theorem log (s : State) (r : LogRecord) : SameHeld s (s.log r) := by
  rcases s.log_cases r with ⟨-, e⟩ | e | e | ⟨req, a, bs, v, e⟩
  · rw [e]
    exact .rfl
  · rw [e]
    exact of_ctxs (Eq.refl _)
  · rw [e]
    exact of_ctxs (Eq.refl _)
  · rw [e]
    exact trans (t := s.nextSeq) (of_ctxs (Eq.refl _)) (trans (put ..) (of_ctxs (Eq.refl _)))

end SameHeld

end Sys2Proof.Machine
end

section
/-!
SUPPORT. The reading of submission entries (R181, R182, R185, R186, R190): which entry a row takes, and what becomes of an entry that has
been read.
-/

namespace Sys2Proof.Machine

/-! ## Rows and heads of rings -/

/-- A row that reads entries reads the next one, where it is of the kind that the row takes. -/
theorem exec_entryOf {i : Instr} {n : Fin 32} {r : Fin 8} {want : Nat → Nat → Bool} (s : State) (row : i.entryOf = some (n, r, want)) :
    exec i s = .next (s.readEntry n r want) := by
  cases i with
  | nop | job | modelLoad | modelUnload | kvMap | kvFork | kvUnmap | ctxCreate | ctxReset | ctxDestroy | ringFlush | dirtyHarvest
  | partSet | ctxBind | ctxUnbind => cases row; rfl
  | _ => cases row

/-- Each kind of R186 is some row's. -/
theorem row_of_entryKind (n : Fin 32) (r : Fin 8) {kind : Nat} (known : kind ∈ entryKinds) (op : Nat) :
    ∃ i want, Instr.entryOf i = some (n, r, want) ∧ want kind op = true := by
  simp only [entryKinds, List.mem_cons, List.not_mem_nil, or_false] at known
  rcases known with rfl | rfl | rfl | rfl | rfl | rfl | rfl | rfl | rfl | rfl | rfl | rfl | rfl | rfl
  · exact ⟨.nop n r, _, rfl, rfl⟩
  · exact ⟨.job n r, _, rfl, rfl⟩
  · exact ⟨.modelLoad n r, _, rfl, rfl⟩
  · exact ⟨.modelUnload n r, _, rfl, rfl⟩
  · exact ⟨.kvMap n r, _, rfl, rfl⟩
  · exact ⟨.kvFork n r, _, rfl, rfl⟩
  · exact ⟨.kvUnmap n r, _, rfl, rfl⟩
  · exact ⟨.ctxCreate n r, _, rfl, rfl⟩
  · exact ⟨.ctxReset n r, _, rfl, rfl⟩
  · exact ⟨.ctxDestroy n r, _, rfl, rfl⟩
  · exact ⟨.ringFlush n r, _, rfl, rfl⟩
  · exact ⟨.dirtyHarvest n r, _, rfl, rfl⟩
  · exact ⟨.partSet n r, _, rfl, rfl⟩
  · by_cases reverse : op = 1
    · exact ⟨.ctxUnbind n r, _, rfl, by rw [reverse]; rfl⟩
    · refine ⟨.ctxBind n r, _, rfl, ?_⟩
      rw [Bool.and_eq_true, Bool.not_eq_true', Bool.eq_false_iff, Ne, Nat.beq_eq, Nat.beq_eq]
      exact ⟨rfl, reverse⟩

section
variable {s s1 : State} {n r : Nat} {want : Nat → Nat → Bool} {b : List Byte} {h : HeldEntry}

theorem State.readEntry_barred (barred : s.mayRead n r = false) : s.readEntry n r want = s := by
  rw [State.readEntry, barred]
  rfl

theorem State.readEntry_unread (may : s.mayRead n r = true) (head : s.readHead n r = (none, h, s1)) :
    s.readEntry n r want = (s1.takeTurn n).settle := by
  rw [State.readEntry, may, head]
  rfl

theorem State.readEntry_other (may : s.mayRead n r = true) (head : s.readHead n r = (some b, h, s1))
    (other : want (fieldAt b 0 1) (fieldAt b 34 1) = false) : s.readEntry n r want = s := by
  rw [State.readEntry, may, head]
  exact if_neg (Bool.eq_false_iff.1 other)

theorem State.readEntry_takes (may : s.mayRead n r = true) (head : s.readHead n r = (some b, h, s1))
    (wanted : want (fieldAt b 0 1) (fieldAt b 34 1) = true) :
    s.readEntry n r want = ((s1.takeTurn n).takeEntry n r h).settle := by
  rw [State.readEntry, may, head]
  exact if_pos wanted

/-- An entry that has been read holds its bytes and has not started. -/
theorem State.readHead_entry (head : s.readHead n r = (some b, h, s1)) : h.bytes = b ∧ h.started = false := by
  unfold State.readHead at head
  dsimp only at head
  split at head
  next => cases head; exact ⟨rfl, rfl⟩
  next => cases head

end

/-! ## The replacement of CLASS (R185) -/

theorem State.jobs_log (s : State) (r : LogRecord) : (s.log r).jobs = s.jobs := by
  rcases s.log_cases r with ⟨-, e⟩ | e | e | ⟨req, a, bs, v, e⟩
  · rw [e]
  · rw [e, State.nextSeq]
  · rw [e, State.count_jobs, State.nextSeq]
  · rw [e, State.setFld_jobs, (AccessOnly.put ..).eq State.jobs fun _ => rfl, State.nextSeq]

/-- The bytes of an entry with the CLASS that its context gives it: a JOB or MODEL_LOAD keeps its own where the context allows it. -/
def Ctx.classed (c : Ctx) (b : List Byte) : List Byte :=
  if (fieldAt b 0 1 = 0x01 ∨ fieldAt b 0 1 = 0x02) ∧ bitAt c.classMask (fieldAt b 2 1) = false then b.set 2 (BitVec.ofNat 8 c.classDef)
  else b

theorem State.replaceClass_guard (s : State) (n : Nat) (h : HeldEntry) :
    ((Nat.beq h.kind 1 || Nat.beq h.kind 2) && !(bitAt (s.ctx n).classMask h.cls)) = true ↔
      (fieldAt h.bytes 0 1 = 0x01 ∨ fieldAt h.bytes 0 1 = 0x02) ∧ bitAt (s.ctx n).classMask (fieldAt h.bytes 2 1) = false := by
  rw [Bool.and_eq_true, Bool.or_eq_true, Nat.beq_eq, Nat.beq_eq, Bool.not_eq_true']
  rfl

/-- The entry with its CLASS replaced where it must be. -/
theorem State.replaceClass_entry (s : State) (n : Nat) (h : HeldEntry) :
    (s.replaceClass n h).1 = { h with bytes := (s.ctx n).classed h.bytes } := by
  unfold State.replaceClass Ctx.classed
  dsimp only
  simp only [State.replaceClass_guard]
  split <;> rfl

/-- A replaced CLASS is logged, and that is all. -/
theorem State.replaceClass_state (s : State) (n : Nat) (h : HeldEntry) :
    (s.replaceClass n h).2 = s ∨ ∃ r, (s.replaceClass n h).2 = s.log r := by
  unfold State.replaceClass
  dsimp only
  split
  · exact .inr ⟨logRecord 0 1 n 0x0001 h.jobNo h.userTag [h.cls], rfl⟩
  · exact .inl rfl

theorem SameHeld.replaceClass (s : State) (n : Nat) (h : HeldEntry) : SameHeld s (s.replaceClass n h).2 := by
  rcases s.replaceClass_state n h with e | ⟨r, e⟩
  · rw [e]
    exact .rfl
  · rw [e]
    exact log ..

theorem State.jobs_replaceClass (s : State) (n : Nat) (h : HeldEntry) : (s.replaceClass n h).2.jobs = s.jobs := by
  rcases s.replaceClass_state n h with e | ⟨r, e⟩
  · rw [e]
  · rw [e, State.jobs_log]

/-! ## What becomes of an entry that has been read -/

@[simp] theorem State.heldOf_setHeld (s : State) (n r : Nat) (hs : List HeldEntry) : ((s.setHeld n r hs).ctx n).heldOf r = hs := by
  simp [State.setHeld, Ctx.heldOf]

/-- A JOB whose RELEASE lies in the past (R190). -/
def State.releasePast (s : State) (b : List Byte) : Prop := fieldAt b 0 1 = 0x01 ∧ jobRelease b ≠ 0 ∧ jobRelease b < s.now

/-- When an entry that has been read is released: a JOB without RELEASE on a time-release ring that no golden record names, at once
(R190). -/
def State.releasedAt (s : State) (n : Nat) (ring : Fin 8) (b : List Byte) : Option Nat :=
  if fieldAt b 0 1 = 0x01 ∧ jobRelease b = 0 ∧ (s.ctx n).sqRel[ring] = 0 ∧ s.goldenOf n ring = none then some s.now else none

/-- An entry as it joins the held entries of its ring. -/
def State.joining (s : State) (n : Nat) (ring : Fin 8) (h : HeldEntry) : HeldEntry :=
  { h with bytes := (s.ctx n).classed h.bytes, released := s.releasedAt n ring h.bytes }

section
variable {s : State} {n r : Nat} {h : HeldEntry}

theorem State.releasePast_guard : (Nat.beq h.kind 1 && !(Nat.beq (jobRelease h.bytes) 0) && Nat.blt (jobRelease h.bytes) s.now) = true ↔
    s.releasePast h.bytes := by
  rw [Bool.and_eq_true, Bool.and_eq_true, Nat.beq_eq, Bool.not_eq_true', Bool.eq_false_iff, Ne, Nat.beq_eq, Nat.blt_eq, and_assoc]
  rfl

theorem State.takeEntry_bad {status detail : Nat} (bad : entryChecks n h.bytes = .bad status detail) :
    s.takeEntry n r h = s.endEntry n r h { status, detail } := by
  rw [State.takeEntry, bad]

theorem State.takeEntry_past (good : entryChecks n h.bytes = .ok ()) (past : s.releasePast h.bytes) :
    s.takeEntry n r h = s.endEntry n r h { status := stReleasePast, detail := 40 } := by
  rw [State.takeEntry, good]
  exact if_pos (State.releasePast_guard.2 past)

/-- Any other entry joins the held entries of its ring, and a replaced CLASS is logged. -/
theorem State.takeEntry_holds (good : entryChecks n h.bytes = .ok ()) (timely : ¬ s.releasePast h.bytes) (ring : Fin 8) :
    s.takeEntry n ring h =
      (s.replaceClass n h).2.setHeld n ring (((s.replaceClass n h).2.ctx n).heldOf ring ++ [s.joining n ring h]) := by
  rw [State.takeEntry, good]
  refine (if_neg (mt State.releasePast_guard.1 timely)).trans ?_
  have now : (Nat.beq h.kind 1 && Nat.beq (jobRelease h.bytes) 0 && Nat.beq (s.ctx n).sqRel[Fin.ofNat 8 ring] 0 &&
      (s.goldenOf n ring).isNone) = true ↔
      fieldAt h.bytes 0 1 = 0x01 ∧ jobRelease h.bytes = 0 ∧ (s.ctx n).sqRel[ring] = 0 ∧ s.goldenOf n ring = none := by
    simp only [Fin.ofNat_val_eq_self, Bool.and_eq_true, Nat.beq_eq, Option.isNone_iff_eq_none, and_assoc]
    rfl
  simp only [now, State.replaceClass_entry]
  rfl

theorem State.heldOf_takeEntry (good : entryChecks n h.bytes = .ok ()) (timely : ¬ s.releasePast h.bytes) (ring : Fin 8) :
    ((s.takeEntry n ring h).ctx n).heldOf ring = (s.ctx n).heldOf ring ++ [s.joining n ring h] := by
  rw [State.takeEntry_holds good timely, State.heldOf_setHeld, Ctx.heldOf, (SameHeld.replaceClass s n h).held, Ctx.heldOf]

theorem State.jobs_takeEntry (good : entryChecks n h.bytes = .ok ()) (timely : ¬ s.releasePast h.bytes) (ring : Fin 8) :
    (s.takeEntry n ring h).jobs = s.jobs := by
  rw [State.takeEntry_holds good timely]
  exact s.jobs_replaceClass n h

end

end Sys2Proof.Machine
end

section
open Sys2Proof Sys2Proof.Machine

/-- Settles O29: every row is readEntry with the kind that it takes, and an entry that has been read is refused, or joins the held
entries of its ring. -/
theorem entriesAreTaken : Obligations.EntriesAreTaken := by
  refine ⟨fun kind known op _ => row_of_entryKind 3 5 known op, fun s n r i _ want row => ?_⟩
  rw [exec_entryOf s row]
  refine ⟨fun barred => ?_, fun h s1 may head => ?_, fun b h s0 may head => ⟨fun other => ?_, fun wanted => ?_⟩⟩
  · rw [State.readEntry_barred barred]
  · rw [State.readEntry_unread may head]
  · rw [State.readEntry_other may head other]
  · rw [State.readEntry_takes may head wanted]
    obtain ⟨rfl, fresh⟩ := State.readHead_entry head
    refine ⟨fun status detail bad => ?_, fun good past => ?_, fun good timely => ?_⟩
    · rw [State.takeEntry_bad bad]
    · rw [State.takeEntry_past good past]
      rfl
    · exact ⟨_, _, rfl, State.heldOf_takeEntry good timely r, rfl, rfl, fresh, rfl, rfl, State.jobs_takeEntry good timely r⟩

end

section
/-!
SUPPORT. Miller's start-up and restart (R204, R205, R218, R481): the memories that it zeroes, the contexts that lose and regain their
shares, and the outcomes of the handshake.
-/

namespace Sys2Proof.Machine

/-! ## The memories -/

/-- Every engine memory, and every cluster memory below the cluster core's part, reads 0. -/
def State.MemoriesZero (s : State) : Prop :=
  (∀ a, engineMemBase ≤ a → a < engineMemBase + 64 * 0x200000 → s.byte a = 0#8) ∧
    ∀ c < 8, ∀ a, clusterAt c ≤ a → a < clusterAt c + 0x780000 → s.byte a = 0#8

/-- The memories are a matter of the bytes alone. -/
theorem State.MemoriesZero.of_mem {s t : State} (zero : s.MemoriesZero) (same : t.mem = s.mem) : t.MemoriesZero := by
  have byte (a : Nat) : t.byte a = s.byte a := by rw [State.byte, same, State.byte]
  exact ⟨fun a lo hi => (byte a).trans (zero.1 a lo hi), fun c hc a lo hi => (byte a).trans (zero.2 c hc a lo hi)⟩

/-- The first part of wipeAll: engine and cluster memories become 0. -/
def State.wipeMemories (s : State) : State :=
  (List.range 8).foldl (fun s c => s.wipe (clusterAt c) 0x780000)
    ((List.range 64).foldl (fun s te => s.wipe (engineAt te) engineBytes) s)

theorem State.wipeMemories_zeroes (s : State) : Zeroes s s.wipeMemories :=
  (Zeroes.foldl (fun s _ => .wipe s _ _) _ s).trans (Zeroes.foldl (fun s _ => .wipe s _ _) _ _)

theorem State.wipeMemories_zero (s : State) : s.wipeMemories.MemoriesZero := by
  refine ⟨fun a lo hi => ?_, fun c hc a lo hi => ?_⟩
  · have engine : (a - engineMemBase) / 0x200000 ∈ List.range 64 := List.mem_range.2 (by omega)
    refine Zeroes.keeps_zero (.foldl (fun s _ => .wipe s _ _) _ _) ?_
    refine Zeroes.foldl_zero (fun s _ => .wipe s _ _) (fun s => ?_) engine s
    rw [State.byte_wipe, if_pos]
    unfold engineAt engineBytes
    omega
  · refine Zeroes.foldl_zero (fun s _ => .wipe s _ _) (fun s => ?_) (List.mem_range.2 hc) _
    rw [State.byte_wipe, if_pos ⟨lo, hi⟩]

/-! ## Loops over the contexts -/

/-- Context `n` and the partitions are in `t` as in `s`. -/
structure SameAt (n : Nat) (s t : State) : Prop where
  ctx : t.ctx n = s.ctx n
  parts : t.parts = s.parts

namespace SameAt

variable {n : Nat} {s t u : State}

protected theorem rfl : SameAt n s s := ⟨Eq.refl _, Eq.refl _⟩

theorem trans (h : SameAt n s t) (k : SameAt n t u) : SameAt n s u := ⟨k.ctx.trans h.ctx, k.parts.trans h.parts⟩

theorem foldl {f : State → Nat → State} {ks : List Nat} (h : ∀ k ∈ ks, ∀ s, SameAt n s (f s k)) (s : State) :
    SameAt n s (ks.foldl f s) := by
  induction ks generalizing s with
  | nil => exact .rfl
  | cons k ks ih => exact (h k (List.mem_cons_self ..) s).trans (ih (fun j hj => h j (List.mem_cons_of_mem _ hj)) _)

/-- A loop over the contexts does to context `n` what its own turn does. -/
theorem of_turn {f : State → Nat → State} (hn : n < 32) (other : ∀ k < 32, k ≠ n → ∀ s, SameAt n s (f s k)) (s : State) :
    ∃ t, SameAt n s t ∧ ((List.range 32).foldl f s).ctx n = (f t n).ctx n := by
  obtain ⟨before, after, split⟩ := List.append_of_mem (List.mem_range.2 hn)
  have distinct : (before ++ n :: after).Nodup := split ▸ List.nodup_range
  have inside : ∀ k, k ∈ before ∨ k ∈ after → k < 32 := fun k hk => by
    rw [← List.mem_range, split, List.mem_append, List.mem_cons]
    exact hk.imp_right .inr
  rw [List.nodup_append, List.nodup_cons] at distinct
  obtain ⟨-, ⟨fresh, -⟩, apart⟩ := distinct
  rw [split, List.foldl_append, List.foldl_cons]
  refine ⟨before.foldl f s, foldl (fun k hk => ?_) s, (foldl (fun k hk => ?_) _).ctx⟩
  · exact other k (inside k (.inl hk)) (apart k hk n (List.mem_cons_self ..))
  · exact other k (inside k (.inr hk)) fun same => fresh (same ▸ hk)

theorem setCtx {k : Nat} (hn : n < 32) (hk : k < 32) (other : k ≠ n) (s : State) (c : Ctx) : SameAt n s (s.setCtx k c) :=
  ⟨State.ctx_setCtx_other (by omega), Eq.refl _⟩

/-- The partitions bound to a context are a matter of the partitions. -/
theorem boundTo (h : SameAt n s t) (m : Nat) : t.boundTo m = s.boundTo m := by
  simp only [State.boundTo, State.part, h.parts]

end SameAt

/-- Context `n` holds no shares, and none of its own are being zeroed. -/
def State.withoutShares (s : State) (n : Nat) : State :=
  s.setCtx n { s.ctx n with resident := false, claim := false, weightsIn := false, copying := [], zeroing := [] }

/-- The second part of wipeAll: no context holds shares. -/
def State.dropAll (s : State) : State := (List.range 32).foldl State.withoutShares s

/-- Context `n` takes its shares again where it is pinned and has a partition. -/
def State.readmitted (s : State) (n : Nat) : State :=
  if !(decide ((s.ctx n).status = .free)) && (s.ctx n).pinned && !(s.boundTo n).isEmpty then s.takeShares n else s

/-- The last part of a restart: pinned contexts with partitions take their shares. -/
def State.readmit (s : State) : State := (List.range 32).foldl State.readmitted s

/-- What a loop's steps leave, the loop leaves. -/
theorem State.foldl_leaves {α β : Type} (g : State → β) {f : State → α → State} (h : ∀ s x, g (f s x) = g s) (xs : List α) (s : State) :
    g (xs.foldl f s) = g s := by
  induction xs generalizing s with
  | nil => rfl
  | cons x xs ih => exact (ih _).trans (h s x)

theorem State.dropAll_mem (s : State) : s.dropAll.mem = s.mem :=
  State.foldl_leaves State.mem (f := State.withoutShares) (fun s _ => s.setCtx_mem ..) _ s

theorem State.dropAll_parts (s : State) : s.dropAll.parts = s.parts :=
  State.foldl_leaves State.parts (f := State.withoutShares) (fun s _ => s.setCtx_parts ..) _ s

theorem State.readmitted_mem (s : State) (n : Nat) : (s.readmitted n).mem = s.mem := by
  unfold State.readmitted
  split
  · exact s.setCtx_mem ..
  · rfl

theorem State.readmit_mem (s : State) : s.readmit.mem = s.mem := State.foldl_leaves State.mem State.readmitted_mem _ s

theorem State.dropAll_ctx (s : State) {n : Nat} (hn : n < 32) : s.dropAll.ctx n =
    { s.ctx n with resident := false, claim := false, weightsIn := false, copying := [], zeroing := [] } := by
  obtain ⟨t, same, turn⟩ := SameAt.of_turn (f := State.withoutShares) hn (fun k hk other s => .setCtx hn hk other s _) s
  exact turn.trans ((State.ctx_setCtx_same ..).trans (by rw [same.ctx]))

/-- A context that was not resident is so again if it is pinned and has a partition. -/
theorem State.readmit_resident (s : State) {n : Nat} (hn : n < 32) (out : (s.ctx n).resident = false) :
    (s.readmit.ctx n).resident = (decide ((s.ctx n).status ≠ .free) && (s.ctx n).pinned && !(s.boundTo n).isEmpty) := by
  have other (k : Nat) (hk : k < 32) (apart : k ≠ n) (s : State) : SameAt n s (s.readmitted k) := by
    unfold State.readmitted
    split
    · exact .setCtx hn hk apart s _
    · exact .rfl
  obtain ⟨t, same, turn⟩ := SameAt.of_turn hn other s
  refine (congrArg Ctx.resident turn).trans ?_
  rw [← same.ctx, ← same.boundTo, decide_not, State.readmitted]
  split
  next admitted => rw [admitted, State.takeShares, State.ctx_setCtx_same]
  next barred => rw [same.ctx, out, ← same.ctx, Bool.eq_false_iff.2 barred]

/-- wipeAll is its two parts, but for the lanes' inputs. -/
theorem State.wipeAll_frame (s : State) : s.wipeAll.mem = s.wipeMemories.dropAll.mem ∧ s.wipeAll.ctxs = s.wipeMemories.dropAll.ctxs ∧
    s.wipeAll.parts = s.wipeMemories.dropAll.parts := by
  have frame (u : State) : ({ u with laneLast := [] } : State).mem = u.mem ∧ ({ u with laneLast := [] } : State).ctxs = u.ctxs ∧
      ({ u with laneLast := [] } : State).parts = u.parts := ⟨rfl, rfl, rfl⟩
  exact frame s.wipeMemories.dropAll

theorem State.wipeAll_zero (s : State) : s.wipeAll.MemoriesZero := by
  obtain ⟨mem, -, -⟩ := s.wipeAll_frame
  exact s.wipeMemories_zero.of_mem (mem.trans s.wipeMemories.dropAll_mem)

/-- The contexts after wipeAll: none holds shares, and all else is as before. -/
theorem State.wipeAll_ctx (s : State) {n : Nat} (hn : n < 32) : s.wipeAll.ctx n =
    { s.ctx n with resident := false, claim := false, weightsIn := false, copying := [], zeroing := [] } := by
  obtain ⟨-, ctxs, -⟩ := s.wipeAll_frame
  have wiped : s.wipeMemories.ctx n = s.ctx n := by rw [State.ctx, s.wipeMemories_zeroes.ctxs, State.ctx]
  rw [State.ctx, ctxs, ← State.ctx, State.dropAll_ctx _ hn, wiped]

theorem State.wipe_parts (s : State) (pa n : Nat) : (s.wipe pa n).parts = s.parts := State.zero_parts ..

theorem State.wipeMemories_parts (s : State) : s.wipeMemories.parts = s.parts := by
  have wipes (at_ : Nat → Nat) (n : Nat) (ks : List Nat) (s : State) : (ks.foldl (fun s k => s.wipe (at_ k) n) s).parts = s.parts :=
    State.foldl_leaves State.parts (f := fun s k => State.wipe s (at_ k) n) (fun s _ => s.wipe_parts ..) ks s
  unfold State.wipeMemories
  rw [wipes, wipes]

theorem State.wipeAll_parts (s : State) : s.wipeAll.parts = s.parts := by
  obtain ⟨-, -, parts⟩ := s.wipeAll_frame
  rw [parts, State.dropAll_parts, State.wipeMemories_parts]

/-! ## STATE of TCX_FW_STATUS -/

theorem State.millerTo_state (s : State) {v : Nat} (fits : v < 16) :
    (s.millerTo v).fld Reg.TCX_FW_STATUS Fld.TCX_FW_STATUS_STATE = v :=
  (State.fld_setFld_same ⟨by decide, by decide⟩).trans (Nat.mod_eq_of_lt fits)

/-- The launch version is in TCX_FW_IFVER, and Miller waits for the host. -/
def State.launched (s : State) : State :=
  ((s.setFld Reg.TCX_FW_IFVER Fld.TCX_FW_IFVER_MAJOR 4).setFld Reg.TCX_FW_IFVER Fld.TCX_FW_IFVER_MINOR 0).millerTo 2

theorem State.launched_version (s : State) : s.launched.fld Reg.TCX_FW_IFVER Fld.TCX_FW_IFVER_MAJOR = 4 ∧
    s.launched.fld Reg.TCX_FW_IFVER Fld.TCX_FW_IFVER_MINOR = 0 := by
  unfold State.launched State.millerTo
  constructor
  · rw [State.fld_setFld_other (by decide),
      State.fld_setFld_apart ⟨by decide, by decide⟩ ⟨by decide, by decide⟩ (by unfold Fld.apart; decide),
      State.fld_setFld_same ⟨by decide, by decide⟩]
    rfl
  · rw [State.fld_setFld_other (by decide), State.fld_setFld_same ⟨by decide, by decide⟩]
    rfl

theorem State.launched_frame (s : State) :
    s.launched.mem = s.mem ∧ s.launched.ctxs = s.ctxs ∧ s.launched.parts = s.parts := by
  simp [State.launched, State.millerTo]

/-- Every partition is deleted. -/
def State.withoutParts (s : State) : State := { s with parts := Vector.replicate 16 none }

theorem millerWaitHost_shows (s : State) :
    if s.fld Reg.TCX_FW_STATUS Fld.TCX_FW_STATUS_STATE = 1 then
      ∃ t, exec .millerWaitHost s = .next t ∧ t.fld Reg.TCX_FW_STATUS Fld.TCX_FW_STATUS_STATE = 2 ∧ t.parts = Vector.replicate 16 none ∧
        t.MemoriesZero ∧ t.fld Reg.TCX_FW_IFVER Fld.TCX_FW_IFVER_MAJOR = 4 ∧ t.fld Reg.TCX_FW_IFVER Fld.TCX_FW_IFVER_MINOR = 0 ∧
        ∀ n < 32, (t.ctx n).resident = false
    else exec .millerWaitHost s = .next s := by
  refine next_guarded (t := s.withoutParts.wipeAll.launched) rfl (.of_eq (Nat.beq_eq ..)) fun run => ?_
  obtain ⟨mem, ctxs, parts⟩ := s.withoutParts.wipeAll.launched_frame
  obtain ⟨major, minor⟩ := s.withoutParts.wipeAll.launched_version
  refine ⟨_, run, State.millerTo_state _ (by decide), ?_, State.MemoriesZero.of_mem ?_ mem, major, minor, fun n hn => ?_⟩
  · rw [parts, State.wipeAll_parts, State.withoutParts]
  · exact s.withoutParts.wipeAll_zero
  · rw [State.ctx, ctxs, ← State.ctx, State.wipeAll_ctx _ hn]

theorem millerRestartDone_shows (s : State) :
    if s.fld Reg.TCX_FW_STATUS Fld.TCX_FW_STATUS_STATE = 6 then
      ∃ u : State, exec .millerRestartDone s = .next u.settle ∧ u.fld Reg.TCX_FW_STATUS Fld.TCX_FW_STATUS_STATE = 3 ∧ u.MemoriesZero ∧
        ∀ n < 32, (u.ctx n).resident = (decide ((s.ctx n).status ≠ .free) && (s.ctx n).pinned && !(s.boundTo n).isEmpty)
    else exec .millerRestartDone s = .next s := by
  refine next_guarded (t := (s.wipeAll.readmit.millerTo 3).settle) rfl (.of_eq (Nat.beq_eq ..)) fun run =>
    ⟨_, run, State.millerTo_state _ (by decide), ?_, fun n hn => ?_⟩
  · exact s.wipeAll_zero.of_mem ((State.setFld_mem ..).trans s.wipeAll.readmit_mem)
  have same : (s.wipeAll.readmit.millerTo 3).ctx n = s.wipeAll.readmit.ctx n := by
    rw [State.millerTo, State.ctx, State.setFld_ctxs, ← State.ctx]
  have ctx := s.wipeAll_ctx hn
  have bound : s.wipeAll.boundTo n = s.boundTo n := by simp only [State.boundTo, State.part, State.wipeAll_parts]
  rw [same, s.wipeAll.readmit_resident hn (by rw [ctx]), ctx, bound]

/-! ## The handshake (R205) -/

/-- The image does not serve the host's version: another major one, or a later minor one. -/
def State.HostRefused (s : State) : Prop :=
  Fld.TCX_HOST_IFVER_MAJOR.get (s.reg Reg.TCX_HOST_IFVER) ≠ s.fld Reg.TCX_FW_IFVER Fld.TCX_FW_IFVER_MAJOR ∨
    s.fld Reg.TCX_FW_IFVER Fld.TCX_FW_IFVER_MINOR < Fld.TCX_HOST_IFVER_MINOR.get (s.reg Reg.TCX_HOST_IFVER)

/-- Where the descriptor of CTX0 lies. -/
def State.ctx0At (s : State) : Nat :=
  s.fld Reg.TCX_CTX0_DESC_HI Fld.TCX_CTX0_DESC_HI_ADDR_HI * 2 ^ 32 + s.fld Reg.TCX_CTX0_DESC_LO Fld.TCX_CTX0_DESC_LO_ADDR_LO * 256

/-- What is checked of it: the descriptor, and that it asks for no dirty log. -/
def ctx0Checks (b : List Byte) : List (Nat × Bool) := descChecks b ++ [(0, !(bitAt (fieldAt b 0 1) 1))]

theorem State.hostRefused_relabel (s : State) (req : Req) : (s.relabel req).HostRefused ↔ s.HostRefused := by
  unfold State.HostRefused
  rw [s.reg_relabel req (by decide), s.fld_relabel req _ (by decide), s.fld_relabel req _ (by decide)]

theorem State.ctx0At_relabel (s : State) (req : Req) : (s.relabel req).ctx0At = s.ctx0At := by
  unfold State.ctx0At
  rw [s.fld_relabel req _ (by decide), s.fld_relabel req _ (by decide)]

section
variable {s s1 : State} {b : List Byte} {e : Resp}

theorem State.hostRefused_guard : (!(Nat.beq (Fld.TCX_HOST_IFVER_MAJOR.get (s.reg Reg.TCX_HOST_IFVER))
    (Fld.TCX_FW_IFVER_MAJOR.get (s.reg Reg.TCX_FW_IFVER))) ||
    Nat.blt (Fld.TCX_FW_IFVER_MINOR.get (s.reg Reg.TCX_FW_IFVER)) (Fld.TCX_HOST_IFVER_MINOR.get (s.reg Reg.TCX_HOST_IFVER))) = true ↔
    s.HostRefused := by
  rw [Bool.or_eq_true, Bool.not_eq_true', Bool.eq_false_iff, Ne, Nat.beq_eq, Nat.blt_eq]
  rfl

theorem State.handshake_version (refused : s.HostRefused) : s.handshake = s.millerTo 4 := if_pos (State.hostRefused_guard.2 refused)

theorem State.handshake_unread (serves : ¬ s.HostRefused) (read : s.fetch (s.millerReq 0) s.ctx0At 256 = (e, b, s1))
    (failed : e ≠ .okay) : s.handshake = s1.millerTo 5 := by
  refine (if_neg (mt State.hostRefused_guard.1 serves)).trans ?_
  rw [← State.ctx0At, read]
  cases e with
  | okay => exact absurd rfl failed
  | _ => rfl

theorem State.handshake_bad (serves : ¬ s.HostRefused) (read : s.fetch (s.millerReq 0) s.ctx0At 256 = (.okay, b, s1))
    {status detail : Nat} (bad : firstBad 0x10 (ctx0Checks b) = .bad status detail) : s.handshake = s1.millerTo 5 := by
  refine (if_neg (mt State.hostRefused_guard.1 serves)).trans ?_
  rw [← State.ctx0At, read]
  dsimp only
  rw [← ctx0Checks, stFormat, bad]

theorem State.handshake_made (serves : ¬ s.HostRefused) (read : s.fetch (s.millerReq 0) s.ctx0At 256 = (.okay, b, s1))
    (good : firstBad 0x10 (ctx0Checks b) = .ok ()) : s.handshake = ((s1.create 0 b).millerTo 3).settle := by
  refine (if_neg (mt State.hostRefused_guard.1 serves)).trans ?_
  rw [← State.ctx0At, read]
  dsimp only
  rw [← ctx0Checks, stFormat, good]

/-- GO starts the handshake in WAIT_HOST, REFUSED_VERSION and BAD_CTX0. -/
theorem State.writeTcxCtrl_eq (s : State) (w : Word) : s.writeTcxCtrl w =
    if Fld.TCX_CTRL_GO.get w = 1 ∧ (s.fld Reg.TCX_FW_STATUS Fld.TCX_FW_STATUS_STATE = 2 ∨
        s.fld Reg.TCX_FW_STATUS Fld.TCX_FW_STATUS_STATE = 4 ∨ s.fld Reg.TCX_FW_STATUS Fld.TCX_FW_STATUS_STATE = 5) then s.handshake
    else s := by
  simp only [State.writeTcxCtrl, Bool.and_eq_true, Bool.or_eq_true, Nat.beq_eq, or_assoc]

end

end Sys2Proof.Machine
end

section
open Sys2Proof Sys2Proof.Machine

/-- Settles O33: the memories and shares are what wipeAll and readmit leave, and a granted GO is the handshake of the relabelled state, by
its four outcomes. -/
theorem millerStartUp : Obligations.MillerStartUp := by
  refine ⟨millerWaitHost_shows, fun s req w grants => ?_, millerRestartDone_shows⟩
  have ctrl := (s.relabel req).writeTcxCtrl_eq w
  rw [s.fld_relabel req _ (by decide)] at ctrl
  dsimp only
  split
  next go =>
    rw [if_pos go] at ctrl
    split
    next refused =>
      exact next_of_granted grants rfl (ctrl.trans (State.handshake_version ((s.hostRefused_relabel req).2 refused)))
    next serves =>
      have serves' := mt (s.hostRefused_relabel req).1 serves
      split
      next b s1 read =>
        have read' : _ = (Resp.okay, b, s1) := (congrArg (State.fetch _ _ · 256) (s.ctx0At_relabel req)).trans read
        split
        next good => exact next_of_granted grants rfl (ctrl.trans (State.handshake_made serves' read' good))
        next bad => exact next_of_granted grants rfl (ctrl.trans (State.handshake_bad serves' read' bad))
      next e b s1 failed read =>
        have read' : _ = (e, b, s1) := (congrArg (State.fetch _ _ · 256) (s.ctx0At_relabel req)).trans read
        exact next_of_granted grants rfl (ctrl.trans (State.handshake_unread serves' read' failed))
  next stays =>
    rw [if_neg stays] at ctrl
    exact next_of_granted grants rfl ctrl

end

section
/-!
SUPPORT. The Fusion Unit (R177, R295, R298 to R306): what the pairing of samples and the products that go out leave as it was, and what
writes of FUS_CTRL and FUS_REPHASE do.
-/

namespace Sys2Proof.Machine

open Host (Outcome)

/-! ## What pairing leaves: the events to come and the latest firings -/

section
variable {s t u : State} {i : Nat}

theorem State.instant_setInstant_same (x : Instant) : (s.setInstant i x).instant i = x := Vector.getElem_set_self _

theorem State.instant_setInstant (x : Instant) (k : Nat) :
    (s.setInstant i x).instant k = if Fin.ofNat 64 i = Fin.ofNat 64 k then x else s.instant k := by
  have set := Vector.getElem_set (xs := s.fusion.instants) (x := x) (Fin.ofNat 64 i).isLt (Fin.ofNat 64 k).isLt
  simp only [Fin.val_inj] at set
  exact set

/-- `t` has the scheduled events of `s`, and the latest firing of every instant. -/
structure SameFirings (s t : State) : Prop where
  bus : t.bus = s.bus
  fire : ∀ k, (t.instant k).lastFire = (s.instant k).lastFire

namespace SameFirings

protected theorem rfl : SameFirings s s := ⟨Eq.refl _, fun _ => Eq.refl _⟩

theorem trans (h : SameFirings s t) (k : SameFirings t u) : SameFirings s u :=
  ⟨k.bus.trans h.bus, fun n => (k.fire n).trans (h.fire n)⟩

theorem of_instants (bus : t.bus = s.bus) (instants : t.fusion.instants = s.fusion.instants) : SameFirings s t :=
  ⟨bus, fun k => congrArg (fun v : Vector Instant 64 => v[Fin.ofNat 64 k].lastFire) instants⟩

/-- An instant may change in all but its latest firing. -/
theorem setInstant (h : SameFirings s t) {x : Instant} (fire : x.lastFire = (t.instant i).lastFire) : SameFirings s (t.setInstant i x) := by
  refine h.trans ⟨Eq.refl _, fun k => ?_⟩
  rw [State.instant_setInstant]
  split
  next same => exact fire.trans (by simp only [State.instant, same])
  next => rfl

theorem countUnpaired (h : SameFirings s t) : SameFirings s (t.countUnpaired i) := h.setInstant (Eq.refl _)

theorem setProduct (h : SameFirings s t) (p q : Product) : SameFirings s (t.setProduct p q) :=
  h.trans (.of_instants (Eq.refl _) (Eq.refl _))

theorem updateLock (h : SameFirings s t) : SameFirings s t.updateLock := h.trans (.of_instants (Eq.refl _) (Eq.refl _))

theorem foldl {α : Type} {f : State → α → State} (h : ∀ s x, SameFirings s (f s x)) (xs : List α) (s : State) :
    SameFirings s (xs.foldl f s) := by
  induction xs generalizing s with
  | nil => exact .rfl
  | cons x xs ih => exact (h s x).trans (ih _)

end SameFirings

/-! ## What the writing of a product leaves: the open products as well -/

/-- `t` has the open products of `s` besides. -/
structure SameProducts (s t : State) : Prop extends SameFirings s t where
  products : t.fusion.products = s.fusion.products

namespace SameProducts

theorem trans (h : SameProducts s t) (k : SameProducts t u) : SameProducts s u :=
  ⟨h.toSameFirings.trans k.toSameFirings, k.products.trans h.products⟩

theorem of_fusion (bus : t.bus = s.bus) (fusion : t.fusion = s.fusion) : SameProducts s t :=
  ⟨.of_instants bus (congrArg _ fusion), congrArg _ fusion⟩

theorem of_access (h : AccessOnly s t) : SameProducts s t := .of_fusion (h.eq State.bus fun _ => rfl) (h.eq State.fusion fun _ => rfl)

theorem sendMsi (h : SameProducts s t) {u : Initiator} {c a d : Nat} : SameProducts s (t.sendMsi u c a d) :=
  h.trans (.of_fusion (State.sendMsi_bus ..) (State.sendMsi_fusion ..))

theorem fusionCqe (s : State) (i : Nat) (r : InstantRec) (e : CqEntry) : SameProducts s (s.fusionCqe i r e) := by
  unfold State.fusionCqe
  dsimp only
  split
  next put =>
    have written := of_access (.snd (AccessOnly.put ..) put)
    refine sendMsi ⟨written.toSameFirings.setInstant ?_, written.products⟩
    exact Eq.refl _
  next put => exact .of_access (.snd (AccessOnly.put ..) put)

end SameProducts

theorem AccessOnly.snd3 {α β γ : Type} {x : α} {y : β} {z : γ} {r : α × β × γ × State} (h : AccessOnly s r.2.2.2)
    (e : r = (x, y, z, t)) : AccessOnly s t := by
  subst e
  exact h

theorem AccessOnly.lidarFrames (cls : Nat) (xs : List Sample) (s : State) : AccessOnly s (s.lidarFrames cls xs).2.2 := by
  induction xs generalizing s with
  | nil => exact .rfl
  | cons x xs ih =>
    unfold State.lidarFrames
    split
    next fetch => exact (AccessOnly.snd2 (.fetch ..) fetch).trans (ih _)
    next fetch => exact .snd2 (.fetch ..) fetch

theorem AccessOnly.productBody (s : State) (p : Product) (r : InstantRec) : AccessOnly s (s.productBody p r).2.2.2 := by
  unfold State.productBody
  dsimp only
  split
  · split
    next frames => exact .snd2 (.lidarFrames ..) frames
    next frames => exact .snd2 (.lidarFrames ..) frames
  · exact .rfl

namespace SameProducts

/-- Whatever reads and writes precede it, the completion entry follows them. -/
theorem writeProduct (s : State) (p : Product) (r : InstantRec) (idx seq : Nat) : SameProducts s (s.writeProduct p r idx seq) := by
  have done {t : State} (h : AccessOnly s t) (e : CqEntry) : SameProducts s (t.fusionCqe p.instant r e) :=
    (of_access h).trans (.fusionCqe ..)
  unfold State.writeProduct
  dsimp only
  split
  next fetch =>
    have fetched := AccessOnly.snd2 (.fetch ..) fetch
    split
    next body =>
      have built := fetched.trans (.snd3 (.productBody ..) body)
      split
      next put => exact done (built.trans (.snd (AccessOnly.put ..) put)) _
      next put => exact done (built.trans (.snd (AccessOnly.put ..) put)) _
    next body => exact done (fetched.trans (.snd3 (.productBody ..) body)) _
  next fetch => exact done (.snd2 (.fetch ..) fetch) _

end SameProducts

/-! ## Products that go out -/

/-- Product `p` is open no more. -/
def State.closeProduct (s : State) (p : Product) : State :=
  { s with fusion := { s.fusion with products := s.fusion.products.erase p } }

/-- The state after the product has found the ring of buffers empty: it is counted. -/
def State.dropProduct (s : State) (p : Product) : State :=
  let x := s.instant p.instant
  (s.closeProduct p).setInstant p.instant
    { x with seq := x.seq + 1, outUpTo := some (max (x.outUpTo.getD 0) p.time), nobuf := x.nobuf + 1 }

/-- The state after the product has been written to the next buffer: the counts are 0, and the head is past the buffer. -/
def State.deliverProduct (s : State) (p : Product) : State :=
  let x := s.instant p.instant
  let r := s.instantRec p.bank p.instant
  let t := (s.closeProduct p).writeProduct p r x.bufHead (x.seq + 1)
  t.setInstant p.instant { t.instant p.instant with
    seq := x.seq + 1, outUpTo := some (max (x.outUpTo.getD 0) p.time), late := 0, unpaired := 0, nobuf := 0,
    bufHead := (x.bufHead + 1) % 2 ^ r.log2 }

theorem State.productOut_eq (s : State) (p : Product) : s.productOut p =
    (if (s.instant p.instant).bufHead = s.fld (Reg.FUS_BUF_TAIL p.instant) Fld.FUS_BUF_TAIL_TAIL then s.dropProduct p
    else s.deliverProduct p).updateLock := by
  simp only [← Nat.beq_eq]
  rfl

theorem State.closeProduct_firings (s : State) (p : Product) : SameFirings s (s.closeProduct p) := .of_instants rfl rfl

theorem State.deliverProduct_firings (s : State) (p : Product) : SameFirings s (s.deliverProduct p) :=
  ((s.closeProduct_firings p).trans (SameProducts.writeProduct ..).toSameFirings).setInstant rfl

theorem State.deliverProduct_products (s : State) (p : Product) : (s.deliverProduct p).fusion.products = s.fusion.products.erase p :=
  (SameProducts.writeProduct (s.closeProduct p) ..).products

namespace SameFirings

theorem productOut (h : SameFirings s t) (p : Product) : SameFirings s (t.productOut p) := by
  rw [State.productOut_eq]
  refine h.trans (updateLock ?_)
  split
  · exact (t.closeProduct_firings p).setInstant (Eq.refl _)
  · exact t.deliverProduct_firings p

theorem tryOut (h : SameFirings s t) (p : Product) : SameFirings s (t.tryOut p) := by
  unfold State.tryOut
  dsimp only
  split
  · exact h.productOut p
  · exact h

theorem joinProduct (h : SameFirings s t) (p : Product) (x : Sample) : SameFirings s (t.joinProduct p x) := by
  have joins {u : State} (h : SameFirings s u) (q : Product) : SameFirings s ((u.setProduct p q).tryOut q) := (h.setProduct p q).tryOut q
  unfold State.joinProduct
  dsimp only
  split
  next => exact h.countUnpaired
  next =>
    split
    next => exact joins h _
    next =>
      split
      · exact joins h _
      · split
        · exact h
        · have counted : SameFirings s (if x.carried = true then t else t.countUnpaired p.instant) := by
            split
            · exact h
            · exact h.countUnpaired
          split
          · exact joins counted _
          · exact counted

theorem lateSample (h : SameFirings s t) (r : InstantRec) (x : Sample) (fire : Int) : SameFirings s (t.lateSample i r x fire) := by
  unfold State.lateSample
  extract_lets inst late t1 y
  have counted : SameFirings s late := h.setInstant (Eq.refl _)
  split
  · exact counted
  · split
    next => exact counted.joinProduct ..
    next =>
      split
      · exact counted
      · exact counted.setInstant (Eq.refl _)

theorem resolveWaiting (h : SameFirings s t) (r : InstantRec) (fire : Nat) (skipped : Bool) (x : Sample) :
    SameFirings s (t.resolveWaiting i r fire skipped x) := by
  unfold State.resolveWaiting
  extract_lets own meets y
  split
  · exact h.countUnpaired
  · split
    next => exact h.joinProduct ..
    next =>
      split
      · exact h
      · exact h.lateSample ..

end SameFirings

end

/-! ## FUSION_INSTANT_EVENT and FUSION_CLOSE_TIMEOUT -/

section
variable {s : State}

theorem beq_eq_natBeq (m n : Nat) : (m == n) = Nat.beq m n := by
  rw [Bool.eq_iff_iff, beq_iff_eq, Nat.beq_eq]

theorem State.takeEvent_eq (s : State) (a : Nat) :
    s.takeEvent a = (s.bus.find? fun e => e.action == a).map fun e => (e, { s with bus := s.bus.erase e }) := by
  simp only [State.takeEvent, beq_eq_natBeq]
  split
  next found => rw [found, Option.map_some]
  next none => rw [none, Option.map_none]

/-- The instant of the event fires at the event's time, and nothing waits for it. -/
def State.instantFires (s : State) (e : ReleaseEvent) : State :=
  let i := bitsOf e.arg0 5 0
  State.setInstant { s with bus := s.bus.erase e } i { s.instant i with lastFire := some e.sched, waiting := [] }

/-- The open product that the firing of an enabled instant adds. -/
def State.openFor (s : State) (e : ReleaseEvent) : State :=
  { s with fusion := { s.fusion with
      products := s.fusion.products ++ [{ instant := bitsOf e.arg0 5 0, time := e.sched, bank := s.fusActive, samples := [] }] } }

/-- The firing of an instant where no swap is due. -/
def State.instantEvent (s : State) (e : ReleaseEvent) : State :=
  let i := bitsOf e.arg0 5 0
  if s.instantOn s.fusActive i = true then
    (s.instant i).waiting.foldl (fun t x => t.resolveWaiting i (s.instantRec s.fusActive i) e.sched e.skipped x)
      ((s.instantFires e).openFor e)
  else s.instantFires e

theorem execFusionInstantEvent_none (none : s.bus.find? (fun e => e.action == 3) = none) :
    execFusionInstantEvent s = .next s := by
  rw [execFusionInstantEvent, State.takeEvent_eq, none]
  rfl

variable {e : ReleaseEvent}

theorem execFusionInstantEvent_disabled (found : s.bus.find? (fun e => e.action == 3) = some e)
    (en : s.flag Reg.FUS_CTRL Fld.FUS_CTRL_EN = false) : execFusionInstantEvent s = .next { s with bus := s.bus.erase e } := by
  rw [execFusionInstantEvent, State.takeEvent_eq, found]
  exact congrArg Outcome.next (if_pos (congrArg (! ·) en))

/-- A firing leaves what the records of the banks say, and whether the instant is enabled. -/
theorem State.instantOn_instantFires (s : State) (e : ReleaseEvent) :
    (s.instantFires e).instantOn s.fusActive (bitsOf e.arg0 5 0) = s.instantOn s.fusActive (bitsOf e.arg0 5 0) := by
  have fired : (s.instantFires e).instant (bitsOf e.arg0 5 0) = _ := State.instant_setInstant_same _
  have dead := congrArg Instant.dead fired
  exact congrArg (fun d => !d && !(Nat.beq (s.instantRec s.fusActive (bitsOf e.arg0 5 0)).smask 0)) dead

theorem execFusionInstantEvent_fires (found : s.bus.find? (fun e => e.action == 3) = some e)
    (en : s.flag Reg.FUS_CTRL Fld.FUS_CTRL_EN = true) (swap : s.flag Reg.FUS_CTRL Fld.FUS_CTRL_SWAP = false) :
    execFusionInstantEvent s = .next (s.instantEvent e) := by
  have en0 : ({ s with bus := s.bus.erase e } : State).flag Reg.FUS_CTRL Fld.FUS_CTRL_EN = true := en
  have swap0 : ({ s with bus := s.bus.erase e } : State).flag Reg.FUS_CTRL Fld.FUS_CTRL_SWAP = false := swap
  have on : (s.instantFires e).instantOn (s.instantFires e).fusActive (bitsOf e.arg0 5 0) = s.instantOn s.fusActive (bitsOf e.arg0 5 0) :=
    s.instantOn_instantFires e
  rw [execFusionInstantEvent, State.takeEvent_eq, found, Option.map_some, State.instantEvent]
  simp only [en0, swap0, Bool.not_true, Bool.false_eq_true, Bool.false_and, if_false]
  refine congrArg Outcome.next ?_
  by_cases h : s.instantOn s.fusActive (bitsOf e.arg0 5 0) = true
  · rw [if_pos h]
    have enabled := congrArg (! ·) (on.trans h)
    exact if_neg (ne_true_of_eq_false enabled)
  · rw [if_neg h]
    have closed := congrArg (! ·) (on.trans (Bool.eq_false_iff.2 h))
    exact if_pos closed

theorem State.instantEvent_firings (s : State) (e : ReleaseEvent) : SameFirings (s.instantFires e) (s.instantEvent e) := by
  unfold State.instantEvent
  extract_lets i
  split
  · refine .trans ?_ (.foldl (fun _ _ => .resolveWaiting .rfl ..) _ _)
    exact .of_instants rfl rfl
  · exact .rfl

/-- The event is taken, and its time is the instant's latest firing. -/
theorem State.instantEvent_shows (s : State) (e : ReleaseEvent) : (s.instantEvent e).bus = s.bus.erase e ∧
    ((s.instantEvent e).instant (bitsOf e.arg0 5 0)).lastFire = some e.sched := by
  obtain ⟨bus, fire⟩ := s.instantEvent_firings e
  have fired : (s.instantFires e).instant (bitsOf e.arg0 5 0) = _ := State.instant_setInstant_same _
  exact ⟨bus, (fire _).trans (congrArg Instant.lastFire fired)⟩

theorem State.instantEvent_disabled (off : s.instantOn s.fusActive (bitsOf e.arg0 5 0) = false) :
    s.instantEvent e = s.instantFires e := if_neg (Bool.eq_false_iff.1 off)

theorem State.instantEvent_opens (on : s.instantOn s.fusActive (bitsOf e.arg0 5 0) = true)
    (free : (s.instant (bitsOf e.arg0 5 0)).waiting = []) : s.instantEvent e = (s.instantFires e).openFor e := by
  refine (if_pos on).trans ?_
  rw [free, List.foldl_nil]

/-- Product `p` is one of instant `n` whose close time has come. -/
def State.isDue (s : State) (n : Fin 64) (p : Product) : Bool :=
  p.instant == n.val && decide (p.time + (s.instantRec p.bank n).closeNs ≤ s.now)

theorem execFusionCloseTimeout_eq (s : State) (n : Fin 64) :
    execFusionCloseTimeout n s = .next (match s.fusion.products.find? (s.isDue n) with | some p => s.productOut p | none => s) := by
  have due : s.isDue n = fun p => Nat.beq p.instant n && Nat.ble (p.time + (s.instantRec p.bank n).closeNs) s.now := by
    funext p
    rw [Bool.eq_iff_iff]
    simp only [State.isDue, Bool.and_eq_true, Nat.beq_eq, Nat.ble_eq, beq_iff_eq, decide_eq_true_eq]
  rw [due]
  rfl

theorem State.isDue_instant {n : Fin 64} {p : Product} (found : s.fusion.products.find? (s.isDue n) = some p) : p.instant = n := by
  have due := List.find?_some found
  rw [State.isDue, Bool.and_eq_true, beq_iff_eq] at due
  exact due.1

/-- What a product that goes out does to the open products and to its instant. -/
theorem State.productOut_shows (s : State) (p : Product) :
    (s.productOut p).fusion.products = s.fusion.products.erase p ∧
    ((s.productOut p).instant p.instant).seq = (s.instant p.instant).seq + 1 ∧
    if (s.instant p.instant).bufHead = s.fld (Reg.FUS_BUF_TAIL p.instant) Fld.FUS_BUF_TAIL_TAIL then
      ((s.productOut p).instant p.instant).nobuf = (s.instant p.instant).nobuf + 1 ∧
      ((s.productOut p).instant p.instant).bufHead = (s.instant p.instant).bufHead ∧ (s.productOut p).mem = s.mem
    else ((s.productOut p).instant p.instant).nobuf = 0 ∧ ((s.productOut p).instant p.instant).late = 0 ∧
      ((s.productOut p).instant p.instant).unpaired = 0 ∧
      ((s.productOut p).instant p.instant).bufHead = ((s.instant p.instant).bufHead + 1) % 2 ^ (s.instantRec p.bank p.instant).log2 := by
  rw [State.productOut_eq]
  have same (t : State) : t.updateLock.fusion = t.fusion ∧ t.updateLock.mem = t.mem := ⟨State.setFld_fusion .., State.setFld_mem ..⟩
  split
  next empty =>
    obtain ⟨fusion, mem⟩ := same (s.dropProduct p)
    have dropped : (s.dropProduct p).instant p.instant = _ := State.instant_setInstant_same _
    rw [State.instant, fusion, mem, ← State.instant, dropped]
    exact ⟨rfl, rfl, rfl, rfl, rfl⟩
  next =>
    obtain ⟨fusion, -⟩ := same (s.deliverProduct p)
    have delivered : (s.deliverProduct p).instant p.instant = _ := State.instant_setInstant_same _
    rw [State.instant, fusion, ← State.instant, delivered]
    exact ⟨s.deliverProduct_products p, rfl, rfl, rfl, rfl, rfl⟩

end

/-! ## FUS_CTRL and FUS_REPHASE -/

/-- Registers without enumerated fields: a write by their access types changes that register alone. -/
theorem State.plainWrite_unlisted {a : Nat} (unlisted : ∀ f ∈ regFields a, f.vals = []) (s : State) (w : Word) :
    s.plainWrite a w = s.setReg a (writeFields (regFields a) (s.reg a) w (s.locked a)) := by
  have plain : ¬ reservedValue (regFields a) w = true := by
    rw [reservedValue, List.any_eq_true]
    rintro ⟨f, mem, reserved⟩
    simp [unlisted f mem] at reserved
  have recorded : s.recorded a w = s := if_neg plain
  rw [State.plainWrite_eq, recorded]

/-- What a field of such a register then holds. -/
theorem State.fld_plainWrite {a : Nat} {f : RegField} (mem : f ∈ regFields a) (unlisted : ∀ f ∈ regFields a, f.vals = [])
    (apart : fieldsApart (regFields a) = true) (s : State) (w : Word) :
    (s.plainWrite a w).fld a f.fld = f.written (s.reg a) w (s.locked a) % 2 ^ (f.fld.hi + 1 - f.fld.lo) := by
  rw [s.plainWrite_unlisted unlisted, State.fld, State.reg_setReg_same]
  exact writeFields_get apart _ _ _ mem

theorem regFields_FUS_CTRL : regFields Reg.FUS_CTRL = [
    { fld := Fld.FUS_CTRL_SWAP_INST, acc := .rw }, { fld := Fld.FUS_CTRL_LOCKED, acc := .ro },
    { fld := Fld.FUS_CTRL_ACTIVE, acc := .ro }, { fld := Fld.FUS_CTRL_SWAP, acc := .w1s }, { fld := Fld.FUS_CTRL_EN, acc := .rw }] := by
  decide

theorem FUS_CTRL_unlisted : ∀ f ∈ regFields Reg.FUS_CTRL, f.vals = [] := by
  simp [regFields_FUS_CTRL]

theorem FUS_CTRL_apart : fieldsApart (regFields Reg.FUS_CTRL) = true := by
  rw [regFields_FUS_CTRL]
  decide

section
variable (s : State) (w : Word)

theorem State.fld_plainWrite_FUS_CTRL {f : RegField} (mem : f ∈ regFields Reg.FUS_CTRL) :
    (s.plainWrite Reg.FUS_CTRL w).fld Reg.FUS_CTRL f.fld =
      f.written (s.reg Reg.FUS_CTRL) w (s.locked Reg.FUS_CTRL) % 2 ^ (f.fld.hi + 1 - f.fld.lo) :=
  State.fld_plainWrite mem FUS_CTRL_unlisted FUS_CTRL_apart s w

theorem State.FUS_CTRL_plainWrite :
    (s.plainWrite Reg.FUS_CTRL w).fusActive = s.fusActive ∧
    (s.plainWrite Reg.FUS_CTRL w).fld Reg.FUS_CTRL Fld.FUS_CTRL_SWAP =
      (s.fld Reg.FUS_CTRL Fld.FUS_CTRL_SWAP ||| Fld.FUS_CTRL_SWAP.get w) ∧
    (s.plainWrite Reg.FUS_CTRL w).fld Reg.FUS_CTRL Fld.FUS_CTRL_SWAP_INST = Fld.FUS_CTRL_SWAP_INST.get w ∧
    (s.plainWrite Reg.FUS_CTRL w).fld Reg.FUS_CTRL Fld.FUS_CTRL_EN = Fld.FUS_CTRL_EN.get w := by
  have held {f : RegField} (mem : f ∈ regFields Reg.FUS_CTRL) := s.fld_plainWrite_FUS_CTRL w mem
  rw [regFields_FUS_CTRL] at held
  refine ⟨?_, ?_, ?_, ?_⟩
  · exact (held (f := { fld := Fld.FUS_CTRL_ACTIVE, acc := .ro }) (by simp)).trans (Nat.mod_eq_of_lt (Fld.get_lt ..))
  · refine (held (f := { fld := Fld.FUS_CTRL_SWAP, acc := .w1s }) (by simp)).trans (Nat.mod_eq_of_lt ?_)
    exact Nat.or_lt_two_pow (Fld.get_lt ..) (Fld.get_lt ..)
  · exact (held (f := { fld := Fld.FUS_CTRL_SWAP_INST, acc := .rw }) (by simp)).trans (Nat.mod_eq_of_lt (Fld.get_lt ..))
  · exact (held (f := { fld := Fld.FUS_CTRL_EN, acc := .rw }) (by simp)).trans (Nat.mod_eq_of_lt (Fld.get_lt ..))

/-- An enabled instant names a context that is not ACTIVE (R177). -/
def State.StartRefused : Prop :=
  ∃ i < 64, s.instantOn s.fusActive i = true ∧ s.isActive (s.instantRec s.fusActive i).ctx = false

/-- EN falls back to 0. -/
def State.refuseStart : State := (s.lower Reg.FUS_CTRL Fld.FUS_CTRL_EN).cfgErr Reg.FUS_CTRL

/-- Instant `i` starts anew. -/
def State.startInstant (i : Nat) : State :=
  (s.setInstant i { Instant.reset with dead := (s.instant i).dead }).setReg (Reg.FUS_BUF_TAIL i) 0#32

def State.startInstants : State := (List.range 64).foldl State.startInstant s

theorem State.startRefused_iff : s.StartRefused ↔
    ((List.range 64).any fun i => s.instantOn s.fusActive i && !(s.isActive (s.instantRec s.fusActive i).ctx)) = true := by
  simp only [State.StartRefused, List.any_eq_true, List.mem_range, Bool.and_eq_true, Bool.not_eq_true']

/-- The registers are no part of what refuses a start, but for ACTIVE. -/
theorem State.startRefused_plainWrite : (s.plainWrite Reg.FUS_CTRL w).StartRefused ↔ s.StartRefused := by
  obtain ⟨active, -, -, -⟩ := s.FUS_CTRL_plainWrite w
  unfold State.StartRefused
  rw [active, s.plainWrite_unlisted FUS_CTRL_unlisted]
  rfl

theorem State.flag_eq_true_iff (a : Nat) (f : Fld) : s.flag a f = true ↔ s.fld a f = 1 := .of_eq (Nat.beq_eq ..)

/-- A write of FUS_CTRL that turns EN from 0 to 1. -/
def State.TurnsOn : Prop := Fld.FUS_CTRL_EN.get w = 1 ∧ s.fld Reg.FUS_CTRL Fld.FUS_CTRL_EN = 0

theorem State.turnsOn_iff : s.TurnsOn w ↔ ((s.plainWrite Reg.FUS_CTRL w).flag Reg.FUS_CTRL Fld.FUS_CTRL_EN &&
    !(s.flag Reg.FUS_CTRL Fld.FUS_CTRL_EN)) = true := by
  obtain ⟨-, -, -, en⟩ := s.FUS_CTRL_plainWrite w
  have bit : s.fld Reg.FUS_CTRL Fld.FUS_CTRL_EN < 2 := Fld.get_lt ..
  rw [Bool.and_eq_true, Bool.not_eq_true', Bool.eq_false_iff, ne_eq, State.flag_eq_true_iff, State.flag_eq_true_iff, en, State.TurnsOn]
  exact and_congr_right fun _ => by omega

variable {s w}

theorem State.writeFusCtrl_plain (off : ¬ s.TurnsOn w) : s.writeFusCtrl w = s.plainWrite Reg.FUS_CTRL w :=
  if_neg (mt (s.turnsOn_iff w).2 off)

theorem State.writeFusCtrl_refused (on : s.TurnsOn w) (refused : s.StartRefused) :
    s.writeFusCtrl w = (s.plainWrite Reg.FUS_CTRL w).refuseStart :=
  (if_pos ((s.turnsOn_iff w).1 on)).trans (if_pos ((State.startRefused_iff _).1 ((s.startRefused_plainWrite w).2 refused)))

theorem State.writeFusCtrl_starts (on : s.TurnsOn w) (granted : ¬ s.StartRefused) :
    s.writeFusCtrl w = (s.plainWrite Reg.FUS_CTRL w).startInstants :=
  (if_pos ((s.turnsOn_iff w).1 on)).trans
    (if_neg (mt (State.startRefused_iff _).2 (mt (s.startRefused_plainWrite w).1 granted)))

end

/-- Memory and the fields of FUS_CTRL beside EN are in `t` as in `s`. -/
structure SameBesideEn (s t : State) : Prop where
  mem : t.mem = s.mem
  fld : ∀ f : Fld, f.ok → Fld.FUS_CTRL_EN.apart f → t.fld Reg.FUS_CTRL f = s.fld Reg.FUS_CTRL f

section
variable (s : State) (w : Word)

theorem cfgErrAt_FUS_CTRL : cfgErrAt Reg.FUS_CTRL = none := by decide

theorem State.cfgErr_fusion (a : Nat) : (s.cfgErr a).fusion = s.fusion := by rw [s.cfgErr_regs]

theorem State.cfgErr_mem (a : Nat) : (s.cfgErr a).mem = s.mem := by rw [s.cfgErr_regs]

theorem State.fld_refuseStart (f : Fld) :
    s.refuseStart.fld Reg.FUS_CTRL f = (s.lower Reg.FUS_CTRL Fld.FUS_CTRL_EN).fld Reg.FUS_CTRL f :=
  congrArg f.get (State.reg_cfgErr (by simp [cfgErrAt_FUS_CTRL]))

theorem State.refuseStart_fusion : s.refuseStart.fusion = s.fusion := (State.cfgErr_fusion ..).trans (s.lower_fusion ..)

theorem State.refuseStart_beside : SameBesideEn s s.refuseStart := by
  refine ⟨?_, fun f ok apart => ?_⟩
  · exact (State.cfgErr_mem ..).trans (s.lower_mem ..)
  · exact (s.fld_refuseStart f).trans (State.fld_setFld_apart ⟨by decide, by decide⟩ ok apart)

theorem State.refuseStart_en : s.refuseStart.fld Reg.FUS_CTRL Fld.FUS_CTRL_EN = 0 :=
  (s.fld_refuseStart _).trans (State.fld_setFld_same ⟨by decide, by decide⟩)

theorem FUS_CTRL_ne_FUS_BUF_TAIL (i : Nat) : Reg.FUS_CTRL ≠ Reg.FUS_BUF_TAIL i := by
  unfold Reg.FUS_CTRL Reg.FUS_BUF_TAIL
  omega

theorem State.fld_startInstants (f : Fld) : s.startInstants.fld Reg.FUS_CTRL f = s.fld Reg.FUS_CTRL f :=
  State.foldl_leaves (State.fld · Reg.FUS_CTRL f) (f := State.startInstant)
    (fun _ i => State.fld_setReg_other (FUS_CTRL_ne_FUS_BUF_TAIL i)) _ s

theorem State.startInstants_mem : s.startInstants.mem = s.mem :=
  State.foldl_leaves State.mem (f := State.startInstant) (fun _ _ => rfl) _ s

theorem State.startInstants_beside : SameBesideEn s s.startInstants := ⟨s.startInstants_mem, fun f _ _ => s.fld_startInstants f⟩

theorem State.instant_startInstant (i k : Nat) : (s.startInstant i).instant k =
    if Fin.ofNat 64 i = Fin.ofNat 64 k then { Instant.reset with dead := (s.instant i).dead } else s.instant k :=
  State.instant_setInstant ..

/-- Instant `i` has started: its counts are as after reset, and no buffer is offered to it. -/
def State.Started (s : State) (i : Fin 64) (dead : Bool) : Prop :=
  s.reg (Reg.FUS_BUF_TAIL i) = 0#32 ∧ s.instant i = { Instant.reset with dead }

variable {s} {i : Fin 64} {dead : Bool}

theorem State.startInstant_dead (h : (s.instant i).dead = dead) (k : Nat) : ((s.startInstant k).instant i).dead = dead := by
  rw [State.instant_startInstant]
  split
  next same => simpa only [State.instant, same] using h
  next => exact h

theorem State.startInstant_starts (h : (s.instant i).dead = dead) : (s.startInstant i).Started i dead := by
  refine ⟨State.reg_setReg_same .., ?_⟩
  rw [State.instant_startInstant, if_pos rfl, h]

theorem State.startInstant_keeps (h : s.Started i dead) (k : Nat) : (s.startInstant k).Started i dead := by
  obtain ⟨tail, anew⟩ := h
  constructor
  · by_cases same : Reg.FUS_BUF_TAIL i = Reg.FUS_BUF_TAIL k
    · rw [same]
      exact State.reg_setReg_same ..
    · exact (State.reg_setReg_other same).trans tail
  · rw [State.instant_startInstant]
    split
    next same =>
      have died : (s.instant k).dead = dead := by simpa only [State.instant, same] using congrArg Instant.dead anew
      rw [died]
    next => exact anew

/-- Each instant is started by its own turn, and no other turn undoes that. -/
theorem State.startInstants_started (s : State) (i : Fin 64) : s.startInstants.Started i (s.instant i).dead := by
  obtain ⟨before, after, split⟩ := List.append_of_mem (List.mem_range.2 i.isLt)
  rw [State.startInstants, split, List.foldl_append, List.foldl_cons]
  refine List.foldlRecOn (motive := (State.Started · i (s.instant i).dead)) _ _ (State.startInstant_starts ?_)
    fun _ h k _ => State.startInstant_keeps h k
  exact List.foldlRecOn (motive := fun t : State => (t.instant i).dead = (s.instant i).dead) _ _ rfl
    fun _ h k _ => State.startInstant_dead h k

end

theorem State.writeFusCtrl_beside (s : State) (w : Word) : SameBesideEn (s.plainWrite Reg.FUS_CTRL w) (s.writeFusCtrl w) := by
  by_cases on : s.TurnsOn w
  · by_cases refused : s.StartRefused
    · rw [State.writeFusCtrl_refused on refused]
      exact State.refuseStart_beside _
    · rw [State.writeFusCtrl_starts on refused]
      exact State.startInstants_beside _
  · rw [State.writeFusCtrl_plain on]
    exact ⟨rfl, fun _ _ _ => rfl⟩

/-- What a write of FUS_CTRL does beside turning EN on: SWAP is set, SWAP_INST is taken. -/
theorem State.writeFusCtrl_shows (s : State) (w : Word) :
    (s.writeFusCtrl w).mem = s.mem ∧ (s.writeFusCtrl w).fusActive = s.fusActive ∧
    (s.writeFusCtrl w).fld Reg.FUS_CTRL Fld.FUS_CTRL_SWAP = (s.fld Reg.FUS_CTRL Fld.FUS_CTRL_SWAP ||| Fld.FUS_CTRL_SWAP.get w) ∧
    (s.writeFusCtrl w).fld Reg.FUS_CTRL Fld.FUS_CTRL_SWAP_INST = Fld.FUS_CTRL_SWAP_INST.get w := by
  obtain ⟨mem, fld⟩ := s.writeFusCtrl_beside w
  obtain ⟨active, swap, inst, -⟩ := s.FUS_CTRL_plainWrite w
  have written : (s.plainWrite Reg.FUS_CTRL w).mem = s.mem := by rw [s.plainWrite_frame]
  exact ⟨mem.trans written, (fld Fld.FUS_CTRL_ACTIVE ⟨by decide, by decide⟩ (.inl (by decide))).trans active,
    (fld _ ⟨by decide, by decide⟩ (.inl (by decide))).trans swap, (fld _ ⟨by decide, by decide⟩ (.inl (by decide))).trans inst⟩

theorem State.plainWrite_fusion (s : State) (a : Nat) (w : Word) : (s.plainWrite a w).fusion = s.fusion := by rw [s.plainWrite_frame]

/-- EN after a write of FUS_CTRL, and the instants. -/
theorem State.writeFusCtrl_en (s : State) (w : Word) :
    if Fld.FUS_CTRL_EN.get w = 1 ∧ s.fld Reg.FUS_CTRL Fld.FUS_CTRL_EN = 0 then
      (s.StartRefused → (s.writeFusCtrl w).fld Reg.FUS_CTRL Fld.FUS_CTRL_EN = 0 ∧ (s.writeFusCtrl w).fusion = s.fusion) ∧
      (¬ s.StartRefused → (s.writeFusCtrl w).fld Reg.FUS_CTRL Fld.FUS_CTRL_EN = 1 ∧
        ∀ i : Fin 64, (s.writeFusCtrl w).Started i (s.instant i).dead)
    else (s.writeFusCtrl w).fusion = s.fusion ∧ (s.writeFusCtrl w).fld Reg.FUS_CTRL Fld.FUS_CTRL_EN = Fld.FUS_CTRL_EN.get w := by
  obtain ⟨-, -, -, en⟩ := s.FUS_CTRL_plainWrite w
  have fusion := s.plainWrite_fusion Reg.FUS_CTRL w
  split
  next on =>
    refine ⟨fun refused => ?_, fun granted => ?_⟩
    · rw [State.writeFusCtrl_refused on refused]
      exact ⟨State.refuseStart_en _, (State.refuseStart_fusion _).trans fusion⟩
    · rw [State.writeFusCtrl_starts on granted]
      refine ⟨(State.fld_startInstants ..).trans (en.trans on.1), fun i => ?_⟩
      rw [State.instant, ← fusion]
      exact State.startInstants_started _ i
  next off =>
    rw [State.writeFusCtrl_plain off]
    exact ⟨fusion, en⟩

theorem State.startRefused_relabel (s : State) (req : Req) : (s.relabel req).StartRefused ↔ s.StartRefused := by
  unfold State.StartRefused
  rw [s.fusActive_relabel, s.instantOn_relabel, s.instantRec_relabel, s.relabel_apart req (·.isActive) fun _ => rfl]

theorem State.writeRephase_drifts (s : State) (w : Word) (k : Fin 64) : (s.writeRephase w).fusion.drifts[k] =
    if Fld.FUS_REPHASE_GO.get w = 1 ∧ k.val = Fld.FUS_REPHASE_SENSOR.get w then { s.fusion.drifts[k] with again := true }
    else s.fusion.drifts[k] := by
  have sensor : Fld.FUS_REPHASE_SENSOR.get w < 64 := Fld.get_lt ..
  have marked : (s.writeRephase w).fusion.drifts = if Fld.FUS_REPHASE_GO.get w = 1 then
      s.fusion.drifts.set (Fld.FUS_REPHASE_SENSOR.get w) { s.fusion.drifts[Fld.FUS_REPHASE_SENSOR.get w] with again := true }
      else s.fusion.drifts := by
    simp only [State.writeRephase, Nat.beq_eq]
    split
    · simp only [State.plainWrite_fusion, Fin.getElem_fin, Fin.val_ofNat, Nat.mod_eq_of_lt sensor]
    · rw [State.plainWrite_fusion]
  by_cases go : Fld.FUS_REPHASE_GO.get w = 1
  · simp only [marked, go, if_true, true_and, Fin.getElem_fin, Vector.getElem_set]
    split
    next same => simp only [same, if_true]
    next other => rw [if_neg (Ne.symm other)]
  · simp only [marked, go, if_false, false_and]

end Sys2Proof.Machine
end

section
open Sys2Proof Sys2Proof.Machine

/-- Settles O41: pairing leaves the events and the latest firings, writing a product leaves the open products, and each instant starts
by its own turn of the loop. -/
theorem fusionInstants : Obligations.FusionInstants := by
  refine ⟨fun s none => execFusionInstantEvent_none none, fun s e found => ⟨fun en => execFusionInstantEvent_disabled found en,
    fun en swap => ⟨_, execFusionInstantEvent_fires found en swap, ?_⟩⟩,
    fun s n => ?_, fun s req w grants => ?_, fun s req w grants => ?_⟩
  · obtain ⟨bus, fire⟩ := s.instantEvent_shows e
    refine ⟨bus, fire, fun off => ?_, fun on free => ?_⟩
    · rw [State.instantEvent_disabled off]
      rfl
    · rw [State.instantEvent_opens on free]
      rfl
  · have run := execFusionCloseTimeout_eq s n
    refine ⟨fun none => ?_, fun p found => ⟨s.productOut p, ?_, ?_⟩⟩
    · rw [show s.fusion.products.find? (s.isDue n) = .none from none] at run
      exact run
    · rw [show s.fusion.products.find? (s.isDue n) = some p from found] at run
      exact run
    · have outcome := s.productOut_shows p
      rw [State.isDue_instant found] at outcome
      exact outcome
  · refine ⟨_, next_of_granted grants rfl rfl, rfl, ?_⟩
    obtain ⟨mem, active, swap, inst⟩ := (s.relabel req).writeFusCtrl_shows w
    refine ⟨mem.trans (s.relabel_mem req), active.trans (s.fusActive_relabel req), ?_, inst, ?_⟩
    · rw [← s.fld_relabel req Fld.FUS_CTRL_SWAP (b := Reg.FUS_CTRL) (by decide)]
      exact swap
    · have outcome := (s.relabel req).writeFusCtrl_en w
      rw [s.fld_relabel req Fld.FUS_CTRL_EN (b := Reg.FUS_CTRL) (by decide), s.startRefused_relabel,
        s.relabel_apart req State.fusion fun _ => rfl] at outcome
      simp only [s.relabel_apart req State.instant fun _ => rfl] at outcome
      exact outcome
  · refine ⟨_, next_of_granted grants rfl rfl, rfl, fun k => ?_⟩
    refine ((s.relabel req).writeRephase_drifts w k).trans ?_
    rw [s.relabel_apart req State.fusion fun _ => rfl]

end

section
/-!
SUPPORT. The registers of the timebase and what its events do to them: W1C bits of TMB_STATUS, LOCKED, and holdover (R240, R245, R249, R250).
-/

namespace Sys2Proof.Machine

open Host (Outcome)

/-! ## Fields of one bit -/

/-- A bit that is clear is set by adding its weight. -/
theorem bitAt_add_two_pow {v n k : Nat} (low : k < n) (clear : bitAt v k = false) : bitAt ((v + 2 ^ k) % 2 ^ n) k = true := by
  have half : v / 2 ^ k % 2 = 0 := by
    have := beq_eq_false_iff_ne.1 clear
    omega
  rw [bitAt_eq_testBit, Nat.testBit_mod_two_pow, decide_eq_true low, Bool.true_and, ← bitAt_eq_testBit]
  refine beq_iff_eq.2 ?_
  rw [Nat.add_div_right _ (Nat.two_pow_pos k)]
  omega

section
variable {s t : State} {a : Nat} {f : Fld}

theorem State.fld_lt_two (one : f.hi = f.lo) : s.fld a f < 2 := by
  have fits : s.fld a f < 2 ^ (f.hi + 1 - f.lo) := Fld.get_lt ..
  rwa [one, Nat.add_sub_cancel_left] at fits

/-- A field of one bit is its flag. -/
theorem State.fld_eq_toNat_flag (one : f.hi = f.lo) : s.fld a f = (s.flag a f).toNat := by
  have fits : s.fld a f < 2 := State.fld_lt_two one
  cases h : s.flag a f with
  | true => exact (s.flag_eq_true_iff a f).1 h
  | false =>
    have other : s.fld a f ≠ 1 := fun e => Bool.false_ne_true (h.symm.trans ((s.flag_eq_true_iff a f).2 e))
    show s.fld a f = 0
    omega

theorem State.fld_eq_zero_of_flag (one : f.hi = f.lo) (clear : s.flag a f = false) : s.fld a f = 0 := by
  rw [State.fld_eq_toNat_flag one, clear]
  rfl

theorem State.flag_congr (h : t.fld a f = s.fld a f) : t.flag a f = s.flag a f := congrArg (Nat.beq · 1) h

theorem State.fld_congr (h : t.reg a = s.reg a) (f : Fld) : t.fld a f = s.fld a f := congrArg f.get h

theorem State.fld_raise (ok : f.ok) : (s.raise a f).fld a f = 1 := by
  refine (State.fld_setFld_same ok).trans (Nat.mod_eq_of_lt (Nat.one_lt_two_pow ?_))
  have := ok.1
  omega

theorem State.fld_lower (ok : f.ok) : (s.lower a f).fld a f = 0 := (State.fld_setFld_same ok).trans (Nat.zero_mod _)

end

/-! ## What the timebase changes beside its time -/

/-- From `s` to `t` nothing changes but the registers of `A`, interrupts, error records and what the timebase holds beside its time. -/
structure TimebaseOnly (A : List Nat) (s t : State) : Prop where
  rest : t = { s with regs := t.regs, irqs := t.irqs, errs := t.errs, tb := t.tb, ticks := t.ticks }
  now : t.now = s.now
  reg : ∀ a, a ∉ A → t.reg a = s.reg a

namespace TimebaseOnly

variable {A B : List Nat} {s t u : State}

protected theorem rfl : TimebaseOnly A s s := ⟨Eq.refl _, Eq.refl _, fun _ _ => Eq.refl _⟩

/-- A part of the state that the timebase does not change. -/
theorem eq {α : Type} (h : TimebaseOnly A s t) (f : State → α)
    (apart : ∀ regs irqs errs tb ticks, f { s with regs, irqs, errs, tb, ticks } = f s) : f t = f s :=
  (congrArg f h.rest).trans (apart ..)

theorem trans (h : TimebaseOnly A s t) (k : TimebaseOnly A t u) : TimebaseOnly A s u where
  rest := by
    have parts := k.rest
    rw [h.rest] at parts
    exact parts
  now := k.now.trans h.now
  reg a out := (k.reg a out).trans (h.reg a out)

theorem mono (h : TimebaseOnly A s t) (sub : A ⊆ B) : TimebaseOnly B s t :=
  ⟨h.rest, h.now, fun a out => h.reg a fun mem => out (sub mem)⟩

theorem setReg (h : TimebaseOnly A s t) {a : Nat} {w : Word} (mem : a ∈ A) : TimebaseOnly A s (t.setReg a w) :=
  h.trans ⟨Eq.refl _, Eq.refl _, fun _ out => State.reg_setReg_other fun e => out (e ▸ mem)⟩

theorem setFld (h : TimebaseOnly A s t) {a : Nat} {f : Fld} {v : Nat} (mem : a ∈ A) : TimebaseOnly A s (t.setFld a f v) := h.setReg mem

theorem setTb (h : TimebaseOnly A s t) {b : Timebase} (sec : b.sec = t.tb.sec := by rfl) (ns : b.ns = t.tb.ns := by rfl) :
    TimebaseOnly A s { t with tb := b } :=
  h.trans ⟨Eq.refl _, by rw [State.now, sec, ns, State.now], fun _ _ => Eq.refl _⟩

theorem interrupt (h : TimebaseOnly A s t) {u : UnitId} : TimebaseOnly A s (t.interrupt u) := by
  unfold State.interrupt
  split
  · exact h
  · exact h.trans ⟨Eq.refl _, Eq.refl _, fun _ _ => Eq.refl _⟩

theorem report (h : TimebaseOnly A s t) {r : ErrRecord} : TimebaseOnly A s (t.report r) :=
  h.trans ⟨Eq.refl _, Eq.refl _, fun _ _ => Eq.refl _⟩

theorem ite {p : Prop} [Decidable p] (h : TimebaseOnly A s t) (k : TimebaseOnly A s u) : TimebaseOnly A s (if p then t else u) := by
  split <;> assumption

theorem tmbEvent (h : TimebaseOnly A s t) {f : Fld} {bit : Nat} (mem : Reg.TMB_STATUS ∈ A := by decide) :
    TimebaseOnly A s (t.tmbEvent f bit) := h.ite (h.setFld mem).interrupt

theorem unlock (h : TimebaseOnly A s t) (mem : Reg.TMB_STATUS ∈ A := by decide) : TimebaseOnly A s t.unlock :=
  .ite (.tmbEvent (h.setTb.setFld mem) mem) h.setTb

theorem enterHoldover (h : TimebaseOnly A s t) {c : HoldCause} (mem : Reg.TMB_STATUS ∈ A := by decide)
    (ms : Reg.TMB_HOLD ∈ A := by decide) : TimebaseOnly A s (t.enterHoldover c) :=
  h.setTb.ite ((((h.setTb.setFld mem).setReg ms).tmbEvent mem).report.unlock mem)

theorem leaveHoldover (h : TimebaseOnly A s t) {c : HoldCause} (mem : Reg.TMB_STATUS ∈ A := by decide) :
    TimebaseOnly A s (t.leaveHoldover c) := h.setTb.ite (h.setTb.setFld mem)

end TimebaseOnly

/-! ## Events of TMB_STATUS (R240) -/

section
variable {s : State} {f g : Fld} {k : Nat}

@[simp] theorem State.tb_interrupt (s : State) (u : UnitId) : (s.interrupt u).tb = s.tb := by
  unfold State.interrupt
  split <;> rfl

@[simp] theorem State.errs_interrupt (s : State) (u : UnitId) : (s.interrupt u).errs = s.errs := by
  unfold State.interrupt
  split <;> rfl

@[simp] theorem State.regs_interrupt (s : State) (u : UnitId) : (s.interrupt u).regs = s.regs := by
  unfold State.interrupt
  split <;> rfl

@[simp] theorem State.reg_interrupt (s : State) (u : UnitId) (a : Nat) : (s.interrupt u).reg a = s.reg a := by
  rw [State.reg, s.regs_interrupt, State.reg]

@[simp] theorem State.fld_interrupt (s : State) (u : UnitId) (a : Nat) (f : Fld) : (s.interrupt u).fld a f = s.fld a f :=
  State.fld_congr (s.reg_interrupt u a) f

@[simp] theorem State.tb_tmbEvent (s : State) (f : Fld) (k : Nat) : (s.tmbEvent f k).tb = s.tb := by
  unfold State.tmbEvent
  dsimp only
  split
  · rfl
  · rw [State.tb_interrupt, State.setFld_tb]

@[simp] theorem State.errs_tmbEvent (s : State) (f : Fld) (k : Nat) : (s.tmbEvent f k).errs = s.errs := by
  unfold State.tmbEvent
  dsimp only
  split
  · rfl
  · rw [State.errs_interrupt, State.setFld_errs]

theorem State.reg_tmbEvent {a : Nat} (other : a ≠ Reg.TMB_STATUS) : (s.tmbEvent f k).reg a = s.reg a :=
  (TimebaseOnly.rfl.tmbEvent (A := [Reg.TMB_STATUS]) (f := f) (bit := k) (List.mem_singleton.2 rfl)).reg a
    fun mem => other (List.mem_singleton.1 mem)

/-- An event leaves the other fields. -/
theorem State.fld_tmbEvent (fok : f.ok) (gok : g.ok) (apart : f.apart g) :
    (s.tmbEvent f k).fld Reg.TMB_STATUS g = s.fld Reg.TMB_STATUS g := by
  unfold State.tmbEvent
  dsimp only
  split
  · rfl
  · rw [State.fld_interrupt, State.fld_setFld_apart fok gok apart]

/-- An event sets its bit. -/
theorem State.bitAt_tmbEvent (ok : f.ok) (low : k < f.hi + 1 - f.lo) : bitAt ((s.tmbEvent f k).fld Reg.TMB_STATUS f) k = true := by
  unfold State.tmbEvent
  dsimp only
  split
  next set => exact set
  next clear =>
    rw [State.fld_interrupt, State.fld_setFld_same ok]
    exact bitAt_add_two_pow low (Bool.eq_false_iff.2 clear)

/-- An event of one bit sets it. -/
theorem State.fld_tmbEvent_same (ok : f.ok) (one : f.hi = f.lo) : (s.tmbEvent f 0).fld Reg.TMB_STATUS f = 1 := by
  have set := s.bitAt_tmbEvent (k := 0) ok (by omega)
  have fits := (s.tmbEvent f 0).fld_lt_two (a := Reg.TMB_STATUS) one
  rw [bitAt, pow_zero, Nat.div_one, beq_iff_eq] at set
  omega

/-! ## LOCKED (R245) -/

theorem State.unlock_eq (s : State) : s.unlock = if s.flag Reg.TMB_STATUS Fld.TMB_STATUS_LOCKED then
    (State.lower { s with tb := { s.tb with good := 0 } } Reg.TMB_STATUS Fld.TMB_STATUS_LOCKED).tmbEvent Fld.TMB_STATUS_LOCK_LOST 0
    else { s with tb := { s.tb with good := 0 } } := (rfl)

@[simp] theorem State.tb_unlock (s : State) : s.unlock.tb = { s.tb with good := 0 } := by
  rw [State.unlock_eq]
  split
  · rw [State.tb_tmbEvent, State.lower_tb]
  · rfl

@[simp] theorem State.errs_unlock (s : State) : s.unlock.errs = s.errs := by
  rw [State.unlock_eq]
  split
  · rw [State.errs_tmbEvent, State.lower_errs]
  · rfl

theorem State.LOCKED_unlock (s : State) : s.unlock.fld Reg.TMB_STATUS Fld.TMB_STATUS_LOCKED = 0 := by
  rw [State.unlock_eq]
  split
  · rw [State.fld_tmbEvent ⟨by decide, by decide⟩ ⟨by decide, by decide⟩ (.inr (by decide))]
    exact State.fld_lower ⟨by decide, by decide⟩
  next unlocked => exact State.fld_eq_zero_of_flag rfl (Bool.eq_false_iff.2 unlocked)

/-- A lock that is lost is shown. -/
theorem State.LOCK_LOST_unlock (locked : s.fld Reg.TMB_STATUS Fld.TMB_STATUS_LOCKED = 1) :
    s.unlock.fld Reg.TMB_STATUS Fld.TMB_STATUS_LOCK_LOST = 1 := by
  rw [State.unlock_eq, if_pos ((s.flag_eq_true_iff ..).2 locked)]
  exact State.fld_tmbEvent_same ⟨by decide, by decide⟩ rfl

/-- The loss of a lock leaves the fields above LOCK_LOST and those between it and LOCKED. -/
theorem State.fld_unlock (ok : g.ok) (locked : Fld.TMB_STATUS_LOCKED.apart g) (lost : Fld.TMB_STATUS_LOCK_LOST.apart g) :
    s.unlock.fld Reg.TMB_STATUS g = s.fld Reg.TMB_STATUS g := by
  rw [State.unlock_eq]
  split
  · rw [State.fld_tmbEvent ⟨by decide, by decide⟩ ok lost]
    exact State.fld_setFld_apart ⟨by decide, by decide⟩ ok locked
  · rfl

/-! ## Holdover (R249, R250) -/

variable {c : HoldCause}

theorem State.inHoldover_congr {t : State} (h : t.fld Reg.TMB_STATUS Fld.TMB_STATUS_HOLDOVER = s.fld Reg.TMB_STATUS Fld.TMB_STATUS_HOLDOVER) :
    t.inHoldover = s.inHoldover := State.flag_congr h

/-- The registers of a holdover that begins now, before the event and the record of it. -/
def State.holding (s : State) (c : HoldCause) : State :=
  (State.raise { s with tb := { s.tb with hold := c, holdFrom := s.tb.elapsed, holdGood := 0 } } Reg.TMB_STATUS
    Fld.TMB_STATUS_HOLDOVER).setReg Reg.TMB_HOLD 0#32

theorem State.enterHoldover_again (h : s.inHoldover = true) : s.enterHoldover c = { s with tb := { s.tb with hold := c } } := if_pos h

theorem State.enterHoldover_new (h : s.inHoldover = false) :
    s.enterHoldover c = (((s.holding c).tmbEvent Fld.TMB_STATUS_HOLD 0).report (plainRecord .timebase sevCE)).unlock :=
  if_neg (Bool.eq_false_iff.1 h)

theorem State.HOLDOVER_holding (s : State) (c : HoldCause) :
    (s.holding c).fld Reg.TMB_STATUS Fld.TMB_STATUS_HOLDOVER = 1 := by
  rw [State.holding, State.fld_setReg_other (by decide)]
  exact State.fld_raise ⟨by decide, by decide⟩

/-- A new holdover clears LOCKED and TMB_HOLD and sends a record; what the timebase counts by it keeps. -/
theorem State.enterHoldover_shows (h : s.inHoldover = false) (c : HoldCause) : let t := s.enterHoldover c
    t.fld Reg.TMB_STATUS Fld.TMB_STATUS_HOLDOVER = 1 ∧ t.fld Reg.TMB_STATUS Fld.TMB_STATUS_HOLD = 1 ∧ t.reg Reg.TMB_HOLD = 0#32 ∧
      t.fld Reg.TMB_STATUS Fld.TMB_STATUS_LOCKED = 0 ∧ t.errs = s.errs ++ [plainRecord .timebase sevCE] ∧
      t.tb = { s.tb with hold := c, holdFrom := s.tb.elapsed, holdGood := 0, good := 0 } := by
  intro t
  have new : t = _ := State.enterHoldover_new h
  refine ⟨?_, ?_, ?_, new ▸ State.LOCKED_unlock _, ?_, ?_⟩
  · rw [new, State.fld_unlock ⟨by decide, by decide⟩ (.inl (by decide)) (.inr (by decide))]
    exact (State.fld_tmbEvent ⟨by decide, by decide⟩ ⟨by decide, by decide⟩ (.inr (by decide))).trans (s.HOLDOVER_holding c)
  · rw [new, State.fld_unlock ⟨by decide, by decide⟩ (.inl (by decide)) (.inr (by decide))]
    exact State.fld_tmbEvent_same ⟨by decide, by decide⟩ rfl
  · rw [new, (TimebaseOnly.rfl.unlock (A := [Reg.TMB_STATUS])).reg _ (by decide)]
    exact (State.reg_tmbEvent (by decide)).trans (State.reg_setReg_same ..)
  · rw [new, State.errs_unlock, State.report, State.errs_tmbEvent]
    rfl
  · rw [new, State.tb_unlock, State.report_tb, State.tb_tmbEvent]
    rfl

theorem State.enterHoldover_inHoldover (s : State) (c : HoldCause) : (s.enterHoldover c).inHoldover = true := by
  cases h : s.inHoldover with
  | true => rw [State.enterHoldover_again h]; exact h
  | false => exact (State.flag_eq_true_iff ..).2 (State.enterHoldover_shows h c).1

theorem State.enterHoldover_tb (s : State) (c : HoldCause) : ∃ holdFrom holdGood good,
    (s.enterHoldover c).tb = { s.tb with hold := c, holdFrom, holdGood, good } := by
  cases h : s.inHoldover with
  | true => exact ⟨_, _, _, by rw [State.enterHoldover_again h]⟩
  | false =>
    obtain ⟨-, -, -, -, -, tb⟩ := State.enterHoldover_shows h c
    exact ⟨_, _, _, tb⟩

/-- Holdover goes on while a cause is left. -/
theorem State.leaveHoldover_inHoldover (s : State) (c : HoldCause) :
    (s.leaveHoldover c).inHoldover = (s.inHoldover && (c.source || c.tbref)) := by
  unfold State.leaveHoldover
  dsimp only
  split
  next left =>
    rw [left, Bool.and_true]
    rfl
  next none =>
    rw [Bool.eq_false_iff.2 none, Bool.and_false]
    exact congrArg (Nat.beq · 1) (State.fld_lower ⟨by decide, by decide⟩)

@[simp] theorem State.tb_leaveHoldover (s : State) (c : HoldCause) : (s.leaveHoldover c).tb = { s.tb with hold := c } := by
  unfold State.leaveHoldover
  dsimp only
  split
  · rfl
  · rw [State.lower_tb]

end

end Sys2Proof.Machine
end

section
/-!
SUPPORT. The reference clock monitor (R249, R250, R525): the failure of SYSCLK, TBREF and XGREF, and the return of TBREF.
-/

namespace Sys2Proof.Machine

section
variable (s : State)

/-- The failure of XGREF takes down the links of ports 8 to 11 (R525). -/
def State.withoutXg (s : State) : Vector Bool 14 :=
  (List.range 4).foldl (fun (v : Vector Bool 14) k => v.set (Fin.ofNat 14 (8 + k)) false) s.portLinks

theorem State.withoutXg_getElem (p : Fin 14) : s.withoutXg[p] = if 8 ≤ p.val ∧ p.val < 12 then false else s.portLinks[p] := by
  unfold State.withoutXg
  simp only [List.range, List.range.loop, List.foldl_cons, List.foldl_nil, Fin.getElem_fin, Vector.getElem_set, Fin.val_ofNat]
  fin_cases p <;> rfl

/-- TBREF has failed, and the monitor shows it. -/
def State.tbrefLost (s : State) : State :=
  (State.raise { s with tb := { s.tb with tbrefOut := true } } Reg.CLK_MON Fld.CLK_MON_TBREF_BAD).raise Reg.CLK_MON
    Fld.CLK_MON_TB_ON_SYS

/-- TBREF is back. -/
def State.tbrefBack (s : State) : State :=
  State.lower { s with tb := { s.tb with tbrefOut := false, holdGood := 0 } } Reg.CLK_MON Fld.CLK_MON_TB_ON_SYS

variable {s}

theorem exec_tbrefFail_again (out : s.tb.tbrefOut = true) : exec .tbrefFail s = .next s := congrArg Host.Outcome.next (if_pos out)

theorem exec_tbrefFail (on : s.tb.tbrefOut = false) :
    exec .tbrefFail s = .next ((s.tbrefLost.enterHoldover { s.tb.hold with tbref := true }).report (plainRecord .clk sevTimeout)) :=
  congrArg Host.Outcome.next (if_neg (Bool.eq_false_iff.1 on))

theorem exec_tbrefReturn_none (on : s.tb.tbrefOut = false) : exec .tbrefReturn s = .next s :=
  congrArg Host.Outcome.next (if_neg (Bool.eq_false_iff.1 on))

theorem exec_tbrefReturn (out : s.tb.tbrefOut = true) : exec .tbrefReturn s =
    .next (if Nat.beq s.tbrefBack.tmbSource 2 then s.tbrefBack.leaveHoldover { s.tb.hold with tbref := false } else s.tbrefBack) :=
  congrArg Host.Outcome.next (if_pos out)

end

theorem exec_xgrefFail (s : State) : exec .xgrefFail s =
    .next ((State.raise { s with portLinks := s.withoutXg } Reg.CLK_MON Fld.CLK_MON_XGREF_BAD).report (plainRecord .clk sevCE)) := (rfl)

theorem xgrefFail_shows (s : State) : ∃ t, exec .xgrefFail s = .next t ∧ t.errs = s.errs ++ [plainRecord .clk sevCE] ∧
    (∀ p : Fin 14, t.portLinks[p] = if 8 ≤ p.val ∧ p.val < 12 then false else s.portLinks[p]) ∧
    t.fld Reg.CLK_MON Fld.CLK_MON_XGREF_BAD = 1 ∧ (∀ a, a ≠ Reg.CLK_MON → t.reg a = s.reg a) ∧ t.tb = s.tb := by
  refine ⟨_, exec_xgrefFail s, rfl, s.withoutXg_getElem, ?_, fun a other => ?_, rfl⟩
  · exact State.fld_raise (s := { s with portLinks := s.withoutXg }) ⟨by decide, by decide⟩
  · exact State.reg_setFld_other (s := { s with portLinks := s.withoutXg }) other

/-- The return of TBREF ends, with SOURCE 2, a holdover that it alone has caused; with another SOURCE holdover goes on (R250). -/
theorem tbrefReturn_shows {s : State} (out : s.tb.tbrefOut = true) : ∃ t, exec .tbrefReturn s = .next t ∧ t.tb.tbrefOut = false ∧
    t.tb.holdGood = 0 ∧ t.now = s.now ∧ t.fld Reg.CLK_MON Fld.CLK_MON_TB_ON_SYS = 0 ∧
    (∀ a, a ≠ Reg.CLK_MON → a ≠ Reg.TMB_STATUS → t.reg a = s.reg a) ∧
    (s.tmbSource = 2 → t.inHoldover = (s.inHoldover && s.tb.hold.source)) ∧ (s.tmbSource ≠ 2 → t.inHoldover = s.inHoldover) := by
  have shown : s.tbrefBack.fld Reg.CLK_MON Fld.CLK_MON_TB_ON_SYS = 0 := State.fld_lower ⟨by decide, by decide⟩
  have other {a : Nat} (h : a ≠ Reg.CLK_MON) : s.tbrefBack.reg a = s.reg a := State.reg_setFld_other h
  have source : s.tbrefBack.tmbSource = s.tmbSource := State.fld_congr (other (by decide)) _
  have holdover : s.tbrefBack.inHoldover = s.inHoldover := State.flag_congr (State.fld_congr (other (by decide)) _)
  refine ⟨_, exec_tbrefReturn out, ?_⟩
  by_cases two : s.tmbSource = 2
  · rw [source, if_pos ((Nat.beq_eq ..).mpr two)]
    have only := TimebaseOnly.rfl.leaveHoldover (A := [Reg.TMB_STATUS]) (s := s.tbrefBack) (c := { s.tb.hold with tbref := false })
    refine ⟨by rw [State.tb_leaveHoldover]; rfl, by rw [State.tb_leaveHoldover]; rfl, only.now, ?_, fun a mon status => ?_,
      fun _ => ?_, fun h => absurd two h⟩
    · exact (State.fld_congr (only.reg _ (by decide)) _).trans shown
    · exact (only.reg a (by simpa using status)).trans (other mon)
    · rw [State.leaveHoldover_inHoldover, holdover, Bool.or_false]
  · rw [source, if_neg (fun h => two (Nat.eq_of_beq_eq_true h))]
    exact ⟨rfl, rfl, rfl, shown, fun a mon _ => other mon, fun h => absurd h two, fun _ => holdover⟩

theorem tbrefFail_shows {s : State} (on : s.tb.tbrefOut = false) : ∃ t, exec .tbrefFail s = .next t ∧ t.tb.tbrefOut = true ∧
    t.tb.incr = s.tb.incr ∧ t.tb.incrNext = s.tb.incrNext ∧ t.now = s.now ∧ t.fld Reg.CLK_MON Fld.CLK_MON_TBREF_BAD = 1 ∧
    t.fld Reg.CLK_MON Fld.CLK_MON_TB_ON_SYS = 1 ∧ t.inHoldover = true ∧
    (s.inHoldover = false → t.fld Reg.TMB_STATUS Fld.TMB_STATUS_HOLD = 1 ∧ t.reg Reg.TMB_HOLD = 0#32 ∧
      t.fld Reg.TMB_STATUS Fld.TMB_STATUS_LOCKED = 0) ∧ plainRecord .clk sevTimeout ∈ t.errs := by
  have bad : s.tbrefLost.fld Reg.CLK_MON Fld.CLK_MON_TBREF_BAD = 1 :=
    (State.fld_setFld_apart ⟨by decide, by decide⟩ ⟨by decide, by decide⟩ (.inr (by decide))).trans
      (State.fld_raise ⟨by decide, by decide⟩)
  have onSys : s.tbrefLost.fld Reg.CLK_MON Fld.CLK_MON_TB_ON_SYS = 1 := State.fld_raise ⟨by decide, by decide⟩
  have holdover : s.tbrefLost.inHoldover = s.inHoldover :=
    State.flag_congr ((State.fld_setFld_other (by decide)).trans (State.fld_setFld_other (by decide)))
  have only := TimebaseOnly.rfl.enterHoldover (A := [Reg.TMB_STATUS, Reg.TMB_HOLD]) (s := s.tbrefLost) (c := { s.tb.hold with tbref := true })
  obtain ⟨holdFrom, holdGood, good, tb⟩ := s.tbrefLost.enterHoldover_tb { s.tb.hold with tbref := true }
  refine ⟨_, exec_tbrefFail on, ?_, ?_, ?_, only.now, ?_, ?_, s.tbrefLost.enterHoldover_inHoldover _, fun free => ?_,
    List.mem_append_right _ (List.mem_singleton.2 rfl)⟩
  · rw [State.report_tb, tb]; rfl
  · rw [State.report_tb, tb]; rfl
  · rw [State.report_tb, tb]; rfl
  · exact (State.fld_congr (only.reg _ (by decide)) _).trans bad
  · exact (State.fld_congr (only.reg _ (by decide)) _).trans onSys
  · obtain ⟨-, hold, ms, locked, -⟩ := State.enterHoldover_shows (holdover.trans free) { s.tb.hold with tbref := true }
    exact ⟨hold, ms, locked⟩

end Sys2Proof.Machine
end

section
open Sys2Proof Sys2Proof.Machine

/-- Settles O37: while the timebase runs from TBREF its failure enters holdover, and while it does not its return leaves the holdover
that TBREF alone has caused. -/
theorem clockFailures : Obligations.ClockFailures := by
  refine ⟨fun s => rfl, xgrefFail_shows, fun s => ?_⟩
  split
  next out => exact ⟨exec_tbrefFail_again out, tbrefReturn_shows out⟩
  next on =>
    have runs : s.tb.tbrefOut = false := Bool.eq_false_iff.2 on
    exact ⟨exec_tbrefReturn_none runs, tbrefFail_shows runs⟩

end

section
/-!
SUPPORT. What firings, bank swaps, phase steps and the ports of the switch leave alone: the time and the registers of the timebase, and for
firings alone also the registers of the timetable.
-/

namespace Sys2Proof.Machine

/-! ## A log record (R484) -/

/-- A part of the state that no access, no register and no SEQ changes is as it was before a log record. -/
theorem State.log_apart {α : Type} (f : State → α) (access : ∀ u : State, f u.beside = f u)
    (regs : ∀ (u : State) r, f { u with regs := r } = f u)
    (seq : ∀ (u : State) n, f { u with fwlSeq := n } = f u) (s : State) (r : LogRecord) : f (s.log r) = f s := by
  rcases s.log_cases r with ⟨-, e⟩ | e | e | ⟨req, a, bs, v, e⟩
  · rw [e]
  · rw [e]; exact seq ..
  · rw [e]; exact (regs ..).trans (seq ..)
  · rw [e]; exact (regs ..).trans (((AccessOnly.put ..).eq f access).trans (seq ..))

@[simp] theorem State.tt_log (s : State) (r : LogRecord) : (s.log r).tt = s.tt :=
  State.log_apart State.tt (fun _ => rfl) (fun _ _ => rfl) (fun _ _ => rfl) s r

@[simp] theorem State.bus_log (s : State) (r : LogRecord) : (s.log r).bus = s.bus :=
  State.log_apart State.bus (fun _ => rfl) (fun _ _ => rfl) (fun _ _ => rfl) s r

@[simp] theorem State.tb_log (s : State) (r : LogRecord) : (s.log r).tb = s.tb :=
  State.log_apart State.tb (fun _ => rfl) (fun _ _ => rfl) (fun _ _ => rfl) s r

/-- A log record changes registers of the log, of the memories and of the guards alone. -/
theorem State.reg_log (s : State) (r : LogRecord) {a : Nat} (out : a < 0x11000000 ∨ 0x11200000 ≤ a) (lost : a ≠ Reg.FWL_LOG_LOST)
    (tail : a ≠ Reg.FWL_LOG_TAIL) : (s.log r).reg a = s.reg a := by
  rcases s.log_cases r with ⟨-, e⟩ | e | e | ⟨req, b, bs, v, e⟩
  · rw [e]
  · rw [e]; rfl
  · rw [e]; exact State.reg_setFld_other lost
  · rw [e, State.reg_setFld_other tail]
    exact (AccessOnly.put ..).2.1 a out

/-! ## The time kept -/

/-- From `s` to `t` the timebase keeps its time and its registers and, with `ttb`, the timetable its registers. -/
structure TimeKept (ttb : Bool) (s t : State) : Prop where
  tb : t.tb = s.tb
  reg : ∀ a, a / 0x10000 = 0x1200 ∨ (ttb = true ∧ a / 0x10000 = 0x1201) → t.reg a = s.reg a

namespace TimeKept

variable {ttb : Bool} {s t u : State}

protected theorem rfl : TimeKept ttb s s := ⟨Eq.refl _, fun _ _ => Eq.refl _⟩

theorem trans (h : TimeKept ttb s t) (k : TimeKept ttb t u) : TimeKept ttb s u :=
  ⟨k.tb.trans h.tb, fun a page => (k.reg a page).trans (h.reg a page)⟩

theorem now (h : TimeKept ttb s t) : t.now = s.now := by rw [State.now, h.tb, State.now]

theorem of_parts (h : TimeKept ttb s t) (tb : u.tb = t.tb := by rfl) (regs : u.regs = t.regs := by rfl) : TimeKept ttb s u :=
  h.trans ⟨tb, fun a _ => by rw [State.reg, regs, State.reg]⟩

theorem of_access (h : TimeKept ttb s t) (k : AccessOnly t u) : TimeKept ttb s u :=
  h.trans ⟨k.eq State.tb fun _ => Eq.refl _, fun a page => k.2.1 a (by omega)⟩

theorem setReg (h : TimeKept ttb s t) {a : Nat} {w : Word} (out : a / 0x10000 ≠ 0x1200 ∧ a / 0x10000 ≠ 0x1201) :
    TimeKept ttb s (t.setReg a w) :=
  h.trans ⟨Eq.refl _, fun b page => State.reg_setReg_other (by rintro rfl; omega)⟩

theorem setFld (h : TimeKept ttb s t) {a : Nat} {f : Fld} {v : Nat} (out : a / 0x10000 ≠ 0x1200 ∧ a / 0x10000 ≠ 0x1201) :
    TimeKept ttb s (t.setFld a f v) := h.setReg out

/-- A register of the timetable is written. -/
theorem setTtb (h : TimeKept false s t) {a : Nat} {f : Fld} {v : Nat} (page : a / 0x10000 = 0x1201 := by decide) :
    TimeKept false s (t.setFld a f v) :=
  h.trans ⟨Eq.refl _, fun b tmb => State.reg_setFld_other (by rintro rfl; simp [page] at tmb)⟩

theorem foldl {α : Type} {f : State → α → State} (step : ∀ s x, TimeKept ttb s (f s x)) (xs : List α) (s : State) :
    TimeKept ttb s (xs.foldl f s) := by
  induction xs generalizing s with
  | nil => exact .rfl
  | cons x xs ih => exact (step s x).trans (ih _)

theorem ite {p : Prop} [Decidable p] (h : TimeKept ttb s t) (k : TimeKept ttb s u) : TimeKept ttb s (if p then t else u) := by
  split <;> assumption

theorem log (h : TimeKept ttb s t) {r : LogRecord} : TimeKept ttb s (t.log r) :=
  h.trans ⟨t.tb_log r, fun a page => t.reg_log r (by omega) (by rintro rfl; simp [Reg.FWL_LOG_LOST] at page)
    (by rintro rfl; simp [Reg.FWL_LOG_TAIL] at page)⟩

/-! ## The timetable -/

theorem fire (h : TimeKept ttb s t) {i : Nat} {e : TtEntry} {sched : Nat} {skipped : Bool} : TimeKept ttb s (t.fire i e sched skipped) := by
  unfold State.fire
  refine .log ?_
  split
  · exact h.of_parts
  · exact h.of_parts

theorem fireOwed (h : TimeKept ttb s t) {skips : List (Nat × TtEntry × Nat)} {x i : Nat} : TimeKept ttb s (t.fireOwed skips x i) := by
  have owed : TimeKept ttb s (match skips.find? (fun k => Nat.beq k.1 i) with
      | some k => t.fire k.1 k.2.1 k.2.2 true
      | none => t) := by
    split
    · exact h.fire
    · exact h
  unfold State.fireOwed
  extract_lets s1
  have fired : TimeKept ttb s s1 := owed
  split
  · exact fired.fire
  · exact fired

theorem fireDue (h : TimeKept ttb s t) {skips : List (Nat × TtEntry × Nat)} {x : Nat} : TimeKept ttb s (t.fireDue skips x) := by
  unfold State.fireDue
  split
  · exact h
  · exact h.trans (.foldl (fun _ _ => TimeKept.rfl.fireOwed) _ _)

theorem swapBanks (h : TimeKept false s t) {b : Nat} : TimeKept false s (t.swapBanks b) := h.of_parts.setTtb.setTtb

theorem swapUpTo (h : TimeKept false s t) {x : Nat} : TimeKept false s (t.swapUpTo x) := by
  unfold State.swapUpTo
  split
  · exact .ite h.fireDue.swapBanks h
  · exact h

theorem fireUpTo (h : TimeKept false s t) {x : Nat} : TimeKept false s (t.fireUpTo x) := h.swapUpTo.fireDue

theorem countSkips (h : TimeKept false s t) {lo hi : Nat} {f : State → TtEntry → State} (step : ∀ u x, TimeKept false u (f u x)) :
    TimeKept false s (t.countSkips lo hi f) := by
  unfold State.countSkips
  split
  · exact h
  · exact h.trans (.foldl (fun _ _ => .ite (step ..) .rfl) _ _)

theorem skipForward (h : TimeKept false s t) {t0 t1 : Nat} : TimeKept false s (t.skipForward t0 t1) := by
  have swapped (o : Option Nat) (lo : Nat) : TimeKept false s (match o with
      | some b => (t.countSkips lo b fun u _ => u.count Reg.TTB_SKIP Fld.TTB_SKIP_DROPPED 1).swapBanks b
      | none => t) := by
    split
    · exact (h.countSkips fun _ _ => TimeKept.rfl.setTtb).swapBanks
    · exact h
  unfold State.skipForward
  extract_lets drop start swap s1 lo s2 found
  have counted : TimeKept false s s2 := .countSkips (swapped ..) fun _ _ => .ite TimeKept.rfl.setTtb TimeKept.rfl.setTtb
  exact counted.of_parts

theorem ttStep (h : TimeKept false s t) {t0 t1 : Nat} : TimeKept false s (t.ttStep t0 t1) := by
  have fired : TimeKept false s ((t.fireUpTo t0).fusionStep t0 t1) := h.fireUpTo.of_parts
  exact .ite fired.skipForward fired.of_parts

theorem fireSkipped (h : TimeKept false s t) : TimeKept false s t.fireSkipped :=
  h.ite (TimeKept.swapUpTo h.of_parts).fireDue

/-! ## The ports of the switch -/

theorem hifLost (h : TimeKept ttb s t) : TimeKept ttb s t.hifLost := h.setFld (by decide)

theorem hifReceive (h : TimeKept ttb s t) {f : EthFrame} : TimeKept ttb s (t.hifReceive f) := by
  unfold State.hifReceive
  split
  · exact h.hifLost
  · dsimp only
    split
    · exact h.hifLost
    · split
      next read =>
        have k1 := h.of_access (AccessOnly.snd2 (AccessOnly.fetch ..) read)
        split
        next data =>
          have k2 := k1.of_access (AccessOnly.snd (AccessOnly.put ..) data)
          split
          next entry =>
            have k3 := TimeKept.of_access (TimeKept.of_parts k2) (AccessOnly.snd (AccessOnly.put ..) entry)
            have k4 (w : Word) := k3.setReg (a := Reg.HIF_DB_RX_HEAD f.tc) (w := w) (by unfold Reg.HIF_DB_RX_HEAD; omega)
            exact (k4 _).of_parts
          next entry => exact (TimeKept.of_access (TimeKept.of_parts k2) (AccessOnly.snd (AccessOnly.put ..) entry)).hifLost
        next data => exact (k1.of_access (AccessOnly.snd (AccessOnly.put ..) data)).hifLost
      next read => exact (h.of_access (AccessOnly.snd2 (AccessOnly.fetch ..) read)).hifLost

theorem drainPort {p : Nat} (fuel : Nat) : ∀ {t : State}, TimeKept ttb s t → TimeKept ttb s (t.drainPort p fuel) := by
  induction fuel with
  | zero => exact id
  | succ fuel ih =>
    intro t h
    unfold State.drainPort
    split
    · exact h
    · exact ih (.ite (TimeKept.hifReceive h.of_parts) h.of_parts)

theorem drainPorts (h : TimeKept ttb s t) : TimeKept ttb s t.drainPorts :=
  h.trans (.foldl (fun _ _ => TimeKept.drainPort _ .rfl) _ _)

end TimeKept

end Sys2Proof.Machine
end

section
/-!
SUPPORT. The timetable (R254, R259 to R266): when a firing is due, what a firing does, writes of TTB_CTRL, common boundaries and swaps.
-/

namespace Sys2Proof.Machine

open Host (Outcome)

/-! ## Due firings (R260) -/

/-- A firing that repeats within a span lies within it. -/
theorem repeat_le (span p : Nat) : (if Nat.beq p 0 then 0 else span / p * p) ≤ span := by
  split
  · exact Nat.zero_le _
  · exact Nat.div_mul_le_self ..

theorem TtEntry.lastFiring_le {e : TtEntry} {cycle x f : Nat} (h : e.lastFiring cycle x = some f) : f ≤ x := by
  have start : x - x % cycle + x % cycle = x := Nat.sub_add_cancel (Nat.mod_le ..)
  have thisCycle := repeat_le (x % cycle - e.firstNs) e.periodNs
  have lastCycle := repeat_le (cycle - 1 - e.firstNs) e.periodNs
  unfold TtEntry.lastFiring at h
  dsimp only at h
  split at h
  · exact nomatch h
  next within =>
    rw [Nat.ble_eq] at within
    split at h
    next reached =>
      rw [Nat.ble_eq] at reached
      have := Option.some.inj h
      omega
    next =>
      split at h
      next before =>
        rw [Nat.ble_eq] at before
        have := Option.some.inj h
        omega
      next => exact nomatch h

variable {s : State}

/-- What fires is enabled and not ahead of the time. -/
theorem State.dueFiring_spec {i x f : Nat} (due : s.dueFiring i x = some f) : (s.ttEntry i).on = true ∧ f ≤ x := by
  unfold State.dueFiring at due
  dsimp only at due
  split at due
  · exact nomatch due
  · split at due
    · exact nomatch due
    next on =>
      obtain ⟨last, -⟩ := Option.filter_eq_some_iff.1 due
      refine ⟨by simpa using on, (TtEntry.lastFiring_le last).trans ?_⟩
      split
      · exact Nat.min_le_left ..
      · exact Nat.le_refl _

/-! ## A firing (R254, R262) -/

/-- The release event of entry `e` of number i. -/
def releaseEvent (i : Nat) (e : TtEntry) (sched : Nat) (skipped : Bool) : ReleaseEvent :=
  { entry := i, action := e.action, arg0 := e.arg0, arg1 := e.arg1, tag := e.tag, sched, skipped }

/-- Entry i has fired for `sched`. -/
def State.noteFired (s : State) (i sched : Nat) : State := { s with tt := { s.tt with fired := SMap.insert s.tt.fired i sched } }

/-- A release event joins the time bus. -/
def State.release (s : State) (ev : ReleaseEvent) : State := { s with bus := s.bus ++ [ev] }

section
variable {i sched : Nat} {e : TtEntry} {skipped : Bool}

theorem State.fire_pin (pin : e.action = 1) : s.fire i e sched skipped =
    ((s.noteFired i sched).pinAction (bitsOf e.arg0 2 0) (bitsOf e.arg0 5 4)).log (traceRecord 224 e.tag [i, e.action, skipped.toNat]) := by
  unfold State.fire
  dsimp only
  split
  · rfl
  next other => exact absurd pin other

theorem State.fire_event (event : e.action ≠ 1) : s.fire i e sched skipped =
    ((s.noteFired i sched).release (releaseEvent i e sched skipped)).log (traceRecord 224 e.tag [i, e.action, skipped.toNat]) := by
  unfold State.fire
  dsimp only
  split
  next pin => exact absurd pin event
  · rfl

/-- A firing is noted, and goes on the bus unless it is a PIN action. -/
theorem State.fire_shows (s : State) (i : Nat) (e : TtEntry) (sched : Nat) (skipped : Bool) : let t := s.fire i e sched skipped
    SMap.find t.tt.fired i = some sched ∧ t.bus = s.bus ++ (if e.action = 1 then [] else [releaseEvent i e sched skipped]) ∧
      t.tt.banks = s.tt.banks ∧ (e.action ≠ 1 → t.tt.levels = s.tt.levels) := by
  intro t
  by_cases pin : e.action = 1
  · have fired : t = _ := State.fire_pin pin
    rw [fired, State.tt_log, State.bus_log, if_pos pin]
    exact ⟨SMap.find_insert_same .., (List.append_nil _).symm, rfl, fun h => absurd pin h⟩
  · have fired : t = _ := State.fire_event pin
    rw [fired, State.tt_log, State.bus_log, if_neg pin]
    exact ⟨SMap.find_insert_same .., rfl, rfl, fun _ => rfl⟩

/-- From `s` to `t` a PIN action has been done at pin p: RISE, FALL, TOGGLE or PULSE (R254). -/
def PinActed (s t : State) (p edge : Nat) : Prop :=
  t.tt.levels[Fin.ofNat 8 p] = (if edge = 1 then false else if edge = 2 then !s.tt.levels[Fin.ofNat 8 p] else true) ∧
    (∀ k : Fin 8, k.val ≠ p → t.tt.levels[k] = s.tt.levels[k]) ∧
    (edge = 3 → s.fld (Reg.TTB_TRIG_CFG p) Fld.TTB_TRIG_CFG_WIDTH ≠ 0 → t.tt.pulses[Fin.ofNat 8 p] =
      some (s.tb.elapsed + 2 * s.fld (Reg.TTB_TRIG_CFG p) Fld.TTB_TRIG_CFG_WIDTH * nsE))

theorem State.pinAction_acts (s : State) {p : Nat} (edge : Nat) (small : p < 8) : PinActed s (s.pinAction p edge) p edge := by
  refine ⟨?_, fun k other => ?_, fun pulse width => ?_⟩
  · refine (Vector.getElem_set_self _).trans ?_
    split
    · rfl
    · rfl
    next fall toggle => rw [if_neg fall, if_neg toggle]
  · refine Vector.getElem_set_ne (Fin.isLt _) k.isLt fun same => other ?_
    rw [Fin.val_ofNat, Nat.mod_eq_of_lt small] at same
    exact same.symm
  · have set : (Nat.beq edge 3 && !(Nat.beq (s.fld (Reg.TTB_TRIG_CFG p) Fld.TTB_TRIG_CFG_WIDTH) 0)) = true :=
      Bool.and_eq_true_iff.2 ⟨(Nat.beq_eq ..).mpr pulse, congrArg (! ·) ((beq_eq_natBeq ..).symm.trans (beq_false_of_ne width))⟩
    unfold State.pinAction
    simp only [set, if_true]
    exact Vector.getElem_set_self _

theorem State.fire_pin_acts (pin : e.action = 1) : PinActed s (s.fire i e sched skipped) (bitsOf e.arg0 2 0) (bitsOf e.arg0 5 4) := by
  have acts : PinActed s _ _ _ := (s.noteFired i sched).pinAction_acts (bitsOf e.arg0 5 4) (Nat.mod_lt (e.arg0 / 2 ^ 0) (by decide))
  unfold PinActed
  rw [State.fire_pin pin, State.tt_log]
  exact acts

end

theorem timetableFiring_shows (s : State) (i : Fin 1024) : (s.dueFiring i s.now = none → exec (.timetableFiring i) s = .next s) ∧
    ∀ f, s.dueFiring i s.now = some f → let e := s.ttEntry i
      e.on = true ∧ f ≤ s.now ∧ (s.firesFirst i = false → exec (.timetableFiring i) s = .next s) ∧
      (s.firesFirst i = true → exec (.timetableFiring i) s = .next (s.fire i e f false)) := by
  have run : exec (.timetableFiring i) s = .next (match s.dueFiring i s.now with
    | some f => if s.firesFirst i then s.fireEntry i f else s
    | none => s) := (rfl)
  rw [run]
  refine ⟨fun none => by rw [none], fun f due => ?_⟩
  obtain ⟨on, reached⟩ := State.dueFiring_spec due
  rw [due]
  exact ⟨on, reached, fun later => congrArg Outcome.next (if_neg (Bool.eq_false_iff.1 later)),
    fun first => congrArg Outcome.next (if_pos first)⟩

theorem exec_triggerPulseEnd {p : Fin 8} {e : Nat} (pulse : s.tt.pulses[p] = some e) : exec (.triggerPulseEnd p) s =
    .next (if e ≤ s.tb.elapsed then { s with tt := { s.tt with levels := s.tt.levels.set p false, pulses := s.tt.pulses.set p none } }
      else s) := by
  show execTriggerPulseEnd p s = _
  unfold execTriggerPulseEnd
  simp only [pulse, Nat.ble_eq]

/-! ## TTB_CTRL (R263, R264) -/

/-- The next multiple. -/
theorem next_multiple {c : Nat} (pos : 0 < c) (x : Nat) : x < (x / c + 1) * c ∧ (x / c + 1) * c ≤ x + c ∧ (x / c + 1) * c % c = 0 ∧
    ∀ y, x < y → y % c = 0 → (x / c + 1) * c ≤ y := by
  refine ⟨Nat.lt_mul_of_div_lt (Nat.lt_succ_self _) pos, ?_, Nat.mul_mod_left .., fun y later multiple => ?_⟩
  · rw [Nat.add_mul, Nat.one_mul]
    exact Nat.add_le_add_right (Nat.div_mul_le_self ..) c
  · obtain ⟨k, rfl⟩ := Nat.dvd_of_mod_eq_zero multiple
    rw [Nat.mul_comm c k]
    refine Nat.mul_le_mul_right c ?_
    exact (Nat.div_lt_iff_lt_mul pos).2 (Nat.mul_comm c k ▸ later)

theorem regFields_TTB_CTRL : regFields Reg.TTB_CTRL = [{ fld := Fld.TTB_CTRL_ACTIVE, acc := .ro }, { fld := Fld.TTB_CTRL_SWAP, acc := .w1s },
    { fld := Fld.TTB_CTRL_ENABLE, acc := .rw }] := by decide

theorem TTB_CTRL_unlisted : ∀ f ∈ regFields Reg.TTB_CTRL, f.vals = [] := by simp [regFields_TTB_CTRL]

section
variable (s) (w : Word)

theorem State.plainWrite_TTB_CTRL : let t := s.plainWrite Reg.TTB_CTRL w
    t.fld Reg.TTB_CTRL Fld.TTB_CTRL_ACTIVE = s.fld Reg.TTB_CTRL Fld.TTB_CTRL_ACTIVE ∧
      t.fld Reg.TTB_CTRL Fld.TTB_CTRL_SWAP = (s.fld Reg.TTB_CTRL Fld.TTB_CTRL_SWAP ||| Fld.TTB_CTRL_SWAP.get w) ∧
      t.fld Reg.TTB_CTRL Fld.TTB_CTRL_ENABLE = Fld.TTB_CTRL_ENABLE.get w ∧ ∀ a, a ≠ Reg.TTB_CTRL → t.reg a = s.reg a := by
  have apart : fieldsApart (regFields Reg.TTB_CTRL) = true := by rw [regFields_TTB_CTRL]; decide
  have held {f : RegField} (mem : f ∈ regFields Reg.TTB_CTRL) := State.fld_plainWrite mem TTB_CTRL_unlisted apart s w
  rw [regFields_TTB_CTRL] at held
  refine ⟨?_, ?_, ?_, fun a other => ?_⟩
  · exact (held (f := { fld := Fld.TTB_CTRL_ACTIVE, acc := .ro }) (by simp)).trans (Nat.mod_eq_of_lt (Fld.get_lt ..))
  · refine (held (f := { fld := Fld.TTB_CTRL_SWAP, acc := .w1s }) (by simp)).trans (Nat.mod_eq_of_lt ?_)
    exact Nat.or_lt_two_pow (Fld.get_lt ..) (Fld.get_lt ..)
  · exact (held (f := { fld := Fld.TTB_CTRL_ENABLE, acc := .rw }) (by simp)).trans (Nat.mod_eq_of_lt (Fld.get_lt ..))
  · rw [State.plainWrite_unlisted TTB_CTRL_unlisted]
    exact State.reg_setReg_other other

/-- SWAP rises where it is written 1 and was 0. -/
theorem State.SWAP_rises : ((s.plainWrite Reg.TTB_CTRL w).flag Reg.TTB_CTRL Fld.TTB_CTRL_SWAP &&
    !(s.flag Reg.TTB_CTRL Fld.TTB_CTRL_SWAP)) = (Fld.TTB_CTRL_SWAP.get w == 1 && !(s.flag Reg.TTB_CTRL Fld.TTB_CTRL_SWAP)) := by
  obtain ⟨-, swap, -⟩ := s.plainWrite_TTB_CTRL w
  cases old : s.flag Reg.TTB_CTRL Fld.TTB_CTRL_SWAP with
  | true => rw [Bool.not_true, Bool.and_false, Bool.and_false]
  | false =>
    rw [State.fld_eq_zero_of_flag rfl old, Nat.zero_or] at swap
    rw [State.flag, swap, beq_eq_natBeq]

/-- What a write of TTB_CTRL does to firings and to the check of the idle bank. -/
theorem State.writeTtbCtrl_shows (s : State) (w : Word) : let t := s.writeTtbCtrl w
    let en := Fld.TTB_CTRL_ENABLE.get w = 1
    let c := s.ttCycle s.ttActive
    t.fld Reg.TTB_CTRL Fld.TTB_CTRL_ENABLE = Fld.TTB_CTRL_ENABLE.get w ∧ t.ttActive = s.ttActive ∧ t.mem = s.mem ∧
      (∀ a, a ≠ Reg.TTB_CTRL → t.reg a = s.reg a) ∧
      (if en then (if s.flag Reg.TTB_CTRL Fld.TTB_CTRL_ENABLE then t.tt.firesFrom = s.tt.firesFrom
          else ∃ x, t.tt.firesFrom = some x ∧ (0 < c → s.now < x ∧ x ≤ s.now + c ∧ x % c = 0))
        else t.tt.firesFrom = none) ∧
      t.tt.swapCheck = (s.tt.swapCheck || (Fld.TTB_CTRL_SWAP.get w == 1 && !(s.flag Reg.TTB_CTRL Fld.TTB_CTRL_SWAP))) := by
  obtain ⟨active, -, enable, other⟩ := s.plainWrite_TTB_CTRL w
  have frame := s.plainWrite_frame Reg.TTB_CTRL w
  have rises := s.SWAP_rises w
  have on : (s.plainWrite Reg.TTB_CTRL w).flag Reg.TTB_CTRL Fld.TTB_CTRL_ENABLE = Nat.beq (Fld.TTB_CTRL_ENABLE.get w) 1 :=
    congrArg (Nat.beq · 1) enable
  unfold State.writeTtbCtrl
  dsimp only
  rw [on, rises]
  refine ⟨enable, active, (congrArg State.mem frame).trans rfl, other, ?_, ?_⟩
  · split
    next en =>
      rw [en]
      split
      · exact if_pos rfl
      · refine ⟨_, if_pos rfl, fun pos => ?_⟩
        obtain ⟨later, near, multiple, -⟩ := next_multiple pos s.now
        exact ⟨later, near, multiple⟩
    next off => rw [if_neg fun h => off (Nat.eq_of_beq_eq_true h)]
  · exact congrArg (· || _) (congrArg (·.tt.swapCheck) frame)

end

/-! ## The swap (R263, R266) -/

section
variable (s)

/-- The common boundary is the first time after `x` at which both cycles begin. -/
theorem State.commonBoundary_spec (pos0 : 0 < s.ttCycle 0) (pos1 : 0 < s.ttCycle 1) (x : Nat) : let b := s.commonBoundary x
    x < b ∧ b % s.ttCycle 0 = 0 ∧ b % s.ttCycle 1 = 0 ∧ ∀ y, x < y → y % s.ttCycle 0 = 0 → y % s.ttCycle 1 = 0 → b ≤ y := by
  obtain ⟨later, -, multiple, least⟩ := next_multiple (Nat.lcm_pos pos0 pos1) x
  have dvd := Nat.dvd_of_mod_eq_zero multiple
  refine ⟨later, Nat.mod_eq_zero_of_dvd ((Nat.dvd_lcm_left ..).trans dvd), Nat.mod_eq_zero_of_dvd ((Nat.dvd_lcm_right ..).trans dvd),
    fun y after zero one => least y after (Nat.mod_eq_zero_of_dvd ?_)⟩
  exact Nat.lcm_dvd (Nat.dvd_of_mod_eq_zero zero) (Nat.dvd_of_mod_eq_zero one)

/-- Entry i makes the check of the idle bank fail. -/
def State.idleBad (s : State) (i : Nat) : Bool :=
  let e := Machine.ttEntry (s.ttBank (1 - s.ttActive)) i
  e.on && e.bad (s.ttCycle (1 - s.ttActive))

/-- The check of the idle bank has ended. -/
def State.checked (s : State) : State := { s with tt := { s.tt with swapCheck := false } }

/-- The swap is denied at entry i. -/
def State.swapDenied (s : State) (i : Nat) : State :=
  ((s.checked.raise Reg.TTB_STATUS Fld.TTB_STATUS_SWAP_ERR).setFld Reg.TTB_STATUS Fld.TTB_STATUS_ERR_ENTRY i).lower
    Reg.TTB_CTRL Fld.TTB_CTRL_SWAP

/-- The swap is armed. -/
def State.swapArmed (s : State) : State :=
  { s with tt := { s.tt with swapCheck := false, swapAt := some (s.commonBoundary (max s.now (s.tt.floor - 1))) } }

variable {s}

theorem exec_timetableSwapCheckDone_denied (check : s.tt.swapCheck = true) {i : Nat}
    (found : (List.range 1024).find? s.idleBad = some i) : exec .timetableSwapCheckDone s = .next (s.swapDenied i) := by
  show execTimetableSwapCheckDone s = _
  unfold execTimetableSwapCheckDone
  rw [if_pos check]
  dsimp only
  split
  next j first =>
    obtain rfl := Option.some.inj (first.symm.trans found)
    rfl
  next none => exact nomatch none.symm.trans found

theorem exec_timetableSwapCheckDone_armed (check : s.tt.swapCheck = true) (good : (List.range 1024).find? s.idleBad = none) :
    exec .timetableSwapCheckDone s = .next s.swapArmed := by
  show execTimetableSwapCheckDone s = _
  unfold execTimetableSwapCheckDone
  rw [if_pos check]
  dsimp only
  split
  next j first => exact nomatch first.symm.trans good
  next => rfl

theorem exec_timetableSwapCheckDone_none (check : s.tt.swapCheck = false) : exec .timetableSwapCheckDone s = .next s :=
  congrArg Outcome.next (if_neg (Bool.eq_false_iff.1 check))

theorem State.swapArmed_shows (s : State) (pos0 : 0 < s.ttCycle 0) (pos1 : 0 < s.ttCycle 1) :
    ∃ x, s.swapArmed.tt.swapAt = some x ∧ s.now < x ∧ s.tt.floor ≤ x ∧ x % s.ttCycle 0 = 0 ∧ x % s.ttCycle 1 = 0 ∧
      ∀ y, s.now < y → s.tt.floor ≤ y → y % s.ttCycle 0 = 0 → y % s.ttCycle 1 = 0 → x ≤ y := by
  obtain ⟨later, zero, one, least⟩ := s.commonBoundary_spec pos0 pos1 (max s.now (s.tt.floor - 1))
  refine ⟨_, rfl, by omega, by omega, zero, one, fun y after above => least y (by omega)⟩

theorem State.swapDenied_shows (s : State) {i : Nat} (small : i < 1024) : let t := s.swapDenied i
    t.tt = { s.tt with swapCheck := false } ∧ t.fld Reg.TTB_STATUS Fld.TTB_STATUS_SWAP_ERR = 1 ∧
      t.fld Reg.TTB_STATUS Fld.TTB_STATUS_ERR_ENTRY = i ∧ t.fld Reg.TTB_CTRL Fld.TTB_CTRL_SWAP = 0 ∧ t.ttActive = s.ttActive := by
  refine ⟨rfl, ?_, ?_, State.fld_lower ⟨by decide, by decide⟩, ?_⟩
  · refine (State.fld_setFld_other (by decide)).trans ?_
    rw [State.fld_setFld_apart ⟨by decide, by decide⟩ ⟨by decide, by decide⟩ (.inr (by decide))]
    exact State.fld_raise ⟨by decide, by decide⟩
  · refine (State.fld_setFld_other (by decide)).trans ?_
    exact (State.fld_setFld_same ⟨by decide, by decide⟩).trans (Nat.mod_eq_of_lt small)
  · refine (State.fld_setFld_apart ⟨by decide, by decide⟩ ⟨by decide, by decide⟩ (.inl (by decide))).trans ?_
    exact (State.fld_setFld_other (by decide)).trans (State.fld_setFld_other (by decide))

theorem exec_timetableBankSwap_early (early : ∀ b, s.tt.swapAt = some b → s.now < b) : exec .timetableBankSwap s = .next s := by
  refine congrArg Outcome.next ?_
  unfold State.swapUpTo
  split
  next b armed => exact if_neg fun reached => Nat.not_le_of_lt (early b armed) (Nat.le_of_ble_eq_true reached)
  next => rfl

theorem exec_timetableBankSwap {b : Nat} (armed : s.tt.swapAt = some b) (reached : b ≤ s.now) :
    exec .timetableBankSwap s = .next ((s.fireDue [] s.now).swapBanks b) := by
  refine congrArg Outcome.next ?_
  unfold State.swapUpTo
  rw [armed]
  exact if_pos (Nat.ble_eq_true_of_le reached)

theorem State.banks_fireOwed (x : Nat) (s : State) (i : Nat) : (s.fireOwed [] x i).tt.banks = s.tt.banks := by
  unfold State.fireOwed
  rw [List.find?_nil]
  dsimp only
  split
  · obtain ⟨-, -, banks, -⟩ := s.fire_shows i (s.ttEntry i) _ false
    exact banks
  · rfl

theorem State.banks_fireDue (s : State) (x : Nat) : (s.fireDue [] x).tt.banks = s.tt.banks := by
  unfold State.fireDue
  split
  · rfl
  · exact State.foldl_leaves (·.tt.banks) (State.banks_fireOwed x) _ s

/-- Where nothing is due, nothing fires. -/
theorem State.fireDue_none {x : Nat} (none : ∀ i < 1024, s.dueFiring i x = none) : s.fireDue [] x = s := by
  have still (i : Nat) (h : i ∈ List.range 1024) : State.fireOwed [] x s i = s := by
    unfold State.fireOwed
    rw [List.find?_nil]
    dsimp only
    rw [none i (List.mem_range.1 h)]
  unfold State.fireDue
  split
  · rfl
  · revert still
    generalize List.range 1024 = xs
    intro still
    induction xs with
    | nil => rfl
    | cons i xs ih =>
      rw [List.foldl_cons, still i (List.mem_cons_self ..)]
      exact ih fun j mem => still j (List.mem_cons_of_mem i mem)

theorem State.swapBanks_shows (s : State) (b : Nat) : let t := s.swapBanks b
    t.ttActive = 1 - s.ttActive ∧ t.fld Reg.TTB_CTRL Fld.TTB_CTRL_SWAP = 0 ∧ t.tt.swapAt = none ∧ t.tt.banks = s.tt.banks ∧
      ∀ a, a ≠ Reg.TTB_CTRL → t.reg a = s.reg a := by
  refine ⟨?_, State.fld_lower ⟨by decide, by decide⟩, rfl, rfl, fun a other => ?_⟩
  · refine (State.fld_setFld_apart ⟨by decide, by decide⟩ ⟨by decide, by decide⟩ (.inl (by decide))).trans ?_
    refine (State.fld_setFld_same ⟨by decide, by decide⟩).trans (Nat.mod_eq_of_lt ?_)
    show 1 - s.ttActive < 2
    omega
  · exact (State.reg_setFld_other other).trans (State.reg_setFld_other other)

theorem timetableBankSwap_shows {b : Nat} (armed : s.tt.swapAt = some b) (reached : b ≤ s.now) :
    ∃ t, exec .timetableBankSwap s = .next t ∧ t.ttActive = 1 - s.ttActive ∧ t.fld Reg.TTB_CTRL Fld.TTB_CTRL_SWAP = 0 ∧
      t.tt.swapAt = none ∧ t.tt.banks = s.tt.banks ∧ t.now = s.now ∧
      ((∀ i < 1024, s.dueFiring i s.now = none) → ∀ a, a ≠ Reg.TTB_CTRL → t.reg a = s.reg a) := by
  have fired : TimeKept true s (s.fireDue [] s.now) := TimeKept.rfl.fireDue
  obtain ⟨active, swap, at_, banks, other⟩ := (s.fireDue [] s.now).swapBanks_shows b
  refine ⟨_, exec_timetableBankSwap armed reached, active.trans ?_, swap, at_, banks.trans (s.banks_fireDue _), fired.now,
    fun none a ne => ?_⟩
  · exact congrArg (1 - ·) (State.fld_congr (fired.reg _ (.inr ⟨rfl, by decide⟩)) _)
  · rw [other a ne, State.fireDue_none none]

end

/-! ## HEATH_CYCLE (R261) -/

/-- A loop over the places of a vector, each set once from what it held. -/
theorem Vector.foldl_range_set {α : Type} {n : Nat} [NeZero n] (f : Nat → α → α) (v : Vector α n) {m : Nat} (fits : m ≤ n) (k : Fin n) :
    ((List.range m).foldl (fun v j => v.set (Fin.ofNat n j) (f j v[Fin.ofNat n j])) v)[k] = if k.val < m then f k v[k] else v[k] := by
  induction m with
  | zero => rfl
  | succ m ih =>
    have place : (Fin.ofNat n m).val = m := Nat.mod_eq_of_lt fits
    rw [List.range_succ, List.foldl_append, List.foldl_cons, List.foldl_nil]
    simp only [Fin.getElem_fin] at ih ⊢
    rw [Vector.getElem_set]
    simp only [place]
    by_cases here : m = k.val
    · have old := ih (Nat.le_of_succ_le fits)
      rw [if_neg (by omega)] at old
      subst here
      rw [if_pos rfl, if_pos (Nat.lt_succ_self _), old]
    · rw [if_neg here, ih (Nat.le_of_succ_le fits)]
      simp only [show k.val < m + 1 ↔ k.val < m by omega]

/-- The event reaches core k. -/
def State.cycleReaches (s : State) (e : ReleaseEvent) (k : Nat) : Bool :=
  bitAt e.arg0 k || (!s.heathSplits && bitsOf e.arg0 2 0 != 0)

/-- Core k takes the phase of an event that reaches it, unless it is fenced. -/
def State.takeCycle (s : State) (e : ReleaseEvent) (k : Nat) (c : HeathCore) : HeathCore :=
  if s.cycleReaches e k = true ∧ c.fenced = false then { c with irq := some (bitsOf e.arg0 15 8) } else c

/-- The event leaves the bus, and the cores that it reaches take its phase. -/
def State.heathCycle (s : State) (e : ReleaseEvent) : State :=
  { s with bus := s.bus.erase e, heath := { s.heath with
      cores := (List.range 3).foldl (fun cs k => cs.set (Fin.ofNat 3 k) (s.takeCycle e k cs[Fin.ofNat 3 k])) s.heath.cores } }

theorem exec_heathCycleEvent_none (none : s.bus.find? (fun e => e.action == 6) = none) : exec .heathCycleEvent s = .next s := by
  show execHeathCycleEvent s = _
  rw [execHeathCycleEvent, State.takeEvent_eq, none]
  rfl

theorem exec_heathCycleEvent {e : ReleaseEvent} (found : s.bus.find? (fun e => e.action == 6) = some e) :
    exec .heathCycleEvent s = .next (s.heathCycle e) := by
  have turn (cs : Vector HeathCore 3) (k : Nat) :
      (if ((!s.heathSplits && !(Nat.beq (bitsOf e.arg0 2 0) 0)) || bitAt e.arg0 k) && !cs[Fin.ofNat 3 k].fenced then
        cs.set (Fin.ofNat 3 k) { cs[Fin.ofNat 3 k] with irq := some (bitsOf e.arg0 15 8) }
      else cs) = cs.set (Fin.ofNat 3 k) (s.takeCycle e k cs[Fin.ofNat 3 k]) := by
    have reached : (((!s.heathSplits && !(Nat.beq (bitsOf e.arg0 2 0) 0)) || bitAt e.arg0 k) && !cs[Fin.ofNat 3 k].fenced) = true ↔
        s.cycleReaches e k = true ∧ cs[Fin.ofNat 3 k].fenced = false := by
      rw [Bool.and_eq_true, Bool.not_eq_true', Bool.or_comm, ← beq_eq_natBeq]
      rfl
    unfold State.takeCycle
    simp only [reached]
    split
    · rfl
    · exact (Vector.set_getElem_self _).symm
  show execHeathCycleEvent s = _
  rw [execHeathCycleEvent, State.takeEvent_eq, found, Option.map_some]
  refine congrArg Outcome.next ?_
  exact congrArg (fun f => { s with bus := s.bus.erase e, heath := { s.heath with cores := (List.range 3).foldl f s.heath.cores } })
    (funext fun cs => funext fun k => turn cs k)

theorem State.heathCycle_cores (s : State) (e : ReleaseEvent) (k : Fin 3) :
    (s.heathCycle e).heath.cores[k] = s.takeCycle e k s.heath.cores[k] :=
  (Vector.foldl_range_set _ _ (Nat.le_refl 3) k).trans (if_pos k.isLt)

end Sys2Proof.Machine
end

section
open Sys2Proof Sys2Proof.Machine

/-- Settles O38: a due firing is noted, and acts at its pin or goes on the bus; the check finds the first bad entry or arms the next common
boundary; and the old bank fires what it owes before the banks change roles. -/
theorem timetableFires : Obligations.TimetableFires := by
  refine ⟨fun s i => ?_, fun s p e pulse => exec_triggerPulseEnd pulse, fun s req w grants => ?_, fun s => ?_,
    fun s => exec_timetableBankSwap_early, fun s b => timetableBankSwap_shows,
    fun s => ⟨exec_heathCycleEvent_none, fun e found => ⟨_, exec_heathCycleEvent found, rfl, rfl, s.heathCycle_cores e⟩⟩⟩
  · obtain ⟨none, fires⟩ := timetableFiring_shows s i
    refine ⟨none, fun f due => ?_⟩
    obtain ⟨on, reached, later, first⟩ := fires f due
    obtain ⟨fired, bus, -, levels⟩ := s.fire_shows i (s.ttEntry i) f false
    exact ⟨on, reached, later, fun lowest => ⟨_, first lowest, fired, bus, levels, fun pin => State.fire_pin_acts pin⟩⟩
  · intro en was c i row
    have run : exec i s = .next (s.busWrite req Reg.TTB_CTRL w (·.writeTtbCtrl w)) := by
      rcases List.mem_cons.1 row with rfl | row
      · rfl
      · rw [List.mem_singleton.1 row]; rfl
    have shows := (s.relabel req).writeTtbCtrl_shows w
    have active : (s.relabel req).ttActive = s.ttActive := s.fld_relabel req _ (by decide)
    have cycle (b : Nat) : (s.relabel req).ttCycle b = s.ttCycle b :=
      s.fld_relabel req _ (by unfold Reg.TTB_CYCLE Reg.SLU_STATUS; omega)
    have time : (s.relabel req).now = s.now := s.relabel_apart req State.now fun _ => rfl
    have tt : (s.relabel req).tt = s.tt := s.relabel_apart req State.tt fun _ => rfl
    rw [active, cycle, time, tt, s.relabel_mem req, s.flag_relabel req _ (by decide), s.flag_relabel req _ (by decide)] at shows
    exact ⟨_, next_of_granted grants run rfl, rfl, shows⟩
  · refine ⟨exec_timetableSwapCheckDone_none, fun check good => ?_, fun i small check bad least => ?_⟩
    · have good : (List.range 1024).find? s.idleBad = none := List.find?_eq_none.2 fun i mem isBad =>
        good i (List.mem_range.1 mem) (Bool.and_eq_true_iff.1 isBad)
      refine ⟨_, _, exec_timetableSwapCheckDone_armed check good, rfl, rfl, rfl, fun pos0 pos1 => ?_⟩
      obtain ⟨x, armed, spec⟩ := s.swapArmed_shows pos0 pos1
      obtain rfl := Option.some.inj armed
      exact spec
    · have first : (List.range 1024).find? s.idleBad = some i := by
        refine List.find?_range_eq_some.2 ⟨Bool.and_eq_true_iff.2 bad, List.mem_range.2 small, fun j lower => ?_⟩
        exact Bool.not_eq_true' _ ▸ Bool.eq_false_iff.2 fun isBad => least j lower (Bool.and_eq_true_iff.1 isBad)
      exact ⟨_, exec_timetableSwapCheckDone_denied check first, s.swapDenied_shows small⟩

end

section
/-!
SUPPORT. A tick of the timebase (R235, R238, R247, R248, R255): the advance of the time, the adjustments of the tick, and what goes with them.
-/

namespace Sys2Proof.Machine

open Host (Outcome)

/-! ## PPS_OUT (R255) -/

/-- From `s` to `t` PPS_OUT and the end of its pulse may have changed, nothing else. -/
def PpsOnly (s t : State) : Prop := ∃ ppsOut ppsEnd, t = { s with pins := { s.pins with ppsOut }, tb := { s.tb with ppsEnd } }

theorem PpsOnly.refl (s : State) : PpsOnly s s := ⟨_, _, rfl⟩

theorem PpsOnly.ite {s t u : State} {p : Prop} [Decidable p] (h : PpsOnly s t) (k : PpsOnly s u) : PpsOnly s (if p then t else u) := by
  split <;> assumption

theorem State.ppsPulse_only (s : State) (b : Nat) : PpsOnly s (s.ppsPulse b) := PpsOnly.ite ⟨_, _, rfl⟩ (.refl s)

theorem exec_ppsOutEnd {s : State} {e : Nat} (pulse : s.tb.ppsEnd = some e) : exec .ppsOutEnd s =
    .next (if e ≤ s.tb.elapsed then { s with pins := { s.pins with ppsOut := false }, tb := { s.tb with ppsEnd := none } } else s) := by
  show execPpsOutEnd s = _
  unfold execPpsOutEnd
  simp only [pulse, Nat.ble_eq]

/-! ## The time (R235) -/

theorem State.now_setNow (s : State) {n : Nat} (fits : n < secWrap) : (s.setNow n).now = n := by
  have seconds : n / 1000000000 < 2 ^ 48 := Nat.div_lt_of_lt_mul (Nat.mul_comm .. ▸ fits)
  show (BitVec.ofNat 48 (n / 1000000000)).toNat * 1000000000 + n % 1000000000 = n
  rw [BitVec.toNat_ofNat, Nat.mod_eq_of_lt seconds]
  exact Nat.div_add_mod' ..

theorem secWrap_pos : 0 < secWrap := by decide

/-- Fraction and increment before the carry into NS. -/
def State.fracSum (s : State) : Nat := s.tb.frac.toNat + s.tb.incr

/-- From `s` to `t` the time has advanced by the increment in force. -/
structure Advanced (s t : State) : Prop where
  now : t.now = (s.now + s.fracSum / 2 ^ 32) % secWrap
  tb : ∃ sec ns ppsTop ppsEnd, t.tb =
    { s.tb with sec, ns, elapsed := s.tb.elapsed + s.tb.incr, frac := BitVec.ofNat 32 s.fracSum, ppsTop, ppsEnd }
  mem : t.mem = s.mem
  gw : t.gw = s.gw
  reg : ∀ a, a ≠ Reg.TMB_HOLD → t.reg a = s.reg a
  firesFrom : s.tt.firesFrom = none → t.tt.firesFrom = none
  swapAt : s.tt.swapAt = none → t.tt.swapAt = none

namespace Advanced

variable {s t u : State}

theorem pps (h : Advanced s t) (k : PpsOnly t u) : Advanced s u := by
  obtain ⟨ppsOut, ppsEnd, rfl⟩ := k
  obtain ⟨sec, ns, ppsTop, ppsEnd', tb⟩ := h.tb
  exact { h with tb := ⟨sec, ns, ppsTop, ppsEnd, congrArg (fun b : Timebase => { b with ppsEnd }) tb⟩ }

theorem hold (h : Advanced s t) {w : Word} : Advanced s (t.setReg Reg.TMB_HOLD w) :=
  { h with reg := fun a other => (State.reg_setReg_other other).trans (h.reg a other) }

theorem reachTop (h : Advanced s t) : Advanced s t.reachTop := by
  obtain ⟨sec, ns, _, ppsEnd, tb⟩ := h.tb
  exact { h with tb := ⟨sec, ns, some (max (t.tb.ppsTop.getD 0) t.now), ppsEnd,
    congrArg (fun b : Timebase => { b with ppsTop := some (max (t.tb.ppsTop.getD 0) t.now) }) tb⟩ }

end Advanced

/-- The time moves to `n` and its fraction on; where SEC wraps, the clocks of the timetable follow. -/
def State.timeMoves (s : State) (wraps : Bool) (n : Nat) : State :=
  let moved := { s with tb := { s.tb with elapsed := s.tb.elapsed + s.tb.incr, frac := BitVec.ofNat 32 s.fracSum } }
  State.setNow (if wraps then { moved with tt := s.tt.wrap, tb := { moved.tb with ppsTop := none } } else moved) n

theorem State.timeMoves_tb (s : State) (wraps : Bool) (n : Nat) : ∃ sec ns ppsTop ppsEnd, (s.timeMoves wraps n).tb =
    { s.tb with sec, ns, elapsed := s.tb.elapsed + s.tb.incr, frac := BitVec.ofNat 32 s.fracSum, ppsTop, ppsEnd } := by
  cases wraps <;> exact ⟨_, _, _, _, rfl⟩

theorem State.timeMoves_tt (s : State) (wraps : Bool) (n : Nat) : (s.timeMoves wraps n).tt = if wraps then s.tt.wrap else s.tt := by
  cases wraps <;> rfl

theorem State.timeMoves_advanced (s : State) (wraps : Bool) {n : Nat} (moved : n = (s.now + s.fracSum / 2 ^ 32) % secWrap) :
    Advanced s (s.timeMoves wraps n) where
  now := (State.now_setNow _ (moved ▸ Nat.mod_lt _ secWrap_pos)).trans moved
  tb := s.timeMoves_tb wraps _
  mem := by cases wraps <;> rfl
  gw := by cases wraps <;> rfl
  reg _ _ := by cases wraps <;> rfl
  firesFrom off := by
    rw [State.timeMoves_tt]
    cases wraps with
    | true => exact congrArg (Option.map _) off
    | false => exact off
  swapAt off := by
    rw [State.timeMoves_tt]
    cases wraps with
    | true => exact congrArg (Option.map _) off
    | false => exact off

theorem State.advance_advanced (s : State) : Advanced s s.advance := by
  unfold State.advance
  extract_lets old sum n a1 s1 a2 s2 s3 s4
  have moved : Advanced s s3 := s.timeMoves_advanced (Nat.ble secWrap n) rfl
  have pulsed : Advanced s s4 := moved.pps ((s3.ppsPulse_only _).ite (.refl s3))
  split
  · exact pulsed.hold
  · exact pulsed

/-! ## Nothing to fire and nothing to send -/

section
variable {s : State}

theorem State.fireDue_off (off : s.tt.firesFrom = none) (skips : List (Nat × TtEntry × Nat)) (x : Nat) : s.fireDue skips x = s := by
  unfold State.fireDue
  rw [off]

theorem State.swapUpTo_unarmed (unarmed : s.tt.swapAt = none) (x : Nat) : s.swapUpTo x = s := by
  unfold State.swapUpTo
  rw [unarmed]

theorem State.fireUpTo_off (off : s.tt.firesFrom = none) (unarmed : s.tt.swapAt = none) (x : Nat) : s.fireUpTo x = s := by
  rw [State.fireUpTo, State.swapUpTo_unarmed unarmed, State.fireDue_off off]

theorem State.fireSkipped_off (off : s.tt.firesFrom = none) (unarmed : s.tt.swapAt = none) :
    s.fireSkipped = { s with tt := { s.tt with skips := [] } } := by
  unfold State.fireSkipped
  split
  next empty => rw [← List.isEmpty_iff.1 empty]
  · rw [State.swapUpTo_unarmed (s := { s with tt := { s.tt with skips := [] } }) unarmed]
    exact State.fireDue_off (s := { s with tt := { s.tt with skips := [] } }) off _ _

theorem State.fireSkipped_quiet (off : s.tt.firesFrom = none) (unarmed : s.tt.swapAt = none) :
    s.fireSkipped.mem = s.mem ∧ s.fireSkipped.gw = s.gw ∧ ∀ a, s.fireSkipped.reg a = s.reg a := by
  rw [State.fireSkipped_off off unarmed]
  exact ⟨rfl, rfl, fun _ => rfl⟩

theorem State.drainPorts_empty (empty : s.gw.egress = Vector.replicate 14 []) : s.drainPorts = s := by
  have still (p : Nat) : s.drainPort p (s.gw.egress[Fin.ofNat 14 p]).length = s := by
    have none : (s.gw.egress[Fin.ofNat 14 p]).length = 0 := by
      rw [empty, Fin.getElem_fin, Vector.getElem_replicate, List.length_nil]
    rw [none]
    rfl
  exact List.foldl_fixed' still _

end

/-! ## Adjustments (R247, R248) -/

/-- The time that an adjustment gives. -/
def State.adjustedTo (s : State) (a : Bool × Int) : Nat := ((if a.1 then a.2 else s.now + a.2) % (secWrap : Int)).toNat

theorem State.adjustedTo_lt (s : State) (a : Bool × Int) : s.adjustedTo a < secWrap := by
  have pos : (0 : Int) < secWrap := by decide
  have nonneg := Int.emod_nonneg (if a.1 then a.2 else s.now + a.2) pos.ne'
  have below := Int.emod_lt_of_pos (if a.1 then a.2 else s.now + a.2) pos
  unfold State.adjustedTo
  omega

/-- FRAC after an adjustment: an absolute one clears it. -/
def State.clearFrac (s : State) (abs : Bool) : State := if abs then { s with tb := { s.tb with frac := 0#32 } } else s

/-- The amount that TMB_LAST_STEP keeps of a step. -/
def State.stepAmount (s : State) (a : Bool × Int) : Int :=
  clampInt (1 - 2 ^ 31) (2 ^ 31 - 1) (if a.1 then (s.adjustedTo a : Int) - s.now else a.2)

/-- The phase step to the adjusted time, with what follows the timetable. -/
def State.phaseStep (s : State) (a : Bool × Int) : State :=
  (State.ttStep { s.clearFrac a.1 with fusion := { s.fusion with
    drifts := s.fusion.drifts.map fun (d : Drift) => { d with ref := d.ref.map fun _ => d.sum } } } s.now (s.adjustedTo a)).setNow
      (s.adjustedTo a)

/-- The step counts and its amount is kept. -/
def State.countStep (s : State) (amount : Int) : State :=
  (s.setFld Reg.TMB_STEPS Fld.TMB_STEPS_COUNT (s.fld Reg.TMB_STEPS Fld.TMB_STEPS_COUNT + 1)).setReg Reg.TMB_LAST_STEP
    (BitVec.ofInt 32 amount)

/-- A step ends lock and is reported. -/
def State.reportStep (s : State) : State := (s.unlock.tmbEvent Fld.TMB_STATUS_STEP 0).report (plainRecord .timebase sevCE)

section
variable {s : State} {a : Bool × Int}

theorem State.adjust_still (still : s.adjustedTo a = s.now) : s.adjust a = s.clearFrac a.1 :=
  if_pos ((Nat.beq_eq ..).mpr still.symm)

theorem State.fusion_clearFrac (s : State) (abs : Bool) : (s.clearFrac abs).fusion = s.fusion := by
  cases abs <;> rfl

theorem State.adjust_moves (moves : s.adjustedTo a ≠ s.now) :
    PpsOnly ((s.phaseStep a).countStep (s.stepAmount a)).reportStep (s.adjust a) := by
  have still : ¬ Nat.beq s.now (s.adjustedTo a) = true := fun same => moves (Nat.eq_of_beq_eq_true same).symm
  have step : s.adjust a = if Nat.beq (s.adjustedTo a % 1000000000) 0 then
      ((s.phaseStep a).countStep (s.stepAmount a)).reportStep.ppsPulse (s.adjustedTo a)
      else ((s.phaseStep a).countStep (s.stepAmount a)).reportStep := by
    rw [State.phaseStep, ← s.fusion_clearFrac a.1]
    exact if_neg still
  rw [step]
  exact (State.ppsPulse_only ..).ite (.refl _)

theorem State.clearFrac_tb (s : State) (abs : Bool) : (s.clearFrac abs).tb = { s.tb with frac := if abs then 0#32 else s.tb.frac } := by
  cases abs <;> rfl

theorem State.reg_clearFrac (s : State) (abs : Bool) (b : Nat) : (s.clearFrac abs).reg b = s.reg b := by
  cases abs <;> rfl

/-- A phase step keeps the registers of the timebase, and what the timebase holds beside SEC, NS and FRAC. -/
theorem State.phaseStep_kept (s : State) (a : Bool × Int) :
    ∃ u, TimeKept false (s.clearFrac a.1) u ∧ s.phaseStep a = u.setNow (s.adjustedTo a) :=
  ⟨_, TimeKept.ttStep (TimeKept.rfl.of_parts), rfl⟩

/-- From `s` to `t` the time has been set to `n`, with `frac` for FRAC; the rate, the elapsed time and what is asked for stay. -/
structure Adjusted (s : State) (n : Nat) (frac : Word) (t : State) : Prop where
  now : t.now = n
  tb : ∃ sec ns good ppsTop ppsEnd, t.tb = { s.tb with sec, ns, frac, good, ppsTop, ppsEnd }

namespace Adjusted

variable {s t u : State} {n : Nat} {frac : Word}

theorem pps (h : Adjusted s n frac t) (k : PpsOnly t u) : Adjusted s n frac u := by
  obtain ⟨ppsOut, ppsEnd, rfl⟩ := k
  obtain ⟨sec, ns, good, ppsTop, _, tb⟩ := h.tb
  exact ⟨h.now, sec, ns, good, ppsTop, ppsEnd, congrArg (fun b : Timebase => { b with ppsEnd }) tb⟩

theorem reachTop (h : Adjusted s n frac t) : Adjusted s n frac t.reachTop := by
  obtain ⟨sec, ns, good, _, ppsEnd, tb⟩ := h.tb
  exact ⟨h.now, sec, ns, good, _, ppsEnd, congrArg (fun b : Timebase => { b with ppsTop := some (max (t.tb.ppsTop.getD 0) t.now) }) tb⟩

theorem kept (h : Adjusted s n frac t) {ttb : Bool} (k : TimeKept ttb t u) : Adjusted s n frac u :=
  ⟨k.now.trans h.now, by rw [k.tb]; exact h.tb⟩

end Adjusted

theorem State.setNow_adjusted {frac : Word} {n : Nat} (tb : s.tb = { t.tb with frac }) (fits : n < secWrap) :
    Adjusted t n frac (s.setNow n) :=
  ⟨State.now_setNow s fits, _, _, _, _, _,
    congrArg (fun b : Timebase => { b with sec := BitVec.ofNat 48 (n / 1000000000), ns := n % 1000000000 }) tb⟩

end

end Sys2Proof.Machine
end
section
/-!
SUPPORT. A tick of the timebase: what it leaves in the timebase and in its registers (R235, R238, R247, R248).
-/

namespace Sys2Proof.Machine

open Host (Outcome)

/-! ## A step counts and is shown (R248) -/

section
variable {s : State} {a : Bool × Int}

theorem State.reportStep_tb (s : State) : s.reportStep.tb = { s.tb with good := 0 } := by
  rw [State.reportStep, State.report_tb, State.tb_tmbEvent, State.tb_unlock]

/-- The adjusted time, with FRAC cleared by an absolute adjustment. -/
theorem State.adjust_adjusted (s : State) (a : Bool × Int) :
    Adjusted s (s.adjustedTo a) (if a.1 then 0#32 else s.tb.frac) (s.adjust a) := by
  by_cases still : s.adjustedTo a = s.now
  · rw [State.adjust_still still]
    have now : (s.clearFrac a.1).now = s.now := by rw [State.now, State.clearFrac_tb, State.now]
    exact ⟨now.trans still.symm, _, _, _, _, _, State.clearFrac_tb ..⟩
  · obtain ⟨u, kept, step⟩ := s.phaseStep_kept a
    have stepped : Adjusted s (s.adjustedTo a) (if a.1 then 0#32 else s.tb.frac) (s.phaseStep a) := by
      rw [step]
      exact State.setNow_adjusted (kept.tb.trans (State.clearFrac_tb ..)) (s.adjustedTo_lt a)
    refine Adjusted.pps ?_ (State.adjust_moves still)
    obtain ⟨sec, ns, good, ppsTop, ppsEnd, tb⟩ := stepped.tb
    have shown := ((s.phaseStep a).countStep (s.stepAmount a)).reportStep_tb
    refine ⟨?_, sec, ns, 0, ppsTop, ppsEnd, shown.trans (congrArg (fun b : Timebase => { b with good := 0 }) tb)⟩
    rw [State.now, shown]
    exact stepped.now

/-- The registers that an adjustment without a step keeps. -/
theorem State.reg_adjust_still (still : s.adjustedTo a = s.now) (b : Nat) : (s.adjust a).reg b = s.reg b := by
  rw [State.adjust_still still, State.reg_clearFrac]

theorem PpsOnly.reg {s t : State} (h : PpsOnly s t) (b : Nat) : t.reg b = s.reg b := by
  obtain ⟨ppsOut, ppsEnd, rfl⟩ := h
  rfl

theorem State.reg_phaseStep (s : State) (a : Bool × Int) {b : Nat} (page : b / 0x10000 = 0x1200 := by decide) :
    (s.phaseStep a).reg b = s.reg b := by
  obtain ⟨u, kept, step⟩ := s.phaseStep_kept a
  rw [step]
  exact (kept.reg b (.inl page)).trans (State.reg_clearFrac ..)

theorem State.reg_reportStep (s : State) {b : Nat} (other : b ≠ Reg.TMB_STATUS) : s.reportStep.reg b = s.reg b :=
  (((TimebaseOnly.rfl (A := [Reg.TMB_STATUS])).unlock).tmbEvent.report).reg b (by simpa using other)

/-- A step counts in TMB_STEPS, is kept in TMB_LAST_STEP and shown by STEP, and ends lock. -/
theorem State.adjust_counts (moves : s.adjustedTo a ≠ s.now) : let t := s.adjust a
    t.fld Reg.TMB_STEPS Fld.TMB_STEPS_COUNT = (s.fld Reg.TMB_STEPS Fld.TMB_STEPS_COUNT + 1) % 65536 ∧
      t.reg Reg.TMB_LAST_STEP = BitVec.ofInt 32 (s.stepAmount a) ∧ t.fld Reg.TMB_STATUS Fld.TMB_STATUS_STEP = 1 ∧
      t.fld Reg.TMB_STATUS Fld.TMB_STATUS_LOCKED = 0 := by
  intro t
  have pps (b : Nat) : t.reg b = _ := (State.adjust_moves moves).reg b
  refine ⟨?_, ?_, (State.fld_congr (pps _) _).trans ?_, (State.fld_congr (pps _) _).trans ?_⟩
  · rw [State.fld_congr ((pps _).trans (State.reg_reportStep _ (by decide))), State.countStep, State.fld_setReg_other (by decide),
      State.fld_setFld_same ⟨by decide, by decide⟩, State.fld_congr (s.reg_phaseStep a)]
    rfl
  · rw [pps, State.reg_reportStep _ (by decide)]
    exact State.reg_setReg_same ..
  · exact State.fld_tmbEvent_same ⟨by decide, by decide⟩ rfl
  · exact (State.fld_tmbEvent ⟨by decide, by decide⟩ ⟨by decide, by decide⟩ (.inr (by decide))).trans (State.LOCKED_unlock _)

end

/-! ## The tick (R235) -/

section
variable (s : State)

/-- The tick begins: what the tick before owes has fired, and what was asked for this one takes force. -/
def State.tickBegins : State :=
  let s0 := s.fireUpTo s.now
  { s0 with
    bus := s0.bus.filter fun e => !(Nat.beq e.action 0)
    tb := { s0.tb with incr := s0.tb.incrNext.getD s0.tb.incr, incrNext := none, adjusts := [] } }

/-- The time of the tick has come, and what it makes due has fired. -/
def State.tickMoves : State := s.tickBegins.advance.reachTop.fireSkipped

theorem State.reg_reachTop (b : Nat) : s.reachTop.reg b = s.reg b := (rfl)

/-- One adjustment of the tick. -/
def State.tickAdjust (s : State) (a : Bool × Int) : State := (s.adjust a).reachTop

theorem State.reg_tickAdjust (a : Bool × Int) (b : Nat) : (s.tickAdjust a).reg b = (s.adjust a).reg b :=
  (s.adjust a).reg_reachTop b

theorem exec_timebaseTick : exec .timebaseTick s = .next (s.tb.adjusts.foldl State.tickAdjust s.tickMoves).drainPorts := by
  have fired : TimeKept false s (s.fireUpTo s.now) := TimeKept.rfl.fireUpTo
  rw [← fired.tb]
  rfl

/-- The increment in force from this tick on (R236). -/
def State.tickIncr : Nat := s.tb.incrNext.getD s.tb.incr

/-- The fraction and the increment of the tick. -/
def State.tickSum : Nat := s.tb.frac.toNat + s.tickIncr

/-- The time that the tick brings. -/
def State.tickNow : Nat := (s.now + s.tickSum / 2 ^ 32) % secWrap

/-- What the tick does to the timebase beside SEC, NS, FRAC and PPS_OUT. -/
def State.tickTb : Timebase :=
  { s.tb with incr := s.tickIncr, incrNext := none, adjusts := [], elapsed := s.tb.elapsed + s.tickIncr }

theorem State.tickBegins_tb : s.tickBegins.tb = { s.tb with incr := s.tickIncr, incrNext := none, adjusts := [] } := by
  have fired : TimeKept false s (s.fireUpTo s.now) := TimeKept.rfl.fireUpTo
  exact congrArg (fun b : Timebase => { b with incr := b.incrNext.getD b.incr, incrNext := none, adjusts := [] }) fired.tb

theorem State.tickBegins_now : s.tickBegins.now = s.now := by rw [State.now, State.tickBegins_tb, State.now]

theorem State.tickBegins_fracSum : s.tickBegins.fracSum = s.tickSum := by rw [State.fracSum, State.tickBegins_tb, State.tickSum]

theorem State.reg_tickBegins {b : Nat} (page : b / 0x10000 = 0x1200) : s.tickBegins.reg b = s.reg b :=
  (TimeKept.rfl.fireUpTo (s := s) (t := s) (x := s.now)).reg b (.inl page)

/-- The time, the rate and the elapsed time after the advance. -/
theorem State.tickMoves_shows : s.tickMoves.now = s.tickNow ∧
    (∃ sec ns ppsTop ppsEnd, s.tickMoves.tb = { s.tickTb with sec, ns, frac := BitVec.ofNat 32 s.tickSum, ppsTop, ppsEnd }) ∧
    ∀ b, b / 0x10000 = 0x1200 → b ≠ Reg.TMB_HOLD → s.tickMoves.reg b = s.reg b := by
  have moved := s.tickBegins.advance_advanced.reachTop
  have fired : TimeKept false s.tickBegins.advance.reachTop s.tickMoves := TimeKept.rfl.fireSkipped
  obtain ⟨sec, ns, ppsTop, ppsEnd, tb⟩ := moved.tb
  refine ⟨?_, ⟨sec, ns, ppsTop, ppsEnd, ?_⟩, fun b page other => ?_⟩
  · rw [fired.now]
    refine moved.now.trans ?_
    rw [s.tickBegins_now, s.tickBegins_fracSum]
    rfl
  · rw [s.tickBegins_fracSum, s.tickBegins_tb] at tb
    exact fired.tb.trans tb
  · rw [fired.reg b (.inl page)]
    exact (moved.reg b other).trans (s.reg_tickBegins page)

/-- The tick keeps the rate and the elapsed time that it began with. -/
def State.Ticked (t : State) : Prop :=
  t.tb.incr = s.tickIncr ∧ t.tb.incrNext = none ∧ t.tb.elapsed = s.tb.elapsed + s.tickIncr ∧ t.tb.adjusts = []

variable {s} {t : State} {n : Nat} {frac : Word}

theorem Adjusted.ticked (h : Adjusted s.tickMoves n frac t) : s.Ticked t := by
  obtain ⟨-, ⟨_, _, _, _, moved⟩, -⟩ := s.tickMoves_shows
  obtain ⟨_, _, _, _, _, tb⟩ := h.tb
  rw [State.Ticked, tb, moved]
  exact ⟨rfl, rfl, rfl, rfl⟩

theorem Adjusted.refl (s : State) : Adjusted s s.now s.tb.frac s := ⟨rfl, _, _, _, _, _, rfl⟩

theorem State.tickMoves_frac : s.tickMoves.tb.frac = BitVec.ofNat 32 s.tickSum := by
  obtain ⟨-, ⟨_, _, _, _, tb⟩, -⟩ := s.tickMoves_shows
  rw [tb]

/-- Without firings, a swap or waiting frames a tick changes no memory, and no register beside TMB_HOLD. -/
theorem State.tickMoves_quiet (off : s.tt.firesFrom = none) (unarmed : s.tt.swapAt = none) (empty : s.gw.egress = Vector.replicate 14 []) :
    s.tickMoves.drainPorts.mem = s.mem ∧ ∀ b, b ≠ Reg.TMB_HOLD → s.tickMoves.drainPorts.reg b = s.reg b := by
  have begins : s.tickBegins = { s with bus := s.tickBegins.bus, tb := s.tickBegins.tb } := by
    rw [State.tickBegins, State.fireUpTo_off off unarmed]
  have moved := s.tickBegins.advance_advanced.reachTop
  have offThen : s.tickBegins.advance.reachTop.tt.firesFrom = none := moved.firesFrom (by rw [begins]; exact off)
  have unarmedThen : s.tickBegins.advance.reachTop.tt.swapAt = none := moved.swapAt (by rw [begins]; exact unarmed)
  obtain ⟨mem, gw, reg⟩ := State.fireSkipped_quiet offThen unarmedThen
  have empty : s.tickMoves.gw.egress = Vector.replicate 14 [] := by
    rw [State.tickMoves, gw, moved.gw, begins]
    exact empty
  rw [State.drainPorts_empty empty]
  refine ⟨mem.trans (moved.mem.trans ?_), fun b other => (reg b).trans ((moved.reg b other).trans ?_)⟩
  · rw [begins]
  · rw [begins]
    rfl

/-- A tick without adjustments. -/
theorem timebaseTick_none (none : s.tb.adjusts = []) : ∃ t, exec .timebaseTick s = .next t ∧ s.Ticked t ∧ t.now = s.tickNow ∧
    t.tb.frac = BitVec.ofNat 32 s.tickSum ∧ (s.tt.firesFrom = .none → s.tt.swapAt = .none → s.gw.egress = Vector.replicate 14 [] →
      t.mem = s.mem ∧ ∀ a, a ≠ Reg.TMB_HOLD → t.reg a = s.reg a) := by
  have drained : TimeKept true s.tickMoves s.tickMoves.drainPorts := TimeKept.rfl.drainPorts
  refine ⟨s.tickMoves.drainPorts, by rw [exec_timebaseTick, none, List.foldl_nil], ((Adjusted.refl _).kept drained).ticked, ?_, ?_,
    State.tickMoves_quiet⟩
  · exact drained.now.trans s.tickMoves_shows.1
  · rw [drained.tb, State.tickMoves_frac]

/-- A tick with one adjustment. -/
theorem timebaseTick_one {a : Bool × Int} (one : s.tb.adjusts = [a]) : let u := s.tickMoves
    ∃ t, exec .timebaseTick s = .next t ∧ s.Ticked t ∧ t.now = u.adjustedTo a ∧
      t.tb.frac = (if a.1 then 0#32 else BitVec.ofNat 32 s.tickSum) ∧ ∀ b, b / 0x10000 = 0x1200 → t.reg b = (u.adjust a).reg b := by
  intro u
  have drained : TimeKept true (u.tickAdjust a) (u.tickAdjust a).drainPorts := TimeKept.rfl.drainPorts
  have adjusted := ((u.adjust_adjusted a).reachTop).kept drained
  obtain ⟨_, _, _, _, _, tb⟩ := adjusted.tb
  refine ⟨_, by rw [exec_timebaseTick, one, List.foldl_cons, List.foldl_nil], adjusted.ticked, adjusted.now, ?_, fun b page => ?_⟩
  · rw [tb, State.tickMoves_frac]
  · exact (drained.reg b (.inl page)).trans (State.reg_tickAdjust ..)

/-- The adjustment of a tick is a step where it moves the time: it counts, is kept and shown, and ends lock. -/
theorem timebaseTick_adjusts {abs : Bool} {x : Int} (one : s.tb.adjusts = [(abs, x)]) {t2 : Nat}
    (target : t2 = (if abs then x % secWrap else (s.tickNow + x) % secWrap).toNat) :
    ∃ t, exec .timebaseTick s = .next t ∧ s.Ticked t ∧ t.now = t2 ∧ t.tb.frac = (if abs then 0#32 else BitVec.ofNat 32 s.tickSum) ∧
      (t2 = s.tickNow → t.reg Reg.TMB_STEPS = s.reg Reg.TMB_STEPS ∧ t.reg Reg.TMB_LAST_STEP = s.reg Reg.TMB_LAST_STEP) ∧
      (t2 ≠ s.tickNow → t.fld Reg.TMB_STEPS Fld.TMB_STEPS_COUNT = (s.fld Reg.TMB_STEPS Fld.TMB_STEPS_COUNT + 1) % 65536 ∧
        t.reg Reg.TMB_LAST_STEP =
          BitVec.ofInt 32 (clampInt (1 - 2 ^ 31) (2 ^ 31 - 1) (if abs then (t2 : Int) - s.tickNow else x)) ∧
        t.fld Reg.TMB_STATUS Fld.TMB_STATUS_STEP = 1 ∧ t.fld Reg.TMB_STATUS Fld.TMB_STATUS_LOCKED = 0) := by
  obtain ⟨t, run, ticked, now, frac, reg⟩ := timebaseTick_one one
  obtain ⟨moved, -, kept⟩ := s.tickMoves_shows
  have reaches : s.tickMoves.adjustedTo (abs, x) = t2 := by
    rw [State.adjustedTo, moved, target]
    exact congrArg Int.toNat (apply_ite (· % (secWrap : Int)) (abs = true) x (s.tickNow + x))
  refine ⟨t, run, ticked, now.trans reaches, frac, fun same => ?_, fun differ => ?_⟩
  · have still : s.tickMoves.adjustedTo (abs, x) = s.tickMoves.now := (reaches.trans same).trans moved.symm
    have regs {b : Nat} (page : b / 0x10000 = 0x1200) (other : b ≠ Reg.TMB_HOLD) : t.reg b = s.reg b :=
      (reg b page).trans ((State.reg_adjust_still still b).trans (kept b page other))
    exact ⟨regs (by decide) (by decide), regs (by decide) (by decide)⟩
  · obtain ⟨count, amount, step, locked⟩ := State.adjust_counts (s := s.tickMoves) (a := (abs, x))
      fun still => differ ((reaches.symm.trans still).trans moved)
    have fld {b : Nat} (f : Fld) (page : b / 0x10000 = 0x1200) := State.fld_congr (reg b page) f
    refine ⟨?_, ?_, (fld _ (by decide)).trans step, (fld _ (by decide)).trans locked⟩
    · rw [fld _ (by decide), count, State.fld_congr (kept _ (by decide) (by decide))]
    · rw [reg _ (by decide), amount, State.stepAmount, reaches, moved]

end

end Sys2Proof.Machine
end

section
/-!
SUPPORT. The registers of the timebase that software writes and reads: the increment, adjustments, the time, source and servo (R236, R239,
R244, R247, R530), and the timeout of holdover (R249).
-/

namespace Sys2Proof.Machine

open Host (Outcome)

theorem Fld.get_whole (w : Word) : Fld.get ⟨31, 0⟩ w = w.toNat := by
  have := w.isLt
  unfold Fld.get bitsOf
  rw [Nat.pow_zero, Nat.div_one]
  exact Nat.mod_eq_of_lt this

theorem State.fld_one_iff {s : State} {a : Nat} {f : Fld} (one : f.hi = f.lo) : s.flag a f = false ↔ s.fld a f = 0 := by
  rw [State.fld_eq_toNat_flag one]
  cases s.flag a f <;> decide

/-! ## The answer -/

section
variable (s : State) (e : Resp) (d : List Byte)

theorem State.reg_answer (a : Nat) : (s.answer e d).reg a = s.reg a := (rfl)

theorem State.fld_answer (a : Nat) (f : Fld) : (s.answer e d).fld a f = s.fld a f := (rfl)

end

/-! ## Writes by the access types -/

section
variable {s : State} {a : Nat} {w : Word}

/-- A write of a register other than TMB_STATUS that names no reserved value changes that register alone. -/
theorem State.tmbWrite_fits (fits : reservedValue (regFields a) w = false) (other : a ≠ Reg.TMB_STATUS) :
    s.tmbWrite a w = s.setReg a (writeFields (regFields a) (s.reg a) w (s.locked a)) := by
  have plain : s.plainWrite a w = s.setReg a (writeFields (regFields a) (s.reg a) w (s.locked a)) := by
    rw [State.plainWrite_eq, State.recorded, fits]
    rfl
  have quiet : ((s.plainWrite a w).flag Reg.TMB_STATUS Fld.TMB_STATUS_CFG_ERR && 
      !(s.flag Reg.TMB_STATUS Fld.TMB_STATUS_CFG_ERR)) = false := by
    rw [plain, State.flag_congr (State.fld_setReg_other other.symm), Bool.and_not_self]
  rw [State.tmbWrite, quiet, plain]
  rfl

/-- What an RW field then holds. -/
theorem State.fld_written_rw {f : RegField} (mem : f ∈ regFields a) (apart : fieldsApart (regFields a) = true) (rw_ : f.acc = .rw)
    (listed : f.vals = [] ∨ f.fld.get w ∈ f.vals) (lk : Bool) :
    f.fld.get (writeFields (regFields a) (s.reg a) w lk) = f.fld.get w := by
  have written : f.written (s.reg a) w lk = f.fld.get w := by
    rw [RegField.written, rw_]
    refine if_pos (Bool.or_eq_true_iff.2 ?_)
    exact listed.imp (fun h => List.isEmpty_iff.2 h) fun h => List.contains_iff_mem.2 h
  rw [writeFields_get apart _ _ _ mem, written]
  exact Nat.mod_eq_of_lt (Fld.get_lt ..)

end

/-! ## The increment (R236) -/

/-- An increment within its limits. -/
def clampIncr (v : Nat) : Nat := max incrMin (min incrMax v)

theorem clampIncr_eq (v : Nat) : clampIncr v = if v < 0x1FFBE76C9 then 0x1FFBE76C9 else if 0x200418937 < v then 0x200418937 else v := by
  unfold clampIncr incrMin incrMax
  split_ifs <;> omega

section
variable (s : State) (v : Nat)

/-- The registers and the increment of the next tick. -/
def State.incrAsked : State :=
  (State.setReg { s with tb := { s.tb with incrNext := some (clampIncr v) } } Reg.TMB_INCR_LO (BitVec.ofNat 32 (clampIncr v))).setFld
    Reg.TMB_INCR_HI Fld.TMB_INCR_HI_NS (clampIncr v / 2 ^ 32)

theorem State.commitIncr_eq : s.commitIncr v = if clampIncr v = v then s.incrAsked v else (s.incrAsked v).tmbCfgErr :=
  if_congr (by rw [Nat.beq_eq]; exact Iff.rfl) rfl rfl

theorem TimebaseOnly.commitIncr {A : List Nat} {s t : State} (h : TimebaseOnly A s t) {v : Nat} (lo : Reg.TMB_INCR_LO ∈ A := by decide)
    (hi : Reg.TMB_INCR_HI ∈ A := by decide) (status : Reg.TMB_STATUS ∈ A := by decide) : TimebaseOnly A s (t.commitIncr v) := by
  have asked : TimebaseOnly A s (t.incrAsked v) := (h.setTb.setReg lo).setFld hi
  rw [State.commitIncr_eq]
  exact asked.ite (asked.tmbEvent status)

theorem State.tb_commitIncr : (s.commitIncr v).tb = { s.tb with incrNext := some (clampIncr v) } := by
  rw [State.commitIncr_eq]
  split
  · rfl
  · rw [State.tmbCfgErr, State.tb_tmbEvent]
    rfl

/-- A committed increment stands in its registers, and CFG_ERR shows where it was clamped. -/
theorem State.commitIncr_shows : let t := s.commitIncr v
    t.reg Reg.TMB_INCR_LO = BitVec.ofNat 32 (clampIncr v) ∧ t.fld Reg.TMB_INCR_HI Fld.TMB_INCR_HI_NS = clampIncr v / 2 ^ 32 ∧
      (if clampIncr v = v then t.reg Reg.TMB_STATUS = s.reg Reg.TMB_STATUS else t.fld Reg.TMB_STATUS Fld.TMB_STATUS_CFG_ERR = 1) := by
  have lo : (s.incrAsked v).reg Reg.TMB_INCR_LO = BitVec.ofNat 32 (clampIncr v) :=
    (State.reg_setFld_other (by decide)).trans (State.reg_setReg_same ..)
  have hi : (s.incrAsked v).fld Reg.TMB_INCR_HI Fld.TMB_INCR_HI_NS = clampIncr v / 2 ^ 32 := by
    refine (State.fld_setFld_same ⟨by decide, by decide⟩).trans (Nat.mod_eq_of_lt ?_)
    show clampIncr v / 2 ^ 32 < 2 ^ 8
    rw [clampIncr_eq]
    split_ifs <;> omega
  rw [State.commitIncr_eq]
  split
  next fits => exact ⟨lo, hi, (State.reg_setFld_other (by decide)).trans (State.reg_setReg_other (by decide))⟩
  next =>
    exact ⟨(State.reg_tmbEvent (by decide)).trans lo, (State.fld_congr (State.reg_tmbEvent (by decide)) _).trans hi,
      State.fld_tmbEvent_same ⟨by decide, by decide⟩ rfl⟩

end

/-! ## Adjustments (R247) -/

section
variable (s : State) (w : Word)

theorem regFields_TMB_ADJ_CTRL : regFields Reg.TMB_ADJ_CTRL = [{ fld := Fld.TMB_ADJ_CTRL_SEC_HI, acc := .rw },
    { fld := Fld.TMB_ADJ_CTRL_MODE, acc := .rw }, { fld := Fld.TMB_ADJ_CTRL_GO, acc := .wo }] := by decide

/-- TMB_ADJ_CTRL as written. -/
def State.adjWritten : State :=
  s.setReg Reg.TMB_ADJ_CTRL (writeFields (regFields Reg.TMB_ADJ_CTRL) (s.reg Reg.TMB_ADJ_CTRL) w (s.locked Reg.TMB_ADJ_CTRL))

theorem State.tmbWrite_TMB_ADJ_CTRL : s.tmbWrite Reg.TMB_ADJ_CTRL w = s.adjWritten w :=
  State.tmbWrite_fits (by rw [regFields_TMB_ADJ_CTRL]; rfl) (by decide)

/-- An adjustment is asked for. -/
def State.askAdjust (a : Bool × Int) : State := { s with tb := { s.tb with adjusts := s.tb.adjusts ++ [a] } }

/-- What a write of TMB_ADJ_CTRL does to the adjustments asked for. -/
theorem State.writeAdjCtrl_eq : s.writeAdjCtrl w =
    let raw := (s.reg Reg.TMB_ADJ_NS).toNat
    let lo := (s.reg Reg.TMB_ADJ_SEC_LO).toNat
    let ns := signedOf 32 raw
    if Fld.TMB_ADJ_CTRL_GO.get w = 1 then
      if Fld.TMB_ADJ_CTRL_MODE.get w = 1 then
        if raw ≤ 999999999 then (s.adjWritten w).askAdjust
          (true, ((Fld.TMB_ADJ_CTRL_SEC_HI.get w * 2 ^ 32 + lo) * 1000000000 + raw : Nat)) else (s.adjWritten w).tmbCfgErr
      else if -999999999 ≤ ns ∧ ns ≤ 999999999 then (s.adjWritten w).askAdjust (false, signedOf 32 lo * 1000000000 + ns)
        else (s.adjWritten w).tmbCfgErr
    else s.adjWritten w := by
  have bit (f : Fld) (one : f.hi = f.lo) : Nat.beq (f.get w) 0 = true ↔ ¬ f.get w = 1 := by
    have fits := f.get_lt w
    rw [one, Nat.add_sub_cancel_left] at fits
    rw [Nat.beq_eq]
    omega
  have raw : s.fld Reg.TMB_ADJ_NS Fld.TMB_ADJ_NS_NS = (s.reg Reg.TMB_ADJ_NS).toNat := Fld.get_whole _
  have lo : s.fld Reg.TMB_ADJ_SEC_LO Fld.TMB_ADJ_SEC_LO_SEC_LO = (s.reg Reg.TMB_ADJ_SEC_LO).toNat := Fld.get_whole _
  unfold State.writeAdjCtrl
  simp only [s.tmbWrite_TMB_ADJ_CTRL, raw, lo, bit _ (show Fld.TMB_ADJ_CTRL_GO.hi = Fld.TMB_ADJ_CTRL_GO.lo from rfl),
    bit _ (show Fld.TMB_ADJ_CTRL_MODE.hi = Fld.TMB_ADJ_CTRL_MODE.lo from rfl), Bool.or_eq_true, decide_eq_true_eq, Nat.blt_eq,
    ← Int.not_le, ← not_and_or, ← Nat.not_le, ite_not]
  rfl

/-- The adjustment that a write of TMB_ADJ_CTRL names is one that the timebase takes. -/
def State.adjOk : Prop :=
  if Fld.TMB_ADJ_CTRL_MODE.get w = 1 then (s.reg Reg.TMB_ADJ_NS).toNat ≤ 999999999
  else -999999999 ≤ signedOf 32 (s.reg Reg.TMB_ADJ_NS).toNat ∧ signedOf 32 (s.reg Reg.TMB_ADJ_NS).toNat ≤ 999999999

/-- That adjustment. -/
def State.adjOf : Bool × Int :=
  if Fld.TMB_ADJ_CTRL_MODE.get w = 1 then
    (true, ((Fld.TMB_ADJ_CTRL_SEC_HI.get w * 2 ^ 32 + (s.reg Reg.TMB_ADJ_SEC_LO).toNat) * 1000000000 + (s.reg Reg.TMB_ADJ_NS).toNat : Nat))
  else (false, signedOf 32 (s.reg Reg.TMB_ADJ_SEC_LO).toNat * 1000000000 + signedOf 32 (s.reg Reg.TMB_ADJ_NS).toNat)

section
variable {s : State} {w : Word}

theorem State.writeAdjCtrl_idle (idle : Fld.TMB_ADJ_CTRL_GO.get w ≠ 1) : s.writeAdjCtrl w = s.adjWritten w :=
  s.writeAdjCtrl_eq w |>.trans (if_neg idle)

theorem State.writeAdjCtrl_asks (go : Fld.TMB_ADJ_CTRL_GO.get w = 1) (ok : s.adjOk w) :
    s.writeAdjCtrl w = (s.adjWritten w).askAdjust (s.adjOf w) := by
  refine (s.writeAdjCtrl_eq w).trans ((if_pos go).trans ?_)
  unfold State.adjOk at ok
  unfold State.adjOf
  by_cases absolute : Fld.TMB_ADJ_CTRL_MODE.get w = 1
  · rw [if_pos absolute] at ok ⊢
    rw [if_pos ok, if_pos absolute]
  · rw [if_neg absolute] at ok ⊢
    rw [if_pos ok, if_neg absolute]

theorem State.writeAdjCtrl_denied (go : Fld.TMB_ADJ_CTRL_GO.get w = 1) (bad : ¬ s.adjOk w) :
    s.writeAdjCtrl w = (s.adjWritten w).tmbCfgErr := by
  refine (s.writeAdjCtrl_eq w).trans ((if_pos go).trans ?_)
  unfold State.adjOk at bad
  by_cases absolute : Fld.TMB_ADJ_CTRL_MODE.get w = 1
  · rw [if_pos absolute] at bad ⊢
    exact if_neg bad
  · rw [if_neg absolute] at bad ⊢
    exact if_neg bad

end

end

/-! ## Source and servo (R244, R530) -/

section
variable {s : State} {w : Word}

theorem regFields_TMB_CTRL : regFields Reg.TMB_CTRL = [{ fld := Fld.TMB_CTRL_PPS_W, acc := .rw },
    { fld := Fld.TMB_CTRL_SOURCE, acc := .rw, vals := [0, 1, 2] }, { fld := Fld.TMB_CTRL_DOMAIN, acc := .rw },
    { fld := Fld.TMB_CTRL_PPS_OUT_EN, acc := .rw }, { fld := Fld.TMB_CTRL_STEP_EN, acc := .rw, reset := 1 },
    { fld := Fld.TMB_CTRL_SERVO_EN, acc := .rw }] := by decide

theorem regFields_TMB_CTRL_apart : fieldsApart (regFields Reg.TMB_CTRL) = true := by
  rw [regFields_TMB_CTRL]
  decide

/-- TMB_CTRL with a SOURCE that is not reserved holds what is written. -/
theorem State.tmbWrite_TMB_CTRL (source : Fld.TMB_CTRL_SOURCE.get w ≠ 3) : ∃ v, s.tmbWrite Reg.TMB_CTRL w = s.setReg Reg.TMB_CTRL v ∧
    Fld.TMB_CTRL_SOURCE.get v = Fld.TMB_CTRL_SOURCE.get w ∧ Fld.TMB_CTRL_DOMAIN.get v = Fld.TMB_CTRL_DOMAIN.get w ∧
    Fld.TMB_CTRL_SERVO_EN.get v = Fld.TMB_CTRL_SERVO_EN.get w := by
  have listed : Fld.TMB_CTRL_SOURCE.get w ∈ [0, 1, 2] := by
    have fits : Fld.TMB_CTRL_SOURCE.get w < 4 := Fld.get_lt ..
    simp only [List.mem_cons, List.not_mem_nil, or_false]
    omega
  have fits : reservedValue (regFields Reg.TMB_CTRL) w = false := by
    rw [regFields_TMB_CTRL]
    simp only [reservedValue, List.any_cons, List.any_nil, List.contains_iff_mem.2 listed]
    rfl
  have held {f : RegField} (mem : f ∈ regFields Reg.TMB_CTRL) :=
    State.fld_written_rw (s := s) (w := w) mem regFields_TMB_CTRL_apart
  rw [regFields_TMB_CTRL] at held
  refine ⟨_, State.tmbWrite_fits fits (by decide), ?_, ?_, ?_⟩
  · exact held (f := { fld := Fld.TMB_CTRL_SOURCE, acc := .rw, vals := [0, 1, 2] }) (by simp) rfl (.inr listed) _
  · exact held (f := { fld := Fld.TMB_CTRL_DOMAIN, acc := .rw }) (by simp) rfl (.inl rfl) _
  · exact held (f := { fld := Fld.TMB_CTRL_SERVO_EN, acc := .rw }) (by simp) rfl (.inl rfl) _

/-- The servo starts from the increment that software left, where SERVO_EN has risen. -/
def State.servoStarts (s : State) (rises : Bool) : State :=
  if rises then { s with tb := { s.tb with integ := integOf (s.tb.incrNext.getD s.tb.incr) } } else s

/-- The timebase gives up its lock and acquires; a holdover that TBREF has not caused ends. -/
def State.reacquire (s : State) : State :=
  let s1 := State.unlock { s with tb := { s.tb with acquiring := true, holdGood := 0 } }
  if s1.inHoldover then
    s1.leaveHoldover { source := false, tbref := s1.tb.hold.tbref && (s1.tb.tbrefOut || Nat.blt s1.tmbSource 2) }
  else s1

/-- PPS_OUT is no longer driven where PPS_OUT_EN is 0. -/
def State.ppsStops (s : State) : State :=
  if s.flag Reg.TMB_CTRL Fld.TMB_CTRL_PPS_OUT_EN then s
  else { s with pins := { s.pins with ppsOut := false }, tb := { s.tb with ppsEnd := none } }

theorem State.ppsStops_only (s : State) : PpsOnly s s.ppsStops := PpsOnly.ite (.refl s) ⟨_, _, rfl⟩

/-- SERVO_EN, SOURCE and DOMAIN of `t` against those of `s`. -/
def State.servoRises (s t : State) : Bool := t.flag Reg.TMB_CTRL Fld.TMB_CTRL_SERVO_EN && !(s.flag Reg.TMB_CTRL Fld.TMB_CTRL_SERVO_EN)

def State.sameSource (s t : State) : Bool :=
  Nat.beq t.tmbSource s.tmbSource && Nat.beq (t.fld Reg.TMB_CTRL Fld.TMB_CTRL_DOMAIN) (s.fld Reg.TMB_CTRL Fld.TMB_CTRL_DOMAIN)

theorem State.writeTmbCtrl_eq (s : State) (w : Word) : s.writeTmbCtrl w = let s1 := s.tmbWrite Reg.TMB_CTRL w
    let s2 := s1.servoStarts (s.servoRises s1)
    (if s.sameSource s1 then s2 else s2.reacquire).ppsStops := (rfl)

theorem State.fld_leaveHoldover {c : HoldCause} {g : Fld} (ok : g.ok) (apart : Fld.TMB_STATUS_HOLDOVER.apart g) :
    (s.leaveHoldover c).fld Reg.TMB_STATUS g = s.fld Reg.TMB_STATUS g := by
  unfold State.leaveHoldover
  dsimp only
  split
  · rfl
  · exact State.fld_setFld_apart ⟨by decide, by decide⟩ ok apart

theorem TimebaseOnly.reacquire {A : List Nat} {t : State} (h : TimebaseOnly A s t) (status : Reg.TMB_STATUS ∈ A := by decide) :
    TimebaseOnly A s t.reacquire := by
  have unlocked : TimebaseOnly A s (State.unlock { t with tb := { t.tb with acquiring := true, holdGood := 0 } }) := h.setTb.unlock status
  exact (unlocked.leaveHoldover status).ite unlocked

theorem State.reacquire_shows (s : State) : let t := s.reacquire
    t.tb.acquiring = true ∧ t.tb.integ = s.tb.integ ∧ t.fld Reg.TMB_STATUS Fld.TMB_STATUS_LOCKED = 0 ∧
      (s.fld Reg.TMB_STATUS Fld.TMB_STATUS_LOCKED = 1 → t.fld Reg.TMB_STATUS Fld.TMB_STATUS_LOCK_LOST = 1) ∧
      (s.tb.hold.tbref = false → t.inHoldover = false) := by
  have tb := State.tb_unlock { s with tb := { s.tb with acquiring := true, holdGood := 0 } }
  have locked := State.LOCKED_unlock { s with tb := { s.tb with acquiring := true, holdGood := 0 } }
  have lost := State.LOCK_LOST_unlock (s := { s with tb := { s.tb with acquiring := true, holdGood := 0 } })
  unfold State.reacquire
  generalize State.unlock { s with tb := { s.tb with acquiring := true, holdGood := 0 } } = u at *
  dsimp only
  split
  · refine ⟨by rw [State.tb_leaveHoldover, tb], by rw [State.tb_leaveHoldover, tb],
      (State.fld_leaveHoldover ⟨by decide, by decide⟩ (.inr (by decide))).trans locked,
      fun was => (State.fld_leaveHoldover ⟨by decide, by decide⟩ (.inl (by decide))).trans (lost was), fun free => ?_⟩
    rw [State.leaveHoldover_inHoldover, show u.tb.hold.tbref = false by rw [tb]; exact free]
    simp
  next out => exact ⟨by rw [tb], by rw [tb], locked, lost, fun _ => Bool.eq_false_iff.2 out⟩

theorem State.servoStarts_shows (s : State) (rises : Bool) : TimebaseOnly [] s (s.servoStarts rises) ∧
    (s.servoStarts rises).tb = { s.tb with integ := if rises then integOf (s.tb.incrNext.getD s.tb.incr) else s.tb.integ } := by
  cases rises
  · exact ⟨.rfl, rfl⟩
  · exact ⟨TimebaseOnly.rfl.setTb, rfl⟩

theorem State.sameSource_iff {s t : State} : s.sameSource t = true ↔
    t.tmbSource = s.tmbSource ∧ t.fld Reg.TMB_CTRL Fld.TMB_CTRL_DOMAIN = s.fld Reg.TMB_CTRL Fld.TMB_CTRL_DOMAIN := by
  rw [State.sameSource, Bool.and_eq_true, Nat.beq_eq, Nat.beq_eq]

theorem State.servoRises_iff {s t : State} : s.servoRises t = true ↔
    t.fld Reg.TMB_CTRL Fld.TMB_CTRL_SERVO_EN = 1 ∧ s.fld Reg.TMB_CTRL Fld.TMB_CTRL_SERVO_EN = 0 := by
  rw [State.servoRises, Bool.and_eq_true, State.flag_eq_true_iff, Bool.not_eq_true', State.fld_one_iff rfl]

/-- What a write of TMB_CTRL does to the source and the servo. -/
def CtrlWritten (s : State) (w : Word) (t : State) : Prop :=
  t.now = s.now ∧ t.mem = s.mem ∧
    t.tmbSource = Fld.TMB_CTRL_SOURCE.get w ∧ t.fld Reg.TMB_CTRL Fld.TMB_CTRL_DOMAIN = Fld.TMB_CTRL_DOMAIN.get w ∧
    t.fld Reg.TMB_CTRL Fld.TMB_CTRL_SERVO_EN = Fld.TMB_CTRL_SERVO_EN.get w ∧
    (t.tb.integ = if Fld.TMB_CTRL_SERVO_EN.get w = 1 ∧ s.fld Reg.TMB_CTRL Fld.TMB_CTRL_SERVO_EN = 0 then
      integOf (s.tb.incrNext.getD s.tb.incr) else s.tb.integ) ∧
    if Fld.TMB_CTRL_SOURCE.get w = s.tmbSource ∧ Fld.TMB_CTRL_DOMAIN.get w = s.fld Reg.TMB_CTRL Fld.TMB_CTRL_DOMAIN then
      t.tb.acquiring = s.tb.acquiring ∧ t.inHoldover = s.inHoldover
    else t.tb.acquiring = true ∧ t.fld Reg.TMB_STATUS Fld.TMB_STATUS_LOCKED = 0 ∧
      (s.fld Reg.TMB_STATUS Fld.TMB_STATUS_LOCKED = 1 → t.fld Reg.TMB_STATUS Fld.TMB_STATUS_LOCK_LOST = 1) ∧
      (s.tb.hold.tbref = false → t.inHoldover = false)

/-- PPS_OUT is apart from source and servo. -/
theorem CtrlWritten.pps {t u : State} (h : CtrlWritten s w t) (k : PpsOnly t u) : CtrlWritten s w u := by
  obtain ⟨ppsOut, ppsEnd, rfl⟩ := k
  exact h

/-- The label that a write finds is apart as well, and so is the answer. -/
theorem CtrlWritten.of_relabel {t : State} {req : Req} (h : CtrlWritten (s.relabel req) w t) : CtrlWritten s w t := by
  have tb : (s.relabel req).tb = s.tb := s.relabel_apart req State.tb fun _ => rfl
  have now : (s.relabel req).now = s.now := s.relabel_apart req State.now fun _ => rfl
  have ctrl (f : Fld) : (s.relabel req).fld Reg.TMB_CTRL f = s.fld Reg.TMB_CTRL f := s.fld_relabel req _ (by decide)
  have status (f : Fld) : (s.relabel req).fld Reg.TMB_STATUS f = s.fld Reg.TMB_STATUS f := s.fld_relabel req _ (by decide)
  rwa [CtrlWritten, tb, now, s.relabel_mem req, State.tmbSource, State.tmbSource, ctrl, ctrl, ctrl, status,
    State.inHoldover_congr (t := s.relabel req) (s := s) (status _)] at h

theorem CtrlWritten.answer {t : State} (h : CtrlWritten s w t) {e : Resp} {d : List Byte} : CtrlWritten s w (t.answer e d) := h

theorem State.writeTmbCtrl_shows (source : Fld.TMB_CTRL_SOURCE.get w ≠ 3) : CtrlWritten s w (s.writeTmbCtrl w) := by
  obtain ⟨v, written, src, dom, servo⟩ := State.tmbWrite_TMB_CTRL (s := s) source
  have ctrl (f : Fld) : (s.setReg Reg.TMB_CTRL v).fld Reg.TMB_CTRL f = f.get v := congrArg f.get (State.reg_setReg_same ..)
  have same : s.sameSource (s.setReg Reg.TMB_CTRL v) = true ↔ Fld.TMB_CTRL_SOURCE.get w = s.tmbSource ∧
      Fld.TMB_CTRL_DOMAIN.get w = s.fld Reg.TMB_CTRL Fld.TMB_CTRL_DOMAIN := by
    rw [State.sameSource_iff, State.tmbSource, ctrl, ctrl, src, dom]
  have rises : s.servoRises (s.setReg Reg.TMB_CTRL v) = true ↔ Fld.TMB_CTRL_SERVO_EN.get w = 1 ∧
      s.fld Reg.TMB_CTRL Fld.TMB_CTRL_SERVO_EN = 0 := by
    rw [State.servoRises_iff, ctrl, servo]
  obtain ⟨only, tb⟩ := (s.setReg Reg.TMB_CTRL v).servoStarts_shows (s.servoRises (s.setReg Reg.TMB_CTRL v))
  have integ : ((s.setReg Reg.TMB_CTRL v).servoStarts (s.servoRises (s.setReg Reg.TMB_CTRL v))).tb.integ =
      if Fld.TMB_CTRL_SERVO_EN.get w = 1 ∧ s.fld Reg.TMB_CTRL Fld.TMB_CTRL_SERVO_EN = 0 then
        integOf (s.tb.incrNext.getD s.tb.incr) else s.tb.integ := by
    rw [tb]
    exact if_congr rises rfl rfl
  rw [State.writeTmbCtrl_eq, written]
  refine CtrlWritten.pps ?_ (State.ppsStops_only _)
  have status : (s.setReg Reg.TMB_CTRL v).reg Reg.TMB_STATUS = s.reg Reg.TMB_STATUS := State.reg_setReg_other (by decide)
  generalize (s.setReg Reg.TMB_CTRL v).servoStarts (s.servoRises (s.setReg Reg.TMB_CTRL v)) = u at *
  have shown (f : Fld) : u.fld Reg.TMB_STATUS f = s.fld Reg.TMB_STATUS f :=
    State.fld_congr ((only.reg _ (List.not_mem_nil)).trans status) f
  have kept (f : Fld) : u.fld Reg.TMB_CTRL f = f.get v := (State.fld_congr (only.reg _ List.not_mem_nil) f).trans (ctrl f)
  have mem : u.mem = s.mem := only.eq State.mem fun _ _ _ _ _ => rfl
  split
  next h =>
    refine ⟨only.now, mem, (kept _).trans src, (kept _).trans dom, (kept _).trans servo, integ, ?_⟩
    rw [if_pos (same.1 h)]
    exact ⟨by rw [tb]; rfl, State.inHoldover_congr (shown _)⟩
  next h =>
    have acquires : TimebaseOnly [Reg.TMB_STATUS] u u.reacquire := TimebaseOnly.rfl.reacquire
    obtain ⟨acquiring, integSame, locked, lost, free⟩ := u.reacquire_shows
    have ctrlSame (f : Fld) : u.reacquire.fld Reg.TMB_CTRL f = f.get v :=
      (State.fld_congr (acquires.reg _ (by decide)) f).trans (kept f)
    refine ⟨acquires.now.trans only.now, (acquires.eq State.mem fun _ _ _ _ _ => rfl).trans mem, (ctrlSame _).trans src,
      (ctrlSame _).trans dom, (ctrlSame _).trans servo, integSame.trans integ, ?_⟩
    rw [if_neg fun h' => h (same.2 h')]
    exact ⟨acquiring, locked, fun was => lost ((shown _).trans was), fun none => free (by rw [tb]; exact none)⟩

end

/-! ## The time as it is read (R239) -/

theorem State.reg_latchSec (s : State) {a : Nat} (lo : a ≠ Reg.TMB_NOW_SEC_LO) (hi : a ≠ Reg.TMB_NOW_SEC_HI) :
    s.latchSec.reg a = s.reg a := (State.reg_setReg_other hi).trans (State.reg_setReg_other lo)

theorem State.latchSec_shows (s : State) : s.latchSec.reg Reg.TMB_NOW_SEC_LO = s.tb.sec.setWidth 32 ∧
    s.latchSec.reg Reg.TMB_NOW_SEC_HI = (s.tb.sec >>> 32).setWidth 32 :=
  ⟨(State.reg_setReg_other (by decide)).trans (State.reg_setReg_same ..), State.reg_setReg_same ..⟩

/-! ## The timeout of holdover (R249, R530) -/

/-- How long holdover waits for an offset, in elapsed time. -/
def State.holdLimit (s : State) : Nat :=
  3000000 * usE / (if s.tmbSource = 0 then 2 ^ s.fld Reg.TMB_SERVO Fld.TMB_SERVO_SYNC_LOG else 1)

theorem exec_holdoverTimeout {s : State} {t0 : Nat} (last : s.tb.lastOfs = some t0) (acquired : s.tb.acquiring = false)
    (source : s.tmbSource < 2) : exec .holdoverTimeout s =
      .next (if t0 + s.holdLimit ≤ s.tb.elapsed then s.enterHoldover { s.tb.hold with source := true } else s) := by
  have due : (!s.tb.acquiring && Nat.blt s.tmbSource 2 && Nat.ble (t0 + s.holdLimit) s.tb.elapsed) = true ↔
      t0 + s.holdLimit ≤ s.tb.elapsed := by
    rw [acquired, (Nat.blt_eq ▸ source : Nat.blt s.tmbSource 2 = true), Bool.not_false, Bool.true_and, Bool.true_and, Nat.ble_eq]
  have limit : s.holdLimit = 3000000 * usE / (if Nat.beq s.tmbSource 0 then 2 ^ s.fld Reg.TMB_SERVO Fld.TMB_SERVO_SYNC_LOG else 1) := by
    simp only [State.holdLimit, Nat.beq_eq]
  show execHoldoverTimeout s = _
  unfold execHoldoverTimeout
  simp only [last, ← limit, due]

end Sys2Proof.Machine
end

section
open Sys2Proof Sys2Proof.Machine

/-- Settles O34: the tick is the advance followed by its adjustments, each of which is a step only where the time changes; and the writes
and reads of the timebase do what their rules say. -/
theorem timebaseKeepsTime : Obligations.TimebaseKeepsTime := by
  refine ⟨fun s => ⟨timebaseTick_none, fun abs x one => ?_⟩, fun s e pulse => ?_, fun s req w grants => ?_, fun s req w grants => ?_,
    fun s req grants => ?_, fun s req w grants source i row => ?_, fun s t0 last acquired source free => ?_⟩
  · intro t2
    obtain ⟨t, run, ticked, now, frac, same, differ⟩ := timebaseTick_adjusts one (t2 := t2) rfl
    refine ⟨t, run, ticked, now, frac, ?_⟩
    change if t2 = s.tickNow then _ else _
    by_cases still : t2 = s.tickNow
    · rw [if_pos still]
      exact same still
    · rw [if_neg still]
      exact differ still
  · have run := exec_ppsOutEnd pulse
    split
    next ends => exact ⟨_, run.trans (congrArg _ (if_pos ends)), rfl, rfl, rfl⟩
    next later => exact run.trans (congrArg _ (if_neg later))
  · intro v c
    have asked : Fld.TMB_INCR_HI_NS.get w * 2 ^ 32 + (s.relabel req).fld Reg.TMB_INCR_LO Fld.TMB_INCR_LO_FRAC = v :=
      congrArg (_ + ·) ((s.fld_relabel req _ (by decide)).trans (Fld.get_whole _))
    have clamped : clampIncr v = c := clampIncr_eq v
    obtain ⟨lo, hi, status⟩ := (s.relabel req).commitIncr_shows v
    have only : TimebaseOnly [Reg.TMB_INCR_LO, Reg.TMB_INCR_HI, Reg.TMB_STATUS] (s.relabel req) ((s.relabel req).commitIncr v) :=
      TimebaseOnly.rfl.commitIncr
    have tb := (s.relabel req).tb_commitIncr v
    have effect : (s.relabel req).writeIncrHi w = (s.relabel req).commitIncr v := congrArg (s.relabel req).commitIncr asked
    rw [clamped] at lo hi status tb
    rw [s.reg_relabel req (by decide)] at status
    rw [s.relabel_apart req State.tb fun _ => rfl] at tb
    have mem := (only.eq State.mem fun _ _ _ _ _ => rfl).trans (s.relabel_mem req)
    refine ⟨_, next_of_granted grants rfl effect, rfl, (State.answer_tb ..).trans tb, (State.answer_mem ..).trans mem,
      (State.reg_answer ..).trans lo, (State.fld_answer ..).trans hi, ?_, fun a out => (State.reg_answer ..).trans (only.reg a out)⟩
    rw [State.reg_answer, State.fld_answer]
    exact status
  · intro raw lo absolute ns ok adj i row
    have run : exec i s = .next (s.busWrite req Reg.TMB_ADJ_CTRL w (·.writeAdjCtrl w)) := by
      rcases List.mem_cons.1 row with rfl | row
      · rfl
      · rw [List.mem_singleton.1 row]; rfl
    have okSame : (s.relabel req).adjOk w = ok := by
      rw [State.adjOk, s.reg_relabel req (by decide)]
    have adjSame : (s.relabel req).adjOf w = adj := by
      rw [State.adjOf, s.reg_relabel req (by decide), s.reg_relabel req (by decide)]
    have tb : (s.relabel req).tb = s.tb := s.relabel_apart req State.tb fun _ => rfl
    have now : (s.relabel req).now = s.now := s.relabel_apart req State.now fun _ => rfl
    by_cases go : Fld.TMB_ADJ_CTRL_GO.get w = 1
    · by_cases good : ok
      · refine ⟨_, next_of_granted grants run (State.writeAdjCtrl_asks go (okSame ▸ good)), s.relabel_mem req, now, ?_⟩
        rw [if_pos go, if_pos good, adjSame, ← tb]
        rfl
      · have only : TimebaseOnly [Reg.TMB_STATUS] ((s.relabel req).adjWritten w) ((s.relabel req).adjWritten w).tmbCfgErr :=
          TimebaseOnly.rfl.tmbEvent
        refine ⟨_, next_of_granted grants run (State.writeAdjCtrl_denied go (okSame ▸ good)),
          (only.eq State.mem fun _ _ _ _ _ => rfl).trans (s.relabel_mem req), only.now.trans now, ?_⟩
        rw [if_pos go, if_neg good]
        exact ⟨(State.tb_tmbEvent ..).trans tb, State.fld_tmbEvent_same ⟨by decide, by decide⟩ rfl⟩
    · refine ⟨_, next_of_granted grants run (State.writeAdjCtrl_idle go), s.relabel_mem req, now, ?_⟩
      rw [if_neg go]
      exact tb
  · have run : exec (.tmbNowNsRead req) s = .next (s.busRead req Reg.TMB_NOW_NS (fun s => BitVec.ofNat 32 s.tb.ns) (·.latchSec)) := rfl
    have tb : (s.relabel req).tb = s.tb := s.relabel_apart req State.tb fun _ => rfl
    obtain ⟨lo, hi⟩ := (s.relabel req).latchSec_shows
    rw [tb] at lo hi
    refine ⟨_, run.trans (congrArg _ (State.busRead_okay grants.2 grants.1)), ?_, ?_, lo, hi,
      fun a lo hi => (s.relabel req).reg_latchSec lo hi⟩
    · rw [s.relabel_frame req]
      rfl
    · rw [tb]
      rfl
  · have run : exec i s = .next (s.busWrite req Reg.TMB_CTRL w (·.writeTmbCtrl w)) := by
      rcases List.mem_cons.1 row with rfl | row
      · rfl
      · rw [List.mem_singleton.1 row]; rfl
    have shows : CtrlWritten (s.relabel req) w _ := State.writeTmbCtrl_shows source
    exact ⟨_, next_of_granted grants run rfl, shows.of_relabel.answer⟩
  · have run := exec_holdoverTimeout last acquired source
    change if t0 + s.holdLimit ≤ s.tb.elapsed then _ else _
    by_cases due : t0 + s.holdLimit ≤ s.tb.elapsed
    · rw [if_pos due] at run ⊢
      obtain ⟨on, hold, ms, locked, errs, tb⟩ := State.enterHoldover_shows free { s.tb.hold with source := true }
      have only : TimebaseOnly [Reg.TMB_STATUS, Reg.TMB_HOLD] s (s.enterHoldover { s.tb.hold with source := true }) :=
        TimebaseOnly.rfl.enterHoldover
      exact ⟨_, run, (State.flag_eq_true_iff ..).2 on, hold, ms, locked, by rw [tb], by rw [tb], errs, only.now⟩
    · rw [if_neg due] at run ⊢
      exact run

end

section
/-!
SUPPORT. Offsets of the timebase's source (R243 to R246, R250): what Fantail changes, and what an offset leaves in TMB_LAST_OFS.
-/

namespace Sys2Proof.Machine

/-! ## What Fantail changes -/

/-- From `s` to `t` nothing changes but the increment, the fields of TMB_STATUS below CAP, interrupts, and what the timebase holds beside its
time, its pins and its latest offset. -/
structure ServoOnly (s t : State) : Prop where
  only : TimebaseOnly [Reg.TMB_STATUS, Reg.TMB_INCR_LO, Reg.TMB_INCR_HI] s t
  status : ∀ g : Fld, g.ok → 5 < g.lo → t.fld Reg.TMB_STATUS g = s.fld Reg.TMB_STATUS g
  pins : t.tb.pins = s.tb.pins
  lastOfs : t.tb.lastOfs = s.tb.lastOfs
  acquiring : t.tb.acquiring = s.tb.acquiring

namespace ServoOnly

variable {s t u : State}

protected theorem rfl : ServoOnly s s := ⟨.rfl, fun _ _ _ => Eq.refl _, Eq.refl _, Eq.refl _, Eq.refl _⟩

theorem trans (h : ServoOnly s t) (k : ServoOnly t u) : ServoOnly s u :=
  ⟨h.only.trans k.only, fun g ok high => (k.status g ok high).trans (h.status g ok high), k.pins.trans h.pins,
    k.lastOfs.trans h.lastOfs, k.acquiring.trans h.acquiring⟩

theorem ite {p : Prop} [Decidable p] (h : ServoOnly s t) (k : ServoOnly s u) : ServoOnly s (if p then t else u) := by
  split <;> assumption

theorem setTb (h : ServoOnly s t) {b : Timebase} (sec : b.sec = t.tb.sec := by rfl) (ns : b.ns = t.tb.ns := by rfl)
    (pins : b.pins = t.tb.pins := by rfl) (lastOfs : b.lastOfs = t.tb.lastOfs := by rfl)
    (acquiring : b.acquiring = t.tb.acquiring := by rfl) : ServoOnly s { t with tb := b } :=
  h.trans ⟨TimebaseOnly.rfl.setTb sec ns, fun _ _ _ => Eq.refl _, pins, lastOfs, acquiring⟩

/-- A field of TMB_STATUS below CAP is written. -/
theorem setStatus (h : ServoOnly s t) {f : Fld} {v : Nat} (ok : f.ok) (low : f.hi ≤ 5) : ServoOnly s (t.setFld Reg.TMB_STATUS f v) :=
  h.trans ⟨TimebaseOnly.rfl.setFld (by decide), fun _ gok high => State.fld_setFld_apart ok gok (.inl (by omega)), Eq.refl _,
    Eq.refl _, Eq.refl _⟩

theorem setIncr (h : ServoOnly s t) {a : Nat} {w : Word} (mem : a ∈ [Reg.TMB_INCR_LO, Reg.TMB_INCR_HI]) : ServoOnly s (t.setReg a w) :=
  have other : Reg.TMB_STATUS ≠ a := by rintro rfl; exact absurd mem (by decide)
  h.trans ⟨TimebaseOnly.rfl.setReg (List.mem_cons_of_mem _ mem), fun _ _ _ => State.fld_setReg_other other, Eq.refl _, Eq.refl _,
    Eq.refl _⟩

theorem tmbEvent (h : ServoOnly s t) {f : Fld} {k : Nat} (ok : f.ok) (low : f.hi ≤ 5) : ServoOnly s (t.tmbEvent f k) := by
  have tb := t.tb_tmbEvent f k
  exact h.trans ⟨TimebaseOnly.rfl.tmbEvent, fun _ gok high => State.fld_tmbEvent ok gok (.inl (by omega)), congrArg Timebase.pins tb,
    congrArg Timebase.lastOfs tb, congrArg Timebase.acquiring tb⟩

theorem unlock (h : ServoOnly s t) : ServoOnly s t.unlock := by
  rw [State.unlock_eq]
  exact .ite ((h.setTb.setStatus ⟨by decide, by decide⟩ (by decide)).tmbEvent ⟨by decide, by decide⟩ (by decide)) h.setTb

theorem leaveHoldover (h : ServoOnly s t) {c : HoldCause} : ServoOnly s (t.leaveHoldover c) :=
  .ite h.setTb (h.setTb.setStatus ⟨by decide, by decide⟩ (by decide))

theorem commitIncr (h : ServoOnly s t) {v : Nat} : ServoOnly s (t.commitIncr v) := by
  have asked : ServoOnly s (t.incrAsked v) := (h.setTb.setIncr (by decide)).setIncr (by decide)
  rw [State.commitIncr_eq]
  exact asked.ite (asked.tmbEvent ⟨by decide, by decide⟩ (by decide))

theorem servoUpdate (h : ServoOnly s t) {theta dt : Rat} : ServoOnly s (t.servoUpdate theta dt) := h.setTb.commitIncr

theorem lockUpdate (h : ServoOnly s t) {theta : Int} : ServoOnly s (t.lockUpdate theta) :=
  h.unlock.ite (h.setTb.ite ((h.setTb.setStatus ⟨by decide, by decide⟩ (by decide)).ite h.setTb))

end ServoOnly

/-! ## An offset (R243) -/

section
variable (s : State) (theta : Int)

/-- The offset is noted. -/
def State.offsetNoted : State :=
  State.setReg { s with
    tb := { s.tb with lastOfs := some s.tb.elapsed, acquiring := false, holdGood := s.tb.holdGood + 1 }
    ticks := s.ticks + 1 } Reg.TMB_LAST_OFS (BitVec.ofInt 32 (clampInt (1 - 2 ^ 31) (2 ^ 31 - 1) (s.lastOfs theta)))

theorem State.offset_servo : ServoOnly (s.offsetNoted theta) (s.offset theta) := by
  unfold State.offset
  extract_lets dt t tb1 s1 s2 s3
  have noted : ServoOnly (s.offsetNoted theta) s1 := .rfl
  have left : ServoOnly (s.offsetNoted theta) s2 := noted.leaveHoldover.ite noted
  have locked : ServoOnly (s.offsetNoted theta) s3 := left.lockUpdate
  exact left.ite ((locked.setTb.ite locked.servoUpdate).ite locked)

/-- An offset keeps the time, the pins and the fields of TMB_STATUS from CAP on. -/
theorem State.offset_only : TimebaseOnly [Reg.TMB_LAST_OFS, Reg.TMB_STATUS, Reg.TMB_INCR_LO, Reg.TMB_INCR_HI] s (s.offset theta) :=
  have noted : TimebaseOnly [Reg.TMB_LAST_OFS, Reg.TMB_STATUS, Reg.TMB_INCR_LO, Reg.TMB_INCR_HI] s (s.offsetNoted theta) :=
    ⟨rfl, rfl, fun _ out => State.reg_setReg_other fun e => out (e ▸ List.mem_cons_self ..)⟩
  noted.trans ((s.offset_servo theta).only.mono (List.subset_cons_self ..))

theorem State.pins_offset : (s.offset theta).tb.pins = s.tb.pins := (s.offset_servo theta).pins

theorem State.fld_offset {g : Fld} (ok : g.ok) (high : 5 < g.lo) : (s.offset theta).fld Reg.TMB_STATUS g = s.fld Reg.TMB_STATUS g :=
  ((s.offset_servo theta).status g ok high).trans (State.fld_setReg_other (by decide))

/-- The latest offset and when it came. -/
theorem State.offset_shows : (s.offset theta).tb.lastOfs = some s.tb.elapsed ∧ (s.offset theta).tb.acquiring = false ∧
    (s.offset theta).reg Reg.TMB_LAST_OFS = BitVec.ofInt 32 (clampInt (1 - 2 ^ 31) (2 ^ 31 - 1) (s.lastOfs theta)) :=
  ⟨(s.offset_servo theta).lastOfs, (s.offset_servo theta).acquiring,
    ((s.offset_servo theta).only.reg _ (by decide)).trans (State.reg_setReg_same ..)⟩

/-- TMB_LAST_OFS is within a nanosecond of the offset. -/
theorem State.lastOfs_within : 256 * s.lastOfs theta - 256 < theta ∧ theta < 256 * s.lastOfs theta + 256 := by
  have whole := Int.emod_add_mul_ediv theta 256
  have low := Int.emod_nonneg theta (b := 256) (by decide)
  have high := Int.emod_lt_of_pos theta (b := 256) (by decide)
  have free := Nat.mod_lt (Config.freeValue s.ticks) (y := 2) (by decide)
  unfold State.lastOfs
  split
  next exactly =>
    have := beq_iff_eq.1 exactly
    omega
  next between =>
    have := beq_eq_false_iff_ne.1 (Bool.eq_false_iff.2 between)
    omega

end

end Sys2Proof.Machine
end

section
/-!
SUPPORT. The capture pins (R256 to R258): edges that are seen, lost or captured, STUCK, and the reads of the captures.
-/

namespace Sys2Proof.Machine

open Host (Outcome)

/-- A bit that is set is cleared by taking its weight away. -/
theorem bitAt_sub_two_pow {v n k : Nat} (low : k < n) (set : bitAt v k = true) : bitAt ((v - 2 ^ k) % 2 ^ n) k = false := by
  have odd : v / 2 ^ k % 2 = 1 := beq_iff_eq.1 set
  have reach : 2 ^ k ≤ v := Nat.le_of_not_lt fun less => by rw [Nat.div_eq_of_lt less] at odd; exact absurd odd (by decide)
  rw [bitAt_eq_testBit, Nat.testBit_mod_two_pow, decide_eq_true low, Bool.true_and, ← bitAt_eq_testBit]
  refine beq_eq_false_iff_ne.2 ?_
  have whole : (v - 2 ^ k) / 2 ^ k = v / 2 ^ k - 1 := by
    simpa using Nat.sub_mul_div v (2 ^ k) 1
  rw [whole]
  omega

/-! ## The pins -/

section
variable (s : State) (n : Fin 5) (q : CapPin)

theorem State.pin_setPin_same : (s.setPin n q).pin n = q := Vector.getElem_set_self _

theorem State.pin_setPin_other {k : Fin 5} (other : k ≠ n) : (s.setPin n q).pin k = s.pin k := by
  refine Vector.getElem_set_ne (Fin.isLt _) (Fin.isLt _) fun same => other ?_
  rw [Fin.ofNat_val_eq_self, Fin.ofNat_val_eq_self] at same
  exact Fin.ext same.symm

theorem State.pin_congr {s t : State} (h : t.tb.pins = s.tb.pins) (k : Nat) : t.pin k = s.pin k := by rw [State.pin, h, State.pin]

theorem Reg.TMB_CAP_SEC_HI_ne_STATUS : Reg.TMB_STATUS ≠ Reg.TMB_CAP_SEC_HI n := by unfold Reg.TMB_STATUS Reg.TMB_CAP_SEC_HI; omega

theorem Reg.TMB_CAP_OVR_ne_STATUS : Reg.TMB_STATUS ≠ Reg.TMB_CAP_OVR n := by unfold Reg.TMB_STATUS Reg.TMB_CAP_OVR; omega

end

/-! ## CAP (R240, R257) -/

section
variable (s : State) (n : Fin 5)

/-- FILL of a pin follows its FIFO. -/
def State.fillShown (s : State) (n : Nat) : State := s.setFld (Reg.TMB_CAP_SEC_HI n) Fld.TMB_CAP_SEC_HI_FILL (s.pin n).fifo.length

/-- CAP without pin n. -/
def State.capCleared (s : State) (n : Nat) : State :=
  let old := s.fld Reg.TMB_STATUS Fld.TMB_STATUS_CAP
  (s.fillShown n).setFld Reg.TMB_STATUS Fld.TMB_STATUS_CAP (old - (if bitAt old n then 2 ^ n else 0))

/-- CAP with pin n. -/
def State.capSet (s : State) (n : Nat) : State :=
  let old := s.fld Reg.TMB_STATUS Fld.TMB_STATUS_CAP
  if bitAt old n then s.fillShown n
  else ((s.fillShown n).setFld Reg.TMB_STATUS Fld.TMB_STATUS_CAP (old + 2 ^ n)).interrupt .timebase

theorem State.capUpdate_eq : s.capUpdate n = if Nat.beq (s.pin n).fifo.length 0 then s.capCleared n else s.capSet n := (rfl)

theorem TimebaseOnly.capUpdate {A : List Nat} {s t : State} (h : TimebaseOnly A s t) {n : Fin 5} (hi : Reg.TMB_CAP_SEC_HI n ∈ A)
    (status : Reg.TMB_STATUS ∈ A) : TimebaseOnly A s (t.capUpdate n) := by
  have fill : TimebaseOnly A s (t.fillShown n) := h.setFld hi
  rw [State.capUpdate_eq]
  exact (fill.setFld status).ite (fill.ite (fill.setFld status).interrupt)

theorem State.tb_capUpdate : (s.capUpdate n).tb = s.tb := by
  rw [State.capUpdate_eq, State.capCleared, State.capSet]
  split
  · rfl
  · split
    · rfl
    · rw [State.tb_interrupt]
      rfl

/-- Beside TMB_STATUS, an update of CAP changes FILL alone. -/
theorem State.reg_capUpdate {a : Nat} (other : a ≠ Reg.TMB_STATUS) : (s.capUpdate n).reg a = (s.fillShown n).reg a := by
  rw [State.capUpdate_eq, State.capCleared, State.capSet]
  split
  · exact State.reg_setFld_other other
  · split
    · rfl
    · rw [State.reg_interrupt]
      exact State.reg_setFld_other other

theorem State.FILL_capUpdate : (s.capUpdate n).fld (Reg.TMB_CAP_SEC_HI n) Fld.TMB_CAP_SEC_HI_FILL = (s.pin n).fifo.length % 32 := by
  rw [State.fld_congr (s.reg_capUpdate n (Reg.TMB_CAP_SEC_HI_ne_STATUS n).symm)]
  exact State.fld_setFld_same ⟨by decide, by decide⟩

theorem State.SEC_HI_capUpdate : (s.capUpdate n).fld (Reg.TMB_CAP_SEC_HI n) Fld.TMB_CAP_SEC_HI_SEC_HI =
    s.fld (Reg.TMB_CAP_SEC_HI n) Fld.TMB_CAP_SEC_HI_SEC_HI := by
  rw [State.fld_congr (s.reg_capUpdate n (Reg.TMB_CAP_SEC_HI_ne_STATUS n).symm)]
  exact State.fld_setFld_apart ⟨by decide, by decide⟩ ⟨by decide, by decide⟩ (.inr (by decide))

/-- CAP of a pin shows that its FIFO holds a capture. -/
theorem State.CAP_capUpdate : bitAt ((s.capUpdate n).fld Reg.TMB_STATUS Fld.TMB_STATUS_CAP) n = !(s.pin n).fifo.isEmpty := by
  have shown (v : Nat) : ((s.fillShown n).setFld Reg.TMB_STATUS Fld.TMB_STATUS_CAP v).fld Reg.TMB_STATUS Fld.TMB_STATUS_CAP = v % 2 ^ 5 :=
    State.fld_setFld_same ⟨by decide, by decide⟩
  have kept : (s.fillShown n).fld Reg.TMB_STATUS Fld.TMB_STATUS_CAP = s.fld Reg.TMB_STATUS Fld.TMB_STATUS_CAP :=
    State.fld_setFld_other (Reg.TMB_CAP_SEC_HI_ne_STATUS n)
  have fits : s.fld Reg.TMB_STATUS Fld.TMB_STATUS_CAP < 2 ^ 5 := Fld.get_lt ..
  have empty : Nat.beq (s.pin n).fifo.length 0 = (s.pin n).fifo.isEmpty := by cases (s.pin n).fifo <;> rfl
  rw [State.capUpdate_eq, empty]
  cases held : (s.pin n).fifo.isEmpty with
  | true =>
    rw [if_pos rfl, State.capCleared, shown]
    cases set : bitAt (s.fld Reg.TMB_STATUS Fld.TMB_STATUS_CAP) n with
    | true => exact bitAt_sub_two_pow n.isLt set
    | false =>
      rw [if_neg Bool.false_ne_true, Nat.sub_zero, Nat.mod_eq_of_lt fits]
      exact set
  | false =>
    rw [if_neg Bool.false_ne_true, State.capSet]
    cases set : bitAt (s.fld Reg.TMB_STATUS Fld.TMB_STATUS_CAP) n with
    | true =>
      rw [if_pos rfl, kept]
      exact set
    | false =>
      rw [if_neg Bool.false_ne_true, State.fld_interrupt, shown]
      exact bitAt_add_two_pow n.isLt set

end

/-! ## Edges (R256, R257) -/

section
variable (s : State) (n : Fin 5)

/-- The pin is accepted as active. -/
def State.edgeSeen (s : State) (n : Nat) : State := s.setPin n { s.pin n with active := some s.tb.elapsed, stuck := false }

/-- The edge is lost. -/
def State.edgeLost (s : State) (n : Nat) : State :=
  ((s.edgeSeen n).tmbEvent Fld.TMB_STATUS_OVR n).count (Reg.TMB_CAP_OVR n) Fld.TMB_CAP_OVR_LOST 1

/-- The pin with the edge in its FIFO. -/
def State.pinCaptured (s : State) (n : Nat) : CapPin :=
  { s.pin n with
    fifo := (s.pin n).fifo ++ [(s.captureTime / 1000000000, s.captureTime % 1000000000)]
    lastEdge := some s.tb.elapsed
    active := some s.tb.elapsed
    stuck := false }

/-- The edge is captured. -/
def State.edgeCaptured (s : State) (n : Nat) : State := (State.setPin { s with ticks := s.ticks + 1 } n (s.pinCaptured n)).capUpdate n

/-- The edge follows the last captured one within 100 ns. -/
def State.closeEdge (s : State) (n : Nat) : Prop := ∃ e, (s.pin n).lastEdge = some e ∧ s.tb.elapsed < e + 100 * nsE

/-- That test, as the pin makes it. -/
def State.isClose (s : State) (n : Nat) : Bool :=
  match (s.pin n).lastEdge with
  | some e => Nat.blt s.tb.elapsed (e + 100 * nsE)
  | none => false

theorem State.activeEdge_eq : s.activeEdge n =
    if (s.pin n).active.isSome then s
    else if !(s.flag (Reg.TMB_CAP_CFG n) Fld.TMB_CAP_CFG_EN) then s.edgeSeen n
    else if s.isClose n || Nat.ble 16 (s.pin n).fifo.length then s.edgeLost n
    else if Nat.beq n 4 && Nat.beq s.tmbSource 1 then
      (s.edgeCaptured n).offset (256 * (if Nat.blt (s.captureTime % 1000000000) 500000000 then ((s.captureTime % 1000000000 : Nat) : Int)
        else ((s.captureTime % 1000000000 : Nat) : Int) - 1000000000))
    else s.edgeCaptured n := (rfl)

variable {s n}

theorem State.closeEdge_iff : s.closeEdge n ↔ s.isClose n = true := by
  unfold State.closeEdge State.isClose
  cases (s.pin n).lastEdge with
  | none => simp
  | some e => simp only [Option.some.injEq, exists_eq_left', Nat.blt_eq]

theorem State.activeEdge_active (active : (s.pin n).active.isSome = true) : s.activeEdge n = s := by
  rw [State.activeEdge_eq, if_pos active]

section
variable (inactive : ¬ (s.pin n).active.isSome = true)
include inactive

theorem State.activeEdge_off (off : s.flag (Reg.TMB_CAP_CFG n) Fld.TMB_CAP_CFG_EN = false) : s.activeEdge n = s.edgeSeen n := by
  rw [State.activeEdge_eq, if_neg inactive, off, if_pos Bool.not_false]

theorem State.activeEdge_lost (on : s.flag (Reg.TMB_CAP_CFG n) Fld.TMB_CAP_CFG_EN = true)
    (lost : ¬ (¬ s.closeEdge n ∧ (s.pin n).fifo.length < 16)) : s.activeEdge n = s.edgeLost n := by
  have close := s.closeEdge_iff (n := n)
  rw [State.activeEdge_eq, if_neg inactive, on, if_neg (by decide), if_pos]
  rw [Bool.or_eq_true, ← close, Nat.ble_eq]
  by_contra neither
  exact lost ⟨fun c => neither (.inl c), Nat.lt_of_not_le fun full => neither (.inr full)⟩

theorem State.activeEdge_captured (on : s.flag (Reg.TMB_CAP_CFG n) Fld.TMB_CAP_CFG_EN = true)
    (apart : ¬ s.closeEdge n) (room : (s.pin n).fifo.length < 16) :
    s.activeEdge n = s.edgeCaptured n ∨ ∃ theta, s.activeEdge n = (s.edgeCaptured n).offset theta := by
  have close := s.closeEdge_iff (n := n)
  rw [State.activeEdge_eq, if_neg inactive, on, if_neg (by decide), if_neg]
  · split
    · exact .inr ⟨_, rfl⟩
    · exact .inl rfl
  · rw [Bool.or_eq_true, ← close, Nat.ble_eq]
    rintro (c | full)
    · exact apart c
    · exact Nat.not_le_of_lt room full

end

end

/-- From `s` to `t` time, memory and the other pins stay. -/
structure PinOnly (s : State) (n : Fin 5) (t : State) : Prop where
  now : t.now = s.now
  mem : t.mem = s.mem
  others : ∀ k : Fin 5, k ≠ n → t.pin k = s.pin k

theorem PinOnly.of_only {s t : State} {n : Fin 5} {A : List Nat} {q : CapPin} (h : TimebaseOnly A s t)
    (pins : t.tb.pins = (s.setPin n q).tb.pins) : PinOnly s n t where
  now := h.now
  mem := h.eq State.mem fun _ _ _ _ _ => rfl
  others k other := (State.pin_congr pins k).trans (s.pin_setPin_other n q other)

/-- From `s` to `t` an active edge of pin n has been captured. -/
structure Captured (s : State) (n : Fin 5) (t : State) : Prop where
  fifo : ∃ d : Int, -4 ≤ d ∧ d ≤ 4 ∧ let x := (((s.now : Int) + d) % (secWrap : Int)).toNat
    (t.pin n).fifo = (s.pin n).fifo ++ [(x / 1000000000, x % 1000000000)]
  lastEdge : (t.pin n).lastEdge = some s.tb.elapsed
  fill : t.fld (Reg.TMB_CAP_SEC_HI n) Fld.TMB_CAP_SEC_HI_FILL = (s.pin n).fifo.length + 1
  cap : bitAt (t.fld Reg.TMB_STATUS Fld.TMB_STATUS_CAP) n = true
  ovr : t.reg (Reg.TMB_CAP_OVR n) = s.reg (Reg.TMB_CAP_OVR n)

section
variable (s : State) (n : Fin 5)

theorem State.captureTime_near : ∃ d : Int, -4 ≤ d ∧ d ≤ 4 ∧ s.captureTime = (((s.now : Int) + d) % (secWrap : Int)).toNat := by
  have free := Nat.mod_lt (Config.freeValue s.ticks) (y := 9) (by decide)
  refine ⟨(Config.freeValue s.ticks % 9 : Nat) - 4, by omega, by omega, ?_⟩
  have sum : (((s.now + secWrap : Nat) : Int) + ((Config.freeValue s.ticks % 9 : Nat) : Int) - 4) =
      (s.now : Int) + (((Config.freeValue s.ticks % 9 : Nat) : Int) - 4) + secWrap := by
    rw [Nat.cast_add]
    ring
  rw [State.captureTime, sum, Int.add_emod_right]

theorem State.pin_pinCaptured : (State.setPin { s with ticks := s.ticks + 1 } n (s.pinCaptured n)).pin n = s.pinCaptured n :=
  State.pin_setPin_same ..

theorem State.edgeCaptured_only : TimebaseOnly [Reg.TMB_CAP_SEC_HI n, Reg.TMB_STATUS] s (s.edgeCaptured n) :=
  have start : TimebaseOnly [Reg.TMB_CAP_SEC_HI n, Reg.TMB_STATUS] s (State.setPin { s with ticks := s.ticks + 1 } n (s.pinCaptured n)) :=
    ⟨rfl, rfl, fun _ _ => rfl⟩
  start.capUpdate (by simp) (by simp)

theorem State.pin_edgeCaptured : (s.edgeCaptured n).pin n = s.pinCaptured n :=
  (State.pin_congr (congrArg Timebase.pins (State.tb_capUpdate ..)) n).trans (s.pin_pinCaptured n)

theorem State.edgeCaptured_shows (room : (s.pin n).fifo.length < 16) : Captured s n (s.edgeCaptured n) := by
  obtain ⟨d, low, high, time⟩ := s.captureTime_near
  have length : (s.pinCaptured n).fifo.length = (s.pin n).fifo.length + 1 := by
    rw [State.pinCaptured, List.length_append]
    rfl
  refine ⟨⟨d, low, high, ?_⟩, ?_, ?_, ?_, ?_⟩
  · rw [s.pin_edgeCaptured n, ← time]
    rfl
  · rw [s.pin_edgeCaptured n]
    rfl
  · refine (State.FILL_capUpdate ..).trans ?_
    rw [s.pin_pinCaptured n, length]
    omega
  · refine (State.CAP_capUpdate ..).trans ?_
    rw [s.pin_pinCaptured n, State.pinCaptured]
    cases (s.pin n).fifo <;> rfl
  · refine (s.edgeCaptured_only n).reg _ ?_
    simp only [List.mem_cons, List.not_mem_nil, or_false, not_or]
    refine ⟨?_, (Reg.TMB_CAP_OVR_ne_STATUS n).symm⟩
    unfold Reg.TMB_CAP_OVR Reg.TMB_CAP_SEC_HI
    omega

variable {s n}

/-- An offset that PPS_IN gives leaves its capture. -/
theorem Captured.offset {t : State} (h : Captured s n t) (theta : Int) : Captured s n (t.offset theta) := by
  have pin := State.pin_congr (t.pins_offset theta) n
  have reg {a : Nat} (page : 0x12000100 ≤ a) : (t.offset theta).reg a = t.reg a := (t.offset_only theta).reg a (by
    simp only [List.mem_cons, List.not_mem_nil, or_false, not_or]
    refine ⟨?_, ?_, ?_, ?_⟩ <;> (rintro rfl; exact absurd page (by decide)))
  refine ⟨pin ▸ h.fifo, pin ▸ h.lastEdge, ?_, ?_, ?_⟩
  · rw [State.fld_congr (reg (by unfold Reg.TMB_CAP_SEC_HI; omega)), h.fill]
  · rw [t.fld_offset theta ⟨by decide, by decide⟩ (by decide), h.cap]
  · rw [reg (by unfold Reg.TMB_CAP_OVR; omega), h.ovr]

end

theorem Fld.put_whole (w : Word) (v : Nat) : Fld.put ⟨31, 0⟩ w v = BitVec.ofNat 32 v := by
  unfold Fld.put
  rw [Fld.get_whole, Nat.pow_zero, Nat.mul_one, Nat.mul_one, Nat.sub_self, Nat.zero_add]
  exact BitVec.eq_of_toNat_eq (by simp)

/-- From `s` to `t` an active edge of pin n has been lost: where the pin is enabled, OVR shows it and LOST counts it. -/
structure EdgeLost (s : State) (n : Fin 5) (t : State) : Prop where
  fifo : (t.pin n).fifo = (s.pin n).fifo
  lastEdge : (t.pin n).lastEdge = (s.pin n).lastEdge
  on : s.flag (Reg.TMB_CAP_CFG n) Fld.TMB_CAP_CFG_EN = true → bitAt (t.fld Reg.TMB_STATUS Fld.TMB_STATUS_OVR) n = true ∧
    t.reg (Reg.TMB_CAP_OVR n) = BitVec.ofNat 32 (min ((s.reg (Reg.TMB_CAP_OVR n)).toNat + 1) 0xFFFFFFFF)
  off : s.flag (Reg.TMB_CAP_CFG n) Fld.TMB_CAP_CFG_EN = false → t.regs = s.regs

section
variable (s : State) (n : Fin 5)

theorem State.tb_edgeLost : (s.edgeLost n).tb = (s.edgeSeen n).tb := by
  rw [State.edgeLost, State.count_tb, State.tb_tmbEvent]

theorem State.edgeLost_only : TimebaseOnly [Reg.TMB_CAP_OVR n, Reg.TMB_STATUS] s (s.edgeLost n) :=
  have seen : TimebaseOnly [Reg.TMB_CAP_OVR n, Reg.TMB_STATUS] s (s.edgeSeen n) := TimebaseOnly.rfl.setTb
  (seen.tmbEvent (by simp)).setFld (by simp)

theorem State.edgeLost_shows : bitAt ((s.edgeLost n).fld Reg.TMB_STATUS Fld.TMB_STATUS_OVR) n = true ∧
    (s.edgeLost n).reg (Reg.TMB_CAP_OVR n) = BitVec.ofNat 32 (min ((s.reg (Reg.TMB_CAP_OVR n)).toNat + 1) 0xFFFFFFFF) := by
  have kept : ((s.edgeSeen n).tmbEvent Fld.TMB_STATUS_OVR n).reg (Reg.TMB_CAP_OVR n) = s.reg (Reg.TMB_CAP_OVR n) :=
    State.reg_tmbEvent (Reg.TMB_CAP_OVR_ne_STATUS n).symm
  constructor
  · rw [State.edgeLost, State.count, State.fld_setFld_other (Reg.TMB_CAP_OVR_ne_STATUS n)]
    exact State.bitAt_tmbEvent ⟨by decide, by decide⟩ n.isLt
  · rw [State.edgeLost, State.count, State.reg_setFld_same, State.fld, kept]
    refine (Fld.put_whole ..).trans ?_
    rw [show Fld.TMB_CAP_OVR_LOST.get (s.reg (Reg.TMB_CAP_OVR n)) = _ from Fld.get_whole _]
    rfl

variable {s n}

/-- What an active edge leaves at a pin that was inactive. -/
def EdgeTaken (s : State) (n : Fin 5) (t : State) : Prop :=
  (t.pin n).active = some s.tb.elapsed ∧ (t.pin n).stuck = false ∧
    (s.flag (Reg.TMB_CAP_CFG n) Fld.TMB_CAP_CFG_EN = true ∧ ¬ s.closeEdge n ∧ (s.pin n).fifo.length < 16 → Captured s n t) ∧
    (¬ (s.flag (Reg.TMB_CAP_CFG n) Fld.TMB_CAP_CFG_EN = true ∧ ¬ s.closeEdge n ∧ (s.pin n).fifo.length < 16) → EdgeLost s n t)

theorem State.activeEdge_takes (inactive : ¬ (s.pin n).active.isSome = true) :
    PinOnly s n (s.activeEdge n) ∧ EdgeTaken s n (s.activeEdge n) := by
  have seen : (s.edgeSeen n).pin n = { s.pin n with active := some s.tb.elapsed, stuck := false } := State.pin_setPin_same ..
  cases on : s.flag (Reg.TMB_CAP_CFG n) Fld.TMB_CAP_CFG_EN with
  | false =>
    rw [State.activeEdge_off inactive on]
    refine ⟨⟨rfl, rfl, fun k other => State.pin_setPin_other _ _ _ other⟩, by rw [seen], by rw [seen],
      fun h => absurd (on.symm.trans h.1) Bool.false_ne_true, fun _ => ⟨by rw [seen], by rw [seen], fun h => ?_, fun _ => rfl⟩⟩
    exact absurd (on.symm.trans h) Bool.false_ne_true
  | true =>
    by_cases free : ¬ s.closeEdge n ∧ (s.pin n).fifo.length < 16
    · obtain ⟨apart, room⟩ := free
      have captured := s.edgeCaptured_shows n room
      have pin := s.pin_edgeCaptured n
      have only : PinOnly s n (s.edgeCaptured n) := PinOnly.of_only (s.edgeCaptured_only n) (congrArg Timebase.pins (State.tb_capUpdate ..))
      rcases State.activeEdge_captured inactive on apart room with e | ⟨theta, e⟩
      · rw [e]
        exact ⟨only, by rw [pin]; rfl, by rw [pin]; rfl, fun _ => captured, fun h => absurd ⟨on, apart, room⟩ h⟩
      · have pins := (s.edgeCaptured n).pins_offset theta
        have offset := (s.edgeCaptured n).offset_only theta
        rw [e, EdgeTaken, State.pin_congr pins, pin]
        refine ⟨⟨offset.now.trans only.now, (offset.eq State.mem fun _ _ _ _ _ => rfl).trans only.mem,
          fun k other => (State.pin_congr pins k).trans (only.others k other)⟩, rfl, rfl, fun _ => captured.offset theta,
          fun h => absurd ⟨on, apart, room⟩ h⟩
    · have pin : (s.edgeLost n).pin n = _ := (State.pin_congr (congrArg Timebase.pins (s.tb_edgeLost n)) n).trans seen
      rw [State.activeEdge_lost inactive on free, EdgeTaken, pin]
      refine ⟨PinOnly.of_only (s.edgeLost_only n) (congrArg Timebase.pins (s.tb_edgeLost n)), rfl, rfl, fun h => absurd h.2 free,
        fun _ => ⟨by rw [pin], by rw [pin], fun _ => s.edgeLost_shows n, fun off => absurd (on.symm.trans off) (by decide)⟩⟩

end

/-- What an accepted level leaves at pin n: its active edge is taken once. -/
def LevelTaken (s : State) (n : Fin 5) (edge : Bool) (t : State) : Prop :=
  if edge = false then t.regs = s.regs ∧ t.pin n = { s.pin n with active := none, stuck := false }
  else if (s.pin n).active.isSome = true then t.regs = s.regs ∧ t.pin n = s.pin n
  else EdgeTaken s n t

/-- The pin takes a level. -/
def State.takeLevel (s : State) (n : Nat) (edge : Bool) : State := if edge then s.activeEdge n else s.pinInactive n

section
variable (s : State) (n : Fin 5)

theorem State.takeLevel_shows (edge : Bool) : PinOnly s n (s.takeLevel n edge) ∧ LevelTaken s n edge (s.takeLevel n edge) := by
  cases edge with
  | false => exact ⟨⟨rfl, rfl, fun k other => s.pin_setPin_other n _ other⟩, rfl, s.pin_setPin_same n _⟩
  | true =>
    have takes : s.takeLevel n true = s.activeEdge n := if_pos rfl
    rw [takes, LevelTaken, if_neg (by decide)]
    by_cases active : (s.pin n).active.isSome = true
    · rw [if_pos active, State.activeEdge_active active]
      exact ⟨⟨rfl, rfl, fun _ _ => rfl⟩, rfl, rfl⟩
    · rw [if_neg active]
      exact State.activeEdge_takes active

/-- A pulse of uncertain width draws a free value. -/
def State.sampled (s : State) (width : Nat) : State := if Nat.ble 6 width && Nat.blt width 20 then { s with ticks := s.ticks + 1 } else s

variable {s n} {high : Bool} {width : Nat}

/-- Whether a pin's level is the active one, by POL. -/
def State.activeLevel (s : State) (n : Nat) (high : Bool) : Bool := high.xor (s.flag (Reg.TMB_CAP_CFG n) Fld.TMB_CAP_CFG_POL)

theorem exec_captureEdge : exec (.captureEdge ⟨n, high, width⟩) s =
    .next (if !(s.pulseSeen width) then s.sampled width else (s.sampled width).takeLevel n (s.activeLevel n high)) := (rfl)

/-- Free values drawn before an edge change nothing of what it leaves. -/
theorem LevelTaken.of_ticks {t : State} {k : Nat} {edge : Bool} (h : LevelTaken { s with ticks := k } n edge t) :
    LevelTaken s n edge t := by
  unfold LevelTaken at h ⊢
  split
  next inactive => exact (if_pos inactive).mp h
  next level =>
    have h := (if_neg level).mp h
    split
    next active => exact (if_pos active).mp h
    next active =>
      obtain ⟨now, stuck, captured, lost⟩ := (if_neg active).mp h
      exact ⟨now, stuck, fun c => have taken := captured c; ⟨taken.fifo, taken.lastEdge, taken.fill, taken.cap, taken.ovr⟩,
        fun c => have taken := lost c; ⟨taken.fifo, taken.lastEdge, taken.on, taken.off⟩⟩

theorem State.sampled_shows (s : State) (n : Fin 5) (width : Nat) (edge : Bool) :
    PinOnly s n (s.sampled width) ∧ (s.sampled width).regs = s.regs ∧ (s.sampled width).pin n = s.pin n ∧
      (∀ t, PinOnly (s.sampled width) n t ∧ LevelTaken (s.sampled width) n edge t → PinOnly s n t ∧ LevelTaken s n edge t) := by
  unfold State.sampled
  split
  · exact ⟨⟨rfl, rfl, fun _ _ => rfl⟩, rfl, rfl, fun t h => ⟨⟨h.1.now, h.1.mem, h.1.others⟩, h.2.of_ticks⟩⟩
  · exact ⟨⟨rfl, rfl, fun _ _ => rfl⟩, rfl, rfl, fun _ => id⟩

theorem State.sampled_narrow (s : State) (narrow : width < 6) : s.sampled width = s :=
  if_neg fun h => Nat.not_le_of_lt narrow (Nat.le_of_ble_eq_true (Bool.and_eq_true_iff.1 h).1)

theorem State.pulseSeen_iff : s.pulseSeen width = true ↔ 20 ≤ width ∨ (6 ≤ width ∧ Config.freeValue s.ticks % 2 = 1) := by
  rw [State.pulseSeen, Bool.or_eq_true, Bool.and_eq_true, Nat.ble_eq, Nat.ble_eq, Nat.beq_eq]

end

/-- A pulse that the samples do not see leaves the pin; one that they see is taken by its level. -/
theorem captureEdge_shows (s : State) (n : Fin 5) (high : Bool) (width : Nat) : ∃ t, exec (.captureEdge ⟨n, high, width⟩) s = .next t ∧
    PinOnly s n t ∧ (width < 6 → t = s) ∧
    (6 ≤ width → width < 20 → Config.freeValue s.ticks % 2 = 0 → t.regs = s.regs ∧ t.pin n = s.pin n) ∧
    (20 ≤ width ∨ (6 ≤ width ∧ Config.freeValue s.ticks % 2 = 1) → LevelTaken s n (s.activeLevel n high) t) := by
  obtain ⟨only, regs, pin, carry⟩ := s.sampled_shows n width (s.activeLevel n high)
  have run := exec_captureEdge (s := s) (n := n) (high := high) (width := width)
  have seen := s.pulseSeen_iff (width := width)
  by_cases sees : s.pulseSeen width = true
  · rw [sees] at run
    obtain ⟨only, taken⟩ := carry _ ((s.sampled width).takeLevel_shows n (s.activeLevel n high))
    have wide := seen.1 sees
    exact ⟨_, run, only, fun narrow => by omega, fun _ less even => by omega, fun _ => taken⟩
  · rw [Bool.eq_false_iff.2 sees] at run
    exact ⟨_, run, only, s.sampled_narrow, fun _ _ _ => ⟨regs, pin⟩, fun wide => absurd (seen.2 wide) sees⟩

/-! ## STUCK (R258) -/

section
variable (s : State) (n : Fin 5)

/-- STUCK is raised. -/
def State.stuckRaised (s : State) (n : Nat) : State :=
  ((s.setPin n { s.pin n with stuck := true }).tmbEvent Fld.TMB_STATUS_STUCK n).report (plainRecord .timebase sevTimeout)

/-- STUCK is due: the pin has been active for longer than STUCK_US, and has not raised it. -/
def State.stuckDue (s : State) (n : Nat) : Prop := ∃ e, (s.pin n).active = some e ∧ (s.pin n).stuck = false ∧
  s.fld (Reg.TMB_CAP_CFG n) Fld.TMB_CAP_CFG_STUCK_US ≠ 0 ∧
  e + s.fld (Reg.TMB_CAP_CFG n) Fld.TMB_CAP_CFG_STUCK_US * usE < s.tb.elapsed

theorem exec_captureStuck_eq : exec (.captureStuck n) s = .next (match (s.pin n).active with
    | some e => if !(s.pin n).stuck && !(Nat.beq (s.fld (Reg.TMB_CAP_CFG n) Fld.TMB_CAP_CFG_STUCK_US) 0) &&
        Nat.blt (e + s.fld (Reg.TMB_CAP_CFG n) Fld.TMB_CAP_CFG_STUCK_US * usE) s.tb.elapsed then s.stuckRaised n else s
    | none => s) := (rfl)

variable {s n}

theorem exec_captureStuck (due : s.stuckDue n) : exec (.captureStuck n) s = .next (s.stuckRaised n) := by
  obtain ⟨e, active, stuck, set, late⟩ := due
  rw [exec_captureStuck_eq, active]
  refine congrArg Outcome.next (if_pos ?_)
  rw [stuck, ← beq_eq_natBeq, beq_false_of_ne set, Nat.blt_eq.mpr late]
  rfl

theorem exec_captureStuck_none (quiet : ¬ s.stuckDue n) : exec (.captureStuck n) s = .next s := by
  rw [exec_captureStuck_eq]
  refine congrArg Outcome.next ?_
  split
  next e active =>
    refine if_neg fun h => quiet ⟨e, active, ?_⟩
    rw [Bool.and_eq_true, Bool.and_eq_true, Bool.not_eq_true', Bool.not_eq_true', ← beq_eq_natBeq, beq_eq_false_iff_ne, Nat.blt_eq,
      and_assoc] at h
    exact h
  · rfl

theorem State.pin_stuckRaised : (s.stuckRaised n).pin n = { s.pin n with stuck := true } := by
  refine (State.pin_congr (s := s.setPin n { s.pin n with stuck := true }) ?_ n).trans (s.pin_setPin_same n _)
  rw [State.stuckRaised, State.report_tb, State.tb_tmbEvent]

theorem State.errs_stuckRaised : (s.stuckRaised n).errs = s.errs ++ [plainRecord .timebase sevTimeout] := by
  rw [State.stuckRaised, State.report, State.errs_tmbEvent]
  rfl

end

/-! ## The reads of a capture (R257) -/

section
variable (s : State) (n : Fin 5) (c : Nat × Nat) (cs : List (Nat × Nat))

/-- The oldest capture `c` is taken from the FIFO, and its seconds are loaded. -/
def State.captureTaken (s : State) (n : Nat) (c : Nat × Nat) (cs : List (Nat × Nat)) : State :=
  ((s.setPin n { s.pin n with fifo := cs }).setReg (Reg.TMB_CAP_SEC_LO n) (BitVec.ofNat 32 c.1)).setFld
    (Reg.TMB_CAP_SEC_HI n) Fld.TMB_CAP_SEC_HI_SEC_HI (c.1 / 2 ^ 32)

variable {s n c cs}

theorem State.popCapture_cons (held : (s.pin n).fifo = c :: cs) : s.popCapture n = (s.captureTaken n c cs).capUpdate n := by
  unfold State.popCapture
  rw [held]
  rfl

theorem State.popCapture_nil (empty : (s.pin n).fifo = []) : s.popCapture n = s := by
  unfold State.popCapture
  rw [empty]

theorem State.capNs_cons (held : (s.pin n).fifo = c :: cs) : s.capNs n = BitVec.ofNat 32 c.2 := by
  unfold State.capNs
  rw [held]

theorem State.capNs_nil (empty : (s.pin n).fifo = []) : s.capNs n = 0xFFFFFFFF#32 := by
  unfold State.capNs
  rw [empty]

theorem State.captureTaken_shows : let t := (s.captureTaken n c cs).capUpdate n
    (t.pin n).fifo = cs ∧ t.reg (Reg.TMB_CAP_SEC_LO n) = BitVec.ofNat 32 c.1 ∧
      t.fld (Reg.TMB_CAP_SEC_HI n) Fld.TMB_CAP_SEC_HI_SEC_HI = c.1 / 2 ^ 32 % 65536 ∧
      t.fld (Reg.TMB_CAP_SEC_HI n) Fld.TMB_CAP_SEC_HI_FILL = cs.length % 32 ∧
      bitAt (t.fld Reg.TMB_STATUS Fld.TMB_STATUS_CAP) n = !cs.isEmpty ∧ t.mem = s.mem := by
  have pin : (s.captureTaken n c cs).pin n = { s.pin n with fifo := cs } := s.pin_setPin_same n _
  have only : TimebaseOnly [Reg.TMB_CAP_SEC_HI n, Reg.TMB_STATUS] (s.captureTaken n c cs) ((s.captureTaken n c cs).capUpdate n) :=
    TimebaseOnly.rfl.capUpdate (by simp) (by simp)
  refine ⟨?_, ?_, ?_, ?_, ?_, only.eq State.mem fun _ _ _ _ _ => rfl⟩
  · rw [State.pin_congr (congrArg Timebase.pins (State.tb_capUpdate ..)), pin]
  · have apart : Reg.TMB_CAP_SEC_LO n ≠ Reg.TMB_CAP_SEC_HI n := by unfold Reg.TMB_CAP_SEC_LO Reg.TMB_CAP_SEC_HI; omega
    have status : Reg.TMB_CAP_SEC_LO n ≠ Reg.TMB_STATUS := by unfold Reg.TMB_CAP_SEC_LO Reg.TMB_STATUS; omega
    rw [only.reg _ (by simp [apart, status])]
    exact (State.reg_setFld_other apart).trans (State.reg_setReg_same ..)
  · exact (State.SEC_HI_capUpdate ..).trans (State.fld_setFld_same ⟨by decide, by decide⟩)
  · exact (State.FILL_capUpdate ..).trans (by rw [pin])
  · exact (State.CAP_capUpdate ..).trans (by rw [pin])

end

end Sys2Proof.Machine
end

section
/-!
SUPPORT. BMCA and what follows from it (R241, R249, R427): which Announce is the best one, and the registers that show the roles.
-/

namespace Sys2Proof.Machine

open Host (Outcome)

/-! ## Which priority vector is better (R241) -/

theorem better_cons {x y : Nat} {xs ys : List Nat} : better (x :: xs) (y :: ys) = true ↔ x < y ∨ (x = y ∧ better xs ys = true) := by
  rw [better, Bool.or_eq_true, Bool.and_eq_true, Nat.blt_eq, Nat.beq_eq]

theorem better_irrefl (xs : List Nat) : better xs xs = false := by
  induction xs with
  | nil => rfl
  | cons x xs ih =>
    refine Bool.eq_false_iff.2 fun h => ?_
    rcases better_cons.1 h with less | ⟨-, rest⟩
    · exact Nat.lt_irrefl x less
    · exact Bool.false_ne_true (ih.symm.trans rest)

theorem better_trans {xs ys zs : List Nat} (h : better xs ys = true) (k : better ys zs = true) : better xs zs = true := by
  induction xs generalizing ys zs with
  | nil => exact nomatch h
  | cons x xs ih =>
    cases ys with
    | nil => exact nomatch h
    | cons y ys =>
      cases zs with
      | nil => exact nomatch k
      | cons z zs =>
        rcases better_cons.1 h with less | ⟨rfl, rest⟩ <;> rcases better_cons.1 k with less' | ⟨rfl, rest'⟩
        · exact better_cons.2 (.inl (less.trans less'))
        · exact better_cons.2 (.inl less)
        · exact better_cons.2 (.inl less')
        · exact better_cons.2 (.inr ⟨rfl, ih rest rest'⟩)

/-! ## The best port -/

section
variable (s : State) (d : Nat)

/-- The better one of a best port so far and port `p`. -/
def State.betterPort (b : Option (Nat × Announce)) (p : Nat) : Option (Nat × Announce) :=
  match s.heardOn d p, b with
  | some a, some (q, c) => if better (priorityVector a 1 p) (priorityVector c 1 q) then some (p, a) else b
  | some a, none => some (p, a)
  | none, _ => b

/-- `b` is the best of the Announces heard on the ports below `n`. -/
def State.BestBelow (n : Nat) (b : Option (Nat × Announce)) : Prop :=
  match b with
  | none => ∀ p < n, s.heardOn d p = none
  | some (q, c) => q < n ∧ s.heardOn d q = some c ∧
      ∀ p < n, ∀ a, s.heardOn d p = some a → better (priorityVector a 1 p) (priorityVector c 1 q) = false

variable {s d} {n : Nat} {b : Option (Nat × Announce)}

theorem State.BestBelow.step (h : s.BestBelow d n b) : s.BestBelow d (n + 1) (s.betterPort d b n) := by
  have below {p : Nat} (reach : p < n + 1) : p < n ∨ p = n := Nat.lt_succ_iff_lt_or_eq.1 reach
  unfold State.betterPort
  cases heard : s.heardOn d n with
  | none =>
    cases b with
    | none =>
      intro p reach
      rcases below reach with lower | rfl
      · exact h p lower
      · exact heard
    | some best =>
      obtain ⟨place, held, least⟩ := h
      refine ⟨Nat.lt_succ_of_lt place, held, fun p reach a on => ?_⟩
      rcases below reach with lower | rfl
      · exact least p lower a on
      · exact nomatch heard.symm.trans on
  | some x =>
    cases b with
    | none =>
      refine ⟨Nat.lt_succ_self n, heard, fun p reach a on => ?_⟩
      rcases below reach with lower | rfl
      · exact nomatch (h p lower).symm.trans on
      · obtain rfl := Option.some.inj (heard.symm.trans on)
        exact better_irrefl _
    | some best =>
      obtain ⟨q, c⟩ := best
      obtain ⟨place, held, least⟩ := h
      dsimp only
      split
      next wins =>
        refine ⟨Nat.lt_succ_self n, heard, fun p reach a on => ?_⟩
        rcases below reach with lower | rfl
        · refine Bool.eq_false_iff.2 fun beats => ?_
          exact Bool.false_ne_true ((least p lower a on).symm.trans (better_trans beats wins))
        · obtain rfl := Option.some.inj (heard.symm.trans on)
          exact better_irrefl _
      next loses =>
        refine ⟨Nat.lt_succ_of_lt place, held, fun p reach a on => ?_⟩
        rcases below reach with lower | rfl
        · exact least p lower a on
        · obtain rfl := Option.some.inj (heard.symm.trans on)
          exact Bool.eq_false_iff.2 loses

theorem State.bestPort_best (s : State) (d : Nat) : s.BestBelow d 14 (s.bestPort d) := by
  have all (n : Nat) : s.BestBelow d n ((List.range n).foldl (s.betterPort d) none) := by
    induction n with
    | zero => exact fun p none => absurd none (Nat.not_lt_zero p)
    | succ n ih =>
      rw [List.range_succ, List.foldl_append]
      exact ih.step
  exact all 14

/-- A port is slave by BMCA only where its Announce is the best one, and better than the A880's own. -/
theorem State.bmcaRole_slave (free : s.flag (Reg.TSW_PTP_CFG d) Fld.TSW_PTP_CFG_EXT = false) {p : Nat} (slave : s.bmcaRole d p = 2) :
    ∃ c, s.bestPort d = some (p, c) ∧ better (priorityVector c 1 p) (priorityVector (s.ownAnnounce d) 0 0) = true := by
  unfold State.bmcaRole at slave
  split at slave
  · exact absurd slave (by decide)
  · split at slave
    next q c a root heard =>
      split at slave
      next same =>
        obtain rfl := Nat.eq_of_beq_eq_true same
        rw [State.ptpRoot, free] at root
        obtain ⟨best, wins⟩ := Option.filter_eq_some_iff.1 root
        exact ⟨c, best, wins⟩
      next => split at slave <;> exact absurd slave (by decide)
    next => exact absurd slave (by decide)

end

/-! ## The registers that show the roles (R249, R427) -/

section
variable (s : State) (d : Fin 4)

/-- What a change of roles and grandmaster can change. -/
def ptpShown (d : Nat) : List Nat := [Reg.TSW_PTP_STATE d, Reg.TSW_PTP_GM_LO d, Reg.TSW_PTP_GM_HI d, Reg.TMB_STATUS, Reg.TMB_HOLD]

/-- The registers of a domain show its roles and its grandmaster. -/
def State.gmShown (s : State) (d : Nat) (gm : DWord) (gmSelf : Bool) : State :=
  let st := Reg.TSW_PTP_STATE d
  ((((s.setFld st Fld.TSW_PTP_STATE_GM_SELF gmSelf.toNat).setFld st Fld.TSW_PTP_STATE_SLAVE_VALID
    (s.ptpSlave d).isSome.toNat).setFld st Fld.TSW_PTP_STATE_SLAVE_PORT ((s.ptpSlave d).getD 0)).setReg (Reg.TSW_PTP_GM_LO d)
    (gm.setWidth 32)).setReg (Reg.TSW_PTP_GM_HI d) ((gm >>> 32).setWidth 32)

/-- From `s` to `t` the registers show the grandmaster, and beside them holdover may have begun. -/
structure GmShown (s : State) (d : Fin 4) (gm : DWord) (gmSelf : Bool) (t : State) : Prop where
  only : TimebaseOnly (ptpShown d) s t
  hi : t.reg (Reg.TSW_PTP_GM_HI d) = (gm >>> 32).setWidth 32
  lo : t.reg (Reg.TSW_PTP_GM_LO d) = gm.setWidth 32
  self : t.fld (Reg.TSW_PTP_STATE d) Fld.TSW_PTP_STATE_GM_SELF = gmSelf.toNat

theorem Reg.TSW_PTP_apart : Reg.TSW_PTP_STATE d ≠ Reg.TSW_PTP_GM_LO d ∧ Reg.TSW_PTP_STATE d ≠ Reg.TSW_PTP_GM_HI d ∧
    Reg.TSW_PTP_GM_LO d ≠ Reg.TSW_PTP_GM_HI d := by
  unfold Reg.TSW_PTP_STATE Reg.TSW_PTP_GM_LO Reg.TSW_PTP_GM_HI
  omega

variable {s d} {gm : DWord} {gmSelf : Bool}

theorem State.gmShown_shows : GmShown s d gm gmSelf (s.gmShown d gm gmSelf) := by
  obtain ⟨stLo, stHi, loHi⟩ := Reg.TSW_PTP_apart d
  have st : Reg.TSW_PTP_STATE d ∈ ptpShown d := List.mem_cons_self ..
  refine ⟨?_, State.reg_setReg_same .., (State.reg_setReg_other loHi).trans (State.reg_setReg_same ..), ?_⟩
  · exact ((((TimebaseOnly.rfl.setFld st).setFld st).setFld st).setReg (by simp [ptpShown])).setReg (by simp [ptpShown])
  · refine (State.fld_setReg_other stHi).trans ((State.fld_setReg_other stLo).trans ?_)
    rw [State.fld_setFld_apart ⟨by decide, by decide⟩ ⟨by decide, by decide⟩ (.inl (by decide)),
      State.fld_setFld_apart ⟨by decide, by decide⟩ ⟨by decide, by decide⟩ (.inl (by decide)),
      State.fld_setFld_same ⟨by decide, by decide⟩]
    cases gmSelf <;> rfl

/-- GM_CHG counts beside them. -/
theorem GmShown.countChange {t : State} (h : GmShown s d gm gmSelf t) {k : Nat} :
    GmShown s d gm gmSelf (t.count (Reg.TSW_PTP_STATE d) Fld.TSW_PTP_STATE_GM_CHG k) := by
  obtain ⟨stLo, stHi, -⟩ := Reg.TSW_PTP_apart d
  refine ⟨h.only.setFld (List.mem_cons_self ..), (State.reg_setFld_other stHi.symm).trans h.hi,
    (State.reg_setFld_other stLo.symm).trans h.lo, ?_⟩
  exact (State.fld_setFld_apart ⟨by decide, by decide⟩ ⟨by decide, by decide⟩ (.inl (by decide))).trans h.self

theorem GmShown.enterHoldover {t : State} (h : GmShown s d gm gmSelf t) {c : HoldCause} : GmShown s d gm gmSelf (t.enterHoldover c) := by
  have only : TimebaseOnly [Reg.TMB_STATUS, Reg.TMB_HOLD] t (t.enterHoldover c) := TimebaseOnly.rfl.enterHoldover
  have reg {a : Nat} (page : 0x18000000 ≤ a) : (t.enterHoldover c).reg a = t.reg a := only.reg a (by
    simp only [List.mem_cons, List.not_mem_nil, or_false, not_or]
    constructor <;> (rintro rfl; exact absurd page (by decide)))
  refine ⟨h.only.enterHoldover (by simp [ptpShown]) (by simp [ptpShown]), ?_, ?_, ?_⟩
  · rw [reg (by unfold Reg.TSW_PTP_GM_HI; omega), h.hi]
  · rw [reg (by unfold Reg.TSW_PTP_GM_LO; omega), h.lo]
  · rw [State.fld_congr (reg (by unfold Reg.TSW_PTP_STATE; omega)), h.self]

theorem GmShown.ite {t u : State} {p : Prop} [Decidable p] (h : GmShown s d gm gmSelf t) (k : GmShown s d gm gmSelf u) :
    GmShown s d gm gmSelf (if p then t else u) := by
  split <;> assumption

theorem State.ptpFollow_shows : GmShown s d gm gmSelf (s.ptpFollow d gm gmSelf) := by
  have shown : GmShown s d gm gmSelf (s.gmShown d gm gmSelf) := State.gmShown_shows
  unfold State.ptpFollow
  extract_lets st old oldSlave slave s1 changed s2
  have counted : GmShown s d gm gmSelf s2 := shown.countChange.ite shown
  exact counted.enterHoldover.ite counted

end

/-! ## BMCA (R241, R427) -/

section
variable (s : State) (d : Fin 4)

/-- The roles that BMCA chooses, unless EXT = 1 replaces them. -/
def State.rolesChosen (s : State) (d : Nat) : State :=
  if s.flag (Reg.TSW_PTP_CFG d) Fld.TSW_PTP_CFG_EXT then s
  else { s with gw := { s.gw with gptp := { s.gw.gptp with
    roles := s.gw.gptp.roles.set (Fin.ofNat 4 d) (Vector.ofFn fun (p : Fin 14) => s.bmcaRole d p) } } }

/-- The grandmaster of domain d, and whether it is this A880. -/
def State.gmOf (s : State) (d : Nat) : DWord × Bool :=
  match s.ptpRoot d with
  | some (_, a) => (a.gm, false)
  | none => if s.tmbSource = 0 then (0#64, false) else (s.ptpId, true)

theorem State.bmca_shows : GmShown (s.rolesChosen d) d (s.gmOf d).1 (s.gmOf d).2 (s.bmca d) := by
  unfold State.bmca State.gmOf
  cases s.ptpRoot d with
  | some best => exact State.ptpFollow_shows
  | none =>
    by_cases follows : s.tmbSource = 0
    · rw [if_pos follows, follows]
      exact State.ptpFollow_shows
    · have leads : Nat.beq s.tmbSource 0 = false := Bool.eq_false_iff.2 fun h => follows (Nat.eq_of_beq_eq_true h)
      rw [if_neg follows]
      dsimp only
      rw [leads]
      exact State.ptpFollow_shows

theorem State.rolesChosen_roles : (∀ e : Fin 4, e ≠ d → (s.rolesChosen d).gw.gptp.roles[e] = s.gw.gptp.roles[e]) ∧
    ∀ k : Fin 14, ((s.rolesChosen d).gw.gptp.roles[d])[k] =
      if s.flag (Reg.TSW_PTP_CFG d) Fld.TSW_PTP_CFG_EXT = true then (s.gw.gptp.roles[d])[k] else s.bmcaRole d k := by
  unfold State.rolesChosen
  split
  · exact ⟨fun _ _ => rfl, fun _ => rfl⟩
  · refine ⟨fun e other => Vector.getElem_set_ne (Fin.isLt _) e.isLt fun same => other ?_, fun k => ?_⟩
    · rw [Fin.ofNat_val_eq_self] at same
      exact Fin.ext same.symm
    · simp only [Fin.ofNat_val_eq_self, Fin.getElem_fin, Vector.getElem_set_self, Vector.getElem_ofFn]

/-- The choice of roles changes them alone. -/
theorem State.rolesChosen_frame : ∃ roles, s.rolesChosen d = { s with gw := { s.gw with gptp := { s.gw.gptp with roles } } } := by
  unfold State.rolesChosen
  split
  · exact ⟨_, rfl⟩
  · exact ⟨_, rfl⟩

/-- What BMCA leaves alone. -/
theorem State.bmca_keeps : (s.bmca d).now = s.now ∧ (s.bmca d).mem = s.mem ∧ (∀ a, a ∉ ptpShown d → (s.bmca d).reg a = s.reg a) ∧
    (s.bmca d).gw.gptp.heard = s.gw.gptp.heard ∧ (s.bmca d).gw = (s.rolesChosen d).gw := by
  have only := (s.bmca_shows d).only
  have gw := only.eq State.gw fun _ _ _ _ _ => rfl
  have mem := only.eq State.mem fun _ _ _ _ _ => rfl
  obtain ⟨roles, frame⟩ := s.rolesChosen_frame d
  refine ⟨only.now.trans ?_, mem.trans ?_, fun a out => (only.reg a out).trans ?_, ?_, gw⟩
  · rw [frame]; rfl
  · rw [frame]
  · rw [frame]; rfl
  · rw [gw, frame]

/-- An Announce is kept for its port. -/
def State.announceHeard (p : Fin 14) (m : Announce) : State :=
  { s with gw := { s.gw with gptp := { s.gw.gptp with
    heard := s.gw.gptp.heard.set d ((s.gw.gptp.heard[d]).set p (some m)) } } }

theorem State.heard_announceHeard (p : Fin 14) (m : Announce) : ((s.announceHeard d p m).gw.gptp.heard[d])[p] = some m := by
  simp only [State.announceHeard, Fin.getElem_fin, Vector.getElem_set_self]

theorem exec_announceReceived (p : Fin 14) (m : Announce) : exec (.announceReceived p d m) s =
    .next (if s.ptpOn d p then (s.announceHeard d p m).bmca d else s) := (rfl)

end

end Sys2Proof.Machine
end

section
/-!
SUPPORT. The messages of gPTP (R241 to R243, R427): Sync, peer delay, and what the ports send.
-/

namespace Sys2Proof.Machine

open Host (Outcome)

/-! ## Sync (R241, R243) -/

section
variable (s : State) (p : Fin 14) (d : Fin 4) (m : SyncMsg)

/-- What the relay keeps of a Sync. -/
def State.relayOf : RelaySync := { port := p, rx := s.rxStamp p m.rx, origin := m.origin, correction := m.correction }

/-- A Sync is kept for the relay. -/
def State.syncKept : State :=
  { s with gw := { s.gw with gptp := { s.gw.gptp with relay := s.gw.gptp.relay.set d (some (s.relayOf p m)) } } }

/-- The offset of a Sync over a link of delay `delay`. -/
def State.syncOffset (delay : Nat) : Int := s.rxStamp p m.rx - ((m.origin : Int) + m.correction + 16 * delay)

/-- The domain is the one that the timebase follows. -/
def State.follows (s : State) (d : Nat) : Prop := s.tmbSource = 0 ∧ s.fld Reg.TMB_CTRL Fld.TMB_CTRL_DOMAIN = d

/-- The message is a Sync on a slave port. -/
def State.slaveOn (s : State) (d p : Nat) : Prop := s.ptpOn d p = true ∧ s.ptpRole d p = 2

theorem exec_syncReceived_eq : exec (.syncReceived p d m) s = .next (if s.ptpOn d p && Nat.beq (s.ptpRole d p) 2 then
    if Nat.beq s.tmbSource 0 && Nat.beq (s.fld Reg.TMB_CTRL Fld.TMB_CTRL_DOMAIN) d then
      match s.linkDelay p with
      | none => { s.syncKept p d m with tb := { s.tb with holdGood := 0 } }
      | some delay => (s.syncKept p d m).offset (s.syncOffset p m delay)
    else s.syncKept p d m
  else s) := (rfl)

variable {s p d m}

theorem exec_syncReceived_none (h : ¬ s.slaveOn d p) : exec (.syncReceived p d m) s = .next s := by
  rw [exec_syncReceived_eq, if_neg]
  rw [Bool.and_eq_true, Nat.beq_eq]
  exact h

theorem exec_syncReceived (h : s.slaveOn d p) : exec (.syncReceived p d m) s =
    .next (if Nat.beq s.tmbSource 0 && Nat.beq (s.fld Reg.TMB_CTRL Fld.TMB_CTRL_DOMAIN) d then
      match s.linkDelay p with
      | none => { s.syncKept p d m with tb := { s.tb with holdGood := 0 } }
      | some delay => (s.syncKept p d m).offset (s.syncOffset p m delay)
    else s.syncKept p d m) := by
  rw [exec_syncReceived_eq, if_pos]
  rw [Bool.and_eq_true, Nat.beq_eq]
  exact h

theorem exec_syncReceived_apart (h : s.slaveOn d p) (apart : ¬ s.follows d) : exec (.syncReceived p d m) s = .next (s.syncKept p d m) := by
  rw [exec_syncReceived h, if_neg]
  rw [Bool.and_eq_true, Nat.beq_eq, Nat.beq_eq]
  exact apart

theorem exec_syncReceived_undelayed (h : s.slaveOn d p) (followed : s.follows d) (undelayed : s.linkDelay p = none) :
    exec (.syncReceived p d m) s = .next { s.syncKept p d m with tb := { s.tb with holdGood := 0 } } := by
  rw [exec_syncReceived h, if_pos, undelayed]
  rw [Bool.and_eq_true, Nat.beq_eq, Nat.beq_eq]
  exact followed

theorem exec_syncReceived_offset {delay : Nat} (h : s.slaveOn d p) (followed : s.follows d) (delayed : s.linkDelay p = some delay) :
    exec (.syncReceived p d m) s = .next ((s.syncKept p d m).offset (s.syncOffset p m delay)) := by
  rw [exec_syncReceived h, if_pos, delayed]
  rw [Bool.and_eq_true, Nat.beq_eq, Nat.beq_eq]
  exact followed

theorem State.relay_syncKept : (s.syncKept p d m).gw.gptp.relay[d] = some (s.relayOf p m) := Vector.getElem_set_self _

end

/-- A Sync of the followed domain over a link of known delay is an offset. -/
theorem syncReceived_offset {s : State} {p : Fin 14} {d : Fin 4} {m : SyncMsg} {delay : Nat} (h : s.slaveOn d p) (followed : s.follows d)
    (delayed : s.linkDelay p = some delay) : ∃ t, exec (.syncReceived p d m) s = .next t ∧ t.now = s.now ∧ t.mem = s.mem ∧
    t.gw.gptp.relay[d] = some (s.relayOf p m) ∧
    let ofs := s.lastOfs (s.syncOffset p m delay)
    t.tb.lastOfs = some s.tb.elapsed ∧ t.tb.acquiring = false ∧
      t.reg Reg.TMB_LAST_OFS = BitVec.ofInt 32 (clampInt (1 - 2 ^ 31) (2 ^ 31 - 1) ofs) ∧
      256 * ofs - 256 < s.syncOffset p m delay ∧ s.syncOffset p m delay < 256 * ofs + 256 := by
  have only := (s.syncKept p d m).offset_only (s.syncOffset p m delay)
  have gw := only.eq State.gw fun _ _ _ _ _ => rfl
  have mem := only.eq State.mem fun _ _ _ _ _ => rfl
  obtain ⟨last, acquired, ofs⟩ := (s.syncKept p d m).offset_shows (s.syncOffset p m delay)
  exact ⟨_, exec_syncReceived_offset h followed delayed, only.now, mem, gw ▸ State.relay_syncKept, last, acquired, ofs,
    s.lastOfs_within (s.syncOffset p m delay)⟩

/-! ## Peer delay (R241) -/

section
variable {s : State} {p : Fin 14}

theorem State.pdelayOn_iff : s.pdelayOn p = true ↔ p.val < 12 ∧ s.flag (Reg.TSW_PTP_PORT_CFG p) Fld.TSW_PTP_PORT_CFG_EN = true := by
  rw [State.pdelayOn, Bool.and_eq_true, Nat.blt_eq, and_comm]

/-- The link of a port that measures its delay. -/
theorem State.linkDelay_measured (measured : p.val < 12) : s.linkDelay p =
    if s.flag (Reg.TSW_PTP_PORT_DELAY p) Fld.TSW_PTP_PORT_DELAY_VALID then
      some (s.fld (Reg.TSW_PTP_PORT_DELAY p) Fld.TSW_PTP_PORT_DELAY_DELAY) else none :=
  if_neg fun h => Nat.not_le_of_lt measured (Nat.le_of_ble_eq_true h)

theorem State.linkDelay_lost (measured : p.val < 12) : (s.setReg (Reg.TSW_PTP_PORT_DELAY p) 0#32).linkDelay p = none := by
  rw [State.linkDelay_measured measured, State.flag, State.fld, State.reg_setReg_same]
  rfl

/-- A delay that is shown as valid. -/
theorem State.linkDelay_valid (measured : p.val < 12) {v : Nat} (fits : v < 2 ^ 31) :
    (s.setReg (Reg.TSW_PTP_PORT_DELAY p) (BitVec.ofNat 32 (2 ^ 31 + v))).linkDelay p = some v := by
  have word : (BitVec.ofNat 32 (2 ^ 31 + v)).toNat = 2 ^ 31 + v := by
    rw [BitVec.toNat_ofNat]
    omega
  have valid : Fld.TSW_PTP_PORT_DELAY_VALID.get (BitVec.ofNat 32 (2 ^ 31 + v)) = 1 := by
    rw [Fld.get, word]
    show (2 ^ 31 + v) / 2 ^ 31 % 2 ^ 1 = 1
    omega
  have delay : Fld.TSW_PTP_PORT_DELAY_DELAY.get (BitVec.ofNat 32 (2 ^ 31 + v)) = v := by
    rw [Fld.get, word]
    show (2 ^ 31 + v) / 2 ^ 0 % 2 ^ 31 = v
    omega
  rw [State.linkDelay_measured measured, State.flag, State.fld, State.fld, State.reg_setReg_same, valid, delay]
  rfl

theorem meanDelay_lt (ratio t1 t4 : Int) (t2 t3 : Nat) : meanDelay ratio t1 t4 t2 t3 < 2 ^ 31 := by
  unfold meanDelay
  exact Nat.lt_of_le_of_lt (Nat.min_le_right ..) (by decide)

/-- The delay is half of the round trip, in sixteenths of a nanosecond. -/
theorem meanDelay_half {ratio t1 t4 : Int} {t2 t3 : Nat} {trip : Int}
    (is : trip = (t4 - t1) + (t4 - t1) * ratio / 1000000000 - ((t3 : Int) - t2)) (pos : 0 ≤ trip) (fits : trip < 2 ^ 36) :
    32 * (meanDelay ratio t1 t4 t2 t3 : Int) ≤ trip ∧ trip < 32 * meanDelay ratio t1 t4 t2 t3 + 32 := by
  have mean : meanDelay ratio t1 t4 t2 t3 = min (trip / 32).toNat (2 ^ 31 - 1) := by rw [meanDelay, is]
  rw [mean]
  omega

/-- The port's request no longer waits, and nothing is known of its neighbour. -/
def State.peerLost (s : State) (p : Fin 14) : State :=
  State.setReg { s with gw := { s.gw with gptp := { s.gw.gptp with
    reqAt := s.gw.gptp.reqAt.set p none, peer := s.gw.gptp.peer.set p none } } } (Reg.TSW_PTP_PORT_DELAY p) 0#32

/-- A response to the port's request of `t1` gives its ratio and its delay. -/
def State.peerMeasured (s : State) (p : Fin 14) (t1 t2 t3 : Nat) (t4 : Int) : State :=
  State.setReg { s with gw := { s.gw with gptp := { s.gw.gptp with
    reqAt := s.gw.gptp.reqAt.set p none, peer := s.gw.gptp.peer.set p (some (t3, t4)),
    ratios := s.gw.gptp.ratios.set p (rateRatio s.gw.gptp.peer[p] t3 t4) } } }
    (Reg.TSW_PTP_PORT_DELAY p) (BitVec.ofNat 32 (2 ^ 31 + meanDelay (rateRatio s.gw.gptp.peer[p] t3 t4) t1 t4 t2 t3))

/-- The answer to a request. -/
def State.pdelayAnswer (s : State) (p : Fin 14) (t4 : Int) : List PtpMsg :=
  [{ kind := .pdelayResp, port := p, dom := 0, stamp := s.txStamp p, origin := t4.toNat, correction := 0 },
   { kind := .pdelayFollowUp, port := p, dom := 0, stamp := s.txStamp p, origin := s.txStamp p, correction := 0 }]

theorem exec_pdelayReceived_eq (s : State) (p : Fin 14) (m : PdelayMsg) (rx : Nat) : exec (.pdelayReceived p m rx) s =
    .next (if !(s.pdelayOn p) then s
      else match m with
        | .request => s.ptpSend (s.pdelayAnswer p (s.rxStamp p rx))
        | .lost => s.peerLost p
        | .response t2 t3 => match s.gw.gptp.reqAt[p] with
          | none => s
          | some t1 => s.peerMeasured p t1 t2 t3 (s.rxStamp p rx)) := by
  cases m <;> rfl

theorem exec_pdelayReceived_off (off : ¬ s.pdelayOn p = true) (m : PdelayMsg) (rx : Nat) : exec (.pdelayReceived p m rx) s = .next s := by
  rw [exec_pdelayReceived_eq, Bool.eq_false_iff.2 off]
  rfl

section
variable (on : s.pdelayOn p = true) {rx : Nat} {t2 t3 : Nat}
include on

theorem exec_pdelayReceived_request : exec (.pdelayReceived p .request rx) s = .next (s.ptpSend (s.pdelayAnswer p (s.rxStamp p rx))) := by
  rw [exec_pdelayReceived_eq, on]
  rfl

theorem exec_pdelayReceived_lost : exec (.pdelayReceived p .lost rx) s = .next (s.peerLost p) := by
  rw [exec_pdelayReceived_eq, on]
  rfl

theorem exec_pdelayReceived_stray (idle : s.gw.gptp.reqAt[p] = none) : exec (.pdelayReceived p (.response t2 t3) rx) s = .next s := by
  rw [exec_pdelayReceived_eq, on, idle]
  rfl

theorem exec_pdelayReceived_response {t1 : Nat} (waits : s.gw.gptp.reqAt[p] = some t1) :
    exec (.pdelayReceived p (.response t2 t3) rx) s = .next (s.peerMeasured p t1 t2 t3 (s.rxStamp p rx)) := by
  rw [exec_pdelayReceived_eq, on, waits]
  rfl

end

theorem rateRatio_pair {t3 t3' : Nat} {t4 t4' : Int} (later : t4' < t4) :
    rateRatio (some (t3', t4')) t3 t4 = ((t3 : Int) - t3') * 1000000000 / (t4 - t4') - 1000000000 := if_pos later

end

/-! ## What the ports send (R241, R427) -/

section
variable (s : State) (p : Fin 14) (d : Fin 4)

/-- TSW_PTP_ID is 0. -/
def State.ptpMute : Prop := s.reg Reg.TSW_PTP_ID_LO = 0#32 ∧ s.reg Reg.TSW_PTP_ID_HI = 0#32

theorem State.ptpId_eq_zero : s.ptpId = 0#64 ↔ s.ptpMute := by
  constructor
  · intro zero
    have hi : s.ptpId.extractLsb' 32 32 = s.reg Reg.TSW_PTP_ID_HI := BitVec.extractLsb'_append_eq_left
    have lo : s.ptpId.setWidth 32 = s.reg Reg.TSW_PTP_ID_LO := BitVec.setWidth_append_eq_right
    rw [zero] at hi lo
    exact ⟨lo.symm, hi.symm⟩
  · rintro ⟨lo, hi⟩
    rw [State.ptpId, lo, hi]
    rfl

/-- Messages are handed to the switch. -/
def State.handsOver (ms : List PtpMsg) : State :=
  { s with gw := { s.gw with gptp := { s.gw.gptp with sent := s.gw.gptp.sent ++ ms } } }

variable {s}

theorem State.ptpSend_mute (mute : s.ptpMute) (ms : List PtpMsg) : s.ptpSend ms = s := if_pos (s.ptpId_eq_zero.2 mute)

theorem State.ptpSend_named (named : ¬ s.ptpMute) (ms : List PtpMsg) : s.ptpSend ms = s.handsOver ms :=
  if_neg fun zero => named (s.ptpId_eq_zero.1 zero)

variable (s)

/-- BMCA leaves the registers that name the A880, and those that are read for a time. -/
theorem State.reg_bmca {a : Nat} (out : a = Reg.TSW_PTP_ID_LO ∨ a = Reg.TSW_PTP_ID_HI ∨ (0x12000100 ≤ a ∧ a < 0x18000000)) :
    (s.bmca d).reg a = s.reg a := by
  obtain ⟨-, -, reg, -⟩ := s.bmca_keeps d
  refine reg a ?_
  have := d.isLt
  simp only [ptpShown, List.mem_cons, List.not_mem_nil, or_false, not_or]
  unfold Reg.TSW_PTP_ID_LO Reg.TSW_PTP_ID_HI at out
  unfold Reg.TSW_PTP_STATE Reg.TSW_PTP_GM_LO Reg.TSW_PTP_GM_HI Reg.TMB_STATUS Reg.TMB_HOLD
  omega

theorem State.txStamp_bmca : (s.bmca d).txStamp p = s.txStamp p := by
  obtain ⟨now, -⟩ := s.bmca_keeps d
  rw [State.txStamp, State.txStamp, now, State.fld_congr (s.reg_bmca d (.inr (.inr (by unfold Reg.TMB_PTP_LAT; omega))))]

theorem State.ptpMute_bmca : (s.bmca d).ptpMute ↔ s.ptpMute := by
  rw [State.ptpMute, s.reg_bmca d (.inl rfl), s.reg_bmca d (.inr (.inl rfl)), State.ptpMute]

/-- A message of port p that carries no time of its own. -/
def State.plainMsg (kind : PtpKind) (d : Nat) : PtpMsg := { kind, port := p, dom := d, stamp := s.txStamp p, origin := 0, correction := 0 }

theorem exec_ptpSyncTransmit : exec (.ptpSyncTransmit p d) s = .next (if s.ptpOn d p then
    if Nat.beq ((s.bmca d).ptpRole d p) 1 then
      (s.bmca d).ptpSend ((s.bmca d).plainMsg p (.announce ((s.bmca d).announceOn d p)) d ::
        (if (s.bmca d).hasTime d then [(s.bmca d).plainMsg p .sync d, (s.bmca d).followUp d p] else []))
    else s.bmca d
  else s) := (rfl)

theorem State.plainMsg_bmca (kind : PtpKind) (e : Nat) : (s.bmca d).plainMsg p kind e = s.plainMsg p kind e := by
  rw [State.plainMsg, s.txStamp_bmca, State.plainMsg]

/-- The port's request waits for its response. -/
def State.requestWaits : State :=
  { s with gw := { s.gw with gptp := { s.gw.gptp with reqAt := s.gw.gptp.reqAt.set p (some (s.txStamp p)) } } }

theorem exec_pdelayReqTransmit : exec (.pdelayReqTransmit p) s =
    .next (if s.pdelayOn p && !(decide (s.ptpId = 0#64)) then (s.requestWaits p).ptpSend [s.plainMsg p .pdelayReq 0] else s) := (rfl)

theorem State.relay_ofNat : s.gw.gptp.relay[Fin.ofNat 4 d] = s.gw.gptp.relay[d] :=
  congrArg (fun k : Fin 4 => s.gw.gptp.relay[k]) (Fin.ofNat_val_eq_self d)

theorem State.hasTime_iff : s.hasTime d = true ↔ if s.ptpSlave d = none then s.tmbSource ≠ 0 else s.gw.gptp.relay[d] ≠ none := by
  unfold State.hasTime
  cases s.ptpSlave d with
  | none => simp [← beq_eq_natBeq]
  | some q =>
    rw [s.relay_ofNat d]
    simp [Option.isSome_iff_ne_none]

theorem State.followUp_kind : (s.followUp d p).kind = .followUp ∧ (s.followUp d p).stamp = s.txStamp p := by
  unfold State.followUp
  split <;> exact ⟨rfl, rfl⟩

theorem State.followUp_own (own : s.ptpSlave d = none) : (s.followUp d p).origin = s.txStamp p ∧ (s.followUp d p).correction = 0 := by
  unfold State.followUp
  rw [own]
  split
  next slave => exact nomatch slave
  · exact ⟨rfl, rfl⟩

theorem State.followUp_relayed {m : RelaySync} {q : Nat} (kept : s.gw.gptp.relay[d] = some m) (slave : s.ptpSlave d = some q) :
    (s.followUp d p).origin = m.origin ∧ (s.followUp d p).correction = m.correction + 16 * ((s.linkDelay q).getD 0 : Nat) +
      ((s.txStamp p : Int) - m.rx) + ((s.txStamp p : Int) - m.rx) * s.gw.gptp.ratios[Fin.ofNat 14 q] / 1000000000 := by
  unfold State.followUp
  rw [s.relay_ofNat d, kept, slave]
  exact ⟨rfl, rfl⟩

end

end Sys2Proof.Machine
end

section
open Sys2Proof Sys2Proof.Machine

/-- Settles O35: a level that is seen acts at its pin alone; a Sync on the slave port of the followed domain is an offset; the best of the
Announces is found port by port; and what a port sends is what the roles and the times then say. -/
theorem capturesAndOffsets : Obligations.CapturesAndOffsets := by
  refine ⟨fun s n high width => ?_, fun s n => ⟨fun e active stuck set late => ?_, fun quiet => ?_, ?_⟩, fun s n req grants => ?_,
    fun s p d m => ?_, fun s p d m => ?_, fun s d q k free slave => ?_, fun s p rx => ?_, fun s p d => ?_⟩
  · intro p en edge close
    obtain ⟨t, run, only, narrow, unseen, seen⟩ := captureEdge_shows s n high width
    refine ⟨t, run, only.now, only.mem, only.others, narrow, unseen, fun wide => ?_⟩
    have taken : LevelTaken s n edge t := seen wide
    unfold LevelTaken at taken
    by_cases level : edge = false
    · rw [if_pos level] at taken ⊢
      exact taken
    · rw [if_neg level] at taken ⊢
      by_cases active : p.active.isSome = true
      · rw [if_pos active] at taken ⊢
        exact taken
      · rw [if_neg active] at taken ⊢
        obtain ⟨now, stuck, captured, lost⟩ := taken
        refine ⟨now, stuck, ?_⟩
        by_cases free : en = true ∧ ¬ close ∧ p.fifo.length < 16
        · rw [if_pos free]
          obtain ⟨fifo, lastEdge, fill, cap, ovr⟩ := captured free
          exact ⟨fifo, lastEdge, fill, cap, ovr⟩
        · rw [if_neg free]
          obtain ⟨fifo, lastEdge, on, off⟩ := lost free
          exact ⟨fifo, lastEdge, on, off⟩
  · refine ⟨_, exec_captureStuck ⟨e, active, stuck, set, late⟩, ?_, State.errs_stuckRaised, State.pin_stuckRaised,
      exec_captureStuck_none ?_⟩
    · exact State.bitAt_tmbEvent ⟨by decide, by decide⟩ n.isLt
    · rintro ⟨_, -, clear, -⟩
      rw [State.pin_stuckRaised] at clear
      exact nomatch clear
  · refine exec_captureStuck_none ?_
    rintro ⟨e, active, stuck, set, -⟩
    rcases quiet with h | h | h
    · exact absurd (h.symm.trans stuck) (by decide)
    · exact nomatch h.symm.trans active
    · exact set h
  · show Host.Outcome.next (s.pinInactive n) = _
    simp only [State.pinInactive, State.setPin, Fin.ofNat_val_eq_self]
  · have run : exec (.tmbCapNsRead n req) s = .next (s.busRead req (Reg.TMB_CAP_NS n) (·.capNs n) (·.popCapture n)) := rfl
    rw [State.busRead_okay grants.2 grants.1] at run
    have same : (s.relabel req).pin n = s.pin n := s.relabel_apart req (·.pin n) fun _ => rfl
    cases held : (s.pin n).fifo with
    | nil =>
      have empty : ((s.relabel req).pin n).fifo = [] := same ▸ held
      rw [State.capNs_nil empty, State.popCapture_nil empty] at run
      exact run
    | cons c cs =>
      have full : ((s.relabel req).pin n).fifo = c :: cs := same ▸ held
      rw [State.capNs_cons full, State.popCapture_cons full] at run
      obtain ⟨fifo, lo, hi, fill, cap, mem⟩ := State.captureTaken_shows (s := s.relabel req) (n := n) (c := c) (cs := cs)
      exact ⟨_, run, rfl, fifo, lo, hi, fill, cap, mem.trans (s.relabel_mem req)⟩
  · intro rx
    by_cases slave : s.ptpOn d p = true ∧ s.ptpRole d p = 2
    · rw [if_pos slave]
      by_cases followed : s.tmbSource = 0 ∧ s.fld Reg.TMB_CTRL Fld.TMB_CTRL_DOMAIN = d
      · simp only [if_pos followed]
        cases delayed : s.linkDelay p with
        | none => exact ⟨_, exec_syncReceived_undelayed slave followed delayed, rfl, rfl, State.relay_syncKept, rfl, rfl⟩
        | some delay => exact syncReceived_offset slave followed delayed
      · simp only [if_neg followed]
        exact ⟨_, exec_syncReceived_apart slave followed, rfl, rfl, State.relay_syncKept, rfl, rfl⟩
    · rw [if_neg slave]
      exact exec_syncReceived_none slave
  · intro g u ext
    have run := exec_announceReceived s d p m
    by_cases on : s.ptpOn d p = true
    · rw [if_pos on] at run ⊢
      obtain ⟨now, mem, -, heard, gw⟩ := (s.announceHeard d p m).bmca_keeps d
      obtain ⟨others, mine⟩ := (s.announceHeard d p m).rolesChosen_roles d
      obtain ⟨-, hi, lo, self⟩ := (s.announceHeard d p m).bmca_shows d
      refine ⟨_, run, now, mem, ?_, fun e other => ?_, fun k => ?_, hi, lo, self⟩
      · rw [heard]
        exact s.heard_announceHeard d p m
      · rw [gw]
        exact others e other
      · rw [gw]
        exact mine k
    · rw [if_neg on] at run ⊢
      exact run
  · obtain ⟨b, best, wins⟩ := State.bmcaRole_slave free slave
    have bound := s.bestPort_best d
    rw [best] at bound
    obtain ⟨-, heard, least⟩ := bound
    refine ⟨fun also => ?_, b, heard, wins, fun a on => least k k.isLt a on⟩
    obtain ⟨c, best', -⟩ := State.bmcaRole_slave free also
    exact Fin.ext (congrArg Prod.fst (Option.some.inj (best'.symm.trans best)))
  · intro g t4 only
    by_cases on : p.val < 12 ∧ s.flag (Reg.TSW_PTP_PORT_CFG p) Fld.TSW_PTP_PORT_CFG_EN = true
    · rw [if_pos on]
      have measures : s.pdelayOn p = true := State.pdelayOn_iff.2 on
      refine ⟨exec_pdelayReceived_request measures,
        ⟨_, exec_pdelayReceived_lost measures, State.linkDelay_lost on.1, Vector.getElem_set_self _, rfl,
          fun a other => State.reg_setReg_other other⟩,
        fun t2 t3 => ⟨exec_pdelayReceived_stray measures, fun t1 waits => ?_⟩⟩
      refine ⟨_, _, exec_pdelayReceived_response measures waits, State.linkDelay_valid on.1 (meanDelay_lt ..),
        ⟨rfl, fun a other => State.reg_setReg_other other⟩, Vector.getElem_set_self _, Vector.getElem_set_self _, ?_⟩
      intro ratio trip
      have rate : ratio = rateRatio s.gw.gptp.peer[p] t3 (s.rxStamp p rx) := Vector.getElem_set_self _
      refine ⟨fun alone => ?_, fun t3' t4' known later => ?_, meanDelay_half ?_⟩
      · exact rate.trans (congrArg (rateRatio · t3 (s.rxStamp p rx)) alone)
      · exact (rate.trans (congrArg (rateRatio · t3 (s.rxStamp p rx)) known)).trans (rateRatio_pair later)
      · rw [← rate]
        rfl
    · rw [if_neg on]
      exact fun m => exec_pdelayReceived_off (fun h => on (State.pdelayOn_iff.1 h)) m rx
  · intro mute tx sends msg u
    obtain ⟨kind, stamp⟩ := s.followUp_kind p d
    refine ⟨?_, s.hasTime_iff d, kind, stamp, s.followUp_own p d, fun m q => s.followUp_relayed p d, ?_⟩
    · have sent (ms : List PtpMsg) : u.ptpSend ms = sends u ms := by
        by_cases quiet : mute
        · exact (State.ptpSend_mute ((s.ptpMute_bmca d).2 quiet) ms).trans (if_pos quiet).symm
        · exact (State.ptpSend_named (fun h => quiet ((s.ptpMute_bmca d).1 h)) ms).trans (if_neg quiet).symm
      rw [exec_ptpSyncTransmit, s.plainMsg_bmca, s.plainMsg_bmca]
      exact congrArg Host.Outcome.next (if_congr Iff.rfl (if_congr (iff_of_eq (Nat.beq_eq ..)) (sent _) rfl) rfl)
    · have asks : (s.pdelayOn p && !(decide (s.ptpId = 0#64))) = true ↔
          p.val < 12 ∧ s.flag (Reg.TSW_PTP_PORT_CFG p) Fld.TSW_PTP_PORT_CFG_EN = true ∧ ¬ mute := by
        rw [Bool.and_eq_true, State.pdelayOn_iff, Bool.not_eq_true', decide_eq_false_iff_not, s.ptpId_eq_zero, and_assoc]
        rfl
      rw [exec_pdelayReqTransmit]
      by_cases sends : p.val < 12 ∧ s.flag (Reg.TSW_PTP_PORT_CFG p) Fld.TSW_PTP_PORT_CFG_EN = true ∧ ¬ mute
      · rw [if_pos sends, if_pos (asks.2 sends), State.ptpSend_named (s := s.requestWaits p) sends.2.2]
        rfl
      · rw [if_neg sends, if_neg fun h => sends (asks.1 h)]

end
